-- ==== Sys2Proof/Word.lean ====
section
/-! DEFINITION. The machine's words (00_scope.md, R1; R238): bytes, 32-bit instruction words and vector
elements, 64-bit scalar registers and record words, and the field of a word read as a number. -/
namespace Sys2Proof

/-- Eight bits of memory. -/
abbrev Byte := BitVec 8

/-- One instruction word, or one vector register element of a lane (R18, R238). -/
abbrev Word := BitVec 32

/-- One scalar or lamplighter register, or one word of a record (R18). -/
abbrev DWord := BitVec 64

/-- Bits [hi:lo] of a number, both ends inclusive (R2). -/
def fld (w hi lo : Nat) : Nat := w / 2 ^ lo % 2 ^ (hi - lo + 1)

end Sys2Proof
end

