-- ==== Sys2Proof/Config.lean ====
section
/-! DEFINITION. What the manual leaves to the implementation or to chance: constants with no body, so that no proof
can learn their values. The model applies the ones that vary to State.tick, which every step advances. -/
namespace Sys2Proof.Config

/-- Clocks that pass in the step with this tick (timing is not modelled; R3, R22). (DEDUCED: log 3; DESIGN CHOICE: log 11) -/
opaque elapsed : Nat → Nat

/-- Which of the due moves comes next, at this tick (the manual fixes no order among agents: R86, R95). (DESIGN CHOICE: log 2) -/
opaque choice : Nat → Nat

/-- Whether a cached copy that may serve an access does serve it, at this tick (R90, R190). (DESIGN CHOICE: log 13) -/
opaque useCopy : Nat → Bool

/-- Whether the host link answers an access with an error, at this tick (R214, R439). (DESIGN CHOICE: log 14) -/
opaque hostError : Nat → Bool

/-- Whether the peer refuses an access, at this tick (R439). (DESIGN CHOICE: log 14) -/
opaque peerRefuses : Nat → Bool

/-- The host physical address of the HDM range's first byte (R431). (DEDUCED: log 21) -/
opaque hdmBase : Nat

/-- The memory bank of an address at a controller, and the channel of an address of the capacity tier (R440). (DESIGN CHOICE: log 16) -/
opaque bankOf : Nat → Nat
opaque channelOf : Nat → Nat

/-- How many refreshes a bank may postpone: the limit that the memory standard allows (R440). (DESIGN CHOICE: log 16) -/
opaque refreshLimit : Nat

/-- The refreshes that a bank has postponed, at this tick (R440). (DESIGN CHOICE: log 16) -/
opaque refreshesPostponed : Nat → Nat

/-- Frames that the scanned-out state of a recovery point takes, at this tick (R232). (DESIGN CHOICE: log 17) -/
opaque pointFrames : Nat → Nat

/-- The stationmaster firmware version (R443). (DESIGN CHOICE: log 18) -/
opaque firmwareVersion : BitVec 32

/-- The serial number, from the fuses (R443). (DESIGN CHOICE: log 18) -/
opaque serial : BitVec 64

/-- Measurements of the boot ROM, the firmware and the fuse state (R444). (DESIGN CHOICE: log 18) -/
opaque bootHash : BitVec 384
opaque firmwareHash : BitVec 384
opaque fuseHash : BitVec 384

/-- The key with which the boot ROM verifies the stationmaster firmware, and the firmware's signature (R26, R445). (DESIGN CHOICE: log 18) -/
opaque bootKey : Nat × Nat
opaque firmwareSignature : Nat × Nat

/-- The device identity key, and the nonce with which it signs a hash (R26, R444). (DESIGN CHOICE: log 18) -/
opaque identityKey : Nat
opaque signNonce : BitVec 384 → Nat

/-- The bring-up step that fails, of steps 2 to 5, as its number; any other number when those succeed (R445). (DEDUCED: log 19) -/
opaque bringUpFailure : Nat

/-- The port mask's choice for a line of a peer: a hash of the line offset (R438). (DESIGN CHOICE: log 20) -/
opaque railHash : Nat → Nat

/-- The clocks that a sampled access queued in a unit (R426), for each use. (DESIGN CHOICE: log 15) -/
opaque queueTime : Nat → Nat

end Sys2Proof.Config
end

