-- ==== Sys2Proof/Syntax.lean ====
section
/-! DEFINITION. The instructions and steps of the KM-1: one constructor for each row of the opcode table. A
constructor of an encoded word carries the word's fields, the switch marker S (R238) first; a constructor of a step
that has no encoding (host writes, mailbox commands, the device's own events) carries what names the step. -/
namespace Sys2Proof

/-- A memory scope (R88). -/
inductive Scope where
  | group | core | cluster | die | device | system
  deriving DecidableEq, Repr

/-- The type code shared by conversions, compares and reductions (R247). -/
inductive TyCode where
  | s8 | s16 | s32 | s64 | n8 | n16 | n32 | n64 | f32 | f16 | bf16 | b32
  deriving DecidableEq, Repr

/-- A comparison of `cmp` (R248). -/
inductive CmpCond where
  | eq | ne | lt | le | gt | ge | uno | ord
  deriving DecidableEq, Repr

/-- The element type of a floating-point word (R246, R247). -/
inductive FTy where
  | f32 | h2 | b2
  deriving DecidableEq, Repr

/-- The packed pair of `pk2` and `upk` (R247). -/
inductive Pair where
  | h2 | b2
  deriving DecidableEq, Repr

/-- The access type of `ld` (R252). -/
inductive LdTy where
  | n8 | s8 | n16 | s16 | b32 | b64 | b128
  deriving DecidableEq, Repr

/-- The access type of `st` (R252). -/
inductive StTy where
  | b8 | b16 | b32 | b64 | b128
  deriving DecidableEq, Repr

/-- The operation of an atomic (R253). -/
inductive AtomOp where
  | add | and | or | xor | minS | maxS | swap | cas
  deriving DecidableEq, Repr

/-- The part of a tile that `tld` and `tst` move (R256). -/
inductive Part where
  | data | scale | both
  deriving DecidableEq, Repr

/-- The summation shape of `mma` (R150). -/
inductive Shape where
  | lin | chunk | tree | exact
  deriving DecidableEq, Repr

/-- The bit operation of `mmb` (R153). -/
inductive MmbOp where
  | xor | and
  deriving DecidableEq, Repr

/-- The direction of `acvt` (R353). -/
inductive AcvtDir where
  | s32ToF32 | f32ToS32
  deriving DecidableEq, Repr

/-- The layout of `cpy.ten`; code 3 is reserved, and a word with it is no instruction (R257, R264). (DEDUCED: log 25) -/
inductive Lay where
  | none | transpose | reblock | three
  deriving DecidableEq, Repr

/-- The reduction of `cpy.red` (R257). -/
inductive Rop where
  | addS32 | addF32 | addBf16 | maxS32 | minS32 | maxF32 | minF32
  deriving DecidableEq, Repr

/-- The level of `pfch` (R378). -/
inductive PfLevel where
  | cache | port | tier
  deriving DecidableEq, Repr

/-- The cache policy of `cach` (R379). -/
inductive CachePol where
  | normal | stream | keep | bypass
  deriving DecidableEq, Repr

/-- The field of a capability that `kget` reads (R339). -/
inductive CapField where
  | handle | rights | kind | low | len
  deriving DecidableEq, Repr

/-- One instruction word or one step of the device. -/
inductive Instr where
  /-- Scalar add of two registers, modulo 2^64. (R269) -/
  | add (S : Bool) (d : BitVec 5) (a : BitVec 5) (b : BitVec 5)
  /-- Scalar subtract, modulo 2^64. (R269) -/
  | sub (S : Bool) (d : BitVec 5) (a : BitVec 5) (b : BitVec 5)
  /-- Scalar multiply, low 64 bits. (R269) -/
  | mul (S : Bool) (d : BitVec 5) (a : BitVec 5) (b : BitVec 5)
  /-- Scalar signed multiply, high 64 bits. (R269) -/
  | mulhS (S : Bool) (d : BitVec 5) (a : BitVec 5) (b : BitVec 5)
  /-- Scalar unsigned multiply, high 64 bits. (R269) -/
  | mulhN (S : Bool) (d : BitVec 5) (a : BitVec 5) (b : BitVec 5)
  /-- Scalar signed divide by the rules of R121. (R269) -/
  | divS (S : Bool) (d : BitVec 5) (a : BitVec 5) (b : BitVec 5)
  /-- Scalar unsigned divide. (R269) -/
  | divN (S : Bool) (d : BitVec 5) (a : BitVec 5) (b : BitVec 5)
  /-- Scalar signed remainder. (R269) -/
  | remS (S : Bool) (d : BitVec 5) (a : BitVec 5) (b : BitVec 5)
  /-- Scalar unsigned remainder. (R269) -/
  | remN (S : Bool) (d : BitVec 5) (a : BitVec 5) (b : BitVec 5)
  /-- Scalar bitwise and. (R269) -/
  | and (S : Bool) (d : BitVec 5) (a : BitVec 5) (b : BitVec 5)
  /-- Scalar bitwise or. (R269) -/
  | or (S : Bool) (d : BitVec 5) (a : BitVec 5) (b : BitVec 5)
  /-- Scalar bitwise xor. (R269) -/
  | xor (S : Bool) (d : BitVec 5) (a : BitVec 5) (b : BitVec 5)
  /-- Scalar shift left by b[5:0]. (R269) -/
  | shl (S : Bool) (d : BitVec 5) (a : BitVec 5) (b : BitVec 5)
  /-- Scalar logical shift right. (R269) -/
  | shr (S : Bool) (d : BitVec 5) (a : BitVec 5) (b : BitVec 5)
  /-- Scalar arithmetic shift right. (R269) -/
  | sra (S : Bool) (d : BitVec 5) (a : BitVec 5) (b : BitVec 5)
  /-- Scalar signed minimum. (R269) -/
  | minS (S : Bool) (d : BitVec 5) (a : BitVec 5) (b : BitVec 5)
  /-- Scalar signed maximum. (R269) -/
  | maxS (S : Bool) (d : BitVec 5) (a : BitVec 5) (b : BitVec 5)
  /-- Scalar unsigned minimum. (R269) -/
  | minN (S : Bool) (d : BitVec 5) (a : BitVec 5) (b : BitVec 5)
  /-- Scalar unsigned maximum. (R269) -/
  | maxN (S : Bool) (d : BitVec 5) (a : BitVec 5) (b : BitVec 5)
  /-- Scalar signed set-less-than. (R269) -/
  | sltS (S : Bool) (d : BitVec 5) (a : BitVec 5) (b : BitVec 5)
  /-- Scalar unsigned set-less-than. (R269) -/
  | sltN (S : Bool) (d : BitVec 5) (a : BitVec 5) (b : BitVec 5)
  /-- Scalar set-if-equal. (R269) -/
  | seq (S : Bool) (d : BitVec 5) (a : BitVec 5) (b : BitVec 5)
  /-- Scalar signed bit-field extract. (R270) -/
  | bfxS (S : Bool) (d : BitVec 5) (a : BitVec 5) (b : BitVec 5)
  /-- Scalar unsigned bit-field extract. (R270) -/
  | bfxN (S : Bool) (d : BitVec 5) (a : BitVec 5) (b : BitVec 5)
  /-- Scalar bit-field insert into sd. (R270) -/
  | bfi (S : Bool) (d : BitVec 5) (a : BitVec 5) (b : BitVec 5)
  /-- Scalar count leading zeros. (R269) -/
  | clz (S : Bool) (d : BitVec 5) (a : BitVec 5)
  /-- Scalar count trailing zeros. (R269) -/
  | ctz (S : Bool) (d : BitVec 5) (a : BitVec 5)
  /-- Scalar population count. (R269) -/
  | popc (S : Bool) (d : BitVec 5) (a : BitVec 5)
  /-- Lamplighter indirect jump writing the return offset. (R271) -/
  | jalr (S : Bool) (d : BitVec 5) (a : BitVec 5)
  /-- Scalar add immediate. (R272) -/
  | addi (S : Bool) (d : BitVec 5) (a : BitVec 5) (i : BitVec 12)
  /-- Scalar and immediate. (R272) -/
  | andi (S : Bool) (d : BitVec 5) (a : BitVec 5) (i : BitVec 12)
  /-- Scalar or immediate. (R272) -/
  | ori (S : Bool) (d : BitVec 5) (a : BitVec 5) (i : BitVec 12)
  /-- Scalar xor immediate. (R272) -/
  | xori (S : Bool) (d : BitVec 5) (a : BitVec 5) (i : BitVec 12)
  /-- Scalar shift left immediate. (R272) -/
  | shli (S : Bool) (d : BitVec 5) (a : BitVec 5) (i : BitVec 12)
  /-- Scalar logical shift right immediate. (R272) -/
  | shri (S : Bool) (d : BitVec 5) (a : BitVec 5) (i : BitVec 12)
  /-- Scalar arithmetic shift right immediate. (R272) -/
  | srai (S : Bool) (d : BitVec 5) (a : BitVec 5) (i : BitVec 12)
  /-- Scalar signed set-less-than immediate. (R272) -/
  | sltiS (S : Bool) (d : BitVec 5) (a : BitVec 5) (i : BitVec 12)
  /-- Loads imm20 shifted left by 12 into sd. (R273) -/
  | luh (S : Bool) (d : BitVec 5) (i : BitVec 20)
  /-- Scalar load of one byte, zero-extended. (R274) -/
  | ldsN8 (S : Bool) (d : BitVec 5) (k : BitVec 4) (a : BitVec 5) (i : BitVec 8)
  /-- Scalar load of two bytes, zero-extended. (R274) -/
  | ldsN16 (S : Bool) (d : BitVec 5) (k : BitVec 4) (a : BitVec 5) (i : BitVec 8)
  /-- Scalar load of four bytes, zero-extended. (R274) -/
  | ldsN32 (S : Bool) (d : BitVec 5) (k : BitVec 4) (a : BitVec 5) (i : BitVec 8)
  /-- Scalar load of eight bytes. (R274) -/
  | ldsB64 (S : Bool) (d : BitVec 5) (k : BitVec 4) (a : BitVec 5) (i : BitVec 8)
  /-- Scalar store of one byte. (R274) -/
  | stsB8 (S : Bool) (d : BitVec 5) (k : BitVec 4) (a : BitVec 5) (i : BitVec 8)
  /-- Scalar store of two bytes. (R274) -/
  | stsB16 (S : Bool) (d : BitVec 5) (k : BitVec 4) (a : BitVec 5) (i : BitVec 8)
  /-- Scalar store of four bytes. (R274) -/
  | stsB32 (S : Bool) (d : BitVec 5) (k : BitVec 4) (a : BitVec 5) (i : BitVec 8)
  /-- Scalar store of eight bytes. (R274) -/
  | stsB64 (S : Bool) (d : BitVec 5) (k : BitVec 4) (a : BitVec 5) (i : BitVec 8)
  /-- Lamplighter branch if equal. (R275) -/
  | beq (S : Bool) (a : BitVec 5) (b : BitVec 5) (o : BitVec 12)
  /-- Lamplighter branch if not equal. (R275) -/
  | bne (S : Bool) (a : BitVec 5) (b : BitVec 5) (o : BitVec 12)
  /-- Lamplighter branch if signed less. (R275) -/
  | bltS (S : Bool) (a : BitVec 5) (b : BitVec 5) (o : BitVec 12)
  /-- Lamplighter branch if signed greater or equal. (R275) -/
  | bgeS (S : Bool) (a : BitVec 5) (b : BitVec 5) (o : BitVec 12)
  /-- Lamplighter branch if unsigned less. (R275) -/
  | bltN (S : Bool) (a : BitVec 5) (b : BitVec 5) (o : BitVec 12)
  /-- Lamplighter branch if unsigned greater or equal. (R275) -/
  | bgeN (S : Bool) (a : BitVec 5) (b : BitVec 5) (o : BitVec 12)
  /-- Lamplighter jump and link. (R275) -/
  | jal (S : Bool) (d : BitVec 5) (o : BitVec 20)
  /-- Sends one word to a group's issue queue, blocking when it cannot. (R278) -/
  | emit (S : Bool) (d : BitVec 5) (a : BitVec 5) (b : BitVec 5)
  /-- Sends one word to a group's issue queue without blocking. (R278) -/
  | emitnb (S : Bool) (d : BitVec 5) (a : BitVec 5) (b : BitVec 5)
  /-- Appends a word to the open composition buffer. (R280) -/
  | emits (S : Bool) (d : BitVec 5) (b : BitVec 5)
  /-- Opens the composition buffer for a kernel and station set. (R279) -/
  | sopen (S : Bool) (a : BitVec 5) (b : BitVec 5)
  /-- Closes and installs the buffer as a station, serving a compose request. (R281) -/
  | stins (S : Bool) (d : BitVec 5) (a : BitVec 5)
  /-- Declines a compose request and discards any open buffer. (R283) -/
  | sdecl (S : Bool) (d : BitVec 5) (a : BitVec 5)
  /-- Takes the head event as the taken record, or sleeps until one arrives. (R284) -/
  | gwait (S : Bool) (d : BitVec 5) (a : BitVec 5)
  /-- Reads one word of the taken record. (R284) -/
  | grec (S : Bool) (d : BitVec 5) (a : BitVec 5)
  /-- Reads the state a selector names in a parked group. (R288) -/
  | gread (S : Bool) (d : BitVec 5) (a : BitVec 5) (b : BitVec 5)
  /-- Writes the state a selector names in a parked group. (R288) -/
  | gwrite (S : Bool) (d : BitVec 5) (a : BitVec 5) (b : BitVec 5)
  /-- Resumes a parked or halted group in retry or skip mode. (R289) -/
  | gres (S : Bool) (a : BitVec 5) (b : BitVec 5)
  /-- Retires a group at once. (R290) -/
  | gkill (S : Bool) (d : BitVec 5) (a : BitVec 5)
  /-- Reads a launch record and enters it into the thread's device launch queue. (R291) -/
  | launch (S : Bool) (d : BitVec 5) (a : BitVec 5) (k : BitVec 4)
  /-- Vector 32-bit add. (R296) -/
  | addV (S : Bool) (d : BitVec 7) (a : BitVec 7) (b : BitVec 7)
  /-- Vector 32-bit subtract. (R296) -/
  | subV (S : Bool) (d : BitVec 7) (a : BitVec 7) (b : BitVec 7)
  /-- Vector 32-bit multiply, low half. (R296) -/
  | mulV (S : Bool) (d : BitVec 7) (a : BitVec 7) (b : BitVec 7)
  /-- Vector signed multiply, high half. (R296) -/
  | mulhSV (S : Bool) (d : BitVec 7) (a : BitVec 7) (b : BitVec 7)
  /-- Vector unsigned multiply, high half. (R296) -/
  | mulhNV (S : Bool) (d : BitVec 7) (a : BitVec 7) (b : BitVec 7)
  /-- Vector bitwise and. (R296) -/
  | andV (S : Bool) (d : BitVec 7) (a : BitVec 7) (b : BitVec 7)
  /-- Vector bitwise or. (R296) -/
  | orV (S : Bool) (d : BitVec 7) (a : BitVec 7) (b : BitVec 7)
  /-- Vector bitwise xor. (R296) -/
  | xorV (S : Bool) (d : BitVec 7) (a : BitVec 7) (b : BitVec 7)
  /-- Vector shift left. (R296) -/
  | shlV (S : Bool) (d : BitVec 7) (a : BitVec 7) (b : BitVec 7)
  /-- Vector logical shift right. (R296) -/
  | shrV (S : Bool) (d : BitVec 7) (a : BitVec 7) (b : BitVec 7)
  /-- Vector arithmetic shift right. (R296) -/
  | sraV (S : Bool) (d : BitVec 7) (a : BitVec 7) (b : BitVec 7)
  /-- Vector signed minimum. (R296) -/
  | minSV (S : Bool) (d : BitVec 7) (a : BitVec 7) (b : BitVec 7)
  /-- Vector signed maximum. (R296) -/
  | maxSV (S : Bool) (d : BitVec 7) (a : BitVec 7) (b : BitVec 7)
  /-- Vector unsigned minimum. (R296) -/
  | minNV (S : Bool) (d : BitVec 7) (a : BitVec 7) (b : BitVec 7)
  /-- Vector unsigned maximum. (R296) -/
  | maxNV (S : Bool) (d : BitVec 7) (a : BitVec 7) (b : BitVec 7)
  /-- Vector absolute difference of signed values. (R296) -/
  | absd (S : Bool) (d : BitVec 7) (a : BitVec 7) (b : BitVec 7)
  /-- Vector signed saturating add. (R296) -/
  | addsS (S : Bool) (d : BitVec 7) (a : BitVec 7) (b : BitVec 7)
  /-- Vector unsigned saturating add. (R296) -/
  | addsN (S : Bool) (d : BitVec 7) (a : BitVec 7) (b : BitVec 7)
  /-- Vector signed saturating subtract. (R296) -/
  | subsS (S : Bool) (d : BitVec 7) (a : BitVec 7) (b : BitVec 7)
  /-- Vector unsigned saturating subtract. (R296) -/
  | subsN (S : Bool) (d : BitVec 7) (a : BitVec 7) (b : BitVec 7)
  /-- Vector unsigned rounded average. (R296) -/
  | avgN (S : Bool) (d : BitVec 7) (a : BitVec 7) (b : BitVec 7)
  /-- Vector count leading zeros. (R296) -/
  | clzV (S : Bool) (d : BitVec 7) (a : BitVec 7)
  /-- Vector population count. (R296) -/
  | popcV (S : Bool) (d : BitVec 7) (a : BitVec 7)
  /-- Vector bit reverse. (R296) -/
  | brev (S : Bool) (d : BitVec 7) (a : BitVec 7)
  /-- Vector 64-bit add of register pairs. (R296) -/
  | add64 (S : Bool) (d : BitVec 7) (a : BitVec 7) (b : BitVec 7)
  /-- Vector 64-bit subtract of register pairs. (R296) -/
  | sub64 (S : Bool) (d : BitVec 7) (a : BitVec 7) (b : BitVec 7)
  /-- Vector signed widening multiply into a pair. (R296) -/
  | mulwS (S : Bool) (d : BitVec 7) (a : BitVec 7) (b : BitVec 7)
  /-- Vector unsigned widening multiply into a pair. (R296) -/
  | mulwN (S : Bool) (d : BitVec 7) (a : BitVec 7) (b : BitVec 7)
  /-- Vector signed 4-byte dot product accumulated into vd. (R296) -/
  | dot4S8 (S : Bool) (d : BitVec 7) (a : BitVec 7) (b : BitVec 7)
  /-- Vector unsigned 4-byte dot product accumulated into vd. (R296) -/
  | dot4N8 (S : Bool) (d : BitVec 7) (a : BitVec 7) (b : BitVec 7)
  /-- Vector bit-field extract. (R297) -/
  | bfxV (S : Bool) (d : BitVec 7) (a : BitVec 7) (b : BitVec 7)
  /-- Vector bit-field insert. (R297) -/
  | bfiV (S : Bool) (d : BitVec 7) (a : BitVec 7) (b : BitVec 7)
  /-- Vector add immediate. (R298) -/
  | addiV (S : Bool) (d : BitVec 7) (a : BitVec 7) (i : BitVec 8)
  /-- Vector and immediate. (R298) -/
  | andiV (S : Bool) (d : BitVec 7) (a : BitVec 7) (i : BitVec 8)
  /-- Vector or immediate. (R298) -/
  | oriV (S : Bool) (d : BitVec 7) (a : BitVec 7) (i : BitVec 8)
  /-- Vector xor immediate. (R298) -/
  | xoriV (S : Bool) (d : BitVec 7) (a : BitVec 7) (i : BitVec 8)
  /-- Vector shift left immediate. (R298) -/
  | shliV (S : Bool) (d : BitVec 7) (a : BitVec 7) (i : BitVec 8)
  /-- Vector logical shift right immediate. (R298) -/
  | shriV (S : Bool) (d : BitVec 7) (a : BitVec 7) (i : BitVec 8)
  /-- Vector arithmetic shift right immediate. (R298) -/
  | sraiV (S : Bool) (d : BitVec 7) (a : BitVec 7) (i : BitVec 8)
  /-- Vector multiply by immediate. (R298) -/
  | muli (S : Bool) (d : BitVec 7) (a : BitVec 7) (i : BitVec 8)
  /-- F32 add under the lane's FMODE. (R299) -/
  | faddF32 (S : Bool) (d : BitVec 7) (a : BitVec 7) (b : BitVec 7)
  /-- Packed F16 add. (R299) -/
  | faddH2 (S : Bool) (d : BitVec 7) (a : BitVec 7) (b : BitVec 7)
  /-- Packed BF16 add. (R299) -/
  | faddB2 (S : Bool) (d : BitVec 7) (a : BitVec 7) (b : BitVec 7)
  /-- F32 subtract. (R299) -/
  | fsubF32 (S : Bool) (d : BitVec 7) (a : BitVec 7) (b : BitVec 7)
  /-- Packed F16 subtract. (R299) -/
  | fsubH2 (S : Bool) (d : BitVec 7) (a : BitVec 7) (b : BitVec 7)
  /-- Packed BF16 subtract. (R299) -/
  | fsubB2 (S : Bool) (d : BitVec 7) (a : BitVec 7) (b : BitVec 7)
  /-- F32 multiply. (R299) -/
  | fmulF32 (S : Bool) (d : BitVec 7) (a : BitVec 7) (b : BitVec 7)
  /-- Packed F16 multiply. (R299) -/
  | fmulH2 (S : Bool) (d : BitVec 7) (a : BitVec 7) (b : BitVec 7)
  /-- Packed BF16 multiply. (R299) -/
  | fmulB2 (S : Bool) (d : BitVec 7) (a : BitVec 7) (b : BitVec 7)
  /-- F32 minimum by MINX. (R300) -/
  | fminF32 (S : Bool) (d : BitVec 7) (a : BitVec 7) (b : BitVec 7)
  /-- Packed F16 minimum. (R300) -/
  | fminH2 (S : Bool) (d : BitVec 7) (a : BitVec 7) (b : BitVec 7)
  /-- Packed BF16 minimum. (R300) -/
  | fminB2 (S : Bool) (d : BitVec 7) (a : BitVec 7) (b : BitVec 7)
  /-- F32 maximum by MINX. (R300) -/
  | fmaxF32 (S : Bool) (d : BitVec 7) (a : BitVec 7) (b : BitVec 7)
  /-- Packed F16 maximum. (R300) -/
  | fmaxH2 (S : Bool) (d : BitVec 7) (a : BitVec 7) (b : BitVec 7)
  /-- Packed BF16 maximum. (R300) -/
  | fmaxB2 (S : Bool) (d : BitVec 7) (a : BitVec 7) (b : BitVec 7)
  /-- F32 fused multiply-add va*vb+vd. (R301) -/
  | ffmaF32 (S : Bool) (d : BitVec 7) (a : BitVec 7) (b : BitVec 7)
  /-- Packed F16 fused multiply-add. (R301) -/
  | ffmaH2 (S : Bool) (d : BitVec 7) (a : BitVec 7) (b : BitVec 7)
  /-- Packed BF16 fused multiply-add. (R301) -/
  | ffmaB2 (S : Bool) (d : BitVec 7) (a : BitVec 7) (b : BitVec 7)
  /-- F32 fused multiply-subtract va*vb-vd. (R301) -/
  | ffmsF32 (S : Bool) (d : BitVec 7) (a : BitVec 7) (b : BitVec 7)
  /-- Packed F16 fused multiply-subtract. (R301) -/
  | ffmsH2 (S : Bool) (d : BitVec 7) (a : BitVec 7) (b : BitVec 7)
  /-- Packed BF16 fused multiply-subtract. (R301) -/
  | ffmsB2 (S : Bool) (d : BitVec 7) (a : BitVec 7) (b : BitVec 7)
  /-- F32 negated fused multiply-add vd-va*vb. (R301) -/
  | fnmaF32 (S : Bool) (d : BitVec 7) (a : BitVec 7) (b : BitVec 7)
  /-- Packed F16 negated fused multiply-add. (R301) -/
  | fnmaH2 (S : Bool) (d : BitVec 7) (a : BitVec 7) (b : BitVec 7)
  /-- Packed BF16 negated fused multiply-add. (R301) -/
  | fnmaB2 (S : Bool) (d : BitVec 7) (a : BitVec 7) (b : BitVec 7)
  /-- Widening F16 pair dot product added to F32 vd. (R302) -/
  | ffmawH (S : Bool) (d : BitVec 7) (a : BitVec 7) (b : BitVec 7)
  /-- Widening BF16 pair dot product added to F32 vd. (R302) -/
  | ffmawB (S : Bool) (d : BitVec 7) (a : BitVec 7) (b : BitVec 7)
  /-- Correctly rounded reciprocal. (R303) -/
  | frcp (S : Bool) (d : BitVec 7) (a : BitVec 7) (t : FTy)
  /-- Correctly rounded reciprocal square root. (R303) -/
  | frsqrt (S : Bool) (d : BitVec 7) (a : BitVec 7) (t : FTy)
  /-- Correctly rounded square root. (R303) -/
  | fsqrt (S : Bool) (d : BitVec 7) (a : BitVec 7) (t : FTy)
  /-- Correctly rounded 2^x. (R303) -/
  | fex2 (S : Bool) (d : BitVec 7) (a : BitVec 7) (t : FTy)
  /-- Correctly rounded log2 x. (R303) -/
  | flg2 (S : Bool) (d : BitVec 7) (a : BitVec 7) (t : FTy)
  /-- Correctly rounded sin(pi x). (R303) -/
  | fsinp (S : Bool) (d : BitVec 7) (a : BitVec 7) (t : FTy)
  /-- Correctly rounded cos(pi x). (R303) -/
  | fcosp (S : Bool) (d : BitVec 7) (a : BitVec 7) (t : FTy)
  /-- Correctly rounded tanh x. (R303) -/
  | ftanh (S : Bool) (d : BitVec 7) (a : BitVec 7) (t : FTy)
  /-- Correctly rounded x - floor(x). (R303) -/
  | ffrac (S : Bool) (d : BitVec 7) (a : BitVec 7) (t : FTy)
  /-- Writes the 10-bit class mask of each element. (R304) -/
  | fclass (S : Bool) (d : BitVec 7) (a : BitVec 7) (t : FTy)
  /-- Converts va from type sty to dty by R141. (R305) -/
  | cvt (S : Bool) (d : BitVec 7) (a : BitVec 7) (y : TyCode) (z : TyCode)
  /-- Encodes F32 into an MF code by a descriptor in sb. (R306) -/
  | cvtmfE (S : Bool) (d : BitVec 7) (a : BitVec 7) (b : BitVec 5)
  /-- Decodes an MF code to F32 by a descriptor in sb. (R306) -/
  | cvtmfD (S : Bool) (d : BitVec 7) (a : BitVec 7) (b : BitVec 5)
  /-- Narrows two F32 values into a packed F16 or BF16 pair. (R307) -/
  | pk2 (S : Bool) (d : BitVec 7) (a : BitVec 7) (b : BitVec 7) (t : Pair)
  /-- Widens one half of a packed pair to F32. (R307) -/
  | upk (S : Bool) (d : BitVec 7) (a : BitVec 7) (h : Bool) (t : Pair)
  /-- Writes a predicate with the truth of a comparison. (R308) -/
  | cmp (S : Bool) (p : BitVec 3) (c : CmpCond) (a : BitVec 7) (b : BitVec 7) (t : TyCode)
  /-- Tests va's float class against a mask in vb. (R308) -/
  | ftst (S : Bool) (p : BitVec 3) (a : BitVec 7) (b : BitVec 7) (t : TyCode)
  /-- Selects va or vb per lane by a predicate. (R309) -/
  | sel (S : Bool) (d : BitVec 7) (a : BitVec 7) (b : BitVec 7) (p : BitVec 3) (i : Bool)
  /-- Combines two predicates by a truth table. (R309) -/
  | plog (S : Bool) (d : BitVec 3) (t : BitVec 4) (a : BitVec 3) (b : BitVec 3)
  /-- Reads va from the lane named by vb. (R311) -/
  | shflIdx (S : Bool) (d : BitVec 7) (a : BitVec 7) (b : BitVec 7)
  /-- Reads va from lane L - d. (R311) -/
  | shflUp (S : Bool) (d : BitVec 7) (a : BitVec 7) (b : BitVec 7)
  /-- Reads va from lane L + d. (R311) -/
  | shflDn (S : Bool) (d : BitVec 7) (a : BitVec 7) (b : BitVec 7)
  /-- Reads va from lane L xor d. (R311) -/
  | shflXor (S : Bool) (d : BitVec 7) (a : BitVec 7) (b : BitVec 7)
  /-- Broadcasts va of one lane to all active lanes. (R311) -/
  | bcast (S : Bool) (d : BitVec 7) (a : BitVec 7) (b : BitVec 7)
  /-- Writes the predicate mask word of the lane's 32 lanes. (R312) -/
  | ballot (S : Bool) (d : BitVec 7) (p : BitVec 3)
  /-- Counts predicated lanes numbered below the lane. (R312) -/
  | vrank (S : Bool) (d : BitVec 7) (p : BitVec 3)
  /-- Counts predicated active lanes. (R312) -/
  | vcount (S : Bool) (d : BitVec 7) (p : BitVec 3)
  /-- Sets pd when any active lane's predicate holds. (R312) -/
  | vany (S : Bool) (d : BitVec 3) (p : BitVec 3)
  /-- Sets pd when every active lane's predicate holds. (R312) -/
  | vall (S : Bool) (d : BitVec 3) (p : BitVec 3)
  /-- Ordered add reduction over active lanes. (R313) -/
  | redadd (S : Bool) (d : BitVec 7) (a : BitVec 7) (t : TyCode)
  /-- Ordered maximum reduction. (R313) -/
  | redmax (S : Bool) (d : BitVec 7) (a : BitVec 7) (t : TyCode)
  /-- Ordered minimum reduction. (R313) -/
  | redmin (S : Bool) (d : BitVec 7) (a : BitVec 7) (t : TyCode)
  /-- Inclusive ordered add scan. (R313) -/
  | scanadd (S : Bool) (d : BitVec 7) (a : BitVec 7) (t : TyCode)
  /-- Copies va to vd bit for bit. (R316) -/
  | mov (S : Bool) (d : BitVec 7) (a : BitVec 7)
  /-- Copies sa[31:0] to vd in each active lane. (R316) -/
  | movs (S : Bool) (d : BitVec 7) (a : BitVec 5)
  /-- Writes a sign-extended immediate to vd. (R316) -/
  | movi (S : Bool) (d : BitVec 7) (i : BitVec 14)
  /-- Reads va of one lane into a scalar register. (R317) -/
  | rdlane (S : Bool) (d : BitVec 5) (a : BitVec 7) (b : BitVec 5)
  /-- Writes a scalar into vd of one active lane. (R317) -/
  | wrlane (S : Bool) (d : BitVec 7) (a : BitVec 5) (b : BitVec 5)
  /-- Writes the member position of the lane's block. (R316) -/
  | rdsp (S : Bool) (d : BitVec 7)
  /-- Writes 1 or 0 from a predicate. (R316) -/
  | movp (S : Bool) (d : BitVec 7) (p : BitVec 3)
  /-- Sets a predicate to va != 0. (R316) -/
  | setp (S : Bool) (d : BitVec 3) (a : BitVec 7)
  /-- Per-lane load through a capability. (R320) -/
  | ld (S : Bool) (d : BitVec 7) (k : BitVec 4) (a : BitVec 7) (t : LdTy) (i : BitVec 4)
  /-- Per-lane store through a capability. (R322) -/
  | st (S : Bool) (d : BitVec 7) (k : BitVec 4) (a : BitVec 7) (t : StTy) (i : BitVec 4)
  /-- 32-bit aggregated atomic returning old values. (R323) -/
  | atom (S : Bool) (d : BitVec 7) (k : BitVec 4) (a : BitVec 7) (o : AtomOp) (c : Scope)
  /-- 32-bit aggregated atomic returning nothing. (R323) -/
  | atomx (S : Bool) (d : BitVec 7) (k : BitVec 4) (a : BitVec 7) (o : AtomOp) (c : Scope)
  /-- 64-bit aggregated atomic returning old values. (R323) -/
  | atom64 (S : Bool) (d : BitVec 7) (k : BitVec 4) (a : BitVec 7) (o : AtomOp) (c : Scope)
  /-- 64-bit aggregated atomic returning nothing. (R323) -/
  | atomx64 (S : Bool) (d : BitVec 7) (k : BitVec 4) (a : BitVec 7) (o : AtomOp) (c : Scope)
  /-- Orders accesses of classes P before classes Q at a scope. (R97) -/
  | fence (S : Bool) (p : BitVec 6) (q : BitVec 6) (c : Scope)
  /-- Initialises a barrier word with EXPECTED. (R329) -/
  | barinit (S : Bool) (k : BitVec 4) (a : BitVec 5) (b : BitVec 5)
  /-- Makes a barrier arrival of count n. (R330) -/
  | barr (S : Bool) (k : BitVec 4) (a : BitVec 5) (c : Scope) (n : BitVec 5)
  /-- Waits until the barrier PHASE differs from a named bit. (R331) -/
  | barw (S : Bool) (k : BitVec 4) (a : BitVec 5) (b : BitVec 5) (c : Scope)
  /-- Arrives on a barrier and waits for the phase. (R332) -/
  | bars (S : Bool) (k : BitVec 4) (a : BitVec 5) (c : Scope) (n : BitVec 5)
  /-- Waits until a 64-bit word equals a value. (R333) -/
  | waitw (S : Bool) (k : BitVec 4) (a : BitVec 5) (b : BitVec 5)
  /-- Copies a capability register with its tag. (R336) -/
  | kmov (S : Bool) (d : BitVec 4) (k : BitVec 4)
  /-- Narrows a capability's window. (R336) -/
  | kwin (S : Bool) (d : BitVec 4) (k : BitVec 4) (a : BitVec 5) (b : BitVec 5)
  /-- Narrows a capability's rights. (R336) -/
  | krights (S : Bool) (d : BitVec 4) (k : BitVec 4) (a : BitVec 5)
  /-- Loads a 16-byte granule into a capability register. (R337) -/
  | kld (S : Bool) (d : BitVec 4) (k : BitVec 4) (a : BitVec 5)
  /-- Stores a capability register with its tag. (R338) -/
  | kst (S : Bool) (d : BitVec 4) (k : BitVec 4) (a : BitVec 5)
  /-- Reads one field of a capability. (R339) -/
  | kget (S : Bool) (d : BitVec 5) (k : BitVec 4) (x : CapField)
  /-- Reads a capability's tag and well-formedness. (R339) -/
  | ktag (S : Bool) (d : BitVec 5) (k : BitVec 4)
  /-- Writes a tile's TCTL. (R345) -/
  | tcfg (S : Bool) (t : BitVec 4) (a : BitVec 5)
  /-- Binds an accumulator to the group at lane w0. (R346) -/
  | acfg (S : Bool) (d : BitVec 3) (a : BitVec 5)
  /-- Loads tile rows and scale bytes from memory. (R348) -/
  | tld (S : Bool) (t : BitVec 4) (k : BitVec 4) (a : BitVec 5) (b : BitVec 5) (p : Part)
  /-- Stores tile rows and scale bytes to memory. (R350) -/
  | tst (S : Bool) (t : BitVec 4) (k : BitVec 4) (a : BitVec 5) (b : BitVec 5) (p : Part)
  /-- Matrix multiply-accumulate with a summation shape. (R143) -/
  | mma (S : Bool) (d : BitVec 3) (a : BitVec 4) (b : BitVec 4) (h : Shape)
  /-- Binary XOR or AND popcount matrix update. (R153) -/
  | mmb (S : Bool) (d : BitVec 3) (a : BitVec 4) (b : BitVec 4) (o : MmbOp)
  /-- Zeroes accumulator rows of active lanes. (R353) -/
  | azero (S : Bool) (d : BitVec 3)
  /-- Reads one accumulator column into vd. (R353) -/
  | ard (S : Bool) (d : BitVec 3) (v : BitVec 7) (c : BitVec 6)
  /-- Writes one accumulator column from va. (R353) -/
  | awr (S : Bool) (d : BitVec 3) (v : BitVec 7) (c : BitVec 6)
  /-- Converts accumulator rows between S32 and F32. (R353) -/
  | acvt (S : Bool) (d : BitVec 3) (c : AcvtDir)
  /-- Issues a linear copy command to a queue. (R359) -/
  | cpyLin (S : Bool) (b : BitVec 5)
  /-- Issues a 2-D tensor copy with optional layout conversion. (R360) -/
  | cpyTen (S : Bool) (b : BitVec 5) (l : Lay)
  /-- Issues a gather copy by an index list. (R363) -/
  | cpyGat (S : Bool) (b : BitVec 5)
  /-- Issues a scatter copy by an index list. (R363) -/
  | cpySct (S : Bool) (b : BitVec 5)
  /-- Issues a reducing copy performed at the destination home. (R364) -/
  | cpyRed (S : Bool) (b : BitVec 5) (r : Rop)
  /-- Places a queue fence entry naming a mask of queues. (R365) -/
  | qfence (S : Bool) (q : BitVec 3) (m : BitVec 8)
  /-- Takes one issue slot and changes no state. (R373) -/
  | nop (S : Bool)
  /-- Writes each active lane's block register by a predicate. (R367) -/
  | setblk (S : Bool) (a : BitVec 8) (b : BitVec 8) (p : BitVec 3)
  /-- Writes each active lane's block register from va. (R368) -/
  | setblkv (S : Bool) (v : BitVec 7)
  /-- The points: forms the vote set and enters a station, a cover or retirement. (R38) -/
  | vote (S : Bool)
  /-- Writes 255 into active lanes' block registers. (R370) -/
  | exit (S : Bool)
  /-- Parks the group at a fuse site for joining. (R371) -/
  | fuse (S : Bool) (d : BitVec 5) (s : BitVec 4)
  /-- Raises TRAPI with a code. (R372) -/
  | trap (S : Bool) (c : BitVec 16)
  /-- Sets the slot set to the named member positions. (R375) -/
  | slot (S : Bool) (m : BitVec 8)
  /-- Guards the next n non-hint words by a predicate. (R376) -/
  | grd (S : Bool) (p : BitVec 3) (i : Bool) (n : BitVec 3)
  /-- Prefetches sectors to cache, port or fast tier. (R378) -/
  | pfch (S : Bool) (k : BitVec 4) (v : BitVec 7) (l : PfLevel)
  /-- Sets the group's cache policy. (R379) -/
  | cach (S : Bool) (p : CachePol)
  /-- Widens an immediate field of the next word. (R377) -/
  | hix (S : Bool) (p : BitVec 25)
  /-- Reads a special register. (R381) -/
  | rdsr (S : Bool) (d : BitVec 7) (e : BitVec 8)
  /-- Writes CLAIMLOST. (R382) -/
  | wrsr (S : Bool) (a : BitVec 5) (e : BitVec 8)
  /-- Writes FMODE of active lanes from an immediate. (R383) -/
  | setfmImm (S : Bool) (i : BitVec 16)
  /-- Writes FMODE of active lanes from va. (R383) -/
  | setfmReg (S : Bool) (v : BitVec 7)
  /-- Breakpoint trap to the debugger or thread. (R384) -/
  | brk (S : Bool) (c : BitVec 16)
  /-- Invalidates cached station code for an arena range. (R385) -/
  | sinv (S : Bool) (k : BitVec 4) (a : BitVec 5) (b : BitVec 5)
  /-- A 64-byte host write of words 0-7 sets a slot's first-half flag. (R63) -/
  | launchFirstHalf (slot : Nat) (words : List DWord)
  /-- A 64-byte host write of words 8-15 commits the launch record or sets NOHALF or DROP. (R63) -/
  | launchSecondHalf (slot : Nat) (words : List DWord)
  /-- A write of zero to a slot status word clears NOHALF and DROP. (R63) -/
  | launchSlotStatusWrite (slot : Nat) (value : DWord)
  /-- A write of zero to mailbox status clears MBDROP and MBPART. (R434) -/
  | mailboxStatusWrite (value : DWord)
  /-- A write to a BAR0 offset with no behaviour of its own is ignored. (R432) -/
  | registerWriteIgnored (offset : Nat) (bytes : List Byte)
  /-- Creates a context with its object table, arena handle and thread capabilities. (R193) -/
  | ctxcreate
  /-- Fails, unloads and frees a context. (R470) -/
  | ctxdestroy
  /-- Validates a recipe image and holds placement of the context. (R166) -/
  | recipeset
  /-- Once the context has no admitted crew, writes the image and releases placement. (R166) -/
  | recipeImageWrite (ctx : Nat)
  /-- Writes tagged capabilities into granules of an object. (R469) -/
  | capmint
  /-- Starts dropping cached copies of object table entries. (R191) -/
  | otinv
  /-- Reports completion once every port dropped its copies and old accesses performed. (R191) -/
  | otinvComplete
  /-- Sets the context's watchdog WDT. (R469) -/
  | wdtset
  /-- Validates, places and relocates a code object. (R414) -/
  | codeload
  /-- Refuses new launches of a CODEID and schedules its unmapping. (R419) -/
  | codeunload
  /-- After the last crew using the object retires, unmaps its pages and drops the reference. (R419) -/
  | codeUnmap (ctx codeid : Nat)
  /-- Installs signature keys and REQSIG for a context. (R402) -/
  | codekey
  /-- Driver command to pre-empt a context on a set of cores. (R221) -/
  | preempt
  /-- When the device collector is complete, the victim's clocks are gated. (R224) -/
  | preemptGated (order : Nat)
  /-- Takes a recovery point in the capacity tier. (R232) -/
  | rptake
  /-- Sets the periodic recovery point interval. (R232) -/
  | rpintset
  /-- Expiry of RPINT clocks starts a recovery point. (R232) -/
  | recoveryPointTimer
  /-- Sets the worn threshold of every counting unit. (R236) -/
  | wornthr
  /-- Supplies frames to the fast-tier free pool or the recovery pool. (R469) -/
  | framepool
  /-- Names the host event ring and its control block. (R466) -/
  | evring
  /-- Sets an island's state P0, P1, P2 or OFF. (R441) -/
  | island
  /-- Replaces the Kolrum Rail route table or import table. (R438) -/
  | railmap
  /-- Returns identity words 0-2. (R443) -/
  | ident
  /-- Writes signed measurements and the nonce to a host buffer. (R444) -/
  | attest
  /-- Grants the context's debug right. (R196) -/
  | dbggrant
  /-- Revokes the debug right and removes watchpoints. (R197) -/
  | dbgrevoke
  /-- Halts a crew as a crew trap would, with ORIGIN 5. (R430) -/
  | dbghalt
  /-- Reads one selector of a halted or stopped group. (R430) -/
  | dbgread
  /-- Writes one selector of a halted or stopped group. (R430) -/
  | dbgwrite
  /-- Resumes a debugger-held group as gres does. (R430) -/
  | dbgresume
  /-- Arms a precise stop at retired-word count N. (R427) -/
  | dbgstop
  /-- The group's issued count reaching N stops it and parks it with a precise record. (R427) -/
  | preciseStop (group : Nat)
  /-- Sets or removes a watchpoint. (R429) -/
  | dbgwatch
  /-- Gives the context trace storage and writes every segment header. (R421) -/
  | tracebuf
  /-- Sets the context's sampling period. (R426) -/
  | profcfg
  /-- The launch queue takes a committed record and validates it. (R64) -/
  | launchValidate (port : Bool) (source : Nat)
  /-- Placement admits a crew to a core and allocates its resources. (R67) -/
  | crewAdmit (launch : Nat)
  /-- A launch waiting 2^24 clocks without placing rises one class. (R69) -/
  | launchClassRise (launch : Nat)
  /-- After the last crew retires, the completion record is written. (R65) -/
  | launchComplete (launch : Nat)
  /-- Under DETERM the head crew commits and the next crew's serial phase performs its buffer. (R156) -/
  | crewCommit (launch : Nat)
  /-- A GENERAL group ready for 4,096 clocks is selected next. (R74) -/
  | generalAgeSelect (group : Nat)
  /-- A waiting group becomes ready after the write that satisfies its condition. (R76) -/
  | groupWake (group : Nat)
  /-- A pending read is upgraded to urgent when its group waits at a marker and no group is ready. (R80) -/
  | urgencyBit (access : Nat)
  /-- An access reaches its memory port and is checked against the object table entry. (R189) -/
  | portAccess (access : Nat)
  /-- A plain access to a RACECHK line is checked and claimed at its home. (R114) -/
  | claimCheck (access : Nat)
  /-- A port, home or window answer returns, writing elements or raising a trap. (R77) -/
  | answerReturn (access : Nat)
  /-- A sibling group stops at a word boundary and writes its CODE 0 record. (R206) -/
  | siblingStop (group : Nat)
  /-- Once every group has its record, one crew-halt event is queued. (R206) -/
  | crewHaltEvent (crew : Nat)
  /-- The trap record is written once earlier words settle, and a group-trap event is queued. (R203) -/
  | trapRecordWrite (group : Nat)
  /-- The matrix engine performs a queued matrix word. (R145) -/
  | matrixEnginePerform (core : Nat)
  /-- A copy command performs its next 4 KiB chunk. (R357) -/
  | copyChunk (command : Nat)
  /-- Once all payload bytes are performed, the command writes its completion word or arrives. (R105) -/
  | copyCompletion (command : Nat)
  /-- A qfence entry performs once the named queues' earlier entries completed. (R104) -/
  | qfencePerform (command : Nat)
  /-- A parked fence releases its group once Pre is performed. (R97) -/
  | fenceComplete (group : Nat)
  /-- An arrival is applied or refused at the barrier word's home. (R108) -/
  | barrierArrival (access : Nat)
  /-- Stations in the range are marked stale and the group continues. (R385) -/
  | sinvComplete (group : Nat)
  /-- A fuse site resolves, pairs groups and migrates lanes. (R48) -/
  | fuseResolve (crew site : Nat)
  /-- A group with no live lane retires once its counter is zero and answers returned. (R370) -/
  | groupRetire (group : Nat)
  /-- The fault unit takes a frame and copies a parked page to the fast tier. (R216) -/
  | pageMigration (entry : Nat)
  /-- After migration the entry's parked accesses and the overflow list are re-presented. (R216) -/
  | targetedReplay (entry : Nat)
  /-- Claims that are not current are reset at least once every 2^17 clocks. (R117) -/
  | claimScrub (line : Nat)
  /-- A held event enters a thread's queue when a place frees. (R82) -/
  | eventQueuePlaceFree (thread : Nat)
  /-- An event arriving wakes a thread asleep in gwait. (R284) -/
  | gwaitWake (thread : Nat)
  /-- A gwait sleeping la clocks times out with ld = 0. (R284) -/
  | gwaitTimeout (thread : Nat)
  /-- A blocked emit completes or is abandoned. (R83) -/
  | emitUnblock (thread : Nat)
  /-- The oldest undelivered event waiting WDT clocks raises L2WDOG. (R219) -/
  | watchdogExpire (thread : Nat)
  /-- A held report is written to the host event ring and vector 2 raised. (R466) -/
  | eventRingWrite
  /-- While the ring is full the device rereads the consumer count. (R466) -/
  | eventRingPoll
  /-- A host CXL.mem write to device memory. (R433) -/
  | hostMemWrite (address : Nat) (bytes : List Byte)
  /-- A remote access from a peer is checked against the import table. (R439) -/
  | peerAccess (device handle : Nat) (offset : Nat) (write : Bool) (bytes : List Byte)
  /-- A Rail port going down answers its in-flight requests as refusals. (R439) -/
  | railPortDown (port : Nat)
  /-- An activation-count alert back-off forces refreshes and mitigation on a bank. (R440) -/
  | activationBackoff (controller bank : Nat)
  /-- An uncorrectable error rolls the device back to the last point. (R234) -/
  | uncorrectableError (unit : Nat)
  /-- A unit counts a corrected error. (R236) -/
  | correctedError (unit : Nat)
  /-- Every 1 ms above 105 C a die's islands are lowered one state. (R442) -/
  | thermalStep (die temperature : Nat)
  /-- Above 115 C every context is pre-empted and vector 3 raised. (R442) -/
  | thermalCritical (die temperature : Nat)
  /-- Below 95 C contexts resume. (R442) -/
  | thermalRecover (die temperature : Nat)
  /-- Power-good starts bring-up through READY. (R445) -/
  | powerGood
  /-- A host write to the mailbox command window is queued, or is discarded and sets MBDROP or MBPART. (R434) -/
  | mailboxCommandWrite (offset : Nat) (bytes : List Byte)
  /-- Once the writes of a recovery point have landed, the commit record is written, old frames freed, the log cleared and contexts resumed. (R232) -/
  | recoveryPointCommit
  /-- When the forced refreshes and mitigation of a bank are done, the bank's held accesses, urgent reads and replays included, are issued in arrival order. (R440) -/
  | refreshHoldEnd (controller bank : Nat)
  /-- A Kolrum Rail port that was down returns, and route sets may use it again. (R439) -/
  | railPortUp (port : Nat)
  deriving DecidableEq, Repr

end Sys2Proof
end

