-- ==== Sys2Proof/WellFormed.lean ====
section
/-! DEFINITION. The reserved operand values that a word must not use (R264, reasons 3 and 4): a well-formed word is
one whose fields hold no reserved value. Enumerated fields cannot hold one; the conditions here are those that
relate two fields or bound one. A step without encoding is always well-formed. -/
namespace Sys2Proof

/-- The floating-point type codes (R247). -/
def TyCode.isFloat : TyCode → Bool
  | .f32 | .f16 | .bf16 => true
  | .s8 | .s16 | .s32 | .s64 | .n8 | .n16 | .n32 | .n64 | .b32 => false

/-- The type codes a reduction or scan admits (R250). -/
def TyCode.reduces : TyCode → Bool
  | .s32 | .n32 | .f32 => true
  | .s8 | .s16 | .s64 | .n8 | .n16 | .n64 | .f16 | .bf16 | .b32 => false

/-- The legal pairings of condition and type in `cmp` (R248). -/
def cmpLegal (c : CmpCond) (t : TyCode) : Bool :=
  match c with
  | .uno | .ord => t.isFloat
  | .eq | .ne => true
  | .lt | .le | .gt | .ge => t != .b32

/-- A copy word's parameter run starts above s0 and ends at or below s31 (R257). -/
def runFits (b : BitVec 5) (n : Nat) : Bool := b.toNat != 0 && decide (b.toNat + n ≤ 32)

/-- The special-register numbers that R380 assigns. -/
def srAssigned (e : Nat) : Bool :=
  decide (e ≤ 4) || (decide (8 ≤ e) && decide (e ≤ 0x14)) || (decide (0x20 ≤ e) && decide (e ≤ 0x22))

/-- The special registers held per lane (R380). -/
def srPerLane (e : Nat) : Bool := e == 0 || e == 8 || e == 0x10 || e == 0x13

/-- No field of the word holds a reserved value (R264). -/
def Instr.wellFormed : Instr → Bool
  | .add _ _ _ _ => true
  | .sub _ _ _ _ => true
  | .mul _ _ _ _ => true
  | .mulhS _ _ _ _ => true
  | .mulhN _ _ _ _ => true
  | .divS _ _ _ _ => true
  | .divN _ _ _ _ => true
  | .remS _ _ _ _ => true
  | .remN _ _ _ _ => true
  | .and _ _ _ _ => true
  | .or _ _ _ _ => true
  | .xor _ _ _ _ => true
  | .shl _ _ _ _ => true
  | .shr _ _ _ _ => true
  | .sra _ _ _ _ => true
  | .minS _ _ _ _ => true
  | .maxS _ _ _ _ => true
  | .minN _ _ _ _ => true
  | .maxN _ _ _ _ => true
  | .sltS _ _ _ _ => true
  | .sltN _ _ _ _ => true
  | .seq _ _ _ _ => true
  | .bfxS _ _ _ _ => true
  | .bfxN _ _ _ _ => true
  | .bfi _ _ _ _ => true
  | .clz _ _ _ => true
  | .ctz _ _ _ => true
  | .popc _ _ _ => true
  | .jalr _ _ _ => true
  | .addi _ _ _ _ => true
  | .andi _ _ _ _ => true
  | .ori _ _ _ _ => true
  | .xori _ _ _ _ => true
  | .shli _ _ _ i => i.toNat < 64
  | .shri _ _ _ i => i.toNat < 64
  | .srai _ _ _ i => i.toNat < 64
  | .sltiS _ _ _ _ => true
  | .luh _ _ _ => true
  | .ldsN8 _ _ _ _ _ => true
  | .ldsN16 _ _ _ _ _ => true
  | .ldsN32 _ _ _ _ _ => true
  | .ldsB64 _ _ _ _ _ => true
  | .stsB8 _ _ _ _ _ => true
  | .stsB16 _ _ _ _ _ => true
  | .stsB32 _ _ _ _ _ => true
  | .stsB64 _ _ _ _ _ => true
  | .beq _ _ _ _ => true
  | .bne _ _ _ _ => true
  | .bltS _ _ _ _ => true
  | .bgeS _ _ _ _ => true
  | .bltN _ _ _ _ => true
  | .bgeN _ _ _ _ => true
  | .jal _ _ _ => true
  | .emit _ _ _ _ => true
  | .emitnb _ _ _ _ => true
  | .emits _ _ _ => true
  | .sopen _ _ _ => true
  | .stins _ _ _ => true
  | .sdecl _ _ _ => true
  | .gwait _ _ _ => true
  | .grec _ _ _ => true
  | .gread _ _ _ _ => true
  | .gwrite _ _ _ _ => true
  | .gres _ _ _ => true
  | .gkill _ _ _ => true
  | .launch _ _ _ _ => true
  | .addV _ _ _ _ => true
  | .subV _ _ _ _ => true
  | .mulV _ _ _ _ => true
  | .mulhSV _ _ _ _ => true
  | .mulhNV _ _ _ _ => true
  | .andV _ _ _ _ => true
  | .orV _ _ _ _ => true
  | .xorV _ _ _ _ => true
  | .shlV _ _ _ _ => true
  | .shrV _ _ _ _ => true
  | .sraV _ _ _ _ => true
  | .minSV _ _ _ _ => true
  | .maxSV _ _ _ _ => true
  | .minNV _ _ _ _ => true
  | .maxNV _ _ _ _ => true
  | .absd _ _ _ _ => true
  | .addsS _ _ _ _ => true
  | .addsN _ _ _ _ => true
  | .subsS _ _ _ _ => true
  | .subsN _ _ _ _ => true
  | .avgN _ _ _ _ => true
  | .clzV _ _ _ => true
  | .popcV _ _ _ => true
  | .brev _ _ _ => true
  | .add64 _ _ _ _ => true
  | .sub64 _ _ _ _ => true
  | .mulwS _ _ _ _ => true
  | .mulwN _ _ _ _ => true
  | .dot4S8 _ _ _ _ => true
  | .dot4N8 _ _ _ _ => true
  | .bfxV _ _ _ _ => true
  | .bfiV _ _ _ _ => true
  | .addiV _ _ _ _ => true
  | .andiV _ _ _ _ => true
  | .oriV _ _ _ _ => true
  | .xoriV _ _ _ _ => true
  | .shliV _ _ _ i => i.toNat < 32
  | .shriV _ _ _ i => i.toNat < 32
  | .sraiV _ _ _ i => i.toNat < 32
  | .muli _ _ _ _ => true
  | .faddF32 _ _ _ _ => true
  | .faddH2 _ _ _ _ => true
  | .faddB2 _ _ _ _ => true
  | .fsubF32 _ _ _ _ => true
  | .fsubH2 _ _ _ _ => true
  | .fsubB2 _ _ _ _ => true
  | .fmulF32 _ _ _ _ => true
  | .fmulH2 _ _ _ _ => true
  | .fmulB2 _ _ _ _ => true
  | .fminF32 _ _ _ _ => true
  | .fminH2 _ _ _ _ => true
  | .fminB2 _ _ _ _ => true
  | .fmaxF32 _ _ _ _ => true
  | .fmaxH2 _ _ _ _ => true
  | .fmaxB2 _ _ _ _ => true
  | .ffmaF32 _ _ _ _ => true
  | .ffmaH2 _ _ _ _ => true
  | .ffmaB2 _ _ _ _ => true
  | .ffmsF32 _ _ _ _ => true
  | .ffmsH2 _ _ _ _ => true
  | .ffmsB2 _ _ _ _ => true
  | .fnmaF32 _ _ _ _ => true
  | .fnmaH2 _ _ _ _ => true
  | .fnmaB2 _ _ _ _ => true
  | .ffmawH _ _ _ _ => true
  | .ffmawB _ _ _ _ => true
  | .frcp _ _ _ _ => true
  | .frsqrt _ _ _ _ => true
  | .fsqrt _ _ _ _ => true
  | .fex2 _ _ _ _ => true
  | .flg2 _ _ _ _ => true
  | .fsinp _ _ _ _ => true
  | .fcosp _ _ _ _ => true
  | .ftanh _ _ _ _ => true
  | .ffrac _ _ _ _ => true
  | .fclass _ _ _ _ => true
  | .cvt _ _ _ y z => y != .b32 && z != .b32
  | .cvtmfE _ _ _ _ => true
  | .cvtmfD _ _ _ _ => true
  | .pk2 _ _ _ _ _ => true
  | .upk _ _ _ _ _ => true
  | .cmp _ _ c _ _ t => cmpLegal c t
  | .ftst _ _ _ _ t => t.isFloat
  | .sel _ _ _ _ p _ => p != 0
  | .plog _ _ _ _ _ => true
  | .shflIdx _ _ _ _ => true
  | .shflUp _ _ _ _ => true
  | .shflDn _ _ _ _ => true
  | .shflXor _ _ _ _ => true
  | .bcast _ _ _ _ => true
  | .ballot _ _ _ => true
  | .vrank _ _ _ => true
  | .vcount _ _ _ => true
  | .vany _ _ _ => true
  | .vall _ _ _ => true
  | .redadd _ _ _ t => t.reduces
  | .redmax _ _ _ t => t.reduces
  | .redmin _ _ _ t => t.reduces
  | .scanadd _ _ _ t => t.reduces
  | .mov _ _ _ => true
  | .movs _ _ _ => true
  | .movi _ _ _ => true
  | .rdlane _ _ _ _ => true
  | .wrlane _ _ _ _ => true
  | .rdsp _ _ => true
  | .movp _ _ _ => true
  | .setp _ _ _ => true
  | .ld _ _ _ _ _ _ => true
  | .st _ _ _ _ _ _ => true
  | .atom _ _ _ _ _ _ => true
  | .atomx _ _ _ _ _ _ => true
  | .atom64 _ _ _ _ _ _ => true
  | .atomx64 _ _ _ _ _ _ => true
  | .fence _ _ _ _ => true
  | .barinit _ _ _ _ => true
  | .barr _ _ _ _ _ => true
  | .barw _ _ _ _ _ => true
  | .bars _ _ _ _ _ => true
  | .waitw _ _ _ _ => true
  | .kmov _ _ _ => true
  | .kwin _ _ _ _ _ => true
  | .krights _ _ _ _ => true
  | .kld _ _ _ _ => true
  | .kst _ _ _ _ => true
  | .kget _ _ _ _ => true
  | .ktag _ _ _ => true
  | .tcfg _ _ _ => true
  | .acfg _ _ _ => true
  | .tld _ _ _ _ _ _ => true
  | .tst _ _ _ _ _ _ => true
  | .mma _ _ _ _ _ => true
  | .mmb _ _ _ _ _ => true
  | .azero _ _ => true
  | .ard _ _ _ _ => true
  | .awr _ _ _ _ => true
  | .acvt _ _ _ => true
  | .cpyLin _ b => runFits b 4
  | .cpyTen _ b l => runFits b 8 && l != .three
  | .cpyGat _ b => runFits b 6
  | .cpySct _ b => runFits b 6
  | .cpyRed _ b _ => runFits b 5
  | .qfence _ _ _ => true
  | .nop _ => true
  | .setblk _ _ _ _ => true
  | .setblkv _ _ => true
  | .vote _ => true
  | .exit _ => true
  | .fuse _ _ _ => true
  | .trap _ _ => true
  | .slot _ _ => true
  | .grd _ _ _ _ => true
  | .pfch _ _ _ _ => true
  | .cach _ _ => true
  | .hix _ _ => true
  | .rdsr _ d e => srAssigned e.toNat && (srPerLane e.toNat || d.toNat < 32)
  | .wrsr _ _ e => e.toNat == 0x22
  | .setfmImm _ _ => true
  | .setfmReg _ _ => true
  | .brk _ _ => true
  | .sinv _ _ _ _ => true
  | .launchFirstHalf _ _ => true
  | .launchSecondHalf _ _ => true
  | .launchSlotStatusWrite _ _ => true
  | .mailboxStatusWrite _ => true
  | .registerWriteIgnored _ _ => true
  | .ctxcreate => true
  | .ctxdestroy => true
  | .recipeset => true
  | .recipeImageWrite _ => true
  | .capmint => true
  | .otinv => true
  | .otinvComplete => true
  | .wdtset => true
  | .codeload => true
  | .codeunload => true
  | .codeUnmap _ _ => true
  | .codekey => true
  | .preempt => true
  | .preemptGated _ => true
  | .rptake => true
  | .rpintset => true
  | .recoveryPointTimer => true
  | .wornthr => true
  | .framepool => true
  | .evring => true
  | .island => true
  | .railmap => true
  | .ident => true
  | .attest => true
  | .dbggrant => true
  | .dbgrevoke => true
  | .dbghalt => true
  | .dbgread => true
  | .dbgwrite => true
  | .dbgresume => true
  | .dbgstop => true
  | .preciseStop _ => true
  | .dbgwatch => true
  | .tracebuf => true
  | .profcfg => true
  | .launchValidate _ _ => true
  | .crewAdmit _ => true
  | .launchClassRise _ => true
  | .launchComplete _ => true
  | .crewCommit _ => true
  | .generalAgeSelect _ => true
  | .groupWake _ => true
  | .urgencyBit _ => true
  | .portAccess _ => true
  | .claimCheck _ => true
  | .answerReturn _ => true
  | .siblingStop _ => true
  | .crewHaltEvent _ => true
  | .trapRecordWrite _ => true
  | .matrixEnginePerform _ => true
  | .copyChunk _ => true
  | .copyCompletion _ => true
  | .qfencePerform _ => true
  | .fenceComplete _ => true
  | .barrierArrival _ => true
  | .sinvComplete _ => true
  | .fuseResolve _ _ => true
  | .groupRetire _ => true
  | .pageMigration _ => true
  | .targetedReplay _ => true
  | .claimScrub _ => true
  | .eventQueuePlaceFree _ => true
  | .gwaitWake _ => true
  | .gwaitTimeout _ => true
  | .emitUnblock _ => true
  | .watchdogExpire _ => true
  | .eventRingWrite => true
  | .eventRingPoll => true
  | .hostMemWrite _ _ => true
  | .peerAccess _ _ _ _ _ => true
  | .railPortDown _ => true
  | .activationBackoff _ _ => true
  | .uncorrectableError _ => true
  | .correctedError _ => true
  | .thermalStep _ _ => true
  | .thermalCritical _ _ => true
  | .thermalRecover _ _ => true
  | .powerGood => true
  | .mailboxCommandWrite _ _ => true
  | .recoveryPointCommit => true
  | .refreshHoldEnd _ _ => true
  | .railPortUp _ => true

end Sys2Proof
end

