-- ==== Sys2Proof/Decode.lean ====
section
/-! DEFINITION. Decoding and encoding of the 32-bit words (R238 to R265). `decode` is total: a word that is not an
instruction is rejected with the lowest reason of R205 that the word alone shows (1 all zeros or all ones, 2 a
reserved major, 3 a reserved value, 4 a nonzero reserved field). -/
namespace Sys2Proof

/-- The code of a Scope. -/
def Scope.code : Scope → Nat
  | .group => 0
  | .core => 1
  | .cluster => 2
  | .die => 3
  | .device => 4
  | .system => 5

/-- The Scope with a code; none for a reserved code. -/
def Scope.ofCode (n : Nat) : Option Scope :=
  match n with
  | 0 => some .group
  | 1 => some .core
  | 2 => some .cluster
  | 3 => some .die
  | 4 => some .device
  | 5 => some .system
  | _ => none

/-- The code of a TyCode. -/
def TyCode.code : TyCode → Nat
  | .s8 => 0
  | .s16 => 1
  | .s32 => 2
  | .s64 => 3
  | .n8 => 4
  | .n16 => 5
  | .n32 => 6
  | .n64 => 7
  | .f32 => 8
  | .f16 => 9
  | .bf16 => 10
  | .b32 => 11

/-- The TyCode with a code; none for a reserved code. -/
def TyCode.ofCode (n : Nat) : Option TyCode :=
  match n with
  | 0 => some .s8
  | 1 => some .s16
  | 2 => some .s32
  | 3 => some .s64
  | 4 => some .n8
  | 5 => some .n16
  | 6 => some .n32
  | 7 => some .n64
  | 8 => some .f32
  | 9 => some .f16
  | 10 => some .bf16
  | 11 => some .b32
  | _ => none

/-- The code of a CmpCond. -/
def CmpCond.code : CmpCond → Nat
  | .eq => 0
  | .ne => 1
  | .lt => 2
  | .le => 3
  | .gt => 4
  | .ge => 5
  | .uno => 6
  | .ord => 7

/-- The CmpCond with a code; none for a reserved code. -/
def CmpCond.ofCode (n : Nat) : Option CmpCond :=
  match n with
  | 0 => some .eq
  | 1 => some .ne
  | 2 => some .lt
  | 3 => some .le
  | 4 => some .gt
  | 5 => some .ge
  | 6 => some .uno
  | 7 => some .ord
  | _ => none

/-- The code of a FTy. -/
def FTy.code : FTy → Nat
  | .f32 => 0
  | .h2 => 1
  | .b2 => 2

/-- The FTy with a code; none for a reserved code. -/
def FTy.ofCode (n : Nat) : Option FTy :=
  match n with
  | 0 => some .f32
  | 1 => some .h2
  | 2 => some .b2
  | _ => none

/-- The code of a Pair. -/
def Pair.code : Pair → Nat
  | .h2 => 0
  | .b2 => 1

/-- The Pair with a code; none for a reserved code. -/
def Pair.ofCode (n : Nat) : Option Pair :=
  match n with
  | 0 => some .h2
  | 1 => some .b2
  | _ => none

/-- The code of a LdTy. -/
def LdTy.code : LdTy → Nat
  | .n8 => 0
  | .s8 => 1
  | .n16 => 2
  | .s16 => 3
  | .b32 => 4
  | .b64 => 5
  | .b128 => 6

/-- The LdTy with a code; none for a reserved code. -/
def LdTy.ofCode (n : Nat) : Option LdTy :=
  match n with
  | 0 => some .n8
  | 1 => some .s8
  | 2 => some .n16
  | 3 => some .s16
  | 4 => some .b32
  | 5 => some .b64
  | 6 => some .b128
  | _ => none

/-- The code of a StTy. -/
def StTy.code : StTy → Nat
  | .b8 => 0
  | .b16 => 2
  | .b32 => 4
  | .b64 => 5
  | .b128 => 6

/-- The StTy with a code; none for a reserved code. -/
def StTy.ofCode (n : Nat) : Option StTy :=
  match n with
  | 0 => some .b8
  | 2 => some .b16
  | 4 => some .b32
  | 5 => some .b64
  | 6 => some .b128
  | _ => none

/-- The code of a AtomOp. -/
def AtomOp.code : AtomOp → Nat
  | .add => 0
  | .and => 1
  | .or => 2
  | .xor => 3
  | .minS => 4
  | .maxS => 5
  | .swap => 6
  | .cas => 7

/-- The AtomOp with a code; none for a reserved code. -/
def AtomOp.ofCode (n : Nat) : Option AtomOp :=
  match n with
  | 0 => some .add
  | 1 => some .and
  | 2 => some .or
  | 3 => some .xor
  | 4 => some .minS
  | 5 => some .maxS
  | 6 => some .swap
  | 7 => some .cas
  | _ => none

/-- The code of a Part. -/
def Part.code : Part → Nat
  | .data => 0
  | .scale => 1
  | .both => 2

/-- The Part with a code; none for a reserved code. -/
def Part.ofCode (n : Nat) : Option Part :=
  match n with
  | 0 => some .data
  | 1 => some .scale
  | 2 => some .both
  | _ => none

/-- The code of a Shape. -/
def Shape.code : Shape → Nat
  | .lin => 0
  | .chunk => 1
  | .tree => 2
  | .exact => 3

/-- The Shape with a code; none for a reserved code. -/
def Shape.ofCode (n : Nat) : Option Shape :=
  match n with
  | 0 => some .lin
  | 1 => some .chunk
  | 2 => some .tree
  | 3 => some .exact
  | _ => none

/-- The code of a MmbOp. -/
def MmbOp.code : MmbOp → Nat
  | .xor => 0
  | .and => 1

/-- The MmbOp with a code; none for a reserved code. -/
def MmbOp.ofCode (n : Nat) : Option MmbOp :=
  match n with
  | 0 => some .xor
  | 1 => some .and
  | _ => none

/-- The code of a AcvtDir. -/
def AcvtDir.code : AcvtDir → Nat
  | .s32ToF32 => 0
  | .f32ToS32 => 1

/-- The AcvtDir with a code; none for a reserved code. -/
def AcvtDir.ofCode (n : Nat) : Option AcvtDir :=
  match n with
  | 0 => some .s32ToF32
  | 1 => some .f32ToS32
  | _ => none

/-- The code of a Lay. -/
def Lay.code : Lay → Nat
  | .none => 0
  | .transpose => 1
  | .reblock => 2
  | .three => 3

/-- The Lay with a code; none for a number that is no code. -/
def Lay.ofCode (n : Nat) : Option Lay :=
  match n with
  | 0 => some .none
  | 1 => some .transpose
  | 2 => some .reblock
  | 3 => some .three
  | _ => Option.none

/-- The code of a Rop. -/
def Rop.code : Rop → Nat
  | .addS32 => 0
  | .addF32 => 1
  | .addBf16 => 2
  | .maxS32 => 3
  | .minS32 => 4
  | .maxF32 => 5
  | .minF32 => 6

/-- The Rop with a code; none for a reserved code. -/
def Rop.ofCode (n : Nat) : Option Rop :=
  match n with
  | 0 => some .addS32
  | 1 => some .addF32
  | 2 => some .addBf16
  | 3 => some .maxS32
  | 4 => some .minS32
  | 5 => some .maxF32
  | 6 => some .minF32
  | _ => none

/-- The code of a PfLevel. -/
def PfLevel.code : PfLevel → Nat
  | .cache => 0
  | .port => 1
  | .tier => 2

/-- The PfLevel with a code; none for a reserved code. -/
def PfLevel.ofCode (n : Nat) : Option PfLevel :=
  match n with
  | 0 => some .cache
  | 1 => some .port
  | 2 => some .tier
  | _ => none

/-- The code of a CachePol. -/
def CachePol.code : CachePol → Nat
  | .normal => 0
  | .stream => 1
  | .keep => 2
  | .bypass => 3

/-- The CachePol with a code; none for a reserved code. -/
def CachePol.ofCode (n : Nat) : Option CachePol :=
  match n with
  | 0 => some .normal
  | 1 => some .stream
  | 2 => some .keep
  | 3 => some .bypass
  | _ => none

/-- The code of a CapField. -/
def CapField.code : CapField → Nat
  | .handle => 0
  | .rights => 1
  | .kind => 2
  | .low => 3
  | .len => 4

/-- The CapField with a code; none for a reserved code. -/
def CapField.ofCode (n : Nat) : Option CapField :=
  match n with
  | 0 => some .handle
  | 1 => some .rights
  | 2 => some .kind
  | 3 => some .low
  | 4 => some .len
  | _ => none

/-- A reserved value rejects the word with reason 3 (R264). -/
def need {α : Type} (o : Option α) (k : α → Except Nat Instr) : Except Nat Instr :=
  match o with
  | none => .error 3
  | some a => k a

/-- A word with a reserved value is rejected with reason 3, else one with a nonzero reserved field with reason 4. -/
def accept (i : Instr) (reserved : Nat) : Except Nat Instr :=
  if i.wellFormed = false then .error 3 else if reserved ≠ 0 then .error 4 else .ok i

/-- Words of major 0x01 (R240 to R263). -/
def decodeSR (w : Nat) : Except Nat Instr :=
  match fld w 9 0 with
  | 0 => accept (.add (fld w 31 31 == 1) (BitVec.ofNat 5 (fld w 24 20)) (BitVec.ofNat 5 (fld w 19 15)) (BitVec.ofNat 5 (fld w 14 10))) (0)
  | 1 => accept (.sub (fld w 31 31 == 1) (BitVec.ofNat 5 (fld w 24 20)) (BitVec.ofNat 5 (fld w 19 15)) (BitVec.ofNat 5 (fld w 14 10))) (0)
  | 2 => accept (.mul (fld w 31 31 == 1) (BitVec.ofNat 5 (fld w 24 20)) (BitVec.ofNat 5 (fld w 19 15)) (BitVec.ofNat 5 (fld w 14 10))) (0)
  | 3 => accept (.mulhS (fld w 31 31 == 1) (BitVec.ofNat 5 (fld w 24 20)) (BitVec.ofNat 5 (fld w 19 15)) (BitVec.ofNat 5 (fld w 14 10))) (0)
  | 4 => accept (.mulhN (fld w 31 31 == 1) (BitVec.ofNat 5 (fld w 24 20)) (BitVec.ofNat 5 (fld w 19 15)) (BitVec.ofNat 5 (fld w 14 10))) (0)
  | 5 => accept (.divS (fld w 31 31 == 1) (BitVec.ofNat 5 (fld w 24 20)) (BitVec.ofNat 5 (fld w 19 15)) (BitVec.ofNat 5 (fld w 14 10))) (0)
  | 6 => accept (.divN (fld w 31 31 == 1) (BitVec.ofNat 5 (fld w 24 20)) (BitVec.ofNat 5 (fld w 19 15)) (BitVec.ofNat 5 (fld w 14 10))) (0)
  | 7 => accept (.remS (fld w 31 31 == 1) (BitVec.ofNat 5 (fld w 24 20)) (BitVec.ofNat 5 (fld w 19 15)) (BitVec.ofNat 5 (fld w 14 10))) (0)
  | 8 => accept (.remN (fld w 31 31 == 1) (BitVec.ofNat 5 (fld w 24 20)) (BitVec.ofNat 5 (fld w 19 15)) (BitVec.ofNat 5 (fld w 14 10))) (0)
  | 9 => accept (.and (fld w 31 31 == 1) (BitVec.ofNat 5 (fld w 24 20)) (BitVec.ofNat 5 (fld w 19 15)) (BitVec.ofNat 5 (fld w 14 10))) (0)
  | 10 => accept (.or (fld w 31 31 == 1) (BitVec.ofNat 5 (fld w 24 20)) (BitVec.ofNat 5 (fld w 19 15)) (BitVec.ofNat 5 (fld w 14 10))) (0)
  | 11 => accept (.xor (fld w 31 31 == 1) (BitVec.ofNat 5 (fld w 24 20)) (BitVec.ofNat 5 (fld w 19 15)) (BitVec.ofNat 5 (fld w 14 10))) (0)
  | 12 => accept (.shl (fld w 31 31 == 1) (BitVec.ofNat 5 (fld w 24 20)) (BitVec.ofNat 5 (fld w 19 15)) (BitVec.ofNat 5 (fld w 14 10))) (0)
  | 13 => accept (.shr (fld w 31 31 == 1) (BitVec.ofNat 5 (fld w 24 20)) (BitVec.ofNat 5 (fld w 19 15)) (BitVec.ofNat 5 (fld w 14 10))) (0)
  | 14 => accept (.sra (fld w 31 31 == 1) (BitVec.ofNat 5 (fld w 24 20)) (BitVec.ofNat 5 (fld w 19 15)) (BitVec.ofNat 5 (fld w 14 10))) (0)
  | 15 => accept (.minS (fld w 31 31 == 1) (BitVec.ofNat 5 (fld w 24 20)) (BitVec.ofNat 5 (fld w 19 15)) (BitVec.ofNat 5 (fld w 14 10))) (0)
  | 16 => accept (.maxS (fld w 31 31 == 1) (BitVec.ofNat 5 (fld w 24 20)) (BitVec.ofNat 5 (fld w 19 15)) (BitVec.ofNat 5 (fld w 14 10))) (0)
  | 17 => accept (.minN (fld w 31 31 == 1) (BitVec.ofNat 5 (fld w 24 20)) (BitVec.ofNat 5 (fld w 19 15)) (BitVec.ofNat 5 (fld w 14 10))) (0)
  | 18 => accept (.maxN (fld w 31 31 == 1) (BitVec.ofNat 5 (fld w 24 20)) (BitVec.ofNat 5 (fld w 19 15)) (BitVec.ofNat 5 (fld w 14 10))) (0)
  | 19 => accept (.sltS (fld w 31 31 == 1) (BitVec.ofNat 5 (fld w 24 20)) (BitVec.ofNat 5 (fld w 19 15)) (BitVec.ofNat 5 (fld w 14 10))) (0)
  | 20 => accept (.sltN (fld w 31 31 == 1) (BitVec.ofNat 5 (fld w 24 20)) (BitVec.ofNat 5 (fld w 19 15)) (BitVec.ofNat 5 (fld w 14 10))) (0)
  | 21 => accept (.seq (fld w 31 31 == 1) (BitVec.ofNat 5 (fld w 24 20)) (BitVec.ofNat 5 (fld w 19 15)) (BitVec.ofNat 5 (fld w 14 10))) (0)
  | 22 => accept (.bfxS (fld w 31 31 == 1) (BitVec.ofNat 5 (fld w 24 20)) (BitVec.ofNat 5 (fld w 19 15)) (BitVec.ofNat 5 (fld w 14 10))) (0)
  | 23 => accept (.bfxN (fld w 31 31 == 1) (BitVec.ofNat 5 (fld w 24 20)) (BitVec.ofNat 5 (fld w 19 15)) (BitVec.ofNat 5 (fld w 14 10))) (0)
  | 24 => accept (.bfi (fld w 31 31 == 1) (BitVec.ofNat 5 (fld w 24 20)) (BitVec.ofNat 5 (fld w 19 15)) (BitVec.ofNat 5 (fld w 14 10))) (0)
  | 25 => accept (.clz (fld w 31 31 == 1) (BitVec.ofNat 5 (fld w 24 20)) (BitVec.ofNat 5 (fld w 19 15))) (fld w 14 10)
  | 26 => accept (.ctz (fld w 31 31 == 1) (BitVec.ofNat 5 (fld w 24 20)) (BitVec.ofNat 5 (fld w 19 15))) (fld w 14 10)
  | 27 => accept (.popc (fld w 31 31 == 1) (BitVec.ofNat 5 (fld w 24 20)) (BitVec.ofNat 5 (fld w 19 15))) (fld w 14 10)
  | 28 => accept (.jalr (fld w 31 31 == 1) (BitVec.ofNat 5 (fld w 24 20)) (BitVec.ofNat 5 (fld w 19 15))) (fld w 14 10)
  | _ => .error 3

/-- Words of major 0x02 (R240 to R263). -/
def decodeSI (w : Nat) : Except Nat Instr :=
  match fld w 14 12 with
  | 0 => accept (.addi (fld w 31 31 == 1) (BitVec.ofNat 5 (fld w 24 20)) (BitVec.ofNat 5 (fld w 19 15)) (BitVec.ofNat 12 (fld w 11 0))) (0)
  | 1 => accept (.andi (fld w 31 31 == 1) (BitVec.ofNat 5 (fld w 24 20)) (BitVec.ofNat 5 (fld w 19 15)) (BitVec.ofNat 12 (fld w 11 0))) (0)
  | 2 => accept (.ori (fld w 31 31 == 1) (BitVec.ofNat 5 (fld w 24 20)) (BitVec.ofNat 5 (fld w 19 15)) (BitVec.ofNat 12 (fld w 11 0))) (0)
  | 3 => accept (.xori (fld w 31 31 == 1) (BitVec.ofNat 5 (fld w 24 20)) (BitVec.ofNat 5 (fld w 19 15)) (BitVec.ofNat 12 (fld w 11 0))) (0)
  | 4 => accept (.shli (fld w 31 31 == 1) (BitVec.ofNat 5 (fld w 24 20)) (BitVec.ofNat 5 (fld w 19 15)) (BitVec.ofNat 12 (fld w 11 0))) (0)
  | 5 => accept (.shri (fld w 31 31 == 1) (BitVec.ofNat 5 (fld w 24 20)) (BitVec.ofNat 5 (fld w 19 15)) (BitVec.ofNat 12 (fld w 11 0))) (0)
  | 6 => accept (.srai (fld w 31 31 == 1) (BitVec.ofNat 5 (fld w 24 20)) (BitVec.ofNat 5 (fld w 19 15)) (BitVec.ofNat 12 (fld w 11 0))) (0)
  | 7 => accept (.sltiS (fld w 31 31 == 1) (BitVec.ofNat 5 (fld w 24 20)) (BitVec.ofNat 5 (fld w 19 15)) (BitVec.ofNat 12 (fld w 11 0))) (0)
  | _ => .error 3

/-- Words of major 0x03 (R240 to R263). -/
def decodeSU (w : Nat) : Except Nat Instr :=
  accept (.luh (fld w 31 31 == 1) (BitVec.ofNat 5 (fld w 24 20)) (BitVec.ofNat 20 (fld w 19 0))) (0)

/-- Words of major 0x04 (R240 to R263). -/
def decodeSM (w : Nat) : Except Nat Instr :=
  match fld w 10 8 with
  | 0 => accept (.ldsN8 (fld w 31 31 == 1) (BitVec.ofNat 5 (fld w 24 20)) (BitVec.ofNat 4 (fld w 19 16)) (BitVec.ofNat 5 (fld w 15 11)) (BitVec.ofNat 8 (fld w 7 0))) (0)
  | 1 => accept (.ldsN16 (fld w 31 31 == 1) (BitVec.ofNat 5 (fld w 24 20)) (BitVec.ofNat 4 (fld w 19 16)) (BitVec.ofNat 5 (fld w 15 11)) (BitVec.ofNat 8 (fld w 7 0))) (0)
  | 2 => accept (.ldsN32 (fld w 31 31 == 1) (BitVec.ofNat 5 (fld w 24 20)) (BitVec.ofNat 4 (fld w 19 16)) (BitVec.ofNat 5 (fld w 15 11)) (BitVec.ofNat 8 (fld w 7 0))) (0)
  | 3 => accept (.ldsB64 (fld w 31 31 == 1) (BitVec.ofNat 5 (fld w 24 20)) (BitVec.ofNat 4 (fld w 19 16)) (BitVec.ofNat 5 (fld w 15 11)) (BitVec.ofNat 8 (fld w 7 0))) (0)
  | 4 => accept (.stsB8 (fld w 31 31 == 1) (BitVec.ofNat 5 (fld w 24 20)) (BitVec.ofNat 4 (fld w 19 16)) (BitVec.ofNat 5 (fld w 15 11)) (BitVec.ofNat 8 (fld w 7 0))) (0)
  | 5 => accept (.stsB16 (fld w 31 31 == 1) (BitVec.ofNat 5 (fld w 24 20)) (BitVec.ofNat 4 (fld w 19 16)) (BitVec.ofNat 5 (fld w 15 11)) (BitVec.ofNat 8 (fld w 7 0))) (0)
  | 6 => accept (.stsB32 (fld w 31 31 == 1) (BitVec.ofNat 5 (fld w 24 20)) (BitVec.ofNat 4 (fld w 19 16)) (BitVec.ofNat 5 (fld w 15 11)) (BitVec.ofNat 8 (fld w 7 0))) (0)
  | 7 => accept (.stsB64 (fld w 31 31 == 1) (BitVec.ofNat 5 (fld w 24 20)) (BitVec.ofNat 4 (fld w 19 16)) (BitVec.ofNat 5 (fld w 15 11)) (BitVec.ofNat 8 (fld w 7 0))) (0)
  | _ => .error 3

/-- Words of major 0x05 (R240 to R263). -/
def decodeSB (w : Nat) : Except Nat Instr :=
  match fld w 14 12 with
  | 0 => accept (.beq (fld w 31 31 == 1) (BitVec.ofNat 5 (fld w 24 20)) (BitVec.ofNat 5 (fld w 19 15)) (BitVec.ofNat 12 (fld w 11 0))) (0)
  | 1 => accept (.bne (fld w 31 31 == 1) (BitVec.ofNat 5 (fld w 24 20)) (BitVec.ofNat 5 (fld w 19 15)) (BitVec.ofNat 12 (fld w 11 0))) (0)
  | 2 => accept (.bltS (fld w 31 31 == 1) (BitVec.ofNat 5 (fld w 24 20)) (BitVec.ofNat 5 (fld w 19 15)) (BitVec.ofNat 12 (fld w 11 0))) (0)
  | 3 => accept (.bgeS (fld w 31 31 == 1) (BitVec.ofNat 5 (fld w 24 20)) (BitVec.ofNat 5 (fld w 19 15)) (BitVec.ofNat 12 (fld w 11 0))) (0)
  | 4 => accept (.bltN (fld w 31 31 == 1) (BitVec.ofNat 5 (fld w 24 20)) (BitVec.ofNat 5 (fld w 19 15)) (BitVec.ofNat 12 (fld w 11 0))) (0)
  | 5 => accept (.bgeN (fld w 31 31 == 1) (BitVec.ofNat 5 (fld w 24 20)) (BitVec.ofNat 5 (fld w 19 15)) (BitVec.ofNat 12 (fld w 11 0))) (0)
  | _ => .error 3

/-- Words of major 0x06 (R240 to R263). -/
def decodeSJ (w : Nat) : Except Nat Instr :=
  accept (.jal (fld w 31 31 == 1) (BitVec.ofNat 5 (fld w 24 20)) (BitVec.ofNat 20 (fld w 19 0))) (0)

/-- Words of major 0x07 (R240 to R263). -/
def decodeLR (w : Nat) : Except Nat Instr :=
  match fld w 9 5 with
  | 0 => accept (.emit (fld w 31 31 == 1) (BitVec.ofNat 5 (fld w 24 20)) (BitVec.ofNat 5 (fld w 19 15)) (BitVec.ofNat 5 (fld w 14 10))) (fld w 4 0)
  | 1 => accept (.emitnb (fld w 31 31 == 1) (BitVec.ofNat 5 (fld w 24 20)) (BitVec.ofNat 5 (fld w 19 15)) (BitVec.ofNat 5 (fld w 14 10))) (fld w 4 0)
  | 2 => accept (.emits (fld w 31 31 == 1) (BitVec.ofNat 5 (fld w 24 20)) (BitVec.ofNat 5 (fld w 14 10))) (fld w 4 0 + fld w 19 15)
  | 3 => accept (.sopen (fld w 31 31 == 1) (BitVec.ofNat 5 (fld w 19 15)) (BitVec.ofNat 5 (fld w 14 10))) (fld w 4 0 + fld w 24 20)
  | 4 => accept (.stins (fld w 31 31 == 1) (BitVec.ofNat 5 (fld w 24 20)) (BitVec.ofNat 5 (fld w 19 15))) (fld w 4 0 + fld w 14 10)
  | 5 => accept (.sdecl (fld w 31 31 == 1) (BitVec.ofNat 5 (fld w 24 20)) (BitVec.ofNat 5 (fld w 19 15))) (fld w 4 0 + fld w 14 10)
  | 6 => accept (.gwait (fld w 31 31 == 1) (BitVec.ofNat 5 (fld w 24 20)) (BitVec.ofNat 5 (fld w 19 15))) (fld w 4 0 + fld w 14 10)
  | 7 => accept (.grec (fld w 31 31 == 1) (BitVec.ofNat 5 (fld w 24 20)) (BitVec.ofNat 5 (fld w 19 15))) (fld w 4 0 + fld w 14 10)
  | 8 => accept (.gread (fld w 31 31 == 1) (BitVec.ofNat 5 (fld w 24 20)) (BitVec.ofNat 5 (fld w 19 15)) (BitVec.ofNat 5 (fld w 14 10))) (fld w 4 0)
  | 9 => accept (.gwrite (fld w 31 31 == 1) (BitVec.ofNat 5 (fld w 24 20)) (BitVec.ofNat 5 (fld w 19 15)) (BitVec.ofNat 5 (fld w 14 10))) (fld w 4 0)
  | 10 => accept (.gres (fld w 31 31 == 1) (BitVec.ofNat 5 (fld w 19 15)) (BitVec.ofNat 5 (fld w 14 10))) (fld w 4 0 + fld w 24 20)
  | 11 => accept (.gkill (fld w 31 31 == 1) (BitVec.ofNat 5 (fld w 24 20)) (BitVec.ofNat 5 (fld w 19 15))) (fld w 4 0 + fld w 14 10)
  | 12 => accept (.launch (fld w 31 31 == 1) (BitVec.ofNat 5 (fld w 24 20)) (BitVec.ofNat 5 (fld w 19 15)) (BitVec.ofNat 4 (fld w 4 1))) (fld w 0 0 + fld w 14 10)
  | _ => .error 3

/-- Words of major 0x10 (R240 to R263). -/
def decodeIntA (w : Nat) : Except Nat Instr :=
  match fld w 3 0 with
  | 0 => accept (.addV (fld w 31 31 == 1) (BitVec.ofNat 7 (fld w 24 18)) (BitVec.ofNat 7 (fld w 17 11)) (BitVec.ofNat 7 (fld w 10 4))) (0)
  | 1 => accept (.subV (fld w 31 31 == 1) (BitVec.ofNat 7 (fld w 24 18)) (BitVec.ofNat 7 (fld w 17 11)) (BitVec.ofNat 7 (fld w 10 4))) (0)
  | 2 => accept (.mulV (fld w 31 31 == 1) (BitVec.ofNat 7 (fld w 24 18)) (BitVec.ofNat 7 (fld w 17 11)) (BitVec.ofNat 7 (fld w 10 4))) (0)
  | 3 => accept (.mulhSV (fld w 31 31 == 1) (BitVec.ofNat 7 (fld w 24 18)) (BitVec.ofNat 7 (fld w 17 11)) (BitVec.ofNat 7 (fld w 10 4))) (0)
  | 4 => accept (.mulhNV (fld w 31 31 == 1) (BitVec.ofNat 7 (fld w 24 18)) (BitVec.ofNat 7 (fld w 17 11)) (BitVec.ofNat 7 (fld w 10 4))) (0)
  | 5 => accept (.andV (fld w 31 31 == 1) (BitVec.ofNat 7 (fld w 24 18)) (BitVec.ofNat 7 (fld w 17 11)) (BitVec.ofNat 7 (fld w 10 4))) (0)
  | 6 => accept (.orV (fld w 31 31 == 1) (BitVec.ofNat 7 (fld w 24 18)) (BitVec.ofNat 7 (fld w 17 11)) (BitVec.ofNat 7 (fld w 10 4))) (0)
  | 7 => accept (.xorV (fld w 31 31 == 1) (BitVec.ofNat 7 (fld w 24 18)) (BitVec.ofNat 7 (fld w 17 11)) (BitVec.ofNat 7 (fld w 10 4))) (0)
  | 8 => accept (.shlV (fld w 31 31 == 1) (BitVec.ofNat 7 (fld w 24 18)) (BitVec.ofNat 7 (fld w 17 11)) (BitVec.ofNat 7 (fld w 10 4))) (0)
  | 9 => accept (.shrV (fld w 31 31 == 1) (BitVec.ofNat 7 (fld w 24 18)) (BitVec.ofNat 7 (fld w 17 11)) (BitVec.ofNat 7 (fld w 10 4))) (0)
  | 10 => accept (.sraV (fld w 31 31 == 1) (BitVec.ofNat 7 (fld w 24 18)) (BitVec.ofNat 7 (fld w 17 11)) (BitVec.ofNat 7 (fld w 10 4))) (0)
  | 11 => accept (.minSV (fld w 31 31 == 1) (BitVec.ofNat 7 (fld w 24 18)) (BitVec.ofNat 7 (fld w 17 11)) (BitVec.ofNat 7 (fld w 10 4))) (0)
  | 12 => accept (.maxSV (fld w 31 31 == 1) (BitVec.ofNat 7 (fld w 24 18)) (BitVec.ofNat 7 (fld w 17 11)) (BitVec.ofNat 7 (fld w 10 4))) (0)
  | 13 => accept (.minNV (fld w 31 31 == 1) (BitVec.ofNat 7 (fld w 24 18)) (BitVec.ofNat 7 (fld w 17 11)) (BitVec.ofNat 7 (fld w 10 4))) (0)
  | 14 => accept (.maxNV (fld w 31 31 == 1) (BitVec.ofNat 7 (fld w 24 18)) (BitVec.ofNat 7 (fld w 17 11)) (BitVec.ofNat 7 (fld w 10 4))) (0)
  | 15 => accept (.absd (fld w 31 31 == 1) (BitVec.ofNat 7 (fld w 24 18)) (BitVec.ofNat 7 (fld w 17 11)) (BitVec.ofNat 7 (fld w 10 4))) (0)
  | _ => .error 3

/-- Words of major 0x11 (R240 to R263). -/
def decodeIntB (w : Nat) : Except Nat Instr :=
  match fld w 3 0 with
  | 0 => accept (.addsS (fld w 31 31 == 1) (BitVec.ofNat 7 (fld w 24 18)) (BitVec.ofNat 7 (fld w 17 11)) (BitVec.ofNat 7 (fld w 10 4))) (0)
  | 1 => accept (.addsN (fld w 31 31 == 1) (BitVec.ofNat 7 (fld w 24 18)) (BitVec.ofNat 7 (fld w 17 11)) (BitVec.ofNat 7 (fld w 10 4))) (0)
  | 2 => accept (.subsS (fld w 31 31 == 1) (BitVec.ofNat 7 (fld w 24 18)) (BitVec.ofNat 7 (fld w 17 11)) (BitVec.ofNat 7 (fld w 10 4))) (0)
  | 3 => accept (.subsN (fld w 31 31 == 1) (BitVec.ofNat 7 (fld w 24 18)) (BitVec.ofNat 7 (fld w 17 11)) (BitVec.ofNat 7 (fld w 10 4))) (0)
  | 4 => accept (.avgN (fld w 31 31 == 1) (BitVec.ofNat 7 (fld w 24 18)) (BitVec.ofNat 7 (fld w 17 11)) (BitVec.ofNat 7 (fld w 10 4))) (0)
  | 5 => accept (.clzV (fld w 31 31 == 1) (BitVec.ofNat 7 (fld w 24 18)) (BitVec.ofNat 7 (fld w 17 11))) (fld w 10 4)
  | 6 => accept (.popcV (fld w 31 31 == 1) (BitVec.ofNat 7 (fld w 24 18)) (BitVec.ofNat 7 (fld w 17 11))) (fld w 10 4)
  | 7 => accept (.brev (fld w 31 31 == 1) (BitVec.ofNat 7 (fld w 24 18)) (BitVec.ofNat 7 (fld w 17 11))) (fld w 10 4)
  | 8 => accept (.add64 (fld w 31 31 == 1) (BitVec.ofNat 7 (fld w 24 18)) (BitVec.ofNat 7 (fld w 17 11)) (BitVec.ofNat 7 (fld w 10 4))) (0)
  | 9 => accept (.sub64 (fld w 31 31 == 1) (BitVec.ofNat 7 (fld w 24 18)) (BitVec.ofNat 7 (fld w 17 11)) (BitVec.ofNat 7 (fld w 10 4))) (0)
  | 10 => accept (.mulwS (fld w 31 31 == 1) (BitVec.ofNat 7 (fld w 24 18)) (BitVec.ofNat 7 (fld w 17 11)) (BitVec.ofNat 7 (fld w 10 4))) (0)
  | 11 => accept (.mulwN (fld w 31 31 == 1) (BitVec.ofNat 7 (fld w 24 18)) (BitVec.ofNat 7 (fld w 17 11)) (BitVec.ofNat 7 (fld w 10 4))) (0)
  | 12 => accept (.dot4S8 (fld w 31 31 == 1) (BitVec.ofNat 7 (fld w 24 18)) (BitVec.ofNat 7 (fld w 17 11)) (BitVec.ofNat 7 (fld w 10 4))) (0)
  | 13 => accept (.dot4N8 (fld w 31 31 == 1) (BitVec.ofNat 7 (fld w 24 18)) (BitVec.ofNat 7 (fld w 17 11)) (BitVec.ofNat 7 (fld w 10 4))) (0)
  | 14 => accept (.bfxV (fld w 31 31 == 1) (BitVec.ofNat 7 (fld w 24 18)) (BitVec.ofNat 7 (fld w 17 11)) (BitVec.ofNat 7 (fld w 10 4))) (0)
  | 15 => accept (.bfiV (fld w 31 31 == 1) (BitVec.ofNat 7 (fld w 24 18)) (BitVec.ofNat 7 (fld w 17 11)) (BitVec.ofNat 7 (fld w 10 4))) (0)
  | _ => .error 3

/-- Words of major 0x12 (R240 to R263). -/
def decodeVI (w : Nat) : Except Nat Instr :=
  match fld w 10 8 with
  | 0 => accept (.addiV (fld w 31 31 == 1) (BitVec.ofNat 7 (fld w 24 18)) (BitVec.ofNat 7 (fld w 17 11)) (BitVec.ofNat 8 (fld w 7 0))) (0)
  | 1 => accept (.andiV (fld w 31 31 == 1) (BitVec.ofNat 7 (fld w 24 18)) (BitVec.ofNat 7 (fld w 17 11)) (BitVec.ofNat 8 (fld w 7 0))) (0)
  | 2 => accept (.oriV (fld w 31 31 == 1) (BitVec.ofNat 7 (fld w 24 18)) (BitVec.ofNat 7 (fld w 17 11)) (BitVec.ofNat 8 (fld w 7 0))) (0)
  | 3 => accept (.xoriV (fld w 31 31 == 1) (BitVec.ofNat 7 (fld w 24 18)) (BitVec.ofNat 7 (fld w 17 11)) (BitVec.ofNat 8 (fld w 7 0))) (0)
  | 4 => accept (.shliV (fld w 31 31 == 1) (BitVec.ofNat 7 (fld w 24 18)) (BitVec.ofNat 7 (fld w 17 11)) (BitVec.ofNat 8 (fld w 7 0))) (0)
  | 5 => accept (.shriV (fld w 31 31 == 1) (BitVec.ofNat 7 (fld w 24 18)) (BitVec.ofNat 7 (fld w 17 11)) (BitVec.ofNat 8 (fld w 7 0))) (0)
  | 6 => accept (.sraiV (fld w 31 31 == 1) (BitVec.ofNat 7 (fld w 24 18)) (BitVec.ofNat 7 (fld w 17 11)) (BitVec.ofNat 8 (fld w 7 0))) (0)
  | 7 => accept (.muli (fld w 31 31 == 1) (BitVec.ofNat 7 (fld w 24 18)) (BitVec.ofNat 7 (fld w 17 11)) (BitVec.ofNat 8 (fld w 7 0))) (0)
  | _ => .error 3

/-- Words of major 0x13 (R240 to R263). -/
def decodeFloat (w : Nat) : Except Nat Instr :=
  match fld w 3 0 with
  | 0 => accept (.faddF32 (fld w 31 31 == 1) (BitVec.ofNat 7 (fld w 24 18)) (BitVec.ofNat 7 (fld w 17 11)) (BitVec.ofNat 7 (fld w 10 4))) (0)
  | 1 => accept (.faddH2 (fld w 31 31 == 1) (BitVec.ofNat 7 (fld w 24 18)) (BitVec.ofNat 7 (fld w 17 11)) (BitVec.ofNat 7 (fld w 10 4))) (0)
  | 2 => accept (.faddB2 (fld w 31 31 == 1) (BitVec.ofNat 7 (fld w 24 18)) (BitVec.ofNat 7 (fld w 17 11)) (BitVec.ofNat 7 (fld w 10 4))) (0)
  | 3 => accept (.fsubF32 (fld w 31 31 == 1) (BitVec.ofNat 7 (fld w 24 18)) (BitVec.ofNat 7 (fld w 17 11)) (BitVec.ofNat 7 (fld w 10 4))) (0)
  | 4 => accept (.fsubH2 (fld w 31 31 == 1) (BitVec.ofNat 7 (fld w 24 18)) (BitVec.ofNat 7 (fld w 17 11)) (BitVec.ofNat 7 (fld w 10 4))) (0)
  | 5 => accept (.fsubB2 (fld w 31 31 == 1) (BitVec.ofNat 7 (fld w 24 18)) (BitVec.ofNat 7 (fld w 17 11)) (BitVec.ofNat 7 (fld w 10 4))) (0)
  | 6 => accept (.fmulF32 (fld w 31 31 == 1) (BitVec.ofNat 7 (fld w 24 18)) (BitVec.ofNat 7 (fld w 17 11)) (BitVec.ofNat 7 (fld w 10 4))) (0)
  | 7 => accept (.fmulH2 (fld w 31 31 == 1) (BitVec.ofNat 7 (fld w 24 18)) (BitVec.ofNat 7 (fld w 17 11)) (BitVec.ofNat 7 (fld w 10 4))) (0)
  | 8 => accept (.fmulB2 (fld w 31 31 == 1) (BitVec.ofNat 7 (fld w 24 18)) (BitVec.ofNat 7 (fld w 17 11)) (BitVec.ofNat 7 (fld w 10 4))) (0)
  | 9 => accept (.fminF32 (fld w 31 31 == 1) (BitVec.ofNat 7 (fld w 24 18)) (BitVec.ofNat 7 (fld w 17 11)) (BitVec.ofNat 7 (fld w 10 4))) (0)
  | 10 => accept (.fminH2 (fld w 31 31 == 1) (BitVec.ofNat 7 (fld w 24 18)) (BitVec.ofNat 7 (fld w 17 11)) (BitVec.ofNat 7 (fld w 10 4))) (0)
  | 11 => accept (.fminB2 (fld w 31 31 == 1) (BitVec.ofNat 7 (fld w 24 18)) (BitVec.ofNat 7 (fld w 17 11)) (BitVec.ofNat 7 (fld w 10 4))) (0)
  | 12 => accept (.fmaxF32 (fld w 31 31 == 1) (BitVec.ofNat 7 (fld w 24 18)) (BitVec.ofNat 7 (fld w 17 11)) (BitVec.ofNat 7 (fld w 10 4))) (0)
  | 13 => accept (.fmaxH2 (fld w 31 31 == 1) (BitVec.ofNat 7 (fld w 24 18)) (BitVec.ofNat 7 (fld w 17 11)) (BitVec.ofNat 7 (fld w 10 4))) (0)
  | 14 => accept (.fmaxB2 (fld w 31 31 == 1) (BitVec.ofNat 7 (fld w 24 18)) (BitVec.ofNat 7 (fld w 17 11)) (BitVec.ofNat 7 (fld w 10 4))) (0)
  | _ => .error 3

/-- Words of major 0x14 (R240 to R263). -/
def decodeFused (w : Nat) : Except Nat Instr :=
  match fld w 3 0 with
  | 0 => accept (.ffmaF32 (fld w 31 31 == 1) (BitVec.ofNat 7 (fld w 24 18)) (BitVec.ofNat 7 (fld w 17 11)) (BitVec.ofNat 7 (fld w 10 4))) (0)
  | 1 => accept (.ffmaH2 (fld w 31 31 == 1) (BitVec.ofNat 7 (fld w 24 18)) (BitVec.ofNat 7 (fld w 17 11)) (BitVec.ofNat 7 (fld w 10 4))) (0)
  | 2 => accept (.ffmaB2 (fld w 31 31 == 1) (BitVec.ofNat 7 (fld w 24 18)) (BitVec.ofNat 7 (fld w 17 11)) (BitVec.ofNat 7 (fld w 10 4))) (0)
  | 3 => accept (.ffmsF32 (fld w 31 31 == 1) (BitVec.ofNat 7 (fld w 24 18)) (BitVec.ofNat 7 (fld w 17 11)) (BitVec.ofNat 7 (fld w 10 4))) (0)
  | 4 => accept (.ffmsH2 (fld w 31 31 == 1) (BitVec.ofNat 7 (fld w 24 18)) (BitVec.ofNat 7 (fld w 17 11)) (BitVec.ofNat 7 (fld w 10 4))) (0)
  | 5 => accept (.ffmsB2 (fld w 31 31 == 1) (BitVec.ofNat 7 (fld w 24 18)) (BitVec.ofNat 7 (fld w 17 11)) (BitVec.ofNat 7 (fld w 10 4))) (0)
  | 6 => accept (.fnmaF32 (fld w 31 31 == 1) (BitVec.ofNat 7 (fld w 24 18)) (BitVec.ofNat 7 (fld w 17 11)) (BitVec.ofNat 7 (fld w 10 4))) (0)
  | 7 => accept (.fnmaH2 (fld w 31 31 == 1) (BitVec.ofNat 7 (fld w 24 18)) (BitVec.ofNat 7 (fld w 17 11)) (BitVec.ofNat 7 (fld w 10 4))) (0)
  | 8 => accept (.fnmaB2 (fld w 31 31 == 1) (BitVec.ofNat 7 (fld w 24 18)) (BitVec.ofNat 7 (fld w 17 11)) (BitVec.ofNat 7 (fld w 10 4))) (0)
  | 9 => accept (.ffmawH (fld w 31 31 == 1) (BitVec.ofNat 7 (fld w 24 18)) (BitVec.ofNat 7 (fld w 17 11)) (BitVec.ofNat 7 (fld w 10 4))) (0)
  | 10 => accept (.ffmawB (fld w 31 31 == 1) (BitVec.ofNat 7 (fld w 24 18)) (BitVec.ofNat 7 (fld w 17 11)) (BitVec.ofNat 7 (fld w 10 4))) (0)
  | _ => .error 3

/-- Words of major 0x15 (R240 to R263). -/
def decodeUnary (w : Nat) : Except Nat Instr :=
  match fld w 3 0 with
  | 0 => need (FTy.ofCode (fld w 5 4)) fun t => accept (.frcp (fld w 31 31 == 1) (BitVec.ofNat 7 (fld w 24 18)) (BitVec.ofNat 7 (fld w 17 11)) t) (fld w 10 6)
  | 1 => need (FTy.ofCode (fld w 5 4)) fun t => accept (.frsqrt (fld w 31 31 == 1) (BitVec.ofNat 7 (fld w 24 18)) (BitVec.ofNat 7 (fld w 17 11)) t) (fld w 10 6)
  | 2 => need (FTy.ofCode (fld w 5 4)) fun t => accept (.fsqrt (fld w 31 31 == 1) (BitVec.ofNat 7 (fld w 24 18)) (BitVec.ofNat 7 (fld w 17 11)) t) (fld w 10 6)
  | 3 => need (FTy.ofCode (fld w 5 4)) fun t => accept (.fex2 (fld w 31 31 == 1) (BitVec.ofNat 7 (fld w 24 18)) (BitVec.ofNat 7 (fld w 17 11)) t) (fld w 10 6)
  | 4 => need (FTy.ofCode (fld w 5 4)) fun t => accept (.flg2 (fld w 31 31 == 1) (BitVec.ofNat 7 (fld w 24 18)) (BitVec.ofNat 7 (fld w 17 11)) t) (fld w 10 6)
  | 5 => need (FTy.ofCode (fld w 5 4)) fun t => accept (.fsinp (fld w 31 31 == 1) (BitVec.ofNat 7 (fld w 24 18)) (BitVec.ofNat 7 (fld w 17 11)) t) (fld w 10 6)
  | 6 => need (FTy.ofCode (fld w 5 4)) fun t => accept (.fcosp (fld w 31 31 == 1) (BitVec.ofNat 7 (fld w 24 18)) (BitVec.ofNat 7 (fld w 17 11)) t) (fld w 10 6)
  | 7 => need (FTy.ofCode (fld w 5 4)) fun t => accept (.ftanh (fld w 31 31 == 1) (BitVec.ofNat 7 (fld w 24 18)) (BitVec.ofNat 7 (fld w 17 11)) t) (fld w 10 6)
  | 8 => need (FTy.ofCode (fld w 5 4)) fun t => accept (.ffrac (fld w 31 31 == 1) (BitVec.ofNat 7 (fld w 24 18)) (BitVec.ofNat 7 (fld w 17 11)) t) (fld w 10 6)
  | 9 => need (FTy.ofCode (fld w 5 4)) fun t => accept (.fclass (fld w 31 31 == 1) (BitVec.ofNat 7 (fld w 24 18)) (BitVec.ofNat 7 (fld w 17 11)) t) (fld w 10 6)
  | _ => .error 3

/-- Words of major 0x16 (R240 to R263). -/
def decodeVT (w : Nat) : Except Nat Instr :=
  match fld w 2 0 with
  | 0 => need (TyCode.ofCode (fld w 10 7)) fun y => need (TyCode.ofCode (fld w 6 3)) fun z => accept (.cvt (fld w 31 31 == 1) (BitVec.ofNat 7 (fld w 24 18)) (BitVec.ofNat 7 (fld w 17 11)) y z) (0)
  | 1 => accept (.cvtmfE (fld w 31 31 == 1) (BitVec.ofNat 7 (fld w 24 18)) (BitVec.ofNat 7 (fld w 17 11)) (BitVec.ofNat 5 (fld w 10 6))) (fld w 5 3)
  | 2 => accept (.cvtmfD (fld w 31 31 == 1) (BitVec.ofNat 7 (fld w 24 18)) (BitVec.ofNat 7 (fld w 17 11)) (BitVec.ofNat 5 (fld w 10 6))) (fld w 5 3)
  | 3 => need (Pair.ofCode (fld w 3 3)) fun t => accept (.pk2 (fld w 31 31 == 1) (BitVec.ofNat 7 (fld w 24 18)) (BitVec.ofNat 7 (fld w 17 11)) (BitVec.ofNat 7 (fld w 10 4)) t) (0)
  | 4 => need (Pair.ofCode (fld w 3 3)) fun t => accept (.upk (fld w 31 31 == 1) (BitVec.ofNat 7 (fld w 24 18)) (BitVec.ofNat 7 (fld w 17 11)) (fld w 4 4 == 1) t) (fld w 10 5)
  | _ => .error 3

/-- Words of major 0x17 (R240 to R263). -/
def decodeVC (w : Nat) : Except Nat Instr :=
  if fld w 21 18 = 8 then need (TyCode.ofCode (fld w 3 0)) fun t => accept (.ftst (fld w 31 31 == 1) (BitVec.ofNat 3 (fld w 24 22)) (BitVec.ofNat 7 (fld w 17 11)) (BitVec.ofNat 7 (fld w 10 4)) t) (0)
  else need (CmpCond.ofCode (fld w 21 18)) fun c => need (TyCode.ofCode (fld w 3 0)) fun t => accept (.cmp (fld w 31 31 == 1) (BitVec.ofNat 3 (fld w 24 22)) c (BitVec.ofNat 7 (fld w 17 11)) (BitVec.ofNat 7 (fld w 10 4)) t) (0)

/-- Words of major 0x18 (R240 to R263). -/
def decodeVS (w : Nat) : Except Nat Instr :=
  if fld w 3 1 = 0 then accept (.plog (fld w 31 31 == 1) (BitVec.ofNat 3 (fld w 24 22)) (BitVec.ofNat 4 (fld w 21 18)) (BitVec.ofNat 3 (fld w 17 15)) (BitVec.ofNat 3 (fld w 10 8))) (fld w 7 0 + fld w 14 11)
  else accept (.sel (fld w 31 31 == 1) (BitVec.ofNat 7 (fld w 24 18)) (BitVec.ofNat 7 (fld w 17 11)) (BitVec.ofNat 7 (fld w 10 4)) (BitVec.ofNat 3 (fld w 3 1)) (fld w 0 0 == 1)) (0)

/-- Words of major 0x19 (R240 to R263). -/
def decodeLane (w : Nat) : Except Nat Instr :=
  match fld w 3 0 with
  | 0 => accept (.shflIdx (fld w 31 31 == 1) (BitVec.ofNat 7 (fld w 24 18)) (BitVec.ofNat 7 (fld w 17 11)) (BitVec.ofNat 7 (fld w 10 4))) (0)
  | 1 => accept (.shflUp (fld w 31 31 == 1) (BitVec.ofNat 7 (fld w 24 18)) (BitVec.ofNat 7 (fld w 17 11)) (BitVec.ofNat 7 (fld w 10 4))) (0)
  | 2 => accept (.shflDn (fld w 31 31 == 1) (BitVec.ofNat 7 (fld w 24 18)) (BitVec.ofNat 7 (fld w 17 11)) (BitVec.ofNat 7 (fld w 10 4))) (0)
  | 3 => accept (.shflXor (fld w 31 31 == 1) (BitVec.ofNat 7 (fld w 24 18)) (BitVec.ofNat 7 (fld w 17 11)) (BitVec.ofNat 7 (fld w 10 4))) (0)
  | 4 => accept (.bcast (fld w 31 31 == 1) (BitVec.ofNat 7 (fld w 24 18)) (BitVec.ofNat 7 (fld w 17 11)) (BitVec.ofNat 7 (fld w 10 4))) (0)
  | 5 => accept (.ballot (fld w 31 31 == 1) (BitVec.ofNat 7 (fld w 24 18)) (BitVec.ofNat 3 (fld w 13 11))) (fld w 10 4 + fld w 17 14)
  | 6 => accept (.vrank (fld w 31 31 == 1) (BitVec.ofNat 7 (fld w 24 18)) (BitVec.ofNat 3 (fld w 13 11))) (fld w 10 4 + fld w 17 14)
  | 7 => accept (.vcount (fld w 31 31 == 1) (BitVec.ofNat 7 (fld w 24 18)) (BitVec.ofNat 3 (fld w 13 11))) (fld w 10 4 + fld w 17 14)
  | 8 => accept (.vany (fld w 31 31 == 1) (BitVec.ofNat 3 (fld w 20 18)) (BitVec.ofNat 3 (fld w 13 11))) (fld w 10 4 + fld w 17 14 + fld w 24 21)
  | 9 => accept (.vall (fld w 31 31 == 1) (BitVec.ofNat 3 (fld w 20 18)) (BitVec.ofNat 3 (fld w 13 11))) (fld w 10 4 + fld w 17 14 + fld w 24 21)
  | 10 => need (TyCode.ofCode (fld w 7 4)) fun t => accept (.redadd (fld w 31 31 == 1) (BitVec.ofNat 7 (fld w 24 18)) (BitVec.ofNat 7 (fld w 17 11)) t) (fld w 10 8)
  | 11 => need (TyCode.ofCode (fld w 7 4)) fun t => accept (.redmax (fld w 31 31 == 1) (BitVec.ofNat 7 (fld w 24 18)) (BitVec.ofNat 7 (fld w 17 11)) t) (fld w 10 8)
  | 12 => need (TyCode.ofCode (fld w 7 4)) fun t => accept (.redmin (fld w 31 31 == 1) (BitVec.ofNat 7 (fld w 24 18)) (BitVec.ofNat 7 (fld w 17 11)) t) (fld w 10 8)
  | 13 => need (TyCode.ofCode (fld w 7 4)) fun t => accept (.scanadd (fld w 31 31 == 1) (BitVec.ofNat 7 (fld w 24 18)) (BitVec.ofNat 7 (fld w 17 11)) t) (fld w 10 8)
  | _ => .error 3

/-- Words of major 0x1A (R240 to R263). -/
def decodeVX (w : Nat) : Except Nat Instr :=
  match fld w 3 0 with
  | 0 => accept (.mov (fld w 31 31 == 1) (BitVec.ofNat 7 (fld w 24 18)) (BitVec.ofNat 7 (fld w 17 11))) (fld w 10 4)
  | 1 => accept (.movs (fld w 31 31 == 1) (BitVec.ofNat 7 (fld w 24 18)) (BitVec.ofNat 5 (fld w 15 11))) (fld w 10 4 + fld w 17 16)
  | 2 => accept (.movi (fld w 31 31 == 1) (BitVec.ofNat 7 (fld w 24 18)) (BitVec.ofNat 14 (fld w 17 4))) (0)
  | 3 => accept (.rdlane (fld w 31 31 == 1) (BitVec.ofNat 5 (fld w 22 18)) (BitVec.ofNat 7 (fld w 17 11)) (BitVec.ofNat 5 (fld w 8 4))) (fld w 10 9 + fld w 24 23)
  | 4 => accept (.wrlane (fld w 31 31 == 1) (BitVec.ofNat 7 (fld w 24 18)) (BitVec.ofNat 5 (fld w 15 11)) (BitVec.ofNat 5 (fld w 8 4))) (fld w 10 9 + fld w 17 16)
  | 5 => accept (.rdsp (fld w 31 31 == 1) (BitVec.ofNat 7 (fld w 24 18))) (fld w 17 4)
  | 6 => accept (.movp (fld w 31 31 == 1) (BitVec.ofNat 7 (fld w 24 18)) (BitVec.ofNat 3 (fld w 13 11))) (fld w 10 4 + fld w 17 14)
  | 7 => accept (.setp (fld w 31 31 == 1) (BitVec.ofNat 3 (fld w 20 18)) (BitVec.ofNat 7 (fld w 17 11))) (fld w 10 4 + fld w 24 21)
  | _ => .error 3

/-- Words of major 0x20 (R240 to R263). -/
def decodeLd (w : Nat) : Except Nat Instr :=
  need (LdTy.ofCode (fld w 6 4)) fun t => accept (.ld (fld w 31 31 == 1) (BitVec.ofNat 7 (fld w 24 18)) (BitVec.ofNat 4 (fld w 17 14)) (BitVec.ofNat 7 (fld w 13 7)) t (BitVec.ofNat 4 (fld w 3 0))) (0)

/-- Words of major 0x21 (R240 to R263). -/
def decodeSt (w : Nat) : Except Nat Instr :=
  need (StTy.ofCode (fld w 6 4)) fun t => accept (.st (fld w 31 31 == 1) (BitVec.ofNat 7 (fld w 24 18)) (BitVec.ofNat 4 (fld w 17 14)) (BitVec.ofNat 7 (fld w 13 7)) t (BitVec.ofNat 4 (fld w 3 0))) (0)

/-- Words of major 0x22 (R240 to R263). -/
def decodeAtom32 (w : Nat) : Except Nat Instr :=
  match fld w 6 6 with
  | 0 => need (AtomOp.ofCode (fld w 5 3)) fun o => need (Scope.ofCode (fld w 2 0)) fun c => accept (.atom (fld w 31 31 == 1) (BitVec.ofNat 7 (fld w 24 18)) (BitVec.ofNat 4 (fld w 17 14)) (BitVec.ofNat 7 (fld w 13 7)) o c) (0)
  | 1 => need (AtomOp.ofCode (fld w 5 3)) fun o => need (Scope.ofCode (fld w 2 0)) fun c => accept (.atomx (fld w 31 31 == 1) (BitVec.ofNat 7 (fld w 24 18)) (BitVec.ofNat 4 (fld w 17 14)) (BitVec.ofNat 7 (fld w 13 7)) o c) (0)
  | _ => .error 3

/-- Words of major 0x23 (R240 to R263). -/
def decodeAtom64 (w : Nat) : Except Nat Instr :=
  match fld w 6 6 with
  | 0 => need (AtomOp.ofCode (fld w 5 3)) fun o => need (Scope.ofCode (fld w 2 0)) fun c => accept (.atom64 (fld w 31 31 == 1) (BitVec.ofNat 7 (fld w 24 18)) (BitVec.ofNat 4 (fld w 17 14)) (BitVec.ofNat 7 (fld w 13 7)) o c) (0)
  | 1 => need (AtomOp.ofCode (fld w 5 3)) fun o => need (Scope.ofCode (fld w 2 0)) fun c => accept (.atomx64 (fld w 31 31 == 1) (BitVec.ofNat 7 (fld w 24 18)) (BitVec.ofNat 4 (fld w 17 14)) (BitVec.ofNat 7 (fld w 13 7)) o c) (0)
  | _ => .error 3

/-- Words of major 0x24 (R240 to R263). -/
def decodeSN (w : Nat) : Except Nat Instr :=
  match fld w 24 22 with
  | 0 => need (Scope.ofCode (fld w 9 7)) fun c => accept (.fence (fld w 31 31 == 1) (BitVec.ofNat 6 (fld w 21 16)) (BitVec.ofNat 6 (fld w 15 10)) c) (fld w 6 0)
  | 1 => accept (.barinit (fld w 31 31 == 1) (BitVec.ofNat 4 (fld w 21 18)) (BitVec.ofNat 5 (fld w 17 13)) (BitVec.ofNat 5 (fld w 12 8))) (fld w 7 0)
  | 2 => need (Scope.ofCode (fld w 7 5)) fun c => accept (.barr (fld w 31 31 == 1) (BitVec.ofNat 4 (fld w 21 18)) (BitVec.ofNat 5 (fld w 17 13)) c (BitVec.ofNat 5 (fld w 4 0))) (fld w 12 8)
  | 3 => need (Scope.ofCode (fld w 7 5)) fun c => accept (.barw (fld w 31 31 == 1) (BitVec.ofNat 4 (fld w 21 18)) (BitVec.ofNat 5 (fld w 17 13)) (BitVec.ofNat 5 (fld w 12 8)) c) (fld w 4 0)
  | 4 => need (Scope.ofCode (fld w 7 5)) fun c => accept (.bars (fld w 31 31 == 1) (BitVec.ofNat 4 (fld w 21 18)) (BitVec.ofNat 5 (fld w 17 13)) c (BitVec.ofNat 5 (fld w 4 0))) (fld w 12 8)
  | 5 => accept (.waitw (fld w 31 31 == 1) (BitVec.ofNat 4 (fld w 21 18)) (BitVec.ofNat 5 (fld w 17 13)) (BitVec.ofNat 5 (fld w 12 8))) (fld w 7 0)
  | _ => .error 3

/-- Words of major 0x25 (R240 to R263). -/
def decodeKP (w : Nat) : Except Nat Instr :=
  match fld w 24 22 with
  | 0 => accept (.kmov (fld w 31 31 == 1) (BitVec.ofNat 4 (fld w 20 17)) (BitVec.ofNat 4 (fld w 16 13))) (fld w 12 0 + fld w 21 21)
  | 1 => accept (.kwin (fld w 31 31 == 1) (BitVec.ofNat 4 (fld w 20 17)) (BitVec.ofNat 4 (fld w 16 13)) (BitVec.ofNat 5 (fld w 12 8)) (BitVec.ofNat 5 (fld w 7 3))) (fld w 2 0 + fld w 21 21)
  | 2 => accept (.krights (fld w 31 31 == 1) (BitVec.ofNat 4 (fld w 20 17)) (BitVec.ofNat 4 (fld w 16 13)) (BitVec.ofNat 5 (fld w 12 8))) (fld w 7 0 + fld w 21 21)
  | 3 => accept (.kld (fld w 31 31 == 1) (BitVec.ofNat 4 (fld w 20 17)) (BitVec.ofNat 4 (fld w 16 13)) (BitVec.ofNat 5 (fld w 12 8))) (fld w 7 0 + fld w 21 21)
  | 4 => accept (.kst (fld w 31 31 == 1) (BitVec.ofNat 4 (fld w 20 17)) (BitVec.ofNat 4 (fld w 16 13)) (BitVec.ofNat 5 (fld w 12 8))) (fld w 7 0 + fld w 21 21)
  | 5 => need (CapField.ofCode (fld w 2 0)) fun x => accept (.kget (fld w 31 31 == 1) (BitVec.ofNat 5 (fld w 21 17)) (BitVec.ofNat 4 (fld w 16 13)) x) (fld w 12 3)
  | 6 => accept (.ktag (fld w 31 31 == 1) (BitVec.ofNat 5 (fld w 21 17)) (BitVec.ofNat 4 (fld w 16 13))) (fld w 12 0)
  | _ => .error 3

/-- Words of major 0x28 (R240 to R263). -/
def decodeMC (w : Nat) : Except Nat Instr :=
  match fld w 24 23 with
  | 0 => accept (.tcfg (fld w 31 31 == 1) (BitVec.ofNat 4 (fld w 22 19)) (BitVec.ofNat 5 (fld w 18 14))) (fld w 13 0)
  | 1 => accept (.acfg (fld w 31 31 == 1) (BitVec.ofNat 3 (fld w 21 19)) (BitVec.ofNat 5 (fld w 18 14))) (fld w 13 0 + fld w 22 22)
  | _ => .error 3

/-- Words of major 0x29 (R240 to R263). -/
def decodeMT (w : Nat) : Except Nat Instr :=
  match fld w 24 24 with
  | 0 => need (Part.ofCode (fld w 5 4)) fun p => accept (.tld (fld w 31 31 == 1) (BitVec.ofNat 4 (fld w 23 20)) (BitVec.ofNat 4 (fld w 19 16)) (BitVec.ofNat 5 (fld w 15 11)) (BitVec.ofNat 5 (fld w 10 6)) p) (fld w 3 0)
  | 1 => need (Part.ofCode (fld w 5 4)) fun p => accept (.tst (fld w 31 31 == 1) (BitVec.ofNat 4 (fld w 23 20)) (BitVec.ofNat 4 (fld w 19 16)) (BitVec.ofNat 5 (fld w 15 11)) (BitVec.ofNat 5 (fld w 10 6)) p) (fld w 3 0)
  | _ => .error 3

/-- Words of major 0x2A (R240 to R263). -/
def decodeMM (w : Nat) : Except Nat Instr :=
  match fld w 24 24 with
  | 0 => need (Shape.ofCode (fld w 12 11)) fun h => accept (.mma (fld w 31 31 == 1) (BitVec.ofNat 3 (fld w 23 21)) (BitVec.ofNat 4 (fld w 20 17)) (BitVec.ofNat 4 (fld w 16 13)) h) (fld w 10 0)
  | 1 => need (MmbOp.ofCode (fld w 11 11)) fun o => accept (.mmb (fld w 31 31 == 1) (BitVec.ofNat 3 (fld w 23 21)) (BitVec.ofNat 4 (fld w 20 17)) (BitVec.ofNat 4 (fld w 16 13)) o) (fld w 10 0 + fld w 12 12)
  | _ => .error 3

/-- Words of major 0x2B (R240 to R263). -/
def decodeMA (w : Nat) : Except Nat Instr :=
  match fld w 24 23 with
  | 0 => accept (.azero (fld w 31 31 == 1) (BitVec.ofNat 3 (fld w 22 20))) (fld w 19 0)
  | 1 => accept (.ard (fld w 31 31 == 1) (BitVec.ofNat 3 (fld w 22 20)) (BitVec.ofNat 7 (fld w 19 13)) (BitVec.ofNat 6 (fld w 12 7))) (fld w 6 0)
  | 2 => accept (.awr (fld w 31 31 == 1) (BitVec.ofNat 3 (fld w 22 20)) (BitVec.ofNat 7 (fld w 19 13)) (BitVec.ofNat 6 (fld w 12 7))) (fld w 6 0)
  | 3 => need (AcvtDir.ofCode (fld w 6 5)) fun c => accept (.acvt (fld w 31 31 == 1) (BitVec.ofNat 3 (fld w 22 20)) c) (fld w 4 0 + fld w 19 7)
  | _ => .error 3

/-- Words of major 0x30 (R240 to R263). -/
def decodeCP (w : Nat) : Except Nat Instr :=
  match fld w 24 22 with
  | 0 => accept (.cpyLin (fld w 31 31 == 1) (BitVec.ofNat 5 (fld w 21 17))) (fld w 16 0)
  | 1 => need (Lay.ofCode (fld w 16 15)) fun l => accept (.cpyTen (fld w 31 31 == 1) (BitVec.ofNat 5 (fld w 21 17)) l) (fld w 14 0)
  | 2 => accept (.cpyGat (fld w 31 31 == 1) (BitVec.ofNat 5 (fld w 21 17))) (fld w 16 0)
  | 3 => accept (.cpySct (fld w 31 31 == 1) (BitVec.ofNat 5 (fld w 21 17))) (fld w 16 0)
  | 4 => need (Rop.ofCode (fld w 14 11)) fun r => accept (.cpyRed (fld w 31 31 == 1) (BitVec.ofNat 5 (fld w 21 17)) r) (fld w 10 0 + fld w 16 15)
  | 5 => accept (.qfence (fld w 31 31 == 1) (BitVec.ofNat 3 (fld w 21 19)) (BitVec.ofNat 8 (fld w 18 11))) (fld w 10 0)
  | _ => .error 3

/-- Words of major 0x38 (R240 to R263). -/
def decodeCT (w : Nat) : Except Nat Instr :=
  match fld w 24 22 with
  | 0 => accept (.nop (fld w 31 31 == 1)) (fld w 21 0)
  | 1 => accept (.setblk (fld w 31 31 == 1) (BitVec.ofNat 8 (fld w 21 14)) (BitVec.ofNat 8 (fld w 13 6)) (BitVec.ofNat 3 (fld w 5 3))) (fld w 2 0)
  | 2 => accept (.setblkv (fld w 31 31 == 1) (BitVec.ofNat 7 (fld w 21 15))) (fld w 14 0)
  | 3 => accept (.vote (fld w 31 31 == 1)) (fld w 21 0)
  | 4 => accept (.exit (fld w 31 31 == 1)) (fld w 21 0)
  | 5 => accept (.fuse (fld w 31 31 == 1) (BitVec.ofNat 5 (fld w 21 17)) (BitVec.ofNat 4 (fld w 16 13))) (fld w 12 0)
  | 6 => accept (.trap (fld w 31 31 == 1) (BitVec.ofNat 16 (fld w 15 0))) (fld w 21 16)
  | _ => .error 3

/-- Words of major 0x39 (R240 to R263). -/
def decodeHN (w : Nat) : Except Nat Instr :=
  match fld w 24 22 with
  | 0 => accept (.slot (fld w 31 31 == 1) (BitVec.ofNat 8 (fld w 7 0))) (fld w 21 8)
  | 1 => accept (.grd (fld w 31 31 == 1) (BitVec.ofNat 3 (fld w 21 19)) (fld w 18 18 == 1) (BitVec.ofNat 3 (fld w 17 15))) (fld w 14 0)
  | 2 => need (PfLevel.ofCode (fld w 10 9)) fun l => accept (.pfch (fld w 31 31 == 1) (BitVec.ofNat 4 (fld w 21 18)) (BitVec.ofNat 7 (fld w 17 11)) l) (fld w 8 0)
  | 3 => need (CachePol.ofCode (fld w 21 19)) fun p => accept (.cach (fld w 31 31 == 1) p) (fld w 18 0)
  | _ => .error 3

/-- Words of major 0x3A (R240 to R263). -/
def decodeSY (w : Nat) : Except Nat Instr :=
  match fld w 24 22 with
  | 0 => if srAssigned (fld w 14 7) = false then .error 3 else if (fld w 6 0 + (if srPerLane (fld w 14 7) then 0 else fld w 21 20)) ≠ 0 then .error 4 else .ok (.rdsr (fld w 31 31 == 1) (BitVec.ofNat 7 (fld w 21 15)) (BitVec.ofNat 8 (fld w 14 7)))
  | 1 => accept (.wrsr (fld w 31 31 == 1) (BitVec.ofNat 5 (fld w 19 15)) (BitVec.ofNat 8 (fld w 14 7))) (fld w 6 0 + fld w 21 20)
  | 2 => if fld w 21 21 = 0 then accept (.setfmImm (fld w 31 31 == 1) (BitVec.ofNat 16 (fld w 15 0))) (fld w 20 16)
    else accept (.setfmReg (fld w 31 31 == 1) (BitVec.ofNat 7 (fld w 20 14))) (fld w 13 0)
  | 3 => accept (.brk (fld w 31 31 == 1) (BitVec.ofNat 16 (fld w 15 0))) (fld w 21 16)
  | 4 => accept (.sinv (fld w 31 31 == 1) (BitVec.ofNat 4 (fld w 21 18)) (BitVec.ofNat 5 (fld w 17 13)) (BitVec.ofNat 5 (fld w 12 8))) (fld w 7 0)
  | _ => .error 3

/-- Words of major 0x3B (R240 to R263). -/
def decodeHX (w : Nat) : Except Nat Instr :=
  accept (.hix (fld w 31 31 == 1) (BitVec.ofNat 25 (fld w 24 0))) (0)

/-- The instruction of a word, or the lowest reason of R205 that the word alone shows (R241, R264). (DEDUCED: log 24) -/
def decode (w : Nat) : Except Nat Instr :=
  if w = 0 ∨ w = 0xFFFFFFFF then .error 1 else
  match fld w 30 25 with
  | 0x01 => decodeSR w
  | 0x02 => decodeSI w
  | 0x03 => decodeSU w
  | 0x04 => decodeSM w
  | 0x05 => decodeSB w
  | 0x06 => decodeSJ w
  | 0x07 => decodeLR w
  | 0x10 => decodeIntA w
  | 0x11 => decodeIntB w
  | 0x12 => decodeVI w
  | 0x13 => decodeFloat w
  | 0x14 => decodeFused w
  | 0x15 => decodeUnary w
  | 0x16 => decodeVT w
  | 0x17 => decodeVC w
  | 0x18 => decodeVS w
  | 0x19 => decodeLane w
  | 0x1A => decodeVX w
  | 0x20 => decodeLd w
  | 0x21 => decodeSt w
  | 0x22 => decodeAtom32 w
  | 0x23 => decodeAtom64 w
  | 0x24 => decodeSN w
  | 0x25 => decodeKP w
  | 0x28 => decodeMC w
  | 0x29 => decodeMT w
  | 0x2A => decodeMM w
  | 0x2B => decodeMA w
  | 0x30 => decodeCP w
  | 0x38 => decodeCT w
  | 0x39 => decodeHN w
  | 0x3A => decodeSY w
  | 0x3B => decodeHX w
  | _ => .error 2

/-- The little-endian number that bytes hold (R1). -/
def leNat : List Byte → Nat
  | [] => 0
  | b :: bs => b.toNat + 256 * leNat bs

/-- Decoding the first four bytes at a place; fewer bytes hold no word. -/
def decodeBytes : List Byte → Except Nat Instr
  | b0 :: b1 :: b2 :: b3 :: _ => decode (leNat [b0, b1, b2, b3])
  | _ => .error 0

/-- The instruction of a row's word, numbered as the opcode table numbers its bits. -/
def decodeTableWord (nbits w : Nat) : Option Instr :=
  if nbits ≤ 32 then
    match decode (w % 2 ^ nbits) with
    | .ok i => some i
    | .error _ => none
  else none

/-- A field's value standing at its lowest bit. -/
def place (v lo : Nat) : Nat := v * 2 ^ lo

/-- A word from its fixed bits and its placed fields. -/
def word (fixed : Nat) (fields : List Nat) : Nat := fields.foldl (· + ·) fixed

/-- The word of an instruction (R238 to R263); none for a step that has no encoding. (DEDUCED: log 24) -/
def encode : Instr → Option Nat
  | .add S d a b => some (word 0x02000000 [(place S.toNat 31), (place d.toNat 20), (place a.toNat 15), (place b.toNat 10)])
  | .sub S d a b => some (word 0x02000001 [(place S.toNat 31), (place d.toNat 20), (place a.toNat 15), (place b.toNat 10)])
  | .mul S d a b => some (word 0x02000002 [(place S.toNat 31), (place d.toNat 20), (place a.toNat 15), (place b.toNat 10)])
  | .mulhS S d a b => some (word 0x02000003 [(place S.toNat 31), (place d.toNat 20), (place a.toNat 15), (place b.toNat 10)])
  | .mulhN S d a b => some (word 0x02000004 [(place S.toNat 31), (place d.toNat 20), (place a.toNat 15), (place b.toNat 10)])
  | .divS S d a b => some (word 0x02000005 [(place S.toNat 31), (place d.toNat 20), (place a.toNat 15), (place b.toNat 10)])
  | .divN S d a b => some (word 0x02000006 [(place S.toNat 31), (place d.toNat 20), (place a.toNat 15), (place b.toNat 10)])
  | .remS S d a b => some (word 0x02000007 [(place S.toNat 31), (place d.toNat 20), (place a.toNat 15), (place b.toNat 10)])
  | .remN S d a b => some (word 0x02000008 [(place S.toNat 31), (place d.toNat 20), (place a.toNat 15), (place b.toNat 10)])
  | .and S d a b => some (word 0x02000009 [(place S.toNat 31), (place d.toNat 20), (place a.toNat 15), (place b.toNat 10)])
  | .or S d a b => some (word 0x0200000A [(place S.toNat 31), (place d.toNat 20), (place a.toNat 15), (place b.toNat 10)])
  | .xor S d a b => some (word 0x0200000B [(place S.toNat 31), (place d.toNat 20), (place a.toNat 15), (place b.toNat 10)])
  | .shl S d a b => some (word 0x0200000C [(place S.toNat 31), (place d.toNat 20), (place a.toNat 15), (place b.toNat 10)])
  | .shr S d a b => some (word 0x0200000D [(place S.toNat 31), (place d.toNat 20), (place a.toNat 15), (place b.toNat 10)])
  | .sra S d a b => some (word 0x0200000E [(place S.toNat 31), (place d.toNat 20), (place a.toNat 15), (place b.toNat 10)])
  | .minS S d a b => some (word 0x0200000F [(place S.toNat 31), (place d.toNat 20), (place a.toNat 15), (place b.toNat 10)])
  | .maxS S d a b => some (word 0x02000010 [(place S.toNat 31), (place d.toNat 20), (place a.toNat 15), (place b.toNat 10)])
  | .minN S d a b => some (word 0x02000011 [(place S.toNat 31), (place d.toNat 20), (place a.toNat 15), (place b.toNat 10)])
  | .maxN S d a b => some (word 0x02000012 [(place S.toNat 31), (place d.toNat 20), (place a.toNat 15), (place b.toNat 10)])
  | .sltS S d a b => some (word 0x02000013 [(place S.toNat 31), (place d.toNat 20), (place a.toNat 15), (place b.toNat 10)])
  | .sltN S d a b => some (word 0x02000014 [(place S.toNat 31), (place d.toNat 20), (place a.toNat 15), (place b.toNat 10)])
  | .seq S d a b => some (word 0x02000015 [(place S.toNat 31), (place d.toNat 20), (place a.toNat 15), (place b.toNat 10)])
  | .bfxS S d a b => some (word 0x02000016 [(place S.toNat 31), (place d.toNat 20), (place a.toNat 15), (place b.toNat 10)])
  | .bfxN S d a b => some (word 0x02000017 [(place S.toNat 31), (place d.toNat 20), (place a.toNat 15), (place b.toNat 10)])
  | .bfi S d a b => some (word 0x02000018 [(place S.toNat 31), (place d.toNat 20), (place a.toNat 15), (place b.toNat 10)])
  | .clz S d a => some (word 0x02000019 [(place S.toNat 31), (place d.toNat 20), (place a.toNat 15)])
  | .ctz S d a => some (word 0x0200001A [(place S.toNat 31), (place d.toNat 20), (place a.toNat 15)])
  | .popc S d a => some (word 0x0200001B [(place S.toNat 31), (place d.toNat 20), (place a.toNat 15)])
  | .jalr S d a => some (word 0x0200001C [(place S.toNat 31), (place d.toNat 20), (place a.toNat 15)])
  | .addi S d a i => some (word 0x04000000 [(place S.toNat 31), (place d.toNat 20), (place a.toNat 15), (place i.toNat 0)])
  | .andi S d a i => some (word 0x04001000 [(place S.toNat 31), (place d.toNat 20), (place a.toNat 15), (place i.toNat 0)])
  | .ori S d a i => some (word 0x04002000 [(place S.toNat 31), (place d.toNat 20), (place a.toNat 15), (place i.toNat 0)])
  | .xori S d a i => some (word 0x04003000 [(place S.toNat 31), (place d.toNat 20), (place a.toNat 15), (place i.toNat 0)])
  | .shli S d a i => some (word 0x04004000 [(place S.toNat 31), (place d.toNat 20), (place a.toNat 15), (place i.toNat 0)])
  | .shri S d a i => some (word 0x04005000 [(place S.toNat 31), (place d.toNat 20), (place a.toNat 15), (place i.toNat 0)])
  | .srai S d a i => some (word 0x04006000 [(place S.toNat 31), (place d.toNat 20), (place a.toNat 15), (place i.toNat 0)])
  | .sltiS S d a i => some (word 0x04007000 [(place S.toNat 31), (place d.toNat 20), (place a.toNat 15), (place i.toNat 0)])
  | .luh S d i => some (word 0x06000000 [(place S.toNat 31), (place d.toNat 20), (place i.toNat 0)])
  | .ldsN8 S d k a i => some (word 0x08000000 [(place S.toNat 31), (place d.toNat 20), (place k.toNat 16), (place a.toNat 11), (place i.toNat 0)])
  | .ldsN16 S d k a i => some (word 0x08000100 [(place S.toNat 31), (place d.toNat 20), (place k.toNat 16), (place a.toNat 11), (place i.toNat 0)])
  | .ldsN32 S d k a i => some (word 0x08000200 [(place S.toNat 31), (place d.toNat 20), (place k.toNat 16), (place a.toNat 11), (place i.toNat 0)])
  | .ldsB64 S d k a i => some (word 0x08000300 [(place S.toNat 31), (place d.toNat 20), (place k.toNat 16), (place a.toNat 11), (place i.toNat 0)])
  | .stsB8 S d k a i => some (word 0x08000400 [(place S.toNat 31), (place d.toNat 20), (place k.toNat 16), (place a.toNat 11), (place i.toNat 0)])
  | .stsB16 S d k a i => some (word 0x08000500 [(place S.toNat 31), (place d.toNat 20), (place k.toNat 16), (place a.toNat 11), (place i.toNat 0)])
  | .stsB32 S d k a i => some (word 0x08000600 [(place S.toNat 31), (place d.toNat 20), (place k.toNat 16), (place a.toNat 11), (place i.toNat 0)])
  | .stsB64 S d k a i => some (word 0x08000700 [(place S.toNat 31), (place d.toNat 20), (place k.toNat 16), (place a.toNat 11), (place i.toNat 0)])
  | .beq S a b o => some (word 0x0A000000 [(place S.toNat 31), (place a.toNat 20), (place b.toNat 15), (place o.toNat 0)])
  | .bne S a b o => some (word 0x0A001000 [(place S.toNat 31), (place a.toNat 20), (place b.toNat 15), (place o.toNat 0)])
  | .bltS S a b o => some (word 0x0A002000 [(place S.toNat 31), (place a.toNat 20), (place b.toNat 15), (place o.toNat 0)])
  | .bgeS S a b o => some (word 0x0A003000 [(place S.toNat 31), (place a.toNat 20), (place b.toNat 15), (place o.toNat 0)])
  | .bltN S a b o => some (word 0x0A004000 [(place S.toNat 31), (place a.toNat 20), (place b.toNat 15), (place o.toNat 0)])
  | .bgeN S a b o => some (word 0x0A005000 [(place S.toNat 31), (place a.toNat 20), (place b.toNat 15), (place o.toNat 0)])
  | .jal S d o => some (word 0x0C000000 [(place S.toNat 31), (place d.toNat 20), (place o.toNat 0)])
  | .emit S d a b => some (word 0x0E000000 [(place S.toNat 31), (place d.toNat 20), (place a.toNat 15), (place b.toNat 10)])
  | .emitnb S d a b => some (word 0x0E000020 [(place S.toNat 31), (place d.toNat 20), (place a.toNat 15), (place b.toNat 10)])
  | .emits S d b => some (word 0x0E000040 [(place S.toNat 31), (place d.toNat 20), (place b.toNat 10)])
  | .sopen S a b => some (word 0x0E000060 [(place S.toNat 31), (place a.toNat 15), (place b.toNat 10)])
  | .stins S d a => some (word 0x0E000080 [(place S.toNat 31), (place d.toNat 20), (place a.toNat 15)])
  | .sdecl S d a => some (word 0x0E0000A0 [(place S.toNat 31), (place d.toNat 20), (place a.toNat 15)])
  | .gwait S d a => some (word 0x0E0000C0 [(place S.toNat 31), (place d.toNat 20), (place a.toNat 15)])
  | .grec S d a => some (word 0x0E0000E0 [(place S.toNat 31), (place d.toNat 20), (place a.toNat 15)])
  | .gread S d a b => some (word 0x0E000100 [(place S.toNat 31), (place d.toNat 20), (place a.toNat 15), (place b.toNat 10)])
  | .gwrite S d a b => some (word 0x0E000120 [(place S.toNat 31), (place d.toNat 20), (place a.toNat 15), (place b.toNat 10)])
  | .gres S a b => some (word 0x0E000140 [(place S.toNat 31), (place a.toNat 15), (place b.toNat 10)])
  | .gkill S d a => some (word 0x0E000160 [(place S.toNat 31), (place d.toNat 20), (place a.toNat 15)])
  | .launch S d a k => some (word 0x0E000180 [(place S.toNat 31), (place d.toNat 20), (place a.toNat 15), (place k.toNat 1)])
  | .addV S d a b => some (word 0x20000000 [(place S.toNat 31), (place d.toNat 18), (place a.toNat 11), (place b.toNat 4)])
  | .subV S d a b => some (word 0x20000001 [(place S.toNat 31), (place d.toNat 18), (place a.toNat 11), (place b.toNat 4)])
  | .mulV S d a b => some (word 0x20000002 [(place S.toNat 31), (place d.toNat 18), (place a.toNat 11), (place b.toNat 4)])
  | .mulhSV S d a b => some (word 0x20000003 [(place S.toNat 31), (place d.toNat 18), (place a.toNat 11), (place b.toNat 4)])
  | .mulhNV S d a b => some (word 0x20000004 [(place S.toNat 31), (place d.toNat 18), (place a.toNat 11), (place b.toNat 4)])
  | .andV S d a b => some (word 0x20000005 [(place S.toNat 31), (place d.toNat 18), (place a.toNat 11), (place b.toNat 4)])
  | .orV S d a b => some (word 0x20000006 [(place S.toNat 31), (place d.toNat 18), (place a.toNat 11), (place b.toNat 4)])
  | .xorV S d a b => some (word 0x20000007 [(place S.toNat 31), (place d.toNat 18), (place a.toNat 11), (place b.toNat 4)])
  | .shlV S d a b => some (word 0x20000008 [(place S.toNat 31), (place d.toNat 18), (place a.toNat 11), (place b.toNat 4)])
  | .shrV S d a b => some (word 0x20000009 [(place S.toNat 31), (place d.toNat 18), (place a.toNat 11), (place b.toNat 4)])
  | .sraV S d a b => some (word 0x2000000A [(place S.toNat 31), (place d.toNat 18), (place a.toNat 11), (place b.toNat 4)])
  | .minSV S d a b => some (word 0x2000000B [(place S.toNat 31), (place d.toNat 18), (place a.toNat 11), (place b.toNat 4)])
  | .maxSV S d a b => some (word 0x2000000C [(place S.toNat 31), (place d.toNat 18), (place a.toNat 11), (place b.toNat 4)])
  | .minNV S d a b => some (word 0x2000000D [(place S.toNat 31), (place d.toNat 18), (place a.toNat 11), (place b.toNat 4)])
  | .maxNV S d a b => some (word 0x2000000E [(place S.toNat 31), (place d.toNat 18), (place a.toNat 11), (place b.toNat 4)])
  | .absd S d a b => some (word 0x2000000F [(place S.toNat 31), (place d.toNat 18), (place a.toNat 11), (place b.toNat 4)])
  | .addsS S d a b => some (word 0x22000000 [(place S.toNat 31), (place d.toNat 18), (place a.toNat 11), (place b.toNat 4)])
  | .addsN S d a b => some (word 0x22000001 [(place S.toNat 31), (place d.toNat 18), (place a.toNat 11), (place b.toNat 4)])
  | .subsS S d a b => some (word 0x22000002 [(place S.toNat 31), (place d.toNat 18), (place a.toNat 11), (place b.toNat 4)])
  | .subsN S d a b => some (word 0x22000003 [(place S.toNat 31), (place d.toNat 18), (place a.toNat 11), (place b.toNat 4)])
  | .avgN S d a b => some (word 0x22000004 [(place S.toNat 31), (place d.toNat 18), (place a.toNat 11), (place b.toNat 4)])
  | .clzV S d a => some (word 0x22000005 [(place S.toNat 31), (place d.toNat 18), (place a.toNat 11)])
  | .popcV S d a => some (word 0x22000006 [(place S.toNat 31), (place d.toNat 18), (place a.toNat 11)])
  | .brev S d a => some (word 0x22000007 [(place S.toNat 31), (place d.toNat 18), (place a.toNat 11)])
  | .add64 S d a b => some (word 0x22000008 [(place S.toNat 31), (place d.toNat 18), (place a.toNat 11), (place b.toNat 4)])
  | .sub64 S d a b => some (word 0x22000009 [(place S.toNat 31), (place d.toNat 18), (place a.toNat 11), (place b.toNat 4)])
  | .mulwS S d a b => some (word 0x2200000A [(place S.toNat 31), (place d.toNat 18), (place a.toNat 11), (place b.toNat 4)])
  | .mulwN S d a b => some (word 0x2200000B [(place S.toNat 31), (place d.toNat 18), (place a.toNat 11), (place b.toNat 4)])
  | .dot4S8 S d a b => some (word 0x2200000C [(place S.toNat 31), (place d.toNat 18), (place a.toNat 11), (place b.toNat 4)])
  | .dot4N8 S d a b => some (word 0x2200000D [(place S.toNat 31), (place d.toNat 18), (place a.toNat 11), (place b.toNat 4)])
  | .bfxV S d a b => some (word 0x2200000E [(place S.toNat 31), (place d.toNat 18), (place a.toNat 11), (place b.toNat 4)])
  | .bfiV S d a b => some (word 0x2200000F [(place S.toNat 31), (place d.toNat 18), (place a.toNat 11), (place b.toNat 4)])
  | .addiV S d a i => some (word 0x24000000 [(place S.toNat 31), (place d.toNat 18), (place a.toNat 11), (place i.toNat 0)])
  | .andiV S d a i => some (word 0x24000100 [(place S.toNat 31), (place d.toNat 18), (place a.toNat 11), (place i.toNat 0)])
  | .oriV S d a i => some (word 0x24000200 [(place S.toNat 31), (place d.toNat 18), (place a.toNat 11), (place i.toNat 0)])
  | .xoriV S d a i => some (word 0x24000300 [(place S.toNat 31), (place d.toNat 18), (place a.toNat 11), (place i.toNat 0)])
  | .shliV S d a i => some (word 0x24000400 [(place S.toNat 31), (place d.toNat 18), (place a.toNat 11), (place i.toNat 0)])
  | .shriV S d a i => some (word 0x24000500 [(place S.toNat 31), (place d.toNat 18), (place a.toNat 11), (place i.toNat 0)])
  | .sraiV S d a i => some (word 0x24000600 [(place S.toNat 31), (place d.toNat 18), (place a.toNat 11), (place i.toNat 0)])
  | .muli S d a i => some (word 0x24000700 [(place S.toNat 31), (place d.toNat 18), (place a.toNat 11), (place i.toNat 0)])
  | .faddF32 S d a b => some (word 0x26000000 [(place S.toNat 31), (place d.toNat 18), (place a.toNat 11), (place b.toNat 4)])
  | .faddH2 S d a b => some (word 0x26000001 [(place S.toNat 31), (place d.toNat 18), (place a.toNat 11), (place b.toNat 4)])
  | .faddB2 S d a b => some (word 0x26000002 [(place S.toNat 31), (place d.toNat 18), (place a.toNat 11), (place b.toNat 4)])
  | .fsubF32 S d a b => some (word 0x26000003 [(place S.toNat 31), (place d.toNat 18), (place a.toNat 11), (place b.toNat 4)])
  | .fsubH2 S d a b => some (word 0x26000004 [(place S.toNat 31), (place d.toNat 18), (place a.toNat 11), (place b.toNat 4)])
  | .fsubB2 S d a b => some (word 0x26000005 [(place S.toNat 31), (place d.toNat 18), (place a.toNat 11), (place b.toNat 4)])
  | .fmulF32 S d a b => some (word 0x26000006 [(place S.toNat 31), (place d.toNat 18), (place a.toNat 11), (place b.toNat 4)])
  | .fmulH2 S d a b => some (word 0x26000007 [(place S.toNat 31), (place d.toNat 18), (place a.toNat 11), (place b.toNat 4)])
  | .fmulB2 S d a b => some (word 0x26000008 [(place S.toNat 31), (place d.toNat 18), (place a.toNat 11), (place b.toNat 4)])
  | .fminF32 S d a b => some (word 0x26000009 [(place S.toNat 31), (place d.toNat 18), (place a.toNat 11), (place b.toNat 4)])
  | .fminH2 S d a b => some (word 0x2600000A [(place S.toNat 31), (place d.toNat 18), (place a.toNat 11), (place b.toNat 4)])
  | .fminB2 S d a b => some (word 0x2600000B [(place S.toNat 31), (place d.toNat 18), (place a.toNat 11), (place b.toNat 4)])
  | .fmaxF32 S d a b => some (word 0x2600000C [(place S.toNat 31), (place d.toNat 18), (place a.toNat 11), (place b.toNat 4)])
  | .fmaxH2 S d a b => some (word 0x2600000D [(place S.toNat 31), (place d.toNat 18), (place a.toNat 11), (place b.toNat 4)])
  | .fmaxB2 S d a b => some (word 0x2600000E [(place S.toNat 31), (place d.toNat 18), (place a.toNat 11), (place b.toNat 4)])
  | .ffmaF32 S d a b => some (word 0x28000000 [(place S.toNat 31), (place d.toNat 18), (place a.toNat 11), (place b.toNat 4)])
  | .ffmaH2 S d a b => some (word 0x28000001 [(place S.toNat 31), (place d.toNat 18), (place a.toNat 11), (place b.toNat 4)])
  | .ffmaB2 S d a b => some (word 0x28000002 [(place S.toNat 31), (place d.toNat 18), (place a.toNat 11), (place b.toNat 4)])
  | .ffmsF32 S d a b => some (word 0x28000003 [(place S.toNat 31), (place d.toNat 18), (place a.toNat 11), (place b.toNat 4)])
  | .ffmsH2 S d a b => some (word 0x28000004 [(place S.toNat 31), (place d.toNat 18), (place a.toNat 11), (place b.toNat 4)])
  | .ffmsB2 S d a b => some (word 0x28000005 [(place S.toNat 31), (place d.toNat 18), (place a.toNat 11), (place b.toNat 4)])
  | .fnmaF32 S d a b => some (word 0x28000006 [(place S.toNat 31), (place d.toNat 18), (place a.toNat 11), (place b.toNat 4)])
  | .fnmaH2 S d a b => some (word 0x28000007 [(place S.toNat 31), (place d.toNat 18), (place a.toNat 11), (place b.toNat 4)])
  | .fnmaB2 S d a b => some (word 0x28000008 [(place S.toNat 31), (place d.toNat 18), (place a.toNat 11), (place b.toNat 4)])
  | .ffmawH S d a b => some (word 0x28000009 [(place S.toNat 31), (place d.toNat 18), (place a.toNat 11), (place b.toNat 4)])
  | .ffmawB S d a b => some (word 0x2800000A [(place S.toNat 31), (place d.toNat 18), (place a.toNat 11), (place b.toNat 4)])
  | .frcp S d a t => some (word 0x2A000000 [(place S.toNat 31), (place d.toNat 18), (place a.toNat 11), (place t.code 4)])
  | .frsqrt S d a t => some (word 0x2A000001 [(place S.toNat 31), (place d.toNat 18), (place a.toNat 11), (place t.code 4)])
  | .fsqrt S d a t => some (word 0x2A000002 [(place S.toNat 31), (place d.toNat 18), (place a.toNat 11), (place t.code 4)])
  | .fex2 S d a t => some (word 0x2A000003 [(place S.toNat 31), (place d.toNat 18), (place a.toNat 11), (place t.code 4)])
  | .flg2 S d a t => some (word 0x2A000004 [(place S.toNat 31), (place d.toNat 18), (place a.toNat 11), (place t.code 4)])
  | .fsinp S d a t => some (word 0x2A000005 [(place S.toNat 31), (place d.toNat 18), (place a.toNat 11), (place t.code 4)])
  | .fcosp S d a t => some (word 0x2A000006 [(place S.toNat 31), (place d.toNat 18), (place a.toNat 11), (place t.code 4)])
  | .ftanh S d a t => some (word 0x2A000007 [(place S.toNat 31), (place d.toNat 18), (place a.toNat 11), (place t.code 4)])
  | .ffrac S d a t => some (word 0x2A000008 [(place S.toNat 31), (place d.toNat 18), (place a.toNat 11), (place t.code 4)])
  | .fclass S d a t => some (word 0x2A000009 [(place S.toNat 31), (place d.toNat 18), (place a.toNat 11), (place t.code 4)])
  | .cvt S d a y z => some (word 0x2C000000 [(place S.toNat 31), (place d.toNat 18), (place a.toNat 11), (place y.code 7), (place z.code 3)])
  | .cvtmfE S d a b => some (word 0x2C000001 [(place S.toNat 31), (place d.toNat 18), (place a.toNat 11), (place b.toNat 6)])
  | .cvtmfD S d a b => some (word 0x2C000002 [(place S.toNat 31), (place d.toNat 18), (place a.toNat 11), (place b.toNat 6)])
  | .pk2 S d a b t => some (word 0x2C000003 [(place S.toNat 31), (place d.toNat 18), (place a.toNat 11), (place b.toNat 4), (place t.code 3)])
  | .upk S d a h t => some (word 0x2C000004 [(place S.toNat 31), (place d.toNat 18), (place a.toNat 11), (place h.toNat 4), (place t.code 3)])
  | .cmp S p c a b t => some (word 0x2E000000 [(place S.toNat 31), (place p.toNat 22), (place c.code 18), (place a.toNat 11), (place b.toNat 4), (place t.code 0)])
  | .ftst S p a b t => some (word 0x2E200000 [(place S.toNat 31), (place p.toNat 22), (place a.toNat 11), (place b.toNat 4), (place t.code 0)])
  | .sel S d a b p i => some (word 0x30000000 [(place S.toNat 31), (place d.toNat 18), (place a.toNat 11), (place b.toNat 4), (place p.toNat 1), (place i.toNat 0)])
  | .plog S d t a b => some (word 0x30000000 [(place S.toNat 31), (place d.toNat 22), (place t.toNat 18), (place a.toNat 15), (place b.toNat 8)])
  | .shflIdx S d a b => some (word 0x32000000 [(place S.toNat 31), (place d.toNat 18), (place a.toNat 11), (place b.toNat 4)])
  | .shflUp S d a b => some (word 0x32000001 [(place S.toNat 31), (place d.toNat 18), (place a.toNat 11), (place b.toNat 4)])
  | .shflDn S d a b => some (word 0x32000002 [(place S.toNat 31), (place d.toNat 18), (place a.toNat 11), (place b.toNat 4)])
  | .shflXor S d a b => some (word 0x32000003 [(place S.toNat 31), (place d.toNat 18), (place a.toNat 11), (place b.toNat 4)])
  | .bcast S d a b => some (word 0x32000004 [(place S.toNat 31), (place d.toNat 18), (place a.toNat 11), (place b.toNat 4)])
  | .ballot S d p => some (word 0x32000005 [(place S.toNat 31), (place d.toNat 18), (place p.toNat 11)])
  | .vrank S d p => some (word 0x32000006 [(place S.toNat 31), (place d.toNat 18), (place p.toNat 11)])
  | .vcount S d p => some (word 0x32000007 [(place S.toNat 31), (place d.toNat 18), (place p.toNat 11)])
  | .vany S d p => some (word 0x32000008 [(place S.toNat 31), (place d.toNat 18), (place p.toNat 11)])
  | .vall S d p => some (word 0x32000009 [(place S.toNat 31), (place d.toNat 18), (place p.toNat 11)])
  | .redadd S d a t => some (word 0x3200000A [(place S.toNat 31), (place d.toNat 18), (place a.toNat 11), (place t.code 4)])
  | .redmax S d a t => some (word 0x3200000B [(place S.toNat 31), (place d.toNat 18), (place a.toNat 11), (place t.code 4)])
  | .redmin S d a t => some (word 0x3200000C [(place S.toNat 31), (place d.toNat 18), (place a.toNat 11), (place t.code 4)])
  | .scanadd S d a t => some (word 0x3200000D [(place S.toNat 31), (place d.toNat 18), (place a.toNat 11), (place t.code 4)])
  | .mov S d a => some (word 0x34000000 [(place S.toNat 31), (place d.toNat 18), (place a.toNat 11)])
  | .movs S d a => some (word 0x34000001 [(place S.toNat 31), (place d.toNat 18), (place a.toNat 11)])
  | .movi S d i => some (word 0x34000002 [(place S.toNat 31), (place d.toNat 18), (place i.toNat 4)])
  | .rdlane S d a b => some (word 0x34000003 [(place S.toNat 31), (place d.toNat 18), (place a.toNat 11), (place b.toNat 4)])
  | .wrlane S d a b => some (word 0x34000004 [(place S.toNat 31), (place d.toNat 18), (place a.toNat 11), (place b.toNat 4)])
  | .rdsp S d => some (word 0x34000005 [(place S.toNat 31), (place d.toNat 18)])
  | .movp S d p => some (word 0x34000006 [(place S.toNat 31), (place d.toNat 18), (place p.toNat 11)])
  | .setp S d a => some (word 0x34000007 [(place S.toNat 31), (place d.toNat 18), (place a.toNat 11)])
  | .ld S d k a t i => some (word 0x40000000 [(place S.toNat 31), (place d.toNat 18), (place k.toNat 14), (place a.toNat 7), (place t.code 4), (place i.toNat 0)])
  | .st S d k a t i => some (word 0x42000000 [(place S.toNat 31), (place d.toNat 18), (place k.toNat 14), (place a.toNat 7), (place t.code 4), (place i.toNat 0)])
  | .atom S d k a o c => some (word 0x44000000 [(place S.toNat 31), (place d.toNat 18), (place k.toNat 14), (place a.toNat 7), (place o.code 3), (place c.code 0)])
  | .atomx S d k a o c => some (word 0x44000040 [(place S.toNat 31), (place d.toNat 18), (place k.toNat 14), (place a.toNat 7), (place o.code 3), (place c.code 0)])
  | .atom64 S d k a o c => some (word 0x46000000 [(place S.toNat 31), (place d.toNat 18), (place k.toNat 14), (place a.toNat 7), (place o.code 3), (place c.code 0)])
  | .atomx64 S d k a o c => some (word 0x46000040 [(place S.toNat 31), (place d.toNat 18), (place k.toNat 14), (place a.toNat 7), (place o.code 3), (place c.code 0)])
  | .fence S p q c => some (word 0x48000000 [(place S.toNat 31), (place p.toNat 16), (place q.toNat 10), (place c.code 7)])
  | .barinit S k a b => some (word 0x48400000 [(place S.toNat 31), (place k.toNat 18), (place a.toNat 13), (place b.toNat 8)])
  | .barr S k a c n => some (word 0x48800000 [(place S.toNat 31), (place k.toNat 18), (place a.toNat 13), (place c.code 5), (place n.toNat 0)])
  | .barw S k a b c => some (word 0x48C00000 [(place S.toNat 31), (place k.toNat 18), (place a.toNat 13), (place b.toNat 8), (place c.code 5)])
  | .bars S k a c n => some (word 0x49000000 [(place S.toNat 31), (place k.toNat 18), (place a.toNat 13), (place c.code 5), (place n.toNat 0)])
  | .waitw S k a b => some (word 0x49400000 [(place S.toNat 31), (place k.toNat 18), (place a.toNat 13), (place b.toNat 8)])
  | .kmov S d k => some (word 0x4A000000 [(place S.toNat 31), (place d.toNat 17), (place k.toNat 13)])
  | .kwin S d k a b => some (word 0x4A400000 [(place S.toNat 31), (place d.toNat 17), (place k.toNat 13), (place a.toNat 8), (place b.toNat 3)])
  | .krights S d k a => some (word 0x4A800000 [(place S.toNat 31), (place d.toNat 17), (place k.toNat 13), (place a.toNat 8)])
  | .kld S d k a => some (word 0x4AC00000 [(place S.toNat 31), (place d.toNat 17), (place k.toNat 13), (place a.toNat 8)])
  | .kst S d k a => some (word 0x4B000000 [(place S.toNat 31), (place d.toNat 17), (place k.toNat 13), (place a.toNat 8)])
  | .kget S d k x => some (word 0x4B400000 [(place S.toNat 31), (place d.toNat 17), (place k.toNat 13), (place x.code 0)])
  | .ktag S d k => some (word 0x4B800000 [(place S.toNat 31), (place d.toNat 17), (place k.toNat 13)])
  | .tcfg S t a => some (word 0x50000000 [(place S.toNat 31), (place t.toNat 19), (place a.toNat 14)])
  | .acfg S d a => some (word 0x50800000 [(place S.toNat 31), (place d.toNat 19), (place a.toNat 14)])
  | .tld S t k a b p => some (word 0x52000000 [(place S.toNat 31), (place t.toNat 20), (place k.toNat 16), (place a.toNat 11), (place b.toNat 6), (place p.code 4)])
  | .tst S t k a b p => some (word 0x53000000 [(place S.toNat 31), (place t.toNat 20), (place k.toNat 16), (place a.toNat 11), (place b.toNat 6), (place p.code 4)])
  | .mma S d a b h => some (word 0x54000000 [(place S.toNat 31), (place d.toNat 21), (place a.toNat 17), (place b.toNat 13), (place h.code 11)])
  | .mmb S d a b o => some (word 0x55000000 [(place S.toNat 31), (place d.toNat 21), (place a.toNat 17), (place b.toNat 13), (place o.code 11)])
  | .azero S d => some (word 0x56000000 [(place S.toNat 31), (place d.toNat 20)])
  | .ard S d v c => some (word 0x56800000 [(place S.toNat 31), (place d.toNat 20), (place v.toNat 13), (place c.toNat 7)])
  | .awr S d v c => some (word 0x57000000 [(place S.toNat 31), (place d.toNat 20), (place v.toNat 13), (place c.toNat 7)])
  | .acvt S d c => some (word 0x57800000 [(place S.toNat 31), (place d.toNat 20), (place c.code 5)])
  | .cpyLin S b => some (word 0x60000000 [(place S.toNat 31), (place b.toNat 17)])
  | .cpyTen S b l => some (word 0x60400000 [(place S.toNat 31), (place b.toNat 17), (place l.code 15)])
  | .cpyGat S b => some (word 0x60800000 [(place S.toNat 31), (place b.toNat 17)])
  | .cpySct S b => some (word 0x60C00000 [(place S.toNat 31), (place b.toNat 17)])
  | .cpyRed S b r => some (word 0x61000000 [(place S.toNat 31), (place b.toNat 17), (place r.code 11)])
  | .qfence S q m => some (word 0x61400000 [(place S.toNat 31), (place q.toNat 19), (place m.toNat 11)])
  | .nop S => some (word 0x70000000 [(place S.toNat 31)])
  | .setblk S a b p => some (word 0x70400000 [(place S.toNat 31), (place a.toNat 14), (place b.toNat 6), (place p.toNat 3)])
  | .setblkv S v => some (word 0x70800000 [(place S.toNat 31), (place v.toNat 15)])
  | .vote S => some (word 0x70C00000 [(place S.toNat 31)])
  | .exit S => some (word 0x71000000 [(place S.toNat 31)])
  | .fuse S d s => some (word 0x71400000 [(place S.toNat 31), (place d.toNat 17), (place s.toNat 13)])
  | .trap S c => some (word 0x71800000 [(place S.toNat 31), (place c.toNat 0)])
  | .slot S m => some (word 0x72000000 [(place S.toNat 31), (place m.toNat 0)])
  | .grd S p i n => some (word 0x72400000 [(place S.toNat 31), (place p.toNat 19), (place i.toNat 18), (place n.toNat 15)])
  | .pfch S k v l => some (word 0x72800000 [(place S.toNat 31), (place k.toNat 18), (place v.toNat 11), (place l.code 9)])
  | .cach S p => some (word 0x72C00000 [(place S.toNat 31), (place p.code 19)])
  | .hix S p => some (word 0x76000000 [(place S.toNat 31), (place p.toNat 0)])
  | .rdsr S d e => some (word 0x74000000 [(place S.toNat 31), (place d.toNat 15), (place e.toNat 7)])
  | .wrsr S a e => some (word 0x74400000 [(place S.toNat 31), (place a.toNat 15), (place e.toNat 7)])
  | .setfmImm S i => some (word 0x74800000 [(place S.toNat 31), (place i.toNat 0)])
  | .setfmReg S v => some (word 0x74A00000 [(place S.toNat 31), (place v.toNat 14)])
  | .brk S c => some (word 0x74C00000 [(place S.toNat 31), (place c.toNat 0)])
  | .sinv S k a b => some (word 0x75000000 [(place S.toNat 31), (place k.toNat 18), (place a.toNat 13), (place b.toNat 8)])
  | .launchFirstHalf _ _ => none
  | .launchSecondHalf _ _ => none
  | .launchSlotStatusWrite _ _ => none
  | .mailboxStatusWrite _ => none
  | .registerWriteIgnored _ _ => none
  | .ctxcreate => none
  | .ctxdestroy => none
  | .recipeset => none
  | .recipeImageWrite _ => none
  | .capmint => none
  | .otinv => none
  | .otinvComplete => none
  | .wdtset => none
  | .codeload => none
  | .codeunload => none
  | .codeUnmap _ _ => none
  | .codekey => none
  | .preempt => none
  | .preemptGated _ => none
  | .rptake => none
  | .rpintset => none
  | .recoveryPointTimer => none
  | .wornthr => none
  | .framepool => none
  | .evring => none
  | .island => none
  | .railmap => none
  | .ident => none
  | .attest => none
  | .dbggrant => none
  | .dbgrevoke => none
  | .dbghalt => none
  | .dbgread => none
  | .dbgwrite => none
  | .dbgresume => none
  | .dbgstop => none
  | .preciseStop _ => none
  | .dbgwatch => none
  | .tracebuf => none
  | .profcfg => none
  | .launchValidate _ _ => none
  | .crewAdmit _ => none
  | .launchClassRise _ => none
  | .launchComplete _ => none
  | .crewCommit _ => none
  | .generalAgeSelect _ => none
  | .groupWake _ => none
  | .urgencyBit _ => none
  | .portAccess _ => none
  | .claimCheck _ => none
  | .answerReturn _ => none
  | .siblingStop _ => none
  | .crewHaltEvent _ => none
  | .trapRecordWrite _ => none
  | .matrixEnginePerform _ => none
  | .copyChunk _ => none
  | .copyCompletion _ => none
  | .qfencePerform _ => none
  | .fenceComplete _ => none
  | .barrierArrival _ => none
  | .sinvComplete _ => none
  | .fuseResolve _ _ => none
  | .groupRetire _ => none
  | .pageMigration _ => none
  | .targetedReplay _ => none
  | .claimScrub _ => none
  | .eventQueuePlaceFree _ => none
  | .gwaitWake _ => none
  | .gwaitTimeout _ => none
  | .emitUnblock _ => none
  | .watchdogExpire _ => none
  | .eventRingWrite => none
  | .eventRingPoll => none
  | .hostMemWrite _ _ => none
  | .peerAccess _ _ _ _ _ => none
  | .railPortDown _ => none
  | .activationBackoff _ _ => none
  | .uncorrectableError _ => none
  | .correctedError _ => none
  | .thermalStep _ _ => none
  | .thermalCritical _ _ => none
  | .thermalRecover _ _ => none
  | .powerGood => none
  | .mailboxCommandWrite _ _ => none
  | .recoveryPointCommit => none
  | .refreshHoldEnd _ _ => none
  | .railPortUp _ => none

end Sys2Proof
end

