-- ==== Sys2Proof/Machine/State.lean ====
section
/-! DEFINITION. The state of a KM-1 module as plain data: everything the manual gives the device (R11 to R21, R225,
R226 and the rules named at each field), the two ways a step can stop, and the state after reset. A table keyed by a
number is a list of (key, value) pairs in strictly ascending key order. Flat addresses and the numbering of groups
and threads are those of Machine/Mem.lean. -/
namespace Sys2Proof.Machine

/-- A table: (key, value) pairs, keys strictly ascending. -/
abbrev Tab (α : Type) := List (Nat × α)

/-- A capability register or granule: 128 bits and the tag bit (R179). -/
structure Cap where
  bits : BitVec 128
  tag  : Bool
  deriving DecidableEq, Repr

/-- The role of a group slot (R54, R60). -/
inductive Role where
  | vector | matrix | copy | general
  deriving DecidableEq, Repr

/-- One lane of a group (R18): v registers, p0 to p7 (bit 0 is never read), block register, FMODE, and its mark: the
cover pass it belongs to (R42), 0 for none, 65,536 for a lane that waits in a HOLD block (R38). -/
structure Lane where
  v     : List Word
  p     : BitVec 8
  blk   : BitVec 8
  fmode : BitVec 16
  mark  : Nat
  deriving DecidableEq, Repr

/-- The guard of a `grd`: predicate, inversion, words still covered (R261, R262). -/
structure Guard where
  p    : BitVec 3
  inv  : Bool
  left : Nat
  deriving DecidableEq, Repr

/-- Who performs a word: a group, by core x 128 + slot, or a thread, by core x 4 + thread. -/
inductive Who where
  | none
  | group (g : Nat)
  | thread (t : Nat)
  deriving DecidableEq, Repr

/-- The word being performed (R84, R203, R260, R261). -/
structure Cur where
  who   : Who
  word  : Word
  prov  : Word
  act   : List Nat
  hix   : Option (BitVec 25)
  guard : Option Guard
  rwc   : Nat
  deriving DecidableEq, Repr

/-- A word in an issue queue with its provenance tag (R83, R84). -/
structure QWord where
  word : Word
  prov : Word
  deriving DecidableEq, Repr

/-- A station as a group enters it: number, set, and a composed station's words; none for a precomposed one. -/
structure Sta where
  num  : Nat
  set  : List Nat
  comp : Option (List Word)
  deriving DecidableEq, Repr

/-- What a waiting group waits for (R48, R97, R106, R109, R200, R385, R40, R363). -/
inductive Wait where
  | none
  /-- `barw` or `bars`: PHASE of the word at the flat address must differ from the phase named -/
  | phase (addr : Nat) (phase : Bool) (scope : Nat)
  /-- `waitw`: the 64-bit word at the flat address must equal the value -/
  | word (addr : Nat) (value : DWord)
  /-- parked at a fuse site, with the destination sd -/
  | fuse (site sd : Nat)
  /-- COMPOSE-WAIT on a request of a thread -/
  | compose (thread request : Nat)
  /-- a fence waits until these words and copy commands are performed; whether it drops cached lines, and ends the region -/
  | fence (ops cmds : List Nat) (dropCache ends : Bool)
  /-- `sinv` over arena bytes, after the same wait -/
  | sinv (ops cmds : List Nat) (handle low len : Nat)
  /-- issue is held until the home has answered this word (R200) -/
  | answer (op : Nat)
  /-- waits at the vote to enter this station: until the station store can hold its code (R418), or until the group is on a
  core again (R41, R228) -/
  | store (x : Sta)
  deriving DecidableEq, Repr

/-- Whether a group issues, parks on a trap, or is halted (R203, R206, R210). -/
inductive Stop where
  | run
  /-- parked on a trap whose record is still to be written (R203) -/
  | trapping
  /-- parked on a trap, record written -/
  | trapped
  /-- a halt was broadcast and has not stopped the group yet (R206) -/
  | halting
  /-- stopped by a crew halt with no trap of its own -/
  | halted
  deriving DecidableEq, Repr

/-- A level-one trap: the content of its record (R203) and what a retry needs (R210, R262). -/
structure Trap where
  code    : Nat
  cls     : Nat
  origin  : Nat
  skid    : Nat
  instr   : Word
  prov    : Word
  rwc     : Nat
  handle  : Nat
  ooff    : Nat
  fault   : List Nat
  retry   : List Nat
  act     : List Nat
  detail  : DWord
  station : Nat
  pass    : Nat
  blk     : BitVec 8
  hix     : Option (BitVec 25)
  guard   : Option Guard
  gid     : Nat
  stack   : Nat
  /-- the debugger receives and resumes it (R384, R427, R429, R430) -/
  debug   : Bool
  /-- raised before the halt now under way began, so that it sends its own event (R206) -/
  early   : Bool
  /-- raised by a copy command and not by a word of the group's own (R157, R213) -/
  async   : Bool
  /-- stacked once, and raised afresh (R208) -/
  raised  : Bool
  deriving DecidableEq, Repr

/-- A trace packet of a group that its trace writer still has to write (R422 to R426): a sample's word it waits for, the
event's CLOCK, type, station and pass, the other bits of word 0, the words that follow, and what a SYNC at the event names:
live-mask summary, RWCOUNT and generation. -/
structure TPkt where
  await   : Option Nat
  time    : Nat
  type    : Nat
  station : Nat
  pass    : Nat
  w0      : Nat
  rest    : List DWord
  live    : Nat
  rw      : Nat
  gen     : Nat
  deriving DecidableEq, Repr

/-- A trace buffer as TRACEBUF gave it: the command's number, handle, kind and segment length (R421). -/
structure TraceBuf where
  serial : Nat
  handle : Nat
  kind   : Nat
  seg    : Nat
  deriving DecidableEq, Repr

/-- A resident group (R27 to R59, R225). -/
structure Group where
  /-- the model's own: which admission of a group this is -/
  uid     : Nat
  crew    : Nat
  ctx     : Nat
  gid     : Nat
  gidx    : Nat
  role    : Role
  regs    : Nat
  lanes   : List Lane
  s       : List DWord
  k       : List Cap
  /-- running station, its blocks in ascending order, and the block members of the slot set (R33, R35) -/
  station : Nat
  members : List Nat
  slotSet : List Nat
  /-- passes of the cover still to run, each its station, and the running pass number, 0 outside a cover (R42 to R44) -/
  cover   : List Sta
  pass    : Nat
  /-- the code this entry runs, and the next word's index; an open station has no code (R35, R83, R386) -/
  code    : List Word
  isOpen  : Bool
  source  : Nat
  /-- the copy of a precomposed station's code in the store that the entry runs (R386, R418) -/
  copy    : Option Nat
  /-- on another core, the code of the running station is still to be fetched (R228) -/
  refetch : Bool
  /-- it runs code fetched anew on another core before a store to the arena, made before it was pre-empted, had performed (R228, R230) -/
  moved   : Bool
  /-- a store to the code arena was on its way when a pre-emption gated it (R230) -/
  late    : Bool
  /-- its vote found no live lane: it retires once its words are settled (R38, R370) -/
  ended   : Bool
  pc      : Nat
  queue   : List QWord
  hix     : Option (BitVec 25)
  guard   : Option Guard
  cpol    : BitVec 3
  rwcount : DWord
  /-- parked at a switch marker (R78) -/
  marker  : Bool
  wait    : Wait
  /-- the condition waited for has held (R106, R109) -/
  met     : Bool
  stop    : Stop
  trap    : Option Trap
  stacked : List Trap
  /-- issue slots taken since a halt reached the group; 64 for a group that was parked then (R206, R207) -/
  hslots  : Nat
  /-- words that a retry has still to issue once more, in issue order (R210) -/
  retry   : List Trap
  gated   : Bool
  pipe    : Nat
  lastIss : Nat
  ready   : Option Nat
  /-- traced, a SYNC owed, CLOCK of the last packet and of the last SYNC, station and pass last named, packets in order -/
  traced  : Bool
  tSync   : Bool
  tLast   : Nat
  tSyncAt : Nat
  tStation : Nat
  tPass   : Nat
  tHeld   : List TPkt
  deriving DecidableEq, Repr

/-- The trace of a group that is gone while samples of its words are still to come: the buffer and core it goes to, and the group as
it was (R211, R426). (DEDUCED: log 55) -/
structure Ghost where
  buf   : TraceBuf
  core  : Nat
  group : Group
  deriving DecidableEq, Repr

/-- A tile register: TCTL, 64 rows of 192 bytes, the scale plane of 12 bytes per row (R340, R130). -/
structure Tile where
  tctl  : DWord
  rows  : List (BitVec 1536)
  scale : List (BitVec 96)
  deriving DecidableEq, Repr

/-- An accumulator: 64 x 64 elements and its binding to a group index and first lane (R343). -/
structure Accum where
  bind : Option (Nat × Nat)
  data : List (List Word)
  deriving DecidableEq, Repr

/-- What one buffered line of one instruction does (R161). -/
structure DEntry where
  uid   : Nat
  gidx  : Nat
  /-- the place in the group's issue order, and the word in flight -/
  ord   : Nat
  seq   : Nat
  ctx   : Nat
  /-- the object's handle, and the classes of the access in the order of R87 -/
  handle : Nat
  cls   : Nat
  /-- flat address, size in bytes, value, and the atomic's operation with its second operand when it is one -/
  addr  : Nat
  size  : Nat
  value : Nat
  aop   : Option AtomOp
  tag   : Option Bool
  /-- the lane that wrote it and its object offset, and the word as it issued, for its record (R115, R203) -/
  lane  : Nat
  off   : Nat
  cur   : Cur
  deriving DecidableEq, Repr

/-- A crew halt under way or delivered (R206). -/
structure Halt where
  /-- the originating group, whose record the event carries while it is live -/
  group  : Nat
  /-- the record, for a copy fault whose issuing group is gone (R213) -/
  origin : Trap
  sent   : Bool
  /-- halted by the debugger (R430) -/
  debug  : Bool
  deriving DecidableEq, Repr

/-- The parts of a pre-empted crew's state that left the units of its core: tiles, accumulators, and the bytes and tagged
granules of its scratchpad, counted from its first byte; with the save frames that the crew takes (R225, R227, R228). -/
structure Parts where
  tiles  : Bool
  accs   : Bool
  pad    : Bool
  bytes  : List Host.Cell
  tags   : List Nat
  frames : List Nat
  deriving DecidableEq, Repr

/-- A resident crew with its partition (R20, R67, R225). -/
structure Crew where
  launch  : Nat
  ctx     : Nat
  idx     : Nat
  core    : Nat
  /-- the slots of its groups, in order of group index (R286) -/
  groups  : List Nat
  /-- first tile and accumulator, scratchpad and write buffer of its partition (R62, R67, R161) -/
  tile0   : Nat
  tiles   : List Tile
  acc0    : Nat
  accs    : List Accum
  spad    : Nat
  spadLen : Nat
  dbufLen : Nat
  dbuf    : List DEntry
  halt    : Option Halt
  gated   : Bool
  admitted : Nat
  /-- the trace buffer of the context when the crew was admitted (R421) -/
  trace   : Option TraceBuf
  /-- what of it was copied to save frames (R227) -/
  out     : Parts
  deriving DecidableEq, Repr

/-- A pre-empted crew whose groups left their core (R225, R227). -/
structure SavedCrew where
  crew   : Crew
  groups : List Group
  deriving DecidableEq, Repr

/-- An event in a thread's queue: its eight words, its arrival, and whether it is a pre-empt-notice mark, whose words are
then CLOCK at gating and the thread's core (R82, R224, R229). -/
structure QEvent where
  words : List DWord
  since : Nat
  mark  : Bool
  /-- the group that raised it, as an admission: it stays parked while the event is held (R82) -/
  by_   : Option Nat
  deriving DecidableEq, Repr

/-- A compose request of a thread (R40, R286). -/
structure Request where
  id     : Nat
  codeid : Nat
  kernel : Nat
  set    : List Nat
  groups : List Nat
  deriving DecidableEq, Repr

/-- An open composition buffer (R279, R280). -/
structure Buffer where
  codeid : Nat
  kernel : Nat
  set    : List Nat
  words  : List Word
  deriving DecidableEq, Repr

/-- An `emit` that blocks: destination register, word, target group and its crew and group index (R83, R226). -/
structure Blocked where
  ld    : Nat
  word  : Word
  group : Nat
  /-- which admission of a group it is -/
  uid   : Nat
  crew  : Nat
  gidx  : Nat
  deriving DecidableEq, Repr

/-- A record in a device launch queue: the launch's number in the order of acceptance, CLOCK then, and the sixteen words (R66). -/
structure DevRec where
  num   : Nat
  since : Nat
  words : List DWord
  deriving DecidableEq, Repr

/-- A lamplighter thread (R81, R226, R268). -/
structure Thread where
  ctx     : Nat
  l       : List DWord
  k       : List Cap
  pc      : Nat
  idle    : Bool
  queue   : List QEvent
  /-- events whose producers hold them while the queue is full (R82) -/
  held    : List QEvent
  taken   : Option (List DWord)
  buf     : Option Buffer
  blocked : Option Blocked
  emitSeq : Nat
  /-- asleep in `gwait`: destination register and deadline (R284) -/
  sleep   : Option (Nat × Option Nat)
  nextReq : Nat
  reqs    : List Request
  /-- the device launch queue (R66) -/
  dlq     : List DevRec
  /-- parked on a page: the wait-table entry it waits for (R215), and whether an access of its instruction waits, not its fetch -/
  parked  : Option Nat
  replay  : Bool
  gated   : Bool
  stopped : Bool
  lastCrew : Nat
  deriving DecidableEq, Repr

/-- A thread saved off its core, with the number it had and its save frames (R67, R227). -/
structure SavedThread where
  num    : Nat
  thread : Thread
  frames : List Nat
  deriving DecidableEq, Repr

/-- A kernel of a loaded code object (R405, R406). Stations are (set, arena offset, words). -/
structure Kernel where
  nb     : Nat
  entry  : Nat
  width  : Nat
  regs   : Nat
  hold   : List Nat
  roles  : List Nat
  compose : Option Nat
  stations : List (List Nat × Nat × Nat)
  deriving DecidableEq, Repr

/-- A code object loaded into a context (R414, R195, R410). -/
structure CodeObj where
  id      : Nat
  base    : Nat
  len     : Nat
  hash    : BitVec 384
  rev     : Nat
  kernels : List Kernel
  /-- global symbols: name bytes and arena offset -/
  globals : List (List Byte × Nat)
  externs : List (List Byte × Nat)
  /-- ALLOC ranges in the arena and the rights their section type allows (R404) -/
  sections : List (Nat × Nat × Nat)
  shared  : Bool
  /-- CODEUNLOAD waits for the last crew: (RADDR, CTAG) -/
  unload  : Option (Nat × Nat)
  deriving DecidableEq, Repr

/-- A station a lamplighter installed: core, kernel, number, set, code; an open station has no code (R83, R281). -/
structure Composed where
  core   : Nat
  codeid : Nat
  kernel : Nat
  num    : Nat
  set    : List Nat
  words  : List Word
  deriving DecidableEq, Repr

/-- A copy of a precomposed station's code in a core's station store, shared by the contexts that loaded the object of this
content hash (R195, R386, R418). -/
structure Cached where
  id     : Nat
  core   : Nat
  hash   : BitVec 384
  kernel : Nat
  num    : Nat
  words  : List Word
  stale  : Bool
  entered : Nat
  deriving DecidableEq, Repr

/-- A watchpoint of a context (R429). -/
structure Watch where
  handle : Nat
  low    : Nat
  len    : Nat
  reads  : Bool
  writes : Bool
  deriving DecidableEq, Repr

/-- A context (R193, R196, R402, R421, R426, R429). -/
structure Context where
  /-- the model's own: which creation of this number it is -/
  serial  : Nat
  table   : Nat
  otn     : Nat
  arena   : Nat
  /-- LEN of its threads' fetch capability, formed at creation (R268) -/
  fetchLen : Nat
  caps    : List (BitVec 128)
  /-- the 2,048-byte recipe image: slots, then frequency tables (R163) -/
  recipe  : List Byte
  claimLost : DWord
  debug   : Bool
  wdt     : Nat
  keys    : List (Nat × Nat)
  reqSig  : Bool
  objs    : List CodeObj
  /-- arena ranges of images that were unloaded: first byte and length (R419) -/
  unloaded : List (Nat × Nat)
  nextId  : Nat
  composed : List Composed
  failed  : Bool
  trace   : Option TraceBuf
  prof    : Nat
  watches : Tab Watch
  deriving DecidableEq, Repr

/-- A trace ring's device-side pointers on one core, keyed by buffer number x 96 + core (R421 to R423, R426). -/
structure Ring where
  wr      : Nat
  lost    : Nat
  sinceLoss : Nat
  denied  : Bool
  sampled : Nat
  /-- RDPTR as the trace writer read it last -/
  rd      : Nat
  deriving DecidableEq, Repr

/-- The life of a launch: no crew admitted yet, some, all (R64 to R71). -/
inductive Phase where
  | queued | placing | running
  deriving DecidableEq, Repr

/-- An accepted launch (R60, R64 to R71, R154, R156). -/
structure Launch where
  record  : List DWord
  ctx     : Nat
  /-- issuing thread for a device-side record, as its number plus one; 0 for the host (R66) -/
  from_   : Nat
  status  : Nat
  phase   : Phase
  cls     : Nat
  since   : Nat
  caps    : List Cap
  next    : Nat
  retired : Nat
  /-- crews committed under DETERM: the head's index (R156) -/
  head    : Nat
  tstart  : Nat
  tend    : Nat
  /-- shapes and `mmb` executed, byte 48 of the signature message (R154) -/
  shapes  : BitVec 8
  /-- cores the launch's head reservation holds (R68) -/
  reserve : List Nat
  deriving DecidableEq, Repr

/-- How a word in flight delivers its answers (R77, R321, R324, R337, R344, R349, R353). -/
inductive OpKind where
  | ld (ty : LdTy) (vd : Nat)
  | lds (sd : Nat)
  | store
  | kld (kd : Nat) (keepTag : Bool)
  | atom (size : Nat) (op : AtomOp) (vd : Nat) (returns : Bool)
  | tld
  | ard
  | arrive (count : Nat) (thenWait : Bool) (scope : Nat)
  | register (isWord : Bool) (value : DWord) (scope : Nat)
  deriving DecidableEq, Repr

/-- A failing answer for one lane (R319): code, origin, DETAIL, handle and object offset. -/
structure Fail where
  lane   : Nat
  code   : Nat
  origin : Nat
  detail : DWord
  handle : Nat
  ooff   : Nat
  deriving DecidableEq, Repr

/-- A word in flight (R77, R199, R201, R210). -/
structure Op where
  group   : Nat
  gid     : Nat
  kind    : OpKind
  counted : Bool
  /-- class bits in the order of R87 -/
  cls     : Nat
  word    : Word
  prov    : Word
  hix     : Option (BitVec 25)
  guard   : Option Guard
  rwc     : Nat
  act     : List Nat
  /-- accesses not yet returned -/
  left    : Nat
  fails   : List Fail
  /-- `tld`: bytes gathered, as (row, position in the row image of 192 data and 12 scale bytes, byte) (R344) -/
  buf     : List (Nat × Nat × Byte)
  /-- a watchpoint was hit (R429) -/
  watch   : Bool
  /-- sampled (R426); requests sent, re-presentations, and the lane answered last -/
  sample  : Bool
  sectors : Nat
  replays : Nat
  last    : Nat
  deriving DecidableEq, Repr

/-- The part of an access that one lane (or one tile-row byte run) makes. -/
structure Piece where
  lane  : Nat
  off   : Nat
  size  : Nat
  value : Nat
  value2 : Nat
  deriving DecidableEq, Repr

/-- Where an access stands (R189, R114, R158, R159, R215, R217, R223, R440). -/
inductive Stage where
  | toPort
  | parked (entry : Nat)
  | overflow (port : Nat)
  /-- held behind a bank's refresh (R440) -/
  | bank (controller bank : Nat)
  /-- at the home of a RACECHK line, to be checked and claimed -/
  | toHome
  /-- waits for its crew to be head, or for a lower crew's commit (R158, R159) -/
  | forHead
  /-- performed or refused; the answer is on its way -/
  | answered
  /-- cancelled by a pre-emption, to be re-presented (R223) -/
  | replay
  deriving DecidableEq, Repr

/-- The answer to one piece: a value with its tag, or a failure. -/
inductive PieceRes where
  | value (v : Nat) (tag : Bool)
  | fail (f : Fail)
  deriving DecidableEq, Repr

/-- One request to a memory port: the pieces of one word in one 32-byte sector (R321). -/
structure Access where
  op     : Nat
  /-- the group that issued it, as an admission and by its index in the crew: they stay when `group` is gone -/
  uid    : Nat
  gidx   : Nat
  group  : Nat
  gid    : Nat
  ctx    : Nat
  core   : Nat
  crew   : Nat
  kind   : Nat
  handle : Nat
  /-- rights needed, bits as RIGHTS (R181) -/
  rights : Nat
  sector : Nat
  pieces : List Piece
  write  : Bool
  isAtom : Bool
  /-- plain accesses are claimed on RACECHK objects (R114, R118) -/
  plain  : Bool
  /-- the tag a `kst` stores -/
  tag    : Option Bool
  stage  : Stage
  /-- flat address of each piece, known once the port has translated it -/
  flats  : List Nat
  res    : List PieceRes
  /-- it carries the urgency bit; its upgrade has been sent (R80) -/
  urgent : Bool
  upgraded : Bool
  /-- the region serial at issue (R111), and whether a watchpoint was hit (R429) -/
  ser    : Nat
  watch  : Bool
  replays : Nat
  /-- the group's cache policy and its fence strengthening at issue (R99, R379) -/
  cpol   : BitVec 3
  strong : Bool
  deriving DecidableEq, Repr

/-- A store of a lamplighter thread that its port has admitted and that has not performed yet (R90, R95, R327). -/
structure Posted where
  core   : Nat
  ctx    : Nat
  handle : Nat
  flat   : Nat
  size   : Nat
  value  : Nat
  tag    : Option Bool
  /-- its instruction, the instruction's PC, and the low bits of the object offset, for a refusal (R220, R439) -/
  word   : Word
  pc     : Nat
  detail : Nat
  deriving DecidableEq, Repr

/-- A copy command or `qfence` in a queue (R103, R105, R354 to R365). -/
structure Copy where
  group  : Nat
  gid    : Nat
  gidx   : Nat
  crew   : Nat
  ctx    : Nat
  core   : Nat
  queue  : Nat
  /-- 0 lin, 1 ten, 2 gat, 3 sct, 4 red, 5 qfence; 6 a trace write, 7 a completion record, both by the device -/
  fn     : Nat
  params : List DWord
  lay    : Lay
  rop    : Rop
  src    : Cap
  dst    : Cap
  cmp    : Cap
  /-- the copy word, for its records (R203) -/
  cur    : Cur
  /-- its place among the 64 of its queue -/
  place  : Nat
  /-- `cpy.gat`, `cpy.sct`: the list of indices is still to be read, and the command is in no queue yet (R363) -/
  listing : Bool
  list   : Cap
  index  : List Nat
  /-- `qfence`: commands of the named queues accepted before it -/
  after  : List Nat
  /-- words and commands a fence makes it wait for (R97) -/
  pre    : List Nat × List Nat
  total  : Nat
  done   : Nat
  /-- elements of a gather that parked alone (R214) -/
  parkedElts : List Nat
  parked : Option Nat
  /-- waits until its crew is head, or until a lower crew commits (R157, R158) -/
  waitHead : Bool
  faulted : Bool
  system : Bool
  deriving DecidableEq, Repr

/-- A fence whose successors are copy commands only: they wait in their queues (R97). -/
structure SoftFence where
  group : Nat
  ops  : List Nat
  cmds : List Nat
  q    : Nat
  deriving DecidableEq, Repr

/-- A step from outside that has begun and is to be taken again (R215, R440): a host write or read, a peer access. -/
inductive Outside where
  | host (address : Nat) (bytes : List Byte)
  | hostRead (address size : Nat)
  | peer (device handle offset : Nat) (write : Bool) (bytes : List Byte)
  deriving DecidableEq, Repr

/-- A step of the device that a bank's refresh holds (R440). -/
inductive HeldStep where
  | pageMigration (entry : Nat)
  | launchValidate (port : Bool) (source : Nat)
  | crewCommit (launch : Nat)
  | capmint
  | codeload
  | codeUnmap (ctx codeid : Nat)
  | tracebuf
  | dbgwatch
  deriving DecidableEq, Repr

/-- Who waits at a wait-table entry (R215), or behind a bank's refresh (R440). -/
inductive Waiter where
  | access (id : Nat)
  | thread (t : Nat)
  | command (id : Nat)
  /-- a group that waits for its station's code, by core x 128 + slot -/
  | station (g : Nat)
  /-- a peer access, to be taken again -/
  | outside (o : Outside)
  /-- an admitted store of a thread, and a step of the device that reads or writes memory, both behind a refresh -/
  | posted (n : Nat)
  | step (i : HeldStep)
  deriving DecidableEq, Repr

/-- An entry of a fault unit's wait table (R215, R216). -/
structure WaitEntry where
  token   : BitVec 16
  die     : Nat
  pme     : Nat
  waiters : List Waiter
  migrated : Bool
  /-- the empty free pool has been reported for it (R216) -/
  asked   : Bool
  deriving DecidableEq, Repr

/-- A claim tag (R112): overflow, the readers and the writer as (global id, region serial). -/
structure Claim where
  ovf : Bool
  rd0 : Nat × Nat
  rd1 : Nat × Nat
  wr  : Nat × Nat
  use : Nat
  deriving DecidableEq, Repr

/-- Whose a claim is: an admission of a group, its context, and its crew. -/
structure Holder where
  uid  : Nat
  ctx  : Nat
  crew : Nat
  deriving DecidableEq, Repr

/-- The claims of a region that ended while accesses of it, those numbered below `before`, had not performed: the lines it had
written and those it had read (R94). (DESIGN CHOICE: log 89) -/
structure Lapsed where
  holder : Holder
  before : Nat
  wrote  : List Nat
  read   : List Nat
  deriving DecidableEq, Repr

/-- The owner record of a line under DETERM (R157, R158). -/
structure Owner where
  owner   : Option Nat
  readers : List Nat
  ovf     : Bool
  deriving DecidableEq, Repr

/-- A port's copy of an object table entry (R190). -/
structure OtCopy where
  port  : Nat
  ctx   : Nat
  handle : Nat
  words : List DWord
  deriving DecidableEq, Repr

/-- A sector in a core's read cache (R90). -/
structure RLine where
  core  : Nat
  ctx   : Nat
  sector : Nat
  bytes : List Byte
  tags  : List Bool
  deriving DecidableEq, Repr

/-- An armed precise stop (R427). -/
structure DbgStop where
  ctx  : Nat
  ltag : Nat
  crew : Nat
  gidx : Nat
  n    : Nat
  deriving DecidableEq, Repr

/-- A pre-emption under way or taken: victim context, cores, and why (R221 to R231). -/
structure Preempt where
  ctx    : Nat
  crews  : List Nat
  threads : List Nat
  gated  : Bool
  /-- resumed only once thermal or island control allows it, or the recovery point commits -/
  hold   : Bool
  /-- mailbox results due at gating: (RADDR, CTAG) -/
  results : List (Nat × Nat)
  deriving DecidableEq, Repr

/-- A matrix word queued in an engine, with the register values it was issued with (R145, R344 to R353). `tld` and
`tst`: the part, the object offset of row 0, the stride, and the capability. -/
inductive MWord where
  | tcfg (t : Nat) (value : DWord)
  | acfg (ad w0 : Nat)
  | mma (ad ta tb : Nat) (sh : Shape)
  | mmb (ad ta tb : Nat) (op : MmbOp)
  | azero (ad : Nat)
  | ard (ad vd col : Nat)
  | awr (ad col : Nat) (values : List (Nat × Word))
  | acvt (ad : Nat) (d : AcvtDir)
  | tld (t : Nat) (part : Part) (base stride : Nat) (cap : Cap)
  | tst (t : Nat) (part : Part) (base stride : Nat) (cap : Cap)
  deriving DecidableEq, Repr

/-- A queued matrix word with the crew, group and lanes it serves. -/
structure MEntry where
  core : Nat
  crew : Nat
  ctx  : Nat
  group : Nat
  gid  : Nat
  gidx : Nat
  act  : List Nat
  fmodes : List (Nat × BitVec 16)
  word : MWord
  /-- its word in flight, for `ard`, `tld` and `tst` -/
  op   : Option Nat
  /-- `tld`: 0 not begun, 1 its scale bytes are on their way, 2 its data bytes are -/
  phase : Nat
  deriving DecidableEq, Repr

/-- Everything a recovery point restores (R232, R234). (DESIGN CHOICE: log 37, 82) -/
structure Dev where
  /-- bytes by flat address, canonical: ascending, no zero entry (R445 step 3) -/
  mem     : List Host.Cell
  /-- granules whose tag is set, ascending (R186) -/
  tags    : List Nat
  ctxs    : Tab Context
  groups  : Tab Group
  /-- the 18-bit counter of each group slot (R111) -/
  slotCtr : Tab (BitVec 18)
  threads : Tab Thread
  crews   : Tab Crew
  savedCrews : Tab SavedCrew
  savedThreads : Tab SavedThread
  nextCrew : Nat
  launches : Tab Launch
  nextLaunch : Nat
  preempts : Tab Preempt
  nextOrder : Nat
  ops     : Tab Op
  accs    : Tab Access
  cmds    : Tab Copy
  softFences : List SoftFence
  nextId  : Nat
  waits   : Tab WaitEntry
  /-- what waits for a page without an entry, by die, in order of arrival (R217) -/
  overflow : List (Nat × Waiter)
  claims  : Tab Claim
  /-- claims of ended regions with accesses still to perform -/
  lapsed  : List Lapsed
  /-- owner records, by line x 2^64 + launch (R157) -/
  owners  : Tab Owner
  /-- admitted stores of lamplighter threads (R327) -/
  posted  : Tab Posted
  /-- the thread of a core that issued last, 0 to 3 (R81) -/
  lampLast : Tab Nat
  store   : List Cached
  otCache : List OtCopy
  rcache  : List RLine
  rings   : Tab Ring
  /-- the traces of groups that are gone (R211, R426) -/
  ghosts  : List Ghost
  fastFree : List Nat
  /-- queued matrix words of every core's engine, oldest first (R145, R222) -/
  engine  : List MEntry
  /-- what refreshes hold, in order of arrival: controller, bank, and an access or a step from outside (R440) -/
  bankQueue : List (Nat × Nat × Waiter)
  deriving DecidableEq, Repr

/-- A launch port slot (R63). -/
structure PortSlot where
  first  : Option (List DWord)
  record : Option (List DWord)
  noHalf : Bool
  drop   : Bool
  deriving DecidableEq, Repr

/-- The host event ring of R466. -/
structure EvRing where
  rbase : Nat
  n     : Nat
  cbase : Nat
  prod  : Nat
  cons  : Nat
  deriving DecidableEq, Repr

/-- An outbound log entry (R233). -/
structure OutEntry where
  addr : Nat
  phandle : Nat
  peer : Nat
  dest : Nat
  ctx  : Nat
  len  : Nat
  first : Nat
  deriving DecidableEq, Repr

/-- A mailbox command that waits for device activity, in front of the queue (R434): command words, payload, and what it awaits. -/
structure PendCmd where
  words : List DWord
  data  : List Byte
  ids   : List Nat
  deriving DecidableEq, Repr

/-- An accepted launch as a rollback report and a debug replay need it (R234, R428): context, issuing thread as in
Launch, and record. -/
structure Accepted where
  ctx    : Nat
  from_  : Nat
  record : List DWord
  deriving DecidableEq, Repr

/-- One move of the device: a step of the opcode table, or an agent that issues its next word. (DESIGN CHOICE: log 1) -/
inductive Move where
  | run (i : Instr)
  /-- a step from outside taken again -/
  | again (o : Outside)
  /-- a read by the host, which changes nothing but what a watchpoint reports (R429) -/
  | hostRead (address size : Nat)
  /-- what waited for a page, or behind a refresh, is presented again, in its order: what it waited for, and who (R216, R440) -/
  | present (ref : Nat) (w : Waiter)
  | issue (group : Nat)
  | fetch (thread : Nat)
  /-- a mailbox command with a reserved OP (R435) -/
  | badCommand
  /-- nothing moves but time -/
  | idle
  deriving DecidableEq, Repr

/-- The state of a module. (DESIGN CHOICE: log 82) -/
structure State extends Dev where
  /-- CLOCK (R22) -/
  clock   : Nat
  /-- the model's own: the counter free values are applied to -/
  tick    : Nat
  /-- the model's own: the moves that come next, head first; outside inputs stand here -/
  agenda  : List Move
  cur     : Cur
  /-- device status (R445): READY and the failing step -/
  ready   : Bool
  bootFail : BitVec 8
  /-- vectors 0 to 3 raised so far, newest first (R433) -/
  msix    : List Nat
  slots   : Tab PortSlot
  mbox    : List (List DWord)
  mbDrop  : Bool
  mbPart  : Bool
  /-- the command in front of the queue, while it waits (R434) -/
  pending : List PendCmd
  ring    : Option EvRing
  reports : List (List DWord)
  /-- reports of one step beyond the store's places, which enter it as places free (R466) -/
  surplus : List (List DWord)
  /-- island states 0 P0, 1 P1, 2 P2, 3 OFF (R441) -/
  islands : List Nat
  /-- dies that went above 105 degrees and are not below 100 yet, and those that went above 115 and are not below 95 (R442) -/
  hot     : List Nat
  critical : List Nat
  routes  : Tab Nat
  imports : List (Nat × Nat × Nat × Nat)
  railDown : List Nat
  recFree : List Nat
  rpint   : Nat
  rpNext  : Nat
  /-- a recovery point being taken: RADDR and CTAG of the RPTAKE commands that wait for it (R232) -/
  taking  : Option (List (Nat × Nat))
  /-- the committed point: the state it keeps, its CLOCK, and its frames of the recovery pool -/
  point   : Option (Dev × Nat × List Nat)
  /-- frames given to the fast-tier pool since the point -/
  supplied : List Nat
  /-- launches accepted since the last committed point, in order (R234, R428) -/
  since   : List Accepted
  /-- contexts with a launch accepted since reset (R234) -/
  launched : List Nat
  outLog  : List OutEntry
  outOver : Bool
  wornThr : Nat
  corrected : List (Nat × Nat)
  worn    : List Nat
  uncorrected : List (Nat × Nat)
  withdrawn : List Nat
  stops   : List DbgStop
  /-- banks whose forced refreshes run: (controller, bank) (R440) -/
  refresh : List (Nat × Nat)
  /-- moves that wait for a place in the store of reports (R466) -/
  heldIn  : List Move
  deriving DecidableEq, Repr

/-- Why the machine stops with a fault. -/
inductive Fault where
  /-- Bring-up step failed and stops the device (R445). Raised by every step once bring-up has failed. Safe. (DEDUCED: log 19) -/
  | bringUpFailed (step : Nat)
  /-- A page map entry names a frame that its tier does not have (R11, R16). Raised by a port translation. Safe. (DESIGN CHOICE: log 22) -/
  | noSuchFrame (frame : Nat)
  deriving DecidableEq, Repr

/-- Why a step has no meaning in a state. -/
inductive Refusal where
  /-- Not modelled yet. Raised by exec's arms only. Safe. -/
  | notModelled (mnemonic : String)
  /-- The step is not one the device takes in this state: what it names does not exist or is not due (the rule of
  its row gives when it is). Raised by the steps without encoding. Safe. (DESIGN CHOICE: log 2) -/
  | notDue
  /-- A word is performed while no group or thread issues it. Raised by the words' meanings. Safe. (DESIGN CHOICE: log 2) -/
  | noAgent
  deriving DecidableEq, Repr

/-- No capability: zero bits, tag clear. -/
def Cap.null : Cap := ⟨0, false⟩

/-- The contents of a device with no context and no work (R445 step 3: storage scrubbed to zero). (DESIGN CHOICE: log 6; DEDUCED: log 7) -/
def Dev.reset : Dev :=
  { mem := [], tags := [], ctxs := [], groups := [], slotCtr := [], threads := [], crews := [], savedCrews := [],
    savedThreads := [], nextCrew := 0, launches := [], nextLaunch := 0, preempts := [], nextOrder := 0, ops := [],
    accs := [], cmds := [], softFences := [], nextId := 0, waits := [], overflow := [], claims := [], lapsed := [], owners := [], posted := [], lampLast := [], store := [],
    otCache := [], rcache := [], rings := [], ghosts := [], fastFree := [], engine := [], bankQueue := [] }

/-- The module right after reset: CLOCK 0, not READY, no context, every store scrubbed (R22, R232, R236, R445). (DEDUCED: log 3; DESIGN CHOICE: log 4, 6, 82) -/
def State.reset : State :=
  { toDev := Dev.reset, clock := 0, tick := 0, agenda := [],
    cur := ⟨.none, 0, 0, [], Option.none, Option.none, 0⟩,
    ready := false, bootFail := 0, msix := [], slots := [], mbox := [], mbDrop := false, mbPart := false,
    pending := [], ring := Option.none, reports := [], surplus := [], islands := List.replicate 24 0, hot := [], critical := [],
    routes := [], imports := [], railDown := [], recFree := [], rpint := 0, rpNext := 0, taking := Option.none,
    point := Option.none, supplied := [], since := [], launched := [], outLog := [], outOver := false, wornThr := 16, corrected := [], worn := [],
    uncorrected := [], withdrawn := [], stops := [], refresh := [], heldIn := [] }

end Sys2Proof.Machine
end

