-- ==== Sys2Proof/Machine/Mem.lean ====
section
/-! DEFINITION. Tables, memory and flat addresses. A flat address is one number for every byte of the module and of
what it reaches: device memory (R187, R188: a device address is its own flat address), the capacity tier, SRAM (R15),
host memory and the objects of peers. A byte that memory does not list reads as zero (R445 step 3). -/
namespace Sys2Proof.Machine

/-! ### Tables -/

/-- The value at a key. -/
def tget {α : Type} : Tab α → Nat → Option α
  | [], _ => none
  | (k, a) :: r, n => if k = n then some a else if n < k then none else tget r n

/-- The table with a key's value set. -/
def tset {α : Type} : Tab α → Nat → α → Tab α
  | [], n, x => [(n, x)]
  | (k, a) :: r, n, x => if n < k then (n, x) :: (k, a) :: r else if k = n then (n, x) :: r else (k, a) :: tset r n x

/-- The table without a key. -/
def tdel {α : Type} : Tab α → Nat → Tab α
  | [], _ => []
  | (k, a) :: r, n => if k = n then r else (k, a) :: tdel r n

/-- The table with a key's value changed by a function, if the key is there. -/
def tmod {α : Type} (t : Tab α) (n : Nat) (f : α → α) : Tab α :=
  match tget t n with
  | none => t
  | some a => tset t n (f a)

/-- The table with every value changed. -/
def tmap {α : Type} (t : Tab α) (f : Nat → α → α) : Tab α := t.map fun (k, a) => (k, f k a)

/-- A list with one element replaced, where the index is in range. -/
def setAt {α : Type} (l : List α) (i : Nat) (x : α) : List α := l.set i x

/-! ### Memory -/

/-- The byte at a flat address; unlisted bytes are zero. (DEDUCED: log 7; DESIGN CHOICE: log 8) -/
def mget : List Host.Cell → Nat → Byte
  | [], _ => 0
  | (k, b) :: r, a => if k = a then b else if a < k then 0 else mget r a

/-- Memory with one byte written, in canonical form. -/
def mput : List Host.Cell → Nat → Byte → List Host.Cell
  | [], a, b => if b = 0 then [] else [(a, b)]
  | (k, x) :: r, a, b =>
    if a < k then (if b = 0 then (k, x) :: r else (a, b) :: (k, x) :: r)
    else if a = k then (if b = 0 then r else (a, b) :: r)
    else (k, x) :: mput r a b

/-- The canonical form: addresses strictly rising, no entry that reads as an unlisted byte does. -/
def memWf : List Host.Cell → Bool
  | [] => true
  | (a, b) :: r => b != 0 && (match r with | [] => true | (c, _) :: _ => decide (a < c)) && memWf r

/-- n bytes from an address. -/
def mgets (m : List Host.Cell) (a : Nat) : Nat → List Byte
  | 0 => []
  | n + 1 => mget m a :: mgets m (a + 1) n

/-- Bytes written from an address on. -/
def mputs (m : List Host.Cell) (a : Nat) : List Byte → List Host.Cell
  | [] => m
  | b :: bs => mputs (mput m a b) (a + 1) bs

/-- The n little-endian bytes of a number (R1). -/
def leBytes (v : Nat) : Nat → List Byte
  | 0 => []
  | n + 1 => BitVec.ofNat 8 v :: leBytes (v / 256) n

/-- A little-endian number of n bytes in memory. -/
def mnat (m : List Host.Cell) (a n : Nat) : Nat := leNat (mgets m a n)

/-- The 64-bit words that bytes hold. -/
def wordsOf (bs : List Byte) : Nat → List DWord
  | 0 => []
  | n + 1 => BitVec.ofNat 64 (leNat (bs.take 8)) :: wordsOf (bs.drop 8) n

/-- The bytes of 64-bit words. -/
def bytesOf (ws : List DWord) : List Byte := ws.flatMap fun w => leBytes w.toNat 8

/-! ### Granule tags -/

/-- Whether a granule's tag is set. -/
def tagAt (ts : List Nat) (g : Nat) : Bool := ts.contains g

/-- The granule's tag cleared. -/
def tagClear (ts : List Nat) (g : Nat) : List Nat := ts.filter (· != g)

/-- The granule's tag set; the list stays ascending. -/
def tagSet : List Nat → Nat → List Nat
  | [], g => [g]
  | t :: r, g => if g < t then g :: t :: r else if g = t then t :: r else t :: tagSet r g

/-! ### Flat addresses -/

/-- The capacity tier's first byte. (DESIGN CHOICE: log 9) -/
def capBase : Nat := 2 ^ 48

/-- SRAM's first byte (R15). (DESIGN CHOICE: log 9) -/
def sramBase : Nat := 2 ^ 49

/-- Host memory's first byte. (DESIGN CHOICE: log 8, 9) -/
def hostBase : Nat := 2 ^ 64

/-- The first byte of peers' objects. (DESIGN CHOICE: log 8, 9) -/
def peerBase : Nat := 2 ^ 72

/-- SRAM's size: 1,152 MiB (R15). -/
def sramSize : Nat := 0x48000000

/-- One core's slice of SRAM (R15). -/
def sliceSize : Nat := 0xC00000

/-- Frames of 64 KiB in the fast tier and in the capacity tier (R11, R16). -/
def fastFrames : Nat := 768 * 16384
def capFrames : Nat := 2 * 1024 * 16384

/-- The first device address of the protected region of object tables, above the fast tier: no frame is there (R187, R431).
(DESIGN CHOICE: log 85) -/
def tableBase : Nat := 768 * 2 ^ 30

/-- Where the scratchpads of saved crews are counted from: beyond every address that an object reaches (R227). -/
def awayBase : Nat := 2 ^ 140

/-- A flat address in the scratchpad of a saved crew. -/
def isAway (a : Nat) : Bool := decide (awayBase ≤ a)

/-- A byte of a peer's object. -/
def peerFlat (peer handle off : Nat) : Nat := peerBase + ((peer * 2 ^ 32 + handle) * 2 ^ 41 + off)

/-- Whether a flat address lies in host memory or on a peer. (DEDUCED: log 74) -/
def isOutside (a : Nat) : Bool := decide (hostBase ≤ a)

/-! ### Numbers of cores, groups and threads (R11, R277) -/

def groupRef (core slot : Nat) : Nat := core * 128 + slot
def groupCore (g : Nat) : Nat := g / 128
def groupSlot (g : Nat) : Nat := g % 128
def threadRef (core t : Nat) : Nat := core * 4 + t
def threadCore (t : Nat) : Nat := t / 4

/-- The die of a core (R11). -/
def dieOf (core : Nat) : Nat := core / 24

/-- The cluster of a core (R11). -/
def clusterOf (core : Nat) : Nat := core / 4

/-! ### Numbers -/

/-- The signed value of the low n bits of a number (R7). -/
def sval (n v : Nat) : Int := if v % 2 ^ n < 2 ^ (n - 1) then ((v % 2 ^ n : Nat) : Int) else ((v % 2 ^ n : Nat) : Int) - (2 ^ n : Nat)

/-- An exact integer cut to n bits (R7). -/
def cutInt (n : Nat) (x : Int) : Nat := (x % ((2 ^ n : Nat) : Int)).toNat

/-- The length of a number in bits, up to a bound. -/
def bitLen (n : Nat) : Nat := if n = 0 then 0 else Nat.log2 n + 1

/-- The numbers a ≤ i < a + n. -/
def upTo (a n : Nat) : List Nat := (List.range n).map (· + a)

/-- Insertion into an ascending list without repeats. -/
def insertNat : List Nat → Nat → List Nat
  | [], x => [x]
  | y :: r, x => if x < y then x :: y :: r else if x = y then y :: r else y :: insertNat r x

/-- The list in ascending order, without repeats. -/
def sortNat (l : List Nat) : List Nat := l.foldl insertNat []

end Sys2Proof.Machine
end

