-- ==== Sys2Proof/Machine/Ecdsa.lean ====
section
/-! DEFINITION. ECDSA signatures, made and verified, over brainpoolP384r1 with SHA-384 (R26, R402): the curve's numbers are
those of RFC 5639. -/
namespace Sys2Proof.Machine

/-- The field's prime. (PRESUMED: log 62) -/
def ecP : Nat := 0x8CB91E82A3386D280F5D6F7E50E641DF152F7109ED5456B412B1DA197FB71123ACD3A729901D1A71874700133107EC53
/-- The curve y² = x³ + a x + b. -/
def ecA : Nat := 0x7BC382C63D8C150C3C72080ACE05AFA0C2BEA28E4FB22787139165EFBA91F90F8AA5814A503AD4EB04A8C7DD22CE2826
def ecB : Nat := 0x04A8C7DD22CE28268B39B55416F0447C2FB77DE107DCD2A62E880EA53EEB62D57CB4390295DBC9943AB78696FA504C11
/-- The base point. -/
def ecGx : Nat := 0x1D1C64F068CF45FFA2A63A81B7C13F6B8847A3E77EF14FE3DB7FCAFE0CBD10E8E826E03436D646AAEF87B2E247D4AF1E
def ecGy : Nat := 0x8ABE1D7520F9C2A45CB1EB8E95CFD55262B70B29FEEC5864E19C054FF99129280E4646217791811142820341263C5315
/-- The base point's order. (PRESUMED: log 62) -/
def ecN : Nat := 0x8CB91E82A3386D280F5D6F7E50E641DF152F7109ED5456B31F166E6CAC0425A7CF3AB6AF6B7FC3103B883202E9046565

/-- A power modulo m, over at most n bits of the exponent. -/
def powMod (m : Nat) : Nat → Nat → Nat → Nat
  | 0, _, _ => 1
  | n + 1, b, e =>
    let h := powMod m n (b * b % m) (e / 2)
    if e % 2 = 1 then h * b % m else h

/-- The inverse modulo a prime. -/
def invMod (m x : Nat) : Nat := powMod m 384 (x % m) (m - 2)

/-- A difference modulo m. -/
def subMod (m x y : Nat) : Nat := (x % m + (m - y % m)) % m

/-- A point, or none for the point at infinity. -/
abbrev EcPoint := Option (Nat × Nat)

/-- The third point of a line of slope l through a point, mirrored. -/
def ecThird (l x1 y1 x2 : Nat) : EcPoint :=
  let x := subMod ecP (l * l) (x1 + x2)
  some (x, subMod ecP (l * subMod ecP x1 x) y1)

/-- The sum of two points. -/
def ecAdd (a b : EcPoint) : EcPoint :=
  match a, b with
  | none, q => q
  | p, none => p
  | some (x1, y1), some (x2, y2) =>
    if x1 = x2 then
      (if (y1 + y2) % ecP = 0 then none
       else ecThird ((3 * x1 * x1 + ecA) * invMod ecP (2 * y1) % ecP) x1 y1 x2)
    else ecThird (subMod ecP y2 y1 * invMod ecP (subMod ecP x2 x1) % ecP) x1 y1 x2

/-- A multiple of a point, over at most n bits. -/
def ecMul : Nat → Nat → EcPoint → EcPoint
  | 0, _, _ => none
  | n + 1, k, p =>
    let h := ecMul n (k / 2) (ecAdd p p)
    if k % 2 = 1 then ecAdd h p else h

/-- A pair of coordinates is a point of the curve. (PRESUMED: log 62) -/
def onCurve (q : Nat × Nat) : Bool :=
  decide (q.1 < ecP ∧ q.2 < ecP) && q.2 * q.2 % ecP == (q.1 * q.1 * q.1 + ecA * q.1 + ecB) % ecP

/-- Whether (r, s) is a signature of the hash e under the key q. (PRESUMED: log 62) -/
def ecdsaVerify (q : Nat × Nat) (e r s : Nat) : Bool :=
  onCurve q && decide (0 < r ∧ r < ecN ∧ 0 < s ∧ s < ecN) &&
  let w := invMod ecN s
  match ecAdd (ecMul 384 (e * w % ecN) (some (ecGx, ecGy))) (ecMul 384 (r * w % ecN) (some q)) with
  | none => false
  | some (x, _) => x % ecN == r

/-- The signature of the hash e by the private key d with the nonce k, r above s; d and k stand for a number from 1 to the order
less 1. (PRESUMED: log 62) -/
def ecdsaSign (d k e : Nat) : Nat :=
  let key := d % (ecN - 1) + 1
  let nonce := k % (ecN - 1) + 1
  let r := match ecMul 384 nonce (some (ecGx, ecGy)) with
    | none => 0
    | some (x, _) => x % ecN
  r * 2 ^ 384 + invMod ecN nonce * (e + r * key) % ecN

end Sys2Proof.Machine
end

