-- ==== Sys2Proof/Machine/Ops.lean ====
section
/-! DEFINITION. The shared operations of the machine: access to groups, threads, crews and contexts; the active set
(R8, R29); events (R82); issue of a group's next word (R73, R84, R260 to R262); level-one traps, from the raising of
the trap to its record, the crew halt and the return by `gres` (R198 to R212, R289); level-two faults (R219, R220);
release points (R110, R111); writes at the home of a byte, with the tags they clear and the waiters they wake (R186,
R334); and the outbound log (R233). -/
namespace Sys2Proof.Machine

/-- No group: a reference that no core and slot have. -/
def noGroup : Nat := 2 ^ 20

/-- A DWord from a number, cut to 64 bits. -/
def dw (n : Nat) : DWord := BitVec.ofNat 64 n

/-- Nothing of a crew is copied to save frames. -/
def Parts.none : Parts := ⟨false, false, false, [], [], []⟩

/-! ### Lookup and update -/

def State.group? (s : State) (g : Nat) : Option Group := tget s.groups g
def State.modGroup (s : State) (g : Nat) (f : Group → Group) : State := { s with groups := tmod s.groups g f }
def State.thread? (s : State) (t : Nat) : Option Thread := tget s.threads t
def State.modThread (s : State) (t : Nat) (f : Thread → Thread) : State := { s with threads := tmod s.threads t f }
def State.crew? (s : State) (c : Nat) : Option Crew := tget s.crews c
def State.modCrew (s : State) (c : Nat) (f : Crew → Crew) : State := { s with crews := tmod s.crews c f }
def State.ctx? (s : State) (n : Nat) : Option Context := tget s.ctxs n
def State.modCtx (s : State) (n : Nat) (f : Context → Context) : State := { s with ctxs := tmod s.ctxs n f }
def State.launch? (s : State) (n : Nat) : Option Launch := tget s.launches n
def State.modLaunch (s : State) (n : Nat) (f : Launch → Launch) : State := { s with launches := tmod s.launches n f }
def State.modOp (s : State) (n : Nat) (f : Op → Op) : State := { s with ops := tmod s.ops n f }
def State.modAcc (s : State) (n : Nat) (f : Access → Access) : State := { s with accs := tmod s.accs n f }
def State.modCmd (s : State) (n : Nat) (f : Copy → Copy) : State := { s with cmds := tmod s.cmds n f }

/-- The thread of a context on a core (R193). -/
def State.threadOf (s : State) (core ctx : Nat) : Option Nat :=
  (s.threads.find? fun (t, th) => threadCore t == core && th.ctx == ctx).map (·.1)

/-- Word i of a launch's record (R60). -/
def Launch.word (l : Launch) (i : Nat) : Nat := ((l.record[i]?).getD 0).toNat

/-- Fields of a launch record (R60). -/
def Launch.ltag (l : Launch) : Nat := fld (l.word 0) 31 0
def Launch.kernel (l : Launch) : Nat := fld (l.word 0) 39 32
def Launch.codeid (l : Launch) : Nat := fld (l.word 1) 63 32
def Launch.fminit (l : Launch) : BitVec 16 := BitVec.ofNat 16 (fld (l.word 2) 47 32)
def Launch.nlev (l : Launch) : Nat := fld (l.word 2) 19 16
def Launch.width (l : Launch) : Nat := 32 * 2 ^ fld (l.word 2) 10 8
def Launch.determ (l : Launch) : Bool := fld (l.word 2) 1 1 == 1
def Launch.compose (l : Launch) : Bool := fld (l.word 2) 0 0 == 1

/-- Level n's entry: its domain code and its extent (R60). -/
def Launch.level (l : Launch) (n : Nat) : Nat × Nat :=
  let e := if n % 2 = 0 then fld (l.word (3 + n / 2)) 31 0 else fld (l.word (3 + n / 2)) 63 32
  (fld e 31 28, fld e 27 0)
def Launch.extent (l : Launch) (n : Nat) : Nat := (l.level n).2

/-- The kernel a key names in a context (R60, R405). -/
def State.kernelOf (s : State) (ctx codeid kernel : Nat) : Option Kernel :=
  match s.ctx? ctx with
  | none => none
  | some c => match c.objs.find? (·.id == codeid) with
    | none => none
    | some o => o.kernels[kernel]?

/-- The launch of a group. -/
def State.launchOf (s : State) (gr : Group) : Option Launch :=
  match s.crew? gr.crew with
  | none => none
  | some c => s.launch? c.launch

/-- The kernel a group runs. -/
def State.kernelOfGroup (s : State) (gr : Group) : Option Kernel :=
  match s.launchOf gr with
  | none => none
  | some l => s.kernelOf gr.ctx l.codeid l.kernel

/-- The declared block count of a group's kernel (R32). -/
def State.blocksOf (s : State) (gr : Group) : Nat :=
  match s.kernelOfGroup gr with
  | none => 0
  | some k => k.nb

/-- The live groups of a crew, in ascending group index. -/
def State.crewGroups (s : State) (c : Nat) : List Nat :=
  match s.crew? c with
  | none => []
  | some cr => cr.groups.filter fun g => match s.group? g with
    | some gr => gr.crew == c
    | none => false

/-! ### Lanes and the active set -/

/-- A lane is live while its block register is not 255 (R28). -/
def Lane.live (l : Lane) : Bool := l.blk != 255

/-- Predicate p of a lane; p0 reads true (R19). -/
def Lane.pred (l : Lane) (p : BitVec 3) : Bool := p == 0 || l.p.getLsbD p.toNat

/-- Vector register r of a lane. (DEDUCED: log 12) -/
def Lane.rd (l : Lane) (r : Nat) : Word := (l.v[r]?).getD 0

/-- A lane with vector register r written. -/
def Lane.wr (l : Lane) (r : Nat) (x : Word) : Lane := { l with v := l.v.set r x }

/-- A lane with predicate p written; a write to p0 is discarded (R19). -/
def Lane.setPred (l : Lane) (p : BitVec 3) (b : Bool) : Lane :=
  if p == 0 then l
  else { l with p := if b then l.p ||| (1#8 <<< p.toNat) else l.p &&& ~~~(1#8 <<< p.toNat) }

/-- The positions of a list's elements that satisfy a test, ascending. -/
def positions {α : Type} (f : α → Bool) : List α → Nat → List Nat
  | [], _ => []
  | x :: r, i => if f x then i :: positions f r (i + 1) else positions f r (i + 1)

/-- Whether a lane passes the guard (R261). -/
def guardPass (gd : Option Guard) (l : Lane) : Bool :=
  match gd with
  | none => true
  | some g => l.pred g.p != g.inv

/-- ACT: live, in the slot set, of the running pass, and past the guard (R8, R43, R261). -/
def Group.act (gr : Group) (gd : Option Guard) : List Nat :=
  positions (fun l => l.live && gr.slotSet.contains l.blk.toNat && (gr.pass == 0 || l.mark == gr.pass) && guardPass gd l)
    gr.lanes 0

/-- The live lanes. -/
def Group.liveLanes (gr : Group) : List Nat := positions Lane.live gr.lanes 0

/-- Lane n of a group; positions beyond the width hold nothing. -/
def Group.lane (gr : Group) (n : Nat) : Lane := (gr.lanes[n]?).getD ⟨[], 0, 255, 0, 0⟩

/-- Every listed lane, with its number, changed by a function of the lane as it stood before (R30). -/
def mapLanes (act : List Nat) (f : Nat → Lane → Lane) : List Lane → Nat → List Lane
  | [], _ => []
  | l :: r, i => (if act.contains i then f i l else l) :: mapLanes act f r (i + 1)

/-- A group with the listed lanes changed. -/
def Group.onLanes (gr : Group) (act : List Nat) (f : Nat → Lane → Lane) : Group :=
  { gr with lanes := mapLanes act f gr.lanes 0 }

/-- A scalar register of a group; s0 reads zero (R19). -/
def Group.rs (gr : Group) (r : Nat) : DWord := if r = 0 then 0 else (gr.s[r]?).getD 0

/-- A group with a scalar register written; a write to s0 is discarded (R19). -/
def Group.ws (gr : Group) (r : Nat) (x : DWord) : Group := if r = 0 then gr else { gr with s := gr.s.set r x }

/-- A capability register of a group. -/
def Group.rk (gr : Group) (r : Nat) : Cap := (gr.k[r]?).getD Cap.null

/-- A group with a capability register written. -/
def Group.wk (gr : Group) (r : Nat) (x : Cap) : Group := { gr with k := gr.k.set r x }

/-- A lamplighter register; l0 reads zero (R19). -/
def Thread.rl (t : Thread) (r : Nat) : DWord := if r = 0 then 0 else (t.l[r]?).getD 0
def Thread.wl (t : Thread) (r : Nat) (x : DWord) : Thread := if r = 0 then t else { t with l := t.l.set r x }
def Thread.rk (t : Thread) (r : Nat) : Cap := (t.k[r]?).getD Cap.null
def Thread.wk (t : Thread) (r : Nat) (x : Cap) : Thread := { t with k := t.k.set r x }

/-! ### Events (R82) -/

/-- An event's kind (R82). -/
def eventKind (ws : List DWord) : Nat := fld (ws.headD 0).toNat 63 56

/-- A thread with one more event: at the tail of its queue, or held by its producer while the queue has no place. An idle
thread discards launch-arrived events and pre-empt notices (R417). -/
def Thread.takeEvent (th : Thread) (e : QEvent) : Thread :=
  if th.idle && (eventKind e.words == 1 || eventKind e.words == 5) then th
  else if th.queue.length < 256 && th.held.isEmpty then { th with queue := th.queue ++ [e] }
  else { th with held := th.held ++ [e] }

/-- An event for a thread, raised by a group (by its admission) or by the device. -/
def State.pushEvent (s : State) (t : Nat) (by_ : Option Nat) (ws : List DWord) : State :=
  s.modThread t fun th => th.takeEvent ⟨ws, s.clock, false, by_⟩

/-- An event for the thread of a context on a core, if the context has one there. -/
def State.notifyBy (s : State) (core ctx : Nat) (by_ : Option Nat) (ws : List DWord) : State :=
  match s.threadOf core ctx with
  | none => s
  | some t => s.pushEvent t by_ ws

/-- The same for an event of the device. -/
def State.notify (s : State) (core ctx : Nat) (ws : List DWord) : State := s.notifyBy core ctx none ws

/-- A group stays parked while the queue of its thread has no place for an event that it raised (R82). -/
def State.eventHeld (s : State) (gr : Group) : Bool := s.threads.any fun (_, th) => th.held.any fun e => e.by_ == some gr.uid

/-- An interrupt vector is raised (R433). -/
def State.raise (s : State) (v : Nat) : State := { s with msix := v :: s.msix }

/-- The places of the stationmaster's report store (R466). (DEDUCED: log 65) -/
def reportPlaces : Nat := 4096

/-- A stationmaster report for the driver, oldest first: its kind, the context concerned, CLOCK, and words 2 to 7 (R467). -/
def State.report (s : State) (kind ctx : Nat) (ws : List DWord) : State :=
  { s with reports := s.reports ++ [[dw (kind * 2 ^ 56 + ctx % 4096 * 2 ^ 40), dw s.clock] ++ (ws ++ List.replicate 6 0).take 6] }

/-- A launch is accepted: a rollback reports it, and a debug replay admits it again (R234, R428). (DEDUCED: log 106) -/
def State.accepted (s : State) (x : Accepted) : State := { s with since := s.since ++ [x], launched := insertNat s.launched x.ctx }

/-! ### Release points (R110, R111) -/

/-- The global id of a slot whose counter is c: generation above core and slot (R111). -/
def gidOf (g : Nat) (c : BitVec 18) : Nat := c.toNat / 4096 * 16384 + g

/-- A claim tag without the claim (id, serial), where it holds one. -/
def Claim.forget (c : Claim) (x : Nat × Nat) : Claim :=
  let f := fun (y : Nat × Nat) => if y = x then (0xFFFFF, 0) else y
  { c with rd0 := f c.rd0, rd1 := f c.rd1, wr := f c.wr }

/-- A slot's counter at a new value. A stale claim that it would match has been cleared by then (R117). (DEDUCED: log 75) -/
def State.setCtr (s : State) (g : Nat) (c : BitVec 18) : State :=
  { s with
    slotCtr := tset s.slotCtr g c
    claims := tmap s.claims fun _ x => x.forget (gidOf g c, c.toNat % 4096) }

/-- Whether an access has performed or been refused. -/
def Access.isDone (a : Access) : Bool :=
  match a.stage with
  | .answered => true
  | .toPort | .parked _ | .overflow _ | .bank _ _ | .toHome | .forHead | .replay => false

/-- A plain access of an admission of a group, numbered below n, has not performed. -/
def State.pendingPlain (s : State) (uid n : Nat) : Bool :=
  s.accs.any fun (k, a) => a.uid == uid && decide (k < n) && a.plain && !a.isDone

/-- The lines whose tags hold a claim (id, serial) where a test looks. -/
def State.claimLines (s : State) (f : Claim → Bool) : List Nat := (s.claims.filter fun (_, c) => f c).map (·.1)

/-- The region of a slot's group ends: where plain accesses of it have still to perform, its claims are kept as lapsed, with those of
earlier regions that still wait so (R94). (DESIGN CHOICE: log 89) -/
def State.lapse (s : State) (g : Nat) : State :=
  match s.group? g with
  | none => s
  | some gr =>
    let me := (gr.gid, ((tget s.slotCtr g).getD 0).toNat % 4096)
    let x : Lapsed := ⟨⟨gr.uid, gr.ctx, gr.crew⟩, s.nextId, s.claimLines fun c => c.wr == me,
      s.claimLines fun c => c.rd0 == me || c.rd1 == me⟩
    let old := s.lapsed.filter fun x => s.pendingPlain x.holder.uid x.before
    { s with lapsed := if s.pendingPlain gr.uid s.nextId && !(x.wrote.isEmpty && x.read.isEmpty) then x :: old else old }

/-- A release point of the slot's group: the slot counter advances by one. -/
def State.release (s : State) (g : Nat) : State :=
  let c := (tget s.slotCtr g).getD 0 + 1
  let s1 := (s.lapse g).setCtr g c
  { s1 with groups := tmod s1.groups g fun gr => { gr with gid := gidOf g c } }

/-- The region serial of a slot (R111). -/
def State.serial (s : State) (g : Nat) : Nat := ((tget s.slotCtr g).getD 0).toNat % 4096

/-- The holder of a current claim (id, serial): the live group of the slot, while the slot's counter equals the claim (R113). -/
def State.holder (s : State) (c : Nat × Nat) : Option Holder :=
  ((s.group? (c.1 % 16384)).filter fun gr => c.1 < 2 ^ 20 && gr.gid == c.1 && s.serial (c.1 % 16384) == c.2).map
    fun gr => ⟨gr.uid, gr.ctx, gr.crew⟩

/-- A claim (id, serial) is current (R113). -/
def State.current (s : State) (c : Nat × Nat) : Bool := (s.holder c).isSome

/-- CLAIMLOST advanced: the sticky bit set and the count up by one, saturating (R21, R114). -/
def claimLostUp (v : DWord) : DWord :=
  let n := fld v.toNat 31 0
  dw (2 ^ 63 + (if n = 0xFFFFFFFF then n else n + 1))

def State.loseClaim (s : State) (ctx : Nat) : State :=
  s.modCtx ctx fun c => { c with claimLost := claimLostUp c.claimLost }

/-! ### Issue -/

/-- A hint: a word of major 0x39 or 0x3B (R54, R241). -/
def isHint (w : Word) : Bool := fld w.toNat 30 25 == 0x39 || fld w.toNat 30 25 == 0x3B

/-- A word counts as a vote when its bits [30:22] are those of `vote` (R281). -/
def isVote (w : Word) : Bool := fld w.toNat 30 22 == 0x1C3

/-- The provenance tag of a word (R84). -/
def provOf (source station index : Nat) : Word :=
  BitVec.ofNat 32 (source * 2 ^ 30 + station % 1024 * 2 ^ 20 + index % 2 ^ 20)

/-- The words of an issue queue that a group takes: one with no live lane discards those before its vote (R370). -/
def Group.liveQueue (gr : Group) : List QWord :=
  if gr.liveLanes.isEmpty then gr.queue.dropWhile fun q => !isVote q.word else gr.queue

/-- The next word of a group and the group without it (R83, R210, R370): a retried word; else the station's next
word, or in an open station the queue's head. A group with no live lane passes on to its vote. -/
def Group.nextWord (gr : Group) : Option (QWord × Group) :=
  match gr.retry with
  | t :: r => some (⟨t.instr, t.prov⟩, { gr with retry := r })
  | [] =>
    let dead := gr.liveLanes.isEmpty
    if gr.isOpen then
      match gr.liveQueue with
      | [] => none
      | q :: r => some (q, { gr with queue := r })
    else
      let i := if dead && decide (gr.pc < gr.code.length) then gr.code.length - 1 else gr.pc
      match gr.code[i]? with
      | none => none
      | some w => some (⟨w, provOf gr.source gr.station i⟩, { gr with pc := i + 1 })

/-- The guard after a covered word (R261). -/
def guardAfter (hint : Bool) (gd : Option Guard) : Option Guard :=
  match gd with
  | none => none
  | some g => if hint then some g else if g.left ≤ 1 then none else some { g with left := g.left - 1 }

/-- The performer before a group's word: word and tag, ACT, binding and guard, and RWCOUNT before it. -/
def curOf (g : Nat) (gr : Group) (q : QWord) : Cur :=
  match gr.retry with
  | t :: _ => ⟨.group g, q.word, q.prov, t.retry, t.hix, t.guard, gr.rwcount.toNat⟩
  | [] =>
    let gd := if isHint q.word then none else gr.guard
    ⟨.group g, q.word, q.prov, gr.act gd, gr.hix, gd, gr.rwcount.toNat⟩

/-- The group as its word issues: RWCOUNT counts every word but a hint, the S bit parks it, the binding is used up, the
guard covers one word less (R21, R78, R260, R261); a halted sibling's issue slots are counted (R206). A retried word uses its own binding and guard (R262). -/
def Group.issued1 (gr gr' : Group) (q : QWord) (tick : Nat) : Group :=
  let hint := isHint q.word
  { gr' with
    rwcount := if hint then gr.rwcount else gr.rwcount + 1
    marker := q.word.getLsbD 31
    hix := if gr.retry.isEmpty then none else gr.hix
    hslots := if gr.stop = .halting then gr.hslots + 1 else gr.hslots
    guard := if gr.retry.isEmpty then guardAfter hint gr.guard else gr.guard
    lastIss := tick
    ready := none }

/-- A group's next word issues: the state in which the word is performed. -/
def State.begin (s : State) (g : Nat) (gr : Group) (q : QWord) (gr' : Group) : State :=
  let s1 := { s with cur := curOf g gr q, groups := tset s.groups g (gr.issued1 gr' q s.tick) }
  match s.crew? gr.crew with
  | none => s1
  | some c => s1.modLaunch c.launch fun l => if l.tstart = 0 then { l with tstart := s.clock } else l

/-! ### In flight -/

/-- Identifiers of the words in flight of a group. -/
def State.opsOf (s : State) (g : Nat) : List Nat := (s.ops.filter fun (_, o) => o.group == g).map (·.1)

/-- The outstanding counter of a group (R77). -/
def State.counter (s : State) (g : Nat) : Nat := (s.ops.filter fun (_, o) => o.group == g && o.counted).length

/-- Every word of the group has performed or trapped; a copy word that still reads its list has not (R203, R363). -/
def State.settled (s : State) (g : Nat) : Bool :=
  (s.ops.all fun (_, o) => o.group != g) && (s.engine.all fun e => e.group != g)
    && s.cmds.all fun (_, c) => c.group != g || !c.listing

/-- Whether a word in flight still waits for an answer that counts for R201: one that is not parked (R218). A `tld` or `tst`
that its engine has not begun has no answer, nor a `tld` between its scale bytes and its data bytes. -/
def State.unanswered (s : State) (n : Nat) : Bool :=
  (s.engine.any fun e => e.op == some n && match e.word with
    | .tst _ _ _ _ _ => true
    | .tld _ _ _ _ _ => e.phase == 0 || (e.phase == 1 && s.accs.all fun (_, a) => a.op != n)
    | .tcfg _ _ | .acfg _ _ | .mma _ _ _ _ | .mmb _ _ _ _ | .azero _ | .ard _ _ _ | .awr _ _ _ | .acvt _ _ => false)
  || s.accs.any fun (_, a) => a.op == n && match a.stage with
    | .parked _ | .overflow _ => false
    | .toPort | .bank _ _ | .toHome | .forHead | .answered | .replay => true

/-- The answer limit: fewer than 64 non-hint words past the oldest unanswered word (R201). -/
def State.withinLimit (s : State) (g : Nat) (gr : Group) : Bool :=
  s.ops.all fun (n, o) => o.group != g || !s.unanswered n || decide (gr.rwcount.toNat < o.rwc + 1 + 64)

/-! ### Level-one traps (R199 to R209) -/

/-- The class of a trap code: 0 local, 1 crew, 2 crew asynchronous (R199). -/
def classOf (code : Nat) : Nat := if code < 8 then 0 else if code = 14 then 2 else 1

/-- The summary and mask words of a lane set at mask word w (R203). -/
def maskWord (lanes : List Nat) (w : Nat) : Nat := lanes.foldl (fun a l => if l / 32 = w then a ||| 2 ^ (l % 32) else a) 0
def summary (lanes : List Nat) : Nat := lanes.foldl (fun a l => a ||| 2 ^ (l / 32)) 0

/-- The eight words of a trap record, with the event kind it is delivered as (R203). -/
def Trap.words (t : Trap) (evk : Nat) : List DWord :=
  let fl := t.fault.headD 0
  [dw (evk * 2 ^ 56 + t.code * 2 ^ 48 + t.cls * 2 ^ 46 + t.origin * 2 ^ 42 + t.gid * 2 ^ 20 + t.stack * 2 ^ 8 + t.skid),
   dw (t.instr.toNat * 2 ^ 32 + t.prov.toNat),
   dw t.rwc,
   dw (t.handle * 2 ^ 32 + t.fault.length * 2 ^ 21 + fl),
   dw (t.ooff % 2 ^ 40),
   dw (summary t.fault * 2 ^ 32 + maskWord t.fault (fl / 32)),
   t.detail,
   dw (t.pass * 2 ^ 40 + t.blk.toNat * 2 ^ 32 + t.station * 2 ^ 16)]

/-- The trap of the word being performed, with its fault and retry sets (R203, R204). (DEDUCED: log 71) -/
def trapOf (gr : Group) (c : Cur) (code origin : Nat) (fault retry : List Nat) (detail : DWord) (handle ooff : Nat) : Trap :=
  { code := code, cls := classOf code, origin := origin, skid := 0, instr := c.word, prov := c.prov, rwc := c.rwc,
    handle := handle, ooff := ooff, fault := fault, retry := retry, act := c.act, detail := detail,
    station := gr.station, pass := gr.pass, blk := (gr.lane (fault.headD 0)).blk, hix := c.hix, guard := c.guard,
    gid := gr.gid, stack := 0, debug := false, early := false, async := false, raised := false }

/-- The record of a group that a halt stops with no trap of its own: CODE 0, CLASS 3, at its next word (R206). (DEDUCED: log 45; DESIGN CHOICE: log 114) -/
def siblingTrap (gr : Group) : Trap :=
  let (w, p) := match gr.nextWord with
    | none => (0, 0)
    | some (q, _) => (q.word, q.prov)
  { code := 0, cls := 3, origin := 0, skid := 0, instr := w, prov := p, rwc := gr.rwcount.toNat, handle := 0, ooff := 0,
    fault := [], retry := [], act := [], detail := 0, station := gr.station, pass := gr.pass, blk := (gr.lane 0).blk,
    hix := gr.hix, guard := gr.guard, gid := gr.gid, stack := 0, debug := false, early := false, async := false, raised := false }

/-- A younger trap joins the stacked traps, in issue order (R208). -/
def stackTrap (t : Trap) : List Trap → List Trap
  | [] => [t]
  | x :: r => if t.rwc < x.rwc then t :: x :: r else x :: stackTrap t r

/-- A trap of no word of its own: a halted sibling, a copy fault, a precise stop (R206, R213, R427). -/
def Trap.noWord (t : Trap) : Bool := t.code == 0 || t.async || (t.code == 7 && t.origin == 5 && t.detail.getLsbD 63)

/-- A trap whose record goes to the debugger: of a `brk`, a precise stop or a watchpoint (R384, R427, R429). -/
def Trap.ofDebugger (t : Trap) : Bool := t.code == 7 && t.origin == 5

/-- The word of the trap t issued before that of x. A word issued once more is older than one whose stacked trap is raised
after it (R208, R210). -/
def Trap.olderThan (t x : Trap) : Bool := decide (t.rwc < x.rwc) || (t.rwc == x.rwc && x.raised)

/-- The group holds one more trap; the oldest is its trap, the others are stacked behind it (R208). -/
def Group.addTrap (gr : Group) (t : Trap) : Group :=
  match gr.stop, gr.trap with
  | .trapping, some x =>
    if t.olderThan x then { gr with trap := some t, stacked := x :: gr.stacked }
    else { gr with stacked := stackTrap t gr.stacked }
  | .trapped, some x => { gr with trap := some { x with stack := x.stack + 1 }, stacked := stackTrap t gr.stacked }
  | .trapping, none | .trapped, none | .run, _ | .halting, _ | .halted, _ => { gr with trap := some t, stop := .trapping }

/-- A group waits in a way that parks it (R78, R207): an answer that holds issue is no park (R200). -/
def Group.parkedWait (gr : Group) : Bool :=
  match gr.wait with
  | .none | .answer _ => false
  | .phase _ _ _ | .word _ _ | .fuse _ _ | .compose _ _ | .fence _ _ _ _ | .sinv _ _ _ _ _ | .store _ => true

/-- The group waits for its crew's turn in the serial order (R159, R161). -/
def State.awaitsHead (s : State) (g : Nat) : Bool :=
  s.accs.any fun (_, a) => a.group == g && a.stage == .forHead && (a.write || a.isAtom)

/-- A group is parked when the halt reaches it: in a wait, at a marker, at the answer limit, or until its crew's turn (R159, R201,
R207). -/
def State.parkedAt (s : State) (g : Nat) (gr : Group) : Bool :=
  gr.parkedWait || (gr.marker && s.counter g != 0) || !s.withinLimit g gr || s.awaitsHead g

/-- The issue slots a halted sibling may still take (R25, R206). -/
def haltSlots : Nat := 64

/-- The halt reaches a sibling: it stops at a later word boundary (R206), a parked one at this one (R207). A stopped group
stays as it is. -/
def Group.haltReached (gr : Group) (parked : Bool) : Group :=
  match gr.stop with
  | .run => { gr with stop := .halting, trap := some (siblingTrap gr), hslots := if parked then haltSlots else 0 }
  | .trapping | .trapped | .halting | .halted => gr

/-- A group whose trap was raised before the halt that begins, by a word other than the one that began it (R206). -/
def Group.markEarly (gr : Group) (t : Trap) : Group :=
  match gr.stop, gr.trap with
  | .trapping, some x => if x = t then gr else { gr with trap := some { x with early := true } }
  | .trapping, none | .run, _ | .trapped, _ | .halting, _ | .halted, _ => gr

/-- A crew halt begins, unless one is under way (R206). -/
def State.startHalt (s : State) (crew group : Nat) (t : Trap) (dbg : Bool) : State :=
  match s.crew? crew with
  | none => s
  | some c =>
    match c.halt with
    | some ⟨_, _, false, _⟩ => s
    | some ⟨_, _, true, _⟩ | none =>
      let s1 := s.modCrew crew fun c => { c with halt := some ⟨group, t, false, dbg⟩ }
      { s1 with groups := tmap s1.groups fun g gr => if gr.crew == crew then (gr.markEarly t).haltReached (s.parkedAt g gr) else gr }

/-- A trap that a group takes while the debugger halts its crew joins that halt: the debugger resumes the group (R206, R430). (DEDUCED: log 45) -/
def State.joined (s : State) (crew : Nat) (t : Trap) : Trap :=
  match (s.crew? crew).bind (·.halt) with
  | some ⟨_, _, false, true⟩ => { t with debug := true }
  | some ⟨_, _, true, _⟩ | some ⟨_, _, false, false⟩ | none => t

/-- TAKING A LEVEL-ONE TRAP: the group parks on it, and a crew-class trap halts its crew (R199, R203, R206). The record
is written once the group's words are settled, by TRAP_RECORD_WRITE. -/
def State.takeTrap (s : State) (g : Nat) (t : Trap) : State :=
  match s.group? g with
  | none => s
  | some gr =>
    let t := s.joined gr.crew t
    let s1 := s.modGroup g fun gr => gr.addTrap t
    if t.cls = 1 then s1.startHalt gr.crew g t false else s1

/-- A precise trap of the word being performed (R199). -/
def State.trapNow (s : State) (g : Nat) (code : Nat) (fault : List Nat) (detail : DWord) (handle ooff : Nat) : State :=
  match s.group? g with
  | none => s
  | some gr => s.takeTrap g (trapOf gr s.cur code 0 fault s.cur.act detail handle ooff)

/-- UNDEF's DETAIL: HIXV, the payload and the reason (R204). -/
def undefDetail (hix : Option (BitVec 25)) (reason : Nat) : DWord :=
  match hix with
  | none => dw reason
  | some p => dw (2 ^ 57 + p.toNat * 2 ^ 32 + reason)

/-- The word traps UNDEF with a reason (R205), as a local trap with fault and retry set ACT. -/
def State.undef (s : State) (g reason : Nat) : State :=
  s.trapNow g 1 s.cur.act (undefDetail s.cur.hix reason) 0 0

/-- The code of a role (R60). -/
def Role.code : Role → Nat
  | .vector => 0
  | .matrix => 1
  | .copy => 2
  | .general => 3

/-- The word traps ROLE (R54, R204). -/
def State.roleTrap (s : State) (g : Nat) (r : Role) : State := s.trapNow g 2 s.cur.act (dw r.code) 0 0

/-- The trap's record as it is written: SKID counts the non-hint words issued after the trapping word, 64 at most, STACK the
traps behind it (R199, R203, R208). (DEDUCED: log 70) -/
def Trap.settle (t : Trap) (gr : Group) : Trap :=
  if t.noWord then { t with rwc := gr.rwcount.toNat, stack := gr.stacked.length, gid := gr.gid }
  else { t with skid := min haltSlots (if isHint t.instr then gr.rwcount.toNat - t.rwc else gr.rwcount.toNat - (t.rwc + 1))
                stack := gr.stacked.length, gid := gr.gid }

/-- Writing the record: the trapping word has not retired, so RWCOUNT counts it no longer, and is RWC + SKID (R203).
(DEDUCED: log 70) -/
def Group.writeRecord (gr : Group) : Group :=
  match gr.trap with
  | none => gr
  | some t =>
    { gr with trap := some (t.settle gr), stop := .trapped, rwcount := if t.noWord || isHint t.instr then gr.rwcount else gr.rwcount - 1 }

/-- A stacked trap is raised as a fresh precise record before anything new issues (R208, R210); it joins no halt that is over.
(DEDUCED: log 70) -/
def Group.raiseStacked (gr : Group) : Group :=
  match gr.stacked with
  | [] => gr
  | t :: r =>
    -- its word was counted when it issued, and has not retired
    let n := if isHint t.instr || t.noWord then gr.rwcount.toNat else gr.rwcount.toNat - 1
    { gr with trap := some { t with rwc := n, raised := true, debug := t.ofDebugger }, stacked := r, stop := .trapping }

/-- THE RETURN FROM A TRAP, by `gres` and by the debugger (R210, R289, R430): retry issues the trapping word once more
for its retry set; skip counts it as retired. A group with no trap of its own goes on at its next word. -/
def Group.resume (gr : Group) (skip : Bool) : Group :=
  match gr.stop, gr.trap with
  | .trapped, some t =>
    if t.noWord then { gr with stop := .run, trap := none }
    else if skip then
      { gr with stop := .run, trap := none, rwcount := if isHint t.instr then gr.rwcount else gr.rwcount + 1 }
    else { gr with stop := .run, trap := none, retry := stackTrap t gr.retry }
  | .halted, _ => { gr with stop := .run, trap := none }
  | .trapped, none | .run, _ | .trapping, _ | .halting, _ => gr

/-! ### Level-two faults (R219, R220) -/

/-- The codes of R219. -/
inductive L2 where
  | undef | cap | align | emit | stins | noBuf | group | event | wdog
  deriving DecidableEq, Repr

def L2.code : L2 → Nat
  | .undef => 1
  | .cap => 2
  | .align => 3
  | .emit => 4
  | .stins => 5
  | .noBuf => 6
  | .group => 7
  | .event => 8
  | .wdog => 9

/-- The report of a level-two fault (R220). -/
def l2Words (ctx : Nat) (code : L2) (t pc instr detail clock : Nat) : List DWord :=
  [dw (ctx % 4096 * 2 ^ 40 + code.code * 2 ^ 32 + threadCore t * 4 + t % 4), dw pc, dw (instr * 2 ^ 32 + detail % 2 ^ 32),
   dw clock]

/-- A group's words in flight, its accesses and its commands go on without it (R211), those that a pre-emption cancelled too.
(DEDUCED: log 55) -/
def State.orphan (s0 : State) (g : Nat) : State :=
  let s := s0.lapse g
  { s with
    ops := tmap s.ops fun _ o => if o.group == g then { o with group := noGroup } else o
    accs := tmap s.accs fun _ a => if a.group == g then { a with group := noGroup, stage := if a.stage = .replay then .toPort else a.stage } else a
    cmds := tmap s.cmds fun _ c => if c.group == g then { c with group := noGroup } else c
    engine := s.engine.filter fun e => e.group != g
    softFences := s.softFences.filter fun f => f.group != g }

/-- The index of a crew's write buffer has entries that wait for its serial phase (R156). -/
def State.owesCommit (s : State) (c : Crew) : Bool :=
  match s.launch? c.launch with
  | none => false
  | some l => l.determ && l.status == 0 && decide (l.head ≤ c.idx)

/-- The last group of a crew has retired: its resources are free, and its launch counts it (R65, R67). Under DETERM its
write buffer stays until the crew commits (R156). -/
def State.retireCrew (s : State) (c : Nat) : State :=
  match s.crew? c with
  | none => s
  | some cr =>
    let s1 := s.modLaunch cr.launch fun l => { l with retired := l.retired + 1, tend := s.clock }
    let s1 := { s1 with fastFree := s1.fastFree ++ cr.out.frames }
    let s2 := match s.threadOf cr.core cr.ctx with
      | none => s1
      | some t => s1.modThread t fun th => { th with lastCrew := s.clock }
    if s.owesCommit cr then
      s2.modCrew c fun cr => { cr with groups := [], tiles := [], accs := [], spadLen := 0, halt := none, out := Parts.none }
    else { s2 with crews := tdel s2.crews c }

/-- The precise stops armed for a group (R427). -/
def State.stopsOf (s : State) (gr : Group) : List DbgStop :=
  match s.crew? gr.crew with
  | none => []
  | some c => match s.launch? c.launch with
    | none => []
    | some l => s.stops.filter fun x => x.ctx == gr.ctx && x.ltag == l.ltag && x.crew == c.idx && x.gidx == gr.gidx

/-- A stop whose count its group does not reach is over, with status NOREACH (R427, R467). -/
def State.endStop (s : State) (x : DbgStop) : State :=
  ({ s with stops := s.stops.erase x }).report 12 x.ctx [dw x.ltag, dw (x.gidx * 2 ^ 32 + x.crew), 38]

/-- Stops whose group retires before their count (R427). -/
def State.dropStops (s : State) (gr : Group) : State := (s.stopsOf gr).foldl State.endStop s

/-- A group retires: its slot and registers are free (R28, R38), and with its crew's last group the crew retires. -/
def State.retireGroup (s : State) (g : Nat) : State :=
  match s.group? g with
  | none => s
  | some gr =>
    let s1 := (s.dropStops gr).orphan g
    let s2 := { s1 with groups := tdel s1.groups g }
    if (s2.crewGroups gr.crew).isEmpty then s2.retireCrew gr.crew else s2

/-! ### Writes at the home of a byte (R91, R186, R233, R334) -/

/-- The granules that bytes [a, a + n) touch. -/
def granules (a n : Nat) : List Nat := if n = 0 then [] else upTo (a / 16) ((a + n - 1) / 16 - a / 16 + 1)

/-- Whether the bytes [a, a + n) and the eight bytes at w meet. -/
def touches (a n w : Nat) : Bool := decide (a < w + 8 ∧ w < a + n)

/-- Whether a registration's condition holds in memory (R106, R109). -/
def waitHolds (m : List Host.Cell) (w : Wait) : Bool :=
  match w with
  | .phase a ph _ => fld (mnat m a 8) 56 56 != (if ph then 1 else 0)
  | .word a v => dw (mnat m a 8) == v
  | .none | .fuse _ _ | .compose _ _ | .fence _ _ _ _ | .sinv _ _ _ _ _ | .answer _ | .store _ => false

/-- Whether a registration lies on the bytes [a, a + n). -/
def waitTouched (w : Wait) (a n : Nat) : Bool :=
  match w with
  | .phase x _ _ => touches a n x
  | .word x _ => touches a n x
  | .none | .fuse _ _ | .compose _ _ | .fence _ _ _ _ | .sinv _ _ _ _ _ | .answer _ | .store _ => false

/-- A write re-evaluates the registrations on its bytes; a condition once met stays met (R334). -/
def Group.reeval (gr : Group) (m : List Host.Cell) (ws : List (Nat × List Byte)) : Group :=
  if (ws.any fun x => waitTouched gr.wait x.1 x.2.length) && waitHolds m gr.wait then { gr with met := true } else gr

/-- Runs of bytes written at their homes as one write, the last one last: tags of the granules are cleared, registrations are
evaluated on the bytes that are left, also those of groups that left their core. -/
def State.memPuts (s : State) (ws : List (Nat × List Byte)) : State :=
  let m := ws.foldl (fun m x => mputs m x.1 x.2) s.mem
  { s with
    mem := m
    tags := ws.foldl (fun ts x => (granules x.1 x.2.length).foldl tagClear ts) s.tags
    groups := tmap s.groups fun _ gr => gr.reeval m ws
    savedCrews := tmap s.savedCrews fun _ c => { c with groups := c.groups.map fun gr => gr.reeval m ws } }

/-- Bytes written at their home from an address on. -/
def State.memWrite (s : State) (a : Nat) (bs : List Byte) : State := s.memPuts [(a, bs)]

/-- A whole granule written with its tag; host memory and peers keep no tags (R186, R338). (DEDUCED: log 74) -/
def State.memWriteTagged (s : State) (a : Nat) (bs : List Byte) (tag : Bool) : State :=
  let s1 := s.memWrite a bs
  if tag && !isOutside a then { s1 with tags := tagSet s1.tags (a / 16) } else s1

/-- An outbound range extends an entry of its context and target that it meets or touches (R233). -/
def extendLog (e : OutEntry) : List OutEntry → Option (List OutEntry)
  | [] => none
  | x :: r =>
    if x.ctx = e.ctx ∧ x.dest = e.dest ∧ x.peer = e.peer ∧ x.phandle = e.phandle ∧ e.addr ≤ x.addr + x.len ∧ x.addr ≤ e.addr + e.len then
      let lo := min x.addr e.addr
      some ({ x with addr := lo, len := max (x.addr + x.len) (e.addr + e.len) - lo } :: r)
    else match extendLog e r with
      | none => none
      | some r' => some (x :: r')

/-- The outbound log entry of bytes written at a flat address outside the device. -/
def outEntryOf (ctx a n clock : Nat) : OutEntry :=
  if a < peerBase then ⟨a - hostBase, 0, 0, 0, ctx, n, clock⟩
  else
    let x := a - peerBase
    ⟨x % 2 ^ 41, x / 2 ^ 41 % 2 ^ 32, x / 2 ^ 73, 1, ctx, n, clock⟩

/-- A write that leaves the device is logged; a 65,537th entry overflows (R233). -/
def State.logOut (s : State) (ctx a n : Nat) : State :=
  if !isOutside a || n == 0 then s
  else
    let e := outEntryOf ctx a n s.clock
    match extendLog e s.outLog with
    | some l => { s with outLog := l }
    | none => if s.outLog.length < 65536 then { s with outLog := s.outLog ++ [e] } else { s with outOver := true }

/-- A write by the device for a context: performed at its home, and logged where it leaves the device. -/
def State.devWrite (s : State) (ctx a : Nat) (bs : List Byte) : State := (s.memWrite a bs).logOut ctx a bs.length

/-! ### Mailbox results (R434, R435) -/

/-- A command's result is written at RADDR and vector 1 raised (R433, R435). (DEDUCED: log 32) -/
def State.mailResult (s : State) (raddr ctag status : Nat) (ws : List DWord) : State :=
  (s.memWrite (hostBase + raddr) (bytesOf (dw (ctag * 2 ^ 32 + status) :: (ws ++ [0, 0, 0]).take 3))).raise 1

end Sys2Proof.Machine
end

