-- ==== Sys2Proof/Machine/Flags.lean ====
section
/-! DEFINITION. The mode word FMODE (R134 to R139) and every rounding and special-value rule the number formats give
(R124, R128, R132, R133, R137 to R142). A finite value is kept exactly, as a sign, a magnitude m and an exponent e,
and means plus or minus m x 2^e. -/
namespace Sys2Proof.Machine

/-! ### FMODE -/

/-- The rounding modes (R132, R134). -/
inductive Rm where
  | rne | rtz | rdn | rup | rna
  deriving DecidableEq, Repr

/-- The rounding mode of a code; the reserved codes, which no lane holds (R135), read as RNE. -/
def Rm.ofCode (n : Nat) : Rm :=
  match n with
  | 1 => .rtz
  | 2 => .rdn
  | 3 => .rup
  | 4 => .rna
  | _ => .rne

/-- The fields of a mode word (R134). -/
structure Mode where
  rm   : Rm
  daz  : Bool
  ftz  : Bool
  sat  : Bool
  nanp : Bool
  minx : Bool
  fmal : Bool
  deriving DecidableEq, Repr

/-- The mode of an FMODE value (R134). -/
def modeOf (f : BitVec 16) : Mode :=
  ⟨Rm.ofCode (fld f.toNat 2 0), f.getLsbD 3, f.getLsbD 4, f.getLsbD 5, f.getLsbD 6, f.getLsbD 7, f.getLsbD 8⟩

/-- FMODE values that a lane may hold (R135). -/
def fmodeLegal (f : Nat) : Bool := decide (fld f 2 0 ≤ 4) && fld f 15 9 == 0

/-! ### Values -/

/-- A number as a format's code stands for it. A NaN keeps its sign, fraction and fraction width (R138). -/
inductive FVal where
  | nan (neg : Bool) (frac width : Nat)
  | inf (neg : Bool)
  | num (neg : Bool) (m : Nat) (e : Int)
  deriving DecidableEq, Repr

/-- A binary format: exponent bits, fraction bits, bias (R124). -/
structure Fmt where
  eb   : Nat
  fb   : Nat
  bias : Int
  deriving DecidableEq, Repr

def Fmt.f32 : Fmt := ⟨8, 23, 127⟩
def Fmt.f16 : Fmt := ⟨5, 10, 15⟩
def Fmt.bf16 : Fmt := ⟨8, 7, 127⟩

/-- The width of a format's code. -/
def Fmt.width (f : Fmt) : Nat := 1 + f.eb + f.fb

/-- The exponent of the format's smallest step: 1 - bias - f (R124). -/
def Fmt.qmin (f : Fmt) : Int := 1 - f.bias - f.fb

/-- The largest finite magnitude: its integer significand and exponent (R124). -/
def Fmt.maxM (f : Fmt) : Nat := 2 ^ (f.fb + 1) - 1
def Fmt.maxE (f : Fmt) : Int := (2 ^ f.eb - 2 : Nat) - f.bias - f.fb

/-- The value of a code (R124). -/
def Fmt.decode (f : Fmt) (c : Nat) : FVal :=
  let neg := c / 2 ^ (f.eb + f.fb) % 2 == 1
  let e := c / 2 ^ f.fb % 2 ^ f.eb
  let fr := c % 2 ^ f.fb
  if e = 2 ^ f.eb - 1 then (if fr = 0 then .inf neg else .nan neg fr f.fb)
  else if e = 0 then .num neg fr f.qmin
  else .num neg (2 ^ f.fb + fr) ((e : Int) - f.bias - f.fb)

/-- The sign bit of a code. -/
def signBit (f : Fmt) (neg : Bool) : Nat := if neg then 2 ^ (f.eb + f.fb) else 0

/-- The infinity of a sign, and the largest finite value of a sign. -/
def Fmt.infCode (f : Fmt) (neg : Bool) : Nat := signBit f neg + (2 ^ f.eb - 1) * 2 ^ f.fb
def Fmt.maxCode (f : Fmt) (neg : Bool) : Nat := f.infCode neg - 1

/-- The canonical NaN (R124). -/
def Fmt.nanCode (f : Fmt) : Nat := (2 ^ f.eb - 1) * 2 ^ f.fb + 2 ^ (f.fb - 1)

/-- Whether the exact value is zero. -/
def FVal.isZero : FVal → Bool
  | .num _ m _ => m == 0
  | .nan _ _ _ | .inf _ => false

/-- DAZ: a subnormal reads as the zero of its sign (R137). -/
def dazVal (f : Fmt) (daz : Bool) (x : FVal) : FVal :=
  match x with
  | .num neg m e => if daz && decide (m < 2 ^ f.fb) then .num neg 0 e else x
  | .nan _ _ _ | .inf _ => x

/-! ### Rounding -/

/-- Whether the kept magnitude n steps up, from the mode, the sign, and the bits cut off: r of 2^k (R132). -/
def roundsUp (rm : Rm) (neg : Bool) (n r half : Nat) : Bool :=
  match rm with
  | .rne => decide (half < r) || (r == half && n % 2 == 1)
  | .rna => decide (half ≤ r)
  | .rtz => false
  | .rdn => neg && r != 0
  | .rup => !neg && r != 0

/-- m x 2^e rounded onto the grid whose step is 2^q, as a multiple of that step (R132). -/
def roundGrid (rm : Rm) (neg : Bool) (m : Nat) (e q : Int) : Nat :=
  if q ≤ e then m * 2 ^ (e - q).toNat
  else
    let k := (q - e).toNat
    let n := m / 2 ^ k
    let r := m % 2 ^ k
    if roundsUp rm neg n r (2 ^ (k - 1)) then n + 1 else n

/-- The step's exponent at m x 2^e for p significant bits and the least step qmin. -/
def stepAt (p : Nat) (qmin : Int) (m : Nat) (e : Int) : Int := max qmin ((bitLen m : Int) + e - p)

/-- n x 2^q written with exactly p significant bits where it has more steps than that needs, so that it can be coded. -/
def normSig (p : Nat) (n : Nat) (q : Int) : Nat × Int := if n = 2 ^ p then (2 ^ (p - 1), q + 1) else (n, q)

/-- The overflow result of R132: true for the infinity, false for the largest finite value. -/
def overInf (rm : Rm) (neg : Bool) : Bool :=
  match rm with
  | .rne | .rna => true
  | .rtz => false
  | .rdn => neg
  | .rup => !neg

/-- Round(fmt, x, mode) of a finite x, with FTZ (R132, R133, R137); `sat` sends an overflow to the largest value. -/
def roundFmt (f : Fmt) (rm : Rm) (ftz sat : Bool) (neg : Bool) (m : Nat) (e : Int) : Nat :=
  if m = 0 then signBit f neg
  else
    let q0 := stepAt (f.fb + 1) f.qmin m e
    let (n, q) := normSig (f.fb + 1) (roundGrid rm neg m e q0) q0
    if q > f.maxE then (if overInf rm neg && !sat then f.infCode neg else f.maxCode neg)
    else if n < 2 ^ f.fb then (if ftz then signBit f neg else signBit f neg + n)
    else signBit f neg + (q + f.bias + f.fb).toNat * 2 ^ f.fb + (n - 2 ^ f.fb)

/-- The NaN that an operand NaN gives under NANP = 1: quieted, and cut or padded to the format (R138). -/
def Fmt.nanFrom (f : Fmt) (neg : Bool) (frac width : Nat) : Nat :=
  let fr := if width ≤ f.fb then frac * 2 ^ (f.fb - width) else frac / 2 ^ (width - f.fb)
  signBit f neg + (2 ^ f.eb - 1) * 2 ^ f.fb + (if fr / 2 ^ (f.fb - 1) % 2 = 1 then fr else fr + 2 ^ (f.fb - 1))

/-- The NaN result of an operation on operands in their order (R138). -/
def nanResult (f : Fmt) (nanp : Bool) : List FVal → Nat
  | [] => f.nanCode
  | .nan neg fr w :: r => if nanp then f.nanFrom neg fr w else nanResult f nanp r
  | .inf _ :: r => nanResult f nanp r
  | .num _ _ _ :: r => nanResult f nanp r

def FVal.isNan : FVal → Bool
  | .nan _ _ _ => true
  | .inf _ | .num _ _ _ => false

def FVal.neg : FVal → FVal
  | .nan n f w => .nan n f w
  | .inf n => .inf !n
  | .num n m e => .num (!n) m e

/-- A created NaN, which is canonical (R138): it carries no operand's payload. -/
def FVal.created : FVal := .nan false 0 0

/-! ### Exact arithmetic -/

/-- The exact product of two values (R151, R299). -/
def mulVal (a b : FVal) : FVal :=
  match a, b with
  | .nan n f w, _ => .nan n f w
  | _, .nan n f w => .nan n f w
  | .inf x, .inf y => .inf (x != y)
  | .inf x, .num y m _ => if m = 0 then .created else .inf (x != y)
  | .num x m _, .inf y => if m = 0 then .created else .inf (x != y)
  | .num x m e, .num y n g => .num (x != y) (m * n) (e + g)

/-- A finite value as an integer multiple of 2^e, for an exponent at or below its own. -/
def scaledInt (neg : Bool) (m : Nat) (e lo : Int) : Int :=
  let v : Nat := m * 2 ^ (e - lo).toNat
  if neg then -(v : Int) else v

/-- The exact sum of two values; an exact zero takes the sign of R133. -/
def addVal (rm : Rm) (a b : FVal) : FVal :=
  match a, b with
  | .nan n f w, _ => .nan n f w
  | _, .nan n f w => .nan n f w
  | .inf x, .inf y => if x = y then .inf x else .created
  | .inf x, .num _ _ _ => .inf x
  | .num _ _ _, .inf y => .inf y
  | .num x m e, .num y n g =>
    let lo := min e g
    let s := scaledInt x m e lo + scaledInt y n g lo
    if s = 0 then .num (if x = y then x else rm == .rdn) 0 lo
    else .num (decide (s < 0)) s.natAbs lo

/-- A value delivered to a format: rounded, or the infinity of its sign, or the canonical NaN (R132, R137). -/
def deliver (f : Fmt) (md : Mode) (x : FVal) : Nat :=
  match x with
  | .nan _ _ _ => f.nanCode
  | .inf n => f.infCode n
  | .num n m e => roundFmt f md.rm md.ftz false n m e

/-- A result with the NaN rule of R138 over its operands. -/
def result (f : Fmt) (md : Mode) (ops : List FVal) (x : FVal) : Nat :=
  if ops.any FVal.isNan then nanResult f md.nanp ops else deliver f md x

/-! ### Arithmetic of one element (R299 to R302) -/

/-- An operand's code read under DAZ (R137). -/
def readF (f : Fmt) (md : Mode) (c : Nat) : FVal := dazVal f md.daz (f.decode c)

def faddE (f : Fmt) (md : Mode) (a b : Nat) : Nat :=
  let x := readF f md a; let y := readF f md b
  result f md [x, y] (addVal md.rm x y)

def fsubE (f : Fmt) (md : Mode) (a b : Nat) : Nat :=
  let x := readF f md a; let y := readF f md b
  result f md [x, y] (addVal md.rm x y.neg)

def fmulE (f : Fmt) (md : Mode) (a b : Nat) : Nat :=
  let x := readF f md a; let y := readF f md b
  result f md [x, y] (mulVal x y)

/-- a < b for numbers, false where either is a NaN; zeros of either sign are equal (R139, R308). -/
def ltVal (a b : FVal) : Bool :=
  match a, b with
  | .nan _ _ _, _ => false
  | _, .nan _ _ _ => false
  | .inf x, .inf y => x && !y
  | .inf x, .num _ _ _ => x
  | .num _ _ _, .inf y => !y
  | .num x m e, .num y n g => let lo := min e g; decide (scaledInt x m e lo < scaledInt y n g lo)

def eqVal (a b : FVal) : Bool :=
  match a, b with
  | .nan _ _ _, _ => false
  | _, .nan _ _ _ => false
  | .inf x, .inf y => x == y
  | .inf _, .num _ _ _ => false
  | .num _ _ _, .inf _ => false
  | .num x m e, .num y n g => let lo := min e g; decide (scaledInt x m e lo = scaledInt y n g lo)

/-- The sign of a value that is not a NaN. -/
def FVal.isNeg : FVal → Bool
  | .nan n _ _ => n
  | .inf n => n
  | .num n _ _ => n

/-- The code returned for an operand of fmin or fmax: unrounded, under DAZ, a NaN quieted as R139 states. -/
def returned (f : Fmt) (md : Mode) (c : Nat) : Nat :=
  match readF f md c with
  | .nan n fr w => if md.nanp then f.nanFrom n fr w else if fr / 2 ^ (f.fb - 1) % 2 = 1 then c else f.nanCode
  | .inf _ => c
  | .num n m _ => if m = 0 then signBit f n else c

/-- fmin, and fmax with the comparison turned round (R139, R300). (DEDUCED: log 57) -/
def fminmaxE (isMax : Bool) (f : Fmt) (md : Mode) (a b : Nat) : Nat :=
  let x := readF f md a; let y := readF f md b
  let before := if isMax then ltVal y x else ltVal x y
  if md.minx then (if before then returned f md a else returned f md b)
  else if x.isNan && y.isNan then nanResult f md.nanp [x, y]
  else if x.isNan then returned f md b
  else if y.isNan then returned f md a
  else if eqVal x y && x.isZero then
    -- -0 orders below +0
    (if isMax then (if x.isNeg then returned f md b else returned f md a)
     else if x.isNeg then returned f md a else returned f md b)
  else if before then returned f md a else returned f md b

def fminE := fminmaxE false
def fmaxE := fminmaxE true

/-- A rounded code read again as an operand of the next rounding (R140). -/
def reread (f : Fmt) (md : Mode) (c : Nat) : FVal := readF f md c

/-- The fused forms: (negate the product, negate c) applied to a x b + c (R301, R140). (DEDUCED: log 57) -/
def ffmaE (np nc : Bool) (f : Fmt) (md : Mode) (a b c : Nat) : Nat :=
  let x := readF f md a; let y := readF f md b; let z := readF f md c
  let z' := if nc then z.neg else z
  if md.fmal then
    let p := reread f md (result f md [x, y] (mulVal x y))
    result f md [p, z] (addVal md.rm (if np then p.neg else p) z')
  else
    let p := mulVal x y
    result f md [x, y, z] (addVal md.rm (if np then p.neg else p) z')

/-- The widening form: a0 x b0 + a1 x b1 + c into F32 (R302). `src` is F16 or BF16. (DEDUCED: log 57) -/
def ffmawE (src : Fmt) (md : Mode) (a b c : Nat) : Nat :=
  let a0 := readF src md (a % 65536); let a1 := readF src md (a / 65536 % 65536)
  let b0 := readF src md (b % 65536); let b1 := readF src md (b / 65536 % 65536)
  let z := readF .f32 md c
  if md.fmal then
    let p0 := reread .f32 md (result .f32 md [a0, b0] (mulVal a0 b0))
    let p1 := reread .f32 md (result .f32 md [a1, b1] (mulVal a1 b1))
    let x := Fmt.f32.decode (deliver .f32 md (addVal md.rm p0 z))
    result .f32 md [p0, p1, z] (addVal md.rm p1 x)
  else
    result .f32 md [a0, b0, a1, b1, z] (addVal md.rm (addVal md.rm (mulVal a0 b0) (mulVal a1 b1)) z)

/-- fclass: the bit of an element's class (R304). -/
def fclassE (f : Fmt) (md : Mode) (c : Nat) : Nat :=
  match readF f md c with
  | .inf n => if n then 1 else 0x80
  | .nan _ fr _ => if fr / 2 ^ (f.fb - 1) % 2 = 1 then 0x200 else 0x100
  | .num n m _ =>
    if m = 0 then (if n then 8 else 16)
    else if m < 2 ^ f.fb then (if n then 4 else 32)
    else (if n then 2 else 64)

/-! ### Comparison (R308) -/

def fcmp (c : CmpCond) (a b : FVal) : Bool :=
  match c with
  | .eq => eqVal a b
  | .ne => !eqVal a b
  | .lt => ltVal a b
  | .le => ltVal a b || eqVal a b
  | .gt => ltVal b a
  | .ge => ltVal b a || eqVal a b
  | .uno => a.isNan || b.isNan
  | .ord => !(a.isNan || b.isNan)

/-! ### Exact sums of lists (R150, R151) -/

/-- The exact sum of a list rounded once to F32 by the agreed mode; a NaN is canonical (R144, R151). (DEDUCED: log 84) -/
def xsum (rm : Rm) (xs : List FVal) : FVal :=
  match xs with
  | [] => .num false 0 0
  | x :: r => r.foldl (addVal rm) x

/-! ### The configurable minifloat (R126 to R131, R142) -/

/-- A format descriptor's fields (R126). -/
structure Desc where
  pol  : Nat
  bias : Int
  mb   : Nat
  eb   : Nat
  sgn  : Bool
  ew   : Nat
  fmt  : Nat
  deriving DecidableEq, Repr

def descOf (d : Nat) : Desc :=
  ⟨fld d 25 24, sval 8 (fld d 23 16), fld d 15 13, fld d 12 10, fld d 9 9 == 1, fld d 8 4, fld d 3 0⟩

/-- The element width w of a descriptor (R126). -/
def Desc.w (d : Desc) : Nat := d.ew + 1

/-- The width a fixed format has (R127); 0 for MF, MFS and the reserved codes. -/
def fixedWidth (fmt : Nat) : Nat :=
  match fmt with
  | 0 => 32
  | 1 => 16
  | 2 => 16
  | 3 => 16
  | 4 => 8
  | 5 => 8
  | 6 => 4
  | 7 => 4
  | 8 => 1
  | 11 => 8
  | _ => 0

/-- A descriptor is legal (R127). -/
def descLegal (n : Nat) : Bool :=
  let d := descOf n
  let s := if d.sgn then 1 else 0
  if n ≥ 2 ^ 26 then false
  else if d.fmt = 9 ∨ d.fmt = 10 then
    decide ((if d.fmt = 9 then 2 else 4) ≤ d.w ∧ d.w ≤ 8 ∧ s + d.eb + d.mb = d.w ∧ 1 ≤ d.eb ∧ d.pol ≤ 2
      ∧ (d.pol = 0 → 2 ≤ d.eb ∧ 1 ≤ d.mb) ∧ (d.pol = 1 → 2 ≤ d.eb + d.mb))
  else d.fmt ≤ 11 && fixedWidth d.fmt == d.w && fld n 25 24 == 0 && fld n 23 9 == 0

/-- The value of a minifloat code (R128). -/
def decodeMF (d : Desc) (c : Nat) : FVal :=
  let neg := d.sgn && c / 2 ^ (d.mb + d.eb) % 2 == 1
  let e := c / 2 ^ d.mb % 2 ^ d.eb
  let m := c % 2 ^ d.mb
  let top := 2 ^ d.eb - 1
  if d.pol = 0 ∧ e = top then (if m = 0 then .inf neg else .created)
  else if d.pol = 1 ∧ e = top ∧ m = 2 ^ d.mb - 1 then .created
  else if e = 0 then .num neg m (1 - d.bias - d.mb)
  else .num neg (2 ^ d.mb + m) ((e : Int) - d.bias - d.mb)

/-- The code bits below the sign of the largest finite magnitude (R128). -/
def maxMF (d : Desc) : Nat :=
  let top := 2 ^ d.eb - 1
  let mtop := 2 ^ d.mb - 1
  if d.pol = 0 then (top - 1) * 2 ^ d.mb + mtop
  else if d.pol = 1 then (if 1 ≤ d.mb then top * 2 ^ d.mb + (mtop - 1) else (top - 1) * 2 ^ d.mb)
  else top * 2 ^ d.mb + mtop

/-- EncodeMF: the code of an F32 value read under DAZ (R142). -/
def encodeMF (d : Desc) (rm : Rm) (sat : Bool) (x : FVal) : Nat :=
  let top := 2 ^ d.eb - 1
  let sgn (n : Bool) : Nat := if d.sgn && n then 2 ^ (d.mb + d.eb) else 0
  match x with
  | .nan _ _ _ => if d.pol = 0 then top * 2 ^ d.mb + 2 ^ (d.mb - 1) else if d.pol = 1 then top * 2 ^ d.mb + (2 ^ d.mb - 1) else 0
  | .inf n =>
    if d.sgn = false ∧ n then 0
    else if d.pol = 0 ∧ sat = false then sgn n + top * 2 ^ d.mb
    else sgn n + maxMF d
  | .num n m e =>
    if d.sgn = false ∧ n then 0
    else if m = 0 then sgn n
    else
      let q0 := stepAt (d.mb + 1) (1 - d.bias - d.mb) m e
      let (r, q) := normSig (d.mb + 1) (roundGrid rm n m e q0) q0
      let code : Nat := if r < 2 ^ d.mb then r else (q + d.bias + d.mb).toNat * 2 ^ d.mb + (r - 2 ^ d.mb)
      if code ≤ maxMF d then sgn n + code
      else if d.pol = 0 ∧ sat = false ∧ overInf rm n then sgn n + top * 2 ^ d.mb
      else sgn n + maxMF d

/-! ### Conversions (R141) -/

/-- Where a conversion reads from and delivers to. -/
inductive NumTy where
  | int (signed : Bool) (bits : Nat)
  | flt (f : Fmt)
  deriving DecidableEq, Repr

/-- The number type of a type code; .b32, which no conversion admits, reads as 32 bits (R247). -/
def numTy : TyCode → NumTy
  | .s8 => .int true 8
  | .s16 => .int true 16
  | .s32 => .int true 32
  | .s64 => .int true 64
  | .n8 => .int false 8
  | .n16 => .int false 16
  | .n32 => .int false 32
  | .n64 => .int false 64
  | .f32 => .flt .f32
  | .f16 => .flt .f16
  | .bf16 => .flt .bf16
  | .b32 => .int false 32

/-- An exact integer clamped to an integer type (R141). -/
def clampInt (signed : Bool) (bits : Nat) (x : Int) : Int :=
  let lo : Int := if signed then -(2 ^ (bits - 1) : Nat) else 0
  let hi : Int := if signed then (2 ^ (bits - 1) : Nat) - 1 else (2 ^ bits : Nat) - 1
  max lo (min hi x)

/-- A finite value rounded to an integer by RM (R141). -/
def roundInt (rm : Rm) (neg : Bool) (m : Nat) (e : Int) : Int :=
  let n := roundGrid rm neg m e 0
  if neg then -(n : Int) else n

/-- A float value delivered to a float format: Round, FTZ, NaN, and SAT where the conversion narrows or changes
between F16 and BF16 (R141, R305). -/
def convF (f : Fmt) (md : Mode) (sat : Bool) (x : FVal) : Nat :=
  match x with
  | .nan _ _ _ => nanResult f md.nanp [x]
  | .inf n => if sat then f.maxCode n else f.infCode n
  | .num n m e => roundFmt f md.rm md.ftz sat n m e

/-- One conversion: the code of the destination from the low bits of the source (R141). (DEDUCED: log 57) -/
def convert (dst src : NumTy) (md : Mode) (v : Nat) : Nat :=
  match src, dst with
  | .int sg b, .int dg d =>
    let x : Int := if sg then sval b v else ((v % 2 ^ b : Nat) : Int)
    if md.sat && decide (d ≤ b) then cutInt d (clampInt dg d x) else cutInt d x
  | .int sg b, .flt f =>
    let x : Int := if sg then sval b v else ((v % 2 ^ b : Nat) : Int)
    roundFmt f md.rm md.ftz md.sat (decide (x < 0)) x.natAbs 0
  | .flt f, .int dg d =>
    match readF f md (v % 2 ^ f.width) with
    | .nan _ _ _ => 0
    | .inf n => cutInt d (clampInt dg d (if n then -(2 ^ 70 : Nat) else (2 ^ 70 : Nat)))
    | .num n m e => cutInt d (clampInt dg d (roundInt md.rm n m e))
  | .flt f, .flt g => convF g md (md.sat && decide (f ≠ g ∧ g.width < 32)) (readF f md (v % 2 ^ f.width))

/-- cvtmf.d: a minifloat code's F32 value (R141, R306). (DEDUCED: log 96) -/
def mfToF32 (d : Desc) (md : Mode) (c : Nat) : Nat :=
  match decodeMF d (c % 2 ^ d.w) with
  | .nan _ _ _ => Fmt.f32.nanCode
  | .inf n => if md.sat then Fmt.f32.maxCode n else Fmt.f32.infCode n
  | .num n m e => roundFmt .f32 md.rm md.ftz md.sat n m e

end Sys2Proof.Machine
end

