-- ==== Sys2Proof/Machine/Transc.lean ====
section
/-! DEFINITION. The unary operations of R303, correctly rounded. A quotient or root is an integer with a sticky bit.
The others are irrational at every input that is not one of R303's exact cases, so an enclosure that is narrow enough
decides the rounding: fixed-point series give a middle value whose error is far below 2^64 units in the last place
of a scale with 64 guard bits, both ends of the enclosure are rounded, and the precision rises until they agree. -/
namespace Sys2Proof.Machine

/-! ### Quotients and roots -/

/-- The integer square root, by bits from the top. -/
def isqrt (n : Nat) : Nat :=
  (List.range (bitLen n / 2 + 1)).foldr (fun i r => let r' := r + 2 ^ i; if r' * r' ≤ n then r' else r) 0

/-- q with a sticky bit below it: 2q, or 2q + 1 when something was cut off. -/
def sticky (q : Nat) (cut : Bool) : Nat := 2 * q + (if cut then 1 else 0)

/-- 1 / (m 2^e) as a sticky significand and an exponent. -/
def recip (m : Nat) (e : Int) : Nat × Int :=
  let k := bitLen m + 64
  (sticky (2 ^ k / m) (2 ^ k % m != 0), -e - k - 1)

/-- The square root of m 2^e. -/
def rootOf (m : Nat) (e : Int) : Nat × Int :=
  let (m, e) := if e % 2 = 0 then (m, e) else (2 * m, e - 1)
  let n := m * 2 ^ 128
  let s := isqrt n
  (sticky s (s * s != n), e / 2 - 64 - 1)

/-- 1 / the square root of m 2^e. -/
def recipRoot (m : Nat) (e : Int) : Nat × Int :=
  let (m, e) := if e % 2 = 0 then (m, e) else (2 * m, e - 1)
  let k := bitLen m + 64
  let s := isqrt (2 ^ (2 * k) / m)
  (sticky s (s * s * m != 2 ^ (2 * k)), -(e / 2) - k - 1)

/-! ### Fixed-point series: integers that stand for multiples of 2^-w -/

/-- The product of two fixed-point numbers. -/
def fxMul (w : Nat) (a b : Int) : Int := a * b / ((2 ^ w : Nat) : Int)

/-- The sum of term, term t / k, term t^2 / (k (k+1)), … : an exponential's terms. -/
def expSum (w : Nat) (t : Int) : Nat → Nat → Int → Int → Int
  | 0, _, _, acc => acc
  | n + 1, k, term, acc => expSum w t n (k + 1) (fxMul w term t / (k : Int)) (acc + term)

/-- e^t for |t| ≤ 1. -/
def fxExp (w : Nat) (t : Int) : Int := expSum w t (w / 4 + 16) 1 ((2 ^ w : Nat) : Int) 0

/-- The sum of power / k, power z² / (k + 2), … with alternating or constant sign. -/
def oddSum (w : Nat) (z2 : Int) (alt : Bool) : Nat → Nat → Int → Int → Int
  | 0, _, _, acc => acc
  | n + 1, k, power, acc =>
    let next := fxMul w power z2
    oddSum w z2 alt n (k + 2) (if alt then -next else next) (acc + power / (k : Int))

/-- atanh z for 0 ≤ z ≤ 1/3. -/
def fxAtanh (w : Nat) (z : Int) : Int := oddSum w (fxMul w z z) false (w / 3 + 16) 1 z 0

/-- atan (1/n). -/
def fxAtanInv (w n : Nat) : Int :=
  let z : Int := ((2 ^ w / n : Nat) : Int)
  oddSum w (((2 ^ w / (n * n) : Nat) : Int)) true (w / 4 + 16) 1 z 0

/-- The natural logarithm of 2: 2 atanh (1/3). -/
def fxLn2 (w : Nat) : Int := 2 * fxAtanh w ((2 ^ w / 3 : Nat) : Int)

/-- π, by Machin's formula. -/
def fxPi (w : Nat) : Int := 16 * fxAtanInv w 5 - 4 * fxAtanInv w 239

/-- The sum of a sine's or cosine's terms. -/
def trigSum (w : Nat) (t2 : Int) : Nat → Nat → Int → Int → Int
  | 0, _, _, acc => acc
  | n + 1, k, term, acc => trigSum w t2 n (k + 2) (-(fxMul w term t2) / ((k * (k + 1) : Nat) : Int)) (acc + term)

def fxSin (w : Nat) (t : Int) : Int := trigSum w (fxMul w t t) (w / 8 + 16) 2 t 0
def fxCos (w : Nat) (t : Int) : Int := trigSum w (fxMul w t t) (w / 8 + 16) 1 ((2 ^ w : Nat) : Int) 0

/-- A fixed-point number squared n times over. -/
def fxSquare (w : Nat) : Nat → Int → Int
  | 0, x => x
  | n + 1, x => fxSquare w n (fxMul w x x)

/-- m 2^e as a fixed-point number, rounded down. -/
def fxOf (w m : Nat) (e : Int) : Nat := if -(w : Int) ≤ e then m * 2 ^ (e + w).toNat else m / 2 ^ (-(w : Int) - e).toNat

/-- Round the enclosure mid ± 2^64 at scale w, times 2^s; none while its ends round apart. -/
def roundBall (f : Fmt) (md : Mode) (neg : Bool) (w : Nat) (s : Int) (mid : Int) : Option Nat :=
  let lo := mid - (2 ^ 64 : Nat)
  let hi := mid + (2 ^ 64 : Nat)
  if lo ≤ 0 then none
  else
    let a := roundFmt f md.rm md.ftz false neg lo.toNat (s - w)
    let b := roundFmt f md.rm md.ftz false neg hi.toNat (s - w)
    if a = b then some a else none

/-- The first scale whose enclosure decides the rounding; the last scale's middle value after that (R303). (DEDUCED: log 58) -/
def decideRound (f : Fmt) (md : Mode) (neg : Bool) (s : Int) (g : Nat → Int) : List Nat → Nat
  | [] => roundFmt f md.rm md.ftz false neg (g 4096).toNat (s - 4096)
  | w :: ws => match roundBall f md neg w s (g w) with
    | some c => c
    | none => decideRound f md neg s g ws

/-- The scales tried: each has 64 guard bits. -/
def scales : List Nat := [384, 704, 1344, 2624]

/-! ### The functions at inputs that are not special -/

/-- floor (m 2^e) of a nonnegative value, and whether it is an integer. -/
def floorOf (m : Nat) (e : Int) : Nat × Bool :=
  if 0 ≤ e then (m * 2 ^ e.toNat, true) else (m / 2 ^ (-e).toNat, m % 2 ^ (-e).toNat == 0)

/-- The fractional part of m 2^e for e < 0, as k / 2^-e. -/
def fracNum (m : Nat) (e : Int) : Nat := if 0 ≤ e then 0 else m % 2 ^ (-e).toNat

/-- 2^x (R303). (DEDUCED: log 58) -/
def ex2E (f : Fmt) (md : Mode) (neg : Bool) (m : Nat) (e : Int) : Nat :=
  let (fl, isInt) := floorOf m e
  if 2048 ≤ fl then roundFmt f md.rm md.ftz false false 1 (if neg then -4096 else 4096)
  else if isInt then roundFmt f md.rm md.ftz false false 1 (if neg then -(fl : Int) else fl)
  else
    let d : Nat := 2 ^ (-e).toNat
    let fr := if neg then d - fracNum m e else fracNum m e
    let n : Int := if neg then -(fl : Int) - 1 else fl
    decideRound f md false n (fun w => fxExp w (fxLn2 w * (fr : Int) / (d : Int))) scales

/-- log₂ x for a positive x that is no power of two (R303). (DEDUCED: log 58) -/
def lg2E (f : Fmt) (md : Mode) (m : Nat) (e : Int) : Nat :=
  let l := bitLen m - 1
  let n : Int := e + l
  if m = 2 ^ l then roundFmt f md.rm md.ftz false (decide (n < 0)) n.natAbs 0
  else
    let den := m + 2 ^ l
    let num := m - 2 ^ l
    let g := fun (w : Nat) =>
      let z : Int := ((num * 2 ^ w / den : Nat) : Int)
      n * (2 ^ w : Nat) + 2 * fxAtanh w z * (2 ^ w : Nat) / fxLn2 w
    decideRound f md (decide (n < 0)) 0 (fun w => if n < 0 then -(g w) else g w) scales

/-- sin (π r) for 0 < r < 1/2, r = a / b, at scale w. -/
def sinPiFx (a b w : Nat) : Int :=
  if 4 * a ≤ b then fxSin w (fxPi w * (a : Int) / (b : Int))
  else fxCos w (fxPi w * ((b - 2 * a : Nat) : Int) / ((2 * b : Nat) : Int))

/-- sin (π a / b) with 0 < a < 2 b: the sign, and either exactly 0 or 1, or the reduced fraction below one half. -/
def sinPiReduce (a b : Nat) : Bool × Option (Nat × Nat) × Nat :=
  let neg := decide (b < a)
  let r := if b < a then a - b else a
  let r := if b < 2 * r then b - r else r
  if r = 0 then (neg, none, 0) else if 2 * r = b then (neg, none, 1) else (neg, some (r, b), 0)

/-- sin (π x) for a nonzero x, and cos (π x) = sin (π (x + 1/2)) through `half` (R303). (DEDUCED: log 58) -/
def sinPiE (f : Fmt) (md : Mode) (half neg : Bool) (m : Nat) (e : Int) : Nat :=
  if 0 ≤ e ∧ !half then signBit f neg
  else
    let b : Nat := if 0 ≤ e then 2 else 2 * 2 ^ (-e).toNat
    let x : Nat := if 0 ≤ e then 2 * (m * 2 ^ e.toNat) else 2 * m
    let a := (if half then x + b / 2 else x) % (2 * b)
    let (n, red, one) := sinPiReduce a b
    let s := if half then n else n != neg
    match red with
    | some (r, d) => decideRound f md s 0 (sinPiFx r d) scales
    | none =>
      if one = 1 then roundFmt f md.rm md.ftz false s 1 0
      else if half then signBit f false else signBit f neg

/-- tanh x for a nonzero x (R303). (DEDUCED: log 58) -/
def tanhE (f : Fmt) (md : Mode) (neg : Bool) (m : Nat) (e : Int) : Nat :=
  if 128 ≤ (floorOf m e).1 then roundFmt f md.rm md.ftz false neg (2 ^ 320 - 1) (-320)
  else
    decideRound f md neg 0 (fun w =>
      -- u = e^(-2x) = (e^(-2x / 512))^512
      let u := fxSquare w 9 (fxExp w (-((fxOf (w + 64) m (e + 1 - 9) : Nat) : Int) / ((2 ^ 64 : Nat) : Int)))
      let one : Int := ((2 ^ w : Nat) : Int)
      (one - u) * one / (one + u)) scales

/-- x - floor x (R303). -/
def fracE (f : Fmt) (md : Mode) (neg : Bool) (m : Nat) (e : Int) : Nat :=
  let r := fracNum m e
  if r = 0 then signBit f false
  else roundFmt f md.rm md.ftz false false (if neg then 2 ^ (-e).toNat - r else r) e

/-- The unary operations of R303. -/
inductive Unary where
  | rcp | rsqrt | sqrt | ex2 | lg2 | sinp | cosp | tanh | frac
  deriving DecidableEq, Repr

/-- One element of a unary operation, special inputs first (R303). -/
def unaryE (u : Unary) (f : Fmt) (md : Mode) (c : Nat) : Nat :=
  let x := readF f md c
  let put (p : Nat × Int) (neg : Bool) : Nat := roundFmt f md.rm md.ftz false neg p.1 p.2
  match x with
  | .nan _ _ _ => nanResult f md.nanp [x]
  | .inf n =>
    match u with
    | .rcp => signBit f n
    | .sqrt => if n then f.nanCode else f.infCode false
    | .rsqrt => if n then f.nanCode else signBit f false
    | .ex2 => if n then signBit f false else f.infCode false
    | .lg2 => if n then f.nanCode else f.infCode false
    | .sinp | .cosp | .frac => f.nanCode
    | .tanh => roundFmt f md.rm md.ftz false n 1 0
  | .num n m e =>
    if m = 0 then
      match u with
      | .rcp => f.infCode n
      | .sqrt => signBit f n
      | .rsqrt => f.infCode n
      | .ex2 | .cosp => roundFmt f md.rm md.ftz false false 1 0
      | .lg2 => f.infCode true
      | .sinp | .tanh => signBit f n
      | .frac => signBit f false
    else
      match u with
      | .rcp => put (recip m e) n
      | .sqrt => if n then f.nanCode else put (rootOf m e) false
      | .rsqrt => if n then f.nanCode else put (recipRoot m e) false
      | .ex2 => ex2E f md n m e
      | .lg2 => if n then f.nanCode else lg2E f md m e
      | .sinp => sinPiE f md false n m e
      | .cosp => sinPiE f md true n m e
      | .tanh => tanhE f md n m e
      | .frac => fracE f md n m e

end Sys2Proof.Machine
end

