-- ==== Sys2Proof/Machine/Windows.lean ====
section
/-! DEFINITION. Computed windows (R163 to R177): recipe state as an image of 2,048 bytes, the check of an image (R166),
the window descriptor, and the bytes a window reads as. -/
namespace Sys2Proof.Machine

/-- The 64-bit word at a byte of a recipe image. -/
def imgWord (img : List Byte) (at_ : Nat) : Nat := leNat ((img.drop at_).take 8)

/-- Word w of slot n (R164). -/
def slotWord (img : List Byte) (n w : Nat) : Nat := imgWord img (64 * n + 8 * w)

/-- Entry q of frequency table n (R163, R166). -/
def freqEntry (img : List Byte) (n q : Nat) : Nat := leNat ((img.drop (1024 + 256 * n + 4 * q)).take 4)

/-- The parameter bits that a recipe defines in words 1, 2 and 3, and its greatest OUTF (R165). -/
def recipeShape (recipe : Nat) : Option (Nat × Nat × Nat × Nat) :=
  match recipe with
  | 0 => some (0, 0, 0, 0)
  | 1 => some (1, 2 ^ 32 - 1, 2 ^ 32 - 1, 2 ^ 32 - 1)
  | 2 => some (2, 2 ^ 32 - 1, 0, 0)
  | 3 => some (2, 2 ^ 34 - 1, 0, 0)
  | 4 => some (0, 2 ^ 64 - 1, 2 ^ 64 - 1, 2 ^ 64 - 1)
  | _ => none

/-- A slot holds no reserved value (R164, R165). -/
def slotLegal (img : List Byte) (n : Nat) : Bool :=
  let h := slotWord img n 0
  match recipeShape (fld h 3 0) with
  | none => false
  | some (outf, w1, w2, w3) =>
    decide (h < 256 ∧ fld h 7 5 ≤ outf ∧ slotWord img n 1 ≤ w1 ∧ slotWord img n 2 ≤ w2 ∧ slotWord img n 3 ≤ w3)
      && [4, 5, 6, 7].all fun w => slotWord img n w == 0

/-- A recipe image that RECIPESET takes (R166). -/
def imageLegal (img : List Byte) : Bool := img.length == 2048 && (List.range 16).all (slotLegal img)

/-! ### The four recipes -/

/-- An F32 value times an integer, exact: 0 × ∞ is the created NaN (R170). -/
def scaleBy (n : Nat) (x : FVal) : FVal := mulVal (.num false n 0) x

/-- RAMP (R170). -/
def rampV (img : List Byte) (n outf i j : Nat) : Nat :=
  let base := slotWord img n 1; let si := slotWord img n 2; let sj := slotWord img n 3
  if outf = 0 then cutInt 32 (sval 32 base + (i : Int) * sval 32 si + (j : Int) * sval 32 sj)
  else
    let rd := Fmt.f32.decode
    deliver .f32 (modeOf 0) (addVal .rne (addVal .rne (rd base) (scaleBy i (rd si))) (scaleBy j (rd sj)))

/-- CAUSAL (R171). -/
def causalV (img : List Byte) (n outf i j : Nat) : Nat :=
  let k := decide ((j : Int) ≤ (i : Int) + sval 32 (slotWord img n 1))
  if outf = 2 then (if k then 1 else 0)
  else if k then 0 else if outf = 0 then 0xFF800000 else 0xFF80

/-- Entry m of the table C for 0 ≤ m ≤ 256: cos (2π m / 1024) × 2^30 to the nearest integer, from fixed-point series
with 128 bits (R172). -/
def cosQuarter (m : Nat) : Int :=
  let x := if m ≤ 128 then fxCos 128 (fxPi 128 * (m : Int) / 512) else fxSin 128 (fxPi 128 * ((256 - m : Nat) : Int) / 512)
  (x + (2 ^ 97 : Nat)) / ((2 ^ 98 : Nat) : Int)

/-- Entry n of C, by the symmetries of the cosine (R172). -/
def cosEntry (n : Nat) : Int :=
  let m : Nat := n % 1024
  let m : Nat := if 512 < m then 1024 - m else m
  if 256 < m then -(cosQuarter (512 - m)) else cosQuarter m

/-- ROTARY (R172). -/
def rotaryV (img : List Byte) (n outf i j : Nat) : Nat :=
  let w1 := slotWord img n 1
  let pos := (fld w1 31 0 + i) % 2 ^ 32
  let q := if outf = 2 then j / 2 % 64 else j % 64
  let t := pos * freqEntry img (fld w1 33 32) q % 2 ^ 32
  let sine := outf == 1 || (outf == 2 && j % 2 == 1)
  let t := if sine then (t + (2 ^ 32 - 0x40000000)) % 2 ^ 32 else t
  let k : Nat := t / 2 ^ 22
  let d : Nat := t % 2 ^ 22
  let v := cosEntry k * (2 ^ 22 : Nat) + (cosEntry (k + 1) - cosEntry k) * (d : Int)
  roundFmt .f32 .rne false false (decide (v < 0)) v.natAbs (-52)

/-- One round of HASH (R173). -/
def hashRound (h mul : Nat) : Nat :=
  let h := h ^^^ (h / 2 ^ 32)
  let h := h * mul % 2 ^ 64
  h ^^^ (h / 2 ^ 29)

/-- HASH (R173). -/
def hashV (img : List Byte) (n i j : Nat) : Nat :=
  let x := (i * slotWord img n 2 + j + slotWord img n 3) % 2 ^ 64
  let h := [0xA24B3C175E9D6F45, 0xD1E70C934B28A6F1, 0x8F3A65D1C27E0B99, 0xC6B51F0893DA4E27].foldl hashRound (x ^^^ slotWord img n 1)
  h / 2 ^ 32

/-- V(I, J) of slot n (R168, R170 to R173). -/
def recipeV (img : List Byte) (n i j : Nat) : Nat :=
  let h := slotWord img n 0
  match fld h 3 0 with
  | 1 => rampV img n (fld h 7 5) i j
  | 2 => causalV img n (fld h 7 5) i j
  | 3 => rotaryV img n (fld h 7 5) i j
  | 4 => hashV img n i j
  | _ => 0

/-! ### The window descriptor (R167, R168) -/

def wdSlot (d : Nat) : Nat := fld d 3 0

/-- Element n of a window, w bits wide. -/
def windowElement (img : List Byte) (d n : Nat) : Nat :=
  let cols := fld d 39 16 + 1
  recipeV img (wdSlot d) (fld d 95 64 + n / cols) (fld d 127 96 + n % cols)

/-- Byte o of a window (R168). -/
def windowByte (img : List Byte) (d o : Nat) : Byte :=
  match fld d 5 4 with
  | 0 => BitVec.ofNat 8 ((List.range 8).foldl (fun a b => a + windowElement img d (8 * o + b) % 2 * 2 ^ b) 0)
  | 1 => BitVec.ofNat 8 (windowElement img d o)
  | 2 => BitVec.ofNat 8 (windowElement img d (o / 2) / 2 ^ (8 * (o % 2)))
  | _ => BitVec.ofNat 8 (windowElement img d (o / 4) / 2 ^ (8 * (o % 4)))

/-- n bytes of a window from byte o on. -/
def windowBytes (img : List Byte) (d o n : Nat) : List Byte := (List.range n).map fun i => windowByte img d (o + i)

/-- Whether writes to windows of the descriptor's slot are dropped (R164, R175). -/
def windowDiscards (img : List Byte) (d : Nat) : Bool := fld (slotWord img (wdSlot d) 0) 4 4 == 1

end Sys2Proof.Machine
end

