-- ==== Sys2Proof/Machine/Objects.lean ====
section
/-! DEFINITION. Capabilities and objects: the fields and checks of a capability (R179 to R182), object table entries
and page maps (R187, R188), the tests of a memory port (R189), the copies of entries that ports keep (R190), and where
the bytes of an object are. -/
namespace Sys2Proof.Machine

/-! ### Capabilities (R179, R180) -/

def Cap.handle (c : Cap) : Nat := fld c.bits.toNat 127 96
def Cap.rights (c : Cap) : Nat := fld c.bits.toNat 95 88
def Cap.kind (c : Cap) : Nat := fld c.bits.toNat 87 84
def Cap.low (c : Cap) : Nat := fld c.bits.toNat 79 40
def Cap.len (c : Cap) : Nat := fld c.bits.toNat 39 0

/-- A capability from its fields, tagged; LOW keeps its 40 bits. (DESIGN CHOICE: log 112) -/
def mkCap (handle rights kind low len : Nat) : Cap :=
  ⟨BitVec.ofNat 128 (handle * 2 ^ 96 + rights * 2 ^ 88 + kind * 2 ^ 84 + low % 2 ^ 40 * 2 ^ 40 + len), true⟩

/-- Well-formed (R180). -/
def Cap.wellFormed (c : Cap) : Bool :=
  c.tag && decide (1 ≤ c.kind ∧ c.kind ≤ 6 ∧ c.rights < 128 ∧ fld c.bits.toNat 83 80 = 0 ∧ c.low + c.len ≤ 2 ^ 40)

/-- The rights as bits of RIGHTS (R179). -/
def rR : Nat := 1
def rW : Nat := 2
def rA : Nat := 4
def rCR : Nat := 8
def rCW : Nat := 16
def rX : Nat := 32
def rG : Nat := 64

/-- A rights mask holds every right named. -/
def holds (mask need : Nat) : Bool := mask &&& need == need

/-- CapCheck on an offset formed exactly (R8, R182, R318): the trap code of the first failed check. -/
def capCheck (c : Cap) (off : Int) (size need : Nat) : Option Nat :=
  if off < 0 ∨ (c.len : Int) < off + size then some 8
  else if !holds c.rights need then some 9
  else if !c.wellFormed then some 10
  else none

/-- The alignment check of R318: the window offset or the object offset is not a multiple of the size. -/
def misaligned (c : Cap) (off : Int) (size : Nat) : Bool :=
  off % (size : Int) != 0 || ((c.low : Int) + off) % (size : Int) != 0

/-- The issue checks in the order of R182: ALIGN, then CapCheck. -/
def issueCheck (c : Cap) (off : Int) (size need : Nat) : Option Nat :=
  if misaligned c off size then some 3 else capCheck c off size need

/-! ### Entries (R187, R188) -/

/-- An object table entry: its four words. -/
structure Entry where
  w0 : Nat
  w1 : Nat
  w2 : Nat
  w3 : Nat
  deriving DecidableEq, Repr

def Entry.kind (e : Entry) : Nat := fld e.w0 63 60
def Entry.ceil (e : Entry) : Nat := fld e.w0 59 52
def Entry.shared (e : Entry) : Bool := fld e.w0 43 43 == 1
def Entry.racechk (e : Entry) : Bool := fld e.w0 42 42 == 1
def Entry.valid (e : Entry) : Bool := fld e.w0 40 40 == 1
def Entry.olen (e : Entry) : Nat := fld e.w0 39 0 + 1
/-- The window descriptor (R188). -/
def Entry.desc (e : Entry) : Nat := e.w3 * 2 ^ 64 + e.w2

/-- An entry of a context's table in memory; none at or beyond OTN. -/
def entryAt (m : List Host.Cell) (c : Context) (h : Nat) : Option Entry :=
  if h < c.otn then
    let a := c.table + 32 * h
    some ⟨mnat m a 8, mnat m (a + 8) 8, mnat m (a + 16) 8, mnat m (a + 24) 8⟩
  else none

/-- The reserved fields of an entry are zero and its kind is assigned (R187, R188). -/
def Entry.clean (e : Entry) : Bool :=
  fld e.w0 51 44 == 0 && fld e.w0 41 41 == 0 && decide (e.ceil < 128) &&
  match e.kind with
  | 1 | 6 => e.w1 / 2 ^ 48 == 0 && e.w1 % 64 == 0 && e.w2 == 0 && e.w3 == 0
  | 2 => e.w1 / 2 ^ 31 == 0 && e.w1 % 64 == 0 && e.w2 == 0 && e.w3 == 0 && decide (e.w1 + e.olen ≤ sramSize)
  | 3 => e.w1 == 0 && fld e.w2 63 40 == 0 && fld e.w2 15 6 == 0
  | 4 => e.w2 == 0 && e.w3 == 0
  | 5 => fld e.w1 31 8 == 0 && e.w2 / 2 ^ 40 == 0 && e.w3 == 0
  | _ => false

/-- The page map entry's address for an object offset (R188). -/
def Entry.pmeAt (e : Entry) (o : Nat) : Nat := e.w1 + 8 * (o / 65536)

/-- The fields of a page map entry (R188). -/
def pmeRes (p : Nat) : Nat := fld p 63 62
def pmeDeny (p : Nat) : Nat := fld p 55 48
def pmeFrame (p : Nat) : Nat := fld p 47 16
/-- Residency 3 or a nonzero reserved bit, bit 55 included (R189). -/
def pmeBad (p : Nat) : Bool := pmeRes p == 3 || fld p 61 55 != 0 || fld p 15 0 != 0

/-- Kinds whose bytes are found through a page map. -/
def pagedKind (k : Nat) : Bool := k == 1 || k == 6

/-- Tests 1 to 6 of R189 that an entry fails. -/
def entryFails (e : Option Entry) (kind need off size : Nat) : List Nat :=
  match e with
  | none => [1]
  | some e =>
    (if e.valid then [] else [1]) ++ (if e.clean then [] else [2]) ++ (if e.kind = kind then [] else [3])
      ++ (if holds e.ceil need then [] else [4])
      ++ (if (e.kind = 4 ∨ e.kind = 5) ∧ holds e.ceil rA then [5] else [])
      ++ (if off + size ≤ e.olen then [] else [6])

/-- Tests 7 and 8, on the page of the first byte. -/
def pageFails (m : List Host.Cell) (e : Entry) (need off : Nat) : List Nat :=
  if pagedKind e.kind then
    let p := mnat m (e.pmeAt off) 8
    (if pmeBad p then [7] else []) ++ (if pmeDeny p &&& need = 0 then [] else [8])
  else []

/-- Every failed test of R189, in its order. Where the length test alone fails, the page of the first byte is judged too, if
the object has it. -/
def portFails (m : List Host.Cell) (e : Option Entry) (kind need off size : Nat) : List Nat :=
  match entryFails e kind need off size, e with
  | [], some e => pageFails m e need off
  | [6], some e => 6 :: (if off / 65536 ≤ (e.olen - 1) / 65536 then pageFails m e need off else [])
  | l, _ => l

/-- The trap code of a denial: CAPBOUND when only the length test fails (R189). -/
def denialCode (fails : List Nat) : Nat := if fails = [6] then 8 else 9

/-- Where the bytes of an access are. -/
inductive Place where
  | denied (fails : List Nat)
  /-- the page is not in the fast tier; the address of its page map entry (R215) -/
  | elsewhere (pme : Nat)
  | window (desc : Nat)
  | at_ (flat : Nat)
  | noFrame (frame : Nat)
  deriving DecidableEq, Repr

/-- The place of byte `off` of an object that an entry allows (R188). (DESIGN CHOICE: log 22) -/
def placeOf (m : List Host.Cell) (e : Entry) (off : Nat) : Place :=
  match e.kind with
  | 2 => .at_ (sramBase + e.w1 + off)
  | 3 => .window e.desc
  | 4 => .at_ (hostBase + e.w1 + off)
  | 5 => .at_ (peerFlat (fld e.w1 7 0) (fld e.w1 63 32) (e.w2 + off))
  | _ =>
    let p := mnat m (e.pmeAt off) 8
    if pmeRes p = 0 then
      (if pmeFrame p < fastFrames then .at_ (pmeFrame p * 65536 + off % 65536) else .noFrame (pmeFrame p))
    else .elsewhere (e.pmeAt off)

/-- One access judged against an entry (R189). -/
def judge (m : List Host.Cell) (e : Option Entry) (kind need off size : Nat) : Place :=
  match portFails m e kind need off size, e with
  | [], some e => placeOf m e off
  | l, _ => .denied l

/-- The entry words as a port's copy holds them. -/
def Entry.words (e : Entry) : List DWord := [dw e.w0, dw e.w1, dw e.w2, dw e.w3]
def entryOfWords (ws : List DWord) : Option Entry :=
  match ws with
  | [a, b, c, d] => some ⟨a.toNat, b.toNat, c.toNat, d.toNat⟩
  | _ => none

/-- The port that serves a core's accesses: its die's, as the holder of entry copies (R190). (DEDUCED: log 60) -/
def portOf (core : Nat) : Nat := dieOf core

/-- A port's copy of an entry, if it keeps one. -/
def State.copyOf (s : State) (port ctx h : Nat) : Option Entry :=
  match s.otCache.find? fun c => c.port == port && c.ctx == ctx && c.handle == h with
  | none => none
  | some c => entryOfWords c.words

/-- A port keeps a fresh entry in place of an older copy. -/
def State.keepCopy (s : State) (port ctx h : Nat) (e : Entry) : State :=
  { s with otCache := ⟨port, ctx, h, e.words⟩ :: s.otCache.filter fun c => !(c.port == port && c.ctx == ctx && c.handle == h) }

/-- The entry a port judges an access by, and the state with the copy it keeps (R190): its copy, where it has one that
allows the access and serves it; else the entry read from the table, kept when it allows. (DESIGN CHOICE: log 13) -/
def State.portEntry (s : State) (port ctx h kind need off size : Nat) : State × Option Entry :=
  match s.ctx? ctx with
  | none => (s, none)
  | some c =>
    let fresh := entryAt s.mem c h
    match s.copyOf port ctx h with
    | some e =>
      if Config.useCopy (2 * s.tick) && (portFails s.mem (some e) kind need off size).isEmpty then (s, some e)
      else match portFails s.mem fresh kind need off size, fresh with
        | [], some f => (s.keepCopy port ctx h f, some f)
        | _, _ => (s, fresh)
    | none => match portFails s.mem fresh kind need off size, fresh with
      | [], some f => (s.keepCopy port ctx h f, some f)
      | _, _ => (s, fresh)

/-! ### The host link and the Rail (R438, R439) -/

/-- The ports of a peer's route set that are up. -/
def State.portsUp (s : State) (peer : Nat) : List Nat :=
  let mask := (tget s.routes peer).getD 0
  (List.range 12).filter fun p => mask.testBit p && !s.railDown.contains p

/-- The port that the traffic to a line of a peer takes; none when its route set names no port that is up. (DESIGN CHOICE: log 20) -/
def State.railPort (s : State) (flat : Nat) : Option Nat :=
  let x := flat - peerBase
  let ports := s.portsUp (x / 2 ^ 73)
  ports[Config.railHash (x % 2 ^ 41 / 64) % ports.length]?

/-- The host link answers an access with an error. (DESIGN CHOICE: log 14) -/
def State.hostFails (s : State) (flat : Nat) : Bool :=
  decide (hostBase ≤ flat ∧ flat < peerBase) && Config.hostError s.tick

/-- No port leads to the peer that a flat address belongs to. -/
def State.peerDown (s : State) (flat : Nat) : Bool := decide (peerBase ≤ flat) && (s.railPort flat).isNone

/-- The peer refuses an access, or no port leads to it. (DESIGN CHOICE: log 14) -/
def State.peerFails (s : State) (flat : Nat) : Bool :=
  s.peerDown flat || (decide (peerBase ≤ flat) && Config.peerRefuses s.tick)

/-! ### Banks (R440) -/

/-- The controller and bank of a flat address: an HBM5 stack's for device memory, one of 48 channels' for the capacity tier
(R440). (DESIGN CHOICE: log 16) -/
def bankAt (flat : Nat) : Option (Nat × Nat) :=
  if flat < capBase then some (flat / (96 * 2 ^ 30) % 8, Config.bankOf flat)
  else if flat < sramBase then some (8 + Config.channelOf flat % 48, Config.bankOf flat)
  else none

/-- The bank that holds an address, if it is under a refresh hold; whether one does, and for some of a range of bytes (R440). -/
def State.heldBank (s : State) (flat : Nat) : Option (Nat × Nat) := (bankAt flat).filter s.refresh.contains
def State.bankHeld (s : State) (flat : Nat) : Bool := (s.heldBank flat).isSome
def State.rangeHeld (s : State) (a n : Nat) : Bool := !s.refresh.isEmpty && (upTo a n).any s.bankHeld

/-- The first bank under a hold that a range of bytes meets. (DESIGN CHOICE: log 16) -/
def State.rangeBank (s : State) (a n : Nat) : Option (Nat × Nat) := if s.refresh.isEmpty then none else (upTo a n).findSome? s.heldBank

/-- A port serves an access by its copy of the entry (R190). -/
def State.copyServes (s : State) (port ctx h kind need off size : Nat) : Bool :=
  (s.copyOf port ctx h).any fun e => Config.useCopy (2 * s.tick) && (portFails s.mem (some e) kind need off size).isEmpty

/-- The bank under a hold that the judging of an access reads: that of its table entry, or of its page map entry (R440). (DESIGN CHOICE: log 16) -/
def State.tableBank (s : State) (port ctx h kind need off size : Nat) : Option (Nat × Nat) :=
  if s.refresh.isEmpty then none
  else match s.ctx? ctx with
  | none => none
  | some c =>
    let entry := if s.copyServes port ctx h kind need off size || decide (c.otn ≤ h) then none else s.rangeBank (c.table + 32 * h) 32
    entry <|> match (s.portEntry port ctx h kind need off size).2 with
      | none => none
      | some e => if pagedKind e.kind then s.rangeBank (e.pmeAt off) 8 else none

/-- The bank under a hold that an entry of a context's table is in (R440). -/
def State.entryBank (s : State) (ctx h : Nat) : Option (Nat × Nat) :=
  (s.ctx? ctx).bind fun c => if h < c.otn then s.rangeBank (c.table + 32 * h) 32 else none

/-- A range of addresses, cut where pages meet: first byte and length of each part. -/
def pageParts (a n : Nat) : List (Nat × Nat) :=
  if n = 0 then [] else (upTo (a / 65536) ((a + n - 1) / 65536 - a / 65536 + 1)).map fun p =>
    (max a (65536 * p), min (a + n) (65536 * (p + 1)) - max a (65536 * p))

/-- The bank under a hold that bytes of an object meet: in its table entry, their page map entries, or their places (R440). -/
def State.objectBank (s : State) (ctx h off n : Nat) : Option (Nat × Nat) :=
  if s.refresh.isEmpty then none
  else s.entryBank ctx h <|> match (s.ctx? ctx).bind fun c => entryAt s.mem c h with
    | none => none
    | some e => (pageParts off n).findSome? fun (o, k) =>
      (if pagedKind e.kind then s.rangeBank (e.pmeAt o) 8 else none) <|> match placeOf s.mem e o with
        | .at_ f => s.rangeBank f k
        | .denied _ | .elsewhere _ | .window _ | .noFrame _ => none

/-- What a thread or a command waits for that a refresh holds. -/
def bankRef : Nat := 2 ^ 65

/-- What a refresh holds stands behind what the bank holds already (R440). -/
def State.joinBank (s : State) (b : Nat × Nat) (w : Waiter) : State := { s with bankQueue := s.bankQueue ++ [(b.1, b.2, w)] }

/-- A waiter stands behind a refresh. -/
def State.inBank (s : State) (w : Waiter) : Bool := s.bankQueue.any fun x => x.2.2 == w

/-- A step of the device that a refresh holds stands behind what the bank holds already, once (R440). (DESIGN CHOICE: log 16) -/
def State.holdStep (s : State) (b : Nat × Nat) (i : HeldStep) : Host.Outcome State Fault Refusal :=
  if s.inBank (.step i) then .refused .notDue else .next (s.joinBank b (.step i))

/-- The recipe image of a context. -/
def State.recipe (s : State) (ctx : Nat) : List Byte :=
  match s.ctx? ctx with
  | none => []
  | some c => c.recipe

end Sys2Proof.Machine
end

