-- ==== Sys2Proof/Machine/Tiles.lean ====
section
/-! DEFINITION. Tile registers and the accesses they make: the fields of TCTL (R340, R341), elements and rows (R129), the
pieces of an access by sector (R321), and the stores of a `tst` (R347, R350). -/
namespace Sys2Proof.Machine

/-! ### TCTL (R340, R341) -/

def tDesc (t : DWord) : Desc := descOf (fld t.toNat 31 0)
def tRows (t : DWord) : Nat := fld t.toNat 37 32 + 1
def tEpr (t : DWord) : Nat := fld t.toNat 50 40 + 1
def tScm (t : DWord) : Bool := t.getLsbD 52
/-- Data bytes and scale bytes of a row. -/
def tRB (t : DWord) : Nat := (tEpr t * (tDesc t).w + 7) / 8
def tNB (t : DWord) : Nat := (tEpr t + 31) / 32

/-- A legal nonzero TCTL value (R341). -/
def tctlLegal (t : DWord) : Bool :=
  descLegal (fld t.toNat 31 0) && decide (tEpr t * (tDesc t).w ≤ 1536)
    && (tScm t == ((tDesc t).fmt == 10 || (tDesc t).fmt == 11)) && fld t.toNat 63 53 == 0 && fld t.toNat 51 51 == 0
    && fld t.toNat 39 38 == 0

/-! ### Rows -/

/-- Row i of a tile and of its scale plane. -/
def Tile.row (t : Tile) (i : Nat) : BitVec 1536 := (t.rows[i]?).getD 0
def Tile.srow (t : Tile) (i : Nat) : BitVec 96 := (t.scale[i]?).getD 0

/-- The code of element j of row i, w bits wide (R129). -/
def Tile.code (t : Tile) (i j w : Nat) : Nat := (t.row i).toNat / 2 ^ (w * j) % 2 ^ w

/-- The scale byte of block b of row i (R130). -/
def Tile.scaleByte (t : Tile) (i b : Nat) : Nat := (t.srow i).toNat / 2 ^ (8 * b) % 256

/-- The tile registers of a crew, and one of them. -/
def Crew.tile (c : Crew) (t : Nat) : Tile := (c.tiles[t]?).getD ⟨0, [], []⟩

/-! ### Accesses -/

/-- Where an object's byte 0 lies in a sector of its home (R321): only host and peer objects begin inside one (R188). -/
def State.sectorShift (s : State) (ctx handle : Nat) : Nat :=
  match s.ctx? ctx with
  | none => 0
  | some c => match entryAt s.mem c handle with
    | none => 0
    | some e => if e.kind = 4 then e.w1 % 32 else if e.kind = 5 then e.w2 % 32 else 0

/-- Pieces grouped by the 32-byte sector of the home that they lie in, in order; byte 0 of the object lies at byte `sh` of
a sector. -/
def bySector (sh : Nat) : List Piece → List (Nat × List Piece)
  | [] => []
  | p :: r =>
    let rest := bySector sh r
    let k := (p.off + sh) / 32
    match rest.find? (·.1 == k) with
    | none => (k, [p]) :: rest
    | some (_, ps) => (k, p :: ps) :: rest.filter (·.1 != k)

/-- What every access of a word shares. -/
structure Shape0 where
  cap    : Cap
  rights : Nat
  write  : Bool
  isAtom : Bool
  plain  : Bool
  tag    : Option Bool
  deriving DecidableEq, Repr

/-- Accesses entered under consecutive identifiers. -/
def State.addAccesses (s : State) : List Access → State
  | [] => s
  | a :: r => State.addAccesses { s with accs := tset s.accs s.nextId a, nextId := s.nextId + 1 } r

/-- The bytes [off, off + n) of an object cut at the 32-byte sectors of their home: (offset, size) in order; at most k pieces. -/
def cutSectors (sh off n : Nat) : Nat → List (Nat × Nat)
  | 0 => []
  | k + 1 => if n = 0 then [] else
      let m := min n (32 - (off + sh) % 32)
      (off, m) :: cutSectors sh (off + m) (n - m) k

/-- The pieces that bytes at place `at_` of row i's image make at object offset off, with their values. -/
def rowPieces (sh i at_ off : Nat) (bs : List Byte) : List Piece :=
  (cutSectors sh off bs.length (bs.length + 1)).map fun (o, n) =>
    ⟨1024 + i, o, n, at_ + (o - off), leNat ((bs.drop (o - off)).take n)⟩

/-- An access of a queued tile word. -/
def engineAccess (e : MEntry) (uid op : Nat) (x : Shape0) (sector : Nat) (ps : List Piece) : Access :=
  { op := op, uid := uid, gidx := e.gidx, group := e.group, gid := e.gid, ctx := e.ctx, core := e.core, crew := e.crew, kind := x.cap.kind,
    handle := x.cap.handle, rights := x.rights, sector := sector, pieces := ps, write := x.write, isAtom := x.isAtom,
    plain := x.plain, tag := x.tag, stage := .toPort, flats := [], res := [], urgent := false, upgraded := false, ser := 0, watch := false,
    replays := 0, cpol := 0, strong := false }

/-- The accesses of a tile word's pieces go out for its word in flight. -/
def State.sendTile (s : State) (e : MEntry) (op : Nat) (cap : Cap) (write : Bool) (ps : List Piece) : State :=
  let groups := bySector (s.sectorShift e.ctx cap.handle) ps
  let uid := match s.group? e.group with
    | none => 0
    | some gr => gr.uid
  let s1 := s.modOp op fun o => { o with left := o.left + groups.length }
  s1.addAccesses (groups.map fun (k, q) =>
    engineAccess e uid op ⟨cap, if write then rW else rR, write, false, false, none⟩ k q)

/-- The data bytes of row i, with zero bits beyond its elements (R350). -/
def Tile.dataBytes (t : Tile) (i : Nat) : List Byte :=
  leBytes ((t.row i).toNat % 2 ^ (tEpr t.tctl * (tDesc t.tctl).w)) (tRB t.tctl)

/-- The scale bytes of row i. -/
def Tile.scaleBytes (t : Tile) (i : Nat) : List Byte := leBytes (t.srow i).toNat (tNB t.tctl)

/-- The bytes that `tst` stores for row i (R350). -/
def Tile.stored (t : Tile) (part : Part) (i : Nat) : List Byte :=
  match part with
  | .data => t.dataBytes i
  | .scale => t.scaleBytes i
  | .both => t.dataBytes i ++ t.scaleBytes i

/-- A store's value stands in `value`, so the place in the row image is not needed. -/
def storePieces (sh i off : Nat) (bs : List Byte) : List Piece :=
  (rowPieces sh i 0 off bs).map fun p => { p with value := p.value2, value2 := 0 }

/-- The stores of a `tst` leave, from the tile as it stands, row after row (R350). -/
def State.startStore (s : State) (e : MEntry) (t : Tile) (part : Part) (base stride : Nat) (cap : Cap) : State :=
  match e.op with
  | none => s
  | some op =>
    s.sendTile e op cap true ((List.range (tRows t.tctl)).flatMap fun i =>
      storePieces (s.sectorShift e.ctx cap.handle) i (base + i * stride) (t.stored part i))

/-- The queued `tst` words of a group that is killed start at once; they complete, and nothing else of its queued matrix
words writes a register (R211). (DEDUCED: log 55) -/
def State.flushStores (s : State) (g : Nat) : State :=
  s.engine.foldl (fun s e =>
    if e.group = g then match e.word, tget s.crews e.crew with
      | .tst t part base stride cap, some c => s.startStore e (c.tile t) part base stride cap
      | .tcfg _ _, _ | .acfg _ _, _ | .mma _ _ _ _, _ | .mmb _ _ _ _, _ | .azero _, _ | .ard _ _ _, _ | .awr _ _ _, _
      | .acvt _ _, _ | .tld _ _ _ _ _, _ | .tst _ _ _ _ _, none => s
    else s) s

end Sys2Proof.Machine
end

