-- ==== Sys2Proof/Machine/Trace.lean ====
section
/-! DEFINITION. Writes by the device itself that may park (R65, R423), the trace writer: rings, packets and the points at
which they are written (R421 to R426), and the failing of a context, which traces the end of its groups (R219, R425). -/
namespace Sys2Proof.Machine

/-! ### Writes by the device -/

/-- Where a byte of an object is, wherever its page is (R188). -/
def objFlat (m : List Host.Cell) (e : Entry) (off : Nat) : Nat :=
  match e.kind with
  | 2 => sramBase + e.w1 + off
  | 4 => hostBase + e.w1 + off
  | 5 => peerFlat (fld e.w1 7 0) (fld e.w1 63 32) (e.w2 + off)
  | _ =>
    let p := mnat m (e.pmeAt off) 8
    (if pmeRes p = 0 then 0 else capBase) + pmeFrame p * 65536 + off % 65536

/-- A byte of an object as it stands. -/
def objByte (m : List Host.Cell) (e : Entry) (off : Nat) : Byte := mget m (objFlat m e off)

/-- A 64-bit word of an object of a context as it stands; zero for no object. -/
def State.objWord (s : State) (ctx h off : Nat) : Nat :=
  match s.ctx? ctx with
  | none => 0
  | some c => match entryAt s.mem c h with
    | none => 0
    | some e => leNat ((List.range 8).map fun i => objByte s.mem e (off + i))

/-- Where the words of a write by the device go. -/
inductive SysPlace where
  | denied
  /-- a page is elsewhere; the address of its page map entry -/
  | waits (pme : Nat)
  /-- a bank's refresh holds it (R440) -/
  | busy (controller bank : Nat)
  | at_ (flats : List Nat)
  deriving DecidableEq, Repr

/-- The places of words at the given object offsets, each judged at the port (R65, R423). -/
def State.sysPlaces (s : State) (ctx core h kind : Nat) : List Nat → SysPlace
  | [] => .at_ []
  | o :: r => match s.tableBank (portOf core) ctx h kind rW o 8 with
    | some b => .busy b.1 b.2
    | none => match judge s.mem (s.portEntry (portOf core) ctx h kind rW o 8).2 kind rW o 8, State.sysPlaces s ctx core h kind r with
      | .at_ f, .at_ fs =>
        if s.hostFails f || s.peerFails f then .denied
        else match s.heldBank f with
          | some b => .busy b.1 b.2
          | none => .at_ (f :: fs)
      | .at_ _, .waits p => .waits p
      | .at_ _, .busy c b => .busy c b
      | .elsewhere _, .denied => .denied
      | .elsewhere p, _ => .waits p
      | .window _, _ | .denied _, _ | .noFrame _, _ | .at_ _, .denied => .denied

/-- Words written to flat addresses in order. -/
def State.writeWords (s : State) (ctx : Nat) : List (Nat × DWord) → State
  | [] => s
  | (f, w) :: r => State.writeWords (s.devWrite ctx f (leBytes w.toNat 8)) ctx r

/-- Vector 0 follows a completion record written to host memory (R433). -/
def State.recordSignal (s : State) (fn kind : Nat) : State := if fn = 7 ∧ kind = 4 then s.raise 0 else s

/-- A write of the device that waits for a page, as a command of its own: words and the object offsets they go to; a
trace write keeps the number of its trace buffer. -/
def sysCopy (fn tag ctx core h kind : Nat) (offs : List Nat) (ws : List DWord) : Copy :=
  { group := noGroup, gid := tag, gidx := 0, crew := 2 ^ 40, ctx := ctx, core := core, queue := 8 + fn, fn := fn, params := ws,
    lay := .none, rop := .addS32, src := Cap.null, dst := mkCap h rW kind 0 (2 ^ 40 - 1), cmp := Cap.null,
    cur := ⟨.none, 0, 0, [], none, none, 0⟩, place := 0, listing := false, list := Cap.null, index := offs, after := [], pre := ([], []),
    total := 8 * ws.length, done := 0, parkedElts := [], parked := none, waitHead := false,
    faulted := false, system := true }

/-- A write of the device that stands behind its earlier ones (R423, R466). -/
def State.sysQueue (s : State) (c : Copy) : State := { s with cmds := tset s.cmds s.nextId c, nextId := s.nextId + 1 }

/-- A command waits behind a bank's refresh (R440). -/
def State.holdCommand (s : State) (id : Nat) (b : Nat × Nat) : State :=
  (s.modCmd id fun x => { x with parked := some bankRef }).joinBank b (.command id)

/-- Whether an earlier write of this kind on this core still waits. -/
def State.sysWaits (s : State) (fn ctx core : Nat) : Bool :=
  s.cmds.any fun (_, c) => c.system && c.fn == fn && c.ctx == ctx && c.core == core

/-- The device writes words to an object, checked at the port (R65, R423), behind its writes that wait: none when the port
denies it. -/
def State.sysWrite (s : State) (fn tag ctx core h kind : Nat) (offs : List Nat) (ws : List DWord) : Option State :=
  let later := s.sysQueue (sysCopy fn tag ctx core h kind offs ws)
  if s.sysWaits fn ctx core then some later
  else match s.sysPlaces ctx core h kind offs with
  | .denied => none
  | .at_ fs => some ((s.writeWords ctx (fs.zip ws)).recordSignal fn kind)
  | .waits _ => some later
  | .busy c b => some (later.holdCommand s.nextId (c, b))

/-- A completion record that cannot be written is reported (R65, R467). -/
def State.completionLost (s : State) (ctx cwh cwo : Nat) (ws : List DWord) : State :=
  s.report 13 ctx (ws.take 5 ++ [dw (cwo * 2 ^ 32 + cwh)])

/-! ### The ring (R421 to R423) -/

def ringKey (b : TraceBuf) (core : Nat) : Nat := b.serial * 96 + core

/-- A core's ring of a trace buffer. -/
def State.ringOf (s : State) (b : TraceBuf) (core : Nat) : Ring := (tget s.rings (ringKey b core)).getD ⟨64, 0, 0, false, 0, 64⟩
def State.setRing (s : State) (b : TraceBuf) (core : Nat) (r : Ring) : State := { s with rings := tset s.rings (ringKey b core) r }

/-- Tracing stops on the ring of a key. -/
def State.denyRing (s : State) (key : Nat) : State :=
  { s with rings := tset s.rings key { (tget s.rings key).getD ⟨64, 0, 0, false, 0, 64⟩ with denied := true } }

/-- Free words between the write pointer and the reader's (R422). -/
def ringFree (seg wr rd : Nat) : Nat := (((rd : Int) - wr - 8) % ((seg - 64 : Nat) : Int)).toNat / 8

/-- The segment offset after one word. -/
def ringNext (seg wr : Nat) : Nat := if seg ≤ wr + 8 then 64 else wr + 8

/-- The offsets of the next n words. -/
def ringOffs (seg wr : Nat) : Nat → List Nat
  | 0 => []
  | n + 1 => wr :: ringOffs seg (ringNext seg wr) n

/-- The write pointer past n words. -/
def ringPast (seg wr : Nat) : Nat → Nat
  | 0 => wr
  | n + 1 => ringPast seg (ringNext seg wr) n

/-- The trace writer writes words of a core's segment; a denial stops it and is reported, or, where the store of reports is full, the
port holds the write (R423, R466). (DEDUCED: log 56) -/
def State.ringWrite (s : State) (b : TraceBuf) (ctx core : Nat) (offs : List Nat) (ws : List DWord) : State :=
  match s.sysWrite 6 b.serial ctx core b.handle b.kind (offs.map (core * b.seg + ·)) ws with
  | some s1 => s1
  | none => if reportPlaces ≤ s.reports.length then s.sysQueue (sysCopy 6 b.serial ctx core b.handle b.kind (offs.map (core * b.seg + ·)) ws)
    else (s.setRing b core { s.ringOf b core with denied := true }).report 9 ctx [dw core]

/-- RDPTR as the trace writer knows it: the word as it stands when its page is at hand and its bank free; until then, as it was read last. The
packet's own write to the page parks and brings it (R16, R423). (DESIGN CHOICE: log 86) -/
def State.readRd (s : State) (b : TraceBuf) (ctx core : Nat) : Nat :=
  let o := core * b.seg + 8
  match judge s.mem (s.portEntry (portOf core) ctx b.handle b.kind rW o 8).2 b.kind rW o 8 with
  | .at_ f => if s.bankHeld f then (s.ringOf b core).rd else mnat s.mem f 8 % 2 ^ 32
  | .denied _ | .elsewhere _ | .window _ | .noFrame _ => (s.ringOf b core).rd

/-- A packet's words enter the ring, after a LOSS packet where one is owed, and then the write pointer; or the packet is
dropped (R422). Whether it was written. -/
def State.ringPacket (s : State) (b : TraceBuf) (ctx core : Nat) (ws : List DWord) : State × Bool :=
  let r := { s.ringOf b core with rd := s.readRd b ctx core }
  if r.denied then (s, true)
  else if ringFree b.seg r.wr r.rd < ws.length + 2 then
    let r1 := { r with lost := min (r.lost + 1) (2 ^ 64 - 1), sinceLoss := min (r.sinceLoss + 1) (2 ^ 32 - 1) }
    ((s.setRing b core r1).ringWrite b ctx core [16] [dw r1.lost], false)
  else
    let all := (if r.sinceLoss = 0 then [] else [dw (6 * 2 ^ 60 + 0x7F * 2 ^ 53 + r.sinceLoss)]) ++ ws
    let wr := ringPast b.seg r.wr all.length
    ((s.setRing b core { r with wr := wr, sinceLoss := 0 }).ringWrite b ctx core
      (ringOffs b.seg r.wr all.length ++ [0]) (all ++ [dw wr]), true)

/-! ### Packets (R424 to R426) -/

/-- A packet of an event at a time, which waits for nothing. -/
def pktAt (time type station pass w0 : Nat) (rest : List DWord) : TPkt := ⟨none, time, type, station, pass, w0, rest, 0, 0, 0⟩

/-- A packet with what a SYNC at its event names of the group. -/
def TPkt.of (p : TPkt) (gr : Group) : TPkt :=
  { p with live := summary gr.liveLanes, rw := gr.rwcount.toNat % 2 ^ 32, gen := gr.gid / 16384 % 64 }

/-- A SYNC packet at the event of a packet (R424). -/
def TPkt.sync (p : TPkt) (gr : Group) (station pass : Nat) : List DWord :=
  [dw (2 ^ 60 + gr.gid % 128 * 2 ^ 53 + station * 2 ^ 43 + pass % 256 * 2 ^ 35 + p.gen * 2 ^ 29), dw p.time,
   dw (p.live * 2 ^ 32 + p.rw)]

/-- Word 0 of a packet: type, slot, DSTN of a TRANS from the station last named, DT (R424). -/
def TPkt.word0 (p : TPkt) (gr : Group) : DWord :=
  let dstn := if p.type = 2 then cutInt 11 ((p.station : Int) - gr.tStation) * 2 ^ 42 else 0
  dw (p.type * 2 ^ 60 + gr.gid % 128 * 2 ^ 53 + dstn + p.w0 + (p.time - gr.tLast) % 2 ^ 32)

/-- What a SYNC that is owed before a packet names: the station and pass named last, or, of a group whose entries are not traced, those
of the packet's event (R424, R425). -/
def TPkt.place (p : TPkt) (gr : Group) : Nat × Nat := if gr.traced then (gr.tStation, gr.tPass) else (p.station, p.pass)

/-- A packet of a group is written: a SYNC where one is owed, for a loss or, of a traced group, for its age, then the packet
(R422, R425). -/
def State.writePacket (s : State) (b : TraceBuf) (core : Nat) (gr : Group) (p : TPkt) : State × Group :=
  let named := p.type == 1 || p.type == 2 || p.type == 4
  let owed := p.type != 1 && (gr.tSync || (gr.traced && decide (2 ^ 24 ≤ p.time - gr.tSyncAt)))
  let (s1, ok1) := if owed then s.ringPacket b gr.ctx core (p.sync gr (p.place gr).1 (p.place gr).2) else (s, true)
  let gr1 := if owed && ok1 then { gr with tSync := false, tSyncAt := p.time, tLast := p.time } else gr
  let gr2 := if named then { gr1 with tStation := p.station, tPass := p.pass } else gr1
  if !ok1 then
    -- the SYNC found no room, so the packet behind it is dropped as well
    let r := s1.ringOf b core
    ((s1.setRing b core { r with lost := min (r.lost + 1) (2 ^ 64 - 1), sinceLoss := min (r.sinceLoss + 1) (2 ^ 32 - 1) }).ringWrite b gr.ctx core
      [16] [dw (min (r.lost + 1) (2 ^ 64 - 1))], { gr2 with tSync := true })
  else
    let ws := if p.type = 1 then p.sync gr p.station p.pass else p.word0 gr1 :: p.rest
    let (s2, ok) := s1.ringPacket b gr.ctx core ws
    (s2, { gr2 with
      tSync := !ok || (p.type != 1 && gr1.tSync)
      tSyncAt := if ok && p.type == 1 then p.time else gr1.tSyncAt
      tLast := if ok then p.time else gr1.tLast })

/-- The packets a group's trace writer may write: those in front of the first that waits for a sampled word. -/
def State.writeReady (s : State) (b : TraceBuf) (core : Nat) (gr : Group) : List TPkt → State × Group
  | [] => (s, { gr with tHeld := [] })
  | p :: r => match p.await with
    | some _ => (s, { gr with tHeld := p :: r })
    | none => let (s1, gr1) := s.writePacket b core gr p; State.writeReady s1 b core gr1 r

/-- A group's trace as its writer left it. -/
def State.putTrace (x : State × Group) (g : Nat) : State :=
  x.1.modGroup g fun gr => { gr with
    tSync := x.2.tSync, tLast := x.2.tLast, tSyncAt := x.2.tSyncAt, tStation := x.2.tStation, tPass := x.2.tPass, tHeld := x.2.tHeld }

/-- The trace buffer and core of a group's crew: the context's first one, for samples of a crew that was admitted before it
(R421, R426). -/
def State.traceOf (s : State) (gr : Group) : Option (TraceBuf × Nat) :=
  match s.crew? gr.crew with
  | none => none
  | some c => (c.trace <|> (s.ctx? gr.ctx).bind (·.trace)).map fun b => (b, c.core)

/-- A group's packet takes its place behind its earlier ones and is written when they are. -/
def State.packet (s : State) (g : Nat) (p : TPkt) : State :=
  match s.group? g with
  | none => s
  | some gr => match s.traceOf gr with
    | none => s
    | some (b, core) => State.putTrace (s.writeReady b core gr (gr.tHeld ++ [p.of gr])) g

/-- A packet of a traced group at this moment. -/
def State.tracePkt (s : State) (g type station pass w0 : Nat) (rest : List DWord) : State :=
  match s.group? g with
  | none => s
  | some gr => if gr.traced then s.packet g (pktAt s.clock type station pass w0 rest) else s

/-- The station that a group's SYNC names: in a cover that of the pass, which a group may still wait to enter (R425). -/
def Group.syncStation (gr : Group) : Nat :=
  match gr.wait with
  | .store x => if gr.pass = 0 then gr.station else x.num
  | .none | .phase _ _ _ | .word _ _ | .fuse _ _ | .compose _ _ | .fence _ _ _ _ | .sinv _ _ _ _ _ | .answer _ => gr.station

/-- SYNC, after admission or resumption (R425); a group that has entered no station yet writes it at its first. -/
def State.traceSync (s : State) (g : Nat) : State :=
  match s.group? g with
  | none => s
  | some gr => if gr.members.isEmpty then s else s.tracePkt g 1 gr.syncStation gr.pass 0 []

/-- The entry of a station: SYNC for the first after admission, else TRANS, or COVER for a cover pass (R425). -/
def State.traceEntry (s : State) (g : Nat) (first : Bool) : State :=
  match s.group? g with
  | none => s
  | some gr =>
    if first then s.traceSync g
    else if gr.pass = 0 then s.tracePkt g 2 gr.station 0 0 []
    else s.tracePkt g 4 gr.station gr.pass (gr.station * 2 ^ 43 + gr.pass % 256 * 2 ^ 35) []

/-- The mask words in which a set of lanes has members. -/
def wordsIn (lanes : List Nat) : List Nat := sortNat (lanes.map (· / 32))

/-- EXIT packets for lanes that ceased to be live: the last has RET when no lane is live (R425). -/
def exitPkts (time : Nat) (gone : List Nat) (dead : Bool) : List Nat → List TPkt
  | [] => []
  | w :: r => pktAt time 5 0 0 (w * 2 ^ 48 + (if dead && r.isEmpty then 2 ^ 32 else 0)) [dw (maskWord gone w)] ::
      exitPkts time gone dead r

/-- MASK packets for lanes that changed (R425). -/
def maskPkts (time : Nat) (live : List Nat) : List Nat → List TPkt
  | [] => []
  | w :: r => pktAt time 3 0 0 (w * 2 ^ 48) [dw (summary live * 2 ^ 32 + maskWord live w)] :: maskPkts time live r

def State.packets (s : State) (g : Nat) (ps : List TPkt) : State := ps.foldl (fun s p => s.packet g p) s

/-- The packets of a change of live lanes, given the lanes that were live before. -/
def State.traceLive (s : State) (g : Nat) (before : List Nat) (isExit : Bool) : State :=
  match s.group? g with
  | none => s
  | some gr =>
    if !gr.traced then s
    else
      let now := gr.liveLanes
      if isExit then
        let gone := before.filter fun i => !now.contains i
        s.packets g (exitPkts s.clock gone now.isEmpty (wordsIn gone))
      else
        let changed := (before.filter fun i => !now.contains i) ++ now.filter fun i => !before.contains i
        s.packets g (maskPkts s.clock now (wordsIn changed))

/-- A packet that no longer waits for its sample. -/
def TPkt.release (n : Nat) (body : Nat × List DWord) (p : TPkt) : TPkt :=
  if p.await = some n then { p with await := none, w0 := body.1, rest := body.2 } else p

/-! ### Samples (R426) -/

/-- The words that the sampler counts. -/
def isSampled (w : Word) : Bool :=
  let m := fld w.toNat 30 25
  m == 0x04 || decide (0x20 ≤ m ∧ m ≤ 0x23) || m == 0x29 || (m == 0x25 && (fld w.toNat 24 22 == 3 || fld w.toNat 24 22 == 4))

/-- The sampler counts the word being performed: the state with its count, and whether the word is sampled. (DEDUCED: log 56) -/
def State.sampleTick (s : State) (gr : Group) : State × Bool :=
  match s.traceOf gr, s.ctx? gr.ctx with
  | some (b, core), some c =>
    let r := s.ringOf b core
    if c.prof = 0 || r.denied || !isSampled s.cur.word then (s, false)
    else if r.sampled + 1 < c.prof then (s.setRing b core { r with sampled := r.sampled + 1 }, false)
    else (s.setRing b core { r with sampled := 0 }, true)
  | _, _ => (s, false)

/-- The place of a sample's packet among its group's packets, kept from its issue. -/
def State.sampleHold (s : State) (g n : Nat) : State :=
  s.modGroup g fun gr => { gr with tHeld := gr.tHeld ++ [{ (pktAt s.clock 7 gr.station gr.pass 0 []).of gr with await := some n }] }

/-- A Q field: a queue time that the model leaves free, saturating. -/
def queueField (n : Nat) : Nat := min (Config.queueTime n) 0xFFFF

/-- Word 0 below TYPE and SLOT, and words 1 to 3, of a SAMPLE packet. -/
def sampleBody (station lanes : Nat) (w prov : Word) (sect replay last : Nat) (trapped : Bool) (tick : Nat) : Nat × List DWord :=
  (station * 2 ^ 43 + lanes % 2048 * 2 ^ 32,
   [dw (w.toNat * 2 ^ 32 + prov.toNat),
    dw (sect % 65536 * 2 ^ 48 + min replay 255 * 2 ^ 40 + last % 1024 * 2 ^ 30 + (if trapped then 2 ^ 29 else 0)),
    dw (queueField (4 * tick) * 2 ^ 48 + queueField (4 * tick + 1) * 2 ^ 32 + queueField (4 * tick + 2) * 2 ^ 16
      + queueField (4 * tick + 3))])

/-- The sample of a word in flight. -/
def Op.sampleBody (o : Op) (tick : Nat) : Nat × List DWord :=
  Machine.sampleBody (fld o.prov.toNat 29 20) o.act.length o.word o.prov o.sectors o.replays o.last (!o.fails.isEmpty) tick

/-- The sample of word n is complete: its packet, and those behind it, are written. -/
def State.sampleDone (s : State) (g n : Nat) (body : Nat × List DWord) : State :=
  match s.group? g with
  | none => s
  | some gr => match s.traceOf gr with
    | none => s
    | some (b, core) => State.putTrace (s.writeReady b core gr (gr.tHeld.map (TPkt.release n body))) g

/-- A sampled word that an issue check refused (R426). -/
def State.sampleRefused (s : State) (g : Nat) (gr : Group) : State :=
  let (s1, hit) := s.sampleTick gr
  if hit then
    let (w0, rest) := sampleBody gr.station s.cur.act.length s.cur.word s.cur.prov 0 0 0 true s.tick
    s1.packet g (pktAt s.clock 7 gr.station gr.pass w0 rest)
  else s1

/-- A word that traps UNDEF or ROLE with lanes in ACT is counted as the others are (R426). -/
def State.countRefused (s : State) (g : Nat) (gr : Group) : State := if s.cur.act.isEmpty then s else s.sampleRefused g gr

/-! ### The end of a group (R211, R425) -/

/-- A word of the group that only its engine holds: with the group gone, no access of it is still to come (R211). -/
def State.engineOnly (s : State) (g n : Nat) (o : Op) : Bool := o.group == g && (s.engine.any (·.op == some n)) && s.accs.all fun (_, a) => a.op != n

/-- Those words end with their group, and their samples are complete (R211, R426). -/
def State.endQueued (s : State) (g : Nat) : State :=
  (s.ops.filter fun (n, o) => s.engineOnly g n o).foldl (fun s (n, o) =>
    let s1 := { s with ops := tdel s.ops n }
    if o.sample then s1.sampleDone g n (o.sampleBody s.tick) else s1) s

/-- EXIT with RET for a group that `gkill` or the failure of its context retires, behind the samples of its words that are still in
flight (R211, R425, R426). -/
def State.traceKill (s0 : State) (g : Nat) : State :=
  let s := s0.endQueued g
  match s.group? g with
  | none => s
  | some gr => match s.traceOf gr with
    | none => s
    | some (b, core) =>
      let (s1, gr1) := s.writeReady b core gr (gr.tHeld ++ if gr.traced then [(pktAt s.clock 5 0 0 (2 ^ 32) [0]).of gr] else [])
      if gr1.tHeld.isEmpty then s1 else { s1 with ghosts := ⟨b, core, gr1⟩ :: s1.ghosts }

/-- A sampled word of a group that is gone is complete: its packet, and those behind it, are written. -/
def State.ghostDone (s : State) (n : Nat) (body : Nat × List DWord) : State :=
  match s.ghosts.find? fun x => x.group.tHeld.any (·.await == some n) with
  | none => s
  | some x =>
    let (s1, gr) := s.writeReady x.buf x.core x.group (x.group.tHeld.map (TPkt.release n body))
    { s1 with ghosts := (if gr.tHeld.isEmpty then [] else [{ x with group := gr }]) ++ s1.ghosts.filter (· != x) }

/-! ### The failing of a context (R219) -/

/-- A launch from its record, before validation. -/
def launchFrom (record : List DWord) (ctx from_ clock : Nat) : Launch :=
  { record := record, ctx := ctx, from_ := from_, status := 0, phase := .queued,
    cls := fld ((record[2]?).getD 0).toNat 15 14, since := clock, caps := [], next := 0, retired := 0, head := 0,
    tstart := 0, tend := 0, shapes := 0, reserve := [] }

/-- The reference of a saved crew's group: beyond every slot. -/
def savedRef (crew i : Nat) : Nat := 2 ^ 21 + crew * 128 + i

/-- A saved crew seen as if it stood on its core. -/
def State.withSaved (s : State) (k : Nat) (x : SavedCrew) : State :=
  { s with
    crews := tset s.crews k x.crew
    groups := x.groups.zipIdx.foldl (fun gs (gr, i) => tset gs (savedRef k i) gr) s.groups }

/-- A context's saved crews seen on their cores. -/
def State.withSavedOf (s : State) (ctx : Nat) : State :=
  s.savedCrews.foldl (fun s (k, x) => if x.crew.ctx = ctx then s.withSaved k x else s) s

/-- A group of a failing context ends: its stops are reported, and its trace (R219, R425, R427). -/
def State.endGroup (s : State) (g : Nat) : State :=
  match s.group? g with
  | none => s
  | some gr => (((s.dropStops gr).flushStores g).traceKill g).orphan g

/-- The context fails: its threads stop, its groups, commands, saved state and pre-emptions go, and each of its launches
is KILLED, the records in its device launch queues among them; LAUNCH_COMPLETE writes their records. A driver's
pre-emption of it is over (R231). -/
def State.failContext (s : State) (ctx : Nat) : State :=
  let s0 := s.withSavedOf ctx
  let s1 := ((s0.groups.filter fun (_, g) => g.ctx == ctx).map (·.1)).foldl State.endGroup s0
  let waiting := (s1.threads ++ s1.savedThreads.map fun (x : Nat × SavedThread) => (x.2.num, x.2.thread)).flatMap fun (t, th) =>
    if th.ctx = ctx then th.dlq.map fun r => (r.num, { launchFrom r.words ctx (t + 1) r.since with status := 9, tend := s.clock }) else []
  let results := s1.preempts.flatMap fun (_, p) => if p.ctx = ctx then p.results else []
  let s2 := { s1 with
    ctxs := tmod s1.ctxs ctx fun c => { c with failed := true }
    groups := s1.groups.filter fun (_, g) => g.ctx != ctx
    crews := s1.crews.filter fun (_, c) => c.ctx != ctx
    savedCrews := s1.savedCrews.filter fun (_, c) => c.crew.ctx != ctx
    savedThreads := s1.savedThreads.filter fun (_, t) => t.thread.ctx != ctx
    fastFree := s1.fastFree ++ (s1.crews.flatMap fun (x : Nat × Crew) => if x.2.ctx = ctx then x.2.out.frames else [])
      ++ s1.savedThreads.flatMap fun (x : Nat × SavedThread) => if x.2.thread.ctx = ctx then x.2.frames else []
    preempts := s1.preempts.filter fun (_, p) => p.ctx != ctx
    threads := tmap s1.threads fun _ t =>
      if t.ctx == ctx then { t with stopped := true, dlq := [], sleep := none, blocked := none, parked := none } else t
    cmds := s1.cmds.filter fun (_, c) => c.ctx != ctx || c.system
    launches := waiting.foldl (fun t (n, l) => tset t n l) (tmap s1.launches fun _ l =>
      if l.ctx == ctx && l.status == 0 then { l with status := 9, tend := s.clock } else l) }
  results.foldl (fun s (a, t) => s.mailResult a t 0 []) s2

/-- A level-two fault of a thread of a context (R198, R219): the context fails and the stationmaster reports it, with the PC and
the instruction (R220, R467). -/
def State.l2faultAt (s : State) (t ctx pc : Nat) (word : Word) (code : L2) (detail : Nat) : State :=
  (s.failContext ctx).report 3 ctx (l2Words ctx code t pc word.toNat detail s.clock)

/-- A level-two fault of the instruction that a thread performs. -/
def State.l2fault (s : State) (t : Nat) (code : L2) (detail : Nat) : State :=
  match s.thread? t with
  | none => s
  | some th => s.l2faultAt t th.ctx th.pc s.cur.word code detail

end Sys2Proof.Machine
end

