-- ==== Sys2Proof/Machine/Operands.lean ====
section
/-! DEFINITION. Operand forms: who performs a word and the order in which a group's word is refused (UNDEF by its
lowest reason, then ROLE; R54, R205, R264), the registers a word names (R20, R239), immediates with and without a `hix`
(R260), and the values of scalar and vector operands. -/
namespace Sys2Proof.Machine

/-- What a step answers. -/
abbrev Out := Host.Outcome State Fault Refusal

/-! ### Words of a group -/

/-- The reason of the first check that fails. -/
def firstFail : List (Bool × Nat) → Option Nat
  | [] => none
  | (bad, r) :: rest => if bad then some r else firstFail rest

/-- A word that only a group performs. `takesHix`: it has a field that a `hix` widens (R260). `checks`: (fails, reason)
in ascending order of reason (R205). `roles`: the roles that may issue it (R54). A thread takes L2UNDEF (R265). -/
def groupWord (s : State) (takesHix : Bool) (checks : Group → List (Bool × Nat)) (roles : Role → Bool)
    (body : Nat → Group → Out) : Out :=
  match s.cur.who with
  | .none => .refused .noAgent
  | .thread t => .next (s.l2fault t .undef 0)
  | .group g =>
    match s.group? g with
    | none => .refused .noAgent
    | some gr =>
      if s.cur.hix.isSome && !takesHix then .next ((s.countRefused g gr).undef g 3)
      else match firstFail (checks gr) with
        | some r => .next ((s.countRefused g gr).undef g r)
        | none => if roles gr.role then body g gr else .next ((s.countRefused g gr).roleTrap g gr.role)

/-- Every role (R54). -/
def anyRole (_ : Role) : Bool := true
/-- The roles of tile and matrix words. -/
def matrixRole (r : Role) : Bool := r == .matrix || r == .general
/-- The roles of copy words. -/
def copyRole (r : Role) : Bool := r == .copy || r == .general
/-- The role of `sinv`. -/
def generalRole (r : Role) : Bool := r == .general

/-- A word with nothing to perform for an empty active set (R31). -/
def actWord (s : State) (takesHix : Bool) (checks : Group → List (Bool × Nat)) (roles : Role → Bool)
    (body : Nat → Group → State) : Out :=
  groupWord s takesHix checks roles fun g gr => if s.cur.act.isEmpty then .next s else .next (body g gr)

/-! ### Registers named (R20) -/

/-- A run of n vector registers from r on, aligned to n, lies within the declared count. -/
def vOk (gr : Group) (r n : Nat) : Bool := r % n == 0 && decide (r + n ≤ gr.regs)

/-- The check of R20 on single registers. -/
def v1 (gr : Group) (rs : List (BitVec 7)) : Bool × Nat := (!rs.all fun r => vOk gr r.toNat 1, 5)

/-- A tile register of the crew's partition (R20). -/
def tOk (s : State) (gr : Group) (t : BitVec 4) : Bool :=
  match s.crew? gr.crew with
  | none => false
  | some c => decide (t.toNat < c.tiles.length)

/-- An accumulator of the crew's partition (R20). -/
def aOk (s : State) (gr : Group) (a : BitVec 3) : Bool :=
  match s.crew? gr.crew with
  | none => false
  | some c => decide (a.toNat < c.accs.length)

/-! ### Immediates (R260) -/

/-- A signed field of n bits, widened by a `hix`. -/
def immS (hix : Option (BitVec 25)) (n field : Nat) : Int :=
  match hix with
  | none => sval n field
  | some p => sval (n + 25) (p.toNat * 2 ^ n + field)

/-- An unsigned field of n bits, widened by a `hix`. -/
def immU (hix : Option (BitVec 25)) (n field : Nat) : Nat :=
  match hix with
  | none => field
  | some p => p.toNat * 2 ^ n + field

/-- An immediate at a vector element's width. -/
def immW (hix : Option (BitVec 25)) (n field : Nat) : Word := BitVec.ofInt 32 (immS hix n field)

/-! ### Lane values -/

/-- A pair of vector registers as one 64-bit value, low word first (R18). -/
def Lane.rd64 (l : Lane) (r : Nat) : Nat := (l.rd r).toNat + (l.rd (r + 1)).toNat * 2 ^ 32

/-- A pair written. -/
def Lane.wr64 (l : Lane) (r x : Nat) : Lane := (l.wr r (BitVec.ofNat 32 x)).wr (r + 1) (BitVec.ofNat 32 (x / 2 ^ 32))

/-- n registers from r on, written with a value's words, the lowest first. -/
def Lane.wrN (l : Lane) (r x : Nat) : Nat → Lane
  | 0 => l
  | n + 1 => (l.wr r (BitVec.ofNat 32 x)).wrN (r + 1) (x / 2 ^ 32) n

/-- n registers from r on as one value. -/
def Lane.rdN (l : Lane) (r : Nat) : Nat → Nat
  | 0 => 0
  | n + 1 => (l.rd r).toNat + 2 ^ 32 * l.rdN (r + 1) n

/-- The value of bits [15:0] or [31:16] of an element. -/
def half (x : Word) (h : Nat) : Nat := fld x.toNat (16 * h + 15) (16 * h)

/-- An element from two halves (R125). -/
def pair (lo hi : Nat) : Word := BitVec.ofNat 32 (lo % 65536 + hi % 65536 * 65536)

/-- A vector word that writes vd in each lane of ACT from the lane alone (R30). -/
def laneWord (s : State) (takesHix : Bool) (checks : Group → List (Bool × Nat)) (f : Lane → Lane) : Out :=
  actWord s takesHix checks anyRole fun g _ => s.modGroup g fun gr => gr.onLanes s.cur.act fun _ l => f l

/-! ### Scalar words (R266) -/

/-- A thread's instruction is done: its registers changed, its PC at the next word (R268). -/
def State.threadDone (s : State) (t : Nat) (f : Thread → Thread) : State :=
  s.modThread t fun th => { f th with pc := th.pc + 4 }

/-- A scalar word of majors 0x01 to 0x03: performed once for the group when ACT is not empty, or for the thread, on the
registers of whichever performs it. `bad`: it holds a reserved value. -/
def scalarWord (s : State) (takesHix bad : Bool) (d : BitVec 5) (f : Option (BitVec 25) → (BitVec 5 → DWord) → DWord) : Out :=
  match s.cur.who with
  | .none => .refused .noAgent
  | .thread t =>
    match s.thread? t with
    | none => .refused .noAgent
    | some th =>
      if bad then .next (s.l2fault t .undef 0)
      else .next (s.threadDone t fun th' => th'.wl d.toNat (f none fun r => th.rl r.toNat))
  | .group _ =>
    actWord s takesHix (fun _ => [(bad, 3)]) anyRole fun g gr =>
      s.modGroup g fun gr' => gr'.ws d.toNat (f s.cur.hix fun r => gr.rs r.toNat)

/-- A word that only a thread performs; a group traps UNDEF with a reason. -/
def threadOnly (s : State) (reason : Nat) (body : Nat → Thread → Out) : Out :=
  match s.cur.who with
  | .none => .refused .noAgent
  | .group g => .next (s.undef g reason)
  | .thread t =>
    match s.thread? t with
    | none => .refused .noAgent
    | some th => body t th

/-- A thread's word: in a group reason 7 (R264, R275), and under a `hix` the lower 3 (R205, R260). (DEDUCED: log 73) -/
def threadWord (s : State) (body : Nat → Thread → Out) : Out := threadOnly s (if s.cur.hix.isSome then 3 else 7) body

end Sys2Proof.Machine
end

