-- ==== Sys2Proof/Machine/Stations.lean ====
section
/-! DEFINITION. Stations and the points: the timetable of a kernel on a core (R33, R34, R281), the code of a station in
the station store (R386, R418), entering a station (R35, R282), the vote with its holds, cover and compose request (R38
to R43, R47), and fuse (R48 to R50). -/
namespace Sys2Proof.Machine

/-! ### The timetable -/

/-- Precomposed stations, numbered in the order of the object (R34). -/
def preStations (k : Kernel) : List Sta := k.stations.zipIdx.map fun (x, n) => ⟨n, x.1, none⟩

/-- The stations of a kernel for a context on a core: precomposed ones, then those a lamplighter installed. -/
def State.timetable (s : State) (core ctx codeid kernel : Nat) : List Sta :=
  (match s.kernelOf ctx codeid kernel with
    | none => []
    | some k => preStations k) ++
  (match s.ctx? ctx with
    | none => []
    | some c => (c.composed.filter fun x => x.core == core && x.codeid == codeid && x.kernel == kernel).map
        fun x => ⟨x.num, x.set, some x.words⟩)

/-- The code object and kernel a group runs. -/
def State.codeOf (s : State) (gr : Group) : Nat × Nat :=
  match s.launchOf gr with
  | none => (0, 0)
  | some l => (l.codeid, l.kernel)

/-- The core a group's crew is on. -/
def State.coreOf (s : State) (gr : Group) : Nat :=
  match s.crew? gr.crew with
  | none => 0
  | some c => c.core

/-- The timetable a group votes against. -/
def State.tableOf (s : State) (gr : Group) : List Sta :=
  s.timetable (s.coreOf gr) gr.ctx (s.codeOf gr).1 (s.codeOf gr).2

/-! ### Code in the station store -/

/-- A byte of a context's code arena as the station fetcher reads it, through the page map (R188), its page in the fast
tier. (DEDUCED: log 59) -/
def State.arenaByte (s : State) (c : Context) (off : Nat) : Byte :=
  match entryAt s.mem c c.arena with
  | none => 0
  | some e =>
    let p := mnat s.mem (e.pmeAt off) 8
    if pmeRes p = 0 then mget s.mem (pmeFrame p * 65536 + off % 65536) else 0

/-- The page map entries of the pages of n words of the arena that are elsewhere (R16). -/
def State.arenaAway (s : State) (c : Context) (off n : Nat) : List Nat :=
  match entryAt s.mem c c.arena with
  | none => []
  | some e => ((upTo (off / 65536) ((off + 4 * n - 1) / 65536 + 1 - off / 65536)).map fun p => e.w1 + 8 * p).filter fun a =>
      pmeRes (mnat s.mem a 8) == 1 || pmeRes (mnat s.mem a 8) == 2

/-- A refresh holds words of a context's code arena, or what their places are read from (R440). -/
def State.arenaHeld (s : State) (c : Context) (off n : Nat) : Bool :=
  !s.refresh.isEmpty && (s.rangeHeld (c.table + 32 * c.arena) 32 || match entryAt s.mem c c.arena with
    | none => false
    | some e => (upTo off (4 * n)).any fun o => s.rangeHeld (e.pmeAt o) 8 || s.bankHeld (pmeFrame (mnat s.mem (e.pmeAt o) 8) * 65536 + o % 65536))

/-- n words of a context's code arena. -/
def State.arenaWords (s : State) (c : Context) (off n : Nat) : List Word :=
  (List.range n).map fun i =>
    BitVec.ofNat 32 (leNat ((List.range 4).map fun j => s.arenaByte c (off + 4 * i + j)))

/-- A precomposed station's code in the arena. (DEDUCED: log 59) -/
def State.fetchStation (s : State) (ctx codeid kernel num : Nat) : List Word :=
  match s.ctx? ctx, s.kernelOf ctx codeid kernel with
  | some c, some k => match k.stations[num]? with
    | some (_, off, n) => s.arenaWords c off n
    | none => []
  | _, _ => []

/-- The pages elsewhere that a precomposed station's code lies on. -/
def State.stationAway (s : State) (ctx codeid kernel num : Nat) : List Nat :=
  match s.ctx? ctx, s.kernelOf ctx codeid kernel with
  | some c, some k => match k.stations[num]? with
    | some (_, off, n) => s.arenaAway c off n
    | none => []
  | _, _ => []

/-- A refresh holds a precomposed station's code (R440). -/
def State.stationHeld (s : State) (ctx codeid kernel num : Nat) : Bool :=
  match s.ctx? ctx, s.kernelOf ctx codeid kernel with
  | some c, some k => match k.stations[num]? with
    | some (_, off, n) => s.arenaHeld c off n
    | none => false
  | _, _ => false

/-- The content hash of a context's code object: what a copy of its code is shared under (R195). -/
def State.hashOf (s : State) (ctx codeid : Nat) : BitVec 384 :=
  match s.ctx? ctx with
  | none => 0
  | some c => match c.objs.find? (·.id == codeid) with
    | none => 0
    | some o => o.hash

/-- A group runs the copy, on a core or saved. -/
def State.runsCopy (s : State) (id : Nat) : Bool :=
  (s.groups.any fun (_, gr) => gr.copy == some id) || s.savedCrews.any fun (_, x) => x.groups.any fun gr => gr.copy == some id

/-- A copy is freed once it is stale and no group runs it (R386). -/
def State.keepsCopy (s : State) (c : Cached) : Bool := !c.stale || s.runsCopy c.id

/-- The words the station store of a core holds: cached, composed, and in open buffers (R85, R418). -/
def State.storeUsed (s : State) (core : Nat) : Nat :=
  (s.store.filter fun c => c.core == core && s.keepsCopy c).foldl (fun n c => n + c.words.length) 0
  + s.ctxs.foldl (fun n (_, c) => (c.composed.filter (·.core == core)).foldl (fun n x => n + x.words.length) n) 0
  + s.threads.foldl (fun n (t, th) => if threadCore t = core then n + (match th.buf with
      | none => 0
      | some b => b.words.length) else n) 0

/-- The least recently entered station of a core that no group is running (R418). -/
def State.victim (s : State) (core : Nat) : Option Cached :=
  (s.store.filter fun c => c.core == core && !s.runsCopy c.id).foldl
    (fun b c => match b with
      | none => some c
      | some x => if c.entered < x.entered then some c else some x) none

/-- Room for n words in a core's store, by evicting at most k stations (R418). (DEDUCED: log 59) -/
def State.makeRoom (s : State) (core n : Nat) : Nat → Option State
  | 0 => if s.storeUsed core + n ≤ 262144 then some s else none
  | k + 1 =>
    if s.storeUsed core + n ≤ 262144 then some s
    else match s.victim core with
      | none => none
      | some v => State.makeRoom { s with store := s.store.filter (· != v) } core n k

/-- The code of a station as an entry finds it, with the copy's number: cached, or fetched anew into the store (R386, R418);
none while a page of it is elsewhere (R16), or the store has no room. -/
def State.codeFor (s : State) (core ctx codeid kernel num : Nat) : Option (State × Nat × List Word) :=
  let h := s.hashOf ctx codeid
  match s.store.find? fun c => c.core == core && c.hash == h && c.kernel == kernel && c.num == num && !c.stale with
  | some c => some ({ s with store := s.store.map fun x => if x = c then { x with entered := s.tick } else x }, c.id, c.words)
  | none =>
    if !(s.stationAway ctx codeid kernel num).isEmpty || s.stationHeld ctx codeid kernel num then none
    else
      let ws := s.fetchStation ctx codeid kernel num
      let s1 := { s with store := s.store.filter s.keepsCopy }
      match s1.makeRoom core ws.length s1.store.length with
      | none => none
      | some s2 => some ({ s2 with
          store := ⟨s2.nextId, core, h, kernel, num, ws, false, s.tick⟩ :: s2.store, nextId := s2.nextId + 1 }, s2.nextId, ws)

/-! ### Waiting for pages (R215, R217) -/

/-- The wait-table entry of a page, if its die keeps one. -/
def State.entryFor (s : State) (pme : Nat) : Option Nat := (s.waits.find? fun (_, w) => w.pme == pme).map (·.1)

/-- The die whose fault unit serves a page: that of the stack its map entry lies in. -/
def faultDie (pme : Nat) : Nat := pme / (96 * 2 ^ 30) / 2 % 4

/-- The least fault token that no entry of a die bears (R215). (DESIGN CHOICE: log 87) -/
def State.freeToken (s : State) (die : Nat) : BitVec 16 :=
  let used := (s.waits.filter fun (_, e) => e.die == die).map fun (_, e) => e.token.toNat
  BitVec.ofNat 16 (((List.range 4096).find? fun n => !used.contains n).getD 0)

/-- What a waiter waits for when the table has no entry for its page. -/
def overflowRef : Nat := 2 ^ 64

/-- A waiter joins the entry of a page, or a new one; with the die's table of 4,096 entries full, its overflow list (R215,
R217). With it, what it waits for. -/
def State.joinEntry (s : State) (pme : Nat) (w : Waiter) : State × Nat :=
  match s.entryFor pme with
  | some n => ({ s with waits := tmod s.waits n fun e => { e with waiters := e.waiters ++ [w] } }, n)
  | none =>
    let die := faultDie pme
    if (s.waits.filter fun (_, e) => e.die == die).length < 4096 then
      ({ s with waits := tset s.waits s.nextId ⟨s.freeToken die, die, pme, [w], false, false⟩, nextId := s.nextId + 1 }, s.nextId)
    else ({ s with overflow := s.overflow ++ [(die, w)] }, overflowRef + die)

/-- A page that is elsewhere is fetched: its fault unit keeps an entry for it, with no waiter of its own (R215). -/
def State.wantPage (s : State) (pme : Nat) : State :=
  if (s.entryFor pme).isSome || decide (4096 ≤ (s.waits.filter fun (_, e) => e.die == faultDie pme).length) then s
  else { s with
    waits := tset s.waits s.nextId ⟨s.freeToken (faultDie pme), faultDie pme, pme, [], false, false⟩, nextId := s.nextId + 1 }

/-- A page that is waited for has no entry, and its fault unit can keep one now. -/
def State.canWant (s : State) (pme : Nat) : Bool :=
  (s.entryFor pme).isNone && decide ((s.waits.filter fun (_, e) => e.die == faultDie pme).length < 4096)

/-- Whether a waiter stands in an entry or in an overflow list. -/
def State.isWaiting (s : State) (w : Waiter) : Bool :=
  (s.waits.any fun (_, e) => e.waiters.contains w) || s.overflow.any (·.2 == w)

/-- A group asks for the pages of its station's code that are elsewhere. -/
def State.askCode (s : State) (g : Nat) (pmes : List Nat) : State :=
  if s.isWaiting (.station g) then s else pmes.foldl (fun s p => (s.joinEntry p (.station g)).1) s

/-! ### Entering a station -/

/-- A set as a station set operand: blocks ascending from byte 0, unused bytes 0xFF (R281, R286). -/
def setOperand (set : List Nat) : DWord :=
  dw (leNat ((set ++ List.replicate 8 255).take 8 |>.map (BitVec.ofNat 8)))

/-- A compose-request event (R286). -/
def composeEvent (mode : Nat) (gr : Group) (kernel codeid req : Nat) (set : List Nat) (station from_ clock : Nat) : List DWord :=
  [dw (2 * 2 ^ 56 + mode * 2 ^ 48 + gr.gid * 2 ^ 20 + kernel), dw (codeid * 2 ^ 32 + req), setOperand set,
   dw (station * 2 ^ 16 + from_), dw clock, 0, 0, 0]

/-- A group at the first word of a station. The words of an issue queue stay only where the next station is open. (DEDUCED: log 78) -/
def Group.entered (gr : Group) (x : Sta) (code : List Word) (copy : Option Nat) : Group :=
  let isOpen := match x.comp with
    | some [] => true
    | some (_ :: _) | none => false
  { gr with station := x.num, members := sortNat x.set, slotSet := x.set, code := code, isOpen := isOpen,
            source := if x.comp.isSome then 1 else 0, copy := copy, refetch := false, moved := false, late := false, pc := 0, queue := if isOpen then gr.queue else [],
            wait := .none, met := false }

/-- The group enters a station at its first word (R38); at an open station its thread is told (R282). A group whose
station the store cannot hold yet waits at the vote (R418). (DEDUCED: log 59, 78) -/
def State.enter (s : State) (g : Nat) (x : Sta) : State :=
  match s.group? g with
  | none => s
  | some gr =>
    let (codeid, kernel) := s.codeOf gr
    let core := s.coreOf gr
    let first := gr.members.isEmpty
    match x.comp with
    | some [] =>
      ((s.modGroup g fun gr => { gr.entered x [] none with source := 2 }).traceEntry g first).notifyBy core gr.ctx (some gr.uid)
        (composeEvent 1 gr kernel codeid 0 (sortNat x.set) x.num gr.station s.clock)
    | some ws => (s.modGroup g fun gr => gr.entered x ws none).traceEntry g first
    | none =>
      -- at the vote the group has left the station it ran
      let s0 := s.modGroup g fun gr => { gr with copy := none }
      match s0.codeFor core gr.ctx codeid kernel x.num with
      | some (s1, n, ws) => (s1.modGroup g fun gr => gr.entered x ws (some n)).traceEntry g first
      | none => (s0.modGroup g fun gr => { gr with wait := .store x, met := false }).askCode g
          (s0.stationAway gr.ctx codeid kernel x.num)

/-! ### The cover (R42, R43) -/

/-- The station with the most blocks, the lowest-numbered among equals. -/
def bestStation (xs : List Sta) : Option Sta :=
  xs.foldl (fun b x => match b with
    | none => some x
    | some y => if y.set.length < x.set.length ∨ (y.set.length = x.set.length ∧ x.num < y.num) then some x else some y) none

/-- The passes that cover a set, in order; at most n of them (R42, R58). -/
def coverOf (tt : List Sta) (u : List Nat) : Nat → List Sta
  | 0 => []
  | n + 1 => match u with
    | [] => []
    | b :: _ => match bestStation (tt.filter fun t => t.set.contains b && t.set.all u.contains) with
      | none => []
      | some t => t :: coverOf tt (u.filter fun x => !t.set.contains x) n

/-- The pass a block is marked with. -/
def passOf (passes : List Sta) (b : Nat) : Nat :=
  match passes.findIdx? fun t => t.set.contains b with
  | none => 0
  | some i => i + 1

/-- The mark of a lane that waits in a HOLD block. -/
def waitMark : Nat := 65536

/-- A group in pass 1 of a cover, its lanes marked (R42, R43). -/
def Group.covered (gr : Group) (passes : List Sta) : Group :=
  { gr with pass := 1, cover := passes.tail,
            lanes := gr.lanes.map fun l => if l.live && l.mark != waitMark then { l with mark := passOf passes l.blk.toNat } else l }

/-- The group forms the cover of S and enters pass 1 (R42, R43). -/
def State.startCover (s : State) (g : Nat) (set : List Nat) : State :=
  match s.group? g with
  | none => s
  | some gr =>
    let passes := coverOf (s.tableOf gr) set set.length
    match passes with
    | [] => s
    | p :: _ => (s.modGroup g fun gr => gr.covered passes).enter g p

/-! ### The points (R38) -/

/-- The vote set of the live lanes. -/
def Group.voteSet (gr : Group) : List Nat := sortNat ((gr.lanes.filter Lane.live).map fun l => l.blk.toNat)

/-- HOLD blocks leave a set that holds a block without HOLD (R38 step 2). -/
def dropHolds (hold set : List Nat) : List Nat :=
  let rest := set.filter fun b => !hold.contains b
  if rest.isEmpty then set else rest

/-- The compose request for a set: the group joins the outstanding one, or a new one is queued (R40, R286). -/
def State.requestCompose (s : State) (g t codeid kernel : Nat) (set : List Nat) : State :=
  match s.thread? t, s.group? g with
  | some th, some gr =>
    match th.reqs.find? fun r => r.codeid == codeid && r.kernel == kernel && r.set == set with
    | some r =>
      (s.modThread t fun th => { th with reqs := th.reqs.map fun x => if x.id = r.id then { x with groups := x.groups ++ [g] } else x })
        |>.modGroup g fun gr => { gr with wait := .compose t r.id, met := false }
    | none =>
      let id := th.nextReq
      let s1 := s.modThread t fun th =>
        { th with reqs := th.reqs ++ [⟨id, codeid, kernel, set, [g]⟩], nextReq := if id = 0xFFFFFFFF then 1 else id + 1 }
      (s1.modGroup g fun gr => { gr with wait := .compose t id, met := false }).pushEvent t (some gr.uid)
        (composeEvent 0 gr kernel codeid id set 0 gr.station s.clock)
  | _, _ => s

/-- One vote over all live lanes (R38): retirement, the station of the set, or the absent-station response (R40). -/
def State.points (s : State) (g : Nat) : State :=
  match s.group? g with
  | none => s
  | some gr =>
    let all := gr.voteSet
    if all.isEmpty then
      s.modGroup g fun gr =>
        { gr with code := [], isOpen := false, copy := none, ended := true, pc := 0, queue := [], pass := 0, cover := [] }
    else
      let hold := match s.kernelOfGroup gr with
        | none => []
        | some k => k.hold
      let set := dropHolds hold all
      let s1 := s.modGroup g fun gr =>
        { gr with pass := 0, cover := [],
                  lanes := gr.lanes.map fun l => { l with mark := if l.live && !set.contains l.blk.toNat then waitMark else 0 } }
      match (s.tableOf gr).find? fun x => sortNat x.set == set with
      | some x => s1.enter g x
      | none =>
        let (codeid, kernel) := s.codeOf gr
        let offered := (match s.launchOf gr with
          | none => false
          | some l => l.compose) && (match s.kernelOfGroup gr with
          | none => false
          | some k => k.compose.isSome) && decide (set.length ≤ 8)
        match offered, s.threadOf (s.coreOf gr) gr.ctx with
        | true, some t => s1.requestCompose g t codeid kernel set
        | _, _ => s1.startCover g set

/-- `vote`: the next cover pass, on whichever core, or the points (R38, R43, R44). It ends the guard (R261), and an open station
(R83). -/
def State.vote (s : State) (g : Nat) : State :=
  match s.group? g with
  | none => s
  | some gr =>
    let s1 := s.modGroup g fun gr => { gr with guard := none, isOpen := false }
    if gr.pass = 0 then s1.points g
    else match gr.cover with
      | [] => (s1.modGroup g fun gr => { gr with pass := 0, cover := [] }).points g
      | x :: rest => (s1.modGroup g fun gr => { gr with pass := gr.pass + 1, cover := rest }).enter g x

/-- A group of a context waits on a request of its thread. -/
def Group.joined (gr : Group) (ctx t id : Nat) : Bool :=
  gr.ctx == ctx && match gr.wait with
  | .compose t' id' => t' == t && id' == id
  | .none | .phase _ _ _ | .word _ _ | .fuse _ _ | .fence _ _ _ _ | .sinv _ _ _ _ _ | .answer _ | .store _ => false

/-- The groups of a core that wait on a request of a thread. -/
def State.waitersOf (s : State) (ctx t id : Nat) : List Nat := (s.groups.filter fun (_, gr) => gr.joined ctx t id).map (·.1)

/-- A group that left its core goes on, once it is on a core, to the station, or to the first pass of the cover (R41, R57). -/
def Group.served (gr : Group) (x : Option Sta) (passes : List Sta) : Group :=
  match x, passes with
  | some x, _ => { gr with wait := .store x, met := false }
  | none, p :: _ => { gr.covered passes with wait := .store p, met := false }
  | none, [] => gr

/-- A core has a place for a composed station of a context: the station's number and set are free there, and the kernel has fewer
than 1,024 stations (R33). (DESIGN CHOICE: log 94) -/
def Context.hasPlace (c : Context) (core : Nat) (x : Composed) : Bool :=
  let here := c.composed.filter fun y => y.core == core && y.codeid == x.codeid && y.kernel == x.kernel
  let pre := match (c.objs.find? (·.id == x.codeid)).bind (·.kernels[x.kernel]?) with
    | none => 0
    | some k => k.stations.length
  (here.all fun y => y.num != x.num && sortNat y.set != sortNat x.set) && decide (pre + here.length < 1024)

/-- A composed station stands on one more core, where it has a place. (DESIGN CHOICE: log 94) -/
def Context.installOn (c : Context) (core : Nat) (x : Composed) : Context :=
  if c.hasPlace core x then { c with composed := c.composed ++ [{ x with core := core }] } else c

/-- A station that serves a request stands on the core of each group it serves (R41, R231). (DESIGN CHOICE: log 94) -/
def State.installFor (s : State) (ctx : Nat) (r : Request) (x : Sta) (gs : List Nat) : State :=
  gs.foldl (fun s g => match s.group? g, x.comp with
    | some gr, some ws => s.modCtx ctx fun c => c.installOn (s.coreOf gr) ⟨0, r.codeid, r.kernel, x.num, x.set, ws⟩
    | _, _ => s) s

/-- The request is answered: removed, and its groups enter the station, or go on to the cover (R41, R57, R283). -/
def State.serveRequest (s : State) (t : Nat) (r : Request) (x : Option Sta) : State :=
  match s.thread? t with
  | none => s
  | some th =>
    let passes := coverOf (s.timetable (threadCore t) th.ctx r.codeid r.kernel) r.set r.set.length
    let s0 := s.modThread t fun th => { th with reqs := th.reqs.filter (·.id != r.id) }
    let gs := s.waitersOf th.ctx t r.id
    let s1 := match x with
      | some x => s0.installFor th.ctx r x gs
      | none => s0
    let s2 := gs.foldl (fun s g => match x with
      | some x => s.enter g x
      | none => (s.modGroup g fun gr => { gr with wait := .none }).startCover g r.set) s1
    { s2 with savedCrews := tmap s2.savedCrews fun _ c =>
        { c with groups := c.groups.map fun gr => if gr.joined th.ctx t r.id then gr.served x passes else gr } }

/-! ### Fuse (R48 to R50) -/

/-- Whether a group is parked at a fuse site; a halted group is not (R207). -/
def Group.atSite (gr : Group) (site : Nat) : Bool :=
  match gr.wait, gr.stop with
  | .fuse x _, .run => x == site
  | _, _ => false

/-- Whether a group lets a site of its crew resolve: parked there, or in `barw` or `waitw` (R48, R207). -/
def Group.letsResolve (gr : Group) (site : Nat) : Bool :=
  gr.atSite site || (match gr.wait, gr.stop with
    | .phase _ _ _, .run | .word _ _, .run => true
    | _, _ => false)

/-- A fuse site's condition holds (R48, R231). -/
def State.siteDue (s : State) (crew site : Nat) : Bool :=
  let gs := (s.crewGroups crew).filterMap s.group?
  gs.any (·.atSite site) && gs.all (·.letsResolve site) && match s.crew? crew with
    | none => false
    | some c => !c.gated

/-- Eligible for pairing: in no cover pass, no waiting held lane (R49). -/
def Group.eligible (gr : Group) : Bool := gr.pass == 0 && gr.lanes.all fun l => !(l.live && l.mark == waitMark)

/-- The first partner of a group among those above it (R49). -/
def partner (gr : Group) (rest : List (Nat × Group)) : Option Nat :=
  (rest.find? fun (_, h) => h.eligible && h.role == gr.role && h.station == gr.station && h.members == gr.members
    && decide (gr.liveLanes.length + h.liveLanes.length ≤ gr.lanes.length)).map (·.1)

/-- The pairs of a resolution, by ascending group index; at most n groups (R49). -/
def pairUp : Nat → List (Nat × Group) → List (Nat × Nat)
  | 0, _ => []
  | _, [] => []
  | n + 1, (g, gr) :: rest =>
    if gr.eligible then
      match partner gr rest with
      | some h => (g, h) :: pairUp n (rest.filter (·.1 != h))
      | none => pairUp n rest
    else pairUp n rest

/-- The absorber with the lanes of both groups, renumbered (R50). -/
def Group.absorb (gr h : Group) (fminit : BitVec 16) : Group :=
  let ls := gr.lanes.filter Lane.live ++ h.lanes.filter Lane.live
  let empty : Lane := ⟨List.replicate gr.regs 0, 0, 255, fminit, 0⟩
  { gr with lanes := ls ++ List.replicate (gr.lanes.length - ls.length) empty }

/-- A group leaves its fuse site with a value in sd. -/
def Group.leaveSite (gr : Group) (v : DWord) : Group :=
  match gr.wait with
  | .fuse _ sd => { gr.ws sd v with wait := .none }
  | .none | .phase _ _ _ | .word _ _ | .compose _ _ | .fence _ _ _ _ | .sinv _ _ _ _ _ | .answer _ | .store _ => gr

/-- The place of a number in an ascending list. -/
def rankIn (l : List Nat) (n : Nat) : Nat := (l.filter (· < n)).length

/-- The write buffer entries of an absorbed group stand under the absorber's index, behind its own (R160). -/
def State.fuseBuffer (s : State) (crew g h : Nat) : State :=
  match s.crew? crew with
  | none => s
  | some c =>
    let ords := sortNat ((c.dbuf.filter (·.gidx == h)).map (·.ord))
    let s1 := s.modCrew crew fun c => { c with dbuf := c.dbuf.map fun e =>
      if e.gidx = h then { e with gidx := g, ord := s.nextId + rankIn ords e.ord } else e }
    { s1 with nextId := s1.nextId + ords.length }

/-- A site resolves: its groups are paired and fused, and each is at a release point; an accumulator bound to an
absorbed group is unbound (R48 to R50, R343). -/
def State.resolveSite (s : State) (crew site : Nat) : State :=
  let parked := (s.crewGroups crew).filterMap fun g => match s.group? g with
    | some gr => if gr.atSite site then some (g, gr) else none
    | none => none
  let pairs := pairUp parked.length parked
  let s1 := parked.foldl (fun s (g, _) => s.release g) s
  let s2 := parked.foldl (fun s (g, gr) =>
    match pairs.find? (·.1 == g) with
    | some (_, h) => match s.group? h, s.launchOf gr with
      | some hr, some l => (s.modGroup g fun gr => (gr.absorb hr l.fminit).leaveSite 1).traceLive g gr.liveLanes false
      | _, _ => s
    | none => if pairs.any (·.2 == g) then s else s.modGroup g fun gr => gr.leaveSite 0) s1
  pairs.foldl (fun s (g, h) => match s.group? h, s.group? g with
    | none, _ | _, none => s
    | some hr, some gr => ((s.fuseBuffer crew gr.gidx hr.gidx).modCrew crew fun c => { c with accs := c.accs.map fun a => match a.bind with
        | none => a
        | some (i, _) => if i = hr.gidx then { a with bind := none } else a }).retireGroup h) s2

end Sys2Proof.Machine
end

