-- ==== Sys2Proof/Machine/Control.lean ====
section
/-! DEFINITION. Control words and hints (R366 to R379, but `pfch`) and system words (R380 to R385). -/
namespace Sys2Proof.Machine

/-! ### Control -/

/-- `nop` changes no state (R373). -/
def execNop (s : State) : Out := actWord s false (fun _ => []) anyRole fun _ _ => s

/-- A block operand: 255 or a declared block (R258). -/
def blockOk (s : State) (gr : Group) (b : BitVec 8) : Bool := b == 255 || decide (b.toNat < s.blocksOf gr)

/-- Lanes of ACT write their block registers; a traced group tells which ceased to be live (R425). -/
def State.writeBlocks (s : State) (g : Nat) (gr : Group) (f : Lane → BitVec 8) : State :=
  (s.modGroup g fun gr => gr.onLanes s.cur.act fun _ l => { l with blk := f l }).traceLive g gr.liveLanes true

/-- `setblk` (R367). -/
def execSetblk (a b : BitVec 8) (p : BitVec 3) (s : State) : Out :=
  actWord s false (fun gr => [(!(blockOk s gr a && blockOk s gr b), 3)]) anyRole fun g gr =>
    s.writeBlocks g gr fun l => if l.pred p then a else b

/-- A lane's element names a block (R368). -/
def elementBlock (s : State) (gr : Group) (x : Word) : Bool := x == 255 || decide (x.toNat < s.blocksOf gr)

/-- `setblkv`: the fault set is the lanes whose element names no block (R368). -/
def execSetblkv (v : BitVec 7) (s : State) : Out :=
  actWord s false (fun gr => [v1 gr [v]]) anyRole fun g gr =>
    let bad := s.cur.act.filter fun i => !elementBlock s gr ((gr.lane i).rd v.toNat)
    if bad.isEmpty then s.writeBlocks g gr fun l => (l.rd v.toNat).truncate 8
    else s.trapNow g 1 bad (undefDetail s.cur.hix 9) 0 0

/-- `vote`, for every live lane (R369). -/
def execVote (s : State) : Out := groupWord s false (fun _ => []) anyRole fun g _ => .next (s.vote g)

/-- `exit` (R370). -/
def execExit (s : State) : Out := actWord s false (fun _ => []) anyRole fun g gr => s.writeBlocks g gr fun _ => 255

/-- `fuse`: the group parks at the site (R48, R371). -/
def execFuse (d : BitVec 5) (site : BitVec 4) (s : State) : Out :=
  actWord s false (fun _ => []) anyRole fun g _ =>
    s.modGroup g fun gr => { gr with wait := .fuse site.toNat d.toNat, met := false }

/-- `trap`: TRAPI, whatever the active set (R372). -/
def execTrap (c : BitVec 16) (s : State) : Out :=
  groupWord s false (fun _ => []) anyRole fun g _ => .next (s.trapNow g 7 s.cur.act (dw c.toNat) 0 0)

/-! ### Hints -/

/-- `slot`: the blocks at the named positions are the slot set; it ends the guard (R375). -/
def execSlot (m : BitVec 8) (s : State) : Out :=
  groupWord s false (fun gr => [(decide (2 ^ gr.members.length ≤ m.toNat), 8)]) anyRole fun g gr =>
    .next (s.modGroup g fun gr' =>
      { gr' with slotSet := (gr.members.zipIdx.filter fun (_, i) => m.getLsbD i).map (·.1), guard := none })

/-- `grd` (R261, R376). -/
def execGrd (p : BitVec 3) (i : Bool) (n : BitVec 3) (s : State) : Out :=
  groupWord s false (fun _ => []) anyRole fun g _ =>
    .next (s.modGroup g fun gr => { gr with guard := some ⟨p, i, n.toNat + 1⟩ })

/-- The codes of the cache policies (R379). -/
def policyCode : CachePol → BitVec 3
  | .normal => 0
  | .stream => 1
  | .keep => 2
  | .bypass => 3

/-- `cach` (R379). -/
def execCach (p : CachePol) (s : State) : Out :=
  groupWord s false (fun _ => []) anyRole fun g _ => .next (s.modGroup g fun gr => { gr with cpol := policyCode p })

/-- `hix`: its payload binds to the next word (R260, R377). -/
def execHix (p : BitVec 25) (s : State) : Out :=
  groupWord s false (fun _ => []) anyRole fun g _ => .next (s.modGroup g fun gr => { gr with hix := some p })

/-! ### Special registers (R21, R380) -/

/-- A per-lane register. -/
def laneReg (l : Lane) (i e : Nat) : Word :=
  match e with
  | 0x10 => l.blk.zeroExtend 32
  | 0x13 => l.fmode.zeroExtend 32
  | _ => BitVec.ofNat 32 i

/-- The instance index of a crew at level n: LVIDX2 is its index in its level-3 instance, and higher levels follow R61;
undeclared levels read 0. -/
def levelIndex (l : Launch) (idx n : Nat) : Nat :=
  if l.nlev ≤ n then 0
  else idx / ((upTo 2 (n - 2)).foldl (fun p k => p * l.extent k) 1) % l.extent n

/-- A register held per group, device or context; unassigned numbers read 0. -/
def State.groupReg (s : State) (gr : Group) (e : Nat) : DWord :=
  match e with
  | 0x01 => dw gr.lanes.length
  | 0x02 | 0x09 => dw gr.gidx
  | 0x03 => match s.crew? gr.crew with
    | none => 0
    | some c => dw c.idx
  | 0x04 => dw (s.coreOf gr)
  | 0x11 => dw gr.station
  | 0x12 => dw gr.pass
  | 0x14 => gr.cpol.zeroExtend 64
  | 0x20 => gr.rwcount
  | 0x21 => dw s.clock
  | 0x22 => match s.ctx? gr.ctx with
    | none => 0
    | some c => c.claimLost
  | e => if 0x0A ≤ e ∧ e ≤ 0x0F then
      match s.crew? gr.crew, s.launchOf gr with
      | some c, some l => dw (levelIndex l c.idx (e - 8))
      | _, _ => 0
    else 0

/-- The value `rdsr` reads: RWCOUNT counts the words retired before it (R381). -/
def State.rdsrVal (s : State) (gr : Group) (e : Nat) : DWord := if e = 0x20 then dw s.cur.rwc else s.groupReg gr e

/-- `rdsr` (R381). -/
def execRdsr (d : BitVec 7) (e : BitVec 8) (s : State) : Out :=
  let perLane := srPerLane e.toNat
  actWord s false (fun gr => [(perLane && !vOk gr d.toNat 1, 5)]) anyRole fun g gr =>
    if perLane then s.modGroup g fun gr => gr.onLanes s.cur.act fun i l => l.wr d.toNat (laneReg l i e.toNat)
    else s.modGroup g fun gr' => gr'.ws d.toNat (s.rdsrVal gr e.toNat)

/-- `wrsr`: CLAIMLOST's sticky bit and count (R382). -/
def execWrsr (a : BitVec 5) (e : BitVec 8) (s : State) : Out :=
  actWord s false (fun _ => [(e != 0x22, 3)]) anyRole fun _ gr =>
    let v := (gr.rs a.toNat).toNat
    s.modCtx gr.ctx fun c => { c with claimLost := dw (fld v 63 63 * 2 ^ 63 + fld v 31 0) }

/-- `setfm` with an immediate: a reserved value is refused whatever the active set (R31, R383). -/
def execSetfmImm (i : BitVec 16) (s : State) : Out :=
  laneWord s false (fun _ => [(!fmodeLegal i.toNat, 10)]) fun l => { l with fmode := i }

/-- `setfm` from a register: the fault set is the lanes with a reserved value (R383). -/
def execSetfmReg (v : BitVec 7) (s : State) : Out :=
  actWord s false (fun gr => [v1 gr [v]]) anyRole fun g gr =>
    let bad := s.cur.act.filter fun i => !fmodeLegal (fld ((gr.lane i).rd v.toNat).toNat 15 0)
    if bad.isEmpty then s.modGroup g fun gr => gr.onLanes s.cur.act fun _ l => { l with fmode := (l.rd v.toNat).truncate 16 }
    else s.trapNow g 1 bad (undefDetail s.cur.hix 10) 0 0

/-- Whether a context holds the debug right (R196). -/
def State.debugs (s : State) (ctx : Nat) : Bool :=
  match s.ctx? ctx with
  | none => false
  | some c => c.debug

/-- `brk`: TRAPI; with the debug right the debugger receives and resumes it (R384). -/
def execBrk (c : BitVec 16) (s : State) : Out :=
  groupWord s false (fun _ => []) anyRole fun g gr =>
    if s.debugs gr.ctx then
      .next (s.takeTrap g { trapOf gr s.cur 7 5 s.cur.act s.cur.act (dw c.toNat) 0 0 with debug := true })
    else .next (s.trapNow g 7 s.cur.act (dw c.toNat) 0 0)

end Sys2Proof.Machine
end

