-- ==== Sys2Proof/Machine/Port.lean ====
section
/-! DEFINITION. The memory path: a word's accesses leave by sectors (R321), a memory port judges each (R189 to R192,
R215), windows, claims and crew ownership are applied (R112 to R116, R157 to R161, R175), the access performs at its
home, and its answer returns to the group (R77, R319). -/
namespace Sys2Proof.Machine

/-! ### The read cache of a core (R90) -/

/-- The 32-byte sector of a flat address. -/
def sectorOf (a : Nat) : Nat := a / 32

/-- A core's cached copy of a sector for a context. (DESIGN CHOICE: log 13) -/
def State.cachedSector (s : State) (core ctx sector : Nat) : Option RLine :=
  s.rcache.find? fun r => r.core == core && r.ctx == ctx && r.sector == sector

/-- A core's read cache without a sector, whichever context's. -/
def State.dropSector (s : State) (core sector : Nat) : State :=
  { s with rcache := s.rcache.filter fun r => !(r.core == core && r.sector == sector) }

/-- A core's read cache without the sectors that runs of bytes touch. -/
def State.dropRuns (s : State) (core : Nat) (ws : List (Nat × List Byte)) : State :=
  ws.foldl (fun s x => (s.dropSector core (sectorOf x.1)).dropSector core (sectorOf (x.1 + x.2.length - 1))) s

/-- A core drops its read-cache lines of a context (R326). -/
def State.dropLines (s : State) (core ctx : Nat) : State :=
  { s with rcache := s.rcache.filter fun r => !(r.core == core && r.ctx == ctx) }

/-- No core caches a byte of a range any more: other bytes stand there from now on. -/
def State.dropRange (s : State) (a n : Nat) : State :=
  { s with rcache := s.rcache.filter fun r => !decide (a < r.sector * 32 + 32 ∧ r.sector * 32 < a + n) }

/-- A core's read cache without a context's copy of a sector, or with the sector as it stands at home. -/
def State.renewSector (s : State) (core ctx sector : Nat) (fill : Bool) : State :=
  let rest := s.rcache.filter fun r => !(r.core == core && r.ctx == ctx && r.sector == sector)
  { s with rcache := if fill then
      ⟨core, ctx, sector, mgets s.mem (sector * 32) 32, [tagAt s.tags (2 * sector), tagAt s.tags (2 * sector + 1)]⟩ :: rest else rest }

/-! ### Watchpoints (R429) -/

/-- The watchpoints of a context that an access hits. -/
def State.watchHits (s : State) (ctx handle off size : Nat) (write : Bool) : List Nat :=
  match s.ctx? ctx with
  | none => []
  | some c => (c.watches.filter fun (_, w) => w.handle == handle && decide (off < w.low + w.len ∧ w.low < off + size)
      && (if write then w.writes else w.reads)).map (·.1)

/-- A hit by a writer other than a group: 1 copy engine, 2 lamplighter, 3 host, 4 peer (R429, R467). -/
def State.watchReport (s : State) (cls ctx handle off size queue : Nat) (write : Bool) : State :=
  (s.watchHits ctx handle off size write).foldl (fun s n =>
    s.report 11 ctx [dw (n * 256 + cls), dw handle, dw off, dw size, dw queue]) s

/-! ### Parking (R215, R217) -/

/-- An access parks: in its page's entry, or in the overflow list of the die. -/
def State.parkAccess (s : State) (id pme : Nat) : State :=
  let (s1, n) := s.joinEntry pme (.access id)
  s1.modAcc id fun a => { a with stage := if n < overflowRef then .parked n else .overflow (n - overflowRef) }

/-! ### Making accesses (R318, R321) -/

/-- The group runs with fence strengthening: its kernel declares memory-model revision 1 (R99). -/
def State.strengthened (s : State) (gr : Group) : Bool :=
  match s.launchOf gr, s.ctx? gr.ctx with
  | some l, some c => match c.objs.find? (·.id == l.codeid) with
    | some o => o.rev == 1
    | none => false
  | _, _ => false

/-! ### Issue checks of a word's lanes (R318) -/

/-- One lane's access before it leaves: lane and exact window offset. -/
abbrev LaneOff := Nat × Int

/-- The earliest check that some lane fails, with the lanes that fail it (R318). -/
def laneFault (c : Cap) (size need : Nat) (offs : List LaneOff) : Option (Nat × List LaneOff) :=
  match offs.filter fun x => misaligned c x.2 size with
  | x :: r => some (3, x :: r)
  | [] => match offs.filter fun x => decide (x.2 < 0 ∨ (c.len : Int) < x.2 + size) with
    | x :: r => some (8, x :: r)
    | [] => if !holds c.rights need then some (9, offs) else if !c.wellFormed then some (10, offs) else none

/-- The word traps on an issue check: HANDLE and OOFF are those of the lowest lane of the fault set (R203). -/
def State.checkTrap (s : State) (g : Nat) (c : Cap) (code : Nat) (lanes : List LaneOff) : State :=
  let off := match lanes with
    | [] => 0
    | x :: _ => cutInt 40 ((c.low : Int) + x.2)
  let s := match s.group? g with
    | none => s
    | some gr => s.sampleRefused g gr
  s.trapNow g code (lanes.map (·.1)) 0 c.handle off

/-! ### Performing at the home -/

/-- The lesser or greater of two n-bit values read as signed. -/
def sLess (bits a b : Nat) : Bool := decide (sval bits a < sval bits b)

/-- Op of an atomic on n-bit values: the operand, and for cas the compare value then the new value (R323). -/
def atomVal (op : AtomOp) (bits cur v w : Nat) : Nat :=
  match op with
  | .add => (cur + v) % 2 ^ bits
  | .and => cur &&& v
  | .or => cur ||| v
  | .xor => cur ^^^ v
  | .minS => if sLess bits v cur then v else cur
  | .maxS => if sLess bits cur v then v else cur
  | .swap => v
  | .cas => if cur = v then w else cur

/-- Runs of bytes that an access of a context writes at their homes as one write: its core's cached copies go (R91), and what
leaves the device is logged. -/
def State.runsWrite (s : State) (ctx core : Nat) (ws : List (Nat × List Byte)) : State :=
  ws.foldl (fun s x => s.logOut ctx x.1 x.2.length) ((s.dropRuns core ws).memPuts ws)

/-- The bytes that the pieces of a store write: where lanes meet, the highest is last, and its bytes stand (R92). -/
def storeRuns (pf : List (Piece × Nat)) : List (Nat × List Byte) := pf.map fun (p, f) => (f, leBytes p.value p.size)

/-- The store of an access performs; a `kst` stores its granule's tag too, where its home keeps tags (R186, R338). -/
def State.writePieces (s : State) (a : Access) (pf : List (Piece × Nat)) : State :=
  let s1 := s.runsWrite a.ctx a.core (storeRuns pf)
  match a.tag, pf with
  | some true, (_, f) :: _ => if isOutside f then s1 else { s1 with tags := tagSet s1.tags (f / 16) }
  | some false, _ | none, _ | some true, [] => s1

/-- The pieces of an atomic in ascending lane, each seeing what the lanes below left at its address: their results, and
what each address holds at the end, which is its one write (R101). -/
def atomRun (m : List Host.Cell) (op : AtomOp) : List (Piece × Nat) → List (Nat × List Byte) → List PieceRes × List (Nat × List Byte)
  | [], cur => ([], cur)
  | (p, f) :: r, cur =>
    let old := match cur.find? (·.1 == f) with
      | some x => leNat x.2
      | none => mnat m f p.size
    let next := leBytes (atomVal op (8 * p.size) old p.value p.value2) p.size
    let (res, ws) := atomRun m op r ((f, next) :: cur.filter (·.1 != f))
    (.value old false :: res, ws)

/-- The bytes of a cached sector from a flat address. -/
def RLine.read (r : RLine) (flat size : Nat) : Nat := leNat ((r.bytes.drop (flat % 32)).take size)

/-- A read served by the core's cache, or at the home (R90). -/
def readPiece (s : State) (line : Option RLine) (f size : Nat) : PieceRes :=
  match line with
  | some r => .value (r.read f size) (((r.tags[f / 16 % 2]?).getD false) && size == 16)
  | none => .value (mnat s.mem f size) (size == 16 && tagAt s.tags (f / 16))

/-- The atomic operation of a word in flight. -/
def OpKind.atomOp : OpKind → Option AtomOp
  | .atom _ op _ _ => some op
  | .ld _ _ | .lds _ | .store | .kld _ _ | .tld | .ard | .arrive _ _ _ | .register _ _ _ => none

/-- Reads that the core's read cache may serve (R379). -/
def OpKind.caches : OpKind → Bool
  | .ld _ _ | .lds _ | .kld _ _ => true
  | .atom _ _ _ _ | .store | .tld | .ard | .arrive _ _ _ | .register _ _ _ => false

/-- A read: from the core's copy, where there is one that may serve it and does; else at the home, after which the core holds no
older copy (R90, R91, R379). -/
def State.readAccess (s : State) (a : Access) (pf : List (Piece × Nat)) (cacheable : Bool) : State × List PieceRes :=
  let sec := sectorOf (a.flats.headD 0)
  let whole := cacheable && pf.all fun (p, f) => sectorOf f == sec && sectorOf (f + p.size - 1) == sec
  match whole && a.cpol != 3 && Config.useCopy (2 * s.tick + 1), s.cachedSector a.core a.ctx sec with
  | true, some line => (s, pf.map fun (p, f) => readPiece s (some line) f p.size)
  | _, _ => (s.renewSector a.core a.ctx sec (whole && (a.cpol == 0 || a.cpol == 2)), pf.map fun (p, f) => readPiece s none f p.size)

/-- The access performs (R89 to R92). `cacheable`: device memory, host or remote, without RACECHK, and not under DETERM. -/
def State.performAccess (s : State) (id : Nat) (a : Access) (kind : OpKind) (cacheable : Bool) : State :=
  let pf := a.pieces.zip a.flats
  let done := fun (s : State) (res : List PieceRes) => s.modAcc id fun x => { x with stage := .answered, res := res }
  match kind.atomOp with
  | some op => let (res, ws) := atomRun s.mem op pf []; done (s.runsWrite a.ctx a.core ws) res
  | none =>
    if a.write then done (s.writePieces a pf) (a.pieces.map fun _ => .value 0 false)
    else let (s1, res) := s.readAccess a pf (cacheable && kind.caches); done s1 res

/-- The access is refused for every piece. -/
def State.refuse (s : State) (id : Nat) (a : Access) (code origin : Nat) (detail : DWord) : State :=
  s.modAcc id fun x =>
    { x with stage := .answered, res := a.pieces.map fun p => .fail ⟨p.lane, code, origin, detail, a.handle, p.off⟩ }

/-! ### Claims (R112 to R116) -/

/-- A tag with no claims (R112). -/
def Claim.free : Claim := ⟨false, (0xFFFFF, 0), (0xFFFFF, 0), (0xFFFFF, 0), 0⟩

/-- The directory of a line: none for SRAM, whose every line has its tag, on a core or in save frames; an HBM port's by stack; 8 for
the I/O die. -/
def directoryOf (line : Nat) : Option Nat :=
  let a := line * 64
  if isAway a then none
  else if isOutside a then some 8
  else if sramBase ≤ a then none
  else some (a / (96 * 2 ^ 30))

/-- Judging and recording one plain access (R114): the tag after it, whether a claim is lost, and a conflict's holder
with whether the holder's claim was a write. -/
inductive Judged where
  | ok (c : Claim) (lost : Bool)
  | conflict (holder : Nat × Nat) (write : Bool)
  deriving DecidableEq, Repr

/-- Judging by R114. `own`: a claim is current and of the accessing group; `foreign`: it is current and of a group that the
accessing one conflicts with. -/
def State.judgeClaim (s : State) (c : Claim) (me : Nat × Nat) (write : Bool) (own foreign : Nat × Nat → Bool) : Judged :=
  let r0 := s.current c.rd0; let r1 := s.current c.rd1
  if foreign c.wr then .conflict c.wr true
  else if write then
    if foreign c.rd0 then .conflict c.rd0 false
    else if foreign c.rd1 then .conflict c.rd1 false
    else .ok { c with ovf := false, rd0 := (0xFFFFF, 0), rd1 := (0xFFFFF, 0), wr := me } c.ovf
  else if own c.wr || own c.rd0 || own c.rd1 then .ok c false
  else if !r0 then .ok { c with rd0 := me } false
  else if !r1 then .ok { c with rd1 := me } false
  else .ok { c with ovf := true } true

/-- The context of the group that a current claim names. -/
def State.claimCtx (s : State) (c : Nat × Nat) : List Nat := ((s.holder c).map (·.ctx)).toList

/-- The contexts whose current claims a tag holds. -/
def State.claimants (s : State) (c : Claim) : List Nat := s.claimCtx c.rd0 ++ s.claimCtx c.rd1 ++ s.claimCtx c.wr

/-! The owner records of a line for a launch stand beside the line's tag (R157), keyed by line and launch. -/

def ownerKey (line launch : Nat) : Nat := line * 2 ^ 64 + launch

/-- The owner record of a line for a launch. -/
def State.ownerOf (s : State) (launch line : Nat) : Owner := (tget s.owners (ownerKey line launch)).getD ⟨none, [], false⟩

/-- The contexts of the launches whose owner records on a line still bind a crew: an owner or a reader that has not committed. -/
def State.ownersOn (s : State) (line : Nat) : List Nat :=
  s.owners.filterMap fun (k, o) =>
    if k / 2 ^ 64 = line then match s.launch? (k % 2 ^ 64) with
      | none => none
      | some l => if (o.owner.toList ++ o.readers).any (l.head ≤ ·) then some l.ctx else none
    else none

/-- The tag that a full directory gives up: the lowest line's among those with no current claim and no owner record that
binds, and otherwise the least recently accessed (R116). (DESIGN CHOICE: log 88) -/
def State.evictTag (s : State) (d : Nat) : Option (Nat × Claim) :=
  let here := s.claims.filter fun (k, _) => directoryOf k == some d
  match here.find? fun (k, c) => (s.claimants c).isEmpty && (s.ownersOn k).isEmpty with
  | some x => some x
  | none => here.foldl (fun b x => match b with
    | none => some x
    | some y => if x.2.use < y.2.use then some x else some y) none

/-- Capacity of a directory (R116). -/
def directorySize (d : Nat) : Nat := if d = 8 then 262144 else 1048576

/-- A line's place in its directory, made free if it is absent; an eviction loses the claims and records it drops, and CLAIMLOST
advances for each (R116, R158). (DESIGN CHOICE: log 88) -/
def State.allocTag (s : State) (line : Nat) : State :=
  match tget s.claims line, directoryOf line with
  | some _, _ | none, none => s
  | none, some d =>
    if (s.claims.filter fun (k, _) => directoryOf k == some d).length < directorySize d then s
    else match s.evictTag d with
      | none => s
      | some (k, c) => (s.claimants c ++ s.ownersOn k).foldl (fun s n => s.loseClaim n)
          { s with claims := tdel s.claims k, owners := s.owners.filter fun (x, _) => x / 2 ^ 64 != k }

/-- RACE's DETAIL: the holder's id and serial, whether it wrote, and whether crew ownership refused (R204). -/
def raceDetail (holder : Nat × Nat) (write owner : Bool) : DWord :=
  dw (holder.1 * 2 ^ 44 + holder.2 * 2 ^ 32 + (if write then 2 else 0) + (if owner then 1 else 0))

/-- The claim that an access makes: the id and serial of its group as it is checked; those it issued with for a group that is on no
core, whose claim is not current (R113). (DESIGN CHOICE: log 89) -/
def State.claimOf (s : State) (a : Access) : Nat × Nat :=
  match s.groups.find? fun (_, gr) => gr.uid == a.uid with
  | some (g, gr) => (gr.gid, s.serial g)
  | none => (a.gid, a.ser)

/-- A lapsed claim still counts for R94: a checked access of the region or of one before it has not performed. (DESIGN CHOICE: log 89) -/
def State.lapsedWaits (s : State) (x : Lapsed) : Bool :=
  s.accs.any fun (k, a) => a.uid == x.holder.uid && decide (k < x.before) && a.plain && !a.isDone && match s.ctx? a.ctx with
    | none => false
    | some c => (entryAt s.mem c a.handle).any Entry.racechk

/-- The contexts whose lapsed claims an access conflicts with: such a claim is lost, since nothing is refused for it (R94, R113).
(DESIGN CHOICE: log 89) -/
def State.lapsedLost (s : State) (a : Access) (line : Nat) (foreign : Holder → Bool) : List Nat :=
  (s.lapsed.filter fun x => foreign x.holder && (x.wrote.contains line || (a.write && x.read.contains line)) && s.lapsedWaits x).map
    (·.holder.ctx)

/-- A current claim of the access's own group, and one of another (R114). -/
def State.ownClaim (s : State) (a : Access) (c : Nat × Nat) : Bool := (s.holder c).any (·.uid == a.uid)
def Access.otherGroup (a : Access) (h : Holder) : Bool := h.uid != a.uid

/-- The claim of a group that is on no core lapses as it is made (R94, R113). (DESIGN CHOICE: log 89) -/
def State.lapsedAfter (s : State) (id : Nat) (a : Access) (line : Nat) : List Lapsed :=
  if (s.groups.any fun (_, gr) => gr.uid == a.uid) || s.accs.all fun (k, b) => k == id || b.uid != a.uid || !b.plain || b.isDone then s.lapsed
  else ⟨⟨a.uid, a.ctx, a.crew⟩, s.nextId, if a.write then [line] else [], if a.write then [] else [line]⟩ :: s.lapsed

/-- Check and claim at the home, as one step with the access that follows; a refused access claims nothing (R114, R115).
(DESIGN CHOICE: log 88) -/
def State.claimAccess (s : State) (id : Nat) (a : Access) (foreign : Holder → Bool) (perform : State → State) : State :=
  let line := a.flats.headD 0 / 64
  let s1 := s.allocTag line
  let c := (tget s1.claims line).getD Claim.free
  match s1.judgeClaim c (s.claimOf a) a.write (s1.ownClaim a) fun x => (s1.holder x).any foreign with
  | .conflict h w => s1.refuse id a 11 2 (raceDetail h w false)
  | .ok c' lost =>
    let s2 := { s1 with claims := tset s1.claims line { c' with use := s.tick }, lapsed := s1.lapsedAfter id a line }
    perform (((if lost then [a.ctx] else []) ++ s1.lapsedLost a line foreign).foldl (fun s n => s.loseClaim n) s2)

/-! ### Crew ownership under DETERM (R157 to R161) -/

/-- What the serial order does with an access. -/
inductive Serial where
  | direct
  | buffer
  | waits
  | race (write : Bool)
  deriving DecidableEq, Repr

/-- Whether a flat address lies in a crew's own scratchpad, which is never owned (R161). -/
def Crew.ownsPad (c : Crew) (flat : Nat) : Bool := decide (sramBase + c.spad ≤ flat ∧ flat < sramBase + c.spad + c.spadLen)

/-- A crew's buffer holds an entry on a line (R91, R161). -/
def Crew.buffers (c : Crew) (line : Nat) : Bool := c.dbuf.any fun e => e.addr / 64 == line

/-- The treatment of a write by crew c (R157), given whether it is head, and the object. -/
def writeSerial (o : Owner) (idx : Nat) (isHead shared outside : Bool) : Serial :=
  match o.readers.any (idx < ·), o.owner with
  | true, _ => .race false
  | false, some d =>
    if idx < d then .race true
    else if isHead then .direct
    else if shared || outside then .buffer
    else if d = idx then .direct else .buffer
  | false, none => if isHead then .direct else if shared || outside then .buffer else .direct

/-- The treatment of a read by crew c (R158). -/
def readSerial (o : Owner) (idx head : Nat) (shared : Bool) : Serial :=
  if shared then (if idx = head then .direct else .waits)
  else match o.owner with
    | none => .direct
    | some d => if d = idx ∨ d < head then .direct else if d < idx then .waits else .race true

/-- The record of a line after a direct access, and whether a reader's record is lost: a non-head writer of an unowned line
owns it; a reader takes one of two places, and OVF stands for one that found none (R114, R158). -/
def ownerAfter (o : Owner) (idx head : Nat) (write shared outside : Bool) : Owner × Bool :=
  if write then
    ({ o with ovf := false, owner := if o.owner.isNone && !shared && !outside && idx != head then some idx else o.owner }, o.ovf)
  else if shared || o.owner.isSome || o.readers.contains idx then (o, false)
  else
    let cur := o.readers.filter (head ≤ ·)
    if cur.length < 2 then ({ o with readers := cur ++ [idx] }, false) else ({ o with ovf := true }, true)

/-- The owner record of a line for a launch after a direct access; its tag is there, and was accessed. -/
def State.keepOwner (s : State) (launch : Nat) (l : Launch) (idx line : Nat) (write shared outside : Bool) : State :=
  let o := s.ownerOf launch line
  let (o1, lost) := ownerAfter o idx l.head write shared outside
  if o1 = o then s
  else
    let s1 := s.allocTag line
    let c := (tget s1.claims line).getD Claim.free
    let s2 := { s1 with claims := tset s1.claims line { c with use := s.tick }, owners := tset s1.owners (ownerKey line launch) o1 }
    if lost then s2.loseClaim l.ctx else s2

/-- A crew, on its core or saved. -/
def State.anyCrew (s : State) (crew : Nat) : Option Crew :=
  match s.crew? crew with
  | some c => some c
  | none => (tget s.savedCrews crew).map (·.crew)

/-- A crew changed, on its core or saved. -/
def State.modAnyCrew (s : State) (crew : Nat) (f : Crew → Crew) : State :=
  { s.modCrew crew f with savedCrews := tmod s.savedCrews crew fun x => { x with crew := f x.crew } }

/-- The DETERM launch of a crew, if it has one. -/
def State.serialLaunch (s : State) (crew : Nat) : Option (Crew × Launch) :=
  match s.anyCrew crew with
  | none => none
  | some c => match s.launch? c.launch with
    | none => none
    | some l => if l.determ then some (c, l) else none

/-- A buffered entry of the word n in flight, or of one that has left: its write has not performed (R156). -/
def State.isBuffered (s : State) (n : Nat) : Bool :=
  (s.crews.any fun (_, c) => c.dbuf.any fun e => e.seq == n) || s.savedCrews.any fun (_, x) => x.crew.dbuf.any fun e => e.seq == n

/-- Room for one more entry in a crew's buffer: 64 bytes for each line of each instruction (R161). -/
def Crew.roomFor (c : Crew) (seq line : Nat) : Bool :=
  c.dbuf.any (fun e => e.seq == seq && e.addr / 64 == line) ||
  decide (64 * ((c.dbuf.map fun e => (e.seq, e.addr / 64)).eraseDups.length + 1) ≤ c.dbufLen)

/-- The performer of a word in flight, for its trap record. -/
def Op.cur (o : Op) (g : Nat) : Cur := ⟨.group g, o.word, o.prov, o.act, o.hix, o.guard, o.rwc⟩

/-- The pieces of an access as buffer entries. -/
def State.bufferEntries (s : State) (a : Access) (op : Option AtomOp) : List DEntry :=
  let (k, c) : Nat × Cur := match tget s.ops a.op with
    | none => (2, ⟨.none, 0, 0, [], none, none, 0⟩)
    | some o => (o.cls, { o.cur 0 with who := .none })
  (a.pieces.zip a.flats).map fun (x, f) =>
    ⟨a.uid, a.gidx, a.op, a.op, a.ctx, a.handle, k, f, x.size, x.value + x.value2 * 2 ^ (8 * x.size), op, a.tag, x.lane, x.off, c⟩

/-- A write of revision 1 whose group's earlier writes stand in the crew's buffer (R99, R156). -/
def Crew.ordersBehind (c : Crew) (a : Access) : Bool := a.strong && c.dbuf.any fun e => e.uid == a.uid && decide (e.seq < a.op)

/-- What the serial order by itself does with an access of a crew, at the home (R156 to R161). -/
def State.serialRule (s : State) (a : Access) (c : Crew) (l : Launch) (kind : OpKind) (shared : Bool) : Serial :=
  let flat := a.flats.headD 0
  let line := flat / 64
  let isHead := c.idx == l.head
  let o := s.ownerOf c.launch line
  let queued := if c.roomFor a.op line then Serial.buffer else .waits
  if c.ownsPad flat then .direct
  else if a.isAtom && !isHead then match kind with
    | .atom _ _ _ false => queued
    | .atom _ _ _ true | .ld _ _ | .lds _ | .store | .kld _ _ | .tld | .ard | .arrive _ _ _ | .register _ _ _ => .waits
  else if a.write || a.isAtom then match writeSerial o c.idx isHead shared (isOutside flat) with
    | .buffer => queued
    | .direct => .direct
    | .waits => .waits
    | .race w => .race w
  else if c.buffers line then .waits
  else match readSerial o c.idx l.head shared with
    | .direct => .direct
    | .buffer | .waits => .waits
    | .race w => .race w

/-- What the serial order does with an access, which a group under fence strengthening does not perform ahead of its buffered
writes (R99). -/
def State.serialVerdict (s : State) (a : Access) (c : Crew) (l : Launch) (kind : OpKind) (shared : Bool) : Serial :=
  match s.serialRule a c l kind shared with
  | .direct => if c.ordersBehind a then .waits else .direct
  | .buffer => .buffer
  | .waits => .waits
  | .race w => .race w

/-- Another group of the crew, or one of another launch: across a launch's crews the serial order keeps apart what RACECHK would
(R162). -/
def State.otherInCrew (s : State) (a : Access) (launch : Nat) (h : Holder) : Bool :=
  h.uid != a.uid && (h.crew == a.crew || match s.anyCrew h.crew with
    | none => true
    | some x => x.launch != launch)

/-- An access of a crew of a DETERM launch, at the home (R156 to R162): the serial order judges it first, then its claim. What it
refuses, it refuses with no holder's id. (DESIGN CHOICE: log 90) -/
def State.serialAccess (s : State) (id : Nat) (a : Access) (c : Crew) (l : Launch) (kind : OpKind) (e : Entry)
    (perform : State → State) : State :=
  let flat := a.flats.headD 0
  let claimed := fun (f : State → State) =>
    if e.racechk && a.plain then s.claimAccess id a (s.otherInCrew a c.launch) f else f s
  match s.serialVerdict a c l kind e.shared with
  | .waits => s.modAcc id fun x => { x with stage := .forHead }
  | .race w => s.refuse id a 11 2 (raceDetail (0xFFFFF, 0) w true)
  | .buffer => claimed fun s =>
    (s.modAnyCrew a.crew fun c => { c with dbuf := c.dbuf ++ s.bufferEntries a kind.atomOp }).modAcc id fun x =>
      { x with stage := .answered, res := a.pieces.map fun _ => .value 0 false }
  | .direct => claimed fun s =>
    if c.ownsPad flat then perform s
    else (perform s).keepOwner c.launch l c.idx (flat / 64) (a.write || a.isAtom) e.shared (isOutside flat)

/-! ### The port (R189 to R192, R215) -/

/-- Where a place lies for R91: the sector it is in, or the page map entry it waits for. -/
def Place.key : Place → Option (Nat × Nat)
  | .at_ f => some (0, sectorOf f)
  | .elsewhere p => some (1, p)
  | .denied _ | .window _ | .noFrame _ => none

/-- The place of an access's first piece, as its table entry stands. -/
def State.placeNow (s : State) (a : Access) : Place :=
  match s.ctx? a.ctx, a.pieces.head? with
  | some c, some p => judge s.mem (entryAt s.mem c a.handle) a.kind a.rights p.off p.size
  | _, _ => .denied [1]

/-- A tile word's access: fences alone order it against the group's others (R351). -/
def State.isTile (s : State) (a : Access) : Bool :=
  match tget s.ops a.op with
  | none => false
  | some o => o.cls &&& 48 != 0

/-- An access waits for its page (R215, R217). -/
def Access.waitsPage (a : Access) : Bool :=
  match a.stage with
  | .parked _ | .overflow _ => true
  | .toPort | .bank _ _ | .toHome | .forHead | .answered | .replay => false

/-- The page map entry of an access's page, where the object has one. -/
def State.pageOf (s : State) (a : Access) : Option Nat :=
  match s.ctx? a.ctx, a.pieces.head? with
  | some c, some p => (entryAt s.mem c a.handle).bind fun e => if pagedKind e.kind then some (e.pmeAt p.off) else none
  | _, _ => none

/-- The wait-table entry of a page holds an access of an admission of a group. -/
def State.entryHolds (s : State) (pme uid : Nat) : Bool :=
  (s.entryFor pme).any fun n => (tget s.waits n).any fun e => e.waiters.any fun w => match w with
    | .access k => (tget s.accs k).any (·.uid == uid)
    | .thread _ | .command _ | .station _ | .outside _ | .posted _ | .step _ => false

/-- The page whose wait-table entry an access goes to: the page is elsewhere, or the entry, not replayed yet, holds an access of its
group (R215). -/
def State.joins (s : State) (a : Access) : Option Nat :=
  match s.placeNow a with
  | .elsewhere p => some p
  | .at_ _ => (s.pageOf a).filter fun p => s.entryHolds p a.uid
  | .denied _ | .window _ | .noFrame _ => none

/-- An earlier access b of the group that a may not pass: one of its sector (R91), one that is still on its way to the wait-table
entry that a goes to (R215), and for a write of revision 1 every write (R99). Behind a parked access a joins the entry. -/
def State.holdsBack (s : State) (a b : Access) : Bool :=
  let k := (s.placeNow a).key
  (a.strong && b.strong) || match s.joins a with
  | some p => s.joins b == some p && !b.waitsPage
  | none => !(s.isTile a || s.isTile b) && ((k.isSome && (s.placeNow b).key == k) || (b.handle == a.handle && b.sector == a.sector))

/-- No earlier access of the group holds this one back. -/
def State.mayPass (s : State) (id : Nat) (a : Access) : Bool :=
  s.accs.all fun (n, b) => decide (id ≤ n) || b.uid != a.uid || b.isDone || !s.holdsBack a b

/-- The kind under which a word in flight performs. -/
def State.opKind (s : State) (n : Nat) : OpKind :=
  match tget s.ops n with
  | none => .store
  | some o => o.kind

/-- An access to a window (R169, R175, R177): reads give the bytes of R168; writes trap WINSTORE or are dropped; an atomic
on a discarding window returns the exclusive prefix from V, and cas returns V to every lane. -/
def windowResults (img : List Byte) (d : Nat) (op : Option AtomOp) (cur : List (Nat × Nat)) : List Piece → List PieceRes
  | [] => []
  | p :: r =>
    let v0 := leNat (windowBytes img d p.off p.size)
    match op with
    | none => .value v0 false :: windowResults img d op cur r
    | some o =>
      let v := match cur.find? (·.1 == p.off) with
        | some (_, x) => x
        | none => v0
      let next := if o = .cas then v0 else atomVal o (8 * p.size) v p.value p.value2
      .value v false :: windowResults img d op ((p.off, next) :: cur.filter (·.1 != p.off)) r

def State.windowAccess (s : State) (id : Nat) (a : Access) (kind : OpKind) (d : Nat) : State :=
  let img := s.recipe a.ctx
  if (a.write || a.isAtom) && !windowDiscards img d then s.refuse id a 4 3 0
  else s.modAcc id fun x => { x with stage := .answered, res := windowResults img d kind.atomOp [] a.pieces }

/-! ### Urgent reads (R80) -/

/-- The controller that holds the place of an access, where the place is in device memory: the place that it has at its home, or
that its port would find now. -/
def State.controllerOf (s : State) (a : Access) : Option Nat :=
  if a.stage == .toHome then (bankAt (a.flats.headD 0)).map (·.1)
  else match s.placeNow a with
    | .at_ f => (bankAt f).map (·.1)
    | .denied _ | .elsewhere _ | .window _ | .noFrame _ => none

/-- An urgent read that may go on waits at a controller. (DEDUCED: log 66) -/
def State.urgentAt (s : State) (ctl : Nat) : Bool :=
  s.accs.any fun (n, x) => x.urgent && s.controllerOf x == some ctl
    && (x.stage == .toPort && s.mayPass n x || x.stage == .toHome && !s.bankHeld (x.flats.headD 0))

/-- A read without the bit, of the bytes at a flat address, waits behind urgent reads of its controller. (DEDUCED: log 66) -/
def State.readWaits (s : State) (flat : Nat) : Bool := (bankAt flat).any fun b => s.urgentAt b.1

/-- The same for an access of a group. (DEDUCED: log 66) -/
def State.givesWay (s : State) (a : Access) : Bool :=
  !a.write && !a.isAtom && !a.urgent && match s.controllerOf a with
  | none => false
  | some ctl => s.urgentAt ctl

/-- An access waits behind a bank's refresh (R440). -/
def State.holdAccess (s : State) (id : Nat) (b : Nat × Nat) : State :=
  (s.modAcc id fun x => { x with stage := .bank b.1 b.2 }).joinBank b (.access id)

/-- At the home: the refresh hold, crew ownership and claims, then the access itself (R114, R157, R440). A claim is
checked by CLAIM_CHECK, an arrival made by BARRIER_ARRIVAL. -/
def State.atHome (s : State) (id : Nat) (a : Access) (e : Entry) : State :=
  let kind := s.opKind a.op
  let flat := a.flats.headD 0
  let cacheable := (pagedKind a.kind || a.kind == 4 || a.kind == 5) && !e.racechk
  let perform := fun (s : State) => s.performAccess id a kind (cacheable && (s.serialLaunch a.crew).isNone)
  match s.heldBank flat with
  | some b => s.holdAccess id b
  | none => go kind perform
where
  go (kind : OpKind) (perform : State → State) : State :=
    match kind with
    | .arrive _ _ _ => s.modAcc id fun x => { x with stage := .toHome }
    | .register isWord v scope =>
      -- the registration is made at the home, which answers at once when the condition holds (R331, R333)
      let flat := a.flats.headD 0
      let w : Wait := if isWord then .word flat v else .phase flat (v.getLsbD 0) scope
      (s.modGroup a.group fun gr => { gr with wait := w, met := waitHolds s.mem w }).modAcc id fun x =>
        { x with stage := .answered, res := a.pieces.map fun _ => .value 0 false }
    | .ld _ _ | .lds _ | .store | .kld _ _ | .atom _ _ _ _ | .tld | .ard =>
      match s.serialLaunch a.crew with
      | some (c, l) => s.serialAccess id a c l kind e perform
      | none => if e.racechk && a.plain then s.modAcc id fun x => { x with stage := .toHome } else perform s

/-- The denial of a piece (R189, R192). -/
def denialOf (m : List Host.Cell) (a : Access) (e : Entry) (p : Piece) : PieceRes :=
  let fails := portFails m (some e) a.kind a.rights p.off p.size
  .fail ⟨p.lane, denialCode fails, 1, dw (fails.headD 1), a.handle, p.off⟩

/-- Some pieces are denied and others are not: those that are denied are answered on their own (R192). -/
def State.splitDenied (s : State) (id : Nat) (a : Access) (e : Entry) (bad ok : List Piece) : State :=
  let b : Access := { a with pieces := bad, stage := .answered, res := bad.map (denialOf s.mem a e), flats := [] }
  ((s.addAccesses [b]).modOp a.op fun o => { o with left := o.left + 1 }).modAcc id fun x => { x with pieces := ok }

/-- The pieces of an access that its entry allows go on (R189, R214, R215, R439): the access parks when the page is elsewhere, or its
wait-table entry still holds accesses of the group, and else goes to its home. All pieces lie in one sector, so the place of the first says which. -/
def State.portAllowed (s : State) (id : Nat) (a : Access) (e : Entry) : Out :=
  let s1 := if a.pieces.all fun p => (s.watchHits a.ctx a.handle p.off p.size a.write).isEmpty then s
    else s.modAcc id fun x => { x with watch := true }
  let places := a.pieces.map fun p => judge s1.mem (some e) a.kind a.rights p.off p.size
  match places.headD (.denied [1]) with
  | .denied _ => .next s1
  | .noFrame f => .fault (.noSuchFrame f)
  | .elsewhere pme => .next (s1.parkAccess id pme)
  | .window d => .next (s1.windowAccess id a (s1.opKind a.op) d)
  | .at_ _ =>
    let flats := places.map fun x => match x with
      | .at_ f => f
      | .denied _ | .elsewhere _ | .window _ | .noFrame _ => 0
    if let some pme := s.joins a then .next (s1.parkAccess id pme)
    else if s.hostFails (flats.headD 0) then .next (s1.refuse id a 9 1 10)
    else if s.peerFails (flats.headD 0) then .next (s1.refuse id a 9 1 9)
    else .next ((s1.modAcc id fun x => { x with flats := flats }).atHome id { a with flats := flats } e)

/-- The bytes of an object that an access spans: the first, and how many. -/
def Access.span (a : Access) : Nat × Nat :=
  let lo := a.pieces.foldl (fun n p => min n p.off) ((a.pieces.map (·.off)).headD 0)
  (lo, a.pieces.foldl (fun n p => max n (p.off + p.size)) 0 - lo)

/-- A refresh holds what the port reads to judge an access (R440). -/
def State.judgeBank (s : State) (a : Access) : Option (Nat × Nat) :=
  s.tableBank (portOf a.core) a.ctx a.handle a.kind a.rights a.span.1 a.span.2

/-- A memory port takes an access (R189 to R192): it judges every piece on its own, by one version of the entry. -/
def State.portAccess (s : State) (id : Nat) (a : Access) : Out :=
  match a.pieces with
  | [] => .next (s.modAcc id fun x => { x with stage := .answered })
  | _ :: _ =>
    let (s1, e) := s.portEntry (portOf a.core) a.ctx a.handle a.kind a.rights a.span.1 a.span.2
    match e with
    | none => .next (s1.refuse id a (denialCode [1]) 1 1)
    | some e =>
      let allowed := fun (p : Piece) => (portFails s1.mem (some e) a.kind a.rights p.off p.size).isEmpty
      let ok := a.pieces.filter allowed
      let bad := a.pieces.filter fun p => !allowed p
      if bad.isEmpty then s1.portAllowed id a e
      else if ok.isEmpty then
        .next (s1.modAcc id fun x => { x with stage := .answered, res := a.pieces.map (denialOf s1.mem a e) })
      else (s1.splitDenied id a e bad ok).portAllowed id { a with pieces := ok } e

/-! ### A word leaves (R77, R159, R201) -/

/-- Where an access of a word stands at first: a value-returning atomic of a crew that is not head waits at once for its crew's turn,
unless it is denied or meets the crew's own scratchpad (R159, R161). (DEDUCED: log 49) -/
def State.firstStage (s : State) (kind : OpKind) (a : Access) : Stage :=
  match kind, s.serialLaunch a.crew with
  | .atom _ _ _ true, some (c, l) =>
    if c.idx == l.head then .toPort
    else match s.placeNow a with
      | .at_ f => if c.ownsPad f then .toPort else .forHead
      | .elsewhere _ => .forHead
      | .denied _ | .window _ | .noFrame _ => .toPort
  | _, _ => .toPort

/-- An access of a group's word. -/
def mkAccess (s : State) (op g : Nat) (gr : Group) (x : Shape0) (sector : Nat) (ps : List Piece) : Access :=
  { op := op, uid := gr.uid, gidx := gr.gidx, group := g, gid := gr.gid, ctx := gr.ctx, core := s.coreOf gr, crew := gr.crew, kind := x.cap.kind,
    handle := x.cap.handle, rights := x.rights, sector := sector, pieces := ps, write := x.write, isAtom := x.isAtom,
    plain := x.plain, tag := x.tag, stage := .toPort, flats := [], res := [], urgent := false, upgraded := false, ser := s.serial g,
    watch := false, replays := 0, cpol := gr.cpol, strong := (x.write || x.isAtom) && s.strengthened gr }

/-- A word enters the memory path: its op, then its accesses (R77, R201). -/
def State.send (s : State) (g : Nat) (gr : Group) (kind : OpKind) (counted : Bool) (cls : Nat) (x : Shape0) (ps : List Piece) : State :=
  let groups := bySector (s.sectorShift gr.ctx x.cap.handle) ps
  let id := s.nextId
  let (s, sampled) := s.sampleTick gr
  let s := if sampled then s.sampleHold g id else s
  let op : Op :=
    { group := g, gid := gr.gid, kind := kind, counted := counted, cls := cls, word := s.cur.word, prov := s.cur.prov,
      hix := s.cur.hix, guard := s.cur.guard, rwc := s.cur.rwc, act := s.cur.act,
      left := groups.length, fails := [], buf := [], watch := false, sample := sampled, sectors := groups.length,
      replays := 0, last := 0 }
  State.addAccesses { s with ops := tset s.ops id op, nextId := id + 1 }
    (groups.map fun (k, q) => let a := mkAccess s id g gr x k q; { a with stage := s.firstStage kind a })

/-! ### Answers (R77, R319, R321) -/

/-- A load's value as its registers take it (R320). -/
def loadLane (l : Lane) (ty : LdTy) (vd v : Nat) : Lane :=
  match ty with
  | .n8 | .n16 => l.wr vd (BitVec.ofNat 32 v)
  | .s8 => l.wr vd (BitVec.ofInt 32 (sval 8 v))
  | .s16 => l.wr vd (BitVec.ofInt 32 (sval 16 v))
  | .b32 => l.wrN vd v 1
  | .b64 => l.wrN vd v 2
  | .b128 => l.wrN vd v 4

/-- One answered piece delivered to its group (R320, R323, R337). -/
def deliverPiece (gr : Group) (kind : OpKind) (lane v : Nat) (tag : Bool) : Group :=
  match kind with
  | .ld ty vd => gr.onLanes [lane] fun _ l => loadLane l ty vd v
  | .lds sd => gr.ws sd (dw v)
  | .kld kd keep => gr.wk kd ⟨BitVec.ofNat 128 v, tag && keep⟩
  | .atom size _ vd true => gr.onLanes [lane] fun _ l => l.wrN vd v (size / 4)
  | .atom _ _ _ false | .store | .tld | .ard | .arrive _ _ _ | .register _ _ _ => gr

/-- The answered pieces of an access delivered in order. -/
def deliverAll (gr : Group) (kind : OpKind) : List (Piece × PieceRes) → Group
  | [] => gr
  | (p, .value v tag) :: r => deliverAll (deliverPiece gr kind p.lane v tag) kind r
  | (_, .fail _) :: r => deliverAll gr kind r

/-- The failures among answers. -/
def failsOf : List PieceRes → List Fail
  | [] => []
  | .fail f :: r => f :: failsOf r
  | .value _ _ :: r => failsOf r

/-- The fault set is ACT whole, and the word performs once for its group. -/
def OpKind.once : OpKind → Bool
  | .lds _ | .kld _ _ | .arrive _ _ _ | .register _ _ _ | .tld | .ard => true
  | .ld _ _ | .store | .atom _ _ _ _ => false

/-- The failure reported: the lowest code, at the lowest lane (R319). -/
def leastFail (fs : List Fail) : Option Fail :=
  fs.foldl (fun b f => match b with
    | none => some f
    | some x => if f.code < x.code ∨ (f.code = x.code ∧ f.lane < x.lane) then some f else some x) none

/-- The fault set and the retry set of a word's failures, of which f is the one reported (R199, R319). A lane number at or beyond
1,024 stands for the whole word. -/
def failSets (f : Fail) (once : Bool) (act : List Nat) (fs : List Fail) : List Nat × List Nat :=
  if once || decide (1024 ≤ f.lane) then (act, act)
  else (sortNat ((fs.filter (·.code == f.code)).map (·.lane)), sortNat (fs.map (·.lane)))

/-- The trap of a word whose answers are all in, if some failed (R199, R319). -/
def opTrap (gr : Group) (g : Nat) (o : Op) : Option Trap :=
  match leastFail o.fails with
  | none => none
  | some f =>
    let (fault, retry) := failSets f o.kind.once o.act o.fails
    some (trapOf gr (o.cur g) f.code f.origin fault retry f.detail f.handle f.ooff)

/-- The record of a word that no live group holds (R203, R213). (DESIGN CHOICE: log 90) -/
def loneTrap (c : Cur) (f : Fail) (once : Bool) (fs : List Fail) : Trap :=
  let (fault, retry) := failSets f once c.act fs
  { code := f.code, cls := classOf f.code, origin := f.origin, skid := 0, instr := c.word, prov := c.prov, rwc := c.rwc,
    handle := f.handle, ooff := f.ooff, fault := fault, retry := retry, act := c.act, detail := f.detail,
    station := fld c.prov.toNat 29 20, pass := 0, blk := 0, hix := c.hix, guard := c.guard, gid := 0xFFFFF, stack := 0,
    debug := false, early := false, async := false, raised := false }

/-- A crew takes a trap that none of its live groups holds: it halts, or without one its thread gets the event (R206, R213). -/
def State.crewTrap (s : State) (k : Nat) (t : Trap) : State :=
  match s.anyCrew k with
  | none => s
  | some c => if (s.crewGroups k).isEmpty then s.notify c.core c.ctx (t.words 4) else s.startHalt k noGroup t false

/-- A word of a group that is gone whose access crew ownership or a claim refused: RACE on its crew (R157, R158). Its other
failures end with it (R211). (DEDUCED: log 55; DESIGN CHOICE: log 90) -/
def State.orphanRace (s : State) (crew : Nat) (o : Op) : State :=
  match (s.group? o.group).isSome, s.serialLaunch crew, leastFail (o.fails.filter (·.code == 11)) with
  | false, some _, some f => s.crewTrap crew (loneTrap (o.cur 0) f o.kind.once o.fails)
  | true, _, _ | false, none, _ | false, some _, none => s

/-- A watchpoint's trap: the debugger receives it, and nothing is retried (R429). -/
def watchTrap (gr : Group) (g : Nat) (o : Op) : Trap :=
  { trapOf gr (o.cur g) 7 5 [] [] (dw (2 ^ 62)) 0 0 with debug := true }

/-- The last answer of a word is in: it leaves the counter, and traps if an answer failed. -/
def State.finishOp (s : State) (n : Nat) (o : Op) : State :=
  let s1 := { s with ops := tdel s.ops n, engine := s.engine.filter fun e => e.op != some n }
  match s1.group? o.group with
  | none => if o.sample then s1.ghostDone n (o.sampleBody s.tick) else s1
  | some gr =>
    -- a held group goes on, unless `bars` made it wait (R200)
    let s2 := s1.modGroup o.group fun gr => if gr.wait = .answer n then { gr with wait := .none } else gr
    let s3 := match opTrap gr o.group o with
      | none => s2
      | some t => (s2.modGroup o.group fun gr => match o.kind with
          | .register _ _ _ => { gr with wait := .none, met := false }
          | .ld _ _ | .lds _ | .store | .kld _ _ | .atom _ _ _ _ | .tld | .ard | .arrive _ _ _ => gr).takeTrap o.group t
    let s4 := if o.watch then s3.takeTrap o.group (watchTrap gr o.group o) else s3
    if o.sample then s4.sampleDone o.group n (o.sampleBody s.tick) else s4

/-- The bytes a `tld` has received: the row is the piece's lane above 1,024, and `value` the place in the row image. -/
def tileBytes : List (Piece × PieceRes) → List (Nat × Nat × Byte)
  | [] => []
  | (p, .value v _) :: r =>
    (if p.lane < 1024 then [] else (leBytes v p.size).zipIdx.map fun (b, i) => (p.lane - 1024, p.value + i, b)) ++ tileBytes r
  | (_, .fail _) :: r => tileBytes r

/-- A word in flight loses an access whose answer has returned (R77). -/
def State.answered (s : State) (id : Nat) (a : Access) (o : Op) : State :=
  let o1 := { o with left := o.left - 1, fails := o.fails ++ failsOf a.res,
                     buf := if o.kind = .tld then o.buf ++ tileBytes (a.pieces.zip a.res) else o.buf, watch := o.watch || a.watch,
                     replays := o.replays + a.replays, last := (a.pieces.map (·.lane)).foldl max 0 }
  let s1 := { s with accs := tdel s.accs id, ops := tset s.ops a.op o1 }
  let s2 := s1.modGroup o.group fun gr => deliverAll gr o.kind (a.pieces.zip a.res)
  -- a `tld` that did not fail is finished by the engine, which writes its tile (R344), while its group is there (R211)
  if o1.left = 0 && !(o.kind == .tld && o1.fails.isEmpty && s.engine.any (·.op == some a.op)) then (s2.orphanRace a.crew o1).finishOp a.op o1
  else s2

end Sys2Proof.Machine
end

