-- ==== Sys2Proof/Machine/Memory.lean ====
section
/-! DEFINITION. Memory words: per-lane loads, stores and atomics (R318 to R325), scalar loads and stores of groups and
threads (R274), fences (R96 to R98, R326, R327), barrier words and waits (R328 to R333), capability words (R335 to R339),
`pfch` (R378) and `sinv` (R385). -/
namespace Sys2Proof.Machine

/-! ### Per-lane accesses -/

/-- The window offset of each lane of ACT (R318). -/
def laneOffs (s : State) (gr : Group) (a : BitVec 7) (imm : Int) : List LaneOff :=
  s.cur.act.map fun i => (i, (((gr.lane i).rd a.toNat).toNat : Int) + imm)

/-- The object offset of a checked window offset (R184). -/
def objOff (c : Cap) (off : Int) : Nat := ((c.low : Int) + off).toNat

/-- A per-lane access: every lane is checked, then the word enters the memory path. `val` gives a lane's data. -/
def laneAccess (s : State) (checks : Group → List (Bool × Nat)) (k : BitVec 4) (a : BitVec 7) (takesHix : Bool) (imm : Int)
    (size need : Nat) (kind : OpKind) (counted : Bool) (cls : Nat) (write isAtom : Bool) (val : Lane → Nat × Nat) : Out :=
  actWord s takesHix checks anyRole fun g gr =>
    let c := gr.rk k.toNat
    let offs := laneOffs s gr a imm
    match laneFault c size need offs with
    | some (code, lanes) => s.checkTrap g c code lanes
    | none => s.send g gr kind counted cls ⟨c, need, write, isAtom, !isAtom, none⟩
        (offs.map fun (i, off) => let v := val (gr.lane i); ⟨i, objOff c off, size, v.1, v.2⟩)

/-- Access sizes (R252). -/
def LdTy.size : LdTy → Nat
  | .n8 | .s8 => 1
  | .n16 | .s16 => 2
  | .b32 => 4
  | .b64 => 8
  | .b128 => 16

def ldSize (t : LdTy) : Nat := LdTy.size t
def stSize : StTy → Nat
  | .b8 => 1
  | .b16 => 2
  | .b32 => 4
  | .b64 => 8
  | .b128 => 16

/-- Registers that a value of a size takes. -/
def regsFor (size : Nat) : Nat := if size ≤ 4 then 1 else size / 4

/-- `ld` (R320). -/
def execLd (d : BitVec 7) (k : BitVec 4) (a : BitVec 7) (t : LdTy) (i : BitVec 4) (s : State) : Out :=
  let n := ldSize t
  laneAccess s (fun gr => [(!(vOk gr d.toNat (regsFor n) && vOk gr a.toNat 1), 5)]) k a true (immS s.cur.hix 4 i.toNat * n)
    n rR (.ld t d.toNat) true 1 false false fun _ => (0, 0)

/-- `st` (R322). -/
def execSt (d : BitVec 7) (k : BitVec 4) (a : BitVec 7) (t : StTy) (i : BitVec 4) (s : State) : Out :=
  let n := stSize t
  laneAccess s (fun gr => [(!(vOk gr d.toNat (regsFor n) && vOk gr a.toNat 1), 5)]) k a true (immS s.cur.hix 4 i.toNat * n)
    n rW .store false 2 true false fun l => (l.rdN d.toNat (regsFor n) % 2 ^ (8 * n), 0)

/-- An atomic of n bytes (R323, R324): cas takes its compare value, then the new value. -/
def atomWord (s : State) (d : BitVec 7) (k : BitVec 4) (a : BitVec 7) (o : AtomOp) (n : Nat) (returns : Bool) : Out :=
  let w := n / 4
  let need := if o = .cas then 2 * w else w
  laneAccess s (fun gr => [(!(vOk gr d.toNat need && vOk gr a.toNat 1), 5)]) k a false 0 n rA (.atom n o d.toNat returns)
    returns 3 true true fun l => (l.rdN d.toNat w, if o = .cas then l.rdN (d.toNat + w) w else 0)

/-! An atomic performs at its home (R100, R324), so that every scope is reached once it has. -/

def execAtom (d : BitVec 7) (k : BitVec 4) (a : BitVec 7) (o : AtomOp) (_c : Scope) (s : State) : Out := atomWord s d k a o 4 true
def execAtomx (d : BitVec 7) (k : BitVec 4) (a : BitVec 7) (o : AtomOp) (_c : Scope) (s : State) : Out := atomWord s d k a o 4 false
def execAtom64 (d : BitVec 7) (k : BitVec 4) (a : BitVec 7) (o : AtomOp) (_c : Scope) (s : State) : Out := atomWord s d k a o 8 true
def execAtomx64 (d : BitVec 7) (k : BitVec 4) (a : BitVec 7) (o : AtomOp) (_c : Scope) (s : State) : Out := atomWord s d k a o 8 false

/-! ### Once for the group -/

/-- The lane number of a piece that stands for the whole word. -/
def wholeWord : Nat := 1024

/-- The word traps on an issue check with fault set ACT (R274, R328, R335). -/
def State.onceTrap (s : State) (g : Nat) (c : Cap) (code : Nat) (off : Int) : State :=
  let s := match s.group? g with
    | none => s
    | some gr => s.sampleRefused g gr
  s.trapNow g code s.cur.act 0 c.handle (cutInt 40 ((c.low : Int) + off))

/-- One access for the group at an exact window offset, of kinds that are accepted (R328). -/
def State.onceAccess (s : State) (g : Nat) (gr : Group) (c : Cap) (off : Int) (size need : Nat) (kinds : Nat → Bool)
    (kind : OpKind) (counted : Bool) (cls : Nat) (write isAtom plain : Bool) (tag : Option Bool) (value : Nat) : State :=
  match issueCheck c off size need with
  | some code => s.onceTrap g c code off
  | none =>
    if kinds c.kind then s.send g gr kind counted cls ⟨c, need, write, isAtom, plain, tag⟩ [⟨wholeWord, objOff c off, size, value, 0⟩]
    else s.onceTrap g c 9 off

def anyKind (_ : Nat) : Bool := true

/-! ### A thread's access (R274, R291, R335) -/

/-- Plain accesses to the object may be held in a core's read cache (R90). -/
def Entry.cacheable (e : Entry) : Bool := e.kind != 2 && e.kind != 3 && !e.racechk

/-- An admitted store of a thread is refused by its peer, or by the port that led there: the thread takes L2CAP at it (R219, R439).
(DEDUCED: log 67) -/
def State.refusePosted (s : State) (p : Posted) : State :=
  s.l2faultAt ((s.threadOf p.core p.ctx).getD (threadRef p.core 0)) p.ctx p.pc p.word .cap p.detail

/-- An admitted store of a thread, which is no longer among them, performs (R90, R91, R95), or finds no port that leads to its peer:
the thread takes L2CAP at it (R219, R439). (DEDUCED: log 67) -/
def State.settlePosted (s : State) (p : Posted) : State :=
  if s.peerDown p.flat then s.refusePosted p
  else
    let s1 := s.runsWrite p.ctx p.core [(p.flat, leBytes p.value p.size)]
    if p.tag = some true && !isOutside p.flat then { s1 with tags := tagSet s1.tags (p.flat / 16) } else s1

/-- An admitted store is settled at a moment of its own. -/
def State.performPosted (s : State) (n : Nat) : State :=
  match tget s.posted n with
  | none => s
  | some p => { s with posted := tdel s.posted n }.settlePosted p

/-- The admitted stores that a test picks are settled, in order. -/
def State.settleAll (s : State) (f : Posted → Bool) : State :=
  (s.posted.filter fun (_, p) => f p).foldl (fun s x => s.settlePosted x.2) { s with posted := s.posted.filter fun (_, p) => !f p }

/-- A store of the thread of a context on a core. -/
def Posted.isOf (p : Posted) (core ctx : Nat) : Bool := p.core == core && p.ctx == ctx

/-- The admitted stores of a thread that have not performed, in order. -/
def State.postedOf (s : State) (core ctx : Nat) : List (Nat × Posted) := s.posted.filter fun (_, p) => p.isOf core ctx

/-- The admitted stores of a thread perform, in order. -/
def State.drainPosted (s : State) (core ctx : Nat) : State := s.settleAll fun p => p.isOf core ctx

/-- No refresh holds an admitted store of the thread (R440). -/
def State.drainable (s : State) (core ctx : Nat) : Bool := (s.postedOf core ctx).all fun (_, p) => !s.bankHeld p.flat

/-- An admitted store may perform: no refresh holds it or has held it with others still in front, and none of its thread's to the
same sector is in front of it (R91, R274, R440). -/
def State.postedDue (s : State) (n : Nat) (p : Posted) : Bool :=
  !s.bankHeld p.flat && !s.inBank (.posted n) && (s.postedOf p.core p.ctx).all fun (k, q) => decide (n ≤ k) || sectorOf q.flat != sectorOf p.flat

/-- A thread's read: its earlier stores to the sector have performed; the bytes come from the core's copy, where there is one
that may serve it and does, or from the home (R90, R91). -/
def State.threadRead (s : State) (t : Nat) (th : Thread) (e : Entry) (f n : Nat) : State × PieceRes :=
  let core := threadCore t
  let sec := sectorOf f
  let s1 := s.settleAll fun p => p.isOf core th.ctx && sectorOf p.flat == sec
  match e.cacheable && Config.useCopy (2 * s.tick + 1), s1.cachedSector core th.ctx sec with
  | true, some line => (s1, readPiece s1 (some line) f n)
  | _, _ => (s1.renewSector core th.ctx sec e.cacheable, readPiece s1 none f n)

/-- A thread's store leaves: it performs at some later moment (R95, R327), behind what a refresh of its bank holds (R440). -/
def State.threadStore (s : State) (t : Nat) (th : Thread) (c : Cap) (off : Int) (f n v : Nat) (tag : Option Bool) : State :=
  let s1 := { s with
    posted := tset s.posted s.nextId ⟨threadCore t, th.ctx, c.handle, f, n, v, tag, s.cur.word, th.pc, cutInt 32 ((c.low : Int) + off)⟩
    nextId := s.nextId + 1 }
  match s.heldBank f with
  | some b => s1.joinBank b (.posted s.nextId)
  | none => s1

/-- A thread's instruction waits behind a bank's refresh: `replay`, an access of it, and else its fetch (R440). -/
def State.holdThread (s : State) (t : Nat) (b : Nat × Nat) (replay : Bool) : State :=
  (s.modThread t fun th => { th with parked := some bankRef, replay := replay }).joinBank b (.thread t)

/-- A thread's access of some bytes of an object, checked and judged by one version of the entry; the instruction is
taken again after a page it parked on has come (R215). A failed check, a port denial and a refusal take L2CAP. (DEDUCED: log 67) -/
def threadAccess (s : State) (t : Nat) (th : Thread) (c : Cap) (off : Int) (size need : Nat) (write : Bool)
    (atFlat : State → Entry → Nat → State) (atWindow : State → Nat → State) : Out :=
  let o := objOff c off
  let detail := cutInt 32 ((c.low : Int) + off)
  match capCheck c off size need with
  | some _ => .next (s.l2fault t .cap detail)
  | none => match s.tableBank (portOf (threadCore t)) th.ctx c.handle c.kind need o size with
    | some b => .next (s.holdThread t b true)
    | none =>
    let (s1, e) := s.portEntry (portOf (threadCore t)) th.ctx c.handle c.kind need o size
    match e, judge s1.mem e c.kind need o size with
    | none, _ | _, .denied _ => .next (s1.l2fault t .cap detail)
    | some _, .noFrame f => .fault (.noSuchFrame f)
    | some _, .elsewhere pme =>
      let (s2, n) := s1.joinEntry pme (.thread t)
      .next (s2.modThread t fun th => { th with parked := some n, replay := true })
    | some _, .window d =>
      if write && !windowDiscards (s1.recipe th.ctx) d then .next (s1.l2fault t .cap detail)
      else .next (atWindow (s1.watchReport 2 th.ctx c.handle o size 0 write) d)
    | some e, .at_ f =>
      if s.hostFails f || s.peerFails f then .next (s1.l2fault t .cap detail)
      else match s1.rangeBank f size with
        | some b => if write then .next (atFlat (s1.watchReport 2 th.ctx c.handle o size 0 write) e f) else .next (s1.holdThread t b true)
        | none =>
          if !write && s1.readWaits f then .next s1
          else .next (atFlat (s1.watchReport 2 th.ctx c.handle o size 0 write) e f)

/-- A thread's scalar or capability access: a misaligned one takes L2ALIGN (R219). (DEDUCED: log 67) -/
def threadScalar (s : State) (t : Nat) (th : Thread) (c : Cap) (off : Int) (size need : Nat) (write : Bool)
    (atFlat : State → Entry → Nat → State) (atWindow : State → Nat → State) : Out :=
  if misaligned c off size then .next (s.l2fault t .align (cutInt 32 ((c.low : Int) + off)))
  else threadAccess s t th c off size need write atFlat atWindow

/-- The value and tag of a read. -/
def PieceRes.val : PieceRes → Nat × Bool
  | .value v tag => (v, tag)
  | .fail _ => (0, false)

/-! ### lds and sts (R274) -/

/-- `lds` of n bytes; register a counts as an unsigned value, as the registers of the other memory words do. (DESIGN CHOICE: log 100) -/
def ldsWord (s : State) (d : BitVec 5) (k : BitVec 4) (a : BitVec 5) (i : BitVec 8) (n : Nat) : Out :=
  match s.cur.who with
  | .none => .refused .noAgent
  | .group _ => actWord s true (fun _ => []) anyRole fun g gr =>
      s.onceAccess g gr (gr.rk k.toNat) (((gr.rs a.toNat).toNat : Int) + immS s.cur.hix 8 i.toNat) n rR anyKind (.lds d.toNat)
        true 1 false false true none 0
  | .thread t => match s.thread? t with
    | none => .refused .noAgent
    | some th =>
      let c := th.rk k.toNat
      let off : Int := ((th.rl a.toNat).toNat : Int) + sval 8 i.toNat
      threadScalar s t th c off n rR false
        (fun s e f => let (s1, r) := s.threadRead t th e f n; s1.threadDone t fun th => th.wl d.toNat (dw r.val.1))
        (fun s w => s.threadDone t fun th' => th'.wl d.toNat (dw (leNat (windowBytes (s.recipe th.ctx) w (objOff c off) n))))

/-- `sts` of n bytes. (DESIGN CHOICE: log 100) -/
def stsWord (s : State) (d : BitVec 5) (k : BitVec 4) (a : BitVec 5) (i : BitVec 8) (n : Nat) : Out :=
  match s.cur.who with
  | .none => .refused .noAgent
  | .group _ => actWord s true (fun _ => []) anyRole fun g gr =>
      s.onceAccess g gr (gr.rk k.toNat) (((gr.rs a.toNat).toNat : Int) + immS s.cur.hix 8 i.toNat) n rW anyKind .store
        false 2 true false true none ((gr.rs d.toNat).toNat % 2 ^ (8 * n))
  | .thread t => match s.thread? t with
    | none => .refused .noAgent
    | some th =>
      threadScalar s t th (th.rk k.toNat) (((th.rl a.toNat).toNat : Int) + sval 8 i.toNat) n rW true
        (fun s _ f => (s.threadStore t th (th.rk k.toNat) (((th.rl a.toNat).toNat : Int) + sval 8 i.toNat) f n
          ((th.rl d.toNat).toNat % 2 ^ (8 * n)) none).threadDone t id)
        (fun s _ => s.threadDone t id)

def execLdsN8 (d : BitVec 5) (k : BitVec 4) (a : BitVec 5) (i : BitVec 8) (s : State) : Out := ldsWord s d k a i 1
def execLdsN16 (d : BitVec 5) (k : BitVec 4) (a : BitVec 5) (i : BitVec 8) (s : State) : Out := ldsWord s d k a i 2
def execLdsN32 (d : BitVec 5) (k : BitVec 4) (a : BitVec 5) (i : BitVec 8) (s : State) : Out := ldsWord s d k a i 4
def execLdsB64 (d : BitVec 5) (k : BitVec 4) (a : BitVec 5) (i : BitVec 8) (s : State) : Out := ldsWord s d k a i 8
def execStsB8 (d : BitVec 5) (k : BitVec 4) (a : BitVec 5) (i : BitVec 8) (s : State) : Out := stsWord s d k a i 1
def execStsB16 (d : BitVec 5) (k : BitVec 4) (a : BitVec 5) (i : BitVec 8) (s : State) : Out := stsWord s d k a i 2
def execStsB32 (d : BitVec 5) (k : BitVec 4) (a : BitVec 5) (i : BitVec 8) (s : State) : Out := stsWord s d k a i 4
def execStsB64 (d : BitVec 5) (k : BitVec 4) (a : BitVec 5) (i : BitVec 8) (s : State) : Out := stsWord s d k a i 8

/-! ### Fences -/

/-- Scopes as numbers (R88). -/
def scopeNum : Scope → Nat
  | .group => 0
  | .core => 1
  | .cluster => 2
  | .die => 3
  | .device => 4
  | .system => 5

/-- Words of a group in the classes of a mask that a fence waits for, whatever its scope: those in flight, and those whose write a
crew's buffer holds (R97, R156). -/
def State.preOps (s : State) (g : Nat) (mask : Nat) : List Nat :=
  let asked := fun (cls : Nat) => cls &&& mask != 0
  let flight := (s.ops.filter fun (_, o) => o.group == g && asked o.cls).map (·.1)
  let held := match s.group? g with
    | none => []
    | some gr => match s.crew? gr.crew with
      | none => []
      | some c => (c.dbuf.filter fun e => e.uid == gr.uid && asked e.cls).map (·.seq)
  sortNat (flight ++ held)

/-- Copy commands of a group that a fence waits for (R97); a `qfence` makes no access. -/
def State.preCmds (s : State) (g : Nat) (mask : Nat) : List Nat :=
  if mask &&& 12 = 0 then [] else (s.cmds.filter fun (_, c) => c.group == g && c.fn != 5).map (·.1)

/-- A word in flight has performed: no engine holds it, all its accesses have their answers on the way, and no crew's buffer
holds a write of it (R97, R156). -/
def State.opPerformed (s : State) (n : Nat) : Bool :=
  (s.engine.all fun e => e.op != some n) && (s.accs.all fun (_, a) => a.op != n || a.isDone) && !s.isBuffered n

/-- The words and commands a fence waits for have performed (R97). -/
def State.preDone (s : State) (ops cmds : List Nat) : Bool := ops.all s.opPerformed && cmds.all fun n => (tget s.cmds n).isNone

/-- A fence is over: cached lines go, and the region ends (R98, R326). -/
def State.fenceOver (s : State) (g : Nat) (drop ends : Bool) : State :=
  let s1 := match s.group? g with
    | none => s
    | some gr => if drop then s.dropLines (s.coreOf gr) gr.ctx else s
  if ends then s1.release g else s1

/-- `fence` (R96 to R98, R326, R327): with R, W, MR or MW in Q the group waits for what P names; with only CR or CW there its copy
commands do, and it goes on; with P or Q empty nothing is ordered. A thread's fence has its admitted stores perform.
(DESIGN CHOICE: log 89) -/
def execFence (p q : BitVec 6) (c : Scope) (s : State) : Out :=
  let drop := q.getLsbD 0 && decide (2 ≤ scopeNum c)
  match s.cur.who with
  | .none => .refused .noAgent
  | .thread t => match s.thread? t with
    | none => .refused .noAgent
    | some th =>
      let drains := p.getLsbD 1 && q.toNat &&& 3 != 0
      if drains && !s.drainable (threadCore t) th.ctx then .next s
      else
        let s1 := if drains then s.drainPosted (threadCore t) th.ctx else s
        .next ((if drop then s1.dropLines (threadCore t) th.ctx else s1).threadDone t id)
  | .group _ => actWord s false (fun _ => []) anyRole fun g _ =>
      let ends := p.toNat &&& 3 != 0
      let ops := s.preOps g p.toNat
      let cmds := s.preCmds g p.toNat
      if p ≠ 0 ∧ q.toNat &&& 0x33 ≠ 0 then s.modGroup g fun gr => { gr with wait := .fence ops cmds drop ends, met := false }
      else (if p = 0 ∨ q = 0 then s else { s with softFences := s.softFences ++ [⟨g, ops, cmds, q.toNat⟩] }).fenceOver g drop ends

/-! ### Barrier words and waits -/

def sramKind (k : Nat) : Bool := k == 2
def waitKinds (k : Nat) : Bool := k == 1 || k == 2

/-- The window offset of a synchronisation word: sa as an unsigned value (R328). -/
def syncOff (gr : Group) (a : BitVec 5) : Int := ((gr.rs a.toNat).toNat : Int)

/-- `barinit`: one write of class W that neither makes nor meets a claim (R329). -/
def execBarinit (k : BitVec 4) (a b : BitVec 5) (s : State) : Out :=
  actWord s false (fun _ => []) anyRole fun g gr =>
    s.onceAccess g gr (gr.rk k.toNat) (syncOff gr a) 8 rW sramKind .store false 2 true false false none
      (fld (gr.rs b.toNat).toNat 27 0 * 2 ^ 28)

/-- An access of a synchronisation word that the group waits for, once it has left (R200, R328). -/
def State.heldAccess (s : State) (g : Nat) (gr : Group) (c : Cap) (off : Int) (need : Nat) (kinds : Nat → Bool) (kind : OpKind)
    (arrives : Bool) : State :=
  let s1 := s.onceAccess g gr c off 8 need kinds kind false 0 arrives arrives false none 0
  if (issueCheck c off 8 need).isNone && kinds c.kind then s1.modGroup g fun gr => { gr with wait := .answer s.nextId, met := false }
  else s1

/-- An arrival: the group holds issue until the home has answered (R200, R330). -/
def arriveWord (s : State) (k : BitVec 4) (a : BitVec 5) (c : Scope) (n : BitVec 5) (thenWait : Bool) : Out :=
  actWord s true (fun _ => []) anyRole fun g gr =>
    s.heldAccess g gr (gr.rk k.toNat) (syncOff gr a) rA sramKind (.arrive (immU s.cur.hix 5 n.toNat) thenWait (scopeNum c)) true

def execBarr (k : BitVec 4) (a : BitVec 5) (c : Scope) (n : BitVec 5) (s : State) : Out := arriveWord s k a c n false

/-- `bars`: an arrival, then the wait for the phase read with it (R332); the wait has the scope of the word. -/
def execBars (k : BitVec 4) (a : BitVec 5) (c : Scope) (n : BitVec 5) (s : State) : Out := arriveWord s k a c n true

/-- A registration: the group waits for the home's answer, then for the condition (R331, R333). -/
def registerWord (s : State) (k : BitVec 4) (a : BitVec 5) (kinds : Nat → Bool) (kind : Group → OpKind) : Out :=
  actWord s false (fun _ => []) anyRole fun g gr =>
    s.heldAccess g gr (gr.rk k.toNat) (syncOff gr a) rR kinds (kind gr) false

def execBarw (k : BitVec 4) (a b : BitVec 5) (c : Scope) (s : State) : Out :=
  registerWord s k a sramKind fun gr => .register false (gr.rs b.toNat) (scopeNum c)

def execWaitw (k : BitVec 4) (a b : BitVec 5) (s : State) : Out :=
  registerWord s k a waitKinds fun gr => .register true (gr.rs b.toNat) 5

/-! ### Capability words -/

/-- A capability word that makes no memory access: in a group or a thread, on the registers of whichever performs it.
`f` answers the changed registers, or the trap code of a failed check, whose record names k's handle and its LOW. (DESIGN CHOICE: log 101) -/
def capWord (s : State) (c0 : BitVec 4) (f : Cap → (BitVec 5 → DWord) → Except Nat (Option Cap × Option DWord))
    (kd : BitVec 4) (sd : BitVec 5) : Out :=
  match s.cur.who with
  | .none => .refused .noAgent
  | .group _ => actWord s false (fun _ => []) anyRole fun g gr =>
      match f (gr.rk c0.toNat) fun r => gr.rs r.toNat with
      | .error code => s.onceTrap g (gr.rk c0.toNat) code 0
      | .ok (kc, v) => s.modGroup g fun gr =>
          let gr := match kc with
            | some x => gr.wk kd.toNat x
            | none => gr
          match v with
          | some x => gr.ws sd.toNat x
          | none => gr
  | .thread t => match s.thread? t with
    | none => .refused .noAgent
    | some th => match f (th.rk c0.toNat) fun r => th.rl r.toNat with
      | .error _ => .next (s.l2fault t .cap (th.rk c0.toNat).low)
      | .ok (kc, v) => .next (s.threadDone t fun th =>
          let th := match kc with
            | some x => th.wk kd.toNat x
            | none => th
          match v with
          | some x => th.wl sd.toNat x
          | none => th)

/-- `kmov` (R336). -/
def execKmov (d k : BitVec 4) (s : State) : Out := capWord s k (fun c _ => .ok (some c, none)) d 0

/-- A capability with new LOW and LEN (R185). -/
def Cap.narrowed (c : Cap) (a b : Nat) : Cap := mkCap c.handle c.rights c.kind (c.low + a) b

/-- `kwin`: CAPBOUND when a + b > LEN, then CAPTAG (R336). -/
def execKwin (d k : BitVec 4) (a b : BitVec 5) (s : State) : Out :=
  capWord s k (fun c r =>
    let x := (r a).toNat; let y := (r b).toNat
    if c.len < x + y then .error 8 else if !c.wellFormed then .error 10 else .ok (some (c.narrowed x y), none)) d 0

/-- `krights`: RIGHTS and mask (R336). -/
def execKrights (d k : BitVec 4) (a : BitVec 5) (s : State) : Out :=
  capWord s k (fun c r =>
    if !c.wellFormed then .error 10
    else .ok (some (mkCap c.handle (c.rights &&& fld (r a).toNat 7 0) c.kind c.low c.len), none)) d 0

/-- `kget` (R339). -/
def execKget (d : BitVec 5) (k : BitVec 4) (x : CapField) (s : State) : Out :=
  capWord s k (fun c _ => .ok (none, some (dw (match x with
    | .handle => c.handle
    | .rights => c.rights
    | .kind => c.kind
    | .low => c.low
    | .len => c.len)))) 0 d

/-- `ktag` (R339). -/
def execKtag (d : BitVec 5) (k : BitVec 4) (s : State) : Out :=
  capWord s k (fun c _ => .ok (none, some (dw ((if c.tag then 1 else 0) + (if c.wellFormed then 2 else 0))))) 0 d

/-- `kld`: a granule with its tag where k holds G (R337). -/
def execKld (d k : BitVec 4) (a : BitVec 5) (s : State) : Out :=
  match s.cur.who with
  | .none => .refused .noAgent
  | .group _ => actWord s false (fun _ => []) anyRole fun g gr =>
      let c := gr.rk k.toNat
      s.onceAccess g gr c (syncOff gr a) 16 rR anyKind (.kld d.toNat (holds c.rights rG)) true 1 false false true none 0
  | .thread t => match s.thread? t with
    | none => .refused .noAgent
    | some th =>
      let c := th.rk k.toNat
      let off : Int := ((th.rl a.toNat).toNat : Int)
      threadScalar s t th c off 16 rR false
        (fun s e f => let (s1, r) := s.threadRead t th e f 16
          s1.threadDone t fun th => th.wk d.toNat ⟨BitVec.ofNat 128 r.val.1, holds c.rights rG && r.val.2⟩)
        (fun s w => s.threadDone t fun th' =>
          th'.wk d.toNat ⟨BitVec.ofNat 128 (leNat (windowBytes (s.recipe th.ctx) w (objOff c off) 16)), false⟩)

/-- `kst`: a granule and its tag, through W and G (R338). -/
def execKst (d k : BitVec 4) (a : BitVec 5) (s : State) : Out :=
  match s.cur.who with
  | .none => .refused .noAgent
  | .group _ => actWord s false (fun _ => []) anyRole fun g gr =>
      let x := gr.rk d.toNat
      s.onceAccess g gr (gr.rk k.toNat) (syncOff gr a) 16 (rW + rG) anyKind .store false 2 true false true (some x.tag) x.bits.toNat
  | .thread t => match s.thread? t with
    | none => .refused .noAgent
    | some th =>
      let x := th.rk d.toNat
      threadScalar s t th (th.rk k.toNat) (((th.rl a.toNat).toNat : Int)) 16 (rW + rG) true
        (fun s _ f => (s.threadStore t th (th.rk k.toNat) (((th.rl a.toNat).toNat : Int)) f 16 x.bits.toNat (some x.tag)).threadDone t id)
        (fun s _ => s.threadDone t id)

/-! ### pfch and sinv -/

/-- The place a lane of `pfch` names, when every check passes, the object is no window and not RACECHK, and no refresh holds it (R378,
R440). (DESIGN CHOICE: log 16) -/
def prefetchPlace (s : State) (gr : Group) (c : Cap) (off : Nat) : Option Place :=
  match issueCheck c (off : Int) 1 rR, s.ctx? gr.ctx with
  | none, some ctx =>
    let o := c.low + off
    if (s.tableBank (portOf (s.coreOf gr)) gr.ctx c.handle c.kind rR o 1).isSome then none else
    let e := entryAt s.mem ctx c.handle
    match judge s.mem e c.kind rR o 1, e with
    | .at_ f, some e => if e.racechk || c.kind == 2 || s.bankHeld f then none else some (.at_ f)
    | .elsewhere p, some e => if e.racechk then none else some (.elsewhere p)
    | _, _ => none
  | _, _ => none

/-- One lane of `pfch`: the sector into the core's read cache, or the migration of its page. The buffer of a port stands at the
home (R90), where it changes no value that a read returns. -/
def prefetchLane (s : State) (core ctx : Nat) (level : PfLevel) (p : Option Place) : State :=
  match level, p with
  | .cache, some (.at_ f) => s.renewSector core ctx (sectorOf f) true
  | .tier, some (.elsewhere pme) =>
    if (s.entryFor pme).isSome || fld (mnat s.mem pme 8) 63 62 != 1 then s
    else if (s.waits.filter fun (_, e) => e.die == faultDie pme).length < 4096 then
      { s with waits := tset s.waits s.nextId ⟨s.freeToken (faultDie pme), faultDie pme, pme, [], false, false⟩, nextId := s.nextId + 1 }
    else s
  | _, _ => s

/-- `pfch`: silent; under DETERM ignored (R378). -/
def execPfch (k : BitVec 4) (v : BitVec 7) (l : PfLevel) (s : State) : Out :=
  actWord s false (fun gr => [v1 gr [v]]) anyRole fun _ gr =>
    if (s.serialLaunch gr.crew).isSome then s
    else s.cur.act.foldl (fun s' i =>
      prefetchLane s' (s.coreOf gr) gr.ctx l (prefetchPlace s gr (gr.rk k.toNat) ((gr.lane i).rd v.toNat).toNat)) s

/-- `sinv`: checked at issue, then the group waits for its earlier writes and the invalidation (R385). -/
def execSinv (k : BitVec 4) (a b : BitVec 5) (s : State) : Out :=
  actWord s false (fun _ => []) generalRole fun g gr =>
    let c := gr.rk k.toNat
    let off : Int := syncOff gr a
    let len := (gr.rs b.toNat).toNat
    match capCheck c off len rR with
    | some code => s.onceTrap g c code off
    | none =>
      if c.kind != 6 then s.onceTrap g c 9 off
      else s.modGroup g fun gr =>
        { gr with wait := .sinv (s.preOps g 2) (s.preCmds g 8) c.handle (objOff c off) len, met := false }

end Sys2Proof.Machine
end

