-- ==== Sys2Proof/Machine/Lamp.lean ====
section
/-! DEFINITION. Lamplighter instructions (R271, R275 to R291): branches and jumps, direct emits, composition, events, the
access to parked groups, the return from a trap by `gres` (R210, R289), `launch`; and the thread's own events (R81 to
R83, R219, R284). -/
namespace Sys2Proof.Machine

/-! ### Branches and jumps -/

/-- The PC moved by a signed number of words (R275). -/
def pcPlus (pc : Nat) (words : Int) : Nat := cutInt 64 ((pc : Int) + 4 * words)

/-- A branch (R275). -/
def branchWord (s : State) (a b : BitVec 5) (o : BitVec 12) (cond : DWord → DWord → Bool) : Out :=
  threadWord s fun t th =>
    .next (s.modThread t fun x =>
      { x with pc := if cond (th.rl a.toNat) (th.rl b.toNat) then pcPlus th.pc (sval 12 o.toNat) else th.pc + 4 })

def execBeq (a b : BitVec 5) (o : BitVec 12) (s : State) : Out := branchWord s a b o fun x y => x == y
def execBne (a b : BitVec 5) (o : BitVec 12) (s : State) : Out := branchWord s a b o fun x y => x != y
def execBltS (a b : BitVec 5) (o : BitVec 12) (s : State) : Out := branchWord s a b o fun x y => decide (x.toInt < y.toInt)
def execBgeS (a b : BitVec 5) (o : BitVec 12) (s : State) : Out := branchWord s a b o fun x y => decide (y.toInt ≤ x.toInt)
def execBltN (a b : BitVec 5) (o : BitVec 12) (s : State) : Out := branchWord s a b o fun x y => decide (x.toNat < y.toNat)
def execBgeN (a b : BitVec 5) (o : BitVec 12) (s : State) : Out := branchWord s a b o fun x y => decide (y.toNat ≤ x.toNat)

/-- `jal` (R275). -/
def execJal (d : BitVec 5) (o : BitVec 20) (s : State) : Out :=
  threadWord s fun t th =>
    .next (s.modThread t fun x => { x.wl d.toNat (dw (th.pc + 4)) with pc := pcPlus th.pc (sval 20 o.toNat) })

/-- `jalr`: the target is read before the return offset is written (R271). -/
def execJalr (d a : BitVec 5) (s : State) : Out :=
  threadWord s fun t th =>
    let to_ := (th.rl a.toNat).toNat
    let s1 := s.modThread t fun x => x.wl d.toNat (dw (th.pc + 4))
    if to_ % 4 ≠ 0 then .next (s1.l2fault t .align (to_ % 2 ^ 32))
    else .next (s1.modThread t fun x => { x with pc := to_ })

/-! ### Group references (R277) -/

/-- The slot a reference names on the thread's own core, with the group that holds it. -/
def State.groupOfRef (s : State) (t : Nat) (r : DWord) : Option (Nat × Group) :=
  let g := fld r.toNat 13 0
  if groupCore g = threadCore t then match s.group? g with
    | some gr => some (g, gr)
    | none => none
  else none

/-- The target of a reference: a group of the thread's context, else the thread's fault with its DETAIL (R219, R220). (DESIGN CHOICE: log 115) -/
def State.targetOf (s : State) (t : Nat) (th : Thread) (r : DWord) : Except Nat (Nat × Group) :=
  match s.groupOfRef t r with
  | none => .error (fld r.toNat 13 0)
  | some (g, gr) => if gr.ctx = th.ctx then .ok (g, gr) else .error gr.gid

/-! ### Direct emits (R83, R278) -/

/-- What an emit meets: a status, or none while it must wait. (DEDUCED: log 52) -/
def emitStatus (gr : Group) : Option Nat :=
  match gr.stop with
  | .trapping | .trapped | .halted => some 3
  | .run | .halting => if gr.isOpen && decide (gr.liveQueue.length < 32) then some 0 else none

/-- A direct emit's provenance (R83, R84). -/
def emitProv (gr : Group) (seq : Nat) : Word := provOf 2 gr.station (seq % 2 ^ 20)

/-- The word enters the group's queue, which a group with no live lane has emptied up to its vote (R370), and the thread's sequence
counter advances. -/
def State.enqueue (s : State) (t g : Nat) (w : Word) : State :=
  match s.thread? t with
  | none => s
  | some th => (s.modGroup g fun gr => { gr with queue := gr.liveQueue ++ [⟨w, emitProv gr th.emitSeq⟩] }).modThread t
      fun x => { x with emitSeq := x.emitSeq + 1 }

/-- `emit` and `emitnb`. -/
def emitWord (s : State) (d a b : BitVec 5) (blocks : Bool) : Out :=
  threadWord s fun t th =>
    match s.targetOf t th (th.rl a.toNat) with
    | .error detail => .next (s.l2fault t .emit detail)
    | .ok (g, gr) =>
      let w : Word := (th.rl b.toNat).truncate 32
      match emitStatus gr with
      | some 0 => .next ((s.enqueue t g w).threadDone t fun x => x.wl d.toNat 0)
      | some n => .next (s.threadDone t fun x => x.wl d.toNat (dw n))
      | none =>
        if blocks then
          let idx := match s.crew? gr.crew with
            | none => 0
            | some c => c.idx
          .next (s.modThread t fun x => { x with blocked := some ⟨d.toNat, w, g, gr.uid, idx, gr.gidx⟩ })
        else .next (s.threadDone t fun x => x.wl d.toNat (if gr.isOpen then 1 else 2))

def execEmit (d a b : BitVec 5) (s : State) : Out := emitWord s d a b true
def execEmitnb (d a b : BitVec 5) (s : State) : Out := emitWord s d a b false

/-! ### Composition (R85, R279 to R283) -/

/-- The blocks a station set operand names, in byte order. -/
def setBlocks (x : DWord) : List Nat := (((List.range 8).map fun i => fld x.toNat (8 * i + 7) (8 * i))).filter (· != 255)

/-- Every element occurs once. -/
def noRepeats : List Nat → Bool
  | [] => true
  | x :: r => !r.contains x && noRepeats r

/-- `sopen` (R279). -/
def execSopen (a b : BitVec 5) (s : State) : Out :=
  threadWord s fun t th =>
    let key := (th.rl b.toNat).toNat
    let set := setBlocks (th.rl a.toNat)
    match th.buf with
    | some _ => .next (s.l2fault t .noBuf 0)
    | none => match s.kernelOf th.ctx (key / 256) (key % 256) with
      | none => .next (s.l2fault t .stins (th.rl a.toNat).toNat)
      | some k =>
        if set.isEmpty || !noRepeats set || set.any fun b => decide (k.nb ≤ b) then .next (s.l2fault t .stins (th.rl a.toNat).toNat)
        else .next (s.threadDone t fun x => { x with buf := some ⟨key / 256, key % 256, sortNat set, []⟩ })

/-- `emits`: status 5 when the station store has no place for one more word (R85, R418). -/
def execEmits (d b : BitVec 5) (s : State) : Out :=
  threadWord s fun t th =>
    match th.buf with
    | none => .next (s.l2fault t .noBuf 0)
    | some bf => match s.makeRoom (threadCore t) 1 s.store.length with
      | none => .next (s.threadDone t fun x => x.wl d.toNat 5)
      | some s1 => .next (s1.threadDone t fun x =>
          { x.wl d.toNat 0 with buf := some { bf with words := bf.words ++ [(th.rl b.toNat).truncate 32] } })

/-- A buffer's words end in their only vote, or there are none (R281). -/
def endsInVote (ws : List Word) : Bool :=
  match ws.reverse with
  | [] => true
  | w :: r => isVote w && !r.any isVote

/-- The least number that no station of a timetable has. -/
def freeStation (tt : List Sta) : Nat → Nat → Nat
  | n, 0 => n
  | n, k + 1 => if tt.any (·.num == n) then freeStation tt (n + 1) k else n

/-- Whether a request is for this kernel and set. -/
def Request.isFor (r : Request) (b : Buffer) : Bool := r.codeid == b.codeid && r.kernel == b.kernel && r.set == b.set

/-- `stins` (R281). -/
def execStins (d a : BitVec 5) (s : State) : Out :=
  threadWord s fun t th =>
    match th.buf with
    | none => .next (s.l2fault t .noBuf 0)
    | some b =>
      let req := (th.rl a.toNat).toNat
      let core := threadCore t
      let tt := s.timetable core th.ctx b.codeid b.kernel
      let fail : Out := .next (s.l2fault t .stins (setOperand b.set).toNat)
      let named := th.reqs.find? (·.id == req)
      let bad := req != 0 && !(match named with
        | none => false
        | some r => r.isFor b)
      if bad || !endsInVote b.words || tt.any fun x => sortNat x.set == b.set then fail
      else
        let s1 := s.modThread t fun x => { x with buf := none }
        if 1024 ≤ tt.length then .next (s1.threadDone t fun x => x.wl d.toNat (dw (2 ^ 63 + 6)))
        else
          let n := freeStation tt 0 tt.length
          let s2 := s1.modCtx th.ctx fun c => { c with composed := c.composed ++ [⟨core, b.codeid, b.kernel, n, b.set, b.words⟩] }
          let s3 := s2.threadDone t fun x => x.wl d.toNat (dw n)
          match if req = 0 then th.reqs.find? (·.isFor b) else named with
          | none => .next s3
          | some r => .next (s3.serveRequest t r (some ⟨n, b.set, some b.words⟩))

/-- `sdecl` (R283). -/
def execSdecl (d a : BitVec 5) (s : State) : Out :=
  threadWord s fun t th =>
    let req := (th.rl a.toNat).toNat
    let s1 := s.modThread t fun x => { x with buf := none }
    match if req = 0 then none else th.reqs.find? (·.id == req) with
    | none => .next (s1.threadDone t fun x => x.wl d.toNat 1)
    | some r => .next ((s1.threadDone t fun x => x.wl d.toNat 0).serveRequest t r none)

/-! ### Events (R82, R284) -/

/-- The first event that can be taken: a pre-empt-notice mark is no event yet (R229). -/
def nextEvent : List QEvent → Option (QEvent × List QEvent)
  | [] => none
  | e :: r => if e.mark then match nextEvent r with
      | none => none
      | some (x, r') => some (x, e :: r')
    else some (e, r)

/-- `gwait`: the head of the queue, or sleep (R284). -/
def execGwait (d a : BitVec 5) (s : State) : Out :=
  threadWord s fun t th =>
    match nextEvent th.queue with
    | some (e, r) => .next (s.threadDone t fun x => { x.wl d.toNat (dw (eventKind e.words)) with queue := r, taken := some e.words })
    | none =>
      let limit := (th.rl a.toNat).toNat
      .next (s.modThread t fun x =>
        { x with taken := none, sleep := some (d.toNat, if limit = 0 then none else some (s.clock + limit)) })

/-- `grec` (R284). -/
def execGrec (d a : BitVec 5) (s : State) : Out :=
  threadWord s fun t th =>
    match th.taken with
    | none => .next (s.l2fault t .event 0)
    | some ws =>
      let i := (th.rl a.toNat).toNat
      .next (s.threadDone t fun x => x.wl d.toNat (if i < 8 then (ws[i]?).getD 0 else 0))

/-! ### Selectors (R287, R288) -/

/-- A group selector's fields. -/
def selFile (x : DWord) : Nat := fld x.toNat 31 28
def selLane (x : DWord) : Nat := fld x.toNat 25 16
def selNum (x : DWord) : Nat := fld x.toNat 15 0

/-- Within range (R287). -/
def selOk (gr : Group) (x : DWord) : Bool :=
  let n := selNum x
  let lane := selLane x
  decide (lane < gr.lanes.length) && match selFile x with
  | 0 => decide (n < gr.regs)
  | 1 => decide (n < 32) && lane == 0
  | 2 => decide (n < 8)
  | 3 | 4 => n == 0
  | 5 => decide (n < 48) && lane == 0
  | 6 => decide (n < 8) && lane == 0
  | 7 | 10 => decide (n < 32) && lane == 0
  | 8 => decide (n < 512) && lane == 0
  | 9 => decide (n < 4) && lane == 0
  | 11 => decide (n < 256) && (lane == 0 || srPerLane n)
  | _ => false

/-- A guard as file 9 reads it: valid, predicate, inversion, and a count where it applies. -/
def guardBits (g : Option Guard) (count : Bool) : Nat :=
  match g with
  | none => 0
  | some g => 2 ^ 19 + g.p.toNat * 2 ^ 16 + (if g.inv then 2 ^ 15 else 0) + (if count then g.left else 0)

/-- A `hix` payload as file 9 reads it. -/
def hixBits (h : Option (BitVec 25)) : Nat :=
  match h with
  | none => 0
  | some p => 2 ^ 25 + p.toNat

/-- The value a selector names in a group; 0 out of range (R287, R288). -/
def State.selRead (s : State) (gr : Group) (x : DWord) : DWord :=
  let n := selNum x
  let lane := selLane x
  let l := gr.lane lane
  if !selOk gr x then 0
  else match selFile x with
  | 0 => (l.rd n).zeroExtend 64
  | 1 => gr.rs n
  | 2 => if l.pred (BitVec.ofNat 3 n) then 1 else 0
  | 3 => l.blk.zeroExtend 64
  | 4 => l.fmode.zeroExtend 64
  | 5 =>
    let k := gr.rk (n % 16)
    if n < 16 then k.bits.truncate 64 else if n < 32 then (k.bits >>> 64).truncate 64 else if k.tag then 1 else 0
  | 6 => match gr.trap with
    | none => 0
    | some t => ((t.words 0)[n]?).getD 0
  | 7 => match gr.trap with
    | none => 0
    | some t => dw (maskWord t.retry n * 2 ^ 32 + maskWord t.fault n)
  | 8 => match gr.stacked[n / 8]? with
    | none => 0
    | some t => ((t.words 0)[n % 8]?).getD 0
  | 9 =>
    match n, gr.trap with
    | 0, some t => if t.code = 0 then 0 else dw (hixBits t.hix)
    | 1, some t => if t.code = 0 then 0 else dw (guardBits t.guard false)
    | 2, _ => dw (hixBits gr.hix)
    | 3, _ => dw (guardBits gr.guard true)
    | _, _ => 0
  | 10 => dw (maskWord gr.liveLanes n + (match gr.trap with
      | none => 0
      | some t => maskWord t.act n) * 2 ^ 32)
  | _ => if srPerLane n then (laneReg l lane n).zeroExtend 64 else s.groupReg gr n

/-- A lane's block register may become this value: 255 or a declared block, which makes no lane beyond the level-0 extent
live (R28, R287). -/
def State.blockWrite (s : State) (gr : Group) (lane v : Nat) : Bool :=
  v == 255 || (decide (v < s.blocksOf gr) && match s.launchOf gr with
    | none => false
    | some l => (gr.lane lane).live || decide (lane < l.extent 0))

/-- The group after a write through a selector; unchanged where the write is refused (R287, R288). Of an FMODE value the bits
above 15 are ignored, as those of a register value are. (DESIGN CHOICE: log 99) -/
def State.selWrite (s : State) (gr : Group) (x v : DWord) : Group :=
  let n := selNum x
  let lane := selLane x
  if !selOk gr x then gr
  else match selFile x with
  | 0 => gr.onLanes [lane] fun _ l => l.wr n (v.truncate 32)
  | 1 => gr.ws n v
  | 2 => if v.toNat < 2 then gr.onLanes [lane] fun _ l => l.setPred (BitVec.ofNat 3 n) (v == 1) else gr
  | 3 => if s.blockWrite gr lane v.toNat then gr.onLanes [lane] fun _ l => { l with blk := v.truncate 8 } else gr
  | 4 => if fmodeLegal v.toNat then gr.onLanes [lane] fun _ l => { l with fmode := v.truncate 16 } else gr
  | _ => gr

/-- Parked as R211 requires for reading and writing: on a level-one trap, halted, in FUSE-WAIT or in COMPOSE-WAIT. -/
def Group.openToThread (gr : Group) : Bool :=
  match gr.stop with
  | .trapping | .trapped | .halted => true
  | .run | .halting => match gr.wait with
    | .fuse _ _ | .compose _ _ => true
    | .none | .phase _ _ _ | .word _ _ | .fence _ _ _ _ | .sinv _ _ _ _ _ | .answer _ | .store _ => false

/-- The write of a selector in a group, with the MASK packets of a changed block register (R425). -/
def State.writeSel (s : State) (g : Nat) (gr : Group) (x v : DWord) : State :=
  (s.modGroup g fun _ => s.selWrite gr x v).traceLive g gr.liveLanes false

/-- A thread's word on a parked group; while the trap's record is still to be written the word waits, so that the
registers it sees are settled (R203, R211). -/
def parkedWord (s : State) (a : BitVec 5) (body : Nat → Thread → Nat → Group → State) : Out :=
  threadWord s fun t th =>
    match s.targetOf t th (th.rl a.toNat) with
    | .error detail => .next (s.l2fault t .group detail)
    | .ok (g, gr) =>
      if !gr.openToThread then .next (s.l2fault t .group gr.gid)
      else if gr.stop = .trapping then .next s
      else .next (body t th g gr)

/-- `gread` (R288). (DEDUCED: log 52) -/
def execGread (d a b : BitVec 5) (s : State) : Out :=
  parkedWord s a fun t th _ gr => s.threadDone t fun x => x.wl d.toNat (s.selRead gr (th.rl b.toNat))

/-- `gwrite` (R288). (DEDUCED: log 52) -/
def execGwrite (d a b : BitVec 5) (s : State) : Out :=
  parkedWord s a fun t th g gr => (s.writeSel g gr (th.rl b.toNat) (th.rl d.toNat)).threadDone t id

/-! ### Resumption and retirement (R210, R211, R289, R290) -/

/-- The faulted command of a crew, and the later entries of its context in its queue, are discarded (R213); a copy word that still
reads its list is in no queue (R363). -/
def State.dropFaulted (s : State) (crew : Nat) : State :=
  let bad := s.cmds.filter fun (_, c) => c.faulted && c.crew == crew
  { s with cmds := s.cmds.filter fun (n, c) => c.listing || !bad.any fun (m, b) =>
      decide (m ≤ n) && c.ctx == b.ctx && c.core == b.core && c.queue == b.queue }

/-- A halt of the crew is under way: broadcast, and its event not sent. -/
def State.haltUnder (s : State) (crew : Nat) : Bool :=
  match s.crew? crew with
  | none => false
  | some c => match c.halt with
    | none => false
    | some h => !h.sent

/-- A group that goes on while a halt of its crew is under way is stopped by that halt (R206). (DESIGN CHOICE: log 116) -/
def Group.underHalt (gr : Group) (halting : Bool) : Group := if halting then gr.haltReached true else gr

/-- A skip that takes a group past the count of a precise stop ends the stop, which the group reaches no more (R427).
(DEDUCED: log 43) -/
def State.passStops (s : State) (g : Nat) : State :=
  match s.group? g with
  | none => s
  | some gr => (s.stopsOf gr |>.filter fun x => decide (x.n < gr.rwcount.toNat)).foldl State.endStop s

/-- A group resumes in one of the two modes, and its crew's copy fault is done with (R210, R213, R289). -/
def State.resumeGroup (s : State) (g : Nat) (skip : Bool) : State :=
  match s.group? g with
  | none => s
  | some gr => ((s.dropFaulted gr.crew).modGroup g fun gr => (gr.resume skip).underHalt (s.haltUnder gr.crew)).passStops g

/-- The debugger holds the group (R384, R430). -/
def Group.debugHeld (gr : Group) : Bool :=
  match gr.trap with
  | none => false
  | some t => t.debug

/-- `gres`: a group whose record is still to be written is waited for (R289). (DEDUCED: log 52) -/
def execGres (a b : BitVec 5) (s : State) : Out :=
  threadWord s fun t th =>
    match s.targetOf t th (th.rl a.toNat) with
    | .error detail => .next (s.l2fault t .group detail)
    | .ok (g, gr) =>
      if gr.debugHeld then .next (s.l2fault t .group gr.gid)
      else match gr.stop with
        | .run => .next (s.l2fault t .group gr.gid)
        | .trapping | .halting => .next s
        | .trapped | .halted => .next ((s.resumeGroup g ((th.rl b.toNat).getLsbD 0)).threadDone t id)

/-- A group is killed: retired at once, its outstanding words write nothing (R211, R290). (DEDUCED: log 55) -/
def State.killGroup (s : State) (g : Nat) : State :=
  match s.group? g with
  | none => s
  | some gr => (((s.dropFaulted gr.crew).flushStores g).traceKill g).retireGroup g

/-- `gkill` (R290). -/
def execGkill (d a : BitVec 5) (s : State) : Out :=
  threadWord s fun t th =>
    match s.groupOfRef t (th.rl a.toNat) with
    | none => .next (s.threadDone t fun x => x.wl d.toNat 1)
    | some (g, gr) =>
      if gr.ctx = th.ctx then .next ((s.killGroup g).threadDone t fun x => x.wl d.toNat 0)
      else .next (s.l2fault t .group gr.gid)

/-! ### launch (R66, R291) -/

/-- The 128 bytes of a record at object offset o: where its last byte's page is elsewhere, the address of that page's map
entry. -/
def State.recordPage (s : State) (ctx : Nat) (c : Cap) (o : Nat) : Place :=
  match s.ctx? ctx with
  | none => .denied [1]
  | some x => judge s.mem (entryAt s.mem x c.handle) c.kind rR (o + 127) 1

/-- The record enters the device launch queue as the launch accepted last, or the queue is full (R66). (DEDUCED: log 106) -/
def State.acceptRecord (s : State) (t : Nat) (d : BitVec 5) (rec : List DWord) : State :=
  match s.thread? t with
  | none => s
  | some th =>
    if th.stopped then s
    else if th.dlq.length < 16 then
      { (s.threadDone t fun x => { x.wl d.toNat 0 with dlq := x.dlq ++ [⟨s.nextLaunch, s.clock, rec⟩] }).accepted ⟨th.ctx, t + 1, rec⟩ with
        nextLaunch := s.nextLaunch + 1 }
    else s.threadDone t fun x => x.wl d.toNat 1

/-- A record's words as the object holds them. -/
def State.recordWords (s : State) (ctx : Nat) (c : Cap) (o : Nat) : List DWord :=
  (List.range 16).map fun i => dw (s.objWord ctx c.handle (o + 8 * i))

/-- `launch`: one access of 128 bytes (R291). (DEDUCED: log 79) -/
def execLaunch (d a : BitVec 5) (k : BitVec 4) (s : State) : Out :=
  threadWord s fun t th =>
    let c := th.rk k.toNat
    let off := (th.rl a.toNat).toNat
    let o := c.low + off
    if off % 64 ≠ 0 then .next (s.l2fault t .align (o % 2 ^ 32))
    else match capCheck c off 128 rR, s.recordPage th.ctx c o with
      | none, .elsewhere pme =>
        let (s1, n) := s.joinEntry pme (.thread t)
        .next (s1.modThread t fun x => { x with parked := some n, replay := true })
      | none, .noFrame f => .fault (.noSuchFrame f)
      | none, .denied _ => .next (s.l2fault t .cap (o % 2 ^ 32))
      | _, _ =>
        if !s.drainable (threadCore t) th.ctx then .next s
        else threadAccess s t th c off 128 rR false
          (fun s _ _ =>
            let s1 := s.drainPosted (threadCore t) th.ctx
            s1.acceptRecord t d (s1.recordWords th.ctx c o))
          (fun s w => s.acceptRecord t d (wordsOf (windowBytes (s.recipe th.ctx) w o 128) 16))

/-! ### Events of threads -/

/-- A held event can take a place in its thread's queue (R82). -/
def Thread.placeDue (th : Thread) : Bool := !th.stopped && !th.held.isEmpty && decide (th.queue.length < 256)

/-- EVENT_QUEUE_PLACE_FREE (R82): the event held longest takes the place. -/
def execEventQueuePlaceFree (thread : Nat) (s : State) : Out :=
  match s.thread? thread with
  | none => .refused .notDue
  | some th => match th.placeDue, th.held with
    | true, e :: r => .next (s.modThread thread fun x => { x with queue := x.queue ++ [e], held := r })
    | _, _ => .refused .notDue

/-- A sleeping thread has an event (R284). -/
def Thread.wakeDue (th : Thread) : Bool := !th.gated && !th.stopped && th.sleep.isSome && (nextEvent th.queue).isSome

/-- GWAIT_WAKE (R284): the sleeping `gwait` takes the head of the queue. -/
def execGwaitWake (thread : Nat) (s : State) : Out :=
  match s.thread? thread with
  | none => .refused .notDue
  | some th => match th.wakeDue, th.sleep, nextEvent th.queue with
    | true, some (d, _), some (e, r) =>
      .next (s.threadDone thread fun x => { x.wl d (dw (eventKind e.words)) with queue := r, taken := some e.words, sleep := none })
    | _, _, _ => .refused .notDue

/-- A sleeping thread's limit has passed with no event (R284). -/
def Thread.timeoutDue (th : Thread) (clock : Nat) : Bool :=
  !th.gated && !th.stopped && (nextEvent th.queue).isNone && match th.sleep with
  | some (_, some t) => decide (t ≤ clock)
  | some (_, none) | none => false

/-- GWAIT_TIMEOUT (R284). -/
def execGwaitTimeout (thread : Nat) (s : State) : Out :=
  match s.thread? thread with
  | none => .refused .notDue
  | some th => match th.timeoutDue s.clock, th.sleep with
    | true, some (d, _) => .next (s.threadDone thread fun x => { x.wl d 0 with sleep := none })
    | _, _ => .refused .notDue

/-- The group that a blocked `emit` named at issue, where it is now (R226, R278). -/
def State.blockedTarget (s : State) (b : Blocked) : Option (Nat × Group) := s.groups.find? fun (_, gr) => gr.uid == b.uid

/-- The outcome of a blocked `emit`: that of its target, which may be off its core; 4 once it has retired (R83, R226). -/
def State.unblocks (s : State) (b : Blocked) : Option Nat :=
  match s.blockedTarget b with
  | some (_, gr) => emitStatus gr
  | none => if s.savedCrews.any fun (_, c) => c.groups.any fun gr => gr.uid == b.uid then none else some 4

/-- A blocked `emit` has its outcome. -/
def State.unblockDue (s : State) (th : Thread) : Bool :=
  !th.gated && !th.stopped && match th.blocked with
  | none => false
  | some b => (s.unblocks b).isSome

/-- EMIT_UNBLOCK (R83, R212, R278). -/
def execEmitUnblock (thread : Nat) (s : State) : Out :=
  match s.thread? thread with
  | none => .refused .notDue
  | some th => match s.unblockDue th, th.blocked with
    | true, some b => match s.unblocks b with
      | some n =>
        let s1 := match n, s.blockedTarget b with
          | 0, some (g, _) => s.enqueue thread g b.word
          | _, _ => s
        .next (s1.threadDone thread fun x => { x.wl b.ld (dw n) with blocked := none })
      | none => .refused .notDue
    | _, _ => .refused .notDue

/-- CLOCK at which a thread's oldest undelivered event arrived. -/
def Thread.oldest (th : Thread) : Option Nat :=
  ((th.queue ++ th.held).filter fun e => !e.mark).foldl (fun b e => match b with
    | none => some e.since
    | some x => some (min x e.since)) none

/-- The oldest undelivered event has waited WDT clocks (R219). -/
def State.watchdogDue (s : State) (th : Thread) : Bool :=
  !th.stopped && !th.gated && match s.ctx? th.ctx, th.oldest with
  | some c, some t => decide (t + c.wdt ≤ s.clock)
  | _, _ => false

/-- WATCHDOG_EXPIRE (R219): L2WDOG. (DEDUCED: log 53) -/
def execWatchdogExpire (thread : Nat) (s : State) : Out :=
  match s.thread? thread with
  | none => .refused .notDue
  | some th => if s.watchdogDue th then .next ({ s with cur := { s.cur with word := 0 } }.l2fault thread .wdog 0) else .refused .notDue

end Sys2Proof.Machine
end

