-- ==== Sys2Proof/Machine/CopyWords.lean ====
section
/-! DEFINITION. Copy words (R354 to R365): their parameters, the checks at issue in the order of R355, the acceptance of a
command into its queue (R97, R103, R356), and the order in which a command moves its bytes. -/
namespace Sys2Proof.Machine

/-! ### Parameters (R354, R360, R363, R364) -/

/-- Parameter register Pn of a command. -/
def Copy.par (c : Copy) (n : Nat) : Nat := ((c.params[n]?).getD 0).toNat

def Copy.len (c : Copy) : Nat := fld (c.par 0) 63 24
def Copy.cm (c : Copy) : Nat := fld (c.par 0) 4 3
def Copy.coff (c : Copy) : Nat := fld (c.par 1) 63 40
def Copy.soff (c : Copy) : Nat := fld (c.par 1) 39 0
def Copy.doff (c : Copy) : Nat := fld (c.par 2) 39 0
def Copy.rows (c : Copy) : Nat := fld (c.par 4) 55 32
def Copy.cols (c : Copy) : Nat := fld (c.par 4) 31 8
def Copy.sstr (c : Copy) : Nat := fld (c.par 5) 39 0
def Copy.dstr (c : Copy) : Nat := fld (c.par 6) 39 0
def Copy.scl (c : Copy) : Bool := fld (c.par 7) 40 40 == 1
def Copy.sclW (c : Copy) : Nat := fld (c.par 7) 47 44
def Copy.scoff (c : Copy) : Nat := fld (c.par 7) 39 0
def Copy.ioff (c : Copy) : Nat := fld (c.par 4) 39 0
def Copy.nidx (c : Copy) : Nat := fld (c.par 5) 31 0

/-- The size of an element in bytes: of a scatter or gather, of a `cpy.ten`, of a `cpy.red` (R364), else 1. -/
def Copy.esz (c : Copy) : Nat :=
  match c.fn with
  | 1 => 2 ^ fld (c.par 4) 2 0
  | 2 | 3 => 2 ^ fld (c.par 5) 35 32
  | 4 => if c.rop = .addBf16 then 2 else 4
  | _ => 1

/-- The byte count (R359 to R364). -/
def Copy.count (c : Copy) : Nat :=
  match c.fn with
  | 1 => c.rows * c.cols * c.esz
  | 2 | 3 => c.nidx * c.esz
  | _ => c.len

/-- Scale blocks in a row of a `cpy.ten` under SCL (R362). -/
def Copy.nblk (c : Copy) : Nat := c.cols / (4 * c.sclW)

/-- Element (r, col) of a `cpy.ten` in the destination (R361). -/
def Copy.tenDst (c : Copy) (r col : Nat) : Nat :=
  match c.lay with
  | .none | .three => c.doff + r * c.dstr + col * c.esz
  | .transpose => c.doff + col * c.dstr + r * c.esz
  | .reblock =>
    c.doff + ((r / 32) * (c.cols / 32) + col / 32) * 1024 * c.esz + ((r % 32) * 32 + col % 32) * c.esz

/-- The source offset of byte b of command order. -/
def Copy.srcAt (c : Copy) (b : Nat) : Nat :=
  let n := b / c.esz
  let o := b % c.esz
  match c.fn with
  | 1 => c.soff + n / c.cols * c.sstr + n % c.cols * c.esz + o
  | 2 => c.soff + (c.index[n]?).getD 0 * c.esz + o
  | _ => c.soff + b

/-- The destination offset of byte b of command order. -/
def Copy.dstAt (c : Copy) (b : Nat) : Nat :=
  let n := b / c.esz
  let o := b % c.esz
  match c.fn with
  | 1 => c.tenDst (n / c.cols) (n % c.cols) + o
  | 3 => c.doff + (c.index[n]?).getD 0 * c.esz + o
  | _ => c.doff + b

/-- The offset of the scale byte that covers byte b, under SCL (R362). -/
def Copy.scaleAt (c : Copy) (b : Nat) : Option Nat :=
  if c.fn = 1 ∧ c.scl then some (c.scoff + b / c.cols * c.nblk + b % c.cols / (4 * c.sclW)) else none

/-! ### The checks of R355 -/

/-- An extent lies in its window, and the register holds the right and is well-formed. -/
def extentOk (c : Cap) (off n need : Nat) : Bool :=
  (n == 0 || decide (off + n ≤ c.len)) && holds c.rights need && c.wellFormed

/-- Cause 5: a reserved field or value, or an alignment rule; a lay of 3 is one (R361), behind UNDEF (R355). (DEDUCED: log 25, 28) -/
def Copy.reserved (c : Copy) : Bool :=
  let e := min c.esz 16
  fld (c.par 0) 23 17 != 0 || c.cm == 3 || fld (c.par 2) 63 40 != 0 || c.coff % 8 != 0 ||
  match c.fn with
  | 1 => c.len != 0 || fld (c.par 4) 63 56 != 0 || fld (c.par 4) 7 3 != 0 || decide (3 < fld (c.par 4) 2 0)
      || fld (c.par 5) 63 40 != 0 || fld (c.par 6) 63 40 != 0 || fld (c.par 7) 63 48 != 0 || fld (c.par 7) 43 41 != 0
      || c.lay == .three || (c.lay == .reblock && (c.rows % 32 != 0 || c.cols % 32 != 0 || c.dstr != 0))
      || (c.scl && (c.esz != 1 || c.lay != .none || decide (c.sclW < 4 ∨ 8 < c.sclW) || c.cols % (4 * c.sclW) != 0))
  | 2 | 3 => c.len != 0 || fld (c.par 4) 63 48 != 0 || fld (c.par 4) 43 40 != 0 || c.ioff % 4 != 0
      || fld (c.par 5) 63 36 != 0 || decide (fld (c.par 5) 35 32 < 2 ∨ 12 < fld (c.par 5) 35 32)
      || decide (c.nidx < 1 ∨ 65536 < c.nidx) || c.soff % e != 0 || c.doff % e != 0
  | 4 => fld (c.par 4) 63 5 != 0 || decide (4 < fld (c.par 4) 2 0) || c.len % c.esz != 0 || c.soff % c.esz != 0
      || c.doff % c.esz != 0
  | _ => false

/-- The extents of a `cpy.ten`: source and destination bytes from their first to their last; none for no element. -/
def Copy.tenExtents (c : Copy) : Nat × Nat :=
  if c.count = 0 then (0, 0)
  else ((c.rows - 1) * c.sstr + c.cols * c.esz,
    match c.lay with
    | .none | .three => (c.rows - 1) * c.dstr + c.cols * c.esz
    | .transpose => (c.cols - 1) * c.dstr + c.rows * c.esz
    | .reblock => c.count)

/-- Causes 1 and 2: the extents that the parameters alone give; ki is the register of an index list. -/
def Copy.extentFault (c : Copy) (ki : Cap) : Option Nat :=
  let src := match c.fn with
    | 1 => extentOk c.src c.soff c.tenExtents.1 rCR && (!c.scl || extentOk c.src c.scoff (c.rows * c.nblk) rCR)
    | 2 => extentOk ki c.ioff (4 * c.nidx) rCR && extentOk c.src 0 0 rCR
    | 3 => extentOk ki c.ioff (4 * c.nidx) rCR && extentOk c.src c.soff c.count rCR
    | _ => extentOk c.src c.soff c.len rCR
  let dst := match c.fn with
    | 1 => extentOk c.dst c.doff c.tenExtents.2 rCW
    | 3 => extentOk c.dst 0 0 rCW
    | 4 => extentOk c.dst c.doff c.len rCW && (c.dst.kind == 1 || c.dst.kind == 2 || c.dst.kind == 3 || c.dst.kind == 5)
    | _ => extentOk c.dst c.doff c.count rCW
  let cmp := c.cm == 0 || (extentOk c.cmp c.coff 8 rCW && (c.cm != 2 || c.cmp.kind == 2))
  if !src then some 1 else if !(dst && cmp) then some 2 else none

/-- Cause 3: an index that addresses an element outside its window. -/
def Copy.indexFault (c : Copy) : Bool :=
  match c.fn with
  | 2 => c.index.any fun i => !extentOk c.src (c.soff + i * c.esz) c.esz rCR
  | 3 => c.index.any fun i => !extentOk c.dst (c.doff + i * c.esz) c.esz rCW
  | _ => false

/-- A destination window that does not discard (R176). -/
def State.windowKeeps (s : State) (c : Copy) : Bool :=
  c.dst.kind == 3 && match s.ctx? c.ctx with
    | none => false
    | some x => match entryAt s.mem x c.dst.handle with
      | none => false
      | some e => e.kind == 3 && !windowDiscards x.recipe e.desc

/-- The checks that follow the index list: the trap code and DETAIL (R355). -/
def State.lateFault (s : State) (c : Copy) : Option (Nat × DWord) :=
  if c.indexFault then some (13, dw (c.queue * 256 + 3))
  else if c.cm = 2 ∧ 0x0FFFFFFF < c.count then some (13, dw (c.queue * 256 + 4))
  else if s.windowKeeps c then some (4, 0)
  else none

/-! ### Acceptance -/

/-- The lowest place of a queue that no entry has. -/
def freePlace (used : List Nat) : Nat → Nat → Nat
  | n, 0 => n
  | n, k + 1 => if used.contains n then freePlace used (n + 1) k else n

/-- A pre-emption holds the command: its crew's, or its context's on the core (R222). -/
def State.cmdGated (s : State) (c : Copy) : Bool :=
  if (tget s.savedCrews c.crew).isSome then true
  else match s.crew? c.crew with
  | some cr => cr.gated
  | none => match s.threadOf c.core c.ctx with
    | none => s.savedThreads.any fun (_, t) => threadCore t.num == c.core && t.thread.ctx == c.ctx
    | some t => match s.thread? t with
      | none => false
      | some th => th.gated && !c.system

/-- Places that the entries of a core's queue take (R356); those of a pre-empted victim are kept for it and take none (R222, R227). -/
def State.queuePlaces (s : State) (core q : Nat) : List Nat :=
  (s.cmds.filter fun (_, c) => c.core == core && c.queue == q && !s.cmdGated c).map fun (_, c) => c.place

/-- The commands of a crew that resumes stand in its core's queues again: one whose place was taken meanwhile gets another (R222,
R356). -/
def State.replaceCmds (s : State) (crew : Nat) : State :=
  (s.cmds.filter fun (_, c) => c.crew == crew && !c.system).foldl (fun s (n, c) =>
    let used := ({ s with cmds := tdel s.cmds n }).queuePlaces c.core c.queue
    if used.contains c.place then s.modCmd n fun x => { x with place := freePlace used 0 64 } else s) s

/-- What the soft fences of a group make its next accesses of the classes of a mask wait for (R97). -/
def State.fencePre (s : State) (g mask : Nat) : List Nat × List Nat :=
  s.softFences.foldl (fun p f => if f.group = g ∧ f.q &&& mask ≠ 0 then (p.1 ++ f.ops, p.2 ++ f.cmds) else p) ([], [])

/-- The command enters its queue (R103, R356); fences that have nothing left to wait for are forgotten. -/
def State.accept (s : State) (c : Copy) : State :=
  let s1 := { s with softFences := s.softFences.filter fun f => !s.preDone f.ops f.cmds }
  let c1 := { c with listing := false, pre := if c.fn = 5 then ([], []) else s1.fencePre c.group 12,
                     place := freePlace (s1.queuePlaces c.core c.queue) 0 64, total := c.count }
  { s1 with cmds := tset s1.cmds s1.nextId c1, nextId := s1.nextId + 1 }

/-- The command that a copy word hands over, before its checks. -/
def mkCopy (s : State) (g : Nat) (gr : Group) (fn n : Nat) (b : BitVec 5) (l : Lay) (r : Rop) : Copy :=
  let ps := (List.range n).map fun i => gr.rs (b.toNat + i)
  let p0 := (ps.headD 0).toNat
  { group := g, gid := gr.gid, gidx := gr.gidx, crew := gr.crew, ctx := gr.ctx, core := s.coreOf gr, queue := fld p0 2 0,
    fn := fn, params := ps, lay := l, rop := r, src := gr.rk (fld p0 8 5), dst := gr.rk (fld p0 12 9),
    cmp := gr.rk (fld p0 16 13), cur := s.cur, place := 0, listing := false, list := Cap.null, index := [], after := [], pre := ([], []),
    total := 0, done := 0, parkedElts := [], parked := none, waitHead := false, faulted := false, system := false }

/-- The capability register of an index list (R363). -/
def listCap (gr : Group) (c : Copy) : Cap := gr.rk (fld (c.par 4) 47 44)

/-- A copy word with its checks: a trap, acceptance, or, for a gather or scatter, the reading of its list, which holds the
group's issue (R355, R363). (DESIGN CHOICE: log 111) -/
def copyWord (s : State) (fn n : Nat) (b : BitVec 5) (l : Lay) (r : Rop) : Out :=
  actWord s false (fun _ => []) copyRole fun g gr =>
    let c := mkCopy s g gr fn n b l r
    if c.reserved then s.trapNow g 13 s.cur.act (dw (c.queue * 256 + 5)) 0 0
    else match c.extentFault (listCap gr c) with
      | some cause => s.trapNow g 13 s.cur.act (dw (c.queue * 256 + cause)) 0 0
      | none =>
        if fn = 2 ∨ fn = 3 then
          let id := s.nextId
          -- the list's register travels with the command until the list, an access of class CR, is read
          let c1 := { c with listing := true, list := listCap gr c, pre := s.fencePre g 4, place := freePlace (s.queuePlaces c.core c.queue) 0 64 }
          ({ s with cmds := tset s.cmds id c1, nextId := id + 1 }).modGroup g fun x => { x with wait := .answer id, met := false }
        else match s.lateFault c with
          | some (code, detail) => s.trapNow g code s.cur.act detail 0 0
          | none => s.accept c

def execCpyLin (b : BitVec 5) (s : State) : Out := copyWord s 0 4 b .none .addS32
def execCpyTen (b : BitVec 5) (l : Lay) (s : State) : Out := copyWord s 1 8 b l .addS32
def execCpyGat (b : BitVec 5) (s : State) : Out := copyWord s 2 6 b .none .addS32
def execCpySct (b : BitVec 5) (s : State) : Out := copyWord s 3 6 b .none .addS32
def execCpyRed (b : BitVec 5) (r : Rop) (s : State) : Out := copyWord s 4 5 b .none r

/-- `qfence`: an entry that waits for the entries accepted before it into the named queues (R104, R365). -/
def execQfence (q : BitVec 3) (m : BitVec 8) (s : State) : Out :=
  actWord s false (fun _ => []) copyRole fun g gr =>
    let c := mkCopy s g gr 5 0 0 .none .addS32
    let core := s.coreOf gr
    s.accept { c with
      queue := q.toNat
      after := (s.cmds.filter fun (_, x) => x.core == core && x.ctx == gr.ctx && !x.system && !x.listing
        && decide (x.queue < 8) && m.getLsbD x.queue).map (·.1) }

end Sys2Proof.Machine
end

