-- ==== Sys2Proof/Machine/Matrix.lean ====
section
/-! DEFINITION. Matrix words (R340 to R353): what they check at issue, the engine's queue of a core (R145, R344), and what
MATRIX_ENGINE_PERFORM does: the arithmetic of `mma` and `mmb` (R143 to R153), tile loads and stores, and accumulator data. -/
namespace Sys2Proof.Machine

/-! ### Issue (R342) -/

/-- TCTL of a tile register after the words already queued for its crew (R344). -/
def State.tctlNow (s : State) (crew t : Nat) : DWord :=
  s.engine.foldl (fun v e => match e.word with
    | .tcfg t' x => if e.crew = crew ∧ t' = t then x else v
    | .acfg _ _ | .mma _ _ _ _ | .mmb _ _ _ _ | .azero _ | .ard _ _ _ | .awr _ _ _ | .acvt _ _ | .tld _ _ _ _ _
    | .tst _ _ _ _ _ => v)
    (match s.crew? crew with
      | none => 0
      | some c => (c.tile t).tctl)

/-- An accumulator of a crew. -/
def Crew.acc (c : Crew) (a : Nat) : Accum := (c.accs[a]?).getD ⟨none, []⟩

/-- The binding of an accumulator after the words already queued for its crew (R343, R344). -/
def State.bindNow (s : State) (crew a : Nat) : Option (Nat × Nat) :=
  s.engine.foldl (fun v e => match e.word with
    | .acfg a' w0 => if e.crew = crew ∧ a' = a then some (e.gidx, w0) else v
    | .tcfg _ _ | .mma _ _ _ _ | .mmb _ _ _ _ | .azero _ | .ard _ _ _ | .awr _ _ _ | .acvt _ _ | .tld _ _ _ _ _
    | .tst _ _ _ _ _ => v)
    (match s.crew? crew with
      | none => none
      | some c => (c.acc a).bind)

/-- The accumulator is bound to the issuing group (R343). -/
def State.boundTo (s : State) (gr : Group) (a : Nat) : Bool :=
  match s.bindNow gr.crew a with
  | none => false
  | some (gidx, _) => gidx == gr.gidx

/-- A matrix word enters its engine's queue. -/
def State.queueMatrix (s : State) (g : Nat) (gr : Group) (w : MWord) (op : Option Nat) : State :=
  { s with engine := s.engine ++
      [{ core := s.coreOf gr, crew := gr.crew, ctx := gr.ctx, group := g, gid := gr.gid, gidx := gr.gidx, act := s.cur.act,
         fmodes := s.cur.act.map fun i => (i, (gr.lane i).fmode), word := w, op := op, phase := 0 }] }

/-- A matrix word with a word in flight: `ard`, `tld` and `tst`. -/
def State.queueFlight (s : State) (g : Nat) (gr : Group) (w : MWord) (kind : OpKind) (counted : Bool) (cls rows : Nat) : State :=
  let (s1, sampled) := s.sampleTick gr
  let id := s1.nextId
  let op : Op :=
    { group := g, gid := gr.gid, kind := kind, counted := counted, cls := cls, word := s.cur.word, prov := s.cur.prov,
      hix := s.cur.hix, guard := s.cur.guard, rwc := s.cur.rwc, act := s.cur.act, left := 0,
      fails := [], buf := [], watch := false, sample := sampled, sectors := rows, replays := 0, last := 0 }
  let s2 := if sampled then s1.sampleHold g id else s1
  State.queueMatrix { s2 with ops := tset s2.ops id op, nextId := id + 1 } g gr w (some id)

/-- A matrix word: performed once for the group, when ACT is not empty (R342). -/
def matrixWord (s : State) (checks : Group → List (Bool × Nat)) (body : Nat → Group → State) : Out :=
  actWord s false checks matrixRole body

/-- The word traps TSHAPE or FMTMIX (R342). -/
def State.tshape (s : State) (g : Nat) : State := s.trapNow g 6 s.cur.act 0 0 0
def State.fmtmix (s : State) (g : Nat) : State := s.trapNow g 5 s.cur.act 0 0 0

/-- A value that TCTL does not take: neither zero nor legal (R341, R345). -/
def tctlBad (v : DWord) : Bool := v != 0 && !tctlLegal v

/-- A first lane that an accumulator cannot be bound to (R346). -/
def bindBad (gr : Group) (v : DWord) : Bool := v.toNat % 32 != 0 || decide (gr.lanes.length ≤ v.toNat)

/-- `tcfg` (R345). (DEDUCED: log 72) -/
def execTcfg (t : BitVec 4) (a : BitVec 5) (s : State) : Out :=
  matrixWord s (fun gr => [(tctlBad (gr.rs a.toNat), 3), (!tOk s gr t, 6)])
    fun g gr => s.queueMatrix g gr (.tcfg t.toNat (gr.rs a.toNat)) none

/-- `acfg` (R346). (DEDUCED: log 72) -/
def execAcfg (d : BitVec 3) (a : BitVec 5) (s : State) : Out :=
  matrixWord s (fun gr => [(bindBad gr (gr.rs a.toNat), 3), (!aOk s gr d, 6)])
    fun g gr => s.queueMatrix g gr (.acfg d.toNat (gr.rs a.toNat).toNat) none

/-- The bytes that a tile word's part takes in a row (R349). -/
def partBytes (t : DWord) (p : Part) : Nat :=
  match p with
  | .data => tRB t
  | .scale => tNB t
  | .both => tRB t + tNB t

/-- The first row whose bytes leave the window, with its offset, among rows i … i + n - 1. -/
def rowOutside (c : Cap) (sa sb bytes : Nat) : Nat → Nat → Option Nat
  | _, 0 => none
  | i, n + 1 => if c.len < sa + i * sb + bytes then some (sa + i * sb) else rowOutside c sa sb bytes (i + 1) n

/-- `tld` and `tst`: checked whole at issue (R347, R349). -/
def tileMem (s : State) (t : BitVec 4) (k : BitVec 4) (a b : BitVec 5) (p : Part) (isStore : Bool) : Out :=
  matrixWord s (fun gr => [(!tOk s gr t, 6)]) fun g gr =>
    let tc := s.tctlNow gr.crew t.toNat
    let c := gr.rk k.toNat
    let sa := (gr.rs a.toNat).toNat
    let sb := (gr.rs b.toNat).toNat
    let need := if isStore then rW else rR
    if tc == 0 || (p != .data && !tScm tc) then (s.sampleRefused g gr).tshape g
    else if sa % 16 ≠ 0 ∨ sb % 16 ≠ 0 ∨ c.low % 16 ≠ 0 then s.onceTrap g c 3 sa
    else match rowOutside c sa sb (partBytes tc p) 0 (tRows tc) with
      | some off => s.onceTrap g c 8 off
      | none =>
        if !holds c.rights need then s.onceTrap g c 9 sa
        else if !c.wellFormed then s.onceTrap g c 10 sa
        else if isStore then s.queueFlight g gr (.tst t.toNat p (c.low + sa) sb c) .store false 32 (tRows tc)
        else s.queueFlight g gr (.tld t.toNat p (c.low + sa) sb c) .tld true 16 (tRows tc)

def execTld (t k : BitVec 4) (a b : BitVec 5) (p : Part) (s : State) : Out := tileMem s t k a b p false
def execTst (t k : BitVec 4) (a b : BitVec 5) (p : Part) (s : State) : Out := tileMem s t k a b p true

/-- The class of a format (R146): 0 float, 1 integer, 2 binary. -/
def fmtClass (f : Nat) : Nat := if f ≤ 2 ∨ f = 9 ∨ f = 10 then 0 else if f = 8 then 2 else 1

/-- A legal pair of configured tiles for `mma` (R147, R152). -/
def mmaPair (ta tb : DWord) (sh : Shape) : Bool :=
  let a := tDesc ta; let b := tDesc tb
  fmtClass a.fmt == fmtClass b.fmt && a.w == b.w && fmtClass a.fmt != 2 &&
    !(sh == .exact && (a.fmt == 0 || a.fmt == 3 || b.fmt == 0 || b.fmt == 3))

/-- The lanes agree in RM, DAZ and FTZ: the low five bits of FMODE (R134, R144). -/
def agree (gr : Group) (act : List Nat) : Bool :=
  match act with
  | [] => true
  | i :: r => r.all fun j => fld (gr.lane j).fmode.toNat 4 0 == fld (gr.lane i).fmode.toNat 4 0

/-- `mma` (R352). -/
def execMma (d : BitVec 3) (a b : BitVec 4) (h : Shape) (s : State) : Out :=
  matrixWord s (fun gr => [(!(tOk s gr a && tOk s gr b && aOk s gr d), 6)]) fun g gr =>
    let ta := s.tctlNow gr.crew a.toNat
    let tb := s.tctlNow gr.crew b.toNat
    if ta == 0 || tb == 0 || !mmaPair ta tb h || !s.boundTo gr d.toNat then s.tshape g
    else if !agree gr s.cur.act then s.fmtmix g
    else s.queueMatrix g gr (.mma d.toNat a.toNat b.toNat h) none

/-- `mmb` (R153, R352). -/
def execMmb (d : BitVec 3) (a b : BitVec 4) (o : MmbOp) (s : State) : Out :=
  matrixWord s (fun gr => [(!(tOk s gr a && tOk s gr b && aOk s gr d), 6)]) fun g gr =>
    let ta := s.tctlNow gr.crew a.toNat
    let tb := s.tctlNow gr.crew b.toNat
    if ta == 0 || tb == 0 || (tDesc ta).fmt != 8 || (tDesc tb).fmt != 8 || !s.boundTo gr d.toNat then s.tshape g
    else s.queueMatrix g gr (.mmb d.toNat a.toNat b.toNat o) none

/-- A word of accumulator data: TSHAPE unless the accumulator is bound to the group (R343, R353). -/
def accWord (s : State) (d : BitVec 3) (regs : List (BitVec 7)) (body : Nat → Group → State) : Out :=
  matrixWord s (fun gr => [v1 gr regs, (!aOk s gr d, 6)]) fun g gr =>
    if s.boundTo gr d.toNat then body g gr else s.tshape g

def execAzero (d : BitVec 3) (s : State) : Out := accWord s d [] fun g gr => s.queueMatrix g gr (.azero d.toNat) none

def execArd (d : BitVec 3) (v : BitVec 7) (c : BitVec 6) (s : State) : Out :=
  accWord s d [v] fun g gr => s.queueFlight g gr (.ard d.toNat v.toNat c.toNat) .ard true 0 0

def execAwr (d : BitVec 3) (v : BitVec 7) (c : BitVec 6) (s : State) : Out :=
  accWord s d [v] fun g gr =>
    s.queueMatrix g gr (.awr d.toNat c.toNat (s.cur.act.map fun i => (i, (gr.lane i).rd v.toNat))) none

def execAcvt (d : BitVec 3) (c : AcvtDir) (s : State) : Out := accWord s d [] fun g gr => s.queueMatrix g gr (.acvt d.toNat c) none

/-! ### Elements (R124, R128 to R131) -/

/-- An element's place is in the tile, and not in an all-zero block. -/
def Tile.present (t : Tile) (i k : Nat) : Bool :=
  decide (i < tRows t.tctl ∧ k < tEpr t.tctl) && !(tScm t.tctl && t.scaleByte i (k / 32) == 0x80)

/-- The shift count of element k's block (R130). -/
def Tile.shift (t : Tile) (i k : Nat) : Int := if tScm t.tctl then sval 8 (t.scaleByte i (k / 32)) else 0

/-- A value times a power of two, exact. -/
def FVal.scale (x : FVal) (n : Int) : FVal :=
  match x with
  | .num s m e => .num s m (e + n)
  | .nan a b c => .nan a b c
  | .inf a => .inf a

/-- Val of a float element, under DAZ (R143, R144). -/
def Tile.fval (t : Tile) (daz : Bool) (i k : Nat) : FVal :=
  if !t.present i k then .num false 0 0
  else
    let d := tDesc t.tctl
    let c := t.code i k d.w
    let v := match d.fmt with
      | 0 => dazVal .f32 daz (Fmt.f32.decode c)
      | 1 => dazVal .f16 daz (Fmt.f16.decode c)
      | 2 => dazVal .bf16 daz (Fmt.bf16.decode c)
      | _ => decodeMF d c
    v.scale (t.shift i k)

/-- The plain value of an integer element (R146). -/
def Tile.ival (t : Tile) (i k : Nat) : Int :=
  if !t.present i k then 0
  else
    let d := tDesc t.tctl
    let c := t.code i k d.w
    if d.fmt = 5 ∨ d.fmt = 7 then (c : Int) else sval d.w c

/-! ### Sums (R148, R150, R151) -/

/-- One rounded addition of a shape. -/
def addR (md : Mode) (x y : FVal) : FVal := Fmt.f32.decode (deliver .f32 md (addVal md.rm x y))

/-- XSum: the exact sum rounded once. -/
def xsumR (md : Mode) (xs : List FVal) : FVal := Fmt.f32.decode (deliver .f32 md (xsum md.rm xs))

/-- CHUNK from the products that are left, at most n chunks. -/
def chunkSum (md : Mode) (x : FVal) (ps : List FVal) : Nat → FVal
  | 0 => x
  | n + 1 => match ps with
    | [] => x
    | _ :: _ => chunkSum md (addR md x (xsumR md (ps.take 32))) (ps.drop 32) n

/-- One level of TREE: adjacent pairs, an odd last one carried up. -/
def treeLevel (md : Mode) : List FVal → List FVal
  | [] => []
  | [x] => [x]
  | x :: y :: r => addR md x y :: treeLevel md r

/-- TREE's levels; n bounds their number. -/
def treeSum (md : Mode) : Nat → List FVal → FVal
  | 0, l => l.headD (.num false 0 0)
  | n + 1, l => match l with
    | [] => .num false 0 0
    | [x] => x
    | _ :: _ :: _ => treeSum md n (treeLevel md l)

/-- Sum(sh, c, p): the F32 code of the updated element. (DEDUCED: log 84) -/
def shapeSum (md : Mode) (sh : Shape) (c : FVal) (p : List FVal) : Nat :=
  match sh with
  | .lin => deliver .f32 md (p.foldl (addR md) c)
  | .chunk => deliver .f32 md (chunkSum md c p p.length)
  | .tree => deliver .f32 md (addVal md.rm c (treeSum md p.length p))
  | .exact => deliver .f32 md (xsum md.rm (c :: p))

/-- The number of products of an `mma` (R143). -/
def mmaK (w : Nat) : Nat := 1536 / w

/-- One element of a float update (R143). -/
def mmaFloat (md : Mode) (sh : Shape) (ta tb : Tile) (i j : Nat) (old : Word) : Word :=
  BitVec.ofNat 32 (shapeSum md sh (dazVal .f32 md.daz (Fmt.f32.decode old.toNat))
    ((List.range (mmaK (tDesc ta.tctl).w)).map fun k => mulVal (ta.fval md.daz i k) (tb.fval md.daz j k)))

/-- A product of integers with its shifts, floored (R148). -/
def shiftProd (a b n : Int) : Int := if 0 ≤ n then a * b * ((2 ^ n.toNat : Nat) : Int) else a * b / ((2 ^ (-n).toNat : Nat) : Int)

/-- One element of an integer update (R148). -/
def mmaInt (ta tb : Tile) (i j : Nat) (old : Word) : Word :=
  BitVec.ofInt 32 ((List.range (mmaK (tDesc ta.tctl).w)).foldl
    (fun x k => x + shiftProd (ta.ival i k) (tb.ival j k) (ta.shift i k + tb.shift j k)) old.toInt)

/-- A B1 row, with zero bits beyond the tile (R153). -/
def Tile.bits (t : Tile) (i : Nat) : Nat := if i < tRows t.tctl then (t.row i).toNat % 2 ^ tEpr t.tctl else 0

/-- The ones among n bits. -/
def popNat (x : Nat) : Nat → Nat
  | 0 => 0
  | n + 1 => x % 2 + popNat (x / 2) n

/-- One element of `mmb` (R153). -/
def mmbElem (op : MmbOp) (ta tb : Tile) (i j : Nat) (old : Word) : Word :=
  let x := match op with
    | .xor => ta.bits i ^^^ tb.bits j
    | .and => ta.bits i &&& tb.bits j
  old + BitVec.ofNat 32 (popNat x 1536)

/-! ### Accumulators -/

/-- Element (i, j) of an accumulator. -/
def Accum.elem (a : Accum) (i j : Nat) : Word := (((a.data[i]?).getD [])[j]?).getD 0

/-- The rows whose lanes are in ACT changed element by element, given the lane (R353). -/
def Accum.onRows (a : Accum) (act : List Nat) (f : Nat → Nat → Nat → Word → Word) : Accum :=
  match a.bind with
  | none => a
  | some (_, w0) =>
    { a with data := (List.range 64).map fun i =>
        (List.range 64).map fun j => if act.contains (w0 + i) then f (w0 + i) i j (a.elem i j) else a.elem i j }

/-- An accumulator of a crew changed. -/
def State.modAccum (s : State) (crew a : Nat) (f : Accum → Accum) : State :=
  s.modCrew crew fun c => { c with accs := c.accs.set a (f (c.acc a)) }

def State.modTile (s : State) (crew t : Nat) (f : Tile → Tile) : State :=
  s.modCrew crew fun c => { c with tiles := c.tiles.set t (f (c.tile t)) }

/-- The mode an `mma` runs in: RM, DAZ and FTZ only (R144). -/
def mmaMode (fmode : BitVec 16) : Mode := { modeOf fmode with sat := false, nanp := false, minx := false, fmal := false }

/-- The FMODE a queued word's lane had. -/
def MEntry.fmode (e : MEntry) (lane : Nat) : BitVec 16 :=
  match e.fmodes.find? (·.1 == lane) with
  | none => 0
  | some (_, m) => m

/-- The launch of a crew has executed a shape or `mmb` (R154). -/
def State.noteShape (s : State) (crew bit : Nat) : State :=
  match s.crew? crew with
  | none => s
  | some c => s.modLaunch c.launch fun l => { l with shapes := l.shapes ||| (1#8 <<< bit) }

def shapeBit : Shape → Nat
  | .lin => 0
  | .chunk => 1
  | .tree => 2
  | .exact => 3

/-! ### Tile loads (R344, R347, R348) -/

/-- The scale bytes a `tld` has received for row i, or those of the plane. -/
def loadedScale (buf : List (Nat × Nat × Byte)) (i b : Nat) : Nat :=
  match buf.find? fun (r, p, _) => r == i && p == 192 + b with
  | none => 0
  | some (_, _, x) => x.toNat

/-- The scale byte of block b in force for a load of data. -/
def Tile.scaleFor (t : Tile) (part : Part) (buf : List (Nat × Nat × Byte)) (i b : Nat) : Nat :=
  match part with
  | .both => loadedScale buf i b
  | .data | .scale => t.scaleByte i b

/-- The runs of a row's data bytes that are read: (first byte, count). -/
def Tile.runs (t : Tile) (part : Part) (buf : List (Nat × Nat × Byte)) (i : Nat) : List (Nat × Nat) :=
  let rb := tRB t.tctl
  if tScm t.tctl then
    ((List.range (tNB t.tctl)).filter fun b => t.scaleFor part buf i b != 0x80).map fun b =>
      let n := 4 * (tDesc t.tctl).w
      (n * b, min n (rb - n * b))
  else [(0, rb)]

/-- The pieces of a load: rows, with the place of each run in the row image and in memory. -/
def loadPieces (sh rows base stride : Nat) (runs : Nat → List (Nat × Nat)) (at_ memAt : Nat) : List Piece :=
  (List.range rows).flatMap fun i => (runs i).flatMap fun (b, n) =>
    rowPieces sh i (at_ + b) (base + i * stride + memAt + b) (List.replicate n 0)

/-- The byte a load received for a place of row i. -/
def loadedByte (buf : List (Nat × Nat × Byte)) (i p : Nat) : Byte :=
  match buf.find? fun (r, q, _) => r == i && q == p with
  | none => 0
  | some (_, _, x) => x

/-- The tile with a load's rows written as one update (R344, R348). -/
def Tile.loaded (t : Tile) (part : Part) (buf : List (Nat × Nat × Byte)) : Tile :=
  let rows := tRows t.tctl
  let bits := tEpr t.tctl * (tDesc t.tctl).w
  { t with
    rows := if part = .scale then t.rows else (List.range 64).map fun i =>
      if i < rows then BitVec.ofNat 1536 (leNat ((List.range (tRB t.tctl)).map (loadedByte buf i)) % 2 ^ bits) else t.row i
    scale := if part = .data then t.scale else (List.range 64).map fun i =>
      if i < rows then BitVec.ofNat 96 (leNat ((List.range (tNB t.tctl)).map fun b => loadedByte buf i (192 + b))) else t.srow i }

/-! ### The engine -/

/-- The first queued word of a core's engine that can go on: the oldest of its crew, its crew not gated, and a load's
bytes all there (R145, R222, R344). (DEDUCED: log 54) -/
def State.engineNext (s : State) (core : Nat) : List MEntry → List Nat → Option MEntry
  | [], _ => none
  | e :: r, crews =>
    let gated := match s.crew? e.crew with
      | none => true
      | some c => c.gated
    let waits := match e.op with
      | none => false
      | some n => match tget s.ops n with
        | none => false
        | some o => decide (o.left ≠ 0)
    if e.core = core ∧ !crews.contains e.crew ∧ !gated ∧ !waits then some e else State.engineNext s core r (e.crew :: crews)

/-- The queue without an entry. -/
def State.leaveEngine (s : State) (e : MEntry) : State := { s with engine := s.engine.erase e }

/-- The entry with its word in flight finished. -/
def State.flightDone (s : State) (e : MEntry) : State :=
  match e.op with
  | none => s.leaveEngine e
  | some n => match tget s.ops n with
    | none => s.leaveEngine e
    | some o => (s.leaveEngine e).finishOp n o

/-- A load goes on to its next phase, with the pieces it asks for. -/
def State.loadPhase (s : State) (e : MEntry) (phase : Nat) (cap : Cap) (ps : List Piece) : State :=
  match e.op with
  | none => s.leaveEngine e
  | some n =>
    let s1 := { s with engine := s.engine.map fun x => if x = e then { x with phase := phase } else x }
    s1.sendTile e n cap false ps

/-- The entry's word is performed (R143 to R153, R344 to R353). -/
def State.performMatrix (s : State) (e : MEntry) (c : Crew) : State :=
  match e.word with
  | .tcfg t v => (s.leaveEngine e).modTile e.crew t fun x => { x with tctl := v }
  | .acfg a w0 => (s.leaveEngine e).modAccum e.crew a fun x => { x with bind := some (e.gidx, w0) }
  | .mma a ta tb sh =>
    let x := c.tile ta; let y := c.tile tb
    let md := mmaMode (e.fmode (e.act.headD 0))
    let f := fun (_ i j : Nat) (old : Word) =>
      if fmtClass (tDesc x.tctl).fmt = 0 then mmaFloat md sh x y i j old else mmaInt x y i j old
    ((s.leaveEngine e).modAccum e.crew a fun ac => ac.onRows e.act f).noteShape e.crew (shapeBit sh)
  | .mmb a ta tb op =>
    ((s.leaveEngine e).modAccum e.crew a fun ac =>
      ac.onRows e.act fun _ i j old => mmbElem op (c.tile ta) (c.tile tb) i j old).noteShape e.crew 4
  | .azero a => (s.leaveEngine e).modAccum e.crew a fun ac => ac.onRows e.act fun _ _ _ _ => 0
  | .ard a vd col =>
    let ac := c.acc a
    let s1 := match ac.bind with
      | none => s
      | some (_, w0) => s.modGroup e.group fun gr =>
          gr.onLanes (e.act.filter fun l => decide (w0 ≤ l ∧ l < w0 + 64)) fun l x => x.wr vd (ac.elem (l - w0) col)
    s1.flightDone e
  | .awr a col vs =>
    (s.leaveEngine e).modAccum e.crew a fun ac => ac.onRows e.act fun lane _ j old =>
      if j = col then match vs.find? (·.1 == lane) with
        | none => old
        | some (_, v) => v
      else old
  | .acvt a d =>
    (s.leaveEngine e).modAccum e.crew a fun ac => ac.onRows e.act fun lane _ _ old =>
      BitVec.ofNat 32 (match d with
        | .s32ToF32 => convert (.flt .f32) (.int true 32) (modeOf (e.fmode lane)) old.toNat
        | .f32ToS32 => convert (.int true 32) (.flt .f32) (modeOf (e.fmode lane)) old.toNat)
  | .tst t part base stride cap => (s.leaveEngine e).startStore e (c.tile t) part base stride cap
  | .tld t part base stride cap =>
    let x := c.tile t
    let buf := match e.op with
      | none => []
      | some n => match tget s.ops n with
        | none => []
        | some o => o.buf
    let sh := s.sectorShift e.ctx cap.handle
    let scales := loadPieces sh (tRows x.tctl) base stride (fun _ => [(0, tNB x.tctl)]) 192 (if part = .both then tRB x.tctl else 0)
    let datas := loadPieces sh (tRows x.tctl) base stride (x.runs part buf) 0 0
    let write := (s.modTile e.crew t fun y => y.loaded part buf).flightDone e
    match e.phase, part with
    | 0, .data => s.loadPhase e 2 cap datas
    | 0, _ => s.loadPhase e 1 cap scales
    | 1, .both => s.loadPhase e 2 cap datas
    | _, _ => write

/-- MATRIX_ENGINE_PERFORM (R145, R344): the engine of a core takes the next step of its work. -/
def execMatrixEnginePerform (core : Nat) (s : State) : Out :=
  match s.engineNext core s.engine [] with
  | none => .refused .notDue
  | some e => match s.crew? e.crew with
    | none => .refused .notDue
    | some c => .next (s.performMatrix e c)

end Sys2Proof.Machine
end

