-- ==== Sys2Proof/Machine/PortEvents.lean ====
section
/-! DEFINITION. The steps of the memory path and of what waits on it: PORT_ACCESS, CLAIM_CHECK, ANSWER_RETURN,
BARRIER_ARRIVAL, FENCE_COMPLETE, SINV_COMPLETE, GROUP_WAKE, PAGE_MIGRATION, TARGETED_REPLAY, CLAIM_SCRUB, FUSE_RESOLVE and
GROUP_RETIRE. Each refuses where its step is not due. -/
namespace Sys2Proof.Machine

/-! ### The port and the home -/

/-- The access stands before its port and may go ahead of those of its group (R91, R99, R215). -/
def State.portDue (s : State) (id : Nat) (a : Access) : Bool := a.stage == .toPort && s.mayPass id a

/-- PORT_ACCESS (R80, R189, R440). -/
def execPortAccess (access : Nat) (s : State) : Out :=
  match tget s.accs access with
  | none => .refused .notDue
  | some a =>
    if s.portDue access a && !s.givesWay a then match s.judgeBank a with
      | some b => .next (s.holdAccess access b)
      | none => s.portAccess access a
    else .refused .notDue

/-- A plain access waits at the home of a RACECHK line, no refresh holds it (R440), and the home is not in save frames (R227). -/
def State.claimDue (s : State) (a : Access) : Bool :=
  a.stage == .toHome && !s.bankHeld (a.flats.headD 0) && !isAway (a.flats.headD 0) && match s.opKind a.op with
  | .arrive _ _ _ => false
  | .ld _ _ | .lds _ | .store | .kld _ _ | .atom _ _ _ _ | .tld | .ard | .register _ _ _ => true

/-- CLAIM_CHECK (R80, R114, R115): check, claim and access are one step. (DEDUCED: log 75) -/
def execClaimCheck (access : Nat) (s : State) : Out :=
  match tget s.accs access with
  | none => .refused .notDue
  | some a =>
    if s.claimDue a && !s.givesWay a then
      .next (s.claimAccess access a a.otherGroup fun s => s.performAccess access a (s.opKind a.op) false)
    else .refused .notDue

/-- An answer can return: its group is on its core, or is gone for good (R223). (DEDUCED: log 50) -/
def State.answerDue (s : State) (a : Access) : Bool :=
  a.isDone && (a.group == noGroup || (s.group? a.group).isSome)

/-- ANSWER_RETURN (R77, R319). (DEDUCED: log 12, 50) -/
def execAnswerReturn (access : Nat) (s : State) : Out :=
  match tget s.accs access with
  | none => .refused .notDue
  | some a =>
    if s.answerDue a then match tget s.ops a.op with
      | some o => .next (s.answered access a o)
      | none => .next { s with accs := tdel s.accs access }
    else .refused .notDue

/-! ### Arrivals (R107, R108) -/

/-- What an arrival does to a barrier word. -/
inductive Arrival where
  /-- count 0: nothing is applied -/
  | nothing
  | refused (word : Nat)
  | applied (word : Nat) (flips : Bool)
  deriving DecidableEq, Repr

/-- An arrival of count n on a barrier word (R108). -/
def arrival (w n : Nat) : Arrival :=
  let arrived := fld w 27 0
  let expected := fld w 55 28
  if n = 0 then .nothing
  else if fld w 63 58 ≠ 0 ∨ expected < arrived + n then .refused (w ||| 2 ^ 57)
  else if arrived + n = expected then .applied ((w - arrived) ^^^ 2 ^ 56) true
  else .applied (w + n) false

/-- Every waiter of a barrier word wakes (R108). -/
def State.wakeAll (s : State) (flat : Nat) : State :=
  let wake := fun (gr : Group) => match gr.wait with
    | .phase a _ _ => if a = flat then { gr with met := true } else gr
    | .none | .word _ _ | .fuse _ _ | .compose _ _ | .fence _ _ _ _ | .sinv _ _ _ _ _ | .answer _ | .store _ => gr
  { s with groups := tmap s.groups fun _ gr => wake gr
           savedCrews := tmap s.savedCrews fun _ c => { c with groups := c.groups.map wake } }

/-- Writes of earlier words of the group stand in its crew's buffer (R156). -/
def State.bufferedBefore (s : State) (g n : Nat) : Bool :=
  match s.group? g with
  | none => false
  | some gr => match s.crew? gr.crew with
    | none => false
    | some c => c.dbuf.any fun e => e.uid == gr.uid && decide (e.seq < n)

/-- Earlier words of the group have performed (R108). -/
def State.earlierDone (s : State) (g n : Nat) : Bool :=
  (s.ops.all fun (m, o) => decide (n ≤ m) || o.group != g || s.opPerformed m) && !s.bufferedBefore g n

/-- An arrival waits at its home, no refresh holds it, the home is not in save frames, and the arriver's earlier accesses are performed (R108, R440). -/
def State.arrivalDue (s : State) (a : Access) : Bool :=
  a.stage == .toHome && !s.bankHeld (a.flats.headD 0) && !isAway (a.flats.headD 0) && (match s.opKind a.op with
    | .arrive _ _ _ => true
    | .ld _ _ | .lds _ | .store | .kld _ _ | .atom _ _ _ _ | .tld | .ard | .register _ _ _ => false) && s.earlierDone a.group a.op

/-- The arrival of an instruction at its home (R108, R109, R330, R332). -/
def State.arrive (s : State) (id : Nat) (a : Access) (count : Nat) (thenWait : Bool) (scope : Nat) : State :=
  let flat := a.flats.headD 0
  let w := mnat s.mem flat 8
  let s0 := if a.group = noGroup then s else s.release a.group
  let done := fun (s : State) => s.modAcc id fun x => { x with stage := .answered, res := a.pieces.map fun _ => .value w false }
  let wait := fun (s : State) =>
    if thenWait then s.modGroup a.group fun gr => { gr with wait := .phase flat (w / 2 ^ 56 % 2 == 1) scope, met := false } else s
  match arrival w count with
  | .nothing => done (wait s0)
  | .refused v => (s0.memWrite flat (leBytes v 8)).refuse id a 12 2 (dw v)
  | .applied v flips =>
    if flips then
      let s1 := if thenWait && decide (2 ≤ scope) then s0.dropLines a.core a.ctx else s0
      done (s1.memWrite flat (leBytes v 8))
    else done (wait (s0.memWrite flat (leBytes v 8)))

/-- BARRIER_ARRIVAL (R108). -/
def execBarrierArrival (access : Nat) (s : State) : Out :=
  match tget s.accs access with
  | none => .refused .notDue
  | some a => match s.arrivalDue a, s.opKind a.op with
    | true, .arrive n w c => .next (s.arrive access a n w c)
    | _, _ => .refused .notDue

/-! ### Waits (R76, R97, R334, R385) -/

/-- A group that waits may go on when its wait is over: neither gated nor stopped (R207, R225). -/
def Group.awake (gr : Group) : Bool := gr.stop == .run && !gr.gated

/-- A fence's wait is over. -/
def State.fenceDue (s : State) (gr : Group) : Bool :=
  gr.awake && match gr.wait with
  | .fence ops cmds _ _ => s.preDone ops cmds
  | .none | .phase _ _ _ | .word _ _ | .fuse _ _ | .compose _ _ | .sinv _ _ _ _ _ | .answer _ | .store _ => false

/-- FENCE_COMPLETE (R97, R98, R326). -/
def execFenceComplete (group : Nat) (s : State) : Out :=
  match s.group? group with
  | none => .refused .notDue
  | some gr => match s.fenceDue gr, gr.wait with
    | true, .fence _ _ drop ends => .next ((s.modGroup group fun gr => { gr with wait := .none }).fenceOver group drop ends)
    | _, _ => .refused .notDue

/-- A `sinv`'s earlier writes are performed. -/
def State.sinvDue (s : State) (gr : Group) : Bool :=
  gr.awake && match gr.wait with
  | .sinv ops cmds _ _ _ => s.preDone ops cmds
  | .none | .phase _ _ _ | .word _ _ | .fuse _ _ | .compose _ _ | .fence _ _ _ _ | .answer _ | .store _ => false

/-- A cached station's code, where the context has it, meets the arena bytes [low, low + len); no bytes meet nothing. -/
def codeMeets (c : Context) (x : Cached) (low len : Nat) : Bool :=
  len != 0 && c.objs.any fun o => o.hash == x.hash && match o.kernels[x.kernel]? with
    | none => false
    | some k => match k.stations[x.num]? with
      | none => false
      | some (_, off, n) => decide (off < low + len ∧ low < off + 4 * n)

/-- A group that was pre-empted between a store to the arena and the `sinv`, and went on elsewhere with code from before the store
performed, runs the arena's code once the `sinv` has made its station stale (R230); any other runs its code to the vote (R386). -/
def Group.renewed (gr : Group) (ctx : Nat) (stale : Nat → Bool) : Group :=
  if gr.ctx == ctx && gr.moved && gr.copy.any stale then { gr with refetch := true, moved := false } else gr

/-- The copies of a context's stations in a range of the arena are stale, and groups that moved run them no longer. -/
def State.makeStale (s : State) (ctx : Nat) (c : Context) (low len : Nat) : State :=
  let stale := fun n => s.store.any fun x => x.id == n && codeMeets c x low len
  { s with
    store := s.store.map fun x => if codeMeets c x low len then { x with stale := true } else x
    groups := tmap s.groups fun _ gr => gr.renewed ctx stale
    savedCrews := tmap s.savedCrews fun _ x => { x with groups := x.groups.map fun gr => gr.renewed ctx stale } }

/-- SINV_COMPLETE (R230, R385, R386): the context's precomposed stations in the range are stale on every core. -/
def execSinvComplete (group : Nat) (s : State) : Out :=
  match s.group? group with
  | none => .refused .notDue
  | some gr => match s.sinvDue gr, gr.wait, s.ctx? gr.ctx with
    | true, .sinv _ _ h low len, some c =>
      let s1 := s.modGroup group fun gr => { gr with wait := .none }
      .next (if h = c.arena then s1.makeStale gr.ctx c low len else s1)
    | _, _, _ => .refused .notDue

/-- A precomposed station's code as the core of a group gets it. -/
def State.codeOn (s : State) (gr : Group) (num : Nat) : Option (State × Nat × List Word) :=
  s.codeFor (s.coreOf gr) gr.ctx (s.codeOf gr).1 (s.codeOf gr).2 num

/-- The running station's code from the arena as it stands (R228, R230): a copy with other words is stale, and the pages are in
the fast tier. -/
def State.codeAnew (s : State) (gr : Group) : Option (State × Nat × List Word) :=
  let (codeid, kernel) := s.codeOf gr
  if !(s.stationAway gr.ctx codeid kernel gr.station).isEmpty || s.stationHeld gr.ctx codeid kernel gr.station then none
  else
    let ws := s.fetchStation gr.ctx codeid kernel gr.station
    let s1 := { s with store := s.store.map fun (x : Cached) =>
      if x.core == s.coreOf gr && x.hash == s.hashOf gr.ctx codeid && x.kernel == kernel && x.num == gr.station && x.words != ws
      then { x with stale := true } else x }
    s1.codeOn gr gr.station

/-- The code of the running station can be fetched on the group's new core (R228). -/
def State.refetchDue (s : State) (gr : Group) : Bool := gr.refetch && !gr.gated && (s.codeAnew gr).isSome

/-- The running station's code on the new core. -/
def State.refetched (s : State) (g : Nat) (gr : Group) : State :=
  match s.codeAnew gr with
  | none => s
  | some (s1, n, ws) => s1.modGroup g fun x => { x with code := ws, copy := some n, refetch := false }

/-- The word that a waiting group watches. -/
def watchedWord : Wait → Option Nat
  | .phase a _ _ | .word a _ => some a
  | .none | .fuse _ _ | .compose _ _ | .fence _ _ _ _ | .sinv _ _ _ _ _ | .answer _ | .store _ => none

/-- A wait of `barw`, `bars` or `waitw` whose condition has held. -/
def Group.metDue (gr : Group) : Bool := gr.awake && gr.met && (watchedWord gr.wait).isSome

/-- A group that waits to enter a station can: it is open or composed, or the store gets its code (R41, R418). -/
def State.enterDue (s : State) (gr : Group) : Bool :=
  gr.awake && match gr.wait with
  | .store x => x.comp.isSome || (s.codeOn gr x.num).isSome
  | .none | .phase _ _ _ | .word _ _ | .fuse _ _ | .compose _ _ | .fence _ _ _ _ | .sinv _ _ _ _ _ | .answer _ => false

/-- A group goes on from a wait, or with its code (R76, R228, R418). -/
def State.wakeDue (s : State) (gr : Group) : Bool := gr.metDue || s.enterDue gr || s.refetchDue gr

/-- A group whose condition has held goes on; its core drops cached lines where the wait orders later reads (R109, R331, R333). -/
def State.wakeOne (s : State) (g : Nat) (gr : Group) : State :=
  let s1 := s.modGroup g fun gr => { gr with wait := .none, met := false }
  match gr.wait with
  | .phase _ _ scope => if 2 ≤ scope then s1.dropLines (s.coreOf gr) gr.ctx else s1
  | .word _ _ => s1.dropLines (s.coreOf gr) gr.ctx
  | .none | .fuse _ _ | .compose _ _ | .fence _ _ _ _ | .sinv _ _ _ _ _ | .answer _ | .store _ => s1

/-- The groups that go on together with one: all whose condition on its word has held (R76). -/
def State.wakers (s : State) (gr : Group) : List (Nat × Group) :=
  s.groups.filter fun (_, x) => x.metDue && watchedWord x.wait == watchedWord gr.wait

/-- GROUP_WAKE (R41, R76, R109, R228, R331, R333, R418). -/
def execGroupWake (group : Nat) (s : State) : Out :=
  match s.group? group with
  | none => .refused .notDue
  | some gr =>
    if s.refetchDue gr then .next (s.refetched group gr)
    else if gr.metDue then .next ((s.wakers gr).foldl (fun s x => s.wakeOne x.1 x.2) s)
    else match s.enterDue gr, gr.wait with
      | true, .store x => .next ((s.modGroup group fun gr => { gr with wait := .none, met := false }).enter group x)
      | _, _ => .refused .notDue

/-- FUSE_RESOLVE (R48 to R50). (DEDUCED: log 76) -/
def execFuseResolve (crew site : Nat) (s : State) : Out :=
  if s.siteDue crew site then .next (s.resolveSite crew site) else .refused .notDue

/-- A group's vote found no live lane, and its words are settled (R38, R370). -/
def State.retireDue (s : State) (g : Nat) (gr : Group) : Bool :=
  gr.awake && gr.ended && gr.wait == .none && gr.stacked.isEmpty && gr.retry.isEmpty && s.settled g

/-- GROUP_RETIRE (R28, R38, R370). -/
def execGroupRetire (group : Nat) (s : State) : Out :=
  match s.group? group with
  | none => .refused .notDue
  | some gr => if s.retireDue group gr then .next (s.retireGroup group) else .refused .notDue

/-! ### Pages (R215 to R217) -/

/-- The bytes of one range written over another, wholly. -/
def moveBytes (m : List Host.Cell) (src dst n : Nat) : List Host.Cell :=
  (m.filter fun c => decide (src ≤ c.1 ∧ c.1 < src + n)).foldl (fun m c => mput m (dst + (c.1 - src)) c.2)
    (m.filter fun c => !decide (dst ≤ c.1 ∧ c.1 < dst + n))

/-- The tags of one range of granules set as those of another. -/
def moveTags (ts : List Nat) (src dst n : Nat) : List Nat :=
  (ts.filter fun t => decide (src ≤ t ∧ t < src + n)).foldl (fun ts t => tagSet ts (dst + (t - src)))
    (ts.filter fun t => !decide (dst ≤ t ∧ t < dst + n))

/-- A page map entry with another residency and frame. -/
def pmeWith (p res frame : Nat) : Nat := res * 2 ^ 62 + fld p 61 48 * 2 ^ 48 + frame * 2 ^ 16 + fld p 15 0

/-- A page map entry written by a fault unit. -/
def State.writePme (s : State) (pme v : Nat) : State := s.memWrite pme (leBytes v 8)

/-- A migration can begin, or its want of a frame is still to be reported. -/
def State.migrationDue (s : State) (e : WaitEntry) : Bool := !e.migrated && !(s.fastFree.isEmpty && e.asked)

/-- The bank under a hold that a migration meets: of the entry, or of the frames (R440). -/
def State.migrationBank (s : State) (e : WaitEntry) : Option (Nat × Nat) :=
  s.rangeBank e.pme 8 <|> match s.fastFree with
  | [] => none
  | f :: _ => s.rangeBank (capBase + pmeFrame (mnat s.mem e.pme 8) * 65536) 65536 <|> s.rangeBank (f * 65536) 65536

/-- PAGE_MIGRATION (R216 steps 1 to 5): the page and its tags move to a frame of the fast tier, or the empty pool is
reported; a refresh holds it (R440). -/
def execPageMigration (entry : Nat) (s : State) : Out :=
  match tget s.waits entry with
  | none => .refused .notDue
  | some e =>
    if !s.migrationDue e then .refused .notDue
    else if let some b := s.migrationBank e then s.holdStep b (.pageMigration entry)
    else
      let p := mnat s.mem e.pme 8
      match s.fastFree with
      | [] =>
        let s1 := { s.writePme e.pme (pmeWith p 2 (pmeFrame p)) with waits := tset s.waits entry { e with asked := true } }
        .next (s1.report 1 0 [dw e.die])
      | f :: r =>
        let src := capBase + pmeFrame p * 65536
        let s1 := { s with
          mem := moveBytes s.mem src (f * 65536) 65536
          tags := moveTags s.tags (src / 16) (f * 4096) 4096
          fastFree := r
          waits := tset s.waits entry { e with migrated := true } }
        .next (((s1.writePme e.pme (pmeWith p 0 f)).dropRange src 65536).dropRange (f * 65536) 65536)

/-- An access is presented to its port once more. -/
def Access.represent (a : Access) : Access := { a with stage := .toPort, replays := a.replays + 1 }

/-- An access that waits for what `ref` stands for is presented once more; one that a refresh held goes on (R216, R440). -/
def Access.freed (a : Access) (ref : Nat) : Access :=
  match a.stage with
  | .parked n => if n = ref then a.represent else a
  | .overflow n => if overflowRef + n = ref then a.represent else a
  | .bank _ _ => if ref = bankRef then { a with stage := .toPort } else a
  | .toPort | .toHome | .forHead | .answered | .replay => a

/-- The station that a group's thread of issue needs code for. -/
def Group.codeNeed (gr : Group) : Option Nat :=
  if gr.refetch then some gr.station else match gr.wait with
  | .store x => if x.comp.isSome then none else some x.num
  | .none | .phase _ _ _ | .word _ _ | .fuse _ _ | .compose _ _ | .fence _ _ _ _ | .sinv _ _ _ _ _ | .answer _ => none

/-- What is parked under a reference is so no longer when that one is replayed. -/
def unparked (ref : Nat) (p : Option Nat) : Option Nat := if p = some ref then none else p

/-- A waiter for what `ref` stands for stands before its port again, and no other of its own (R216); a group asks for the pages of its
code that are still elsewhere. A step, from outside or of the device, is taken again as the move it is. -/
def State.represent (s : State) (ref : Nat) (w : Waiter) : State :=
  match w with
  | .access id => s.modAcc id fun a => a.freed ref
  | .thread t => s.modThread t fun th => { th with parked := unparked ref th.parked }
  | .command id => s.modCmd id fun c => { c with parked := unparked ref c.parked }
  | .station g => match s.group? g with
    | none => s
    | some gr => match gr.codeNeed with
      | none => s
      | some n => s.askCode g (s.stationAway gr.ctx (s.codeOf gr).1 (s.codeOf gr).2 n)
  | .outside _ | .posted _ | .step _ => s

/-- TARGETED_REPLAY (R216 step 6, R217): the accesses of the entry, in order, then those of the die's overflow list, stand before
their ports again, and are the moves that come next. -/
def execTargetedReplay (entry : Nat) (s : State) : Out :=
  match tget s.waits entry with
  | none => .refused .notDue
  | some e =>
    if e.migrated then
      let ws := e.waiters.map (Move.present entry) ++ (s.overflow.filter (·.1 == e.die)).map fun x => Move.present (overflowRef + e.die) x.2
      .next { s with waits := tdel s.waits entry, overflow := s.overflow.filter (·.1 != e.die), agenda := ws ++ s.agenda }
    else .refused .notDue

/-! ### Claims (R117) -/

/-- A claim field that is current, or reset. -/
def State.scrubField (s : State) (c : Nat × Nat) : Nat × Nat := if s.current c then c else (0xFFFFF, 0)

/-- A claim tag with its stale fields reset. -/
def State.scrubbed (s : State) (c : Claim) : Claim :=
  { c with rd0 := s.scrubField c.rd0, rd1 := s.scrubField c.rd1, wr := s.scrubField c.wr }

/-- CLAIM_SCRUB (R117). (DEDUCED: log 75) -/
def execClaimScrub (line : Nat) (s : State) : Out :=
  match tget s.claims line with
  | none => .refused .notDue
  | some c => if s.scrubbed c = c then .refused .notDue else .next { s with claims := tset s.claims line (s.scrubbed c) }

end Sys2Proof.Machine
end

