-- ==== Sys2Proof/Machine/CopyEngine.lean ====
section
/-! DEFINITION. The copy engine: chunks (R357, R361 to R364), tags (R186), crew ownership (R157, R158), completion (R105,
R358), `qfence` (R104), copy faults (R213, R214), and the writes of the device that wait for a page (R65, R423). -/
namespace Sys2Proof.Machine

/-! ### The entries of a queue (R103, R356) -/

/-- An entry stands first among those of its context in its queue. -/
def State.isFront (s : State) (id : Nat) (c : Copy) : Bool :=
  s.cmds.all fun (n, x) => decide (id ≤ n) || x.ctx != c.ctx || x.core != c.core || x.queue != c.queue || x.listing

/-- The entry may go on, were no access of it parked (R97, R103, R222). -/
def State.cmdFree (s : State) (id : Nat) (c : Copy) : Bool :=
  s.isFront id c && !c.faulted && !c.waitHead && !s.cmdGated c && s.preDone c.pre.1 c.pre.2

/-- The entry may go on with its bytes or its completion (R97, R103, R215, R222). -/
def State.cmdReady (s : State) (id : Nat) (c : Copy) : Bool := s.cmdFree id c && c.parked.isNone

/-! ### Places of bytes -/

/-- What stands in a command's way: a fault cause, a page elsewhere, a frame that does not exist, the serial order, or a
refusal by crew ownership (R157, R158, R214, R215). -/
inductive Hitch where
  | fault (cause : Nat)
  | page (pme : Nat)
  | frame (f : Nat)
  | waitHead
  | race (write : Bool)
  /-- a bank's refresh (R440) -/
  | bank (controller bank : Nat)
  /-- an urgent read at the controller (R80) -/
  | urgent
  deriving DecidableEq, Repr

/-- One side of a command as the port judges it: capability, right and entry version. -/
structure Side where
  cap   : Cap
  need  : Nat
  entry : Option Entry
  deriving DecidableEq, Repr

/-- The place of the byte at a window offset. -/
def State.sidePlace (s : State) (x : Side) (off : Nat) : Place := judge s.mem x.entry x.cap.kind x.need (x.cap.low + off) 1

/-- The flat address of a byte, if it is in a store that can be reached now. -/
def State.sideFlat (s : State) (x : Side) (off : Nat) : Option Nat :=
  match s.sidePlace x off with
  | .at_ f => some f
  | .denied _ | .elsewhere _ | .window _ | .noFrame _ => none

/-- What hinders one byte. A window that does not discard takes no completion word either (cause 5). (DESIGN CHOICE: log 103) -/
def placeHitch (s : State) (c : Copy) (p : Place) (write : Bool) : Option Hitch :=
  match p with
  | .denied _ => some (.fault 1)
  | .elsewhere pme => some (.page pme)
  | .noFrame f => some (.frame f)
  | .window d => if write && !windowDiscards (s.recipe c.ctx) d then some (.fault 5) else none
  | .at_ f =>
    if s.hostFails f then some (.fault 3)
    else if s.peerFails f then some (.fault 4)
    else match bankAt f with
      | none => none
      | some b => if s.refresh.contains b then some (.bank b.1 b.2) else if s.urgentAt b.1 then some .urgent else none

/-- The first hitch of a list of bytes. -/
def firstHitch (s : State) (c : Copy) (x : Side) (write : Bool) : List Nat → Option Hitch
  | [] => none
  | o :: r => match placeHitch s c (s.sidePlace x o) write with
    | some h => some h
    | none => firstHitch s c x write r

/-- The version of an entry by which a span of bytes is judged, and the state with the port's copy (R190). -/
def State.sideFor (s : State) (c : Copy) (cap : Cap) (need : Nat) (offs : List Nat) : State × Side :=
  let lo := offs.foldl min (offs.headD 0)
  let hi := offs.foldl max 0
  let (s1, e) := s.portEntry (portOf c.core) c.ctx cap.handle cap.kind need (cap.low + lo) (hi - lo + 1)
  (s1, ⟨cap, need, e⟩)

/-- A refresh holds what the port reads to judge a span of bytes (R440). -/
def State.sideBank (s : State) (c : Copy) (cap : Cap) (need : Nat) (offs : List Nat) : Option (Nat × Nat) :=
  if s.refresh.isEmpty then none
  else
    let at_ := fun (o n : Nat) => s.tableBank (portOf c.core) c.ctx cap.handle cap.kind need (cap.low + o) n
    let lo := offs.foldl min (offs.headD 0)
    let hi := offs.foldl max 0
    at_ lo (hi - lo + 1) <|> at_ hi 1

/-! ### Crew ownership (R157, R158) -/

/-- The DETERM launch that a command belongs to. -/
def State.cmdSerial (s : State) (c : Copy) : Option (Crew × Launch) := if c.system then none else s.serialLaunch c.crew

/-- The lines of bytes, once each. -/
def linesOf (fs : List Nat) : List Nat := sortNat (fs.map (· / 64))

/-- The verdict of the serial order on a line. (DEDUCED: log 49) -/
def serialHitch (s : State) (cr : Crew) (l : Launch) (shared write : Bool) (line : Nat) : Option Hitch :=
  let flat := line * 64
  let o := s.ownerOf cr.launch line
  if cr.ownsPad flat then none
  else match if write then writeSerial o cr.idx (cr.idx == l.head) shared (isOutside flat)
             else if cr.buffers line then .waits else readSerial o cr.idx l.head shared with
    | .direct => none
    | .buffer | .waits => some .waitHead
    | .race w => some (.race w)

/-- The first line that the serial order holds or refuses. -/
def serialHitches (s : State) (cr : Crew) (l : Launch) (shared write : Bool) : List Nat → Option Hitch
  | [] => none
  | x :: r => match serialHitch s cr l shared write x with
    | some h => some h
    | none => serialHitches s cr l shared write r

/-- The owner records of lines after a direct access. -/
def State.keepOwners (s : State) (cr : Crew) (l : Launch) (shared write : Bool) : List Nat → State
  | [] => s
  | x :: r =>
    State.keepOwners (if cr.ownsPad (x * 64) then s else s.keepOwner cr.launch l cr.idx x write shared (isOutside (x * 64)))
      cr l shared write r

/-- Whether a side's object is SHARED. -/
def Side.shared (x : Side) : Bool :=
  match x.entry with
  | none => false
  | some e => e.shared

/-- What the serial order says of the bytes of a side. -/
def State.sideSerial (s : State) (c : Copy) (x : Side) (write : Bool) (offs : List Nat) : Option Hitch :=
  match s.cmdSerial c with
  | none => none
  | some (cr, l) => serialHitches s cr l x.shared write (linesOf (offs.filterMap (s.sideFlat x)))

/-- The records after a side's bytes are read or written. -/
def State.sideKept (s : State) (c : Copy) (x : Side) (write : Bool) (offs : List Nat) : State :=
  match s.cmdSerial c with
  | none => s
  | some (cr, l) => s.keepOwners cr l x.shared write (linesOf (offs.filterMap (s.sideFlat x)))

/-! ### Faults (R213, R214) -/

/-- The bytes a command has performed: those of elements that wait for their page are not among them. -/
def Copy.performed (c : Copy) : Nat := c.done - c.parkedElts.length * c.esz

/-- DETAIL of a copy fault (R204). -/
def copyDetail (c : Copy) (cause : Nat) : DWord := dw (c.performed * 2 ^ 24 + cause * 2 ^ 16 + c.place % 64 * 2 ^ 8 + c.queue % 8)

/-- The record of a command's fault: it names the command's word and the group that issued it, with what that group runs while it
lives (R203, R213). (DEDUCED: log 49) -/
def copyTrap (s : State) (c : Copy) (code cls origin : Nat) (detail : DWord) : Trap :=
  let t : Trap :=
    { code := code, cls := cls, origin := origin, skid := 0, instr := c.cur.word, prov := c.cur.prov, rwc := c.cur.rwc,
      handle := 0, ooff := 0, fault := [], retry := [], act := [], detail := detail, station := fld c.cur.prov.toNat 29 20,
      pass := 0, blk := 0, hix := none, guard := none, gid := c.gid, stack := 0, debug := false, early := false, async := true, raised := false }
  match s.group? c.group with
  | none => t
  | some gr => { t with station := gr.station, pass := gr.pass, blk := (gr.lane 0).blk, gid := gr.gid, rwc := gr.rwcount.toNat }

/-- A command's fault (R213): its crew halts, with the record at the issuing group while it lives; or, with no live group,
the command and the later entries of its context go at once and the thread gets the event. The record of a command whose group is
gone is in no event when a halt of its crew is under way already. (DEDUCED: log 49, 69) -/
def State.copyFault (s : State) (id : Nat) (c : Copy) (t : Trap) : State :=
  if (s.crewGroups c.crew).isEmpty then
    let s1 := { s with cmds := s.cmds.filter fun (n, x) =>
      x.listing || !(decide (id ≤ n) && x.ctx == c.ctx && x.core == c.core && x.queue == c.queue) }
    s1.notify c.core c.ctx (t.words 6)
  else
    let s1 := s.modCmd id fun x => { x with faulted := true }
    match s.group? c.group with
    | some gr =>
      if gr.crew = c.crew then (s1.modGroup c.group fun gr => gr.addTrap (s.joined c.crew t)).startHalt c.crew c.group t false
      else s1.startHalt c.crew noGroup t false
    | none => s1.startHalt c.crew noGroup t false

/-- A hitch takes its effect. (DESIGN CHOICE: log 90) -/
def State.hitch (s : State) (id : Nat) (c : Copy) (h : Hitch) : Out :=
  match h with
  | .fault cause => .next (s.copyFault id c (copyTrap s c 14 2 4 (copyDetail c cause)))
  | .race w => .next (s.copyFault id c (copyTrap s c 11 1 2 (raceDetail (0xFFFFF, 0) w true)))
  | .frame f => .fault (.noSuchFrame f)
  | .waitHead => .next (s.modCmd id fun x => { x with waitHead := true })
  | .urgent => .refused .notDue
  | .bank ctl b => .next (s.holdCommand id (ctl, b))
  | .page pme =>
    let (s1, n) := s.joinEntry pme (.command id)
    .next (s1.modCmd id fun x => { x with parked := some n })

/-! ### Moving bytes (R357) -/

/-- The value of a source byte. -/
def State.sideByte (s : State) (c : Copy) (x : Side) (off : Nat) : Byte :=
  match s.sidePlace x off with
  | .at_ f => mget s.mem f
  | .window d => windowByte (s.recipe c.ctx) d (x.cap.low + off)
  | .denied _ | .elsewhere _ | .noFrame _ => 0

/-- Byte b of command order lies in an all-zero block (R362). -/
def State.zeroBlock (s : State) (c : Copy) (src : Side) (b : Nat) : Bool :=
  match c.scaleAt b with
  | none => false
  | some o => s.sideByte c src o == 0x80

/-- Byte b, the last of a granule among the bytes `now` that move together, completes a whole aligned granule that the command
writes from a whole aligned granule, under G on both sides, none of it in an all-zero block; the tag of the source granule
(R186). Bytes that the command wrote before must still be those of the source. (DEDUCED: log 68) -/
def State.granuleTag (s : State) (c : Copy) (src dst : Side) (now : List Nat) (b : Nat) : Bool :=
  if !holds c.src.rights (rCR + rG) || !holds c.dst.rights (rCW + rG) || c.fn == 4 then false
  else match s.sideFlat dst (c.dstAt b) with
    | none => false
    | some d =>
      let i := d % 16
      if b < i || (i != 15 && now.contains (b + 1)) then false
      else match s.sideFlat src (c.srcAt (b - i)) with
        | none => false
        | some f =>
          f % 16 == 0 && tagAt s.tags (f / 16) && (List.range 16).all fun j =>
            let x := b - i + j
            s.sideFlat src (c.srcAt x) == some (f + j) && s.sideFlat dst (c.dstAt x) == some (d - i + j) && !s.zeroBlock c src x
              && (now.contains x || (decide (x < c.done) && !c.parkedElts.contains (x / c.esz)
                && mget s.mem (d - i + j) == mget s.mem (f + j)))

/-- One byte of a chunk: its destination, its value, and the tag that its granule gets with it. -/
structure Moved where
  dst : Option Nat
  val : Byte
  tag : Bool
  deriving DecidableEq, Repr

/-- The bytes of a chunk as they are read, all before any is written. -/
def State.readChunk (s : State) (c : Copy) (src dst : Side) (bs : List Nat) : List Moved :=
  bs.map fun b =>
    ⟨s.sideFlat dst (c.dstAt b), if s.zeroBlock c src b then 0 else s.sideByte c src (c.srcAt b), s.granuleTag c src dst bs b⟩

/-- A run of bytes that one write carries, with the granules that get a tag. -/
structure MovedRun where
  at_  : Nat
  vals : List Byte
  tags : List Nat
  deriving DecidableEq, Repr

/-- Bytes in order as runs: consecutive ones in one sector. Bytes of a discarding window go nowhere (R176). -/
def movedRuns : List Moved → List MovedRun
  | [] => []
  | m :: r => match m.dst with
    | none => movedRuns r
    | some d =>
      let t := if m.tag && !isOutside d then [d / 16] else []
      match movedRuns r with
      | x :: rest => if x.at_ = d + 1 ∧ sectorOf x.at_ = sectorOf d then ⟨d, m.val :: x.vals, t ++ x.tags⟩ :: rest
                     else ⟨d, [m.val], t⟩ :: x :: rest
      | [] => [⟨d, [m.val], t⟩]

/-- The runs written in command order (R92, R357). -/
def State.writeChunk (s : State) (c : Copy) (ms : List Moved) : State :=
  (movedRuns ms).foldl (fun s x =>
    let s1 := s.runsWrite c.ctx c.core [(x.at_, x.vals)]
    { s1 with tags := x.tags.foldl tagSet s1.tags }) s

/-- Bytes at window offsets of a side, written as one write. -/
def State.sideWrite (s : State) (c : Copy) (x : Side) (offs : List Nat) (bs : List Byte) : State :=
  s.runsWrite c.ctx c.core
    ((movedRuns ((offs.zip bs).map fun (o, v) => ⟨s.sideFlat x o, v, false⟩)).map fun r => (r.at_, r.vals))

/-- The mode of a `cpy.red` (R364). -/
def Copy.redMode (c : Copy) : Mode :=
  { modeOf (BitVec.ofNat 16 (fld (c.par 4) 4 0)) with sat := false, nanp := false, minx := false, fmal := false }

/-- Op of a `cpy.red`: d, then s (R364). -/
def Copy.redOp (c : Copy) (d s : Nat) : Nat :=
  match c.rop with
  | .addS32 => (d + s) % 2 ^ 32
  | .addF32 => faddE .f32 c.redMode d s
  | .addBf16 => faddE .bf16 c.redMode d s
  | .maxS32 => atomVal .maxS 32 d s 0
  | .minS32 => atomVal .minS 32 d s 0
  | .maxF32 => fmaxE .f32 c.redMode d s
  | .minF32 => fminE .f32 c.redMode d s

/-- The bytes of a reduction: elements in command order, each read, combined and written at its home as one step (R364). -/
def State.reduceChunk (s : State) (c : Copy) (dst : Side) : List (Nat × List Byte) → State
  | [] => s
  | (b, bs) :: r =>
    let offs := (List.range c.esz).map fun i => c.dstAt (b + i)
    match s.sidePlace dst (offs.headD 0) with
    | .at_ _ =>
      let old := leNat (offs.map fun o => s.sideByte c dst o)
      let new := leBytes (c.redOp old (leNat bs)) c.esz
      State.reduceChunk (s.sideWrite c dst offs new) c dst r
    | .denied _ | .elsewhere _ | .window _ | .noFrame _ => State.reduceChunk s c dst r

/-- The waiters of the wait-table entry of a page. -/
def State.entryWaiters (s : State) (pme : Nat) : List Waiter := (((s.entryFor pme).bind (tget s.waits)).map (·.waiters)).getD []

/-- The waiters of a page: of its entry, or, without one, of the overflow list of its die. -/
def State.waitersFor (s : State) (pme : Nat) : List Waiter :=
  if (s.entryFor pme).isSome then s.entryWaiters pme else (s.overflow.filter (·.1 == faultDie pme)).map (·.2)

/-- The elements of a gather, among bytes, whose source page is elsewhere, or has an entry, not replayed yet, that holds the command
(R214, R215). -/
def State.awayElements (s : State) (id : Nat) (c : Copy) (src : Side) (bs : List Nat) : List Nat :=
  let away := fun (o : Nat) => match s.sidePlace src o, src.entry with
    | .elsewhere _, _ => true
    | .at_ _, some e => pagedKind e.kind && (s.entryWaiters (e.pmeAt (src.cap.low + o))).contains (.command id)
    | .at_ _, none | .denied _, _ | .window _, _ | .noFrame _, _ => false
  if c.fn = 2 then sortNat ((bs.filter fun b => away (c.srcAt b)).map (· / c.esz)) else []

/-- Parked elements stand in the entries of their pages, each entry naming the command once (R214, R215). -/
def State.askPages (s : State) (id : Nat) (src : Side) : List Nat → State
  | [] => s
  | o :: r => match s.sidePlace src o with
    | .elsewhere pme =>
      State.askPages (if (s.waitersFor pme).contains (.command id) then s else (s.joinEntry pme (.command id)).1) id src r
    | .denied _ | .window _ | .at_ _ | .noFrame _ => State.askPages s id src r

/-- Bytes in order as runs: first offset and length. -/
def offRuns : List Nat → List (Nat × Nat)
  | [] => []
  | o :: r => match offRuns r with
    | (p, n) :: rest => if p = o + 1 then (o, n + 1) :: rest else (o, 1) :: (p, n) :: rest
    | [] => [(o, 1)]

/-- The watchpoints that bytes of a command hit, at window offsets of a side (R429). (DEDUCED: log 108) -/
def State.watchSide (s : State) (c : Copy) (x : Side) (offs : List Nat) (write : Bool) : State :=
  (offRuns offs).foldl (fun s (o, n) =>
    s.watchReport 1 c.ctx x.cap.handle (x.cap.low + o) n (c.place * 256 + c.queue) write) s

/-- The bytes of a command that crew ownership judges before its first chunk (R157): those of every chunk. -/
def Copy.allBytes (c : Copy) : List Nat := List.range c.total

/-- The bytes of the completion word (R105). -/
def Copy.wordBytes (c : Copy) : List Nat := upTo c.coff 8

/-- What the serial order says of the completion word. -/
def State.wordSerial (s : State) (c : Copy) : Option Hitch :=
  if c.cm = 0 then none else s.sideSerial c (s.sideFor c c.cmp rCW c.wordBytes).2 true c.wordBytes

/-- What the serial order says of the writes of a move, and before the first chunk of all that the command writes, its completion
word with it (R157). -/
def State.writeSerialOf (s : State) (c : Copy) (dst : Side) (writes : List Nat) (isParked : Bool) : Option Hitch :=
  if c.done = 0 && !isParked then
    match s.sideSerial c dst true (c.allBytes.map c.dstAt) with
    | some h => some h
    | none => s.wordSerial c
  else s.sideSerial c dst true writes

/-- Bytes bs of a command are moved, or a hitch takes its effect. `parked`: they are parked elements of a gather. (DEDUCED: log 68) -/
def State.moveBytesOf (s : State) (id : Nat) (c : Copy) (bs : List Nat) (isParked : Bool) : Out :=
  match s.sideBank c c.src rCR (bs.map c.srcAt) <|> s.sideBank c c.dst rCW (bs.map c.dstAt) with
  | some b => .next (s.holdCommand id b)
  | none =>
  let (s1, src) := s.sideFor c c.src rCR (bs.map c.srcAt)
  let (s2, dst) := s1.sideFor c c.dst rCW (bs.map c.dstAt)
  let scales := sortNat (bs.filterMap c.scaleAt)
  match firstHitch s2 c src false scales with
  | some h => s2.hitch id c h
  | none =>
    let away := if isParked then [] else s2.awayElements id c src bs
    let here := bs.filter fun b => !away.contains (b / c.esz)
    let reads := (here.filter fun b => !s2.zeroBlock c src b).map c.srcAt
    let writes := here.map c.dstAt
    match firstHitch s2 c src false reads, firstHitch s2 c dst true writes with
    | some h, _ => s2.hitch id c h
    | none, some h => s2.hitch id c h
    | none, none =>
      match s2.writeSerialOf c dst writes isParked, s2.sideSerial c src false (reads ++ scales) with
      | some h, _ => s2.hitch id c h
      | none, some h => s2.hitch id c h
      | none, none =>
        let s3 := (s2.sideKept c src false (reads ++ scales)).sideKept c dst true writes
        let s4 := s3.askPages id src ((bs.filter fun b => away.contains (b / c.esz)).map c.srcAt)
        let s5 := ((s4.watchSide c src scales false).watchSide c src reads false).watchSide c dst writes true
        let s6 := if c.fn = 4 then
            s5.reduceChunk c dst ((here.filter (· % c.esz == 0)).map fun b =>
              (b, (List.range c.esz).map fun i => s5.sideByte c src (c.srcAt (b + i))))
          else s5.writeChunk c (s5.readChunk c src dst here)
        .next (s6.modCmd id fun x =>
          if isParked then { x with parkedElts := x.parkedElts.filter fun e => !bs.any fun b => b / c.esz == e }
          else { x with done := c.done + bs.length, parkedElts := x.parkedElts ++ away.filter fun e => !x.parkedElts.contains e })

/-! ### The list of a gather or scatter (R363) -/

/-- The list's bytes. -/
def Copy.listBytes (c : Copy) : List Nat := (List.range (4 * c.nidx)).map (c.ioff + ·)

/-- The word that holds its group's issue traps: on a port's denial (R363), or on the checks that follow the list. -/
def State.listTrap (s : State) (id : Nat) (c : Copy) (code origin : Nat) (detail : DWord) (handle ooff : Nat) : State :=
  let s1 := { s with cmds := tdel s.cmds id }
  match s1.group? c.group with
  | none => s1
  | some gr => (s1.modGroup c.group fun gr => { gr with wait := .none }).takeTrap c.group
      (trapOf gr c.cur code origin c.cur.act c.cur.act detail handle ooff)

/-- The list is read through the port and the command checked and accepted, or the word traps (R355, R363). (DEDUCED: log 108) -/
def State.readList (s : State) (id : Nat) (c : Copy) : Out :=
  match s.sideBank c c.list rCR c.listBytes with
  | some b => .next (s.holdCommand id b)
  | none =>
  let (s1, x) := s.sideFor c c.list rCR c.listBytes
  let denied := c.listBytes.find? fun o => match s1.sidePlace x o with
    | .denied _ => true
    | .elsewhere _ | .window _ | .at_ _ | .noFrame _ => false
  match denied, firstHitch s1 c x false c.listBytes with
  | some o, _ =>
    let fails := portFails s1.mem x.entry x.cap.kind x.need (x.cap.low + o) 1
    .next (s1.listTrap id c (denialCode fails) 1 (dw (fails.headD 1)) c.list.handle (c.list.low + o))
  | none, some (.fault cause) => .next (s1.listTrap id c 9 1 (dw (if cause = 4 then 9 else 10)) c.list.handle (c.list.low + c.ioff))
  | none, some h => s1.hitch id c h
  | none, none => match s1.sideSerial c x false c.listBytes with
    | some (.race w) => .next (s1.listTrap id c 11 2 (raceDetail (0xFFFFF, 0) w true) c.list.handle (c.list.low + c.ioff))
    | some h => s1.hitch id c h
    | none =>
      let s2 := (s1.sideKept c x false c.listBytes).watchSide c x c.listBytes false
      let list := (List.range c.nidx).map fun n =>
        leNat ((List.range 4).map fun i => s2.sideByte c x (c.ioff + 4 * n + i))
      let c1 := { c with index := list }
      match s2.lateFault c1 with
      | some (code, detail) => .next (s2.listTrap id c1 code 0 detail 0 0)
      | none =>
        let s3 := { s2 with cmds := tdel s2.cmds id }
        .next ((s3.modGroup c.group fun gr => { gr with wait := .none }).accept c1)

/-! ### The steps -/

/-- A write of the device goes on once its page is there (R65, R423). -/
def State.sysChunk (s : State) (id : Nat) (c : Copy) : Out :=
  match s.sysPlaces c.ctx c.core c.dst.handle c.dst.kind c.index with
  | .at_ fs =>
    let s1 := (s.writeWords c.ctx (fs.zip c.params)).recordSignal c.fn c.dst.kind
    .next { s1 with cmds := tdel s1.cmds id }
  | .waits pme => s.hitch id c (.page pme)
  | .busy ctl b => .next (s.holdCommand id (ctl, b))
  | .denied =>
    let s1 := { s with cmds := tdel s.cmds id }
    if c.fn = 7 then .next (s1.completionLost c.ctx c.dst.handle (c.index.headD 0 / 64) c.params)
    else
      let s2 := { s1.denyRing (c.gid * 96 + c.core) with
        -- what waits behind the write is not performed either
        cmds := s1.cmds.filter fun (_, x) => !(x.system && x.fn == 6 && x.gid == c.gid && x.core == c.core && x.ctx == c.ctx) }
      .next (s2.report 9 c.ctx [dw c.core])

/-- A parked element none of whose bytes waits any more (R214). -/
def State.comeElement (s : State) (id : Nat) (c : Copy) : Option Nat :=
  c.parkedElts.find? fun e =>
    let bs := upTo (e * c.esz) c.esz
    (s.awayElements id c (s.sideFor c c.src rCR (bs.map c.srcAt)).2 bs).isEmpty

/-- A chunk, or a parked element whose page has come, is due (R214, R357). -/
def State.chunkDue (s : State) (id : Nat) (c : Copy) : Bool :=
  if c.listing then c.parked.isNone && !c.waitHead && !s.cmdGated c && s.preDone c.pre.1 c.pre.2
  else if c.system then s.isFront id c && c.parked.isNone
  else s.cmdReady id c && c.fn != 5 && (decide (c.done < c.total) || (s.comeElement id c).isSome)

/-- A parked element whose page has come lands, whatever else of its command is parked (R214, R216). -/
def State.landElement (s : State) (id : Nat) : Out :=
  match tget s.cmds id with
  | none => .refused .notDue
  | some c => match s.cmdFree id c, s.comeElement id c with
    | true, some e => s.moveBytesOf id c (upTo (e * c.esz) c.esz) true
    | _, _ => .refused .notDue

/-- A command whose page has come, or whose bank is free, as it is presented again: parked elements that are still elsewhere stand
in the entries of their pages (R214 to R217). -/
def State.representCopy (s : State) (ref id : Nat) : State :=
  let s1 := s.represent ref (.command id)
  match tget s1.cmds id with
  | none => s1
  | some c => c.parkedElts.foldl (fun s e =>
      let bs := upTo (e * c.esz) c.esz
      s.askPages id (s.sideFor c c.src rCR (bs.map c.srcAt)).2 (bs.map c.srcAt)) s1

/-- COPY_CHUNK (R357). -/
def execCopyChunk (command : Nat) (s : State) : Out :=
  match tget s.cmds command with
  | none => .refused .notDue
  | some c =>
    if !s.chunkDue command c then .refused .notDue
    else if c.listing then s.readList command c
    else if c.system then s.sysChunk command c
    else if c.done < c.total then s.moveBytesOf command c (upTo c.done (min 4096 (c.total - c.done))) false
    else s.landElement command

/-- Every byte has landed and the completion is due (R105). -/
def State.completionDue (s : State) (id : Nat) (c : Copy) : Bool :=
  s.cmdReady id c && c.fn != 5 && !c.listing && !c.system && c.done == c.total && c.parkedElts.isEmpty

/-- A command leaves its queue. -/
def State.cmdDone (s : State) (id : Nat) : State := { s with cmds := tdel s.cmds id }

/-- COPY_COMPLETION (R105, R108, R358). (DESIGN CHOICE: log 103) -/
def execCopyCompletion (command : Nat) (s : State) : Out :=
  match tget s.cmds command with
  | none => .refused .notDue
  | some c =>
    if !s.completionDue command c then .refused .notDue
    else if c.cm = 0 then .next (s.cmdDone command)
    else
      let offs := c.wordBytes
      let (s1, x) := s.sideFor c c.cmp rCW offs
      match s.sideBank c c.cmp rCW offs, firstHitch s1 c x true offs, s1.sideSerial c x true offs with
      | some b, _, _ => .next (s.holdCommand command b)
      | none, some h, _ | none, none, some h => s1.hitch command c h
      | none, none, none => finish ((s1.sideKept c x true offs).watchSide c x offs true) c x
where
  finish (s : State) (c : Copy) (x : Side) : Out :=
    if c.cm = 1 then .next ((s.sideWrite c x c.wordBytes (leBytes (c.par 3) 8)).cmdDone command)
    else match s.sideFlat x c.coff with
      | none => .next (s.cmdDone command)
      | some f => match arrival (mnat s.mem f 8) c.count with
        | .nothing => .next (s.cmdDone command)
        | .applied v _ => .next ((s.memWrite f (leBytes v 8)).cmdDone command)
        | .refused v => .next (((s.memWrite f (leBytes v 8)).wakeAll f).copyFault command c (copyTrap s c 14 2 4 (copyDetail c 2)))

/-- A `qfence` stands first and what it waits for has gone (R104). -/
def State.qfenceDue (s : State) (id : Nat) (c : Copy) : Bool :=
  c.fn == 5 && s.cmdReady id c && c.after.all fun n => (tget s.cmds n).isNone

/-- QFENCE_PERFORM (R104, R365). -/
def execQfencePerform (command : Nat) (s : State) : Out :=
  match tget s.cmds command with
  | none => .refused .notDue
  | some c => if s.qfenceDue command c then .next (s.cmdDone command) else .refused .notDue

end Sys2Proof.Machine
end

