-- ==== Sys2Proof/Machine/Issue.lean ====
section
/-! DEFINITION. Which group issues (R73, R74, R78, R200, R201, R222, R337, R427), the urgency bit (R80), and the steps by
which traps and halts are recorded and delivered: SIBLING_STOP, CREW_HALT_EVENT, TRAP_RECORD_WRITE (R203, R206) and the
precise stop of the debugger (R427). -/
namespace Sys2Proof.Machine

/-! ### What the unit that takes a word asks (R73) -/

/-- The major of a word. -/
def major (w : Word) : Nat := fld w.toNat 30 25

/-- A load, store or atomic, or another word of the outstanding counter. (DESIGN CHOICE: log 109) -/
def wantsCounter (w : Word) : Bool :=
  let m := major w
  m == 0x04 || decide (0x20 ≤ m ∧ m ≤ 0x23) || m == 0x29 || (m == 0x25 && (fld w.toNat 24 22 == 3 || fld w.toNat 24 22 == 4))
    || (m == 0x2B && fld w.toNat 24 23 == 1)

/-- An `mma`, `mmb` or accumulator word. -/
def wantsEngine (w : Word) : Bool := major w == 0x2A || major w == 0x2B

/-- A queued word that counts against the engine's four places. (DESIGN CHOICE: log 118) -/
def MWord.takesPlace : MWord → Bool
  | .mma _ _ _ _ | .mmb _ _ _ _ | .azero _ | .ard _ _ _ | .awr _ _ _ | .acvt _ _ => true
  | .tcfg _ _ | .acfg _ _ | .tld _ _ _ _ _ | .tst _ _ _ _ _ => false

/-- The queue that a copy word or `qfence` goes to. -/
def copyQueueOf (gr : Group) (w : Word) : Nat :=
  if fld w.toNat 24 22 = 5 then fld w.toNat 21 19 else fld (gr.rs (fld w.toNat 21 17)).toNat 2 0

/-- A queued matrix word holds a place of its engine, as those of a victim do not, whose words are kept for it (R222, R227). -/
def State.holdsEngine (s : State) (e : MEntry) : Bool :=
  e.word.takesPlace && match s.crew? e.crew with
  | none => false
  | some c => !c.gated

/-- The unit can accept the word: the outstanding counter, the engine, or the copy queue has a place. -/
def State.unitAccepts (s : State) (g : Nat) (gr : Group) (w : Word) (act : List Nat) : Bool :=
  let core := groupCore g
  if wantsCounter w && decide (255 ≤ s.counter g) then false
  else if wantsEngine w then decide ((s.engine.filter fun e => e.core == core && s.holdsEngine e).length < 4)
  else if major w == 0x30 && !act.isEmpty then decide ((s.queuePlaces core (copyQueueOf gr w)).length < 64)
  else true

/-- The capability registers that a word names (R337); a copy word names those of its parameters (R257, R355). -/
def namedCaps (gr : Group) (w : Word) : List Nat :=
  let n := w.toNat
  match fld n 30 25 with
  | 0x04 | 0x29 => [fld n 19 16]
  | 0x20 | 0x21 | 0x22 | 0x23 => [fld n 17 14]
  | 0x24 => if fld n 24 22 = 0 then [] else [fld n 21 18]
  | 0x25 => if fld n 24 22 = 5 ∨ fld n 24 22 = 6 then [fld n 16 13] else [fld n 16 13, fld n 20 17]
  | 0x30 =>
    let p := (gr.rs (fld n 21 17)).toNat
    if fld n 24 22 < 5 then
      [fld p 8 5, fld p 12 9, fld p 16 13] ++
        (if fld n 24 22 = 2 ∨ fld n 24 22 = 3 then [fld (gr.rs (fld n 21 17 + 4)).toNat 47 44] else [])
    else []
  | 0x39 => if fld n 24 22 = 2 then [fld n 21 18] else []
  | 0x3A => if fld n 24 22 = 4 then [fld n 21 18] else []
  | _ => []

/-- The capability registers that a group's `kld` words have still to write. -/
def State.pendingCaps (s : State) (g : Nat) : List Nat :=
  (s.ops.filter fun (_, o) => o.group == g).flatMap fun (_, o) => match o.kind with
    | .kld kd _ => [kd]
    | .ld _ _ | .lds _ | .store | .atom _ _ _ _ | .tld | .ard | .arrive _ _ _ | .register _ _ _ => []

/-! ### Ready (R73, R78, R200, R201) -/

/-- The stop that has reached the group lets it issue one more word (R206, R427). -/
def State.stopAllows (s : State) (gr : Group) : Bool :=
  (match gr.stop with
    | .run => true
    | .halting => decide (gr.hslots < haltSlots)
    | .trapping | .trapped | .halted => false)
  && (s.stopsOf gr).all fun x => decide (gr.rwcount.toNat < x.n)

/-- Whether the group's crew is held by a pre-emption or its gang is not resident yet (R53, R222). -/
def State.crewHeld (s : State) (gr : Group) : Bool :=
  match s.crew? gr.crew with
  | none => false
  | some c => c.gated

/-- A resumed group raises its stacked traps before it goes on in any way (R208). -/
def State.raiseDue (s : State) (gr : Group) : Bool :=
  !gr.stacked.isEmpty && gr.retry.isEmpty && !gr.refetch && !gr.gated && !s.crewHeld gr && match gr.stop with
  | .run => true
  | .halting => decide (gr.hslots < haltSlots)
  | .trapping | .trapped | .halted => false

/-- The group may issue its next word, or raise a stacked trap in its place. (DESIGN CHOICE: log 61) -/
def State.issuable (s : State) (g : Nat) (gr : Group) : Bool :=
  s.raiseDue gr ||
  (s.stopAllows gr && gr.wait == .none && !gr.refetch && !gr.gated && !s.crewHeld gr && (!gr.marker || s.counter g == 0)
    && s.withinLimit g gr && !s.awaitsHead g && !s.eventHeld gr &&
  match gr.nextWord with
    | none => false
    | some (q, _) =>
      let act := (curOf g gr q).act
      s.unitAccepts g gr q.word act && (namedCaps gr q.word).all (fun k => !(s.pendingCaps g).contains k)
        && (!(major q.word == 0x38 && fld q.word.toNat 24 22 == 5) || act.isEmpty || s.settled g))

/-! ### Selection (R74) -/

/-- A group of a core's pipe that can issue. -/
def State.readyOn (s : State) (core pipe : Nat) : List (Nat × Group) :=
  s.groups.filter fun (g, gr) => groupCore g == core && gr.pipe == pipe && s.issuable g gr

/-- The least recently issued, and among equals the lowest slot. -/
def leastRecent : List (Nat × Group) → Option (Nat × Group)
  | [] => none
  | x :: r => match leastRecent r with
    | none => some x
    | some y => if y.2.lastIss < x.2.lastIss then some y else some x

/-- Clocks of readiness after which a GENERAL group goes first. -/
def generalAge : Nat := 4096

/-- A GENERAL group has been ready for 4,096 clocks without issuing. -/
def State.ageDue (s : State) (g : Nat) (gr : Group) : Bool :=
  gr.role == .general && s.issuable g gr && match gr.ready with
  | none => false
  | some t => decide (t + generalAge ≤ s.clock)

/-- The group that a pipe selects: GENERAL groups only when no other is ready. While one has aged, the next to be selected is
that one, by GENERAL_AGE_SELECT. -/
def State.selected (s : State) (core pipe : Nat) : Option Nat :=
  let ready := s.readyOn core pipe
  if ready.any fun (g, gr) => s.ageDue g gr then none
  else match leastRecent (ready.filter fun (_, gr) => gr.role != .general) with
  | some x => some x.1
  | none => (leastRecent ready).map (·.1)

/-- GENERAL_AGE_SELECT (R74): the group is selected next, once. -/
def execGeneralAgeSelect (group : Nat) (s : State) : Out :=
  match s.group? group with
  | none => .refused .notDue
  | some gr =>
    if s.ageDue group gr then
      let s1 := s.modGroup group fun x => { x with ready := none }
      .next { s1 with agenda := .issue group :: s1.agenda }
    else .refused .notDue

/-- GENERAL groups that are ready note since when; the others do not. -/
def State.markReady (s : State) : State :=
  let mark := fun (g : Nat) (gr : Group) =>
    if gr.role = .general then
      (if s.issuable g gr then (match gr.ready with
        | some _ => gr
        | none => { gr with ready := some s.clock }) else { gr with ready := none })
    else gr
  { s with groups := tmap s.groups mark }

/-! ### The urgency bit (R80) -/

/-- Urgent reads that an HBM port keeps. -/
def urgentPlaces : Nat := 64

/-- A read waits on a memory controller. -/
def Access.waitsAtController (a : Access) : Bool :=
  !a.write && match a.stage with
  | .toPort | .bank _ _ | .toHome => true
  | .parked _ | .overflow _ | .forHead | .answered | .replay => false

/-- The read waits on a controller, its group is parked at a marker, and no group of the core is ready: its upgrade is sent. -/
def State.urgencyDue (s : State) (a : Access) : Bool :=
  a.waitsAtController && !a.upgraded && (s.controllerOf a).isSome && (match s.group? a.group, tget s.ops a.op with
    | some gr, some o => gr.marker && o.counted && decide (s.counter a.group ≠ 0)
    | _, _ => false)
  && (s.groups.all fun (g, gr) => groupCore g != a.core || !s.issuable g gr)

/-- The HBM port of the read, that of its controller's stack, keeps fewer than 64 urgent reads. -/
def State.urgentPlace (s : State) (a : Access) : Bool :=
  decide ((s.accs.filter fun (_, x) => x.urgent && x.waitsAtController && s.controllerOf x == s.controllerOf a).length < urgentPlaces)

/-- URGENCY_BIT (R80): the port keeps the upgrade, or ignores it. (DEDUCED: log 66) -/
def execUrgencyBit (access : Nat) (s : State) : Out :=
  match tget s.accs access with
  | none => .refused .notDue
  | some a =>
    if s.urgencyDue a then .next (s.modAcc access fun x => { x with upgraded := true, urgent := s.urgentPlace a }) else .refused .notDue

/-! ### Records and events (R203, R206) -/

/-- A halt of the crew is under way. -/
def State.haltOf (s : State) (crew : Nat) : Option Halt :=
  match s.crew? crew with
  | none => none
  | some c => match c.halt with
    | some h => if h.sent then none else some h
    | none => none

/-- A record for the debugger, while the context holds the debug right (R197, R467): EVK 0x20, and the context in word 7. -/
def State.debugRecord (s : State) (ctx : Nat) (t : Trap) : State :=
  if s.debugs ctx then
    let ws := t.words 0x20
    { s with reports := s.reports ++ [ws.take 7 ++ [((ws[7]?).getD 0) ||| dw (ctx % 4096 * 2 ^ 48)]] }
  else s

/-- The kind of the event that carries a record: a copy fault, or another. -/
def Trap.eventFor (t : Trap) (other : Nat) : Nat := if t.code = 14 then 6 else other

/-- The trapping group's earlier words are settled, and its record is to be written. -/
def State.recordDue (s : State) (g : Nat) (gr : Group) : Bool := gr.stop == .trapping && s.settled g

/-- TRAP_RECORD_WRITE (R203, R206): the record is written; a trap outside a halt is told to the thread, or the debugger. (DEDUCED: log 45) -/
def execTrapRecordWrite (group : Nat) (s : State) : Out :=
  match s.group? group with
  | none => .refused .notDue
  | some gr =>
    if s.recordDue group gr then
      let s1 := s.modGroup group Group.writeRecord
      match gr.writeRecord.trap with
      | none => .next s1
      | some t =>
        if t.ofDebugger then .next (s1.debugRecord gr.ctx t)
        else if (s.haltOf gr.crew).isSome && !t.early then .next s1
        else .next (s1.notifyBy (s.coreOf gr) gr.ctx (some gr.uid) (t.words (t.eventFor 3)))
    else .refused .notDue

/-- The halt has reached the group and its words are settled. -/
def State.siblingDue (s : State) (g : Nat) (gr : Group) : Bool := gr.stop == .halting && !gr.refetch && s.settled g

/-- The record of a halted sibling (R206): the words issued since the broadcast are its skid; it describes the next word. (DESIGN CHOICE: log 114) -/
def Group.siblingRecord (gr : Group) (dbg : Bool) : Trap :=
  let from_ := match gr.trap with
    | some t => t.rwc
    | none => gr.rwcount.toNat
  { siblingTrap gr with skid := gr.rwcount.toNat - from_, rwc := from_, origin := if dbg then 5 else 0, debug := dbg }

/-- SIBLING_STOP (R206, R207). -/
def execSiblingStop (group : Nat) (s : State) : Out :=
  match s.group? group with
  | none => .refused .notDue
  | some gr =>
    if s.siblingDue group gr then
      let dbg := match s.haltOf gr.crew with
        | some h => h.debug
        | none => false
      .next (s.modGroup group fun x => { x with stop := .halted, trap := some (gr.siblingRecord dbg) })
    else .refused .notDue

/-- A group that has its record. -/
def Group.recorded (gr : Group) : Bool :=
  match gr.stop with
  | .trapped | .halted => true
  | .run | .trapping | .halting => false

/-- An event for the thread of a context on a core would take a place in its queue at once (R82). -/
def State.eventRoom (s : State) (core ctx : Nat) : Bool :=
  ((s.threadOf core ctx).bind s.thread?).all fun th => decide (th.queue.length < 256) && th.held.isEmpty

/-- Every group of a halted crew has its record, and the event will be queued: until it is, the halt is under way (R82, R206). -/
def State.haltEventDue (s : State) (crew : Nat) : Bool :=
  (s.haltOf crew).isSome && (match s.crew? crew with
    | none => false
    | some c => !c.gated && s.eventRoom c.core c.ctx)
  && (s.crewGroups crew).all fun g => match s.group? g with
    | none => true
    | some gr => gr.recorded

/-- The record that a crew-halt event carries: that of the originating group; of the lowest group, for a halt by the
debugger; the fault's own for a copy fault, whether its group lives or not (R206, R213). -/
def State.haltRecord (s : State) (crew : Nat) (h : Halt) : Trap :=
  let g := if h.debug then (s.crewGroups crew).headD noGroup else h.group
  match s.group? g with
  | none => h.origin
  | some gr =>
    if gr.crew ≠ crew then h.origin
    else if h.origin.async then h.origin.settle gr
    else gr.trap.getD h.origin

/-- CREW_HALT_EVENT (R206): one event, of kind 6 for a copy fault (R213). -/
def execCrewHaltEvent (crew : Nat) (s : State) : Out :=
  match s.haltOf crew, s.crew? crew with
  | some h, some c =>
    if s.haltEventDue crew then
      let t := s.haltRecord crew h
      let s1 := s.modCrew crew fun x => { x with halt := some { h with sent := true } }
      .next (s1.notifyBy c.core c.ctx ((s.group? h.group).map (·.uid)) (t.words (h.origin.eventFor 4)))
    else .refused .notDue
  | _, _ => .refused .notDue

/-! ### Precise stops (R427) -/

/-- An armed stop whose count the group has reached, with its words performed; a word that is to be issued once more is not one of
them. -/
def State.preciseDue (s : State) (g : Nat) (gr : Group) : Bool :=
  gr.stop == .run && !gr.gated && gr.wait == .none && gr.stacked.isEmpty && s.settled g
    && (s.stopsOf gr).any fun x => x.n == gr.rwcount.toNat

/-- The record of a precise stop: CODE 7, ORIGIN 5, DETAIL[63], SKID 0, at the next word. -/
def preciseTrap (gr : Group) : Trap :=
  { siblingTrap gr with code := 7, cls := 0, origin := 5, detail := dw (2 ^ 63), debug := true }

/-- PRECISE_STOP (R427): the group parks with its record, which goes to the debugger, and the stop is used up. -/
def execPreciseStop (group : Nat) (s : State) : Out :=
  match s.group? group with
  | none => .refused .notDue
  | some gr =>
    if s.preciseDue group gr then
      let t := preciseTrap gr
      let used := (s.stopsOf gr).filter fun x => x.n == gr.rwcount.toNat
      let s1 := s.modGroup group fun x => { x with stop := .trapped, trap := some t }
      .next ({ s1 with stops := s1.stops.filter fun x => !used.contains x }.debugRecord gr.ctx t)
    else .refused .notDue

end Sys2Proof.Machine
end

