-- ==== Sys2Proof/Machine/Launch.lean ====
section
/-! DEFINITION. Launches: the port's slots (R63), the validation of a record (R64), the completion record (R65, R154), the
rising of a class (R69), and the commit of crews under DETERM with their serial phase (R156, R160). -/
namespace Sys2Proof.Machine

/-! ### The launch port (R63) -/

/-- A slot in which nothing stands. -/
def PortSlot.empty : PortSlot := ⟨none, none, false, false⟩

/-- A port slot. -/
def State.slot (s : State) (n : Nat) : PortSlot := (tget s.slots n).getD PortSlot.empty

/-- The slot holds a committed record. -/
def PortSlot.busy (x : PortSlot) : Bool := x.record.isSome

/-- A slot with a first half written. -/
def PortSlot.takeFirst (x : PortSlot) (ws : List DWord) : PortSlot :=
  if x.busy then { x with drop := true } else { x with first := some ws }

/-- A slot with a second half written. -/
def PortSlot.takeSecond (x : PortSlot) (ws : List DWord) : PortSlot :=
  if x.busy then { x with drop := true }
  else match x.first with
    | none => { x with noHalf := true }
    | some f => { x with first := none, record := some (f ++ ws) }

/-- A half: a slot of the 64 and eight words. -/
def halfOk (slot : Nat) (ws : List DWord) : Bool := decide (slot < 64 ∧ ws.length = 8)

/-- LAUNCH_FIRST_HALF (R63); before READY the write is discarded (R445). -/
def execLaunchFirstHalf (slot : Nat) (words : List DWord) (s : State) : Out :=
  if !halfOk slot words then .refused .notDue
  else if !s.ready then .next s
  else .next { s with slots := tset s.slots slot ((s.slot slot).takeFirst words) }

/-- LAUNCH_SECOND_HALF (R63). -/
def execLaunchSecondHalf (slot : Nat) (words : List DWord) (s : State) : Out :=
  if !halfOk slot words then .refused .notDue
  else if !s.ready then .next s
  else .next { s with slots := tset s.slots slot ((s.slot slot).takeSecond words) }

/-- A slot after a write of its status word: zero clears NOHALF and DROP. -/
def PortSlot.clear (x : PortSlot) (v : DWord) : PortSlot := if v = 0 then { x with noHalf := false, drop := false } else x

/-- LAUNCH_SLOT_STATUS_WRITE (R63). -/
def execLaunchSlotStatusWrite (slot : Nat) (value : DWord) (s : State) : Out :=
  if 64 ≤ slot then .refused .notDue
  else if !s.ready then .next s
  else .next { s with slots := tset s.slots slot ((s.slot slot).clear value) }

/-- The status word of a slot as the host reads it. (DESIGN CHOICE: log 83) -/
def PortSlot.status (x : PortSlot) : Nat := (if x.busy then 1 else 0) + (if x.noHalf then 2 else 0) + (if x.drop then 4 else 0)

/-- A write of BAR0 that one of the registers takes: a half of a launch slot, a slot status word, the mailbox command window
or its status (R432). -/
def barWrite (offset n : Nat) : Bool :=
  (decide (offset < 0x2000) && offset % 64 == 0 && n == 64)
  || (decide (0x2000 ≤ offset ∧ offset < 0x2200) && offset % 8 == 0 && n == 8)
  || decide (offset < 0x4040 ∧ 0x4000 < offset + n)
  || (offset == 0x4040 && n == 8)

/-- REGISTER_WRITE_IGNORED (R63, R432): any other write to BAR0 changes nothing. -/
def execRegisterWriteIgnored (offset : Nat) (bytes : List Byte) (s : State) : Out :=
  if bytes.isEmpty || barWrite offset bytes.length then .refused .notDue else .next s

/-! ### Validation (R64) -/

/-- More fields of a launch record (R60). -/
def Launch.ctxField (l : Launch) : Nat := fld (l.word 0) 51 40
def Launch.accsField (l : Launch) : Nat := fld (l.word 2) 28 25
def Launch.tilesField (l : Launch) : Nat := fld (l.word 2) 24 20
def Launch.prio (l : Launch) : Nat := fld (l.word 2) 15 14
def Launch.regsCode (l : Launch) : Nat := fld (l.word 2) 13 11
def Launch.widthCode (l : Launch) : Nat := fld (l.word 2) 10 8
def Launch.regs (l : Launch) : Nat := 16 * (l.regsCode + 1)
def Launch.traces (l : Launch) : Bool := fld (l.word 2) 3 3 == 1
def Launch.dbufLen (l : Launch) : Nat := fld (l.word 7) 63 32
def Launch.spadLen (l : Launch) : Nat := fld (l.word 7) 31 0
def Launch.cln (l : Launch) : Nat := fld (l.word 8) 39 32
def Launch.clh (l : Launch) : Nat := fld (l.word 8) 31 0
def Launch.cwo (l : Launch) : Nat := fld (l.word 9) 63 32
def Launch.cwh (l : Launch) : Nat := fld (l.word 9) 31 0
/-- The role code of group slot g. -/
def Launch.roleCode (l : Launch) (g : Nat) : Nat := l.word (10 + g / 32) / 4 ^ (g % 32) % 4
/-- The crews of the launch (R61). -/
def Launch.crews (l : Launch) : Nat := (upTo 2 (l.nlev - 2)).foldl (fun p n => p * l.extent n) 1

/-- The role of a code (R60). -/
def roleOf (c : Nat) : Role :=
  match c with
  | 0 => .vector
  | 1 => .matrix
  | 2 => .copy
  | _ => .general

/-- RSVD: a reserved field or value is used. -/
def Launch.reservedUsed (l : Launch) : Bool :=
  fld (l.word 0) 63 52 != 0 || fld (l.word 1) 31 0 != 0 || fld (l.word 2) 63 48 != 0 || fld (l.word 2) 31 29 != 0
  || fld (l.word 2) 7 4 != 0 || fld (l.word 2) 2 2 != 0 || fld (l.word 8) 63 40 != 0
  || decide (6 ≤ l.widthCode) || l.prio == 3 || !fmodeLegal l.fminit.toNat
  || decide (8 < l.accsField) || decide (16 < l.tilesField) || decide (8 < l.nlev) || decide (16 < l.cln)
  || ((List.range 8).any fun n => if n < l.nlev then decide (6 < (l.level n).1) else l.level n != (0, 0))
  || ((List.range 128).any fun g => decide (l.extent 1 ≤ g) && l.roleCode g != 0)

/-- SHAPE: the kernel's declaration and the rules of R52. -/
def Launch.badShape (l : Launch) (k : Kernel) : Bool :=
  l.regsCode != k.regs || l.widthCode != k.width || decide (l.nlev < 3)
  || (l.level 0).1 != 0 || (l.level 1).1 != 1 || (l.level 2).1 != 2
  || ((List.range l.nlev).any fun n => l.extent n == 0)
  || decide (l.width < l.extent 0) || decide (128 < l.extent 1)
  || ((upTo 3 (l.nlev - 3)).any fun n => decide ((l.level n).1 < 3) || (decide (3 < n) && decide ((l.level n).1 < (l.level (n - 1)).1)))

/-- ROLE: a slot's role needs tiles and accumulators, or its kernel forbids it. -/
def Launch.badRole (l : Launch) (k : Kernel) : Bool :=
  (List.range (l.extent 1)).any fun g =>
    let c := l.roleCode g
    ((c == 1 || c == 3) && (l.accsField == 0 || l.tilesField == 0)) || !((k.roles[g]?).getD 0).testBit c

/-- A tagged granule of an object, as a capability. -/
def State.granuleCap (s : State) (e : Entry) (off : Nat) : Option Cap :=
  let f := objFlat s.mem e off
  if (pagedKind e.kind && pmeBad (mnat s.mem (e.pmeAt off) 8)) || !(pagedKind e.kind || e.kind == 2) then none
  else if tagAt s.tags (f / 16) then some ⟨BitVec.ofNat 128 (mnat s.mem f 16), true⟩
  else none

/-- The capabilities of a launch's list (R62); none for CAPLIST. -/
def State.capList (s : State) (ctx : Nat) (l : Launch) : Option (List Cap) :=
  if l.cln = 0 then some []
  else match s.ctx? ctx with
    | none => none
    | some c => match entryAt s.mem c l.clh with
      | none => none
      | some e =>
        if !e.valid || decide (e.olen < 16 * l.cln) then none
        else (List.range l.cln).mapM fun i => s.granuleCap e (16 * i)

/-- SIZE. -/
def Launch.badSize (l : Launch) : Bool :=
  l.spadLen % 64 != 0 || l.dbufLen % 64 != 0 || decide (sliceSize < l.spadLen + l.dbufLen)
  || l.determ == (l.dbufLen == 0)

/-- A number of parts, without bound where each takes nothing. -/
def partsIn (total each bound : Nat) : Nat := if each = 0 then bound else total / each

/-- Crews of a launch that an idle core holds, at most a bound (R13, R14, R67). -/
def Launch.perCore (l : Launch) (bound : Nat) : Nat :=
  let lanes := l.extent 1 * l.width
  [128 / l.extent 1, 32768 / lanes, 8388608 / (lanes * l.regs * 4), partsIn 16 l.tilesField bound, partsIn 8 l.accsField bound,
   partsIn sliceSize (l.spadLen + l.dbufLen) bound].foldl min bound

/-- The highest level bound to CLUSTER or DIE below level m, if there is one. -/
def Launch.boundLevel (l : Launch) (m : Nat) (die : Bool) : Option Nat :=
  ((upTo 3 (m - 3)).filter fun n => (l.level n).1 == 3 || (die && (l.level n).1 == 4)).getLast?

/-- Crews of one instance of a level (R61). -/
def Launch.crewsBelow (l : Launch) (n : Nat) : Nat := (upTo 2 (n - 2)).foldl (fun p k => p * l.extent k) 1

/-- A gang: its crews, those of one part that one cluster must hold, and whether its domain is DIE (R53). A launch with no
gang has gangs of one crew. -/
structure Gang where
  size : Nat
  part : Nat
  die  : Bool
  deriving DecidableEq, Repr

/-- The gangs of a launch, none when its crews are not gang-scheduled. -/
def Launch.gang (l : Launch) : Option Gang :=
  match l.boundLevel l.nlev true with
  | none => none
  | some n =>
    let size := l.crewsBelow n
    if (l.level n).1 = 3 then some ⟨size, size, false⟩
    else match l.boundLevel n false with
      | none => some ⟨size, 1, true⟩
      | some m => some ⟨size, l.crewsBelow m, true⟩

/-- Cores of a cluster or die that are not withdrawn. -/
def State.coresOf (s : State) (first n : Nat) : List Nat := (upTo first n).filter fun c => !s.withdrawn.contains c

/-- NOFIT: a crew or gang fits on no idle device (R53, R64). -/
def State.noFit (s : State) (l : Launch) : Bool :=
  let k := l.perCore 4096
  if k = 0 then true
  else match l.gang with
    | none => (s.coresOf 0 96).isEmpty
    | some g =>
      let inCluster := fun (c : Nat) => (s.coresOf (4 * c) 4).length * k / g.part
      if g.die then (List.range 4).all fun d => decide (
        (if g.part = 1 then (s.coresOf (24 * d) 24).length * k else (upTo (6 * d) 6).foldl (fun n c => n + inCluster c) 0)
          < g.size / g.part)
      else (List.range 24).all fun c => inCluster c == 0

/-- The failure of the checks that come before the capability list's (R64). -/
def State.preStatus (s : State) (l : Launch) : Option Nat :=
  if l.from_ ≠ 0 ∧ l.ctxField ≠ l.ctx then some 8
  else if l.reservedUsed then some 1
  else match s.ctx? l.ctx, s.kernelOf l.ctx l.codeid l.kernel with
    | some c, some k =>
      if c.objs.any fun o => o.id == l.codeid && o.unload.isSome then some 2
      else if l.badShape k then some 3
      else if l.badRole k then some 4
      else none
    | _, _ => some 2

/-- The page map entries of the pages of a launch's capability list that are not in the fast tier (R16). (DEDUCED: log 107) -/
def State.capAway (s : State) (l : Launch) : List Nat :=
  match (s.ctx? l.ctx).bind fun c => entryAt s.mem c l.clh with
  | none => []
  | some e =>
    if !e.valid || !pagedKind e.kind || decide (e.olen < 16 * l.cln) then []
    else (sortNat ((List.range l.cln).map fun i => e.pmeAt (16 * i))).filter fun a =>
      pmeRes (mnat s.mem a 8) == 1 || pmeRes (mnat s.mem a 8) == 2

/-- The bank under a hold that the reading of a record's capability list meets (R440). -/
def State.capBank (s : State) (l : Launch) : Option (Nat × Nat) :=
  if (s.preStatus l).isSome ∨ l.cln = 0 then none else s.objectBank l.ctx l.clh 0 (16 * l.cln)

/-- The pages that the reading of a record's capability list waits for. (DEDUCED: log 107) -/
def State.recordAway (s : State) (l : Launch) : List Nat := if (s.preStatus l).isSome then [] else s.capAway l

/-- The status of a record, and the capabilities of its list (R64). -/
def State.validate (s : State) (l : Launch) : Nat × List Cap :=
  match s.preStatus l, s.capList l.ctx l with
  | some st, _ => (st, [])
  | none, none => (5, [])
  | none, some caps =>
    if l.badSize then (6, [])
    else if s.noFit l then (7, [])
    else if (s.ctx? l.ctx).any (·.failed) then (9, [])
    else (0, caps)

/-! ### Completion (R65, R154) -/

/-- The device revision (R443). -/
def deviceRev : Nat := 0x00010000

/-- The signature message (R154). -/
def sigMessage (hash : BitVec 384) (l : Launch) : List Byte :=
  beBytes hash.toNat 48 ++ [l.shapes &&& 0x1F] ++ leBytes l.fminit.toNat 2 ++ [if l.determ then 1 else 0]
    ++ leBytes deviceRev 4 ++ List.replicate 8 0

/-- The signature of a launch that is done (R154). -/
def State.signature (s : State) (l : Launch) : DWord :=
  match s.ctx? l.ctx with
  | none => 0
  | some c => match c.objs.find? (·.id == l.codeid) with
    | none => 0
    | some o => dw (leNat ((sha384 (sigMessage o.hash l)).take 8))

/-- The completion record (R65). -/
def State.completionRecord (s : State) (l : Launch) : List DWord :=
  [dw (l.status * 2 ^ 32 + l.ltag), if l.status = 0 then s.signature l else 0, dw l.tstart, dw l.tend, dw (l.retired % 2 ^ 32), 0, 0, 0]

/-- The launch is complete: its record is written, or its loss reported, and the device forgets the launch (R65). -/
def State.complete (s : State) (n : Nat) (l : Launch) : State :=
  let ws := s.completionRecord l
  let s1 := { s with launches := tdel s.launches n }
  match s.ctx? l.ctx with
  | none => s1.completionLost l.ctx l.cwh l.cwo ws
  | some c => match entryAt s.mem c l.cwh with
    | none => s1.completionLost l.ctx l.cwh l.cwo ws
    | some e =>
      if e.kind = 1 ∨ e.kind = 2 ∨ e.kind = 4 ∨ e.kind = 5 then
        match s1.sysWrite 7 0 l.ctx 0 l.cwh e.kind ((List.range 8).map fun i => 64 * l.cwo + 8 * i) ws with
        | some s2 => s2
        | none => s1.completionLost l.ctx l.cwh l.cwo ws
      else s1.completionLost l.ctx l.cwh l.cwo ws

/-- The launch queue takes a record, as the launch of a number: valid, or rejected with its completion record. A host's record is
accepted when it is found valid, a thread's was by `launch` (R64, R66). (DEDUCED: log 51) -/
def State.takeRecord (s : State) (num : Nat) (l : Launch) : State :=
  let (st, caps) := s.validate l
  if st = 0 then
    let s1 := if l.from_ = 0 then s.accepted ⟨l.ctx, l.from_, l.record⟩ else s
    { s1 with launches := tset s1.launches num { l with caps := caps } }
  else s.complete num { l with status := st, tend := if st = 9 then s.clock else 0 }

/-- Pages that something waits for begin to migrate, where they do not yet. (DEDUCED: log 107) -/
def State.wantPages (s : State) (pmes : List Nat) : Out :=
  if pmes.any s.canWant then .next (pmes.foldl State.wantPage s) else .refused .notDue

/-- LAUNCH_VALIDATE (R16, R64, R66): a record of a port slot, or the oldest of a thread's device launch queue, once the pages of its
capability list are in the fast tier. (DEDUCED: log 79) -/
def execLaunchValidate (port : Bool) (source : Nat) (s : State) : Out :=
  if port then
    match (s.slot source).record with
    | none => .refused .notDue
    | some rec =>
      let l := launchFrom rec (fld ((rec[0]?).getD 0).toNat 51 40) 0 s.clock
      match s.capBank l, s.recordAway l with
      | some b, _ => s.holdStep b (.launchValidate port source)
      | none, p :: ps => s.wantPages (p :: ps)
      | none, [] =>
        let n := s.nextLaunch
        .next ({ s with slots := tset s.slots source { s.slot source with record := none }, nextLaunch := n + 1 }.takeRecord n l)
  else match s.thread? source with
    | none => .refused .notDue
    | some th => match th.dlq with
      | [] => .refused .notDue
      | r :: rest =>
        let l := launchFrom r.words th.ctx (source + 1) r.since
        match s.capBank l, s.recordAway l with
        | some b, _ => s.holdStep b (.launchValidate port source)
        | none, p :: ps => s.wantPages (p :: ps)
        | none, [] => .next ((s.modThread source fun x => { x with dlq := rest }).takeRecord r.num l)

/-- A record accepted before a launch, and of no lower class, still stands in a device launch queue: placement takes the launches as
one stream in the order of acceptance (R66). (DEDUCED: log 106) -/
def State.earlierRecord (s : State) (n : Nat) (l : Launch) : Bool :=
  s.threads.any fun (_, th) => th.dlq.any fun r => decide (r.num < n ∧ l.cls ≤ fld ((r.words[2]?).getD 0).toNat 15 14)

/-- A launch is over: KILLED, or its last crew retired and, under DETERM, committed (R65, R156). -/
def Launch.over (l : Launch) : Bool :=
  l.status != 0 || (decide (l.crews ≤ l.retired) && (!l.determ || decide (l.crews ≤ l.head)))

/-- LAUNCH_COMPLETE (R65). -/
def execLaunchComplete (launch : Nat) (s : State) : Out :=
  match s.launch? launch with
  | none => .refused .notDue
  | some l => if l.over then .next (s.complete launch l) else .refused .notDue

/-! ### Classes (R69) -/

/-- Clocks after which a launch without a crew placed rises one class. -/
def riseTime : Nat := 2 ^ 24

/-- The launch is to rise. -/
def State.riseDue (s : State) (l : Launch) : Bool :=
  l.status == 0 && l.next == 0 && decide (l.cls < 2 ∧ l.since + riseTime ≤ s.clock)

/-- LAUNCH_CLASS_RISE (R69). -/
def execLaunchClassRise (launch : Nat) (s : State) : Out :=
  match s.launch? launch with
  | none => .refused .notDue
  | some l =>
    if s.riseDue l then .next (s.modLaunch launch fun x => { x with cls := x.cls + 1, since := s.clock }) else .refused .notDue

/-! ### The serial order (R156, R160) -/

/-- A crew of a launch by its index. -/
def State.crewAt (s : State) (launch idx : Nat) : Option (Nat × Crew) :=
  s.crews.find? fun (_, c) => c.launch == launch && c.idx == idx

/-- Whether a crew of this index is off its core or held by a pre-emption. -/
def State.crewAway (s : State) (launch idx : Nat) : Bool :=
  (s.savedCrews.any fun (_, x) => x.crew.launch == launch && x.crew.idx == idx)
  || s.crews.any fun (_, c) => c.launch == launch && c.idx == idx && c.gated

/-- Entries in the order of a serial phase: by group index, then issue order, then as the word left them (R160). -/
def insertEntry (e : DEntry) : List DEntry → List DEntry
  | [] => [e]
  | x :: r => if (x.gidx < e.gidx) ∨ (x.gidx = e.gidx ∧ x.ord ≤ e.ord) then x :: insertEntry e r else e :: x :: r

def serialOrder (es : List DEntry) : List DEntry := es.foldl (fun l e => insertEntry e l) []

/-- Entries of one instruction in one sector perform together: they are one access (R321). -/
def entryRuns : List DEntry → List (List DEntry)
  | [] => []
  | e :: r => match entryRuns r with
    | (x :: xs) :: rest => if x.ord = e.ord ∧ x.gidx = e.gidx ∧ sectorOf x.addr = sectorOf e.addr then (e :: x :: xs) :: rest
                           else [e] :: (x :: xs) :: rest
    | [] :: rest => [e] :: rest
    | [] => [[e]]

/-- An entry as the piece that left it, with its place. -/
def DEntry.piece (e : DEntry) : Piece × Nat :=
  (⟨0, 0, e.size, e.value % 2 ^ (8 * e.size), e.value / 2 ^ (8 * e.size)⟩, e.addr)

/-- The entries of one buffered access perform at their home as one write (R91, R92, R101). -/
def State.performEntries (s : State) (core : Nat) (es : List DEntry) : State :=
  match es with
  | [] => s
  | e :: _ =>
    let ps := es.map DEntry.piece
    match e.aop with
    | some op => s.runsWrite e.ctx core (atomRun s.mem op ps []).2
    | none =>
      let s1 := s.runsWrite e.ctx core (storeRuns ps)
      if e.tag = some true && !isOutside e.addr then { s1 with tags := tagSet s1.tags (e.addr / 16) } else s1

/-- Why the head's buffered write does not perform: no port leads to its peer (R439), or the home has a reader or an owner of higher
index (R157, R158): trap code, origin and DETAIL. -/
def State.entryRefused (s : State) (launch idx : Nat) (e : DEntry) : Option (Nat × Nat × DWord) :=
  if s.peerDown e.addr then some (9, 1, 9)
  else match writeSerial (s.ownerOf launch (e.addr / 64)) idx true false (isOutside e.addr) with
    | .race w => some (11, 2, raceDetail (0xFFFFF, 0) w true)
    | .direct | .buffer | .waits => none

/-- A refused entry as the failure of its lane. -/
def DEntry.failed (e : DEntry) (x : Nat × Nat × DWord) : Fail := ⟨e.lane, x.1, x.2.1, x.2.2, e.handle, e.off⟩

/-- A buffered word some of whose entries a serial phase refused traps: its group while it lives, and else its crew (R115, R199, R203).
(DESIGN CHOICE: log 90) -/
def State.refuseWord (s : State) (k : Nat) (e : DEntry) (fs : List Fail) : State :=
  let g := (s.crewGroups k).find? fun g => (s.group? g).any fun gr => gr.uid == e.uid
  match leastFail fs, g, g.bind s.group? with
  | none, _, _ => s
  | some f, some g, some gr =>
    let (fault, retry) := failSets f false e.cur.act fs
    s.takeTrap g (trapOf gr { e.cur with who := .group g } f.code f.origin fault retry f.detail f.handle f.ooff)
  | some f, _, _ => s.crewTrap k (loneTrap e.cur f false fs)

/-- The entries of each word together, the words in order. -/
def byWord : List (DEntry × Fail) → List (DEntry × List Fail)
  | [] => []
  | (e, f) :: r => match byWord r with
    | (x, fs) :: rest => if x.seq = e.seq then (e, f :: fs) :: rest else (e, [f]) :: (x, fs) :: rest
    | [] => [(e, [f])]

/-- A crew's serial phase: its entries perform in order; what is refused does not, and traps when the phase is over. `bad`: what
has been refused so far. -/
def State.serialPhase (s : State) (k : Nat) (c : Crew) (l : Launch) (bad : List (DEntry × Fail)) : List (List DEntry) → State
  | [] => (byWord bad).foldl (fun s x => s.refuseWord k x.1 x.2) (s.modCrew k fun x => { x with dbuf := [] })
  | [] :: r => State.serialPhase s k c l bad r
  | (e :: es) :: r => match s.entryRefused c.launch c.idx e with
    | some x => State.serialPhase s k c l (bad ++ (e :: es).map fun e => (e, e.failed x)) r
    | none =>
      let s1 := s.performEntries c.core (e :: es)
      State.serialPhase (if s1.ownerOf c.launch (e.addr / 64) = ⟨none, [], false⟩ then s1
        else s1.keepOwner c.launch l c.idx (e.addr / 64) true false (isOutside e.addr)) k c l bad r

/-- What waited for the serial order is judged again: reads and copy commands of the launch's crews, and writes and atomics of the
crew that is head now (R156, R158, R159, R161). (DEDUCED: log 49) -/
def State.freeHeld (s : State) (launch head : Nat) : State :=
  let mine := fun (k : Nat) => match s.anyCrew k with
    | none => none
    | some c => if c.launch = launch then some c.idx else none
  { s with
    accs := tmap s.accs fun _ a => if a.stage == .forHead && (mine a.crew).any fun i => i == head || !(a.write || a.isAtom)
      then { a with stage := .toPort } else a
    cmds := tmap s.cmds fun _ c => if (mine c.crew).isSome then { c with waitHead := false } else c }

/-- The entries of the buffer that the next serial phase performs. -/
def State.nextBuffer (s : State) (launch idx : Nat) : List DEntry := ((s.crewAt launch idx).map (·.2.dbuf)).getD []

/-- The head crew has retired, and its copy commands and the accesses of its groups are done; the next crew, whose serial phase begins
with the commit, is neither gated nor saved, and nothing of its buffer goes to a scratchpad in save frames (R156, R227, R231).
(DEDUCED: log 49) -/
def State.commitDue (s : State) (n : Nat) (l : Launch) : Bool :=
  l.determ && l.status == 0 && decide (l.head < l.crews) && !s.crewAway n (l.head + 1)
    && ((s.nextBuffer n (l.head + 1)).all fun e => !isAway e.addr) && match s.crewAt n l.head with
  | none => false
  | some (k, c) => c.groups.isEmpty && (s.cmds.all fun (_, x) => x.crew != k || x.system) && s.accs.all fun (_, a) => a.crew != k || a.isDone

/-- CREW_COMMIT (R156, R160): the head commits, and the next crew's serial phase performs its buffer, once no refresh holds a line of
it (R440). (DEDUCED: log 49) -/
def execCrewCommit (launch : Nat) (s : State) : Out :=
  match s.launch? launch with
  | none => .refused .notDue
  | some l =>
    if s.commitDue launch l then
      match s.crewAt launch l.head, (s.nextBuffer launch (l.head + 1)).findSome? fun e => s.rangeBank e.addr e.size with
      | none, _ => .refused .notDue
      | some _, some b => s.holdStep b (.crewCommit launch)
      | some (k, _), none =>
        let s1 := ({ s with crews := tdel s.crews k }).modLaunch launch fun x => { x with head := x.head + 1 }
        let s2 := match s1.crewAt launch (l.head + 1) with
          | none => s1
          | some (k2, c2) => s1.serialPhase k2 c2 { l with head := l.head + 1 } [] (entryRuns (serialOrder c2.dbuf))
        .next (s2.freeHeld launch (l.head + 1))
    else .refused .notDue

end Sys2Proof.Machine
end

