-- ==== Sys2Proof/Machine/Preempt.lean ====
section
/-! DEFINITION. Pre-emption: the order (R221, R222, R231), gating (R223, R224), the lazy scan-out of a victim's state
(R225 to R227), and resumption in place (R228, R229). -/
namespace Sys2Proof.Machine

/-! ### The victims (R221) -/

/-- The gang of a crew: launch, and the range of crew indices. -/
def State.gangOf (s : State) (c : Crew) : Nat × Nat × Nat :=
  match s.launch? c.launch with
  | none => (c.launch, c.idx, 1)
  | some l => match l.gang with
    | none => (c.launch, c.idx, 1)
    | some g => (c.launch, c.idx / g.size * g.size, g.size)

/-- Two crews are of one gang. -/
def State.sameGang (s : State) (c d : Crew) : Bool :=
  let (n, lo, k) := s.gangOf c
  d.launch == n && decide (lo ≤ d.idx ∧ d.idx < lo + k)

/-- A crew has work that a pre-emption stops: live groups, or, retired and not yet committed, copy commands (R156, R222). -/
def State.crewWorks (s : State) (k : Nat) (c : Crew) : Bool := !c.groups.isEmpty || s.cmds.any fun (_, x) => x.crew == k && !x.system

/-- The crews that a pre-emption of a context on cores takes in. (DEDUCED: log 64) -/
def State.victimCrews (s : State) (ctx : Nat) (cores : List Nat) : List Nat :=
  let own := s.crews.filter fun (k, c) => c.ctx == ctx && s.crewWorks k c && !c.gated
  let hit := own.filter fun (_, c) => cores.contains c.core
  (own.filter fun (_, c) => hit.any fun (_, h) => s.sameGang h c).map (·.1)

/-- The cores where a victim crew stands. -/
def State.crewCores (s : State) (ks : List Nat) : List Nat :=
  ks.filterMap fun k => (s.crew? k).map (·.core)

/-- The threads that a pre-emption takes in: those on a named core, or a victim crew's, where no crew of the context is
left running. (DEDUCED: log 64) -/
def State.victimThreads (s : State) (ctx : Nat) (cores crews : List Nat) : List Nat :=
  (s.threads.filter fun (t, th) => th.ctx == ctx && !th.gated && !th.stopped
    && (cores.contains (threadCore t) || (s.crewCores crews).contains (threadCore t))
    && s.crews.all fun (k, c) => c.ctx != ctx || c.core != threadCore t || c.gated || c.groups.isEmpty || crews.contains k).map (·.1)

/-- A pre-empt-notice mark at the head of a thread's queue (R224), beside the 256 records that the queue may hold. (DESIGN CHOICE: log 98) -/
def Thread.marked (th : Thread) (clock : Nat) : Thread := { th with gated := true, queue := ⟨[], clock, true, none⟩ :: th.queue }

/-- The order: no word of a victim issues after it (R222). -/
def State.stopVictims (s : State) (crews threads : List Nat) : State :=
  { s with
    crews := tmap s.crews fun k c => if crews.contains k then { c with gated := true } else c
    groups := tmap s.groups fun _ g => if crews.contains g.crew then { g with gated := true } else g
    threads := tmap s.threads fun t th => if threads.contains t then th.marked s.clock else th }

/-- THE PRE-EMPTION ORDER (R221, R222); a second order for the context joins the first while it is under way (R231). (DEDUCED: log 64) -/
def State.orderPreempt (s : State) (ctx : Nat) (cores : List Nat) (hold : Bool) (results : List (Nat × Nat)) : State :=
  let crews := s.victimCrews ctx cores
  let threads := s.victimThreads ctx cores crews
  let s1 := s.stopVictims crews threads
  match s.preempts.find? fun (_, p) => p.ctx == ctx && !p.gated with
  | some (n, p) =>
    { s1 with preempts := tset s1.preempts n { p with
        crews := p.crews ++ crews, threads := p.threads ++ threads, hold := p.hold || hold, results := p.results ++ results } }
  | none =>
    { s1 with preempts := tset s1.preempts s1.nextOrder ⟨ctx, crews, threads, false, hold, results⟩, nextOrder := s1.nextOrder + 1 }

/-! ### Gating (R223, R224) -/

/-- A group of a pre-emption. -/
def State.isVictim (s : State) (p : Preempt) (g : Nat) : Bool :=
  match s.group? g with
  | none => false
  | some gr => p.crews.contains gr.crew

/-- Requests to host and peer memory are detached (R223). -/
def Access.detached (a : Access) : Bool := a.kind == 4 || a.kind == 5

/-- A request in flight that the pre-emption waits for: one that can go on, or is held behind a refresh. -/
def State.mustFinish (s : State) (id : Nat) (a : Access) : Bool :=
  !a.detached && (match a.stage with
    | .bank _ _ => true
    | .toHome => s.bankHeld (a.flats.headD 0)
    | .toPort | .parked _ | .overflow _ | .forHead | .answered | .replay => false)
  || (!a.detached && (s.portDue id a || s.claimDue a || s.arrivalDue a))
  || s.answerDue a

/-- No refresh holds an admitted store of some threads. -/
def State.threadsDrainable (s : State) (ts : List Nat) : Bool :=
  ts.all fun t => match s.thread? t with
    | none => true
    | some th => s.drainable (threadCore t) th.ctx

/-- Every engine that holds state of the victim has stopped (R222, R224). -/
def State.gatingDue (s : State) (p : Preempt) : Bool :=
  !p.gated && s.threadsDrainable p.threads && (s.accs.all fun (n, a) => !s.isVictim p a.group || !s.mustFinish n a)
    && s.groups.all fun (g, gr) => !p.crews.contains gr.crew || !s.recordDue g gr

/-- An access that has not performed is cancelled and kept as a replay item (R223). -/
def Access.cancel (a : Access) : Access :=
  if a.isDone || a.detached then a else { a with stage := .replay }

/-- A mark takes CLOCK at gating and the thread's core (R229). -/
def Thread.gate (th : Thread) (t clock : Nat) : Thread :=
  { th with parked := none
            queue := th.queue.map fun e => if e.mark && e.words.isEmpty then { e with words := [dw clock, dw (threadCore t)] } else e }

/-- The admitted stores of threads perform before their clocks are gated (R222). -/
def State.drainThreads (s : State) (ts : List Nat) : State :=
  ts.foldl (fun s t => match s.thread? t with
    | none => s
    | some th => s.drainPosted (threadCore t) th.ctx) s

/-- A store to the code arena of a context has been made and has not performed. -/
def State.arenaStores (s : State) (ctx : Nat) : Bool :=
  match s.ctx? ctx with
  | none => false
  | some c =>
    (s.accs.any fun (_, a) => a.ctx == ctx && a.handle == c.arena && a.write && !a.isDone)
    || (s.posted.any fun (_, p) => p.ctx == ctx && p.handle == c.arena)
    || (s.cmds.any fun (_, x) => x.ctx == ctx && x.dst.handle == c.arena && !x.system)
    || (s.crews.any fun (_, x) => x.dbuf.any fun e => e.ctx == ctx && e.handle == c.arena)
    || s.savedCrews.any fun (_, x) => x.crew.dbuf.any fun e => e.ctx == ctx && e.handle == c.arena

/-- The victims' clocks are gated: parked accesses are cancelled, and each victim group is at a release point. -/
def State.gateVictims (s : State) (p : Preempt) : State :=
  let gs := (s.groups.filter fun (_, gr) => p.crews.contains gr.crew).map (·.1)
  let s0 := s.drainThreads p.threads
  let s1 := { s0 with
    groups := tmap s0.groups fun g gr => if gs.contains g then { gr with late := s0.arenaStores gr.ctx } else gr
    accs := tmap s0.accs fun _ a => if gs.contains a.group then a.cancel else a
    cmds := tmap s0.cmds fun _ c => if p.crews.contains c.crew then { c with parked := none } else c
    threads := tmap s0.threads fun t th => if p.threads.contains t then th.gate t s.clock else th }
  gs.foldl (fun s g => s.release g) s1

/-- PREEMPT_GATED (R224): the collector is complete; the driver's commands that asked for it have their results. -/
def execPreemptGated (order : Nat) (s : State) : Out :=
  match tget s.preempts order with
  | none => .refused .notDue
  | some p =>
    if s.gatingDue p then
      let s1 := s.gateVictims p
      let s2 := { s1 with preempts := if p.crews.isEmpty && !p.hold then tdel s1.preempts order
                                      else tset s1.preempts order { p with gated := true, results := [] } }
      .next (p.results.foldl (fun s (a, t) => s.mailResult a t 0 []) s2)
    else .refused .notDue

/-! ### References that move with a group or thread -/

/-- A reference, renamed. -/
def rename (old new n : Nat) : Nat := if n = old then new else n

/-- A thread's references to a group. -/
def Thread.renameGroup (th : Thread) (old new : Nat) : Thread :=
  { th with
    blocked := th.blocked.map fun b => { b with group := rename old new b.group }
    reqs := th.reqs.map fun r => { r with groups := r.groups.map (rename old new) } }

/-- A crew's references to a group. -/
def Crew.renameGroup (c : Crew) (old new : Nat) : Crew :=
  { c with groups := c.groups.map (rename old new), halt := c.halt.map fun h => { h with group := rename old new h.group } }

/-- Every reference to a group, outside the table of groups itself. -/
def State.renameGroup (s : State) (old new : Nat) : State :=
  { s with
    ops := tmap s.ops fun _ o => { o with group := rename old new o.group }
    accs := tmap s.accs fun _ a => { a with group := rename old new a.group }
    cmds := tmap s.cmds fun _ c => { c with group := rename old new c.group }
    engine := s.engine.map fun e => { e with group := rename old new e.group }
    softFences := s.softFences.map fun f => { f with group := rename old new f.group }
    crews := tmap s.crews fun _ c => c.renameGroup old new
    savedCrews := tmap s.savedCrews fun _ x => { x with crew := x.crew.renameGroup old new }
    threads := tmap s.threads fun _ t => t.renameGroup old new
    savedThreads := tmap s.savedThreads fun _ t => { t with thread := t.thread.renameGroup old new } }

/-- A group's wait on a request follows its thread. -/
def Group.renameThread (gr : Group) (ctx old new : Nat) : Group :=
  match gr.wait with
  | .compose t r => if gr.ctx = ctx ∧ t = old then { gr with wait := .compose new r } else gr
  | .none | .phase _ _ _ | .word _ _ | .fuse _ _ | .fence _ _ _ _ | .sinv _ _ _ _ _ | .answer _ | .store _ => gr

/-- The waits of a context's groups on a thread's requests. -/
def State.renameThread (s : State) (ctx old new : Nat) : State :=
  { s with
    groups := tmap s.groups fun _ gr => gr.renameThread ctx old new
    savedCrews := tmap s.savedCrews fun _ x => { x with groups := x.groups.map fun gr => gr.renameThread ctx old new } }

/-! ### Scan-out (R227) -/

/-- The bytes of a range of memory, counted from its first. -/
def takeBytes (m : List Host.Cell) (a n : Nat) : List Host.Cell :=
  (m.filter fun c => decide (a ≤ c.1 ∧ c.1 < a + n)).map fun c => (c.1 - a, c.2)

/-- The tagged granules of a range, counted from its first. -/
def takeTags (ts : List Nat) (a n : Nat) : List Nat :=
  (ts.filter fun t => decide (a / 16 ≤ t ∧ t < (a + n) / 16)).map (· - a / 16)

/-- A range of memory reads zero, untagged (R62, R194). -/
def State.zeroRange (s : State) (a n : Nat) : State :=
  { s with mem := s.mem.filter fun c => !decide (a ≤ c.1 ∧ c.1 < a + n)
           tags := s.tags.filter fun t => !decide (a / 16 ≤ t ∧ t < (a + n) / 16) }

/-- The gated victims of pre-emptions that are complete. -/
def State.isGated (s : State) (crew : Nat) : Bool := s.preempts.any fun (_, p) => p.gated && p.crews.contains crew

/-- The crew with its groups under their saved references. -/
def Crew.toSaved (c : Crew) (k : Nat) : Crew := c.groups.zipIdx.foldl (fun c (g, i) => c.renameGroup g (savedRef k i)) c

/-- Where a saved crew's scratchpad is counted from: beyond every flat address, so that no write meets a saved wait. -/
def padHome (k : Nat) : Nat := awayBase + k * 2 ^ 32

/-- A range of bytes that moves: its first byte before and after, and its length. -/
structure Shift where
  old : Nat
  new : Nat
  len : Nat
  deriving DecidableEq, Repr

/-- An address, and a line, after the move. -/
def Shift.addr (m : Shift) (a : Nat) : Nat := if m.old ≤ a ∧ a < m.old + m.len then a - m.old + m.new else a
def Shift.line (m : Shift) (l : Nat) : Nat := m.addr (64 * l) / 64

/-- A table keyed by what moves. -/
def Shift.keys {α : Type} (f : Nat → Nat) (t : Tab α) : Tab α := t.foldl (fun t (k, x) => tset t (f k) x) []

/-- A wait on a word of a scratchpad follows it. -/
def Group.movePad (gr : Group) (m : Shift) : Group :=
  match gr.wait with
  | .phase a p c => { gr with wait := .phase (m.addr a) p c }
  | .word a v => { gr with wait := .word (m.addr a) v }
  | .none | .fuse _ _ | .compose _ _ | .fence _ _ _ _ | .sinv _ _ _ _ _ | .answer _ | .store _ => gr

/-- A write that waits in a crew's buffer follows it. -/
def Crew.movePad (c : Crew) (m : Shift) : Crew := { c with dbuf := c.dbuf.map fun e => { e with addr := m.addr e.addr } }

/-- What names words of a scratchpad by their homes follows it (R108, R225, R228): waits, accesses that stand at their homes, buffered
writes, claims and owner records. -/
def State.movePads (s : State) (m : Shift) : State :=
  { s with
    groups := tmap s.groups fun _ gr => gr.movePad m
    crews := tmap s.crews fun _ c => c.movePad m
    savedCrews := tmap s.savedCrews fun _ x => { x with crew := x.crew.movePad m, groups := x.groups.map fun gr => gr.movePad m }
    accs := tmap s.accs fun _ a => if a.isDone then a else { a with flats := a.flats.map m.addr }
    claims := Shift.keys m.line s.claims
    lapsed := s.lapsed.map fun x => { x with wrote := x.wrote.map m.line, read := x.read.map m.line }
    owners := Shift.keys (fun k => ownerKey (m.line (k / 2 ^ 64)) (k % 2 ^ 64)) s.owners }

/-- The admitted stores of threads to a range perform. -/
def State.settleRange (s : State) (a n : Nat) : State := s.settleAll fun p => decide (a < p.flat + p.size ∧ p.flat < a + n)

/-- A crew's groups leave their slots and registers. -/
def State.scanOutCrew (s : State) (k : Nat) : State :=
  match s.crew? k with
  | none => s
  | some c =>
    let live := s.crewGroups k
    let s1 := live.zipIdx.foldl (fun s (g, i) => s.renameGroup g (savedRef k i)) s
    { s1 with
      groups := s1.groups.filter fun (_, gr) => gr.crew != k
      crews := tdel s1.crews k
      savedCrews := tset s1.savedCrews k ⟨{ c with groups := live }.toSaved k, live.filterMap s.group?⟩ }

/-- The units of a core that hold parts of a crew's state: group slots with their registers, tile registers, accumulators, and
the scratchpad with the write buffer (R225, R227). (DESIGN CHOICE: log 91) -/
inductive StateUnit where
  | regs | tiles | accs | pad
  deriving DecidableEq, Repr

def allUnits : List StateUnit := [.regs, .tiles, .accs, .pad]

/-- A unit holds a part of a pre-empted crew's state. -/
def State.holdsPart (s : State) (k : Nat) (u : StateUnit) : Bool :=
  match s.anyCrew k with
  | none => false
  | some c => match u with
    | .regs => (s.crew? k).isSome
    | .tiles => !c.out.tiles && !c.tiles.isEmpty
    | .accs => !c.out.accs && !c.accs.isEmpty
    | .pad => !c.out.pad && c.spadLen + c.dbufLen != 0

/-- A part of a pre-empted crew's state leaves its unit. (DESIGN CHOICE: log 91) -/
def State.moveOut (s : State) (k : Nat) (u : StateUnit) : State :=
  match s.anyCrew k with
  | none => s
  | some c =>
    if !s.holdsPart k u then s
    else match u with
    | .regs => s.scanOutCrew k
    | .tiles => s.modAnyCrew k fun c => { c with out := { c.out with tiles := true } }
    | .accs => s.modAnyCrew k fun c => { c with out := { c.out with accs := true } }
    | .pad =>
      let at_ := sramBase + c.spad
      let s := s.settleRange at_ c.spadLen
      (s.movePads ⟨at_, padHome k, c.spadLen⟩).modAnyCrew k fun c =>
        { c with out := { c.out with pad := true, bytes := takeBytes s.mem at_ c.spadLen, tags := takeTags s.tags at_ c.spadLen } }

/-- All of a pre-empted crew's state leaves its core, on its way to another place (R228). -/
def State.takeOut (s : State) (k : Nat) : State := allUnits.foldl (fun s u => s.moveOut k u) s

/-- Key of a saved thread. -/
def savedKey (t ctx : Nat) : Nat := threadCore t * 4096 + ctx % 4096

/-- A thread's state leaves its core, and its place is free. -/
def State.scanOutThread (s : State) (t : Nat) : State :=
  match s.thread? t with
  | none => s
  | some th => { s with threads := tdel s.threads t, savedThreads := tset s.savedThreads (savedKey t th.ctx) ⟨t, th, []⟩ }

/-! Save frames come from the fast-tier free pool when a later context claims the storage (R227): whole frames of 64 KiB for the
bytes that are saved. Their number, and that a claim waits while the pool has too few, is the model's. -/

/-- Frames for bytes. (DESIGN CHOICE: log 91) -/
def framesFor (bytes : Nat) : Nat := (bytes + 65535) / 65536

/-- Bytes of the part of a crew's state that a unit holds. -/
def State.partBytes (s : State) (k : Nat) (c : Crew) (u : StateUnit) : Nat :=
  match u with
  | .regs => ((s.crewGroups k).filterMap s.group?).foldl (fun n gr => n + gr.lanes.length * gr.regs * 4) 0
  | .tiles => c.tiles.length * (64 * 204 + 8)
  | .accs => c.accs.length * 16384
  | .pad => c.spadLen + c.dbufLen

/-- Bytes of a thread's state: registers, its queues, and its open buffer. -/
def Thread.bytes (th : Thread) : Nat :=
  32 * 8 + 16 * 16 + (th.queue.length + th.held.length) * 64 + th.dlq.length * 128 + match th.buf with
  | none => 0
  | some b => 4 * b.words.length

/-- A unit's part of a gated crew's state is copied to save frames, if the pool has them (R227). (DESIGN CHOICE: log 91) -/
def State.claimPart (s : State) (k : Nat) (u : StateUnit) : Option State :=
  match s.anyCrew k with
  | none => some s
  | some c =>
    let n := framesFor (s.partBytes k c u)
    if s.fastFree.length < n then none
    else some ({ s.moveOut k u with fastFree := s.fastFree.drop n }.modAnyCrew k fun c =>
      { c with out := { c.out with frames := c.out.frames ++ s.fastFree.take n } })

/-- A thread's place is claimed, once its launch records have been taken, which keep their order (R66). (DESIGN CHOICE: log 105) -/
def State.claimThread (s : State) (t : Nat) : Option State :=
  match s.thread? t with
  | none => some s
  | some th =>
    let n := framesFor th.bytes
    if s.fastFree.length < n || !th.dlq.isEmpty then none
    else some { s.scanOutThread t with
      fastFree := s.fastFree.drop n
      savedThreads := tmod (s.scanOutThread t).savedThreads (savedKey t th.ctx) fun x => { x with frames := s.fastFree.take n } }

/-! ### Resumption (R228, R229) -/

/-- A pre-empt-notice event (R229). -/
def noticeWords (gatedAt : DWord) (old new clock : Nat) : List DWord :=
  [dw (5 * 2 ^ 56 + old % 128 * 2 ^ 7 + new % 128), gatedAt, dw clock, 0, 0, 0, 0, 0]

/-- A resumed thread: its marks become notices at the head of its queue; an idle thread discards them (R417). -/
def Thread.resumed (th : Thread) (core clock : Nat) : Thread :=
  let marks := th.queue.filter (·.mark)
  let rest := th.queue.filter fun e => !e.mark
  let notices : List QEvent := marks.map fun e => ⟨noticeWords (e.words.headD 0) (((e.words[1]?).getD 0).toNat) core clock, clock, false, none⟩
  { th with gated := false, queue := if th.idle then rest else notices ++ rest }

/-- A thread gated by a pre-emption that is complete. -/
def State.threadGated (s : State) (t : Nat) (th : Thread) : Bool :=
  th.gated && s.preempts.all fun (_, p) => p.gated || !p.threads.contains t

/-- The thread of a context on a core runs again, unless its gating is still under way. -/
def State.ungateThread (s : State) (core ctx : Nat) : State :=
  match s.threadOf core ctx with
  | none => s
  | some t => { (s.modThread t fun th => if s.threadGated t th then th.resumed core s.clock else th) with
      preempts := tmap s.preempts fun _ p => if p.gated then { p with threads := p.threads.filter (· != t) } else p }

/-- A crew belongs to no pre-emption any more; a pre-emption with no crew left is over. -/
def State.leavePreempt (s : State) (k : Nat) : State :=
  let ps := tmap s.preempts fun _ p => { p with crews := p.crews.filter (· != k) }
  { s with preempts := ps.filter fun (n, p) => !(p.crews.isEmpty && !p.hold && match tget s.preempts n with
      | none => false
      | some q => q.crews.contains k) }

/-- A group votes again when no thread that runs holds its request (R45, R231). (DESIGN CHOICE: log 92) -/
def State.revote (s : State) (g : Nat) : State :=
  match s.group? g with
  | none => s
  | some gr => match gr.wait with
    | .compose t r =>
      if match s.thread? t with
        | none => false
        | some th => !th.gated && th.reqs.any (·.id == r) then s
      else (s.modGroup g fun gr => { gr with wait := .none }).vote g
    | .none | .phase _ _ _ | .word _ _ | .fuse _ _ | .fence _ _ _ _ | .sinv _ _ _ _ _ | .answer _ | .store _ => s

/-- A crew's groups run again: each is at a release point, its replay items are presented again, and a traced group
writes SYNC (R228, R425). -/
def State.wakeCrew (s : State) (k : Nat) : State :=
  match s.crew? k with
  | none => s
  | some c =>
    let s1 := (s.modCrew k fun c => { c with gated := false }).leavePreempt k
    let s2 := { s1 with
      groups := tmap s1.groups fun _ gr => if gr.crew == k then { gr with gated := false, late := false, ready := none } else gr
      accs := tmap s1.accs fun _ a => if a.crew == k && decide (a.stage = Stage.replay) then a.represent else a }
    let s3 := (s2.ungateThread c.core c.ctx).replaceCmds k
    (s3.crewGroups k).foldl (fun s g => ((s.release g).traceSync g).revote g) s3

/-- A core that admits crews: not withdrawn (R237), its island not OFF (R441). -/
def State.isOpen (s : State) (core : Nat) : Bool := !s.withdrawn.contains core && (s.islands[clusterOf core]?).getD 0 != 3

/-- A gated crew that can run again where it is: on a core that admits crews, with nothing of it copied away (R227). -/
def State.canWake (s : State) (k : Nat) : Bool :=
  match s.crew? k with
  | none => false
  | some c => s.isOpen c.core && c.out == Parts.none

/-- A crew and its whole gang can run again where they are (R53). -/
def State.gangCanWake (s : State) (k : Nat) : Bool :=
  match s.crew? k with
  | none => false
  | some c => (s.crews.all fun (j, d) => !s.sameGang c d || s.canWake j) && s.savedCrews.all fun (_, x) => !s.sameGang c x.crew

/-- A pre-emption that held its victims ends: the crews that can, each with its gang, run again in place, and the threads of their
cores (R227, R232 step 5); placement resumes the others elsewhere (R237). -/
def State.endPreempt (s : State) (n : Nat) : State :=
  match tget s.preempts n with
  | none => s
  | some p =>
    let (go, stay) := p.crews.partition s.gangCanWake
    let left := s.crewCores stay
    let ts := p.threads.filter fun t => s.isOpen (threadCore t) && !left.contains (threadCore t)
    let s1 := { s with
      preempts := tset s.preempts n { p with hold := false, gated := true }
      -- what was still to be gated is gated now
      threads := if p.gated then s.threads else tmap s.threads fun t th => if ts.contains t then th.gate t s.clock else th }
    let s2 := go.foldl State.wakeCrew s1
    let s3 := ts.foldl (fun s t => match s.thread? t with
      | none => s
      | some th => s.ungateThread (threadCore t) th.ctx) s2
    { s3 with preempts := if stay.isEmpty then tdel s3.preempts n
        else tset s3.preempts n { p with crews := stay, threads := p.threads.filter fun t => !ts.contains t, hold := false, results := [] } }

end Sys2Proof.Machine
end

