-- ==== Sys2Proof/Machine/Placement.lean ====
section
/-! DEFINITION. Placement: what a crew needs and where a core has it (R13, R14, R67), admission (R32, R62, R67, R71, R72,
R111, R417), resumption of saved crews (R228), gangs (R53, R68), reservations (R68) and the choice of victims (R221).
CREW_ADMIT is one decision of placement. -/
namespace Sys2Proof.Machine

/-! ### Room (R13, R14, R67) -/

/-- What a crew takes on a core; words of the station store that must be reinstalled with it. -/
structure Need where
  ctx    : Nat
  groups : Nat
  lanes  : Nat
  bytes  : Nat
  tiles  : Nat
  accs   : Nat
  sram   : Nat
  words  : Nat
  deriving DecidableEq, Repr

/-- Where it is on a core: slots, first tile and accumulator, and the first byte of its scratchpad in SRAM. -/
structure Room where
  slots : List Nat
  tile0 : Nat
  acc0  : Nat
  spad  : Nat
  deriving DecidableEq, Repr

def State.groupsOn (s : State) (core : Nat) : List (Nat × Group) := s.groups.filter fun (g, _) => groupCore g == core
def State.crewsOn (s : State) (core : Nat) : List (Nat × Crew) := s.crews.filter fun (_, c) => c.core == core
def State.freeSlots (s : State) (core : Nat) : List Nat := (List.range 128).filter fun i => (s.group? (groupRef core i)).isNone

/-- Resident lanes, and bytes of the register file (R14). -/
def State.lanesOn (s : State) (core : Nat) : Nat := (s.groupsOn core).foldl (fun n (_, g) => n + g.lanes.length) 0
def State.bytesOn (s : State) (core : Nat) : Nat := (s.groupsOn core).foldl (fun n (_, g) => n + g.lanes.length * g.regs * 4) 0

/-- The lowest start of a free run of n among total places, given the runs in use. (DEDUCED: log 80) -/
def lowestRun (used : List (Nat × Nat)) (total n : Nat) : Option Nat :=
  if n = 0 then some 0
  else (sortNat (0 :: used.map fun (a, k) => a + k)).find? fun c =>
    decide (c + n ≤ total) && used.all fun (a, k) => k == 0 || decide (c + n ≤ a ∨ a + k ≤ c)

/-- The crews that may hold units of a core: those on it, and those saved from it. -/
def State.heldOn (s : State) (core : Nat) : List (Nat × Crew) :=
  s.crewsOn core ++ (s.savedCrews.filter fun (_, x) => x.crew.core == core).map fun (k, x) => (k, x.crew)

/-- The runs of tiles, accumulators, and bytes of the slice that crews hold on a core. -/
def State.tileRuns (s : State) (core : Nat) : List (Nat × Nat) :=
  ((s.heldOn core).filter fun (_, c) => !c.out.tiles).map fun (_, c) => (c.tile0, c.tiles.length)
def State.accRuns (s : State) (core : Nat) : List (Nat × Nat) :=
  ((s.heldOn core).filter fun (_, c) => !c.out.accs).map fun (_, c) => (c.acc0, c.accs.length)
def State.padRuns (s : State) (core : Nat) : List (Nat × Nat) :=
  ((s.heldOn core).filter fun (_, c) => !c.out.pad).map fun (_, c) => (c.spad - core * sliceSize, c.spadLen + c.dbufLen)

/-- A core has no room in a unit for a need (R13, R14, R67). -/
def State.lacks (s : State) (core : Nat) (x : Need) (u : StateUnit) : Bool :=
  match u with
  | .regs => decide ((s.freeSlots core).length < x.groups ∨ 32768 < s.lanesOn core + x.lanes ∨ 8388608 < s.bytesOn core + x.bytes)
  | .tiles => (lowestRun (s.tileRuns core) 16 x.tiles).isNone
  | .accs => (lowestRun (s.accRuns core) 8 x.accs).isNone
  | .pad => (lowestRun (s.padRuns core) sliceSize x.sram).isNone

/-- The room of a need on a core. (DEDUCED: log 80) -/
def State.roomFor (s : State) (core : Nat) (x : Need) : Option Room :=
  if s.lacks core x .regs then none
  else match lowestRun (s.tileRuns core) 16 x.tiles, lowestRun (s.accRuns core) 8 x.accs, lowestRun (s.padRuns core) sliceSize x.sram with
    | some t, some a, some p => some ⟨(s.freeSlots core).take x.groups, t, a, core * sliceSize + p⟩
    | _, _, _ => none

/-- Parts of pre-empted crews leave the units in which a core has no room for a need, one after another (R227). The order of the
crews, and that a unit gives up a crew's part whole, is the model's. (DESIGN CHOICE: log 91) -/
def State.claimFor (s : State) (core : Nat) (x : Need) : List (StateUnit × Nat) → State
  | [] => s
  | (u, k) :: r =>
    if !s.lacks core x u || !s.holdsPart k u then State.claimFor s core x r
    else match s.claimPart k u with
      | none => s
      | some s1 => State.claimFor s1 core x r

/-- The parts that a claim on a core may move: those of gated crews whose pre-emption is complete, and of saved ones. -/
def State.gatedOn (s : State) (core : Nat) : List (StateUnit × Nat) :=
  let ks := ((s.heldOn core).filter fun (k, _) => s.isGated k).map (·.1)
  allUnits.flatMap fun u => ks.map fun k => (u, k)

/-! ### Thread places (R67, R417) -/

def State.threadsOn (s : State) (core : Nat) : List (Nat × Thread) := s.threads.filter fun (t, _) => threadCore t == core

/-- Whether a context holds a crew on a core, admitted or pre-empted. -/
def State.holdsCrew (s : State) (core ctx : Nat) : Bool :=
  ((s.crewsOn core).any fun (_, c) => c.ctx == ctx && !c.groups.isEmpty)
  || s.savedCrews.any fun (_, x) => x.crew.ctx == ctx && x.crew.core == core

/-- The thread that gives up its place: of those whose context holds no crew on the core, the one whose last crew there retired
earliest. -/
def State.threadVictim (s : State) (core : Nat) : Option Nat :=
  let idle := (s.threadsOn core).filter fun (t, th) => (!th.gated || s.threadGated t th) && !s.holdsCrew core th.ctx
  (idle.foldl (fun b (t, th) => match b with
    | none => some (t, th.lastCrew)
    | some (u, n) => if th.lastCrew < n then some (t, th.lastCrew) else some (u, n)) none).map (·.1)

/-- A thread is stopped and saved, as a pre-emption's is (R67). -/
def State.reclaim (s : State) (t : Nat) : Option State :=
  ((s.drainThreads [t]).modThread t fun th => if th.gated then th else (th.marked s.clock).gate t s.clock).claimThread t

/-- A place for the thread of a context on a core; a thread that is being gated there is waited for. -/
def State.threadRoom (s : State) (core ctx : Nat) : Option State :=
  match s.threadOf core ctx with
  | some t => match s.thread? t with
    | none => none
    | some th => if th.gated && !s.threadGated t th then none else some s
  | none => if (s.threadsOn core).length < 4 then some s else (s.threadVictim core).bind s.reclaim

/-- A new thread of a context, at the compose entry of a kernel, or idle (R417). -/
def freshThread (ctx : Nat) (c : Context) (compose : Option Nat) (clock : Nat) : Thread :=
  { ctx := ctx, l := List.replicate 32 0
    k := (c.caps.map fun b => (⟨b, true⟩ : Cap)) ++ List.replicate (16 - c.caps.length) Cap.null
    pc := compose.getD 0, idle := compose.isNone, queue := [], held := [], taken := none, buf := none, blocked := none
    emitSeq := 0, sleep := none, nextReq := 1, reqs := [], dlq := [], parked := none, replay := false, gated := false, stopped := false
    lastCrew := clock }

/-- The saved thread for a context on a core: the one saved there, else the one saved on the core its crew left. -/
def State.savedFor (s : State) (core old ctx : Nat) : Option (Nat × SavedThread) :=
  let at_ := fun (n : Nat) => (tget s.savedThreads (savedKey (threadRef n 0) ctx)).map fun x => (savedKey (threadRef n 0) ctx, x)
  match at_ core with
  | some x => some x
  | none => at_ old

/-- The lowest thread place of a core that is free. -/
def State.freePlaceOn (s : State) (core : Nat) : Nat :=
  threadRef core (((List.range 4).find? fun i => (s.thread? (threadRef core i)).isNone).getD 0)

/-- The context's thread that stayed, gated, on the core that a crew left, while no crew of the context runs there. (DESIGN CHOICE: log 105) -/
def State.leftThread (s : State) (old ctx : Nat) : Option (Nat × Thread) :=
  match s.threadOf old ctx with
  | none => none
  | some t => match s.thread? t with
    | none => none
    | some th => if s.threadGated t th && (s.crewsOn old).all fun (_, c) => c.ctx != ctx || c.gated || c.groups.isEmpty then some (t, th)
                 else none

/-- The thread that a crew's resumption or admission on a core brings there: saved, or left gated on the old core. -/
def State.threadToBring (s : State) (core old ctx : Nat) : Option Thread :=
  match s.savedFor core old ctx with
  | some (_, x) => some x.thread
  | none => if core = old then none else (s.leftThread old ctx).map (·.2)

/-- The context has no thread to bring to the core, and gets a new one. -/
def State.wantsThread (s : State) (core old ctx : Nat) : Bool := (s.threadOf core ctx).isNone && (s.threadToBring core old ctx).isNone

/-- Words of the station store that the open buffer of the thread to bring takes (R228). -/
def State.bufferWords (s : State) (core old ctx : Nat) : Nat :=
  if (s.threadOf core ctx).isSome then 0 else match s.threadToBring core old ctx with
  | none => 0
  | some th => match th.buf with
    | none => 0
    | some b => b.words.length

/-- The victim thread of a core that a crew left, where the crew's new core has a thread of the context already: it goes on, with
its requests, on its old core, if that core admits crews and, where it was saved, has a place for it. (DESIGN CHOICE: log 105) -/
def State.freeLeft (s : State) (core old ctx : Nat) : State :=
  if core = old || !s.isOpen old then s
  else match s.leftThread old ctx, tget s.savedThreads (savedKey (threadRef old 0) ctx) with
    | some _, _ => s.ungateThread old ctx
    | none, some x =>
      if (s.threadOf old ctx).isSome || decide (4 ≤ (s.threadsOn old).length) then s
      else
        let t := s.freePlaceOn old
        ({ s with threads := tset s.threads t (x.thread.resumed old s.clock)
                  savedThreads := tdel s.savedThreads (savedKey (threadRef old 0) ctx)
                  fastFree := s.fastFree ++ x.frames }).renameThread ctx x.num t
    | none, none => s

/-- The context has its thread on the core: there already, restored, moved there, or new (R67, R228, R229, R417). The first of a
core's crews that resumes on another core, where the context has no thread, takes the old core's victim thread along; else that
thread goes on where it was. (DESIGN CHOICE: log 105) -/
def State.bringThread (s : State) (core old ctx : Nat) (compose : Option Nat) : State :=
  match s.threadOf core ctx with
  | some _ => (s.ungateThread core ctx).freeLeft core old ctx
  | none =>
    let t := s.freePlaceOn core
    match s.savedFor core old ctx, s.leftThread old ctx, s.ctx? ctx with
    | some (k, x), _, _ =>
      ({ s with threads := tset s.threads t (x.thread.resumed core s.clock), savedThreads := tdel s.savedThreads k
                fastFree := s.fastFree ++ x.frames }).renameThread ctx x.num t
    | none, some (u, th), _ =>
      ({ s with threads := tset (tdel s.threads u) t (th.resumed core s.clock)
                preempts := tmap s.preempts fun _ p => { p with threads := p.threads.filter (· != u) } }).renameThread ctx u t
    | none, none, some c => { s with threads := tset s.threads t (freshThread ctx c compose s.clock) }
    | none, none, none => s

/-! ### Admission of a new crew (R62, R67, R71, R72) -/

/-- Groups and lanes bound to a pipe of a core. -/
def State.bound (s : State) (core pipe : Nat) : Nat × Nat :=
  (s.groupsOn core).foldl (fun (n, l) (_, g) => if g.pipe = pipe then (n + 1, l + g.lanes.length) else (n, l)) (0, 0)

/-- The pipe for a new group (R72). -/
def State.pickPipe (s : State) (core : Nat) : Nat :=
  ((List.range 4).foldl (fun (b : Option (Nat × Nat)) p =>
    let (n, l) := s.bound core p
    if 32 ≤ n then b
    else match b with
      | none => some (p, l)
      | some (_, m) => if l < m then some (p, l) else b) none).elim 0 (·.1)

/-- What a crew of a launch needs, but for its thread's buffer. -/
def Launch.need (l : Launch) : Need :=
  let lanes := l.extent 1 * l.width
  ⟨l.ctx, l.extent 1, lanes, lanes * l.regs * 4, l.tilesField, l.accsField, l.spadLen + l.dbufLen, 0⟩

/-- A lane at launch (R28, R32, R62). -/
def Launch.lane0 (l : Launch) (entry i : Nat) : Lane :=
  ⟨List.replicate l.regs 0, 0, if i < l.extent 0 then BitVec.ofNat 8 entry else 255, l.fminit, 0⟩

/-- A group at launch, before it enters its station (R62). -/
def newGroup (l : Launch) (uid crew gid gidx pipe entry : Nat) : Group :=
  { uid := uid, crew := crew, ctx := l.ctx, gid := gid, gidx := gidx, role := roleOf (l.roleCode gidx), regs := l.regs
    lanes := (List.range l.width).map (l.lane0 entry)
    s := [0, dw (l.word 14), dw (l.word 15)] ++ List.replicate 29 0
    k := l.caps ++ List.replicate (16 - l.caps.length) Cap.null
    station := 0, members := [], slotSet := [], cover := [], pass := 0, code := [], isOpen := false, source := 0, copy := none
    refetch := false, moved := false, late := false, ended := false, pc := 0
    queue := [], hix := none, guard := none, cpol := 0, rwcount := 0, marker := false, wait := .none
    met := false, stop := .run, trap := none, stacked := [], hslots := 0, retry := [], gated := false, pipe := pipe, lastIss := 0
    ready := none, traced := false, tSync := false, tLast := 0, tSyncAt := 0, tStation := 0, tPass := 0, tHeld := [] }

/-- A slot's counter advances as a new group is admitted to it (R111). -/
def State.nextCtr (s : State) (g : Nat) : BitVec 18 := (tget s.slotCtr g).getD 0 + 1

/-- The groups of a crew enter their slots, in ascending group index. -/
def State.addGroups (s : State) (core crew : Nat) (l : Launch) (entry : Nat) : List (Nat × Nat) → State
  | [] => s
  | (slot, i) :: r =>
    let g := groupRef core slot
    let c := s.nextCtr g
    State.addGroups { s.setCtr g c with
      groups := tset s.groups g (newGroup l s.nextId crew (gidOf g c) i (s.pickPipe core) entry)
      nextId := s.nextId + 1 } core crew l entry r

/-- The launch-arrived event (R285). -/
def arrivedWords (l : Launch) (idx : Nat) (slots : List Nat) (clock : Nat) : List DWord :=
  let mask := slots.foldl (fun m i => m + 2 ^ i) 0
  [dw (2 ^ 56 + l.kernel * 2 ^ 32 + l.ltag), dw (l.codeid * 2 ^ 32 + (l.extent 1 - 1)), dw idx, dw (l.word 14), dw (l.word 15),
   dw clock, dw mask, dw (mask / 2 ^ 64)]

/-- An empty tile register and accumulator (R62). -/
def Tile.zero : Tile := ⟨0, List.replicate 64 0, List.replicate 64 0⟩
def Accum.zero : Accum := ⟨none, List.replicate 64 (List.replicate 64 0)⟩

/-- A group begins at the entry block's station, and is traced where its crew is (R32, R425). -/
def State.startGroup (s : State) (entry : Nat) (traced : Bool) (g : Nat) : State :=
  match s.group? g with
  | none => s
  | some gr =>
    let s1 := match (s.tableOf gr).find? fun x => x.set == [entry] with
      | none => s
      | some x => s.enter g x
    (s1.modGroup g fun gr => { gr with traced := traced }).traceSync g

/-- The launch with its capability list as it stands now (R71); a list that is no longer whole stands as it was validated.
(DESIGN CHOICE: log 93) -/
def State.readCaps (s : State) (l : Launch) : Launch := { l with caps := (s.capList l.ctx l).getD l.caps }

/-- A crew of a launch is admitted to a core, with its room there. -/
def State.admitNew (s : State) (core n : Nat) (l : Launch) (idx : Nat) (r : Room) : State :=
  match s.kernelOf l.ctx l.codeid l.kernel, s.ctx? l.ctx with
  | some k, some c =>
    let crew := s.nextCrew
    let refs := r.slots.map (groupRef core)
    let cr : Crew :=
      { launch := n, ctx := l.ctx, idx := idx, core := core, groups := refs, tile0 := r.tile0
        tiles := List.replicate l.tilesField Tile.zero, acc0 := r.acc0, accs := List.replicate l.accsField Accum.zero
        spad := r.spad, spadLen := l.spadLen, dbufLen := l.dbufLen, dbuf := [], halt := none, gated := false
        admitted := s.clock, trace := c.trace, out := Parts.none }
    let s1 := (s.bringThread core core l.ctx k.compose).zeroRange (sramBase + r.spad) (l.spadLen + l.dbufLen)
    let s2 := ({ s1 with crews := tset s1.crews crew cr, nextCrew := crew + 1 }).addGroups core crew (s.readCaps l) k.entry r.slots.zipIdx
    let s3 := s2.modLaunch n fun x => { x with next := idx + 1, phase := if idx + 1 < l.crews then .placing else .running }
    (refs.foldl (fun s g => s.startGroup k.entry (l.traces && c.trace.isSome) g) s3).notify core l.ctx
      (arrivedWords l idx r.slots s.clock)
  | _, _ => s

/-! ### Resumption on a core (R228) -/

/-- What a saved crew needs on a core: the store must hold its composed stations and its thread's buffer as well. -/
def State.savedNeed (s : State) (x : SavedCrew) (core : Nat) : Need :=
  let c := x.crew
  let composed := if core = c.core then 0 else match s.ctx? c.ctx with
    | none => 0
    | some y => (y.composed.filter fun z => z.core == c.core && y.hasPlace core z).foldl (fun n z => n + z.words.length) 0
  ⟨c.ctx, x.groups.length, x.groups.foldl (fun n g => n + g.lanes.length) 0,
   x.groups.foldl (fun n g => n + g.lanes.length * g.regs * 4) 0, c.tiles.length, c.accs.length, c.spadLen + c.dbufLen,
   composed + s.bufferWords core c.core c.ctx⟩

/-- The composed stations of a context are reinstalled on another core, each that has a place there (R33, R228).
(DESIGN CHOICE: log 94) -/
def Context.reinstall (c : Context) (old core : Nat) : Context :=
  if old = core then c else (c.composed.filter (·.core == old)).foldl (fun c x => c.installOn core x) c

/-- Handles of a table whose entries are not all zero. -/
def State.usedHandles (s : State) (c : Context) : List Nat :=
  sortNat ((s.mem.filter fun x => decide (c.table ≤ x.1 ∧ x.1 < c.table + 32 * c.otn)).map fun x => (x.1 - c.table) / 32)

/-- The stationmaster rewrites the PLACE of a moved scratchpad's objects, and the ports drop their copies. -/
def State.movePlace (s : State) (ctx old new len : Nat) : State :=
  match s.ctx? ctx with
  | none => s
  | some c =>
    if old = new then s
    else (s.usedHandles c).foldl (fun s h => match entryAt s.mem c h with
      | none => s
      | some e =>
        if e.valid && e.kind == 2 && decide (old ≤ e.w1 ∧ e.w1 < old + len) then
          let s1 := s.memWrite (c.table + 32 * h + 8) (leBytes (e.w1 - old + new) 8)
          { s1 with otCache := s1.otCache.filter fun x => !(x.ctx == ctx && x.handle == h) }
        else s) s

/-- A refresh holds an entry of the context's table, where a scratchpad is to be moved (R440). -/
def State.placeHeld (s : State) (c : Crew) (spad : Nat) : Bool :=
  !s.refresh.isEmpty && c.spad != spad && (s.ctx? c.ctx).any fun x => (s.usedHandles x).any fun h => s.rangeHeld (x.table + 32 * h) 32

/-- The scratchpad's bytes and tags in their new place. -/
def State.putPad (s : State) (x : Parts) (at_ n : Nat) : State :=
  let s1 := s.zeroRange at_ n
  { s1 with mem := x.bytes.foldl (fun m (a, b) => mput m (at_ + a) b) s1.mem
            tags := x.tags.foldl (fun ts t => tagSet ts (at_ / 16 + t)) s1.tags }

/-- The running precomposed station of a group is fetched again: on another core, or where the store no longer has its copy, or a
fetch of it is pending still (R228, R230). -/
def State.refetches (s : State) (same : Bool) (gr : Group) : Bool :=
  gr.refetch || gr.copy.any fun n => !same || !s.store.any fun c => c.id == n

/-- The groups of a saved crew enter slots of a core; on another core each is bound to a pipe anew. -/
def State.restoreGroups (s : State) (core k : Nat) (same : Bool) : List ((Group × Nat) × Nat) → State
  | [] => s
  | ((gr, i), slot) :: r =>
    let g := groupRef core slot
    let c := s.nextCtr g
    let pipe := if same then gr.pipe else s.pickPipe core
    let s1 := s.renameGroup (savedRef k i) g
    let again := s.refetches same gr
    State.restoreGroups { s1.setCtr g c with
      groups := tset s1.groups g { gr with
        gid := gidOf g c, pipe := pipe, refetch := again, moved := gr.moved || (again && gr.late)
        copy := if again then none else gr.copy } } core k same r

/-- The groups of a crew ask for the pages of the code that they are to fetch again. -/
def State.askRefetch (s : State) (k : Nat) : State :=
  (s.crewGroups k).foldl (fun s g => match s.group? g with
    | none => s
    | some gr => if gr.refetch then s.askCode g (s.stationAway gr.ctx (s.codeOf gr).1 (s.codeOf gr).2 gr.station) else s) s

/-- A crew that was pre-empted has a thread on its core; a new one gets the launch-arrived event first (R417). A crew whose groups have
all retired needs none. -/
def State.threadBack (s : State) (core old : Nat) (c : Crew) (slots : List Nat) (compose : Option Nat) : State :=
  if slots.isEmpty then s else
  let s1 := s.bringThread core old c.ctx compose
  match s.wantsThread core old c.ctx, s.launch? c.launch with
  | true, some l => s1.notify core c.ctx (arrivedWords l c.idx slots s.clock)
  | _, _ => s1

/-- A saved crew, all of whose state is out of the units, resumes on a core (R228). (DESIGN CHOICE: log 117) -/
def State.restoreCrew (s : State) (core k : Nat) (x : SavedCrew) (r : Room) (compose : Option Nat) : State :=
  let c := x.crew
  let s1 := ((s.threadBack core c.core c r.slots compose).putPad c.out (sramBase + r.spad) (c.spadLen + c.dbufLen)).movePads
    ⟨padHome k, sramBase + r.spad, c.spadLen⟩
  match tget s1.savedCrews k with
  | none => s
  | some y =>
    let s2 := (s1.movePlace c.ctx c.spad r.spad c.spadLen).modCtx c.ctx fun z => z.reinstall c.core core
    let moveEntry := fun (e : MEntry) => if e.crew = k then { e with core := core } else e
    let moveCopy := fun (_ : Nat) (z : Copy) => if z.crew = k then { z with core := core } else z
    let moveAccess := fun (_ : Nat) (a : Access) => if a.crew = k then { a with core := core } else a
    let s3 := { s2 with
      savedCrews := tdel s2.savedCrews k
      fastFree := s2.fastFree ++ y.crew.out.frames
      crews := tset s2.crews k { y.crew with core := core, tile0 := r.tile0, acc0 := r.acc0, spad := r.spad, out := Parts.none }
      engine := s2.engine.map moveEntry
      cmds := tmap s2.cmds moveCopy
      accs := tmap s2.accs moveAccess }
    ((s3.restoreGroups core k (core == c.core) (y.groups.zipIdx.zip r.slots)).dropLines core c.ctx
      |>.wakeCrew k).askRefetch k

/-! ### One decision (R53, R67, R68, R70) -/

/-- A crew to place: a new one, or one that was pre-empted and saved. -/
inductive Item where
  | fresh (idx : Nat)
  | saved (crew : Nat)
  deriving DecidableEq, Repr

/-- What an item needs on a core. -/
def State.itemNeed (s : State) (l : Launch) (core : Nat) (i : Item) : Need :=
  match i with
  | .fresh _ => { l.need with words := s.bufferWords core core l.ctx }
  | .saved k => match tget s.savedCrews k with
    | none => l.need
    | some x => s.savedNeed x core

/-- An item placed on a core, or none when R67 does not hold there. -/
def State.placeItem (s : State) (core n : Nat) (l : Launch) (i : Item) : Option State :=
  let x := s.itemNeed l core i
  let s1 := s.claimFor core x (s.gatedOn core)
  match s1.threadRoom core x.ctx with
  | none => none
  | some s2 => match s2.makeRoom core x.words s2.store.length with
    | none => none
    | some s3 => match s3.roomFor core x with
      | none => none
      | some r => match i with
        | .fresh idx => some (s3.admitNew core n l idx r)
        | .saved k => match tget s3.savedCrews k with
          | none => none
          | some y => if s3.placeHeld y.crew r.spad then none else some (s3.restoreCrew core k y r (match s.kernelOf l.ctx l.codeid l.kernel with
              | none => none
              | some kn => kn.compose))

/-- Free lanes of a core for a launch's groups, under R14. -/
def State.freeLanes (s : State) (core : Nat) (l : Launch) : Nat :=
  min (32768 - s.lanesOn core) ((8388608 - s.bytesOn core) / (4 * l.regs))

/-- The best of the places that hold: the greatest measure, and among equals the first. -/
def bestOf (f : Nat → Option State) (measure : Nat → Nat) : List Nat → Option (Nat × State)
  | [] => none
  | x :: r => match f x, bestOf f measure r with
    | none, b => b
    | some s, none => some (x, s)
    | some s, some (y, t) => if measure x < measure y then some (y, t) else some (x, s)

/-- An item on the core with the most free lanes among those where it fits. -/
def State.placeCrew (s : State) (cores : List Nat) (n : Nat) (l : Launch) (i : Item) : Option State :=
  (bestOf (fun c => s.placeItem c n l i) (fun c => s.freeLanes c l) cores).map (·.2)

/-- Items placed one after another. -/
def State.placeAll (s : State) (cores : List Nat) (n : Nat) (l : Launch) : List Item → Option State
  | [] => some s
  | i :: r => match s.placeCrew cores n l i with
    | none => none
    | some s1 => State.placeAll s1 cores n l r

/-- Free group slots of cores. -/
def State.slotsIn (s : State) (cores : List Nat) : Nat := cores.foldl (fun n c => n + (s.freeSlots c).length) 0

/-- Items in the cluster with the most free slots, of all its cores, among those where all fit; `cs` are clusters.
(DESIGN CHOICE: log 77) -/
def State.placeCluster (s : State) (avail cs : List Nat) (n : Nat) (l : Launch) (is : List Item) : Option State :=
  (bestOf (fun c => s.placeAll ((upTo (4 * c) 4).filter avail.contains) n l is) (fun c => s.slotsIn (upTo (4 * c) 4)) cs).map (·.2)

/-- Parts of a gang, each in one cluster. -/
def State.placeParts (s : State) (avail cs : List Nat) (n : Nat) (l : Launch) : List (List Item) → Option State
  | [] => some s
  | p :: r => match s.placeCluster avail cs n l p with
    | none => none
    | some s1 => State.placeParts s1 avail cs n l r

/-- A list cut into runs of n. -/
def runsOf {α : Type} (n : Nat) : Nat → List α → List (List α)
  | 0, _ => []
  | k + 1, l => if l.isEmpty then [] else l.take n :: runsOf n k (l.drop n)

/-- A whole gang, or one crew of no gang (R68). (DESIGN CHOICE: log 77) -/
def State.placeGang (s : State) (avail : List Nat) (n : Nat) (l : Launch) (is : List Item) : Option State :=
  match l.gang with
  | none => s.placeAll avail n l is
  | some g =>
    if !g.die then s.placeCluster avail (List.range 24) n l is
    else (bestOf (fun d => if g.part = 1 then s.placeAll ((upTo (24 * d) 24).filter avail.contains) n l is
        else s.placeParts avail (upTo (6 * d) 6) n l (runsOf g.part is.length is))
      (fun d => s.slotsIn (upTo (24 * d) 24)) (List.range 4)).map (·.2)

/-- The pre-empted crews of a launch that placement may resume: saved, or gated in place by a pre-emption that is complete
and holds them no longer. -/
def State.resumable (s : State) (n : Nat) : List (Nat × Crew) :=
  let free := fun (k : Nat) => s.preempts.all fun (_, p) => !p.crews.contains k || (p.gated && !p.hold)
  (s.crews.filter fun (k, c) => c.launch == n && c.gated && free k)
    ++ (s.savedCrews.filter fun (k, x) => x.crew.launch == n && free k).map fun (k, x) => (k, x.crew)

/-- The crew of least index. -/
def leastCrew : List (Nat × Crew) → Option (Nat × Crew)
  | [] => none
  | x :: r => match leastCrew r with
    | none => some x
    | some y => if y.2.idx < x.2.idx then some y else some x

/-- Crews gated in place run again where they are, when every one of them is, on cores that may be used (R227). -/
def State.wakeAllInPlace (s : State) (avail : List Nat) (compose : Option Nat) : List (Nat × Crew) → Option State
  | [] => some s
  | (k, c) :: r =>
    if !s.canWake k || !avail.contains c.core then none
    else match s.threadRoom c.core c.ctx with
      | none => none
      | some s1 => State.wakeAllInPlace ((s1.threadBack c.core c.core c ((s.crewGroups k).map groupSlot) compose).wakeCrew k) avail compose r

/-- Crews in ascending index. -/
def sortCrews (cs : List (Nat × Crew)) : List (Nat × Crew) :=
  (sortNat (cs.map (·.2.idx))).filterMap fun i => cs.find? (·.2.idx == i)

/-- A pre-empted gang resumes: in place, or taken out and placed anew (R227, R228). -/
def State.resumeGang (s : State) (avail : List Nat) (n : Nat) (l : Launch) (cs : List (Nat × Crew)) : Option State :=
  match s.wakeAllInPlace avail ((s.kernelOf l.ctx l.codeid l.kernel).bind (·.compose)) cs with
  | some s1 => some s1
  | none => (cs.foldl (fun s (k, _) => s.takeOut k) s).placeGang avail n l ((sortCrews cs).map fun (k, _) => .saved k)

/-- A RECIPESET holds the placement of new crews of a context (R166). -/
def State.recipeHeld (s : State) (ctx : Nat) : Bool :=
  s.pending.any fun p => fld (p.words.headD 0).toNat 7 0 == 3 && fld (p.words.headD 0).toNat 19 8 == ctx

/-- A launch has a new crew to place: no RECIPESET holds it, no launch accepted before it has its record still to be taken, and
the pages of its capability list are in the fast tier, with no refresh holding what is read of it (R16, R66, R166, R440).
(DEDUCED: log 106) -/
def State.hasNew (s : State) (n : Nat) (l : Launch) : Bool :=
  decide (l.next < l.crews) && !s.recipeHeld l.ctx && !s.earlierRecord n l && (s.capAway l).isEmpty && (s.capBank l).isNone

/-- The next crew or gang of a launch, placed on the cores available (R53, R68, R70). Of a launch with crews admitted before a
RECIPESET arrived the later ones are held (R166 steps 2 to 4). (DESIGN CHOICE: log 104) -/
def State.placeNext (s : State) (avail : List Nat) (n : Nat) (l : Launch) : Option State :=
  match leastCrew (s.resumable n) with
  | some (_, c) => s.resumeGang avail n l ((s.resumable n).filter fun (_, d) => s.sameGang c d)
  | none =>
    if s.hasNew n l then
      let size := match l.gang with
        | none => 1
        | some g => g.size
      s.placeGang avail n l ((upTo l.next size).map .fresh)
    else none

/-! ### The order of launches, reservations and victims (R68, R69, R221) -/

/-- A launch with a crew to place. -/
def State.hasWork (s : State) (n : Nat) (l : Launch) : Bool := l.status == 0 && (s.hasNew n l || !(s.resumable n).isEmpty)

/-- Launches with work, by class and then in order of acceptance. -/
def State.placeOrder (s : State) : List Nat :=
  [2, 1, 0].flatMap fun c => (s.launches.filter fun (n, l) => l.cls == c && s.hasWork n l).map (·.1)

/-- The launches in front of one. -/
def aheadOf (order : List Nat) (n : Nat) : List Nat := order.takeWhile (· != n)

/-- The cores that a launch may use: open ones that no launch in front of it has reserved. -/
def State.availFor (s : State) (ahead : List Nat) : List Nat :=
  (List.range 96).filter fun c => s.isOpen c && ahead.all fun m => match s.launch? m with
    | none => true
    | some l => !l.reserve.contains c

/-- The placement of a launch's next crew or gang, if there is one now. -/
def State.planOf (s : State) (order : List Nat) (n : Nat) : Option State :=
  match s.launch? n with
  | none => none
  | some l => s.placeNext (s.availFor (aheadOf order n)) n l

/-- The least unit with the most free slots. (DESIGN CHOICE: log 77) -/
def State.mostSlots (s : State) (units : List (List Nat)) : List Nat :=
  (units.foldl (fun (b : Option (Nat × List Nat)) u =>
    let m := s.slotsIn (u.filter s.isOpen)
    match b with
    | none => some (m, u)
    | some (k, v) => if k < m then some (m, u) else some (k, v)) none).elim [] (·.2)

/-- The cores that the head reserves (R68). (DESIGN CHOICE: log 77) -/
def State.reservation (s : State) (l : Launch) : List Nat :=
  match l.gang with
  | none => s.mostSlots (((List.range 96).filter s.isOpen).map fun c => [c])
  | some g => if g.die then s.mostSlots ((List.range 4).map fun d => upTo (24 * d) 24)
              else s.mostSlots ((List.range 24).map fun c => upTo (4 * c) 4)

/-- Contexts with running crews on cores, and when each one's latest crew there was admitted. -/
def State.holders (s : State) (cores : List Nat) : List (Nat × Nat) :=
  let on := s.crews.filter fun (_, c) => cores.contains c.core && !c.gated && !c.groups.isEmpty
  (sortNat (on.map (·.2.ctx))).map fun x => (x, (on.filter (·.2.ctx == x)).foldl (fun t (_, c) => max t c.admitted) 0)

/-- The highest class of a context's admitted launches. -/
def State.topClass (s : State) (ctx : Nat) : Nat :=
  (s.launches.filter fun (_, l) => l.ctx == ctx && decide (0 < l.next)).foldl (fun n (_, l) => max n l.cls) 0

/-- The victim for an urgent head (R221). -/
def State.victimFor (s : State) (cores : List Nat) : Option Nat :=
  let hs := s.holders cores
  let youngest := fun (l : List (Nat × Nat)) => (l.foldl (fun (b : Option (Nat × Nat)) x => match b with
    | none => some x
    | some y => if y.2 < x.2 then some x else some y) none).map (·.1)
  match youngest (hs.filter fun x => s.topClass x.1 == 0) with
  | some x => some x
  | none => youngest (hs.filter fun x => decide (s.topClass x.1 < 2))

/-- The head that cannot place takes its reservation, and an urgent one has a victim pre-empted (R68, R69, R221). -/
def State.headWaits (s : State) (n : Nat) (l : Launch) : Option State :=
  if l.reserve.isEmpty then
    let r := s.reservation l
    if r.isEmpty then none else some (s.modLaunch n fun x => { x with reserve := r })
  else if l.cls = 2 ∧ (s.preempts.all fun (_, p) => p.gated) then
    (s.victimFor l.reserve).map fun x => s.orderPreempt x l.reserve false []
  else none

/-- A launch whose crews are all admitted gives up its reservation. (DESIGN CHOICE: log 77) -/
def State.dropReserve (s : State) (n : Nat) : State :=
  s.modLaunch n fun l => if l.crews ≤ l.next then { l with reserve := [] } else l

/-- The head cannot place and has still to take its reservation: no later launch is placed before it has (R68). -/
def State.headOwes (s : State) (order : List Nat) : Bool :=
  match order with
  | [] => false
  | h :: _ => match s.planOf order h, s.launch? h with
    | none, some l => l.reserve.isEmpty && !(s.reservation l).isEmpty
    | _, _ => false

/-- Placement's decision on a launch: none when it is not its turn, or nothing can be done for it. No crew is placed while
the module is above 115 degrees or a recovery point is taken (R232, R442). -/
def State.admitted (s : State) (n : Nat) : Option State :=
  let order := s.placeOrder
  if !s.critical.isEmpty || s.taking.isSome || !order.contains n then none
  else
    let ahead := aheadOf order n
    if (!ahead.isEmpty && s.headOwes order) || ahead.any fun m => (s.planOf order m).isSome then none
    else match s.planOf order n, s.launch? n with
      | some s1, _ => some (s1.dropReserve n)
      | none, some l => if ahead.isEmpty then s.headWaits n l else none
      | none, none => none

/-- The pages that the admission of a launch's next crew waits for, to read its capability list (R16, R71). (DEDUCED: log 107) -/
def State.admissionAway (s : State) (n : Nat) : List Nat :=
  match s.launch? n with
  | none => []
  | some l => if l.status == 0 && decide (l.next < l.crews) then s.capAway l else []

/-- CREW_ADMIT (R16, R67, R68, R71, R228). -/
def execCrewAdmit (launch : Nat) (s : State) : Out :=
  match s.admitted launch with
  | none => s.wantPages (s.admissionAway launch)
  | some s1 => .next s1

end Sys2Proof.Machine
end

