-- ==== Sys2Proof/Machine/Mailbox.lean ====
section
/-! DEFINITION. The mailbox: its queue (R434), the checks that every command passes (R435, R436, R469), commands that wait
for device activity (R434), and the commands whose effect is one step of their own: recipe images (R166), capabilities
minted (R469), OTINV (R191), WDTSET (R219), CODEKEY (R402), PREEMPT (R221), frame pools, the event ring (R466), islands
(R441), the Rail's tables (R438), identity and attestation (R443, R444), trace buffers and sampling (R421, R426). -/
namespace Sys2Proof.Machine

/-! ### The queue (R434) -/

/-- A command was begun and its result is still to come: it stands in front of the queue, and the next one waits for it (R434).
(DEDUCED: log 31) -/
def State.mailBusy (s : State) : Bool :=
  !s.pending.isEmpty || (s.ctxs.any fun (_, c) => c.objs.any fun o => o.unload.isSome) || (s.preempts.any fun (_, p) => !p.results.isEmpty)
    || s.taking.any fun rs => !rs.isEmpty

/-- The commands that the stationmaster holds: those queued, and the one begun. (DEDUCED: log 31) -/
def State.mailCount (s : State) : Nat := s.mbox.length + if s.mailBusy then 1 else 0

/-- Bytes 0x4000 to 0x403F of BAR0 are the command window. -/
def meetsWindow (offset n : Nat) : Bool := decide (offset < 0x4040 ∧ 0x4000 < offset + n)

/-- MAILBOX_COMMAND_WRITE (R434); before READY the write is discarded (R445). (DEDUCED: log 31) -/
def execMailboxCommandWrite (offset : Nat) (bytes : List Byte) (s : State) : Out :=
  if !meetsWindow offset bytes.length then .refused .notDue
  else if !s.ready then .next s
  else if offset ≠ 0x4000 ∨ bytes.length ≠ 64 then .next { s with mbPart := true }
  else if 64 ≤ s.mailCount then .next { s with mbDrop := true }
  else .next { s with mbox := s.mbox ++ [wordsOf bytes 8] }

/-- MAILBOX_STATUS_WRITE (R434): zero clears both bits. -/
def execMailboxStatusWrite (value : DWord) (s : State) : Out :=
  if value = 0 ∧ s.ready then .next { s with mbDrop := false, mbPart := false } else .next s

/-- The mailbox status word as the host reads it. (DESIGN CHOICE: log 83) -/
def State.mailStatus (s : State) : Nat := (if s.mbDrop then 1 else 0) + (if s.mbPart then 2 else 0)

/-! ### Fields and checks of a command (R434, R435, R469) -/

/-- Word i of a command. -/
def cmdWord (ws : List DWord) (i : Nat) : Nat := ((ws[i]?).getD 0).toNat
def cmdOp (ws : List DWord) : Nat := fld (cmdWord ws 0) 7 0
def cmdCtx (ws : List DWord) : Nat := fld (cmdWord ws 0) 19 8
def cmdTag (ws : List DWord) : Nat := fld (cmdWord ws 0) 63 32
def cmdPaddr (ws : List DWord) : Nat := cmdWord ws 1
def cmdPlen (ws : List DWord) : Nat := fld (cmdWord ws 2) 31 0
def cmdRaddr (ws : List DWord) : Nat := cmdWord ws 3

/-- What a command names and takes: a created context, no context, or a context not checked here; a payload or none; and
the bits of words 4 to 7 that it defines. -/
inductive Names where
  | created | nothing | any
  deriving DecidableEq, Repr

structure Form where
  names   : Names
  payload : Bool
  w4      : Nat
  w5      : Nat
  w6      : Nat
  w7      : Nat
  deriving DecidableEq, Repr

/-- Bits hi to lo set. -/
def ones (hi lo : Nat) : Nat := 2 ^ (hi + 1) - 2 ^ lo
def all64 : Nat := ones 63 0
def low32 : Nat := ones 31 0

/-- A field holds no bit outside a mask. -/
def within (v mask : Nat) : Bool := v &&& mask == v

/-- A reserved bit of the command is set, or a field it must leave zero is not. -/
def Form.reserved (f : Form) (ws : List DWord) : Bool :=
  fld (cmdWord ws 0) 31 20 != 0 || fld (cmdWord ws 2) 63 32 != 0
  || (!f.payload && (cmdPaddr ws != 0 || cmdPlen ws != 0)) || (decide (f.names = .nothing) && cmdCtx ws != 0)
  || !(within (cmdWord ws 4) f.w4 && within (cmdWord ws 5) f.w5 && within (cmdWord ws 6) f.w6 && within (cmdWord ws 7) f.w7)

/-- The result of a command. -/
def State.answer (s : State) (ws : List DWord) (status : Nat) (r : List DWord) : State :=
  s.mailResult (cmdRaddr ws) (cmdTag ws) status r

/-- The payload of a command in host memory. -/
def State.payload (s : State) (ws : List DWord) : List Byte := mgets s.mem (hostBase + cmdPaddr ws) (cmdPlen ws)

/-- The oldest queued command, if it has this OP and none is begun. (DEDUCED: log 31) -/
def State.headIs (s : State) (op : Nat) : Option (List DWord) :=
  match s.mbox with
  | [] => none
  | ws :: _ => if cmdOp ws = op ∧ !s.mailBusy then some ws else none

/-- The command leaves the queue. -/
def State.popMail (s : State) : State := { s with mbox := s.mbox.tail }

/-- A command that fails no check of its form is carried out; else its result says why (R435, R436). (DEDUCED: log 26) -/
def State.checked (s : State) (f : Form) (ws : List DWord) (body : State → State) : State :=
  if f.reserved ws then s.answer ws 1 []
  else if f.names = .created ∧ (s.ctx? (cmdCtx ws)).isNone then s.answer ws 32 []
  else body s

/-- A command of one step: the oldest queued command, carried out whole. -/
def command (op : Nat) (f : Form) (s : State) (body : List DWord → State → State) : Out :=
  match s.headIs op with
  | none => .refused .notDue
  | some ws => .next (s.popMail.checked f ws (body ws))

/-- A command of one step that reads a table entry or memory waits at the head of the queue while a refresh holds what it reads
(R440). -/
def bankCommand (op : Nat) (i : HeldStep) (s : State) (bank : List DWord → Option (Nat × Nat)) (go : Out) : Out :=
  match (s.headIs op).bind bank with
  | some b => s.holdStep b i
  | none => go

/-- A command waits for device activity (R434). (DEDUCED: log 31) -/
def State.waitMail (s : State) (ws : List DWord) (data : List Byte) (ids : List Nat) : State :=
  { s with pending := s.pending ++ [⟨ws, data, ids⟩] }

/-- The first waiting command with this OP that passes a test. -/
def State.waiting (s : State) (op : Nat) (f : PendCmd → Bool) : Option PendCmd :=
  s.pending.find? fun p => cmdOp p.words == op && f p

/-- A waiting command no longer waits. -/
def State.dropWait (s : State) (p : PendCmd) : State := { s with pending := s.pending.erase p }

/-- A queued command with a reserved OP ends with RSVD (R435). -/
def State.badCommand (s : State) : Out :=
  match s.mbox with
  | [] => .refused .notDue
  | ws :: _ => if s.mailBusy then .refused .notDue else .next (s.popMail.answer ws 1 [])

/-! ### Recipe images (R166) -/

/-- RECIPESET (R166 steps 1 and 2): the image is validated, and placement of the context is held while the command waits. -/
def execRecipeset (s : State) : Out :=
  command 0x03 ⟨.created, true, 0, 0, 0, 0⟩ s fun ws s =>
    let img := s.payload ws
    if imageLegal img then s.waitMail ws img [] else s.answer ws 1 []

/-- A RECIPESET whose context has no admitted crew. (DESIGN CHOICE: log 104) -/
def State.recipeDue (s : State) (ctx : Nat) : Option PendCmd :=
  if (s.crews.any fun (_, c) => c.ctx == ctx) || s.savedCrews.any fun (_, x) => x.crew.ctx == ctx then none
  else s.waiting 0x03 fun p => cmdCtx p.words == ctx

/-- RECIPE_IMAGE_WRITE (R166 steps 3 and 4). -/
def execRecipeImageWrite (ctx : Nat) (s : State) : Out :=
  match s.recipeDue ctx with
  | none => .refused .notDue
  | some p => .next (((s.dropWait p).modCtx ctx fun c => { c with recipe := p.data }).answer p.words 0 [])

/-! ### Capabilities minted (R469) -/

/-- The object of a CAPMINT. -/
def State.mintEntry (s : State) (ws : List DWord) : Option Entry :=
  match s.ctx? (cmdCtx ws) with
  | none => none
  | some c => match entryAt s.mem c (cmdWord ws 4) with
    | none => none
    | some e => if e.valid && (e.kind == 1 || e.kind == 2) then some e else none

/-- Where the granule at an offset is, whatever CEIL and PDENY hold; for a page elsewhere, its page map entry. -/
def mintPlace (m : List Host.Cell) (e : Entry) (off : Nat) : Place :=
  if e.kind = 1 ∧ pmeBad (mnat m (e.pmeAt off) 8) then .denied [7] else placeOf m e off

/-- The bank under a hold that a granule's page map entry or bytes are in (R440). -/
def State.mintBank (s : State) (e : Entry) (off : Nat) : Option (Nat × Nat) :=
  (if pagedKind e.kind then s.rangeBank (e.pmeAt off) 8 else none) <|> match mintPlace s.mem e off with
  | .at_ f => s.rangeBank f 16
  | .denied _ | .elsewhere _ | .window _ | .noFrame _ => none

/-- The values of a CAPMINT written from granule i on, until a page is elsewhere or a refresh holds its bank: the granules written so
far (R440). (DEDUCED: log 81) -/
def State.mint (s : State) (e : Entry) (off : Nat) : Nat → List Byte → Nat → State × Nat
  | i, _, 0 => (s, i)
  | i, bs, n + 1 => match s.mintBank e (off + 16 * i), mintPlace s.mem e (off + 16 * i) with
    | some b, _ => (s.joinBank b (.step .capmint), i)
    | none, .at_ f => State.mint (s.memWriteTagged f (bs.take 16) true) e off (i + 1) (bs.drop 16) n
    | none, .elsewhere p => (s.wantPage p, i)
    | none, .denied _ | none, .window _ | none, .noFrame _ => State.mint s e off (i + 1) (bs.drop 16) n

/-- The granules of a CAPMINT from i on; with the last the result follows. -/
def State.mintFrom (s : State) (ws : List DWord) (bs : List Byte) (i : Nat) : State :=
  match s.mintEntry ws with
  | none => s.answer ws 34 []
  | some e =>
    let n := cmdPlen ws / 16
    let (s1, k) := s.mint e (cmdWord ws 5) i (bs.drop (16 * i)) (n - i)
    if n ≤ k then s1.answer ws 0 [] else s1.waitMail ws bs [k]

/-- A CAPMINT whose next granule can be written again, or whose page can be asked for now. -/
def State.mintDue (s : State) : Option PendCmd :=
  s.waiting 0x04 fun p => match s.mintEntry p.words with
    | none => true
    | some e =>
      let off := cmdWord p.words 5 + 16 * p.ids.headD 0
      !s.inBank (.step .capmint) && (s.mintBank e off).isNone && match mintPlace s.mem e off with
      | .elsewhere p => s.canWant p
      | .at_ _ | .denied _ | .window _ | .noFrame _ => true

/-- CAPMINT (R469): begun, or gone on with after a page has migrated. (DEDUCED: log 81) -/
def execCapmint (s : State) : Out :=
  match s.mintDue with
  | some p => .next ((s.dropWait p).mintFrom p.words p.data (p.ids.headD 0))
  | none => bankCommand 0x04 .capmint s (fun ws => s.entryBank (cmdCtx ws) (cmdWord ws 4)) <|
      command 0x04 ⟨.created, true, low32, ones 39 0, 0, 0⟩ s fun ws s =>
      let off := cmdWord ws 5
      let n := cmdPlen ws
      if off % 16 ≠ 0 ∨ n % 16 ≠ 0 ∨ n < 16 ∨ 65536 < n then s.answer ws 1 []
      else match s.mintEntry ws with
        | none => s.answer ws 34 []
        | some e =>
          if e.olen < off + n then s.answer ws 1 []
          else if (List.range (n / 16)).any fun i => match mintPlace s.mem e (off + 16 * i) with
            | .denied _ | .noFrame _ | .window _ => true
            | .at_ _ | .elsewhere _ => false then s.answer ws 1 []
          else s.mintFrom ws (s.payload ws) 0

/-! ### OTINV (R191) and WDTSET (R219) -/

/-- An access that a port has admitted and that has not performed. -/
def Access.admitted (a : Access) : Bool :=
  match a.stage with
  | .toHome | .bank _ _ => true
  | .toPort | .parked _ | .overflow _ | .forHead | .answered | .replay => false

/-- The entries of crews' write buffers, on a core or saved. -/
def State.buffered (s : State) : List DEntry :=
  (s.crews.flatMap fun (_, c) => c.dbuf) ++ s.savedCrews.flatMap fun (_, x) => x.crew.dbuf

/-- What a port admitted for handles and has not performed: accesses, stores of threads, and writes that a crew's buffer holds, by
the word that made them (R156, R327). -/
def State.admittedFor (s : State) (hit : Nat → Nat → Bool) : List Nat :=
  (s.accs.filter fun x => hit x.2.ctx x.2.handle && x.2.admitted).map (·.1)
  ++ (s.posted.filter fun x => hit x.2.ctx x.2.handle).map (·.1)
  ++ (s.buffered.filter fun e => hit e.ctx e.handle).map (·.seq)

/-- OTINV (R191): every port drops its copies, and the command waits for what was admitted under them. -/
def execOtinv (s : State) : Out :=
  command 0x05 ⟨.created, false, low32, low32, 0, 0⟩ s fun ws s =>
    let h := cmdWord ws 4
    let n := cmdWord ws 5
    let ctx := cmdCtx ws
    if n < 1 ∨ 2 ^ 24 < n then s.answer ws 1 []
    else match s.ctx? ctx with
      | none => s.answer ws 32 []
      | some c =>
        if c.otn < h + n then s.answer ws 34 []
        else
          let hit := fun (x y : Nat) => x == ctx && decide (h ≤ y ∧ y < h + n)
          ({ s with otCache := s.otCache.filter fun x => !hit x.ctx x.handle }).waitMail ws [] (s.admittedFor hit)

/-- An OTINV whose old accesses have performed. -/
def State.otinvDue (s : State) : Option PendCmd :=
  s.waiting 0x05 fun p => p.ids.all fun n => (match tget s.accs n with
    | none => true
    | some a => !a.admitted) && (tget s.posted n).isNone && !s.isBuffered n

/-- A context's lines leave every core's read cache. -/
def State.dropContext (s : State) (ctx : Nat) : State := { s with rcache := s.rcache.filter (·.ctx != ctx) }

/-- OTINV_COMPLETE (R191): bytes that cores cached under the old entries serve no later read (R93). -/
def execOtinvComplete (s : State) : Out :=
  match s.otinvDue with
  | none => .refused .notDue
  | some p => .next (((s.dropWait p).dropContext (cmdCtx p.words)).answer p.words 0 [])

/-- WDTSET (R219, R469). -/
def execWdtset (s : State) : Out :=
  command 0x06 ⟨.created, false, ones 47 0, 0, 0, 0⟩ s fun ws s =>
    let n := cmdWord ws 4
    (s.modCtx (cmdCtx ws) fun c => { c with wdt := if n = 0 then 2 ^ 30 else n }).answer ws 0 []

/-! ### CODEKEY (R402) -/

/-- Big-endian points of 96 bytes. -/
def keyPoints (bs : List Byte) : Nat → List (Nat × Nat)
  | 0 => []
  | n + 1 => (beNat (bs.take 48), beNat ((bs.drop 48).take 48)) :: keyPoints (bs.drop 96) n

/-- CODEKEY (R402, R469). -/
def execCodekey (s : State) : Out :=
  command 0x12 ⟨.created, true, 1, 0, 0, 0⟩ s fun ws s =>
    let n := cmdPlen ws
    let ks := keyPoints (s.payload ws) (n / 96)
    if n % 96 ≠ 0 ∨ 768 < n ∨ !ks.all onCurve then s.answer ws 1 []
    else (s.modCtx (cmdCtx ws) fun c => { c with keys := ks, reqSig := cmdWord ws 4 == 1 }).answer ws 0 []

/-! ### PREEMPT (R221) and islands (R441) -/

/-- The cores that two mask words name. -/
def coreMask (lo hi : Nat) : List Nat := (List.range 96).filter fun c => if c < 64 then lo.testBit c else hi.testBit (c - 64)

/-- PREEMPT (R221): its result follows at gating. -/
def execPreempt (s : State) : Out :=
  command 0x20 ⟨.created, false, all64, low32, 0, 0⟩ s fun ws s =>
    s.orderPreempt (cmdCtx ws) (coreMask (cmdWord ws 4) (cmdWord ws 5)) false [(cmdRaddr ws, cmdTag ws)]

/-- Every context with a crew or thread on cores is pre-empted there. -/
def State.preemptAll (s : State) (cores : List Nat) (hold : Bool) : State :=
  (s.ctxs.filter fun (n, _) => (s.crews.any fun (_, c) => c.ctx == n && cores.contains c.core && !c.groups.isEmpty)
      || s.threads.any fun (t, th) => th.ctx == n && cores.contains (threadCore t)).foldl
    (fun s (n, _) => s.orderPreempt n cores hold []) s

/-- The pre-emptions that are still to gate. -/
def State.gatingOrders (s : State) : List Nat := (s.preempts.filter fun (_, p) => !p.gated).map (·.1)

/-- Every pre-emption of a list has gated or is over. -/
def State.allGated (s : State) (ids : List Nat) : Bool :=
  ids.all fun n => match tget s.preempts n with
    | none => true
    | some p => p.gated

/-- An ISLAND command to OFF whose crews are gated. (DEDUCED: log 35) -/
def State.islandDue (s : State) : Option PendCmd := s.waiting 0x26 fun p => s.allGated p.ids

/-- ISLAND (R441): for OFF no crew is admitted from now on, and the result follows once every crew there is gated. (DEDUCED: log 35) -/
def execIsland (s : State) : Out :=
  match s.islandDue with
  | some p => .next ((s.dropWait p).answer p.words 0 [])
  | none => command 0x26 ⟨.nothing, false, ones 4 0, ones 1 0, 0, 0⟩ s fun ws s =>
      let n := cmdWord ws 4
      let st := cmdWord ws 5
      if 24 ≤ n then s.answer ws 1 []
      else
        let s1 := { s with islands := s.islands.set n st }
        if st = 3 then
          let s2 := s1.preemptAll (upTo (4 * n) 4) false
          s2.waitMail ws [] s2.gatingOrders
        else s1.answer ws 0 []

/-! ### Frames, the ring, the Rail (R438, R466, R469) -/

/-- FRAMEPOOL (R216, R232, R469). (DEDUCED: log 29, 81) -/
def execFramepool (s : State) : Out :=
  command 0x24 ⟨.nothing, true, 1, 0, 0, 0⟩ s fun ws s =>
    let n := cmdPlen ws
    let fs := (wordsOf (s.payload ws) (n / 8)).map BitVec.toNat
    let limit := if cmdWord ws 4 = 0 then fastFrames else capFrames
    if n % 8 ≠ 0 ∨ fs.any fun f => decide (limit ≤ f) then s.answer ws 1 []
    else if cmdWord ws 4 = 0 then
      -- the frames hold other bytes from now on (R93)
      (fs.foldl (fun (s : State) (f : Nat) => s.dropRange (65536 * f) 65536)
        { s with fastFree := s.fastFree ++ fs, supplied := s.supplied ++ fs }).answer ws 0 []
    else { s with recFree := s.recFree ++ fs }.answer ws 0 []

/-- A power of two from 16 to 65,536. -/
def ringSize (n : Nat) : Bool := (upTo 4 13).any fun k => n == 2 ^ k

/-- EVRING (R466): both counts start from 0. (DEDUCED: log 34) -/
def execEvring (s : State) : Out :=
  command 0x25 ⟨.nothing, false, all64, low32, all64, 0⟩ s fun ws s =>
    let rb := cmdWord ws 4
    let n := cmdWord ws 5
    let cb := cmdWord ws 6
    if rb % 64 ≠ 0 ∨ cb % 16 ≠ 0 ∨ !ringSize n then s.answer ws 1 []
    else ({ s with ring := some ⟨rb, n, cb, 0, 0⟩ }.memWrite (hostBase + cb + 8) (leBytes 0 8)).answer ws 0 []

/-- A route entry holds no reserved bit. -/
def routeOk (w : Nat) : Bool := within w (ones 7 0 + ones 27 16)

/-- Import entries from their words. -/
def importsOf : List DWord → List (Nat × Nat × Nat × Nat)
  | a :: b :: r => (fld a.toNat 7 0, fld a.toNat 63 32, fld b.toNat 11 0, fld b.toNat 63 32) :: importsOf r
  | [_] | [] => []

/-- Import entries hold no reserved bit. -/
def importsOk : List DWord → Bool
  | a :: b :: r => within a.toNat (ones 7 0 + ones 63 32) && within b.toNat (ones 11 0 + ones 63 32) && importsOk r
  | [_] => false
  | [] => true

/-- RAILMAP (R438, R469): the payload replaces the whole table. -/
def execRailmap (s : State) : Out :=
  command 0x27 ⟨.nothing, true, 1, 0, 0, 0⟩ s fun ws s =>
    let n := cmdPlen ws
    let xs := wordsOf (s.payload ws) (n / 8)
    if cmdWord ws 4 = 0 then
      if n % 8 ≠ 0 ∨ !(xs.all fun w => routeOk w.toNat) then s.answer ws 1 []
      else { s with routes := xs.foldl (fun (t : Tab Nat) (w : DWord) => tset t (fld w.toNat 7 0) (fld w.toNat 27 16)) [] }.answer ws 0 []
    else if n % 16 ≠ 0 ∨ !importsOk xs then s.answer ws 1 []
    else { s with imports := importsOf xs }.answer ws 0 []

/-! ### Identity and attestation (R443, R444) -/

/-- The part number, in ASCII, its first character in the lowest byte. (DEDUCED: log 33) -/
def partNumber : DWord := dw (leNat ([0x41, 0x57, 0x4B, 0x4D, 0x31, 0x37, 0x36, 0x38] : List Byte))

/-- The identity block's words 0 to 2. (DESIGN CHOICE: log 83) -/
def identityWords : List DWord :=
  [partNumber, dw (deviceRev * 2 ^ 32 + Config.firmwareVersion.toNat), Config.serial]

/-- IDENT (R443). -/
def execIdent (s : State) : Out :=
  command 0x28 ⟨.nothing, false, 0, 0, 0, 0⟩ s fun ws s => s.answer ws 0 identityWords

/-- Bytes 0 to 223 of an attestation: what the signature covers. -/
def attestMessage (nonce : List DWord) : List Byte :=
  beBytes Config.bootHash.toNat 48 ++ beBytes Config.firmwareHash.toNat 48 ++ beBytes Config.fuseHash.toNat 48
    ++ leBytes deviceRev 4 ++ List.replicate 44 0 ++ bytesOf nonce

/-- The device identity key's signature of a hash, as r and s of 384 bits each (R26, R444). (DESIGN CHOICE: log 18) -/
def attestSign (h : BitVec 384) : Nat := ecdsaSign Config.identityKey (Config.signNonce h) h.toNat

/-- An attestation: the measurements with a nonce, signed (R444). -/
def attestation (nonce : List DWord) : List Byte :=
  let m := attestMessage nonce
  m ++ beBytes (attestSign (sha384Num m)) 96

/-- What the device's DOE mailbox for SPDM returns to the host as its measurements: an access from outside that changes nothing in
the device (R431, R444). The manual leaves the form of SPDM's messages to that protocol; the model's answer is the attestation of
ATTEST. (DESIGN CHOICE: log 97) -/
def doeMeasurements (nonce : List DWord) : List Byte := attestation nonce

/-- ATTEST (R444, R469). -/
def execAttest (s : State) : Out :=
  command 0x29 ⟨.nothing, true, all64, all64, all64, all64⟩ s fun ws s =>
    if cmdPlen ws < 320 then s.answer ws 1 []
    else (s.memWrite (hostBase + cmdPaddr ws) (attestation ((ws.drop 4).take 4))).answer ws 0 []

/-! ### Trace buffers and sampling (R421, R426) -/

/-- A segment header's words as TRACEBUF writes them. -/
def headerWords : List DWord := [64, 64, 0, 0, 0, 0, 0, 0]

/-- The header of a core's segment; a core whose segment lies outside the object has no ring. -/
def State.writeHeader (s : State) (b : TraceBuf) (ctx olen core : Nat) : State :=
  if olen < (core + 1) * b.seg then s.setRing b core { s.ringOf b core with denied := true }
  else s.ringWrite b ctx core ((List.range 8).map fun i => 8 * i) headerWords

/-- A TRACEBUF whose headers are all written. -/
def State.tracebufDue (s : State) : Option PendCmd :=
  s.waiting 0x38 fun p => s.cmds.all fun (_, c) => !(c.system && c.fn == 6 && p.ids.contains c.gid)

/-- TRACEBUF (R421, R469): the headers, and the result once they are written. -/
def execTracebuf (s : State) : Out :=
  match s.tracebufDue with
  | some p => .next ((s.dropWait p).answer p.words 0 [])
  | none => bankCommand 0x38 .tracebuf s (fun ws => s.entryBank (cmdCtx ws) (cmdWord ws 4)) <|
      command 0x38 ⟨.created, false, low32, ones 32 0, 0, 0⟩ s fun ws s =>
      let l := cmdWord ws 5
      let ctx := cmdCtx ws
      if l % 4096 ≠ 0 ∨ l < 4096 ∨ 2 ^ 32 < l then s.answer ws 1 []
      else match s.mintEntry ws with
        | none => s.answer ws 34 []
        | some e =>
          let b : TraceBuf := ⟨s.nextId, cmdWord ws 4, e.kind, l⟩
          let s1 := { s with nextId := s.nextId + 1 }.modCtx ctx fun c => { c with trace := some b }
          ((List.range 96).foldl (fun s core => s.writeHeader b ctx e.olen core) s1).waitMail ws [] [b.serial]

/-- PROFCFG (R426, R469). -/
def execProfcfg (s : State) : Out :=
  command 0x39 ⟨.created, false, ones 24 0, 0, 0, 0⟩ s fun ws s =>
    let p := cmdWord ws 4
    if 2 ^ 24 < p then s.answer ws 1 [] else (s.modCtx (cmdCtx ws) fun c => { c with prof := p }).answer ws 0 []

end Sys2Proof.Machine
end

