-- ==== Sys2Proof/Machine/Loader.lean ====
section
/-! DEFINITION. Fydric code objects and the loader: the file (R401 to R413), the order of its checks (R414), sharing (R195,
R416), placement in the arena with the page rights (R404, R415), CODELOAD (R461), CODEUNLOAD and CODE_UNMAP (R419). -/
namespace Sys2Proof.Machine

/-! ### Failures (R414) -/

/-- A failed check: status, section, record, and the value or field. -/
structure LoadErr where
  status : Nat
  sec    : Nat
  record : Nat
  val    : Nat
  deriving DecidableEq, Repr

/-- A check. -/
def need (b : Bool) (status sec record val : Nat) : Except LoadErr Unit :=
  if b then .ok () else .error ⟨status, sec, record, val⟩

/-- Checks in order; the first failure stands. -/
def needAll {α : Type} (f : α → Except LoadErr Unit) : List α → Except LoadErr Unit
  | [] => .ok ()
  | x :: r => match f x with
    | .error e => .error e
    | .ok _ => needAll f r

/-- A little-endian number of n bytes at an offset. -/
def numAt (bs : List Byte) (off n : Nat) : Nat := leNat ((bs.drop off).take n)
def wordAt (bs : List Byte) (off : Nat) : Nat := numAt bs off 8

/-- Bytes [off, off + n). -/
def slice (bs : List Byte) (off n : Nat) : List Byte := (bs.drop off).take n

/-! ### Header and sections (R401, R403) -/

def noIndex : Nat := 0xFFFFFFFF

/-- Header word i. -/
def hdr (f : List Byte) (i : Nat) : Nat := wordAt f (8 * i)
def hdrNsec (f : List Byte) : Nat := fld (hdr f 1) 15 0
def hdrNkern (f : List Byte) : Nat := fld (hdr f 1) 31 16
def hdrRev (f : List Byte) : Nat := fld (hdr f 0) 47 40
def hdrSigned (f : List Byte) : Bool := fld (hdr f 0) 48 48 == 1

/-- A section table entry with its index. -/
structure Sec where
  idx  : Nat
  w0   : Nat
  foff : Nat
  size : Nat
  w3   : Nat
  deriving DecidableEq, Repr

def Sec.type (x : Sec) : Nat := fld x.w0 15 0
def Sec.alloc (x : Sec) : Bool := fld x.w0 18 18 == 1
def Sec.mayIgn (x : Sec) : Bool := fld x.w0 17 17 == 1
def Sec.link (x : Sec) : Nat := fld x.w0 63 32
/-- AOFF, or the count of SYMS and the portable levels. -/
def Sec.aoff (x : Sec) : Nat := fld x.w3 63 32
def Sec.alog (x : Sec) : Nat := fld x.w3 5 0

/-- The table's entries. -/
def sections (f : List Byte) : List Sec :=
  (List.range (hdrNsec f)).map fun i =>
    let a := fld (hdr f 1) 63 32 + 32 * i
    ⟨i, wordAt f a, wordAt f (a + 8), wordAt f (a + 16), wordAt f (a + 24)⟩

/-- Known types, with the ALLOC bit each must have. -/
def typeAlloc (t : Nat) : Option Bool :=
  match t with
  | 1 | 3 | 4 | 5 | 6 | 7 => some true
  | 2 | 8 | 9 | 10 | 16 | 17 | 18 => some false
  | _ => none

def portable (t : Nat) : Bool := decide (16 ≤ t ∧ t ≤ 18)

/-- A section's contents. -/
def Sec.body (x : Sec) (f : List Byte) : List Byte := slice f x.foff x.size

/-- The one section of a type. -/
def secOf (ss : List Sec) (t : Nat) : Option Sec := ss.find? fun x => x.type == t
def bodyOf (f : List Byte) (ss : List Sec) (t : Nat) : List Byte :=
  match secOf ss t with
  | none => []
  | some x => x.body f

/-- The header's rules, each with the field that breaks it. (DEDUCED: log 27) -/
def headerCheck (f : List Byte) : Except LoadErr Unit := do
  need (decide (256 ≤ f.length)) 1 0 0 f.length
  need (fld (hdr f 0) 31 0 == 0x31445946) 1 0 0 (fld (hdr f 0) 31 0)
  need (fld (hdr f 0) 39 32 == 1) 1 0 0 (fld (hdr f 0) 39 32)
  need (hdr f 2 == f.length) 1 0 0 (hdr f 2)
  need (decide (1 ≤ hdrNsec f ∧ hdrNsec f ≤ 4096)) 1 0 0 (hdrNsec f)
  need (decide (hdrNkern f ≤ 256)) 1 0 0 (hdrNkern f)
  need (decide (fld (hdr f 1) 63 32 % 8 = 0 ∧ fld (hdr f 1) 63 32 + 32 * hdrNsec f ≤ f.length)) 1 0 0 (fld (hdr f 1) 63 32)
  need (hdr f 3 % 4096 == 0) 1 0 0 (hdr f 3)
  need (fld (hdr f 0) 63 49 == 0) 1 0 0 (fld (hdr f 0) 63 49)
  needAll (fun i => need (hdr f i == 0) 1 0 0 (hdr f i)) (upTo 22 10)

/-- The rules of one entry, each with the field that breaks it. (DEDUCED: log 27) -/
def entryCheck (f : List Byte) (x : Sec) : Except LoadErr Unit := do
  need (fld x.w0 31 19 == 0) 1 x.idx 0 (fld x.w0 31 19)
  need (fld x.w0 16 16 == 0) 1 x.idx 0 (fld x.w0 16 16)
  need (x.link == noIndex || decide (x.link < hdrNsec f)) 1 x.idx 0 x.link
  need (match typeAlloc x.type with
    | some a => a == x.alloc
    | none => true) 1 x.idx 0 (fld x.w0 18 18)
  need (fld x.w3 31 6 == 0) 1 x.idx 0 (fld x.w3 31 6)
  need (decide (2 ≤ x.alog ∧ x.alog ≤ 12)) 1 x.idx 0 x.alog
  need (if x.alloc then x.aoff % 2 ^ x.alog == 0 else x.aoff == 0 || x.type == 10 || portable x.type) 1 x.idx 0 x.aoff
  need (x.foff % 2 ^ x.alog == 0) 1 x.idx 0 x.foff
  need (decide (x.foff + x.size ≤ f.length)) 1 x.idx 0 x.size

/-- Two ranges share a byte. -/
def meet (a n b m : Nat) : Bool := decide (0 < n ∧ 0 < m ∧ a < b + m ∧ b < a + n)

/-- No entry overlaps an earlier one, in the file or in the image, or repeats a type that may stand once. -/
def pairCheck : List Sec → List Sec → Except LoadErr Unit
  | _, [] => .ok ()
  | seen, x :: r => do
    need (seen.all fun y => !meet x.foff x.size y.foff y.size) 1 x.idx 0 x.foff
    need (seen.all fun y => !(x.alloc && y.alloc && meet x.aoff x.size y.aoff y.size)) 1 x.idx 0 x.aoff
    need (!([2, 4, 7, 8, 10].contains x.type && seen.any fun y => y.type == x.type)) 1 x.idx 0 x.type
    pairCheck (x :: seen) r

/-! ### Notes, symbols, portable levels (R409, R410, R420) -/

/-- The headers of a NOTE section from a position on; none where the layout is broken. -/
def noteHeaders (b : List Byte) : Nat → Nat → Option (List Nat)
  | 0, p => if p = b.length then some [] else none
  | n + 1, p =>
    if p = b.length then some []
    else
      let h := wordAt b p
      let k := fld h 63 32
      let stop := p + 8 + (4 * k + 7) / 8 * 8
      if b.length < p + 8 ∨ fld h 31 17 ≠ 0 ∨ b.length < stop ∨ (slice b (p + 8 + 4 * k) (stop - (p + 8 + 4 * k))).any (· != 0) then none
      else (noteHeaders b n stop).map (h :: ·)

/-- The first header from a position on whose note breaks the layout. -/
def noteBad (b : List Byte) : Nat → Nat → Nat
  | 0, p => wordAt b p
  | n + 1, p =>
    let h := wordAt b p
    let k := fld h 63 32
    let stop := p + 8 + (4 * k + 7) / 8 * 8
    if b.length < p + 8 ∨ fld h 31 17 ≠ 0 ∨ b.length < stop ∨ (slice b (p + 8 + 4 * k) (stop - (p + 8 + 4 * k))).any (· != 0) then h
    else noteBad b n stop

/-- The records of SYMS: words 0 and 1. -/
def symRecords (b : List Byte) (n : Nat) : List (Nat × Nat) := (List.range n).map fun i => (wordAt b (16 * i), wordAt b (16 * i + 8))

/-- The name of a record. -/
def symName (b : List Byte) (n w1 : Nat) : List Byte := slice b (16 * n + fld w1 31 0) (fld w1 63 32)

/-- The layout inside a section that FORMAT covers. -/
def contentCheck (f : List Byte) (x : Sec) : Except LoadErr Unit :=
  let b := x.body f
  if x.type = 9 then need (noteHeaders b b.length 0).isSome 1 x.idx 0 (noteBad b b.length 0)
  else if x.type = 10 then do
    need (decide (16 * x.aoff ≤ x.size)) 1 x.idx 0 x.aoff
    needAll (fun (r, i) => need (decide (16 * x.aoff + fld r.2 31 0 + fld r.2 63 32 ≤ x.size)) 1 x.idx i r.2) (symRecords b x.aoff).zipIdx
  else if portable x.type then do
    need (decide (16 * x.aoff ≤ x.size)) 1 x.idx 0 x.aoff
    needAll (fun (r, i) => need (decide (r.2 < x.size)) 1 x.idx i r.2) (symRecords b x.aoff).zipIdx
  else .ok ()

/-! ### Hash and signature (R402) -/

/-- The content hash of a file. -/
def contentHash (f : List Byte) : List Byte := sha384 (f.take 32 ++ List.replicate 144 0 ++ f.drop 176)

/-- HASH, and the signature where the context requires one: the first word of HASH or of SIG, or a SIGNED of 0, breaks them. (DEDUCED: log 27) -/
def sealCheck (f : List Byte) (c : Context) : Except LoadErr Unit := do
  need (contentHash f == slice f 32 48) 2 0 0 (hdr f 4)
  need (!c.reqSig || hdrSigned f) 3 0 0 0
  need (!c.reqSig || c.keys.any fun q =>
    ecdsaVerify q (beNat (slice f 32 48)) (beNat (slice f 80 48)) (beNat (slice f 128 48))) 3 0 0 (hdr f 10)

/-- Unknown sections, mandatory notes, and the revision (R403, R408, R409). -/
def knownCheck (f : List Byte) (ss : List Sec) : Except LoadErr Unit := do
  needAll (fun x => need ((typeAlloc x.type).isSome || x.mayIgn) 4 x.idx 0 x.type) ss
  needAll (fun x => needAll (fun h => need (!(fld h 16 16 == 1 && fld h 15 0 != 1 && fld h 15 0 != 2)) 5 x.idx 0 h)
    ((noteHeaders (x.body f) (x.body f).length 0).getD [])) (ss.filter (·.type == 9))
  need (hdrRev f == 1 || hdrRev f == 2) 6 0 0 (hdrRev f)

/-! ### Kernels and stations (R405 to R407) -/

/-- A station record: its blocks, its code's STAT offset and its words. -/
structure StaRec where
  w0    : Nat
  set   : List Nat
  off   : Nat
  words : Nat
  w1    : Nat
  deriving DecidableEq, Repr

/-- A kernel entry, with its station records. -/
structure KernRec where
  idx   : Nat
  w0    : Nat
  w1    : Nat
  stat0 : Nat
  nstat : Nat
  w2    : Nat
  hold  : Nat
  roles : Nat
  w15   : Nat
  stas  : List StaRec
  deriving DecidableEq, Repr

def KernRec.nb (k : KernRec) : Nat := fld k.w0 7 0
def KernRec.entry (k : KernRec) : Nat := fld k.w0 15 8
def KernRec.width (k : KernRec) : Nat := fld k.w0 18 16
def KernRec.regs (k : KernRec) : Nat := fld k.w0 21 19
def KernRec.cent (k : KernRec) : Nat := fld k.w2 31 0

/-- Station record j of STAT. -/
def staRec (stat : List Byte) (j : Nat) : StaRec :=
  let w0 := wordAt stat (16 * j)
  let w1 := wordAt stat (16 * j + 8)
  ⟨w0, setBlocks (dw w0), fld w1 31 0, fld w1 47 32, w1⟩

/-- Kernel entry i. -/
def kernRec (ktab stat : List Byte) (i : Nat) : KernRec :=
  let a := 128 * i
  let w0 := wordAt ktab a
  let w1 := wordAt ktab (a + 8)
  let s0 := fld w1 31 0
  let n := fld w0 47 32
  { idx := i, w0 := w0, w1 := w1, stat0 := s0, nstat := n, w2 := wordAt ktab (a + 16), hold := numAt ktab (a + 24) 32,
    roles := numAt ktab (a + 56) 64, w15 := wordAt ktab (a + 120)
    stas := if 16 * (s0 + n) ≤ stat.length then (upTo s0 n).map (staRec stat) else [] }

/-- The first test of a list that fails: the word it names. -/
def firstBad : List (Bool × Nat) → Option Nat
  | [] => none
  | (b, v) :: r => if b then firstBad r else some v

/-- CENT lies in a LAMP section. -/
def KernRec.centOk (k : KernRec) (lamps : List Sec) : Bool :=
  fld k.w2 63 63 == 0 || (k.cent % 4 == 0 && lamps.any fun x => decide (x.aoff ≤ k.cent ∧ k.cent < x.aoff + x.size))

/-- The word of HOLD that holds its highest bit. -/
def KernRec.holdWord (k : KernRec) (b : Nat) : Nat := k.hold / 2 ^ (64 * (b / 64)) % 2 ^ 64

/-- The blocks that no singleton station is for. -/
def KernRec.lone (k : KernRec) : List Nat := (List.range k.nb).filter fun b => k.stas.all fun x => x.set != [b]

/-- The rules of R405 and R407, each with the field that breaks it. (DEDUCED: log 27, 46) -/
def KernRec.bad (k : KernRec) (lamps : List Sec) (stat : List Byte) : Option Nat :=
  firstBad [
    (fld k.w0 63 48 == 0, fld k.w0 63 48), (fld k.w0 31 22 == 0, fld k.w0 31 22), (fld k.w2 62 32 == 0, fld k.w2 62 32),
    (k.w15 == 0, k.w15), (decide (1 ≤ k.nstat ∧ k.nstat ≤ 1024), k.nstat), (decide (1 ≤ k.nb), k.nb),
    (decide (k.entry < k.nb), k.entry), (decide (k.width < 6), k.width),
    (decide (k.hold < 2 ^ k.nb), k.holdWord (Nat.log2 k.hold)), (!k.hold.testBit k.entry, k.entry),
    (decide (16 * (k.stat0 + k.nstat) ≤ stat.length), k.stat0), (k.centOk lamps, k.cent), (k.lone.isEmpty, k.lone.headD 0)]

/-- The words of a station. -/
def staWords (stat : List Byte) (x : StaRec) : List Word :=
  (List.range x.words).map fun i => BitVec.ofNat 32 (numAt stat (x.off + 4 * i) 4)

/-- A control word of major 0x3B, which may not stand in front of the vote. -/
def isControl (w : Word) : Bool := major w == 0x3B

/-- A `slot` whose mask reaches past the members of its station. -/
def slotPast (members : Nat) (w : Word) : Bool := major w == 0x39 && fld w.toNat 24 22 == 0 && decide (2 ^ members ≤ fld w.toNat 7 0)

/-- The word of a station's code that breaks R406: they end in their only vote, its predecessor is no control word, and no
`slot` mask reaches past the members. -/
def badWord (members : Nat) (ws : List Word) : Option Nat :=
  match ws.reverse with
  | [] => some 0
  | v :: r =>
    if !isVote v then some v.toNat
    else match r.find? isVote, r, ws.find? (slotPast members) with
      | some w, _, _ => some w.toNat
      | none, p :: _, x => if isControl p then some p.toNat else x.map (·.toNat)
      | none, [], x => x.map (·.toNat)

/-- The rules of R406 for one station of a kernel, each with the field or word that breaks it. (DEDUCED: log 27, 46) -/
def StaRec.bad (x : StaRec) (nb : Nat) (stat : List Byte) (seen : List (List Nat)) : Option Nat :=
  match firstBad [
    (fld x.w1 63 48 == 0, fld x.w1 63 48), (decide (1 ≤ x.words), x.words),
    (decide (x.off % 4 = 0 ∧ x.off + 4 * x.words ≤ stat.length), x.off),
    (decide (1 ≤ x.set.length) && noRepeats x.set && (x.set.all fun b => decide (b < nb)) && !seen.contains (sortNat x.set), x.w0)] with
  | some v => some v
  | none => badWord x.set.length (staWords stat x)

/-- A record with no broken rule. -/
def needNone (bad : Option Nat) (status sec record : Nat) : Except LoadErr Unit := need bad.isNone status sec record (bad.getD 0)

/-- The stations of a kernel; no two have one set. -/
def stationCheck (k : KernRec) (stat : List Byte) (sec : Nat) : List (List Nat) → List (StaRec × Nat) → Except LoadErr Unit
  | _, [] => .ok ()
  | seen, (x, j) :: r => do
    needNone (x.bad k.nb stat seen) 8 sec (k.stat0 + j)
    stationCheck k stat sec (sortNat x.set :: seen) r

/-- Kernels, then stations. -/
def kernelCheck (f : List Byte) (ss : List Sec) : Except LoadErr (List KernRec) := do
  let ktab := bodyOf f ss 2
  let stat := bodyOf f ss 4
  let kidx := match secOf ss 2 with
    | none => 0
    | some x => x.idx
  let sidx := match secOf ss 4 with
    | none => 0
    | some x => x.idx
  need (ktab.length == 128 * hdrNkern f) 7 kidx 0 ktab.length
  let ks := (List.range (hdrNkern f)).map (kernRec ktab stat)
  needAll (fun k => needNone (k.bad (ss.filter (·.type == 1)) stat) 7 kidx k.idx) ks
  needAll (fun k => stationCheck k stat sidx [] k.stas.zipIdx) ks
  return ks

/-! ### Placement and sharing (R404, R414, R416) -/

/-- IMG: the image's length. -/
def imageLen (ss : List Sec) : Nat := ((ss.filter (·.alloc)).foldl (fun n x => max n (x.aoff + x.size)) 0 + 4095) / 4096 * 4096

/-- A loaded object of any context with a content hash. -/
def State.loadedHash (s : State) (h : BitVec 384) : Option (Nat × CodeObj) :=
  (s.ctxs.flatMap fun (n, c) => (c.objs.filter (·.hash == h)).map fun o => (n, o)).head?

/-- PLACE and SHARE, of the base in use. -/
def placeCheck (c : Context) (olen base img : Nat) (shared : Bool) : Except LoadErr Unit := do
  need (base % 4096 == 0 && decide (base + img ≤ olen)) 9 0 0 base
  need (c.objs.all fun o => !meet o.base o.len base img) (if shared then 10 else 9) 0 0 base

/-! ### Symbols (R410) -/

/-- A symbol's binding. -/
def symBind (w0 : Nat) : Nat := fld w0 39 32

/-- The definition of a name among the objects loaded in a context. -/
def Context.defined (c : Context) (name : List Byte) : Option Nat :=
  ((c.objs.flatMap (·.globals)).find? (·.1 == name)).map (·.2)

/-- A record's rules, given the global names of the records in front of it, each with the word that breaks it. (DEDUCED: log 27, 46) -/
def symBad (c : Context) (b : List Byte) (n : Nat) (seen : List (List Byte)) (r : Nat × Nat) : Option Nat :=
  let name := symName b n r.2
  firstBad [
    (fld r.1 63 56 == 0 && decide (symBind r.1 ≤ 2), r.1), (decide (1 ≤ name.length ∧ name.length ≤ 255), r.2),
    (symBind r.1 != 2 || (fld r.1 31 0 == 0 && fld r.1 55 40 == 0), r.1), (symBind r.1 != 2 || (c.defined name).isSome, r.2),
    (symBind r.1 != 1 || ((c.defined name).isNone && !seen.contains name), r.2)]

/-- The first record that breaks a rule. -/
def symCheck (c : Context) (b : List Byte) (n sec : Nat) : List (List Byte) → List ((Nat × Nat) × Nat) → Except LoadErr Unit
  | _, [] => .ok ()
  | seen, (r, i) :: l => do
    needNone (symBad c b n seen r) 11 sec i
    symCheck c b n sec (if symBind r.1 = 1 then symName b n r.2 :: seen else seen) l

/-- The value of a record: a definition in the arena (R410, R412). -/
def symValue (c : Context) (b : List Byte) (n base : Nat) (r : Nat × Nat) : Nat :=
  if symBind r.1 = 2 then (c.defined (symName b n r.2)).getD 0 else base + fld r.1 31 0

/-- Names and values of the records with a binding. -/
def symsBound (c : Context) (b : List Byte) (n base bind : Nat) : List (List Byte × Nat) :=
  ((symRecords b n).filter fun r => symBind r.1 == bind).map fun r => (symName b n r.2, symValue c b n base r)

/-- An extern of a shared object that resolves differently here (R416). -/
def shareDiffers (c : Context) (o : CodeObj) : Option Nat :=
  (o.externs.filterMap fun (name, v) => match c.defined name with
    | some w => if w = v then none else some w
    | none => none).head?

/-! ### Image and relocations (R404, R411 to R413) -/

/-- Bytes over others at an offset. -/
def overlay (bs : List Byte) (off : Nat) (x : List Byte) : List Byte := bs.take off ++ x ++ bs.drop (off + x.length)

/-- The image before relocation: an ignored section's range stays zero. -/
def rawImage (f : List Byte) (ss : List Sec) : List Byte :=
  (ss.filter fun x => x.alloc && (typeAlloc x.type).isSome).foldl (fun im x => overlay im x.aoff (x.body f))
    (List.replicate (imageLen ss) 0)

/-- A relocation record. -/
structure Rel where
  idx : Nat
  w0  : Nat
  w1  : Nat
  deriving DecidableEq, Repr

def Rel.site (r : Rel) : Nat := fld r.w0 31 0
def Rel.kind (r : Rel) : Nat := fld r.w0 39 32
def Rel.sym (r : Rel) : Nat := fld r.w1 31 0
def Rel.size (r : Rel) : Nat := if r.kind = 5 then 8 else 4

/-- v = S + ADDEND, exactly. -/
def Rel.value (r : Rel) (base : Nat) (vals : List Nat) : Int :=
  ((if r.sym = noIndex then base else (vals[r.sym]?).getD 0 : Nat) : Int) + sval 32 (fld r.w1 63 32)

/-- The site word is the one the kind patches, and the field is zero. -/
def siteOk (kind w : Nat) : Bool :=
  let m := fld w 30 25
  match kind with
  | 1 => m == 0x03 && fld w 19 0 == 0
  | 2 => m == 0x02 && fld w 14 12 == 0 && fld w 11 0 == 0
  | 3 => m == 0x02 && fld w 11 0 == 0
  | _ => w == 0

/-- The value fits (R412). -/
def fits (kind : Nat) (v : Int) : Bool :=
  match kind with
  | 1 | 2 => decide (0 ≤ v ∧ v ≤ 0xFFFFF7FF)
  | 3 => decide (-2048 ≤ v ∧ v ≤ 2047)
  | 4 => decide (-(2 ^ 31 : Int) ≤ v ∧ v < 2 ^ 32)
  | _ => true

/-- The site's number after the patch. -/
def patch (kind w : Nat) (v : Int) : Nat :=
  match kind with
  | 1 => w + cutInt 20 ((v + 0x800) / 4096)
  | 2 | 3 => w + cutInt 12 v
  | 4 => cutInt 32 v
  | _ => cutInt 64 v

/-- One record applied, with the sites named before it; what it patches is judged as the file has it (R413). -/
def applyRel (ss : List Sec) (raw : List Byte) (sec base : Nat) (vals : List Nat) (seen : List Nat) (im : List Byte) (r : Rel) : Except LoadErr (List Byte) := do
  need (fld r.w0 63 40 == 0 && decide (1 ≤ r.kind ∧ r.kind ≤ 5)) 12 sec r.idx r.w0
  need (r.site % r.size == 0 && !seen.contains r.site && ss.any fun x =>
    x.alloc && decide (x.aoff ≤ r.site ∧ r.site + r.size ≤ x.aoff + x.size)) 12 sec r.idx r.site
  need (r.sym == noIndex || decide (r.sym < vals.length)) 12 sec r.idx r.sym
  let w := numAt raw r.site r.size
  need (siteOk r.kind w) 12 sec r.idx w
  let v := r.value base vals
  need (fits r.kind v) 12 sec r.idx (cutInt 64 v)
  return overlay im r.site (leBytes (patch r.kind w v) r.size)

/-- Every record in file order. -/
def applyRels (ss : List Sec) (raw : List Byte) (sec base : Nat) (vals : List Nat) : List Nat → List Byte → List Rel → Except LoadErr (List Byte)
  | _, im, [] => .ok im
  | seen, im, r :: l => match applyRel ss raw sec base vals seen im r with
    | .error e => .error e
    | .ok im1 => applyRels ss raw sec base vals (r.site :: seen) im1 l

/-- The records of RELOC. -/
def relRecords (b : List Byte) : List Rel := (symRecords b (b.length / 16)).zipIdx.map fun (r, i) => ⟨i, r.1, r.2⟩

/-- Each GOT slot has its ABS64 record (R411). -/
def gotCheck (ss : List Sec) (rs : List Rel) : Except LoadErr Unit :=
  match secOf ss 7 with
  | none => .ok ()
  | some g => do
    need (g.size % 8 == 0) 12 g.idx 0 g.size
    needAll (fun i => need (rs.any fun r => r.kind == 5 && r.site == g.aoff + 8 * i) 12 g.idx i (g.aoff + 8 * i)) (List.range (g.size / 8))

/-- The patched image. -/
def imageOf (f : List Byte) (ss : List Sec) (base : Nat) (vals : List Nat) : Except LoadErr (List Byte) := do
  let b := bodyOf f ss 8
  let sec := match secOf ss 8 with
    | none => 0
    | some x => x.idx
  need (b.length % 16 == 0) 12 sec (b.length / 16) b.length
  let im ← applyRels ss (rawImage f ss) sec base vals [] (rawImage f ss) (relRecords b)
  gotCheck ss (relRecords b)
  return im

/-! ### The whole validation (R414) -/

/-- The rights that a section type allows (R404). -/
def typeRights (t : Nat) : Nat :=
  match t with
  | 1 | 3 | 4 => rR + rCR + rX
  | 5 => rR + rCR
  | 6 | 7 => rR + rCR + rW + rCW
  | _ => 0

/-- The role masks of a kernel, one for each slot. -/
def roleMasks (roles : Nat) : List Nat := (List.range 128).map fun g => roles / 16 ^ g % 16

/-- A kernel as the loaded object holds it: offsets are offsets in the arena. -/
def KernRec.loaded (k : KernRec) (base statOff : Nat) : Kernel :=
  { nb := k.nb, entry := k.entry, width := k.width, regs := k.regs
    hold := (List.range k.nb).filter k.hold.testBit, roles := roleMasks k.roles
    compose := if fld k.w2 63 63 = 1 then some (base + k.cent) else none
    stations := k.stas.map fun x => (x.set, base + statOff + x.off, x.words) }

/-- An object that passed every check: itself, its image, and the context and object whose frames it shares. -/
structure Loaded where
  obj   : CodeObj
  image : List Byte
  from_ : Option (Nat × CodeObj)
  deriving DecidableEq, Repr

/-- A file validated for a context whose arena object has olen bytes (R414). -/
def State.validateFile (s : State) (c : Context) (olen : Nat) (f : List Byte) (base0 : Nat) : Except LoadErr Loaded := do
  headerCheck f
  let ss := sections f
  needAll (entryCheck f) ss
  pairCheck [] ss
  needAll (contentCheck f) ss
  sealCheck f c
  knownCheck f ss
  let ks ← kernelCheck f ss
  let h := BitVec.ofNat 384 (beNat (contentHash f))
  let from_ := s.loadedHash h
  let base := match from_ with
    | none => base0
    | some (_, o) => o.base
  let img := imageLen ss
  placeCheck c olen base img from_.isSome
  let differs := from_.bind fun x => shareDiffers c x.2
  need differs.isNone 10 0 0 (differs.getD 0)
  let b := bodyOf f ss 10
  let (n, sec) := match secOf ss 10 with
    | none => (0, 0)
    | some x => (x.aoff, x.idx)
  symCheck c b n sec [] (symRecords b n).zipIdx
  let im ← imageOf f ss base ((symRecords b n).map (symValue c b n base))
  let statOff := match secOf ss 4 with
    | none => 0
    | some x => x.aoff
  return {
    obj := { id := c.nextId, base := base, len := img, hash := h, rev := hdrRev f
             kernels := ks.map fun k => k.loaded base statOff
             globals := symsBound c b n base 1, externs := symsBound c b n base 2
             sections := (ss.filter fun x => x.alloc && decide (0 < x.size)).map fun x => (base + x.aoff, x.size, typeRights x.type)
             shared := from_.isSome, unload := none }
    image := im, from_ := from_ }

/-! ### Frames and page rights (R195, R404, R415) -/

/-- The pages of an arena that hold a byte of an object's image. -/
def CodeObj.pages (o : CodeObj) : List Nat := if o.len = 0 then [] else upTo (o.base / 65536) ((o.base + o.len - 1) / 65536 - o.base / 65536 + 1)

/-- PDENY of an arena page (R404). -/
def pageDeny (os : List CodeObj) (p : Nat) : Nat :=
  let allowed := os.foldl (fun m o => o.sections.foldl (fun m (a, n, r) => if meet a n (65536 * p) 65536 then m ||| r else m) m) 0
  let shared := os.any fun o => o.shared && o.pages.contains p
  (0x7F ^^^ (allowed &&& 0x7F)) ||| rA ||| rG ||| (if shared then rW + rCW else 0)

/-- The arena entry of a context. -/
def State.arenaEntry (s : State) (c : Context) : Option Entry := entryAt s.mem c c.arena

/-- A page map entry from residency, rights withheld and frame. -/
def mkPme (res deny frame : Nat) : Nat := res * 2 ^ 62 + deny * 2 ^ 48 + frame * 2 ^ 16

/-- The bytes of an image that lie on a page: the first offset on the page, and the bytes. -/
def imagePart (o : CodeObj) (im : List Byte) (p : Nat) : Nat × List Byte :=
  let lo := max o.base (65536 * p)
  (lo - 65536 * p, slice im (lo - o.base) (min (o.base + o.len) (65536 * (p + 1)) - lo))

/-- An object loaded in a context has a byte on a page of its arena. -/
def Context.onPage (c : Context) (p : Nat) : Bool := c.objs.any fun o => o.pages.contains p

/-- The page of a shared object as the first load's arena maps it, whose frame the new arena maps too, unless an object of its own
is on the page. (DEDUCED: log 47) -/
def State.sharedPage (s : State) (here : Context) (x : Loaded) (p : Nat) : Option (Nat × Nat) :=
  match x.from_ with
  | none => none
  | some (n, _) => match s.ctx? n with
    | none => none
    | some c => match s.arenaEntry c with
      | none => none
      | some e =>
        let v := mnat s.mem (e.pmeAt (65536 * p)) 8
        if !here.onPage p && pmeRes v != 3 then some (if pmeRes v = 0 then 0 else 1, pmeFrame v) else none

/-- Pages of an object for which a load needs a fresh frame: those that are not shared. -/
def State.freshPages (s : State) (c : Context) (x : Loaded) : List Nat := x.obj.pages.filter fun p => (s.sharedPage c x p).isNone

/-- Another arena maps a frame of the fast tier. -/
def State.mappedElsewhere (s : State) (ctx frame : Nat) : Bool :=
  s.ctxs.any fun (n, c) => n != ctx && match s.arenaEntry c with
    | none => false
    | some e => c.objs.any fun o => o.pages.any fun p =>
        let v := mnat s.mem (e.pmeAt (65536 * p)) 8
        pmeRes v == 0 && pmeFrame v == frame

/-- The frame of a page that an arena maps no longer is free, once no other arena maps it (R195). Frames of the capacity tier are
of no pool of the device's. -/
def State.freeFrame (s : State) (ctx v : Nat) : State :=
  if pmeRes v = 0 && !s.mappedElsewhere ctx (pmeFrame v) then { s with fastFree := s.fastFree ++ [pmeFrame v] } else s

/-- A page no longer migrates: what waited for it is presented again. -/
def State.dropEntry (s : State) (pme : Nat) : State :=
  match s.entryFor pme with
  | none => s
  | some n => match tget s.waits n with
    | none => s
    | some e => { s with waits := tdel s.waits n, agenda := e.waiters.map (.present n) ++ s.agenda }

/-- One page of a load: shared, or a fresh frame with what the page holds and its part of the image, which the page map entry then
names (R415). -/
def State.loadPage (s : State) (ctx : Nat) (c : Context) (e : Entry) (x : Loaded) (p : Nat) : State :=
  let pme := e.pmeAt (65536 * p)
  let deny := pageDeny (x.obj :: c.objs) p
  let (off, bs) := imagePart x.obj x.image p
  match s.sharedPage c x p with
  | some (res, frame) => s.memWrite pme (leBytes (mkPme res deny frame) 8)
  | none => match s.fastFree with
    | [] => s
    | fr :: r =>
      let at_ := 65536 * fr
      let v := mnat s.mem pme 8
      let old := (if pmeRes v = 0 then 0 else capBase) + 65536 * pmeFrame v
      let s1 := { s with fastFree := r }.dropRange at_ 65536
      let s2 := if c.onPage p then { s1 with
          mem := moveBytes s1.mem old at_ 65536, tags := moveTags s1.tags (old / 16) (at_ / 16) 4096 }
        else s1.zeroRange at_ 65536
      let s3 := (s2.memWrite (at_ + off) bs).memWrite pme (leBytes (mkPme 0 deny fr) 8)
      if c.onPage p then (s3.freeFrame ctx v).dropEntry pme else s3

/-- The rights of an arena's pages formed anew (R404). -/
def State.setDeny (s : State) (ctx : Nat) (ps : List Nat) : State :=
  match s.ctx? ctx with
  | none => s
  | some c => match s.arenaEntry c with
    | none => s
    | some e => ps.foldl (fun s p =>
        let v := mnat s.mem (e.pmeAt (65536 * p)) 8
        s.memWrite (e.pmeAt (65536 * p)) (leBytes (mkPme (pmeRes v) (pageDeny c.objs p) (pmeFrame v)) 8)) s

/-- The next CODEID (R414). -/
def nextCodeid (n : Nat) : Nat := if n = 0xFFFFFFFF then 1 else n + 1

/-- A validated object is placed; a first load whose frames are now shared withholds W and CW as well (R404, R415). -/
def State.place (s : State) (ctx : Nat) (c : Context) (e : Entry) (x : Loaded) : State :=
  let s1 := x.obj.pages.foldl (fun s p => s.loadPage ctx c e x p) s
  let s2 := s1.modCtx ctx fun c => { c with objs := c.objs ++ [x.obj], nextId := nextCodeid c.nextId }
  match x.from_ with
  | none => s2
  | some (n, o) => (s2.modCtx n fun c => { c with objs := c.objs.map fun y => if y.id = o.id then { y with shared := true } else y }).setDeny n o.pages

/-! ### CODELOAD (R414, R415, R461) -/

/-- The command's own reserved fields, in order. -/
def loadFields (ws : List DWord) : List Nat :=
  [fld (cmdWord ws 0) 31 20, fld (cmdWord ws 2) 63 32, fld (cmdWord ws 5) 31 1, if fld (cmdWord ws 5) 0 0 = 0 then cmdWord ws 6 else 0, cmdWord ws 7]

/-- The first of them that holds a bit: the offending value of FORMAT (R414, R461). -/
def loadReserved (ws : List DWord) : Option Nat := (loadFields ws).find? (· != 0)

/-- What a read of the source gives: bytes, a denial, or a page to wait for. -/
inductive Source where
  | bytes (f : List Byte)
  | denied
  | waits (pme : Nat)
  deriving DecidableEq, Repr

/-- The bytes of a device-memory object of the context, read at the port (R461). -/
def State.readObject (s : State) (c : Context) (h off : Nat) : Nat → Source
  | 0 => .bytes []
  | n + 1 => match entryAt s.mem c h with
    | none => .denied
    | some e => match judge s.mem (some e) 1 rR off 1, State.readObject s c h (off + 1) n with
      | .at_ f, .bytes bs => .bytes (mget s.mem f :: bs)
      | .at_ _, x => x
      | .elsewhere _, .denied => .denied
      | .elsewhere p, _ => .waits p
      | .window _, _ | .denied _, _ | .noFrame _, _ => .denied

/-- The file of a CODELOAD (R461). -/
def State.source (s : State) (c : Context) (ws : List DWord) : Source :=
  if fld (cmdWord ws 5) 0 0 = 1 then s.readObject c (fld (cmdWord ws 5) 63 32) (cmdWord ws 6) (cmdPlen ws)
  else if s.hostFails (hostBase + cmdPaddr ws) then .denied
  else .bytes (s.payload ws)

/-- A load carried out, or what it waits for: a page of its source, or frames. -/
inductive Load where
  | done (s : State)
  /-- with what it has begun by then, if it began something now -/
  | waits (begun : Option State)
  deriving DecidableEq, Repr

/-- The pages that a load will map and that no object is on are unmapped until then (R188, R415): none where they are already. -/
def State.unmapFresh (s : State) (c : Context) (e : Entry) (x : Loaded) : Option State :=
  let pmes := (x.obj.pages.filter fun p => !c.onPage p).map fun p => e.pmeAt (65536 * p)
  if pmes.all fun a => mnat s.mem a 8 == mkPme 3 0 0 then none
  else some (pmes.foldl (fun s a => s.memWrite a (leBytes (mkPme 3 0 0) 8)) s)

/-- What a port admitted for the arena has still to perform, at its frames as they are (R191). -/
def State.arenaBusy (s : State) (ctx : Nat) (c : Context) : Bool := !(s.admittedFor fun x h => x == ctx && h == c.arena).isEmpty

/-- A load cannot place its object yet: its pages need more frames than are free, or one of them moves to another frame while
accesses admitted to the old one have not performed (R195, R415). -/
def State.placeWaits (s : State) (ctx : Nat) (c : Context) (x : Loaded) : Bool :=
  decide (s.fastFree.length < (s.freshPages c x).length) || ((s.freshPages c x).any c.onPage && s.arenaBusy ctx c)

/-- A load stands behind a refresh, once (R440). -/
def State.loadHeld (s : State) (b : Nat × Nat) : Load :=
  .waits (if s.inBank (.step .codeload) then none else some (s.joinBank b (.step .codeload)))

/-- The bank under a hold that a load's source is in (R440). -/
def State.sourceBank (s : State) (ws : List DWord) : Option (Nat × Nat) :=
  if fld (cmdWord ws 5) 0 0 = 1 then s.objectBank (cmdCtx ws) (fld (cmdWord ws 5) 63 32) (cmdWord ws 6) (cmdPlen ws) else none

/-- The bank under a hold that the placing of an object reads or writes: the arena's entries, its pages, and the frames that it
takes (R440). -/
def State.placeBank (s : State) (c : Context) (e : Entry) (x : Loaded) : Option (Nat × Nat) :=
  if s.refresh.isEmpty then none
  else s.rangeBank (c.table + 32 * c.arena) 32 <|> (x.obj.pages.findSome? fun p => s.rangeBank (e.pmeAt (65536 * p)) 8 <|>
      if c.onPage p then (match placeOf s.mem e (65536 * p) with
        | .at_ f => s.rangeBank f 65536
        | .denied _ | .elsewhere _ | .window _ | .noFrame _ => none) else none)
    <|> (s.fastFree.take (s.freshPages c x).length).findSome? fun f => s.rangeBank (65536 * f) 65536

/-- A load's result words (R414). -/
def loadResult (e : LoadErr) : List DWord := [dw (e.record % 2 ^ 32 * 2 ^ 32 + e.sec % 2 ^ 32), dw e.val, 0]

/-- CODELOAD for a created context. (DEDUCED: log 26, 27, 29, 46, 47) -/
def State.load (s : State) (ws : List DWord) : Load :=
  match s.ctx? (cmdCtx ws) with
  | none => .done (s.answer ws 32 [])
  | some c =>
    match loadReserved ws, s.sourceBank ws with
    | some v, _ => .done (s.answer ws 1 [0, dw v, 0])
    | none, some b => s.loadHeld b
    | none, none => match s.source c ws with
      | .denied => .done (s.answer ws 1 [])
      | .waits p => .waits (if s.canWant p then some (s.wantPage p) else none)
      | .bytes f =>
        let e := s.arenaEntry c
        let olen := match e with
          | none => 0
          | some e => e.olen
        match s.validateFile c olen f (cmdWord ws 4), e with
        | .error x, _ => .done (s.answer ws x.status (loadResult x))
        | .ok _, none => .done (s.answer ws 9 [0, dw (cmdWord ws 4), 0])
        | .ok x, some e =>
          if let some b := s.placeBank c e x then s.loadHeld b
          else if s.placeWaits (cmdCtx ws) c x then .waits (s.unmapFresh c e x)
          else .done ((s.place (cmdCtx ws) c e x).answer ws 0 [0, 0, dw x.obj.id])

/-- A waiting CODELOAD that can be carried out or can begin something that it waits for: the state after that. -/
def State.loadDue (s : State) : Option State :=
  (s.waiting 0x10 fun _ => true).bind fun p => match (s.dropWait p).load p.words with
    | .done t => some t
    -- what it has begun; it waits on
    | .waits begun => begun.map fun t => { t with pending := s.pending }

/-- CODELOAD (R414, R415, R461). (DEDUCED: log 29) -/
def execCodeload (s : State) : Out :=
  match s.loadDue with
  | some t => .next t
  | none => match s.headIs 0x10 with
    | none => .refused .notDue
    | some ws =>
      let s1 := s.popMail
      match s1.load ws with
      | .done t => .next t
      | .waits begun => .next ((begun.getD s1).waitMail ws [] [])

/-! ### Unloading (R195, R419) -/

/-- A page of an unloaded object: unmapped and its frame freed, or kept for the objects that remain on it. -/
def State.unmapPage (s : State) (ctx : Nat) (e : Entry) (rest : List CodeObj) (p : Nat) : State :=
  let pme := e.pmeAt (65536 * p)
  let v := mnat s.mem pme 8
  if rest.any fun o => o.pages.contains p then s.memWrite pme (leBytes (mkPme (pmeRes v) (pageDeny rest p) (pmeFrame v)) 8)
  else ((s.memWrite pme (leBytes (mkPme 3 0 0) 8)).freeFrame ctx v).dropEntry pme

/-- The bank under a hold that the arena's entry is in, or a page map entry of an object (R440). -/
def State.unmapBank (s : State) (ctx id : Nat) : Option (Nat × Nat) :=
  match s.ctx? ctx with
  | none => none
  | some c => s.entryBank ctx c.arena <|> match s.arenaEntry c, c.objs.find? (·.id == id) with
    | some e, some o => o.pages.findSome? fun p => s.rangeBank (e.pmeAt (65536 * p)) 8
    | _, _ => none

/-- An object of a content hash is loaded. -/
def State.hashLoaded (s : State) (h : BitVec 384) : Bool := s.ctxs.any fun (_, c) => c.objs.any (·.hash == h)

/-- An object leaves its context: its pages, the ports' copies of the arena's entry, and, with the last that has its content, its
code in the station stores. -/
def State.unload (s : State) (ctx id : Nat) : State :=
  match s.ctx? ctx with
  | none => s
  | some c => match c.objs.find? (·.id == id) with
    | none => s
    | some o =>
      let rest := c.objs.filter (·.id != id)
      let s1 := match s.arenaEntry c with
        | none => s
        | some e => o.pages.foldl (fun s p => s.unmapPage ctx e rest p) s
      let s2 := s1.modCtx ctx fun c =>
        { c with objs := rest, composed := c.composed.filter (·.codeid != id), unloaded := (o.base, o.len) :: c.unloaded }
      { s2 with
        otCache := s2.otCache.filter fun x => !(x.ctx == ctx && x.handle == c.arena)
        store := s2.store.filter fun x => s2.hashLoaded x.hash || s2.runsCopy x.id }

/-- A byte of the arena lies in the image of an object that was unloaded, and of none that is loaded (R419). -/
def Context.isUnloaded (c : Context) (a : Nat) : Bool :=
  (c.unloaded.any fun (b, n) => decide (b ≤ a ∧ a < b + n)) && c.objs.all fun o => !decide (o.base ≤ a ∧ a < o.base + o.len)

/-- Another object of the context resolved a global of this one. -/
def globalsUsed (c : Context) (o : CodeObj) : Bool :=
  c.objs.any fun x => x.id != o.id && x.externs.any fun (n, _) => o.globals.any fun (m, _) => m == n

/-- CODEUNLOAD (R419): launches that name the object are refused from now on, and the unmapping waits for its crews. -/
def execCodeunload (s : State) : Out :=
  command 0x11 ⟨.created, false, low32, 0, 0, 0⟩ s fun ws s =>
    let id := cmdWord ws 4
    match s.ctx? (cmdCtx ws) with
    | none => s.answer ws 32 []
    | some c => match c.objs.find? fun o => o.id == id && o.unload.isNone with
      | none => s.answer ws 39 []
      | some o =>
        if globalsUsed c o then s.answer ws 11 []
        else s.modCtx (cmdCtx ws) fun c =>
          { c with objs := c.objs.map fun x => if x.id = id then { x with unload := some (cmdRaddr ws, cmdTag ws) } else x }

/-- An object to be unmapped: no launch that names it is left, and what ports admitted for the arena has performed (R191, R419).
(DEDUCED: log 63) -/
def State.unmapDue (s : State) (ctx codeid : Nat) : Option (Nat × Nat) :=
  match s.ctx? ctx with
  | none => none
  | some c => match c.objs.find? (·.id == codeid) with
    | none => none
    | some o => if (s.launches.any fun (_, l) => l.ctx == ctx && l.codeid == codeid) || s.arenaBusy ctx c then none else o.unload

/-- CODE_UNMAP (R419). -/
def execCodeUnmap (ctx codeid : Nat) (s : State) : Out :=
  match s.unmapDue ctx codeid with
  | none => .refused .notDue
  | some (a, t) => match s.unmapBank ctx codeid with
    | some b => s.holdStep b (.codeUnmap ctx codeid)
    | none => .next ((s.unload ctx codeid).mailResult a t 0 [])

end Sys2Proof.Machine
end

