-- ==== Sys2Proof/Machine/Contexts.lean ====
section
/-! DEFINITION. The creation of a context (R193, R469) and its destruction (R470). -/
namespace Sys2Proof.Machine

/-! ### CTXCREATE (R163, R193, R469) -/

/-- A new context: recipe state zero, default WDT, no debug right, no code. -/
def newContext (serial table otn arena : Nat) (caps : List (BitVec 128)) : Context :=
  { serial := serial, table := table, otn := otn, arena := arena, fetchLen := 0, caps := caps, recipe := List.replicate 2048 0, claimLost := 0, debug := false
    wdt := 2 ^ 30, keys := [], reqSig := false, objs := [], unloaded := [], nextId := 1, composed := [], failed := false, trace := none, prof := 0
    watches := [] }

/-- Capabilities as a payload holds them: 16 bytes each, low word first. -/
def capsOf (bs : List Byte) : Nat → List (BitVec 128)
  | 0 => []
  | n + 1 => BitVec.ofNat 128 (leNat (bs.take 16)) :: capsOf (bs.drop 16) n

/-- The arena's entry of a new context, VALID and of a code arena. -/
def State.arenaOf (s : State) (c : Context) : Option Entry :=
  match s.arenaEntry c with
  | none => none
  | some e => if e.valid && e.kind == 6 then some e else none

/-- CTXCREATE (R187, R193, R469). (DEDUCED: log 26, 30; DESIGN CHOICE: log 85) -/
def execCtxcreate (s : State) : Out :=
  command 0x01 ⟨.any, true, all64, ones 24 0, low32, 0⟩ s fun ws s =>
    let table := cmdWord ws 4
    let otn := cmdWord ws 5
    let n := cmdPlen ws
    if (s.ctx? (cmdCtx ws)).isSome then s.answer ws 33 []
    else if table % 32 ≠ 0 ∨ table < tableBase ∨ capBase < table + 32 * otn ∨ otn < 1 ∨ 2 ^ 24 < otn ∨ n % 16 ≠ 0 ∨ 256 < n then s.answer ws 1 []
    else
      let c := newContext s.nextId table otn (cmdWord ws 6) (capsOf (s.payload ws) (n / 16))
      match s.arenaOf c with
      | none => s.answer ws 34 []
      | some e => { s with ctxs := tset s.ctxs (cmdCtx ws) { c with fetchLen := e.olen }, nextId := s.nextId + 1 }.answer ws 0 []

/-! ### CTXDESTROY (R470) -/

/-- Launch records of the context that wait in port slots end with KILLED. -/
def State.killSlots (s : State) (ctx : Nat) : State :=
  s.slots.foldl (fun s (n, x) => match x.record with
    | none => s
    | some r =>
      if fld (r.headD 0).toNat 51 40 = ctx then
        { s with slots := tset s.slots n { x with record := none } }.complete s.nextLaunch
          { launchFrom r ctx 0 s.clock with status := 9, tend := s.clock }
      else s) s

/-- The context fails with no report, and the records of its launches are written (R470 step 1). -/
def State.killContext (s : State) (ctx : Nat) : State :=
  let s1 := (s.failContext ctx).killSlots ctx
  (s1.launches.filter fun (_, l) => l.ctx == ctx).foldl (fun s (n, l) => s.complete n l) s1

/-- What the device still does for a context: writes of its own, and accesses of its retired groups that can go on. -/
def State.ctxBusy (s : State) (ctx : Nat) : Bool :=
  (s.cmds.any fun (_, c) => c.ctx == ctx) || (s.posted.any fun (_, p) => p.ctx == ctx) || s.accs.any fun (_, a) => a.ctx == ctx && match a.stage with
    | .forHead | .replay => false
    | .toPort | .parked _ | .overflow _ | .bank _ _ | .toHome | .answered => true

/-- Steps 2 to 5 of R470: nothing of the context is left. (DEDUCED: log 48) -/
def State.freeContext (s : State) (ctx : Nat) : State :=
  match s.ctx? ctx with
  | none => s
  | some c =>
    let s1 := c.objs.foldl (fun s o => match o.unload with
      | none => s.unload ctx o.id
      | some (a, t) => (s.unload ctx o.id).mailResult a t 0 []) s
    { s1 with
      ctxs := tdel s1.ctxs ctx
      threads := s1.threads.filter fun (_, t) => t.ctx != ctx
      savedThreads := s1.savedThreads.filter fun (_, t) => t.thread.ctx != ctx
      accs := s1.accs.filter fun (_, a) => a.ctx != ctx
      ops := s1.ops.filter fun (n, _) => !s1.accs.any fun (_, a) => a.ctx == ctx && a.op == n
      lapsed := s1.lapsed.filter (·.holder.ctx != ctx)
      ghosts := s1.ghosts.filter (·.group.ctx != ctx)
      otCache := s1.otCache.filter (·.ctx != ctx)
      rcache := s1.rcache.filter (·.ctx != ctx)
      rings := match c.trace with
        | none => s1.rings
        | some b => s1.rings.filter fun (n, _) => n / 96 != b.serial
      stops := s1.stops.filter (·.ctx != ctx)
      launched := s1.launched.filter (· != ctx) }

/-- A CTXDESTROY for which the device has no more to do. -/
def State.destroyDue (s : State) : Option PendCmd := s.waiting 0x02 fun p => !s.ctxBusy (cmdCtx p.words)

/-- CTXDESTROY (R470): the context is killed; once its records are written everything of it is freed. (DEDUCED: log 48) -/
def execCtxdestroy (s : State) : Out :=
  match s.destroyDue with
  | some p => .next (((s.dropWait p).freeContext (cmdCtx p.words)).answer p.words (if (s.ctx? (cmdCtx p.words)).isNone then 32 else 0) [])
  | none => command 0x02 ⟨.created, false, 0, 0, 0, 0⟩ s fun ws s => (s.killContext (cmdCtx ws)).waitMail ws [] []

end Sys2Proof.Machine
end

