-- ==== Sys2Proof/Machine/Recovery.lean ====
section
/-! DEFINITION. Recovery points (R232), rollback and the report of one (R233 to R235), corrected errors and worn units
(R236), withdrawn cores (R237). -/
namespace Sys2Proof.Machine

/-! ### Recovery points (R232) -/

/-- Frames of the fast tier with a byte that differs between two memories. -/
def changedFrames (m old : List Host.Cell) : List Nat :=
  let fast := fun (x : Host.Cell) => decide (x.1 < fastFrames * 65536)
  sortNat (((m.filter fun x => fast x && !old.contains x) ++ old.filter fun x => fast x && !m.contains x).map fun x => x.1 / 65536)

/-- Frames of SRAM. -/
def sramFrames : Nat := sramSize / 65536

/-- Frames that a point takes: changed pages, SRAM, and the scanned-out state. (DESIGN CHOICE: log 17) -/
def State.pointNeed (s : State) : Nat :=
  let old := match s.point with
    | none => []
    | some (d, _, _) => d.mem
  (changedFrames s.mem old).length + sramFrames + Config.pointFrames s.tick

/-- A point that finds no frames is not taken (R232, R436). -/
def State.noPoint (s : State) (results : List (Nat × Nat)) : State :=
  results.foldl (fun s (a, t) => s.mailResult a t 40 []) (s.report 2 0 [])

/-- Every core of the module. -/
def allCores : List Nat := List.range 96

/-- A point begins: every context is pre-empted on every core (R232 step 1). -/
def State.beginPoint (s : State) (results : List (Nat × Nat)) : State :=
  if s.recFree.length < s.pointNeed then s.noPoint results
  else { s with taking := some results }.preemptAll allCores true

/-- Contexts that are held run again in place where they can, unless a point is taken or the module is too hot (R232 step 5,
R442). -/
def State.resumeHeld (s : State) : State :=
  if s.taking.isSome || !s.critical.isEmpty then s
  else (s.preempts.filter fun (_, p) => p.hold).foldl (fun s (n, _) => s.endPreempt n) s

/-- RPTAKE (R232); one that comes while a point is taken waits for that point. (DEDUCED: log 36) -/
def execRptake (s : State) : Out :=
  command 0x21 ⟨.nothing, false, 0, 0, 0, 0⟩ s fun ws s =>
    match s.taking with
    | some rs => { s with taking := some (rs ++ [(cmdRaddr ws, cmdTag ws)]) }
    | none => s.beginPoint [(cmdRaddr ws, cmdTag ws)]

/-- RPINTSET (R232). -/
def execRpintset (s : State) : Out :=
  command 0x22 ⟨.nothing, false, all64, 0, 0, 0⟩ s fun ws s =>
    { s with rpint := cmdWord ws 4, rpNext := s.clock + cmdWord ws 4 }.answer ws 0 []

/-- RPINT clocks have passed. -/
def State.pointTimerDue (s : State) : Bool := s.rpint != 0 && decide (s.rpNext ≤ s.clock) && s.taking.isNone

/-- RECOVERY_POINT_TIMER (R232). (DEDUCED: log 36) -/
def execRecoveryPointTimer (s : State) : Out :=
  if s.pointTimerDue then .next ({ s with rpNext := s.clock + s.rpint }.beginPoint []) else .refused .notDue

/-- Every context is gated, and the point can be written: no refresh holds a bank that it reads or writes (R440). -/
def State.commitPointDue (s : State) : Bool := s.taking.isSome && s.gatingOrders.isEmpty && s.refresh.isEmpty

/-- Frames of the point that is committed. -/
def State.pointFrames (s : State) : List Nat :=
  match s.point with
  | none => []
  | some (_, _, fs) => fs

/-- RECOVERY_POINT_COMMIT (R232 steps 2 to 5). (DEDUCED: log 36; DESIGN CHOICE: log 37) -/
def execRecoveryPointCommit (s : State) : Out :=
  match s.taking with
  | none => .refused .notDue
  | some rs =>
    if !s.commitPointDue then .refused .notDue
    else
      let n := s.pointNeed
      if s.recFree.length < n then .next ({ s with taking := none }.noPoint rs).resumeHeld
      else
        let s1 := { s with
          taking := none, point := some (s.toDev, s.clock, s.recFree.take n), recFree := s.recFree.drop n ++ s.pointFrames
          outLog := [], outOver := false, since := [], supplied := [] }
        .next (rs.foldl (fun s (a, t) => s.mailResult a t 0 [dw s.clock]) s1).resumeHeld

/-! ### Units (R468) -/

def unitType (u : Nat) : Nat := u / 256
def unitIndex (u : Nat) : Nat := u % 256

/-- How many units of a type there are. -/
def unitCount (t : Nat) : Nat :=
  match t with
  | 1 | 2 | 3 | 4 | 5 | 6 | 7 | 8 => 96
  | 9 => 8
  | 10 => 48
  | 11 => 12
  | 12 => 1
  | _ => 0

def unitOk (u : Nat) : Bool := decide (unitIndex u < unitCount (unitType u))

/-- The core that a unit belongs to. -/
def unitCore (u : Nat) : Option Nat := if unitType u ≤ 8 then some (unitIndex u) else none

/-- Storage that holds program-visible or context state, and the capacity tier that holds the copy (R234). (DEDUCED: log 39) -/
def storesState (u : Nat) : Bool := unitOk u && decide (2 ≤ unitType u ∧ unitType u ≤ 10)

/-- Units that count corrected errors (R236). -/
def countsErrors (u : Nat) : Bool := unitOk u && (decide (2 ≤ unitType u ∧ unitType u ≤ 7) || decide (9 ≤ unitType u))

/-- The window of the counts (R236, R237). -/
def errorWindow : Nat := 2 ^ 36

/-! ### Restoring (R234) -/

/-- A context after a rollback: what the stationmaster holds stays, and the rest is as it was at the point. (DEDUCED: log 38) -/
def Context.restored (c : Context) (old : Option Context) : Context :=
  let fresh := { c with recipe := List.replicate 2048 0, claimLost := 0, objs := [], unloaded := [], composed := [], failed := false }
  match old with
  | none => fresh
  | some d =>
    if d.serial = c.serial then
      { c with
        recipe := d.recipe, claimLost := d.claimLost, composed := d.composed, failed := d.failed, unloaded := d.unloaded
        objs := d.objs.map fun o => { o with unload := (c.objs.find? (·.id == o.id)).bind (·.unload) } }
    else fresh

/-- Save frames that the saved crews and threads of some contexts take. -/
def Dev.savedFrames (d : Dev) (gone : Nat → Bool) : List Nat :=
  ((d.crews.filter fun (_, c) => gone c.ctx).flatMap fun (_, c) => c.out.frames)
    ++ ((d.savedCrews.filter fun (_, x) => gone x.crew.ctx).flatMap fun (_, x) => x.crew.out.frames)
    ++ (d.savedThreads.filter fun (_, x) => gone x.thread.ctx).flatMap fun (_, x) => x.frames

/-- A group of one of some contexts, on its core or saved. -/
def Dev.ownsGroup (d : Dev) (gone : Nat → Bool) (g : Nat) : Bool :=
  match tget d.groups g with
  | some gr => gone gr.ctx
  | none => d.savedCrews.any fun (k, x) => gone x.crew.ctx && decide (savedRef k 0 ≤ g ∧ g < savedRef (k + 1) 0)

/-- Device contents without those of some contexts, whose save frames are free. -/
def Dev.without (d : Dev) (gone : Nat → Bool) : Dev :=
  { d with
    fastFree := d.fastFree ++ d.savedFrames gone
    groups := d.groups.filter fun (_, x) => !gone x.ctx
    crews := d.crews.filter fun (_, x) => !gone x.ctx
    savedCrews := d.savedCrews.filter fun (_, x) => !gone x.crew.ctx
    threads := d.threads.filter fun (_, x) => !gone x.ctx
    savedThreads := d.savedThreads.filter fun (_, x) => !gone x.thread.ctx
    launches := d.launches.filter fun (_, x) => !gone x.ctx
    preempts := d.preempts.filter fun (_, x) => !gone x.ctx
    ops := d.ops.filter fun (n, o) => !(d.ownsGroup gone o.group || d.accs.any fun (_, x) => gone x.ctx && x.op == n)
    accs := d.accs.filter fun (_, x) => !gone x.ctx
    lapsed := d.lapsed.filter fun x => !gone x.holder.ctx
    ghosts := d.ghosts.filter fun x => !gone x.group.ctx
    cmds := d.cmds.filter fun (_, x) => !gone x.ctx
    engine := d.engine.filter fun x => !gone x.ctx
    softFences := d.softFences.filter fun f => !d.ownsGroup gone f.group
    posted := d.posted.filter fun (_, x) => !gone x.ctx
    otCache := d.otCache.filter fun x => !gone x.ctx
    rcache := d.rcache.filter fun x => !gone x.ctx }

/-- A context of the point that has been destroyed since. -/
def State.goneSince (s : State) (d : Dev) (n : Nat) : Bool :=
  match tget d.ctxs n, s.ctx? n with
  | some x, some y => x.serial != y.serial
  | some _, none => true
  | none, _ => false

/-- A waiter that is no access from outside. -/
def Waiter.inside : Waiter → Bool
  | .outside _ => false
  | .access _ | .thread _ | .command _ | .station _ | .posted _ | .step _ => true

/-- The contents of the point, with the contexts that exist now. What left the device is not undone, and accesses from outside
are those of now. (DESIGN CHOICE: log 113) -/
def State.restoredDev (s : State) (d : Dev) : Dev :=
  let e := d.without (s.goneSince d)
  { e with
    mem := (e.mem.filter fun x => !isOutside x.1) ++ s.mem.filter fun x => isOutside x.1
    ctxs := s.ctxs.map fun (n, c) => (n, c.restored (tget d.ctxs n))
    fastFree := e.fastFree ++ s.supplied
    waits := tmap e.waits fun _ w => { w with waiters := w.waiters.filter Waiter.inside }
    overflow := e.overflow.filter fun (_, w) => w.inside
    bankQueue := e.bankQueue.filter fun (_, _, w) => w.inside
    nextCrew := max s.nextCrew d.nextCrew, nextLaunch := max s.nextLaunch d.nextLaunch
    nextOrder := max s.nextOrder d.nextOrder, nextId := max s.nextId d.nextId }

/-- A move from outside, which a rollback does not undo. -/
def Move.outside : Move → Option Move
  | .run i => some (.run i)
  | .hostRead a n => some (.hostRead a n)
  | .again o | .present _ (.outside o) => some (.again o)
  | .present _ (.access _) | .present _ (.thread _) | .present _ (.command _) | .present _ (.station _) | .present _ (.posted _)
  | .present _ (.step _) => none
  | .issue _ | .fetch _ | .badCommand | .idle => none

/-- Accesses from outside that wait for a page, or behind a refresh. -/
def State.outsideWaits (s : State) : List Move :=
  ((s.waits.flatMap fun (_, w) => w.waiters) ++ s.overflow.map (·.2) ++ s.bankQueue.map (·.2.2)).filterMap fun w => (Move.present 0 w).outside

/-! ### The report (R234, R467) -/

/-- A launch in a rollback report: two words. -/
def Accepted.words (x : Accepted) : List DWord :=
  [dw (2 ^ 63 + x.ctx % 4096 * 2 ^ 32 + fld ((x.record.headD 0).toNat) 31 0), 0]

/-- The RBLAUNCH entries, three launches each; at most n entries. -/
def State.reportLaunches (s : State) : Nat → List Accepted → State
  | 0, _ => s
  | n + 1, l => if l.isEmpty then s else State.reportLaunches (s.report 5 0 ((l.take 3).flatMap Accepted.words)) n (l.drop 3)

/-- An outbound log entry's four words (R233). -/
def OutEntry.words (e : OutEntry) : List DWord :=
  [dw e.addr, dw (e.phandle * 2 ^ 32 + e.peer * 2 ^ 24 + e.dest * 2 ^ 20 + e.ctx % 4096), dw (e.len % 2 ^ 40), dw e.first]

/-- The rollback report: one ROLLBACK entry, then the launches and the log. -/
def State.reportRollback (s : State) (unit clock : Nat) : State :=
  let s1 := s.report 4 0 [dw clock, dw unit, dw s.since.length, dw (s.outLog.length + if s.outOver then 2 ^ 63 else 0)]
  s.outLog.foldl (fun s e => s.report 6 0 e.words) (s1.reportLaunches s.since.length s.since)

/-! ### Uncorrectable errors (R234, R235, R237) -/

/-- The driver's pre-emptions that a rollback ends have their results. -/
def State.endResults (s : State) (ps : Tab Preempt) : State :=
  (ps.flatMap fun (_, p) => p.results).foldl (fun s (a, t) => s.mailResult a t 0 []) s

/-- The device rolls back to a point (R234). A point being taken is abandoned, and its commands begin another (R235). (DEDUCED: log 38) -/
def State.rollback (s : State) (unit : Nat) (d : Dev) (clock : Nat) : State :=
  let s1 := { s with
    toDev := s.restoredDev d, agenda := s.agenda.filterMap Move.outside ++ s.outsideWaits, heldIn := s.heldIn.filterMap Move.outside
    taking := none }
  let s2 := { (s1.reportRollback unit clock).resumeHeld.endResults s.preempts with since := [] }
  match s.taking with
  | none => s2
  | some rs => if rs.isEmpty then s2 else s2.beginPoint rs

/-- Every context with a launch accepted since reset fails (R234). -/
def State.failAccepted (s : State) : State := s.launched.foldl State.failContext s

/-- A point being taken is abandoned: what it held goes on, and its commands begin another (R235). (DEDUCED: log 38) -/
def State.abandonPoint (s : State) : State :=
  match s.taking with
  | none => s
  | some rs =>
    let s1 := { s with taking := none }.resumeHeld
    let s2 := if s.critical.isEmpty then s1.endResults (s.preempts.filter fun (_, p) => p.hold) else s1
    if rs.isEmpty then s2 else s2.beginPoint rs

/-- A core's errors within the window: the second withdraws it (R237). -/
def State.countUncorrected (s : State) (unit : Nat) : State :=
  match unitCore unit with
  | none => s
  | some c =>
    let recent := s.uncorrected.filter fun (_, t) => decide (s.clock < t + errorWindow)
    let s1 := { s with uncorrected := recent ++ [(c, s.clock)] }
    if (recent.any fun (x, _) => x == c) && !s.withdrawn.contains c then
      let s2 := { s1 with withdrawn := insertNat s1.withdrawn c }
      s2.report 8 0 [dw (256 + c), dw (96 - s2.withdrawn.length)]
    else s1

/-- UNCORRECTABLE_ERROR (R234 to R237). (DEDUCED: log 39) -/
def execUncorrectableError (unit : Nat) (s : State) : Out :=
  if !storesState unit then .refused .notDue
  else
    let s1 := s.countUncorrected unit
    match s1.point with
    | none => .next s1.failAccepted.abandonPoint
    | some (d, clock, _) => if unitType unit = 10 then .next s1.failAccepted.abandonPoint else .next (s1.rollback unit d clock)

/-! ### Corrected errors (R236) -/

/-- The errors of a unit in the window. -/
def State.errorCount (s : State) (unit : Nat) : Nat :=
  (s.corrected.filter fun (u, t) => u == unit && decide (s.clock < t + errorWindow)).length

/-- A unit whose count exceeds the threshold is marked worn, once, and its replacement asked for. -/
def State.markWorn (s : State) (unit : Nat) : State :=
  if s.wornThr < s.errorCount unit ∧ !s.worn.contains unit then { s with worn := insertNat s.worn unit }.report 7 0 [dw unit] else s

/-- CORRECTED_ERROR (R236). -/
def execCorrectedError (unit : Nat) (s : State) : Out :=
  if !countsErrors unit then .refused .notDue
  else
    let recent := s.corrected.filter fun (_, t) => decide (s.clock < t + errorWindow)
    .next ({ s with corrected := recent ++ [(unit, s.clock)] }.markWorn unit)

/-- WORNTHR (R236, R469): for every counting unit. (DEDUCED: log 40) -/
def execWornthr (s : State) : Out :=
  command 0x23 ⟨.nothing, false, ones 15 0, 0, 0, 0⟩ s fun ws s =>
    let n := cmdWord ws 4
    if n = 0 then s.answer ws 1 []
    else ((sortNat (s.corrected.map Prod.fst)).foldl State.markWorn { s with wornThr := n }).answer ws 0 []

end Sys2Proof.Machine
end

