-- ==== Sys2Proof/Machine/Debugger.lean ====
section
/-! DEFINITION. The debugger: the debug right (R196, R197), halts, reads, writes and resumption (R430), precise stops and the
debug replay (R427, R428), watchpoints (R429). -/
namespace Sys2Proof.Machine

/-! ### Crews and groups by their names -/

/-- The crew is of a launch with this LTAG in the context, and has this index. -/
def State.namesCrew (s : State) (ctx ltag idx : Nat) (c : Crew) : Bool :=
  c.ctx == ctx && c.idx == idx && match s.launch? c.launch with
  | none => false
  | some l => l.ltag == ltag

/-- A crew that a command names: on its core, or saved. -/
inductive CrewAt where
  | none
  | here (k : Nat) (c : Crew)
  | saved (k : Nat) (x : SavedCrew)
  deriving DecidableEq, Repr

def State.findCrew (s : State) (ctx ltag idx : Nat) : CrewAt :=
  match s.crews.find? fun (_, c) => s.namesCrew ctx ltag idx c && !c.groups.isEmpty, s.savedCrews.find? fun (_, x) => s.namesCrew ctx ltag idx x.crew with
  | some (k, c), _ => .here k c
  | none, some (k, x) => .saved k x
  | none, none => .none

/-- The group that words 4 and 5 of a command name: the state in which it is seen, its reference there, and where a saved
group is kept: its crew's number. -/
structure Seen where
  state : State
  group : Nat
  gr    : Group
  saved : Option Nat

def State.findGroup (s : State) (ctx : Nat) (ws : List DWord) : Option Seen :=
  let at_ := fun (t : State) (k : Nat) (sv : Option Nat) => (t.groups.find? fun (_, gr) => gr.crew == k && gr.gidx == fld (cmdWord ws 5) 38 32).map
    fun (g, gr) => (⟨t, g, gr, sv⟩ : Seen)
  match s.findCrew ctx (cmdWord ws 4) (fld (cmdWord ws 5) 31 0) with
  | .none => none
  | .here k _ => at_ s k none
  | .saved k x => at_ (s.withSaved k x) k (some k)

/-- The state after a change to a group as it was seen: a saved crew is saved again. -/
def Seen.put (x : Seen) (t : State) : State :=
  match x.saved with
  | none => t
  | some k => { t with
      crews := tdel t.crews k
      groups := t.groups.filter fun (_, gr) => gr.crew != k
      savedCrews := tmod t.savedCrews k fun y =>
        ⟨(t.crew? k).getD y.crew, y.groups.zipIdx.map fun (gr, i) => (tget t.groups (savedRef k i)).getD gr⟩ }

/-- The form of the commands that name a group, with the bits of words 6 and 7. -/
def groupForm (w6 w7 : Nat) : Form := ⟨.created, false, low32, ones 38 0, w6, w7⟩

/-- A command for which the context needs the debug right. -/
def State.debugging (s : State) (ws : List DWord) (body : State → State) : State :=
  if s.debugs (cmdCtx ws) then body s else s.answer ws 35 []

/-! ### The right (R196, R197) -/

/-- DBGGRANT (R196). -/
def execDbggrant (s : State) : Out :=
  command 0x30 ⟨.created, false, 0, 0, 0, 0⟩ s fun ws s => (s.modCtx (cmdCtx ws) fun c => { c with debug := true }).answer ws 0 []

/-- The trap of a `brk` that the debugger holds, and no precise stop or watchpoint (R384, R427, R429). -/
def Trap.isBrk (t : Trap) : Bool := t.ofDebugger && !t.detail.getLsbD 63 && !t.detail.getLsbD 62

/-- A group held or about to be held by the debugger goes on with the state it has, past a `brk` (R197, R384). Of a debugger's trap
whose record is still to be written no event is raised; any other is the thread's from now on. (DEDUCED: log 43) -/
def Group.letGo (gr : Group) (halted : Bool) : Group :=
  let gr1 := { gr with stacked := (gr.stacked.filter fun t => !t.ofDebugger).map fun t => { t with debug := false } }
  match gr.debugHeld, gr.stop with
  | true, .trapping =>
    if gr.trap.any Trap.ofDebugger then { gr1 with stop := .run, trap := none }
    else { gr1 with trap := gr.trap.map fun t => { t with debug := false } }
  | true, _ => gr1.resume ((gr.trap.map Trap.isBrk).getD false)
  | false, .halting => if halted then { gr1 with stop := .run, trap := none } else gr1
  | false, _ => gr1

/-- A halt by the debugger that has not been delivered is over. -/
def Crew.debugHalt (c : Crew) : Bool :=
  match c.halt with
  | some h => h.debug && !h.sent
  | none => false

/-- A saved crew let go. -/
def SavedCrew.letGo (x : SavedCrew) : SavedCrew :=
  { x with
    crew := if x.crew.debugHalt then { x.crew with halt := none } else x.crew
    groups := x.groups.map fun gr => gr.letGo x.crew.debugHalt }

/-- A word in flight of a context: its group is one of the context's, or an access of it is still out. -/
def State.opOf (s : State) (ctx n : Nat) (o : Op) : Bool :=
  s.ownsGroup (· == ctx) o.group || s.accs.any fun (_, a) => a.ctx == ctx && a.op == n

/-- DBGREVOKE (R197): the commands before it are complete; watchpoints and stops go, and the groups held by the debugger resume.
(DEDUCED: log 43) -/
def execDbgrevoke (s : State) : Out :=
  command 0x31 ⟨.created, false, 0, 0, 0, 0⟩ s fun ws s =>
    let ctx := cmdCtx ws
    let isHalted := fun (k : Nat) => match s.crew? k with
      | none => false
      | some c => c.debugHalt
    let s1 := { s.modCtx ctx fun c => { c with debug := false, watches := [] } with
      groups := tmap s.groups fun _ gr => if gr.ctx == ctx then (gr.letGo (isHalted gr.crew)).underHalt (s.haltUnder gr.crew && !isHalted gr.crew) else gr
      crews := tmap s.crews fun _ c => if c.ctx == ctx && c.debugHalt then { c with halt := none } else c
      savedCrews := tmap s.savedCrews fun _ x => if x.crew.ctx == ctx then x.letGo else x
      accs := tmap s.accs fun _ a => if a.ctx == ctx then { a with watch := false } else a
      ops := tmap s.ops fun n o => if s.opOf ctx n o then { o with watch := false } else o
      stops := s.stops.filter (·.ctx != ctx) }
    s1.answer ws 0 []

/-! ### Halt, read, write, resume (R430) -/

/-- A halt begins as for a crew trap, with ORIGIN 5. (DEDUCED: log 45) -/
def State.debugHaltCrew (s : State) (k : Nat) : State :=
  match (s.crewGroups k).filterMap fun g => (s.group? g).map fun gr => (g, gr) with
  | [] => s
  | (g, gr) :: _ => s.startHalt k g { siblingTrap gr with origin := 5, debug := true } true

/-- A waiting DBGHALT: its crew is on its core and the halt can begin, or the halt has been delivered or the crew is gone. -/
def State.haltWaits (s : State) : Option (PendCmd × Option Nat) :=
  s.pending.findSome? fun p =>
    if cmdOp p.words ≠ 0x32 then none
    else match p.ids with
      | [] => match s.findCrew (cmdCtx p.words) (cmdWord p.words 4) (cmdWord p.words 5) with
        | .none => some (p, none)
        | .here k c => if c.gated then none else some (p, some k)
        | .saved _ _ => none
      | k :: _ => match s.crew? k, tget s.savedCrews k with
        | some c, _ => if (s.haltOf k).isSome && !c.groups.isEmpty then none else some (p, none)
        | none, some _ => none
        | none, none => some (p, none)

/-- DBGHALT (R430): begun, or reported once its event is sent. (DEDUCED: log 43) -/
def execDbghalt (s : State) : Out :=
  match s.haltWaits with
  | some (p, none) => .next ((s.dropWait p).answer p.words 0 [])
  | some (p, some k) => .next (((s.dropWait p).debugHaltCrew k).waitMail p.words [] [k])
  | none => command 0x32 ⟨.created, false, low32, low32, 0, 0⟩ s fun ws s => s.debugging ws fun s =>
      match s.findCrew (cmdCtx ws) (cmdWord ws 4) (cmdWord ws 5) with
      | .none => s.answer ws 1 []
      | .here k c => if c.gated then s.waitMail ws [] [] else (s.debugHaltCrew k).waitMail ws [] [k]
      | .saved _ _ => s.waitMail ws [] []

/-- The named group, halted or stopped with its record, for a debugger's command; else RSVD. (DEDUCED: log 43) -/
def State.onStopped (s : State) (ws : List DWord) (f : Seen → State) : State :=
  match s.findGroup (cmdCtx ws) ws with
  | none => s.answer ws 1 []
  | some x => if x.gr.openToThread && x.gr.stop != .trapping then f x else s.answer ws 1 []

/-- DBGREAD (R430). -/
def execDbgread (s : State) : Out :=
  command 0x33 (groupForm all64 0) s fun ws s => s.debugging ws fun s =>
    s.onStopped ws fun x => s.answer ws 0 [x.state.selRead x.gr (dw (cmdWord ws 6))]

/-- DBGWRITE (R430). -/
def execDbgwrite (s : State) : Out :=
  command 0x34 (groupForm all64 all64) s fun ws s => s.debugging ws fun s =>
    s.onStopped ws fun x => (x.put (x.state.writeSel x.group x.gr (dw (cmdWord ws 6)) (dw (cmdWord ws 7)))).answer ws 0 []

/-- A group that a resumption finds stopped. -/
def Group.stopped (gr : Group) : Bool :=
  match gr.stop with
  | .trapped | .halted => true
  | .run | .trapping | .halting => false

/-- DBGRESUME (R430): as `gres` does. -/
def execDbgresume (s : State) : Out :=
  command 0x35 (groupForm 1 0) s fun ws s => s.debugging ws fun s =>
    s.onStopped ws fun x =>
      if x.gr.stopped then (x.put (x.state.resumeGroup x.group (cmdWord ws 6 == 1))).answer ws 0 [] else s.answer ws 1 []

/-! ### Precise stops and the debug replay (R427, R428) -/

/-- The stop that a DBGSTOP arms. -/
def stopOf (ws : List DWord) : DbgStop :=
  ⟨cmdCtx ws, cmdWord ws 4, fld (cmdWord ws 5) 31 0, fld (cmdWord ws 5) 38 32, cmdWord ws 6⟩

/-- Every launch of the context accepted since the point is DETERM. -/
def State.allDeterm (s : State) (ctx : Nat) : Bool :=
  (s.since.filter (·.ctx == ctx)).all fun x => (launchFrom x.record ctx 0 0).determ

/-- A launch of the context with an LTAG is DETERM. -/
def State.determTag (s : State) (ctx ltag : Nat) : Bool := s.launches.any fun (_, l) => l.ctx == ctx && l.ltag == ltag && l.determ

/-- Page map entries of the pages of a context's objects, and its SRAM objects' extents. -/
def State.reach (s : State) (c : Context) : List Nat × List (Nat × Nat) :=
  (s.usedHandles c).foldl (fun (ps, rs) h => match entryAt s.mem c h with
    | none => (ps, rs)
    | some e =>
      if !e.valid then (ps, rs)
      else if pagedKind e.kind then (ps ++ (List.range ((e.olen + 65535) / 65536)).map fun i => e.w1 + 8 * i, rs)
      else if e.kind = 2 then (ps, rs ++ [(sramBase + e.w1, e.olen)]) else (ps, rs)) ([], [])

/-- The first byte of the frame that a page map entry names. -/
def frameAt (m : List Host.Cell) (pme : Nat) : Option Nat :=
  let v := mnat m pme 8
  if pmeBad v then none else some ((if pmeRes v = 0 then 0 else capBase) + 65536 * pmeFrame v)

/-- The frames and SRAM extents a context reaches. -/
def State.reachRanges (s : State) (c : Context) : List (Nat × Nat) :=
  let (ps, rs) := s.reach c
  (ps.filterMap fun p => (frameAt s.mem p).map fun f => (f, 65536)) ++ rs

/-- A page or SRAM byte of the context is reachable from another context's table. -/
def State.sharesPages (s : State) (ctx : Nat) (c : Context) : Bool :=
  let mine := s.reachRanges c
  s.ctxs.any fun (n, d) => n != ctx && (s.reachRanges d).any fun (b, m) => mine.any fun (a, k) => meet a k b m

/-- The bytes and tags of a range set as they were in another memory, at another place. -/
def State.restoreRange (s : State) (old : Dev) (src dst n : Nat) : State :=
  { s with
    mem := ((old.mem.filter fun x => decide (src ≤ x.1 ∧ x.1 < src + n)).foldl (fun m x => mput m (dst + (x.1 - src)) x.2)
      (s.mem.filter fun x => !decide (dst ≤ x.1 ∧ x.1 < dst + n)))
    tags := ((old.tags.filter fun t => decide (src / 16 ≤ t ∧ t < (src + n) / 16)).foldl (fun ts t => tagSet ts (dst / 16 + (t - src / 16)))
      (s.tags.filter fun t => !decide (dst / 16 ≤ t ∧ t < (dst + n) / 16))) }

/-- Every page and SRAM byte that the context reaches is as it was at the point, wherever the page is now. -/
def State.restoreReach (s : State) (old : Dev) (c : Context) : State :=
  let (ps, rs) := s.reach c
  let s1 := ps.foldl (fun s p => match frameAt s.mem p, frameAt old.mem p with
    | some dst, some src => s.restoreRange old src dst 65536
    | _, _ => s) s
  rs.foldl (fun s (a, n) => s.restoreRange old a a n) s1

/-- The point's contents with every crew and thread of a context saved. -/
def State.savedPoint (s : State) (old : Dev) (ctx : Nat) : State :=
  let s0 := { s with toDev := old }
  let s1 := (((old.crews.filter fun (_, c) => c.ctx == ctx && !c.groups.isEmpty).map (·.1))
    ++ (old.savedCrews.filter fun (_, x) => x.crew.ctx == ctx).map (·.1)).foldl State.takeOut s0
  (s1.threads.filter fun (_, t) => t.ctx == ctx).foldl (fun s (t, _) => s.scanOutThread t) s1

/-- Entries of one table put over another. -/
def mergeTab {α : Type} (t more : Tab α) : Tab α := more.foldl (fun t (n, x) => tset t n x) t

/-- The trace buffers that a context's crews write (R421). -/
def Dev.buffersOf (d : Dev) (ctx : Nat) : List Nat :=
  ((tget d.ctxs ctx).bind (·.trace)).toList.map (·.serial)
    ++ ((d.crews.map (·.2) ++ d.savedCrews.map (·.2.crew)).filterMap fun c => if c.ctx = ctx then c.trace.map (·.serial) else none)

/-- The rings of some trace buffers. -/
def Dev.ringsOf (d : Dev) (bufs : List Nat) : Tab Ring := d.rings.filter fun (n, _) => bufs.contains (n / 96)

/-- The owner records of a context's launches (R157). -/
def Dev.ownersFor (d : Dev) (ctx : Nat) : Tab Owner :=
  d.owners.filter fun (k, _) => match tget d.launches (k % 2 ^ 64) with
    | none => false
    | some l => l.ctx == ctx

/-- An owner record is as it was, beside a tag of its line (R116, R157). -/
def State.restoreOwner (s : State) (k : Nat) (o : Owner) : State :=
  let line := k / 2 ^ 64
  let s1 := s.allocTag line
  { s1 with claims := tset s1.claims line ((tget s1.claims line).getD Claim.free), owners := tset s1.owners k o }

/-- The context's state is as it was at the point, its crews saved (R428). -/
def State.restoreContext (s : State) (old : Dev) (ctx : Nat) : State :=
  let p := s.savedPoint old ctx
  let mine := fun (n : Nat) => n == ctx
  let d := s.toDev.without mine
  let bare := fun (x : SavedCrew) => { x with crew := { x.crew with out := { x.crew.out with frames := [] } } }
  let gone := s.ownersFor ctx
  let bufs := s.buffersOf ctx ++ old.buffersOf ctx
  let accs := p.accs.filter fun (_, x) => x.ctx == ctx
  let s1 := { s with toDev := { d with
      ctxs := tmod d.ctxs ctx fun c => c.restored (tget old.ctxs ctx)
      crews := mergeTab d.crews (p.crews.filter fun (_, x) => x.ctx == ctx)
      savedCrews := mergeTab d.savedCrews ((p.savedCrews.filter fun (_, x) => x.crew.ctx == ctx).map fun (n, x) => (n, bare x))
      savedThreads := mergeTab d.savedThreads ((p.savedThreads.filter fun (_, x) => x.thread.ctx == ctx).map fun (n, x) => (n, { x with frames := [] }))
      launches := mergeTab d.launches (p.launches.filter fun (_, x) => x.ctx == ctx)
      accs := mergeTab d.accs accs
      ops := mergeTab d.ops (p.ops.filter fun (n, o) => accs.any (fun (_, a) => a.op == n) || p.savedCrews.any fun (_, x) =>
        x.crew.ctx == ctx && x.groups.any fun gr => gr.gid == o.gid)
      cmds := mergeTab d.cmds (p.cmds.filter fun (_, x) => x.ctx == ctx)
      engine := d.engine ++ p.engine.filter (·.ctx == ctx)
      softFences := d.softFences ++ p.softFences.filter fun f => p.ownsGroup mine f.group
      owners := d.owners.filter fun (k, _) => (tget gone k).isNone
      rings := mergeTab (d.rings.filter fun (n, _) => !bufs.contains (n / 96)) (old.ringsOf bufs) } }
  (old.ownersFor ctx).foldl (fun s (k, o) => s.restoreOwner k o) s1

/-- THE DEBUG REPLAY (R428): the context is restored, and its launches since the point are admitted again in order. (DEDUCED: log 44) -/
def State.debugReplay (s : State) (old : Dev) (ctx : Nat) (c : Context) : State :=
  let again := s.since.filter (·.ctx == ctx)
  let s1 := (s.restoreReach old c).restoreContext old ctx
  let s2 := { s1 with since := s1.since.filter (·.ctx != ctx) }
  again.foldl (fun s x =>
    let s := if x.from_ = 0 then s else s.accepted x
    { s with nextLaunch := s.nextLaunch + 1 }.takeRecord s.nextLaunch (launchFrom x.record ctx x.from_ s.clock)) s2

/-- DBGSTOP when the count is passed already (R428). -/
def State.stopPassed (s : State) (ws : List DWord) : State :=
  let ctx := cmdCtx ws
  match s.point, s.ctx? ctx with
  | some (old, _, _), some c =>
    if !(s.determTag ctx (cmdWord ws 4) && s.allDeterm ctx) then s.answer ws 37 []
    else if s.sharesPages ctx c then s.answer ws 36 []
    else ({ s with stops := s.stops ++ [stopOf ws] }.debugReplay old ctx c).answer ws 0 []
  | _, _ => s.answer ws 37 []

/-- The crew of a stop has been admitted already and its group is gone. -/
def State.stopRetired (s : State) (ws : List DWord) : Bool :=
  s.launches.any fun (_, l) => l.ctx == cmdCtx ws && l.ltag == cmdWord ws 4 && decide (fld (cmdWord ws 5) 31 0 < l.next)

/-- DBGSTOP (R427, R428). (DEDUCED: log 43) -/
def execDbgstop (s : State) : Out :=
  command 0x36 (groupForm all64 0) s fun ws s => s.debugging ws fun s =>
    let armed := { s with stops := s.stops ++ [stopOf ws] }.answer ws 0 []
    match s.findGroup (cmdCtx ws) ws with
    | some x => if cmdWord ws 6 < x.gr.rwcount.toNat then s.stopPassed ws else armed
    | none =>
      if s.stopRetired ws then
        (s.report 12 (cmdCtx ws) [dw (cmdWord ws 4), dw (cmdWord ws 5), 38]).answer ws 0 []
      else armed

/-! ### Watchpoints (R429) -/

/-- The handle may carry a watchpoint: VALID, and no window. -/
def State.watchable (s : State) (ctx h : Nat) : Bool :=
  match s.ctx? ctx with
  | none => false
  | some c => match entryAt s.mem c h with
    | none => false
    | some e => e.valid && e.kind != 3

/-- DBGWATCH (R429, R469). -/
def execDbgwatch (s : State) : Out :=
  bankCommand 0x37 .dbgwatch s (fun ws => s.entryBank (cmdCtx ws) (cmdWord ws 5)) <|
    command 0x37 ⟨.created, false, 7 + ones 9 8, low32, ones 39 0, ones 40 0⟩ s fun ws s => s.debugging ws fun s =>
    let n := fld (cmdWord ws 4) 2 0
    let rd := fld (cmdWord ws 4) 8 8 == 1
    let wr := fld (cmdWord ws 4) 9 9 == 1
    let len := cmdWord ws 7
    if !rd && !wr then (s.modCtx (cmdCtx ws) fun c => { c with watches := tdel c.watches n }).answer ws 0 []
    else if len < 1 ∨ 2 ^ 40 < len then s.answer ws 1 []
    else if !s.watchable (cmdCtx ws) (cmdWord ws 5) then s.answer ws 34 []
    else (s.modCtx (cmdCtx ws) fun c => { c with watches := tset c.watches n ⟨cmdWord ws 5, cmdWord ws 6, len, rd, wr⟩ }).answer ws 0 []

end Sys2Proof.Machine
end

