-- ==== Sys2Proof/Machine/Board.lean ====
section
/-! DEFINITION. What reaches the module from outside and what the board does: bring-up (R445), host and peer accesses to
device memory (R433, R438, R439), Rail ports (R439), the host event ring (R437, R466), refresh holds (R440), and thermal
control (R442). -/
namespace Sys2Proof.Machine

/-! ### Bring-up (R445) -/

/-- Step 1: the boot ROM verifies the signature of the stationmaster firmware (R26, R444, R445). (DESIGN CHOICE: log 18) -/
def firmwareVerified : Bool :=
  ecdsaVerify Config.bootKey Config.firmwareHash.toNat Config.firmwareSignature.1 Config.firmwareSignature.2

/-- The first step of bring-up that fails, or 0. (DEDUCED: log 19) -/
def failingStep : Nat :=
  if !firmwareVerified then 1 else if 2 ≤ Config.bringUpFailure ∧ Config.bringUpFailure ≤ 5 then Config.bringUpFailure else 0

/-- Step 3: device memory and SRAM are scrubbed to zero and the claim tags reset, with the owner records beside them. Host memory
and the objects of peers are not the device's. (DEDUCED: log 7) -/
def State.scrub (s : State) : State :=
  { s with mem := s.mem.filter fun x => decide (hostBase ≤ x.1), tags := [], claims := [], owners := [] }

/-- POWER_GOOD (R445): the steps in order; a failing step sets the status, raises vector 3 and stops the device. (DESIGN CHOICE: log 5; DEDUCED: log 7, 19) -/
def execPowerGood (s : State) : Out :=
  let n := failingStep
  if s.ready || s.bootFail != 0 then .refused .notDue
  else if n = 0 then .next { s.scrub with ready := true }
  else .next ({ if 3 < n then s.scrub else s with bootFail := BitVec.ofNat 8 n }.raise 3)

/-- The device status word as the host reads it. -/
def State.deviceStatus (s : State) : Nat := (if s.ready then 2 ^ 63 else 0) + s.bootFail.toNat

/-! ### Moves that are held -/

/-- A move waits for a place in the store of reports (R466). (DEDUCED: log 65) -/
def State.holdMove (s : State) (m : Move) : State := { s with heldIn := s.heldIn ++ [m] }

/-- The moves that waited are taken again, in order. -/
def State.takeHeld (s : State) : State := { s with agenda := s.agenda ++ s.heldIn, heldIn := [] }

/-! ### Host writes (R186, R233, R433) -/

/-- The host's writes to its HDM range are logged where they overlap nothing in the outbound log (R433). (DEDUCED: log 21) -/
def State.logHostWrite (s : State) (a n : Nat) : State :=
  let h := Config.hdmBase + a
  if s.outLog.any fun e => e.dest == 0 && meet e.addr e.len h n then s
  else s.logOut 0 (hostBase + h) n

/-- The object offsets of a watched range's pages at which a device address stands in an object. -/
def Entry.offsetsOf (m : List Host.Cell) (e : Entry) (low n flat : Nat) : List Nat :=
  if pagedKind e.kind then
    ((upTo (low / 65536) ((low + n - 1) / 65536 - low / 65536 + 1)).filter fun p => frameAt m (e.w1 + 8 * p) == some (flat / 65536 * 65536)).map
      fun p => 65536 * p + flat % 65536
  else []

/-- The object offsets, within its range, at which a watchpoint on writes or reads meets bytes of one page. -/
def Watch.hitsAt (m : List Host.Cell) (c : Context) (x : Watch) (a n : Nat) (write : Bool) : List Nat :=
  match (if write then x.writes else x.reads), entryAt m c x.handle with
  | true, some e => (e.offsetsOf m x.low x.len a).filter fun o => decide (o < x.low + x.len ∧ x.low < o + n)
  | _, _ => []

/-- Watchpoints of every context on the bytes that the host writes or reads (R429). -/
def State.watchHost (s : State) (a n : Nat) (write : Bool) : State :=
  s.ctxs.foldl (fun s (ctx, c) => c.watches.foldl (fun s (w, x) => (pageParts a n).foldl (fun s (b, k) =>
    (x.hitsAt s.mem c b k write).foldl (fun s o => s.report 11 ctx [dw (w * 256 + 3), dw x.handle, dw o, dw k, 0]) s) s) s) s

/-- HOST_MEM_WRITE (R187, R431, R433): to the HDM range, the protected region of object tables with it, unchecked; or by the host
to its own memory, which the device may read. (DESIGN CHOICE: log 23, 85) -/
def execHostMemWrite (address : Nat) (bytes : List Byte) (s : State) : Out :=
  let n := bytes.length
  if n = 0 then .refused .notDue
  else if hostBase ≤ address then (if address + n ≤ peerBase then .next (s.memWrite address bytes) else .refused .notDue)
  else if capBase < address + n then .refused .notDue
  else match (upTo address n).findSome? s.heldBank with
    | some b => .next (s.joinBank b (.outside (.host address bytes)))
    | none => .next (((s.memWrite address bytes).logHostWrite address n).watchHost address n true)

/-- A read by the host through its link (R429, R431, R440): the state changes by what watchpoints report, and the bytes go to the
host. (DESIGN CHOICE: log 83) -/
def execHostMemRead (address size : Nat) (s : State) : Out :=
  if size = 0 ∨ capBase < address + size then .refused .notDue
  else match (upTo address size).findSome? s.heldBank with
    | some b => .next (s.joinBank b (.outside (.hostRead address size)))
    | none => .next (s.watchHost address size false)

/-! ### Peer accesses (R438, R439) -/

/-- Where the bytes of a peer's access are. -/
inductive PeerPlace where
  | refused
  | waits (pme : Nat)
  | at_ (flats : List Nat)
  deriving DecidableEq, Repr

/-- The bytes at object offsets from o on, judged in the manner of R189 by the entry's own kind. (DEDUCED: log 41) -/
def peerPlace (m : List Host.Cell) (e : Entry) (right o : Nat) : Nat → PeerPlace
  | 0 => .at_ []
  | n + 1 => match judge m (some e) e.kind right o 1, peerPlace m e right (o + 1) n with
    | .at_ f, .at_ fs => .at_ (f :: fs)
    | .at_ _, x => x
    | .elsewhere _, .refused => .refused
    | .elsewhere p, _ => .waits p
    | .denied _, _ | .window _, _ | .noFrame _, _ => .refused

/-- The local context and handle of a peer's handle. -/
def State.importOf (s : State) (device handle : Nat) : Option (Nat × Nat) :=
  (s.imports.find? fun x => x.1 == device && x.2.1 == handle).map fun x => x.2.2

/-- No core: the caches of none hold what a peer writes. -/
def noCore : Nat := 96

/-- A peer's bytes at their homes, those of one sector as one write (R92). -/
def State.putBytes (s : State) (ctx : Nat) (fs : List (Nat × Byte)) : State :=
  (movedRuns (fs.map fun (f, b) => ⟨some f, b, false⟩)).foldl (fun s x => s.runsWrite ctx noCore [(x.at_, x.vals)]) s

/-- PEER_ACCESS (R439): refused without an import entry, or by the entry; else performed, once its page is in the fast
tier. The answer goes to the peer. (DEDUCED: log 41) -/
def execPeerAccess (device handle offset : Nat) (write : Bool) (bytes : List Byte) (s : State) : Out :=
  let n := bytes.length
  let again : Outside := .peer device handle offset write bytes
  if n = 0 then .refused .notDue
  else match s.importOf device handle with
    | none => .next s
    | some (ctx, h) => match s.ctx? ctx with
      | none => .next s
      | some c => match entryAt s.mem c h with
        | none => .next s
        | some e0 => match s.objectBank ctx h offset n with
          | some b => .next (s.joinBank b (.outside again))
          | none =>
          let (s1, e1) := s.portEntry 0 ctx h e0.kind (if write then rW else rR) offset n
          match e1 with
          | none => .next s1
          | some e => match peerPlace s.mem e (if write then rW else rR) offset n with
            | .refused => .next s1
            | .waits p => .next (s1.joinEntry p (.outside again)).1
            | .at_ fs =>
              let s2 := if write then s1.putBytes ctx (fs.zip bytes) else s1
              .next (s2.watchReport 4 ctx h offset n 0 write)

/-- A step from outside taken again. -/
def runAgain (o : Outside) (s : State) : Out :=
  match o with
  | .host a bs => execHostMemWrite a bs s
  | .hostRead a n => execHostMemRead a n s
  | .peer d h o w bs => execPeerAccess d h o w bs s

/-! ### Rail ports (R439) -/

/-- The port that a request to a peer would take. -/
def State.portTaken (s : State) (a : Access) : Option Nat :=
  match s.ctx? a.ctx with
  | none => none
  | some c => match entryAt s.mem c a.handle with
    | none => none
    | some e => if e.kind = 5 then s.railPort (objFlat s.mem e ((a.pieces.map (·.off)).headD 0)) else none

/-- A request on its way to a home. -/
def Access.inFlight (a : Access) : Bool :=
  match a.stage with
  | .toPort | .toHome => true
  | .parked _ | .overflow _ | .bank _ _ | .forHead | .answered | .replay => false

/-- RAIL_PORT_DOWN (R439): the port's requests in flight answer as refusals, admitted stores of threads with them. -/
def execRailPortDown (port : Nat) (s : State) : Out :=
  if 12 ≤ port ∨ s.railDown.contains port then .refused .notDue
  else
    let hit := s.accs.filter fun (_, a) => a.inFlight && a.kind == 5 && s.portTaken a == some port
    let stores := s.posted.filter fun (_, p) => decide (peerBase ≤ p.flat) && s.railPort p.flat == some port
    let s1 := stores.foldl (fun s (n, p) => { s with posted := tdel s.posted n }.refusePosted p) (hit.foldl (fun s (n, a) => s.refuse n a 9 1 9) s)
    .next { s1 with railDown := insertNat s1.railDown port }

/-- RAIL_PORT_UP (R439). -/
def execRailPortUp (port : Nat) (s : State) : Out :=
  if s.railDown.contains port then .next { s with railDown := s.railDown.filter (· != port) } else .refused .notDue

/-! ### The event ring (R437, R466) -/

/-- Entries that the driver has not consumed, as far as the device knows. -/
def EvRing.used (r : EvRing) : Nat := (r.prod + 2 ^ 32 - r.cons) % 2 ^ 32

/-- A report is held and the ring has a place. -/
def State.ringWriteDue (s : State) : Bool :=
  !s.reports.isEmpty && match s.ring with
  | none => false
  | some r => decide (r.used < r.n)

/-- EVENT_RING_WRITE (R466 steps 1 to 4); a place of the stationmaster's store is free again. (DEDUCED: log 32) -/
def execEventRingWrite (s : State) : Out :=
  match s.ring, s.reports with
  | some r, ws :: rest =>
    if r.used < r.n then
      let p := (r.prod + 1) % 2 ^ 32
      let s1 := s.memWrite (hostBase + r.rbase + 64 * (r.prod % r.n)) (bytesOf ws)
      let s2 := s1.memWrite (hostBase + r.cbase + 8) (leBytes p 8)
      .next ({ s2 with ring := some { r with prod := p }, reports := rest }.raise 2).takeHeld
    else .refused .notDue
  | _, _ => .refused .notDue

/-- The ring is full for a report that is held. -/
def State.ringPollDue (s : State) : Bool :=
  !s.reports.isEmpty && match s.ring with
  | none => false
  | some r => decide (r.n ≤ r.used)

/-- EVENT_RING_POLL (R466). -/
def execEventRingPoll (s : State) : Out :=
  match s.ring with
  | none => .refused .notDue
  | some r =>
    if s.ringPollDue then .next { s with ring := some { r with cons := mnat s.mem (hostBase + r.cbase) 4 } } else .refused .notDue

/-! ### Refresh holds (R440) -/

/-- HBM5 stacks and capacity-tier channels. -/
def controllers : Nat := 56

/-- ACTIVATION_BACKOFF (R440): a bank whose refreshes are postponed to the limit is held; else its mitigation runs alone. (DESIGN CHOICE: log 16) -/
def execActivationBackoff (controller bank : Nat) (s : State) : Out :=
  if controllers ≤ controller then .refused .notDue
  else if Config.refreshLimit ≤ Config.refreshesPostponed s.tick ∧ !s.refresh.contains (controller, bank) then
    .next { s with refresh := (controller, bank) :: s.refresh }
  else .next s

/-- An access that came to its home before the refresh began, and that the refresh holds there. -/
def State.holdsAt (s : State) (b : Nat × Nat) (a : Access) : Bool := a.stage == .toHome && s.heldBank (a.flats.headD 0) == some b

/-- What stood at the bank when its refresh began: accesses at their homes, and admitted stores of threads, by number. (DESIGN CHOICE: log 16) -/
def State.bankBefore (s : State) (b : Nat × Nat) : Tab Waiter :=
  (s.posted.filter fun (n, p) => s.heldBank p.flat == some b && !s.inBank (.posted n)).foldl (fun t (n, _) => tset t n (.posted n))
    ((s.accs.filter fun (_, a) => s.holdsAt b a).map fun (n, _) => (n, .access n))

/-- REFRESH_HOLD_END (R440): what the bank's refresh held goes on: what stood there when it began, then what came since in order of
arrival. (DESIGN CHOICE: log 16; DEDUCED: log 66) -/
def execRefreshHoldEnd (controller bank : Nat) (s : State) : Out :=
  let b := (controller, bank)
  if !s.refresh.contains b then .refused .notDue
  else
    let before := (s.bankBefore b).map (·.2)
    let held := (s.bankQueue.filter fun (c, k, _) => (c, k) == b).map (·.2.2)
    .next { s with
      refresh := s.refresh.filter (· != b)
      bankQueue := s.bankQueue.filter fun (c, k, _) => (c, k) != b
      agenda := (before ++ held).map (.present bankRef) ++ s.agenda }

/-! ### Thermal control (R441, R442) -/

/-- The islands of a die. -/
def islandsOf (die : Nat) : List Nat := upTo (6 * die) 6

/-- One state lower; OFF stays. -/
def lowerIsland (st : Nat) : Nat := if st = 0 then 1 else if st = 1 then 2 else st

/-- The islands of a die lowered by one state. -/
def State.lowerDie (s : State) (die : Nat) : State :=
  { s with islands := (islandsOf die).foldl (fun l i => l.set i (lowerIsland ((l[i]?).getD 0))) s.islands }

/-- The lowest state among the islands of a die that run. -/
def State.dieState (s : State) (die : Nat) : Nat :=
  (islandsOf die).foldl (fun m i => let st := (s.islands[i]?).getD 0; if st = 3 then m else max m st) 0

/-- THERMAL (R467). -/
def State.reportThermal (s : State) (die temp : Nat) (all : Bool) : State :=
  s.report 10 0 [dw (die + temp % 256 * 2 ^ 8 + s.dieState die * 2 ^ 16 + if all then 2 ^ 31 else 0)]

/-- THERMAL_STEP (R442): above 105 degrees, and until below 100, a die's islands go one state lower. (DEDUCED: log 42) -/
def execThermalStep (die temperature : Nat) (s : State) : Out :=
  if 4 ≤ die then .refused .notDue
  else if 105 < temperature ∨ (s.hot.contains die ∧ 100 ≤ temperature) then
    let s1 := { s with hot := insertNat s.hot die }.lowerDie die
    .next (s1.reportThermal die temperature false)
  else if s.hot.contains die then .next { s with hot := s.hot.filter (· != die) }
  else .refused .notDue

/-- THERMAL_CRITICAL (R442): above 115 degrees every context is pre-empted and vector 3 raised. -/
def execThermalCritical (die temperature : Nat) (s : State) : Out :=
  if 4 ≤ die ∨ temperature ≤ 115 ∨ s.critical.contains die then .refused .notDue
  else
    let s1 := { s with critical := insertNat s.critical die, hot := insertNat s.hot die }
    .next (((s1.preemptAll allCores true).raise 3).reportThermal die temperature true)

/-- THERMAL_RECOVER (R442): below 95 degrees the contexts resume. -/
def execThermalRecover (die temperature : Nat) (s : State) : Out :=
  if s.critical.contains die ∧ temperature < 95 then
    .next { s with critical := s.critical.filter (· != die), hot := s.hot.filter (· != die) }.resumeHeld
  else .refused .notDue

end Sys2Proof.Machine
end

