-- ==== Sys2Proof/Machine/Scalar.lean ====
section
/-! DEFINITION. Scalar register and immediate operations (R269 to R273), on a group's uniform registers or a thread's. -/
namespace Sys2Proof.Machine

/-! ### The operations on 64-bit values (R121, R269, R270) -/

/-- Division by R121. -/
def divS64 (a b : DWord) : DWord := if b = 0 then BitVec.allOnes 64 else BitVec.ofInt 64 (Int.tdiv a.toInt b.toInt)
def divN64 (a b : DWord) : DWord := if b = 0 then BitVec.allOnes 64 else dw (a.toNat / b.toNat)
def remS64 (a b : DWord) : DWord := if b = 0 then a else BitVec.ofInt 64 (Int.tmod a.toInt b.toInt)
def remN64 (a b : DWord) : DWord := if b = 0 then a else dw (a.toNat % b.toNat)

/-- Leading zeros, trailing zeros and ones of the low n bits (R269). -/
def clzN (n v : Nat) : Nat := n - bitLen (v % 2 ^ n)
def popN (n v : Nat) : Nat := ((List.range n).filter fun i => v / 2 ^ i % 2 = 1).length
def ctzN (n v : Nat) : Nat := ((List.range n).takeWhile fun i => v / 2 ^ i % 2 = 0).length

/-- The position and length of a bit field, its end cut at the width (R270). -/
def fieldOf (width pos len : Nat) : Nat × Nat := (pos, if width < pos + len then width - pos else len)

/-- The field of an n-bit value, zero- or sign-extended (R270). -/
def bfx (signed : Bool) (width v pos len : Nat) : Int :=
  let (p, l) := fieldOf width pos len
  if l = 0 then 0
  else if signed then sval l (v / 2 ^ p) else ((v / 2 ^ p % 2 ^ l : Nat) : Int)

/-- A value with a field replaced (R270). -/
def bfi (width v pos len x : Nat) : Nat :=
  let (p, l) := fieldOf width pos len
  v / 2 ^ (p + l) * 2 ^ (p + l) + x % 2 ^ l * 2 ^ p + v % 2 ^ p

/-- The control operand of the 64-bit field forms: pos [5:0], len [14:8] (R270). -/
def ctlPos (c : DWord) : Nat := fld c.toNat 5 0
def ctlLen (c : DWord) : Nat := fld c.toNat 14 8

/-- A truth value as a register holds it. -/
def bit (b : Bool) : DWord := if b then 1 else 0

def shl64 (a b : DWord) : DWord := a <<< fld b.toNat 5 0
def shr64 (a b : DWord) : DWord := a >>> fld b.toNat 5 0
def sra64 (a b : DWord) : DWord := a.sshiftRight (fld b.toNat 5 0)

/-- A register operation on two operands. -/
def binScalar (s : State) (d a b : BitVec 5) (f : DWord → DWord → DWord) : Out :=
  scalarWord s false false d fun _ r => f (r a) (r b)

/-- A register operation on one operand. -/
def unScalar (s : State) (d a : BitVec 5) (f : DWord → DWord) : Out := scalarWord s false false d fun _ r => f (r a)

/-- An operation with a 12-bit immediate, which a `hix` widens to 37 bits (R272). -/
def immScalar (s : State) (d a : BitVec 5) (i : BitVec 12) (f : DWord → DWord → DWord) : Out :=
  scalarWord s true false d fun h r => f (r a) (BitVec.ofInt 64 (immS h 12 i.toNat))

/-- A shift by an immediate that must lie in 0 to 63 (R272). -/
def shiftScalar (s : State) (d a : BitVec 5) (i : BitVec 12) (f : DWord → DWord → DWord) : Out :=
  let n := immS (match s.cur.who with
    | .group _ => s.cur.hix
    | .none | .thread _ => none) 12 i.toNat
  scalarWord s true (decide (n < 0 ∨ 63 < n)) d fun _ r => f (r a) (BitVec.ofInt 64 n)

/-! ### The instructions -/

def execAdd (d a b : BitVec 5) (s : State) : Out := binScalar s d a b (· + ·)
def execSub (d a b : BitVec 5) (s : State) : Out := binScalar s d a b (· - ·)
def execMul (d a b : BitVec 5) (s : State) : Out := binScalar s d a b (· * ·)
def execMulhS (d a b : BitVec 5) (s : State) : Out :=
  binScalar s d a b fun x y => BitVec.ofInt 64 (x.toInt * y.toInt / ((2 ^ 64 : Nat) : Int))
def execMulhN (d a b : BitVec 5) (s : State) : Out := binScalar s d a b fun x y => dw (x.toNat * y.toNat / 2 ^ 64)
def execDivS (d a b : BitVec 5) (s : State) : Out := binScalar s d a b divS64
def execDivN (d a b : BitVec 5) (s : State) : Out := binScalar s d a b divN64
def execRemS (d a b : BitVec 5) (s : State) : Out := binScalar s d a b remS64
def execRemN (d a b : BitVec 5) (s : State) : Out := binScalar s d a b remN64
def execAnd (d a b : BitVec 5) (s : State) : Out := binScalar s d a b (· &&& ·)
def execOr (d a b : BitVec 5) (s : State) : Out := binScalar s d a b (· ||| ·)
def execXor (d a b : BitVec 5) (s : State) : Out := binScalar s d a b (· ^^^ ·)
def execShl (d a b : BitVec 5) (s : State) : Out := binScalar s d a b shl64
def execShr (d a b : BitVec 5) (s : State) : Out := binScalar s d a b shr64
def execSra (d a b : BitVec 5) (s : State) : Out := binScalar s d a b sra64
def execMinS (d a b : BitVec 5) (s : State) : Out := binScalar s d a b fun x y => if x.slt y then x else y
def execMaxS (d a b : BitVec 5) (s : State) : Out := binScalar s d a b fun x y => if x.slt y then y else x
def execMinN (d a b : BitVec 5) (s : State) : Out := binScalar s d a b fun x y => if x.ult y then x else y
def execMaxN (d a b : BitVec 5) (s : State) : Out := binScalar s d a b fun x y => if x.ult y then y else x
def execSltS (d a b : BitVec 5) (s : State) : Out := binScalar s d a b fun x y => bit (x.slt y)
def execSltN (d a b : BitVec 5) (s : State) : Out := binScalar s d a b fun x y => bit (x.ult y)
def execSeq (d a b : BitVec 5) (s : State) : Out := binScalar s d a b fun x y => bit (x == y)
def execBfxS (d a b : BitVec 5) (s : State) : Out :=
  binScalar s d a b fun x c => BitVec.ofInt 64 (bfx true 64 x.toNat (ctlPos c) (ctlLen c))
def execBfxN (d a b : BitVec 5) (s : State) : Out :=
  binScalar s d a b fun x c => BitVec.ofInt 64 (bfx false 64 x.toNat (ctlPos c) (ctlLen c))

/-- `bfi` reads sd; its control operand is sa (R270). -/
def execBfi (d a b : BitVec 5) (s : State) : Out :=
  scalarWord s false false d fun _ r => dw (bfi 64 (r d).toNat (ctlPos (r a)) (ctlLen (r a)) (r b).toNat)

def execClz (d a : BitVec 5) (s : State) : Out := unScalar s d a fun x => dw (clzN 64 x.toNat)
def execCtz (d a : BitVec 5) (s : State) : Out := unScalar s d a fun x => dw (ctzN 64 x.toNat)
def execPopc (d a : BitVec 5) (s : State) : Out := unScalar s d a fun x => dw (popN 64 x.toNat)

def execAddi (d a : BitVec 5) (i : BitVec 12) (s : State) : Out := immScalar s d a i (· + ·)
def execAndi (d a : BitVec 5) (i : BitVec 12) (s : State) : Out := immScalar s d a i (· &&& ·)
def execOri (d a : BitVec 5) (i : BitVec 12) (s : State) : Out := immScalar s d a i (· ||| ·)
def execXori (d a : BitVec 5) (i : BitVec 12) (s : State) : Out := immScalar s d a i (· ^^^ ·)
def execSltiS (d a : BitVec 5) (i : BitVec 12) (s : State) : Out := immScalar s d a i fun x y => bit (x.slt y)
def execShli (d a : BitVec 5) (i : BitVec 12) (s : State) : Out := shiftScalar s d a i shl64
def execShri (d a : BitVec 5) (i : BitVec 12) (s : State) : Out := shiftScalar s d a i shr64
def execSrai (d a : BitVec 5) (i : BitVec 12) (s : State) : Out := shiftScalar s d a i sra64

/-- `luh`: the immediate above 12 zero bits; with a `hix` a 45-bit immediate (R260, R273). -/
def execLuh (d : BitVec 5) (i : BitVec 20) (s : State) : Out :=
  scalarWord s true false d fun h _ => dw (immU h 20 i.toNat * 2 ^ 12)

end Sys2Proof.Machine
end

