-- ==== Sys2Proof/Machine/VectorInt.lean ====
section
/-! DEFINITION. Vector integer operations (R296 to R298), lane by lane. -/
namespace Sys2Proof.Machine

/-! ### The operations on 32-bit elements -/

/-- The low five bits of a shift operand (R296). -/
def sh5 (b : Word) : Nat := fld b.toNat 4 0

def shl32 (a b : Word) : Word := a <<< sh5 b
def shr32 (a b : Word) : Word := a >>> sh5 b
def sra32 (a b : Word) : Word := a.sshiftRight (sh5 b)

/-- A word from an exact integer (R7). -/
def w32 (x : Int) : Word := BitVec.ofInt 32 x

/-- The four bytes of an element, signed or unsigned. -/
def byteOf (signed : Bool) (x : Word) (i : Nat) : Int :=
  let b := fld x.toNat (8 * i + 7) (8 * i)
  if signed then sval 8 b else (b : Int)

/-- dot4 (R296). -/
def dot4 (signed : Bool) (d a b : Word) : Word :=
  w32 ((d.toNat : Int) + byteOf signed a 0 * byteOf signed b 0 + byteOf signed a 1 * byteOf signed b 1
    + byteOf signed a 2 * byteOf signed b 2 + byteOf signed a 3 * byteOf signed b 3)

/-- The bits of an element reversed (R296). -/
def brev32 (x : Word) : Word := x.reverse

/-- The control operand of the 32-bit field forms: pos [4:0], len [13:8] (R297). -/
def vPos (b : Word) : Nat := fld b.toNat 4 0
def vLen (b : Word) : Nat := fld b.toNat 13 8

/-! ### Operand shapes -/

/-- vd ← f(va, vb). -/
def binVec (s : State) (d a b : BitVec 7) (f : Word → Word → Word) : Out :=
  laneWord s false (fun gr => [v1 gr [d, a, b]]) fun l => l.wr d.toNat (f (l.rd a.toNat) (l.rd b.toNat))

/-- vd ← f(va). -/
def unVec (s : State) (d a : BitVec 7) (f : Word → Word) : Out :=
  laneWord s false (fun gr => [v1 gr [d, a]]) fun l => l.wr d.toNat (f (l.rd a.toNat))

/-- vd ← f(vd, va, vb): the forms that read vd. -/
def triVec (s : State) (d a b : BitVec 7) (f : Word → Word → Word → Word) : Out :=
  laneWord s false (fun gr => [v1 gr [d, a, b]]) fun l =>
    l.wr d.toNat (f (l.rd d.toNat) (l.rd a.toNat) (l.rd b.toNat))

/-- Pair vd ← f(pair va, pair vb). -/
def pairVec (s : State) (d a b : BitVec 7) (f : Nat → Nat → Nat) : Out :=
  laneWord s false (fun gr => [(!(vOk gr d.toNat 2 && vOk gr a.toNat 2 && vOk gr b.toNat 2), 5)]) fun l =>
    l.wr64 d.toNat (f (l.rd64 a.toNat) (l.rd64 b.toNat))

/-- Pair vd ← f(va, vb). -/
def wideVec (s : State) (d a b : BitVec 7) (f : Word → Word → Nat) : Out :=
  laneWord s false (fun gr => [(!(vOk gr d.toNat 2 && vOk gr a.toNat 1 && vOk gr b.toNat 1), 5)]) fun l =>
    l.wr64 d.toNat (f (l.rd a.toNat) (l.rd b.toNat))

/-- vd ← f(va, i), the immediate widened by a `hix` (R298). -/
def immVec (s : State) (d a : BitVec 7) (i : BitVec 8) (f : Word → Word → Word) : Out :=
  laneWord s true (fun gr => [v1 gr [d, a]]) fun l => l.wr d.toNat (f (l.rd a.toNat) (immW s.cur.hix 8 i.toNat))

/-- A shift by an immediate that must lie in 0 to 31 (R298). -/
def shiftVec (s : State) (d a : BitVec 7) (i : BitVec 8) (f : Word → Word → Word) : Out :=
  let n := immW s.cur.hix 8 i.toNat
  laneWord s true (fun gr => [(decide (31 < n.toNat), 3), v1 gr [d, a]]) fun l => l.wr d.toNat (f (l.rd a.toNat) n)

/-! ### The instructions -/

def execAddV (d a b : BitVec 7) (s : State) : Out := binVec s d a b (· + ·)
def execSubV (d a b : BitVec 7) (s : State) : Out := binVec s d a b (· - ·)
def execMulV (d a b : BitVec 7) (s : State) : Out := binVec s d a b (· * ·)
def execMulhSV (d a b : BitVec 7) (s : State) : Out :=
  binVec s d a b fun x y => w32 (x.toInt * y.toInt / ((2 ^ 32 : Nat) : Int))
def execMulhNV (d a b : BitVec 7) (s : State) : Out :=
  binVec s d a b fun x y => BitVec.ofNat 32 (x.toNat * y.toNat / 2 ^ 32)
def execAndV (d a b : BitVec 7) (s : State) : Out := binVec s d a b (· &&& ·)
def execOrV (d a b : BitVec 7) (s : State) : Out := binVec s d a b (· ||| ·)
def execXorV (d a b : BitVec 7) (s : State) : Out := binVec s d a b (· ^^^ ·)
def execShlV (d a b : BitVec 7) (s : State) : Out := binVec s d a b shl32
def execShrV (d a b : BitVec 7) (s : State) : Out := binVec s d a b shr32
def execSraV (d a b : BitVec 7) (s : State) : Out := binVec s d a b sra32
def execMinSV (d a b : BitVec 7) (s : State) : Out := binVec s d a b fun x y => if x.slt y then x else y
def execMaxSV (d a b : BitVec 7) (s : State) : Out := binVec s d a b fun x y => if x.slt y then y else x
def execMinNV (d a b : BitVec 7) (s : State) : Out := binVec s d a b fun x y => if x.ult y then x else y
def execMaxNV (d a b : BitVec 7) (s : State) : Out := binVec s d a b fun x y => if x.ult y then y else x
def execAbsd (d a b : BitVec 7) (s : State) : Out := binVec s d a b fun x y => BitVec.ofNat 32 (x.toInt - y.toInt).natAbs
def execAddsS (d a b : BitVec 7) (s : State) : Out := binVec s d a b fun x y => w32 (clampInt true 32 (x.toInt + y.toInt))
def execAddsN (d a b : BitVec 7) (s : State) : Out :=
  binVec s d a b fun x y => w32 (clampInt false 32 ((x.toNat : Int) + y.toNat))
def execSubsS (d a b : BitVec 7) (s : State) : Out := binVec s d a b fun x y => w32 (clampInt true 32 (x.toInt - y.toInt))
def execSubsN (d a b : BitVec 7) (s : State) : Out :=
  binVec s d a b fun x y => w32 (clampInt false 32 ((x.toNat : Int) - y.toNat))
def execAvgN (d a b : BitVec 7) (s : State) : Out :=
  binVec s d a b fun x y => BitVec.ofNat 32 ((x.toNat + y.toNat + 1) / 2)
def execClzV (d a : BitVec 7) (s : State) : Out := unVec s d a fun x => BitVec.ofNat 32 (clzN 32 x.toNat)
def execPopcV (d a : BitVec 7) (s : State) : Out := unVec s d a fun x => BitVec.ofNat 32 (popN 32 x.toNat)
def execBrev (d a : BitVec 7) (s : State) : Out := unVec s d a brev32
def execAdd64 (d a b : BitVec 7) (s : State) : Out := pairVec s d a b fun x y => (x + y) % 2 ^ 64
def execSub64 (d a b : BitVec 7) (s : State) : Out := pairVec s d a b fun x y => (x + (2 ^ 64 - y)) % 2 ^ 64
def execMulwS (d a b : BitVec 7) (s : State) : Out := wideVec s d a b fun x y => cutInt 64 (x.toInt * y.toInt)
def execMulwN (d a b : BitVec 7) (s : State) : Out := wideVec s d a b fun x y => x.toNat * y.toNat
def execDot4S8 (d a b : BitVec 7) (s : State) : Out := triVec s d a b (dot4 true)
def execDot4N8 (d a b : BitVec 7) (s : State) : Out := triVec s d a b (dot4 false)

/-- `bfx`: sign-extended when vb[15] is set (R297). -/
def execBfxV (d a b : BitVec 7) (s : State) : Out :=
  binVec s d a b fun x c => w32 (bfx (c.getLsbD 15) 32 x.toNat (vPos c) (vLen c))

/-- `bfi` reads vd (R297). -/
def execBfiV (d a b : BitVec 7) (s : State) : Out :=
  triVec s d a b fun v x c => BitVec.ofNat 32 (bfi 32 v.toNat (vPos c) (vLen c) x.toNat)

def execAddiV (d a : BitVec 7) (i : BitVec 8) (s : State) : Out := immVec s d a i (· + ·)
def execAndiV (d a : BitVec 7) (i : BitVec 8) (s : State) : Out := immVec s d a i (· &&& ·)
def execOriV (d a : BitVec 7) (i : BitVec 8) (s : State) : Out := immVec s d a i (· ||| ·)
def execXoriV (d a : BitVec 7) (i : BitVec 8) (s : State) : Out := immVec s d a i (· ^^^ ·)
def execShliV (d a : BitVec 7) (i : BitVec 8) (s : State) : Out := shiftVec s d a i shl32
def execShriV (d a : BitVec 7) (i : BitVec 8) (s : State) : Out := shiftVec s d a i shr32
def execSraiV (d a : BitVec 7) (i : BitVec 8) (s : State) : Out := shiftVec s d a i sra32
def execMuli (d a : BitVec 7) (i : BitVec 8) (s : State) : Out := immVec s d a i (· * ·)

end Sys2Proof.Machine
end

