-- ==== Sys2Proof/Machine/VectorFloat.lean ====
section
/-! DEFINITION. Vector floating point: arithmetic, fused multiply-add, unary operations, conversions and compares
(R299 to R308), each lane under its own FMODE (R294). -/
namespace Sys2Proof.Machine

/-- The mode of a lane. -/
def Lane.mode (l : Lane) : Mode := modeOf l.fmode

/-- One operand's elements, each computed on its own (R125). -/
def map1 (t : FTy) (f : Fmt → Nat → Nat) (x : Word) : Word :=
  match t with
  | .f32 => BitVec.ofNat 32 (f .f32 x.toNat)
  | .h2 => pair (f .f16 (half x 0)) (f .f16 (half x 1))
  | .b2 => pair (f .bf16 (half x 0)) (f .bf16 (half x 1))

def map2 (t : FTy) (f : Fmt → Nat → Nat → Nat) (x y : Word) : Word :=
  match t with
  | .f32 => BitVec.ofNat 32 (f .f32 x.toNat y.toNat)
  | .h2 => pair (f .f16 (half x 0) (half y 0)) (f .f16 (half x 1) (half y 1))
  | .b2 => pair (f .bf16 (half x 0) (half y 0)) (f .bf16 (half x 1) (half y 1))

def map3 (t : FTy) (f : Fmt → Nat → Nat → Nat → Nat) (x y z : Word) : Word :=
  match t with
  | .f32 => BitVec.ofNat 32 (f .f32 x.toNat y.toNat z.toNat)
  | .h2 => pair (f .f16 (half x 0) (half y 0) (half z 0)) (f .f16 (half x 1) (half y 1) (half z 1))
  | .b2 => pair (f .bf16 (half x 0) (half y 0) (half z 0)) (f .bf16 (half x 1) (half y 1) (half z 1))

/-- vd ← f(mode, va, vb). -/
def binFloat (s : State) (d a b : BitVec 7) (t : FTy) (f : Fmt → Mode → Nat → Nat → Nat) : Out :=
  laneWord s false (fun gr => [v1 gr [d, a, b]]) fun l =>
    l.wr d.toNat (map2 t (fun fm => f fm l.mode) (l.rd a.toNat) (l.rd b.toNat))

/-- vd ← f(mode, va, vb, vd). -/
def fusedFloat (s : State) (d a b : BitVec 7) (t : FTy) (f : Fmt → Mode → Nat → Nat → Nat → Nat) : Out :=
  laneWord s false (fun gr => [v1 gr [d, a, b]]) fun l =>
    l.wr d.toNat (map3 t (fun fm => f fm l.mode) (l.rd a.toNat) (l.rd b.toNat) (l.rd d.toNat))

/-- The widening form: vd as F32 (R302). -/
def wideFloat (s : State) (d a b : BitVec 7) (src : Fmt) : Out :=
  laneWord s false (fun gr => [v1 gr [d, a, b]]) fun l =>
    l.wr d.toNat (BitVec.ofNat 32 (ffmawE src l.mode (l.rd a.toNat).toNat (l.rd b.toNat).toNat (l.rd d.toNat).toNat))

/-- vd ← f(mode, va). -/
def unFloat (s : State) (d a : BitVec 7) (t : FTy) (f : Fmt → Mode → Nat → Nat) : Out :=
  laneWord s false (fun gr => [v1 gr [d, a]]) fun l => l.wr d.toNat (map1 t (fun fm => f fm l.mode) (l.rd a.toNat))

/-! ### The instructions -/

def execFaddF32 (d a b : BitVec 7) (s : State) : Out := binFloat s d a b .f32 faddE
def execFaddH2 (d a b : BitVec 7) (s : State) : Out := binFloat s d a b .h2 faddE
def execFaddB2 (d a b : BitVec 7) (s : State) : Out := binFloat s d a b .b2 faddE
def execFsubF32 (d a b : BitVec 7) (s : State) : Out := binFloat s d a b .f32 fsubE
def execFsubH2 (d a b : BitVec 7) (s : State) : Out := binFloat s d a b .h2 fsubE
def execFsubB2 (d a b : BitVec 7) (s : State) : Out := binFloat s d a b .b2 fsubE
def execFmulF32 (d a b : BitVec 7) (s : State) : Out := binFloat s d a b .f32 fmulE
def execFmulH2 (d a b : BitVec 7) (s : State) : Out := binFloat s d a b .h2 fmulE
def execFmulB2 (d a b : BitVec 7) (s : State) : Out := binFloat s d a b .b2 fmulE
def execFminF32 (d a b : BitVec 7) (s : State) : Out := binFloat s d a b .f32 fminE
def execFminH2 (d a b : BitVec 7) (s : State) : Out := binFloat s d a b .h2 fminE
def execFminB2 (d a b : BitVec 7) (s : State) : Out := binFloat s d a b .b2 fminE
def execFmaxF32 (d a b : BitVec 7) (s : State) : Out := binFloat s d a b .f32 fmaxE
def execFmaxH2 (d a b : BitVec 7) (s : State) : Out := binFloat s d a b .h2 fmaxE
def execFmaxB2 (d a b : BitVec 7) (s : State) : Out := binFloat s d a b .b2 fmaxE
def execFfmaF32 (d a b : BitVec 7) (s : State) : Out := fusedFloat s d a b .f32 (ffmaE false false)
def execFfmaH2 (d a b : BitVec 7) (s : State) : Out := fusedFloat s d a b .h2 (ffmaE false false)
def execFfmaB2 (d a b : BitVec 7) (s : State) : Out := fusedFloat s d a b .b2 (ffmaE false false)
def execFfmsF32 (d a b : BitVec 7) (s : State) : Out := fusedFloat s d a b .f32 (ffmaE false true)
def execFfmsH2 (d a b : BitVec 7) (s : State) : Out := fusedFloat s d a b .h2 (ffmaE false true)
def execFfmsB2 (d a b : BitVec 7) (s : State) : Out := fusedFloat s d a b .b2 (ffmaE false true)
def execFnmaF32 (d a b : BitVec 7) (s : State) : Out := fusedFloat s d a b .f32 (ffmaE true false)
def execFnmaH2 (d a b : BitVec 7) (s : State) : Out := fusedFloat s d a b .h2 (ffmaE true false)
def execFnmaB2 (d a b : BitVec 7) (s : State) : Out := fusedFloat s d a b .b2 (ffmaE true false)
def execFfmawH (d a b : BitVec 7) (s : State) : Out := wideFloat s d a b .f16
def execFfmawB (d a b : BitVec 7) (s : State) : Out := wideFloat s d a b .bf16
def execFrcp (d a : BitVec 7) (t : FTy) (s : State) : Out := unFloat s d a t (unaryE .rcp)
def execFrsqrt (d a : BitVec 7) (t : FTy) (s : State) : Out := unFloat s d a t (unaryE .rsqrt)
def execFsqrt (d a : BitVec 7) (t : FTy) (s : State) : Out := unFloat s d a t (unaryE .sqrt)
def execFex2 (d a : BitVec 7) (t : FTy) (s : State) : Out := unFloat s d a t (unaryE .ex2)
def execFlg2 (d a : BitVec 7) (t : FTy) (s : State) : Out := unFloat s d a t (unaryE .lg2)
def execFsinp (d a : BitVec 7) (t : FTy) (s : State) : Out := unFloat s d a t (unaryE .sinp)
def execFcosp (d a : BitVec 7) (t : FTy) (s : State) : Out := unFloat s d a t (unaryE .cosp)
def execFtanh (d a : BitVec 7) (t : FTy) (s : State) : Out := unFloat s d a t (unaryE .tanh)
def execFfrac (d a : BitVec 7) (t : FTy) (s : State) : Out := unFloat s d a t (unaryE .frac)
def execFclass (d a : BitVec 7) (t : FTy) (s : State) : Out := unFloat s d a t fclassE

/-! ### Conversions (R305 to R307) -/

/-- Registers that a value of a type takes (R247). -/
def regsOf : TyCode → Nat
  | .s64 | .n64 => 2
  | .s8 | .s16 | .s32 | .n8 | .n16 | .n32 | .f32 | .f16 | .bf16 | .b32 => 1

/-- A result code as a whole element: signed types are sign-extended (R293). -/
def extended (t : TyCode) (v : Nat) : Nat :=
  match t with
  | .s8 => cutInt 32 (sval 8 v)
  | .s16 => cutInt 32 (sval 16 v)
  | .s32 | .s64 | .n8 | .n16 | .n32 | .n64 | .f32 | .f16 | .bf16 | .b32 => v

/-- `cvt` (R305): 64-bit types name even pairs. -/
def execCvt (d a : BitVec 7) (y z : TyCode) (s : State) : Out :=
  laneWord s false (fun gr => [(!(vOk gr d.toNat (regsOf y) && vOk gr a.toNat (regsOf z)), 5)]) fun l =>
    let v := extended y (convert (numTy y) (numTy z) l.mode (l.rdN a.toNat (regsOf z)))
    l.wrN d.toNat v (regsOf y)

/-- The descriptor in sb[31:0] of a `cvtmf` is a legal MF or MFS descriptor (R306). -/
def mfDescOk (v : DWord) : Bool :=
  let n := fld v.toNat 31 0
  descLegal n && ((descOf n).fmt == 9 || (descOf n).fmt == 10)

/-- A `cvtmf` under its descriptor; an illegal one is refused whatever the active set (R31, R306). -/
def mfWord (s : State) (d a : BitVec 7) (b : BitVec 5) (f : Desc → Mode → Nat → Nat) : Out :=
  actWord s false (fun gr => [(!mfDescOk (gr.rs b.toNat), 3), v1 gr [d, a]]) anyRole fun g gr =>
    let desc := descOf (fld (gr.rs b.toNat).toNat 31 0)
    s.modGroup g fun gr => gr.onLanes s.cur.act fun _ l =>
      l.wr d.toNat (BitVec.ofNat 32 (f desc l.mode (l.rd a.toNat).toNat))

def execCvtmfE (d a : BitVec 7) (b : BitVec 5) (s : State) : Out :=
  mfWord s d a b fun desc md x => encodeMF desc md.rm md.sat (readF .f32 md x)

def execCvtmfD (d a : BitVec 7) (b : BitVec 5) (s : State) : Out := mfWord s d a b mfToF32

/-- The 16-bit format of `pk2` and `upk`. -/
def pairFmt : Pair → Fmt
  | .h2 => .f16
  | .b2 => .bf16

/-- `pk2`: va to element 0, vb to element 1, each narrowed by R141 (R307). -/
def execPk2 (d a b : BitVec 7) (t : Pair) (s : State) : Out :=
  laneWord s false (fun gr => [v1 gr [d, a, b]]) fun l =>
    let nar := fun (x : Word) => convert (.flt (pairFmt t)) (.flt .f32) l.mode x.toNat
    l.wr d.toNat (pair (nar (l.rd a.toNat)) (nar (l.rd b.toNat)))

/-- `upk`: element h of va widened to F32 (R307). -/
def execUpk (d a : BitVec 7) (h : Bool) (t : Pair) (s : State) : Out :=
  laneWord s false (fun gr => [v1 gr [d, a]]) fun l =>
    l.wr d.toNat (BitVec.ofNat 32 (convert (.flt .f32) (.flt (pairFmt t)) l.mode (half (l.rd a.toNat) (if h then 1 else 0))))

/-! ### Compare and class test (R248, R308) -/

/-- An exact integer comparison; the unordered conditions have no integer form. -/
def icmp (c : CmpCond) (a b : Int) : Bool :=
  match c with
  | .eq => decide (a = b)
  | .ne => decide (a ≠ b)
  | .lt => decide (a < b)
  | .le => decide (a ≤ b)
  | .gt => decide (b < a)
  | .ge => decide (b ≤ a)
  | .uno => false
  | .ord => true

/-- The truth of va cond vb as type ty (R308). -/
def cmpVal (c : CmpCond) (t : TyCode) (md : Mode) (a b : Nat) : Bool :=
  match numTy t with
  | .int true n => icmp c (sval n a) (sval n b)
  | .int false n => icmp c ((a % 2 ^ n : Nat) : Int) ((b % 2 ^ n : Nat) : Int)
  | .flt f => fcmp c (readF f md (a % 2 ^ f.width)) (readF f md (b % 2 ^ f.width))

def execCmp (p : BitVec 3) (c : CmpCond) (a b : BitVec 7) (t : TyCode) (s : State) : Out :=
  laneWord s false (fun gr => [(!(vOk gr a.toNat (regsOf t) && vOk gr b.toNat (regsOf t)), 5)]) fun l =>
    l.setPred p (cmpVal c t l.mode (l.rdN a.toNat (regsOf t)) (l.rdN b.toNat (regsOf t)))

/-- The format of a float type code; `ftst` admits no other (R248). -/
def typeFmt : TyCode → Fmt
  | .f16 => .f16
  | .bf16 => .bf16
  | .s8 | .s16 | .s32 | .s64 | .n8 | .n16 | .n32 | .n64 | .f32 | .b32 => .f32

/-- `ftst`: whether va's class bit is set in vb[9:0] (R308). -/
def execFtst (p : BitVec 3) (a b : BitVec 7) (t : TyCode) (s : State) : Out :=
  laneWord s false (fun gr => [v1 gr [a, b]]) fun l =>
    l.setPred p (fld (l.rd b.toNat).toNat 9 0 &&& fclassE (typeFmt t) l.mode ((l.rd a.toNat).toNat % 2 ^ (typeFmt t).width) != 0)

end Sys2Proof.Machine
end

