-- ==== Sys2Proof/Machine/Lanes.lean ====
section
/-! DEFINITION. Select and predicate logic (R309), lane exchange, ballots, reductions and scan (R310 to R315), moves and
lane access (R316, R317). Every source of another lane is read from the group as it stood before the word (R30). -/
namespace Sys2Proof.Machine

/-- `sel`: va where pN xor inv is true, else vb (R249). -/
def execSel (d a b : BitVec 7) (p : BitVec 3) (i : Bool) (s : State) : Out :=
  laneWord s false (fun gr => [v1 gr [d, a, b]]) fun l =>
    l.wr d.toNat (if l.pred p != i then l.rd a.toNat else l.rd b.toNat)

/-- `plog`: pd ← tt[2 pa + pb] (R249). -/
def execPlog (d : BitVec 3) (t : BitVec 4) (a b : BitVec 3) (s : State) : Out :=
  laneWord s false (fun _ => []) fun l =>
    l.setPred d (t.getLsbD ((if l.pred a then 2 else 0) + (if l.pred b then 1 else 0)))

/-! ### Shuffles (R311) -/

/-- A word that writes vd in the lanes of ACT from the whole group as it stood before. -/
def exchange (s : State) (checks : Group → List (Bool × Nat)) (f : Group → Nat → Lane → Lane) : Out :=
  actWord s false checks anyRole fun g gr => s.modGroup g fun gr' => gr'.onLanes s.cur.act fun i l => f gr i l

/-- The value of va at source lane j, or of the lane itself when there is no lane j. -/
def fromLane (gr : Group) (l : Lane) (a : BitVec 7) (j : Int) : Word :=
  if 0 ≤ j ∧ j < gr.lanes.length then (gr.lane j.toNat).rd a.toNat else l.rd a.toNat

/-- A shuffle whose source lane is a function of the lane's number and of vb. -/
def shuffle (s : State) (d a b : BitVec 7) (src : Nat → Nat → Int) : Out :=
  exchange s (fun gr => [v1 gr [d, a, b]]) fun gr i l =>
    l.wr d.toNat (fromLane gr l a (src i (l.rd b.toNat).toNat))

def execShflIdx (d a b : BitVec 7) (s : State) : Out := shuffle s d a b fun _ x => (x : Int)
def execShflUp (d a b : BitVec 7) (s : State) : Out := shuffle s d a b fun i x => (i : Int) - x
def execShflDn (d a b : BitVec 7) (s : State) : Out := shuffle s d a b fun i x => (i : Int) + x
def execShflXor (d a b : BitVec 7) (s : State) : Out := shuffle s d a b fun i x => ((i ^^^ x : Nat) : Int)

/-- `bcast`: the source lane is vb of the lowest lane of ACT. -/
def execBcast (d a b : BitVec 7) (s : State) : Out :=
  exchange s (fun gr => [v1 gr [d, a, b]]) fun gr _ l =>
    l.wr d.toNat (fromLane gr l a ((gr.lane (s.cur.act.headD 0)).rd b.toNat).toNat)

/-! ### Ballot, rank and count (R312) -/

/-- The lanes of ACT with pa true. -/
def trueLanes (gr : Group) (act : List Nat) (p : BitVec 3) : List Nat := act.filter fun i => (gr.lane i).pred p

def execBallot (d : BitVec 7) (p : BitVec 3) (s : State) : Out :=
  exchange s (fun gr => [v1 gr [d]]) fun gr i l =>
    l.wr d.toNat (BitVec.ofNat 32 (maskWord (trueLanes gr s.cur.act p) (i / 32)))
def execVrank (d : BitVec 7) (p : BitVec 3) (s : State) : Out :=
  exchange s (fun gr => [v1 gr [d]]) fun gr i l =>
    l.wr d.toNat (BitVec.ofNat 32 ((trueLanes gr s.cur.act p).filter (· < i)).length)
def execVcount (d : BitVec 7) (p : BitVec 3) (s : State) : Out :=
  exchange s (fun gr => [v1 gr [d]]) fun gr _ l => l.wr d.toNat (BitVec.ofNat 32 (trueLanes gr s.cur.act p).length)
def execVany (d p : BitVec 3) (s : State) : Out :=
  exchange s (fun _ => []) fun gr _ l => l.setPred d (!(trueLanes gr s.cur.act p).isEmpty)
def execVall (d p : BitVec 3) (s : State) : Out :=
  exchange s (fun _ => []) fun gr _ l => l.setPred d ((trueLanes gr s.cur.act p).length == s.cur.act.length)

/-! ### Reductions and scan (R313 to R315) -/

/-- The fields that must agree: RM, DAZ, FTZ, NANP, MINX (R315). -/
def foldModes (gr : Group) (act : List Nat) : Bool :=
  match act with
  | [] => true
  | i :: r => r.all fun j => (gr.lane j).fmode &&& 0xDF == (gr.lane i).fmode &&& 0xDF

/-- The running values of the fold, one for each lane of ACT (R313). -/
def foldFrom (op : Nat → Nat → Nat) (x : Nat) : List Nat → List Nat
  | [] => [x]
  | y :: r => x :: foldFrom op (op x y) r

/-- The running values over va in lane order; for .f32 the first is read under DAZ, a signalling NaN quieted as R139 states (R120).
(DEDUCED: log 95) -/
def running (t : TyCode) (md : Mode) (op : Nat → Nat → Nat) (xs : List Nat) : List Nat :=
  match xs with
  | [] => []
  | x :: r => foldFrom op (if t.isFloat then returned .f32 md x else x) r

/-- A reduction or scan: float modes must agree, or the word traps FMTMIX (R315). -/
def foldWord (s : State) (d a : BitVec 7) (t : TyCode) (scan : Bool) (op : Mode → Nat → Nat → Nat) : Out :=
  actWord s false (fun gr => [v1 gr [d, a]]) anyRole fun g gr =>
    if t.isFloat && !foldModes gr s.cur.act then s.trapNow g 5 s.cur.act 0 0 0
    else
      let md := (gr.lane (s.cur.act.headD 0)).mode
      let xs := running t md (op md) (s.cur.act.map fun i => ((gr.lane i).rd a.toNat).toNat)
      s.modGroup g fun gr' => gr'.onLanes s.cur.act fun i l =>
        l.wr d.toNat (BitVec.ofNat 32 (if scan then (xs[s.cur.act.idxOf i]?).getD 0 else xs.getLastD 0))

/-- The folds' operations by type (R313). -/
def foldAdd (t : TyCode) (md : Mode) (x y : Nat) : Nat := if t.isFloat then faddE .f32 md x y else (x + y) % 2 ^ 32
def foldMin (t : TyCode) (md : Mode) (x y : Nat) : Nat :=
  if t.isFloat then fminE .f32 md x y
  else if t = .s32 then (if sval 32 y < sval 32 x then y else x) else min x y
def foldMax (t : TyCode) (md : Mode) (x y : Nat) : Nat :=
  if t.isFloat then fmaxE .f32 md x y
  else if t = .s32 then (if sval 32 x < sval 32 y then y else x) else max x y

def execRedadd (d a : BitVec 7) (t : TyCode) (s : State) : Out := foldWord s d a t false (foldAdd t)
def execRedmax (d a : BitVec 7) (t : TyCode) (s : State) : Out := foldWord s d a t false (foldMax t)
def execRedmin (d a : BitVec 7) (t : TyCode) (s : State) : Out := foldWord s d a t false (foldMin t)
def execScanadd (d a : BitVec 7) (t : TyCode) (s : State) : Out := foldWord s d a t true (foldAdd t)

/-! ### Moves and lane access (R316, R317) -/

def execMov (d a : BitVec 7) (s : State) : Out := unVec s d a id
def execMovs (d : BitVec 7) (a : BitVec 5) (s : State) : Out :=
  exchange s (fun gr => [v1 gr [d]]) fun gr _ l => l.wr d.toNat ((gr.rs a.toNat).truncate 32)
def execMovi (d : BitVec 7) (i : BitVec 14) (s : State) : Out :=
  laneWord s true (fun gr => [v1 gr [d]]) fun l => l.wr d.toNat (immW s.cur.hix 14 i.toNat)
def execMovp (d : BitVec 7) (p : BitVec 3) (s : State) : Out :=
  laneWord s false (fun gr => [v1 gr [d]]) fun l => l.wr d.toNat (if l.pred p then 1 else 0)
def execSetp (d : BitVec 3) (a : BitVec 7) (s : State) : Out :=
  laneWord s false (fun gr => [v1 gr [a]]) fun l => l.setPred d (l.rd a.toNat != 0)

/-- `rdsp`: the member position of the lane's block in the running station (R316). -/
def execRdsp (d : BitVec 7) (s : State) : Out :=
  exchange s (fun gr => [v1 gr [d]]) fun gr _ l => l.wr d.toNat (BitVec.ofNat 32 (gr.members.idxOf l.blk.toNat))

/-- `rdlane`: any lane may be read; 0 at or beyond the width (R310, R317). -/
def execRdlane (d : BitVec 5) (a : BitVec 7) (b : BitVec 5) (s : State) : Out :=
  actWord s false (fun gr => [v1 gr [a]]) anyRole fun g gr =>
    let j := (gr.rs b.toNat).toNat
    s.modGroup g fun gr' =>
      gr'.ws d.toNat (if j < gr.lanes.length then dw ((gr.lane j).rd a.toNat).toNat else 0)

/-- `wrlane`: lane sb, if it is in ACT (R317). -/
def execWrlane (d : BitVec 7) (a b : BitVec 5) (s : State) : Out :=
  exchange s (fun gr => [v1 gr [d]]) fun gr i l =>
    if i = (gr.rs b.toNat).toNat then l.wr d.toNat ((gr.rs a.toNat).truncate 32) else l

end Sys2Proof.Machine
end

