-- ==== Sys2Proof/Machine/Dispatch.lean ====
section
/-! DEFINITION. What each row of the opcode table does: one arm for each constructor of Instr, each the one call of its
meaning. -/
namespace Sys2Proof.Machine

/-- The effect of an instruction or step. -/
def exec (i : Instr) (s : State) : Host.Outcome State Fault Refusal :=
  match i with
  | .add _ d a b => Sys2Proof.Machine.execAdd d a b s
  | .sub _ d a b => Sys2Proof.Machine.execSub d a b s
  | .mul _ d a b => Sys2Proof.Machine.execMul d a b s
  | .mulhS _ d a b => Sys2Proof.Machine.execMulhS d a b s
  | .mulhN _ d a b => Sys2Proof.Machine.execMulhN d a b s
  | .divS _ d a b => Sys2Proof.Machine.execDivS d a b s
  | .divN _ d a b => Sys2Proof.Machine.execDivN d a b s
  | .remS _ d a b => Sys2Proof.Machine.execRemS d a b s
  | .remN _ d a b => Sys2Proof.Machine.execRemN d a b s
  | .and _ d a b => Sys2Proof.Machine.execAnd d a b s
  | .or _ d a b => Sys2Proof.Machine.execOr d a b s
  | .xor _ d a b => Sys2Proof.Machine.execXor d a b s
  | .shl _ d a b => Sys2Proof.Machine.execShl d a b s
  | .shr _ d a b => Sys2Proof.Machine.execShr d a b s
  | .sra _ d a b => Sys2Proof.Machine.execSra d a b s
  | .minS _ d a b => Sys2Proof.Machine.execMinS d a b s
  | .maxS _ d a b => Sys2Proof.Machine.execMaxS d a b s
  | .minN _ d a b => Sys2Proof.Machine.execMinN d a b s
  | .maxN _ d a b => Sys2Proof.Machine.execMaxN d a b s
  | .sltS _ d a b => Sys2Proof.Machine.execSltS d a b s
  | .sltN _ d a b => Sys2Proof.Machine.execSltN d a b s
  | .seq _ d a b => Sys2Proof.Machine.execSeq d a b s
  | .bfxS _ d a b => Sys2Proof.Machine.execBfxS d a b s
  | .bfxN _ d a b => Sys2Proof.Machine.execBfxN d a b s
  | .bfi _ d a b => Sys2Proof.Machine.execBfi d a b s
  | .clz _ d a => Sys2Proof.Machine.execClz d a s
  | .ctz _ d a => Sys2Proof.Machine.execCtz d a s
  | .popc _ d a => Sys2Proof.Machine.execPopc d a s
  | .jalr _ d a => Sys2Proof.Machine.execJalr d a s
  | .addi _ d a imm => Sys2Proof.Machine.execAddi d a imm s
  | .andi _ d a imm => Sys2Proof.Machine.execAndi d a imm s
  | .ori _ d a imm => Sys2Proof.Machine.execOri d a imm s
  | .xori _ d a imm => Sys2Proof.Machine.execXori d a imm s
  | .shli _ d a imm => Sys2Proof.Machine.execShli d a imm s
  | .shri _ d a imm => Sys2Proof.Machine.execShri d a imm s
  | .srai _ d a imm => Sys2Proof.Machine.execSrai d a imm s
  | .sltiS _ d a imm => Sys2Proof.Machine.execSltiS d a imm s
  | .luh _ d imm => Sys2Proof.Machine.execLuh d imm s
  | .ldsN8 _ d k a imm => Sys2Proof.Machine.execLdsN8 d k a imm s
  | .ldsN16 _ d k a imm => Sys2Proof.Machine.execLdsN16 d k a imm s
  | .ldsN32 _ d k a imm => Sys2Proof.Machine.execLdsN32 d k a imm s
  | .ldsB64 _ d k a imm => Sys2Proof.Machine.execLdsB64 d k a imm s
  | .stsB8 _ d k a imm => Sys2Proof.Machine.execStsB8 d k a imm s
  | .stsB16 _ d k a imm => Sys2Proof.Machine.execStsB16 d k a imm s
  | .stsB32 _ d k a imm => Sys2Proof.Machine.execStsB32 d k a imm s
  | .stsB64 _ d k a imm => Sys2Proof.Machine.execStsB64 d k a imm s
  | .beq _ a b o => Sys2Proof.Machine.execBeq a b o s
  | .bne _ a b o => Sys2Proof.Machine.execBne a b o s
  | .bltS _ a b o => Sys2Proof.Machine.execBltS a b o s
  | .bgeS _ a b o => Sys2Proof.Machine.execBgeS a b o s
  | .bltN _ a b o => Sys2Proof.Machine.execBltN a b o s
  | .bgeN _ a b o => Sys2Proof.Machine.execBgeN a b o s
  | .jal _ d o => Sys2Proof.Machine.execJal d o s
  | .emit _ d a b => Sys2Proof.Machine.execEmit d a b s
  | .emitnb _ d a b => Sys2Proof.Machine.execEmitnb d a b s
  | .emits _ d b => Sys2Proof.Machine.execEmits d b s
  | .sopen _ a b => Sys2Proof.Machine.execSopen a b s
  | .stins _ d a => Sys2Proof.Machine.execStins d a s
  | .sdecl _ d a => Sys2Proof.Machine.execSdecl d a s
  | .gwait _ d a => Sys2Proof.Machine.execGwait d a s
  | .grec _ d a => Sys2Proof.Machine.execGrec d a s
  | .gread _ d a b => Sys2Proof.Machine.execGread d a b s
  | .gwrite _ d a b => Sys2Proof.Machine.execGwrite d a b s
  | .gres _ a b => Sys2Proof.Machine.execGres a b s
  | .gkill _ d a => Sys2Proof.Machine.execGkill d a s
  | .launch _ d a k => Sys2Proof.Machine.execLaunch d a k s
  | .addV _ d a b => Sys2Proof.Machine.execAddV d a b s
  | .subV _ d a b => Sys2Proof.Machine.execSubV d a b s
  | .mulV _ d a b => Sys2Proof.Machine.execMulV d a b s
  | .mulhSV _ d a b => Sys2Proof.Machine.execMulhSV d a b s
  | .mulhNV _ d a b => Sys2Proof.Machine.execMulhNV d a b s
  | .andV _ d a b => Sys2Proof.Machine.execAndV d a b s
  | .orV _ d a b => Sys2Proof.Machine.execOrV d a b s
  | .xorV _ d a b => Sys2Proof.Machine.execXorV d a b s
  | .shlV _ d a b => Sys2Proof.Machine.execShlV d a b s
  | .shrV _ d a b => Sys2Proof.Machine.execShrV d a b s
  | .sraV _ d a b => Sys2Proof.Machine.execSraV d a b s
  | .minSV _ d a b => Sys2Proof.Machine.execMinSV d a b s
  | .maxSV _ d a b => Sys2Proof.Machine.execMaxSV d a b s
  | .minNV _ d a b => Sys2Proof.Machine.execMinNV d a b s
  | .maxNV _ d a b => Sys2Proof.Machine.execMaxNV d a b s
  | .absd _ d a b => Sys2Proof.Machine.execAbsd d a b s
  | .addsS _ d a b => Sys2Proof.Machine.execAddsS d a b s
  | .addsN _ d a b => Sys2Proof.Machine.execAddsN d a b s
  | .subsS _ d a b => Sys2Proof.Machine.execSubsS d a b s
  | .subsN _ d a b => Sys2Proof.Machine.execSubsN d a b s
  | .avgN _ d a b => Sys2Proof.Machine.execAvgN d a b s
  | .clzV _ d a => Sys2Proof.Machine.execClzV d a s
  | .popcV _ d a => Sys2Proof.Machine.execPopcV d a s
  | .brev _ d a => Sys2Proof.Machine.execBrev d a s
  | .add64 _ d a b => Sys2Proof.Machine.execAdd64 d a b s
  | .sub64 _ d a b => Sys2Proof.Machine.execSub64 d a b s
  | .mulwS _ d a b => Sys2Proof.Machine.execMulwS d a b s
  | .mulwN _ d a b => Sys2Proof.Machine.execMulwN d a b s
  | .dot4S8 _ d a b => Sys2Proof.Machine.execDot4S8 d a b s
  | .dot4N8 _ d a b => Sys2Proof.Machine.execDot4N8 d a b s
  | .bfxV _ d a b => Sys2Proof.Machine.execBfxV d a b s
  | .bfiV _ d a b => Sys2Proof.Machine.execBfiV d a b s
  | .addiV _ d a imm => Sys2Proof.Machine.execAddiV d a imm s
  | .andiV _ d a imm => Sys2Proof.Machine.execAndiV d a imm s
  | .oriV _ d a imm => Sys2Proof.Machine.execOriV d a imm s
  | .xoriV _ d a imm => Sys2Proof.Machine.execXoriV d a imm s
  | .shliV _ d a imm => Sys2Proof.Machine.execShliV d a imm s
  | .shriV _ d a imm => Sys2Proof.Machine.execShriV d a imm s
  | .sraiV _ d a imm => Sys2Proof.Machine.execSraiV d a imm s
  | .muli _ d a imm => Sys2Proof.Machine.execMuli d a imm s
  | .faddF32 _ d a b => Sys2Proof.Machine.execFaddF32 d a b s
  | .faddH2 _ d a b => Sys2Proof.Machine.execFaddH2 d a b s
  | .faddB2 _ d a b => Sys2Proof.Machine.execFaddB2 d a b s
  | .fsubF32 _ d a b => Sys2Proof.Machine.execFsubF32 d a b s
  | .fsubH2 _ d a b => Sys2Proof.Machine.execFsubH2 d a b s
  | .fsubB2 _ d a b => Sys2Proof.Machine.execFsubB2 d a b s
  | .fmulF32 _ d a b => Sys2Proof.Machine.execFmulF32 d a b s
  | .fmulH2 _ d a b => Sys2Proof.Machine.execFmulH2 d a b s
  | .fmulB2 _ d a b => Sys2Proof.Machine.execFmulB2 d a b s
  | .fminF32 _ d a b => Sys2Proof.Machine.execFminF32 d a b s
  | .fminH2 _ d a b => Sys2Proof.Machine.execFminH2 d a b s
  | .fminB2 _ d a b => Sys2Proof.Machine.execFminB2 d a b s
  | .fmaxF32 _ d a b => Sys2Proof.Machine.execFmaxF32 d a b s
  | .fmaxH2 _ d a b => Sys2Proof.Machine.execFmaxH2 d a b s
  | .fmaxB2 _ d a b => Sys2Proof.Machine.execFmaxB2 d a b s
  | .ffmaF32 _ d a b => Sys2Proof.Machine.execFfmaF32 d a b s
  | .ffmaH2 _ d a b => Sys2Proof.Machine.execFfmaH2 d a b s
  | .ffmaB2 _ d a b => Sys2Proof.Machine.execFfmaB2 d a b s
  | .ffmsF32 _ d a b => Sys2Proof.Machine.execFfmsF32 d a b s
  | .ffmsH2 _ d a b => Sys2Proof.Machine.execFfmsH2 d a b s
  | .ffmsB2 _ d a b => Sys2Proof.Machine.execFfmsB2 d a b s
  | .fnmaF32 _ d a b => Sys2Proof.Machine.execFnmaF32 d a b s
  | .fnmaH2 _ d a b => Sys2Proof.Machine.execFnmaH2 d a b s
  | .fnmaB2 _ d a b => Sys2Proof.Machine.execFnmaB2 d a b s
  | .ffmawH _ d a b => Sys2Proof.Machine.execFfmawH d a b s
  | .ffmawB _ d a b => Sys2Proof.Machine.execFfmawB d a b s
  | .frcp _ d a t => Sys2Proof.Machine.execFrcp d a t s
  | .frsqrt _ d a t => Sys2Proof.Machine.execFrsqrt d a t s
  | .fsqrt _ d a t => Sys2Proof.Machine.execFsqrt d a t s
  | .fex2 _ d a t => Sys2Proof.Machine.execFex2 d a t s
  | .flg2 _ d a t => Sys2Proof.Machine.execFlg2 d a t s
  | .fsinp _ d a t => Sys2Proof.Machine.execFsinp d a t s
  | .fcosp _ d a t => Sys2Proof.Machine.execFcosp d a t s
  | .ftanh _ d a t => Sys2Proof.Machine.execFtanh d a t s
  | .ffrac _ d a t => Sys2Proof.Machine.execFfrac d a t s
  | .fclass _ d a t => Sys2Proof.Machine.execFclass d a t s
  | .cvt _ d a y z => Sys2Proof.Machine.execCvt d a y z s
  | .cvtmfE _ d a b => Sys2Proof.Machine.execCvtmfE d a b s
  | .cvtmfD _ d a b => Sys2Proof.Machine.execCvtmfD d a b s
  | .pk2 _ d a b t => Sys2Proof.Machine.execPk2 d a b t s
  | .upk _ d a h t => Sys2Proof.Machine.execUpk d a h t s
  | .cmp _ p c a b t => Sys2Proof.Machine.execCmp p c a b t s
  | .ftst _ p a b t => Sys2Proof.Machine.execFtst p a b t s
  | .sel _ d a b p imm => Sys2Proof.Machine.execSel d a b p imm s
  | .plog _ d t a b => Sys2Proof.Machine.execPlog d t a b s
  | .shflIdx _ d a b => Sys2Proof.Machine.execShflIdx d a b s
  | .shflUp _ d a b => Sys2Proof.Machine.execShflUp d a b s
  | .shflDn _ d a b => Sys2Proof.Machine.execShflDn d a b s
  | .shflXor _ d a b => Sys2Proof.Machine.execShflXor d a b s
  | .bcast _ d a b => Sys2Proof.Machine.execBcast d a b s
  | .ballot _ d p => Sys2Proof.Machine.execBallot d p s
  | .vrank _ d p => Sys2Proof.Machine.execVrank d p s
  | .vcount _ d p => Sys2Proof.Machine.execVcount d p s
  | .vany _ d p => Sys2Proof.Machine.execVany d p s
  | .vall _ d p => Sys2Proof.Machine.execVall d p s
  | .redadd _ d a t => Sys2Proof.Machine.execRedadd d a t s
  | .redmax _ d a t => Sys2Proof.Machine.execRedmax d a t s
  | .redmin _ d a t => Sys2Proof.Machine.execRedmin d a t s
  | .scanadd _ d a t => Sys2Proof.Machine.execScanadd d a t s
  | .mov _ d a => Sys2Proof.Machine.execMov d a s
  | .movs _ d a => Sys2Proof.Machine.execMovs d a s
  | .movi _ d imm => Sys2Proof.Machine.execMovi d imm s
  | .rdlane _ d a b => Sys2Proof.Machine.execRdlane d a b s
  | .wrlane _ d a b => Sys2Proof.Machine.execWrlane d a b s
  | .rdsp _ d => Sys2Proof.Machine.execRdsp d s
  | .movp _ d p => Sys2Proof.Machine.execMovp d p s
  | .setp _ d a => Sys2Proof.Machine.execSetp d a s
  | .ld _ d k a t imm => Sys2Proof.Machine.execLd d k a t imm s
  | .st _ d k a t imm => Sys2Proof.Machine.execSt d k a t imm s
  | .atom _ d k a o c => Sys2Proof.Machine.execAtom d k a o c s
  | .atomx _ d k a o c => Sys2Proof.Machine.execAtomx d k a o c s
  | .atom64 _ d k a o c => Sys2Proof.Machine.execAtom64 d k a o c s
  | .atomx64 _ d k a o c => Sys2Proof.Machine.execAtomx64 d k a o c s
  | .fence _ p q c => Sys2Proof.Machine.execFence p q c s
  | .barinit _ k a b => Sys2Proof.Machine.execBarinit k a b s
  | .barr _ k a c n => Sys2Proof.Machine.execBarr k a c n s
  | .barw _ k a b c => Sys2Proof.Machine.execBarw k a b c s
  | .bars _ k a c n => Sys2Proof.Machine.execBars k a c n s
  | .waitw _ k a b => Sys2Proof.Machine.execWaitw k a b s
  | .kmov _ d k => Sys2Proof.Machine.execKmov d k s
  | .kwin _ d k a b => Sys2Proof.Machine.execKwin d k a b s
  | .krights _ d k a => Sys2Proof.Machine.execKrights d k a s
  | .kld _ d k a => Sys2Proof.Machine.execKld d k a s
  | .kst _ d k a => Sys2Proof.Machine.execKst d k a s
  | .kget _ d k x => Sys2Proof.Machine.execKget d k x s
  | .ktag _ d k => Sys2Proof.Machine.execKtag d k s
  | .tcfg _ t a => Sys2Proof.Machine.execTcfg t a s
  | .acfg _ d a => Sys2Proof.Machine.execAcfg d a s
  | .tld _ t k a b p => Sys2Proof.Machine.execTld t k a b p s
  | .tst _ t k a b p => Sys2Proof.Machine.execTst t k a b p s
  | .mma _ d a b h => Sys2Proof.Machine.execMma d a b h s
  | .mmb _ d a b o => Sys2Proof.Machine.execMmb d a b o s
  | .azero _ d => Sys2Proof.Machine.execAzero d s
  | .ard _ d v c => Sys2Proof.Machine.execArd d v c s
  | .awr _ d v c => Sys2Proof.Machine.execAwr d v c s
  | .acvt _ d c => Sys2Proof.Machine.execAcvt d c s
  | .cpyLin _ b => Sys2Proof.Machine.execCpyLin b s
  | .cpyTen _ b l => Sys2Proof.Machine.execCpyTen b l s
  | .cpyGat _ b => Sys2Proof.Machine.execCpyGat b s
  | .cpySct _ b => Sys2Proof.Machine.execCpySct b s
  | .cpyRed _ b r => Sys2Proof.Machine.execCpyRed b r s
  | .qfence _ q m => Sys2Proof.Machine.execQfence q m s
  | .nop _ => Sys2Proof.Machine.execNop s
  | .setblk _ a b p => Sys2Proof.Machine.execSetblk a b p s
  | .setblkv _ v => Sys2Proof.Machine.execSetblkv v s
  | .vote _ => Sys2Proof.Machine.execVote s
  | .exit _ => Sys2Proof.Machine.execExit s
  | .fuse _ d site => Sys2Proof.Machine.execFuse d site s
  | .trap _ c => Sys2Proof.Machine.execTrap c s
  | .slot _ m => Sys2Proof.Machine.execSlot m s
  | .grd _ p imm n => Sys2Proof.Machine.execGrd p imm n s
  | .pfch _ k v l => Sys2Proof.Machine.execPfch k v l s
  | .cach _ p => Sys2Proof.Machine.execCach p s
  | .hix _ p => Sys2Proof.Machine.execHix p s
  | .rdsr _ d e => Sys2Proof.Machine.execRdsr d e s
  | .wrsr _ a e => Sys2Proof.Machine.execWrsr a e s
  | .setfmImm _ imm => Sys2Proof.Machine.execSetfmImm imm s
  | .setfmReg _ v => Sys2Proof.Machine.execSetfmReg v s
  | .brk _ c => Sys2Proof.Machine.execBrk c s
  | .sinv _ k a b => Sys2Proof.Machine.execSinv k a b s
  | .launchFirstHalf slot words => Sys2Proof.Machine.execLaunchFirstHalf slot words s
  | .launchSecondHalf slot words => Sys2Proof.Machine.execLaunchSecondHalf slot words s
  | .launchSlotStatusWrite slot value => Sys2Proof.Machine.execLaunchSlotStatusWrite slot value s
  | .mailboxStatusWrite value => Sys2Proof.Machine.execMailboxStatusWrite value s
  | .registerWriteIgnored offset bytes => Sys2Proof.Machine.execRegisterWriteIgnored offset bytes s
  | .ctxcreate => Sys2Proof.Machine.execCtxcreate s
  | .ctxdestroy => Sys2Proof.Machine.execCtxdestroy s
  | .recipeset => Sys2Proof.Machine.execRecipeset s
  | .recipeImageWrite ctx => Sys2Proof.Machine.execRecipeImageWrite ctx s
  | .capmint => Sys2Proof.Machine.execCapmint s
  | .otinv => Sys2Proof.Machine.execOtinv s
  | .otinvComplete => Sys2Proof.Machine.execOtinvComplete s
  | .wdtset => Sys2Proof.Machine.execWdtset s
  | .codeload => Sys2Proof.Machine.execCodeload s
  | .codeunload => Sys2Proof.Machine.execCodeunload s
  | .codeUnmap ctx codeid => Sys2Proof.Machine.execCodeUnmap ctx codeid s
  | .codekey => Sys2Proof.Machine.execCodekey s
  | .preempt => Sys2Proof.Machine.execPreempt s
  | .preemptGated order => Sys2Proof.Machine.execPreemptGated order s
  | .rptake => Sys2Proof.Machine.execRptake s
  | .rpintset => Sys2Proof.Machine.execRpintset s
  | .recoveryPointTimer => Sys2Proof.Machine.execRecoveryPointTimer s
  | .wornthr => Sys2Proof.Machine.execWornthr s
  | .framepool => Sys2Proof.Machine.execFramepool s
  | .evring => Sys2Proof.Machine.execEvring s
  | .island => Sys2Proof.Machine.execIsland s
  | .railmap => Sys2Proof.Machine.execRailmap s
  | .ident => Sys2Proof.Machine.execIdent s
  | .attest => Sys2Proof.Machine.execAttest s
  | .dbggrant => Sys2Proof.Machine.execDbggrant s
  | .dbgrevoke => Sys2Proof.Machine.execDbgrevoke s
  | .dbghalt => Sys2Proof.Machine.execDbghalt s
  | .dbgread => Sys2Proof.Machine.execDbgread s
  | .dbgwrite => Sys2Proof.Machine.execDbgwrite s
  | .dbgresume => Sys2Proof.Machine.execDbgresume s
  | .dbgstop => Sys2Proof.Machine.execDbgstop s
  | .preciseStop group => Sys2Proof.Machine.execPreciseStop group s
  | .dbgwatch => Sys2Proof.Machine.execDbgwatch s
  | .tracebuf => Sys2Proof.Machine.execTracebuf s
  | .profcfg => Sys2Proof.Machine.execProfcfg s
  | .launchValidate port source => Sys2Proof.Machine.execLaunchValidate port source s
  | .crewAdmit launch => Sys2Proof.Machine.execCrewAdmit launch s
  | .launchClassRise launch => Sys2Proof.Machine.execLaunchClassRise launch s
  | .launchComplete launch => Sys2Proof.Machine.execLaunchComplete launch s
  | .crewCommit launch => Sys2Proof.Machine.execCrewCommit launch s
  | .generalAgeSelect group => Sys2Proof.Machine.execGeneralAgeSelect group s
  | .groupWake group => Sys2Proof.Machine.execGroupWake group s
  | .urgencyBit access => Sys2Proof.Machine.execUrgencyBit access s
  | .portAccess access => Sys2Proof.Machine.execPortAccess access s
  | .claimCheck access => Sys2Proof.Machine.execClaimCheck access s
  | .answerReturn access => Sys2Proof.Machine.execAnswerReturn access s
  | .siblingStop group => Sys2Proof.Machine.execSiblingStop group s
  | .crewHaltEvent crew => Sys2Proof.Machine.execCrewHaltEvent crew s
  | .trapRecordWrite group => Sys2Proof.Machine.execTrapRecordWrite group s
  | .matrixEnginePerform core => Sys2Proof.Machine.execMatrixEnginePerform core s
  | .copyChunk command => Sys2Proof.Machine.execCopyChunk command s
  | .copyCompletion command => Sys2Proof.Machine.execCopyCompletion command s
  | .qfencePerform command => Sys2Proof.Machine.execQfencePerform command s
  | .fenceComplete group => Sys2Proof.Machine.execFenceComplete group s
  | .barrierArrival access => Sys2Proof.Machine.execBarrierArrival access s
  | .sinvComplete group => Sys2Proof.Machine.execSinvComplete group s
  | .fuseResolve crew site => Sys2Proof.Machine.execFuseResolve crew site s
  | .groupRetire group => Sys2Proof.Machine.execGroupRetire group s
  | .pageMigration entry => Sys2Proof.Machine.execPageMigration entry s
  | .targetedReplay entry => Sys2Proof.Machine.execTargetedReplay entry s
  | .claimScrub line => Sys2Proof.Machine.execClaimScrub line s
  | .eventQueuePlaceFree thread => Sys2Proof.Machine.execEventQueuePlaceFree thread s
  | .gwaitWake thread => Sys2Proof.Machine.execGwaitWake thread s
  | .gwaitTimeout thread => Sys2Proof.Machine.execGwaitTimeout thread s
  | .emitUnblock thread => Sys2Proof.Machine.execEmitUnblock thread s
  | .watchdogExpire thread => Sys2Proof.Machine.execWatchdogExpire thread s
  | .eventRingWrite => Sys2Proof.Machine.execEventRingWrite s
  | .eventRingPoll => Sys2Proof.Machine.execEventRingPoll s
  | .hostMemWrite address bytes => Sys2Proof.Machine.execHostMemWrite address bytes s
  | .peerAccess device handle offset write bytes => Sys2Proof.Machine.execPeerAccess device handle offset write bytes s
  | .railPortDown port => Sys2Proof.Machine.execRailPortDown port s
  | .activationBackoff controller bank => Sys2Proof.Machine.execActivationBackoff controller bank s
  | .uncorrectableError unit => Sys2Proof.Machine.execUncorrectableError unit s
  | .correctedError unit => Sys2Proof.Machine.execCorrectedError unit s
  | .thermalStep die temperature => Sys2Proof.Machine.execThermalStep die temperature s
  | .thermalCritical die temperature => Sys2Proof.Machine.execThermalCritical die temperature s
  | .thermalRecover die temperature => Sys2Proof.Machine.execThermalRecover die temperature s
  | .powerGood => Sys2Proof.Machine.execPowerGood s
  | .mailboxCommandWrite offset bytes => Sys2Proof.Machine.execMailboxCommandWrite offset bytes s
  | .recoveryPointCommit => Sys2Proof.Machine.execRecoveryPointCommit s
  | .refreshHoldEnd controller bank => Sys2Proof.Machine.execRefreshHoldEnd controller bank s
  | .railPortUp port => Sys2Proof.Machine.execRailPortUp port s

end Sys2Proof.Machine
end

