-- ==== Sys2Proof/Machine/Run.lean ====
section
/-! DEFINITION. How the device moves: a group issues its next word (R73, R83, R205, R208), a thread fetches and performs
its next instruction (R268), the moves that are due at a moment, and the choice among them. Step.lean calls it. -/
namespace Sys2Proof.Machine

/-! ### A group issues (R73, R83, R84, R205, R208, R260) -/

/-- The group raises its next stacked trap before anything new issues; one of the crew class halts its crew (R206, R208). -/
def State.raiseNext (s : State) (g : Nat) (gr : Group) : State :=
  let gr1 := gr.raiseStacked
  let s1 := s.modGroup g fun _ => gr1
  match gr1.trap with
  | none => s1
  | some t => if t.cls = 1 then s1.startHalt gr.crew g t false else s1

/-- Words with a field that a `hix` widens (R260). -/
def widens (w : Word) : Bool :=
  let m := major w
  let fn := fld w.toNat 24 22
  m == 0x02 || m == 0x03 || m == 0x04 || m == 0x12 || m == 0x20 || m == 0x21 || (m == 0x1A && fld w.toNat 3 0 == 2) || (m == 0x24 && (fn == 2 || fn == 4))

/-- A `setblk` that names an undeclared block. -/
def State.setblkBad (s : State) (gr : Group) (w : Word) : Bool :=
  fld w.toNat 30 22 == 0x1C1
    && !(blockOk s gr (BitVec.ofNat 8 (fld w.toNat 21 14)) && blockOk s gr (BitVec.ofNat 8 (fld w.toNat 13 6)))

/-- A reserved value that the word's form does not show: the descriptor of a `cvtmf`, the value of a `tcfg` or `acfg`
(R247, R345, R346). -/
def valueBad (gr : Group) (w : Word) : Bool :=
  let n := w.toNat
  match fld n 30 25 with
  | 0x16 => (fld n 2 0 == 1 || fld n 2 0 == 2) && !mfDescOk (gr.rs (fld n 10 6))
  | 0x28 => (fld n 24 23 == 0 && tctlBad (gr.rs (fld n 18 14))) || (fld n 24 23 == 1 && bindBad gr (gr.rs (fld n 18 14)))
  | _ => false

/-- The reason of a word that does not decode: the lowest that applies (R205), a reserved condition's 3 with them (R264).
(DEDUCED: log 73) -/
def State.undefReason (s : State) (gr : Group) (w : Word) (r : Nat) : Nat :=
  if 3 < r ∧ ((s.cur.hix.isSome && !widens w) || s.setblkBad gr w || valueBad gr w) then 3 else r

/-- A word that has begun to issue is decoded and performed, or traps UNDEF. -/
def State.perform (s : State) (g : Nat) (gr : Group) (w : Word) : Out :=
  match decode w.toNat with
  | .ok i => exec i s
  | .error r => .next ((s.countRefused g gr).undef g (s.undefReason gr w r))

/-- A group issues. -/
def State.issue (s : State) (g : Nat) : Out :=
  match s.group? g with
  | none => .refused .notDue
  | some gr =>
    if s.raiseDue gr then .next (s.raiseNext g gr)
    else match gr.nextWord with
      | none => .refused .notDue
      | some (q, gr1) => (s.begin g gr q gr1).perform g gr q.word

/-! ### A thread fetches (R268) -/

/-- The thread runs: not idle, stopped, gated, asleep, blocked or parked. -/
def Thread.runs (th : Thread) : Bool :=
  !th.idle && !th.stopped && !th.gated && th.sleep.isNone && th.blocked.isNone && th.parked.isNone

/-- The thread performs a word, the last of its core to issue one (R81): the state in which it does. -/
def State.beginThread (s : State) (t : Nat) (w : Word) : State :=
  { s with cur := ⟨.thread t, w, 0, [], none, none, 0⟩, lampLast := tset s.lampLast (threadCore t) (t % 4) }

/-- The fetched word is decoded and performed, or takes L2UNDEF. -/
def State.performThread (s : State) (t : Nat) (w : Word) : Out :=
  let s1 := s.beginThread t w
  match decode w.toNat with
  | .ok i => exec i s1
  | .error _ => .next (s1.l2fault t .undef 0)

/-- A thread fetches the word at its PC, with its fetch capability, and performs it; in the image of an object that was
unloaded it takes L2CAP (R268, R419). The fetch is a read by the thread: a watchpoint reports it (R429), a refresh holds it (R440), and
urgent reads go first (R80). The report of a refused fetch, which has no word, gives INSTR 0 (R220). (DESIGN CHOICE: log 102) -/
def State.fetch (s : State) (t : Nat) : Out :=
  match s.thread? t with
  | none => .refused .notDue
  | some th =>
    if !th.runs then .refused .notDue
    else match s.ctx? th.ctx with
      | none => .refused .notDue
      | some c =>
        if c.fetchLen < th.pc + 4 || c.isUnloaded th.pc then .next ((s.beginThread t 0).l2fault t .cap th.pc)
        else match s.tableBank (portOf (threadCore t)) th.ctx c.arena 6 rX th.pc 4 with
          | some b => .next (s.holdThread t b false)
          | none =>
          let (s1, e) := s.portEntry (portOf (threadCore t)) th.ctx c.arena 6 rX th.pc 4
          match judge s.mem e 6 rX th.pc 4 with
          | .at_ f => match s.rangeBank f 4 with
            | some b => .next (s1.holdThread t b false)
            | none =>
              if s.readWaits f then .refused .notDue
              else (s1.watchReport 2 th.ctx c.arena th.pc 4 0 false).performThread t (BitVec.ofNat 32 (mnat s.mem f 4))
          | .elsewhere p =>
            let (s2, n) := s1.joinEntry p (.thread t)
            .next (s2.modThread t fun x => { x with parked := some n, replay := false })
          | .noFrame n => .fault (.noSuchFrame n)
          | .denied _ | .window _ => .next ((s1.beginThread t 0).l2fault t .cap th.pc)

/-- The place of a thread in the round of its core: 0 right after the last one to issue (R81). (DESIGN CHOICE: log 110) -/
def State.roundOf (s : State) (t : Nat) : Nat := (t % 4 + 3 - (tget s.lampLast (threadCore t)).getD 3) % 4

/-- It is the thread's turn: of its core's threads that run, none stands before it in the round (R81). -/
def State.hasTurn (s : State) (t : Nat) : Bool :=
  s.threads.all fun (u, th) => threadCore u != threadCore t || !th.runs || decide (s.roundOf t ≤ s.roundOf u)

/-- The lamplighter issues a thread's next instruction in its turn (R81). -/
def lampIssue (t : Nat) (s : State) : Out := if s.hasTurn t then s.fetch t else .refused .notDue

/-! ### The moves that may be due -/

/-- A move: what it does to the state. -/
abbrev Act := State → Out

/-- Moves of one group. -/
def groupActs (g : Nat) : List Act :=
  [execGeneralAgeSelect g, execTrapRecordWrite g, execSiblingStop g, execPreciseStop g, execFenceComplete g, execSinvComplete g,
   execGroupWake g, execGroupRetire g]

/-- The resolution of the site a group is parked at. -/
def fuseActs (gr : Group) : List Act :=
  match gr.wait with
  | .fuse site _ => [execFuseResolve gr.crew site]
  | .none | .phase _ _ _ | .word _ _ | .compose _ _ | .fence _ _ _ _ | .sinv _ _ _ _ _ | .answer _ | .store _ => []

/-- An admitted store of a thread performs (R95, R327). -/
def performStore (n : Nat) (s : State) : Out :=
  match tget s.posted n with
  | none => .refused .notDue
  | some p => if s.postedDue n p then .next (s.performPosted n) else .refused .notDue

/-- Moves of one access. -/
def accessActs (n : Nat) : List Act :=
  [execPortAccess n, execClaimCheck n, execBarrierArrival n, execAnswerReturn n, execUrgencyBit n]

/-- Moves of one command of a copy queue. -/
def copyActs (n : Nat) : List Act := [execCopyChunk n, execCopyCompletion n, execQfencePerform n]

/-- Moves of one thread. -/
def threadActs (t : Nat) : List Act :=
  [lampIssue t, execEventQueuePlaceFree t, execGwaitWake t, execGwaitTimeout t, execEmitUnblock t, execWatchdogExpire t,
   execLaunchValidate false t]

/-- Moves of one launch. -/
def launchActs (n : Nat) : List Act := [execCrewAdmit n, execLaunchClassRise n, execLaunchComplete n, execCrewCommit n]

/-- Moves of one context. -/
def ctxActs (n : Nat) (c : Context) : List Act := execRecipeImageWrite n :: c.objs.map fun o => execCodeUnmap n o.id

/-- The mailbox: the command at the head of the queue, or one that waits. -/
def mailActs : List Act :=
  [execCtxcreate, execCtxdestroy, execRecipeset, execCapmint, execOtinv, execOtinvComplete, execWdtset, execCodeload] ++
  [execCodeunload, execCodekey, execPreempt, execRptake, execRpintset, execWornthr, execFramepool, execEvring, execIsland] ++
  [execRailmap, execIdent, execAttest, execDbggrant, execDbgrevoke, execDbghalt, execDbgread, execDbgwrite, execDbgresume] ++
  [execDbgstop, execDbgwatch, execTracebuf, execProfcfg]

/-- Assigned command codes (R435). -/
def opAssigned (op : Nat) : Bool :=
  decide ((1 ≤ op ∧ op ≤ 6) ∨ (0x10 ≤ op ∧ op ≤ 0x12) ∨ (0x20 ≤ op ∧ op ≤ 0x29) ∨ (0x30 ≤ op ∧ op ≤ 0x39))

/-- A reserved command at the head of the queue. -/
def State.reservedHead (s : State) : Bool :=
  match s.mbox with
  | [] => false
  | ws :: _ => !opAssigned (cmdOp ws)

/-- Words that the pipes of the cores select. -/
def State.issueActs (s : State) : List Act :=
  (List.range 96).flatMap fun c => (List.range 4).filterMap fun p => (s.selected c p).map fun g => fun s => s.issue g

/-- Every move that may be due. -/
def State.acts (s : State) : List Act :=
  s.issueActs ++ (s.groups.flatMap fun (g, _) => groupActs g) ++ (s.accs.flatMap fun (n, _) => accessActs n)
  ++ (s.cmds.flatMap fun (n, _) => copyActs n) ++ ((sortNat (s.engine.map (·.core))).map fun c => execMatrixEnginePerform c)
  ++ (s.crews.map fun (k, _) => execCrewHaltEvent k) ++ (s.waits.flatMap fun (n, _) => [execPageMigration n, execTargetedReplay n])
  ++ (s.posted.map fun (n, _) => performStore n) ++ (s.claims.map fun (n, _) => execClaimScrub n) ++ (s.threads.flatMap fun (t, _) => threadActs t)
  ++ (s.slots.map fun (n, _) => execLaunchValidate true n) ++ (s.launches.flatMap fun (n, _) => launchActs n)
  ++ (s.preempts.map fun (n, _) => execPreemptGated n) ++ (s.ctxs.flatMap fun (n, c) => ctxActs n c) ++ mailActs
  ++ (if s.reservedHead then [State.badCommand] else [])
  ++ [execRecoveryPointTimer, execRecoveryPointCommit, execEventRingWrite, execEventRingPoll]
  ++ s.refresh.map fun (c, b) => execRefreshHoldEnd c b

/-! ### Which of them are due -/

/-- A move waits whose reports would go beyond the store's places, unless it finds the store empty (R466). (DEDUCED: log 65) -/
def State.mustWait (s t : State) : Bool := decide (0 < s.reports.length ∧ s.reports.length < t.reports.length ∧ reportPlaces < t.reports.length)

/-- A move is due when its step is one the device takes in this state, with places for its reports. -/
def State.isDue (s : State) (f : Act) : Bool :=
  match f s with
  | .next t => !s.mustWait t
  | .fault _ => true
  | .refused _ => false

/-- The moves that are due; a fuse site resolves at the first moment it can (R48). (DESIGN CHOICE: log 2) -/
def State.due (s : State) : List Act :=
  match (s.groups.flatMap fun (_, gr) => fuseActs gr).filter s.isDue with
  | [] => s.acts.filter s.isDue
  | fs => fs

/-- One of several moves is taken. (DESIGN CHOICE: log 2) -/
def State.takeOne (s : State) (fs : List Act) : Out :=
  match fs with
  | [] => .next s
  | [f] => f s
  | f :: r => ((f :: r)[Config.choice s.tick % (r.length + 1)]?).getD f s

/-! ### One move -/

/-- The link that a step from outside comes in by: 0 the host's, 1 and above a peer's. -/
def Outside.link : Outside → Nat
  | .host _ _ | .hostRead _ _ => 0
  | .peer d _ _ _ _ => d + 1

/-- The link of a move that comes in from outside. -/
def Move.link : Move → Option Nat
  | .run (.hostMemWrite _ _) => some 0
  | .run (.peerAccess d _ _ _ _) => some (d + 1)
  | .hostRead _ _ => some 0
  | .again o | .present _ (.outside o) => some o.link
  | .run _ | .present _ _ | .issue _ | .fetch _ | .badCommand | .idle => none

/-- Link flow control holds a write from outside behind one of its link that waits (R466). (DEDUCED: log 65) -/
def State.flowHeld (s : State) (m : Move) : Bool := m.link.isSome && s.heldIn.any fun x => x.link == m.link

/-- The first of some moves that is due, if one is. -/
def State.takeFirst (s : State) (fs : List Act) : Out :=
  match fs.find? s.isDue with
  | none => .next s
  | some f => f s

/-- What follows an outcome. -/
def andThen (o : Out) (f : Act) : Out :=
  match o with
  | .next s => f s
  | .fault x => .fault x
  | .refused r => .refused r

/-- An access that a refresh held. -/
def State.fromBank (s : State) (id : Nat) : Bool :=
  match tget s.accs id with
  | none => false
  | some a => match a.stage with
    | .bank _ _ => true
    | .toPort | .parked _ | .overflow _ | .toHome | .forHead | .answered | .replay => false

/-- An access is presented again: what a page held at its port, and what a refresh held up to its home (R216, R440). -/
def State.presentAccess (s : State) (ref id : Nat) : Out :=
  let o := (s.represent ref (.access id)).takeFirst [execPortAccess id, execClaimCheck id, execBarrierArrival id]
  if s.fromBank id then andThen o fun t => t.takeFirst [execClaimCheck id, execBarrierArrival id] else o

/-- A copy command is presented again: the element whose page has come, else its next chunk or its completion; while parked
elements have come, it is presented for each (R214, R216). -/
def State.presentCopy (s : State) (ref id : Nat) : Out :=
  let more := fun (t : State) => match tget t.cmds id with
    | none => t
    | some c => if t.cmdFree id c && (t.comeElement id c).isSome then { t with agenda := .present ref (.command id) :: t.agenda } else t
  let s1 := s.representCopy ref id
  if s1.isDue fun t => t.landElement id then andThen (s1.landElement id) fun t => .next (more t)
  else s1.takeFirst [execCopyChunk id, execCopyCompletion id]

/-- A thread goes on: the instruction whose access waited is taken again, as the one that it issued in its turn; one that waited for its
fetch issues in its turn (R81, R216). -/
def State.presentThread (s : State) (ref t : Nat) : Out :=
  let s1 := s.represent ref (.thread t)
  match s.thread? t with
  | none => .next s1
  | some th =>
    if th.replay then andThen (s1.takeFirst [fun s => s.fetch t]) fun u => .next { u with lampLast := s.lampLast }
    else .next s1

/-- The step that a refresh held. -/
def HeldStep.act : HeldStep → Act
  | .pageMigration n => execPageMigration n
  | .launchValidate port n => execLaunchValidate port n
  | .crewCommit n => execCrewCommit n
  | .capmint => execCapmint
  | .codeload => execCodeload
  | .codeUnmap c n => execCodeUnmap c n
  | .tracebuf => execTracebuf
  | .dbgwatch => execDbgwatch

/-- What waited for a page or behind a refresh goes on (R216, R217, R440). -/
def State.present (s : State) (ref : Nat) (w : Waiter) : Out :=
  match w with
  | .access id => s.presentAccess ref id
  | .command id => s.presentCopy ref id
  | .thread t => s.presentThread ref t
  | .station _ => .next (s.represent ref w)
  | .outside o => runAgain o s
  | .posted n => s.takeFirst [performStore n]
  | .step i => s.takeFirst [i.act]

/-- A move of the agenda. -/
def State.perform1 (s : State) (m : Move) : Out :=
  match m with
  | .run i => exec i s
  | .again o => runAgain o s
  | .hostRead a n => execHostMemRead a n s
  | .present ref w => s.present ref w
  | .issue g => s.issue g
  | .fetch t => s.fetch t
  | .badCommand => s.badCommand
  | .idle => .next s

/-- The move at the head of the agenda, or it waits, where the store has no place for its reports (R466). (DEDUCED: log 65) -/
def State.runMove (s : State) (m : Move) : Out :=
  if s.flowHeld m then .next (s.holdMove m)
  else match s.perform1 m with
    | .next t => if s.mustWait t then .next (s.holdMove m) else .next t
    | .fault f => .fault f
    | .refused r => .refused r

/-- The store holds the oldest reports, as many as it has places; the others follow as places free (R466). (DEDUCED: log 65) -/
def State.settleReports (s : State) : State :=
  let all := s.reports ++ s.surplus
  { s with reports := all.take reportPlaces, surplus := all.drop reportPlaces }

/-- Time passes, and GENERAL groups note since when they are ready (R22, R74). (DEDUCED: log 3; DESIGN CHOICE: log 11) -/
def State.advance (s : State) : State :=
  { s.settleReports with clock := s.clock + Config.elapsed s.tick, tick := s.tick + 1 }.markReady

/-- What a move leaves, with the time it took. -/
def after (o : Out) : Out :=
  match o with
  | .next s => .next s.advance
  | .fault f => .fault f
  | .refused r => .refused r

/-- One move of the device: what stands on the agenda; before READY, bring-up; else one of the moves that are due. (DESIGN CHOICE: log 1; DEDUCED: log 19) -/
def State.move (s : State) : Out :=
  if s.bootFail ≠ 0 then .fault (.bringUpFailed s.bootFail.toNat)
  else match s.agenda with
    | m :: r => { s with agenda := r }.runMove m
    | [] => if s.ready then s.takeOne s.due else execPowerGood s

/-! ### Placing one instruction to be performed next -/

/-- The words that only a thread performs (R264, R271). -/
def forThread (w : Nat) : Bool := decide (5 ≤ fld w 30 25 ∧ fld w 30 25 ≤ 7) || (fld w 30 25 == 1 && fld w 9 0 == 28)

/-- The context, kernel and launch under which a placed word is performed: one block, one group of one live lane. -/
def placedKernel : Kernel := ⟨1, 0, 0, 0, [], List.replicate 128 15, none, [([0], 0, 1)]⟩
def placedObject : CodeObj := ⟨1, 0, 4096, 0, 2, [placedKernel], [], [], [(0, 4, rR + rCR + rX)], false, none⟩
def placedContext : Context :=
  { serial := 0, table := tableBase, otn := 1, arena := 0, fetchLen := 65536, caps := [], recipe := List.replicate 2048 0
    claimLost := 0, debug := false, wdt := 2 ^ 30, keys := [], reqSig := false, objs := [placedObject], unloaded := [], nextId := 2, composed := []
    failed := false, trace := none, prof := 0, watches := [] }
/-- LTAG 0, kernel 0 of object 1; width 32, 16 registers, normal class, one tile and one accumulator; levels 1, 1 and 1. -/
def placedRecord : List DWord :=
  [0, dw (2 ^ 32), dw (2 ^ 25 + 2 ^ 20 + 3 * 2 ^ 16 + 2 ^ 14), dw (0x10000001 * 2 ^ 32 + 1), 0x20000001, 0, 0, 0, 0, 0, 3, 0, 0, 0, 0, 0]
def placedLaunch : Launch := { launchFrom placedRecord 0 0 0 with phase := .running, next := 1 }
def placedCrew : Crew :=
  { launch := 0, ctx := 0, idx := 0, core := 0, groups := [0], tile0 := 0, tiles := [Tile.zero], acc0 := 0, accs := [Accum.zero], spad := 0
    spadLen := 0, dbufLen := 0, dbuf := [], halt := none, gated := false, admitted := 0, trace := none, out := Parts.none }
/-- A GENERAL group that runs station 0 of block 0, the placed word its next. -/
def placedGroup (w : Nat) : Group :=
  { newGroup placedLaunch 0 0 0 0 0 0 with members := [0], slotSet := [0], code := [BitVec.ofNat 32 w] }
/-- A thread at the arena's first byte. -/
def placedThread : Thread := freshThread 0 placedContext (some 0) 0

/-- Memory with an instruction in the first page of the context's arena: the object table entry, the page map entry, and
the word. -/
def placedMem (m : List Host.Cell) (w : Nat) : List Host.Cell :=
  mputs (mputs (mputs m tableBase (leBytes (6 * 2 ^ 60 + 0x7F * 2 ^ 52 + 2 ^ 40 + 65535) 8 ++ leBytes 65536 8 ++ List.replicate 16 0))
    65536 (leBytes (mkPme 0 0 0) 8)) 0 (leBytes w 4)

/-- The state with an instruction placed where the next step takes it: as the next word of a group, or at the PC of a
thread for a word that only threads perform. (DESIGN CHOICE: log 5) -/
def State.placed (s : State) (w : Nat) : State :=
  { s with
    ready := true, bootFail := 0
    ctxs := tset s.ctxs 0 placedContext, launches := tset s.launches 0 placedLaunch, nextLaunch := max 1 s.nextLaunch
    crews := tset s.crews 0 placedCrew, nextCrew := max 1 s.nextCrew
    groups := tset s.groups 0 (placedGroup w), threads := tset s.threads 0 placedThread
    mem := placedMem s.mem w
    agenda := (if forThread w then .fetch 0 else .issue 0) :: s.agenda }

end Sys2Proof.Machine
end

