-- ==== Sys2Proof/Machine/Step.lean ====
section
/-! DEFINITION. One step of the module, and the placing of one instruction before its next step. -/
namespace Sys2Proof.Machine

/-- One step: a move of the device, and the time it takes. -/
def step (s : State) : Host.Outcome State Fault Refusal := after s.move

/-- The state with an instruction whose bits are w placed where the next step takes it; bits above nbits are zero. (DESIGN CHOICE: log 5) -/
def State.withFetchWord (s : State) (nbits w : Nat) : State := s.placed (w % 2 ^ min nbits 32)

end Sys2Proof.Machine
end

