-- ==== Sys2Proof/Safety.lean ====
section
/-! DEFINITION. What counts as a sound state and a safe step, in the terms that claims use: the canonical forms of memory
and tags, the legal values of islands, the bounds of the mailbox and of the tables of the stationmaster. -/
namespace Sys2Proof.Machine

/-- A list of numbers is strictly ascending. -/
def ascending : List Nat → Bool
  | [] => true
  | [_] => true
  | a :: b :: r => decide (a < b) && ascending (b :: r)

/-- Device contents in canonical form: memory as memWf says, and the tagged granules ascending. -/
def Dev.sound (d : Dev) : Bool := memWf d.mem && ascending d.tags

/-- Every island is in one of its four states (R441). -/
def islandsLegal (l : List Nat) : Bool := l.length == 24 && l.all fun x => decide (x < 4)

/-- The state is sound: its contents and those of its recovery point are in canonical form, its islands are legal, and no
more commands than 64 are queued (R434). -/
def State.Sound (s : State) : Bool :=
  s.toDev.sound && islandsLegal s.islands && decide (s.mbox.length ≤ 64) && match s.point with
  | none => true
  | some (d, _, _) => d.sound

/-- The machine goes on: the step answers a next state. -/
def goesOn (o : Host.Outcome State Fault Refusal) : Bool :=
  match o with
  | .next _ => true
  | .fault _ | .refused _ => false

/-- A step is safe when the machine goes on and its state is sound. -/
def safeStep (s : State) : Bool :=
  match step s with
  | .next t => t.Sound
  | .fault _ | .refused _ => false

end Sys2Proof.Machine
end

