-- ==== Sys2Proof/Certificates/Slice0/Obligations.lean ====
section
/-! DEFINITION. The statements about the model, as propositions, with the tables they speak in: for each family of words, what
the manual says the word writes and where. A table answers nothing for the instructions it does not speak about. -/
namespace Sys2Proof.Claims
open Sys2Proof.Machine

/-! ### Who performs a word -/

/-- A group performs the word. -/
structure Issues (s : State) (g : Nat) (gr : Group) : Prop where
  who : s.cur.who = .group g
  here : s.group? g = some gr

/-- A group with a lane in its active set performs the word (R8, R31). -/
structure Acts (s : State) (g : Nat) (gr : Group) : Prop extends Issues s g gr where
  active : s.cur.act ≠ []

/-- A thread performs the word (R81). -/
structure Runs (s : State) (t : Nat) (th : Thread) : Prop where
  who : s.cur.who = .thread t
  here : s.thread? t = some th

/-- Every vector register named is declared (R20). -/
def Declared (gr : Group) (rs : List (BitVec 7)) : Prop := ∀ r ∈ rs, r.toNat < gr.regs

/-! ### Scalar words (R269 to R273) -/

/-- Quotient and remainder of R121 on 64 bits. -/
def quotS (x y : DWord) : DWord := if y = 0 then -1 else BitVec.ofInt 64 (x.toInt.tdiv y.toInt)
def quotN (x y : DWord) : DWord := if y = 0 then -1 else BitVec.ofNat 64 (x.toNat / y.toNat)
def restS (x y : DWord) : DWord := if y = 0 then x else BitVec.ofInt 64 (x.toInt.tmod y.toInt)
def restN (x y : DWord) : DWord := if y = 0 then x else BitVec.ofNat 64 (x.toNat % y.toNat)

/-- The amount of a 64-bit shift: the low six bits (R269). -/
def amount (y : DWord) : Nat := (y.extractLsb 5 0).toNat

/-- 1 for true, 0 for false. -/
def truth (b : Bool) : DWord := if b then 1 else 0

/-- Register words: destination and value over the registers read (R269, R270). -/
def registerResult (r : BitVec 5 → DWord) : Instr → Option (BitVec 5 × DWord)
  | .add _ d a b => some (d, r a + r b)
  | .sub _ d a b => some (d, r a - r b)
  | .mul _ d a b => some (d, r a * r b)
  | .mulhS _ d a b => some (d, BitVec.ofInt 64 ((r a).toInt * (r b).toInt / 2 ^ 64))
  | .mulhN _ d a b => some (d, BitVec.ofNat 64 ((r a).toNat * (r b).toNat / 2 ^ 64))
  | .divS _ d a b => some (d, quotS (r a) (r b))
  | .divN _ d a b => some (d, quotN (r a) (r b))
  | .remS _ d a b => some (d, restS (r a) (r b))
  | .remN _ d a b => some (d, restN (r a) (r b))
  | .and _ d a b => some (d, r a &&& r b)
  | .or _ d a b => some (d, r a ||| r b)
  | .xor _ d a b => some (d, r a ^^^ r b)
  | .shl _ d a b => some (d, r a <<< amount (r b))
  | .shr _ d a b => some (d, r a >>> amount (r b))
  | .sra _ d a b => some (d, (r a).sshiftRight (amount (r b)))
  | .minS _ d a b => some (d, if (r a).toInt < (r b).toInt then r a else r b)
  | .maxS _ d a b => some (d, if (r a).toInt < (r b).toInt then r b else r a)
  | .minN _ d a b => some (d, if (r a).toNat < (r b).toNat then r a else r b)
  | .maxN _ d a b => some (d, if (r a).toNat < (r b).toNat then r b else r a)
  | .sltS _ d a b => some (d, truth (decide ((r a).toInt < (r b).toInt)))
  | .sltN _ d a b => some (d, truth (decide ((r a).toNat < (r b).toNat)))
  | .seq _ d a b => some (d, truth (decide (r a = r b)))
  | .bfxS _ d a b => some (d, BitVec.ofInt 64 (bfx true 64 (r a).toNat (fld (r b).toNat 5 0) (fld (r b).toNat 14 8)))
  | .bfxN _ d a b => some (d, BitVec.ofInt 64 (bfx false 64 (r a).toNat (fld (r b).toNat 5 0) (fld (r b).toNat 14 8)))
  | .bfi _ d a b => some (d, BitVec.ofNat 64 (bfi 64 (r d).toNat (fld (r a).toNat 5 0) (fld (r a).toNat 14 8) (r b).toNat))
  | .clz _ d a => some (d, BitVec.ofNat 64 (clzN 64 (r a).toNat))
  | .ctz _ d a => some (d, BitVec.ofNat 64 (ctzN 64 (r a).toNat))
  | .popc _ d a => some (d, BitVec.ofNat 64 (popN 64 (r a).toNat))
  | _ => none

/-- A 12-bit immediate as a 64-bit value: sign-extended, a `hix` payload above it (R260, R272). -/
def wide12 (h : Option (BitVec 25)) (i : BitVec 12) : DWord :=
  match h with
  | none => i.signExtend 64
  | some p => (p ++ i).signExtend 64

/-- Immediate words: destination and value (R272, R273). A shift's immediate lies in 0 to 63, so that a `hix` may add only
zeros to it. -/
def immediateResult (h : Option (BitVec 25)) (r : BitVec 5 → DWord) : Instr → Option (BitVec 5 × DWord)
  | .addi _ d a i => some (d, r a + wide12 h i)
  | .andi _ d a i => some (d, r a &&& wide12 h i)
  | .ori _ d a i => some (d, r a ||| wide12 h i)
  | .xori _ d a i => some (d, r a ^^^ wide12 h i)
  | .sltiS _ d a i => some (d, truth (decide ((r a).toInt < (wide12 h i).toInt)))
  | .shli _ d a i => if wide12 h i < 64 then some (d, r a <<< i.toNat) else none
  | .shri _ d a i => if wide12 h i < 64 then some (d, r a >>> i.toNat) else none
  | .srai _ d a i => if wide12 h i < 64 then some (d, (r a).sshiftRight i.toNat) else none
  | .luh _ d i => some (d, match h with
      | none => (i ++ 0#12).zeroExtend 64
      | some p => (p ++ i ++ 0#12).zeroExtend 64)
  | _ => none

end Sys2Proof.Claims

/-- R269, R270, R19, R268: a register word writes its result to its destination and nothing else: performed by a group, its scalar
register; performed by a thread, its lamplighter register, and the PC advances. s0 and l0 discard what is written. -/
def Obligations.ScalarRegisterWord : Prop :=
  (∀ (i : Sys2Proof.Instr) (s : Sys2Proof.Machine.State) g gr d v, Sys2Proof.Claims.Acts s g gr → s.cur.hix = none →
     Sys2Proof.Claims.registerResult (fun r => gr.rs r.toNat) i = some (d, v) →
     Sys2Proof.Machine.exec i s = .next (s.modGroup g fun x => x.ws d.toNat v)) ∧
  (∀ (i : Sys2Proof.Instr) (s : Sys2Proof.Machine.State) t th d v, Sys2Proof.Claims.Runs s t th →
     Sys2Proof.Claims.registerResult (fun r => th.rl r.toNat) i = some (d, v) →
     Sys2Proof.Machine.exec i s = .next (s.modThread t fun x => { x.wl d.toNat v with pc := x.pc + 4 }))

/-- R272, R273, R260: an immediate word, in a group with the payload of a `hix` where one is bound, and in a thread. -/
def Obligations.ScalarImmediateWord : Prop :=
  (∀ (i : Sys2Proof.Instr) (s : Sys2Proof.Machine.State) g gr d v, Sys2Proof.Claims.Acts s g gr →
     Sys2Proof.Claims.immediateResult s.cur.hix (fun r => gr.rs r.toNat) i = some (d, v) →
     Sys2Proof.Machine.exec i s = .next (s.modGroup g fun x => x.ws d.toNat v)) ∧
  (∀ (i : Sys2Proof.Instr) (s : Sys2Proof.Machine.State) t th d v, Sys2Proof.Claims.Runs s t th →
     Sys2Proof.Claims.immediateResult none (fun r => th.rl r.toNat) i = some (d, v) →
     Sys2Proof.Machine.exec i s = .next (s.modThread t fun x => { x.wl d.toNat v with pc := x.pc + 4 }))
namespace Sys2Proof.Claims
open Sys2Proof.Machine

/-! ### Vector words, lane by lane (R296 to R309, R316) -/

/-- An 8-bit or 14-bit immediate at an element's width, a `hix` payload above it (R298, R316). -/
def wide8 (h : Option (BitVec 25)) (i : BitVec 8) : Word :=
  match h with
  | none => i.signExtend 32
  | some p => (p ++ i).setWidth 32
def wide14 (h : Option (BitVec 25)) (i : BitVec 14) : Word :=
  match h with
  | none => i.signExtend 32
  | some p => (p ++ i).setWidth 32

/-- The amount of a 32-bit shift: the low five bits (R296). -/
def amount32 (y : Word) : Nat := (y.extractLsb 4 0).toNat

/-- An exact integer clamped to a range, as a 32-bit value. -/
def clamp32 (lo hi x : Int) : Word := BitVec.ofInt 32 (max lo (min hi x))

/-- Byte i of an element, signed or unsigned. -/
def byteS (x : Word) (i : Nat) : Int := (x.extractLsb' (8 * i) 8).toInt
def byteN (x : Word) (i : Nat) : Int := (x.extractLsb' (8 * i) 8).toNat

/-- Integer words (R296, R297): destination, sources, and the value over the destination as it was and the sources. -/
def integerResult : Instr → Option (BitVec 7 × BitVec 7 × BitVec 7 × (Word → Word → Word → Word))
  | .addV _ d a b => some (d, a, b, fun _ x y => x + y)
  | .subV _ d a b => some (d, a, b, fun _ x y => x - y)
  | .mulV _ d a b => some (d, a, b, fun _ x y => x * y)
  | .mulhSV _ d a b => some (d, a, b, fun _ x y => BitVec.ofInt 32 (x.toInt * y.toInt / 2 ^ 32))
  | .mulhNV _ d a b => some (d, a, b, fun _ x y => BitVec.ofNat 32 (x.toNat * y.toNat / 2 ^ 32))
  | .andV _ d a b => some (d, a, b, fun _ x y => x &&& y)
  | .orV _ d a b => some (d, a, b, fun _ x y => x ||| y)
  | .xorV _ d a b => some (d, a, b, fun _ x y => x ^^^ y)
  | .shlV _ d a b => some (d, a, b, fun _ x y => x <<< amount32 y)
  | .shrV _ d a b => some (d, a, b, fun _ x y => x >>> amount32 y)
  | .sraV _ d a b => some (d, a, b, fun _ x y => x.sshiftRight (amount32 y))
  | .minSV _ d a b => some (d, a, b, fun _ x y => if x.toInt < y.toInt then x else y)
  | .maxSV _ d a b => some (d, a, b, fun _ x y => if x.toInt < y.toInt then y else x)
  | .minNV _ d a b => some (d, a, b, fun _ x y => if x.toNat < y.toNat then x else y)
  | .maxNV _ d a b => some (d, a, b, fun _ x y => if x.toNat < y.toNat then y else x)
  | .absd _ d a b => some (d, a, b, fun _ x y => BitVec.ofNat 32 (x.toInt - y.toInt).natAbs)
  | .addsS _ d a b => some (d, a, b, fun _ x y => clamp32 (-2 ^ 31) (2 ^ 31 - 1) (x.toInt + y.toInt))
  | .addsN _ d a b => some (d, a, b, fun _ x y => clamp32 0 (2 ^ 32 - 1) (x.toNat + y.toNat))
  | .subsS _ d a b => some (d, a, b, fun _ x y => clamp32 (-2 ^ 31) (2 ^ 31 - 1) (x.toInt - y.toInt))
  | .subsN _ d a b => some (d, a, b, fun _ x y => clamp32 0 (2 ^ 32 - 1) ((x.toNat : Int) - y.toNat))
  | .avgN _ d a b => some (d, a, b, fun _ x y => BitVec.ofNat 32 ((x.toNat + y.toNat + 1) / 2))
  | .bfxV _ d a b => some (d, a, b, fun _ x y => BitVec.ofInt 32 (bfx (y.getLsbD 15) 32 x.toNat (fld y.toNat 4 0) (fld y.toNat 13 8)))
  | .clzV _ d a => some (d, a, a, fun _ x _ => BitVec.ofNat 32 (clzN 32 x.toNat))
  | .popcV _ d a => some (d, a, a, fun _ x _ => BitVec.ofNat 32 (popN 32 x.toNat))
  | .brev _ d a => some (d, a, a, fun _ x _ => x.reverse)
  | .mov _ d a => some (d, a, a, fun _ x _ => x)
  | .dot4S8 _ d a b => some (d, a, b, fun v x y => v + BitVec.ofInt 32
      (byteS x 0 * byteS y 0 + byteS x 1 * byteS y 1 + byteS x 2 * byteS y 2 + byteS x 3 * byteS y 3))
  | .dot4N8 _ d a b => some (d, a, b, fun v x y => v + BitVec.ofInt 32
      (byteN x 0 * byteN y 0 + byteN x 1 * byteN y 1 + byteN x 2 * byteN y 2 + byteN x 3 * byteN y 3))
  | .bfiV _ d a b => some (d, a, b, fun v x y => BitVec.ofNat 32 (bfi 32 v.toNat (fld y.toNat 4 0) (fld y.toNat 13 8) x.toNat))
  | _ => none

/-- Words with an immediate (R298, R316). A shift count lies in 0 to 31. -/
def vectorImmediate (h : Option (BitVec 25)) : Instr → Option (BitVec 7 × BitVec 7 × (Word → Word))
  | .addiV _ d a i => some (d, a, fun x => x + wide8 h i)
  | .andiV _ d a i => some (d, a, fun x => x &&& wide8 h i)
  | .oriV _ d a i => some (d, a, fun x => x ||| wide8 h i)
  | .xoriV _ d a i => some (d, a, fun x => x ^^^ wide8 h i)
  | .muli _ d a i => some (d, a, fun x => x * wide8 h i)
  | .shliV _ d a i => if wide8 h i < 32 then some (d, a, fun x => x <<< (wide8 h i).toNat) else none
  | .shriV _ d a i => if wide8 h i < 32 then some (d, a, fun x => x >>> (wide8 h i).toNat) else none
  | .sraiV _ d a i => if wide8 h i < 32 then some (d, a, fun x => x.sshiftRight (wide8 h i).toNat) else none
  | .movi _ d i => some (d, d, fun _ => wide14 h i)
  | _ => none

/-- Pair words (R296): both sources pairs, or both single. -/
def pairResult : Instr → Option (Bool × BitVec 7 × BitVec 7 × BitVec 7 × (Nat → Nat → Nat))
  | .add64 _ d a b => some (true, d, a, b, fun x y => (x + y) % 2 ^ 64)
  | .sub64 _ d a b => some (true, d, a, b, fun x y => (x + (2 ^ 64 - y)) % 2 ^ 64)
  | .mulwS _ d a b => some (false, d, a, b, fun x y => ((BitVec.ofNat 32 x).toInt * (BitVec.ofNat 32 y).toInt % 2 ^ 64).toNat)
  | .mulwN _ d a b => some (false, d, a, b, fun x y => x * y)
  | _ => none

/-- Floating-point words on one element type (R299 to R304): each element on its own, under the lane's mode. The functions
on one element are those of Flags.lean. -/
def floatResult (m : Mode) : Instr → Option (BitVec 7 × BitVec 7 × BitVec 7 × (Word → Word → Word → Word))
  | .faddF32 _ d a b => some (d, a, b, fun _ x y => map2 .f32 (fun f => faddE f m) x y)
  | .faddH2 _ d a b => some (d, a, b, fun _ x y => map2 .h2 (fun f => faddE f m) x y)
  | .faddB2 _ d a b => some (d, a, b, fun _ x y => map2 .b2 (fun f => faddE f m) x y)
  | .fsubF32 _ d a b => some (d, a, b, fun _ x y => map2 .f32 (fun f => fsubE f m) x y)
  | .fsubH2 _ d a b => some (d, a, b, fun _ x y => map2 .h2 (fun f => fsubE f m) x y)
  | .fsubB2 _ d a b => some (d, a, b, fun _ x y => map2 .b2 (fun f => fsubE f m) x y)
  | .fmulF32 _ d a b => some (d, a, b, fun _ x y => map2 .f32 (fun f => fmulE f m) x y)
  | .fmulH2 _ d a b => some (d, a, b, fun _ x y => map2 .h2 (fun f => fmulE f m) x y)
  | .fmulB2 _ d a b => some (d, a, b, fun _ x y => map2 .b2 (fun f => fmulE f m) x y)
  | .fminF32 _ d a b => some (d, a, b, fun _ x y => map2 .f32 (fun f => fminE f m) x y)
  | .fminH2 _ d a b => some (d, a, b, fun _ x y => map2 .h2 (fun f => fminE f m) x y)
  | .fminB2 _ d a b => some (d, a, b, fun _ x y => map2 .b2 (fun f => fminE f m) x y)
  | .fmaxF32 _ d a b => some (d, a, b, fun _ x y => map2 .f32 (fun f => fmaxE f m) x y)
  | .fmaxH2 _ d a b => some (d, a, b, fun _ x y => map2 .h2 (fun f => fmaxE f m) x y)
  | .fmaxB2 _ d a b => some (d, a, b, fun _ x y => map2 .b2 (fun f => fmaxE f m) x y)
  | .ffmaF32 _ d a b => some (d, a, b, fun v x y => map3 .f32 (fun f => ffmaE false false f m) x y v)
  | .ffmaH2 _ d a b => some (d, a, b, fun v x y => map3 .h2 (fun f => ffmaE false false f m) x y v)
  | .ffmaB2 _ d a b => some (d, a, b, fun v x y => map3 .b2 (fun f => ffmaE false false f m) x y v)
  | .ffmsF32 _ d a b => some (d, a, b, fun v x y => map3 .f32 (fun f => ffmaE false true f m) x y v)
  | .ffmsH2 _ d a b => some (d, a, b, fun v x y => map3 .h2 (fun f => ffmaE false true f m) x y v)
  | .ffmsB2 _ d a b => some (d, a, b, fun v x y => map3 .b2 (fun f => ffmaE false true f m) x y v)
  | .fnmaF32 _ d a b => some (d, a, b, fun v x y => map3 .f32 (fun f => ffmaE true false f m) x y v)
  | .fnmaH2 _ d a b => some (d, a, b, fun v x y => map3 .h2 (fun f => ffmaE true false f m) x y v)
  | .fnmaB2 _ d a b => some (d, a, b, fun v x y => map3 .b2 (fun f => ffmaE true false f m) x y v)
  | .ffmawH _ d a b => some (d, a, b, fun v x y => BitVec.ofNat 32 (ffmawE .f16 m x.toNat y.toNat v.toNat))
  | .ffmawB _ d a b => some (d, a, b, fun v x y => BitVec.ofNat 32 (ffmawE .bf16 m x.toNat y.toNat v.toNat))
  | .frcp _ d a t => some (d, a, a, fun _ x _ => map1 t (fun f => unaryE .rcp f m) x)
  | .frsqrt _ d a t => some (d, a, a, fun _ x _ => map1 t (fun f => unaryE .rsqrt f m) x)
  | .fsqrt _ d a t => some (d, a, a, fun _ x _ => map1 t (fun f => unaryE .sqrt f m) x)
  | .fex2 _ d a t => some (d, a, a, fun _ x _ => map1 t (fun f => unaryE .ex2 f m) x)
  | .flg2 _ d a t => some (d, a, a, fun _ x _ => map1 t (fun f => unaryE .lg2 f m) x)
  | .fsinp _ d a t => some (d, a, a, fun _ x _ => map1 t (fun f => unaryE .sinp f m) x)
  | .fcosp _ d a t => some (d, a, a, fun _ x _ => map1 t (fun f => unaryE .cosp f m) x)
  | .ftanh _ d a t => some (d, a, a, fun _ x _ => map1 t (fun f => unaryE .tanh f m) x)
  | .ffrac _ d a t => some (d, a, a, fun _ x _ => map1 t (fun f => unaryE .frac f m) x)
  | .fclass _ d a t => some (d, a, a, fun _ x _ => map1 t (fun f => fclassE f m) x)
  | .pk2 _ d a b t => some (d, a, b, fun _ x y =>
      pair (convert (.flt (pairFmt t)) (.flt .f32) m x.toNat) (convert (.flt (pairFmt t)) (.flt .f32) m y.toNat))
  | .upk _ d a h t => some (d, a, a, fun _ x _ =>
      BitVec.ofNat 32 (convert (.flt .f32) (.flt (pairFmt t)) m (if h then x.toNat / 65536 % 65536 else x.toNat % 65536)))
  | _ => none

/-- Words that write one predicate of each lane (R308, R309, R316): registers with the number they take, destination, truth. -/
def predicateResult : Instr → Option (List (BitVec 7 × Nat) × BitVec 3 × (Lane → Bool))
  | .cmp _ p c a b t => some ([(a, regsOf t), (b, regsOf t)], p, fun l =>
      cmpVal c t (modeOf l.fmode) (l.rdN a.toNat (regsOf t)) (l.rdN b.toNat (regsOf t)))
  | .ftst _ p a b t => some ([(a, 1), (b, 1)], p, fun l => fld (l.rd b.toNat).toNat 9 0 &&&
      fclassE (typeFmt t) (modeOf l.fmode) ((l.rd a.toNat).toNat % 2 ^ (typeFmt t).width) != 0)
  | .plog _ d t a b => some ([], d, fun l => t.getLsbD (2 * (l.pred a).toNat + (l.pred b).toNat))
  | .setp _ d a => some ([(a, 1)], d, fun l => decide (l.rd a.toNat ≠ 0))
  | _ => none

/-- A run of registers is aligned to its length and declared (R20). -/
def Fits (gr : Machine.Group) (r : BitVec 7 × Nat) : Prop := r.1.toNat % r.2 = 0 ∧ r.1.toNat + r.2 ≤ gr.regs

/-! ### Words across the lanes (R310 to R317) -/

/-- A lane's source value: va of lane j, or its own where there is no lane j (R311). -/
def lent (gr : Machine.Group) (l : Lane) (a : BitVec 7) (j : Int) : Word :=
  if 0 ≤ j ∧ j < gr.lanes.length then (gr.lane j.toNat).rd a.toNat else l.rd a.toNat

/-- The set B of R312. -/
def lanesWith (gr : Machine.Group) (act : List Nat) (p : BitVec 3) : List Nat := act.filter fun i => (gr.lane i).pred p

/-- Words that write a vector register of each active lane from the whole group: registers, destination, and the value for
lane i. -/
def acrossResult (gr : Machine.Group) (act : List Nat) : Instr → Option (List (BitVec 7) × BitVec 7 × (Nat → Lane → Word))
  | .shflIdx _ d a b => some ([d, a, b], d, fun _ l => lent gr l a (l.rd b.toNat).toNat)
  | .shflUp _ d a b => some ([d, a, b], d, fun i l => lent gr l a ((i : Int) - (l.rd b.toNat).toNat))
  | .shflDn _ d a b => some ([d, a, b], d, fun i l => lent gr l a ((i : Int) + (l.rd b.toNat).toNat))
  | .shflXor _ d a b => some ([d, a, b], d, fun i l => lent gr l a ((i ^^^ (l.rd b.toNat).toNat : Nat) : Int))
  | .bcast _ d a b => some ([d, a, b], d, fun _ l => lent gr l a ((gr.lane (act.headD 0)).rd b.toNat).toNat)
  | .ballot _ d p => some ([d], d, fun i _ => BitVec.ofNat 32 (maskWord (lanesWith gr act p) (i / 32)))
  | .vrank _ d p => some ([d], d, fun i _ => BitVec.ofNat 32 ((lanesWith gr act p).filter (· < i)).length)
  | .vcount _ d p => some ([d], d, fun _ _ => BitVec.ofNat 32 (lanesWith gr act p).length)
  | .sel _ d a b p n => some ([d, a, b], d, fun _ l => if xor (l.pred p) n then l.rd a.toNat else l.rd b.toNat)
  | .movs _ d a => some ([d], d, fun _ _ => (gr.rs a.toNat).truncate 32)
  | .movp _ d p => some ([d], d, fun _ l => if l.pred p then 1 else 0)
  | .rdsp _ d => some ([d], d, fun _ l => BitVec.ofNat 32 (gr.members.idxOf l.blk.toNat))
  | .wrlane _ d a b => some ([d], d, fun i l => if i = (gr.rs b.toNat).toNat then (gr.rs a.toNat).truncate 32 else l.rd d.toNat)
  | _ => none

/-- The three operations of a fold on two codes (R313): 32-bit sums that wrap, signed or unsigned comparison, or F32 (R120). -/
def sumOf : TyCode → Option (Mode → Nat → Nat → Nat)
  | .s32 | .n32 => some fun _ x y => (x + y) % 2 ^ 32
  | .f32 => some fun m x y => faddE .f32 m x y
  | _ => none
def greaterOf : TyCode → Option (Mode → Nat → Nat → Nat)
  | .s32 => some fun _ x y => if (BitVec.ofNat 32 x).toInt < (BitVec.ofNat 32 y).toInt then y else x
  | .n32 => some fun _ x y => if x < y then y else x
  | .f32 => some fun m x y => fmaxE .f32 m x y
  | _ => none
def lesserOf : TyCode → Option (Mode → Nat → Nat → Nat)
  | .s32 => some fun _ x y => if (BitVec.ofNat 32 y).toInt < (BitVec.ofNat 32 x).toInt then y else x
  | .n32 => some fun _ x y => if y < x then y else x
  | .f32 => some fun m x y => fminE .f32 m x y
  | _ => none

/-- Folds (R313, R314): destination, source, type, whether it scans, and the operation. -/
def foldResult : Instr → Option (BitVec 7 × BitVec 7 × TyCode × Bool × (Mode → Nat → Nat → Nat))
  | .redadd _ d a t => (sumOf t).map fun f => (d, a, t, false, f)
  | .redmax _ d a t => (greaterOf t).map fun f => (d, a, t, false, f)
  | .redmin _ d a t => (lesserOf t).map fun f => (d, a, t, false, f)
  | .scanadd _ d a t => (sumOf t).map fun f => (d, a, t, true, f)
  | _ => none

end Sys2Proof.Claims

/-- R296, R297, R316: an integer word writes vd of every active lane from that lane's registers, and nothing else. -/
def Obligations.VectorIntegerResult : Prop :=
  ∀ (i : Sys2Proof.Instr) (s : Sys2Proof.Machine.State) g gr d a b f, Sys2Proof.Claims.Acts s g gr → s.cur.hix = none →
    Sys2Proof.Claims.integerResult i = some (d, a, b, f) → Sys2Proof.Claims.Declared gr [d, a, b] →
    Sys2Proof.Machine.exec i s = .next (s.modGroup g fun x => x.onLanes s.cur.act fun _ l =>
      l.wr d.toNat (f (l.rd d.toNat) (l.rd a.toNat) (l.rd b.toNat)))

/-- R18, R296, R298, R316: the words with an immediate, alone or under a `hix`; and the words that write a pair of registers, low
word first. -/
def Obligations.VectorImmediateAndPairResult : Prop :=
  (∀ (i : Sys2Proof.Instr) (s : Sys2Proof.Machine.State) g gr d a f, Sys2Proof.Claims.Acts s g gr →
     Sys2Proof.Claims.vectorImmediate s.cur.hix i = some (d, a, f) → Sys2Proof.Claims.Declared gr [d, a] →
     Sys2Proof.Machine.exec i s = .next (s.modGroup g fun x => x.onLanes s.cur.act fun _ l => l.wr d.toNat (f (l.rd a.toNat)))) ∧
  (∀ (i : Sys2Proof.Instr) (s : Sys2Proof.Machine.State) g gr w d a b f, Sys2Proof.Claims.Acts s g gr → s.cur.hix = none →
     Sys2Proof.Claims.pairResult i = some (w, d, a, b, f) →
     Sys2Proof.Claims.Fits gr (d, 2) → Sys2Proof.Claims.Fits gr (a, if w then 2 else 1) →
     Sys2Proof.Claims.Fits gr (b, if w then 2 else 1) →
     Sys2Proof.Machine.exec i s = .next (s.modGroup g fun x => x.onLanes s.cur.act fun _ l =>
       let v := fun (r : BitVec 7) => if w then l.rd64 r.toNat else (l.rd r.toNat).toNat
       (l.wr d.toNat (BitVec.ofNat 32 (f (v a) (v b)))).wr (d.toNat + 1) (BitVec.ofNat 32 (f (v a) (v b) / 2 ^ 32))))

/-- R299 to R304, R307: a floating-point word computes each element under the FMODE of its own lane (R294). In the functions on
one element, that FTZ, DAZ and the order of NaNs apply to the product rounded under FMAL (log entry 57), and the precision by
which the transcendental ones decide their rounding (58), are the model's readings. -/
def Obligations.VectorFloatResult : Prop :=
  ∀ (i : Sys2Proof.Instr) (s : Sys2Proof.Machine.State) g gr d a b, Sys2Proof.Claims.Acts s g gr → s.cur.hix = none →
    (∃ f, Sys2Proof.Claims.floatResult (Sys2Proof.Machine.modeOf 0) i = some (d, a, b, f)) → Sys2Proof.Claims.Declared gr [d, a, b] →
    Sys2Proof.Machine.exec i s = .next (s.modGroup g fun x => x.onLanes s.cur.act fun _ l =>
      match Sys2Proof.Claims.floatResult (Sys2Proof.Machine.modeOf l.fmode) i with
      | some (_, _, _, f) => l.wr d.toNat (f (l.rd d.toNat) (l.rd a.toNat) (l.rd b.toNat))
      | none => l)

/-- R293, R305, R306: a conversion rounds into the destination type, and a signed narrow result is sign-extended; the conversions
between F32 and a minifloat go by the descriptor in sb, and an illegal descriptor traps UNDEF with reason 3, counted as a word by
the profile (R426). That a minifloat's infinity decodes by the row's overflow rule under SAT is the model's reading (log entry
96). -/
def Obligations.ConversionResult : Prop :=
  (∀ (S : Bool) (d a : BitVec 7) (y z : Sys2Proof.TyCode) (s : Sys2Proof.Machine.State) g gr, Sys2Proof.Claims.Acts s g gr →
     s.cur.hix = none → Sys2Proof.Claims.Fits gr (d, Sys2Proof.Machine.regsOf y) → Sys2Proof.Claims.Fits gr (a, Sys2Proof.Machine.regsOf z) →
     Sys2Proof.Machine.exec (.cvt S d a y z) s = .next (s.modGroup g fun x => x.onLanes s.cur.act fun _ l =>
       l.wrN d.toNat (Sys2Proof.Machine.extended y (Sys2Proof.Machine.convert (Sys2Proof.Machine.numTy y) (Sys2Proof.Machine.numTy z)
         (Sys2Proof.Machine.modeOf l.fmode) (l.rdN a.toNat (Sys2Proof.Machine.regsOf z)))) (Sys2Proof.Machine.regsOf y))) ∧
  (∀ (S : Bool) (d a : BitVec 7) (b : BitVec 5) (s : Sys2Proof.Machine.State) g gr, Sys2Proof.Claims.Acts s g gr →
     s.cur.hix = none → Sys2Proof.Claims.Declared gr [d, a] →
     let w := Sys2Proof.fld (gr.rs b.toNat).toNat 31 0
     let e := Sys2Proof.Machine.descOf w
     if Sys2Proof.Machine.descLegal w = true ∧ (e.fmt = 9 ∨ e.fmt = 10) then
       Sys2Proof.Machine.exec (.cvtmfE S d a b) s = .next (s.modGroup g fun x => x.onLanes s.cur.act fun _ l =>
         l.wr d.toNat (BitVec.ofNat 32 (Sys2Proof.Machine.encodeMF e (Sys2Proof.Machine.modeOf l.fmode).rm (Sys2Proof.Machine.modeOf l.fmode).sat
           (Sys2Proof.Machine.readF .f32 (Sys2Proof.Machine.modeOf l.fmode) (l.rd a.toNat).toNat)))) ∧
       Sys2Proof.Machine.exec (.cvtmfD S d a b) s = .next (s.modGroup g fun x => x.onLanes s.cur.act fun _ l =>
         l.wr d.toNat (BitVec.ofNat 32 (Sys2Proof.Machine.mfToF32 e (Sys2Proof.Machine.modeOf l.fmode) (l.rd a.toNat).toNat)))
     else Sys2Proof.Machine.exec (.cvtmfE S d a b) s = .next ((s.countRefused g gr).undef g 3) ∧
       Sys2Proof.Machine.exec (.cvtmfD S d a b) s = .next ((s.countRefused g gr).undef g 3))

/-- R308, R309, R316: a predicate word writes pd of every active lane; p0 discards it (R19). -/
def Obligations.PredicateResult : Prop :=
  ∀ (i : Sys2Proof.Instr) (s : Sys2Proof.Machine.State) g gr rs p f, Sys2Proof.Claims.Acts s g gr → s.cur.hix = none →
    Sys2Proof.Claims.predicateResult i = some (rs, p, f) → (∀ r ∈ rs, Sys2Proof.Claims.Fits gr r) →
    Sys2Proof.Machine.exec i s = .next (s.modGroup g fun x => x.onLanes s.cur.act fun _ l => l.setPred p (f l))

/-- R30, R309 to R312, R316, R317: a word across the lanes reads every source from the group as it stood before. `vany` and `vall`
write pd of every active lane; `rdlane` reads any lane, and 0 at or beyond the width. -/
def Obligations.AcrossLanesResult : Prop :=
  (∀ (i : Sys2Proof.Instr) (s : Sys2Proof.Machine.State) g gr rs d f, Sys2Proof.Claims.Acts s g gr → s.cur.hix = none →
     Sys2Proof.Claims.acrossResult gr s.cur.act i = some (rs, d, f) → Sys2Proof.Claims.Declared gr rs →
     Sys2Proof.Machine.exec i s = .next (s.modGroup g fun x => x.onLanes s.cur.act fun i l => l.wr d.toNat (f i l))) ∧
  ((∀ (S : Bool) (d p : BitVec 3) (s : Sys2Proof.Machine.State) g gr, Sys2Proof.Claims.Acts s g gr → s.cur.hix = none →
      Sys2Proof.Machine.exec (.vany S d p) s = .next (s.modGroup g fun x => x.onLanes s.cur.act fun _ l =>
        l.setPred d (s.cur.act.any fun i => (gr.lane i).pred p)) ∧
      Sys2Proof.Machine.exec (.vall S d p) s = .next (s.modGroup g fun x => x.onLanes s.cur.act fun _ l =>
        l.setPred d (s.cur.act.all fun i => (gr.lane i).pred p))) ∧
   (∀ (S : Bool) (d b : BitVec 5) (a : BitVec 7) (s : Sys2Proof.Machine.State) g gr, Sys2Proof.Claims.Acts s g gr → s.cur.hix = none →
      Sys2Proof.Claims.Declared gr [a] →
      Sys2Proof.Machine.exec (.rdlane S d a b) s = .next (s.modGroup g fun x => x.ws d.toNat
        (if (gr.rs b.toNat).toNat < gr.lanes.length then ((gr.lane (gr.rs b.toNat).toNat).rd a.toNat).zeroExtend 64 else 0))))

/-- R313 to R315: a fold starts with the value of the first active lane and takes the others in ascending order; a scan gives each
active lane the value up to its own. A float fold whose lanes disagree in RM, DAZ, FTZ, NANP or MINX traps FMTMIX and writes
nothing. That a float fold quiets a signalling NaN in its first value, where no operation has delivered it, is the model's reading
(log entry 95). -/
def Obligations.FoldResult : Prop :=
  ∀ (i : Sys2Proof.Instr) (s : Sys2Proof.Machine.State) g gr d a t scan op, Sys2Proof.Claims.Acts s g gr → s.cur.hix = none →
    Sys2Proof.Claims.foldResult i = some (d, a, t, scan, op) → Sys2Proof.Claims.Declared gr [d, a] →
    let md := Sys2Proof.Machine.modeOf (gr.lane (s.cur.act.headD 0)).fmode
    let code := fun i => ((gr.lane i).rd a.toNat).toNat
    let first := if t = .f32 then Sys2Proof.Machine.returned .f32 md (code (s.cur.act.headD 0)) else code (s.cur.act.headD 0)
    let fold := fun (others : List Nat) => others.foldl (fun x i => op md x (code i)) first
    if t = .f32 ∧ ∃ j ∈ s.cur.act.tail, (gr.lane j).fmode &&& 0xDF ≠ (gr.lane (s.cur.act.headD 0)).fmode &&& 0xDF then
      Sys2Proof.Machine.exec i s = .next (s.trapNow g 5 s.cur.act 0 0 0)
    else Sys2Proof.Machine.exec i s = .next (s.modGroup g fun x => x.onLanes s.cur.act fun i l =>
      l.wr d.toNat (BitVec.ofNat 32 (fold (if scan then s.cur.act.tail.take (s.cur.act.idxOf i) else s.cur.act.tail))))

namespace Sys2Proof.Claims
open Sys2Proof.Machine

/-! ### Memory words of a group (R274, R318 to R325, R328 to R338) -/

/-- A signed or unsigned field of n bits, a `hix` payload above it (R260). -/
def wideS (h : Option (BitVec 25)) (n : Nat) (x : BitVec n) : Int :=
  match h with
  | none => x.toInt
  | some p => (p ++ x).toInt
def wideN (h : Option (BitVec 25)) (n : Nat) (x : BitVec n) : Nat :=
  match h with
  | none => x.toNat
  | some p => (p ++ x).toNat

/-- What a memory word asks for: the capability register, the bytes and right of each access, what the answer is for, whether
it counts as outstanding (R77), its class (R87), whether it writes, and whether it is an atomic. -/
structure Ask where
  cap     : BitVec 4
  size    : Nat
  need    : Nat
  kind    : OpKind
  counted : Bool
  cls     : Nat
  write   : Bool
  isAtom  : Bool

/-- A word with one access for each active lane: the address register, what is added to it, the registers it names, and the
value a lane sends. -/
structure LaneWord extends Ask where
  addr  : BitVec 7
  add   : Int
  regs  : List (BitVec 7 × Nat)
  value : Lane → Nat × Nat

def ldBytes : LdTy → Nat
  | .n8 | .s8 => 1
  | .n16 | .s16 => 2
  | .b32 => 4
  | .b64 => 8
  | .b128 => 16
def stBytes : StTy → Nat
  | .b8 => 1
  | .b16 => 2
  | .b32 => 4
  | .b64 => 8
  | .b128 => 16
def elements (n : Nat) : Nat := if n = 16 then 4 else if n = 8 then 2 else 1

/-- An atomic of one or two elements: `cas` takes the compare value, then the new value (R323, R324). -/
def atomAsk (d : BitVec 7) (k : BitVec 4) (a : BitVec 7) (o : AtomOp) (w : Nat) (returns : Bool) : LaneWord :=
  { cap := k, size := 4 * w, need := 4, kind := .atom (4 * w) o d.toNat returns, counted := returns, cls := 3, write := true,
    isAtom := true, addr := a, add := 0, regs := [(d, if o = .cas then 2 * w else w), (a, 1)],
    value := fun l => (l.rdN d.toNat w, if o = .cas then l.rdN (d.toNat + w) w else 0) }

/-- The per-lane words: loads, stores (R318, R320, R322), atomics (R323); an atomic takes no `hix`. -/
def laneWordOf (h : Option (BitVec 25)) : Instr → Option LaneWord
  | .ld _ d k a t i => some
      { cap := k, size := ldBytes t, need := 1, kind := .ld t d.toNat, counted := true, cls := 1, write := false, isAtom := false,
        addr := a, add := wideS h 4 i * ldBytes t, regs := [(d, elements (ldBytes t)), (a, 1)], value := fun _ => (0, 0) }
  | .st _ d k a t i => some
      { cap := k, size := stBytes t, need := 2, kind := .store, counted := false, cls := 2, write := true, isAtom := false,
        addr := a, add := wideS h 4 i * stBytes t, regs := [(d, elements (stBytes t)), (a, 1)],
        value := fun l => (l.rdN d.toNat (elements (stBytes t)) % 2 ^ (8 * stBytes t), 0) }
  | .atom _ d k a o _ => if h = none then some (atomAsk d k a o 1 true) else none
  | .atomx _ d k a o _ => if h = none then some (atomAsk d k a o 1 false) else none
  | .atom64 _ d k a o _ => if h = none then some (atomAsk d k a o 2 true) else none
  | .atomx64 _ d k a o _ => if h = none then some (atomAsk d k a o 2 false) else none
  | _ => none

/-- The window offset of a lane, exactly (R318). -/
def laneOffset (gr : Machine.Group) (w : LaneWord) (i : Nat) : Int := (((gr.lane i).rd w.addr.toNat).toNat : Int) + w.add

/-- The checks of one access, in the order of R182. -/
def BadAlign (c : Cap) (off : Int) (n : Nat) : Prop := off % (n : Int) ≠ 0 ∨ ((c.low : Int) + off) % (n : Int) ≠ 0
def BadBound (c : Cap) (off : Int) (n : Nat) : Prop := off < 0 ∨ (c.len : Int) < off + n

/-- A word with one access for the group: offset, what the capability may be for (R328), value, the tag that goes with a
granule, and whether the access makes and meets claims. -/
structure OnceWord extends Ask where
  off   : Int
  kinds : List Nat
  value : Nat
  tag   : Option Bool
  plain : Bool

def scalarAsk (gr : Machine.Group) (h : Option (BitVec 25)) (k : BitVec 4) (a : BitVec 5) (i : BitVec 8) (n : Nat)
    (load : Option (BitVec 5)) (v : Nat) : OnceWord :=
  { cap := k, size := n, need := if load = none then 2 else 1, kind := match load with
      | none => .store
      | some d => .lds d.toNat, counted := load ≠ none, cls := if load = none then 2 else 1, write := load = none, isAtom := false,
    off := ((gr.rs a.toNat).toNat : Int) + wideS h 8 i, kinds := [1, 2, 3, 4, 5, 6], value := v % 2 ^ (8 * n), tag := none, plain := true }

/-- Scalar memory and capability words, and `barinit`: the group does not wait for them (R274, R329, R337, R338). -/
def onceWordOf (gr : Machine.Group) (h : Option (BitVec 25)) : Instr → Option OnceWord
  | .ldsN8 _ d k a i => some (scalarAsk gr h k a i 1 (some d) 0)
  | .ldsN16 _ d k a i => some (scalarAsk gr h k a i 2 (some d) 0)
  | .ldsN32 _ d k a i => some (scalarAsk gr h k a i 4 (some d) 0)
  | .ldsB64 _ d k a i => some (scalarAsk gr h k a i 8 (some d) 0)
  | .stsB8 _ d k a i => some (scalarAsk gr h k a i 1 none (gr.rs d.toNat).toNat)
  | .stsB16 _ d k a i => some (scalarAsk gr h k a i 2 none (gr.rs d.toNat).toNat)
  | .stsB32 _ d k a i => some (scalarAsk gr h k a i 4 none (gr.rs d.toNat).toNat)
  | .stsB64 _ d k a i => some (scalarAsk gr h k a i 8 none (gr.rs d.toNat).toNat)
  | .kld _ d k a => if h = none then some
      { cap := k, size := 16, need := 1, kind := .kld d.toNat (holds (gr.rk k.toNat).rights 64), counted := true, cls := 1,
        write := false, isAtom := false, off := ((gr.rs a.toNat).toNat : Int), kinds := [1, 2, 3, 4, 5, 6], value := 0, tag := none, plain := true }
    else none
  | .kst _ d k a => if h = none then some
      { cap := k, size := 16, need := 66, kind := .store, counted := false, cls := 2, write := true, isAtom := false,
        off := ((gr.rs a.toNat).toNat : Int), kinds := [1, 2, 3, 4, 5, 6], value := (gr.rk d.toNat).bits.toNat,
        tag := some (gr.rk d.toNat).tag, plain := true }
    else none
  | .barinit _ k a b => if h = none then some
      { cap := k, size := 8, need := 2, kind := .store, counted := false, cls := 2, write := true, isAtom := false,
        off := ((gr.rs a.toNat).toNat : Int), kinds := [2], value := fld (gr.rs b.toNat).toNat 27 0 * 2 ^ 28, tag := none, plain := false }
    else none
  | _ => none

def scopeCode : Scope → Nat
  | .group => 0
  | .core => 1
  | .cluster => 2
  | .die => 3
  | .device => 4
  | .system => 5

/-- A synchronisation word: an arrival or a registration, which no counter or class counts (R328 to R333). -/
def syncAsk (gr : Machine.Group) (k : BitVec 4) (a : BitVec 5) (kinds : List Nat) (kind : OpKind) (arrives : Bool) : OnceWord :=
  { cap := k, size := 8, need := if arrives then 4 else 1, kind := kind, counted := false, cls := 0, write := arrives,
    isAtom := arrives, off := ((gr.rs a.toNat).toNat : Int), kinds := kinds, value := 0, tag := none, plain := false }

/-- Words that hold the group's issue until the home has answered (R200). -/
def syncWordOf (gr : Machine.Group) (h : Option (BitVec 25)) : Instr → Option OnceWord
  | .barr _ k a c n => some (syncAsk gr k a [2] (.arrive (wideN h 5 n) false (scopeCode c)) true)
  | .bars _ k a c n => some (syncAsk gr k a [2] (.arrive (wideN h 5 n) true (scopeCode c)) true)
  | .barw _ k a b c => if h = none then some (syncAsk gr k a [2] (.register false (gr.rs b.toNat) (scopeCode c)) false) else none
  | .waitw _ k a b => if h = none then some (syncAsk gr k a [1, 2] (.register true (gr.rs b.toNat) 5) false) else none
  | _ => none

/-- Every check of a single access passes. -/
def OncePasses (gr : Machine.Group) (w : OnceWord) : Prop :=
  let c := gr.rk w.cap.toNat
  ¬ BadAlign c w.off w.size ∧ ¬ BadBound c w.off w.size ∧ c.rights &&& w.need = w.need ∧ c.wellFormed = true ∧ c.kind ∈ w.kinds

/-- The state in which the single access has left. -/
def onceSent (s : Machine.State) (g : Nat) (gr : Machine.Group) (w : OnceWord) : Machine.State :=
  let c := gr.rk w.cap.toNat
  s.send g gr w.kind w.counted w.cls ⟨c, w.need, w.write, w.isAtom, w.plain, w.tag⟩
    [⟨1024, ((c.low : Int) + w.off).toNat, w.size, w.value, 0⟩]

/-- Capability words without an access (R336, R339): the source register, and over it and the scalar registers the trap code,
or the capability or scalar register written. -/
inductive CapEffect where
  | stops (code : Nat)
  | cap (d : BitVec 4) (c : Cap)
  | scalar (d : BitVec 5) (v : DWord)

def capEffect (k : BitVec 4 → Cap) (r : BitVec 5 → DWord) : Instr → Option (BitVec 4 × CapEffect)
  | .kmov _ d x => some (x, .cap d (k x))
  | .kwin _ d x a b => some (x,
      if (k x).len < (r a).toNat + (r b).toNat then .stops 8
      else if (k x).wellFormed = false then .stops 10
      else .cap d (mkCap (k x).handle (k x).rights (k x).kind ((k x).low + (r a).toNat) (r b).toNat))
  | .krights _ d x a => some (x,
      if (k x).wellFormed = false then .stops 10
      else .cap d (mkCap (k x).handle ((k x).rights &&& (r a).toNat % 256) (k x).kind (k x).low (k x).len))
  | .kget _ d x f => some (x, .scalar d (BitVec.ofNat 64 (match f with
      | .handle => (k x).handle
      | .rights => (k x).rights
      | .kind => (k x).kind
      | .low => (k x).low
      | .len => (k x).len)))
  | .ktag _ d x => some (x, .scalar d (BitVec.ofNat 64 ((if (k x).tag then 1 else 0) + (if (k x).wellFormed then 2 else 0))))
  | _ => none

end Sys2Proof.Claims

namespace Sys2Proof.Claims
open Sys2Proof.Machine

/-! ### The steps of the model -/

/-- A move of the agenda taken in s with an outcome, or held back where the store of reports has no place for what it reports. -/
def taken (s : Machine.State) (m : Move) (o : Host.Outcome Machine.State Fault Refusal) : Host.Outcome Machine.State Fault Refusal :=
  match o with
  | .next t => if s.mustWait t then .next (s.holdMove m) else .next t
  | .fault f => .fault f
  | .refused r => .refused r


/-! ### Words that every check lets pass, and those that one stops -/

/-- Words with a field that a `hix` widens (R260). -/
def widened : Instr → Bool
  | .addi .. | .andi .. | .ori .. | .xori .. | .shli .. | .shri .. | .srai .. | .sltiS .. | .luh .. => true
  | .ldsN8 .. | .ldsN16 .. | .ldsN32 .. | .ldsB64 .. | .stsB8 .. | .stsB16 .. | .stsB32 .. | .stsB64 .. => true
  | .addiV .. | .andiV .. | .oriV .. | .xoriV .. | .shliV .. | .shriV .. | .sraiV .. | .muli .. | .movi .. => true
  | .ld .. | .st .. | .barr .. | .bars .. => true
  | _ => false

/-- Words that only a thread performs (R264, R271, R275 to R291). -/
def threadOnly : Instr → Bool
  | .jalr .. | .beq .. | .bne .. | .bltS .. | .bgeS .. | .bltN .. | .bgeN .. | .jal .. => true
  | .emit .. | .emitnb .. | .emits .. | .sopen .. | .stins .. | .sdecl .. | .gwait .. | .grec .. => true
  | .gread .. | .gwrite .. | .gres .. | .gkill .. | .launch .. => true
  | _ => false

/-- Words that a group and a thread both perform (R265): scalar words, scalar memory, fences, capability words. -/
def shared : Instr → Bool
  | .add .. | .sub .. | .mul .. | .mulhS .. | .mulhN .. | .divS .. | .divN .. | .remS .. | .remN .. => true
  | .and .. | .or .. | .xor .. | .shl .. | .shr .. | .sra .. | .minS .. | .maxS .. | .minN .. | .maxN .. => true
  | .sltS .. | .sltN .. | .seq .. | .bfxS .. | .bfxN .. | .bfi .. | .clz .. | .ctz .. | .popc .. => true
  | .addi .. | .andi .. | .ori .. | .xori .. | .shli .. | .shri .. | .srai .. | .sltiS .. | .luh .. => true
  | .ldsN8 .. | .ldsN16 .. | .ldsN32 .. | .ldsB64 .. | .stsB8 .. | .stsB16 .. | .stsB32 .. | .stsB64 .. => true
  | .fence .. | .kmov .. | .kwin .. | .krights .. | .kld .. | .kst .. | .kget .. | .ktag .. => true
  | _ => false

/-- An instruction with an encoding. -/
def encoded (i : Instr) : Bool := (encode i).isSome

/-- Words that are performed whatever the active set is (R31): hints, `vote`, `trap`, `brk`. -/
def evenEmpty : Instr → Bool
  | .vote _ | .trap _ _ | .brk _ _ | .slot _ _ | .grd _ _ _ _ | .cach _ _ | .hix _ _ => true
  | _ => false

/-- Words that trap ROLE in a group of another role (R54): tile and matrix words need MATRIX or GENERAL, copy words COPY or
GENERAL, `sinv` GENERAL. -/
def rolesOf : Instr → List Role
  | .tcfg .. | .acfg .. | .tld .. | .tst .. | .mma .. | .mmb .. | .azero .. | .ard .. | .awr .. | .acvt .. => [.matrix, .general]
  | .cpyLin .. | .cpyTen .. | .cpyGat .. | .cpySct .. | .cpyRed .. | .qfence .. => [.copy, .general]
  | .sinv .. => [.general]
  | _ => [.vector, .matrix, .copy, .general]

/-- The majors that are assigned (R242), and those with a word that a `hix` widens (R260). -/
def majors : List Nat :=
  [0x01, 0x02, 0x03, 0x04, 0x05, 0x06, 0x07, 0x10, 0x11, 0x12, 0x13, 0x14, 0x15, 0x16, 0x17, 0x18, 0x19, 0x1A,
   0x20, 0x21, 0x22, 0x23, 0x24, 0x25, 0x28, 0x29, 0x2A, 0x2B, 0x30, 0x38, 0x39, 0x3A, 0x3B]
def widenedMajors : List Nat := [0x02, 0x03, 0x04, 0x12, 0x1A, 0x20, 0x21, 0x24]

/-- The runs of vector registers that a word names, each with its length (R20). -/
def runsOf (gr : Machine.Group) (i : Instr) : List (BitVec 7 × Nat) :=
  let single := fun (rs : List (BitVec 7)) => rs.map fun r => (r, 1)
  match i with
  | .cvt _ d a y z => [(d, regsOf y), (a, regsOf z)]
  | .cvtmfE _ d a _ | .cvtmfD _ d a _ => single [d, a]
  | .redadd _ d a _ | .redmax _ d a _ | .redmin _ d a _ | .scanadd _ d a _ => single [d, a]
  | .addiV _ d a _ | .andiV _ d a _ | .oriV _ d a _ | .xoriV _ d a _ | .muli _ d a _ => single [d, a]
  | .shliV _ d a _ | .shriV _ d a _ | .sraiV _ d a _ => single [d, a]
  | .movi _ d _ => single [d]
  | .setblkv _ v | .setfmReg _ v | .pfch _ _ v _ | .rdlane _ _ v _ | .ard _ _ v _ | .awr _ _ v _ => single [v]
  | .rdsr _ d e => if srPerLane e.toNat then single [d] else []
  | i => (List.findSome? id
    [(laneWordOf none i).map LaneWord.regs, (predicateResult i).map (·.1),
     (pairResult i).map fun (w, d, a, b, _) => [(d, 2), (a, if w then 2 else 1), (b, if w then 2 else 1)],
     (integerResult i).map fun (d, a, b, _) => single [d, a, b],
     (floatResult (modeOf 0) i).map fun (d, a, b, _) => single [d, a, b],
     (acrossResult gr [] i).map fun (rs, _) => single rs]).getD []

/-- The tile registers and accumulators that a word names, and their place in the crew's partition (R20). -/
def tilesOf : Instr → List (BitVec 4)
  | .tcfg _ t _ | .tld _ t _ _ _ _ | .tst _ t _ _ _ _ => [t]
  | .mma _ _ a b _ | .mmb _ _ a b _ => [a, b]
  | _ => []
def accsOf : Instr → List (BitVec 3)
  | .acfg _ d _ | .mma _ d _ _ _ | .mmb _ d _ _ _ | .azero _ d | .ard _ d _ _ | .awr _ d _ _ | .acvt _ d _ => [d]
  | _ => []
def TilesIn (s : Machine.State) (gr : Machine.Group) (ts : List (BitVec 4)) : Prop :=
  ∀ t ∈ ts, ∃ c, s.crew? gr.crew = some c ∧ t.toNat < c.tiles.length
def AccsIn (s : Machine.State) (gr : Machine.Group) (as : List (BitVec 3)) : Prop :=
  ∀ a ∈ as, ∃ c, s.crew? gr.crew = some c ∧ a.toNat < c.accs.length

/-- A word's values that the encoding does not show are no reserved ones: shift amounts under a `hix` (R260, R272, R298), blocks
(R367), descriptors (R306), and the values of `tcfg` and `acfg` (R345, R346). -/
def Allowed (s : Machine.State) (gr : Machine.Group) : Instr → Prop
  | .shli _ _ _ i | .shri _ _ _ i | .srai _ _ _ i => wide12 s.cur.hix i < 64
  | .shliV _ _ _ i | .shriV _ _ _ i | .sraiV _ _ _ i => wide8 s.cur.hix i < 32
  | .setblk _ a b _ => (a = 255 ∨ a.toNat < s.blocksOf gr) ∧ (b = 255 ∨ b.toNat < s.blocksOf gr)
  | .cvtmfE _ _ _ b | .cvtmfD _ _ _ b =>
    let n := fld (gr.rs b.toNat).toNat 31 0
    descLegal n = true ∧ ((descOf n).fmt = 9 ∨ (descOf n).fmt = 10)
  | .tcfg _ _ a => gr.rs a.toNat = 0 ∨ tctlLegal (gr.rs a.toNat) = true
  | .acfg _ _ a => (gr.rs a.toNat).toNat % 32 = 0 ∧ (gr.rs a.toNat).toNat < gr.lanes.length
  | _ => True

/-- No check of UNDEF stops the word. -/
structure Admitted (s : Machine.State) (gr : Machine.Group) (i : Instr) : Prop where
  hix    : s.cur.hix = none ∨ widened i = true
  values : Allowed s gr i
  runs   : ∀ r ∈ runsOf gr i, Fits gr r
  tiles  : TilesIn s gr (tilesOf i)
  accs   : AccsIn s gr (accsOf i)
  slot   : ∀ S (m : BitVec 8), i = .slot S m → m.toNat < 2 ^ gr.members.length
  mode   : ∀ S (m : BitVec 16), i = .setfmImm S m → fmodeLegal m.toNat = true

/-- A thread that runs fetches a word that its fetch capability reaches: the port answers, in state and entry p, with a place that
stands ready, in no way of a refresh or of urgent reads, and in no unloaded image (R80, R268, R419, R440). -/
structure Fetches (s : Machine.State) (t : Nat) (th : Machine.Thread) (c : Context) (p : Machine.State × Option Entry) (f : Nat) : Prop where
  here   : s.thread? t = some th
  runs   : th.runs = true
  ctx    : s.ctx? th.ctx = some c
  within : th.pc + 4 ≤ c.fetchLen
  loaded : c.isUnloaded th.pc = false
  table  : s.tableBank (portOf (threadCore t)) th.ctx c.arena 6 32 th.pc 4 = none
  entry  : s.portEntry (portOf (threadCore t)) th.ctx c.arena 6 32 th.pc 4 = p
  place  : judge s.mem p.2 6 32 th.pc 4 = .at_ f
  bank   : s.rangeBank f 4 = none
  goes   : s.readWaits f = false

/-- The state in which the thread performs the fetched word: a watchpoint on it has been reported (R429). -/
def fetched (p : Machine.State × Option Entry) (t : Nat) (th : Machine.Thread) (c : Context) (w : Word) : Machine.State :=
  (p.1.watchReport 2 th.ctx c.arena th.pc 4 0 false).beginThread t w

end Sys2Proof.Claims

/-- R264, R265, R260, R205, R268, R426: in a group, a word that only a thread performs traps UNDEF with reason 7; a word without a
widened field behind a `hix` traps UNDEF with reason 3, the lowest of the reasons that apply, also where only a thread performs
it. A word that is no instruction traps UNDEF with the lowest of reasons 1 to 4: 1 for the words of zeros and of ones, 2 for a
major that is not assigned, else 3 for a reserved value or for a `hix` before a word without a widened field, and 4 where only a
reserved bit is set. That this order holds for reserved bits together with those conditions, and for the branches and jumps, of
which R275 names reason 7, is the model's reading (log entry 73). The profile counts the words of its majors that trap so. In a
thread, a word that only a group performs, or that is no instruction, takes the level-two fault L2UNDEF. -/
def Obligations.WordsRefused : Prop :=
  (∀ (i : Sys2Proof.Instr) (s : Sys2Proof.Machine.State) g gr, Sys2Proof.Claims.Issues s g gr →
     (Sys2Proof.Claims.threadOnly i = true → s.cur.hix = none → Sys2Proof.Machine.exec i s = .next (s.undef g 7)) ∧
     (Sys2Proof.Claims.threadOnly i = true → s.cur.hix ≠ none → Sys2Proof.Machine.exec i s = .next (s.undef g 3)) ∧
     (Sys2Proof.Claims.encoded i = true → Sys2Proof.Claims.threadOnly i = false → Sys2Proof.Claims.widened i = false → s.cur.hix ≠ none →
       Sys2Proof.Machine.exec i s = .next ((s.countRefused g gr).undef g 3))) ∧
  (∀ (i : Sys2Proof.Instr) (s : Sys2Proof.Machine.State) t th, Sys2Proof.Claims.Runs s t th → Sys2Proof.Claims.encoded i = true →
     Sys2Proof.Claims.threadOnly i = false → Sys2Proof.Claims.shared i = false →
     Sys2Proof.Machine.exec i s = .next (s.l2fault t .undef 0)) ∧
  (∀ (s : Sys2Proof.Machine.State) g r gr q gr1 k, s.bootFail = 0 → s.agenda = .issue g :: r → s.group? g = some gr →
     let s0 := { s with agenda := r }
     let u := s0.begin g gr q gr1
     let w := q.word.toNat
     let major := Sys2Proof.fld w 30 25
     s0.raiseDue gr = false → gr.nextWord = some (q, gr1) → Sys2Proof.decode w = .error k →
     ∃ n, Sys2Proof.Machine.step s = Sys2Proof.Machine.after
         (Sys2Proof.Claims.taken s0 (.issue g) (.next ((u.countRefused g gr).undef g n))) ∧
       (n = 1 ↔ w = 0 ∨ w = 0xFFFFFFFF) ∧ (n = 2 ↔ w ≠ 0 ∧ w ≠ 0xFFFFFFFF ∧ major ∉ Sys2Proof.Claims.majors) ∧
       (k = 3 → n = 3) ∧ (k = 4 → n = 3 ∨ n = 4) ∧
       (k = 4 → u.cur.hix = none → major ≠ 0x16 → major ≠ 0x28 → major ≠ 0x38 → n = 4) ∧
       (k = 4 → u.cur.hix ≠ none → major ∉ Sys2Proof.Claims.widenedMajors → n = 3)) ∧
  (∀ (s : Sys2Proof.Machine.State) t r th c f p k, s.bootFail = 0 → s.agenda = .fetch t :: r →
     let s0 := { s with agenda := r }
     Sys2Proof.Claims.Fetches s0 t th c p f →
     let w : Sys2Proof.Word := BitVec.ofNat 32 (Sys2Proof.Machine.mnat s.mem f 4)
     Sys2Proof.decode w.toNat = .error k → Sys2Proof.Machine.step s = Sys2Proof.Machine.after (Sys2Proof.Claims.taken s0 (.fetch t)
       (.next ((Sys2Proof.Claims.fetched p t th c w).l2fault t .undef 0))))

/-- R31: with an empty active set a word of the group's role, with declared registers and legal values, changes nothing; a word that
a check stops traps UNDEF or ROLE all the same. -/
def Obligations.EmptyActiveSetChangesNothing : Prop :=
  ∀ (i : Sys2Proof.Instr) (s : Sys2Proof.Machine.State) g gr, Sys2Proof.Claims.Issues s g gr → s.cur.act = [] →
    Sys2Proof.Claims.encoded i = true → Sys2Proof.Claims.evenEmpty i = false → Sys2Proof.Claims.threadOnly i = false →
    (Sys2Proof.Claims.Admitted s gr i → gr.role ∈ Sys2Proof.Claims.rolesOf i → Sys2Proof.Machine.exec i s = .next s) ∧
    (Sys2Proof.Machine.exec i s = .next s ∨ (∃ r, Sys2Proof.Machine.exec i s = .next (s.undef g r)) ∨
      Sys2Proof.Machine.exec i s = .next (s.roleTrap g gr.role))

/-- R20, R31, R54, R205, R367, R368, R375, R383, R426: the checks at issue, in their order and each whatever the active set is. A
reserved value in a register or block that the word names traps UNDEF with reason 3; a run of vector registers that is not aligned
or not all declared, with 5; a tile or accumulator outside the crew's partition, with 6; a `slot` that names no member, with 8; a
reserved mode in `setfm`, with 10; and a word of a role that the group does not have traps ROLE behind them all. Each is counted
as the profile counts. With lanes active, `setblkv` and `setfm` from a register trap with 9 and 10, the failing lanes alone in the
fault set: that those stand there, and not ACT, is the model's reading of R203 (log entry 71). -/
def Obligations.RegisterAndRoleChecks : Prop :=
  (∀ (i : Sys2Proof.Instr) (s : Sys2Proof.Machine.State) g gr, Sys2Proof.Claims.Issues s g gr → Sys2Proof.Claims.encoded i = true →
     Sys2Proof.Claims.threadOnly i = false → (s.cur.hix = none ∨ Sys2Proof.Claims.widened i = true) →
     let u := s.countRefused g gr
     let fit := ∀ r ∈ Sys2Proof.Claims.runsOf gr i, Sys2Proof.Claims.Fits gr r
     let owned := Sys2Proof.Claims.TilesIn s gr (Sys2Proof.Claims.tilesOf i) ∧ Sys2Proof.Claims.AccsIn s gr (Sys2Proof.Claims.accsOf i)
     (¬ Sys2Proof.Claims.Allowed s gr i → Sys2Proof.Machine.exec i s = .next (u.undef g 3)) ∧
     (Sys2Proof.Claims.Allowed s gr i → ¬ fit → Sys2Proof.Machine.exec i s = .next (u.undef g 5)) ∧
     (Sys2Proof.Claims.Allowed s gr i → fit → ¬ owned → Sys2Proof.Machine.exec i s = .next (u.undef g 6)) ∧
     (Sys2Proof.Claims.Admitted s gr i → gr.role ∉ Sys2Proof.Claims.rolesOf i → Sys2Proof.Machine.exec i s = .next (u.roleTrap g gr.role)) ∧
     (∀ S (m : BitVec 8), i = .slot S m → 2 ^ gr.members.length ≤ m.toNat → Sys2Proof.Machine.exec i s = .next (u.undef g 8)) ∧
     (∀ S (m : BitVec 16), i = .setfmImm S m → Sys2Proof.Machine.fmodeLegal m.toNat = false → Sys2Proof.Machine.exec i s = .next (u.undef g 10))) ∧
  (∀ (S : Bool) (v : BitVec 7) (s : Sys2Proof.Machine.State) g gr, Sys2Proof.Claims.Acts s g gr → s.cur.hix = none →
     Sys2Proof.Claims.Declared gr [v] →
     let value := fun i => ((gr.lane i).rd v.toNat).toNat
     let noBlock := s.cur.act.filter fun i => decide (value i ≠ 255 ∧ s.blocksOf gr ≤ value i)
     let noMode := s.cur.act.filter fun i => !Sys2Proof.Machine.fmodeLegal (value i % 65536)
     (noBlock ≠ [] → Sys2Proof.Machine.exec (.setblkv S v) s = .next (s.trapNow g 1 noBlock 9 0 0)) ∧
     (noMode ≠ [] → Sys2Proof.Machine.exec (.setfmReg S v) s = .next (s.trapNow g 1 noMode 10 0 0)))

/-- R366 to R370, R383: the words that write block registers and modes. A block named is declared or 255; the trace of a
traced group notes the lanes that cease to be live (R425). -/
def Obligations.BlockAndModeWords : Prop :=
  ∀ (S : Bool) (s : Sys2Proof.Machine.State) g gr, Sys2Proof.Claims.Acts s g gr → s.cur.hix = none →
    Sys2Proof.Machine.exec (.nop S) s = .next s ∧
    (∀ (a b : BitVec 8) (p : BitVec 3), (a = 255 ∨ a.toNat < s.blocksOf gr) → (b = 255 ∨ b.toNat < s.blocksOf gr) →
      Sys2Proof.Machine.exec (.setblk S a b p) s = .next ((s.modGroup g fun x => x.onLanes s.cur.act fun _ l =>
        { l with blk := if l.pred p then a else b }).traceLive g gr.liveLanes true)) ∧
    (∀ v : BitVec 7, Sys2Proof.Claims.Declared gr [v] →
      (∀ i ∈ s.cur.act, ((gr.lane i).rd v.toNat).toNat = 255 ∨ ((gr.lane i).rd v.toNat).toNat < s.blocksOf gr) →
      Sys2Proof.Machine.exec (.setblkv S v) s = .next ((s.modGroup g fun x => x.onLanes s.cur.act fun _ l =>
        { l with blk := (l.rd v.toNat).truncate 8 }).traceLive g gr.liveLanes true)) ∧
    Sys2Proof.Machine.exec (.exit S) s = .next ((s.modGroup g fun x => x.onLanes s.cur.act fun _ l =>
      { l with blk := 255 }).traceLive g gr.liveLanes true) ∧
    (∀ m : BitVec 16, Sys2Proof.Machine.fmodeLegal m.toNat = true →
      Sys2Proof.Machine.exec (.setfmImm S m) s = .next (s.modGroup g fun x => x.onLanes s.cur.act fun _ l => { l with fmode := m })) ∧
    (∀ v : BitVec 7, Sys2Proof.Claims.Declared gr [v] →
      (∀ i ∈ s.cur.act, Sys2Proof.Machine.fmodeLegal (((gr.lane i).rd v.toNat).toNat % 65536) = true) →
      Sys2Proof.Machine.exec (.setfmReg S v) s = .next (s.modGroup g fun x => x.onLanes s.cur.act fun _ l =>
        { l with fmode := (l.rd v.toNat).truncate 16 }))

/-- R374 to R379: hints act whatever the active set is. `slot` names positions of the running station's members and ends the
guard; `grd` covers one to eight words; `hix` binds to the next word. -/
def Obligations.HintWords : Prop :=
  ∀ (S : Bool) (s : Sys2Proof.Machine.State) g gr, Sys2Proof.Claims.Issues s g gr → s.cur.hix = none →
    (∀ m : BitVec 8, m.toNat < 2 ^ gr.members.length →
      Sys2Proof.Machine.exec (.slot S m) s = .next (s.modGroup g fun x =>
        { x with slotSet := (gr.members.zipIdx.filter fun y => m.getLsbD y.2).map Prod.fst, guard := none })) ∧
    (∀ (p n : BitVec 3) (v : Bool), Sys2Proof.Machine.exec (.grd S p v n) s =
      .next (s.modGroup g fun x => { x with guard := some ⟨p, v, n.toNat + 1⟩ })) ∧
    (∀ c : Sys2Proof.CachePol, Sys2Proof.Machine.exec (.cach S c) s =
      .next (s.modGroup g fun x => { x with cpol := BitVec.ofNat 3 c.code })) ∧
    (∀ p : BitVec 25, Sys2Proof.Machine.exec (.hix S p) s = .next (s.modGroup g fun x => { x with hix := some p }))

/-- R371, R372, R384: `fuse` parks the group at its site; `trap` and `brk` raise TRAPI whatever the active set is, and the group
parks with the code in DETAIL. A `brk` under the debug right is the debugger's to resume; so is a trap that is raised while the
debugger halts the crew, which joins that halt (the model's reading of R206 and R430, log entry 45). -/
def Obligations.ParkingWords : Prop :=
  ∀ (S : Bool) (s : Sys2Proof.Machine.State) g gr, Sys2Proof.Claims.Issues s g gr → s.cur.hix = none →
    let joins := ∃ c h, s.crew? gr.crew = some c ∧ c.halt = some h ∧ h.sent = false ∧ h.debug = true
    (∀ (d : BitVec 5) (n : BitVec 4), s.cur.act ≠ [] → Sys2Proof.Machine.exec (.fuse S d n) s =
      .next (s.modGroup g fun x => { x with wait := .fuse n.toNat d.toNat, met := false })) ∧
    (∀ c : BitVec 16, gr.stop = .run → ∃ u x r, Sys2Proof.Machine.exec (.trap S c) s = .next u ∧
      u = (s.modGroup g fun _ => x) ∧ x = { gr with stop := .trapping, trap := some r } ∧
      r.code = 7 ∧ r.cls = 0 ∧ r.fault = s.cur.act ∧ r.retry = s.cur.act ∧ r.detail = c.zeroExtend 64 ∧
      r.instr = s.cur.word ∧ r.prov = s.cur.prov ∧ r.rwc = s.cur.rwc ∧ r.origin = 0 ∧ (r.debug = true ↔ joins)) ∧
    (∀ c : BitVec 16, gr.stop = .run → ∃ u x r, Sys2Proof.Machine.exec (.brk S c) s = .next u ∧
      u = (s.modGroup g fun _ => x) ∧ x = { gr with stop := .trapping, trap := some r } ∧
      r.code = 7 ∧ r.cls = 0 ∧ r.detail = c.zeroExtend 64 ∧ (r.debug = true ↔ s.debugs gr.ctx = true ∨ joins) ∧
      r.origin = (if s.debugs gr.ctx then 5 else 0))

namespace Sys2Proof.Claims
open Sys2Proof.Machine

/-- The special registers held per lane (R380): the lane's index, its block register and its FMODE. -/
def laneSpecial (l : Lane) (i e : Nat) : Word :=
  if e = 0x10 then l.blk.zeroExtend 32 else if e = 0x13 then l.fmode.zeroExtend 32 else BitVec.ofNat 32 i

/-- A crew's index in its instance at level n, 2 the innermost above it; a level that the launch does not declare reads 0 (R61,
R380). -/
def indexAt (l : Machine.Launch) (crew n : Nat) : Nat :=
  if n < l.nlev then crew / (((List.range (n - 2)).map fun k => l.extent (k + 2)).foldl (· * ·) 1) % l.extent n else 0

/-- The other special registers by number (R380): width, group index, crew index, core, the instances' indices, station, pass, cache
policy, RWCOUNT as given, CLOCK and CLAIMLOST; every other number reads 0. -/
def special (s : Machine.State) (gr : Machine.Group) (rwc : DWord) (e : Nat) : DWord :=
  let n := BitVec.ofNat 64
  match e with
  | 0x01 => n gr.lanes.length
  | 0x02 | 0x09 => n gr.gidx
  | 0x03 => ((s.crew? gr.crew).map fun c => n c.idx).getD 0
  | 0x04 => ((s.crew? gr.crew).map fun c => n c.core).getD 0
  | 0x0A | 0x0B | 0x0C | 0x0D | 0x0E | 0x0F =>
    (((s.crew? gr.crew).bind fun c => (s.launchOf gr).map fun l => n (indexAt l c.idx (e - 8))).getD 0)
  | 0x11 => n gr.station
  | 0x12 => n gr.pass
  | 0x14 => gr.cpol.zeroExtend 64
  | 0x20 => rwc
  | 0x21 => n s.clock
  | 0x22 => ((s.ctx? gr.ctx).map fun c => c.claimLost).getD 0
  | _ => 0

end Sys2Proof.Claims

/-- R380 to R382: `rdsr` reads a special register into the lanes' vector register, where it is held per lane, or into a scalar
register; RWCOUNT is the count before the word. `wrsr` sets CLAIMLOST's sticky bit and count. -/
def Obligations.SpecialRegisterWords : Prop :=
  ∀ (S : Bool) (s : Sys2Proof.Machine.State) g gr, Sys2Proof.Claims.Acts s g gr → s.cur.hix = none →
    (∀ (d : BitVec 7) (e : BitVec 8), Sys2Proof.srPerLane e.toNat = true → Sys2Proof.Claims.Declared gr [d] →
      Sys2Proof.Machine.exec (.rdsr S d e) s = .next (s.modGroup g fun x => x.onLanes s.cur.act fun i l =>
        l.wr d.toNat (Sys2Proof.Claims.laneSpecial l i e.toNat))) ∧
    (∀ (d : BitVec 7) (e : BitVec 8), Sys2Proof.srPerLane e.toNat = false →
      Sys2Proof.Machine.exec (.rdsr S d e) s = .next (s.modGroup g fun x => x.ws d.toNat
        (Sys2Proof.Claims.special s gr (BitVec.ofNat 64 s.cur.rwc) e.toNat))) ∧
    (∀ a : BitVec 5, Sys2Proof.Machine.exec (.wrsr S a 0x22) s = .next (s.modCtx gr.ctx fun c =>
      { c with claimLost := (gr.rs a.toNat) &&& 0x80000000FFFFFFFF }))

/-- R318 to R324: a per-lane word whose every lane passes the checks of R182 enters the memory path, with one piece for each
active lane at the object offset LOW + off (R184). -/
def Obligations.LaneMemoryWordPerforms : Prop :=
  ∀ (i : Sys2Proof.Instr) (s : Sys2Proof.Machine.State) g gr w, Sys2Proof.Claims.Acts s g gr →
    Sys2Proof.Claims.laneWordOf s.cur.hix i = some w → (∀ r ∈ w.regs, Sys2Proof.Claims.Fits gr r) →
    let c := gr.rk w.cap.toNat
    (∀ n ∈ s.cur.act, ¬ Sys2Proof.Claims.BadAlign c (Sys2Proof.Claims.laneOffset gr w n) w.size ∧
      ¬ Sys2Proof.Claims.BadBound c (Sys2Proof.Claims.laneOffset gr w n) w.size) →
    c.rights &&& w.need = w.need → c.wellFormed = true →
    Sys2Proof.Machine.exec i s = .next (s.send g gr w.kind w.counted w.cls ⟨c, w.need, w.write, w.isAtom, !w.isAtom, none⟩
      (s.cur.act.map fun n => ⟨n, ((c.low : Int) + Sys2Proof.Claims.laneOffset gr w n).toNat, w.size, (w.value (gr.lane n)).1, (w.value (gr.lane n)).2⟩))

/-- R200, R274, R328 to R333, R337, R338: a word with one access for the group, once its checks pass; a group that makes an
arrival or a registration holds issue for the answer. -/
def Obligations.SingleMemoryWordPerforms : Prop :=
  (∀ (i : Sys2Proof.Instr) (s : Sys2Proof.Machine.State) g gr w, Sys2Proof.Claims.Acts s g gr →
     Sys2Proof.Claims.onceWordOf gr s.cur.hix i = some w → Sys2Proof.Claims.OncePasses gr w →
     Sys2Proof.Machine.exec i s = .next (Sys2Proof.Claims.onceSent s g gr w)) ∧
  (∀ (i : Sys2Proof.Instr) (s : Sys2Proof.Machine.State) g gr w, Sys2Proof.Claims.Acts s g gr →
     Sys2Proof.Claims.syncWordOf gr s.cur.hix i = some w → Sys2Proof.Claims.OncePasses gr w →
     Sys2Proof.Machine.exec i s = .next ((Sys2Proof.Claims.onceSent s g gr w).modGroup g fun x =>
       { x with wait := .answer s.nextId, met := false }))

/-- R182, R203, R274, R318, R328: the earliest check that some lane fails stops the word before any access: ALIGN 3, CAPBOUND 8,
CAPRIGHT 9, CAPTAG 10. The fault set is the lanes that fail it, the retry set ACT: that ALIGN and CAPBOUND have not ACT there, as
R203 has for codes that retry ACT, is the model's reading (log entry 71). HANDLE and OOFF are of its lowest lane. A single access
that fails a check has ACT for both; a capability of a kind that the word does not take fails as CAPRIGHT, last. That `lds` and
`sts` take register a as an unsigned value is the model's choice (log entry 100). -/
def Obligations.MemoryWordChecks : Prop :=
  (∀ (i : Sys2Proof.Instr) (s : Sys2Proof.Machine.State) g gr w, Sys2Proof.Claims.Acts s g gr →
     Sys2Proof.Claims.laneWordOf s.cur.hix i = some w → (∀ r ∈ w.regs, Sys2Proof.Claims.Fits gr r) →
     let c := gr.rk w.cap.toNat
     let off := Sys2Proof.Claims.laneOffset gr w
     let traps := fun (code : Nat) (lanes : List Nat) =>
       Sys2Proof.Machine.exec i s = .next ((s.sampleRefused g gr).trapNow g code lanes 0 c.handle
         (Sys2Proof.Machine.cutInt 40 ((c.low : Int) + off (lanes.headD 0))))
     let a := s.cur.act.filter fun n => Sys2Proof.Machine.misaligned c (off n) w.size
     let b := s.cur.act.filter fun n => decide (off n < 0 ∨ (c.len : Int) < off n + w.size)
     (a ≠ [] → traps 3 a) ∧
     (a = [] → b ≠ [] → traps 8 b) ∧
     (a = [] → b = [] → c.rights &&& w.need ≠ w.need → traps 9 s.cur.act) ∧
     (a = [] → b = [] → c.rights &&& w.need = w.need → c.wellFormed = false → traps 10 s.cur.act)) ∧
  (∀ (i : Sys2Proof.Instr) (s : Sys2Proof.Machine.State) g gr w, Sys2Proof.Claims.Acts s g gr →
     (Sys2Proof.Claims.onceWordOf gr s.cur.hix i = some w ∨ Sys2Proof.Claims.syncWordOf gr s.cur.hix i = some w) →
     let c := gr.rk w.cap.toNat
     ¬ Sys2Proof.Claims.OncePasses gr w →
     ∃ code, Sys2Proof.Machine.exec i s = .next ((s.sampleRefused g gr).trapNow g code s.cur.act 0 c.handle
         (Sys2Proof.Machine.cutInt 40 ((c.low : Int) + w.off))) ∧
       (code = 3 ↔ Sys2Proof.Claims.BadAlign c w.off w.size) ∧
       (code = 8 ↔ ¬ Sys2Proof.Claims.BadAlign c w.off w.size ∧ Sys2Proof.Claims.BadBound c w.off w.size) ∧
       (code = 9 ↔ ¬ Sys2Proof.Claims.BadAlign c w.off w.size ∧ ¬ Sys2Proof.Claims.BadBound c w.off w.size ∧
         (c.rights &&& w.need ≠ w.need ∨ (c.rights &&& w.need = w.need ∧ c.wellFormed = true ∧ c.kind ∉ w.kinds))) ∧
       (code = 10 ↔ ¬ Sys2Proof.Claims.BadAlign c w.off w.size ∧ ¬ Sys2Proof.Claims.BadBound c w.off w.size ∧
         c.rights &&& w.need = w.need ∧ c.wellFormed = false))

/-- R201, R77, R321: what a word leaves behind as it enters the memory path: one entry in flight, and one access for each sector,
with the sector's pieces, which waits for its port, or, an atomic that returns a value in a DETERM crew that is not yet head, for
its crew's turn (R159); every access that was there stays as it is, and so do the group's registers, the threads and memory. -/
def Obligations.SentWordWaitsForItsAccesses : Prop :=
  ∀ (s : Sys2Proof.Machine.State) g gr kind counted cls x ps,
    let t := s.send g gr kind counted cls x ps
    let sectors := Sys2Proof.Machine.bySector (s.sectorShift gr.ctx x.cap.handle) ps
    t.mem = s.mem ∧ t.tags = s.tags ∧ t.threads = s.threads ∧ t.crews = s.crews ∧ t.ctxs = s.ctxs ∧ t.cmds = s.cmds ∧
    (∀ h x, s.group? h = some x → ∃ y, t.group? h = some y ∧ y = { x with tHeld := y.tHeld }) ∧
    (∃ o, Sys2Proof.Machine.tget t.ops s.nextId = some o ∧ o.group = g ∧ o.kind = kind ∧ o.counted = counted ∧ o.cls = cls ∧
      o.left = sectors.length ∧ o.word = s.cur.word ∧ o.act = s.cur.act) ∧
    (∀ j y, sectors[j]? = some y → ∃ a, Sys2Proof.Machine.tget t.accs (s.nextId + 1 + j) = some a ∧ a.op = s.nextId ∧ a.group = g ∧
      a.ctx = gr.ctx ∧ a.handle = x.cap.handle ∧ a.rights = x.rights ∧
      (a.stage = .toPort ∨ (a.stage = .forHead ∧ (∃ size o vd, kind = .atom size o vd true) ∧
        ∃ c l, s.serialLaunch gr.crew = some (c, l) ∧ c.idx ≠ l.head)) ∧ a.write = x.write ∧ a.isAtom = x.isAtom ∧
      (a.sector, a.pieces) = y) ∧
    ∀ n, (n ≤ s.nextId ∨ s.nextId + sectors.length < n) → Sys2Proof.Machine.tget t.accs n = Sys2Proof.Machine.tget s.accs n

/-- R336, R339, R185, R219: a capability word without an access, in a group and in a thread. A derived register keeps the handle
and kind, and its rights are never more; a failed check traps in a group and takes L2CAP in a thread. That the record names k's
handle and its LOW, and the thread's DETAIL that LOW, though the word makes no access (log entry 101), and the LOW of an empty
window at the end of the 40 bits (112), are the model's choice. -/
def Obligations.CapabilityWord : Prop :=
  (∀ (i : Sys2Proof.Instr) (s : Sys2Proof.Machine.State) g gr k e, Sys2Proof.Claims.Acts s g gr → s.cur.hix = none →
     Sys2Proof.Claims.capEffect (fun r => gr.rk r.toNat) (fun r => gr.rs r.toNat) i = some (k, e) →
     Sys2Proof.Machine.exec i s = .next (match e with
       | .stops code => (s.sampleRefused g gr).trapNow g code s.cur.act 0 (gr.rk k.toNat).handle
           (Sys2Proof.Machine.cutInt 40 (gr.rk k.toNat).low)
       | .cap d c => s.modGroup g fun x => x.wk d.toNat c
       | .scalar d v => s.modGroup g fun x => x.ws d.toNat v)) ∧
  (∀ (i : Sys2Proof.Instr) (s : Sys2Proof.Machine.State) t th k e, Sys2Proof.Claims.Runs s t th →
     Sys2Proof.Claims.capEffect (fun r => th.rk r.toNat) (fun r => th.rl r.toNat) i = some (k, e) →
     Sys2Proof.Machine.exec i s = .next (match e with
       | .stops _ => s.l2fault t .cap (th.rk k.toNat).low
       | .cap d c => s.modThread t fun x => { x.wk d.toNat c with pc := x.pc + 4 }
       | .scalar d v => s.modThread t fun x => { x.wl d.toNat v with pc := x.pc + 4 }))

/-- R96 to R98, R326, R327: `fence`. Its predecessors are the group's words and commands of the classes in P; a successor class
that the group itself issues holds issue until they have performed, and one of the copy engines only stands before the commands
that follow. With no predecessor or no successor class the group goes on at once and nothing is ordered. With R or W in P the
fence ends the region as it completes (what the claims of that region's accesses do after it is log entry 89). In a thread it has
the admitted stores perform where W is in P and R or W in Q, once no refresh holds one (log entry 67), and drops the cached lines
of its context where R is in Q at CLUSTER or wider. -/
def Obligations.FenceWord : Prop :=
  ∀ (S : Bool) (p q : BitVec 6) (c : Sys2Proof.Scope) (s : Sys2Proof.Machine.State),
    let drop := q.getLsbD 0 && decide (2 ≤ Sys2Proof.Claims.scopeCode c)
    (∀ g gr, Sys2Proof.Claims.Acts s g gr → s.cur.hix = none →
      let ends := decide (p.toNat &&& 3 ≠ 0)
      let ops := s.preOps g p.toNat
      let cmds := s.preCmds g p.toNat
      let past := fun (s : Sys2Proof.Machine.State) =>
        let s1 := if drop = true then s.dropLines (s.coreOf gr) gr.ctx else s
        if ends = true then s1.release g else s1
      (p ≠ 0 → q.toNat &&& 0x33 ≠ 0 → Sys2Proof.Machine.exec (.fence S p q c) s =
        .next (s.modGroup g fun x => { x with wait := .fence ops cmds drop ends, met := false })) ∧
      (p ≠ 0 → q ≠ 0 → q.toNat &&& 0x33 = 0 → Sys2Proof.Machine.exec (.fence S p q c) s =
        .next (past { s with softFences := s.softFences ++ [⟨g, ops, cmds, q.toNat⟩] })) ∧
      ((p = 0 ∨ q = 0) → Sys2Proof.Machine.exec (.fence S p q c) s = .next (past s))) ∧
    (∀ t th, Sys2Proof.Claims.Runs s t th →
      let drains := p.getLsbD 1 && q.toNat &&& 3 != 0
      let s1 := if drains = true then s.drainPosted (Sys2Proof.Machine.threadCore t) th.ctx else s
      (drains = true → s.drainable (Sys2Proof.Machine.threadCore t) th.ctx = false → Sys2Proof.Machine.exec (.fence S p q c) s = .next s) ∧
      ((drains = true → s.drainable (Sys2Proof.Machine.threadCore t) th.ctx = true) → Sys2Proof.Machine.exec (.fence S p q c) s =
        .next ((if drop = true then s1.dropLines (Sys2Proof.Machine.threadCore t) th.ctx else s1).modThread t fun x =>
          { x with pc := x.pc + 4 })))

/-- R378, R385: `sinv` of a GENERAL group, its checks passed, waits for its earlier writes and its commands, then for the
invalidation. `pfch` completes silently whatever its addresses are: memory, its tags, every group and every thread are as before;
under DETERM it is ignored. -/
def Obligations.InvalidateAndPrefetchWords : Prop :=
  (∀ (S : Bool) (k : BitVec 4) (a b : BitVec 5) (s : Sys2Proof.Machine.State) g gr, Sys2Proof.Claims.Acts s g gr →
     s.cur.hix = none → gr.role = .general →
     let c := gr.rk k.toNat
     let off := (gr.rs a.toNat).toNat
     let n := (gr.rs b.toNat).toNat
     off + n ≤ c.len → c.rights &&& 1 = 1 → c.wellFormed = true → c.kind = 6 →
     Sys2Proof.Machine.exec (.sinv S k a b) s = .next (s.modGroup g fun x =>
       { x with wait := .sinv (s.preOps g 2) (s.preCmds g 8) c.handle (c.low + off) n, met := false })) ∧
  (∀ (S : Bool) (k : BitVec 4) (v : BitVec 7) (l : Sys2Proof.PfLevel) (s : Sys2Proof.Machine.State) g gr,
     Sys2Proof.Claims.Acts s g gr → s.cur.hix = none → Sys2Proof.Claims.Declared gr [v] →
     (∃ t, Sys2Proof.Machine.exec (.pfch S k v l) s = .next t ∧ t.mem = s.mem ∧ t.tags = s.tags ∧ t.groups = s.groups ∧
       t.threads = s.threads ∧ t.claims = s.claims) ∧
     ((s.serialLaunch gr.crew).isSome = true → Sys2Proof.Machine.exec (.pfch S k v l) s = .next s))

/-- R268, R274, R337, R338, R91, R80, R440: a thread's scalar or capability access of memory, once its checks pass and its port
answers with a place that stands ready, which no refresh holds, and for a read with no urgent read in front (log entry 66). A load
writes its register: with what the home holds, after the thread's earlier stores to the sector have performed, or with what the
core's copy of the sector holds (R90). A store is admitted with its bytes and performs in a later move, while a load performs
within the step of its word: this is the model's reading of R95 and R327 (log entry 67). The PC advances. -/
def Obligations.ThreadMemoryWordPerforms : Prop :=
  ∀ (s : Sys2Proof.Machine.State) t th (S : Bool) (d a : BitVec 5) (d4 k : BitVec 4) (i : BitVec 8) (n f : Nat) (e : Sys2Proof.Machine.Entry),
    Sys2Proof.Claims.Runs s t th →
    let c := th.rk k.toNat
    let core := Sys2Proof.Machine.threadCore t
    let sec := Sys2Proof.Machine.sectorOf f
    let ready := fun (off : Int) (n need : Nat) =>
      ¬ Sys2Proof.Claims.BadAlign c off n ∧ ¬ Sys2Proof.Claims.BadBound c off n ∧ c.rights &&& need = need ∧ c.wellFormed = true ∧
      s.portEntry (Sys2Proof.Machine.portOf core) th.ctx c.handle c.kind need ((c.low : Int) + off).toNat n = (s, some e) ∧
      Sys2Proof.Machine.judge s.mem (some e) c.kind need ((c.low : Int) + off).toNat n = .at_ f ∧
      s.hostFails f = false ∧ s.peerFails f = false ∧
      s.tableBank (Sys2Proof.Machine.portOf core) th.ctx c.handle c.kind need ((c.low : Int) + off).toNat n = none ∧
      s.rangeBank f n = none ∧ (need = 1 → s.readWaits f = false) ∧
      s.watchHits th.ctx c.handle ((c.low : Int) + off).toNat n (need &&& 2 ≠ 0) = []
    let off := ((th.rl a.toNat).toNat : Int) + i.toInt
    let off0 := ((th.rl a.toNat).toNat : Int)
    let loads := fun (u : Sys2Proof.Machine.State) (v : Nat) =>
      let t' := u.modThread t fun x => { x.wl d.toNat (BitVec.ofNat 64 v) with pc := x.pc + 4 }
      (n = 1 → Sys2Proof.Machine.exec (.ldsN8 S d k a i) s = .next t') ∧ (n = 2 → Sys2Proof.Machine.exec (.ldsN16 S d k a i) s = .next t') ∧
      (n = 4 → Sys2Proof.Machine.exec (.ldsN32 S d k a i) s = .next t') ∧ (n = 8 → Sys2Proof.Machine.exec (.ldsB64 S d k a i) s = .next t')
    let loadsCap := fun (u : Sys2Proof.Machine.State) (v : Nat) (tag : Bool) =>
      Sys2Proof.Machine.exec (.kld S d4 k a) s = .next (u.modThread t fun x =>
        { x.wk d4.toNat ⟨BitVec.ofNat 128 v, Sys2Proof.Machine.holds c.rights 64 && tag⟩ with pc := x.pc + 4 })
    let alone := ∀ x ∈ s.postedOf core th.ctx, Sys2Proof.Machine.sectorOf x.2.flat ≠ sec
    let admits := fun (off : Int) (n v : Nat) (tag : Option Bool) => { s with
      posted := Sys2Proof.Machine.tset s.posted s.nextId ⟨core, th.ctx, c.handle, f, n, v, tag, s.cur.word, th.pc,
        Sys2Proof.Machine.cutInt 32 ((c.low : Int) + off)⟩, nextId := s.nextId + 1 }
    (ready off n 1 →
      (alone → s.cachedSector core th.ctx sec = none → loads (s.renewSector core th.ctx sec e.cacheable) (Sys2Proof.Machine.mnat s.mem f n)) ∧
      (∀ l, alone → s.cachedSector core th.ctx sec = some l →
        loads (s.renewSector core th.ctx sec e.cacheable) (Sys2Proof.Machine.mnat s.mem f n) ∨ loads s (l.read f n)) ∧
      ∃ u v, loads u v) ∧
    (ready off n 2 →
      let t' := (admits off n ((th.rl d.toNat).toNat % 2 ^ (8 * n)) none).modThread t fun x => { x with pc := x.pc + 4 }
      (n = 1 → Sys2Proof.Machine.exec (.stsB8 S d k a i) s = .next t') ∧ (n = 2 → Sys2Proof.Machine.exec (.stsB16 S d k a i) s = .next t') ∧
      (n = 4 → Sys2Proof.Machine.exec (.stsB32 S d k a i) s = .next t') ∧ (n = 8 → Sys2Proof.Machine.exec (.stsB64 S d k a i) s = .next t')) ∧
    (ready off0 16 1 →
      (alone → s.cachedSector core th.ctx sec = none → loadsCap (s.renewSector core th.ctx sec e.cacheable)
        (Sys2Proof.Machine.mnat s.mem f 16) (Sys2Proof.Machine.tagAt s.tags (f / 16))) ∧
      ∃ u v tag, loadsCap u v tag) ∧
    (ready off0 16 66 → Sys2Proof.Machine.exec (.kst S d4 k a) s = .next
      ((admits off0 16 (th.rk d4.toNat).bits.toNat (some (th.rk d4.toNat).tag)).modThread t fun x => { x with pc := x.pc + 4 }))

namespace Sys2Proof.Claims
open Sys2Proof.Machine

/-! ### Matrix words (R340 to R353) -/

/-- The group's role issues matrix words, and the registers named are of its crew's partition (R20, R54). -/
structure Matrix (s : Machine.State) (g : Nat) (gr : Machine.Group) (tiles : List (BitVec 4)) (accs : List (BitVec 3)) : Prop
    extends Acts s g gr where
  alone : s.cur.hix = none
  role  : gr.role = .matrix ∨ gr.role = .general
  tile  : ∀ t ∈ tiles, ∃ c, s.crew? gr.crew = some c ∧ t.toNat < c.tiles.length
  acc   : ∀ a ∈ accs, ∃ c, s.crew? gr.crew = some c ∧ a.toNat < c.accs.length

/-- The word stands last in the queue of its core's engine, with the active lanes and their modes as they are (R145, R344). -/
def queued (s : Machine.State) (g : Nat) (gr : Machine.Group) (w : MWord) : Machine.State :=
  { s with engine := s.engine ++
      [{ core := s.coreOf gr, crew := gr.crew, ctx := gr.ctx, group := g, gid := gr.gid, gidx := gr.gidx, act := s.cur.act,
         fmodes := s.cur.act.map fun i => (i, (gr.lane i).fmode), word := w, op := none, phase := 0 }] }

/-! ### Thread words (R271, R275 to R291) -/

/-- The branch condition and its offset in words (R275). -/
def branchOf (r : BitVec 5 → DWord) : Instr → Option (Prop × BitVec 12)
  | .beq _ a b o => some (r a = r b, o)
  | .bne _ a b o => some (r a ≠ r b, o)
  | .bltS _ a b o => some ((r a).toInt < (r b).toInt, o)
  | .bgeS _ a b o => some ((r b).toInt ≤ (r a).toInt, o)
  | .bltN _ a b o => some ((r a).toNat < (r b).toNat, o)
  | .bgeN _ a b o => some ((r b).toNat ≤ (r a).toNat, o)
  | _ => none

/-- Slots of a thread's own core, by the low 14 bits of a reference (R277). -/
def Refers (s : Machine.State) (t : Nat) (th : Machine.Thread) (r : DWord) (g : Nat) (gr : Machine.Group) : Prop :=
  g = fld r.toNat 13 0 ∧ groupCore g = threadCore t ∧ s.group? g = some gr ∧ gr.ctx = th.ctx

/-- A thread's word is done: its register written, its PC at the next word (R268). -/
def wrote (s : Machine.State) (t : Nat) (d : BitVec 5) (v : DWord) : Machine.State :=
  s.modThread t fun x => { x.wl d.toNat v with pc := x.pc + 4 }

/-- Parked so that a thread may look at the group and change it, its record written (R211). -/
def Parked (gr : Machine.Group) : Prop :=
  gr.stop = .trapped ∨ gr.stop = .halted ∨ (gr.stop = .run ∧ ∃ a b, gr.wait = .fuse a b ∨ gr.wait = .compose a b)

end Sys2Proof.Claims

/-- R342 to R347, R352, R353: a matrix word that no check stops is queued for its core's engine and changes nothing else; `ard`,
`tld` and `tst` have an entry in flight of their own. A tile word is checked whole at issue: every row in the window, on 16 bytes.
-/
def Obligations.MatrixWordQueued : Prop :=
  (∀ (S : Bool) (s : Sys2Proof.Machine.State) g gr,
     (∀ (t : BitVec 4) (a : BitVec 5), Sys2Proof.Claims.Matrix s g gr [t] [] →
       (gr.rs a.toNat = 0 ∨ Sys2Proof.Machine.tctlLegal (gr.rs a.toNat) = true) →
       Sys2Proof.Machine.exec (.tcfg S t a) s = .next (Sys2Proof.Claims.queued s g gr (.tcfg t.toNat (gr.rs a.toNat)))) ∧
     (∀ (d : BitVec 3) (a : BitVec 5), Sys2Proof.Claims.Matrix s g gr [] [d] →
       (gr.rs a.toNat).toNat % 32 = 0 → (gr.rs a.toNat).toNat < gr.lanes.length →
       Sys2Proof.Machine.exec (.acfg S d a) s = .next (Sys2Proof.Claims.queued s g gr (.acfg d.toNat (gr.rs a.toNat).toNat))) ∧
     (∀ (d : BitVec 3) (a b : BitVec 4) (h : Sys2Proof.Shape), Sys2Proof.Claims.Matrix s g gr [a, b] [d] →
       s.tctlNow gr.crew a.toNat ≠ 0 → s.tctlNow gr.crew b.toNat ≠ 0 →
       Sys2Proof.Machine.mmaPair (s.tctlNow gr.crew a.toNat) (s.tctlNow gr.crew b.toNat) h = true →
       s.boundTo gr d.toNat = true →
       (∀ i ∈ s.cur.act, ∀ j ∈ s.cur.act, (gr.lane i).fmode &&& 31 = (gr.lane j).fmode &&& 31) →
       Sys2Proof.Machine.exec (.mma S d a b h) s = .next (Sys2Proof.Claims.queued s g gr (.mma d.toNat a.toNat b.toNat h))) ∧
     (∀ (d : BitVec 3) (a b : BitVec 4) (o : Sys2Proof.MmbOp), Sys2Proof.Claims.Matrix s g gr [a, b] [d] →
       s.tctlNow gr.crew a.toNat ≠ 0 → s.tctlNow gr.crew b.toNat ≠ 0 →
       (Sys2Proof.Machine.tDesc (s.tctlNow gr.crew a.toNat)).fmt = 8 → (Sys2Proof.Machine.tDesc (s.tctlNow gr.crew b.toNat)).fmt = 8 →
       s.boundTo gr d.toNat = true →
       Sys2Proof.Machine.exec (.mmb S d a b o) s = .next (Sys2Proof.Claims.queued s g gr (.mmb d.toNat a.toNat b.toNat o))) ∧
     (∀ d : BitVec 3, Sys2Proof.Claims.Matrix s g gr [] [d] → s.boundTo gr d.toNat = true →
       Sys2Proof.Machine.exec (.azero S d) s = .next (Sys2Proof.Claims.queued s g gr (.azero d.toNat)) ∧
       (∀ c : Sys2Proof.AcvtDir, Sys2Proof.Machine.exec (.acvt S d c) s = .next (Sys2Proof.Claims.queued s g gr (.acvt d.toNat c))) ∧
       (∀ (v : BitVec 7) (c : BitVec 6), Sys2Proof.Claims.Declared gr [v] → Sys2Proof.Machine.exec (.awr S d v c) s =
         .next (Sys2Proof.Claims.queued s g gr (.awr d.toNat c.toNat (s.cur.act.map fun i => (i, (gr.lane i).rd v.toNat))))))) ∧
  (∀ (S : Bool) (s : Sys2Proof.Machine.State) g gr,
     (∀ (d : BitVec 3) (v : BitVec 7) (c : BitVec 6), Sys2Proof.Claims.Matrix s g gr [] [d] → s.boundTo gr d.toNat = true →
       Sys2Proof.Claims.Declared gr [v] →
       Sys2Proof.Machine.exec (.ard S d v c) s = .next (s.queueFlight g gr (.ard d.toNat v.toNat c.toNat) .ard true 0 0)) ∧
     (∀ (t k : BitVec 4) (a b : BitVec 5) (p : Sys2Proof.Part), Sys2Proof.Claims.Matrix s g gr [t] [] →
       let tc := s.tctlNow gr.crew t.toNat
       let c := gr.rk k.toNat
       let sa := (gr.rs a.toNat).toNat
       let sb := (gr.rs b.toNat).toNat
       tc ≠ 0 → (p = .data ∨ Sys2Proof.Machine.tScm tc = true) → sa % 16 = 0 → sb % 16 = 0 → c.low % 16 = 0 →
       (∀ i < Sys2Proof.Machine.tRows tc, sa + i * sb + Sys2Proof.Machine.partBytes tc p ≤ c.len) → c.wellFormed = true →
       (c.rights &&& 1 = 1 → Sys2Proof.Machine.exec (.tld S t k a b p) s =
         .next (s.queueFlight g gr (.tld t.toNat p (c.low + sa) sb c) .tld true 16 (Sys2Proof.Machine.tRows tc))) ∧
       (c.rights &&& 2 = 2 → Sys2Proof.Machine.exec (.tst S t k a b p) s =
         .next (s.queueFlight g gr (.tst t.toNat p (c.low + sa) sb c) .store false 32 (Sys2Proof.Machine.tRows tc)))))

/-- R342, R343: a matrix word on an accumulator that is not bound to its group, or on an unconfigured tile, traps TSHAPE with
fault set ACT and DETAIL 0. -/
def Obligations.MatrixShapeTraps : Prop :=
  ∀ (S : Bool) (s : Sys2Proof.Machine.State) g gr (d : BitVec 3) (a b : BitVec 4),
    Sys2Proof.Claims.Matrix s g gr [a, b] [d] →
    (s.boundTo gr d.toNat = false ∨ s.tctlNow gr.crew a.toNat = 0 ∨ s.tctlNow gr.crew b.toNat = 0) →
    let traps := fun i => Sys2Proof.Machine.exec i s = .next (s.trapNow g 6 s.cur.act 0 0 0)
    (∀ h, traps (.mma S d a b h)) ∧ (∀ o, traps (.mmb S d a b o)) ∧
    (s.boundTo gr d.toNat = false → traps (.azero S d) ∧ (∀ c, traps (.acvt S d c)) ∧
      ∀ v c, Sys2Proof.Claims.Declared gr [v] → traps (.ard S d v c) ∧ traps (.awr S d v c)) ∧
    (s.tctlNow gr.crew a.toNat = 0 → ∀ k x y p,
      let t := Host.Outcome.next ((s.sampleRefused g gr).trapNow g 6 s.cur.act 0 0 0)
      Sys2Proof.Machine.exec (.tld S a k x y p) s = t ∧ Sys2Proof.Machine.exec (.tst S a k x y p) s = t)

/-- R354 to R356, R359 to R365: a copy word whose checks pass enters its queue, behind the fences before it; a gather or scatter
first reads its index list, and its group waits for it. `qfence` waits for the entries before it in the queues it names. Memory is
as before. A reserved field or value of the parameters traps COPY with cause 5, ahead of the other checks: the reserved lay 3 of
`cpy.ten` is no such value, since no word with it decodes (log entry 25), and COFF has to be a multiple of 8 whatever CM says (log
entry 28). -/
def Obligations.CopyWordAccepted : Prop :=
  (∀ (S : Bool) (s : Sys2Proof.Machine.State) g gr (b : BitVec 5), Sys2Proof.Claims.Acts s g gr → s.cur.hix = none →
     (gr.role = .copy ∨ gr.role = .general) →
     let plain := fun i (c : Sys2Proof.Machine.Copy) =>
       c.reserved = false → c.extentFault (Sys2Proof.Machine.listCap gr c) = none → s.lateFault c = none →
       Sys2Proof.Machine.exec i s = .next (s.accept c) ∧ (s.accept c).mem = s.mem ∧
         ∃ x, Sys2Proof.Machine.tget (s.accept c).cmds s.nextId = some x ∧ x.params = c.params ∧ x.fn = c.fn ∧ x.done = 0 ∧
           x.total = c.count ∧ x.queue = Sys2Proof.fld ((c.params.headD 0).toNat) 2 0
     let listed := fun i (c : Sys2Proof.Machine.Copy) =>
       c.reserved = false → c.extentFault (Sys2Proof.Machine.listCap gr c) = none →
       ∃ t, Sys2Proof.Machine.exec i s = .next t ∧ t.mem = s.mem ∧
         (∃ x, Sys2Proof.Machine.tget t.cmds s.nextId = some x ∧ x.listing = true ∧ x.list = Sys2Proof.Machine.listCap gr c ∧ x.params = c.params) ∧
         t.group? g = some { gr with wait := .answer s.nextId, met := false }
     plain (.cpyLin S b) (Sys2Proof.Machine.mkCopy s g gr 0 4 b .none .addS32) ∧
     (∀ l, plain (.cpyTen S b l) (Sys2Proof.Machine.mkCopy s g gr 1 8 b l .addS32)) ∧
     (∀ r, plain (.cpyRed S b r) (Sys2Proof.Machine.mkCopy s g gr 4 5 b .none r)) ∧
     listed (.cpyGat S b) (Sys2Proof.Machine.mkCopy s g gr 2 6 b .none .addS32) ∧
     listed (.cpySct S b) (Sys2Proof.Machine.mkCopy s g gr 3 6 b .none .addS32) ∧
     (∀ (q : BitVec 3) (m : BitVec 8), ∃ t x, Sys2Proof.Machine.exec (.qfence S q m) s = .next t ∧ t.mem = s.mem ∧
       Sys2Proof.Machine.tget t.cmds s.nextId = some x ∧ x.fn = 5 ∧ x.queue = q.toNat ∧
       ∀ n, n ∈ x.after ↔ ∃ c, (n, c) ∈ s.cmds ∧ c.core = s.coreOf gr ∧ c.ctx = gr.ctx ∧ c.system = false ∧ c.listing = false ∧
         c.queue < 8 ∧ m.getLsbD c.queue = true)) ∧
  (∀ (S : Bool) (s : Sys2Proof.Machine.State) g gr (b : BitVec 5), Sys2Proof.Claims.Acts s g gr → s.cur.hix = none →
     (gr.role = .copy ∨ gr.role = .general) →
     let traps := fun i (c : Sys2Proof.Machine.Copy) => c.reserved = true →
       Sys2Proof.Machine.exec i s = .next (s.trapNow g 13 s.cur.act (BitVec.ofNat 64 (c.queue * 256 + 5)) 0 0)
     traps (.cpyLin S b) (Sys2Proof.Machine.mkCopy s g gr 0 4 b .none .addS32) ∧
     (∀ l, traps (.cpyTen S b l) (Sys2Proof.Machine.mkCopy s g gr 1 8 b l .addS32)) ∧
     traps (.cpyGat S b) (Sys2Proof.Machine.mkCopy s g gr 2 6 b .none .addS32) ∧
     traps (.cpySct S b) (Sys2Proof.Machine.mkCopy s g gr 3 6 b .none .addS32) ∧
     ∀ r, traps (.cpyRed S b r) (Sys2Proof.Machine.mkCopy s g gr 4 5 b .none r))

/-- R271, R275: branches and jumps move the PC by words from the instruction's own; a target of `jalr` that is no multiple
of 4 takes L2ALIGN after the return offset is written. -/
def Obligations.BranchAndJumpWords : Prop :=
  ∀ (i : Sys2Proof.Instr) (s : Sys2Proof.Machine.State) t th (S : Bool) (d a : BitVec 5) (o20 : BitVec 20),
    Sys2Proof.Claims.Runs s t th →
    (∀ p o, Sys2Proof.Claims.branchOf (fun r => th.rl r.toNat) i = some (p, o) →
      (p → Sys2Proof.Machine.exec i s = .next (s.modThread t fun x => { x with pc := (((th.pc : Int) + 4 * o.toInt) % 2 ^ 64).toNat })) ∧
      (¬ p → Sys2Proof.Machine.exec i s = .next (s.modThread t fun x => { x with pc := th.pc + 4 }))) ∧
    Sys2Proof.Machine.exec (.jal S d o20) s = .next (s.modThread t fun x =>
      { x.wl d.toNat (BitVec.ofNat 64 (th.pc + 4)) with pc := (((th.pc : Int) + 4 * o20.toInt) % 2 ^ 64).toNat }) ∧
    ((th.rl a.toNat).toNat % 4 = 0 → Sys2Proof.Machine.exec (.jalr S d a) s = .next ((s.modThread t fun x =>
      x.wl d.toNat (BitVec.ofNat 64 (th.pc + 4))).modThread t fun x => { x with pc := (th.rl a.toNat).toNat })) ∧
    ((th.rl a.toNat).toNat % 4 ≠ 0 → Sys2Proof.Machine.exec (.jalr S d a) s = .next ((s.modThread t fun x =>
      x.wl d.toNat (BitVec.ofNat 64 (th.pc + 4))).l2fault t .align ((th.rl a.toNat).toNat % 2 ^ 32)))

/-- R83, R84, R278, R370: a direct emit to a group of the thread's context. An open station with a place takes the word, with the
thread's sequence number in its tag, behind the words that a group with no live lane has not discarded; a stopped group answers 3,
one that a halt has not stopped yet taking words as a live one (the model's reading, log entry 52); otherwise `emitnb` answers 1
for a full queue and 2 for a station that is not open, and `emit` waits. -/
def Obligations.EmitWords : Prop :=
  ∀ (S : Bool) (d a b : BitVec 5) (s : Sys2Proof.Machine.State) t th g gr, Sys2Proof.Claims.Runs s t th →
    Sys2Proof.Claims.Refers s t th (th.rl a.toNat) g gr →
    let w : Sys2Proof.Word := (th.rl b.toNat).truncate 32
    let stopped := gr.stop = .trapping ∨ gr.stop = .trapped ∨ gr.stop = .halted
    let queued := (s.modGroup g fun x => { x with queue := x.liveQueue ++ [⟨w, Sys2Proof.Machine.provOf 2 gr.station (th.emitSeq % 2 ^ 20)⟩] }).modThread t
      fun x => { x with emitSeq := x.emitSeq + 1 }
    (¬ stopped → gr.isOpen = true → gr.liveQueue.length < 32 →
      Sys2Proof.Machine.exec (.emit S d a b) s = .next (Sys2Proof.Claims.wrote queued t d 0) ∧
      Sys2Proof.Machine.exec (.emitnb S d a b) s = .next (Sys2Proof.Claims.wrote queued t d 0)) ∧
    (stopped → Sys2Proof.Machine.exec (.emit S d a b) s = .next (Sys2Proof.Claims.wrote s t d 3) ∧
      Sys2Proof.Machine.exec (.emitnb S d a b) s = .next (Sys2Proof.Claims.wrote s t d 3)) ∧
    (¬ stopped → gr.isOpen = true → 32 ≤ gr.liveQueue.length →
      Sys2Proof.Machine.exec (.emitnb S d a b) s = .next (Sys2Proof.Claims.wrote s t d 1)) ∧
    (¬ stopped → gr.isOpen = false → Sys2Proof.Machine.exec (.emitnb S d a b) s = .next (Sys2Proof.Claims.wrote s t d 2)) ∧
    (¬ stopped → (gr.isOpen = false ∨ 32 ≤ gr.liveQueue.length) → ∃ x, x.blocked.isSome = true ∧
      Sys2Proof.Machine.exec (.emit S d a b) s = .next (s.modThread t fun _ => x) ∧ x = { th with blocked := x.blocked })

/-- R85, R219, R279 to R283: composition. `sopen` opens a buffer for a set of declared blocks; `emits` adds a word, or answers 5
where the station store is full; `stins` installs the buffer under the least free number, and serves with it the request that it
names, or with no name the request for the buffer's kernel and set, where there is one; `sdecl` declines a request, whose groups
go on to the cover of its set, and answers 0; it answers 1 for a request that does not exist. Without an open buffer `emits` and
`stins` take L2NOBUF, and `sopen` takes it with one. -/
def Obligations.CompositionWords : Prop :=
  (∀ (S : Bool) (d a b : BitVec 5) (s : Sys2Proof.Machine.State) t th, Sys2Proof.Claims.Runs s t th →
     (∀ k, th.buf = none → s.kernelOf th.ctx ((th.rl b.toNat).toNat / 256) ((th.rl b.toNat).toNat % 256) = some k →
       let set := Sys2Proof.Machine.setBlocks (th.rl a.toNat)
       set ≠ [] → set.Nodup → (∀ x ∈ set, x < k.nb) →
       Sys2Proof.Machine.exec (.sopen S a b) s = .next (s.modThread t fun x => { x with
         buf := some ⟨(th.rl b.toNat).toNat / 256, (th.rl b.toNat).toNat % 256, Sys2Proof.Machine.sortNat set, []⟩, pc := x.pc + 4 })) ∧
     (∀ bf, th.buf = some bf →
       (∀ s1, s.makeRoom (Sys2Proof.Machine.threadCore t) 1 s.store.length = some s1 →
         Sys2Proof.Machine.exec (.emits S d b) s = .next (s1.modThread t fun x =>
           { x.wl d.toNat 0 with buf := some { bf with words := bf.words ++ [(th.rl b.toNat).truncate 32] }, pc := x.pc + 4 })) ∧
       (s.makeRoom (Sys2Proof.Machine.threadCore t) 1 s.store.length = none →
         Sys2Proof.Machine.exec (.emits S d b) s = .next (Sys2Proof.Claims.wrote s t d 5)) ∧
       let tt := s.timetable (Sys2Proof.Machine.threadCore t) th.ctx bf.codeid bf.kernel
       let named := th.reqs.find? fun r => if th.rl a.toNat = 0 then r.isFor bf else r.id == (th.rl a.toNat).toNat
       ((th.rl a.toNat = 0 ∨ ∃ r, named = some r ∧ r.isFor bf = true) → Sys2Proof.Machine.endsInVote bf.words = true →
         (∀ x ∈ tt, Sys2Proof.Machine.sortNat x.set ≠ bf.set) → tt.length < 1024 →
         ∃ n, (∀ x ∈ tt, x.num ≠ n) ∧ (∀ m < n, ∃ x ∈ tt, x.num = m) ∧
           let u := Sys2Proof.Claims.wrote ((s.modThread t fun x => { x with buf := none }).modCtx th.ctx fun c =>
             { c with composed := c.composed ++ [⟨Sys2Proof.Machine.threadCore t, bf.codeid, bf.kernel, n, bf.set, bf.words⟩] })
             t d (BitVec.ofNat 64 n)
           Sys2Proof.Machine.exec (.stins S d a) s = .next (match named with
             | none => u
             | some r => u.serveRequest t r (some ⟨n, bf.set, some bf.words⟩)))) ∧
     (th.reqs = [] → Sys2Proof.Machine.exec (.sdecl S d a) s =
       .next (Sys2Proof.Claims.wrote (s.modThread t fun x => { x with buf := none }) t d 1)) ∧
     (∀ r, th.rl a.toNat ≠ 0 → th.reqs.find? (fun r => r.id == (th.rl a.toNat).toNat) = some r →
       Sys2Proof.Machine.exec (.sdecl S d a) s = .next ((Sys2Proof.Claims.wrote (s.modThread t fun x => { x with buf := none }) t d 0).serveRequest
         t r none))) ∧
  (∀ (S : Bool) (d a b : BitVec 5) (s : Sys2Proof.Machine.State) t th, Sys2Proof.Claims.Runs s t th →
     (th.buf = none → Sys2Proof.Machine.exec (.emits S d b) s = .next (s.l2fault t .noBuf 0) ∧
       Sys2Proof.Machine.exec (.stins S d a) s = .next (s.l2fault t .noBuf 0)) ∧
     (th.buf ≠ none → Sys2Proof.Machine.exec (.sopen S a b) s = .next (s.l2fault t .noBuf 0)))

/-- R82, R284: `gwait` takes the event at the head of the queue and answers its kind, or sleeps until its limit; `grec` reads
the record taken, 0 beyond its eight words. -/
def Obligations.EventWords : Prop :=
  ∀ (S : Bool) (d a : BitVec 5) (s : Sys2Proof.Machine.State) t th, Sys2Proof.Claims.Runs s t th →
    (∀ e r, th.queue = e :: r → e.mark = false → Sys2Proof.Machine.exec (.gwait S d a) s = .next (s.modThread t fun x =>
      { x.wl d.toNat (BitVec.ofNat 64 (Sys2Proof.fld (e.words.headD 0).toNat 63 56)) with
        queue := r, taken := some e.words, pc := x.pc + 4 })) ∧
    (th.queue = [] → Sys2Proof.Machine.exec (.gwait S d a) s = .next (s.modThread t fun x =>
      { x with taken := none, sleep := some (d.toNat, if th.rl a.toNat = 0 then none else some (s.clock + (th.rl a.toNat).toNat)) })) ∧
    (∀ ws, th.taken = some ws → Sys2Proof.Machine.exec (.grec S d a) s = .next (Sys2Proof.Claims.wrote s t d
      (if (th.rl a.toNat).toNat < 8 then (ws[(th.rl a.toNat).toNat]?).getD 0 else 0))) ∧
    (th.taken = none → Sys2Proof.Machine.exec (.grec S d a) s = .next (s.l2fault t .event 0))

namespace Sys2Proof.Claims
open Sys2Proof.Machine

/-- A guard as a selector reads it: valid, predicate, inversion and the given count. -/
def guardWord (g : Option Guard) (left : Guard → Nat) : DWord :=
  match g with
  | none => 0
  | some x => BitVec.ofNat 64 (2 ^ 19 + 2 ^ 16 * x.p.toNat + (if x.inv then 2 ^ 15 else 0) + left x)

/-- A payload of `hix` as a selector reads it: valid in bit 25. -/
def hixWord (h : Option (BitVec 25)) : DWord :=
  match h with
  | none => 0
  | some p => BitVec.ofNat 64 (2 ^ 25 + p.toNat)

/-- What a group selector names, file by file; none where it is out of range (R287). -/
def selected (s : Machine.State) (gr : Machine.Group) (x : DWord) : Option DWord :=
  let file := fld x.toNat 31 28
  let lane := fld x.toNat 25 16
  let num := fld x.toNat 15 0
  let l := gr.lane lane
  let one := fun (n : Nat) (v : DWord) => if lane = 0 ∧ num < n then some v else none
  let held := (gr.trap.filter fun t => decide (t.code ≠ 0))
  if gr.lanes.length ≤ lane then none
  else match file with
  | 0 => if num < gr.regs then some ((l.rd num).zeroExtend 64) else none
  | 1 => one 32 (gr.rs num)
  | 2 => if num < 8 then some (if l.pred (BitVec.ofNat 3 num) then 1 else 0) else none
  | 3 => if num = 0 then some (l.blk.zeroExtend 64) else none
  | 4 => if num = 0 then some (l.fmode.zeroExtend 64) else none
  | 5 =>
    let k := gr.rk (num % 16)
    one 48 (if num < 16 then k.bits.truncate 64 else if num < 32 then (k.bits >>> 64).truncate 64 else truth k.tag)
  | 6 => one 8 ((gr.trap.bind fun t => (t.words 0)[num]?).getD 0)
  | 7 => one 32 ((gr.trap.map fun t => BitVec.ofNat 64 (maskWord t.fault num + 2 ^ 32 * maskWord t.retry num)).getD 0)
  | 8 => one 512 ((gr.stacked[num / 8]?.bind fun t => (t.words 0)[num % 8]?).getD 0)
  | 9 => one 4 (match num with
    | 0 => hixWord (held.bind fun t => t.hix)
    | 1 => guardWord (held.bind fun t => t.guard) fun _ => 0
    | 2 => hixWord gr.hix
    | _ => guardWord gr.guard fun g => g.left)
  | 10 => one 32 (BitVec.ofNat 64 (maskWord gr.liveLanes num + 2 ^ 32 * ((gr.trap.map fun t => maskWord t.act num).getD 0)))
  | 11 =>
    if 256 ≤ num then none
    else if srPerLane num then some ((laneSpecial l lane num).zeroExtend 64)
    else one 256 (special s gr gr.rwcount num)
  | _ => none

/-- The group after a value is written to the place a selector names: unchanged out of range, in a file that is not writable, or
with a value that the file refuses (R287, R288). -/
def stored (s : Machine.State) (gr : Machine.Group) (x v : DWord) : Machine.Group :=
  let lane := fld x.toNat 25 16
  let num := fld x.toNat 15 0
  let alive := ((s.launchOf gr).map fun l => (gr.lane lane).live || decide (lane < l.extent 0)).getD false
  if (selected s gr x).isNone then gr
  else match fld x.toNat 31 28 with
  | 0 => gr.onLanes [lane] fun _ l => l.wr num (v.truncate 32)
  | 1 => gr.ws num v
  | 2 => if v.toNat < 2 then gr.onLanes [lane] fun _ l => l.setPred (BitVec.ofNat 3 num) (decide (v = 1)) else gr
  | 3 => if v.toNat = 255 ∨ (v.toNat < s.blocksOf gr ∧ alive = true) then gr.onLanes [lane] fun _ l => { l with blk := v.truncate 8 }
    else gr
  | 4 => if fld v.toNat 2 0 ≤ 4 ∧ fld v.toNat 15 9 = 0 then gr.onLanes [lane] fun _ l => { l with fmode := v.truncate 16 } else gr
  | _ => gr

end Sys2Proof.Claims

/-- R210, R211, R287 to R290: a thread reads and writes a parked group of its context through selectors, resumes it, or
kills it. A group that is running is not open to it. The model's choices: of an FMODE value the bits above 15 are ignored (log
entry 99); a group that goes on while a halt of its crew is under way is stopped by it (log entry 116); a skip past the
count of a precise stop ends the stop (log entry 43). -/
def Obligations.ParkedGroupWords : Prop :=
  ∀ (S : Bool) (d a b : BitVec 5) (s : Sys2Proof.Machine.State) t th g gr, Sys2Proof.Claims.Runs s t th →
    Sys2Proof.Claims.Refers s t th (th.rl a.toNat) g gr →
    (Sys2Proof.Claims.Parked gr →
      Sys2Proof.Machine.exec (.gread S d a b) s = .next (Sys2Proof.Claims.wrote s t d ((Sys2Proof.Claims.selected s gr (th.rl b.toNat)).getD 0)) ∧
      Sys2Proof.Machine.exec (.gwrite S d a b) s = .next
        (((s.modGroup g fun _ => Sys2Proof.Claims.stored s gr (th.rl b.toNat) (th.rl d.toNat)).traceLive g gr.liveLanes false).modThread t
          fun x => { x with pc := x.pc + 4 })) ∧
    (gr.stop = .trapped ∨ gr.stop = .halted → (∀ r, gr.trap = some r → r.debug = false) →
      Sys2Proof.Machine.exec (.gres S a b) s = .next ((((s.dropFaulted gr.crew).modGroup g fun x =>
        (x.resume ((th.rl b.toNat).getLsbD 0)).underHalt (s.haltUnder gr.crew)).passStops g).modThread t fun x => { x with pc := x.pc + 4 })) ∧
    Sys2Proof.Machine.exec (.gkill S d a) s = .next (Sys2Proof.Claims.wrote (s.killGroup g) t d 0) ∧
    (gr.stop = .run → (∀ x y, gr.wait ≠ .fuse x y ∧ gr.wait ≠ .compose x y) → gr.trap = none →
      Sys2Proof.Machine.exec (.gread S d a b) s = .next (s.l2fault t .group gr.gid) ∧
      Sys2Proof.Machine.exec (.gwrite S d a b) s = .next (s.l2fault t .group gr.gid) ∧
      Sys2Proof.Machine.exec (.gres S a b) s = .next (s.l2fault t .group gr.gid))

/-- R210, R262, R289: THE RETURN FROM A TRAP. A trapped group that is retried issues its trapping word once more, for its retry set
and under its own binding and guard; one that is skipped goes on behind it with the word counted; a halted group goes on at its
next word. Registers, lanes, block registers and the stacked traps are as they were. -/
def Obligations.ReturnFromTrap : Prop :=
  ∀ (gr : Sys2Proof.Machine.Group) (t : Sys2Proof.Machine.Trap),
    (gr.stop = .trapped → gr.trap = some t → t.noWord = false →
      gr.resume false = { gr with stop := .run, trap := none, retry := Sys2Proof.Machine.stackTrap t gr.retry } ∧
      gr.resume true = { gr with
        stop := .run, trap := none, rwcount := if Sys2Proof.Machine.isHint t.instr = true then gr.rwcount else gr.rwcount + 1 } ∧
      (gr.retry = [] → (gr.resume false).nextWord = some (⟨t.instr, t.prov⟩, { gr with stop := .run, trap := none }) ∧
        ∀ g q, let c := Sys2Proof.Machine.curOf g (gr.resume false) q
          c.who = .group g ∧ c.act = t.retry ∧ c.hix = t.hix ∧ c.guard = t.guard ∧ c.rwc = gr.rwcount.toNat)) ∧
    (gr.stop = .halted → ∀ k, gr.resume k = { gr with stop := .run, trap := none }) ∧
    (gr.stop = .trapped → gr.trap = some t → t.noWord = true → ∀ k, gr.resume k = { gr with stop := .run, trap := none })

/-- R199, R203, R206, R207: TAKING A TRAP. A running group parks on its trap: its record holds the code, the class of the code, the
fault and retry sets, the word with its tag and its RWCOUNT; its registers and lanes are as they were. A trap of the crew
class begins a halt of the crew, unless one is under way: the crew notes the group and its record, every other running group of the
crew is halting, with a record of CODE 0 and CLASS 3, at once where it is parked, and groups of other crews are as they were. A trap
of any other class leaves the other groups as they are. -/
def Obligations.TakingATrap : Prop :=
  ∀ (s : Sys2Proof.Machine.State) g gr code fault detail handle ooff, s.group? g = some gr → gr.stop = .run →
    ∃ t y, (s.trapNow g code fault detail handle ooff).group? g = some y ∧ y.trap = some t ∧ y.stop = .trapping ∧
      t.code = code ∧ t.cls = Sys2Proof.Machine.classOf code ∧ t.fault = fault ∧ t.retry = s.cur.act ∧ t.detail = detail ∧
      t.handle = handle ∧ t.ooff = ooff ∧ t.instr = s.cur.word ∧ t.prov = s.cur.prov ∧ t.rwc = s.cur.rwc ∧ t.hix = s.cur.hix ∧
      t.guard = s.cur.guard ∧ t.gid = gr.gid ∧ y.lanes = gr.lanes ∧ y.s = gr.s ∧ y.k = gr.k ∧ y.pc = gr.pc ∧
      (s.trapNow g code fault detail handle ooff).mem = s.mem ∧
      (Sys2Proof.Machine.classOf code ≠ 1 → ∀ h, h ≠ g → (s.trapNow g code fault detail handle ooff).group? h = s.group? h) ∧
      (Sys2Proof.Machine.classOf code = 1 → ∀ c, s.crew? gr.crew = some c →
        let u := s.trapNow g code fault detail handle ooff
        ((∃ h, c.halt = some h ∧ h.sent = false) → u.crews = s.crews ∧ ∀ h, h ≠ g → u.group? h = s.group? h) ∧
        ((∀ h, c.halt = some h → h.sent = true) →
          u.crew? gr.crew = some { c with halt := some ⟨g, t, false, false⟩ } ∧
          (∀ h x, h ≠ g → s.group? h = some x → x.crew = gr.crew → x.stop = .run → ∃ r, r.code = 0 ∧ r.cls = 3 ∧ r.fault = [] ∧
            u.group? h = some { x with stop := .halting, trap := some r, hslots := if s.parkedAt h x = true then 64 else 0 }) ∧
          ∀ h x, h ≠ g → s.group? h = some x → x.crew ≠ gr.crew → u.group? h = some x))

/-- R60, R66, R291: `launch` reads 128 bytes of a window as one access and hands the record to the thread's device launch queue,
with the next launch number and CLOCK, or answers 1 where its sixteen places are taken. That all the thread's admitted stores have
performed by then, once no refresh holds one, is the model's reading (log entry 67; R291 names those to the record's sectors). -/
def Obligations.LaunchWord : Prop :=
  ∀ (S : Bool) (d a : BitVec 5) (k : BitVec 4) (s : Sys2Proof.Machine.State) t th f, Sys2Proof.Claims.Runs s t th →
    let c := th.rk k.toNat
    let off := (th.rl a.toNat).toNat
    let o := c.low + off
    let p := s.portEntry (Sys2Proof.Machine.portOf (Sys2Proof.Machine.threadCore t)) th.ctx c.handle c.kind 1 o 128
    off % 64 = 0 → off + 128 ≤ c.len → c.rights &&& 1 = 1 → c.wellFormed = true →
    (∃ f, s.recordPage th.ctx c o = .at_ f) →
    s.tableBank (Sys2Proof.Machine.portOf (Sys2Proof.Machine.threadCore t)) th.ctx c.handle c.kind 1 o 128 = none →
    p.1 = s → Sys2Proof.Machine.judge s.mem p.2 c.kind 1 o 128 = .at_ f →
    s.hostFails f = false → s.peerFails f = false → s.rangeBank f 128 = none → s.readWaits f = false → s.watchHits th.ctx c.handle o 128 false = [] →
    th.stopped = false → s.drainable (Sys2Proof.Machine.threadCore t) th.ctx = true →
    (∀ x ∈ s.postedOf (Sys2Proof.Machine.threadCore t) th.ctx, s.peerDown x.2.flat = false) →
    let u := s.drainPosted (Sys2Proof.Machine.threadCore t) th.ctx
    let rec_ := (List.range 16).map fun i => BitVec.ofNat 64 (u.objWord th.ctx c.handle (o + 8 * i))
    (th.dlq.length < 16 → Sys2Proof.Machine.exec (.launch S d a k) s = .next { (u.modThread t (fun x =>
      { x.wl d.toNat 0 with dlq := x.dlq ++ [⟨u.nextLaunch, u.clock, rec_⟩], pc := x.pc + 4 })).accepted ⟨th.ctx, t + 1, rec_⟩ with
        nextLaunch := u.nextLaunch + 1 }) ∧
    (16 ≤ th.dlq.length → Sys2Proof.Machine.exec (.launch S d a k) s = .next (Sys2Proof.Claims.wrote u t d 1))

/-- R38, R40 to R43, R83, R369, R370: `vote` ends the guard and an open station. With no live lane the group has no word left.
Otherwise the HOLD blocks leave the vote set, their lanes wait, and the group enters the station of the set. Where none is and a
composition is offered (the launch and the kernel allow one, the set has at most eight blocks, the core has a thread of the
context), it waits on the thread's request for that set, which its thread is told of where it is a new one; where none is offered
it enters the first pass of its cover. In a cover pass the vote enters the next pass, whose station the cover holds, on whatever
core the group is (R44; log entry 94); in the last one it votes anew. -/
def Obligations.VoteWord : Prop :=
  ∀ (S : Bool) (s : Sys2Proof.Machine.State) g gr, Sys2Proof.Claims.Issues s g gr → s.cur.hix = none →
    let s1 := s.modGroup g fun _ => { gr with guard := none, isOpen := false }
    let held := match s.kernelOfGroup gr with
      | none => []
      | some k => k.hold
    let set := Sys2Proof.Machine.dropHolds held gr.voteSet
    let marked := s1.modGroup g fun x => { x with pass := 0, cover := [], lanes := x.lanes.map fun l =>
      { l with mark := if l.live && !set.contains l.blk.toNat then Sys2Proof.Machine.waitMark else 0 } }
    let offered := fun (l : Sys2Proof.Machine.Launch) t => s.launchOf gr = some l ∧ l.compose = true ∧
      (∃ k, s.kernelOfGroup gr = some k ∧ k.compose.isSome = true) ∧ set.length ≤ 8 ∧ s.threadOf (s.coreOf gr) gr.ctx = some t
    ((gr.pass = 0 ∨ gr.cover = []) → gr.voteSet = [] → Sys2Proof.Machine.exec (.vote S) s = .next (s1.modGroup g fun x =>
      { x with code := [], copy := none, ended := true, pc := 0, queue := [], pass := 0, cover := [] })) ∧
    ((gr.pass = 0 ∨ gr.cover = []) → gr.voteSet ≠ [] → ∀ x, (s.tableOf gr).find? (fun x => Sys2Proof.Machine.sortNat x.set == set) = some x →
      Sys2Proof.Machine.exec (.vote S) s = .next (marked.enter g x)) ∧
    ((gr.pass = 0 ∨ gr.cover = []) → gr.voteSet ≠ [] → (∀ x ∈ s.tableOf gr, Sys2Proof.Machine.sortNat x.set ≠ set) →
      ((∀ l t, ¬ offered l t) → Sys2Proof.Machine.exec (.vote S) s = .next (marked.startCover g set)) ∧
      (∀ l t th, offered l t → s.thread? t = some th →
        let same := th.reqs.find? fun r => r.codeid == l.codeid && r.kernel == l.kernel && r.set == set
        (∀ r, same = some r → Sys2Proof.Machine.exec (.vote S) s = .next
          ((marked.modThread t fun x => { x with reqs := x.reqs.map fun y => if y.id = r.id then { y with groups := y.groups ++ [g] } else y }).modGroup
            g fun x => { x with wait := .compose t r.id, met := false })) ∧
        (same = none → Sys2Proof.Machine.exec (.vote S) s = .next
          (((marked.modThread t fun x => { x with
              reqs := x.reqs ++ [⟨th.nextReq, l.codeid, l.kernel, set, [g]⟩]
              nextReq := if th.nextReq = 0xFFFFFFFF then 1 else th.nextReq + 1 }).modGroup g fun x =>
            { x with wait := .compose t th.nextReq, met := false }).modThread t fun x => x.takeEvent
              ⟨Sys2Proof.Machine.composeEvent 0 gr l.kernel l.codeid th.nextReq set 0 gr.station s.clock, s.clock, false, some gr.uid⟩)))) ∧
    (∀ x r, gr.pass ≠ 0 → gr.cover = x :: r →
      Sys2Proof.Machine.exec (.vote S) s = .next ((s1.modGroup g fun y => { y with pass := y.pass + 1, cover := r }).enter g x))

namespace Sys2Proof.Claims
open Sys2Proof.Machine

/-! ### Steps of the memory path -/

/-- The first byte of an access in its object, and the first behind it. -/
def lowest (a : Access) : Nat := a.pieces.foldl (fun n p => min n p.off) ((a.pieces.map (·.off)).headD 0)
def behind (a : Access) : Nat := a.pieces.foldl (fun n p => max n (p.off + p.size)) 0

/-- A port lets an access through (R189): by one version of the entry every piece lies at its flat address, no watchpoint is hit,
the home answers, and no refresh holds its bank or what the port reads to judge it; no wait-table entry takes it (R215, R440). -/
structure Lets (s : Machine.State) (a : Access) (e : Entry) (flat : Piece → Nat) : Prop where
  entry  : s.portEntry (portOf a.core) a.ctx a.handle a.kind a.rights (lowest a) (behind a - lowest a) = (s, some e)
  some_  : a.pieces ≠ []
  places : ∀ p ∈ a.pieces, judge s.mem (some e) a.kind a.rights p.off p.size = .at_ (flat p)
  quiet  : ∀ p ∈ a.pieces, s.watchHits a.ctx a.handle p.off p.size a.write = []
  host   : s.hostFails ((a.pieces.map flat).headD 0) = false
  peer   : s.peerFails ((a.pieces.map flat).headD 0) = false
  bank   : s.heldBank ((a.pieces.map flat).headD 0) = none
  free   : (e.racechk && a.plain) = false
  alone  : s.serialLaunch a.crew = none
  read   : s.judgeBank a = none
  goes   : s.joins a = none

/-- Whose a claim is: of another group than the access's, of its own, or of any (R113). -/
def OfOther (s : Machine.State) (a : Access) (c : Nat × Nat) : Prop := ∃ x, s.holder c = some x ∧ x.uid ≠ a.uid
def OfOwn (s : Machine.State) (a : Access) (c : Nat × Nat) : Prop := ∃ x, s.holder c = some x ∧ x.uid = a.uid

/-- The tag after an access d that meets no conflict, and whether a claim is lost (R114): a write leaves its own claim alone; a read
finds its group's claim there, or takes a free place, or is lost with OVF. -/
def Records (s : Machine.State) (a : Access) (c d : Claim) (lost : Bool) : Prop :=
  let me := s.claimOf a
  let none_ := (0xFFFFF, 0)
  let own := OfOwn s a c.wr ∨ OfOwn s a c.rd0 ∨ OfOwn s a c.rd1
  (a.write = true → d = { c with ovf := false, rd0 := none_, rd1 := none_, wr := me } ∧ lost = c.ovf) ∧
  (a.write = false → own → d = c ∧ lost = false) ∧
  (a.write = false → ¬ own → s.holder c.rd0 = none → d = { c with rd0 := me } ∧ lost = false) ∧
  (a.write = false → ¬ own → s.holder c.rd0 ≠ none → s.holder c.rd1 = none → d = { c with rd1 := me } ∧ lost = false) ∧
  (a.write = false → ¬ own → s.holder c.rd0 ≠ none → s.holder c.rd1 ≠ none → d = { c with ovf := true } ∧ lost = true)

/-- A tag with no current claim, on a line with no owner record that binds a crew (R113, R158). -/
def Unclaimed (s : Machine.State) (line : Nat) (c : Claim) : Prop :=
  s.holder c.rd0 = none ∧ s.holder c.rd1 = none ∧ s.holder c.wr = none ∧ s.ownersOn line = []

/-- The line has its tag c, in the state u (R112, R116): the one that it has; else a free one, which takes the place of another of
the directory only where that is full, and the claims and records given up are lost, each to its context's CLAIMLOST. -/
def Tagged (s : Machine.State) (line : Nat) (u : Machine.State) (c : Claim) : Prop :=
  let here := fun d => s.claims.filter fun x => directoryOf x.1 == some d
  (tget s.claims line = some c ∧ u = s) ∨
  (tget s.claims line = none ∧ c = ⟨false, (0xFFFFF, 0), (0xFFFFF, 0), (0xFFFFF, 0), 0⟩ ∧
    ((directoryOf line = none ∧ u = s) ∨
     (∃ d, directoryOf line = some d ∧ (here d).length < directorySize d ∧ u = s) ∨
     ∃ d k x, directoryOf line = some d ∧ directorySize d ≤ (here d).length ∧ s.evictTag d = some (k, x) ∧
       u = ([x.rd0, x.rd1, x.wr].flatMap (fun r => ((s.holder r).map (·.ctx)).toList) ++ s.ownersOn k).foldl Machine.State.loseClaim
         { s with claims := tdel s.claims k, owners := s.owners.filter fun y => y.1 / 2 ^ 64 != k }))

/-- The groups of a crew that are parked at a fuse site, in ascending group index (R48). -/
def atSite (s : Machine.State) (crew site : Nat) : List (Nat × Machine.Group) :=
  (s.crewGroups crew).filterMap fun g => match s.group? g with
    | some gr => if gr.atSite site then some (g, gr) else none
    | none => none

/-- The access has its answers. -/
def Answered (t : Machine.State) (n : Nat) (res : List PieceRes) : Prop :=
  ∃ y, tget t.accs n = some y ∧ y.stage = .answered ∧ y.res = res

/-- Every group keeps its registers and its place; only a registration on written bytes may have been met (R334). -/
def GroupsKept (s t : Machine.State) : Prop :=
  ∀ g x, s.group? g = some x → ∃ y, t.group? g = some y ∧ y = { x with met := y.met }

end Sys2Proof.Claims

/-- R189, R91, R92, R320 to R324: PORT_ACCESS. Every piece is judged on its own. A store writes the bytes of its pieces and no
other; a load answers with the bytes at its home and changes no memory; an atomic of one piece answers with the old value and
leaves the new one. Where the object has no entry, every piece is refused CAPREVOKED or as R190 orders, and a piece that fails a
check with the code of that check; where the page is elsewhere, the access parks. -/
def Obligations.PortAccessStep : Prop :=
  ∀ (n : Nat) (s : Sys2Proof.Machine.State) a, Sys2Proof.Machine.tget s.accs n = some a → s.portDue n a = true → s.givesWay a = false →
    Sys2Proof.Machine.memWf s.mem = true → s.judgeBank a = none →
    let i : Sys2Proof.Instr := .portAccess n
    (∀ e flat, Sys2Proof.Claims.Lets s a e flat →
      (s.opKind a.op = .store → a.write = true → ∃ t, Sys2Proof.Machine.exec i s = .next t ∧
        (∀ x, (∀ p ∈ a.pieces, x < flat p ∨ flat p + p.size ≤ x) → Sys2Proof.Machine.mget t.mem x = Sys2Proof.Machine.mget s.mem x) ∧
        (∀ p, a.pieces = [p] → Sys2Proof.Machine.mnat t.mem (flat p) p.size = p.value % 256 ^ p.size) ∧
        Sys2Proof.Claims.GroupsKept s t ∧ Sys2Proof.Claims.Answered t n (a.pieces.map fun _ => .value 0 false)) ∧
      ((s.opKind a.op).atomOp = none → (∀ c w k, s.opKind a.op ≠ .arrive c w k) → (∀ x v k, s.opKind a.op ≠ .register x v k) →
        a.write = false → s.cachedSector a.core a.ctx (Sys2Proof.Machine.sectorOf ((a.pieces.map flat).headD 0)) = none →
        ∃ t, Sys2Proof.Machine.exec i s = .next t ∧ t.mem = s.mem ∧ t.tags = s.tags ∧ t.groups = s.groups ∧
          Sys2Proof.Claims.Answered t n (a.pieces.map fun p => .value (Sys2Proof.Machine.mnat s.mem (flat p) p.size)
            (p.size == 16 && Sys2Proof.Machine.tagAt s.tags (flat p / 16)))) ∧
      (∀ size op vd ret p, s.opKind a.op = .atom size op vd ret → a.pieces = [p] → ∃ t, Sys2Proof.Machine.exec i s = .next t ∧
        (∀ x, (x < flat p ∨ flat p + p.size ≤ x) → Sys2Proof.Machine.mget t.mem x = Sys2Proof.Machine.mget s.mem x) ∧
        (let old := Sys2Proof.Machine.mnat s.mem (flat p) p.size
         Sys2Proof.Machine.mnat t.mem (flat p) p.size =
            Sys2Proof.Machine.atomVal op (8 * p.size) old p.value p.value2 % 256 ^ p.size ∧
          Sys2Proof.Claims.Answered t n [.value old false]) ∧ Sys2Proof.Claims.GroupsKept s t)) ∧
    (a.pieces ≠ [] → s.portEntry (Sys2Proof.Machine.portOf a.core) a.ctx a.handle a.kind a.rights (Sys2Proof.Claims.lowest a)
        (Sys2Proof.Claims.behind a - Sys2Proof.Claims.lowest a) = (s, none) →
      ∃ t, Sys2Proof.Machine.exec i s = .next t ∧ t.mem = s.mem ∧ t.groups = s.groups ∧ Sys2Proof.Claims.Answered t n
        (a.pieces.map fun p => .fail ⟨p.lane, Sys2Proof.Machine.denialCode [1], 1, 1, a.handle, p.off⟩)) ∧
    (∀ e, a.pieces ≠ [] → s.portEntry (Sys2Proof.Machine.portOf a.core) a.ctx a.handle a.kind a.rights
        (Sys2Proof.Claims.lowest a) (Sys2Proof.Claims.behind a - Sys2Proof.Claims.lowest a) = (s, some e) →
      let fails := fun (p : Sys2Proof.Machine.Piece) => Sys2Proof.Machine.portFails s.mem (some e) a.kind a.rights p.off p.size
      ((∀ p ∈ a.pieces, fails p ≠ []) → ∃ t, Sys2Proof.Machine.exec i s = .next t ∧ t.mem = s.mem ∧ t.groups = s.groups ∧
        Sys2Proof.Claims.Answered t n (a.pieces.map fun p =>
          .fail ⟨p.lane, Sys2Proof.Machine.denialCode (fails p), 1, BitVec.ofNat 64 ((fails p).headD 1), a.handle, p.off⟩)) ∧
      (∀ p r pme, a.pieces = p :: r → (∀ p ∈ a.pieces, fails p = []) →
        (∀ p ∈ a.pieces, s.watchHits a.ctx a.handle p.off p.size a.write = []) →
        Sys2Proof.Machine.judge s.mem (some e) a.kind a.rights p.off p.size = .elsewhere pme →
        Sys2Proof.Machine.exec i s = .next (s.parkAccess n pme)))

/-- R80, R112 to R115, R117: CLAIM_CHECK judges a plain access at its line's tag: a write meets any other group's current claim, a
read any other group's current write claim. The first conflict, of the write claim and then of the reads, is refused as RACE at
the home, naming its holder; otherwise the tag records the access as R114 says, CLAIMLOST advances where that loses a claim, and
the access performs. A line with no tag takes a free one; in a full directory that of a line with no current claim and no binding
record, and else the least recently accessed one, gives up its place. That a claim names its group's region as it is checked, and
that the access costs CLAIMLOST where it meets a claim of an ended region whose accesses are still to perform (log entry 89), the
mark of the tag's latest use, and the lowest line of several to give up (88), are the model's choice. CLAIM_SCRUB resets stale
claims and nothing else; URGENCY_BIT sends a read's upgrade once, which its port keeps while it has a place for it and else
ignores. -/
def Obligations.ClaimSteps : Prop :=
  ∀ (s : Sys2Proof.Machine.State),
    (∀ n a u c, Sys2Proof.Machine.tget s.accs n = some a → s.claimDue a = true → s.givesWay a = false →
      let line := a.flats.headD 0 / 64
      Sys2Proof.Claims.Tagged s line u c →
      let other := Sys2Proof.Claims.OfOther s a
      let refused := fun h w => Sys2Proof.Machine.exec (.claimCheck n) s = .next (u.refuse n a 11 2 (Sys2Proof.Machine.raceDetail h w false))
      (other c.wr → refused c.wr true) ∧
      (¬ other c.wr → a.write = true → other c.rd0 → refused c.rd0 false) ∧
      (¬ other c.wr → a.write = true → ¬ other c.rd0 → other c.rd1 → refused c.rd1 false) ∧
      (¬ other c.wr → (a.write = true → ¬ other c.rd0 ∧ ¬ other c.rd1) → ∀ d lost, Sys2Proof.Claims.Records s a c d lost →
        let s1 := { u with
          claims := Sys2Proof.Machine.tset u.claims line { d with use := s.tick }
          lapsed := u.lapsedAfter n a line }
        let losers := (if lost = true then [a.ctx] else []) ++ u.lapsedLost a line fun h => h.uid != a.uid
        Sys2Proof.Machine.exec (.claimCheck n) s =
          .next ((losers.foldl Sys2Proof.Machine.State.loseClaim s1).performAccess n a (s.opKind a.op) false))) ∧
    (∀ d k x, s.evictTag d = some (k, x) → (k, x) ∈ s.claims ∧ Sys2Proof.Machine.directoryOf k = some d ∧
      (Sys2Proof.Claims.Unclaimed s k x ∨ ∀ y ∈ s.claims, Sys2Proof.Machine.directoryOf y.1 = some d →
        ¬ Sys2Proof.Claims.Unclaimed s y.1 y.2 ∧ x.use ≤ y.2.use)) ∧
    (∀ line c, Sys2Proof.Machine.tget s.claims line = some c → s.scrubbed c ≠ c →
      Sys2Proof.Machine.exec (.claimScrub line) s = .next { s with claims := Sys2Proof.Machine.tset s.claims line (s.scrubbed c) }) ∧
    (∀ n a, Sys2Proof.Machine.tget s.accs n = some a → s.urgencyDue a = true →
      Sys2Proof.Machine.exec (.urgencyBit n) s = .next (s.modAcc n fun x => { x with urgent := s.urgentPlace a, upgraded := true }))

/-- R77, R319, R320: ANSWER_RETURN. The access leaves; each lane that was answered has its value, in lanes, scalar or capability
registers as the word asks; memory is as before, but for the trace of a sampled word. A word whose last answer failed traps its
group with the lowest code. -/
def Obligations.AnswerReturnStep : Prop :=
  ∀ (n : Nat) (s : Sys2Proof.Machine.State) a o gr, Sys2Proof.Machine.tget s.accs n = some a → s.answerDue a = true →
    Sys2Proof.Machine.tget s.ops a.op = some o → s.group? o.group = some gr →
    ∃ t y, Sys2Proof.Machine.exec (.answerReturn n) s = .next t ∧ (o.sample = false → t.mem = s.mem ∧ t.tags = s.tags) ∧
      t.accs = Sys2Proof.Machine.tdel s.accs n ∧ t.group? o.group = some y ∧
      (let x := Sys2Proof.Machine.deliverAll gr o.kind (a.pieces.zip a.res)
       y.lanes = x.lanes ∧ y.s = x.s ∧ y.k = x.k ∧ y.pc = gr.pc ∧ y.code = gr.code ∧ y.rwcount = gr.rwcount) ∧
      (∀ h z, h ≠ o.group → s.group? h = some z → ∃ w, t.group? h = some w ∧ w.lanes = z.lanes ∧ w.s = z.s ∧ w.k = z.k ∧
        w.rwcount = z.rwcount) ∧
      (o.left = 1 → ∀ f, Sys2Proof.Machine.leastFail (o.fails ++ Sys2Proof.Machine.failsOf a.res) = some f → o.watch = false →
        a.watch = false → gr.stop = .run → ∃ r, y.stop = .trapping ∧ y.trap = some r ∧ r.code = f.code ∧ r.origin = f.origin ∧
          r.detail = f.detail ∧ r.instr = o.word ∧ r.prov = o.prov ∧ r.rwc = o.rwc)

/-- R107 to R109, R330: BARRIER_ARRIVAL of count n on a word with ARRIVED and EXPECTED. It makes a release point of its group.
Count 0 changes no memory; an arrival beyond EXPECTED, or on a word with a bit of [63:58] set, sets OVERRUN and is refused
BARRIER, and one on a word whose OVERRUN is set already is not for that; the last one flips the phase and clears ARRIVED, and
every group that waits on the phase wakes; any other adds its count, and a `bars` then waits on the phase it read. No byte but the
word's is written. -/
def Obligations.BarrierArrivalStep : Prop :=
  ∀ (n : Nat) (s : Sys2Proof.Machine.State) a count waits scope, Sys2Proof.Machine.tget s.accs n = some a → s.arrivalDue a = true →
    s.opKind a.op = .arrive count waits scope → Sys2Proof.Machine.memWf s.mem = true →
    let flat := a.flats.headD 0
    let w := Sys2Proof.Machine.mnat s.mem flat 8
    let arrived := Sys2Proof.fld w 27 0
    let expected := Sys2Proof.fld w 55 28
    ∃ t, Sys2Proof.Machine.exec (.barrierArrival n) s = .next t ∧
      (∀ x, (x < flat ∨ flat + 8 ≤ x) → Sys2Proof.Machine.mget t.mem x = Sys2Proof.Machine.mget s.mem x) ∧
      (a.group ≠ Sys2Proof.Machine.noGroup → Sys2Proof.Machine.tget t.slotCtr a.group = some ((Sys2Proof.Machine.tget s.slotCtr a.group).getD 0 + 1)) ∧
      (count = 0 → t.mem = s.mem ∧ Sys2Proof.Claims.Answered t n (a.pieces.map fun _ => .value w false)) ∧
      (count ≠ 0 → Sys2Proof.fld w 63 58 = 0 → arrived + count < expected →
        Sys2Proof.Machine.mnat t.mem flat 8 = w + count ∧ Sys2Proof.Claims.Answered t n (a.pieces.map fun _ => .value w false)) ∧
      (count ≠ 0 → Sys2Proof.fld w 63 58 = 0 → arrived + count = expected →
        Sys2Proof.Machine.mnat t.mem flat 8 = (w - arrived) ^^^ 2 ^ 56 ∧ Sys2Proof.Claims.Answered t n (a.pieces.map fun _ => .value w false) ∧
        ∀ g x ph k, s.group? g = some x → x.wait = .phase flat ph k → ph = decide (w / 2 ^ 56 % 2 = 1) →
          ∃ y, t.group? g = some y ∧ y.met = true) ∧
      (waits = true → (count = 0 ∨ (Sys2Proof.fld w 63 58 = 0 ∧ arrived + count < expected)) → ∀ x, s.group? a.group = some x →
        ∃ y, t.group? a.group = some y ∧ y.wait = .phase flat (decide (w / 2 ^ 56 % 2 = 1)) scope ∧ y.met = false) ∧
      (count ≠ 0 → (Sys2Proof.fld w 63 58 ≠ 0 ∨ expected < arrived + count) →
        Sys2Proof.Machine.mnat t.mem flat 8 = w ||| 2 ^ 57 ∧
        Sys2Proof.Claims.Answered t n (a.pieces.map fun p => .fail ⟨p.lane, 12, 2, BitVec.ofNat 64 (w ||| 2 ^ 57), a.handle, p.off⟩))

/-- R199, R203, R206, R208, R427: the steps of traps and halts. TRAP_RECORD_WRITE writes the record of a group whose words are
settled, with its skid and the count of traps behind it; SIBLING_STOP gives a halted sibling its record of CODE 0 and CLASS 3;
CREW_HALT_EVENT tells the thread once: the event with the crew's record, of kind 4, or 6 for a copy fault, stands in its queue;
until the queue has a place for it the halt is under way (R82); PRECISE_STOP parks a group at its armed count. No lane or register
changes. -/
def Obligations.TrapAndHaltSteps : Prop :=
  ∀ (s : Sys2Proof.Machine.State) g gr, s.group? g = some gr →
    (∀ r, s.recordDue g gr = true → gr.trap = some r → ∃ t y, Sys2Proof.Machine.exec (.trapRecordWrite g) s = .next t ∧ t.mem = s.mem ∧
      t.group? g = some y ∧ y = { gr with
        stop := .trapped, trap := y.trap, rwcount := y.rwcount } ∧ y.trap = some (r.settle gr) ∧
      (r.noWord = false → Sys2Proof.Machine.isHint r.instr = false → r.rwc < gr.rwcount.toNat → gr.rwcount.toNat ≤ r.rwc + 65 →
        y.rwcount.toNat = r.rwc + (r.settle gr).skid)) ∧
    (s.siblingDue g gr = true → ∃ t y r, Sys2Proof.Machine.exec (.siblingStop g) s = .next t ∧ t.mem = s.mem ∧
      t.group? g = some y ∧ y = { gr with stop := .halted, trap := some r } ∧ r.code = 0 ∧ r.cls = 3 ∧ r.fault = [] ∧ r.detail = 0) ∧
    (s.preciseDue g gr = true → ∃ t y r, Sys2Proof.Machine.exec (.preciseStop g) s = .next t ∧ t.mem = s.mem ∧
      t.group? g = some y ∧ y = { gr with stop := .trapped, trap := some r } ∧ r.code = 7 ∧ r.cls = 0 ∧ r.origin = 5 ∧ r.skid = 0 ∧
      r.detail = BitVec.ofNat 64 (2 ^ 63)) ∧
    (∀ c h, s.crew? gr.crew = some c → c.halt = some h → s.haltEventDue gr.crew = true →
      ∃ t, Sys2Proof.Machine.exec (.crewHaltEvent gr.crew) s = .next t ∧ t.groups = s.groups ∧ t.mem = s.mem ∧
        t.crew? gr.crew = some { c with halt := some { h with sent := true } } ∧
        (s.threadOf c.core c.ctx = none → t.threads = s.threads) ∧
        ∀ k th, s.threadOf c.core c.ctx = some k → s.thread? k = some th →
          let ws := (s.haltRecord gr.crew h).words (if h.origin.code = 14 then 6 else 4)
          (th.idle = true → Sys2Proof.Machine.eventKind ws ≠ 1 ∧ Sys2Proof.Machine.eventKind ws ≠ 5) →
          th.queue.length < 256 ∧ th.held = [] ∧
          ∃ e, e.words = ws ∧ e.since = s.clock ∧ e.mark = false ∧ t.thread? k = some { th with queue := th.queue ++ [e] })

/-- R28, R38, R48 to R50, R74, R76, R97, R109, R228, R326, R331, R333, R370, R385, R386, R418: the steps that end a wait or a
group, each once it is due. A fence drops cached lines and ends its region as it was issued to; the groups whose condition on one
word has held go on together; a group on another core has its station's code from the arena as it stands, also after a `sinv` of
that code (R230). A group that waited for a station enters it on whatever core it is (R41, R44; log entry 94). A fuse site of two
groups that pair leaves one group with the live lanes of both, its own first, and 1 in sd, and the other retires; of two that do
not pair, each goes on with its lanes and 0 in sd. -/
def Obligations.WaitSteps : Prop :=
  ∀ (s : Sys2Proof.Machine.State) g gr, s.group? g = some gr →
    (∀ ops cmds drop ends, s.fenceDue gr = true → gr.wait = .fence ops cmds drop ends →
      let s1 := s.modGroup g fun x => { x with wait := .none }
      let s2 := if drop = true then s1.dropLines (s.coreOf gr) gr.ctx else s1
      Sys2Proof.Machine.exec (.fenceComplete g) s = .next (if ends = true then s2.release g else s2)) ∧
    (∀ ops cmds h low len c, s.sinvDue gr = true → gr.wait = .sinv ops cmds h low len → s.ctx? gr.ctx = some c →
      ∃ t y, Sys2Proof.Machine.exec (.sinvComplete g) s = .next t ∧ t.mem = s.mem ∧ t.group? g = some y ∧
        y = { gr with wait := .none, refetch := y.refetch, moved := y.moved } ∧ (h ≠ c.arena → t.store = s.store) ∧ (len = 0 → t.store = s.store) ∧
        (h = c.arena → ∀ x ∈ s.store, Sys2Proof.Machine.codeMeets c x low len = true → { x with stale := true } ∈ t.store ∧
          ∀ k z, s.group? k = some z → z.ctx = gr.ctx → z.moved = true → z.copy = some x.id →
            ∃ w, t.group? k = some w ∧ w.refetch = true ∧ w.moved = false)) ∧
    (∀ w, gr.metDue = true → Sys2Proof.Machine.watchedWord gr.wait = some w → s.refetchDue gr = false →
      ∃ t, Sys2Proof.Machine.exec (.groupWake g) s = .next t ∧ t.mem = s.mem ∧
        (∀ h x, s.group? h = some x → x.metDue = true → Sys2Proof.Machine.watchedWord x.wait = some w →
          t.group? h = some { x with wait := .none, met := false }) ∧
        (∀ h x, s.group? h = some x → ∃ y, t.group? h = some y ∧ (y = x ∨ y = { x with wait := .none, met := false })) ∧
        (∀ ph k, gr.wait = .phase w ph k → 2 ≤ k → ∀ l ∈ t.rcache, ¬ (l.core = s.coreOf gr ∧ l.ctx = gr.ctx)) ∧
        (∀ v, gr.wait = .word w v → ∀ l ∈ t.rcache, ¬ (l.core = s.coreOf gr ∧ l.ctx = gr.ctx))) ∧
    (∀ x, s.enterDue gr = true → s.refetchDue gr = false → gr.wait = .store x →
      Sys2Proof.Machine.exec (.groupWake g) s = .next ((s.modGroup g fun x => { x with wait := .none, met := false }).enter g x)) ∧
    (s.refetchDue gr = true → ∃ t y, Sys2Proof.Machine.exec (.groupWake g) s = .next t ∧ t.mem = s.mem ∧ t.group? g = some y ∧
      y = { gr with code := s.fetchStation gr.ctx (s.codeOf gr).1 (s.codeOf gr).2 gr.station, copy := y.copy, refetch := false }) ∧
    (s.retireDue g gr = true → Sys2Proof.Machine.exec (.groupRetire g) s = .next (s.retireGroup g)) ∧
    (s.ageDue g gr = true → Sys2Proof.Machine.exec (.generalAgeSelect g) s =
      .next { s.modGroup g fun x => { x with ready := none } with agenda := .issue g :: s.agenda }) ∧
    (∀ site, s.siteDue gr.crew site = true → Sys2Proof.Machine.exec (.fuseResolve gr.crew site) s = .next (s.resolveSite gr.crew site)) ∧
    ∀ site h hr l sg sh, s.siteDue gr.crew site = true → Sys2Proof.Claims.atSite s gr.crew site = [(g, gr), (h, hr)] → g ≠ h →
      s.launchOf gr = some l → gr.wait = .fuse site sg → hr.wait = .fuse site sh →
      let live := gr.lanes.filter Sys2Proof.Machine.Lane.live ++ hr.lanes.filter Sys2Proof.Machine.Lane.live
      let pairs := gr.eligible = true ∧ hr.eligible = true ∧ hr.role = gr.role ∧ hr.station = gr.station ∧ hr.members = gr.members ∧
        live.length ≤ gr.lanes.length
      (pairs → ∃ t gs y, Sys2Proof.Machine.exec (.fuseResolve gr.crew site) s = .next t ∧ t.groups = Sys2Proof.Machine.tdel gs h ∧
        Sys2Proof.Machine.tget gs g = some y ∧ y.wait = .none ∧ y.s = (gr.ws sg 1).s ∧ y.k = gr.k ∧
        y.lanes = live ++ List.replicate (gr.lanes.length - live.length) ⟨List.replicate gr.regs 0, 0, 255, l.fminit, 0⟩) ∧
      (¬ pairs → ∃ t y z, Sys2Proof.Machine.exec (.fuseResolve gr.crew site) s = .next t ∧ t.group? g = some y ∧ t.group? h = some z ∧
        y.wait = .none ∧ z.wait = .none ∧ y.s = (gr.ws sg 0).s ∧ z.s = (hr.ws sh 0).s ∧ y.lanes = gr.lanes ∧ z.lanes = hr.lanes)

/-- R215 to R217: PAGE_MIGRATION moves a page with its tags to a frame of the fast tier and says so in its map entry, or marks
the entry and reports that no frame is free; TARGETED_REPLAY then frees the entry, and the accesses that waited are presented
next, in their order, and behind them the die's overflow list. An access joins its page's entry, and with a full table the list. -/
def Obligations.PageSteps : Prop :=
  ∀ (s : Sys2Proof.Machine.State) n e, Sys2Proof.Machine.tget s.waits n = some e →
    (∀ f r, s.migrationDue e = true → s.migrationBank e = none → s.fastFree = f :: r → Sys2Proof.Machine.memWf s.mem = true →
      let p := Sys2Proof.Machine.mnat s.mem e.pme 8
      let src := Sys2Proof.Machine.capBase + Sys2Proof.Machine.pmeFrame p * 65536
      (∀ x, f * 65536 ≤ x → x < f * 65536 + 65536 → (x < e.pme ∨ e.pme + 8 ≤ x) → (src + 65536 ≤ f * 65536 ∨ f * 65536 + 65536 ≤ src) →
        ∃ t, Sys2Proof.Machine.exec (.pageMigration n) s = .next t ∧
          Sys2Proof.Machine.mget t.mem x = Sys2Proof.Machine.mget s.mem (src + (x - f * 65536))) ∧
      ∃ t, Sys2Proof.Machine.exec (.pageMigration n) s = .next t ∧ t.fastFree = r ∧
        Sys2Proof.Machine.mnat t.mem e.pme 8 = Sys2Proof.Machine.pmeWith p 0 f % 2 ^ 64 ∧
        (∀ x, (x < f * 65536 ∨ f * 65536 + 65536 ≤ x) → (x < e.pme ∨ e.pme + 8 ≤ x) →
          Sys2Proof.Machine.mget t.mem x = Sys2Proof.Machine.mget s.mem x) ∧
        Sys2Proof.Machine.tget t.waits n = some { e with migrated := true }) ∧
    (s.migrationDue e = true → s.migrationBank e = none → s.fastFree = [] → Sys2Proof.Machine.memWf s.mem = true →
      let p := Sys2Proof.Machine.mnat s.mem e.pme 8
      ∃ t, Sys2Proof.Machine.exec (.pageMigration n) s = .next t ∧
        Sys2Proof.Machine.mnat t.mem e.pme 8 = Sys2Proof.Machine.pmeWith p 2 (Sys2Proof.Machine.pmeFrame p) % 2 ^ 64 ∧
        t.reports.length = s.reports.length + 1 ∧ Sys2Proof.Machine.tget t.waits n = some { e with asked := true }) ∧
    (e.migrated = true → Sys2Proof.Machine.exec (.targetedReplay n) s = .next { s with
      waits := Sys2Proof.Machine.tdel s.waits n, overflow := s.overflow.filter fun x => x.1 != e.die
      agenda := e.waiters.map (.present n) ++
        (s.overflow.filter fun x => x.1 == e.die).map (fun x => .present (Sys2Proof.Machine.overflowRef + e.die) x.2) ++ s.agenda }) ∧
    ∀ k p,
      let die := Sys2Proof.Machine.faultDie p
      let u := s.joinEntry p (.access k)
      (∀ m w, s.entryFor p = some m → Sys2Proof.Machine.tget s.waits m = some w →
        u.2 = m ∧ Sys2Proof.Machine.tget u.1.waits m = some { w with waiters := w.waiters ++ [.access k] }) ∧
      (s.entryFor p = none → 4096 ≤ (s.waits.filter fun x => x.2.die == die).length →
        u.1 = { s with overflow := s.overflow ++ [(die, .access k)] })

namespace Sys2Proof.Claims
open Sys2Proof.Machine

/-! ### Engines, threads, launches -/

/-- The byte at a window offset of a command's side lies in a store that can be reached now, at a flat address. -/
def Reaches (s : Machine.State) (x : Side) (off f : Nat) : Prop :=
  s.sidePlace x off = .at_ f ∧ s.hostFails f = false ∧ s.peerFails f = false ∧
  ∀ b, bankAt f = some b → s.refresh.contains b = false ∧ s.urgentAt b.1 = false

/-- No watchpoint of a command's context is on its objects. -/
def Unwatched (s : Machine.State) (ctx : Nat) (c : Cap) : Prop := ∀ off n w, s.watchHits ctx c.handle off n w = []

/-- Op of a `cpy.red`: destination element, then source element (R364). Rounding and flushing are those of P4. -/
def combined (c : Copy) (d s : Nat) : Nat :=
  let p4 := c.par 4
  let md : Mode := ⟨Rm.ofCode (fld p4 2 0), p4.testBit 3, p4.testBit 4, false, false, false, false⟩
  match c.rop with
  | .addS32 => (d + s) % 2 ^ 32
  | .maxS32 => if (BitVec.ofNat 32 d).toInt < (BitVec.ofNat 32 s).toInt then s else d
  | .minS32 => if (BitVec.ofNat 32 s).toInt < (BitVec.ofNat 32 d).toInt then s else d
  | .addF32 => faddE .f32 md d s
  | .addBf16 => faddE .bf16 md d s
  | .maxF32 => fmaxE .f32 md d s
  | .minF32 => fminE .f32 md d s

/-- A chunk of a command that nothing stops: no refresh holds what its port reads, its bytes lie in reach, source byte b at f b,
its scale byte at g b and destination byte b at d b, no element of a gather waits for a page, no watchpoint is on its objects, and
its crew is in no DETERM launch. A byte of a block whose scale byte is 0x80 is not read (R362). -/
structure ChunkFree (s : Machine.State) (n : Nat) (c : Copy) (src dst : Side) (bs : List Nat) (f g d : Nat → Nat) : Prop where
  due : s.chunkDue n c = true
  sort : c.listing = false ∧ c.system = false
  more : c.done < c.total
  chunk : bs = upTo c.done (min 4096 (c.total - c.done))
  noBank : s.sideBank c c.src 8 (bs.map c.srcAt) = none ∧ s.sideBank c c.dst 16 (bs.map c.dstAt) = none
  source : s.sideFor c c.src 8 (bs.map c.srcAt) = (s, src)
  target : s.sideFor c c.dst 16 (bs.map c.dstAt) = (s, dst)
  scales : ∀ b ∈ bs, ∀ o, c.scaleAt b = some o → Reaches s src o (g b)
  reads : ∀ b ∈ bs, (c.scaleAt b = none ∨ mget s.mem (g b) ≠ 0x80) → Reaches s src (c.srcAt b) (f b)
  writes : ∀ b ∈ bs, Reaches s dst (c.dstAt b) (d b)
  here : c.fn = 2 → ∀ x ∈ s.waits, .command n ∉ x.2.waiters
  serial : s.cmdSerial c = none
  unwatched : Unwatched s c.ctx c.src ∧ Unwatched s c.ctx c.dst
  wf : memWf s.mem = true

/-- A run of n places of a total is free beside the runs in use (R67). -/
def FreeRun (used : List (Nat × Nat)) (total n : Nat) : Prop :=
  n = 0 ∨ ∃ c, c + n ≤ total ∧ ∀ x ∈ used, x.2 = 0 ∨ c + n ≤ x.1 ∨ x.1 + x.2 ≤ c

/-- Element (i, j) of an accumulator with a lane for each row: row i's lane is active. -/
def Touched (e : MEntry) (w0 i : Nat) : Prop := w0 + i ∈ e.act

/-- The element that an accumulator word leaves in row i, column j, from the element before (R145 to R153, R353). -/
def element (c : Machine.Crew) (e : MEntry) (w0 i j : Nat) (old : Word) : Option (Nat × Word) :=
  match e.word with
  | .mma a ta tb sh => some (a, if fmtClass (tDesc (c.tile ta).tctl).fmt = 0 then
      mmaFloat (mmaMode (e.fmode (e.act.headD 0))) sh (c.tile ta) (c.tile tb) i j old else mmaInt (c.tile ta) (c.tile tb) i j old)
  | .mmb a ta tb op => some (a, mmbElem op (c.tile ta) (c.tile tb) i j old)
  | .azero a => some (a, 0)
  | .awr a col vs => some (a, if j = col then (match vs.find? fun v => v.1 == w0 + i with
      | none => old
      | some (_, v) => v) else old)
  | .acvt a .s32ToF32 => some (a, BitVec.ofNat 32 (convert (.flt .f32) (.int true 32) (modeOf (e.fmode (w0 + i))) old.toNat))
  | .acvt a .f32ToS32 => some (a, BitVec.ofNat 32 (convert (.int true 32) (.flt .f32) (modeOf (e.fmode (w0 + i))) old.toNat))
  | .tcfg .. | .acfg .. | .ard .. | .tld .. | .tst .. => none

end Sys2Proof.Claims

/-- R145, R344 to R353: MATRIX_ENGINE_PERFORM on the oldest queued word of a crew: the words of one crew in the order they were
queued is the model's reading (log entry 54). A configuration word writes its tile's TCTL or
binds its accumulator; an arithmetic or accumulator word writes the elements of the rows whose lanes were active, in one
update, and no other element; `ard` writes a column to those lanes; tile loads and stores send their bytes. -/
def Obligations.MatrixEngineStep : Prop :=
  ∀ (core : Nat) (s : Sys2Proof.Machine.State) e c, s.engineNext core s.engine [] = some e → s.crew? e.crew = some c →
    let i : Sys2Proof.Instr := .matrixEnginePerform core
    (∀ k v, e.word = .tcfg k v → ∃ t, Sys2Proof.Machine.exec i s = .next t ∧ t.mem = s.mem ∧ t.groups = s.groups ∧
      t.crew? e.crew = some { c with tiles := c.tiles.set k { c.tile k with tctl := v } }) ∧
    (∀ a w0, e.word = .acfg a w0 → ∃ t, Sys2Proof.Machine.exec i s = .next t ∧ t.mem = s.mem ∧ t.groups = s.groups ∧
      t.crew? e.crew = some { c with accs := c.accs.set a { c.acc a with bind := some (e.gidx, w0) } }) ∧
    (∀ a w0 gidx, (∃ v, Sys2Proof.Claims.element c e w0 0 0 0 = some (a, v)) → (c.acc a).bind = some (gidx, w0) → a < c.accs.length →
      ∃ t y, Sys2Proof.Machine.exec i s = .next t ∧ t.mem = s.mem ∧ t.groups = s.groups ∧ t.crew? e.crew = some y ∧
        y.tiles = c.tiles ∧ (y.acc a).bind = (c.acc a).bind ∧ (∀ b, b ≠ a → y.acc b = c.acc b) ∧
        ∀ i < 64, ∀ j < 64, (Sys2Proof.Claims.Touched e w0 i → some (a, (y.acc a).elem i j) =
            Sys2Proof.Claims.element c e w0 i j ((c.acc a).elem i j)) ∧
          (¬ Sys2Proof.Claims.Touched e w0 i → (y.acc a).elem i j = (c.acc a).elem i j)) ∧
    (∀ a vd col w0 gidx gr n o, e.word = .ard a vd col → (c.acc a).bind = some (gidx, w0) → s.group? e.group = some gr →
      e.op = some n → Sys2Proof.Machine.tget s.ops n = some o → o.group = e.group → o.fails = [] → o.watch = false → o.sample = false →
      ∃ t y, Sys2Proof.Machine.exec i s = .next t ∧ t.mem = s.mem ∧ t.crews = s.crews ∧ t.group? e.group = some y ∧
        y.s = gr.s ∧ y.k = gr.k ∧ y.lanes = (gr.onLanes (e.act.filter fun l => decide (w0 ≤ l ∧ l < w0 + 64)) fun l x =>
          x.wr vd ((c.acc a).elem (l - w0) col)).lanes) ∧
    ((∃ k p base stride cap, e.word = .tld k p base stride cap ∨ e.word = .tst k p base stride cap) →
      ∃ t, Sys2Proof.Machine.exec i s = .next t)

/-- R97, R103 to R105, R357 to R364: the copy engine. COPY_CHUNK of a command whose bytes all lie in reach, of no reduction, reads
its next chunk and writes it in command order: a byte of the destination then holds the byte of the source that the last of its
writes took, 0 where that byte lies in a block whose scale byte is 0x80, and no other byte of memory changes. Of a `cpy.red` each
element of the destination then holds Op of what it held and of its source element as it was before the chunk. COPY_COMPLETION
writes P3 at COFF, or arrives with the byte count, and the command leaves its queue; QFENCE_PERFORM takes the fence out. That a
chunk with a byte out of reach moves nothing, so that these are chunks without one, is the model's reading (log entry 68). -/
def Obligations.CopyEngineSteps : Prop :=
  ∀ (n : Nat) (s : Sys2Proof.Machine.State) c, Sys2Proof.Machine.tget s.cmds n = some c →
    (∀ src dst bs (f g d : Nat → Nat), c.fn ≠ 4 → Sys2Proof.Claims.ChunkFree s n c src dst bs f g d →
      ∃ t, Sys2Proof.Machine.exec (.copyChunk n) s = .next t ∧
        (∀ b ∈ bs, (∀ a ∈ bs, b < a → d a ≠ d b) → Sys2Proof.Machine.mget t.mem (d b) =
          if (c.scaleAt b).isSome = true ∧ Sys2Proof.Machine.mget s.mem (g b) = 0x80 then 0 else Sys2Proof.Machine.mget s.mem (f b)) ∧
        (∀ x, (∀ b ∈ bs, x ≠ d b) → Sys2Proof.Machine.mget t.mem x = Sys2Proof.Machine.mget s.mem x) ∧
        Sys2Proof.Machine.tget t.cmds n = some { c with done := c.done + bs.length } ∧ Sys2Proof.Claims.GroupsKept s t) ∧
    (∀ src dst bs (f g d : Nat → Nat), c.fn = 4 → Sys2Proof.Claims.ChunkFree s n c src dst bs f g d →
      c.done % c.esz = 0 → c.total % c.esz = 0 → (∀ a ∈ bs, ∀ b ∈ bs, d a = d b → a = b) →
      (∀ m : List Host.Cell, (∀ x, (∀ b ∈ bs, x ≠ d b) → Sys2Proof.Machine.mget m x = Sys2Proof.Machine.mget s.mem x) →
        ∀ b ∈ bs, Sys2Proof.Machine.judge m dst.entry dst.cap.kind dst.need (dst.cap.low + c.dstAt b) 1 = .at_ (d b)) →
      let value := fun (p : Nat → Nat) (m : List Host.Cell) b =>
        Sys2Proof.leNat ((List.range c.esz).map fun k => Sys2Proof.Machine.mget m (p (b + k)))
      ∃ t, Sys2Proof.Machine.exec (.copyChunk n) s = .next t ∧
        (∀ b ∈ bs, b % c.esz = 0 → value d t.mem b =
          Sys2Proof.Claims.combined c (value d s.mem b) (value f s.mem b) % 2 ^ (8 * c.esz)) ∧
        (∀ x, (∀ b ∈ bs, x ≠ d b) → Sys2Proof.Machine.mget t.mem x = Sys2Proof.Machine.mget s.mem x) ∧
        Sys2Proof.Machine.tget t.cmds n = some { c with done := c.done + bs.length } ∧ Sys2Proof.Claims.GroupsKept s t) ∧
    (s.completionDue n c = true →
      (c.cm = 0 → Sys2Proof.Machine.exec (.copyCompletion n) s = .next { s with cmds := Sys2Proof.Machine.tdel s.cmds n }) ∧
      (∀ x f, s.sideFor c c.cmp 16 (Sys2Proof.Machine.upTo c.coff 8) = (s, x) → s.cmdSerial c = none →
        s.sideBank c c.cmp 16 (Sys2Proof.Machine.upTo c.coff 8) = none → (∀ k < 8, Sys2Proof.Claims.Reaches s x (c.coff + k) (f + k)) → Sys2Proof.Claims.Unwatched s c.ctx c.cmp → Sys2Proof.Machine.memWf s.mem = true →
        (c.cm = 1 → ∃ t, Sys2Proof.Machine.exec (.copyCompletion n) s = .next t ∧ t.cmds = Sys2Proof.Machine.tdel s.cmds n ∧
          Sys2Proof.Machine.mnat t.mem f 8 = c.par 3 ∧
          ∀ a, (a < f ∨ f + 8 ≤ a) → Sys2Proof.Machine.mget t.mem a = Sys2Proof.Machine.mget s.mem a) ∧
        (∀ v k, c.cm = 2 → Sys2Proof.Machine.arrival (Sys2Proof.Machine.mnat s.mem f 8) c.count = .applied v k →
          ∃ t, Sys2Proof.Machine.exec (.copyCompletion n) s = .next t ∧ t.cmds = Sys2Proof.Machine.tdel s.cmds n ∧
            Sys2Proof.Machine.mnat t.mem f 8 = v % 2 ^ 64 ∧
            ∀ a, (a < f ∨ f + 8 ≤ a) → Sys2Proof.Machine.mget t.mem a = Sys2Proof.Machine.mget s.mem a))) ∧
    (s.qfenceDue n c = true → Sys2Proof.Machine.exec (.qfencePerform n) s = .next { s with cmds := Sys2Proof.Machine.tdel s.cmds n })

/-- R82, R83, R212, R219, R226, R278, R284: the steps of a thread: a held event takes a free place; a sleeping `gwait` takes the
event at the head, or answers 0 at its limit; a blocked `emit` has its outcome; an event that waits longer than WDT takes the
level-two fault L2WDOG, whose report has 0 for the word and for DETAIL (the model's choice, log entry 53). -/
def Obligations.ThreadSteps : Prop :=
  ∀ (n : Nat) (s : Sys2Proof.Machine.State) th, s.thread? n = some th →
    (∀ e r, th.placeDue = true → th.held = e :: r → Sys2Proof.Machine.exec (.eventQueuePlaceFree n) s =
      .next (s.modThread n fun x => { x with queue := x.queue ++ [e], held := r })) ∧
    (∀ d l e r, th.wakeDue = true → th.sleep = some (d, l) → Sys2Proof.Machine.nextEvent th.queue = some (e, r) →
      Sys2Proof.Machine.exec (.gwaitWake n) s = .next (s.modThread n fun x =>
        { x.wl d (BitVec.ofNat 64 (Sys2Proof.fld (e.words.headD 0).toNat 63 56)) with
          queue := r, taken := some e.words, sleep := none, pc := x.pc + 4 })) ∧
    (∀ d l, th.timeoutDue s.clock = true → th.sleep = some (d, l) → Sys2Proof.Machine.exec (.gwaitTimeout n) s =
      .next (s.modThread n fun x => { x.wl d 0 with sleep := none, pc := x.pc + 4 })) ∧
    (∀ b k, s.unblockDue th = true → th.blocked = some b → s.unblocks b = some k →
      let done := fun (s : Sys2Proof.Machine.State) => s.modThread n fun x =>
        { x.wl b.ld (BitVec.ofNat 64 k) with blocked := none, pc := x.pc + 4 }
      (k ≠ 0 → Sys2Proof.Machine.exec (.emitUnblock n) s = .next (done s)) ∧
      (∀ g gr, k = 0 → s.blockedTarget b = some (g, gr) →
        Sys2Proof.Machine.exec (.emitUnblock n) s = .next (done (s.enqueue n g b.word)))) ∧
    (s.watchdogDue th = true → Sys2Proof.Machine.exec (.watchdogExpire n) s =
      .next ({ s with cur := { s.cur with word := 0 } }.l2fault n .wdog 0))

/-- R62 to R69, R156, R160, R432, R445: launches. A half that finds its slot busy sets DROP, a second half without a first
sets NOHALF, and both halves make a record; a status write of zero clears both bits; another write of BAR0 changes nothing.
LAUNCH_VALIDATE takes a record to the launch queue, under the number of its acceptance, once its capability list can be read.
CREW_ADMIT places the next crew of the first launch, of no gang and with nothing to resume, on the open core with the most free
lanes of those where it fits, the lowest among equals, or has the launch reserve a core. A core has room where slots, lanes and
register bytes are left and tiles, accumulators and scratchpad are free as runs; there the crew has its slots, and its groups
begin in the entry block with s1 and s2 from the record. A launch whose class has waited 2^24 clocks rises; one that is over
completes; the head crew of a DETERM launch commits and the next crew's serial phase runs. That a pre-empted crew's storage is
claimed first, the order of launches with equal claims, that a record has its number from its acceptance, and that the pages of
a capability list come first, are the model's choice (log entries 77, 80, 91, 106 and 107). A refresh holds none of what is read. -/
def Obligations.LaunchSteps : Prop :=
  ∀ (s : Sys2Proof.Machine.State),
    (∀ slot ws, slot < 64 → ws.length = 8 → s.ready = true →
      let x := (Sys2Proof.Machine.tget s.slots slot).getD ⟨none, none, false, false⟩
      let put := fun y => { s with slots := Sys2Proof.Machine.tset s.slots slot y }
      Sys2Proof.Machine.exec (.launchFirstHalf slot ws) s =
        .next (put (if x.record ≠ none then { x with drop := true } else { x with first := some ws })) ∧
      Sys2Proof.Machine.exec (.launchSecondHalf slot ws) s = .next (put (if x.record ≠ none then { x with drop := true }
        else match x.first with
          | none => { x with noHalf := true }
          | some f => { x with first := none, record := some (f ++ ws) })) ∧
      ∀ v, Sys2Proof.Machine.exec (.launchSlotStatusWrite slot v) s =
        .next (put (if v = 0 then { x with noHalf := false, drop := false } else x))) ∧
    (∀ slot ws v, slot < 64 → ws.length = 8 → s.ready = false → Sys2Proof.Machine.exec (.launchFirstHalf slot ws) s = .next s ∧
      Sys2Proof.Machine.exec (.launchSecondHalf slot ws) s = .next s ∧ Sys2Proof.Machine.exec (.launchSlotStatusWrite slot v) s = .next s) ∧
    (∀ off bs, bs ≠ [] → Sys2Proof.Machine.barWrite off bs.length = false →
      Sys2Proof.Machine.exec (.registerWriteIgnored off bs) s = .next s) ∧
    (∀ n x r, Sys2Proof.Machine.tget s.slots n = some x → x.record = some r →
      let l := Sys2Proof.Machine.launchFrom r (Sys2Proof.fld ((r[0]?).getD 0).toNat 51 40) 0 s.clock
      s.recordAway l = [] → s.capBank l = none → Sys2Proof.Machine.exec (.launchValidate true n) s = .next ({ s with
        slots := Sys2Proof.Machine.tset s.slots n { x with record := none }, nextLaunch := s.nextLaunch + 1 }.takeRecord s.nextLaunch l)) ∧
    (∀ n th r q, s.thread? n = some th → th.dlq = r :: q →
      let l := Sys2Proof.Machine.launchFrom r.words th.ctx (n + 1) r.since
      s.recordAway l = [] → s.capBank l = none → Sys2Proof.Machine.exec (.launchValidate false n) s =
        .next ((s.modThread n fun x => { x with dlq := q }).takeRecord r.num l)) ∧
    (∀ n t, s.admitted n = some t → Sys2Proof.Machine.exec (.crewAdmit n) s = .next t ∧ s.critical = [] ∧ s.taking = none) ∧
    (∀ n l, s.placeOrder.head? = some n → s.launch? n = some l → s.critical = [] → s.taking = none → l.gang = none →
      s.resumable n = [] → s.hasNew n l = true →
      let cores := (List.range 96).filter s.isOpen
      let at_ := fun c => s.placeItem c n l (.fresh l.next)
      (∀ c v, c ∈ cores → at_ c = some v → (∀ d ∈ cores, (at_ d).isSome = true →
          s.freeLanes d l < s.freeLanes c l ∨ (s.freeLanes d l = s.freeLanes c l ∧ c ≤ d)) →
        Sys2Proof.Machine.exec (.crewAdmit n) s = .next (v.dropReserve n)) ∧
      ((∀ c ∈ cores, at_ c = none) → l.reserve = [] → s.reservation l ≠ [] →
        Sys2Proof.Machine.exec (.crewAdmit n) s = .next (s.modLaunch n fun x => { x with reserve := s.reservation l }))) ∧
    (∀ core x, (s.roomFor core x).isSome = true ↔ x.groups ≤ (s.freeSlots core).length ∧ s.lanesOn core + x.lanes ≤ 32768 ∧
      s.bytesOn core + x.bytes ≤ 8388608 ∧ Sys2Proof.Claims.FreeRun (s.tileRuns core) 16 x.tiles ∧
      Sys2Proof.Claims.FreeRun (s.accRuns core) 8 x.accs ∧ Sys2Proof.Claims.FreeRun (s.padRuns core) Sys2Proof.Machine.sliceSize x.sram) ∧
    (∀ core n l idx t th, s.threadOf core l.ctx = some t → s.thread? t = some th → th.gated = false → s.gatedOn core = [] →
      s.storeUsed core ≤ 262144 →
      (s.roomFor core l.need = none → s.placeItem core n l (.fresh idx) = none) ∧
      ∀ r k c, s.roomFor core l.need = some r → s.kernelOf l.ctx l.codeid l.kernel = some k → s.ctx? l.ctx = some c → s.launch? n = some l →
        ∃ v, s.placeItem core n l (.fresh idx) = some v ∧ v.nextCrew = s.nextCrew + 1 ∧
          v.launch? n = some { l with next := idx + 1, phase := if idx + 1 < l.crews then .placing else .running } ∧
          v.crew? s.nextCrew = some {
            launch := n, ctx := l.ctx, idx := idx, core := core, groups := r.slots.map (Sys2Proof.Machine.groupRef core), tile0 := r.tile0
            tiles := List.replicate l.tilesField Sys2Proof.Machine.Tile.zero, acc0 := r.acc0
            accs := List.replicate l.accsField Sys2Proof.Machine.Accum.zero, spad := r.spad, spadLen := l.spadLen, dbufLen := l.dbufLen
            dbuf := [], halt := none, gated := false, admitted := s.clock, trace := c.trace, out := Sys2Proof.Machine.Parts.none } ∧
          r.slots.length = l.extent 1 ∧
          ∀ i slot, r.slots[i]? = some slot → ∃ y, v.group? (Sys2Proof.Machine.groupRef core slot) = some y ∧ y.crew = s.nextCrew ∧
            y.ctx = l.ctx ∧ y.gidx = i ∧ y.role = Sys2Proof.Machine.roleOf (l.roleCode i) ∧ y.regs = l.regs ∧
            y.lanes = (List.range l.width).map (l.lane0 k.entry) ∧
            y.s = [0, BitVec.ofNat 64 (l.word 14), BitVec.ofNat 64 (l.word 15)] ++ List.replicate 29 0) ∧
    (∀ n l, s.launch? n = some l →
      (l.status = 0 → l.next = 0 → l.cls < 2 → l.since + 2 ^ 24 ≤ s.clock → Sys2Proof.Machine.exec (.launchClassRise n) s =
        .next (s.modLaunch n fun x => { x with cls := x.cls + 1, since := s.clock })) ∧
      (l.over = true → Sys2Proof.Machine.exec (.launchComplete n) s = .next (s.complete n l)) ∧
      (∀ k c, s.commitDue n l = true → s.crewAt n l.head = some (k, c) →
        (s.nextBuffer n (l.head + 1)).findSome? (fun e => s.rangeBank e.addr e.size) = none → ∃ t, Sys2Proof.Machine.exec (.crewCommit n) s = .next t ∧
        t.launch? n = some { l with head := l.head + 1 } ∧ t.clock = s.clock))

namespace Sys2Proof.Claims
open Sys2Proof.Machine

/-! ### Mailbox commands (R434 to R436, R469) -/

/-- No command is begun that has no result yet: none waits, no code object is to be unloaded, no pre-emption and no recovery point
of a command's is under way (R434). -/
structure Idle (s : Machine.State) : Prop where
  waits   : s.pending = []
  unloads : ∀ x ∈ s.ctxs, ∀ o ∈ x.2.objs, o.unload = none
  orders  : ∀ x ∈ s.preempts, x.2.results = []
  point   : ∀ rs, s.taking = some rs → rs = []

/-- No refresh holds the table entry that a command reads (R440). -/
def Unheld (s : Machine.State) (op : Nat) (ws : List DWord) : Prop :=
  (op = 0x04 ∨ op = 0x38 → s.entryBank (cmdCtx ws) (cmdWord ws 4) = none) ∧
  (op = 0x37 → s.entryBank (cmdCtx ws) (cmdWord ws 5) = none)

/-- The oldest queued command has this OP, holds nothing reserved, and names a context that exists where it must; no command
before it is under way. -/
structure Takes (s : Machine.State) (op : Nat) (f : Form) (ws : List DWord) : Prop where
  idle : Idle s
  bank : Unheld s op ws
  head : s.mbox.head? = some ws
  op   : cmdOp ws = op
  free : f.reserved ws = false
  ctx  : f.names = .created → (s.ctx? (cmdCtx ws)).isSome = true

/-- The state without its oldest queued command. -/
def popped (s : Machine.State) : Machine.State := { s with mbox := s.mbox.tail }

/-- A row of the table: instruction, OP, what the command names, whether it has a payload, and the bits of words 4 to 7. -/
def row (i : Instr) (op : Nat) (names : Names) (payload : Bool) (w4 w5 w6 w7 : Nat) : Instr × Nat × Form :=
  (i, op, ⟨names, payload, w4, w5, w6, w7⟩)

/-- The commands with their codes and the fields each defines (R435, R469); CODELOAD has checks of its own. -/
def commandForms : List (Instr × Nat × Form) :=
  [row .ctxdestroy 0x02 .created false 0 0 0 0,
   row .recipeset 0x03 .created true 0 0 0 0,
   row .ctxcreate 0x01 .any true 0xFFFFFFFFFFFFFFFF 0x1FFFFFF 0xFFFFFFFF 0,
   row .capmint 0x04 .created true 0xFFFFFFFF 0xFFFFFFFFFF 0 0,
   row .otinv 0x05 .created false 0xFFFFFFFF 0xFFFFFFFF 0 0,
   row .wdtset 0x06 .created false 0xFFFFFFFFFFFF 0 0 0,
   row .codeunload 0x11 .created false 0xFFFFFFFF 0 0 0,
   row .codekey 0x12 .created true 1 0 0 0,
   row .preempt 0x20 .created false 0xFFFFFFFFFFFFFFFF 0xFFFFFFFF 0 0,
   row .rptake 0x21 .nothing false 0 0 0 0,
   row .rpintset 0x22 .nothing false 0xFFFFFFFFFFFFFFFF 0 0 0,
   row .wornthr 0x23 .nothing false 0xFFFF 0 0 0,
   row .framepool 0x24 .nothing true 1 0 0 0,
   row .evring 0x25 .nothing false 0xFFFFFFFFFFFFFFFF 0xFFFFFFFF 0xFFFFFFFFFFFFFFFF 0,
   row .island 0x26 .nothing false 31 3 0 0,
   row .railmap 0x27 .nothing true 1 0 0 0,
   row .ident 0x28 .nothing false 0 0 0 0,
   row .attest 0x29 .nothing true 0xFFFFFFFFFFFFFFFF 0xFFFFFFFFFFFFFFFF 0xFFFFFFFFFFFFFFFF 0xFFFFFFFFFFFFFFFF,
   row .dbggrant 0x30 .created false 0 0 0 0,
   row .dbgrevoke 0x31 .created false 0 0 0 0,
   row .dbghalt 0x32 .created false 0xFFFFFFFF 0xFFFFFFFF 0 0,
   (.dbgread, 0x33, groupForm 0xFFFFFFFFFFFFFFFF 0),
   (.dbgwrite, 0x34, groupForm 0xFFFFFFFFFFFFFFFF 0xFFFFFFFFFFFFFFFF),
   (.dbgresume, 0x35, groupForm 1 0),
   (.dbgstop, 0x36, groupForm 0xFFFFFFFFFFFFFFFF 0),
   row .dbgwatch 0x37 .created false 0x307 0xFFFFFFFF 0xFFFFFFFFFF 0x1FFFFFFFFFF,
   row .tracebuf 0x38 .created false 0xFFFFFFFF 0x1FFFFFFFF 0 0,
   row .profcfg 0x39 .created false 0x1FFFFFF 0 0 0]

/-- The form of an OP in that table. -/
def formOf (op : Nat) : Form := ((commandForms.find? fun x => x.2.1 == op).map fun x => x.2.2).getD ⟨.any, true, 0, 0, 0, 0⟩

end Sys2Proof.Claims

/-- R434 to R436, R445, R469: the mailbox. A write of 64 bytes at 0x4000 queues a command, or sets DROP when 64 are held; another
write of the window sets PART; before READY a write is discarded. The oldest command that holds a reserved bit ends with RSVD (1),
and then one whose context does not exist with NOCTX (32). A result is four words at RADDR, tag and status first, and vector 1.
The model's reading: a command begun stands in front of the queue until its result, where it has one of the 64 places and no later
one begins (log entry 31); RSVD is looked for before NOCTX (26); a result goes to RADDR as given, aligned or not (32). -/
def Obligations.MailboxSteps : Prop :=
  ∀ (s : Sys2Proof.Machine.State),
    (∀ off bs, off < 0x4040 → 0x4000 < off + bs.length → Sys2Proof.Machine.exec (.mailboxCommandWrite off bs) s = .next (
      if s.ready = false then s
      else if off ≠ 0x4000 ∨ bs.length ≠ 64 then { s with mbPart := true }
      else if 64 ≤ s.mbox.length + (if s.mailBusy = true then 1 else 0) then { s with mbDrop := true }
      else { s with mbox := s.mbox ++ [Sys2Proof.Machine.wordsOf bs 8] })) ∧
    (s.mailBusy = false ↔ Sys2Proof.Claims.Idle s) ∧
    (∀ v, Sys2Proof.Machine.exec (.mailboxStatusWrite v) s =
      .next (if v = 0 ∧ s.ready = true then { s with mbDrop := false, mbPart := false } else s)) ∧
    (∀ x ∈ Sys2Proof.Claims.commandForms, ∀ ws, s.mbox.head? = some ws → Sys2Proof.Machine.cmdOp ws = x.2.1 → Sys2Proof.Claims.Idle s → Sys2Proof.Claims.Unheld s x.2.1 ws →
      (x.2.2.reserved ws = true → Sys2Proof.Machine.exec x.1 s = .next ((Sys2Proof.Claims.popped s).answer ws 1 [])) ∧
      (x.2.2.reserved ws = false → x.2.2.names = .created → s.ctx? (Sys2Proof.Machine.cmdCtx ws) = none →
        Sys2Proof.Machine.exec x.1 s = .next ((Sys2Proof.Claims.popped s).answer ws 32 []))) ∧
    (∀ ws st r, Sys2Proof.Machine.memWf s.mem = true → st < 2 ^ 32 →
      let at_ := Sys2Proof.Machine.hostBase + Sys2Proof.Machine.cmdRaddr ws
      let t := s.answer ws st r
      Sys2Proof.Machine.mnat t.mem at_ 8 = Sys2Proof.Machine.cmdTag ws * 2 ^ 32 + st ∧ t.msix = 1 :: s.msix ∧
      ∀ x, (x < at_ ∨ at_ + 32 ≤ x) → Sys2Proof.Machine.mget t.mem x = Sys2Proof.Machine.mget s.mem x)

/-- R219, R232, R236, R402, R426, R438, R441, R443, R444, R466, R469: the commands that set the module up, each carried out in one
step, with its result. The model's choices in it: the identity block's byte order (log entry 33), that EVRING writes the producer
count 0 (34), that ISLAND to OFF sets the state at once (35), that WORNTHR judges the counts anew (40), and the constants by which
ATTEST signs (18) and CODEKEY knows a point of the curve (62). None is carried out while one before it is under way (log entry
31). -/
def Obligations.SetupCommands : Prop :=
  ∀ (s : Sys2Proof.Machine.State) ws,
    let takes := fun op => Sys2Proof.Claims.Takes s op (Sys2Proof.Claims.formOf op) ws
    let p := Sys2Proof.Claims.popped s
    let w := Sys2Proof.Machine.cmdWord ws
    let n := Sys2Proof.Machine.cmdPlen ws
    let pay := Sys2Proof.Machine.mgets s.mem (Sys2Proof.Machine.hostBase + Sys2Proof.Machine.cmdPaddr ws) n
    let ctx := Sys2Proof.Machine.cmdCtx ws
    (takes 0x22 → Sys2Proof.Machine.exec .rpintset s = .next ({ p with rpint := w 4, rpNext := s.clock + w 4 }.answer ws 0 [])) ∧
    (takes 0x23 → w 4 ≠ 0 → Sys2Proof.Machine.exec .wornthr s = .next (((Sys2Proof.Machine.sortNat (s.corrected.map Prod.fst)).foldl
      Sys2Proof.Machine.State.markWorn { p with wornThr := w 4 }).answer ws 0 [])) ∧
    (takes 0x06 → Sys2Proof.Machine.exec .wdtset s = .next ((p.modCtx ctx fun c => { c with
      wdt := if w 4 = 0 then 2 ^ 30 else w 4 }).answer ws 0 [])) ∧
    (takes 0x39 → w 4 ≤ 2 ^ 24 → Sys2Proof.Machine.exec .profcfg s = .next ((p.modCtx ctx fun c => { c with prof := w 4 }).answer ws 0 [])) ∧
    (takes 0x28 → ∃ t, Sys2Proof.Machine.exec .ident s = .next t ∧ t = p.answer ws 0 [0x383637314D4B5741, BitVec.ofNat 64
      (0x00010000 * 2 ^ 32 + Sys2Proof.Config.firmwareVersion.toNat), Sys2Proof.Config.serial]) ∧
    (takes 0x27 → (w 4 = 0 → n % 8 = 0 → (∀ x ∈ Sys2Proof.Machine.wordsOf pay (n / 8), Sys2Proof.Machine.routeOk x.toNat = true) →
        ∃ t : Sys2Proof.Machine.State, Sys2Proof.Machine.exec .railmap s = .next (t.answer ws 0 []) ∧ t = { p with routes := t.routes }) ∧
      (w 4 = 1 → n % 16 = 0 → Sys2Proof.Machine.importsOk (Sys2Proof.Machine.wordsOf pay (n / 8)) = true → Sys2Proof.Machine.exec .railmap s =
        .next ({ p with imports := Sys2Proof.Machine.importsOf (Sys2Proof.Machine.wordsOf pay (n / 8)) }.answer ws 0 []))) ∧
    (takes 0x25 → w 4 % 64 = 0 → w 6 % 16 = 0 → Sys2Proof.Machine.ringSize (w 5) = true → Sys2Proof.Machine.exec .evring s =
      .next (({ p with ring := some ⟨w 4, w 5, w 6, 0, 0⟩ }.memWrite (Sys2Proof.Machine.hostBase + w 6 + 8)
        (Sys2Proof.Machine.leBytes 0 8)).answer ws 0 [])) ∧
    (takes 0x24 → n % 8 = 0 →
      let fs := (Sys2Proof.Machine.wordsOf pay (n / 8)).map BitVec.toNat
      (w 4 = 0 → (∀ f ∈ fs, f < Sys2Proof.Machine.fastFrames) → Sys2Proof.Machine.exec .framepool s =
        .next ((fs.foldl (fun (s : Sys2Proof.Machine.State) f => s.dropRange (65536 * f) 65536)
          { p with fastFree := s.fastFree ++ fs, supplied := s.supplied ++ fs }).answer ws 0 [])) ∧
      (w 4 = 1 → (∀ f ∈ fs, f < Sys2Proof.Machine.capFrames) → Sys2Proof.Machine.exec .framepool s =
        .next ({ p with recFree := s.recFree ++ fs }.answer ws 0 []))) ∧
    (takes 0x12 → n % 96 = 0 → n ≤ 768 → (∀ k ∈ Sys2Proof.Machine.keyPoints pay (n / 96), Sys2Proof.Machine.onCurve k = true) →
      Sys2Proof.Machine.exec .codekey s = .next ((p.modCtx ctx fun c => { c with
        keys := Sys2Proof.Machine.keyPoints pay (n / 96), reqSig := w 4 == 1 }).answer ws 0 [])) ∧
    (takes 0x26 → w 4 < 24 →
      (w 5 ≠ 3 → Sys2Proof.Machine.exec .island s = .next ({ p with islands := s.islands.set (w 4) (w 5) }.answer ws 0 [])) ∧
      (w 5 = 3 → ∃ t, Sys2Proof.Machine.exec .island s = .next t ∧ t.islands = s.islands.set (w 4) 3 ∧
        t.pending.length = s.pending.length + 1 ∧ t.mem = s.mem)) ∧
    (takes 0x29 → 320 ≤ n → ∃ t, Sys2Proof.Machine.exec .attest s = .next t ∧
      t = (p.memWrite (Sys2Proof.Machine.hostBase + Sys2Proof.Machine.cmdPaddr ws)
        (Sys2Proof.Machine.attestMessage ((ws.drop 4).take 4) ++ Sys2Proof.Machine.beBytes (Sys2Proof.Machine.attestSign
          (Sys2Proof.Machine.sha384Num (Sys2Proof.Machine.attestMessage ((ws.drop 4).take 4)))) 96)).answer ws 0 [])

/-- R163, R166, R191, R193, R195, R221, R224, R414, R419, R461, R469, R470: the commands on contexts and their code. Those that
wait for device activity stay pending and end in a step of their own. The model's reading: while one waits no later command begins
(log entry 31); the table of a new context lies wholly inside the protected region (30), which is from 768 GiB to 2^48 (85); a
load takes frames from the pool and may wait for them (29). -/
def Obligations.ContextCommands : Prop :=
  ∀ (s : Sys2Proof.Machine.State) ws,
    let takes := fun op => Sys2Proof.Claims.Takes s op (Sys2Proof.Claims.formOf op) ws
    let p := Sys2Proof.Claims.popped s
    let w := Sys2Proof.Machine.cmdWord ws
    let n := Sys2Proof.Machine.cmdPlen ws
    let pay := Sys2Proof.Machine.mgets s.mem (Sys2Proof.Machine.hostBase + Sys2Proof.Machine.cmdPaddr ws) n
    let ctx := Sys2Proof.Machine.cmdCtx ws
    (∀ e, takes 0x01 → s.ctx? ctx = none → w 4 % 32 = 0 → Sys2Proof.Machine.tableBase ≤ w 4 → w 4 + 32 * w 5 ≤ Sys2Proof.Machine.capBase → 1 ≤ w 5 → w 5 ≤ 2 ^ 24 → n % 16 = 0 → n ≤ 256 →
      s.arenaOf (Sys2Proof.Machine.newContext s.nextId (w 4) (w 5) (w 6) (Sys2Proof.Machine.capsOf pay (n / 16))) = some e →
      ∃ (t : Sys2Proof.Machine.State) (c : Sys2Proof.Machine.Context), Sys2Proof.Machine.exec .ctxcreate s = .next (t.answer ws 0 []) ∧ t.ctx? ctx = some c ∧ c.table = w 4 ∧ c.otn = w 5 ∧
        c.arena = w 6 ∧ c.recipe = List.replicate 2048 0 ∧ c.wdt = 2 ^ 30 ∧ c.debug = false ∧ c.claimLost = 0 ∧ c.objs = [] ∧
        t.mem = s.mem ∧ t.groups = s.groups) ∧
    (takes 0x02 → ∃ t, Sys2Proof.Machine.exec .ctxdestroy s = .next t ∧
      t = { p.killContext ctx with pending := t.pending } ∧ t.pending = (p.killContext ctx).pending ++ [⟨ws, [], []⟩]) ∧
    (∀ q, s.destroyDue = some q → (s.ctx? (Sys2Proof.Machine.cmdCtx q.words)).isSome = true → Sys2Proof.Machine.exec .ctxdestroy s =
      .next (((s.dropWait q).freeContext (Sys2Proof.Machine.cmdCtx q.words)).answer q.words 0 [])) ∧
    (takes 0x03 → Sys2Proof.Machine.imageLegal pay = true →
      Sys2Proof.Machine.exec .recipeset s = .next { p with pending := s.pending ++ [⟨ws, pay, []⟩] }) ∧
    (∀ q, s.recipeDue ctx = some q → Sys2Proof.Machine.exec (.recipeImageWrite ctx) s =
      .next (((s.dropWait q).modCtx ctx fun c => { c with recipe := q.data }).answer q.words 0 [])) ∧
    (∀ e, takes 0x04 → w 5 % 16 = 0 → n % 16 = 0 → 16 ≤ n → n ≤ 65536 → p.mintEntry ws = some e → w 5 + n ≤ e.olen →
      (∀ i < n / 16, (∃ f, Sys2Proof.Machine.mintPlace s.mem e (w 5 + 16 * i) = .at_ f) ∨
        ∃ f, Sys2Proof.Machine.mintPlace s.mem e (w 5 + 16 * i) = .elsewhere f) →
      Sys2Proof.Machine.exec .capmint s = .next (p.mintFrom ws pay 0) ∧
      ∀ f, n = 16 → Sys2Proof.Machine.mintPlace s.mem e (w 5) = .at_ f → s.mintBank e (w 5) = none →
        Sys2Proof.Machine.exec .capmint s = .next ((p.memWriteTagged f pay true).answer ws 0 [])) ∧
    (∀ c, takes 0x05 → 1 ≤ w 5 → w 5 ≤ 2 ^ 24 → s.ctx? ctx = some c → w 4 + w 5 ≤ c.otn →
      ∃ t, Sys2Proof.Machine.exec .otinv s = .next t ∧ t.mem = s.mem ∧ t.pending.length = s.pending.length + 1 ∧
        ∀ x, x ∈ t.otCache ↔ x ∈ s.otCache ∧ ¬ (x.ctx = ctx ∧ w 4 ≤ x.handle ∧ x.handle < w 4 + w 5)) ∧
    (∀ q, s.otinvDue = some q → Sys2Proof.Machine.exec .otinvComplete s =
      .next (((s.dropWait q).dropContext (Sys2Proof.Machine.cmdCtx q.words)).answer q.words 0 [])) ∧
    (∀ t, Sys2Proof.Claims.Idle s → s.mbox.head? = some ws → Sys2Proof.Machine.cmdOp ws = 0x10 → p.load ws = .done t →
      Sys2Proof.Machine.exec .codeload s = .next t) ∧
    (∀ c o, takes 0x11 → s.ctx? ctx = some c → c.objs.find? (fun o => o.id == w 4 && o.unload.isNone) = some o →
      Sys2Proof.Machine.globalsUsed c o = false → Sys2Proof.Machine.exec .codeunload s = .next (p.modCtx ctx fun c => { c with
        objs := c.objs.map fun x => if x.id = w 4 then { x with
          unload := some (Sys2Proof.Machine.cmdRaddr ws, Sys2Proof.Machine.cmdTag ws) } else x })) ∧
    (∀ id a t, s.unmapDue ctx id = some (a, t) → s.unmapBank ctx id = none →
      Sys2Proof.Machine.exec (.codeUnmap ctx id) s = .next ((s.unload ctx id).mailResult a t 0 [])) ∧
    (takes 0x20 → Sys2Proof.Machine.exec .preempt s = .next (p.orderPreempt ctx (Sys2Proof.Machine.coreMask (w 4) (w 5)) false
      [(Sys2Proof.Machine.cmdRaddr ws, Sys2Proof.Machine.cmdTag ws)])) ∧
    (∀ k o, Sys2Proof.Machine.tget s.preempts k = some o → s.gatingDue o = true → ∃ t, Sys2Proof.Machine.exec (.preemptGated k) s = .next t ∧
      ((∀ x ∈ s.posted, s.peerDown x.2.flat = false) →
        (∀ g x, s.group? g = some x → ∃ y, t.group? g = some y ∧ y.lanes = x.lanes ∧ y.s = x.s ∧ y.k = x.k ∧ y.rwcount = x.rwcount) ∧
        (o.results = [] → t.msix = s.msix ∧ (s.posted = [] → t.mem = s.mem)) ∧
        (∀ k ∈ o.threads, ∀ th, s.thread? k = some th → ∀ x ∈ t.posted, ¬ (x.2.core = Sys2Proof.Machine.threadCore k ∧ x.2.ctx = th.ctx))))

/-- R196, R197, R384, R421, R427 to R430, R469: the debugger's commands. Without the debug right each ends with NODEBUG (35).
None is carried out while one before it is under way (the model's reading, log entry 31). -/
def Obligations.DebugCommands : Prop :=
  ∀ (s : Sys2Proof.Machine.State) ws,
    let takes := fun op => Sys2Proof.Claims.Takes s op (Sys2Proof.Claims.formOf op) ws
    let p := Sys2Proof.Claims.popped s
    let w := Sys2Proof.Machine.cmdWord ws
    let ctx := Sys2Proof.Machine.cmdCtx ws
    (takes 0x30 → Sys2Proof.Machine.exec .dbggrant s = .next ((p.modCtx ctx fun c => { c with debug := true }).answer ws 0 [])) ∧
    (takes 0x31 → ∃ t : Sys2Proof.Machine.State, Sys2Proof.Machine.exec .dbgrevoke s = .next (t.answer ws 0 []) ∧ t.mem = s.mem ∧
      (∀ c, s.ctx? ctx = some c → t.ctx? ctx = some { c with debug := false, watches := [] }) ∧ (∀ x ∈ t.stops, x.ctx ≠ ctx) ∧
      ∀ g x, s.group? g = some x → ∃ y, t.group? g = some y ∧ y.lanes = x.lanes ∧ y.s = x.s ∧ y.k = x.k ∧ (x.ctx ≠ ctx → y = x)) ∧
    (s.debugs ctx = false → ∀ x ∈ Sys2Proof.Claims.commandForms, 0x32 ≤ x.2.1 → x.2.1 ≤ 0x37 → takes x.2.1 →
      Sys2Proof.Machine.exec x.1 s = .next (p.answer ws 35 [])) ∧
    (s.debugs ctx = true →
      (∀ k c, takes 0x32 → p.findCrew ctx (w 4) (w 5) = .here k c → c.gated = false →
        Sys2Proof.Machine.exec .dbghalt s = .next ((p.debugHaltCrew k).waitMail ws [] [k])) ∧
      (∀ x, p.findGroup ctx ws = some x → x.saved = none → x.state = p → (x.gr.stop = .trapped ∨ x.gr.stop = .halted) →
        (takes 0x33 → Sys2Proof.Machine.exec .dbgread s = .next (p.answer ws 0 [p.selRead x.gr (BitVec.ofNat 64 (w 6))])) ∧
        (takes 0x34 → Sys2Proof.Machine.exec .dbgwrite s =
          .next ((p.writeSel x.group x.gr (BitVec.ofNat 64 (w 6)) (BitVec.ofNat 64 (w 7))).answer ws 0 [])) ∧
        (takes 0x35 → Sys2Proof.Machine.exec .dbgresume s = .next ((p.resumeGroup x.group (w 6 == 1)).answer ws 0 []))) ∧
      (takes 0x36 → p.findGroup ctx ws = none → p.stopRetired ws = false →
        Sys2Proof.Machine.exec .dbgstop s = .next ({ p with stops := s.stops ++ [Sys2Proof.Machine.stopOf ws] }.answer ws 0 [])) ∧
      (takes 0x37 → (w 4).testBit 8 = true → 1 ≤ w 7 → w 7 ≤ 2 ^ 40 → p.watchable ctx (w 5) = true →
        Sys2Proof.Machine.exec .dbgwatch s = .next ((p.modCtx ctx fun c => { c with
          watches := Sys2Proof.Machine.tset c.watches (w 4 % 8) ⟨w 5, w 6, w 7, true, (w 4).testBit 9⟩ }).answer ws 0 []))) ∧
    (∀ e, takes 0x38 → w 5 % 4096 = 0 → 4096 ≤ w 5 → w 5 ≤ 2 ^ 32 → p.mintEntry ws = some e →
      ∃ t, Sys2Proof.Machine.exec .tracebuf s = .next t ∧ t.pending.length = s.pending.length + 1 ∧ t.groups.length = s.groups.length)

/-- R232 to R237: recovery. RPTAKE and the timer begin a point by pre-empting every context, and a point that finds no frames is
not taken; once every context is gated, the point keeps the device's contents, the log and the launches start anew, and the
commands have their results. An uncorrectable error fails the contexts that had launches where there is no point, or where the
capacity tier that holds it is hit, and rolls back to the point otherwise; a corrected one is counted in its window. That an RPTAKE
which comes while the timer's point is taken joins it (log entry 36) and waits for a command before it (31), what a point is as data
(37), and that an error of type 10 fails contexts (39) are the model's choice. -/
def Obligations.RecoverySteps : Prop :=
  ∀ (s : Sys2Proof.Machine.State),
    (∀ ws, Sys2Proof.Claims.Takes s 0x21 (Sys2Proof.Claims.formOf 0x21) ws →
      let p := Sys2Proof.Claims.popped s
      let me := (Sys2Proof.Machine.cmdRaddr ws, Sys2Proof.Machine.cmdTag ws)
      (s.taking = some [] → Sys2Proof.Machine.exec .rptake s = .next { p with taking := some [me] }) ∧
      (s.taking = none → s.pointNeed ≤ s.recFree.length →
        Sys2Proof.Machine.exec .rptake s = .next ({ p with taking := some [me] }.preemptAll (List.range 96) true)) ∧
      (s.taking = none → s.recFree.length < s.pointNeed →
        Sys2Proof.Machine.exec .rptake s = .next ((p.report 2 0 []).mailResult me.1 me.2 40 []))) ∧
    (s.rpint ≠ 0 → s.rpNext ≤ s.clock → s.taking = none → s.pointNeed ≤ s.recFree.length →
      Sys2Proof.Machine.exec .recoveryPointTimer s =
        .next ({ s with rpNext := s.clock + s.rpint, taking := some [] }.preemptAll (List.range 96) true)) ∧
    (∀ rs, s.taking = some rs → s.gatingOrders = [] → s.refresh = [] → s.pointNeed ≤ s.recFree.length →
      Sys2Proof.Machine.exec .recoveryPointCommit s = .next ((rs.foldl (fun (s : Sys2Proof.Machine.State) a => s.mailResult a.1 a.2 0 [BitVec.ofNat 64 s.clock])
        { s with
          taking := none, point := some (s.toDev, s.clock, s.recFree.take s.pointNeed), outLog := [], outOver := false, since := [],
          supplied := [], recFree := s.recFree.drop s.pointNeed ++ s.pointFrames }).resumeHeld)) ∧
    (∀ u, Sys2Proof.Machine.storesState u = true →
      let s1 := s.countUncorrected u
      (s.point = none → Sys2Proof.Machine.exec (.uncorrectableError u) s = .next s1.failAccepted.abandonPoint) ∧
      ∀ d k fs, s.point = some (d, k, fs) →
        (Sys2Proof.Machine.unitType u = 10 → Sys2Proof.Machine.exec (.uncorrectableError u) s = .next s1.failAccepted.abandonPoint) ∧
        (Sys2Proof.Machine.unitType u ≠ 10 → Sys2Proof.Machine.exec (.uncorrectableError u) s = .next (s1.rollback u d k))) ∧
    (∀ u, Sys2Proof.Machine.countsErrors u = true → ∃ t, Sys2Proof.Machine.exec (.correctedError u) s = .next t ∧
      t.corrected = (s.corrected.filter fun x => decide (s.clock < x.2 + 2 ^ 36)) ++ [(u, s.clock)] ∧ t.mem = s.mem ∧ t.groups = s.groups ∧
      (∀ x ∈ s.worn, x ∈ t.worn) ∧
      (s.wornThr < ((s.corrected.filter fun x => x.1 == u && decide (s.clock < x.2 + 2 ^ 36)).length) + 1 → u ∈ t.worn))

/-- R186, R233, R429, R431, R433, R437 to R442, R445, R466, R467: what reaches the module from outside, and what the board does.
Power-good runs the steps of R445: the scrub of step 3 clears device memory and SRAM, and leaves host memory and peers' objects; a
step that fails stops the device. A port that goes down refuses the requests that are in flight through it. What a refresh held
goes on in its order of arrival. The model's choices: a peer's access is judged by the object's own kind, at the port of die 0,
and its bytes go home in one step (log entries 41 and 60); what a failed bring-up leaves (19); that the host writes up to 2^48
(85); what a hold stops, and that what stood at the bank before it goes on first, by the numbers of accesses and stores (16); that
urgent ones do not go ahead there (66). -/
def Obligations.BoardSteps : Prop :=
  ∀ (s : Sys2Proof.Machine.State),
    (s.ready = false → s.bootFail = 0 →
      let n := Sys2Proof.Machine.failingStep
      let scrubbed := fun (m : List Host.Cell) => (∀ a < Sys2Proof.Machine.hostBase, Sys2Proof.Machine.mget m a = 0) ∧
        ∀ a, Sys2Proof.Machine.hostBase ≤ a → Sys2Proof.Machine.mget m a = Sys2Proof.Machine.mget s.mem a
      (n = 1 ↔ Sys2Proof.Machine.firmwareVerified = false) ∧
      (n = 0 → ∃ t, Sys2Proof.Machine.exec .powerGood s = .next t ∧ scrubbed t.mem ∧
        t = { s with mem := t.mem, tags := [], claims := [], owners := [], ready := true }) ∧
      (n ≠ 0 → ∃ t, Sys2Proof.Machine.exec .powerGood s = .next t ∧ t.ready = false ∧ t.bootFail = BitVec.ofNat 8 n ∧ t.msix = 3 :: s.msix ∧
        (n ≤ 3 → t.mem = s.mem) ∧ (3 < n → scrubbed t.mem ∧ t.tags = [] ∧ t.claims = []))) ∧
    (∀ a bs, bs ≠ [] → a + bs.length ≤ Sys2Proof.Machine.capBase → (∀ x, a ≤ x → x < a + bs.length → s.bankHeld x = false) →
      Sys2Proof.Machine.memWf s.mem = true →
      ∃ t, Sys2Proof.Machine.exec (.hostMemWrite a bs) s = .next t ∧ Sys2Proof.Machine.mgets t.mem a bs.length = bs ∧
        (∀ x, (x < a ∨ a + bs.length ≤ x) → Sys2Proof.Machine.mget t.mem x = Sys2Proof.Machine.mget s.mem x) ∧
        ∀ k, a / 16 ≤ k → k ≤ (a + bs.length - 1) / 16 → Sys2Proof.Machine.tagAt t.tags k = false) ∧
    (∀ v h o w bs, bs ≠ [] → s.importOf v h = none → Sys2Proof.Machine.exec (.peerAccess v h o w bs) s = .next s) ∧
    (∀ v h o bs ctx k c e fs, bs ≠ [] → s.importOf v h = some (ctx, k) → s.ctx? ctx = some c →
      Sys2Proof.Machine.entryAt s.mem c k = some e → s.objectBank ctx k o bs.length = none →
      s.portEntry 0 ctx k e.kind 2 o bs.length = (s, some e) →
      Sys2Proof.Machine.peerPlace s.mem e 2 o bs.length = .at_ fs → (∀ f ∈ fs, s.bankHeld f = false) → s.watchHits ctx k o bs.length true = [] →
      Sys2Proof.Machine.exec (.peerAccess v h o true bs) s = .next (s.putBytes ctx (fs.zip bs))) ∧
    (∀ p, p < 12 → s.railDown.contains p = false → ∃ t, Sys2Proof.Machine.exec (.railPortDown p) s = .next t ∧ p ∈ t.railDown ∧
      ((∀ x ∈ s.posted, Sys2Proof.Machine.peerBase ≤ x.2.flat → s.railPort x.2.flat ≠ some p) → t.mem = s.mem ∧ t.groups = s.groups ∧
        ∀ n a, Sys2Proof.Machine.tget s.accs n = some a → (a.stage = .toPort ∨ a.stage = .toHome) → a.kind = 5 → s.portTaken a = some p →
          ∃ y, Sys2Proof.Machine.tget t.accs n = some y ∧ y.stage = .answered)) ∧
    (∀ p, s.railDown.contains p = true → Sys2Proof.Machine.exec (.railPortUp p) s =
      .next { s with railDown := s.railDown.filter fun x => x != p }) ∧
    (∀ r ws q, s.ring = some r → s.reports = ws :: q → ws.length = 8 → r.used < r.n → Sys2Proof.Machine.memWf s.mem = true →
      let at_ := Sys2Proof.Machine.hostBase + r.rbase + 64 * (r.prod % r.n)
      let cb := Sys2Proof.Machine.hostBase + r.cbase + 8
      ∃ t, Sys2Proof.Machine.exec .eventRingWrite s = .next t ∧ t.reports = q ∧ t.ring = some { r with prod := (r.prod + 1) % 2 ^ 32 } ∧
        t.msix = 2 :: s.msix ∧ Sys2Proof.Machine.mnat t.mem cb 8 = (r.prod + 1) % 2 ^ 32 ∧
        ((cb + 8 ≤ at_ ∨ at_ + 64 ≤ cb) → Sys2Proof.Machine.mgets t.mem at_ 64 = Sys2Proof.Machine.bytesOf ws) ∧
        ∀ x, (x < at_ ∨ at_ + 64 ≤ x) → (x < cb ∨ cb + 8 ≤ x) → Sys2Proof.Machine.mget t.mem x = Sys2Proof.Machine.mget s.mem x) ∧
    (∀ r, s.ring = some r → s.reports ≠ [] → r.n ≤ r.used → Sys2Proof.Machine.exec .eventRingPoll s =
      .next { s with ring := some { r with cons := Sys2Proof.Machine.mnat s.mem (Sys2Proof.Machine.hostBase + r.cbase) 4 } }) ∧
    (∀ c b, c < 56 → Sys2Proof.Machine.exec (.activationBackoff c b) s = .next (
      if Sys2Proof.Config.refreshLimit ≤ Sys2Proof.Config.refreshesPostponed s.tick ∧ s.refresh.contains (c, b) = false
      then { s with refresh := (c, b) :: s.refresh } else s)) ∧
    (∀ c b, s.refresh.contains (c, b) = true → ∃ t, Sys2Proof.Machine.exec (.refreshHoldEnd c b) s = .next t ∧
      t.refresh = (s.refresh.filter fun x => x != (c, b)) ∧ t.mem = s.mem ∧ t.heldIn = s.heldIn ∧
      t.bankQueue = (s.bankQueue.filter fun x => (x.1, x.2.1) != (c, b)) ∧
      t.agenda = ((s.bankBefore (c, b)).map (·.2) ++ (s.bankQueue.filter fun x => (x.1, x.2.1) == (c, b)).map fun x => x.2.2).map
        (.present Sys2Proof.Machine.bankRef) ++ s.agenda) ∧
    ((∀ x ∈ s.accs, ∀ y ∈ s.posted, x.1 ≠ y.1) → ∀ b x, (∃ k, (k, x) ∈ s.bankBefore b) ↔ (∃ n a, (n, a) ∈ s.accs ∧ x = .access n ∧ s.holdsAt b a = true) ∨
      ∃ n q, (n, q) ∈ s.posted ∧ x = .posted n ∧ s.heldBank q.flat = some b ∧ s.inBank (.posted n) = false) ∧
    (∀ d k, d < 4 → s.islands.length = 24 → (105 < k ∨ (s.hot.contains d = true ∧ 100 ≤ k)) → ∃ t, Sys2Proof.Machine.exec (.thermalStep d k) s = .next t ∧
      t.mem = s.mem ∧ t.reports.length = s.reports.length + 1 ∧ d ∈ t.hot ∧
      (∀ i, 6 * d ≤ i → i < 6 * d + 6 → ∀ x, s.islands[i]? = some x → t.islands[i]? = some (if x = 0 then 1 else if x = 1 then 2 else x)) ∧
      ∀ i, (i < 6 * d ∨ 6 * d + 6 ≤ i) → t.islands[i]? = s.islands[i]?) ∧
    (∀ d k, d < 4 → s.hot.contains d = true → k < 100 → Sys2Proof.Machine.exec (.thermalStep d k) s =
      .next { s with hot := s.hot.filter fun x => x != d }) ∧
    (∀ d k, d < 4 → 115 < k → s.critical.contains d = false → ∃ t, Sys2Proof.Machine.exec (.thermalCritical d k) s = .next t ∧ t.mem = s.mem ∧
      t.msix = 3 :: s.msix ∧ t.reports.length = s.reports.length + 1 ∧ d ∈ t.critical) ∧
    (∀ d k, s.critical.contains d = true → k < 95 → ∃ t, Sys2Proof.Machine.exec (.thermalRecover d k) s = .next t ∧
      t.critical = s.critical.filter fun x => x != d)

namespace Sys2Proof.Claims
open Sys2Proof.Machine

/-- The result of a command stands at its address: its tag and its status (R436). -/
def Status (t : Machine.State) (ws : List DWord) (st : Nat) : Prop :=
  mnat t.mem (hostBase + cmdRaddr ws) 8 = cmdTag ws * 2 ^ 32 + st

/-- The debugger's group of a command, stopped with its record, on its core. -/
def Held (s : Machine.State) (ws : List DWord) : Prop :=
  s.debugs (cmdCtx ws) = true ∧ ∃ x, (popped s).findGroup (cmdCtx ws) ws = some x ∧ (x.gr.stop = .trapped ∨ x.gr.stop = .halted)

/-- The commands whose result stands at once, each with the conditions under which it is carried out (R435, R469). -/
def prompt (s : Machine.State) (ws : List DWord) : List (Instr × Nat × Prop) :=
  let w := cmdWord ws
  let n := cmdPlen ws
  let pay := mgets s.mem (hostBase + cmdPaddr ws) n
  let ctx := cmdCtx ws
  [(.wdtset, 0x06, True), (.rpintset, 0x22, True), (.wornthr, 0x23, w 4 ≠ 0), (.ident, 0x28, True), (.dbggrant, 0x30, True),
   (.dbgrevoke, 0x31, True), (.profcfg, 0x39, w 4 ≤ 2 ^ 24), (.attest, 0x29, 320 ≤ n),
   (.ctxcreate, 0x01, s.ctx? ctx = none ∧ w 4 % 32 = 0 ∧ tableBase ≤ w 4 ∧ w 4 + 32 * w 5 ≤ capBase ∧ 1 ≤ w 5 ∧ w 5 ≤ 2 ^ 24 ∧ n % 16 = 0 ∧
      n ≤ 256 ∧ (s.arenaOf (newContext s.nextId (w 4) (w 5) (w 6) (capsOf pay (n / 16)))).isSome = true),
   (.codekey, 0x12, n % 96 = 0 ∧ n ≤ 768 ∧ ∀ k ∈ keyPoints pay (n / 96), onCurve k = true),
   (.framepool, 0x24, n % 8 = 0 ∧ ∀ f ∈ wordsOf pay (n / 8), f.toNat < if w 4 = 0 then fastFrames else capFrames),
   (.evring, 0x25, w 4 % 64 = 0 ∧ w 6 % 16 = 0 ∧ ringSize (w 5) = true),
   (.island, 0x26, w 4 < 24 ∧ w 5 ≠ 3),
   (.railmap, 0x27, (w 4 = 0 ∧ n % 8 = 0 ∧ ∀ x ∈ wordsOf pay (n / 8), routeOk x.toNat = true) ∨
      (w 4 = 1 ∧ n % 16 = 0 ∧ importsOk (wordsOf pay (n / 8)) = true)),
   (.dbgread, 0x33, Held s ws), (.dbgwrite, 0x34, Held s ws), (.dbgresume, 0x35, Held s ws),
   (.dbgstop, 0x36, s.debugs ctx = true ∧ (popped s).findGroup ctx ws = none),
   (.dbgwatch, 0x37, s.debugs ctx = true ∧ ((w 4).testBit 8 = true ∨ (w 4).testBit 9 = true) ∧ 1 ≤ w 7 ∧ w 7 ≤ 2 ^ 40 ∧
      (popped s).watchable ctx (w 5) = true)]

/-- The commands whose result follows once the device has done what they ask, with those conditions. -/
def lasting (s : Machine.State) (ws : List DWord) : List (Instr × Nat × Prop) :=
  let w := cmdWord ws
  let n := cmdPlen ws
  let pay := mgets s.mem (hostBase + cmdPaddr ws) n
  let ctx := cmdCtx ws
  [(.ctxdestroy, 0x02, True), (.recipeset, 0x03, imageLegal pay = true),
   (.capmint, 0x04, w 5 % 16 = 0 ∧ n % 16 = 0 ∧ 16 ≤ n ∧ n ≤ 65536 ∧ ∃ e, (popped s).mintEntry ws = some e ∧ w 5 + n ≤ e.olen),
   (.otinv, 0x05, 1 ≤ w 5 ∧ w 5 ≤ 2 ^ 24 ∧ ∃ c, s.ctx? ctx = some c ∧ w 4 + w 5 ≤ c.otn),
   (.codeunload, 0x11, ∃ c o, s.ctx? ctx = some c ∧ c.objs.find? (fun o => o.id == w 4 && o.unload.isNone) = some o ∧ globalsUsed c o = false),
   (.preempt, 0x20, True), (.rptake, 0x21, s.taking.isSome = true ∨ s.pointNeed ≤ s.recFree.length), (.island, 0x26, w 4 < 24 ∧ w 5 = 3),
   (.dbghalt, 0x32, s.debugs ctx = true ∧ (popped s).findCrew ctx (w 4) (w 5) ≠ .none),
   (.tracebuf, 0x38, w 5 % 4096 = 0 ∧ 4096 ≤ w 5 ∧ w 5 ≤ 2 ^ 32 ∧ ((popped s).mintEntry ws).isSome = true)]

end Sys2Proof.Claims

/-- EVERY STEP OF THE TABLE COMPLETES (spec/95) under conditions on the state alone: a write of the host, a command that the
device can carry out, and each step of the device once it is due. What a command asks at once has its result, OK (0). What each
step leaves is said by the statements above; which of the steps that are due comes first, and that a command waits for the one
before it, are the model's choice (log entries 2 and 31). -/
def Obligations.EveryStepCompletes : Prop :=
  ∀ (s : Sys2Proof.Machine.State),
    let runs := fun (i : Sys2Proof.Instr) => ∃ t, Sys2Proof.Machine.exec i s = .next t
    -- the launch port, the mailbox and the registers (R63, R432, R434)
    (∀ slot ws v, slot < 64 → ws.length = 8 → s.ready = true → ∃ x y z,
      Sys2Proof.Machine.exec (.launchFirstHalf slot ws) s = .next { s with slots := Sys2Proof.Machine.tset s.slots slot x } ∧
      Sys2Proof.Machine.exec (.launchSecondHalf slot ws) s = .next { s with slots := Sys2Proof.Machine.tset s.slots slot y } ∧
      Sys2Proof.Machine.exec (.launchSlotStatusWrite slot v) s = .next { s with slots := Sys2Proof.Machine.tset s.slots slot z } ∧
      z.noHalf = (decide (v ≠ 0) && z.noHalf) ∧ z.drop = (decide (v ≠ 0) && z.drop)) ∧
    (∀ off bs v, off < 0x4040 → 0x4000 < off + bs.length → runs (.mailboxCommandWrite off bs) ∧ runs (.mailboxStatusWrite v)) ∧
    (∀ off bs, bs ≠ [] → Sys2Proof.Machine.barWrite off bs.length = false → Sys2Proof.Machine.exec (.registerWriteIgnored off bs) s = .next s) ∧
    -- commands (R434, R435, R469)
    (∀ ws, Sys2Proof.Machine.memWf s.mem = true →
      (∀ x ∈ Sys2Proof.Claims.prompt s ws, Sys2Proof.Claims.Takes s x.2.1 (Sys2Proof.Claims.formOf x.2.1) ws → x.2.2 →
        ∃ t, Sys2Proof.Machine.exec x.1 s = .next t ∧ t.mbox = s.mbox.tail ∧ Sys2Proof.Claims.Status t ws 0) ∧
      ∀ x ∈ Sys2Proof.Claims.lasting s ws, Sys2Proof.Claims.Takes s x.2.1 (Sys2Proof.Claims.formOf x.2.1) ws → x.2.2 →
        ∃ t, Sys2Proof.Machine.exec x.1 s = .next t ∧ t.mbox = s.mbox.tail) ∧
    (s.loadDue.isSome = true → runs .codeload) ∧
    (∀ ws, Sys2Proof.Claims.Idle s → s.mbox.head? = some ws → Sys2Proof.Machine.cmdOp ws = 0x10 → runs .codeload) ∧
    (∀ n m, ((s.recipeDue n).isSome = true → runs (.recipeImageWrite n)) ∧ (s.otinvDue.isSome = true → runs .otinvComplete) ∧
      ((s.unmapDue n m).isSome = true → s.unmapBank n m = none → runs (.codeUnmap n m)) ∧
      (∀ o, Sys2Proof.Machine.tget s.preempts n = some o → s.gatingDue o = true → runs (.preemptGated n))) ∧
    -- launches (R64 to R69, R156)
    (∀ n l, s.launch? n = some l → ((s.admitted n).isSome = true → runs (.crewAdmit n)) ∧ (s.riseDue l = true → runs (.launchClassRise n)) ∧
      (l.over = true → runs (.launchComplete n)) ∧ (s.commitDue n l = true → (s.nextBuffer n (l.head + 1)).findSome? (fun e => s.rangeBank e.addr e.size) = none → runs (.crewCommit n))) ∧
    (∀ n, let readable := fun l => s.recordAway l = [] ∧ s.capBank l = none
      (∀ r, (s.slot n).record = some r →
        readable (Sys2Proof.Machine.launchFrom r (Sys2Proof.fld ((r[0]?).getD 0).toNat 51 40) 0 s.clock) → runs (.launchValidate true n)) ∧
      (∀ th r q, s.thread? n = some th → th.dlq = r :: q →
        readable (Sys2Proof.Machine.launchFrom r.words th.ctx (n + 1) r.since) → runs (.launchValidate false n))) ∧
    -- groups and crews (R48, R74, R97, R109, R203, R206, R370, R385)
    (∀ g gr, s.group? g = some gr →
      (s.ageDue g gr = true → runs (.generalAgeSelect g)) ∧ (s.recordDue g gr = true → runs (.trapRecordWrite g)) ∧
      (s.siblingDue g gr = true → runs (.siblingStop g)) ∧ (s.preciseDue g gr = true → runs (.preciseStop g)) ∧
      (s.fenceDue gr = true → runs (.fenceComplete g)) ∧ (s.sinvDue gr = true → (s.ctx? gr.ctx).isSome = true → runs (.sinvComplete g)) ∧
      (s.refetchDue gr = true ∨ gr.metDue = true ∨ s.enterDue gr = true → runs (.groupWake g)) ∧
      (s.retireDue g gr = true → runs (.groupRetire g))) ∧
    (∀ k site, (s.siteDue k site = true → runs (.fuseResolve k site)) ∧ (s.haltEventDue k = true → runs (.crewHaltEvent k))) ∧
    -- memory and the engines (R77, R80, R107, R113, R189, R355)
    (∀ n a, Sys2Proof.Machine.tget s.accs n = some a →
      (s.claimDue a = true → s.givesWay a = false → runs (.claimCheck n)) ∧ (s.answerDue a = true → runs (.answerReturn n)) ∧ (s.urgencyDue a = true → runs (.urgencyBit n)) ∧
      (∀ c w k, s.arrivalDue a = true → s.opKind a.op = .arrive c w k → runs (.barrierArrival n)) ∧
      (∀ e flat, s.portDue n a = true → s.givesWay a = false → Sys2Proof.Claims.Lets s a e flat → runs (.portAccess n))) ∧
    (∀ n e, Sys2Proof.Machine.tget s.waits n = some e → (s.migrationDue e = true → s.migrationBank e = none → runs (.pageMigration n)) ∧ (e.migrated = true → runs (.targetedReplay n))) ∧
    (∀ n c, Sys2Proof.Machine.tget s.claims n = some c → s.scrubbed c ≠ c → runs (.claimScrub n)) ∧
    (∀ n c, Sys2Proof.Machine.tget s.cmds n = some c → (s.qfenceDue n c = true → runs (.qfencePerform n)) ∧
      (s.completionDue n c = true → c.cm = 0 → runs (.copyCompletion n))) ∧
    (∀ core e, s.engineNext core s.engine [] = some e → (s.crew? e.crew).isSome = true → runs (.matrixEnginePerform core)) ∧
    -- threads (R82, R83, R219, R278)
    (∀ n th, s.thread? n = some th → (th.placeDue = true → runs (.eventQueuePlaceFree n)) ∧ (th.wakeDue = true → runs (.gwaitWake n)) ∧
      (th.timeoutDue s.clock = true → runs (.gwaitTimeout n)) ∧ (s.unblockDue th = true → runs (.emitUnblock n)) ∧
      (s.watchdogDue th = true → runs (.watchdogExpire n))) ∧
    -- recovery, errors and the board (R232 to R237, R433, R437, R439 to R442, R445, R466)
    (s.pointTimerDue = true → runs .recoveryPointTimer) ∧ (s.commitPointDue = true → runs .recoveryPointCommit) ∧
    (s.ringWriteDue = true → runs .eventRingWrite) ∧ (s.ringPollDue = true → runs .eventRingPoll) ∧
    (∀ u, (Sys2Proof.Machine.storesState u = true → runs (.uncorrectableError u)) ∧ (Sys2Proof.Machine.countsErrors u = true → runs (.correctedError u))) ∧
    (s.ready = false → s.bootFail = 0 → runs .powerGood) ∧
    (∀ a bs, bs ≠ [] → a + bs.length ≤ Sys2Proof.Machine.capBase → runs (.hostMemWrite a bs)) ∧
    (∀ d h o w bs, bs ≠ [] → runs (.peerAccess d h o w bs)) ∧
    (∀ p, (p < 12 → s.railDown.contains p = false → runs (.railPortDown p)) ∧ (s.railDown.contains p = true → runs (.railPortUp p))) ∧
    (∀ c b, (c < 56 → runs (.activationBackoff c b)) ∧ (s.refresh.contains (c, b) = true → runs (.refreshHoldEnd c b))) ∧
    (∀ d k, d < 4 → (105 < k ∨ s.hot.contains d = true → runs (.thermalStep d k)) ∧ (115 < k → s.critical.contains d = false → runs (.thermalCritical d k)) ∧
      (s.critical.contains d = true → k < 95 → runs (.thermalRecover d k)))

/-- How the model steps: what stands at the head of the agenda is done next, with the time it takes, unless it waits for a place
in the store of reports, or behind a move of its link that does (R466, log entry 65). A group whose next word decodes performs it,
once it has raised the traps stacked behind the one it resumed from; a thread performs the word at its PC; a step of the table is
performed; an access that waited for its page stands before its port again; with nothing on the agenda, bring-up, and once READY
one of the moves that are due. The word that withFetchWord places after reset is the one the next step performs. The agenda and
the choice are the model's (log entries 1 and 2). -/
def Obligations.StepRunsTheDecodedWord : Prop :=
  ∀ (s : Sys2Proof.Machine.State), s.bootFail = 0 →
    (∀ m r, s.agenda = m :: r → { s with agenda := r }.flowHeld m = true →
      Sys2Proof.Machine.step s = Sys2Proof.Machine.after (.next ({ s with agenda := r }.holdMove m))) ∧
    (∀ g r gr, s.agenda = .issue g :: r → s.group? g = some gr →
      let s0 := { s with agenda := r }
      (s0.raiseDue gr = true →
        Sys2Proof.Machine.step s = Sys2Proof.Machine.after (Sys2Proof.Claims.taken s0 (.issue g) (.next (s0.raiseNext g gr)))) ∧
      ∀ q gr1 i, s0.raiseDue gr = false → gr.nextWord = some (q, gr1) → Sys2Proof.decode q.word.toNat = .ok i →
        Sys2Proof.Machine.step s = Sys2Proof.Machine.after
          (Sys2Proof.Claims.taken s0 (.issue g) (Sys2Proof.Machine.exec i (s0.begin g gr q gr1)))) ∧
    (∀ t r th c p f i, s.agenda = .fetch t :: r →
      let s0 := { s with agenda := r }
      let w : Sys2Proof.Word := BitVec.ofNat 32 (Sys2Proof.Machine.mnat s.mem f 4)
      Sys2Proof.Claims.Fetches s0 t th c p f → Sys2Proof.decode w.toNat = .ok i →
      Sys2Proof.Machine.step s = Sys2Proof.Machine.after
        (Sys2Proof.Claims.taken s0 (.fetch t) (Sys2Proof.Machine.exec i (Sys2Proof.Claims.fetched p t th c w)))) ∧
    (∀ i r, s.agenda = .run i :: r → { s with agenda := r }.flowHeld (.run i) = false →
      Sys2Proof.Machine.step s = Sys2Proof.Machine.after (Sys2Proof.Claims.taken { s with agenda := r } (.run i)
        (Sys2Proof.Machine.exec i { s with agenda := r }))) ∧
    (∀ k a e r, s.agenda = .present e (.access k) :: r → Sys2Proof.Machine.tget s.accs k = some a → a.stage = .parked e →
      let s0 := { s with agenda := r }
      let u := s0.represent e (.access k)
      Sys2Proof.Machine.step s = Sys2Proof.Machine.after (Sys2Proof.Claims.taken s0 (.present e (.access k))
        (if u.isDue (Sys2Proof.Machine.execPortAccess k) = true then Sys2Proof.Machine.exec (.portAccess k) u
          else if u.isDue (Sys2Proof.Machine.execClaimCheck k) = true then Sys2Proof.Machine.exec (.claimCheck k) u
          else if u.isDue (Sys2Proof.Machine.execBarrierArrival k) = true then Sys2Proof.Machine.exec (.barrierArrival k) u else .next u))) ∧
    (s.agenda = [] → s.ready = false → Sys2Proof.Machine.step s = Sys2Proof.Machine.after (Sys2Proof.Machine.exec .powerGood s)) ∧
    (s.agenda = [] → s.ready = true → s.due ≠ [] → ∃ f ∈ s.due, Sys2Proof.Machine.step s = Sys2Proof.Machine.after (f s)) ∧
    (∀ w i, w < 2 ^ 32 → Sys2Proof.decode w = .ok i → ∃ u, Sys2Proof.Machine.step (Sys2Proof.Machine.State.reset.withFetchWord 32 w) =
      Sys2Proof.Machine.after (Sys2Proof.Machine.exec i u) ∧ u.cur.word.toNat = w ∧
        (u.cur.who = .group 0 ∨ u.cur.who = .thread 0))

/-- What reset leaves. The manual gives: READY clear and no error (R445), every byte of the device zero with no tag and no claim
(R445 step 3), RPINT 0 (R232), the threshold 16 (R236), no context (R193), no event ring (R466) and no recovery point; so the
state is sound, as every step keeps it. The model's choice are CLOCK 0 and every island in P0 (log entries 3 and 4), the mailbox,
the launches and the units worn and withdrawn empty (6), and the zeros before bring-up (7) and in host memory and peers (8). -/
def Obligations.ResetState : Prop :=
  let s := Sys2Proof.Machine.State.reset
  s.ready = false ∧ s.bootFail = 0 ∧ (∀ a, Sys2Proof.Machine.mget s.mem a = 0) ∧ s.tags = [] ∧ s.claims = [] ∧ s.rpint = 0 ∧ s.wornThr = 16 ∧
  s.ctxs = [] ∧ s.groups = [] ∧ s.threads = [] ∧ s.launches = [] ∧ s.ring = none ∧ s.point = none ∧ s.mbox = [] ∧ s.worn = [] ∧ s.withdrawn = [] ∧
  s.clock = 0 ∧ s.islands = List.replicate 24 0 ∧ s.Sound = true

namespace Sys2Proof.Claims

/-- Words written out from the encodings and examples of the manual, with what they stand for. -/
def words : List (Nat × Instr) :=
  [(0x02321400, .add false 3 4 5), (0x04500FF0, .addi false 5 0 0xFF0), (0x08721B08, .ldsB64 false 7 2 3 8),
   (0x0A320008, .beq false 3 4 8), (0x0C1FFFFC, .jal false 1 0xFFFFC), (0x0E952C00, .emit false 9 10 11),
   (0x0E218188, .launch false 2 3 4), (0x22102860, .addsS false 4 5 6), (0x24081C04, .shliV false 2 3 4),
   (0x26041039, .fminF32 false 1 2 3), (0x281C4090, .ffmaF32 false 7 8 9), (0x2A0C2002, .fsqrt false 3 4 .f32),
   (0x2C081940, .cvt false 2 3 .s32 .f32), (0x2E881842, .cmp false 2 .lt 3 4 .s32), (0x30610300, .plog false 1 8 2 3),
   (0x32141005, .ballot false 5 2), (0x340FFFB2, .movi false 3 0x3FFB), (0x40104452, .ld false 4 1 8 .b64 2),
   (0x42044440, .st false 1 1 8 .b32 0), (0x480A0600, .fence false 10 1 .device), (0x4888A081, .barr false 2 5 .device 1),
   (0x4A442428, .kwin false 2 1 4 5), (0x50128000, .tcfg false 2 10), (0x52236360, .tld false 2 3 12 13 .both),
   (0x54246800, .mma false 1 2 3 .chunk), (0x56100000, .azero false 1), (0xD6928000, .ard true 1 20 0),
   (0x61280800, .cpyRed false 20 .addF32), (0x61480800, .qfence false 1 1), (0x70414088, .setblk false 5 2 1),
   (0x71526000, .fuse false 9 3), (0xF0000000, .nop true), (0x72550000, .grd false 2 true 2), (0x74030000, .rdsr false 6 0),
   (0x74800114, .setfmImm false 0x114), (0x74C00007, .brk false 7), (0x7514C700, .sinv false 5 6 7)]

end Sys2Proof.Claims

/-- R240 to R259: each of the words decodes to the instruction it stands for. -/
def Obligations.WordsDecode : Prop := ∀ x ∈ Sys2Proof.Claims.words, Sys2Proof.decode x.1 = .ok x.2

/-- R238 to R259: DECODE AND ENCODE AGREE. The word of a well-formed instruction has 32 bits and decodes to it, with every operand
at every value. -/
def Obligations.DecodeOfEncode : Prop :=
  ∀ (i : Sys2Proof.Instr) w, i.wellFormed = true → Sys2Proof.encode i = some w → w < 2 ^ 32 ∧ Sys2Proof.decode w = .ok i

/-- R238 to R259, R243: a word that decodes is the word of the instruction it decodes to, which is well-formed: no bit is dropped,
and no two words are one instruction. -/
def Obligations.EncodeOfDecode : Prop :=
  ∀ w (i : Sys2Proof.Instr), w < 2 ^ 32 → Sys2Proof.decode w = .ok i → i.wellFormed = true ∧ Sys2Proof.encode i = some w

/-- AN INVARIANT THAT EVERY STEP KEEPS: memory and tags stay in canonical form, those of the recovery point with them (R232,
R234); every island stays in one of its four states (R441); the mailbox holds no more than 64 commands (R434). -/
def Obligations.StepKeepsSound : Prop :=
  ∀ s t : Sys2Proof.Machine.State, s.Sound = true → Sys2Proof.Machine.step s = .next t → t.Sound = true
end

