-- ==== Sys2Proof/Laws/Memory.lean ====
section
/-! SUPPORT. The laws of memory, of granule tags and of tables: what a read sees after a write, and that every operation
keeps the canonical form. -/
namespace Sys2Proof.Machine

/-! ### Bytes -/

/-- The first address of a list, where it has one, lies above a bound. -/
def above (a : Nat) : List Host.Cell → Prop
  | [] => True
  | (k, _) :: _ => a < k

theorem memWf_cons {k : Nat} {x : Byte} {r : List Host.Cell} :
    memWf ((k, x) :: r) = true ↔ x ≠ 0 ∧ above k r ∧ memWf r = true := by
  cases r with
  | nil => simp [memWf, above]
  | cons c r => simp [memWf, above, and_assoc]

theorem memWf_tail {c : Host.Cell} {r : List Host.Cell} (h : memWf (c :: r) = true) : memWf r = true := by
  obtain ⟨k, x⟩ := c
  exact (memWf_cons.1 h).2.2

theorem above_trans {a b : Nat} {m : List Host.Cell} (h : a ≤ b) (hm : above b m) : above a m := by
  cases m with
  | nil => trivial
  | cons c r => exact Nat.lt_of_le_of_lt h hm

/-- Below its first entry memory reads as unlisted. -/
theorem mget_above {a : Nat} {m : List Host.Cell} (h : above a m) : mget m a = 0 := by
  cases m with
  | nil => rfl
  | cons c r =>
    have h' : a < c.1 := h
    simp [mget, Nat.ne_of_gt h', h']

theorem above_mput {a k : Nat} {b : Byte} {m : List Host.Cell} (hw : memWf m = true) (hm : above k m) (h : k < a) :
    above k (mput m a b) := by
  cases m with
  | nil =>
    simp only [mput]
    split <;> simp [above, h]
  | cons c r =>
    obtain ⟨j, x⟩ := c
    have hj : k < j := hm
    have hr := (memWf_cons.1 hw).2.1
    simp only [mput]
    split
    · split
      · exact hj
      · exact h
    · split
      · split
        · exact above_trans (Nat.le_of_lt hj) hr
        · exact h
      · exact hj

/-- Writing a byte keeps the canonical form. -/
theorem memWf_mput {m : List Host.Cell} (a : Nat) (b : Byte) (hw : memWf m = true) : memWf (mput m a b) = true := by
  induction m with
  | nil =>
    simp only [mput]
    split
    · rfl
    · rename_i h
      exact memWf_cons.2 ⟨h, trivial, rfl⟩
  | cons c r ih =>
    obtain ⟨j, x⟩ := c
    obtain ⟨hx, hr, hw'⟩ := memWf_cons.1 hw
    simp only [mput]
    split
    · split
      · exact hw
      · rename_i h1 h2
        exact memWf_cons.2 ⟨h2, h1, hw⟩
    · split
      · split
        · exact hw'
        · rename_i h1 h2 h3
          subst h2
          exact memWf_cons.2 ⟨h3, hr, hw'⟩
      · rename_i h1 h2
        exact memWf_cons.2 ⟨hx, above_mput hw' hr (by omega), ih hw'⟩

/-- A byte written is read back. -/
theorem mget_mput_same {m : List Host.Cell} (a : Nat) (b : Byte) (hw : memWf m = true) : mget (mput m a b) a = b := by
  induction m with
  | nil =>
    simp only [mput]
    split
    · rename_i h
      simp [mget, h]
    · simp [mget]
  | cons c r ih =>
    obtain ⟨j, x⟩ := c
    obtain ⟨hx, hr, hw'⟩ := memWf_cons.1 hw
    simp only [mput]
    split
    · rename_i h1
      split
      · rename_i h2
        rw [mget_above (show above a ((j, x) :: r) from h1), h2]
      · simp [mget]
    · split
      · rename_i h1 h2
        subst h2
        split
        · rename_i h3
          rw [mget_above hr, h3]
        · simp [mget]
      · rename_i h1 h2
        have hn : j ≠ a := fun h => h2 h.symm
        simp only [mget, hn, if_false, h1]
        exact ih hw'

/-- A byte written leaves every other byte as it was. -/
theorem mget_mput_other {m : List Host.Cell} (a : Nat) (b : Byte) {x : Nat} (hw : memWf m = true) (h : x ≠ a) :
    mget (mput m a b) x = mget m x := by
  have h' : a ≠ x := fun e => h e.symm
  induction m with
  | nil =>
    simp only [mput]
    split
    · rfl
    · simp [mget, h']
  | cons c r ih =>
    obtain ⟨j, y⟩ := c
    obtain ⟨hx, hr, hw'⟩ := memWf_cons.1 hw
    simp only [mput]
    split
    · rename_i h1
      split
      · rfl
      · by_cases hlt : x < a
        · have : mget ((j, y) :: r) x = 0 := mget_above (show x < j by omega)
          rw [this]
          simp [mget, h', hlt]
        · simp [mget, h', hlt]
    · split
      · rename_i h1 h2
        subst h2
        have hne : ¬ a = x := h'
        by_cases hlt : x < a
        · have e : mget r x = 0 := mget_above (above_trans (Nat.le_of_lt hlt) hr)
          split <;> simp [mget, hne, hlt, e]
        · split <;> simp [mget, hne, hlt]
      · simp only [mget]
        rw [ih hw']

/-- Writing bytes keeps the canonical form. -/
theorem memWf_mputs (bs : List Byte) : ∀ {m : List Host.Cell} (a : Nat), memWf m = true → memWf (mputs m a bs) = true := by
  induction bs with
  | nil => exact fun _ h => h
  | cons b bs ih => exact fun a h => ih (a + 1) (memWf_mput a b h)

/-- Bytes written leave every byte outside them as it was. -/
theorem mget_mputs_other (bs : List Byte) : ∀ {m : List Host.Cell} (a : Nat) {x : Nat}, memWf m = true →
    (x < a ∨ a + bs.length ≤ x) → mget (mputs m a bs) x = mget m x := by
  induction bs with
  | nil => exact fun _ _ _ _ => rfl
  | cons b bs ih =>
    intro m a x hw h
    simp only [List.length_cons] at h
    rw [mputs, ih (a + 1) (memWf_mput a b hw) (by omega), mget_mput_other a b hw (by omega)]

/-- Byte i of the bytes written is read back at its place. -/
theorem mget_mputs_same (bs : List Byte) : ∀ {m : List Host.Cell} (a i : Nat), memWf m = true → (h : i < bs.length) →
    mget (mputs m a bs) (a + i) = bs[i] := by
  induction bs with
  | nil => intro _ _ i _ h; exact absurd h (Nat.not_lt_zero i)
  | cons b bs ih =>
    intro m a i hw h
    cases i with
    | zero =>
      rw [mputs, mget_mputs_other bs (a + 1) (memWf_mput a b hw) (by omega), Nat.add_zero, mget_mput_same a b hw]
      rfl
    | succ i =>
      have := ih (m := mput m a b) (a + 1) i (memWf_mput a b hw) (by simpa using h)
      rw [mputs, show a + (i + 1) = a + 1 + i by omega, this]
      rfl

theorem length_mgets (m : List Host.Cell) (n : Nat) : ∀ a : Nat, (mgets m a n).length = n := by
  induction n with
  | zero => exact fun _ => rfl
  | succ n ih => exact fun a => by simp [mgets, ih]

/-- Bytes written are read back. -/
theorem mgets_mputs_same (bs : List Byte) : ∀ {m : List Host.Cell} (a : Nat), memWf m = true →
    mgets (mputs m a bs) a bs.length = bs := by
  induction bs with
  | nil => exact fun _ _ => rfl
  | cons b bs ih =>
    intro m a hw
    have h0 := mget_mputs_same (b :: bs) a 0 hw (by simp)
    simp only [Nat.add_zero, List.getElem_cons_zero] at h0
    rw [List.length_cons, mgets, h0, mputs, ih (a + 1) (memWf_mput a b hw)]

/-- A read outside the bytes written sees what it saw before. -/
theorem mgets_mputs_other (bs : List Byte) {m : List Host.Cell} (a : Nat) (hw : memWf m = true) (n : Nat) :
    ∀ x : Nat, (x + n ≤ a ∨ a + bs.length ≤ x) → mgets (mputs m a bs) x n = mgets m x n := by
  induction n with
  | zero => exact fun _ _ => rfl
  | succ n ih =>
    intro x h
    rw [mgets, mgets, mget_mputs_other bs a hw (by omega), ih (x + 1) (by omega)]

/-- The little-endian bytes of a number hold it, up to their length. -/
theorem leNat_leBytes (n : Nat) : ∀ v : Nat, leNat (leBytes v n) = v % 256 ^ n := by
  induction n with
  | zero => intro v; simp [leBytes, leNat, Nat.mod_one]
  | succ n ih =>
    intro v
    rw [leBytes, leNat, ih, BitVec.toNat_ofNat, Nat.pow_succ (n := 256), Nat.mul_comm (256 ^ n) 256, Nat.mod_mul]

theorem length_leBytes (n : Nat) : ∀ v : Nat, (leBytes v n).length = n := by
  induction n with
  | zero => exact fun _ => rfl
  | succ n ih => exact fun v => by simp [leBytes, ih]

/-- A number written is read back, cut to its bytes. -/
theorem mnat_mputs {m : List Host.Cell} (a v n : Nat) (hw : memWf m = true) :
    mnat (mputs m a (leBytes v n)) a n = v % 256 ^ n := by
  have h := mgets_mputs_same (leBytes v n) (m := m) a hw
  rw [length_leBytes] at h
  rw [mnat, h, leNat_leBytes]

/-- Leaving entries out keeps the canonical form. -/
theorem memWf_filter (f : Host.Cell → Bool) {m : List Host.Cell} (hw : memWf m = true) : memWf (m.filter f) = true := by
  have hab : ∀ (m : List Host.Cell) (k : Nat), memWf m = true → above k m → above k (m.filter f) := by
    intro m
    induction m with
    | nil => exact fun _ _ _ => trivial
    | cons c r ih =>
      intro k hw hk
      obtain ⟨j, x⟩ := c
      obtain ⟨_, hr, hw'⟩ := memWf_cons.1 hw
      rw [List.filter_cons]
      split
      · exact hk
      · exact ih k hw' (above_trans (Nat.le_of_lt hk) hr)
  induction m with
  | nil => rfl
  | cons c r ih =>
    obtain ⟨j, x⟩ := c
    obtain ⟨hx, hr, hw'⟩ := memWf_cons.1 hw
    rw [List.filter_cons]
    split
    · exact memWf_cons.2 ⟨hx, hab r j hw' hr, ih hw'⟩
    · exact ih hw'

/-- Writing the entries of a list one by one, at places of one's choosing, keeps the canonical form. -/
theorem memWf_foldl (f : Host.Cell → Nat × Byte) (l : List Host.Cell) : ∀ {m : List Host.Cell}, memWf m = true →
    memWf (l.foldl (fun m c => mput m (f c).1 (f c).2) m) = true := by
  induction l with
  | nil => exact fun h => h
  | cons c l ih => exact fun h => ih (memWf_mput _ _ h)

/-- Moving a range of bytes keeps the canonical form. -/
theorem memWf_moveBytes {m : List Host.Cell} (src dst n : Nat) (hw : memWf m = true) : memWf (moveBytes m src dst n) = true :=
  memWf_foldl (fun c => (dst + (c.1 - src), c.2)) _ (memWf_filter _ hw)

/-! ### Tags -/

/-- Every element of a list lies above a bound. -/
theorem ascending_cons {a : Nat} {l : List Nat} (h : ascending (a :: l) = true) : ascending l = true ∧ ∀ x ∈ l, a < x := by
  induction l generalizing a with
  | nil => exact ⟨rfl, fun _ h => absurd h (List.not_mem_nil)⟩
  | cons b r ih =>
    simp only [ascending, Bool.and_eq_true, decide_eq_true_eq] at h
    obtain ⟨_, hb⟩ := ih h.2
    refine ⟨h.2, fun x hx => ?_⟩
    rcases List.mem_cons.1 hx with rfl | hx
    · exact h.1
    · exact Nat.lt_trans h.1 (hb x hx)

theorem ascending_of {a : Nat} {l : List Nat} (h : ascending l = true) (hb : ∀ x ∈ l, a < x) : ascending (a :: l) = true := by
  cases l with
  | nil => rfl
  | cons b r => simp [ascending, h, hb b (List.mem_cons_self ..)]

/-- Leaving elements out keeps the order. -/
theorem ascending_filter (f : Nat → Bool) {l : List Nat} (h : ascending l = true) : ascending (l.filter f) = true := by
  induction l with
  | nil => rfl
  | cons a r ih =>
    obtain ⟨hr, hb⟩ := ascending_cons h
    rw [List.filter_cons]
    split
    · exact ascending_of (ih hr) fun x hx => hb x (List.mem_filter.1 hx).1
    · exact ih hr

theorem ascending_tagClear {ts : List Nat} (g : Nat) (h : ascending ts = true) : ascending (tagClear ts g) = true :=
  ascending_filter _ h

theorem mem_tagSet {g x : Nat} {ts : List Nat} : x ∈ tagSet ts g ↔ x = g ∨ x ∈ ts := by
  induction ts with
  | nil => simp [tagSet]
  | cons t r ih =>
    simp only [tagSet]
    split
    · simp
    · split
      · rename_i h1 h2
        subst h2
        simp
      · simp only [List.mem_cons, ih]
        exact ⟨fun h => by rcases h with h | h | h <;> simp [h], fun h => by rcases h with h | h | h <;> simp [h]⟩

theorem ascending_tagSet {ts : List Nat} (g : Nat) (h : ascending ts = true) : ascending (tagSet ts g) = true := by
  induction ts with
  | nil => rfl
  | cons t r ih =>
    obtain ⟨hr, hb⟩ := ascending_cons h
    simp only [tagSet]
    split
    · rename_i h1
      refine ascending_of h fun x hx => ?_
      rcases List.mem_cons.1 hx with rfl | hx
      · exact h1
      · exact Nat.lt_trans h1 (hb x hx)
    · split
      · exact h
      · rename_i h1 h2
        refine ascending_of (ih hr) fun x hx => ?_
        rcases mem_tagSet.1 hx with rfl | hx
        · omega
        · exact hb x hx

/-- The tag of a granule after it has been set, and after it has been cleared. -/
theorem tagAt_tagSet (ts : List Nat) (g x : Nat) : tagAt (tagSet ts g) x = (x == g || tagAt ts x) := by
  simp only [tagAt, List.contains_eq_mem]
  by_cases h : x = g <;> simp [mem_tagSet, h]

theorem tagAt_tagClear (ts : List Nat) (g x : Nat) : tagAt (tagClear ts g) x = (x != g && tagAt ts x) := by
  simp only [tagAt, tagClear, List.contains_eq_mem, List.mem_filter]
  by_cases h : x = g <;> simp [h]

theorem ascending_tagClears (gs : List Nat) : ∀ {ts : List Nat}, ascending ts = true →
    ascending (gs.foldl tagClear ts) = true := by
  induction gs with
  | nil => exact fun h => h
  | cons g gs ih => exact fun h => ih (ascending_tagClear g h)

theorem ascending_tagSets (f : Nat → Nat) (gs : List Nat) : ∀ {ts : List Nat}, ascending ts = true →
    ascending (gs.foldl (fun ts g => tagSet ts (f g)) ts) = true := by
  induction gs with
  | nil => exact fun h => h
  | cons g gs ih => exact fun h => ih (ascending_tagSet _ h)

theorem ascending_moveTags {ts : List Nat} (src dst n : Nat) (h : ascending ts = true) : ascending (moveTags ts src dst n) = true :=
  ascending_tagSets (fun t => dst + (t - src)) _ (ascending_filter _ h)

/-! ### Tables -/

/-- The value set at a key is the value there, and other keys keep theirs. -/
theorem tget_tset {α : Type} (t : Tab α) (n : Nat) (x : α) (m : Nat) :
    tget (tset t n x) m = if m = n then some x else tget t m := by
  induction t with
  | nil =>
    by_cases h : m = n
    · simp [tset, tget, h]
    · have h' : ¬ n = m := fun e => h e.symm
      simp [tset, tget, h, h']
  | cons c r ih =>
    obtain ⟨k, a⟩ := c
    simp only [tset]
    split
    · rename_i h1
      by_cases h : m = n
      · subst h; simp [tget]
      · have h' : ¬ n = m := fun e => h e.symm
        by_cases h2 : m < n
        · have h3 : ¬ k = m := by omega
          have h4 : m < k := by omega
          simp [tget, h, h', h2, h3, h4]
        · simp [tget, h, h', h2]
    · split
      · rename_i h1 h2
        subst h2
        by_cases h : m = k
        · subst h; simp [tget]
        · have h' : ¬ k = m := fun e => h e.symm
          simp [tget, h, h']
      · rename_i h1 h2
        by_cases h : m = n
        · subst h
          have h3 : ¬ m < k := h1
          simp [tget, h2, h3, ih]
        · simp [tget, ih, h]

theorem tget_tset_same {α : Type} (t : Tab α) (n : Nat) (x : α) : tget (tset t n x) n = some x := by simp [tget_tset]

/-- A value changed at a key. -/
theorem tget_tmod {α : Type} (t : Tab α) (n : Nat) (f : α → α) (m : Nat) :
    tget (tmod t n f) m = if m = n then (tget t n).map f else tget t m := by
  unfold tmod
  cases h : tget t n with
  | none =>
    by_cases e : m = n
    · subst e; simp [h]
    · simp [e]
  | some a => simp [tget_tset]

theorem tget_tmod_same {α : Type} (t : Tab α) (n : Nat) (f : α → α) : tget (tmod t n f) n = (tget t n).map f := by
  simp [tget_tmod]

/-- Every value changed. -/
theorem tget_tmap {α : Type} (t : Tab α) (f : Nat → α → α) (m : Nat) : tget (tmap t f) m = (tget t m).map (f m) := by
  induction t with
  | nil => rfl
  | cons c r ih =>
    obtain ⟨k, a⟩ := c
    show tget ((k, f k a) :: tmap r f) m = _
    simp only [tget, ih]
    by_cases h : k = m
    · subst h; simp
    · by_cases h2 : m < k <;> simp [h, h2]

end Sys2Proof.Machine
end

