-- ==== Sys2Proof/Laws/State.lean ====
section
/-! SUPPORT. What the shared updates leave alone: one lemma for each field of State and each update, true by unfolding. The
field that an update writes is the last of its section. -/
namespace Sys2Proof.Machine.State
/-! ### modGroup -/

section
variable (s : State) (g : Nat) (f : Group → Group)
@[simp] theorem modGroup_mem : (s.modGroup g f).mem = s.mem := rfl
@[simp] theorem modGroup_tags : (s.modGroup g f).tags = s.tags := rfl
@[simp] theorem modGroup_ctxs : (s.modGroup g f).ctxs = s.ctxs := rfl
@[simp] theorem modGroup_slotCtr : (s.modGroup g f).slotCtr = s.slotCtr := rfl
@[simp] theorem modGroup_threads : (s.modGroup g f).threads = s.threads := rfl
@[simp] theorem modGroup_crews : (s.modGroup g f).crews = s.crews := rfl
@[simp] theorem modGroup_savedCrews : (s.modGroup g f).savedCrews = s.savedCrews := rfl
@[simp] theorem modGroup_savedThreads : (s.modGroup g f).savedThreads = s.savedThreads := rfl
@[simp] theorem modGroup_nextCrew : (s.modGroup g f).nextCrew = s.nextCrew := rfl
@[simp] theorem modGroup_launches : (s.modGroup g f).launches = s.launches := rfl
@[simp] theorem modGroup_nextLaunch : (s.modGroup g f).nextLaunch = s.nextLaunch := rfl
@[simp] theorem modGroup_preempts : (s.modGroup g f).preempts = s.preempts := rfl
@[simp] theorem modGroup_nextOrder : (s.modGroup g f).nextOrder = s.nextOrder := rfl
@[simp] theorem modGroup_ops : (s.modGroup g f).ops = s.ops := rfl
@[simp] theorem modGroup_accs : (s.modGroup g f).accs = s.accs := rfl
@[simp] theorem modGroup_cmds : (s.modGroup g f).cmds = s.cmds := rfl
@[simp] theorem modGroup_softFences : (s.modGroup g f).softFences = s.softFences := rfl
@[simp] theorem modGroup_nextId : (s.modGroup g f).nextId = s.nextId := rfl
@[simp] theorem modGroup_waits : (s.modGroup g f).waits = s.waits := rfl
@[simp] theorem modGroup_overflow : (s.modGroup g f).overflow = s.overflow := rfl
@[simp] theorem modGroup_claims : (s.modGroup g f).claims = s.claims := rfl
@[simp] theorem modGroup_lapsed : (s.modGroup g f).lapsed = s.lapsed := rfl
@[simp] theorem modGroup_owners : (s.modGroup g f).owners = s.owners := rfl
@[simp] theorem modGroup_posted : (s.modGroup g f).posted = s.posted := rfl
@[simp] theorem modGroup_lampLast : (s.modGroup g f).lampLast = s.lampLast := rfl
@[simp] theorem modGroup_store : (s.modGroup g f).store = s.store := rfl
@[simp] theorem modGroup_otCache : (s.modGroup g f).otCache = s.otCache := rfl
@[simp] theorem modGroup_rcache : (s.modGroup g f).rcache = s.rcache := rfl
@[simp] theorem modGroup_rings : (s.modGroup g f).rings = s.rings := rfl
@[simp] theorem modGroup_ghosts : (s.modGroup g f).ghosts = s.ghosts := rfl
@[simp] theorem modGroup_fastFree : (s.modGroup g f).fastFree = s.fastFree := rfl
@[simp] theorem modGroup_engine : (s.modGroup g f).engine = s.engine := rfl
@[simp] theorem modGroup_bankQueue : (s.modGroup g f).bankQueue = s.bankQueue := rfl
@[simp] theorem modGroup_clock : (s.modGroup g f).clock = s.clock := rfl
@[simp] theorem modGroup_tick : (s.modGroup g f).tick = s.tick := rfl
@[simp] theorem modGroup_agenda : (s.modGroup g f).agenda = s.agenda := rfl
@[simp] theorem modGroup_cur : (s.modGroup g f).cur = s.cur := rfl
@[simp] theorem modGroup_ready : (s.modGroup g f).ready = s.ready := rfl
@[simp] theorem modGroup_bootFail : (s.modGroup g f).bootFail = s.bootFail := rfl
@[simp] theorem modGroup_msix : (s.modGroup g f).msix = s.msix := rfl
@[simp] theorem modGroup_slots : (s.modGroup g f).slots = s.slots := rfl
@[simp] theorem modGroup_mbox : (s.modGroup g f).mbox = s.mbox := rfl
@[simp] theorem modGroup_mbDrop : (s.modGroup g f).mbDrop = s.mbDrop := rfl
@[simp] theorem modGroup_mbPart : (s.modGroup g f).mbPart = s.mbPart := rfl
@[simp] theorem modGroup_pending : (s.modGroup g f).pending = s.pending := rfl
@[simp] theorem modGroup_ring : (s.modGroup g f).ring = s.ring := rfl
@[simp] theorem modGroup_reports : (s.modGroup g f).reports = s.reports := rfl
@[simp] theorem modGroup_surplus : (s.modGroup g f).surplus = s.surplus := rfl
@[simp] theorem modGroup_islands : (s.modGroup g f).islands = s.islands := rfl
@[simp] theorem modGroup_hot : (s.modGroup g f).hot = s.hot := rfl
@[simp] theorem modGroup_critical : (s.modGroup g f).critical = s.critical := rfl
@[simp] theorem modGroup_routes : (s.modGroup g f).routes = s.routes := rfl
@[simp] theorem modGroup_imports : (s.modGroup g f).imports = s.imports := rfl
@[simp] theorem modGroup_railDown : (s.modGroup g f).railDown = s.railDown := rfl
@[simp] theorem modGroup_recFree : (s.modGroup g f).recFree = s.recFree := rfl
@[simp] theorem modGroup_rpint : (s.modGroup g f).rpint = s.rpint := rfl
@[simp] theorem modGroup_rpNext : (s.modGroup g f).rpNext = s.rpNext := rfl
@[simp] theorem modGroup_taking : (s.modGroup g f).taking = s.taking := rfl
@[simp] theorem modGroup_point : (s.modGroup g f).point = s.point := rfl
@[simp] theorem modGroup_supplied : (s.modGroup g f).supplied = s.supplied := rfl
@[simp] theorem modGroup_since : (s.modGroup g f).since = s.since := rfl
@[simp] theorem modGroup_launched : (s.modGroup g f).launched = s.launched := rfl
@[simp] theorem modGroup_outLog : (s.modGroup g f).outLog = s.outLog := rfl
@[simp] theorem modGroup_outOver : (s.modGroup g f).outOver = s.outOver := rfl
@[simp] theorem modGroup_wornThr : (s.modGroup g f).wornThr = s.wornThr := rfl
@[simp] theorem modGroup_corrected : (s.modGroup g f).corrected = s.corrected := rfl
@[simp] theorem modGroup_worn : (s.modGroup g f).worn = s.worn := rfl
@[simp] theorem modGroup_uncorrected : (s.modGroup g f).uncorrected = s.uncorrected := rfl
@[simp] theorem modGroup_withdrawn : (s.modGroup g f).withdrawn = s.withdrawn := rfl
@[simp] theorem modGroup_stops : (s.modGroup g f).stops = s.stops := rfl
@[simp] theorem modGroup_refresh : (s.modGroup g f).refresh = s.refresh := rfl
@[simp] theorem modGroup_heldIn : (s.modGroup g f).heldIn = s.heldIn := rfl
theorem modGroup_groups : (s.modGroup g f).groups = tmod s.groups g f := rfl

end

/-! ### modThread -/

section
variable (s : State) (n : Nat) (f : Thread → Thread)
@[simp] theorem modThread_mem : (s.modThread n f).mem = s.mem := rfl
@[simp] theorem modThread_tags : (s.modThread n f).tags = s.tags := rfl
@[simp] theorem modThread_ctxs : (s.modThread n f).ctxs = s.ctxs := rfl
@[simp] theorem modThread_groups : (s.modThread n f).groups = s.groups := rfl
@[simp] theorem modThread_slotCtr : (s.modThread n f).slotCtr = s.slotCtr := rfl
@[simp] theorem modThread_crews : (s.modThread n f).crews = s.crews := rfl
@[simp] theorem modThread_savedCrews : (s.modThread n f).savedCrews = s.savedCrews := rfl
@[simp] theorem modThread_savedThreads : (s.modThread n f).savedThreads = s.savedThreads := rfl
@[simp] theorem modThread_nextCrew : (s.modThread n f).nextCrew = s.nextCrew := rfl
@[simp] theorem modThread_launches : (s.modThread n f).launches = s.launches := rfl
@[simp] theorem modThread_nextLaunch : (s.modThread n f).nextLaunch = s.nextLaunch := rfl
@[simp] theorem modThread_preempts : (s.modThread n f).preempts = s.preempts := rfl
@[simp] theorem modThread_nextOrder : (s.modThread n f).nextOrder = s.nextOrder := rfl
@[simp] theorem modThread_ops : (s.modThread n f).ops = s.ops := rfl
@[simp] theorem modThread_accs : (s.modThread n f).accs = s.accs := rfl
@[simp] theorem modThread_cmds : (s.modThread n f).cmds = s.cmds := rfl
@[simp] theorem modThread_softFences : (s.modThread n f).softFences = s.softFences := rfl
@[simp] theorem modThread_nextId : (s.modThread n f).nextId = s.nextId := rfl
@[simp] theorem modThread_waits : (s.modThread n f).waits = s.waits := rfl
@[simp] theorem modThread_overflow : (s.modThread n f).overflow = s.overflow := rfl
@[simp] theorem modThread_claims : (s.modThread n f).claims = s.claims := rfl
@[simp] theorem modThread_lapsed : (s.modThread n f).lapsed = s.lapsed := rfl
@[simp] theorem modThread_owners : (s.modThread n f).owners = s.owners := rfl
@[simp] theorem modThread_posted : (s.modThread n f).posted = s.posted := rfl
@[simp] theorem modThread_lampLast : (s.modThread n f).lampLast = s.lampLast := rfl
@[simp] theorem modThread_store : (s.modThread n f).store = s.store := rfl
@[simp] theorem modThread_otCache : (s.modThread n f).otCache = s.otCache := rfl
@[simp] theorem modThread_rcache : (s.modThread n f).rcache = s.rcache := rfl
@[simp] theorem modThread_rings : (s.modThread n f).rings = s.rings := rfl
@[simp] theorem modThread_ghosts : (s.modThread n f).ghosts = s.ghosts := rfl
@[simp] theorem modThread_fastFree : (s.modThread n f).fastFree = s.fastFree := rfl
@[simp] theorem modThread_engine : (s.modThread n f).engine = s.engine := rfl
@[simp] theorem modThread_bankQueue : (s.modThread n f).bankQueue = s.bankQueue := rfl
@[simp] theorem modThread_clock : (s.modThread n f).clock = s.clock := rfl
@[simp] theorem modThread_tick : (s.modThread n f).tick = s.tick := rfl
@[simp] theorem modThread_agenda : (s.modThread n f).agenda = s.agenda := rfl
@[simp] theorem modThread_cur : (s.modThread n f).cur = s.cur := rfl
@[simp] theorem modThread_ready : (s.modThread n f).ready = s.ready := rfl
@[simp] theorem modThread_bootFail : (s.modThread n f).bootFail = s.bootFail := rfl
@[simp] theorem modThread_msix : (s.modThread n f).msix = s.msix := rfl
@[simp] theorem modThread_slots : (s.modThread n f).slots = s.slots := rfl
@[simp] theorem modThread_mbox : (s.modThread n f).mbox = s.mbox := rfl
@[simp] theorem modThread_mbDrop : (s.modThread n f).mbDrop = s.mbDrop := rfl
@[simp] theorem modThread_mbPart : (s.modThread n f).mbPart = s.mbPart := rfl
@[simp] theorem modThread_pending : (s.modThread n f).pending = s.pending := rfl
@[simp] theorem modThread_ring : (s.modThread n f).ring = s.ring := rfl
@[simp] theorem modThread_reports : (s.modThread n f).reports = s.reports := rfl
@[simp] theorem modThread_surplus : (s.modThread n f).surplus = s.surplus := rfl
@[simp] theorem modThread_islands : (s.modThread n f).islands = s.islands := rfl
@[simp] theorem modThread_hot : (s.modThread n f).hot = s.hot := rfl
@[simp] theorem modThread_critical : (s.modThread n f).critical = s.critical := rfl
@[simp] theorem modThread_routes : (s.modThread n f).routes = s.routes := rfl
@[simp] theorem modThread_imports : (s.modThread n f).imports = s.imports := rfl
@[simp] theorem modThread_railDown : (s.modThread n f).railDown = s.railDown := rfl
@[simp] theorem modThread_recFree : (s.modThread n f).recFree = s.recFree := rfl
@[simp] theorem modThread_rpint : (s.modThread n f).rpint = s.rpint := rfl
@[simp] theorem modThread_rpNext : (s.modThread n f).rpNext = s.rpNext := rfl
@[simp] theorem modThread_taking : (s.modThread n f).taking = s.taking := rfl
@[simp] theorem modThread_point : (s.modThread n f).point = s.point := rfl
@[simp] theorem modThread_supplied : (s.modThread n f).supplied = s.supplied := rfl
@[simp] theorem modThread_since : (s.modThread n f).since = s.since := rfl
@[simp] theorem modThread_launched : (s.modThread n f).launched = s.launched := rfl
@[simp] theorem modThread_outLog : (s.modThread n f).outLog = s.outLog := rfl
@[simp] theorem modThread_outOver : (s.modThread n f).outOver = s.outOver := rfl
@[simp] theorem modThread_wornThr : (s.modThread n f).wornThr = s.wornThr := rfl
@[simp] theorem modThread_corrected : (s.modThread n f).corrected = s.corrected := rfl
@[simp] theorem modThread_worn : (s.modThread n f).worn = s.worn := rfl
@[simp] theorem modThread_uncorrected : (s.modThread n f).uncorrected = s.uncorrected := rfl
@[simp] theorem modThread_withdrawn : (s.modThread n f).withdrawn = s.withdrawn := rfl
@[simp] theorem modThread_stops : (s.modThread n f).stops = s.stops := rfl
@[simp] theorem modThread_refresh : (s.modThread n f).refresh = s.refresh := rfl
@[simp] theorem modThread_heldIn : (s.modThread n f).heldIn = s.heldIn := rfl
theorem modThread_threads : (s.modThread n f).threads = tmod s.threads n f := rfl

end

/-! ### modCrew -/

section
variable (s : State) (n : Nat) (f : Crew → Crew)
@[simp] theorem modCrew_mem : (s.modCrew n f).mem = s.mem := rfl
@[simp] theorem modCrew_tags : (s.modCrew n f).tags = s.tags := rfl
@[simp] theorem modCrew_ctxs : (s.modCrew n f).ctxs = s.ctxs := rfl
@[simp] theorem modCrew_groups : (s.modCrew n f).groups = s.groups := rfl
@[simp] theorem modCrew_slotCtr : (s.modCrew n f).slotCtr = s.slotCtr := rfl
@[simp] theorem modCrew_threads : (s.modCrew n f).threads = s.threads := rfl
@[simp] theorem modCrew_savedCrews : (s.modCrew n f).savedCrews = s.savedCrews := rfl
@[simp] theorem modCrew_savedThreads : (s.modCrew n f).savedThreads = s.savedThreads := rfl
@[simp] theorem modCrew_nextCrew : (s.modCrew n f).nextCrew = s.nextCrew := rfl
@[simp] theorem modCrew_launches : (s.modCrew n f).launches = s.launches := rfl
@[simp] theorem modCrew_nextLaunch : (s.modCrew n f).nextLaunch = s.nextLaunch := rfl
@[simp] theorem modCrew_preempts : (s.modCrew n f).preempts = s.preempts := rfl
@[simp] theorem modCrew_nextOrder : (s.modCrew n f).nextOrder = s.nextOrder := rfl
@[simp] theorem modCrew_ops : (s.modCrew n f).ops = s.ops := rfl
@[simp] theorem modCrew_accs : (s.modCrew n f).accs = s.accs := rfl
@[simp] theorem modCrew_cmds : (s.modCrew n f).cmds = s.cmds := rfl
@[simp] theorem modCrew_softFences : (s.modCrew n f).softFences = s.softFences := rfl
@[simp] theorem modCrew_nextId : (s.modCrew n f).nextId = s.nextId := rfl
@[simp] theorem modCrew_waits : (s.modCrew n f).waits = s.waits := rfl
@[simp] theorem modCrew_overflow : (s.modCrew n f).overflow = s.overflow := rfl
@[simp] theorem modCrew_claims : (s.modCrew n f).claims = s.claims := rfl
@[simp] theorem modCrew_lapsed : (s.modCrew n f).lapsed = s.lapsed := rfl
@[simp] theorem modCrew_owners : (s.modCrew n f).owners = s.owners := rfl
@[simp] theorem modCrew_posted : (s.modCrew n f).posted = s.posted := rfl
@[simp] theorem modCrew_lampLast : (s.modCrew n f).lampLast = s.lampLast := rfl
@[simp] theorem modCrew_store : (s.modCrew n f).store = s.store := rfl
@[simp] theorem modCrew_otCache : (s.modCrew n f).otCache = s.otCache := rfl
@[simp] theorem modCrew_rcache : (s.modCrew n f).rcache = s.rcache := rfl
@[simp] theorem modCrew_rings : (s.modCrew n f).rings = s.rings := rfl
@[simp] theorem modCrew_ghosts : (s.modCrew n f).ghosts = s.ghosts := rfl
@[simp] theorem modCrew_fastFree : (s.modCrew n f).fastFree = s.fastFree := rfl
@[simp] theorem modCrew_engine : (s.modCrew n f).engine = s.engine := rfl
@[simp] theorem modCrew_bankQueue : (s.modCrew n f).bankQueue = s.bankQueue := rfl
@[simp] theorem modCrew_clock : (s.modCrew n f).clock = s.clock := rfl
@[simp] theorem modCrew_tick : (s.modCrew n f).tick = s.tick := rfl
@[simp] theorem modCrew_agenda : (s.modCrew n f).agenda = s.agenda := rfl
@[simp] theorem modCrew_cur : (s.modCrew n f).cur = s.cur := rfl
@[simp] theorem modCrew_ready : (s.modCrew n f).ready = s.ready := rfl
@[simp] theorem modCrew_bootFail : (s.modCrew n f).bootFail = s.bootFail := rfl
@[simp] theorem modCrew_msix : (s.modCrew n f).msix = s.msix := rfl
@[simp] theorem modCrew_slots : (s.modCrew n f).slots = s.slots := rfl
@[simp] theorem modCrew_mbox : (s.modCrew n f).mbox = s.mbox := rfl
@[simp] theorem modCrew_mbDrop : (s.modCrew n f).mbDrop = s.mbDrop := rfl
@[simp] theorem modCrew_mbPart : (s.modCrew n f).mbPart = s.mbPart := rfl
@[simp] theorem modCrew_pending : (s.modCrew n f).pending = s.pending := rfl
@[simp] theorem modCrew_ring : (s.modCrew n f).ring = s.ring := rfl
@[simp] theorem modCrew_reports : (s.modCrew n f).reports = s.reports := rfl
@[simp] theorem modCrew_surplus : (s.modCrew n f).surplus = s.surplus := rfl
@[simp] theorem modCrew_islands : (s.modCrew n f).islands = s.islands := rfl
@[simp] theorem modCrew_hot : (s.modCrew n f).hot = s.hot := rfl
@[simp] theorem modCrew_critical : (s.modCrew n f).critical = s.critical := rfl
@[simp] theorem modCrew_routes : (s.modCrew n f).routes = s.routes := rfl
@[simp] theorem modCrew_imports : (s.modCrew n f).imports = s.imports := rfl
@[simp] theorem modCrew_railDown : (s.modCrew n f).railDown = s.railDown := rfl
@[simp] theorem modCrew_recFree : (s.modCrew n f).recFree = s.recFree := rfl
@[simp] theorem modCrew_rpint : (s.modCrew n f).rpint = s.rpint := rfl
@[simp] theorem modCrew_rpNext : (s.modCrew n f).rpNext = s.rpNext := rfl
@[simp] theorem modCrew_taking : (s.modCrew n f).taking = s.taking := rfl
@[simp] theorem modCrew_point : (s.modCrew n f).point = s.point := rfl
@[simp] theorem modCrew_supplied : (s.modCrew n f).supplied = s.supplied := rfl
@[simp] theorem modCrew_since : (s.modCrew n f).since = s.since := rfl
@[simp] theorem modCrew_launched : (s.modCrew n f).launched = s.launched := rfl
@[simp] theorem modCrew_outLog : (s.modCrew n f).outLog = s.outLog := rfl
@[simp] theorem modCrew_outOver : (s.modCrew n f).outOver = s.outOver := rfl
@[simp] theorem modCrew_wornThr : (s.modCrew n f).wornThr = s.wornThr := rfl
@[simp] theorem modCrew_corrected : (s.modCrew n f).corrected = s.corrected := rfl
@[simp] theorem modCrew_worn : (s.modCrew n f).worn = s.worn := rfl
@[simp] theorem modCrew_uncorrected : (s.modCrew n f).uncorrected = s.uncorrected := rfl
@[simp] theorem modCrew_withdrawn : (s.modCrew n f).withdrawn = s.withdrawn := rfl
@[simp] theorem modCrew_stops : (s.modCrew n f).stops = s.stops := rfl
@[simp] theorem modCrew_refresh : (s.modCrew n f).refresh = s.refresh := rfl
@[simp] theorem modCrew_heldIn : (s.modCrew n f).heldIn = s.heldIn := rfl
theorem modCrew_crews : (s.modCrew n f).crews = tmod s.crews n f := rfl

end

/-! ### modCtx -/

section
variable (s : State) (n : Nat) (f : Context → Context)
@[simp] theorem modCtx_mem : (s.modCtx n f).mem = s.mem := rfl
@[simp] theorem modCtx_tags : (s.modCtx n f).tags = s.tags := rfl
@[simp] theorem modCtx_groups : (s.modCtx n f).groups = s.groups := rfl
@[simp] theorem modCtx_slotCtr : (s.modCtx n f).slotCtr = s.slotCtr := rfl
@[simp] theorem modCtx_threads : (s.modCtx n f).threads = s.threads := rfl
@[simp] theorem modCtx_crews : (s.modCtx n f).crews = s.crews := rfl
@[simp] theorem modCtx_savedCrews : (s.modCtx n f).savedCrews = s.savedCrews := rfl
@[simp] theorem modCtx_savedThreads : (s.modCtx n f).savedThreads = s.savedThreads := rfl
@[simp] theorem modCtx_nextCrew : (s.modCtx n f).nextCrew = s.nextCrew := rfl
@[simp] theorem modCtx_launches : (s.modCtx n f).launches = s.launches := rfl
@[simp] theorem modCtx_nextLaunch : (s.modCtx n f).nextLaunch = s.nextLaunch := rfl
@[simp] theorem modCtx_preempts : (s.modCtx n f).preempts = s.preempts := rfl
@[simp] theorem modCtx_nextOrder : (s.modCtx n f).nextOrder = s.nextOrder := rfl
@[simp] theorem modCtx_ops : (s.modCtx n f).ops = s.ops := rfl
@[simp] theorem modCtx_accs : (s.modCtx n f).accs = s.accs := rfl
@[simp] theorem modCtx_cmds : (s.modCtx n f).cmds = s.cmds := rfl
@[simp] theorem modCtx_softFences : (s.modCtx n f).softFences = s.softFences := rfl
@[simp] theorem modCtx_nextId : (s.modCtx n f).nextId = s.nextId := rfl
@[simp] theorem modCtx_waits : (s.modCtx n f).waits = s.waits := rfl
@[simp] theorem modCtx_overflow : (s.modCtx n f).overflow = s.overflow := rfl
@[simp] theorem modCtx_claims : (s.modCtx n f).claims = s.claims := rfl
@[simp] theorem modCtx_lapsed : (s.modCtx n f).lapsed = s.lapsed := rfl
@[simp] theorem modCtx_owners : (s.modCtx n f).owners = s.owners := rfl
@[simp] theorem modCtx_posted : (s.modCtx n f).posted = s.posted := rfl
@[simp] theorem modCtx_lampLast : (s.modCtx n f).lampLast = s.lampLast := rfl
@[simp] theorem modCtx_store : (s.modCtx n f).store = s.store := rfl
@[simp] theorem modCtx_otCache : (s.modCtx n f).otCache = s.otCache := rfl
@[simp] theorem modCtx_rcache : (s.modCtx n f).rcache = s.rcache := rfl
@[simp] theorem modCtx_rings : (s.modCtx n f).rings = s.rings := rfl
@[simp] theorem modCtx_ghosts : (s.modCtx n f).ghosts = s.ghosts := rfl
@[simp] theorem modCtx_fastFree : (s.modCtx n f).fastFree = s.fastFree := rfl
@[simp] theorem modCtx_engine : (s.modCtx n f).engine = s.engine := rfl
@[simp] theorem modCtx_bankQueue : (s.modCtx n f).bankQueue = s.bankQueue := rfl
@[simp] theorem modCtx_clock : (s.modCtx n f).clock = s.clock := rfl
@[simp] theorem modCtx_tick : (s.modCtx n f).tick = s.tick := rfl
@[simp] theorem modCtx_agenda : (s.modCtx n f).agenda = s.agenda := rfl
@[simp] theorem modCtx_cur : (s.modCtx n f).cur = s.cur := rfl
@[simp] theorem modCtx_ready : (s.modCtx n f).ready = s.ready := rfl
@[simp] theorem modCtx_bootFail : (s.modCtx n f).bootFail = s.bootFail := rfl
@[simp] theorem modCtx_msix : (s.modCtx n f).msix = s.msix := rfl
@[simp] theorem modCtx_slots : (s.modCtx n f).slots = s.slots := rfl
@[simp] theorem modCtx_mbox : (s.modCtx n f).mbox = s.mbox := rfl
@[simp] theorem modCtx_mbDrop : (s.modCtx n f).mbDrop = s.mbDrop := rfl
@[simp] theorem modCtx_mbPart : (s.modCtx n f).mbPart = s.mbPart := rfl
@[simp] theorem modCtx_pending : (s.modCtx n f).pending = s.pending := rfl
@[simp] theorem modCtx_ring : (s.modCtx n f).ring = s.ring := rfl
@[simp] theorem modCtx_reports : (s.modCtx n f).reports = s.reports := rfl
@[simp] theorem modCtx_surplus : (s.modCtx n f).surplus = s.surplus := rfl
@[simp] theorem modCtx_islands : (s.modCtx n f).islands = s.islands := rfl
@[simp] theorem modCtx_hot : (s.modCtx n f).hot = s.hot := rfl
@[simp] theorem modCtx_critical : (s.modCtx n f).critical = s.critical := rfl
@[simp] theorem modCtx_routes : (s.modCtx n f).routes = s.routes := rfl
@[simp] theorem modCtx_imports : (s.modCtx n f).imports = s.imports := rfl
@[simp] theorem modCtx_railDown : (s.modCtx n f).railDown = s.railDown := rfl
@[simp] theorem modCtx_recFree : (s.modCtx n f).recFree = s.recFree := rfl
@[simp] theorem modCtx_rpint : (s.modCtx n f).rpint = s.rpint := rfl
@[simp] theorem modCtx_rpNext : (s.modCtx n f).rpNext = s.rpNext := rfl
@[simp] theorem modCtx_taking : (s.modCtx n f).taking = s.taking := rfl
@[simp] theorem modCtx_point : (s.modCtx n f).point = s.point := rfl
@[simp] theorem modCtx_supplied : (s.modCtx n f).supplied = s.supplied := rfl
@[simp] theorem modCtx_since : (s.modCtx n f).since = s.since := rfl
@[simp] theorem modCtx_launched : (s.modCtx n f).launched = s.launched := rfl
@[simp] theorem modCtx_outLog : (s.modCtx n f).outLog = s.outLog := rfl
@[simp] theorem modCtx_outOver : (s.modCtx n f).outOver = s.outOver := rfl
@[simp] theorem modCtx_wornThr : (s.modCtx n f).wornThr = s.wornThr := rfl
@[simp] theorem modCtx_corrected : (s.modCtx n f).corrected = s.corrected := rfl
@[simp] theorem modCtx_worn : (s.modCtx n f).worn = s.worn := rfl
@[simp] theorem modCtx_uncorrected : (s.modCtx n f).uncorrected = s.uncorrected := rfl
@[simp] theorem modCtx_withdrawn : (s.modCtx n f).withdrawn = s.withdrawn := rfl
@[simp] theorem modCtx_stops : (s.modCtx n f).stops = s.stops := rfl
@[simp] theorem modCtx_refresh : (s.modCtx n f).refresh = s.refresh := rfl
@[simp] theorem modCtx_heldIn : (s.modCtx n f).heldIn = s.heldIn := rfl
theorem modCtx_ctxs : (s.modCtx n f).ctxs = tmod s.ctxs n f := rfl

end

/-! ### modLaunch -/

section
variable (s : State) (n : Nat) (f : Launch → Launch)
@[simp] theorem modLaunch_mem : (s.modLaunch n f).mem = s.mem := rfl
@[simp] theorem modLaunch_tags : (s.modLaunch n f).tags = s.tags := rfl
@[simp] theorem modLaunch_ctxs : (s.modLaunch n f).ctxs = s.ctxs := rfl
@[simp] theorem modLaunch_groups : (s.modLaunch n f).groups = s.groups := rfl
@[simp] theorem modLaunch_slotCtr : (s.modLaunch n f).slotCtr = s.slotCtr := rfl
@[simp] theorem modLaunch_threads : (s.modLaunch n f).threads = s.threads := rfl
@[simp] theorem modLaunch_crews : (s.modLaunch n f).crews = s.crews := rfl
@[simp] theorem modLaunch_savedCrews : (s.modLaunch n f).savedCrews = s.savedCrews := rfl
@[simp] theorem modLaunch_savedThreads : (s.modLaunch n f).savedThreads = s.savedThreads := rfl
@[simp] theorem modLaunch_nextCrew : (s.modLaunch n f).nextCrew = s.nextCrew := rfl
@[simp] theorem modLaunch_nextLaunch : (s.modLaunch n f).nextLaunch = s.nextLaunch := rfl
@[simp] theorem modLaunch_preempts : (s.modLaunch n f).preempts = s.preempts := rfl
@[simp] theorem modLaunch_nextOrder : (s.modLaunch n f).nextOrder = s.nextOrder := rfl
@[simp] theorem modLaunch_ops : (s.modLaunch n f).ops = s.ops := rfl
@[simp] theorem modLaunch_accs : (s.modLaunch n f).accs = s.accs := rfl
@[simp] theorem modLaunch_cmds : (s.modLaunch n f).cmds = s.cmds := rfl
@[simp] theorem modLaunch_softFences : (s.modLaunch n f).softFences = s.softFences := rfl
@[simp] theorem modLaunch_nextId : (s.modLaunch n f).nextId = s.nextId := rfl
@[simp] theorem modLaunch_waits : (s.modLaunch n f).waits = s.waits := rfl
@[simp] theorem modLaunch_overflow : (s.modLaunch n f).overflow = s.overflow := rfl
@[simp] theorem modLaunch_claims : (s.modLaunch n f).claims = s.claims := rfl
@[simp] theorem modLaunch_lapsed : (s.modLaunch n f).lapsed = s.lapsed := rfl
@[simp] theorem modLaunch_owners : (s.modLaunch n f).owners = s.owners := rfl
@[simp] theorem modLaunch_posted : (s.modLaunch n f).posted = s.posted := rfl
@[simp] theorem modLaunch_lampLast : (s.modLaunch n f).lampLast = s.lampLast := rfl
@[simp] theorem modLaunch_store : (s.modLaunch n f).store = s.store := rfl
@[simp] theorem modLaunch_otCache : (s.modLaunch n f).otCache = s.otCache := rfl
@[simp] theorem modLaunch_rcache : (s.modLaunch n f).rcache = s.rcache := rfl
@[simp] theorem modLaunch_rings : (s.modLaunch n f).rings = s.rings := rfl
@[simp] theorem modLaunch_ghosts : (s.modLaunch n f).ghosts = s.ghosts := rfl
@[simp] theorem modLaunch_fastFree : (s.modLaunch n f).fastFree = s.fastFree := rfl
@[simp] theorem modLaunch_engine : (s.modLaunch n f).engine = s.engine := rfl
@[simp] theorem modLaunch_bankQueue : (s.modLaunch n f).bankQueue = s.bankQueue := rfl
@[simp] theorem modLaunch_clock : (s.modLaunch n f).clock = s.clock := rfl
@[simp] theorem modLaunch_tick : (s.modLaunch n f).tick = s.tick := rfl
@[simp] theorem modLaunch_agenda : (s.modLaunch n f).agenda = s.agenda := rfl
@[simp] theorem modLaunch_cur : (s.modLaunch n f).cur = s.cur := rfl
@[simp] theorem modLaunch_ready : (s.modLaunch n f).ready = s.ready := rfl
@[simp] theorem modLaunch_bootFail : (s.modLaunch n f).bootFail = s.bootFail := rfl
@[simp] theorem modLaunch_msix : (s.modLaunch n f).msix = s.msix := rfl
@[simp] theorem modLaunch_slots : (s.modLaunch n f).slots = s.slots := rfl
@[simp] theorem modLaunch_mbox : (s.modLaunch n f).mbox = s.mbox := rfl
@[simp] theorem modLaunch_mbDrop : (s.modLaunch n f).mbDrop = s.mbDrop := rfl
@[simp] theorem modLaunch_mbPart : (s.modLaunch n f).mbPart = s.mbPart := rfl
@[simp] theorem modLaunch_pending : (s.modLaunch n f).pending = s.pending := rfl
@[simp] theorem modLaunch_ring : (s.modLaunch n f).ring = s.ring := rfl
@[simp] theorem modLaunch_reports : (s.modLaunch n f).reports = s.reports := rfl
@[simp] theorem modLaunch_surplus : (s.modLaunch n f).surplus = s.surplus := rfl
@[simp] theorem modLaunch_islands : (s.modLaunch n f).islands = s.islands := rfl
@[simp] theorem modLaunch_hot : (s.modLaunch n f).hot = s.hot := rfl
@[simp] theorem modLaunch_critical : (s.modLaunch n f).critical = s.critical := rfl
@[simp] theorem modLaunch_routes : (s.modLaunch n f).routes = s.routes := rfl
@[simp] theorem modLaunch_imports : (s.modLaunch n f).imports = s.imports := rfl
@[simp] theorem modLaunch_railDown : (s.modLaunch n f).railDown = s.railDown := rfl
@[simp] theorem modLaunch_recFree : (s.modLaunch n f).recFree = s.recFree := rfl
@[simp] theorem modLaunch_rpint : (s.modLaunch n f).rpint = s.rpint := rfl
@[simp] theorem modLaunch_rpNext : (s.modLaunch n f).rpNext = s.rpNext := rfl
@[simp] theorem modLaunch_taking : (s.modLaunch n f).taking = s.taking := rfl
@[simp] theorem modLaunch_point : (s.modLaunch n f).point = s.point := rfl
@[simp] theorem modLaunch_supplied : (s.modLaunch n f).supplied = s.supplied := rfl
@[simp] theorem modLaunch_since : (s.modLaunch n f).since = s.since := rfl
@[simp] theorem modLaunch_launched : (s.modLaunch n f).launched = s.launched := rfl
@[simp] theorem modLaunch_outLog : (s.modLaunch n f).outLog = s.outLog := rfl
@[simp] theorem modLaunch_outOver : (s.modLaunch n f).outOver = s.outOver := rfl
@[simp] theorem modLaunch_wornThr : (s.modLaunch n f).wornThr = s.wornThr := rfl
@[simp] theorem modLaunch_corrected : (s.modLaunch n f).corrected = s.corrected := rfl
@[simp] theorem modLaunch_worn : (s.modLaunch n f).worn = s.worn := rfl
@[simp] theorem modLaunch_uncorrected : (s.modLaunch n f).uncorrected = s.uncorrected := rfl
@[simp] theorem modLaunch_withdrawn : (s.modLaunch n f).withdrawn = s.withdrawn := rfl
@[simp] theorem modLaunch_stops : (s.modLaunch n f).stops = s.stops := rfl
@[simp] theorem modLaunch_refresh : (s.modLaunch n f).refresh = s.refresh := rfl
@[simp] theorem modLaunch_heldIn : (s.modLaunch n f).heldIn = s.heldIn := rfl
theorem modLaunch_launches : (s.modLaunch n f).launches = tmod s.launches n f := rfl

end

/-! ### modOp -/

section
variable (s : State) (n : Nat) (f : Op → Op)
@[simp] theorem modOp_mem : (s.modOp n f).mem = s.mem := rfl
@[simp] theorem modOp_tags : (s.modOp n f).tags = s.tags := rfl
@[simp] theorem modOp_ctxs : (s.modOp n f).ctxs = s.ctxs := rfl
@[simp] theorem modOp_groups : (s.modOp n f).groups = s.groups := rfl
@[simp] theorem modOp_slotCtr : (s.modOp n f).slotCtr = s.slotCtr := rfl
@[simp] theorem modOp_threads : (s.modOp n f).threads = s.threads := rfl
@[simp] theorem modOp_crews : (s.modOp n f).crews = s.crews := rfl
@[simp] theorem modOp_savedCrews : (s.modOp n f).savedCrews = s.savedCrews := rfl
@[simp] theorem modOp_savedThreads : (s.modOp n f).savedThreads = s.savedThreads := rfl
@[simp] theorem modOp_nextCrew : (s.modOp n f).nextCrew = s.nextCrew := rfl
@[simp] theorem modOp_launches : (s.modOp n f).launches = s.launches := rfl
@[simp] theorem modOp_nextLaunch : (s.modOp n f).nextLaunch = s.nextLaunch := rfl
@[simp] theorem modOp_preempts : (s.modOp n f).preempts = s.preempts := rfl
@[simp] theorem modOp_nextOrder : (s.modOp n f).nextOrder = s.nextOrder := rfl
@[simp] theorem modOp_accs : (s.modOp n f).accs = s.accs := rfl
@[simp] theorem modOp_cmds : (s.modOp n f).cmds = s.cmds := rfl
@[simp] theorem modOp_softFences : (s.modOp n f).softFences = s.softFences := rfl
@[simp] theorem modOp_nextId : (s.modOp n f).nextId = s.nextId := rfl
@[simp] theorem modOp_waits : (s.modOp n f).waits = s.waits := rfl
@[simp] theorem modOp_overflow : (s.modOp n f).overflow = s.overflow := rfl
@[simp] theorem modOp_claims : (s.modOp n f).claims = s.claims := rfl
@[simp] theorem modOp_lapsed : (s.modOp n f).lapsed = s.lapsed := rfl
@[simp] theorem modOp_owners : (s.modOp n f).owners = s.owners := rfl
@[simp] theorem modOp_posted : (s.modOp n f).posted = s.posted := rfl
@[simp] theorem modOp_lampLast : (s.modOp n f).lampLast = s.lampLast := rfl
@[simp] theorem modOp_store : (s.modOp n f).store = s.store := rfl
@[simp] theorem modOp_otCache : (s.modOp n f).otCache = s.otCache := rfl
@[simp] theorem modOp_rcache : (s.modOp n f).rcache = s.rcache := rfl
@[simp] theorem modOp_rings : (s.modOp n f).rings = s.rings := rfl
@[simp] theorem modOp_ghosts : (s.modOp n f).ghosts = s.ghosts := rfl
@[simp] theorem modOp_fastFree : (s.modOp n f).fastFree = s.fastFree := rfl
@[simp] theorem modOp_engine : (s.modOp n f).engine = s.engine := rfl
@[simp] theorem modOp_bankQueue : (s.modOp n f).bankQueue = s.bankQueue := rfl
@[simp] theorem modOp_clock : (s.modOp n f).clock = s.clock := rfl
@[simp] theorem modOp_tick : (s.modOp n f).tick = s.tick := rfl
@[simp] theorem modOp_agenda : (s.modOp n f).agenda = s.agenda := rfl
@[simp] theorem modOp_cur : (s.modOp n f).cur = s.cur := rfl
@[simp] theorem modOp_ready : (s.modOp n f).ready = s.ready := rfl
@[simp] theorem modOp_bootFail : (s.modOp n f).bootFail = s.bootFail := rfl
@[simp] theorem modOp_msix : (s.modOp n f).msix = s.msix := rfl
@[simp] theorem modOp_slots : (s.modOp n f).slots = s.slots := rfl
@[simp] theorem modOp_mbox : (s.modOp n f).mbox = s.mbox := rfl
@[simp] theorem modOp_mbDrop : (s.modOp n f).mbDrop = s.mbDrop := rfl
@[simp] theorem modOp_mbPart : (s.modOp n f).mbPart = s.mbPart := rfl
@[simp] theorem modOp_pending : (s.modOp n f).pending = s.pending := rfl
@[simp] theorem modOp_ring : (s.modOp n f).ring = s.ring := rfl
@[simp] theorem modOp_reports : (s.modOp n f).reports = s.reports := rfl
@[simp] theorem modOp_surplus : (s.modOp n f).surplus = s.surplus := rfl
@[simp] theorem modOp_islands : (s.modOp n f).islands = s.islands := rfl
@[simp] theorem modOp_hot : (s.modOp n f).hot = s.hot := rfl
@[simp] theorem modOp_critical : (s.modOp n f).critical = s.critical := rfl
@[simp] theorem modOp_routes : (s.modOp n f).routes = s.routes := rfl
@[simp] theorem modOp_imports : (s.modOp n f).imports = s.imports := rfl
@[simp] theorem modOp_railDown : (s.modOp n f).railDown = s.railDown := rfl
@[simp] theorem modOp_recFree : (s.modOp n f).recFree = s.recFree := rfl
@[simp] theorem modOp_rpint : (s.modOp n f).rpint = s.rpint := rfl
@[simp] theorem modOp_rpNext : (s.modOp n f).rpNext = s.rpNext := rfl
@[simp] theorem modOp_taking : (s.modOp n f).taking = s.taking := rfl
@[simp] theorem modOp_point : (s.modOp n f).point = s.point := rfl
@[simp] theorem modOp_supplied : (s.modOp n f).supplied = s.supplied := rfl
@[simp] theorem modOp_since : (s.modOp n f).since = s.since := rfl
@[simp] theorem modOp_launched : (s.modOp n f).launched = s.launched := rfl
@[simp] theorem modOp_outLog : (s.modOp n f).outLog = s.outLog := rfl
@[simp] theorem modOp_outOver : (s.modOp n f).outOver = s.outOver := rfl
@[simp] theorem modOp_wornThr : (s.modOp n f).wornThr = s.wornThr := rfl
@[simp] theorem modOp_corrected : (s.modOp n f).corrected = s.corrected := rfl
@[simp] theorem modOp_worn : (s.modOp n f).worn = s.worn := rfl
@[simp] theorem modOp_uncorrected : (s.modOp n f).uncorrected = s.uncorrected := rfl
@[simp] theorem modOp_withdrawn : (s.modOp n f).withdrawn = s.withdrawn := rfl
@[simp] theorem modOp_stops : (s.modOp n f).stops = s.stops := rfl
@[simp] theorem modOp_refresh : (s.modOp n f).refresh = s.refresh := rfl
@[simp] theorem modOp_heldIn : (s.modOp n f).heldIn = s.heldIn := rfl
theorem modOp_ops : (s.modOp n f).ops = tmod s.ops n f := rfl

end

/-! ### modAcc -/

section
variable (s : State) (n : Nat) (f : Access → Access)
@[simp] theorem modAcc_mem : (s.modAcc n f).mem = s.mem := rfl
@[simp] theorem modAcc_tags : (s.modAcc n f).tags = s.tags := rfl
@[simp] theorem modAcc_ctxs : (s.modAcc n f).ctxs = s.ctxs := rfl
@[simp] theorem modAcc_groups : (s.modAcc n f).groups = s.groups := rfl
@[simp] theorem modAcc_slotCtr : (s.modAcc n f).slotCtr = s.slotCtr := rfl
@[simp] theorem modAcc_threads : (s.modAcc n f).threads = s.threads := rfl
@[simp] theorem modAcc_crews : (s.modAcc n f).crews = s.crews := rfl
@[simp] theorem modAcc_savedCrews : (s.modAcc n f).savedCrews = s.savedCrews := rfl
@[simp] theorem modAcc_savedThreads : (s.modAcc n f).savedThreads = s.savedThreads := rfl
@[simp] theorem modAcc_nextCrew : (s.modAcc n f).nextCrew = s.nextCrew := rfl
@[simp] theorem modAcc_launches : (s.modAcc n f).launches = s.launches := rfl
@[simp] theorem modAcc_nextLaunch : (s.modAcc n f).nextLaunch = s.nextLaunch := rfl
@[simp] theorem modAcc_preempts : (s.modAcc n f).preempts = s.preempts := rfl
@[simp] theorem modAcc_nextOrder : (s.modAcc n f).nextOrder = s.nextOrder := rfl
@[simp] theorem modAcc_ops : (s.modAcc n f).ops = s.ops := rfl
@[simp] theorem modAcc_cmds : (s.modAcc n f).cmds = s.cmds := rfl
@[simp] theorem modAcc_softFences : (s.modAcc n f).softFences = s.softFences := rfl
@[simp] theorem modAcc_nextId : (s.modAcc n f).nextId = s.nextId := rfl
@[simp] theorem modAcc_waits : (s.modAcc n f).waits = s.waits := rfl
@[simp] theorem modAcc_overflow : (s.modAcc n f).overflow = s.overflow := rfl
@[simp] theorem modAcc_claims : (s.modAcc n f).claims = s.claims := rfl
@[simp] theorem modAcc_lapsed : (s.modAcc n f).lapsed = s.lapsed := rfl
@[simp] theorem modAcc_owners : (s.modAcc n f).owners = s.owners := rfl
@[simp] theorem modAcc_posted : (s.modAcc n f).posted = s.posted := rfl
@[simp] theorem modAcc_lampLast : (s.modAcc n f).lampLast = s.lampLast := rfl
@[simp] theorem modAcc_store : (s.modAcc n f).store = s.store := rfl
@[simp] theorem modAcc_otCache : (s.modAcc n f).otCache = s.otCache := rfl
@[simp] theorem modAcc_rcache : (s.modAcc n f).rcache = s.rcache := rfl
@[simp] theorem modAcc_rings : (s.modAcc n f).rings = s.rings := rfl
@[simp] theorem modAcc_ghosts : (s.modAcc n f).ghosts = s.ghosts := rfl
@[simp] theorem modAcc_fastFree : (s.modAcc n f).fastFree = s.fastFree := rfl
@[simp] theorem modAcc_engine : (s.modAcc n f).engine = s.engine := rfl
@[simp] theorem modAcc_bankQueue : (s.modAcc n f).bankQueue = s.bankQueue := rfl
@[simp] theorem modAcc_clock : (s.modAcc n f).clock = s.clock := rfl
@[simp] theorem modAcc_tick : (s.modAcc n f).tick = s.tick := rfl
@[simp] theorem modAcc_agenda : (s.modAcc n f).agenda = s.agenda := rfl
@[simp] theorem modAcc_cur : (s.modAcc n f).cur = s.cur := rfl
@[simp] theorem modAcc_ready : (s.modAcc n f).ready = s.ready := rfl
@[simp] theorem modAcc_bootFail : (s.modAcc n f).bootFail = s.bootFail := rfl
@[simp] theorem modAcc_msix : (s.modAcc n f).msix = s.msix := rfl
@[simp] theorem modAcc_slots : (s.modAcc n f).slots = s.slots := rfl
@[simp] theorem modAcc_mbox : (s.modAcc n f).mbox = s.mbox := rfl
@[simp] theorem modAcc_mbDrop : (s.modAcc n f).mbDrop = s.mbDrop := rfl
@[simp] theorem modAcc_mbPart : (s.modAcc n f).mbPart = s.mbPart := rfl
@[simp] theorem modAcc_pending : (s.modAcc n f).pending = s.pending := rfl
@[simp] theorem modAcc_ring : (s.modAcc n f).ring = s.ring := rfl
@[simp] theorem modAcc_reports : (s.modAcc n f).reports = s.reports := rfl
@[simp] theorem modAcc_surplus : (s.modAcc n f).surplus = s.surplus := rfl
@[simp] theorem modAcc_islands : (s.modAcc n f).islands = s.islands := rfl
@[simp] theorem modAcc_hot : (s.modAcc n f).hot = s.hot := rfl
@[simp] theorem modAcc_critical : (s.modAcc n f).critical = s.critical := rfl
@[simp] theorem modAcc_routes : (s.modAcc n f).routes = s.routes := rfl
@[simp] theorem modAcc_imports : (s.modAcc n f).imports = s.imports := rfl
@[simp] theorem modAcc_railDown : (s.modAcc n f).railDown = s.railDown := rfl
@[simp] theorem modAcc_recFree : (s.modAcc n f).recFree = s.recFree := rfl
@[simp] theorem modAcc_rpint : (s.modAcc n f).rpint = s.rpint := rfl
@[simp] theorem modAcc_rpNext : (s.modAcc n f).rpNext = s.rpNext := rfl
@[simp] theorem modAcc_taking : (s.modAcc n f).taking = s.taking := rfl
@[simp] theorem modAcc_point : (s.modAcc n f).point = s.point := rfl
@[simp] theorem modAcc_supplied : (s.modAcc n f).supplied = s.supplied := rfl
@[simp] theorem modAcc_since : (s.modAcc n f).since = s.since := rfl
@[simp] theorem modAcc_launched : (s.modAcc n f).launched = s.launched := rfl
@[simp] theorem modAcc_outLog : (s.modAcc n f).outLog = s.outLog := rfl
@[simp] theorem modAcc_outOver : (s.modAcc n f).outOver = s.outOver := rfl
@[simp] theorem modAcc_wornThr : (s.modAcc n f).wornThr = s.wornThr := rfl
@[simp] theorem modAcc_corrected : (s.modAcc n f).corrected = s.corrected := rfl
@[simp] theorem modAcc_worn : (s.modAcc n f).worn = s.worn := rfl
@[simp] theorem modAcc_uncorrected : (s.modAcc n f).uncorrected = s.uncorrected := rfl
@[simp] theorem modAcc_withdrawn : (s.modAcc n f).withdrawn = s.withdrawn := rfl
@[simp] theorem modAcc_stops : (s.modAcc n f).stops = s.stops := rfl
@[simp] theorem modAcc_refresh : (s.modAcc n f).refresh = s.refresh := rfl
@[simp] theorem modAcc_heldIn : (s.modAcc n f).heldIn = s.heldIn := rfl
theorem modAcc_accs : (s.modAcc n f).accs = tmod s.accs n f := rfl

end

/-! ### modCmd -/

section
variable (s : State) (n : Nat) (f : Copy → Copy)
@[simp] theorem modCmd_mem : (s.modCmd n f).mem = s.mem := rfl
@[simp] theorem modCmd_tags : (s.modCmd n f).tags = s.tags := rfl
@[simp] theorem modCmd_ctxs : (s.modCmd n f).ctxs = s.ctxs := rfl
@[simp] theorem modCmd_groups : (s.modCmd n f).groups = s.groups := rfl
@[simp] theorem modCmd_slotCtr : (s.modCmd n f).slotCtr = s.slotCtr := rfl
@[simp] theorem modCmd_threads : (s.modCmd n f).threads = s.threads := rfl
@[simp] theorem modCmd_crews : (s.modCmd n f).crews = s.crews := rfl
@[simp] theorem modCmd_savedCrews : (s.modCmd n f).savedCrews = s.savedCrews := rfl
@[simp] theorem modCmd_savedThreads : (s.modCmd n f).savedThreads = s.savedThreads := rfl
@[simp] theorem modCmd_nextCrew : (s.modCmd n f).nextCrew = s.nextCrew := rfl
@[simp] theorem modCmd_launches : (s.modCmd n f).launches = s.launches := rfl
@[simp] theorem modCmd_nextLaunch : (s.modCmd n f).nextLaunch = s.nextLaunch := rfl
@[simp] theorem modCmd_preempts : (s.modCmd n f).preempts = s.preempts := rfl
@[simp] theorem modCmd_nextOrder : (s.modCmd n f).nextOrder = s.nextOrder := rfl
@[simp] theorem modCmd_ops : (s.modCmd n f).ops = s.ops := rfl
@[simp] theorem modCmd_accs : (s.modCmd n f).accs = s.accs := rfl
@[simp] theorem modCmd_softFences : (s.modCmd n f).softFences = s.softFences := rfl
@[simp] theorem modCmd_nextId : (s.modCmd n f).nextId = s.nextId := rfl
@[simp] theorem modCmd_waits : (s.modCmd n f).waits = s.waits := rfl
@[simp] theorem modCmd_overflow : (s.modCmd n f).overflow = s.overflow := rfl
@[simp] theorem modCmd_claims : (s.modCmd n f).claims = s.claims := rfl
@[simp] theorem modCmd_lapsed : (s.modCmd n f).lapsed = s.lapsed := rfl
@[simp] theorem modCmd_owners : (s.modCmd n f).owners = s.owners := rfl
@[simp] theorem modCmd_posted : (s.modCmd n f).posted = s.posted := rfl
@[simp] theorem modCmd_lampLast : (s.modCmd n f).lampLast = s.lampLast := rfl
@[simp] theorem modCmd_store : (s.modCmd n f).store = s.store := rfl
@[simp] theorem modCmd_otCache : (s.modCmd n f).otCache = s.otCache := rfl
@[simp] theorem modCmd_rcache : (s.modCmd n f).rcache = s.rcache := rfl
@[simp] theorem modCmd_rings : (s.modCmd n f).rings = s.rings := rfl
@[simp] theorem modCmd_ghosts : (s.modCmd n f).ghosts = s.ghosts := rfl
@[simp] theorem modCmd_fastFree : (s.modCmd n f).fastFree = s.fastFree := rfl
@[simp] theorem modCmd_engine : (s.modCmd n f).engine = s.engine := rfl
@[simp] theorem modCmd_bankQueue : (s.modCmd n f).bankQueue = s.bankQueue := rfl
@[simp] theorem modCmd_clock : (s.modCmd n f).clock = s.clock := rfl
@[simp] theorem modCmd_tick : (s.modCmd n f).tick = s.tick := rfl
@[simp] theorem modCmd_agenda : (s.modCmd n f).agenda = s.agenda := rfl
@[simp] theorem modCmd_cur : (s.modCmd n f).cur = s.cur := rfl
@[simp] theorem modCmd_ready : (s.modCmd n f).ready = s.ready := rfl
@[simp] theorem modCmd_bootFail : (s.modCmd n f).bootFail = s.bootFail := rfl
@[simp] theorem modCmd_msix : (s.modCmd n f).msix = s.msix := rfl
@[simp] theorem modCmd_slots : (s.modCmd n f).slots = s.slots := rfl
@[simp] theorem modCmd_mbox : (s.modCmd n f).mbox = s.mbox := rfl
@[simp] theorem modCmd_mbDrop : (s.modCmd n f).mbDrop = s.mbDrop := rfl
@[simp] theorem modCmd_mbPart : (s.modCmd n f).mbPart = s.mbPart := rfl
@[simp] theorem modCmd_pending : (s.modCmd n f).pending = s.pending := rfl
@[simp] theorem modCmd_ring : (s.modCmd n f).ring = s.ring := rfl
@[simp] theorem modCmd_reports : (s.modCmd n f).reports = s.reports := rfl
@[simp] theorem modCmd_surplus : (s.modCmd n f).surplus = s.surplus := rfl
@[simp] theorem modCmd_islands : (s.modCmd n f).islands = s.islands := rfl
@[simp] theorem modCmd_hot : (s.modCmd n f).hot = s.hot := rfl
@[simp] theorem modCmd_critical : (s.modCmd n f).critical = s.critical := rfl
@[simp] theorem modCmd_routes : (s.modCmd n f).routes = s.routes := rfl
@[simp] theorem modCmd_imports : (s.modCmd n f).imports = s.imports := rfl
@[simp] theorem modCmd_railDown : (s.modCmd n f).railDown = s.railDown := rfl
@[simp] theorem modCmd_recFree : (s.modCmd n f).recFree = s.recFree := rfl
@[simp] theorem modCmd_rpint : (s.modCmd n f).rpint = s.rpint := rfl
@[simp] theorem modCmd_rpNext : (s.modCmd n f).rpNext = s.rpNext := rfl
@[simp] theorem modCmd_taking : (s.modCmd n f).taking = s.taking := rfl
@[simp] theorem modCmd_point : (s.modCmd n f).point = s.point := rfl
@[simp] theorem modCmd_supplied : (s.modCmd n f).supplied = s.supplied := rfl
@[simp] theorem modCmd_since : (s.modCmd n f).since = s.since := rfl
@[simp] theorem modCmd_launched : (s.modCmd n f).launched = s.launched := rfl
@[simp] theorem modCmd_outLog : (s.modCmd n f).outLog = s.outLog := rfl
@[simp] theorem modCmd_outOver : (s.modCmd n f).outOver = s.outOver := rfl
@[simp] theorem modCmd_wornThr : (s.modCmd n f).wornThr = s.wornThr := rfl
@[simp] theorem modCmd_corrected : (s.modCmd n f).corrected = s.corrected := rfl
@[simp] theorem modCmd_worn : (s.modCmd n f).worn = s.worn := rfl
@[simp] theorem modCmd_uncorrected : (s.modCmd n f).uncorrected = s.uncorrected := rfl
@[simp] theorem modCmd_withdrawn : (s.modCmd n f).withdrawn = s.withdrawn := rfl
@[simp] theorem modCmd_stops : (s.modCmd n f).stops = s.stops := rfl
@[simp] theorem modCmd_refresh : (s.modCmd n f).refresh = s.refresh := rfl
@[simp] theorem modCmd_heldIn : (s.modCmd n f).heldIn = s.heldIn := rfl
theorem modCmd_cmds : (s.modCmd n f).cmds = tmod s.cmds n f := rfl

end

/-! ### raise -/

section
variable (s : State) (v : Nat)
@[simp] theorem raise_mem : (s.raise v).mem = s.mem := rfl
@[simp] theorem raise_tags : (s.raise v).tags = s.tags := rfl
@[simp] theorem raise_ctxs : (s.raise v).ctxs = s.ctxs := rfl
@[simp] theorem raise_groups : (s.raise v).groups = s.groups := rfl
@[simp] theorem raise_slotCtr : (s.raise v).slotCtr = s.slotCtr := rfl
@[simp] theorem raise_threads : (s.raise v).threads = s.threads := rfl
@[simp] theorem raise_crews : (s.raise v).crews = s.crews := rfl
@[simp] theorem raise_savedCrews : (s.raise v).savedCrews = s.savedCrews := rfl
@[simp] theorem raise_savedThreads : (s.raise v).savedThreads = s.savedThreads := rfl
@[simp] theorem raise_nextCrew : (s.raise v).nextCrew = s.nextCrew := rfl
@[simp] theorem raise_launches : (s.raise v).launches = s.launches := rfl
@[simp] theorem raise_nextLaunch : (s.raise v).nextLaunch = s.nextLaunch := rfl
@[simp] theorem raise_preempts : (s.raise v).preempts = s.preempts := rfl
@[simp] theorem raise_nextOrder : (s.raise v).nextOrder = s.nextOrder := rfl
@[simp] theorem raise_ops : (s.raise v).ops = s.ops := rfl
@[simp] theorem raise_accs : (s.raise v).accs = s.accs := rfl
@[simp] theorem raise_cmds : (s.raise v).cmds = s.cmds := rfl
@[simp] theorem raise_softFences : (s.raise v).softFences = s.softFences := rfl
@[simp] theorem raise_nextId : (s.raise v).nextId = s.nextId := rfl
@[simp] theorem raise_waits : (s.raise v).waits = s.waits := rfl
@[simp] theorem raise_overflow : (s.raise v).overflow = s.overflow := rfl
@[simp] theorem raise_claims : (s.raise v).claims = s.claims := rfl
@[simp] theorem raise_lapsed : (s.raise v).lapsed = s.lapsed := rfl
@[simp] theorem raise_owners : (s.raise v).owners = s.owners := rfl
@[simp] theorem raise_posted : (s.raise v).posted = s.posted := rfl
@[simp] theorem raise_lampLast : (s.raise v).lampLast = s.lampLast := rfl
@[simp] theorem raise_store : (s.raise v).store = s.store := rfl
@[simp] theorem raise_otCache : (s.raise v).otCache = s.otCache := rfl
@[simp] theorem raise_rcache : (s.raise v).rcache = s.rcache := rfl
@[simp] theorem raise_rings : (s.raise v).rings = s.rings := rfl
@[simp] theorem raise_ghosts : (s.raise v).ghosts = s.ghosts := rfl
@[simp] theorem raise_fastFree : (s.raise v).fastFree = s.fastFree := rfl
@[simp] theorem raise_engine : (s.raise v).engine = s.engine := rfl
@[simp] theorem raise_bankQueue : (s.raise v).bankQueue = s.bankQueue := rfl
@[simp] theorem raise_clock : (s.raise v).clock = s.clock := rfl
@[simp] theorem raise_tick : (s.raise v).tick = s.tick := rfl
@[simp] theorem raise_agenda : (s.raise v).agenda = s.agenda := rfl
@[simp] theorem raise_cur : (s.raise v).cur = s.cur := rfl
@[simp] theorem raise_ready : (s.raise v).ready = s.ready := rfl
@[simp] theorem raise_bootFail : (s.raise v).bootFail = s.bootFail := rfl
@[simp] theorem raise_slots : (s.raise v).slots = s.slots := rfl
@[simp] theorem raise_mbox : (s.raise v).mbox = s.mbox := rfl
@[simp] theorem raise_mbDrop : (s.raise v).mbDrop = s.mbDrop := rfl
@[simp] theorem raise_mbPart : (s.raise v).mbPart = s.mbPart := rfl
@[simp] theorem raise_pending : (s.raise v).pending = s.pending := rfl
@[simp] theorem raise_ring : (s.raise v).ring = s.ring := rfl
@[simp] theorem raise_reports : (s.raise v).reports = s.reports := rfl
@[simp] theorem raise_surplus : (s.raise v).surplus = s.surplus := rfl
@[simp] theorem raise_islands : (s.raise v).islands = s.islands := rfl
@[simp] theorem raise_hot : (s.raise v).hot = s.hot := rfl
@[simp] theorem raise_critical : (s.raise v).critical = s.critical := rfl
@[simp] theorem raise_routes : (s.raise v).routes = s.routes := rfl
@[simp] theorem raise_imports : (s.raise v).imports = s.imports := rfl
@[simp] theorem raise_railDown : (s.raise v).railDown = s.railDown := rfl
@[simp] theorem raise_recFree : (s.raise v).recFree = s.recFree := rfl
@[simp] theorem raise_rpint : (s.raise v).rpint = s.rpint := rfl
@[simp] theorem raise_rpNext : (s.raise v).rpNext = s.rpNext := rfl
@[simp] theorem raise_taking : (s.raise v).taking = s.taking := rfl
@[simp] theorem raise_point : (s.raise v).point = s.point := rfl
@[simp] theorem raise_supplied : (s.raise v).supplied = s.supplied := rfl
@[simp] theorem raise_since : (s.raise v).since = s.since := rfl
@[simp] theorem raise_launched : (s.raise v).launched = s.launched := rfl
@[simp] theorem raise_outLog : (s.raise v).outLog = s.outLog := rfl
@[simp] theorem raise_outOver : (s.raise v).outOver = s.outOver := rfl
@[simp] theorem raise_wornThr : (s.raise v).wornThr = s.wornThr := rfl
@[simp] theorem raise_corrected : (s.raise v).corrected = s.corrected := rfl
@[simp] theorem raise_worn : (s.raise v).worn = s.worn := rfl
@[simp] theorem raise_uncorrected : (s.raise v).uncorrected = s.uncorrected := rfl
@[simp] theorem raise_withdrawn : (s.raise v).withdrawn = s.withdrawn := rfl
@[simp] theorem raise_stops : (s.raise v).stops = s.stops := rfl
@[simp] theorem raise_refresh : (s.raise v).refresh = s.refresh := rfl
@[simp] theorem raise_heldIn : (s.raise v).heldIn = s.heldIn := rfl
theorem raise_msix : (s.raise v).msix = v :: s.msix := rfl

end

/-! ### memWrite -/

section
variable (s : State) (a : Nat) (bs : List Byte)
@[simp] theorem memWrite_ctxs : (s.memWrite a bs).ctxs = s.ctxs := rfl
@[simp] theorem memWrite_slotCtr : (s.memWrite a bs).slotCtr = s.slotCtr := rfl
@[simp] theorem memWrite_threads : (s.memWrite a bs).threads = s.threads := rfl
@[simp] theorem memWrite_crews : (s.memWrite a bs).crews = s.crews := rfl
@[simp] theorem memWrite_savedThreads : (s.memWrite a bs).savedThreads = s.savedThreads := rfl
@[simp] theorem memWrite_nextCrew : (s.memWrite a bs).nextCrew = s.nextCrew := rfl
@[simp] theorem memWrite_launches : (s.memWrite a bs).launches = s.launches := rfl
@[simp] theorem memWrite_nextLaunch : (s.memWrite a bs).nextLaunch = s.nextLaunch := rfl
@[simp] theorem memWrite_preempts : (s.memWrite a bs).preempts = s.preempts := rfl
@[simp] theorem memWrite_nextOrder : (s.memWrite a bs).nextOrder = s.nextOrder := rfl
@[simp] theorem memWrite_ops : (s.memWrite a bs).ops = s.ops := rfl
@[simp] theorem memWrite_accs : (s.memWrite a bs).accs = s.accs := rfl
@[simp] theorem memWrite_cmds : (s.memWrite a bs).cmds = s.cmds := rfl
@[simp] theorem memWrite_softFences : (s.memWrite a bs).softFences = s.softFences := rfl
@[simp] theorem memWrite_nextId : (s.memWrite a bs).nextId = s.nextId := rfl
@[simp] theorem memWrite_waits : (s.memWrite a bs).waits = s.waits := rfl
@[simp] theorem memWrite_overflow : (s.memWrite a bs).overflow = s.overflow := rfl
@[simp] theorem memWrite_claims : (s.memWrite a bs).claims = s.claims := rfl
@[simp] theorem memWrite_lapsed : (s.memWrite a bs).lapsed = s.lapsed := rfl
@[simp] theorem memWrite_owners : (s.memWrite a bs).owners = s.owners := rfl
@[simp] theorem memWrite_posted : (s.memWrite a bs).posted = s.posted := rfl
@[simp] theorem memWrite_lampLast : (s.memWrite a bs).lampLast = s.lampLast := rfl
@[simp] theorem memWrite_store : (s.memWrite a bs).store = s.store := rfl
@[simp] theorem memWrite_otCache : (s.memWrite a bs).otCache = s.otCache := rfl
@[simp] theorem memWrite_rcache : (s.memWrite a bs).rcache = s.rcache := rfl
@[simp] theorem memWrite_rings : (s.memWrite a bs).rings = s.rings := rfl
@[simp] theorem memWrite_ghosts : (s.memWrite a bs).ghosts = s.ghosts := rfl
@[simp] theorem memWrite_fastFree : (s.memWrite a bs).fastFree = s.fastFree := rfl
@[simp] theorem memWrite_engine : (s.memWrite a bs).engine = s.engine := rfl
@[simp] theorem memWrite_bankQueue : (s.memWrite a bs).bankQueue = s.bankQueue := rfl
@[simp] theorem memWrite_clock : (s.memWrite a bs).clock = s.clock := rfl
@[simp] theorem memWrite_tick : (s.memWrite a bs).tick = s.tick := rfl
@[simp] theorem memWrite_agenda : (s.memWrite a bs).agenda = s.agenda := rfl
@[simp] theorem memWrite_cur : (s.memWrite a bs).cur = s.cur := rfl
@[simp] theorem memWrite_ready : (s.memWrite a bs).ready = s.ready := rfl
@[simp] theorem memWrite_bootFail : (s.memWrite a bs).bootFail = s.bootFail := rfl
@[simp] theorem memWrite_msix : (s.memWrite a bs).msix = s.msix := rfl
@[simp] theorem memWrite_slots : (s.memWrite a bs).slots = s.slots := rfl
@[simp] theorem memWrite_mbox : (s.memWrite a bs).mbox = s.mbox := rfl
@[simp] theorem memWrite_mbDrop : (s.memWrite a bs).mbDrop = s.mbDrop := rfl
@[simp] theorem memWrite_mbPart : (s.memWrite a bs).mbPart = s.mbPart := rfl
@[simp] theorem memWrite_pending : (s.memWrite a bs).pending = s.pending := rfl
@[simp] theorem memWrite_ring : (s.memWrite a bs).ring = s.ring := rfl
@[simp] theorem memWrite_reports : (s.memWrite a bs).reports = s.reports := rfl
@[simp] theorem memWrite_surplus : (s.memWrite a bs).surplus = s.surplus := rfl
@[simp] theorem memWrite_islands : (s.memWrite a bs).islands = s.islands := rfl
@[simp] theorem memWrite_hot : (s.memWrite a bs).hot = s.hot := rfl
@[simp] theorem memWrite_critical : (s.memWrite a bs).critical = s.critical := rfl
@[simp] theorem memWrite_routes : (s.memWrite a bs).routes = s.routes := rfl
@[simp] theorem memWrite_imports : (s.memWrite a bs).imports = s.imports := rfl
@[simp] theorem memWrite_railDown : (s.memWrite a bs).railDown = s.railDown := rfl
@[simp] theorem memWrite_recFree : (s.memWrite a bs).recFree = s.recFree := rfl
@[simp] theorem memWrite_rpint : (s.memWrite a bs).rpint = s.rpint := rfl
@[simp] theorem memWrite_rpNext : (s.memWrite a bs).rpNext = s.rpNext := rfl
@[simp] theorem memWrite_taking : (s.memWrite a bs).taking = s.taking := rfl
@[simp] theorem memWrite_point : (s.memWrite a bs).point = s.point := rfl
@[simp] theorem memWrite_supplied : (s.memWrite a bs).supplied = s.supplied := rfl
@[simp] theorem memWrite_since : (s.memWrite a bs).since = s.since := rfl
@[simp] theorem memWrite_launched : (s.memWrite a bs).launched = s.launched := rfl
@[simp] theorem memWrite_outLog : (s.memWrite a bs).outLog = s.outLog := rfl
@[simp] theorem memWrite_outOver : (s.memWrite a bs).outOver = s.outOver := rfl
@[simp] theorem memWrite_wornThr : (s.memWrite a bs).wornThr = s.wornThr := rfl
@[simp] theorem memWrite_corrected : (s.memWrite a bs).corrected = s.corrected := rfl
@[simp] theorem memWrite_worn : (s.memWrite a bs).worn = s.worn := rfl
@[simp] theorem memWrite_uncorrected : (s.memWrite a bs).uncorrected = s.uncorrected := rfl
@[simp] theorem memWrite_withdrawn : (s.memWrite a bs).withdrawn = s.withdrawn := rfl
@[simp] theorem memWrite_stops : (s.memWrite a bs).stops = s.stops := rfl
@[simp] theorem memWrite_refresh : (s.memWrite a bs).refresh = s.refresh := rfl
@[simp] theorem memWrite_heldIn : (s.memWrite a bs).heldIn = s.heldIn := rfl
@[simp] theorem memWrite_mem : (s.memWrite a bs).mem = mputs s.mem a bs := rfl

end

/-! ### memPuts -/

section
variable (s : State) (ws : List (Nat × List Byte))
@[simp] theorem memPuts_ctxs : (s.memPuts ws).ctxs = s.ctxs := rfl
@[simp] theorem memPuts_slotCtr : (s.memPuts ws).slotCtr = s.slotCtr := rfl
@[simp] theorem memPuts_threads : (s.memPuts ws).threads = s.threads := rfl
@[simp] theorem memPuts_crews : (s.memPuts ws).crews = s.crews := rfl
@[simp] theorem memPuts_savedThreads : (s.memPuts ws).savedThreads = s.savedThreads := rfl
@[simp] theorem memPuts_nextCrew : (s.memPuts ws).nextCrew = s.nextCrew := rfl
@[simp] theorem memPuts_launches : (s.memPuts ws).launches = s.launches := rfl
@[simp] theorem memPuts_nextLaunch : (s.memPuts ws).nextLaunch = s.nextLaunch := rfl
@[simp] theorem memPuts_preempts : (s.memPuts ws).preempts = s.preempts := rfl
@[simp] theorem memPuts_nextOrder : (s.memPuts ws).nextOrder = s.nextOrder := rfl
@[simp] theorem memPuts_ops : (s.memPuts ws).ops = s.ops := rfl
@[simp] theorem memPuts_accs : (s.memPuts ws).accs = s.accs := rfl
@[simp] theorem memPuts_cmds : (s.memPuts ws).cmds = s.cmds := rfl
@[simp] theorem memPuts_softFences : (s.memPuts ws).softFences = s.softFences := rfl
@[simp] theorem memPuts_nextId : (s.memPuts ws).nextId = s.nextId := rfl
@[simp] theorem memPuts_waits : (s.memPuts ws).waits = s.waits := rfl
@[simp] theorem memPuts_overflow : (s.memPuts ws).overflow = s.overflow := rfl
@[simp] theorem memPuts_claims : (s.memPuts ws).claims = s.claims := rfl
@[simp] theorem memPuts_lapsed : (s.memPuts ws).lapsed = s.lapsed := rfl
@[simp] theorem memPuts_owners : (s.memPuts ws).owners = s.owners := rfl
@[simp] theorem memPuts_posted : (s.memPuts ws).posted = s.posted := rfl
@[simp] theorem memPuts_lampLast : (s.memPuts ws).lampLast = s.lampLast := rfl
@[simp] theorem memPuts_store : (s.memPuts ws).store = s.store := rfl
@[simp] theorem memPuts_otCache : (s.memPuts ws).otCache = s.otCache := rfl
@[simp] theorem memPuts_rcache : (s.memPuts ws).rcache = s.rcache := rfl
@[simp] theorem memPuts_rings : (s.memPuts ws).rings = s.rings := rfl
@[simp] theorem memPuts_ghosts : (s.memPuts ws).ghosts = s.ghosts := rfl
@[simp] theorem memPuts_fastFree : (s.memPuts ws).fastFree = s.fastFree := rfl
@[simp] theorem memPuts_engine : (s.memPuts ws).engine = s.engine := rfl
@[simp] theorem memPuts_bankQueue : (s.memPuts ws).bankQueue = s.bankQueue := rfl
@[simp] theorem memPuts_clock : (s.memPuts ws).clock = s.clock := rfl
@[simp] theorem memPuts_tick : (s.memPuts ws).tick = s.tick := rfl
@[simp] theorem memPuts_agenda : (s.memPuts ws).agenda = s.agenda := rfl
@[simp] theorem memPuts_cur : (s.memPuts ws).cur = s.cur := rfl
@[simp] theorem memPuts_ready : (s.memPuts ws).ready = s.ready := rfl
@[simp] theorem memPuts_bootFail : (s.memPuts ws).bootFail = s.bootFail := rfl
@[simp] theorem memPuts_msix : (s.memPuts ws).msix = s.msix := rfl
@[simp] theorem memPuts_slots : (s.memPuts ws).slots = s.slots := rfl
@[simp] theorem memPuts_mbox : (s.memPuts ws).mbox = s.mbox := rfl
@[simp] theorem memPuts_mbDrop : (s.memPuts ws).mbDrop = s.mbDrop := rfl
@[simp] theorem memPuts_mbPart : (s.memPuts ws).mbPart = s.mbPart := rfl
@[simp] theorem memPuts_pending : (s.memPuts ws).pending = s.pending := rfl
@[simp] theorem memPuts_ring : (s.memPuts ws).ring = s.ring := rfl
@[simp] theorem memPuts_reports : (s.memPuts ws).reports = s.reports := rfl
@[simp] theorem memPuts_surplus : (s.memPuts ws).surplus = s.surplus := rfl
@[simp] theorem memPuts_islands : (s.memPuts ws).islands = s.islands := rfl
@[simp] theorem memPuts_hot : (s.memPuts ws).hot = s.hot := rfl
@[simp] theorem memPuts_critical : (s.memPuts ws).critical = s.critical := rfl
@[simp] theorem memPuts_routes : (s.memPuts ws).routes = s.routes := rfl
@[simp] theorem memPuts_imports : (s.memPuts ws).imports = s.imports := rfl
@[simp] theorem memPuts_railDown : (s.memPuts ws).railDown = s.railDown := rfl
@[simp] theorem memPuts_recFree : (s.memPuts ws).recFree = s.recFree := rfl
@[simp] theorem memPuts_rpint : (s.memPuts ws).rpint = s.rpint := rfl
@[simp] theorem memPuts_rpNext : (s.memPuts ws).rpNext = s.rpNext := rfl
@[simp] theorem memPuts_taking : (s.memPuts ws).taking = s.taking := rfl
@[simp] theorem memPuts_point : (s.memPuts ws).point = s.point := rfl
@[simp] theorem memPuts_supplied : (s.memPuts ws).supplied = s.supplied := rfl
@[simp] theorem memPuts_since : (s.memPuts ws).since = s.since := rfl
@[simp] theorem memPuts_launched : (s.memPuts ws).launched = s.launched := rfl
@[simp] theorem memPuts_outLog : (s.memPuts ws).outLog = s.outLog := rfl
@[simp] theorem memPuts_outOver : (s.memPuts ws).outOver = s.outOver := rfl
@[simp] theorem memPuts_wornThr : (s.memPuts ws).wornThr = s.wornThr := rfl
@[simp] theorem memPuts_corrected : (s.memPuts ws).corrected = s.corrected := rfl
@[simp] theorem memPuts_worn : (s.memPuts ws).worn = s.worn := rfl
@[simp] theorem memPuts_uncorrected : (s.memPuts ws).uncorrected = s.uncorrected := rfl
@[simp] theorem memPuts_withdrawn : (s.memPuts ws).withdrawn = s.withdrawn := rfl
@[simp] theorem memPuts_stops : (s.memPuts ws).stops = s.stops := rfl
@[simp] theorem memPuts_refresh : (s.memPuts ws).refresh = s.refresh := rfl
@[simp] theorem memPuts_heldIn : (s.memPuts ws).heldIn = s.heldIn := rfl

end

/-! ### release -/

section
variable (s : State) (g : Nat)
/-- The end of a region writes the lapsed claims and nothing else. -/
theorem lapse_eq : s.lapse g = { s with lapsed := (s.lapse g).lapsed } := by unfold State.lapse; split <;> rfl
theorem release_eq : s.release g = { s with lapsed := (s.release g).lapsed, slotCtr := (s.release g).slotCtr, claims := (s.release g).claims
                                            groups := (s.release g).groups } := by
  have h := lapse_eq s g
  unfold State.release State.setCtr; rw [h]
@[simp] theorem release_accs : (s.release g).accs = s.accs := by rw [release_eq]
@[simp] theorem release_mem : (s.release g).mem = s.mem := by rw [release_eq]
@[simp] theorem release_tags : (s.release g).tags = s.tags := by rw [release_eq]
@[simp] theorem release_ctxs : (s.release g).ctxs = s.ctxs := by rw [release_eq]
@[simp] theorem release_threads : (s.release g).threads = s.threads := by rw [release_eq]
@[simp] theorem release_crews : (s.release g).crews = s.crews := by rw [release_eq]
@[simp] theorem release_savedCrews : (s.release g).savedCrews = s.savedCrews := by rw [release_eq]
@[simp] theorem release_savedThreads : (s.release g).savedThreads = s.savedThreads := by rw [release_eq]
@[simp] theorem release_nextCrew : (s.release g).nextCrew = s.nextCrew := by rw [release_eq]
@[simp] theorem release_launches : (s.release g).launches = s.launches := by rw [release_eq]
@[simp] theorem release_nextLaunch : (s.release g).nextLaunch = s.nextLaunch := by rw [release_eq]
@[simp] theorem release_preempts : (s.release g).preempts = s.preempts := by rw [release_eq]
@[simp] theorem release_nextOrder : (s.release g).nextOrder = s.nextOrder := by rw [release_eq]
@[simp] theorem release_ops : (s.release g).ops = s.ops := by rw [release_eq]
@[simp] theorem release_cmds : (s.release g).cmds = s.cmds := by rw [release_eq]
@[simp] theorem release_softFences : (s.release g).softFences = s.softFences := by rw [release_eq]
@[simp] theorem release_nextId : (s.release g).nextId = s.nextId := by rw [release_eq]
@[simp] theorem release_waits : (s.release g).waits = s.waits := by rw [release_eq]
@[simp] theorem release_overflow : (s.release g).overflow = s.overflow := by rw [release_eq]
@[simp] theorem release_owners : (s.release g).owners = s.owners := by rw [release_eq]
@[simp] theorem release_posted : (s.release g).posted = s.posted := by rw [release_eq]
@[simp] theorem release_lampLast : (s.release g).lampLast = s.lampLast := by rw [release_eq]
@[simp] theorem release_store : (s.release g).store = s.store := by rw [release_eq]
@[simp] theorem release_otCache : (s.release g).otCache = s.otCache := by rw [release_eq]
@[simp] theorem release_rcache : (s.release g).rcache = s.rcache := by rw [release_eq]
@[simp] theorem release_rings : (s.release g).rings = s.rings := by rw [release_eq]
@[simp] theorem release_ghosts : (s.release g).ghosts = s.ghosts := by rw [release_eq]
@[simp] theorem release_fastFree : (s.release g).fastFree = s.fastFree := by rw [release_eq]
@[simp] theorem release_engine : (s.release g).engine = s.engine := by rw [release_eq]
@[simp] theorem release_bankQueue : (s.release g).bankQueue = s.bankQueue := by rw [release_eq]
@[simp] theorem release_clock : (s.release g).clock = s.clock := by rw [release_eq]
@[simp] theorem release_tick : (s.release g).tick = s.tick := by rw [release_eq]
@[simp] theorem release_agenda : (s.release g).agenda = s.agenda := by rw [release_eq]
@[simp] theorem release_cur : (s.release g).cur = s.cur := by rw [release_eq]
@[simp] theorem release_ready : (s.release g).ready = s.ready := by rw [release_eq]
@[simp] theorem release_bootFail : (s.release g).bootFail = s.bootFail := by rw [release_eq]
@[simp] theorem release_msix : (s.release g).msix = s.msix := by rw [release_eq]
@[simp] theorem release_slots : (s.release g).slots = s.slots := by rw [release_eq]
@[simp] theorem release_mbox : (s.release g).mbox = s.mbox := by rw [release_eq]
@[simp] theorem release_mbDrop : (s.release g).mbDrop = s.mbDrop := by rw [release_eq]
@[simp] theorem release_mbPart : (s.release g).mbPart = s.mbPart := by rw [release_eq]
@[simp] theorem release_pending : (s.release g).pending = s.pending := by rw [release_eq]
@[simp] theorem release_ring : (s.release g).ring = s.ring := by rw [release_eq]
@[simp] theorem release_reports : (s.release g).reports = s.reports := by rw [release_eq]
@[simp] theorem release_surplus : (s.release g).surplus = s.surplus := by rw [release_eq]
@[simp] theorem release_islands : (s.release g).islands = s.islands := by rw [release_eq]
@[simp] theorem release_hot : (s.release g).hot = s.hot := by rw [release_eq]
@[simp] theorem release_critical : (s.release g).critical = s.critical := by rw [release_eq]
@[simp] theorem release_routes : (s.release g).routes = s.routes := by rw [release_eq]
@[simp] theorem release_imports : (s.release g).imports = s.imports := by rw [release_eq]
@[simp] theorem release_railDown : (s.release g).railDown = s.railDown := by rw [release_eq]
@[simp] theorem release_recFree : (s.release g).recFree = s.recFree := by rw [release_eq]
@[simp] theorem release_rpint : (s.release g).rpint = s.rpint := by rw [release_eq]
@[simp] theorem release_rpNext : (s.release g).rpNext = s.rpNext := by rw [release_eq]
@[simp] theorem release_taking : (s.release g).taking = s.taking := by rw [release_eq]
@[simp] theorem release_point : (s.release g).point = s.point := by rw [release_eq]
@[simp] theorem release_supplied : (s.release g).supplied = s.supplied := by rw [release_eq]
@[simp] theorem release_since : (s.release g).since = s.since := by rw [release_eq]
@[simp] theorem release_launched : (s.release g).launched = s.launched := by rw [release_eq]
@[simp] theorem release_outLog : (s.release g).outLog = s.outLog := by rw [release_eq]
@[simp] theorem release_outOver : (s.release g).outOver = s.outOver := by rw [release_eq]
@[simp] theorem release_wornThr : (s.release g).wornThr = s.wornThr := by rw [release_eq]
@[simp] theorem release_corrected : (s.release g).corrected = s.corrected := by rw [release_eq]
@[simp] theorem release_worn : (s.release g).worn = s.worn := by rw [release_eq]
@[simp] theorem release_uncorrected : (s.release g).uncorrected = s.uncorrected := by rw [release_eq]
@[simp] theorem release_withdrawn : (s.release g).withdrawn = s.withdrawn := by rw [release_eq]
@[simp] theorem release_stops : (s.release g).stops = s.stops := by rw [release_eq]
@[simp] theorem release_refresh : (s.release g).refresh = s.refresh := by rw [release_eq]
@[simp] theorem release_heldIn : (s.release g).heldIn = s.heldIn := by rw [release_eq]

end

end Sys2Proof.Machine.State
end

