-- ==== Sys2Proof/Laws/Ops.lean ====
section
/-! SUPPORT. What each shared operation does, said once: who performs a word and what stops it (Operands.lean), reading and
writing registers and lanes, taking a trap and returning from one, and writes at the home of a byte (Ops.lean). -/
namespace Sys2Proof.Machine

/-! ### Who performs a word -/

section
variable {s : State} {g : Nat} {gr : Group} {t : Nat} {th : Thread} {takes : Bool}
  {checks : Group → List (Bool × Nat)} {roles : Role → Bool} {body : Nat → Group → Out} {act : Nat → Group → State}

/-- A `hix` stops a group's word unless the word has a field that it widens. -/
theorem not_hix_stops (hx : s.cur.hix = none ∨ takes = true) : (s.cur.hix.isSome && !takes) = false := by
  rcases hx with h | h <;> simp [h]

/-- A group's word that nothing stops is performed. -/
theorem groupWord_performs (hw : s.cur.who = .group g) (hg : s.group? g = some gr) (hx : s.cur.hix = none ∨ takes = true)
    (hc : firstFail (checks gr) = none) (hr : roles gr.role = true) : groupWord s takes checks roles body = body g gr := by
  simp [groupWord, hw, hg, not_hix_stops hx, hc, hr]

/-- A `hix` before a word without a widened field: UNDEF with reason 3, counted as the profile counts. -/
theorem groupWord_hix (hw : s.cur.who = .group g) (hg : s.group? g = some gr) (hx : s.cur.hix ≠ none) :
    groupWord s false checks roles body = .next ((s.countRefused g gr).undef g 3) := by
  simp [groupWord, hw, hg, Option.isSome_iff_ne_none.2 hx]

/-- A check that fails: UNDEF with its reason, the first one. -/
theorem groupWord_undef {r : Nat} (hw : s.cur.who = .group g) (hg : s.group? g = some gr) (hx : s.cur.hix = none ∨ takes = true)
    (hc : firstFail (checks gr) = some r) : groupWord s takes checks roles body = .next ((s.countRefused g gr).undef g r) := by
  simp [groupWord, hw, hg, not_hix_stops hx, hc]

/-- A role that may not issue the word: ROLE, once UNDEF does not stop it. -/
theorem groupWord_role (hw : s.cur.who = .group g) (hg : s.group? g = some gr) (hx : s.cur.hix = none ∨ takes = true)
    (hc : firstFail (checks gr) = none) (hr : roles gr.role = false) :
    groupWord s takes checks roles body = .next ((s.countRefused g gr).roleTrap g gr.role) := by
  simp [groupWord, hw, hg, not_hix_stops hx, hc, hr]

/-- A group's word in a thread: L2UNDEF. -/
theorem groupWord_thread (hw : s.cur.who = .thread t) : groupWord s takes checks roles body = .next (s.l2fault t .undef 0) := by
  simp [groupWord, hw]

theorem isEmpty_eq_false {l : List Nat} (h : l ≠ []) : l.isEmpty = false := by cases l <;> simp_all

/-- A word on the active lanes is performed when there are some. -/
theorem actWord_performs (hw : s.cur.who = .group g) (hg : s.group? g = some gr) (ha : s.cur.act ≠ [])
    (hx : s.cur.hix = none ∨ takes = true) (hc : firstFail (checks gr) = none) (hr : roles gr.role = true) :
    actWord s takes checks roles act = .next (act g gr) := by
  rw [actWord, groupWord_performs hw hg hx hc hr]
  simp [isEmpty_eq_false ha]

/-- With an empty active set it changes nothing (R31). -/
theorem actWord_empty (hw : s.cur.who = .group g) (hg : s.group? g = some gr) (ha : s.cur.act = [])
    (hx : s.cur.hix = none ∨ takes = true) (hc : firstFail (checks gr) = none) (hr : roles gr.role = true) :
    actWord s takes checks roles act = .next s := by
  rw [actWord, groupWord_performs hw hg hx hc hr]
  simp [ha]

theorem actWord_hix (hw : s.cur.who = .group g) (hg : s.group? g = some gr) (hx : s.cur.hix ≠ none) :
    actWord s false checks roles act = .next ((s.countRefused g gr).undef g 3) := groupWord_hix hw hg hx

theorem actWord_undef {r : Nat} (hw : s.cur.who = .group g) (hg : s.group? g = some gr) (hx : s.cur.hix = none ∨ takes = true)
    (hc : firstFail (checks gr) = some r) : actWord s takes checks roles act = .next ((s.countRefused g gr).undef g r) :=
  groupWord_undef hw hg hx hc

theorem actWord_role (hw : s.cur.who = .group g) (hg : s.group? g = some gr) (hx : s.cur.hix = none ∨ takes = true)
    (hc : firstFail (checks gr) = none) (hr : roles gr.role = false) :
    actWord s takes checks roles act = .next ((s.countRefused g gr).roleTrap g gr.role) := groupWord_role hw hg hx hc hr

theorem actWord_thread (hw : s.cur.who = .thread t) : actWord s takes checks roles act = .next (s.l2fault t .undef 0) :=
  groupWord_thread hw

/-- A word lane by lane writes the active lanes and nothing else. -/
theorem laneWord_performs {f : Lane → Lane} (hw : s.cur.who = .group g) (hg : s.group? g = some gr) (ha : s.cur.act ≠ [])
    (hx : s.cur.hix = none ∨ takes = true) (hc : firstFail (checks gr) = none) :
    laneWord s takes checks f = .next (s.modGroup g fun x => x.onLanes s.cur.act fun _ l => f l) := by
  rw [laneWord, actWord_performs hw hg ha hx hc rfl]

/-- A word across the lanes reads them from the group as it stood before. -/
theorem exchange_performs {f : Group → Nat → Lane → Lane} (hw : s.cur.who = .group g) (hg : s.group? g = some gr)
    (ha : s.cur.act ≠ []) (hx : s.cur.hix = none) (hc : firstFail (checks gr) = none) :
    exchange s checks f = .next (s.modGroup g fun x => x.onLanes s.cur.act fun i l => f gr i l) := by
  rw [exchange, actWord_performs hw hg ha (.inl hx) hc rfl]

/-- A scalar word of a group writes sd once. -/
theorem scalarWord_group {bad : Bool} {d : BitVec 5} {f : Option (BitVec 25) → (BitVec 5 → DWord) → DWord}
    (hw : s.cur.who = .group g) (hg : s.group? g = some gr) (ha : s.cur.act ≠ []) (hx : s.cur.hix = none ∨ takes = true)
    (hb : bad = false) :
    scalarWord s takes bad d f = .next (s.modGroup g fun x => x.ws d.toNat (f s.cur.hix fun r => gr.rs r.toNat)) := by
  simp only [scalarWord, hw]
  rw [actWord_performs hw hg ha hx (by simp [firstFail, hb]) rfl]

/-- A scalar word of a thread writes ld and moves the PC on. -/
theorem scalarWord_thread {bad : Bool} {d : BitVec 5} {f : Option (BitVec 25) → (BitVec 5 → DWord) → DWord}
    (hw : s.cur.who = .thread t) (ht : s.thread? t = some th) (hb : bad = false) :
    scalarWord s takes bad d f =
      .next (s.modThread t fun x => { x.wl d.toNat (f none fun r => th.rl r.toNat) with pc := x.pc + 4 }) := by
  simp [scalarWord, hw, ht, hb, State.threadDone]

/-- A thread's word, in a thread and in a group. -/
theorem threadWord_thread {body : Nat → Thread → Out} (hw : s.cur.who = .thread t) (ht : s.thread? t = some th) :
    threadWord s body = body t th := by
  simp [threadWord, threadOnly, hw, ht]

theorem threadWord_group {body : Nat → Thread → Out} (hw : s.cur.who = .group g) (hx : s.cur.hix = none) :
    threadWord s body = .next (s.undef g 7) := by
  simp [threadWord, threadOnly, hw, hx]

theorem threadWord_hix {body : Nat → Thread → Out} (hw : s.cur.who = .group g) (hx : s.cur.hix ≠ none) :
    threadWord s body = .next (s.undef g 3) := by
  simp [threadWord, threadOnly, hw, Option.isSome_iff_ne_none.2 hx]

/-- Single registers below the declared count pass the check of R20; one at or beyond it fails with reason 5. -/
theorem v1_passes {rs : List (BitVec 7)} (h : ∀ r ∈ rs, r.toNat < gr.regs) : v1 gr rs = (false, 5) := by
  simp only [v1, vOk, Prod.mk.injEq, and_true, Bool.not_eq_false', List.all_eq_true]
  intro r hr
  have := h r hr
  simp
  omega

theorem v1_fails {rs : List (BitVec 7)} (h : ∃ r ∈ rs, gr.regs ≤ r.toNat) : v1 gr rs = (true, 5) := by
  obtain ⟨r, hr, hn⟩ := h
  simp only [v1, vOk, Prod.mk.injEq, and_true, Bool.not_eq_true', List.all_eq_false]
  refine ⟨r, hr, ?_⟩
  simp
  omega

end

/-! ### Immediates (R260) -/

/-- The value of n bits as a two's complement number is that of the bit vector. -/
theorem sval_toNat {n : Nat} (x : BitVec n) (hn : 0 < n) : sval n x.toNat = x.toInt := by
  simp only [sval, Nat.mod_eq_of_lt x.isLt, BitVec.toInt_eq_toNat_cond]
  have : 2 ^ n = 2 * 2 ^ (n - 1) := by
    rw [← Nat.pow_succ']
    congr
    omega
  split <;> split <;> first | rfl | omega

/-- A signed field alone, and with the payload of a `hix` above it. -/
theorem immS_none {n : Nat} (x : BitVec n) (hn : 0 < n) : immS none n x.toNat = x.toInt := sval_toNat x hn

theorem immS_some {n : Nat} (p : BitVec 25) (x : BitVec n) : immS (some p) n x.toNat = (p ++ x).toInt := by
  have e : p.toNat * 2 ^ n + x.toNat = (p ++ x).toNat := by
    rw [BitVec.toNat_append, ← Nat.shiftLeft_add_eq_or_of_lt x.isLt, Nat.shiftLeft_eq]
  rw [immS, e, Nat.add_comm n 25, sval_toNat _ (by omega)]

theorem immU_some {n : Nat} (p : BitVec 25) (x : BitVec n) : immU (some p) n x.toNat = (p ++ x).toNat := by
  rw [immU, BitVec.toNat_append, ← Nat.shiftLeft_add_eq_or_of_lt x.isLt, Nat.shiftLeft_eq]

/-! ### Registers and lanes -/

/-- s0 reads zero and discards what is written; another register reads what was written (R19). -/
theorem Group.rs_zero (gr : Group) : gr.rs 0 = 0 := rfl
theorem Group.ws_zero (gr : Group) (x : DWord) : gr.ws 0 x = gr := rfl
theorem Group.rs_ws_same (gr : Group) {r : Nat} (x : DWord) (h0 : r ≠ 0) (h : r < gr.s.length) : (gr.ws r x).rs r = x := by
  simp [Group.rs, Group.ws, h0, h]
theorem Group.rs_ws_other (gr : Group) {r q : Nat} (x : DWord) (h : q ≠ r) : (gr.ws r x).rs q = gr.rs q := by
  unfold Group.rs Group.ws
  by_cases h0 : r = 0 <;> by_cases hq : q = 0 <;> simp [h0, hq, h.symm]
theorem Group.rk_wk_same (gr : Group) {r : Nat} (c : Cap) (h : r < gr.k.length) : (gr.wk r c).rk r = c := by
  simp [Group.rk, Group.wk, h]
theorem Group.rk_wk_other (gr : Group) {r q : Nat} (c : Cap) (h : q ≠ r) : (gr.wk r c).rk q = gr.rk q := by
  simp [Group.rk, Group.wk, h.symm]
theorem Thread.rl_wl_same (t : Thread) {r : Nat} (x : DWord) (h0 : r ≠ 0) (h : r < t.l.length) : (t.wl r x).rl r = x := by
  simp [Thread.rl, Thread.wl, h0, h]
theorem Thread.rl_wl_other (t : Thread) {r q : Nat} (x : DWord) (h : q ≠ r) : (t.wl r x).rl q = t.rl q := by
  unfold Thread.rl Thread.wl
  by_cases h0 : r = 0 <;> by_cases hq : q = 0 <;> simp [h0, hq, h.symm]
theorem Thread.pc_wl (t : Thread) (r : Nat) (x : DWord) : (t.wl r x).pc = t.pc := by
  unfold Thread.wl
  split <;> rfl

/-- p0 reads true and discards what is written (R19). -/
theorem Lane.pred_zero (l : Lane) : l.pred 0 = true := rfl
theorem Lane.setPred_zero (l : Lane) (b : Bool) : l.setPred 0 b = l := rfl
theorem Lane.rd_wr_same (l : Lane) {r : Nat} (x : Word) (h : r < l.v.length) : (l.wr r x).rd r = x := by
  simp [Lane.rd, Lane.wr, h]
theorem Lane.rd_wr_other (l : Lane) {r q : Nat} (x : Word) (h : q ≠ r) : (l.wr r x).rd q = l.rd q := by
  simp [Lane.rd, Lane.wr, h.symm]

/-- A lane of the active set is changed, another is as before. -/
theorem mapLanes_getElem? (act : List Nat) (f : Nat → Lane → Lane) : ∀ (ls : List Lane) (i n : Nat),
    (mapLanes act f ls i)[n]? = (ls[n]?).map fun l => if act.contains (i + n) then f (i + n) l else l := by
  intro ls
  induction ls with
  | nil => simp [mapLanes]
  | cons l r ih =>
    intro i n
    cases n with
    | zero => simp [mapLanes]
    | succ n => simp [mapLanes, ih, Nat.add_assoc, Nat.add_comm 1 n]

theorem Group.lane_onLanes (gr : Group) (act : List Nat) (f : Nat → Lane → Lane) {n : Nat} (h : n < gr.lanes.length) :
    (gr.onLanes act f).lane n = if act.contains n then f n (gr.lane n) else gr.lane n := by
  simp only [Group.lane, Group.onLanes, mapLanes_getElem?, Nat.zero_add, List.getElem?_eq_getElem h, Option.map_some, Option.getD_some]

theorem Group.length_onLanes (gr : Group) (act : List Nat) (f : Nat → Lane → Lane) :
    (gr.onLanes act f).lanes.length = gr.lanes.length := by
  have : ∀ (ls : List Lane) (i : Nat), (mapLanes act f ls i).length = ls.length := by
    intro ls
    induction ls with
    | nil => exact fun _ => rfl
    | cons l r ih => exact fun i => by simp [mapLanes, ih]
  exact this _ _

/-! ### The tables of the state -/

theorem State.group?_modGroup (s : State) (g : Nat) (f : Group → Group) (h : Nat) :
    (s.modGroup g f).group? h = if h = g then (s.group? g).map f else s.group? h := tget_tmod ..
theorem State.thread?_modThread (s : State) (t : Nat) (f : Thread → Thread) (h : Nat) :
    (s.modThread t f).thread? h = if h = t then (s.thread? t).map f else s.thread? h := tget_tmod ..
theorem State.crew?_modCrew (s : State) (c : Nat) (f : Crew → Crew) (h : Nat) :
    (s.modCrew c f).crew? h = if h = c then (s.crew? c).map f else s.crew? h := tget_tmod ..
theorem State.ctx?_modCtx (s : State) (c : Nat) (f : Context → Context) (h : Nat) :
    (s.modCtx c f).ctx? h = if h = c then (s.ctx? c).map f else s.ctx? h := tget_tmod ..
theorem State.launch?_modLaunch (s : State) (n : Nat) (f : Launch → Launch) (h : Nat) :
    (s.modLaunch n f).launch? h = if h = n then (s.launch? n).map f else s.launch? h := tget_tmod ..

/-! ### Traps -/

/-- Joining the debugger's halt leaves the class. -/
theorem joined_cls (s : State) (crew : Nat) (t : Trap) : (s.joined crew t).cls = t.cls := by
  unfold State.joined; split <;> rfl
/-- Where the debugger does not halt its crew, a trap is as it was taken. -/
theorem joined_eq {s : State} {crew : Nat} {t : Trap} (h : ∀ c k, s.crew? crew = some c → c.halt = some k → k.sent = true ∨ k.debug = false) :
    s.joined crew t = t := by
  unfold State.joined
  cases hc : s.crew? crew with
  | none => rfl
  | some c =>
    simp only [Option.bind_some]
    split
    · next hk => rcases h c _ hc hk with h | h <;> cases h
    all_goals rfl
/-- A trap of the local class parks its group, and changes no other part of the state. -/
theorem takeTrap_local {s : State} {g : Nat} {gr : Group} {t : Trap} (hg : s.group? g = some gr) (hc : t.cls ≠ 1) :
    s.takeTrap g t = s.modGroup g fun x => x.addTrap (s.joined gr.crew t) := by
  simp [State.takeTrap, hg, joined_cls, hc]
/-- With no active lane nothing is counted. -/
theorem countRefused_empty {s : State} {g : Nat} {gr : Group} (h : s.cur.act = []) : s.countRefused g gr = s := by
  simp [State.countRefused, h]

/-- A running group that traps parks on that trap. -/
theorem addTrap_run {gr : Group} (t : Trap) (h : gr.stop = .run) : gr.addTrap t = { gr with trap := some t, stop := .trapping } := by
  simp [Group.addTrap, h]

/-- A precise trap of the word being performed is a trap taken. -/
theorem trapNow_eq {s : State} {g : Nat} {gr : Group} (hg : s.group? g = some gr) (code : Nat) (fault : List Nat) (detail : DWord)
    (handle ooff : Nat) :
    s.trapNow g code fault detail handle ooff = s.takeTrap g (trapOf gr s.cur code 0 fault s.cur.act detail handle ooff) := by
  simp [State.trapNow, hg]

/-- A trap takes no byte of memory and no tag. -/
@[simp] theorem startHalt_mem (s : State) (crew group : Nat) (t : Trap) (dbg : Bool) :
    (s.startHalt crew group t dbg).mem = s.mem ∧ (s.startHalt crew group t dbg).tags = s.tags := by
  unfold State.startHalt
  split
  · exact ⟨rfl, rfl⟩
  · split <;> exact ⟨rfl, rfl⟩

theorem takeTrap_mem (s : State) (g : Nat) (t : Trap) : (s.takeTrap g t).mem = s.mem ∧ (s.takeTrap g t).tags = s.tags := by
  unfold State.takeTrap
  split
  · exact ⟨rfl, rfl⟩
  · dsimp only
    split
    · simp
    · exact ⟨rfl, rfl⟩

theorem trapNow_mem (s : State) (g code : Nat) (fault : List Nat) (detail : DWord) (handle ooff : Nat) :
    (s.trapNow g code fault detail handle ooff).mem = s.mem ∧ (s.trapNow g code fault detail handle ooff).tags = s.tags := by
  unfold State.trapNow
  split
  · exact ⟨rfl, rfl⟩
  · exact takeTrap_mem ..

/-! ### Writes at the home of a byte -/

/-- Writes keep memory and tags in canonical form. -/
theorem sound_memWrite {s : State} (a : Nat) (bs : List Byte) (h : s.toDev.sound = true) : (s.memWrite a bs).toDev.sound = true := by
  simp only [Dev.sound, Bool.and_eq_true] at h ⊢
  exact ⟨memWf_mputs bs a h.1, ascending_tagClears _ h.2⟩

theorem sound_memWriteTagged {s : State} (a : Nat) (bs : List Byte) (tag : Bool) (h : s.toDev.sound = true) :
    (s.memWriteTagged a bs tag).toDev.sound = true := by
  have h1 := sound_memWrite a bs h
  unfold State.memWriteTagged
  dsimp only
  split
  · simp only [Dev.sound, Bool.and_eq_true] at h1 ⊢
    exact ⟨h1.1, ascending_tagSet _ h1.2⟩
  · exact h1

/-- The log of outbound writes is no part of the device's contents. -/
theorem logOut_toDev (s : State) (ctx a n : Nat) : (s.logOut ctx a n).toDev = s.toDev := by
  unfold State.logOut
  split
  · rfl
  · dsimp only
    split
    · rfl
    · split <;> rfl

theorem sound_devWrite {s : State} (ctx a : Nat) (bs : List Byte) (h : s.toDev.sound = true) :
    (s.devWrite ctx a bs).toDev.sound = true := by
  rw [State.devWrite, logOut_toDev]
  exact sound_memWrite a bs h

theorem sound_mailResult {s : State} (raddr ctag status : Nat) (ws : List DWord) (h : s.toDev.sound = true) :
    (s.mailResult raddr ctag status ws).toDev.sound = true := sound_memWrite _ _ h

/-- The bytes written are read back, and every other byte is as before. -/
theorem mgets_memWrite (s : State) (a : Nat) (bs : List Byte) (h : memWf s.mem = true) :
    mgets (s.memWrite a bs).mem a bs.length = bs := mgets_mputs_same bs a h

theorem mget_memWrite_other (s : State) (a : Nat) (bs : List Byte) {x : Nat} (h : memWf s.mem = true)
    (hx : x < a ∨ a + bs.length ≤ x) : mget (s.memWrite a bs).mem x = mget s.mem x := mget_mputs_other bs a h hx

end Sys2Proof.Machine
end

