-- ==== Sys2Proof/Laws/PerInstr.lean ====
section
/-! SUPPORT. Encoding and decoding agree, instruction by instruction: a well-formed instruction is what its word decodes to.
One lemma for each constructor of Instr, over one lemma for each layout of a word into its fields; the steps without encoding
have no word. -/

set_option linter.unusedSimpArgs false
namespace Sys2Proof.Laws.Encodes

/-- The word of the instruction, if it is well-formed and has one, decodes to it. -/
def Statement (i : Instr) : Prop := i.wellFormed = true → ∀ w, encode i = some w → decode w = .ok i

/-! ### Fields and codes -/

theorem bool_field (b : Bool) : (b.toNat == 1) = b := by cases b <;> rfl

theorem bits_field {n : Nat} (x : BitVec n) : BitVec.ofNat n x.toNat = x := BitVec.eq_of_toNat_eq (by simp)

theorem accept_ok {i : Instr} (h : i.wellFormed = true) : accept i 0 = .ok i := by simp [accept, h]

theorem need_some {α : Type} (a : α) (k : α → Except Nat Instr) : need (some a) k = k a := rfl

theorem fld_eq {w hi lo p q v : Nat} (hp : 2 ^ lo = p) (hq : 2 ^ (hi - lo + 1) = q) (h : w / p % q = v) : fld w hi lo = v := by
  subst hp hq; exact h

theorem scope_code (x : Scope) : Scope.ofCode x.code = some x := by cases x <;> rfl
theorem scope_bound (x : Scope) : x.code < 8 := by cases x <;> decide
theorem tycode_code (x : TyCode) : TyCode.ofCode x.code = some x := by cases x <;> rfl
theorem tycode_bound (x : TyCode) : x.code < 16 := by cases x <;> decide
theorem cmpcond_code (x : CmpCond) : CmpCond.ofCode x.code = some x := by cases x <;> rfl
theorem cmpcond_bound (x : CmpCond) : x.code < 16 := by cases x <;> decide
theorem fty_code (x : FTy) : FTy.ofCode x.code = some x := by cases x <;> rfl
theorem fty_bound (x : FTy) : x.code < 4 := by cases x <;> decide
theorem pair_code (x : Pair) : Pair.ofCode x.code = some x := by cases x <;> rfl
theorem pair_bound (x : Pair) : x.code < 2 := by cases x <;> decide
theorem ldty_code (x : LdTy) : LdTy.ofCode x.code = some x := by cases x <;> rfl
theorem ldty_bound (x : LdTy) : x.code < 8 := by cases x <;> decide
theorem stty_code (x : StTy) : StTy.ofCode x.code = some x := by cases x <;> rfl
theorem stty_bound (x : StTy) : x.code < 8 := by cases x <;> decide
theorem atomop_code (x : AtomOp) : AtomOp.ofCode x.code = some x := by cases x <;> rfl
theorem atomop_bound (x : AtomOp) : x.code < 8 := by cases x <;> decide
theorem part_code (x : Part) : Part.ofCode x.code = some x := by cases x <;> rfl
theorem part_bound (x : Part) : x.code < 4 := by cases x <;> decide
theorem shape_code (x : Shape) : Shape.ofCode x.code = some x := by cases x <;> rfl
theorem shape_bound (x : Shape) : x.code < 4 := by cases x <;> decide
theorem mmbop_code (x : MmbOp) : MmbOp.ofCode x.code = some x := by cases x <;> rfl
theorem mmbop_bound (x : MmbOp) : x.code < 2 := by cases x <;> decide
theorem acvtdir_code (x : AcvtDir) : AcvtDir.ofCode x.code = some x := by cases x <;> rfl
theorem acvtdir_bound (x : AcvtDir) : x.code < 4 := by cases x <;> decide
theorem lay_code (x : Lay) : Lay.ofCode x.code = some x := by cases x <;> rfl
theorem lay_bound (x : Lay) : x.code < 4 := by cases x <;> decide
theorem rop_code (x : Rop) : Rop.ofCode x.code = some x := by cases x <;> rfl
theorem rop_bound (x : Rop) : x.code < 16 := by cases x <;> decide
theorem pflevel_code (x : PfLevel) : PfLevel.ofCode x.code = some x := by cases x <;> rfl
theorem pflevel_bound (x : PfLevel) : x.code < 4 := by cases x <;> decide
theorem cachepol_code (x : CachePol) : CachePol.ofCode x.code = some x := by cases x <;> rfl
theorem cachepol_bound (x : CachePol) : x.code < 8 := by cases x <;> decide
theorem capfield_code (x : CapField) : CapField.ofCode x.code = some x := by cases x <;> rfl
theorem capfield_bound (x : CapField) : x.code < 8 := by cases x <;> decide

/-! ### Layouts: a word as consecutive segments (width, value), the highest first -/

/-- Bits of the segments. -/
def total : List (Nat × Nat) → Nat
  | [] => 0
  | (n, _) :: r => n + total r

/-- The word that the segments make. -/
def pack : List (Nat × Nat) → Nat
  | [] => 0
  | (_, x) :: r => x * 2 ^ total r + pack r

/-- Every value lies within its width. -/
def Fits : List (Nat × Nat) → Prop
  | [] => True
  | (n, x) :: r => x < 2 ^ n ∧ Fits r

theorem pack_lt : ∀ {l : List (Nat × Nat)}, Fits l → pack l < 2 ^ total l
  | [], _ => by simp [pack, total]
  | (n, x) :: r, ⟨hx, hr⟩ => by
    have ih := pack_lt hr
    have h1 : (x + 1) * 2 ^ total r ≤ 2 ^ n * 2 ^ total r := Nat.mul_le_mul_right _ hx
    simp only [pack, total, Nat.pow_add]
    have h2 : (x + 1) * 2 ^ total r = x * 2 ^ total r + 2 ^ total r := Nat.succ_mul _ _
    omega

theorem pack_append : ∀ p q : List (Nat × Nat), pack (p ++ q) = pack p * 2 ^ total q + pack q
  | [], q => by simp [pack]
  | (n, x) :: r, q => by
    have ht : ∀ p : List (Nat × Nat), total (p ++ q) = total p + total q := by
      intro p; induction p with
      | nil => simp [total]
      | cons a p ih => simp [total, ih, Nat.add_assoc]
    simp only [List.cons_append, pack, pack_append r q, ht, Nat.pow_add, Nat.add_mul, Nat.mul_assoc, Nat.add_assoc]

/-- The field where a segment stands reads as the segment's value. -/
theorem fld_pack {w : Nat} (p : List (Nat × Nat)) (n x : Nat) (q : List (Nat × Nat)) (e : w = pack (p ++ (n + 1, x) :: q))
    (hx : x < 2 ^ (n + 1)) (hq : Fits q) {hi lo : Nat} (hlo : lo = total q) (hhi : hi - lo = n) : fld w hi lo = x := by
  subst hlo; subst hhi
  have h1 := pack_lt hq
  have h2 : w = (pack p * 2 ^ (hi - total q + 1) + x) * 2 ^ total q + pack q := by
    rw [e, pack_append]; simp only [pack, total, Nat.pow_add, Nat.add_mul]
    rw [show pack p * (2 ^ (hi - total q) * 2 ^ 1 * 2 ^ total q) = pack p * (2 ^ (hi - total q) * 2 ^ 1) * 2 ^ total q by
      simp only [Nat.mul_assoc]]
    omega
  have h3 : w / 2 ^ total q = pack p * 2 ^ (hi - total q + 1) + x := by
    rw [h2, Nat.mul_comm, Nat.mul_add_div (Nat.two_pow_pos _), Nat.div_eq_of_lt h1, Nat.add_zero]
  unfold fld
  rw [h3, Nat.mul_comm, Nat.mul_add_mod, Nat.mod_eq_of_lt hx]


theorem place_eq (v lo : Nat) : place v lo = v * 2 ^ lo := by rw [place]

theorem word_nil (f : Nat) : word f [] = f := by rw [word, List.foldl]

theorem word_cons (f a : Nat) (l : List Nat) : word f (a :: l) = word (f + a) l := by rw [word, List.foldl, word]

theorem not_blank {w m : Nat} (h : fld w 30 25 = m) (h0 : 0 < m) (h1 : m < 63) : ¬ (w = 0 ∨ w = 4294967295) := by
  rintro (rfl | rfl)
  · have : fld 0 30 25 = 0 := rfl
    omega
  · have : fld 4294967295 30 25 = 63 := rfl
    omega

/-! ### The instructions -/

theorem add (S : Bool) (d : BitVec 5) (a : BitVec 5) (b : BitVec 5) : Statement (.add S d a b) := by
  intro hwf w hw
  have e := (Option.some.inj hw).symm
  simp only [word_cons, word_nil, place_eq] at e
  replace e : w = pack [(1, S.toNat), (6, 1), (5, d.toNat), (5, a.toNat), (5, b.toNat), (10, 0)] := e.trans (by simp only [pack, total]; omega)
  have q6 : Fits [] := trivial
  have q5 : Fits [(10, 0)] := ⟨Nat.two_pow_pos _, q6⟩
  have q4 : Fits [(5, b.toNat), (10, 0)] := ⟨b.isLt, q5⟩
  have q3 : Fits [(5, a.toNat), (5, b.toNat), (10, 0)] := ⟨a.isLt, q4⟩
  have q2 : Fits [(5, d.toNat), (5, a.toNat), (5, b.toNat), (10, 0)] := ⟨d.isLt, q3⟩
  have f31_31 : fld w 31 31 = S.toNat := fld_pack [] 0 _ _ e (S.toNat_lt) ⟨by decide, q2⟩ rfl rfl
  have f30_25 : fld w 30 25 = 1 := fld_pack [(1, S.toNat)] 5 _ _ e (by decide) q2 rfl rfl
  have f24_20 : fld w 24 20 = d.toNat := fld_pack [(1, S.toNat), (6, 1)] 4 _ _ e (d.isLt) q3 rfl rfl
  have f19_15 : fld w 19 15 = a.toNat := fld_pack [(1, S.toNat), (6, 1), (5, d.toNat)] 4 _ _ e (a.isLt) q4 rfl rfl
  have f14_10 : fld w 14 10 = b.toNat := fld_pack [(1, S.toNat), (6, 1), (5, d.toNat), (5, a.toNat)] 4 _ _ e (b.isLt) q5 rfl rfl
  have f9_0 : fld w 9 0 = 0 := fld_pack [(1, S.toNat), (6, 1), (5, d.toNat), (5, a.toNat), (5, b.toNat)] 9 _ _ e (Nat.two_pow_pos _) q6 rfl rfl
  have n0 : ¬ (w = 0 ∨ w = 4294967295) := not_blank f30_25 (by decide) (by decide)
  clear e hw
  simp only [decode, n0, if_false, decodeSR, f31_31, f30_25, f24_20, f19_15, f14_10, f9_0, bool_field, bits_field, need_some, Nat.add_zero]
  exact accept_ok hwf

theorem sub (S : Bool) (d : BitVec 5) (a : BitVec 5) (b : BitVec 5) : Statement (.sub S d a b) := by
  intro hwf w hw
  have e := (Option.some.inj hw).symm
  simp only [word_cons, word_nil, place_eq] at e
  replace e : w = pack [(1, S.toNat), (6, 1), (5, d.toNat), (5, a.toNat), (5, b.toNat), (10, 1)] := e.trans (by simp only [pack, total]; omega)
  have q6 : Fits [] := trivial
  have q5 : Fits [(10, 1)] := ⟨by decide, q6⟩
  have q4 : Fits [(5, b.toNat), (10, 1)] := ⟨b.isLt, q5⟩
  have q3 : Fits [(5, a.toNat), (5, b.toNat), (10, 1)] := ⟨a.isLt, q4⟩
  have q2 : Fits [(5, d.toNat), (5, a.toNat), (5, b.toNat), (10, 1)] := ⟨d.isLt, q3⟩
  have f31_31 : fld w 31 31 = S.toNat := fld_pack [] 0 _ _ e (S.toNat_lt) ⟨by decide, q2⟩ rfl rfl
  have f30_25 : fld w 30 25 = 1 := fld_pack [(1, S.toNat)] 5 _ _ e (by decide) q2 rfl rfl
  have f24_20 : fld w 24 20 = d.toNat := fld_pack [(1, S.toNat), (6, 1)] 4 _ _ e (d.isLt) q3 rfl rfl
  have f19_15 : fld w 19 15 = a.toNat := fld_pack [(1, S.toNat), (6, 1), (5, d.toNat)] 4 _ _ e (a.isLt) q4 rfl rfl
  have f14_10 : fld w 14 10 = b.toNat := fld_pack [(1, S.toNat), (6, 1), (5, d.toNat), (5, a.toNat)] 4 _ _ e (b.isLt) q5 rfl rfl
  have f9_0 : fld w 9 0 = 1 := fld_pack [(1, S.toNat), (6, 1), (5, d.toNat), (5, a.toNat), (5, b.toNat)] 9 _ _ e (by decide) q6 rfl rfl
  have n0 : ¬ (w = 0 ∨ w = 4294967295) := not_blank f30_25 (by decide) (by decide)
  clear e hw
  simp only [decode, n0, if_false, decodeSR, f31_31, f30_25, f24_20, f19_15, f14_10, f9_0, bool_field, bits_field, need_some, Nat.add_zero]
  exact accept_ok hwf

theorem mul (S : Bool) (d : BitVec 5) (a : BitVec 5) (b : BitVec 5) : Statement (.mul S d a b) := by
  intro hwf w hw
  have e := (Option.some.inj hw).symm
  simp only [word_cons, word_nil, place_eq] at e
  replace e : w = pack [(1, S.toNat), (6, 1), (5, d.toNat), (5, a.toNat), (5, b.toNat), (10, 2)] := e.trans (by simp only [pack, total]; omega)
  have q6 : Fits [] := trivial
  have q5 : Fits [(10, 2)] := ⟨by decide, q6⟩
  have q4 : Fits [(5, b.toNat), (10, 2)] := ⟨b.isLt, q5⟩
  have q3 : Fits [(5, a.toNat), (5, b.toNat), (10, 2)] := ⟨a.isLt, q4⟩
  have q2 : Fits [(5, d.toNat), (5, a.toNat), (5, b.toNat), (10, 2)] := ⟨d.isLt, q3⟩
  have f31_31 : fld w 31 31 = S.toNat := fld_pack [] 0 _ _ e (S.toNat_lt) ⟨by decide, q2⟩ rfl rfl
  have f30_25 : fld w 30 25 = 1 := fld_pack [(1, S.toNat)] 5 _ _ e (by decide) q2 rfl rfl
  have f24_20 : fld w 24 20 = d.toNat := fld_pack [(1, S.toNat), (6, 1)] 4 _ _ e (d.isLt) q3 rfl rfl
  have f19_15 : fld w 19 15 = a.toNat := fld_pack [(1, S.toNat), (6, 1), (5, d.toNat)] 4 _ _ e (a.isLt) q4 rfl rfl
  have f14_10 : fld w 14 10 = b.toNat := fld_pack [(1, S.toNat), (6, 1), (5, d.toNat), (5, a.toNat)] 4 _ _ e (b.isLt) q5 rfl rfl
  have f9_0 : fld w 9 0 = 2 := fld_pack [(1, S.toNat), (6, 1), (5, d.toNat), (5, a.toNat), (5, b.toNat)] 9 _ _ e (by decide) q6 rfl rfl
  have n0 : ¬ (w = 0 ∨ w = 4294967295) := not_blank f30_25 (by decide) (by decide)
  clear e hw
  simp only [decode, n0, if_false, decodeSR, f31_31, f30_25, f24_20, f19_15, f14_10, f9_0, bool_field, bits_field, need_some, Nat.add_zero]
  exact accept_ok hwf

theorem mulhS (S : Bool) (d : BitVec 5) (a : BitVec 5) (b : BitVec 5) : Statement (.mulhS S d a b) := by
  intro hwf w hw
  have e := (Option.some.inj hw).symm
  simp only [word_cons, word_nil, place_eq] at e
  replace e : w = pack [(1, S.toNat), (6, 1), (5, d.toNat), (5, a.toNat), (5, b.toNat), (10, 3)] := e.trans (by simp only [pack, total]; omega)
  have q6 : Fits [] := trivial
  have q5 : Fits [(10, 3)] := ⟨by decide, q6⟩
  have q4 : Fits [(5, b.toNat), (10, 3)] := ⟨b.isLt, q5⟩
  have q3 : Fits [(5, a.toNat), (5, b.toNat), (10, 3)] := ⟨a.isLt, q4⟩
  have q2 : Fits [(5, d.toNat), (5, a.toNat), (5, b.toNat), (10, 3)] := ⟨d.isLt, q3⟩
  have f31_31 : fld w 31 31 = S.toNat := fld_pack [] 0 _ _ e (S.toNat_lt) ⟨by decide, q2⟩ rfl rfl
  have f30_25 : fld w 30 25 = 1 := fld_pack [(1, S.toNat)] 5 _ _ e (by decide) q2 rfl rfl
  have f24_20 : fld w 24 20 = d.toNat := fld_pack [(1, S.toNat), (6, 1)] 4 _ _ e (d.isLt) q3 rfl rfl
  have f19_15 : fld w 19 15 = a.toNat := fld_pack [(1, S.toNat), (6, 1), (5, d.toNat)] 4 _ _ e (a.isLt) q4 rfl rfl
  have f14_10 : fld w 14 10 = b.toNat := fld_pack [(1, S.toNat), (6, 1), (5, d.toNat), (5, a.toNat)] 4 _ _ e (b.isLt) q5 rfl rfl
  have f9_0 : fld w 9 0 = 3 := fld_pack [(1, S.toNat), (6, 1), (5, d.toNat), (5, a.toNat), (5, b.toNat)] 9 _ _ e (by decide) q6 rfl rfl
  have n0 : ¬ (w = 0 ∨ w = 4294967295) := not_blank f30_25 (by decide) (by decide)
  clear e hw
  simp only [decode, n0, if_false, decodeSR, f31_31, f30_25, f24_20, f19_15, f14_10, f9_0, bool_field, bits_field, need_some, Nat.add_zero]
  exact accept_ok hwf

theorem mulhN (S : Bool) (d : BitVec 5) (a : BitVec 5) (b : BitVec 5) : Statement (.mulhN S d a b) := by
  intro hwf w hw
  have e := (Option.some.inj hw).symm
  simp only [word_cons, word_nil, place_eq] at e
  replace e : w = pack [(1, S.toNat), (6, 1), (5, d.toNat), (5, a.toNat), (5, b.toNat), (10, 4)] := e.trans (by simp only [pack, total]; omega)
  have q6 : Fits [] := trivial
  have q5 : Fits [(10, 4)] := ⟨by decide, q6⟩
  have q4 : Fits [(5, b.toNat), (10, 4)] := ⟨b.isLt, q5⟩
  have q3 : Fits [(5, a.toNat), (5, b.toNat), (10, 4)] := ⟨a.isLt, q4⟩
  have q2 : Fits [(5, d.toNat), (5, a.toNat), (5, b.toNat), (10, 4)] := ⟨d.isLt, q3⟩
  have f31_31 : fld w 31 31 = S.toNat := fld_pack [] 0 _ _ e (S.toNat_lt) ⟨by decide, q2⟩ rfl rfl
  have f30_25 : fld w 30 25 = 1 := fld_pack [(1, S.toNat)] 5 _ _ e (by decide) q2 rfl rfl
  have f24_20 : fld w 24 20 = d.toNat := fld_pack [(1, S.toNat), (6, 1)] 4 _ _ e (d.isLt) q3 rfl rfl
  have f19_15 : fld w 19 15 = a.toNat := fld_pack [(1, S.toNat), (6, 1), (5, d.toNat)] 4 _ _ e (a.isLt) q4 rfl rfl
  have f14_10 : fld w 14 10 = b.toNat := fld_pack [(1, S.toNat), (6, 1), (5, d.toNat), (5, a.toNat)] 4 _ _ e (b.isLt) q5 rfl rfl
  have f9_0 : fld w 9 0 = 4 := fld_pack [(1, S.toNat), (6, 1), (5, d.toNat), (5, a.toNat), (5, b.toNat)] 9 _ _ e (by decide) q6 rfl rfl
  have n0 : ¬ (w = 0 ∨ w = 4294967295) := not_blank f30_25 (by decide) (by decide)
  clear e hw
  simp only [decode, n0, if_false, decodeSR, f31_31, f30_25, f24_20, f19_15, f14_10, f9_0, bool_field, bits_field, need_some, Nat.add_zero]
  exact accept_ok hwf

theorem divS (S : Bool) (d : BitVec 5) (a : BitVec 5) (b : BitVec 5) : Statement (.divS S d a b) := by
  intro hwf w hw
  have e := (Option.some.inj hw).symm
  simp only [word_cons, word_nil, place_eq] at e
  replace e : w = pack [(1, S.toNat), (6, 1), (5, d.toNat), (5, a.toNat), (5, b.toNat), (10, 5)] := e.trans (by simp only [pack, total]; omega)
  have q6 : Fits [] := trivial
  have q5 : Fits [(10, 5)] := ⟨by decide, q6⟩
  have q4 : Fits [(5, b.toNat), (10, 5)] := ⟨b.isLt, q5⟩
  have q3 : Fits [(5, a.toNat), (5, b.toNat), (10, 5)] := ⟨a.isLt, q4⟩
  have q2 : Fits [(5, d.toNat), (5, a.toNat), (5, b.toNat), (10, 5)] := ⟨d.isLt, q3⟩
  have f31_31 : fld w 31 31 = S.toNat := fld_pack [] 0 _ _ e (S.toNat_lt) ⟨by decide, q2⟩ rfl rfl
  have f30_25 : fld w 30 25 = 1 := fld_pack [(1, S.toNat)] 5 _ _ e (by decide) q2 rfl rfl
  have f24_20 : fld w 24 20 = d.toNat := fld_pack [(1, S.toNat), (6, 1)] 4 _ _ e (d.isLt) q3 rfl rfl
  have f19_15 : fld w 19 15 = a.toNat := fld_pack [(1, S.toNat), (6, 1), (5, d.toNat)] 4 _ _ e (a.isLt) q4 rfl rfl
  have f14_10 : fld w 14 10 = b.toNat := fld_pack [(1, S.toNat), (6, 1), (5, d.toNat), (5, a.toNat)] 4 _ _ e (b.isLt) q5 rfl rfl
  have f9_0 : fld w 9 0 = 5 := fld_pack [(1, S.toNat), (6, 1), (5, d.toNat), (5, a.toNat), (5, b.toNat)] 9 _ _ e (by decide) q6 rfl rfl
  have n0 : ¬ (w = 0 ∨ w = 4294967295) := not_blank f30_25 (by decide) (by decide)
  clear e hw
  simp only [decode, n0, if_false, decodeSR, f31_31, f30_25, f24_20, f19_15, f14_10, f9_0, bool_field, bits_field, need_some, Nat.add_zero]
  exact accept_ok hwf

theorem divN (S : Bool) (d : BitVec 5) (a : BitVec 5) (b : BitVec 5) : Statement (.divN S d a b) := by
  intro hwf w hw
  have e := (Option.some.inj hw).symm
  simp only [word_cons, word_nil, place_eq] at e
  replace e : w = pack [(1, S.toNat), (6, 1), (5, d.toNat), (5, a.toNat), (5, b.toNat), (10, 6)] := e.trans (by simp only [pack, total]; omega)
  have q6 : Fits [] := trivial
  have q5 : Fits [(10, 6)] := ⟨by decide, q6⟩
  have q4 : Fits [(5, b.toNat), (10, 6)] := ⟨b.isLt, q5⟩
  have q3 : Fits [(5, a.toNat), (5, b.toNat), (10, 6)] := ⟨a.isLt, q4⟩
  have q2 : Fits [(5, d.toNat), (5, a.toNat), (5, b.toNat), (10, 6)] := ⟨d.isLt, q3⟩
  have f31_31 : fld w 31 31 = S.toNat := fld_pack [] 0 _ _ e (S.toNat_lt) ⟨by decide, q2⟩ rfl rfl
  have f30_25 : fld w 30 25 = 1 := fld_pack [(1, S.toNat)] 5 _ _ e (by decide) q2 rfl rfl
  have f24_20 : fld w 24 20 = d.toNat := fld_pack [(1, S.toNat), (6, 1)] 4 _ _ e (d.isLt) q3 rfl rfl
  have f19_15 : fld w 19 15 = a.toNat := fld_pack [(1, S.toNat), (6, 1), (5, d.toNat)] 4 _ _ e (a.isLt) q4 rfl rfl
  have f14_10 : fld w 14 10 = b.toNat := fld_pack [(1, S.toNat), (6, 1), (5, d.toNat), (5, a.toNat)] 4 _ _ e (b.isLt) q5 rfl rfl
  have f9_0 : fld w 9 0 = 6 := fld_pack [(1, S.toNat), (6, 1), (5, d.toNat), (5, a.toNat), (5, b.toNat)] 9 _ _ e (by decide) q6 rfl rfl
  have n0 : ¬ (w = 0 ∨ w = 4294967295) := not_blank f30_25 (by decide) (by decide)
  clear e hw
  simp only [decode, n0, if_false, decodeSR, f31_31, f30_25, f24_20, f19_15, f14_10, f9_0, bool_field, bits_field, need_some, Nat.add_zero]
  exact accept_ok hwf

theorem remS (S : Bool) (d : BitVec 5) (a : BitVec 5) (b : BitVec 5) : Statement (.remS S d a b) := by
  intro hwf w hw
  have e := (Option.some.inj hw).symm
  simp only [word_cons, word_nil, place_eq] at e
  replace e : w = pack [(1, S.toNat), (6, 1), (5, d.toNat), (5, a.toNat), (5, b.toNat), (10, 7)] := e.trans (by simp only [pack, total]; omega)
  have q6 : Fits [] := trivial
  have q5 : Fits [(10, 7)] := ⟨by decide, q6⟩
  have q4 : Fits [(5, b.toNat), (10, 7)] := ⟨b.isLt, q5⟩
  have q3 : Fits [(5, a.toNat), (5, b.toNat), (10, 7)] := ⟨a.isLt, q4⟩
  have q2 : Fits [(5, d.toNat), (5, a.toNat), (5, b.toNat), (10, 7)] := ⟨d.isLt, q3⟩
  have f31_31 : fld w 31 31 = S.toNat := fld_pack [] 0 _ _ e (S.toNat_lt) ⟨by decide, q2⟩ rfl rfl
  have f30_25 : fld w 30 25 = 1 := fld_pack [(1, S.toNat)] 5 _ _ e (by decide) q2 rfl rfl
  have f24_20 : fld w 24 20 = d.toNat := fld_pack [(1, S.toNat), (6, 1)] 4 _ _ e (d.isLt) q3 rfl rfl
  have f19_15 : fld w 19 15 = a.toNat := fld_pack [(1, S.toNat), (6, 1), (5, d.toNat)] 4 _ _ e (a.isLt) q4 rfl rfl
  have f14_10 : fld w 14 10 = b.toNat := fld_pack [(1, S.toNat), (6, 1), (5, d.toNat), (5, a.toNat)] 4 _ _ e (b.isLt) q5 rfl rfl
  have f9_0 : fld w 9 0 = 7 := fld_pack [(1, S.toNat), (6, 1), (5, d.toNat), (5, a.toNat), (5, b.toNat)] 9 _ _ e (by decide) q6 rfl rfl
  have n0 : ¬ (w = 0 ∨ w = 4294967295) := not_blank f30_25 (by decide) (by decide)
  clear e hw
  simp only [decode, n0, if_false, decodeSR, f31_31, f30_25, f24_20, f19_15, f14_10, f9_0, bool_field, bits_field, need_some, Nat.add_zero]
  exact accept_ok hwf

theorem remN (S : Bool) (d : BitVec 5) (a : BitVec 5) (b : BitVec 5) : Statement (.remN S d a b) := by
  intro hwf w hw
  have e := (Option.some.inj hw).symm
  simp only [word_cons, word_nil, place_eq] at e
  replace e : w = pack [(1, S.toNat), (6, 1), (5, d.toNat), (5, a.toNat), (5, b.toNat), (10, 8)] := e.trans (by simp only [pack, total]; omega)
  have q6 : Fits [] := trivial
  have q5 : Fits [(10, 8)] := ⟨by decide, q6⟩
  have q4 : Fits [(5, b.toNat), (10, 8)] := ⟨b.isLt, q5⟩
  have q3 : Fits [(5, a.toNat), (5, b.toNat), (10, 8)] := ⟨a.isLt, q4⟩
  have q2 : Fits [(5, d.toNat), (5, a.toNat), (5, b.toNat), (10, 8)] := ⟨d.isLt, q3⟩
  have f31_31 : fld w 31 31 = S.toNat := fld_pack [] 0 _ _ e (S.toNat_lt) ⟨by decide, q2⟩ rfl rfl
  have f30_25 : fld w 30 25 = 1 := fld_pack [(1, S.toNat)] 5 _ _ e (by decide) q2 rfl rfl
  have f24_20 : fld w 24 20 = d.toNat := fld_pack [(1, S.toNat), (6, 1)] 4 _ _ e (d.isLt) q3 rfl rfl
  have f19_15 : fld w 19 15 = a.toNat := fld_pack [(1, S.toNat), (6, 1), (5, d.toNat)] 4 _ _ e (a.isLt) q4 rfl rfl
  have f14_10 : fld w 14 10 = b.toNat := fld_pack [(1, S.toNat), (6, 1), (5, d.toNat), (5, a.toNat)] 4 _ _ e (b.isLt) q5 rfl rfl
  have f9_0 : fld w 9 0 = 8 := fld_pack [(1, S.toNat), (6, 1), (5, d.toNat), (5, a.toNat), (5, b.toNat)] 9 _ _ e (by decide) q6 rfl rfl
  have n0 : ¬ (w = 0 ∨ w = 4294967295) := not_blank f30_25 (by decide) (by decide)
  clear e hw
  simp only [decode, n0, if_false, decodeSR, f31_31, f30_25, f24_20, f19_15, f14_10, f9_0, bool_field, bits_field, need_some, Nat.add_zero]
  exact accept_ok hwf

theorem and (S : Bool) (d : BitVec 5) (a : BitVec 5) (b : BitVec 5) : Statement (.and S d a b) := by
  intro hwf w hw
  have e := (Option.some.inj hw).symm
  simp only [word_cons, word_nil, place_eq] at e
  replace e : w = pack [(1, S.toNat), (6, 1), (5, d.toNat), (5, a.toNat), (5, b.toNat), (10, 9)] := e.trans (by simp only [pack, total]; omega)
  have q6 : Fits [] := trivial
  have q5 : Fits [(10, 9)] := ⟨by decide, q6⟩
  have q4 : Fits [(5, b.toNat), (10, 9)] := ⟨b.isLt, q5⟩
  have q3 : Fits [(5, a.toNat), (5, b.toNat), (10, 9)] := ⟨a.isLt, q4⟩
  have q2 : Fits [(5, d.toNat), (5, a.toNat), (5, b.toNat), (10, 9)] := ⟨d.isLt, q3⟩
  have f31_31 : fld w 31 31 = S.toNat := fld_pack [] 0 _ _ e (S.toNat_lt) ⟨by decide, q2⟩ rfl rfl
  have f30_25 : fld w 30 25 = 1 := fld_pack [(1, S.toNat)] 5 _ _ e (by decide) q2 rfl rfl
  have f24_20 : fld w 24 20 = d.toNat := fld_pack [(1, S.toNat), (6, 1)] 4 _ _ e (d.isLt) q3 rfl rfl
  have f19_15 : fld w 19 15 = a.toNat := fld_pack [(1, S.toNat), (6, 1), (5, d.toNat)] 4 _ _ e (a.isLt) q4 rfl rfl
  have f14_10 : fld w 14 10 = b.toNat := fld_pack [(1, S.toNat), (6, 1), (5, d.toNat), (5, a.toNat)] 4 _ _ e (b.isLt) q5 rfl rfl
  have f9_0 : fld w 9 0 = 9 := fld_pack [(1, S.toNat), (6, 1), (5, d.toNat), (5, a.toNat), (5, b.toNat)] 9 _ _ e (by decide) q6 rfl rfl
  have n0 : ¬ (w = 0 ∨ w = 4294967295) := not_blank f30_25 (by decide) (by decide)
  clear e hw
  simp only [decode, n0, if_false, decodeSR, f31_31, f30_25, f24_20, f19_15, f14_10, f9_0, bool_field, bits_field, need_some, Nat.add_zero]
  exact accept_ok hwf

theorem or (S : Bool) (d : BitVec 5) (a : BitVec 5) (b : BitVec 5) : Statement (.or S d a b) := by
  intro hwf w hw
  have e := (Option.some.inj hw).symm
  simp only [word_cons, word_nil, place_eq] at e
  replace e : w = pack [(1, S.toNat), (6, 1), (5, d.toNat), (5, a.toNat), (5, b.toNat), (10, 10)] := e.trans (by simp only [pack, total]; omega)
  have q6 : Fits [] := trivial
  have q5 : Fits [(10, 10)] := ⟨by decide, q6⟩
  have q4 : Fits [(5, b.toNat), (10, 10)] := ⟨b.isLt, q5⟩
  have q3 : Fits [(5, a.toNat), (5, b.toNat), (10, 10)] := ⟨a.isLt, q4⟩
  have q2 : Fits [(5, d.toNat), (5, a.toNat), (5, b.toNat), (10, 10)] := ⟨d.isLt, q3⟩
  have f31_31 : fld w 31 31 = S.toNat := fld_pack [] 0 _ _ e (S.toNat_lt) ⟨by decide, q2⟩ rfl rfl
  have f30_25 : fld w 30 25 = 1 := fld_pack [(1, S.toNat)] 5 _ _ e (by decide) q2 rfl rfl
  have f24_20 : fld w 24 20 = d.toNat := fld_pack [(1, S.toNat), (6, 1)] 4 _ _ e (d.isLt) q3 rfl rfl
  have f19_15 : fld w 19 15 = a.toNat := fld_pack [(1, S.toNat), (6, 1), (5, d.toNat)] 4 _ _ e (a.isLt) q4 rfl rfl
  have f14_10 : fld w 14 10 = b.toNat := fld_pack [(1, S.toNat), (6, 1), (5, d.toNat), (5, a.toNat)] 4 _ _ e (b.isLt) q5 rfl rfl
  have f9_0 : fld w 9 0 = 10 := fld_pack [(1, S.toNat), (6, 1), (5, d.toNat), (5, a.toNat), (5, b.toNat)] 9 _ _ e (by decide) q6 rfl rfl
  have n0 : ¬ (w = 0 ∨ w = 4294967295) := not_blank f30_25 (by decide) (by decide)
  clear e hw
  simp only [decode, n0, if_false, decodeSR, f31_31, f30_25, f24_20, f19_15, f14_10, f9_0, bool_field, bits_field, need_some, Nat.add_zero]
  exact accept_ok hwf

theorem xor (S : Bool) (d : BitVec 5) (a : BitVec 5) (b : BitVec 5) : Statement (.xor S d a b) := by
  intro hwf w hw
  have e := (Option.some.inj hw).symm
  simp only [word_cons, word_nil, place_eq] at e
  replace e : w = pack [(1, S.toNat), (6, 1), (5, d.toNat), (5, a.toNat), (5, b.toNat), (10, 11)] := e.trans (by simp only [pack, total]; omega)
  have q6 : Fits [] := trivial
  have q5 : Fits [(10, 11)] := ⟨by decide, q6⟩
  have q4 : Fits [(5, b.toNat), (10, 11)] := ⟨b.isLt, q5⟩
  have q3 : Fits [(5, a.toNat), (5, b.toNat), (10, 11)] := ⟨a.isLt, q4⟩
  have q2 : Fits [(5, d.toNat), (5, a.toNat), (5, b.toNat), (10, 11)] := ⟨d.isLt, q3⟩
  have f31_31 : fld w 31 31 = S.toNat := fld_pack [] 0 _ _ e (S.toNat_lt) ⟨by decide, q2⟩ rfl rfl
  have f30_25 : fld w 30 25 = 1 := fld_pack [(1, S.toNat)] 5 _ _ e (by decide) q2 rfl rfl
  have f24_20 : fld w 24 20 = d.toNat := fld_pack [(1, S.toNat), (6, 1)] 4 _ _ e (d.isLt) q3 rfl rfl
  have f19_15 : fld w 19 15 = a.toNat := fld_pack [(1, S.toNat), (6, 1), (5, d.toNat)] 4 _ _ e (a.isLt) q4 rfl rfl
  have f14_10 : fld w 14 10 = b.toNat := fld_pack [(1, S.toNat), (6, 1), (5, d.toNat), (5, a.toNat)] 4 _ _ e (b.isLt) q5 rfl rfl
  have f9_0 : fld w 9 0 = 11 := fld_pack [(1, S.toNat), (6, 1), (5, d.toNat), (5, a.toNat), (5, b.toNat)] 9 _ _ e (by decide) q6 rfl rfl
  have n0 : ¬ (w = 0 ∨ w = 4294967295) := not_blank f30_25 (by decide) (by decide)
  clear e hw
  simp only [decode, n0, if_false, decodeSR, f31_31, f30_25, f24_20, f19_15, f14_10, f9_0, bool_field, bits_field, need_some, Nat.add_zero]
  exact accept_ok hwf

theorem shl (S : Bool) (d : BitVec 5) (a : BitVec 5) (b : BitVec 5) : Statement (.shl S d a b) := by
  intro hwf w hw
  have e := (Option.some.inj hw).symm
  simp only [word_cons, word_nil, place_eq] at e
  replace e : w = pack [(1, S.toNat), (6, 1), (5, d.toNat), (5, a.toNat), (5, b.toNat), (10, 12)] := e.trans (by simp only [pack, total]; omega)
  have q6 : Fits [] := trivial
  have q5 : Fits [(10, 12)] := ⟨by decide, q6⟩
  have q4 : Fits [(5, b.toNat), (10, 12)] := ⟨b.isLt, q5⟩
  have q3 : Fits [(5, a.toNat), (5, b.toNat), (10, 12)] := ⟨a.isLt, q4⟩
  have q2 : Fits [(5, d.toNat), (5, a.toNat), (5, b.toNat), (10, 12)] := ⟨d.isLt, q3⟩
  have f31_31 : fld w 31 31 = S.toNat := fld_pack [] 0 _ _ e (S.toNat_lt) ⟨by decide, q2⟩ rfl rfl
  have f30_25 : fld w 30 25 = 1 := fld_pack [(1, S.toNat)] 5 _ _ e (by decide) q2 rfl rfl
  have f24_20 : fld w 24 20 = d.toNat := fld_pack [(1, S.toNat), (6, 1)] 4 _ _ e (d.isLt) q3 rfl rfl
  have f19_15 : fld w 19 15 = a.toNat := fld_pack [(1, S.toNat), (6, 1), (5, d.toNat)] 4 _ _ e (a.isLt) q4 rfl rfl
  have f14_10 : fld w 14 10 = b.toNat := fld_pack [(1, S.toNat), (6, 1), (5, d.toNat), (5, a.toNat)] 4 _ _ e (b.isLt) q5 rfl rfl
  have f9_0 : fld w 9 0 = 12 := fld_pack [(1, S.toNat), (6, 1), (5, d.toNat), (5, a.toNat), (5, b.toNat)] 9 _ _ e (by decide) q6 rfl rfl
  have n0 : ¬ (w = 0 ∨ w = 4294967295) := not_blank f30_25 (by decide) (by decide)
  clear e hw
  simp only [decode, n0, if_false, decodeSR, f31_31, f30_25, f24_20, f19_15, f14_10, f9_0, bool_field, bits_field, need_some, Nat.add_zero]
  exact accept_ok hwf

theorem shr (S : Bool) (d : BitVec 5) (a : BitVec 5) (b : BitVec 5) : Statement (.shr S d a b) := by
  intro hwf w hw
  have e := (Option.some.inj hw).symm
  simp only [word_cons, word_nil, place_eq] at e
  replace e : w = pack [(1, S.toNat), (6, 1), (5, d.toNat), (5, a.toNat), (5, b.toNat), (10, 13)] := e.trans (by simp only [pack, total]; omega)
  have q6 : Fits [] := trivial
  have q5 : Fits [(10, 13)] := ⟨by decide, q6⟩
  have q4 : Fits [(5, b.toNat), (10, 13)] := ⟨b.isLt, q5⟩
  have q3 : Fits [(5, a.toNat), (5, b.toNat), (10, 13)] := ⟨a.isLt, q4⟩
  have q2 : Fits [(5, d.toNat), (5, a.toNat), (5, b.toNat), (10, 13)] := ⟨d.isLt, q3⟩
  have f31_31 : fld w 31 31 = S.toNat := fld_pack [] 0 _ _ e (S.toNat_lt) ⟨by decide, q2⟩ rfl rfl
  have f30_25 : fld w 30 25 = 1 := fld_pack [(1, S.toNat)] 5 _ _ e (by decide) q2 rfl rfl
  have f24_20 : fld w 24 20 = d.toNat := fld_pack [(1, S.toNat), (6, 1)] 4 _ _ e (d.isLt) q3 rfl rfl
  have f19_15 : fld w 19 15 = a.toNat := fld_pack [(1, S.toNat), (6, 1), (5, d.toNat)] 4 _ _ e (a.isLt) q4 rfl rfl
  have f14_10 : fld w 14 10 = b.toNat := fld_pack [(1, S.toNat), (6, 1), (5, d.toNat), (5, a.toNat)] 4 _ _ e (b.isLt) q5 rfl rfl
  have f9_0 : fld w 9 0 = 13 := fld_pack [(1, S.toNat), (6, 1), (5, d.toNat), (5, a.toNat), (5, b.toNat)] 9 _ _ e (by decide) q6 rfl rfl
  have n0 : ¬ (w = 0 ∨ w = 4294967295) := not_blank f30_25 (by decide) (by decide)
  clear e hw
  simp only [decode, n0, if_false, decodeSR, f31_31, f30_25, f24_20, f19_15, f14_10, f9_0, bool_field, bits_field, need_some, Nat.add_zero]
  exact accept_ok hwf

theorem sra (S : Bool) (d : BitVec 5) (a : BitVec 5) (b : BitVec 5) : Statement (.sra S d a b) := by
  intro hwf w hw
  have e := (Option.some.inj hw).symm
  simp only [word_cons, word_nil, place_eq] at e
  replace e : w = pack [(1, S.toNat), (6, 1), (5, d.toNat), (5, a.toNat), (5, b.toNat), (10, 14)] := e.trans (by simp only [pack, total]; omega)
  have q6 : Fits [] := trivial
  have q5 : Fits [(10, 14)] := ⟨by decide, q6⟩
  have q4 : Fits [(5, b.toNat), (10, 14)] := ⟨b.isLt, q5⟩
  have q3 : Fits [(5, a.toNat), (5, b.toNat), (10, 14)] := ⟨a.isLt, q4⟩
  have q2 : Fits [(5, d.toNat), (5, a.toNat), (5, b.toNat), (10, 14)] := ⟨d.isLt, q3⟩
  have f31_31 : fld w 31 31 = S.toNat := fld_pack [] 0 _ _ e (S.toNat_lt) ⟨by decide, q2⟩ rfl rfl
  have f30_25 : fld w 30 25 = 1 := fld_pack [(1, S.toNat)] 5 _ _ e (by decide) q2 rfl rfl
  have f24_20 : fld w 24 20 = d.toNat := fld_pack [(1, S.toNat), (6, 1)] 4 _ _ e (d.isLt) q3 rfl rfl
  have f19_15 : fld w 19 15 = a.toNat := fld_pack [(1, S.toNat), (6, 1), (5, d.toNat)] 4 _ _ e (a.isLt) q4 rfl rfl
  have f14_10 : fld w 14 10 = b.toNat := fld_pack [(1, S.toNat), (6, 1), (5, d.toNat), (5, a.toNat)] 4 _ _ e (b.isLt) q5 rfl rfl
  have f9_0 : fld w 9 0 = 14 := fld_pack [(1, S.toNat), (6, 1), (5, d.toNat), (5, a.toNat), (5, b.toNat)] 9 _ _ e (by decide) q6 rfl rfl
  have n0 : ¬ (w = 0 ∨ w = 4294967295) := not_blank f30_25 (by decide) (by decide)
  clear e hw
  simp only [decode, n0, if_false, decodeSR, f31_31, f30_25, f24_20, f19_15, f14_10, f9_0, bool_field, bits_field, need_some, Nat.add_zero]
  exact accept_ok hwf

theorem minS (S : Bool) (d : BitVec 5) (a : BitVec 5) (b : BitVec 5) : Statement (.minS S d a b) := by
  intro hwf w hw
  have e := (Option.some.inj hw).symm
  simp only [word_cons, word_nil, place_eq] at e
  replace e : w = pack [(1, S.toNat), (6, 1), (5, d.toNat), (5, a.toNat), (5, b.toNat), (10, 15)] := e.trans (by simp only [pack, total]; omega)
  have q6 : Fits [] := trivial
  have q5 : Fits [(10, 15)] := ⟨by decide, q6⟩
  have q4 : Fits [(5, b.toNat), (10, 15)] := ⟨b.isLt, q5⟩
  have q3 : Fits [(5, a.toNat), (5, b.toNat), (10, 15)] := ⟨a.isLt, q4⟩
  have q2 : Fits [(5, d.toNat), (5, a.toNat), (5, b.toNat), (10, 15)] := ⟨d.isLt, q3⟩
  have f31_31 : fld w 31 31 = S.toNat := fld_pack [] 0 _ _ e (S.toNat_lt) ⟨by decide, q2⟩ rfl rfl
  have f30_25 : fld w 30 25 = 1 := fld_pack [(1, S.toNat)] 5 _ _ e (by decide) q2 rfl rfl
  have f24_20 : fld w 24 20 = d.toNat := fld_pack [(1, S.toNat), (6, 1)] 4 _ _ e (d.isLt) q3 rfl rfl
  have f19_15 : fld w 19 15 = a.toNat := fld_pack [(1, S.toNat), (6, 1), (5, d.toNat)] 4 _ _ e (a.isLt) q4 rfl rfl
  have f14_10 : fld w 14 10 = b.toNat := fld_pack [(1, S.toNat), (6, 1), (5, d.toNat), (5, a.toNat)] 4 _ _ e (b.isLt) q5 rfl rfl
  have f9_0 : fld w 9 0 = 15 := fld_pack [(1, S.toNat), (6, 1), (5, d.toNat), (5, a.toNat), (5, b.toNat)] 9 _ _ e (by decide) q6 rfl rfl
  have n0 : ¬ (w = 0 ∨ w = 4294967295) := not_blank f30_25 (by decide) (by decide)
  clear e hw
  simp only [decode, n0, if_false, decodeSR, f31_31, f30_25, f24_20, f19_15, f14_10, f9_0, bool_field, bits_field, need_some, Nat.add_zero]
  exact accept_ok hwf

theorem maxS (S : Bool) (d : BitVec 5) (a : BitVec 5) (b : BitVec 5) : Statement (.maxS S d a b) := by
  intro hwf w hw
  have e := (Option.some.inj hw).symm
  simp only [word_cons, word_nil, place_eq] at e
  replace e : w = pack [(1, S.toNat), (6, 1), (5, d.toNat), (5, a.toNat), (5, b.toNat), (10, 16)] := e.trans (by simp only [pack, total]; omega)
  have q6 : Fits [] := trivial
  have q5 : Fits [(10, 16)] := ⟨by decide, q6⟩
  have q4 : Fits [(5, b.toNat), (10, 16)] := ⟨b.isLt, q5⟩
  have q3 : Fits [(5, a.toNat), (5, b.toNat), (10, 16)] := ⟨a.isLt, q4⟩
  have q2 : Fits [(5, d.toNat), (5, a.toNat), (5, b.toNat), (10, 16)] := ⟨d.isLt, q3⟩
  have f31_31 : fld w 31 31 = S.toNat := fld_pack [] 0 _ _ e (S.toNat_lt) ⟨by decide, q2⟩ rfl rfl
  have f30_25 : fld w 30 25 = 1 := fld_pack [(1, S.toNat)] 5 _ _ e (by decide) q2 rfl rfl
  have f24_20 : fld w 24 20 = d.toNat := fld_pack [(1, S.toNat), (6, 1)] 4 _ _ e (d.isLt) q3 rfl rfl
  have f19_15 : fld w 19 15 = a.toNat := fld_pack [(1, S.toNat), (6, 1), (5, d.toNat)] 4 _ _ e (a.isLt) q4 rfl rfl
  have f14_10 : fld w 14 10 = b.toNat := fld_pack [(1, S.toNat), (6, 1), (5, d.toNat), (5, a.toNat)] 4 _ _ e (b.isLt) q5 rfl rfl
  have f9_0 : fld w 9 0 = 16 := fld_pack [(1, S.toNat), (6, 1), (5, d.toNat), (5, a.toNat), (5, b.toNat)] 9 _ _ e (by decide) q6 rfl rfl
  have n0 : ¬ (w = 0 ∨ w = 4294967295) := not_blank f30_25 (by decide) (by decide)
  clear e hw
  simp only [decode, n0, if_false, decodeSR, f31_31, f30_25, f24_20, f19_15, f14_10, f9_0, bool_field, bits_field, need_some, Nat.add_zero]
  exact accept_ok hwf

theorem minN (S : Bool) (d : BitVec 5) (a : BitVec 5) (b : BitVec 5) : Statement (.minN S d a b) := by
  intro hwf w hw
  have e := (Option.some.inj hw).symm
  simp only [word_cons, word_nil, place_eq] at e
  replace e : w = pack [(1, S.toNat), (6, 1), (5, d.toNat), (5, a.toNat), (5, b.toNat), (10, 17)] := e.trans (by simp only [pack, total]; omega)
  have q6 : Fits [] := trivial
  have q5 : Fits [(10, 17)] := ⟨by decide, q6⟩
  have q4 : Fits [(5, b.toNat), (10, 17)] := ⟨b.isLt, q5⟩
  have q3 : Fits [(5, a.toNat), (5, b.toNat), (10, 17)] := ⟨a.isLt, q4⟩
  have q2 : Fits [(5, d.toNat), (5, a.toNat), (5, b.toNat), (10, 17)] := ⟨d.isLt, q3⟩
  have f31_31 : fld w 31 31 = S.toNat := fld_pack [] 0 _ _ e (S.toNat_lt) ⟨by decide, q2⟩ rfl rfl
  have f30_25 : fld w 30 25 = 1 := fld_pack [(1, S.toNat)] 5 _ _ e (by decide) q2 rfl rfl
  have f24_20 : fld w 24 20 = d.toNat := fld_pack [(1, S.toNat), (6, 1)] 4 _ _ e (d.isLt) q3 rfl rfl
  have f19_15 : fld w 19 15 = a.toNat := fld_pack [(1, S.toNat), (6, 1), (5, d.toNat)] 4 _ _ e (a.isLt) q4 rfl rfl
  have f14_10 : fld w 14 10 = b.toNat := fld_pack [(1, S.toNat), (6, 1), (5, d.toNat), (5, a.toNat)] 4 _ _ e (b.isLt) q5 rfl rfl
  have f9_0 : fld w 9 0 = 17 := fld_pack [(1, S.toNat), (6, 1), (5, d.toNat), (5, a.toNat), (5, b.toNat)] 9 _ _ e (by decide) q6 rfl rfl
  have n0 : ¬ (w = 0 ∨ w = 4294967295) := not_blank f30_25 (by decide) (by decide)
  clear e hw
  simp only [decode, n0, if_false, decodeSR, f31_31, f30_25, f24_20, f19_15, f14_10, f9_0, bool_field, bits_field, need_some, Nat.add_zero]
  exact accept_ok hwf

theorem maxN (S : Bool) (d : BitVec 5) (a : BitVec 5) (b : BitVec 5) : Statement (.maxN S d a b) := by
  intro hwf w hw
  have e := (Option.some.inj hw).symm
  simp only [word_cons, word_nil, place_eq] at e
  replace e : w = pack [(1, S.toNat), (6, 1), (5, d.toNat), (5, a.toNat), (5, b.toNat), (10, 18)] := e.trans (by simp only [pack, total]; omega)
  have q6 : Fits [] := trivial
  have q5 : Fits [(10, 18)] := ⟨by decide, q6⟩
  have q4 : Fits [(5, b.toNat), (10, 18)] := ⟨b.isLt, q5⟩
  have q3 : Fits [(5, a.toNat), (5, b.toNat), (10, 18)] := ⟨a.isLt, q4⟩
  have q2 : Fits [(5, d.toNat), (5, a.toNat), (5, b.toNat), (10, 18)] := ⟨d.isLt, q3⟩
  have f31_31 : fld w 31 31 = S.toNat := fld_pack [] 0 _ _ e (S.toNat_lt) ⟨by decide, q2⟩ rfl rfl
  have f30_25 : fld w 30 25 = 1 := fld_pack [(1, S.toNat)] 5 _ _ e (by decide) q2 rfl rfl
  have f24_20 : fld w 24 20 = d.toNat := fld_pack [(1, S.toNat), (6, 1)] 4 _ _ e (d.isLt) q3 rfl rfl
  have f19_15 : fld w 19 15 = a.toNat := fld_pack [(1, S.toNat), (6, 1), (5, d.toNat)] 4 _ _ e (a.isLt) q4 rfl rfl
  have f14_10 : fld w 14 10 = b.toNat := fld_pack [(1, S.toNat), (6, 1), (5, d.toNat), (5, a.toNat)] 4 _ _ e (b.isLt) q5 rfl rfl
  have f9_0 : fld w 9 0 = 18 := fld_pack [(1, S.toNat), (6, 1), (5, d.toNat), (5, a.toNat), (5, b.toNat)] 9 _ _ e (by decide) q6 rfl rfl
  have n0 : ¬ (w = 0 ∨ w = 4294967295) := not_blank f30_25 (by decide) (by decide)
  clear e hw
  simp only [decode, n0, if_false, decodeSR, f31_31, f30_25, f24_20, f19_15, f14_10, f9_0, bool_field, bits_field, need_some, Nat.add_zero]
  exact accept_ok hwf

theorem sltS (S : Bool) (d : BitVec 5) (a : BitVec 5) (b : BitVec 5) : Statement (.sltS S d a b) := by
  intro hwf w hw
  have e := (Option.some.inj hw).symm
  simp only [word_cons, word_nil, place_eq] at e
  replace e : w = pack [(1, S.toNat), (6, 1), (5, d.toNat), (5, a.toNat), (5, b.toNat), (10, 19)] := e.trans (by simp only [pack, total]; omega)
  have q6 : Fits [] := trivial
  have q5 : Fits [(10, 19)] := ⟨by decide, q6⟩
  have q4 : Fits [(5, b.toNat), (10, 19)] := ⟨b.isLt, q5⟩
  have q3 : Fits [(5, a.toNat), (5, b.toNat), (10, 19)] := ⟨a.isLt, q4⟩
  have q2 : Fits [(5, d.toNat), (5, a.toNat), (5, b.toNat), (10, 19)] := ⟨d.isLt, q3⟩
  have f31_31 : fld w 31 31 = S.toNat := fld_pack [] 0 _ _ e (S.toNat_lt) ⟨by decide, q2⟩ rfl rfl
  have f30_25 : fld w 30 25 = 1 := fld_pack [(1, S.toNat)] 5 _ _ e (by decide) q2 rfl rfl
  have f24_20 : fld w 24 20 = d.toNat := fld_pack [(1, S.toNat), (6, 1)] 4 _ _ e (d.isLt) q3 rfl rfl
  have f19_15 : fld w 19 15 = a.toNat := fld_pack [(1, S.toNat), (6, 1), (5, d.toNat)] 4 _ _ e (a.isLt) q4 rfl rfl
  have f14_10 : fld w 14 10 = b.toNat := fld_pack [(1, S.toNat), (6, 1), (5, d.toNat), (5, a.toNat)] 4 _ _ e (b.isLt) q5 rfl rfl
  have f9_0 : fld w 9 0 = 19 := fld_pack [(1, S.toNat), (6, 1), (5, d.toNat), (5, a.toNat), (5, b.toNat)] 9 _ _ e (by decide) q6 rfl rfl
  have n0 : ¬ (w = 0 ∨ w = 4294967295) := not_blank f30_25 (by decide) (by decide)
  clear e hw
  simp only [decode, n0, if_false, decodeSR, f31_31, f30_25, f24_20, f19_15, f14_10, f9_0, bool_field, bits_field, need_some, Nat.add_zero]
  exact accept_ok hwf

theorem sltN (S : Bool) (d : BitVec 5) (a : BitVec 5) (b : BitVec 5) : Statement (.sltN S d a b) := by
  intro hwf w hw
  have e := (Option.some.inj hw).symm
  simp only [word_cons, word_nil, place_eq] at e
  replace e : w = pack [(1, S.toNat), (6, 1), (5, d.toNat), (5, a.toNat), (5, b.toNat), (10, 20)] := e.trans (by simp only [pack, total]; omega)
  have q6 : Fits [] := trivial
  have q5 : Fits [(10, 20)] := ⟨by decide, q6⟩
  have q4 : Fits [(5, b.toNat), (10, 20)] := ⟨b.isLt, q5⟩
  have q3 : Fits [(5, a.toNat), (5, b.toNat), (10, 20)] := ⟨a.isLt, q4⟩
  have q2 : Fits [(5, d.toNat), (5, a.toNat), (5, b.toNat), (10, 20)] := ⟨d.isLt, q3⟩
  have f31_31 : fld w 31 31 = S.toNat := fld_pack [] 0 _ _ e (S.toNat_lt) ⟨by decide, q2⟩ rfl rfl
  have f30_25 : fld w 30 25 = 1 := fld_pack [(1, S.toNat)] 5 _ _ e (by decide) q2 rfl rfl
  have f24_20 : fld w 24 20 = d.toNat := fld_pack [(1, S.toNat), (6, 1)] 4 _ _ e (d.isLt) q3 rfl rfl
  have f19_15 : fld w 19 15 = a.toNat := fld_pack [(1, S.toNat), (6, 1), (5, d.toNat)] 4 _ _ e (a.isLt) q4 rfl rfl
  have f14_10 : fld w 14 10 = b.toNat := fld_pack [(1, S.toNat), (6, 1), (5, d.toNat), (5, a.toNat)] 4 _ _ e (b.isLt) q5 rfl rfl
  have f9_0 : fld w 9 0 = 20 := fld_pack [(1, S.toNat), (6, 1), (5, d.toNat), (5, a.toNat), (5, b.toNat)] 9 _ _ e (by decide) q6 rfl rfl
  have n0 : ¬ (w = 0 ∨ w = 4294967295) := not_blank f30_25 (by decide) (by decide)
  clear e hw
  simp only [decode, n0, if_false, decodeSR, f31_31, f30_25, f24_20, f19_15, f14_10, f9_0, bool_field, bits_field, need_some, Nat.add_zero]
  exact accept_ok hwf

theorem seq (S : Bool) (d : BitVec 5) (a : BitVec 5) (b : BitVec 5) : Statement (.seq S d a b) := by
  intro hwf w hw
  have e := (Option.some.inj hw).symm
  simp only [word_cons, word_nil, place_eq] at e
  replace e : w = pack [(1, S.toNat), (6, 1), (5, d.toNat), (5, a.toNat), (5, b.toNat), (10, 21)] := e.trans (by simp only [pack, total]; omega)
  have q6 : Fits [] := trivial
  have q5 : Fits [(10, 21)] := ⟨by decide, q6⟩
  have q4 : Fits [(5, b.toNat), (10, 21)] := ⟨b.isLt, q5⟩
  have q3 : Fits [(5, a.toNat), (5, b.toNat), (10, 21)] := ⟨a.isLt, q4⟩
  have q2 : Fits [(5, d.toNat), (5, a.toNat), (5, b.toNat), (10, 21)] := ⟨d.isLt, q3⟩
  have f31_31 : fld w 31 31 = S.toNat := fld_pack [] 0 _ _ e (S.toNat_lt) ⟨by decide, q2⟩ rfl rfl
  have f30_25 : fld w 30 25 = 1 := fld_pack [(1, S.toNat)] 5 _ _ e (by decide) q2 rfl rfl
  have f24_20 : fld w 24 20 = d.toNat := fld_pack [(1, S.toNat), (6, 1)] 4 _ _ e (d.isLt) q3 rfl rfl
  have f19_15 : fld w 19 15 = a.toNat := fld_pack [(1, S.toNat), (6, 1), (5, d.toNat)] 4 _ _ e (a.isLt) q4 rfl rfl
  have f14_10 : fld w 14 10 = b.toNat := fld_pack [(1, S.toNat), (6, 1), (5, d.toNat), (5, a.toNat)] 4 _ _ e (b.isLt) q5 rfl rfl
  have f9_0 : fld w 9 0 = 21 := fld_pack [(1, S.toNat), (6, 1), (5, d.toNat), (5, a.toNat), (5, b.toNat)] 9 _ _ e (by decide) q6 rfl rfl
  have n0 : ¬ (w = 0 ∨ w = 4294967295) := not_blank f30_25 (by decide) (by decide)
  clear e hw
  simp only [decode, n0, if_false, decodeSR, f31_31, f30_25, f24_20, f19_15, f14_10, f9_0, bool_field, bits_field, need_some, Nat.add_zero]
  exact accept_ok hwf

theorem bfxS (S : Bool) (d : BitVec 5) (a : BitVec 5) (b : BitVec 5) : Statement (.bfxS S d a b) := by
  intro hwf w hw
  have e := (Option.some.inj hw).symm
  simp only [word_cons, word_nil, place_eq] at e
  replace e : w = pack [(1, S.toNat), (6, 1), (5, d.toNat), (5, a.toNat), (5, b.toNat), (10, 22)] := e.trans (by simp only [pack, total]; omega)
  have q6 : Fits [] := trivial
  have q5 : Fits [(10, 22)] := ⟨by decide, q6⟩
  have q4 : Fits [(5, b.toNat), (10, 22)] := ⟨b.isLt, q5⟩
  have q3 : Fits [(5, a.toNat), (5, b.toNat), (10, 22)] := ⟨a.isLt, q4⟩
  have q2 : Fits [(5, d.toNat), (5, a.toNat), (5, b.toNat), (10, 22)] := ⟨d.isLt, q3⟩
  have f31_31 : fld w 31 31 = S.toNat := fld_pack [] 0 _ _ e (S.toNat_lt) ⟨by decide, q2⟩ rfl rfl
  have f30_25 : fld w 30 25 = 1 := fld_pack [(1, S.toNat)] 5 _ _ e (by decide) q2 rfl rfl
  have f24_20 : fld w 24 20 = d.toNat := fld_pack [(1, S.toNat), (6, 1)] 4 _ _ e (d.isLt) q3 rfl rfl
  have f19_15 : fld w 19 15 = a.toNat := fld_pack [(1, S.toNat), (6, 1), (5, d.toNat)] 4 _ _ e (a.isLt) q4 rfl rfl
  have f14_10 : fld w 14 10 = b.toNat := fld_pack [(1, S.toNat), (6, 1), (5, d.toNat), (5, a.toNat)] 4 _ _ e (b.isLt) q5 rfl rfl
  have f9_0 : fld w 9 0 = 22 := fld_pack [(1, S.toNat), (6, 1), (5, d.toNat), (5, a.toNat), (5, b.toNat)] 9 _ _ e (by decide) q6 rfl rfl
  have n0 : ¬ (w = 0 ∨ w = 4294967295) := not_blank f30_25 (by decide) (by decide)
  clear e hw
  simp only [decode, n0, if_false, decodeSR, f31_31, f30_25, f24_20, f19_15, f14_10, f9_0, bool_field, bits_field, need_some, Nat.add_zero]
  exact accept_ok hwf

theorem bfxN (S : Bool) (d : BitVec 5) (a : BitVec 5) (b : BitVec 5) : Statement (.bfxN S d a b) := by
  intro hwf w hw
  have e := (Option.some.inj hw).symm
  simp only [word_cons, word_nil, place_eq] at e
  replace e : w = pack [(1, S.toNat), (6, 1), (5, d.toNat), (5, a.toNat), (5, b.toNat), (10, 23)] := e.trans (by simp only [pack, total]; omega)
  have q6 : Fits [] := trivial
  have q5 : Fits [(10, 23)] := ⟨by decide, q6⟩
  have q4 : Fits [(5, b.toNat), (10, 23)] := ⟨b.isLt, q5⟩
  have q3 : Fits [(5, a.toNat), (5, b.toNat), (10, 23)] := ⟨a.isLt, q4⟩
  have q2 : Fits [(5, d.toNat), (5, a.toNat), (5, b.toNat), (10, 23)] := ⟨d.isLt, q3⟩
  have f31_31 : fld w 31 31 = S.toNat := fld_pack [] 0 _ _ e (S.toNat_lt) ⟨by decide, q2⟩ rfl rfl
  have f30_25 : fld w 30 25 = 1 := fld_pack [(1, S.toNat)] 5 _ _ e (by decide) q2 rfl rfl
  have f24_20 : fld w 24 20 = d.toNat := fld_pack [(1, S.toNat), (6, 1)] 4 _ _ e (d.isLt) q3 rfl rfl
  have f19_15 : fld w 19 15 = a.toNat := fld_pack [(1, S.toNat), (6, 1), (5, d.toNat)] 4 _ _ e (a.isLt) q4 rfl rfl
  have f14_10 : fld w 14 10 = b.toNat := fld_pack [(1, S.toNat), (6, 1), (5, d.toNat), (5, a.toNat)] 4 _ _ e (b.isLt) q5 rfl rfl
  have f9_0 : fld w 9 0 = 23 := fld_pack [(1, S.toNat), (6, 1), (5, d.toNat), (5, a.toNat), (5, b.toNat)] 9 _ _ e (by decide) q6 rfl rfl
  have n0 : ¬ (w = 0 ∨ w = 4294967295) := not_blank f30_25 (by decide) (by decide)
  clear e hw
  simp only [decode, n0, if_false, decodeSR, f31_31, f30_25, f24_20, f19_15, f14_10, f9_0, bool_field, bits_field, need_some, Nat.add_zero]
  exact accept_ok hwf

theorem bfi (S : Bool) (d : BitVec 5) (a : BitVec 5) (b : BitVec 5) : Statement (.bfi S d a b) := by
  intro hwf w hw
  have e := (Option.some.inj hw).symm
  simp only [word_cons, word_nil, place_eq] at e
  replace e : w = pack [(1, S.toNat), (6, 1), (5, d.toNat), (5, a.toNat), (5, b.toNat), (10, 24)] := e.trans (by simp only [pack, total]; omega)
  have q6 : Fits [] := trivial
  have q5 : Fits [(10, 24)] := ⟨by decide, q6⟩
  have q4 : Fits [(5, b.toNat), (10, 24)] := ⟨b.isLt, q5⟩
  have q3 : Fits [(5, a.toNat), (5, b.toNat), (10, 24)] := ⟨a.isLt, q4⟩
  have q2 : Fits [(5, d.toNat), (5, a.toNat), (5, b.toNat), (10, 24)] := ⟨d.isLt, q3⟩
  have f31_31 : fld w 31 31 = S.toNat := fld_pack [] 0 _ _ e (S.toNat_lt) ⟨by decide, q2⟩ rfl rfl
  have f30_25 : fld w 30 25 = 1 := fld_pack [(1, S.toNat)] 5 _ _ e (by decide) q2 rfl rfl
  have f24_20 : fld w 24 20 = d.toNat := fld_pack [(1, S.toNat), (6, 1)] 4 _ _ e (d.isLt) q3 rfl rfl
  have f19_15 : fld w 19 15 = a.toNat := fld_pack [(1, S.toNat), (6, 1), (5, d.toNat)] 4 _ _ e (a.isLt) q4 rfl rfl
  have f14_10 : fld w 14 10 = b.toNat := fld_pack [(1, S.toNat), (6, 1), (5, d.toNat), (5, a.toNat)] 4 _ _ e (b.isLt) q5 rfl rfl
  have f9_0 : fld w 9 0 = 24 := fld_pack [(1, S.toNat), (6, 1), (5, d.toNat), (5, a.toNat), (5, b.toNat)] 9 _ _ e (by decide) q6 rfl rfl
  have n0 : ¬ (w = 0 ∨ w = 4294967295) := not_blank f30_25 (by decide) (by decide)
  clear e hw
  simp only [decode, n0, if_false, decodeSR, f31_31, f30_25, f24_20, f19_15, f14_10, f9_0, bool_field, bits_field, need_some, Nat.add_zero]
  exact accept_ok hwf

theorem clz (S : Bool) (d : BitVec 5) (a : BitVec 5) : Statement (.clz S d a) := by
  intro hwf w hw
  have e := (Option.some.inj hw).symm
  simp only [word_cons, word_nil, place_eq] at e
  replace e : w = pack [(1, S.toNat), (6, 1), (5, d.toNat), (5, a.toNat), (5, 0), (10, 25)] := e.trans (by simp only [pack, total]; omega)
  have q6 : Fits [] := trivial
  have q5 : Fits [(10, 25)] := ⟨by decide, q6⟩
  have q4 : Fits [(5, 0), (10, 25)] := ⟨Nat.two_pow_pos _, q5⟩
  have q3 : Fits [(5, a.toNat), (5, 0), (10, 25)] := ⟨a.isLt, q4⟩
  have q2 : Fits [(5, d.toNat), (5, a.toNat), (5, 0), (10, 25)] := ⟨d.isLt, q3⟩
  have f31_31 : fld w 31 31 = S.toNat := fld_pack [] 0 _ _ e (S.toNat_lt) ⟨by decide, q2⟩ rfl rfl
  have f30_25 : fld w 30 25 = 1 := fld_pack [(1, S.toNat)] 5 _ _ e (by decide) q2 rfl rfl
  have f24_20 : fld w 24 20 = d.toNat := fld_pack [(1, S.toNat), (6, 1)] 4 _ _ e (d.isLt) q3 rfl rfl
  have f19_15 : fld w 19 15 = a.toNat := fld_pack [(1, S.toNat), (6, 1), (5, d.toNat)] 4 _ _ e (a.isLt) q4 rfl rfl
  have f14_10 : fld w 14 10 = 0 := fld_pack [(1, S.toNat), (6, 1), (5, d.toNat), (5, a.toNat)] 4 _ _ e (Nat.two_pow_pos _) q5 rfl rfl
  have f9_0 : fld w 9 0 = 25 := fld_pack [(1, S.toNat), (6, 1), (5, d.toNat), (5, a.toNat), (5, 0)] 9 _ _ e (by decide) q6 rfl rfl
  have n0 : ¬ (w = 0 ∨ w = 4294967295) := not_blank f30_25 (by decide) (by decide)
  clear e hw
  simp only [decode, n0, if_false, decodeSR, f31_31, f30_25, f24_20, f19_15, f14_10, f9_0, bool_field, bits_field, need_some, Nat.add_zero]
  exact accept_ok hwf

theorem ctz (S : Bool) (d : BitVec 5) (a : BitVec 5) : Statement (.ctz S d a) := by
  intro hwf w hw
  have e := (Option.some.inj hw).symm
  simp only [word_cons, word_nil, place_eq] at e
  replace e : w = pack [(1, S.toNat), (6, 1), (5, d.toNat), (5, a.toNat), (5, 0), (10, 26)] := e.trans (by simp only [pack, total]; omega)
  have q6 : Fits [] := trivial
  have q5 : Fits [(10, 26)] := ⟨by decide, q6⟩
  have q4 : Fits [(5, 0), (10, 26)] := ⟨Nat.two_pow_pos _, q5⟩
  have q3 : Fits [(5, a.toNat), (5, 0), (10, 26)] := ⟨a.isLt, q4⟩
  have q2 : Fits [(5, d.toNat), (5, a.toNat), (5, 0), (10, 26)] := ⟨d.isLt, q3⟩
  have f31_31 : fld w 31 31 = S.toNat := fld_pack [] 0 _ _ e (S.toNat_lt) ⟨by decide, q2⟩ rfl rfl
  have f30_25 : fld w 30 25 = 1 := fld_pack [(1, S.toNat)] 5 _ _ e (by decide) q2 rfl rfl
  have f24_20 : fld w 24 20 = d.toNat := fld_pack [(1, S.toNat), (6, 1)] 4 _ _ e (d.isLt) q3 rfl rfl
  have f19_15 : fld w 19 15 = a.toNat := fld_pack [(1, S.toNat), (6, 1), (5, d.toNat)] 4 _ _ e (a.isLt) q4 rfl rfl
  have f14_10 : fld w 14 10 = 0 := fld_pack [(1, S.toNat), (6, 1), (5, d.toNat), (5, a.toNat)] 4 _ _ e (Nat.two_pow_pos _) q5 rfl rfl
  have f9_0 : fld w 9 0 = 26 := fld_pack [(1, S.toNat), (6, 1), (5, d.toNat), (5, a.toNat), (5, 0)] 9 _ _ e (by decide) q6 rfl rfl
  have n0 : ¬ (w = 0 ∨ w = 4294967295) := not_blank f30_25 (by decide) (by decide)
  clear e hw
  simp only [decode, n0, if_false, decodeSR, f31_31, f30_25, f24_20, f19_15, f14_10, f9_0, bool_field, bits_field, need_some, Nat.add_zero]
  exact accept_ok hwf

theorem popc (S : Bool) (d : BitVec 5) (a : BitVec 5) : Statement (.popc S d a) := by
  intro hwf w hw
  have e := (Option.some.inj hw).symm
  simp only [word_cons, word_nil, place_eq] at e
  replace e : w = pack [(1, S.toNat), (6, 1), (5, d.toNat), (5, a.toNat), (5, 0), (10, 27)] := e.trans (by simp only [pack, total]; omega)
  have q6 : Fits [] := trivial
  have q5 : Fits [(10, 27)] := ⟨by decide, q6⟩
  have q4 : Fits [(5, 0), (10, 27)] := ⟨Nat.two_pow_pos _, q5⟩
  have q3 : Fits [(5, a.toNat), (5, 0), (10, 27)] := ⟨a.isLt, q4⟩
  have q2 : Fits [(5, d.toNat), (5, a.toNat), (5, 0), (10, 27)] := ⟨d.isLt, q3⟩
  have f31_31 : fld w 31 31 = S.toNat := fld_pack [] 0 _ _ e (S.toNat_lt) ⟨by decide, q2⟩ rfl rfl
  have f30_25 : fld w 30 25 = 1 := fld_pack [(1, S.toNat)] 5 _ _ e (by decide) q2 rfl rfl
  have f24_20 : fld w 24 20 = d.toNat := fld_pack [(1, S.toNat), (6, 1)] 4 _ _ e (d.isLt) q3 rfl rfl
  have f19_15 : fld w 19 15 = a.toNat := fld_pack [(1, S.toNat), (6, 1), (5, d.toNat)] 4 _ _ e (a.isLt) q4 rfl rfl
  have f14_10 : fld w 14 10 = 0 := fld_pack [(1, S.toNat), (6, 1), (5, d.toNat), (5, a.toNat)] 4 _ _ e (Nat.two_pow_pos _) q5 rfl rfl
  have f9_0 : fld w 9 0 = 27 := fld_pack [(1, S.toNat), (6, 1), (5, d.toNat), (5, a.toNat), (5, 0)] 9 _ _ e (by decide) q6 rfl rfl
  have n0 : ¬ (w = 0 ∨ w = 4294967295) := not_blank f30_25 (by decide) (by decide)
  clear e hw
  simp only [decode, n0, if_false, decodeSR, f31_31, f30_25, f24_20, f19_15, f14_10, f9_0, bool_field, bits_field, need_some, Nat.add_zero]
  exact accept_ok hwf

theorem jalr (S : Bool) (d : BitVec 5) (a : BitVec 5) : Statement (.jalr S d a) := by
  intro hwf w hw
  have e := (Option.some.inj hw).symm
  simp only [word_cons, word_nil, place_eq] at e
  replace e : w = pack [(1, S.toNat), (6, 1), (5, d.toNat), (5, a.toNat), (5, 0), (10, 28)] := e.trans (by simp only [pack, total]; omega)
  have q6 : Fits [] := trivial
  have q5 : Fits [(10, 28)] := ⟨by decide, q6⟩
  have q4 : Fits [(5, 0), (10, 28)] := ⟨Nat.two_pow_pos _, q5⟩
  have q3 : Fits [(5, a.toNat), (5, 0), (10, 28)] := ⟨a.isLt, q4⟩
  have q2 : Fits [(5, d.toNat), (5, a.toNat), (5, 0), (10, 28)] := ⟨d.isLt, q3⟩
  have f31_31 : fld w 31 31 = S.toNat := fld_pack [] 0 _ _ e (S.toNat_lt) ⟨by decide, q2⟩ rfl rfl
  have f30_25 : fld w 30 25 = 1 := fld_pack [(1, S.toNat)] 5 _ _ e (by decide) q2 rfl rfl
  have f24_20 : fld w 24 20 = d.toNat := fld_pack [(1, S.toNat), (6, 1)] 4 _ _ e (d.isLt) q3 rfl rfl
  have f19_15 : fld w 19 15 = a.toNat := fld_pack [(1, S.toNat), (6, 1), (5, d.toNat)] 4 _ _ e (a.isLt) q4 rfl rfl
  have f14_10 : fld w 14 10 = 0 := fld_pack [(1, S.toNat), (6, 1), (5, d.toNat), (5, a.toNat)] 4 _ _ e (Nat.two_pow_pos _) q5 rfl rfl
  have f9_0 : fld w 9 0 = 28 := fld_pack [(1, S.toNat), (6, 1), (5, d.toNat), (5, a.toNat), (5, 0)] 9 _ _ e (by decide) q6 rfl rfl
  have n0 : ¬ (w = 0 ∨ w = 4294967295) := not_blank f30_25 (by decide) (by decide)
  clear e hw
  simp only [decode, n0, if_false, decodeSR, f31_31, f30_25, f24_20, f19_15, f14_10, f9_0, bool_field, bits_field, need_some, Nat.add_zero]
  exact accept_ok hwf

theorem addi (S : Bool) (d : BitVec 5) (a : BitVec 5) (i : BitVec 12) : Statement (.addi S d a i) := by
  intro hwf w hw
  have e := (Option.some.inj hw).symm
  simp only [word_cons, word_nil, place_eq] at e
  replace e : w = pack [(1, S.toNat), (6, 2), (5, d.toNat), (5, a.toNat), (3, 0), (12, i.toNat)] := e.trans (by simp only [pack, total]; omega)
  have q6 : Fits [] := trivial
  have q5 : Fits [(12, i.toNat)] := ⟨i.isLt, q6⟩
  have q4 : Fits [(3, 0), (12, i.toNat)] := ⟨Nat.two_pow_pos _, q5⟩
  have q3 : Fits [(5, a.toNat), (3, 0), (12, i.toNat)] := ⟨a.isLt, q4⟩
  have q2 : Fits [(5, d.toNat), (5, a.toNat), (3, 0), (12, i.toNat)] := ⟨d.isLt, q3⟩
  have f31_31 : fld w 31 31 = S.toNat := fld_pack [] 0 _ _ e (S.toNat_lt) ⟨by decide, q2⟩ rfl rfl
  have f30_25 : fld w 30 25 = 2 := fld_pack [(1, S.toNat)] 5 _ _ e (by decide) q2 rfl rfl
  have f24_20 : fld w 24 20 = d.toNat := fld_pack [(1, S.toNat), (6, 2)] 4 _ _ e (d.isLt) q3 rfl rfl
  have f19_15 : fld w 19 15 = a.toNat := fld_pack [(1, S.toNat), (6, 2), (5, d.toNat)] 4 _ _ e (a.isLt) q4 rfl rfl
  have f14_12 : fld w 14 12 = 0 := fld_pack [(1, S.toNat), (6, 2), (5, d.toNat), (5, a.toNat)] 2 _ _ e (Nat.two_pow_pos _) q5 rfl rfl
  have f11_0 : fld w 11 0 = i.toNat := fld_pack [(1, S.toNat), (6, 2), (5, d.toNat), (5, a.toNat), (3, 0)] 11 _ _ e (i.isLt) q6 rfl rfl
  have n0 : ¬ (w = 0 ∨ w = 4294967295) := not_blank f30_25 (by decide) (by decide)
  clear e hw
  simp only [decode, n0, if_false, decodeSI, f31_31, f30_25, f24_20, f19_15, f14_12, f11_0, bool_field, bits_field, need_some, Nat.add_zero]
  exact accept_ok hwf

theorem andi (S : Bool) (d : BitVec 5) (a : BitVec 5) (i : BitVec 12) : Statement (.andi S d a i) := by
  intro hwf w hw
  have e := (Option.some.inj hw).symm
  simp only [word_cons, word_nil, place_eq] at e
  replace e : w = pack [(1, S.toNat), (6, 2), (5, d.toNat), (5, a.toNat), (3, 1), (12, i.toNat)] := e.trans (by simp only [pack, total]; omega)
  have q6 : Fits [] := trivial
  have q5 : Fits [(12, i.toNat)] := ⟨i.isLt, q6⟩
  have q4 : Fits [(3, 1), (12, i.toNat)] := ⟨by decide, q5⟩
  have q3 : Fits [(5, a.toNat), (3, 1), (12, i.toNat)] := ⟨a.isLt, q4⟩
  have q2 : Fits [(5, d.toNat), (5, a.toNat), (3, 1), (12, i.toNat)] := ⟨d.isLt, q3⟩
  have f31_31 : fld w 31 31 = S.toNat := fld_pack [] 0 _ _ e (S.toNat_lt) ⟨by decide, q2⟩ rfl rfl
  have f30_25 : fld w 30 25 = 2 := fld_pack [(1, S.toNat)] 5 _ _ e (by decide) q2 rfl rfl
  have f24_20 : fld w 24 20 = d.toNat := fld_pack [(1, S.toNat), (6, 2)] 4 _ _ e (d.isLt) q3 rfl rfl
  have f19_15 : fld w 19 15 = a.toNat := fld_pack [(1, S.toNat), (6, 2), (5, d.toNat)] 4 _ _ e (a.isLt) q4 rfl rfl
  have f14_12 : fld w 14 12 = 1 := fld_pack [(1, S.toNat), (6, 2), (5, d.toNat), (5, a.toNat)] 2 _ _ e (by decide) q5 rfl rfl
  have f11_0 : fld w 11 0 = i.toNat := fld_pack [(1, S.toNat), (6, 2), (5, d.toNat), (5, a.toNat), (3, 1)] 11 _ _ e (i.isLt) q6 rfl rfl
  have n0 : ¬ (w = 0 ∨ w = 4294967295) := not_blank f30_25 (by decide) (by decide)
  clear e hw
  simp only [decode, n0, if_false, decodeSI, f31_31, f30_25, f24_20, f19_15, f14_12, f11_0, bool_field, bits_field, need_some, Nat.add_zero]
  exact accept_ok hwf

theorem ori (S : Bool) (d : BitVec 5) (a : BitVec 5) (i : BitVec 12) : Statement (.ori S d a i) := by
  intro hwf w hw
  have e := (Option.some.inj hw).symm
  simp only [word_cons, word_nil, place_eq] at e
  replace e : w = pack [(1, S.toNat), (6, 2), (5, d.toNat), (5, a.toNat), (3, 2), (12, i.toNat)] := e.trans (by simp only [pack, total]; omega)
  have q6 : Fits [] := trivial
  have q5 : Fits [(12, i.toNat)] := ⟨i.isLt, q6⟩
  have q4 : Fits [(3, 2), (12, i.toNat)] := ⟨by decide, q5⟩
  have q3 : Fits [(5, a.toNat), (3, 2), (12, i.toNat)] := ⟨a.isLt, q4⟩
  have q2 : Fits [(5, d.toNat), (5, a.toNat), (3, 2), (12, i.toNat)] := ⟨d.isLt, q3⟩
  have f31_31 : fld w 31 31 = S.toNat := fld_pack [] 0 _ _ e (S.toNat_lt) ⟨by decide, q2⟩ rfl rfl
  have f30_25 : fld w 30 25 = 2 := fld_pack [(1, S.toNat)] 5 _ _ e (by decide) q2 rfl rfl
  have f24_20 : fld w 24 20 = d.toNat := fld_pack [(1, S.toNat), (6, 2)] 4 _ _ e (d.isLt) q3 rfl rfl
  have f19_15 : fld w 19 15 = a.toNat := fld_pack [(1, S.toNat), (6, 2), (5, d.toNat)] 4 _ _ e (a.isLt) q4 rfl rfl
  have f14_12 : fld w 14 12 = 2 := fld_pack [(1, S.toNat), (6, 2), (5, d.toNat), (5, a.toNat)] 2 _ _ e (by decide) q5 rfl rfl
  have f11_0 : fld w 11 0 = i.toNat := fld_pack [(1, S.toNat), (6, 2), (5, d.toNat), (5, a.toNat), (3, 2)] 11 _ _ e (i.isLt) q6 rfl rfl
  have n0 : ¬ (w = 0 ∨ w = 4294967295) := not_blank f30_25 (by decide) (by decide)
  clear e hw
  simp only [decode, n0, if_false, decodeSI, f31_31, f30_25, f24_20, f19_15, f14_12, f11_0, bool_field, bits_field, need_some, Nat.add_zero]
  exact accept_ok hwf

theorem xori (S : Bool) (d : BitVec 5) (a : BitVec 5) (i : BitVec 12) : Statement (.xori S d a i) := by
  intro hwf w hw
  have e := (Option.some.inj hw).symm
  simp only [word_cons, word_nil, place_eq] at e
  replace e : w = pack [(1, S.toNat), (6, 2), (5, d.toNat), (5, a.toNat), (3, 3), (12, i.toNat)] := e.trans (by simp only [pack, total]; omega)
  have q6 : Fits [] := trivial
  have q5 : Fits [(12, i.toNat)] := ⟨i.isLt, q6⟩
  have q4 : Fits [(3, 3), (12, i.toNat)] := ⟨by decide, q5⟩
  have q3 : Fits [(5, a.toNat), (3, 3), (12, i.toNat)] := ⟨a.isLt, q4⟩
  have q2 : Fits [(5, d.toNat), (5, a.toNat), (3, 3), (12, i.toNat)] := ⟨d.isLt, q3⟩
  have f31_31 : fld w 31 31 = S.toNat := fld_pack [] 0 _ _ e (S.toNat_lt) ⟨by decide, q2⟩ rfl rfl
  have f30_25 : fld w 30 25 = 2 := fld_pack [(1, S.toNat)] 5 _ _ e (by decide) q2 rfl rfl
  have f24_20 : fld w 24 20 = d.toNat := fld_pack [(1, S.toNat), (6, 2)] 4 _ _ e (d.isLt) q3 rfl rfl
  have f19_15 : fld w 19 15 = a.toNat := fld_pack [(1, S.toNat), (6, 2), (5, d.toNat)] 4 _ _ e (a.isLt) q4 rfl rfl
  have f14_12 : fld w 14 12 = 3 := fld_pack [(1, S.toNat), (6, 2), (5, d.toNat), (5, a.toNat)] 2 _ _ e (by decide) q5 rfl rfl
  have f11_0 : fld w 11 0 = i.toNat := fld_pack [(1, S.toNat), (6, 2), (5, d.toNat), (5, a.toNat), (3, 3)] 11 _ _ e (i.isLt) q6 rfl rfl
  have n0 : ¬ (w = 0 ∨ w = 4294967295) := not_blank f30_25 (by decide) (by decide)
  clear e hw
  simp only [decode, n0, if_false, decodeSI, f31_31, f30_25, f24_20, f19_15, f14_12, f11_0, bool_field, bits_field, need_some, Nat.add_zero]
  exact accept_ok hwf

theorem shli (S : Bool) (d : BitVec 5) (a : BitVec 5) (i : BitVec 12) : Statement (.shli S d a i) := by
  intro hwf w hw
  have e := (Option.some.inj hw).symm
  simp only [word_cons, word_nil, place_eq] at e
  replace e : w = pack [(1, S.toNat), (6, 2), (5, d.toNat), (5, a.toNat), (3, 4), (12, i.toNat)] := e.trans (by simp only [pack, total]; omega)
  have q6 : Fits [] := trivial
  have q5 : Fits [(12, i.toNat)] := ⟨i.isLt, q6⟩
  have q4 : Fits [(3, 4), (12, i.toNat)] := ⟨by decide, q5⟩
  have q3 : Fits [(5, a.toNat), (3, 4), (12, i.toNat)] := ⟨a.isLt, q4⟩
  have q2 : Fits [(5, d.toNat), (5, a.toNat), (3, 4), (12, i.toNat)] := ⟨d.isLt, q3⟩
  have f31_31 : fld w 31 31 = S.toNat := fld_pack [] 0 _ _ e (S.toNat_lt) ⟨by decide, q2⟩ rfl rfl
  have f30_25 : fld w 30 25 = 2 := fld_pack [(1, S.toNat)] 5 _ _ e (by decide) q2 rfl rfl
  have f24_20 : fld w 24 20 = d.toNat := fld_pack [(1, S.toNat), (6, 2)] 4 _ _ e (d.isLt) q3 rfl rfl
  have f19_15 : fld w 19 15 = a.toNat := fld_pack [(1, S.toNat), (6, 2), (5, d.toNat)] 4 _ _ e (a.isLt) q4 rfl rfl
  have f14_12 : fld w 14 12 = 4 := fld_pack [(1, S.toNat), (6, 2), (5, d.toNat), (5, a.toNat)] 2 _ _ e (by decide) q5 rfl rfl
  have f11_0 : fld w 11 0 = i.toNat := fld_pack [(1, S.toNat), (6, 2), (5, d.toNat), (5, a.toNat), (3, 4)] 11 _ _ e (i.isLt) q6 rfl rfl
  have n0 : ¬ (w = 0 ∨ w = 4294967295) := not_blank f30_25 (by decide) (by decide)
  clear e hw
  simp only [decode, n0, if_false, decodeSI, f31_31, f30_25, f24_20, f19_15, f14_12, f11_0, bool_field, bits_field, need_some, Nat.add_zero]
  exact accept_ok hwf

theorem shri (S : Bool) (d : BitVec 5) (a : BitVec 5) (i : BitVec 12) : Statement (.shri S d a i) := by
  intro hwf w hw
  have e := (Option.some.inj hw).symm
  simp only [word_cons, word_nil, place_eq] at e
  replace e : w = pack [(1, S.toNat), (6, 2), (5, d.toNat), (5, a.toNat), (3, 5), (12, i.toNat)] := e.trans (by simp only [pack, total]; omega)
  have q6 : Fits [] := trivial
  have q5 : Fits [(12, i.toNat)] := ⟨i.isLt, q6⟩
  have q4 : Fits [(3, 5), (12, i.toNat)] := ⟨by decide, q5⟩
  have q3 : Fits [(5, a.toNat), (3, 5), (12, i.toNat)] := ⟨a.isLt, q4⟩
  have q2 : Fits [(5, d.toNat), (5, a.toNat), (3, 5), (12, i.toNat)] := ⟨d.isLt, q3⟩
  have f31_31 : fld w 31 31 = S.toNat := fld_pack [] 0 _ _ e (S.toNat_lt) ⟨by decide, q2⟩ rfl rfl
  have f30_25 : fld w 30 25 = 2 := fld_pack [(1, S.toNat)] 5 _ _ e (by decide) q2 rfl rfl
  have f24_20 : fld w 24 20 = d.toNat := fld_pack [(1, S.toNat), (6, 2)] 4 _ _ e (d.isLt) q3 rfl rfl
  have f19_15 : fld w 19 15 = a.toNat := fld_pack [(1, S.toNat), (6, 2), (5, d.toNat)] 4 _ _ e (a.isLt) q4 rfl rfl
  have f14_12 : fld w 14 12 = 5 := fld_pack [(1, S.toNat), (6, 2), (5, d.toNat), (5, a.toNat)] 2 _ _ e (by decide) q5 rfl rfl
  have f11_0 : fld w 11 0 = i.toNat := fld_pack [(1, S.toNat), (6, 2), (5, d.toNat), (5, a.toNat), (3, 5)] 11 _ _ e (i.isLt) q6 rfl rfl
  have n0 : ¬ (w = 0 ∨ w = 4294967295) := not_blank f30_25 (by decide) (by decide)
  clear e hw
  simp only [decode, n0, if_false, decodeSI, f31_31, f30_25, f24_20, f19_15, f14_12, f11_0, bool_field, bits_field, need_some, Nat.add_zero]
  exact accept_ok hwf

theorem srai (S : Bool) (d : BitVec 5) (a : BitVec 5) (i : BitVec 12) : Statement (.srai S d a i) := by
  intro hwf w hw
  have e := (Option.some.inj hw).symm
  simp only [word_cons, word_nil, place_eq] at e
  replace e : w = pack [(1, S.toNat), (6, 2), (5, d.toNat), (5, a.toNat), (3, 6), (12, i.toNat)] := e.trans (by simp only [pack, total]; omega)
  have q6 : Fits [] := trivial
  have q5 : Fits [(12, i.toNat)] := ⟨i.isLt, q6⟩
  have q4 : Fits [(3, 6), (12, i.toNat)] := ⟨by decide, q5⟩
  have q3 : Fits [(5, a.toNat), (3, 6), (12, i.toNat)] := ⟨a.isLt, q4⟩
  have q2 : Fits [(5, d.toNat), (5, a.toNat), (3, 6), (12, i.toNat)] := ⟨d.isLt, q3⟩
  have f31_31 : fld w 31 31 = S.toNat := fld_pack [] 0 _ _ e (S.toNat_lt) ⟨by decide, q2⟩ rfl rfl
  have f30_25 : fld w 30 25 = 2 := fld_pack [(1, S.toNat)] 5 _ _ e (by decide) q2 rfl rfl
  have f24_20 : fld w 24 20 = d.toNat := fld_pack [(1, S.toNat), (6, 2)] 4 _ _ e (d.isLt) q3 rfl rfl
  have f19_15 : fld w 19 15 = a.toNat := fld_pack [(1, S.toNat), (6, 2), (5, d.toNat)] 4 _ _ e (a.isLt) q4 rfl rfl
  have f14_12 : fld w 14 12 = 6 := fld_pack [(1, S.toNat), (6, 2), (5, d.toNat), (5, a.toNat)] 2 _ _ e (by decide) q5 rfl rfl
  have f11_0 : fld w 11 0 = i.toNat := fld_pack [(1, S.toNat), (6, 2), (5, d.toNat), (5, a.toNat), (3, 6)] 11 _ _ e (i.isLt) q6 rfl rfl
  have n0 : ¬ (w = 0 ∨ w = 4294967295) := not_blank f30_25 (by decide) (by decide)
  clear e hw
  simp only [decode, n0, if_false, decodeSI, f31_31, f30_25, f24_20, f19_15, f14_12, f11_0, bool_field, bits_field, need_some, Nat.add_zero]
  exact accept_ok hwf

theorem sltiS (S : Bool) (d : BitVec 5) (a : BitVec 5) (i : BitVec 12) : Statement (.sltiS S d a i) := by
  intro hwf w hw
  have e := (Option.some.inj hw).symm
  simp only [word_cons, word_nil, place_eq] at e
  replace e : w = pack [(1, S.toNat), (6, 2), (5, d.toNat), (5, a.toNat), (3, 7), (12, i.toNat)] := e.trans (by simp only [pack, total]; omega)
  have q6 : Fits [] := trivial
  have q5 : Fits [(12, i.toNat)] := ⟨i.isLt, q6⟩
  have q4 : Fits [(3, 7), (12, i.toNat)] := ⟨by decide, q5⟩
  have q3 : Fits [(5, a.toNat), (3, 7), (12, i.toNat)] := ⟨a.isLt, q4⟩
  have q2 : Fits [(5, d.toNat), (5, a.toNat), (3, 7), (12, i.toNat)] := ⟨d.isLt, q3⟩
  have f31_31 : fld w 31 31 = S.toNat := fld_pack [] 0 _ _ e (S.toNat_lt) ⟨by decide, q2⟩ rfl rfl
  have f30_25 : fld w 30 25 = 2 := fld_pack [(1, S.toNat)] 5 _ _ e (by decide) q2 rfl rfl
  have f24_20 : fld w 24 20 = d.toNat := fld_pack [(1, S.toNat), (6, 2)] 4 _ _ e (d.isLt) q3 rfl rfl
  have f19_15 : fld w 19 15 = a.toNat := fld_pack [(1, S.toNat), (6, 2), (5, d.toNat)] 4 _ _ e (a.isLt) q4 rfl rfl
  have f14_12 : fld w 14 12 = 7 := fld_pack [(1, S.toNat), (6, 2), (5, d.toNat), (5, a.toNat)] 2 _ _ e (by decide) q5 rfl rfl
  have f11_0 : fld w 11 0 = i.toNat := fld_pack [(1, S.toNat), (6, 2), (5, d.toNat), (5, a.toNat), (3, 7)] 11 _ _ e (i.isLt) q6 rfl rfl
  have n0 : ¬ (w = 0 ∨ w = 4294967295) := not_blank f30_25 (by decide) (by decide)
  clear e hw
  simp only [decode, n0, if_false, decodeSI, f31_31, f30_25, f24_20, f19_15, f14_12, f11_0, bool_field, bits_field, need_some, Nat.add_zero]
  exact accept_ok hwf

theorem luh (S : Bool) (d : BitVec 5) (i : BitVec 20) : Statement (.luh S d i) := by
  intro hwf w hw
  have e := (Option.some.inj hw).symm
  simp only [word_cons, word_nil, place_eq] at e
  replace e : w = pack [(1, S.toNat), (6, 3), (5, d.toNat), (20, i.toNat)] := e.trans (by simp only [pack, total]; omega)
  have q4 : Fits [] := trivial
  have q3 : Fits [(20, i.toNat)] := ⟨i.isLt, q4⟩
  have q2 : Fits [(5, d.toNat), (20, i.toNat)] := ⟨d.isLt, q3⟩
  have f31_31 : fld w 31 31 = S.toNat := fld_pack [] 0 _ _ e (S.toNat_lt) ⟨by decide, q2⟩ rfl rfl
  have f30_25 : fld w 30 25 = 3 := fld_pack [(1, S.toNat)] 5 _ _ e (by decide) q2 rfl rfl
  have f24_20 : fld w 24 20 = d.toNat := fld_pack [(1, S.toNat), (6, 3)] 4 _ _ e (d.isLt) q3 rfl rfl
  have f19_0 : fld w 19 0 = i.toNat := fld_pack [(1, S.toNat), (6, 3), (5, d.toNat)] 19 _ _ e (i.isLt) q4 rfl rfl
  have n0 : ¬ (w = 0 ∨ w = 4294967295) := not_blank f30_25 (by decide) (by decide)
  clear e hw
  simp only [decode, n0, if_false, decodeSU, f31_31, f30_25, f24_20, f19_0, bool_field, bits_field, need_some, Nat.add_zero]
  exact accept_ok hwf

theorem ldsN8 (S : Bool) (d : BitVec 5) (k : BitVec 4) (a : BitVec 5) (i : BitVec 8) : Statement (.ldsN8 S d k a i) := by
  intro hwf w hw
  have e := (Option.some.inj hw).symm
  simp only [word_cons, word_nil, place_eq] at e
  replace e : w = pack [(1, S.toNat), (6, 4), (5, d.toNat), (4, k.toNat), (5, a.toNat), (3, 0), (8, i.toNat)] := e.trans (by simp only [pack, total]; omega)
  have q7 : Fits [] := trivial
  have q6 : Fits [(8, i.toNat)] := ⟨i.isLt, q7⟩
  have q5 : Fits [(3, 0), (8, i.toNat)] := ⟨Nat.two_pow_pos _, q6⟩
  have q4 : Fits [(5, a.toNat), (3, 0), (8, i.toNat)] := ⟨a.isLt, q5⟩
  have q3 : Fits [(4, k.toNat), (5, a.toNat), (3, 0), (8, i.toNat)] := ⟨k.isLt, q4⟩
  have q2 : Fits [(5, d.toNat), (4, k.toNat), (5, a.toNat), (3, 0), (8, i.toNat)] := ⟨d.isLt, q3⟩
  have f31_31 : fld w 31 31 = S.toNat := fld_pack [] 0 _ _ e (S.toNat_lt) ⟨by decide, q2⟩ rfl rfl
  have f30_25 : fld w 30 25 = 4 := fld_pack [(1, S.toNat)] 5 _ _ e (by decide) q2 rfl rfl
  have f24_20 : fld w 24 20 = d.toNat := fld_pack [(1, S.toNat), (6, 4)] 4 _ _ e (d.isLt) q3 rfl rfl
  have f19_16 : fld w 19 16 = k.toNat := fld_pack [(1, S.toNat), (6, 4), (5, d.toNat)] 3 _ _ e (k.isLt) q4 rfl rfl
  have f15_11 : fld w 15 11 = a.toNat := fld_pack [(1, S.toNat), (6, 4), (5, d.toNat), (4, k.toNat)] 4 _ _ e (a.isLt) q5 rfl rfl
  have f10_8 : fld w 10 8 = 0 := fld_pack [(1, S.toNat), (6, 4), (5, d.toNat), (4, k.toNat), (5, a.toNat)] 2 _ _ e (Nat.two_pow_pos _) q6 rfl rfl
  have f7_0 : fld w 7 0 = i.toNat := fld_pack [(1, S.toNat), (6, 4), (5, d.toNat), (4, k.toNat), (5, a.toNat), (3, 0)] 7 _ _ e (i.isLt) q7 rfl rfl
  have n0 : ¬ (w = 0 ∨ w = 4294967295) := not_blank f30_25 (by decide) (by decide)
  clear e hw
  simp only [decode, n0, if_false, decodeSM, f31_31, f30_25, f24_20, f19_16, f15_11, f10_8, f7_0, bool_field, bits_field, need_some, Nat.add_zero]
  exact accept_ok hwf

theorem ldsN16 (S : Bool) (d : BitVec 5) (k : BitVec 4) (a : BitVec 5) (i : BitVec 8) : Statement (.ldsN16 S d k a i) := by
  intro hwf w hw
  have e := (Option.some.inj hw).symm
  simp only [word_cons, word_nil, place_eq] at e
  replace e : w = pack [(1, S.toNat), (6, 4), (5, d.toNat), (4, k.toNat), (5, a.toNat), (3, 1), (8, i.toNat)] := e.trans (by simp only [pack, total]; omega)
  have q7 : Fits [] := trivial
  have q6 : Fits [(8, i.toNat)] := ⟨i.isLt, q7⟩
  have q5 : Fits [(3, 1), (8, i.toNat)] := ⟨by decide, q6⟩
  have q4 : Fits [(5, a.toNat), (3, 1), (8, i.toNat)] := ⟨a.isLt, q5⟩
  have q3 : Fits [(4, k.toNat), (5, a.toNat), (3, 1), (8, i.toNat)] := ⟨k.isLt, q4⟩
  have q2 : Fits [(5, d.toNat), (4, k.toNat), (5, a.toNat), (3, 1), (8, i.toNat)] := ⟨d.isLt, q3⟩
  have f31_31 : fld w 31 31 = S.toNat := fld_pack [] 0 _ _ e (S.toNat_lt) ⟨by decide, q2⟩ rfl rfl
  have f30_25 : fld w 30 25 = 4 := fld_pack [(1, S.toNat)] 5 _ _ e (by decide) q2 rfl rfl
  have f24_20 : fld w 24 20 = d.toNat := fld_pack [(1, S.toNat), (6, 4)] 4 _ _ e (d.isLt) q3 rfl rfl
  have f19_16 : fld w 19 16 = k.toNat := fld_pack [(1, S.toNat), (6, 4), (5, d.toNat)] 3 _ _ e (k.isLt) q4 rfl rfl
  have f15_11 : fld w 15 11 = a.toNat := fld_pack [(1, S.toNat), (6, 4), (5, d.toNat), (4, k.toNat)] 4 _ _ e (a.isLt) q5 rfl rfl
  have f10_8 : fld w 10 8 = 1 := fld_pack [(1, S.toNat), (6, 4), (5, d.toNat), (4, k.toNat), (5, a.toNat)] 2 _ _ e (by decide) q6 rfl rfl
  have f7_0 : fld w 7 0 = i.toNat := fld_pack [(1, S.toNat), (6, 4), (5, d.toNat), (4, k.toNat), (5, a.toNat), (3, 1)] 7 _ _ e (i.isLt) q7 rfl rfl
  have n0 : ¬ (w = 0 ∨ w = 4294967295) := not_blank f30_25 (by decide) (by decide)
  clear e hw
  simp only [decode, n0, if_false, decodeSM, f31_31, f30_25, f24_20, f19_16, f15_11, f10_8, f7_0, bool_field, bits_field, need_some, Nat.add_zero]
  exact accept_ok hwf

theorem ldsN32 (S : Bool) (d : BitVec 5) (k : BitVec 4) (a : BitVec 5) (i : BitVec 8) : Statement (.ldsN32 S d k a i) := by
  intro hwf w hw
  have e := (Option.some.inj hw).symm
  simp only [word_cons, word_nil, place_eq] at e
  replace e : w = pack [(1, S.toNat), (6, 4), (5, d.toNat), (4, k.toNat), (5, a.toNat), (3, 2), (8, i.toNat)] := e.trans (by simp only [pack, total]; omega)
  have q7 : Fits [] := trivial
  have q6 : Fits [(8, i.toNat)] := ⟨i.isLt, q7⟩
  have q5 : Fits [(3, 2), (8, i.toNat)] := ⟨by decide, q6⟩
  have q4 : Fits [(5, a.toNat), (3, 2), (8, i.toNat)] := ⟨a.isLt, q5⟩
  have q3 : Fits [(4, k.toNat), (5, a.toNat), (3, 2), (8, i.toNat)] := ⟨k.isLt, q4⟩
  have q2 : Fits [(5, d.toNat), (4, k.toNat), (5, a.toNat), (3, 2), (8, i.toNat)] := ⟨d.isLt, q3⟩
  have f31_31 : fld w 31 31 = S.toNat := fld_pack [] 0 _ _ e (S.toNat_lt) ⟨by decide, q2⟩ rfl rfl
  have f30_25 : fld w 30 25 = 4 := fld_pack [(1, S.toNat)] 5 _ _ e (by decide) q2 rfl rfl
  have f24_20 : fld w 24 20 = d.toNat := fld_pack [(1, S.toNat), (6, 4)] 4 _ _ e (d.isLt) q3 rfl rfl
  have f19_16 : fld w 19 16 = k.toNat := fld_pack [(1, S.toNat), (6, 4), (5, d.toNat)] 3 _ _ e (k.isLt) q4 rfl rfl
  have f15_11 : fld w 15 11 = a.toNat := fld_pack [(1, S.toNat), (6, 4), (5, d.toNat), (4, k.toNat)] 4 _ _ e (a.isLt) q5 rfl rfl
  have f10_8 : fld w 10 8 = 2 := fld_pack [(1, S.toNat), (6, 4), (5, d.toNat), (4, k.toNat), (5, a.toNat)] 2 _ _ e (by decide) q6 rfl rfl
  have f7_0 : fld w 7 0 = i.toNat := fld_pack [(1, S.toNat), (6, 4), (5, d.toNat), (4, k.toNat), (5, a.toNat), (3, 2)] 7 _ _ e (i.isLt) q7 rfl rfl
  have n0 : ¬ (w = 0 ∨ w = 4294967295) := not_blank f30_25 (by decide) (by decide)
  clear e hw
  simp only [decode, n0, if_false, decodeSM, f31_31, f30_25, f24_20, f19_16, f15_11, f10_8, f7_0, bool_field, bits_field, need_some, Nat.add_zero]
  exact accept_ok hwf

theorem ldsB64 (S : Bool) (d : BitVec 5) (k : BitVec 4) (a : BitVec 5) (i : BitVec 8) : Statement (.ldsB64 S d k a i) := by
  intro hwf w hw
  have e := (Option.some.inj hw).symm
  simp only [word_cons, word_nil, place_eq] at e
  replace e : w = pack [(1, S.toNat), (6, 4), (5, d.toNat), (4, k.toNat), (5, a.toNat), (3, 3), (8, i.toNat)] := e.trans (by simp only [pack, total]; omega)
  have q7 : Fits [] := trivial
  have q6 : Fits [(8, i.toNat)] := ⟨i.isLt, q7⟩
  have q5 : Fits [(3, 3), (8, i.toNat)] := ⟨by decide, q6⟩
  have q4 : Fits [(5, a.toNat), (3, 3), (8, i.toNat)] := ⟨a.isLt, q5⟩
  have q3 : Fits [(4, k.toNat), (5, a.toNat), (3, 3), (8, i.toNat)] := ⟨k.isLt, q4⟩
  have q2 : Fits [(5, d.toNat), (4, k.toNat), (5, a.toNat), (3, 3), (8, i.toNat)] := ⟨d.isLt, q3⟩
  have f31_31 : fld w 31 31 = S.toNat := fld_pack [] 0 _ _ e (S.toNat_lt) ⟨by decide, q2⟩ rfl rfl
  have f30_25 : fld w 30 25 = 4 := fld_pack [(1, S.toNat)] 5 _ _ e (by decide) q2 rfl rfl
  have f24_20 : fld w 24 20 = d.toNat := fld_pack [(1, S.toNat), (6, 4)] 4 _ _ e (d.isLt) q3 rfl rfl
  have f19_16 : fld w 19 16 = k.toNat := fld_pack [(1, S.toNat), (6, 4), (5, d.toNat)] 3 _ _ e (k.isLt) q4 rfl rfl
  have f15_11 : fld w 15 11 = a.toNat := fld_pack [(1, S.toNat), (6, 4), (5, d.toNat), (4, k.toNat)] 4 _ _ e (a.isLt) q5 rfl rfl
  have f10_8 : fld w 10 8 = 3 := fld_pack [(1, S.toNat), (6, 4), (5, d.toNat), (4, k.toNat), (5, a.toNat)] 2 _ _ e (by decide) q6 rfl rfl
  have f7_0 : fld w 7 0 = i.toNat := fld_pack [(1, S.toNat), (6, 4), (5, d.toNat), (4, k.toNat), (5, a.toNat), (3, 3)] 7 _ _ e (i.isLt) q7 rfl rfl
  have n0 : ¬ (w = 0 ∨ w = 4294967295) := not_blank f30_25 (by decide) (by decide)
  clear e hw
  simp only [decode, n0, if_false, decodeSM, f31_31, f30_25, f24_20, f19_16, f15_11, f10_8, f7_0, bool_field, bits_field, need_some, Nat.add_zero]
  exact accept_ok hwf

theorem stsB8 (S : Bool) (d : BitVec 5) (k : BitVec 4) (a : BitVec 5) (i : BitVec 8) : Statement (.stsB8 S d k a i) := by
  intro hwf w hw
  have e := (Option.some.inj hw).symm
  simp only [word_cons, word_nil, place_eq] at e
  replace e : w = pack [(1, S.toNat), (6, 4), (5, d.toNat), (4, k.toNat), (5, a.toNat), (3, 4), (8, i.toNat)] := e.trans (by simp only [pack, total]; omega)
  have q7 : Fits [] := trivial
  have q6 : Fits [(8, i.toNat)] := ⟨i.isLt, q7⟩
  have q5 : Fits [(3, 4), (8, i.toNat)] := ⟨by decide, q6⟩
  have q4 : Fits [(5, a.toNat), (3, 4), (8, i.toNat)] := ⟨a.isLt, q5⟩
  have q3 : Fits [(4, k.toNat), (5, a.toNat), (3, 4), (8, i.toNat)] := ⟨k.isLt, q4⟩
  have q2 : Fits [(5, d.toNat), (4, k.toNat), (5, a.toNat), (3, 4), (8, i.toNat)] := ⟨d.isLt, q3⟩
  have f31_31 : fld w 31 31 = S.toNat := fld_pack [] 0 _ _ e (S.toNat_lt) ⟨by decide, q2⟩ rfl rfl
  have f30_25 : fld w 30 25 = 4 := fld_pack [(1, S.toNat)] 5 _ _ e (by decide) q2 rfl rfl
  have f24_20 : fld w 24 20 = d.toNat := fld_pack [(1, S.toNat), (6, 4)] 4 _ _ e (d.isLt) q3 rfl rfl
  have f19_16 : fld w 19 16 = k.toNat := fld_pack [(1, S.toNat), (6, 4), (5, d.toNat)] 3 _ _ e (k.isLt) q4 rfl rfl
  have f15_11 : fld w 15 11 = a.toNat := fld_pack [(1, S.toNat), (6, 4), (5, d.toNat), (4, k.toNat)] 4 _ _ e (a.isLt) q5 rfl rfl
  have f10_8 : fld w 10 8 = 4 := fld_pack [(1, S.toNat), (6, 4), (5, d.toNat), (4, k.toNat), (5, a.toNat)] 2 _ _ e (by decide) q6 rfl rfl
  have f7_0 : fld w 7 0 = i.toNat := fld_pack [(1, S.toNat), (6, 4), (5, d.toNat), (4, k.toNat), (5, a.toNat), (3, 4)] 7 _ _ e (i.isLt) q7 rfl rfl
  have n0 : ¬ (w = 0 ∨ w = 4294967295) := not_blank f30_25 (by decide) (by decide)
  clear e hw
  simp only [decode, n0, if_false, decodeSM, f31_31, f30_25, f24_20, f19_16, f15_11, f10_8, f7_0, bool_field, bits_field, need_some, Nat.add_zero]
  exact accept_ok hwf

theorem stsB16 (S : Bool) (d : BitVec 5) (k : BitVec 4) (a : BitVec 5) (i : BitVec 8) : Statement (.stsB16 S d k a i) := by
  intro hwf w hw
  have e := (Option.some.inj hw).symm
  simp only [word_cons, word_nil, place_eq] at e
  replace e : w = pack [(1, S.toNat), (6, 4), (5, d.toNat), (4, k.toNat), (5, a.toNat), (3, 5), (8, i.toNat)] := e.trans (by simp only [pack, total]; omega)
  have q7 : Fits [] := trivial
  have q6 : Fits [(8, i.toNat)] := ⟨i.isLt, q7⟩
  have q5 : Fits [(3, 5), (8, i.toNat)] := ⟨by decide, q6⟩
  have q4 : Fits [(5, a.toNat), (3, 5), (8, i.toNat)] := ⟨a.isLt, q5⟩
  have q3 : Fits [(4, k.toNat), (5, a.toNat), (3, 5), (8, i.toNat)] := ⟨k.isLt, q4⟩
  have q2 : Fits [(5, d.toNat), (4, k.toNat), (5, a.toNat), (3, 5), (8, i.toNat)] := ⟨d.isLt, q3⟩
  have f31_31 : fld w 31 31 = S.toNat := fld_pack [] 0 _ _ e (S.toNat_lt) ⟨by decide, q2⟩ rfl rfl
  have f30_25 : fld w 30 25 = 4 := fld_pack [(1, S.toNat)] 5 _ _ e (by decide) q2 rfl rfl
  have f24_20 : fld w 24 20 = d.toNat := fld_pack [(1, S.toNat), (6, 4)] 4 _ _ e (d.isLt) q3 rfl rfl
  have f19_16 : fld w 19 16 = k.toNat := fld_pack [(1, S.toNat), (6, 4), (5, d.toNat)] 3 _ _ e (k.isLt) q4 rfl rfl
  have f15_11 : fld w 15 11 = a.toNat := fld_pack [(1, S.toNat), (6, 4), (5, d.toNat), (4, k.toNat)] 4 _ _ e (a.isLt) q5 rfl rfl
  have f10_8 : fld w 10 8 = 5 := fld_pack [(1, S.toNat), (6, 4), (5, d.toNat), (4, k.toNat), (5, a.toNat)] 2 _ _ e (by decide) q6 rfl rfl
  have f7_0 : fld w 7 0 = i.toNat := fld_pack [(1, S.toNat), (6, 4), (5, d.toNat), (4, k.toNat), (5, a.toNat), (3, 5)] 7 _ _ e (i.isLt) q7 rfl rfl
  have n0 : ¬ (w = 0 ∨ w = 4294967295) := not_blank f30_25 (by decide) (by decide)
  clear e hw
  simp only [decode, n0, if_false, decodeSM, f31_31, f30_25, f24_20, f19_16, f15_11, f10_8, f7_0, bool_field, bits_field, need_some, Nat.add_zero]
  exact accept_ok hwf

theorem stsB32 (S : Bool) (d : BitVec 5) (k : BitVec 4) (a : BitVec 5) (i : BitVec 8) : Statement (.stsB32 S d k a i) := by
  intro hwf w hw
  have e := (Option.some.inj hw).symm
  simp only [word_cons, word_nil, place_eq] at e
  replace e : w = pack [(1, S.toNat), (6, 4), (5, d.toNat), (4, k.toNat), (5, a.toNat), (3, 6), (8, i.toNat)] := e.trans (by simp only [pack, total]; omega)
  have q7 : Fits [] := trivial
  have q6 : Fits [(8, i.toNat)] := ⟨i.isLt, q7⟩
  have q5 : Fits [(3, 6), (8, i.toNat)] := ⟨by decide, q6⟩
  have q4 : Fits [(5, a.toNat), (3, 6), (8, i.toNat)] := ⟨a.isLt, q5⟩
  have q3 : Fits [(4, k.toNat), (5, a.toNat), (3, 6), (8, i.toNat)] := ⟨k.isLt, q4⟩
  have q2 : Fits [(5, d.toNat), (4, k.toNat), (5, a.toNat), (3, 6), (8, i.toNat)] := ⟨d.isLt, q3⟩
  have f31_31 : fld w 31 31 = S.toNat := fld_pack [] 0 _ _ e (S.toNat_lt) ⟨by decide, q2⟩ rfl rfl
  have f30_25 : fld w 30 25 = 4 := fld_pack [(1, S.toNat)] 5 _ _ e (by decide) q2 rfl rfl
  have f24_20 : fld w 24 20 = d.toNat := fld_pack [(1, S.toNat), (6, 4)] 4 _ _ e (d.isLt) q3 rfl rfl
  have f19_16 : fld w 19 16 = k.toNat := fld_pack [(1, S.toNat), (6, 4), (5, d.toNat)] 3 _ _ e (k.isLt) q4 rfl rfl
  have f15_11 : fld w 15 11 = a.toNat := fld_pack [(1, S.toNat), (6, 4), (5, d.toNat), (4, k.toNat)] 4 _ _ e (a.isLt) q5 rfl rfl
  have f10_8 : fld w 10 8 = 6 := fld_pack [(1, S.toNat), (6, 4), (5, d.toNat), (4, k.toNat), (5, a.toNat)] 2 _ _ e (by decide) q6 rfl rfl
  have f7_0 : fld w 7 0 = i.toNat := fld_pack [(1, S.toNat), (6, 4), (5, d.toNat), (4, k.toNat), (5, a.toNat), (3, 6)] 7 _ _ e (i.isLt) q7 rfl rfl
  have n0 : ¬ (w = 0 ∨ w = 4294967295) := not_blank f30_25 (by decide) (by decide)
  clear e hw
  simp only [decode, n0, if_false, decodeSM, f31_31, f30_25, f24_20, f19_16, f15_11, f10_8, f7_0, bool_field, bits_field, need_some, Nat.add_zero]
  exact accept_ok hwf

theorem stsB64 (S : Bool) (d : BitVec 5) (k : BitVec 4) (a : BitVec 5) (i : BitVec 8) : Statement (.stsB64 S d k a i) := by
  intro hwf w hw
  have e := (Option.some.inj hw).symm
  simp only [word_cons, word_nil, place_eq] at e
  replace e : w = pack [(1, S.toNat), (6, 4), (5, d.toNat), (4, k.toNat), (5, a.toNat), (3, 7), (8, i.toNat)] := e.trans (by simp only [pack, total]; omega)
  have q7 : Fits [] := trivial
  have q6 : Fits [(8, i.toNat)] := ⟨i.isLt, q7⟩
  have q5 : Fits [(3, 7), (8, i.toNat)] := ⟨by decide, q6⟩
  have q4 : Fits [(5, a.toNat), (3, 7), (8, i.toNat)] := ⟨a.isLt, q5⟩
  have q3 : Fits [(4, k.toNat), (5, a.toNat), (3, 7), (8, i.toNat)] := ⟨k.isLt, q4⟩
  have q2 : Fits [(5, d.toNat), (4, k.toNat), (5, a.toNat), (3, 7), (8, i.toNat)] := ⟨d.isLt, q3⟩
  have f31_31 : fld w 31 31 = S.toNat := fld_pack [] 0 _ _ e (S.toNat_lt) ⟨by decide, q2⟩ rfl rfl
  have f30_25 : fld w 30 25 = 4 := fld_pack [(1, S.toNat)] 5 _ _ e (by decide) q2 rfl rfl
  have f24_20 : fld w 24 20 = d.toNat := fld_pack [(1, S.toNat), (6, 4)] 4 _ _ e (d.isLt) q3 rfl rfl
  have f19_16 : fld w 19 16 = k.toNat := fld_pack [(1, S.toNat), (6, 4), (5, d.toNat)] 3 _ _ e (k.isLt) q4 rfl rfl
  have f15_11 : fld w 15 11 = a.toNat := fld_pack [(1, S.toNat), (6, 4), (5, d.toNat), (4, k.toNat)] 4 _ _ e (a.isLt) q5 rfl rfl
  have f10_8 : fld w 10 8 = 7 := fld_pack [(1, S.toNat), (6, 4), (5, d.toNat), (4, k.toNat), (5, a.toNat)] 2 _ _ e (by decide) q6 rfl rfl
  have f7_0 : fld w 7 0 = i.toNat := fld_pack [(1, S.toNat), (6, 4), (5, d.toNat), (4, k.toNat), (5, a.toNat), (3, 7)] 7 _ _ e (i.isLt) q7 rfl rfl
  have n0 : ¬ (w = 0 ∨ w = 4294967295) := not_blank f30_25 (by decide) (by decide)
  clear e hw
  simp only [decode, n0, if_false, decodeSM, f31_31, f30_25, f24_20, f19_16, f15_11, f10_8, f7_0, bool_field, bits_field, need_some, Nat.add_zero]
  exact accept_ok hwf

theorem beq (S : Bool) (a : BitVec 5) (b : BitVec 5) (o : BitVec 12) : Statement (.beq S a b o) := by
  intro hwf w hw
  have e := (Option.some.inj hw).symm
  simp only [word_cons, word_nil, place_eq] at e
  replace e : w = pack [(1, S.toNat), (6, 5), (5, a.toNat), (5, b.toNat), (3, 0), (12, o.toNat)] := e.trans (by simp only [pack, total]; omega)
  have q6 : Fits [] := trivial
  have q5 : Fits [(12, o.toNat)] := ⟨o.isLt, q6⟩
  have q4 : Fits [(3, 0), (12, o.toNat)] := ⟨Nat.two_pow_pos _, q5⟩
  have q3 : Fits [(5, b.toNat), (3, 0), (12, o.toNat)] := ⟨b.isLt, q4⟩
  have q2 : Fits [(5, a.toNat), (5, b.toNat), (3, 0), (12, o.toNat)] := ⟨a.isLt, q3⟩
  have f31_31 : fld w 31 31 = S.toNat := fld_pack [] 0 _ _ e (S.toNat_lt) ⟨by decide, q2⟩ rfl rfl
  have f30_25 : fld w 30 25 = 5 := fld_pack [(1, S.toNat)] 5 _ _ e (by decide) q2 rfl rfl
  have f24_20 : fld w 24 20 = a.toNat := fld_pack [(1, S.toNat), (6, 5)] 4 _ _ e (a.isLt) q3 rfl rfl
  have f19_15 : fld w 19 15 = b.toNat := fld_pack [(1, S.toNat), (6, 5), (5, a.toNat)] 4 _ _ e (b.isLt) q4 rfl rfl
  have f14_12 : fld w 14 12 = 0 := fld_pack [(1, S.toNat), (6, 5), (5, a.toNat), (5, b.toNat)] 2 _ _ e (Nat.two_pow_pos _) q5 rfl rfl
  have f11_0 : fld w 11 0 = o.toNat := fld_pack [(1, S.toNat), (6, 5), (5, a.toNat), (5, b.toNat), (3, 0)] 11 _ _ e (o.isLt) q6 rfl rfl
  have n0 : ¬ (w = 0 ∨ w = 4294967295) := not_blank f30_25 (by decide) (by decide)
  clear e hw
  simp only [decode, n0, if_false, decodeSB, f31_31, f30_25, f24_20, f19_15, f14_12, f11_0, bool_field, bits_field, need_some, Nat.add_zero]
  exact accept_ok hwf

theorem bne (S : Bool) (a : BitVec 5) (b : BitVec 5) (o : BitVec 12) : Statement (.bne S a b o) := by
  intro hwf w hw
  have e := (Option.some.inj hw).symm
  simp only [word_cons, word_nil, place_eq] at e
  replace e : w = pack [(1, S.toNat), (6, 5), (5, a.toNat), (5, b.toNat), (3, 1), (12, o.toNat)] := e.trans (by simp only [pack, total]; omega)
  have q6 : Fits [] := trivial
  have q5 : Fits [(12, o.toNat)] := ⟨o.isLt, q6⟩
  have q4 : Fits [(3, 1), (12, o.toNat)] := ⟨by decide, q5⟩
  have q3 : Fits [(5, b.toNat), (3, 1), (12, o.toNat)] := ⟨b.isLt, q4⟩
  have q2 : Fits [(5, a.toNat), (5, b.toNat), (3, 1), (12, o.toNat)] := ⟨a.isLt, q3⟩
  have f31_31 : fld w 31 31 = S.toNat := fld_pack [] 0 _ _ e (S.toNat_lt) ⟨by decide, q2⟩ rfl rfl
  have f30_25 : fld w 30 25 = 5 := fld_pack [(1, S.toNat)] 5 _ _ e (by decide) q2 rfl rfl
  have f24_20 : fld w 24 20 = a.toNat := fld_pack [(1, S.toNat), (6, 5)] 4 _ _ e (a.isLt) q3 rfl rfl
  have f19_15 : fld w 19 15 = b.toNat := fld_pack [(1, S.toNat), (6, 5), (5, a.toNat)] 4 _ _ e (b.isLt) q4 rfl rfl
  have f14_12 : fld w 14 12 = 1 := fld_pack [(1, S.toNat), (6, 5), (5, a.toNat), (5, b.toNat)] 2 _ _ e (by decide) q5 rfl rfl
  have f11_0 : fld w 11 0 = o.toNat := fld_pack [(1, S.toNat), (6, 5), (5, a.toNat), (5, b.toNat), (3, 1)] 11 _ _ e (o.isLt) q6 rfl rfl
  have n0 : ¬ (w = 0 ∨ w = 4294967295) := not_blank f30_25 (by decide) (by decide)
  clear e hw
  simp only [decode, n0, if_false, decodeSB, f31_31, f30_25, f24_20, f19_15, f14_12, f11_0, bool_field, bits_field, need_some, Nat.add_zero]
  exact accept_ok hwf

theorem bltS (S : Bool) (a : BitVec 5) (b : BitVec 5) (o : BitVec 12) : Statement (.bltS S a b o) := by
  intro hwf w hw
  have e := (Option.some.inj hw).symm
  simp only [word_cons, word_nil, place_eq] at e
  replace e : w = pack [(1, S.toNat), (6, 5), (5, a.toNat), (5, b.toNat), (3, 2), (12, o.toNat)] := e.trans (by simp only [pack, total]; omega)
  have q6 : Fits [] := trivial
  have q5 : Fits [(12, o.toNat)] := ⟨o.isLt, q6⟩
  have q4 : Fits [(3, 2), (12, o.toNat)] := ⟨by decide, q5⟩
  have q3 : Fits [(5, b.toNat), (3, 2), (12, o.toNat)] := ⟨b.isLt, q4⟩
  have q2 : Fits [(5, a.toNat), (5, b.toNat), (3, 2), (12, o.toNat)] := ⟨a.isLt, q3⟩
  have f31_31 : fld w 31 31 = S.toNat := fld_pack [] 0 _ _ e (S.toNat_lt) ⟨by decide, q2⟩ rfl rfl
  have f30_25 : fld w 30 25 = 5 := fld_pack [(1, S.toNat)] 5 _ _ e (by decide) q2 rfl rfl
  have f24_20 : fld w 24 20 = a.toNat := fld_pack [(1, S.toNat), (6, 5)] 4 _ _ e (a.isLt) q3 rfl rfl
  have f19_15 : fld w 19 15 = b.toNat := fld_pack [(1, S.toNat), (6, 5), (5, a.toNat)] 4 _ _ e (b.isLt) q4 rfl rfl
  have f14_12 : fld w 14 12 = 2 := fld_pack [(1, S.toNat), (6, 5), (5, a.toNat), (5, b.toNat)] 2 _ _ e (by decide) q5 rfl rfl
  have f11_0 : fld w 11 0 = o.toNat := fld_pack [(1, S.toNat), (6, 5), (5, a.toNat), (5, b.toNat), (3, 2)] 11 _ _ e (o.isLt) q6 rfl rfl
  have n0 : ¬ (w = 0 ∨ w = 4294967295) := not_blank f30_25 (by decide) (by decide)
  clear e hw
  simp only [decode, n0, if_false, decodeSB, f31_31, f30_25, f24_20, f19_15, f14_12, f11_0, bool_field, bits_field, need_some, Nat.add_zero]
  exact accept_ok hwf

theorem bgeS (S : Bool) (a : BitVec 5) (b : BitVec 5) (o : BitVec 12) : Statement (.bgeS S a b o) := by
  intro hwf w hw
  have e := (Option.some.inj hw).symm
  simp only [word_cons, word_nil, place_eq] at e
  replace e : w = pack [(1, S.toNat), (6, 5), (5, a.toNat), (5, b.toNat), (3, 3), (12, o.toNat)] := e.trans (by simp only [pack, total]; omega)
  have q6 : Fits [] := trivial
  have q5 : Fits [(12, o.toNat)] := ⟨o.isLt, q6⟩
  have q4 : Fits [(3, 3), (12, o.toNat)] := ⟨by decide, q5⟩
  have q3 : Fits [(5, b.toNat), (3, 3), (12, o.toNat)] := ⟨b.isLt, q4⟩
  have q2 : Fits [(5, a.toNat), (5, b.toNat), (3, 3), (12, o.toNat)] := ⟨a.isLt, q3⟩
  have f31_31 : fld w 31 31 = S.toNat := fld_pack [] 0 _ _ e (S.toNat_lt) ⟨by decide, q2⟩ rfl rfl
  have f30_25 : fld w 30 25 = 5 := fld_pack [(1, S.toNat)] 5 _ _ e (by decide) q2 rfl rfl
  have f24_20 : fld w 24 20 = a.toNat := fld_pack [(1, S.toNat), (6, 5)] 4 _ _ e (a.isLt) q3 rfl rfl
  have f19_15 : fld w 19 15 = b.toNat := fld_pack [(1, S.toNat), (6, 5), (5, a.toNat)] 4 _ _ e (b.isLt) q4 rfl rfl
  have f14_12 : fld w 14 12 = 3 := fld_pack [(1, S.toNat), (6, 5), (5, a.toNat), (5, b.toNat)] 2 _ _ e (by decide) q5 rfl rfl
  have f11_0 : fld w 11 0 = o.toNat := fld_pack [(1, S.toNat), (6, 5), (5, a.toNat), (5, b.toNat), (3, 3)] 11 _ _ e (o.isLt) q6 rfl rfl
  have n0 : ¬ (w = 0 ∨ w = 4294967295) := not_blank f30_25 (by decide) (by decide)
  clear e hw
  simp only [decode, n0, if_false, decodeSB, f31_31, f30_25, f24_20, f19_15, f14_12, f11_0, bool_field, bits_field, need_some, Nat.add_zero]
  exact accept_ok hwf

theorem bltN (S : Bool) (a : BitVec 5) (b : BitVec 5) (o : BitVec 12) : Statement (.bltN S a b o) := by
  intro hwf w hw
  have e := (Option.some.inj hw).symm
  simp only [word_cons, word_nil, place_eq] at e
  replace e : w = pack [(1, S.toNat), (6, 5), (5, a.toNat), (5, b.toNat), (3, 4), (12, o.toNat)] := e.trans (by simp only [pack, total]; omega)
  have q6 : Fits [] := trivial
  have q5 : Fits [(12, o.toNat)] := ⟨o.isLt, q6⟩
  have q4 : Fits [(3, 4), (12, o.toNat)] := ⟨by decide, q5⟩
  have q3 : Fits [(5, b.toNat), (3, 4), (12, o.toNat)] := ⟨b.isLt, q4⟩
  have q2 : Fits [(5, a.toNat), (5, b.toNat), (3, 4), (12, o.toNat)] := ⟨a.isLt, q3⟩
  have f31_31 : fld w 31 31 = S.toNat := fld_pack [] 0 _ _ e (S.toNat_lt) ⟨by decide, q2⟩ rfl rfl
  have f30_25 : fld w 30 25 = 5 := fld_pack [(1, S.toNat)] 5 _ _ e (by decide) q2 rfl rfl
  have f24_20 : fld w 24 20 = a.toNat := fld_pack [(1, S.toNat), (6, 5)] 4 _ _ e (a.isLt) q3 rfl rfl
  have f19_15 : fld w 19 15 = b.toNat := fld_pack [(1, S.toNat), (6, 5), (5, a.toNat)] 4 _ _ e (b.isLt) q4 rfl rfl
  have f14_12 : fld w 14 12 = 4 := fld_pack [(1, S.toNat), (6, 5), (5, a.toNat), (5, b.toNat)] 2 _ _ e (by decide) q5 rfl rfl
  have f11_0 : fld w 11 0 = o.toNat := fld_pack [(1, S.toNat), (6, 5), (5, a.toNat), (5, b.toNat), (3, 4)] 11 _ _ e (o.isLt) q6 rfl rfl
  have n0 : ¬ (w = 0 ∨ w = 4294967295) := not_blank f30_25 (by decide) (by decide)
  clear e hw
  simp only [decode, n0, if_false, decodeSB, f31_31, f30_25, f24_20, f19_15, f14_12, f11_0, bool_field, bits_field, need_some, Nat.add_zero]
  exact accept_ok hwf

theorem bgeN (S : Bool) (a : BitVec 5) (b : BitVec 5) (o : BitVec 12) : Statement (.bgeN S a b o) := by
  intro hwf w hw
  have e := (Option.some.inj hw).symm
  simp only [word_cons, word_nil, place_eq] at e
  replace e : w = pack [(1, S.toNat), (6, 5), (5, a.toNat), (5, b.toNat), (3, 5), (12, o.toNat)] := e.trans (by simp only [pack, total]; omega)
  have q6 : Fits [] := trivial
  have q5 : Fits [(12, o.toNat)] := ⟨o.isLt, q6⟩
  have q4 : Fits [(3, 5), (12, o.toNat)] := ⟨by decide, q5⟩
  have q3 : Fits [(5, b.toNat), (3, 5), (12, o.toNat)] := ⟨b.isLt, q4⟩
  have q2 : Fits [(5, a.toNat), (5, b.toNat), (3, 5), (12, o.toNat)] := ⟨a.isLt, q3⟩
  have f31_31 : fld w 31 31 = S.toNat := fld_pack [] 0 _ _ e (S.toNat_lt) ⟨by decide, q2⟩ rfl rfl
  have f30_25 : fld w 30 25 = 5 := fld_pack [(1, S.toNat)] 5 _ _ e (by decide) q2 rfl rfl
  have f24_20 : fld w 24 20 = a.toNat := fld_pack [(1, S.toNat), (6, 5)] 4 _ _ e (a.isLt) q3 rfl rfl
  have f19_15 : fld w 19 15 = b.toNat := fld_pack [(1, S.toNat), (6, 5), (5, a.toNat)] 4 _ _ e (b.isLt) q4 rfl rfl
  have f14_12 : fld w 14 12 = 5 := fld_pack [(1, S.toNat), (6, 5), (5, a.toNat), (5, b.toNat)] 2 _ _ e (by decide) q5 rfl rfl
  have f11_0 : fld w 11 0 = o.toNat := fld_pack [(1, S.toNat), (6, 5), (5, a.toNat), (5, b.toNat), (3, 5)] 11 _ _ e (o.isLt) q6 rfl rfl
  have n0 : ¬ (w = 0 ∨ w = 4294967295) := not_blank f30_25 (by decide) (by decide)
  clear e hw
  simp only [decode, n0, if_false, decodeSB, f31_31, f30_25, f24_20, f19_15, f14_12, f11_0, bool_field, bits_field, need_some, Nat.add_zero]
  exact accept_ok hwf

theorem jal (S : Bool) (d : BitVec 5) (o : BitVec 20) : Statement (.jal S d o) := by
  intro hwf w hw
  have e := (Option.some.inj hw).symm
  simp only [word_cons, word_nil, place_eq] at e
  replace e : w = pack [(1, S.toNat), (6, 6), (5, d.toNat), (20, o.toNat)] := e.trans (by simp only [pack, total]; omega)
  have q4 : Fits [] := trivial
  have q3 : Fits [(20, o.toNat)] := ⟨o.isLt, q4⟩
  have q2 : Fits [(5, d.toNat), (20, o.toNat)] := ⟨d.isLt, q3⟩
  have f31_31 : fld w 31 31 = S.toNat := fld_pack [] 0 _ _ e (S.toNat_lt) ⟨by decide, q2⟩ rfl rfl
  have f30_25 : fld w 30 25 = 6 := fld_pack [(1, S.toNat)] 5 _ _ e (by decide) q2 rfl rfl
  have f24_20 : fld w 24 20 = d.toNat := fld_pack [(1, S.toNat), (6, 6)] 4 _ _ e (d.isLt) q3 rfl rfl
  have f19_0 : fld w 19 0 = o.toNat := fld_pack [(1, S.toNat), (6, 6), (5, d.toNat)] 19 _ _ e (o.isLt) q4 rfl rfl
  have n0 : ¬ (w = 0 ∨ w = 4294967295) := not_blank f30_25 (by decide) (by decide)
  clear e hw
  simp only [decode, n0, if_false, decodeSJ, f31_31, f30_25, f24_20, f19_0, bool_field, bits_field, need_some, Nat.add_zero]
  exact accept_ok hwf

theorem emit (S : Bool) (d : BitVec 5) (a : BitVec 5) (b : BitVec 5) : Statement (.emit S d a b) := by
  intro hwf w hw
  have e := (Option.some.inj hw).symm
  simp only [word_cons, word_nil, place_eq] at e
  replace e : w = pack [(1, S.toNat), (6, 7), (5, d.toNat), (5, a.toNat), (5, b.toNat), (5, 0), (5, 0)] := e.trans (by simp only [pack, total]; omega)
  have q7 : Fits [] := trivial
  have q6 : Fits [(5, 0)] := ⟨Nat.two_pow_pos _, q7⟩
  have q5 : Fits [(5, 0), (5, 0)] := ⟨Nat.two_pow_pos _, q6⟩
  have q4 : Fits [(5, b.toNat), (5, 0), (5, 0)] := ⟨b.isLt, q5⟩
  have q3 : Fits [(5, a.toNat), (5, b.toNat), (5, 0), (5, 0)] := ⟨a.isLt, q4⟩
  have q2 : Fits [(5, d.toNat), (5, a.toNat), (5, b.toNat), (5, 0), (5, 0)] := ⟨d.isLt, q3⟩
  have f31_31 : fld w 31 31 = S.toNat := fld_pack [] 0 _ _ e (S.toNat_lt) ⟨by decide, q2⟩ rfl rfl
  have f30_25 : fld w 30 25 = 7 := fld_pack [(1, S.toNat)] 5 _ _ e (by decide) q2 rfl rfl
  have f24_20 : fld w 24 20 = d.toNat := fld_pack [(1, S.toNat), (6, 7)] 4 _ _ e (d.isLt) q3 rfl rfl
  have f19_15 : fld w 19 15 = a.toNat := fld_pack [(1, S.toNat), (6, 7), (5, d.toNat)] 4 _ _ e (a.isLt) q4 rfl rfl
  have f14_10 : fld w 14 10 = b.toNat := fld_pack [(1, S.toNat), (6, 7), (5, d.toNat), (5, a.toNat)] 4 _ _ e (b.isLt) q5 rfl rfl
  have f9_5 : fld w 9 5 = 0 := fld_pack [(1, S.toNat), (6, 7), (5, d.toNat), (5, a.toNat), (5, b.toNat)] 4 _ _ e (Nat.two_pow_pos _) q6 rfl rfl
  have f4_0 : fld w 4 0 = 0 := fld_pack [(1, S.toNat), (6, 7), (5, d.toNat), (5, a.toNat), (5, b.toNat), (5, 0)] 4 _ _ e (Nat.two_pow_pos _) q7 rfl rfl
  have n0 : ¬ (w = 0 ∨ w = 4294967295) := not_blank f30_25 (by decide) (by decide)
  clear e hw
  simp only [decode, n0, if_false, decodeLR, f31_31, f30_25, f24_20, f19_15, f14_10, f9_5, f4_0, bool_field, bits_field, need_some, Nat.add_zero]
  exact accept_ok hwf

theorem emitnb (S : Bool) (d : BitVec 5) (a : BitVec 5) (b : BitVec 5) : Statement (.emitnb S d a b) := by
  intro hwf w hw
  have e := (Option.some.inj hw).symm
  simp only [word_cons, word_nil, place_eq] at e
  replace e : w = pack [(1, S.toNat), (6, 7), (5, d.toNat), (5, a.toNat), (5, b.toNat), (5, 1), (5, 0)] := e.trans (by simp only [pack, total]; omega)
  have q7 : Fits [] := trivial
  have q6 : Fits [(5, 0)] := ⟨Nat.two_pow_pos _, q7⟩
  have q5 : Fits [(5, 1), (5, 0)] := ⟨by decide, q6⟩
  have q4 : Fits [(5, b.toNat), (5, 1), (5, 0)] := ⟨b.isLt, q5⟩
  have q3 : Fits [(5, a.toNat), (5, b.toNat), (5, 1), (5, 0)] := ⟨a.isLt, q4⟩
  have q2 : Fits [(5, d.toNat), (5, a.toNat), (5, b.toNat), (5, 1), (5, 0)] := ⟨d.isLt, q3⟩
  have f31_31 : fld w 31 31 = S.toNat := fld_pack [] 0 _ _ e (S.toNat_lt) ⟨by decide, q2⟩ rfl rfl
  have f30_25 : fld w 30 25 = 7 := fld_pack [(1, S.toNat)] 5 _ _ e (by decide) q2 rfl rfl
  have f24_20 : fld w 24 20 = d.toNat := fld_pack [(1, S.toNat), (6, 7)] 4 _ _ e (d.isLt) q3 rfl rfl
  have f19_15 : fld w 19 15 = a.toNat := fld_pack [(1, S.toNat), (6, 7), (5, d.toNat)] 4 _ _ e (a.isLt) q4 rfl rfl
  have f14_10 : fld w 14 10 = b.toNat := fld_pack [(1, S.toNat), (6, 7), (5, d.toNat), (5, a.toNat)] 4 _ _ e (b.isLt) q5 rfl rfl
  have f9_5 : fld w 9 5 = 1 := fld_pack [(1, S.toNat), (6, 7), (5, d.toNat), (5, a.toNat), (5, b.toNat)] 4 _ _ e (by decide) q6 rfl rfl
  have f4_0 : fld w 4 0 = 0 := fld_pack [(1, S.toNat), (6, 7), (5, d.toNat), (5, a.toNat), (5, b.toNat), (5, 1)] 4 _ _ e (Nat.two_pow_pos _) q7 rfl rfl
  have n0 : ¬ (w = 0 ∨ w = 4294967295) := not_blank f30_25 (by decide) (by decide)
  clear e hw
  simp only [decode, n0, if_false, decodeLR, f31_31, f30_25, f24_20, f19_15, f14_10, f9_5, f4_0, bool_field, bits_field, need_some, Nat.add_zero]
  exact accept_ok hwf

theorem emits (S : Bool) (d : BitVec 5) (b : BitVec 5) : Statement (.emits S d b) := by
  intro hwf w hw
  have e := (Option.some.inj hw).symm
  simp only [word_cons, word_nil, place_eq] at e
  replace e : w = pack [(1, S.toNat), (6, 7), (5, d.toNat), (5, 0), (5, b.toNat), (5, 2), (5, 0)] := e.trans (by simp only [pack, total]; omega)
  have q7 : Fits [] := trivial
  have q6 : Fits [(5, 0)] := ⟨Nat.two_pow_pos _, q7⟩
  have q5 : Fits [(5, 2), (5, 0)] := ⟨by decide, q6⟩
  have q4 : Fits [(5, b.toNat), (5, 2), (5, 0)] := ⟨b.isLt, q5⟩
  have q3 : Fits [(5, 0), (5, b.toNat), (5, 2), (5, 0)] := ⟨Nat.two_pow_pos _, q4⟩
  have q2 : Fits [(5, d.toNat), (5, 0), (5, b.toNat), (5, 2), (5, 0)] := ⟨d.isLt, q3⟩
  have f31_31 : fld w 31 31 = S.toNat := fld_pack [] 0 _ _ e (S.toNat_lt) ⟨by decide, q2⟩ rfl rfl
  have f30_25 : fld w 30 25 = 7 := fld_pack [(1, S.toNat)] 5 _ _ e (by decide) q2 rfl rfl
  have f24_20 : fld w 24 20 = d.toNat := fld_pack [(1, S.toNat), (6, 7)] 4 _ _ e (d.isLt) q3 rfl rfl
  have f19_15 : fld w 19 15 = 0 := fld_pack [(1, S.toNat), (6, 7), (5, d.toNat)] 4 _ _ e (Nat.two_pow_pos _) q4 rfl rfl
  have f14_10 : fld w 14 10 = b.toNat := fld_pack [(1, S.toNat), (6, 7), (5, d.toNat), (5, 0)] 4 _ _ e (b.isLt) q5 rfl rfl
  have f9_5 : fld w 9 5 = 2 := fld_pack [(1, S.toNat), (6, 7), (5, d.toNat), (5, 0), (5, b.toNat)] 4 _ _ e (by decide) q6 rfl rfl
  have f4_0 : fld w 4 0 = 0 := fld_pack [(1, S.toNat), (6, 7), (5, d.toNat), (5, 0), (5, b.toNat), (5, 2)] 4 _ _ e (Nat.two_pow_pos _) q7 rfl rfl
  have n0 : ¬ (w = 0 ∨ w = 4294967295) := not_blank f30_25 (by decide) (by decide)
  clear e hw
  simp only [decode, n0, if_false, decodeLR, f31_31, f30_25, f24_20, f19_15, f14_10, f9_5, f4_0, bool_field, bits_field, need_some, Nat.add_zero]
  exact accept_ok hwf

theorem sopen (S : Bool) (a : BitVec 5) (b : BitVec 5) : Statement (.sopen S a b) := by
  intro hwf w hw
  have e := (Option.some.inj hw).symm
  simp only [word_cons, word_nil, place_eq] at e
  replace e : w = pack [(1, S.toNat), (6, 7), (5, 0), (5, a.toNat), (5, b.toNat), (5, 3), (5, 0)] := e.trans (by simp only [pack, total]; omega)
  have q7 : Fits [] := trivial
  have q6 : Fits [(5, 0)] := ⟨Nat.two_pow_pos _, q7⟩
  have q5 : Fits [(5, 3), (5, 0)] := ⟨by decide, q6⟩
  have q4 : Fits [(5, b.toNat), (5, 3), (5, 0)] := ⟨b.isLt, q5⟩
  have q3 : Fits [(5, a.toNat), (5, b.toNat), (5, 3), (5, 0)] := ⟨a.isLt, q4⟩
  have q2 : Fits [(5, 0), (5, a.toNat), (5, b.toNat), (5, 3), (5, 0)] := ⟨Nat.two_pow_pos _, q3⟩
  have f31_31 : fld w 31 31 = S.toNat := fld_pack [] 0 _ _ e (S.toNat_lt) ⟨by decide, q2⟩ rfl rfl
  have f30_25 : fld w 30 25 = 7 := fld_pack [(1, S.toNat)] 5 _ _ e (by decide) q2 rfl rfl
  have f24_20 : fld w 24 20 = 0 := fld_pack [(1, S.toNat), (6, 7)] 4 _ _ e (Nat.two_pow_pos _) q3 rfl rfl
  have f19_15 : fld w 19 15 = a.toNat := fld_pack [(1, S.toNat), (6, 7), (5, 0)] 4 _ _ e (a.isLt) q4 rfl rfl
  have f14_10 : fld w 14 10 = b.toNat := fld_pack [(1, S.toNat), (6, 7), (5, 0), (5, a.toNat)] 4 _ _ e (b.isLt) q5 rfl rfl
  have f9_5 : fld w 9 5 = 3 := fld_pack [(1, S.toNat), (6, 7), (5, 0), (5, a.toNat), (5, b.toNat)] 4 _ _ e (by decide) q6 rfl rfl
  have f4_0 : fld w 4 0 = 0 := fld_pack [(1, S.toNat), (6, 7), (5, 0), (5, a.toNat), (5, b.toNat), (5, 3)] 4 _ _ e (Nat.two_pow_pos _) q7 rfl rfl
  have n0 : ¬ (w = 0 ∨ w = 4294967295) := not_blank f30_25 (by decide) (by decide)
  clear e hw
  simp only [decode, n0, if_false, decodeLR, f31_31, f30_25, f24_20, f19_15, f14_10, f9_5, f4_0, bool_field, bits_field, need_some, Nat.add_zero]
  exact accept_ok hwf

theorem stins (S : Bool) (d : BitVec 5) (a : BitVec 5) : Statement (.stins S d a) := by
  intro hwf w hw
  have e := (Option.some.inj hw).symm
  simp only [word_cons, word_nil, place_eq] at e
  replace e : w = pack [(1, S.toNat), (6, 7), (5, d.toNat), (5, a.toNat), (5, 0), (5, 4), (5, 0)] := e.trans (by simp only [pack, total]; omega)
  have q7 : Fits [] := trivial
  have q6 : Fits [(5, 0)] := ⟨Nat.two_pow_pos _, q7⟩
  have q5 : Fits [(5, 4), (5, 0)] := ⟨by decide, q6⟩
  have q4 : Fits [(5, 0), (5, 4), (5, 0)] := ⟨Nat.two_pow_pos _, q5⟩
  have q3 : Fits [(5, a.toNat), (5, 0), (5, 4), (5, 0)] := ⟨a.isLt, q4⟩
  have q2 : Fits [(5, d.toNat), (5, a.toNat), (5, 0), (5, 4), (5, 0)] := ⟨d.isLt, q3⟩
  have f31_31 : fld w 31 31 = S.toNat := fld_pack [] 0 _ _ e (S.toNat_lt) ⟨by decide, q2⟩ rfl rfl
  have f30_25 : fld w 30 25 = 7 := fld_pack [(1, S.toNat)] 5 _ _ e (by decide) q2 rfl rfl
  have f24_20 : fld w 24 20 = d.toNat := fld_pack [(1, S.toNat), (6, 7)] 4 _ _ e (d.isLt) q3 rfl rfl
  have f19_15 : fld w 19 15 = a.toNat := fld_pack [(1, S.toNat), (6, 7), (5, d.toNat)] 4 _ _ e (a.isLt) q4 rfl rfl
  have f14_10 : fld w 14 10 = 0 := fld_pack [(1, S.toNat), (6, 7), (5, d.toNat), (5, a.toNat)] 4 _ _ e (Nat.two_pow_pos _) q5 rfl rfl
  have f9_5 : fld w 9 5 = 4 := fld_pack [(1, S.toNat), (6, 7), (5, d.toNat), (5, a.toNat), (5, 0)] 4 _ _ e (by decide) q6 rfl rfl
  have f4_0 : fld w 4 0 = 0 := fld_pack [(1, S.toNat), (6, 7), (5, d.toNat), (5, a.toNat), (5, 0), (5, 4)] 4 _ _ e (Nat.two_pow_pos _) q7 rfl rfl
  have n0 : ¬ (w = 0 ∨ w = 4294967295) := not_blank f30_25 (by decide) (by decide)
  clear e hw
  simp only [decode, n0, if_false, decodeLR, f31_31, f30_25, f24_20, f19_15, f14_10, f9_5, f4_0, bool_field, bits_field, need_some, Nat.add_zero]
  exact accept_ok hwf

theorem sdecl (S : Bool) (d : BitVec 5) (a : BitVec 5) : Statement (.sdecl S d a) := by
  intro hwf w hw
  have e := (Option.some.inj hw).symm
  simp only [word_cons, word_nil, place_eq] at e
  replace e : w = pack [(1, S.toNat), (6, 7), (5, d.toNat), (5, a.toNat), (5, 0), (5, 5), (5, 0)] := e.trans (by simp only [pack, total]; omega)
  have q7 : Fits [] := trivial
  have q6 : Fits [(5, 0)] := ⟨Nat.two_pow_pos _, q7⟩
  have q5 : Fits [(5, 5), (5, 0)] := ⟨by decide, q6⟩
  have q4 : Fits [(5, 0), (5, 5), (5, 0)] := ⟨Nat.two_pow_pos _, q5⟩
  have q3 : Fits [(5, a.toNat), (5, 0), (5, 5), (5, 0)] := ⟨a.isLt, q4⟩
  have q2 : Fits [(5, d.toNat), (5, a.toNat), (5, 0), (5, 5), (5, 0)] := ⟨d.isLt, q3⟩
  have f31_31 : fld w 31 31 = S.toNat := fld_pack [] 0 _ _ e (S.toNat_lt) ⟨by decide, q2⟩ rfl rfl
  have f30_25 : fld w 30 25 = 7 := fld_pack [(1, S.toNat)] 5 _ _ e (by decide) q2 rfl rfl
  have f24_20 : fld w 24 20 = d.toNat := fld_pack [(1, S.toNat), (6, 7)] 4 _ _ e (d.isLt) q3 rfl rfl
  have f19_15 : fld w 19 15 = a.toNat := fld_pack [(1, S.toNat), (6, 7), (5, d.toNat)] 4 _ _ e (a.isLt) q4 rfl rfl
  have f14_10 : fld w 14 10 = 0 := fld_pack [(1, S.toNat), (6, 7), (5, d.toNat), (5, a.toNat)] 4 _ _ e (Nat.two_pow_pos _) q5 rfl rfl
  have f9_5 : fld w 9 5 = 5 := fld_pack [(1, S.toNat), (6, 7), (5, d.toNat), (5, a.toNat), (5, 0)] 4 _ _ e (by decide) q6 rfl rfl
  have f4_0 : fld w 4 0 = 0 := fld_pack [(1, S.toNat), (6, 7), (5, d.toNat), (5, a.toNat), (5, 0), (5, 5)] 4 _ _ e (Nat.two_pow_pos _) q7 rfl rfl
  have n0 : ¬ (w = 0 ∨ w = 4294967295) := not_blank f30_25 (by decide) (by decide)
  clear e hw
  simp only [decode, n0, if_false, decodeLR, f31_31, f30_25, f24_20, f19_15, f14_10, f9_5, f4_0, bool_field, bits_field, need_some, Nat.add_zero]
  exact accept_ok hwf

theorem gwait (S : Bool) (d : BitVec 5) (a : BitVec 5) : Statement (.gwait S d a) := by
  intro hwf w hw
  have e := (Option.some.inj hw).symm
  simp only [word_cons, word_nil, place_eq] at e
  replace e : w = pack [(1, S.toNat), (6, 7), (5, d.toNat), (5, a.toNat), (5, 0), (5, 6), (5, 0)] := e.trans (by simp only [pack, total]; omega)
  have q7 : Fits [] := trivial
  have q6 : Fits [(5, 0)] := ⟨Nat.two_pow_pos _, q7⟩
  have q5 : Fits [(5, 6), (5, 0)] := ⟨by decide, q6⟩
  have q4 : Fits [(5, 0), (5, 6), (5, 0)] := ⟨Nat.two_pow_pos _, q5⟩
  have q3 : Fits [(5, a.toNat), (5, 0), (5, 6), (5, 0)] := ⟨a.isLt, q4⟩
  have q2 : Fits [(5, d.toNat), (5, a.toNat), (5, 0), (5, 6), (5, 0)] := ⟨d.isLt, q3⟩
  have f31_31 : fld w 31 31 = S.toNat := fld_pack [] 0 _ _ e (S.toNat_lt) ⟨by decide, q2⟩ rfl rfl
  have f30_25 : fld w 30 25 = 7 := fld_pack [(1, S.toNat)] 5 _ _ e (by decide) q2 rfl rfl
  have f24_20 : fld w 24 20 = d.toNat := fld_pack [(1, S.toNat), (6, 7)] 4 _ _ e (d.isLt) q3 rfl rfl
  have f19_15 : fld w 19 15 = a.toNat := fld_pack [(1, S.toNat), (6, 7), (5, d.toNat)] 4 _ _ e (a.isLt) q4 rfl rfl
  have f14_10 : fld w 14 10 = 0 := fld_pack [(1, S.toNat), (6, 7), (5, d.toNat), (5, a.toNat)] 4 _ _ e (Nat.two_pow_pos _) q5 rfl rfl
  have f9_5 : fld w 9 5 = 6 := fld_pack [(1, S.toNat), (6, 7), (5, d.toNat), (5, a.toNat), (5, 0)] 4 _ _ e (by decide) q6 rfl rfl
  have f4_0 : fld w 4 0 = 0 := fld_pack [(1, S.toNat), (6, 7), (5, d.toNat), (5, a.toNat), (5, 0), (5, 6)] 4 _ _ e (Nat.two_pow_pos _) q7 rfl rfl
  have n0 : ¬ (w = 0 ∨ w = 4294967295) := not_blank f30_25 (by decide) (by decide)
  clear e hw
  simp only [decode, n0, if_false, decodeLR, f31_31, f30_25, f24_20, f19_15, f14_10, f9_5, f4_0, bool_field, bits_field, need_some, Nat.add_zero]
  exact accept_ok hwf

theorem grec (S : Bool) (d : BitVec 5) (a : BitVec 5) : Statement (.grec S d a) := by
  intro hwf w hw
  have e := (Option.some.inj hw).symm
  simp only [word_cons, word_nil, place_eq] at e
  replace e : w = pack [(1, S.toNat), (6, 7), (5, d.toNat), (5, a.toNat), (5, 0), (5, 7), (5, 0)] := e.trans (by simp only [pack, total]; omega)
  have q7 : Fits [] := trivial
  have q6 : Fits [(5, 0)] := ⟨Nat.two_pow_pos _, q7⟩
  have q5 : Fits [(5, 7), (5, 0)] := ⟨by decide, q6⟩
  have q4 : Fits [(5, 0), (5, 7), (5, 0)] := ⟨Nat.two_pow_pos _, q5⟩
  have q3 : Fits [(5, a.toNat), (5, 0), (5, 7), (5, 0)] := ⟨a.isLt, q4⟩
  have q2 : Fits [(5, d.toNat), (5, a.toNat), (5, 0), (5, 7), (5, 0)] := ⟨d.isLt, q3⟩
  have f31_31 : fld w 31 31 = S.toNat := fld_pack [] 0 _ _ e (S.toNat_lt) ⟨by decide, q2⟩ rfl rfl
  have f30_25 : fld w 30 25 = 7 := fld_pack [(1, S.toNat)] 5 _ _ e (by decide) q2 rfl rfl
  have f24_20 : fld w 24 20 = d.toNat := fld_pack [(1, S.toNat), (6, 7)] 4 _ _ e (d.isLt) q3 rfl rfl
  have f19_15 : fld w 19 15 = a.toNat := fld_pack [(1, S.toNat), (6, 7), (5, d.toNat)] 4 _ _ e (a.isLt) q4 rfl rfl
  have f14_10 : fld w 14 10 = 0 := fld_pack [(1, S.toNat), (6, 7), (5, d.toNat), (5, a.toNat)] 4 _ _ e (Nat.two_pow_pos _) q5 rfl rfl
  have f9_5 : fld w 9 5 = 7 := fld_pack [(1, S.toNat), (6, 7), (5, d.toNat), (5, a.toNat), (5, 0)] 4 _ _ e (by decide) q6 rfl rfl
  have f4_0 : fld w 4 0 = 0 := fld_pack [(1, S.toNat), (6, 7), (5, d.toNat), (5, a.toNat), (5, 0), (5, 7)] 4 _ _ e (Nat.two_pow_pos _) q7 rfl rfl
  have n0 : ¬ (w = 0 ∨ w = 4294967295) := not_blank f30_25 (by decide) (by decide)
  clear e hw
  simp only [decode, n0, if_false, decodeLR, f31_31, f30_25, f24_20, f19_15, f14_10, f9_5, f4_0, bool_field, bits_field, need_some, Nat.add_zero]
  exact accept_ok hwf

theorem gread (S : Bool) (d : BitVec 5) (a : BitVec 5) (b : BitVec 5) : Statement (.gread S d a b) := by
  intro hwf w hw
  have e := (Option.some.inj hw).symm
  simp only [word_cons, word_nil, place_eq] at e
  replace e : w = pack [(1, S.toNat), (6, 7), (5, d.toNat), (5, a.toNat), (5, b.toNat), (5, 8), (5, 0)] := e.trans (by simp only [pack, total]; omega)
  have q7 : Fits [] := trivial
  have q6 : Fits [(5, 0)] := ⟨Nat.two_pow_pos _, q7⟩
  have q5 : Fits [(5, 8), (5, 0)] := ⟨by decide, q6⟩
  have q4 : Fits [(5, b.toNat), (5, 8), (5, 0)] := ⟨b.isLt, q5⟩
  have q3 : Fits [(5, a.toNat), (5, b.toNat), (5, 8), (5, 0)] := ⟨a.isLt, q4⟩
  have q2 : Fits [(5, d.toNat), (5, a.toNat), (5, b.toNat), (5, 8), (5, 0)] := ⟨d.isLt, q3⟩
  have f31_31 : fld w 31 31 = S.toNat := fld_pack [] 0 _ _ e (S.toNat_lt) ⟨by decide, q2⟩ rfl rfl
  have f30_25 : fld w 30 25 = 7 := fld_pack [(1, S.toNat)] 5 _ _ e (by decide) q2 rfl rfl
  have f24_20 : fld w 24 20 = d.toNat := fld_pack [(1, S.toNat), (6, 7)] 4 _ _ e (d.isLt) q3 rfl rfl
  have f19_15 : fld w 19 15 = a.toNat := fld_pack [(1, S.toNat), (6, 7), (5, d.toNat)] 4 _ _ e (a.isLt) q4 rfl rfl
  have f14_10 : fld w 14 10 = b.toNat := fld_pack [(1, S.toNat), (6, 7), (5, d.toNat), (5, a.toNat)] 4 _ _ e (b.isLt) q5 rfl rfl
  have f9_5 : fld w 9 5 = 8 := fld_pack [(1, S.toNat), (6, 7), (5, d.toNat), (5, a.toNat), (5, b.toNat)] 4 _ _ e (by decide) q6 rfl rfl
  have f4_0 : fld w 4 0 = 0 := fld_pack [(1, S.toNat), (6, 7), (5, d.toNat), (5, a.toNat), (5, b.toNat), (5, 8)] 4 _ _ e (Nat.two_pow_pos _) q7 rfl rfl
  have n0 : ¬ (w = 0 ∨ w = 4294967295) := not_blank f30_25 (by decide) (by decide)
  clear e hw
  simp only [decode, n0, if_false, decodeLR, f31_31, f30_25, f24_20, f19_15, f14_10, f9_5, f4_0, bool_field, bits_field, need_some, Nat.add_zero]
  exact accept_ok hwf

theorem gwrite (S : Bool) (d : BitVec 5) (a : BitVec 5) (b : BitVec 5) : Statement (.gwrite S d a b) := by
  intro hwf w hw
  have e := (Option.some.inj hw).symm
  simp only [word_cons, word_nil, place_eq] at e
  replace e : w = pack [(1, S.toNat), (6, 7), (5, d.toNat), (5, a.toNat), (5, b.toNat), (5, 9), (5, 0)] := e.trans (by simp only [pack, total]; omega)
  have q7 : Fits [] := trivial
  have q6 : Fits [(5, 0)] := ⟨Nat.two_pow_pos _, q7⟩
  have q5 : Fits [(5, 9), (5, 0)] := ⟨by decide, q6⟩
  have q4 : Fits [(5, b.toNat), (5, 9), (5, 0)] := ⟨b.isLt, q5⟩
  have q3 : Fits [(5, a.toNat), (5, b.toNat), (5, 9), (5, 0)] := ⟨a.isLt, q4⟩
  have q2 : Fits [(5, d.toNat), (5, a.toNat), (5, b.toNat), (5, 9), (5, 0)] := ⟨d.isLt, q3⟩
  have f31_31 : fld w 31 31 = S.toNat := fld_pack [] 0 _ _ e (S.toNat_lt) ⟨by decide, q2⟩ rfl rfl
  have f30_25 : fld w 30 25 = 7 := fld_pack [(1, S.toNat)] 5 _ _ e (by decide) q2 rfl rfl
  have f24_20 : fld w 24 20 = d.toNat := fld_pack [(1, S.toNat), (6, 7)] 4 _ _ e (d.isLt) q3 rfl rfl
  have f19_15 : fld w 19 15 = a.toNat := fld_pack [(1, S.toNat), (6, 7), (5, d.toNat)] 4 _ _ e (a.isLt) q4 rfl rfl
  have f14_10 : fld w 14 10 = b.toNat := fld_pack [(1, S.toNat), (6, 7), (5, d.toNat), (5, a.toNat)] 4 _ _ e (b.isLt) q5 rfl rfl
  have f9_5 : fld w 9 5 = 9 := fld_pack [(1, S.toNat), (6, 7), (5, d.toNat), (5, a.toNat), (5, b.toNat)] 4 _ _ e (by decide) q6 rfl rfl
  have f4_0 : fld w 4 0 = 0 := fld_pack [(1, S.toNat), (6, 7), (5, d.toNat), (5, a.toNat), (5, b.toNat), (5, 9)] 4 _ _ e (Nat.two_pow_pos _) q7 rfl rfl
  have n0 : ¬ (w = 0 ∨ w = 4294967295) := not_blank f30_25 (by decide) (by decide)
  clear e hw
  simp only [decode, n0, if_false, decodeLR, f31_31, f30_25, f24_20, f19_15, f14_10, f9_5, f4_0, bool_field, bits_field, need_some, Nat.add_zero]
  exact accept_ok hwf

theorem gres (S : Bool) (a : BitVec 5) (b : BitVec 5) : Statement (.gres S a b) := by
  intro hwf w hw
  have e := (Option.some.inj hw).symm
  simp only [word_cons, word_nil, place_eq] at e
  replace e : w = pack [(1, S.toNat), (6, 7), (5, 0), (5, a.toNat), (5, b.toNat), (5, 10), (5, 0)] := e.trans (by simp only [pack, total]; omega)
  have q7 : Fits [] := trivial
  have q6 : Fits [(5, 0)] := ⟨Nat.two_pow_pos _, q7⟩
  have q5 : Fits [(5, 10), (5, 0)] := ⟨by decide, q6⟩
  have q4 : Fits [(5, b.toNat), (5, 10), (5, 0)] := ⟨b.isLt, q5⟩
  have q3 : Fits [(5, a.toNat), (5, b.toNat), (5, 10), (5, 0)] := ⟨a.isLt, q4⟩
  have q2 : Fits [(5, 0), (5, a.toNat), (5, b.toNat), (5, 10), (5, 0)] := ⟨Nat.two_pow_pos _, q3⟩
  have f31_31 : fld w 31 31 = S.toNat := fld_pack [] 0 _ _ e (S.toNat_lt) ⟨by decide, q2⟩ rfl rfl
  have f30_25 : fld w 30 25 = 7 := fld_pack [(1, S.toNat)] 5 _ _ e (by decide) q2 rfl rfl
  have f24_20 : fld w 24 20 = 0 := fld_pack [(1, S.toNat), (6, 7)] 4 _ _ e (Nat.two_pow_pos _) q3 rfl rfl
  have f19_15 : fld w 19 15 = a.toNat := fld_pack [(1, S.toNat), (6, 7), (5, 0)] 4 _ _ e (a.isLt) q4 rfl rfl
  have f14_10 : fld w 14 10 = b.toNat := fld_pack [(1, S.toNat), (6, 7), (5, 0), (5, a.toNat)] 4 _ _ e (b.isLt) q5 rfl rfl
  have f9_5 : fld w 9 5 = 10 := fld_pack [(1, S.toNat), (6, 7), (5, 0), (5, a.toNat), (5, b.toNat)] 4 _ _ e (by decide) q6 rfl rfl
  have f4_0 : fld w 4 0 = 0 := fld_pack [(1, S.toNat), (6, 7), (5, 0), (5, a.toNat), (5, b.toNat), (5, 10)] 4 _ _ e (Nat.two_pow_pos _) q7 rfl rfl
  have n0 : ¬ (w = 0 ∨ w = 4294967295) := not_blank f30_25 (by decide) (by decide)
  clear e hw
  simp only [decode, n0, if_false, decodeLR, f31_31, f30_25, f24_20, f19_15, f14_10, f9_5, f4_0, bool_field, bits_field, need_some, Nat.add_zero]
  exact accept_ok hwf

theorem gkill (S : Bool) (d : BitVec 5) (a : BitVec 5) : Statement (.gkill S d a) := by
  intro hwf w hw
  have e := (Option.some.inj hw).symm
  simp only [word_cons, word_nil, place_eq] at e
  replace e : w = pack [(1, S.toNat), (6, 7), (5, d.toNat), (5, a.toNat), (5, 0), (5, 11), (5, 0)] := e.trans (by simp only [pack, total]; omega)
  have q7 : Fits [] := trivial
  have q6 : Fits [(5, 0)] := ⟨Nat.two_pow_pos _, q7⟩
  have q5 : Fits [(5, 11), (5, 0)] := ⟨by decide, q6⟩
  have q4 : Fits [(5, 0), (5, 11), (5, 0)] := ⟨Nat.two_pow_pos _, q5⟩
  have q3 : Fits [(5, a.toNat), (5, 0), (5, 11), (5, 0)] := ⟨a.isLt, q4⟩
  have q2 : Fits [(5, d.toNat), (5, a.toNat), (5, 0), (5, 11), (5, 0)] := ⟨d.isLt, q3⟩
  have f31_31 : fld w 31 31 = S.toNat := fld_pack [] 0 _ _ e (S.toNat_lt) ⟨by decide, q2⟩ rfl rfl
  have f30_25 : fld w 30 25 = 7 := fld_pack [(1, S.toNat)] 5 _ _ e (by decide) q2 rfl rfl
  have f24_20 : fld w 24 20 = d.toNat := fld_pack [(1, S.toNat), (6, 7)] 4 _ _ e (d.isLt) q3 rfl rfl
  have f19_15 : fld w 19 15 = a.toNat := fld_pack [(1, S.toNat), (6, 7), (5, d.toNat)] 4 _ _ e (a.isLt) q4 rfl rfl
  have f14_10 : fld w 14 10 = 0 := fld_pack [(1, S.toNat), (6, 7), (5, d.toNat), (5, a.toNat)] 4 _ _ e (Nat.two_pow_pos _) q5 rfl rfl
  have f9_5 : fld w 9 5 = 11 := fld_pack [(1, S.toNat), (6, 7), (5, d.toNat), (5, a.toNat), (5, 0)] 4 _ _ e (by decide) q6 rfl rfl
  have f4_0 : fld w 4 0 = 0 := fld_pack [(1, S.toNat), (6, 7), (5, d.toNat), (5, a.toNat), (5, 0), (5, 11)] 4 _ _ e (Nat.two_pow_pos _) q7 rfl rfl
  have n0 : ¬ (w = 0 ∨ w = 4294967295) := not_blank f30_25 (by decide) (by decide)
  clear e hw
  simp only [decode, n0, if_false, decodeLR, f31_31, f30_25, f24_20, f19_15, f14_10, f9_5, f4_0, bool_field, bits_field, need_some, Nat.add_zero]
  exact accept_ok hwf

theorem launch (S : Bool) (d : BitVec 5) (a : BitVec 5) (k : BitVec 4) : Statement (.launch S d a k) := by
  intro hwf w hw
  have e := (Option.some.inj hw).symm
  simp only [word_cons, word_nil, place_eq] at e
  replace e : w = pack [(1, S.toNat), (6, 7), (5, d.toNat), (5, a.toNat), (5, 0), (5, 12), (4, k.toNat), (1, 0)] := e.trans (by simp only [pack, total]; omega)
  have q8 : Fits [] := trivial
  have q7 : Fits [(1, 0)] := ⟨Nat.two_pow_pos _, q8⟩
  have q6 : Fits [(4, k.toNat), (1, 0)] := ⟨k.isLt, q7⟩
  have q5 : Fits [(5, 12), (4, k.toNat), (1, 0)] := ⟨by decide, q6⟩
  have q4 : Fits [(5, 0), (5, 12), (4, k.toNat), (1, 0)] := ⟨Nat.two_pow_pos _, q5⟩
  have q3 : Fits [(5, a.toNat), (5, 0), (5, 12), (4, k.toNat), (1, 0)] := ⟨a.isLt, q4⟩
  have q2 : Fits [(5, d.toNat), (5, a.toNat), (5, 0), (5, 12), (4, k.toNat), (1, 0)] := ⟨d.isLt, q3⟩
  have f31_31 : fld w 31 31 = S.toNat := fld_pack [] 0 _ _ e (S.toNat_lt) ⟨by decide, q2⟩ rfl rfl
  have f30_25 : fld w 30 25 = 7 := fld_pack [(1, S.toNat)] 5 _ _ e (by decide) q2 rfl rfl
  have f24_20 : fld w 24 20 = d.toNat := fld_pack [(1, S.toNat), (6, 7)] 4 _ _ e (d.isLt) q3 rfl rfl
  have f19_15 : fld w 19 15 = a.toNat := fld_pack [(1, S.toNat), (6, 7), (5, d.toNat)] 4 _ _ e (a.isLt) q4 rfl rfl
  have f14_10 : fld w 14 10 = 0 := fld_pack [(1, S.toNat), (6, 7), (5, d.toNat), (5, a.toNat)] 4 _ _ e (Nat.two_pow_pos _) q5 rfl rfl
  have f9_5 : fld w 9 5 = 12 := fld_pack [(1, S.toNat), (6, 7), (5, d.toNat), (5, a.toNat), (5, 0)] 4 _ _ e (by decide) q6 rfl rfl
  have f4_1 : fld w 4 1 = k.toNat := fld_pack [(1, S.toNat), (6, 7), (5, d.toNat), (5, a.toNat), (5, 0), (5, 12)] 3 _ _ e (k.isLt) q7 rfl rfl
  have f0_0 : fld w 0 0 = 0 := fld_pack [(1, S.toNat), (6, 7), (5, d.toNat), (5, a.toNat), (5, 0), (5, 12), (4, k.toNat)] 0 _ _ e (Nat.two_pow_pos _) q8 rfl rfl
  have n0 : ¬ (w = 0 ∨ w = 4294967295) := not_blank f30_25 (by decide) (by decide)
  clear e hw
  simp only [decode, n0, if_false, decodeLR, f31_31, f30_25, f24_20, f19_15, f14_10, f9_5, f4_1, f0_0, bool_field, bits_field, need_some, Nat.add_zero]
  exact accept_ok hwf

theorem addV (S : Bool) (d : BitVec 7) (a : BitVec 7) (b : BitVec 7) : Statement (.addV S d a b) := by
  intro hwf w hw
  have e := (Option.some.inj hw).symm
  simp only [word_cons, word_nil, place_eq] at e
  replace e : w = pack [(1, S.toNat), (6, 16), (7, d.toNat), (7, a.toNat), (7, b.toNat), (4, 0)] := e.trans (by simp only [pack, total]; omega)
  have q6 : Fits [] := trivial
  have q5 : Fits [(4, 0)] := ⟨Nat.two_pow_pos _, q6⟩
  have q4 : Fits [(7, b.toNat), (4, 0)] := ⟨b.isLt, q5⟩
  have q3 : Fits [(7, a.toNat), (7, b.toNat), (4, 0)] := ⟨a.isLt, q4⟩
  have q2 : Fits [(7, d.toNat), (7, a.toNat), (7, b.toNat), (4, 0)] := ⟨d.isLt, q3⟩
  have f31_31 : fld w 31 31 = S.toNat := fld_pack [] 0 _ _ e (S.toNat_lt) ⟨by decide, q2⟩ rfl rfl
  have f30_25 : fld w 30 25 = 16 := fld_pack [(1, S.toNat)] 5 _ _ e (by decide) q2 rfl rfl
  have f24_18 : fld w 24 18 = d.toNat := fld_pack [(1, S.toNat), (6, 16)] 6 _ _ e (d.isLt) q3 rfl rfl
  have f17_11 : fld w 17 11 = a.toNat := fld_pack [(1, S.toNat), (6, 16), (7, d.toNat)] 6 _ _ e (a.isLt) q4 rfl rfl
  have f10_4 : fld w 10 4 = b.toNat := fld_pack [(1, S.toNat), (6, 16), (7, d.toNat), (7, a.toNat)] 6 _ _ e (b.isLt) q5 rfl rfl
  have f3_0 : fld w 3 0 = 0 := fld_pack [(1, S.toNat), (6, 16), (7, d.toNat), (7, a.toNat), (7, b.toNat)] 3 _ _ e (Nat.two_pow_pos _) q6 rfl rfl
  have n0 : ¬ (w = 0 ∨ w = 4294967295) := not_blank f30_25 (by decide) (by decide)
  clear e hw
  simp only [decode, n0, if_false, decodeIntA, f31_31, f30_25, f24_18, f17_11, f10_4, f3_0, bool_field, bits_field, need_some, Nat.add_zero]
  exact accept_ok hwf

theorem subV (S : Bool) (d : BitVec 7) (a : BitVec 7) (b : BitVec 7) : Statement (.subV S d a b) := by
  intro hwf w hw
  have e := (Option.some.inj hw).symm
  simp only [word_cons, word_nil, place_eq] at e
  replace e : w = pack [(1, S.toNat), (6, 16), (7, d.toNat), (7, a.toNat), (7, b.toNat), (4, 1)] := e.trans (by simp only [pack, total]; omega)
  have q6 : Fits [] := trivial
  have q5 : Fits [(4, 1)] := ⟨by decide, q6⟩
  have q4 : Fits [(7, b.toNat), (4, 1)] := ⟨b.isLt, q5⟩
  have q3 : Fits [(7, a.toNat), (7, b.toNat), (4, 1)] := ⟨a.isLt, q4⟩
  have q2 : Fits [(7, d.toNat), (7, a.toNat), (7, b.toNat), (4, 1)] := ⟨d.isLt, q3⟩
  have f31_31 : fld w 31 31 = S.toNat := fld_pack [] 0 _ _ e (S.toNat_lt) ⟨by decide, q2⟩ rfl rfl
  have f30_25 : fld w 30 25 = 16 := fld_pack [(1, S.toNat)] 5 _ _ e (by decide) q2 rfl rfl
  have f24_18 : fld w 24 18 = d.toNat := fld_pack [(1, S.toNat), (6, 16)] 6 _ _ e (d.isLt) q3 rfl rfl
  have f17_11 : fld w 17 11 = a.toNat := fld_pack [(1, S.toNat), (6, 16), (7, d.toNat)] 6 _ _ e (a.isLt) q4 rfl rfl
  have f10_4 : fld w 10 4 = b.toNat := fld_pack [(1, S.toNat), (6, 16), (7, d.toNat), (7, a.toNat)] 6 _ _ e (b.isLt) q5 rfl rfl
  have f3_0 : fld w 3 0 = 1 := fld_pack [(1, S.toNat), (6, 16), (7, d.toNat), (7, a.toNat), (7, b.toNat)] 3 _ _ e (by decide) q6 rfl rfl
  have n0 : ¬ (w = 0 ∨ w = 4294967295) := not_blank f30_25 (by decide) (by decide)
  clear e hw
  simp only [decode, n0, if_false, decodeIntA, f31_31, f30_25, f24_18, f17_11, f10_4, f3_0, bool_field, bits_field, need_some, Nat.add_zero]
  exact accept_ok hwf

theorem mulV (S : Bool) (d : BitVec 7) (a : BitVec 7) (b : BitVec 7) : Statement (.mulV S d a b) := by
  intro hwf w hw
  have e := (Option.some.inj hw).symm
  simp only [word_cons, word_nil, place_eq] at e
  replace e : w = pack [(1, S.toNat), (6, 16), (7, d.toNat), (7, a.toNat), (7, b.toNat), (4, 2)] := e.trans (by simp only [pack, total]; omega)
  have q6 : Fits [] := trivial
  have q5 : Fits [(4, 2)] := ⟨by decide, q6⟩
  have q4 : Fits [(7, b.toNat), (4, 2)] := ⟨b.isLt, q5⟩
  have q3 : Fits [(7, a.toNat), (7, b.toNat), (4, 2)] := ⟨a.isLt, q4⟩
  have q2 : Fits [(7, d.toNat), (7, a.toNat), (7, b.toNat), (4, 2)] := ⟨d.isLt, q3⟩
  have f31_31 : fld w 31 31 = S.toNat := fld_pack [] 0 _ _ e (S.toNat_lt) ⟨by decide, q2⟩ rfl rfl
  have f30_25 : fld w 30 25 = 16 := fld_pack [(1, S.toNat)] 5 _ _ e (by decide) q2 rfl rfl
  have f24_18 : fld w 24 18 = d.toNat := fld_pack [(1, S.toNat), (6, 16)] 6 _ _ e (d.isLt) q3 rfl rfl
  have f17_11 : fld w 17 11 = a.toNat := fld_pack [(1, S.toNat), (6, 16), (7, d.toNat)] 6 _ _ e (a.isLt) q4 rfl rfl
  have f10_4 : fld w 10 4 = b.toNat := fld_pack [(1, S.toNat), (6, 16), (7, d.toNat), (7, a.toNat)] 6 _ _ e (b.isLt) q5 rfl rfl
  have f3_0 : fld w 3 0 = 2 := fld_pack [(1, S.toNat), (6, 16), (7, d.toNat), (7, a.toNat), (7, b.toNat)] 3 _ _ e (by decide) q6 rfl rfl
  have n0 : ¬ (w = 0 ∨ w = 4294967295) := not_blank f30_25 (by decide) (by decide)
  clear e hw
  simp only [decode, n0, if_false, decodeIntA, f31_31, f30_25, f24_18, f17_11, f10_4, f3_0, bool_field, bits_field, need_some, Nat.add_zero]
  exact accept_ok hwf

theorem mulhSV (S : Bool) (d : BitVec 7) (a : BitVec 7) (b : BitVec 7) : Statement (.mulhSV S d a b) := by
  intro hwf w hw
  have e := (Option.some.inj hw).symm
  simp only [word_cons, word_nil, place_eq] at e
  replace e : w = pack [(1, S.toNat), (6, 16), (7, d.toNat), (7, a.toNat), (7, b.toNat), (4, 3)] := e.trans (by simp only [pack, total]; omega)
  have q6 : Fits [] := trivial
  have q5 : Fits [(4, 3)] := ⟨by decide, q6⟩
  have q4 : Fits [(7, b.toNat), (4, 3)] := ⟨b.isLt, q5⟩
  have q3 : Fits [(7, a.toNat), (7, b.toNat), (4, 3)] := ⟨a.isLt, q4⟩
  have q2 : Fits [(7, d.toNat), (7, a.toNat), (7, b.toNat), (4, 3)] := ⟨d.isLt, q3⟩
  have f31_31 : fld w 31 31 = S.toNat := fld_pack [] 0 _ _ e (S.toNat_lt) ⟨by decide, q2⟩ rfl rfl
  have f30_25 : fld w 30 25 = 16 := fld_pack [(1, S.toNat)] 5 _ _ e (by decide) q2 rfl rfl
  have f24_18 : fld w 24 18 = d.toNat := fld_pack [(1, S.toNat), (6, 16)] 6 _ _ e (d.isLt) q3 rfl rfl
  have f17_11 : fld w 17 11 = a.toNat := fld_pack [(1, S.toNat), (6, 16), (7, d.toNat)] 6 _ _ e (a.isLt) q4 rfl rfl
  have f10_4 : fld w 10 4 = b.toNat := fld_pack [(1, S.toNat), (6, 16), (7, d.toNat), (7, a.toNat)] 6 _ _ e (b.isLt) q5 rfl rfl
  have f3_0 : fld w 3 0 = 3 := fld_pack [(1, S.toNat), (6, 16), (7, d.toNat), (7, a.toNat), (7, b.toNat)] 3 _ _ e (by decide) q6 rfl rfl
  have n0 : ¬ (w = 0 ∨ w = 4294967295) := not_blank f30_25 (by decide) (by decide)
  clear e hw
  simp only [decode, n0, if_false, decodeIntA, f31_31, f30_25, f24_18, f17_11, f10_4, f3_0, bool_field, bits_field, need_some, Nat.add_zero]
  exact accept_ok hwf

theorem mulhNV (S : Bool) (d : BitVec 7) (a : BitVec 7) (b : BitVec 7) : Statement (.mulhNV S d a b) := by
  intro hwf w hw
  have e := (Option.some.inj hw).symm
  simp only [word_cons, word_nil, place_eq] at e
  replace e : w = pack [(1, S.toNat), (6, 16), (7, d.toNat), (7, a.toNat), (7, b.toNat), (4, 4)] := e.trans (by simp only [pack, total]; omega)
  have q6 : Fits [] := trivial
  have q5 : Fits [(4, 4)] := ⟨by decide, q6⟩
  have q4 : Fits [(7, b.toNat), (4, 4)] := ⟨b.isLt, q5⟩
  have q3 : Fits [(7, a.toNat), (7, b.toNat), (4, 4)] := ⟨a.isLt, q4⟩
  have q2 : Fits [(7, d.toNat), (7, a.toNat), (7, b.toNat), (4, 4)] := ⟨d.isLt, q3⟩
  have f31_31 : fld w 31 31 = S.toNat := fld_pack [] 0 _ _ e (S.toNat_lt) ⟨by decide, q2⟩ rfl rfl
  have f30_25 : fld w 30 25 = 16 := fld_pack [(1, S.toNat)] 5 _ _ e (by decide) q2 rfl rfl
  have f24_18 : fld w 24 18 = d.toNat := fld_pack [(1, S.toNat), (6, 16)] 6 _ _ e (d.isLt) q3 rfl rfl
  have f17_11 : fld w 17 11 = a.toNat := fld_pack [(1, S.toNat), (6, 16), (7, d.toNat)] 6 _ _ e (a.isLt) q4 rfl rfl
  have f10_4 : fld w 10 4 = b.toNat := fld_pack [(1, S.toNat), (6, 16), (7, d.toNat), (7, a.toNat)] 6 _ _ e (b.isLt) q5 rfl rfl
  have f3_0 : fld w 3 0 = 4 := fld_pack [(1, S.toNat), (6, 16), (7, d.toNat), (7, a.toNat), (7, b.toNat)] 3 _ _ e (by decide) q6 rfl rfl
  have n0 : ¬ (w = 0 ∨ w = 4294967295) := not_blank f30_25 (by decide) (by decide)
  clear e hw
  simp only [decode, n0, if_false, decodeIntA, f31_31, f30_25, f24_18, f17_11, f10_4, f3_0, bool_field, bits_field, need_some, Nat.add_zero]
  exact accept_ok hwf

theorem andV (S : Bool) (d : BitVec 7) (a : BitVec 7) (b : BitVec 7) : Statement (.andV S d a b) := by
  intro hwf w hw
  have e := (Option.some.inj hw).symm
  simp only [word_cons, word_nil, place_eq] at e
  replace e : w = pack [(1, S.toNat), (6, 16), (7, d.toNat), (7, a.toNat), (7, b.toNat), (4, 5)] := e.trans (by simp only [pack, total]; omega)
  have q6 : Fits [] := trivial
  have q5 : Fits [(4, 5)] := ⟨by decide, q6⟩
  have q4 : Fits [(7, b.toNat), (4, 5)] := ⟨b.isLt, q5⟩
  have q3 : Fits [(7, a.toNat), (7, b.toNat), (4, 5)] := ⟨a.isLt, q4⟩
  have q2 : Fits [(7, d.toNat), (7, a.toNat), (7, b.toNat), (4, 5)] := ⟨d.isLt, q3⟩
  have f31_31 : fld w 31 31 = S.toNat := fld_pack [] 0 _ _ e (S.toNat_lt) ⟨by decide, q2⟩ rfl rfl
  have f30_25 : fld w 30 25 = 16 := fld_pack [(1, S.toNat)] 5 _ _ e (by decide) q2 rfl rfl
  have f24_18 : fld w 24 18 = d.toNat := fld_pack [(1, S.toNat), (6, 16)] 6 _ _ e (d.isLt) q3 rfl rfl
  have f17_11 : fld w 17 11 = a.toNat := fld_pack [(1, S.toNat), (6, 16), (7, d.toNat)] 6 _ _ e (a.isLt) q4 rfl rfl
  have f10_4 : fld w 10 4 = b.toNat := fld_pack [(1, S.toNat), (6, 16), (7, d.toNat), (7, a.toNat)] 6 _ _ e (b.isLt) q5 rfl rfl
  have f3_0 : fld w 3 0 = 5 := fld_pack [(1, S.toNat), (6, 16), (7, d.toNat), (7, a.toNat), (7, b.toNat)] 3 _ _ e (by decide) q6 rfl rfl
  have n0 : ¬ (w = 0 ∨ w = 4294967295) := not_blank f30_25 (by decide) (by decide)
  clear e hw
  simp only [decode, n0, if_false, decodeIntA, f31_31, f30_25, f24_18, f17_11, f10_4, f3_0, bool_field, bits_field, need_some, Nat.add_zero]
  exact accept_ok hwf

theorem orV (S : Bool) (d : BitVec 7) (a : BitVec 7) (b : BitVec 7) : Statement (.orV S d a b) := by
  intro hwf w hw
  have e := (Option.some.inj hw).symm
  simp only [word_cons, word_nil, place_eq] at e
  replace e : w = pack [(1, S.toNat), (6, 16), (7, d.toNat), (7, a.toNat), (7, b.toNat), (4, 6)] := e.trans (by simp only [pack, total]; omega)
  have q6 : Fits [] := trivial
  have q5 : Fits [(4, 6)] := ⟨by decide, q6⟩
  have q4 : Fits [(7, b.toNat), (4, 6)] := ⟨b.isLt, q5⟩
  have q3 : Fits [(7, a.toNat), (7, b.toNat), (4, 6)] := ⟨a.isLt, q4⟩
  have q2 : Fits [(7, d.toNat), (7, a.toNat), (7, b.toNat), (4, 6)] := ⟨d.isLt, q3⟩
  have f31_31 : fld w 31 31 = S.toNat := fld_pack [] 0 _ _ e (S.toNat_lt) ⟨by decide, q2⟩ rfl rfl
  have f30_25 : fld w 30 25 = 16 := fld_pack [(1, S.toNat)] 5 _ _ e (by decide) q2 rfl rfl
  have f24_18 : fld w 24 18 = d.toNat := fld_pack [(1, S.toNat), (6, 16)] 6 _ _ e (d.isLt) q3 rfl rfl
  have f17_11 : fld w 17 11 = a.toNat := fld_pack [(1, S.toNat), (6, 16), (7, d.toNat)] 6 _ _ e (a.isLt) q4 rfl rfl
  have f10_4 : fld w 10 4 = b.toNat := fld_pack [(1, S.toNat), (6, 16), (7, d.toNat), (7, a.toNat)] 6 _ _ e (b.isLt) q5 rfl rfl
  have f3_0 : fld w 3 0 = 6 := fld_pack [(1, S.toNat), (6, 16), (7, d.toNat), (7, a.toNat), (7, b.toNat)] 3 _ _ e (by decide) q6 rfl rfl
  have n0 : ¬ (w = 0 ∨ w = 4294967295) := not_blank f30_25 (by decide) (by decide)
  clear e hw
  simp only [decode, n0, if_false, decodeIntA, f31_31, f30_25, f24_18, f17_11, f10_4, f3_0, bool_field, bits_field, need_some, Nat.add_zero]
  exact accept_ok hwf

theorem xorV (S : Bool) (d : BitVec 7) (a : BitVec 7) (b : BitVec 7) : Statement (.xorV S d a b) := by
  intro hwf w hw
  have e := (Option.some.inj hw).symm
  simp only [word_cons, word_nil, place_eq] at e
  replace e : w = pack [(1, S.toNat), (6, 16), (7, d.toNat), (7, a.toNat), (7, b.toNat), (4, 7)] := e.trans (by simp only [pack, total]; omega)
  have q6 : Fits [] := trivial
  have q5 : Fits [(4, 7)] := ⟨by decide, q6⟩
  have q4 : Fits [(7, b.toNat), (4, 7)] := ⟨b.isLt, q5⟩
  have q3 : Fits [(7, a.toNat), (7, b.toNat), (4, 7)] := ⟨a.isLt, q4⟩
  have q2 : Fits [(7, d.toNat), (7, a.toNat), (7, b.toNat), (4, 7)] := ⟨d.isLt, q3⟩
  have f31_31 : fld w 31 31 = S.toNat := fld_pack [] 0 _ _ e (S.toNat_lt) ⟨by decide, q2⟩ rfl rfl
  have f30_25 : fld w 30 25 = 16 := fld_pack [(1, S.toNat)] 5 _ _ e (by decide) q2 rfl rfl
  have f24_18 : fld w 24 18 = d.toNat := fld_pack [(1, S.toNat), (6, 16)] 6 _ _ e (d.isLt) q3 rfl rfl
  have f17_11 : fld w 17 11 = a.toNat := fld_pack [(1, S.toNat), (6, 16), (7, d.toNat)] 6 _ _ e (a.isLt) q4 rfl rfl
  have f10_4 : fld w 10 4 = b.toNat := fld_pack [(1, S.toNat), (6, 16), (7, d.toNat), (7, a.toNat)] 6 _ _ e (b.isLt) q5 rfl rfl
  have f3_0 : fld w 3 0 = 7 := fld_pack [(1, S.toNat), (6, 16), (7, d.toNat), (7, a.toNat), (7, b.toNat)] 3 _ _ e (by decide) q6 rfl rfl
  have n0 : ¬ (w = 0 ∨ w = 4294967295) := not_blank f30_25 (by decide) (by decide)
  clear e hw
  simp only [decode, n0, if_false, decodeIntA, f31_31, f30_25, f24_18, f17_11, f10_4, f3_0, bool_field, bits_field, need_some, Nat.add_zero]
  exact accept_ok hwf

theorem shlV (S : Bool) (d : BitVec 7) (a : BitVec 7) (b : BitVec 7) : Statement (.shlV S d a b) := by
  intro hwf w hw
  have e := (Option.some.inj hw).symm
  simp only [word_cons, word_nil, place_eq] at e
  replace e : w = pack [(1, S.toNat), (6, 16), (7, d.toNat), (7, a.toNat), (7, b.toNat), (4, 8)] := e.trans (by simp only [pack, total]; omega)
  have q6 : Fits [] := trivial
  have q5 : Fits [(4, 8)] := ⟨by decide, q6⟩
  have q4 : Fits [(7, b.toNat), (4, 8)] := ⟨b.isLt, q5⟩
  have q3 : Fits [(7, a.toNat), (7, b.toNat), (4, 8)] := ⟨a.isLt, q4⟩
  have q2 : Fits [(7, d.toNat), (7, a.toNat), (7, b.toNat), (4, 8)] := ⟨d.isLt, q3⟩
  have f31_31 : fld w 31 31 = S.toNat := fld_pack [] 0 _ _ e (S.toNat_lt) ⟨by decide, q2⟩ rfl rfl
  have f30_25 : fld w 30 25 = 16 := fld_pack [(1, S.toNat)] 5 _ _ e (by decide) q2 rfl rfl
  have f24_18 : fld w 24 18 = d.toNat := fld_pack [(1, S.toNat), (6, 16)] 6 _ _ e (d.isLt) q3 rfl rfl
  have f17_11 : fld w 17 11 = a.toNat := fld_pack [(1, S.toNat), (6, 16), (7, d.toNat)] 6 _ _ e (a.isLt) q4 rfl rfl
  have f10_4 : fld w 10 4 = b.toNat := fld_pack [(1, S.toNat), (6, 16), (7, d.toNat), (7, a.toNat)] 6 _ _ e (b.isLt) q5 rfl rfl
  have f3_0 : fld w 3 0 = 8 := fld_pack [(1, S.toNat), (6, 16), (7, d.toNat), (7, a.toNat), (7, b.toNat)] 3 _ _ e (by decide) q6 rfl rfl
  have n0 : ¬ (w = 0 ∨ w = 4294967295) := not_blank f30_25 (by decide) (by decide)
  clear e hw
  simp only [decode, n0, if_false, decodeIntA, f31_31, f30_25, f24_18, f17_11, f10_4, f3_0, bool_field, bits_field, need_some, Nat.add_zero]
  exact accept_ok hwf

theorem shrV (S : Bool) (d : BitVec 7) (a : BitVec 7) (b : BitVec 7) : Statement (.shrV S d a b) := by
  intro hwf w hw
  have e := (Option.some.inj hw).symm
  simp only [word_cons, word_nil, place_eq] at e
  replace e : w = pack [(1, S.toNat), (6, 16), (7, d.toNat), (7, a.toNat), (7, b.toNat), (4, 9)] := e.trans (by simp only [pack, total]; omega)
  have q6 : Fits [] := trivial
  have q5 : Fits [(4, 9)] := ⟨by decide, q6⟩
  have q4 : Fits [(7, b.toNat), (4, 9)] := ⟨b.isLt, q5⟩
  have q3 : Fits [(7, a.toNat), (7, b.toNat), (4, 9)] := ⟨a.isLt, q4⟩
  have q2 : Fits [(7, d.toNat), (7, a.toNat), (7, b.toNat), (4, 9)] := ⟨d.isLt, q3⟩
  have f31_31 : fld w 31 31 = S.toNat := fld_pack [] 0 _ _ e (S.toNat_lt) ⟨by decide, q2⟩ rfl rfl
  have f30_25 : fld w 30 25 = 16 := fld_pack [(1, S.toNat)] 5 _ _ e (by decide) q2 rfl rfl
  have f24_18 : fld w 24 18 = d.toNat := fld_pack [(1, S.toNat), (6, 16)] 6 _ _ e (d.isLt) q3 rfl rfl
  have f17_11 : fld w 17 11 = a.toNat := fld_pack [(1, S.toNat), (6, 16), (7, d.toNat)] 6 _ _ e (a.isLt) q4 rfl rfl
  have f10_4 : fld w 10 4 = b.toNat := fld_pack [(1, S.toNat), (6, 16), (7, d.toNat), (7, a.toNat)] 6 _ _ e (b.isLt) q5 rfl rfl
  have f3_0 : fld w 3 0 = 9 := fld_pack [(1, S.toNat), (6, 16), (7, d.toNat), (7, a.toNat), (7, b.toNat)] 3 _ _ e (by decide) q6 rfl rfl
  have n0 : ¬ (w = 0 ∨ w = 4294967295) := not_blank f30_25 (by decide) (by decide)
  clear e hw
  simp only [decode, n0, if_false, decodeIntA, f31_31, f30_25, f24_18, f17_11, f10_4, f3_0, bool_field, bits_field, need_some, Nat.add_zero]
  exact accept_ok hwf

theorem sraV (S : Bool) (d : BitVec 7) (a : BitVec 7) (b : BitVec 7) : Statement (.sraV S d a b) := by
  intro hwf w hw
  have e := (Option.some.inj hw).symm
  simp only [word_cons, word_nil, place_eq] at e
  replace e : w = pack [(1, S.toNat), (6, 16), (7, d.toNat), (7, a.toNat), (7, b.toNat), (4, 10)] := e.trans (by simp only [pack, total]; omega)
  have q6 : Fits [] := trivial
  have q5 : Fits [(4, 10)] := ⟨by decide, q6⟩
  have q4 : Fits [(7, b.toNat), (4, 10)] := ⟨b.isLt, q5⟩
  have q3 : Fits [(7, a.toNat), (7, b.toNat), (4, 10)] := ⟨a.isLt, q4⟩
  have q2 : Fits [(7, d.toNat), (7, a.toNat), (7, b.toNat), (4, 10)] := ⟨d.isLt, q3⟩
  have f31_31 : fld w 31 31 = S.toNat := fld_pack [] 0 _ _ e (S.toNat_lt) ⟨by decide, q2⟩ rfl rfl
  have f30_25 : fld w 30 25 = 16 := fld_pack [(1, S.toNat)] 5 _ _ e (by decide) q2 rfl rfl
  have f24_18 : fld w 24 18 = d.toNat := fld_pack [(1, S.toNat), (6, 16)] 6 _ _ e (d.isLt) q3 rfl rfl
  have f17_11 : fld w 17 11 = a.toNat := fld_pack [(1, S.toNat), (6, 16), (7, d.toNat)] 6 _ _ e (a.isLt) q4 rfl rfl
  have f10_4 : fld w 10 4 = b.toNat := fld_pack [(1, S.toNat), (6, 16), (7, d.toNat), (7, a.toNat)] 6 _ _ e (b.isLt) q5 rfl rfl
  have f3_0 : fld w 3 0 = 10 := fld_pack [(1, S.toNat), (6, 16), (7, d.toNat), (7, a.toNat), (7, b.toNat)] 3 _ _ e (by decide) q6 rfl rfl
  have n0 : ¬ (w = 0 ∨ w = 4294967295) := not_blank f30_25 (by decide) (by decide)
  clear e hw
  simp only [decode, n0, if_false, decodeIntA, f31_31, f30_25, f24_18, f17_11, f10_4, f3_0, bool_field, bits_field, need_some, Nat.add_zero]
  exact accept_ok hwf

theorem minSV (S : Bool) (d : BitVec 7) (a : BitVec 7) (b : BitVec 7) : Statement (.minSV S d a b) := by
  intro hwf w hw
  have e := (Option.some.inj hw).symm
  simp only [word_cons, word_nil, place_eq] at e
  replace e : w = pack [(1, S.toNat), (6, 16), (7, d.toNat), (7, a.toNat), (7, b.toNat), (4, 11)] := e.trans (by simp only [pack, total]; omega)
  have q6 : Fits [] := trivial
  have q5 : Fits [(4, 11)] := ⟨by decide, q6⟩
  have q4 : Fits [(7, b.toNat), (4, 11)] := ⟨b.isLt, q5⟩
  have q3 : Fits [(7, a.toNat), (7, b.toNat), (4, 11)] := ⟨a.isLt, q4⟩
  have q2 : Fits [(7, d.toNat), (7, a.toNat), (7, b.toNat), (4, 11)] := ⟨d.isLt, q3⟩
  have f31_31 : fld w 31 31 = S.toNat := fld_pack [] 0 _ _ e (S.toNat_lt) ⟨by decide, q2⟩ rfl rfl
  have f30_25 : fld w 30 25 = 16 := fld_pack [(1, S.toNat)] 5 _ _ e (by decide) q2 rfl rfl
  have f24_18 : fld w 24 18 = d.toNat := fld_pack [(1, S.toNat), (6, 16)] 6 _ _ e (d.isLt) q3 rfl rfl
  have f17_11 : fld w 17 11 = a.toNat := fld_pack [(1, S.toNat), (6, 16), (7, d.toNat)] 6 _ _ e (a.isLt) q4 rfl rfl
  have f10_4 : fld w 10 4 = b.toNat := fld_pack [(1, S.toNat), (6, 16), (7, d.toNat), (7, a.toNat)] 6 _ _ e (b.isLt) q5 rfl rfl
  have f3_0 : fld w 3 0 = 11 := fld_pack [(1, S.toNat), (6, 16), (7, d.toNat), (7, a.toNat), (7, b.toNat)] 3 _ _ e (by decide) q6 rfl rfl
  have n0 : ¬ (w = 0 ∨ w = 4294967295) := not_blank f30_25 (by decide) (by decide)
  clear e hw
  simp only [decode, n0, if_false, decodeIntA, f31_31, f30_25, f24_18, f17_11, f10_4, f3_0, bool_field, bits_field, need_some, Nat.add_zero]
  exact accept_ok hwf

theorem maxSV (S : Bool) (d : BitVec 7) (a : BitVec 7) (b : BitVec 7) : Statement (.maxSV S d a b) := by
  intro hwf w hw
  have e := (Option.some.inj hw).symm
  simp only [word_cons, word_nil, place_eq] at e
  replace e : w = pack [(1, S.toNat), (6, 16), (7, d.toNat), (7, a.toNat), (7, b.toNat), (4, 12)] := e.trans (by simp only [pack, total]; omega)
  have q6 : Fits [] := trivial
  have q5 : Fits [(4, 12)] := ⟨by decide, q6⟩
  have q4 : Fits [(7, b.toNat), (4, 12)] := ⟨b.isLt, q5⟩
  have q3 : Fits [(7, a.toNat), (7, b.toNat), (4, 12)] := ⟨a.isLt, q4⟩
  have q2 : Fits [(7, d.toNat), (7, a.toNat), (7, b.toNat), (4, 12)] := ⟨d.isLt, q3⟩
  have f31_31 : fld w 31 31 = S.toNat := fld_pack [] 0 _ _ e (S.toNat_lt) ⟨by decide, q2⟩ rfl rfl
  have f30_25 : fld w 30 25 = 16 := fld_pack [(1, S.toNat)] 5 _ _ e (by decide) q2 rfl rfl
  have f24_18 : fld w 24 18 = d.toNat := fld_pack [(1, S.toNat), (6, 16)] 6 _ _ e (d.isLt) q3 rfl rfl
  have f17_11 : fld w 17 11 = a.toNat := fld_pack [(1, S.toNat), (6, 16), (7, d.toNat)] 6 _ _ e (a.isLt) q4 rfl rfl
  have f10_4 : fld w 10 4 = b.toNat := fld_pack [(1, S.toNat), (6, 16), (7, d.toNat), (7, a.toNat)] 6 _ _ e (b.isLt) q5 rfl rfl
  have f3_0 : fld w 3 0 = 12 := fld_pack [(1, S.toNat), (6, 16), (7, d.toNat), (7, a.toNat), (7, b.toNat)] 3 _ _ e (by decide) q6 rfl rfl
  have n0 : ¬ (w = 0 ∨ w = 4294967295) := not_blank f30_25 (by decide) (by decide)
  clear e hw
  simp only [decode, n0, if_false, decodeIntA, f31_31, f30_25, f24_18, f17_11, f10_4, f3_0, bool_field, bits_field, need_some, Nat.add_zero]
  exact accept_ok hwf

theorem minNV (S : Bool) (d : BitVec 7) (a : BitVec 7) (b : BitVec 7) : Statement (.minNV S d a b) := by
  intro hwf w hw
  have e := (Option.some.inj hw).symm
  simp only [word_cons, word_nil, place_eq] at e
  replace e : w = pack [(1, S.toNat), (6, 16), (7, d.toNat), (7, a.toNat), (7, b.toNat), (4, 13)] := e.trans (by simp only [pack, total]; omega)
  have q6 : Fits [] := trivial
  have q5 : Fits [(4, 13)] := ⟨by decide, q6⟩
  have q4 : Fits [(7, b.toNat), (4, 13)] := ⟨b.isLt, q5⟩
  have q3 : Fits [(7, a.toNat), (7, b.toNat), (4, 13)] := ⟨a.isLt, q4⟩
  have q2 : Fits [(7, d.toNat), (7, a.toNat), (7, b.toNat), (4, 13)] := ⟨d.isLt, q3⟩
  have f31_31 : fld w 31 31 = S.toNat := fld_pack [] 0 _ _ e (S.toNat_lt) ⟨by decide, q2⟩ rfl rfl
  have f30_25 : fld w 30 25 = 16 := fld_pack [(1, S.toNat)] 5 _ _ e (by decide) q2 rfl rfl
  have f24_18 : fld w 24 18 = d.toNat := fld_pack [(1, S.toNat), (6, 16)] 6 _ _ e (d.isLt) q3 rfl rfl
  have f17_11 : fld w 17 11 = a.toNat := fld_pack [(1, S.toNat), (6, 16), (7, d.toNat)] 6 _ _ e (a.isLt) q4 rfl rfl
  have f10_4 : fld w 10 4 = b.toNat := fld_pack [(1, S.toNat), (6, 16), (7, d.toNat), (7, a.toNat)] 6 _ _ e (b.isLt) q5 rfl rfl
  have f3_0 : fld w 3 0 = 13 := fld_pack [(1, S.toNat), (6, 16), (7, d.toNat), (7, a.toNat), (7, b.toNat)] 3 _ _ e (by decide) q6 rfl rfl
  have n0 : ¬ (w = 0 ∨ w = 4294967295) := not_blank f30_25 (by decide) (by decide)
  clear e hw
  simp only [decode, n0, if_false, decodeIntA, f31_31, f30_25, f24_18, f17_11, f10_4, f3_0, bool_field, bits_field, need_some, Nat.add_zero]
  exact accept_ok hwf

theorem maxNV (S : Bool) (d : BitVec 7) (a : BitVec 7) (b : BitVec 7) : Statement (.maxNV S d a b) := by
  intro hwf w hw
  have e := (Option.some.inj hw).symm
  simp only [word_cons, word_nil, place_eq] at e
  replace e : w = pack [(1, S.toNat), (6, 16), (7, d.toNat), (7, a.toNat), (7, b.toNat), (4, 14)] := e.trans (by simp only [pack, total]; omega)
  have q6 : Fits [] := trivial
  have q5 : Fits [(4, 14)] := ⟨by decide, q6⟩
  have q4 : Fits [(7, b.toNat), (4, 14)] := ⟨b.isLt, q5⟩
  have q3 : Fits [(7, a.toNat), (7, b.toNat), (4, 14)] := ⟨a.isLt, q4⟩
  have q2 : Fits [(7, d.toNat), (7, a.toNat), (7, b.toNat), (4, 14)] := ⟨d.isLt, q3⟩
  have f31_31 : fld w 31 31 = S.toNat := fld_pack [] 0 _ _ e (S.toNat_lt) ⟨by decide, q2⟩ rfl rfl
  have f30_25 : fld w 30 25 = 16 := fld_pack [(1, S.toNat)] 5 _ _ e (by decide) q2 rfl rfl
  have f24_18 : fld w 24 18 = d.toNat := fld_pack [(1, S.toNat), (6, 16)] 6 _ _ e (d.isLt) q3 rfl rfl
  have f17_11 : fld w 17 11 = a.toNat := fld_pack [(1, S.toNat), (6, 16), (7, d.toNat)] 6 _ _ e (a.isLt) q4 rfl rfl
  have f10_4 : fld w 10 4 = b.toNat := fld_pack [(1, S.toNat), (6, 16), (7, d.toNat), (7, a.toNat)] 6 _ _ e (b.isLt) q5 rfl rfl
  have f3_0 : fld w 3 0 = 14 := fld_pack [(1, S.toNat), (6, 16), (7, d.toNat), (7, a.toNat), (7, b.toNat)] 3 _ _ e (by decide) q6 rfl rfl
  have n0 : ¬ (w = 0 ∨ w = 4294967295) := not_blank f30_25 (by decide) (by decide)
  clear e hw
  simp only [decode, n0, if_false, decodeIntA, f31_31, f30_25, f24_18, f17_11, f10_4, f3_0, bool_field, bits_field, need_some, Nat.add_zero]
  exact accept_ok hwf

theorem absd (S : Bool) (d : BitVec 7) (a : BitVec 7) (b : BitVec 7) : Statement (.absd S d a b) := by
  intro hwf w hw
  have e := (Option.some.inj hw).symm
  simp only [word_cons, word_nil, place_eq] at e
  replace e : w = pack [(1, S.toNat), (6, 16), (7, d.toNat), (7, a.toNat), (7, b.toNat), (4, 15)] := e.trans (by simp only [pack, total]; omega)
  have q6 : Fits [] := trivial
  have q5 : Fits [(4, 15)] := ⟨by decide, q6⟩
  have q4 : Fits [(7, b.toNat), (4, 15)] := ⟨b.isLt, q5⟩
  have q3 : Fits [(7, a.toNat), (7, b.toNat), (4, 15)] := ⟨a.isLt, q4⟩
  have q2 : Fits [(7, d.toNat), (7, a.toNat), (7, b.toNat), (4, 15)] := ⟨d.isLt, q3⟩
  have f31_31 : fld w 31 31 = S.toNat := fld_pack [] 0 _ _ e (S.toNat_lt) ⟨by decide, q2⟩ rfl rfl
  have f30_25 : fld w 30 25 = 16 := fld_pack [(1, S.toNat)] 5 _ _ e (by decide) q2 rfl rfl
  have f24_18 : fld w 24 18 = d.toNat := fld_pack [(1, S.toNat), (6, 16)] 6 _ _ e (d.isLt) q3 rfl rfl
  have f17_11 : fld w 17 11 = a.toNat := fld_pack [(1, S.toNat), (6, 16), (7, d.toNat)] 6 _ _ e (a.isLt) q4 rfl rfl
  have f10_4 : fld w 10 4 = b.toNat := fld_pack [(1, S.toNat), (6, 16), (7, d.toNat), (7, a.toNat)] 6 _ _ e (b.isLt) q5 rfl rfl
  have f3_0 : fld w 3 0 = 15 := fld_pack [(1, S.toNat), (6, 16), (7, d.toNat), (7, a.toNat), (7, b.toNat)] 3 _ _ e (by decide) q6 rfl rfl
  have n0 : ¬ (w = 0 ∨ w = 4294967295) := not_blank f30_25 (by decide) (by decide)
  clear e hw
  simp only [decode, n0, if_false, decodeIntA, f31_31, f30_25, f24_18, f17_11, f10_4, f3_0, bool_field, bits_field, need_some, Nat.add_zero]
  exact accept_ok hwf

theorem addsS (S : Bool) (d : BitVec 7) (a : BitVec 7) (b : BitVec 7) : Statement (.addsS S d a b) := by
  intro hwf w hw
  have e := (Option.some.inj hw).symm
  simp only [word_cons, word_nil, place_eq] at e
  replace e : w = pack [(1, S.toNat), (6, 17), (7, d.toNat), (7, a.toNat), (7, b.toNat), (4, 0)] := e.trans (by simp only [pack, total]; omega)
  have q6 : Fits [] := trivial
  have q5 : Fits [(4, 0)] := ⟨Nat.two_pow_pos _, q6⟩
  have q4 : Fits [(7, b.toNat), (4, 0)] := ⟨b.isLt, q5⟩
  have q3 : Fits [(7, a.toNat), (7, b.toNat), (4, 0)] := ⟨a.isLt, q4⟩
  have q2 : Fits [(7, d.toNat), (7, a.toNat), (7, b.toNat), (4, 0)] := ⟨d.isLt, q3⟩
  have f31_31 : fld w 31 31 = S.toNat := fld_pack [] 0 _ _ e (S.toNat_lt) ⟨by decide, q2⟩ rfl rfl
  have f30_25 : fld w 30 25 = 17 := fld_pack [(1, S.toNat)] 5 _ _ e (by decide) q2 rfl rfl
  have f24_18 : fld w 24 18 = d.toNat := fld_pack [(1, S.toNat), (6, 17)] 6 _ _ e (d.isLt) q3 rfl rfl
  have f17_11 : fld w 17 11 = a.toNat := fld_pack [(1, S.toNat), (6, 17), (7, d.toNat)] 6 _ _ e (a.isLt) q4 rfl rfl
  have f10_4 : fld w 10 4 = b.toNat := fld_pack [(1, S.toNat), (6, 17), (7, d.toNat), (7, a.toNat)] 6 _ _ e (b.isLt) q5 rfl rfl
  have f3_0 : fld w 3 0 = 0 := fld_pack [(1, S.toNat), (6, 17), (7, d.toNat), (7, a.toNat), (7, b.toNat)] 3 _ _ e (Nat.two_pow_pos _) q6 rfl rfl
  have n0 : ¬ (w = 0 ∨ w = 4294967295) := not_blank f30_25 (by decide) (by decide)
  clear e hw
  simp only [decode, n0, if_false, decodeIntB, f31_31, f30_25, f24_18, f17_11, f10_4, f3_0, bool_field, bits_field, need_some, Nat.add_zero]
  exact accept_ok hwf

theorem addsN (S : Bool) (d : BitVec 7) (a : BitVec 7) (b : BitVec 7) : Statement (.addsN S d a b) := by
  intro hwf w hw
  have e := (Option.some.inj hw).symm
  simp only [word_cons, word_nil, place_eq] at e
  replace e : w = pack [(1, S.toNat), (6, 17), (7, d.toNat), (7, a.toNat), (7, b.toNat), (4, 1)] := e.trans (by simp only [pack, total]; omega)
  have q6 : Fits [] := trivial
  have q5 : Fits [(4, 1)] := ⟨by decide, q6⟩
  have q4 : Fits [(7, b.toNat), (4, 1)] := ⟨b.isLt, q5⟩
  have q3 : Fits [(7, a.toNat), (7, b.toNat), (4, 1)] := ⟨a.isLt, q4⟩
  have q2 : Fits [(7, d.toNat), (7, a.toNat), (7, b.toNat), (4, 1)] := ⟨d.isLt, q3⟩
  have f31_31 : fld w 31 31 = S.toNat := fld_pack [] 0 _ _ e (S.toNat_lt) ⟨by decide, q2⟩ rfl rfl
  have f30_25 : fld w 30 25 = 17 := fld_pack [(1, S.toNat)] 5 _ _ e (by decide) q2 rfl rfl
  have f24_18 : fld w 24 18 = d.toNat := fld_pack [(1, S.toNat), (6, 17)] 6 _ _ e (d.isLt) q3 rfl rfl
  have f17_11 : fld w 17 11 = a.toNat := fld_pack [(1, S.toNat), (6, 17), (7, d.toNat)] 6 _ _ e (a.isLt) q4 rfl rfl
  have f10_4 : fld w 10 4 = b.toNat := fld_pack [(1, S.toNat), (6, 17), (7, d.toNat), (7, a.toNat)] 6 _ _ e (b.isLt) q5 rfl rfl
  have f3_0 : fld w 3 0 = 1 := fld_pack [(1, S.toNat), (6, 17), (7, d.toNat), (7, a.toNat), (7, b.toNat)] 3 _ _ e (by decide) q6 rfl rfl
  have n0 : ¬ (w = 0 ∨ w = 4294967295) := not_blank f30_25 (by decide) (by decide)
  clear e hw
  simp only [decode, n0, if_false, decodeIntB, f31_31, f30_25, f24_18, f17_11, f10_4, f3_0, bool_field, bits_field, need_some, Nat.add_zero]
  exact accept_ok hwf

theorem subsS (S : Bool) (d : BitVec 7) (a : BitVec 7) (b : BitVec 7) : Statement (.subsS S d a b) := by
  intro hwf w hw
  have e := (Option.some.inj hw).symm
  simp only [word_cons, word_nil, place_eq] at e
  replace e : w = pack [(1, S.toNat), (6, 17), (7, d.toNat), (7, a.toNat), (7, b.toNat), (4, 2)] := e.trans (by simp only [pack, total]; omega)
  have q6 : Fits [] := trivial
  have q5 : Fits [(4, 2)] := ⟨by decide, q6⟩
  have q4 : Fits [(7, b.toNat), (4, 2)] := ⟨b.isLt, q5⟩
  have q3 : Fits [(7, a.toNat), (7, b.toNat), (4, 2)] := ⟨a.isLt, q4⟩
  have q2 : Fits [(7, d.toNat), (7, a.toNat), (7, b.toNat), (4, 2)] := ⟨d.isLt, q3⟩
  have f31_31 : fld w 31 31 = S.toNat := fld_pack [] 0 _ _ e (S.toNat_lt) ⟨by decide, q2⟩ rfl rfl
  have f30_25 : fld w 30 25 = 17 := fld_pack [(1, S.toNat)] 5 _ _ e (by decide) q2 rfl rfl
  have f24_18 : fld w 24 18 = d.toNat := fld_pack [(1, S.toNat), (6, 17)] 6 _ _ e (d.isLt) q3 rfl rfl
  have f17_11 : fld w 17 11 = a.toNat := fld_pack [(1, S.toNat), (6, 17), (7, d.toNat)] 6 _ _ e (a.isLt) q4 rfl rfl
  have f10_4 : fld w 10 4 = b.toNat := fld_pack [(1, S.toNat), (6, 17), (7, d.toNat), (7, a.toNat)] 6 _ _ e (b.isLt) q5 rfl rfl
  have f3_0 : fld w 3 0 = 2 := fld_pack [(1, S.toNat), (6, 17), (7, d.toNat), (7, a.toNat), (7, b.toNat)] 3 _ _ e (by decide) q6 rfl rfl
  have n0 : ¬ (w = 0 ∨ w = 4294967295) := not_blank f30_25 (by decide) (by decide)
  clear e hw
  simp only [decode, n0, if_false, decodeIntB, f31_31, f30_25, f24_18, f17_11, f10_4, f3_0, bool_field, bits_field, need_some, Nat.add_zero]
  exact accept_ok hwf

theorem subsN (S : Bool) (d : BitVec 7) (a : BitVec 7) (b : BitVec 7) : Statement (.subsN S d a b) := by
  intro hwf w hw
  have e := (Option.some.inj hw).symm
  simp only [word_cons, word_nil, place_eq] at e
  replace e : w = pack [(1, S.toNat), (6, 17), (7, d.toNat), (7, a.toNat), (7, b.toNat), (4, 3)] := e.trans (by simp only [pack, total]; omega)
  have q6 : Fits [] := trivial
  have q5 : Fits [(4, 3)] := ⟨by decide, q6⟩
  have q4 : Fits [(7, b.toNat), (4, 3)] := ⟨b.isLt, q5⟩
  have q3 : Fits [(7, a.toNat), (7, b.toNat), (4, 3)] := ⟨a.isLt, q4⟩
  have q2 : Fits [(7, d.toNat), (7, a.toNat), (7, b.toNat), (4, 3)] := ⟨d.isLt, q3⟩
  have f31_31 : fld w 31 31 = S.toNat := fld_pack [] 0 _ _ e (S.toNat_lt) ⟨by decide, q2⟩ rfl rfl
  have f30_25 : fld w 30 25 = 17 := fld_pack [(1, S.toNat)] 5 _ _ e (by decide) q2 rfl rfl
  have f24_18 : fld w 24 18 = d.toNat := fld_pack [(1, S.toNat), (6, 17)] 6 _ _ e (d.isLt) q3 rfl rfl
  have f17_11 : fld w 17 11 = a.toNat := fld_pack [(1, S.toNat), (6, 17), (7, d.toNat)] 6 _ _ e (a.isLt) q4 rfl rfl
  have f10_4 : fld w 10 4 = b.toNat := fld_pack [(1, S.toNat), (6, 17), (7, d.toNat), (7, a.toNat)] 6 _ _ e (b.isLt) q5 rfl rfl
  have f3_0 : fld w 3 0 = 3 := fld_pack [(1, S.toNat), (6, 17), (7, d.toNat), (7, a.toNat), (7, b.toNat)] 3 _ _ e (by decide) q6 rfl rfl
  have n0 : ¬ (w = 0 ∨ w = 4294967295) := not_blank f30_25 (by decide) (by decide)
  clear e hw
  simp only [decode, n0, if_false, decodeIntB, f31_31, f30_25, f24_18, f17_11, f10_4, f3_0, bool_field, bits_field, need_some, Nat.add_zero]
  exact accept_ok hwf

theorem avgN (S : Bool) (d : BitVec 7) (a : BitVec 7) (b : BitVec 7) : Statement (.avgN S d a b) := by
  intro hwf w hw
  have e := (Option.some.inj hw).symm
  simp only [word_cons, word_nil, place_eq] at e
  replace e : w = pack [(1, S.toNat), (6, 17), (7, d.toNat), (7, a.toNat), (7, b.toNat), (4, 4)] := e.trans (by simp only [pack, total]; omega)
  have q6 : Fits [] := trivial
  have q5 : Fits [(4, 4)] := ⟨by decide, q6⟩
  have q4 : Fits [(7, b.toNat), (4, 4)] := ⟨b.isLt, q5⟩
  have q3 : Fits [(7, a.toNat), (7, b.toNat), (4, 4)] := ⟨a.isLt, q4⟩
  have q2 : Fits [(7, d.toNat), (7, a.toNat), (7, b.toNat), (4, 4)] := ⟨d.isLt, q3⟩
  have f31_31 : fld w 31 31 = S.toNat := fld_pack [] 0 _ _ e (S.toNat_lt) ⟨by decide, q2⟩ rfl rfl
  have f30_25 : fld w 30 25 = 17 := fld_pack [(1, S.toNat)] 5 _ _ e (by decide) q2 rfl rfl
  have f24_18 : fld w 24 18 = d.toNat := fld_pack [(1, S.toNat), (6, 17)] 6 _ _ e (d.isLt) q3 rfl rfl
  have f17_11 : fld w 17 11 = a.toNat := fld_pack [(1, S.toNat), (6, 17), (7, d.toNat)] 6 _ _ e (a.isLt) q4 rfl rfl
  have f10_4 : fld w 10 4 = b.toNat := fld_pack [(1, S.toNat), (6, 17), (7, d.toNat), (7, a.toNat)] 6 _ _ e (b.isLt) q5 rfl rfl
  have f3_0 : fld w 3 0 = 4 := fld_pack [(1, S.toNat), (6, 17), (7, d.toNat), (7, a.toNat), (7, b.toNat)] 3 _ _ e (by decide) q6 rfl rfl
  have n0 : ¬ (w = 0 ∨ w = 4294967295) := not_blank f30_25 (by decide) (by decide)
  clear e hw
  simp only [decode, n0, if_false, decodeIntB, f31_31, f30_25, f24_18, f17_11, f10_4, f3_0, bool_field, bits_field, need_some, Nat.add_zero]
  exact accept_ok hwf

theorem clzV (S : Bool) (d : BitVec 7) (a : BitVec 7) : Statement (.clzV S d a) := by
  intro hwf w hw
  have e := (Option.some.inj hw).symm
  simp only [word_cons, word_nil, place_eq] at e
  replace e : w = pack [(1, S.toNat), (6, 17), (7, d.toNat), (7, a.toNat), (7, 0), (4, 5)] := e.trans (by simp only [pack, total]; omega)
  have q6 : Fits [] := trivial
  have q5 : Fits [(4, 5)] := ⟨by decide, q6⟩
  have q4 : Fits [(7, 0), (4, 5)] := ⟨Nat.two_pow_pos _, q5⟩
  have q3 : Fits [(7, a.toNat), (7, 0), (4, 5)] := ⟨a.isLt, q4⟩
  have q2 : Fits [(7, d.toNat), (7, a.toNat), (7, 0), (4, 5)] := ⟨d.isLt, q3⟩
  have f31_31 : fld w 31 31 = S.toNat := fld_pack [] 0 _ _ e (S.toNat_lt) ⟨by decide, q2⟩ rfl rfl
  have f30_25 : fld w 30 25 = 17 := fld_pack [(1, S.toNat)] 5 _ _ e (by decide) q2 rfl rfl
  have f24_18 : fld w 24 18 = d.toNat := fld_pack [(1, S.toNat), (6, 17)] 6 _ _ e (d.isLt) q3 rfl rfl
  have f17_11 : fld w 17 11 = a.toNat := fld_pack [(1, S.toNat), (6, 17), (7, d.toNat)] 6 _ _ e (a.isLt) q4 rfl rfl
  have f10_4 : fld w 10 4 = 0 := fld_pack [(1, S.toNat), (6, 17), (7, d.toNat), (7, a.toNat)] 6 _ _ e (Nat.two_pow_pos _) q5 rfl rfl
  have f3_0 : fld w 3 0 = 5 := fld_pack [(1, S.toNat), (6, 17), (7, d.toNat), (7, a.toNat), (7, 0)] 3 _ _ e (by decide) q6 rfl rfl
  have n0 : ¬ (w = 0 ∨ w = 4294967295) := not_blank f30_25 (by decide) (by decide)
  clear e hw
  simp only [decode, n0, if_false, decodeIntB, f31_31, f30_25, f24_18, f17_11, f10_4, f3_0, bool_field, bits_field, need_some, Nat.add_zero]
  exact accept_ok hwf

theorem popcV (S : Bool) (d : BitVec 7) (a : BitVec 7) : Statement (.popcV S d a) := by
  intro hwf w hw
  have e := (Option.some.inj hw).symm
  simp only [word_cons, word_nil, place_eq] at e
  replace e : w = pack [(1, S.toNat), (6, 17), (7, d.toNat), (7, a.toNat), (7, 0), (4, 6)] := e.trans (by simp only [pack, total]; omega)
  have q6 : Fits [] := trivial
  have q5 : Fits [(4, 6)] := ⟨by decide, q6⟩
  have q4 : Fits [(7, 0), (4, 6)] := ⟨Nat.two_pow_pos _, q5⟩
  have q3 : Fits [(7, a.toNat), (7, 0), (4, 6)] := ⟨a.isLt, q4⟩
  have q2 : Fits [(7, d.toNat), (7, a.toNat), (7, 0), (4, 6)] := ⟨d.isLt, q3⟩
  have f31_31 : fld w 31 31 = S.toNat := fld_pack [] 0 _ _ e (S.toNat_lt) ⟨by decide, q2⟩ rfl rfl
  have f30_25 : fld w 30 25 = 17 := fld_pack [(1, S.toNat)] 5 _ _ e (by decide) q2 rfl rfl
  have f24_18 : fld w 24 18 = d.toNat := fld_pack [(1, S.toNat), (6, 17)] 6 _ _ e (d.isLt) q3 rfl rfl
  have f17_11 : fld w 17 11 = a.toNat := fld_pack [(1, S.toNat), (6, 17), (7, d.toNat)] 6 _ _ e (a.isLt) q4 rfl rfl
  have f10_4 : fld w 10 4 = 0 := fld_pack [(1, S.toNat), (6, 17), (7, d.toNat), (7, a.toNat)] 6 _ _ e (Nat.two_pow_pos _) q5 rfl rfl
  have f3_0 : fld w 3 0 = 6 := fld_pack [(1, S.toNat), (6, 17), (7, d.toNat), (7, a.toNat), (7, 0)] 3 _ _ e (by decide) q6 rfl rfl
  have n0 : ¬ (w = 0 ∨ w = 4294967295) := not_blank f30_25 (by decide) (by decide)
  clear e hw
  simp only [decode, n0, if_false, decodeIntB, f31_31, f30_25, f24_18, f17_11, f10_4, f3_0, bool_field, bits_field, need_some, Nat.add_zero]
  exact accept_ok hwf

theorem brev (S : Bool) (d : BitVec 7) (a : BitVec 7) : Statement (.brev S d a) := by
  intro hwf w hw
  have e := (Option.some.inj hw).symm
  simp only [word_cons, word_nil, place_eq] at e
  replace e : w = pack [(1, S.toNat), (6, 17), (7, d.toNat), (7, a.toNat), (7, 0), (4, 7)] := e.trans (by simp only [pack, total]; omega)
  have q6 : Fits [] := trivial
  have q5 : Fits [(4, 7)] := ⟨by decide, q6⟩
  have q4 : Fits [(7, 0), (4, 7)] := ⟨Nat.two_pow_pos _, q5⟩
  have q3 : Fits [(7, a.toNat), (7, 0), (4, 7)] := ⟨a.isLt, q4⟩
  have q2 : Fits [(7, d.toNat), (7, a.toNat), (7, 0), (4, 7)] := ⟨d.isLt, q3⟩
  have f31_31 : fld w 31 31 = S.toNat := fld_pack [] 0 _ _ e (S.toNat_lt) ⟨by decide, q2⟩ rfl rfl
  have f30_25 : fld w 30 25 = 17 := fld_pack [(1, S.toNat)] 5 _ _ e (by decide) q2 rfl rfl
  have f24_18 : fld w 24 18 = d.toNat := fld_pack [(1, S.toNat), (6, 17)] 6 _ _ e (d.isLt) q3 rfl rfl
  have f17_11 : fld w 17 11 = a.toNat := fld_pack [(1, S.toNat), (6, 17), (7, d.toNat)] 6 _ _ e (a.isLt) q4 rfl rfl
  have f10_4 : fld w 10 4 = 0 := fld_pack [(1, S.toNat), (6, 17), (7, d.toNat), (7, a.toNat)] 6 _ _ e (Nat.two_pow_pos _) q5 rfl rfl
  have f3_0 : fld w 3 0 = 7 := fld_pack [(1, S.toNat), (6, 17), (7, d.toNat), (7, a.toNat), (7, 0)] 3 _ _ e (by decide) q6 rfl rfl
  have n0 : ¬ (w = 0 ∨ w = 4294967295) := not_blank f30_25 (by decide) (by decide)
  clear e hw
  simp only [decode, n0, if_false, decodeIntB, f31_31, f30_25, f24_18, f17_11, f10_4, f3_0, bool_field, bits_field, need_some, Nat.add_zero]
  exact accept_ok hwf

theorem add64 (S : Bool) (d : BitVec 7) (a : BitVec 7) (b : BitVec 7) : Statement (.add64 S d a b) := by
  intro hwf w hw
  have e := (Option.some.inj hw).symm
  simp only [word_cons, word_nil, place_eq] at e
  replace e : w = pack [(1, S.toNat), (6, 17), (7, d.toNat), (7, a.toNat), (7, b.toNat), (4, 8)] := e.trans (by simp only [pack, total]; omega)
  have q6 : Fits [] := trivial
  have q5 : Fits [(4, 8)] := ⟨by decide, q6⟩
  have q4 : Fits [(7, b.toNat), (4, 8)] := ⟨b.isLt, q5⟩
  have q3 : Fits [(7, a.toNat), (7, b.toNat), (4, 8)] := ⟨a.isLt, q4⟩
  have q2 : Fits [(7, d.toNat), (7, a.toNat), (7, b.toNat), (4, 8)] := ⟨d.isLt, q3⟩
  have f31_31 : fld w 31 31 = S.toNat := fld_pack [] 0 _ _ e (S.toNat_lt) ⟨by decide, q2⟩ rfl rfl
  have f30_25 : fld w 30 25 = 17 := fld_pack [(1, S.toNat)] 5 _ _ e (by decide) q2 rfl rfl
  have f24_18 : fld w 24 18 = d.toNat := fld_pack [(1, S.toNat), (6, 17)] 6 _ _ e (d.isLt) q3 rfl rfl
  have f17_11 : fld w 17 11 = a.toNat := fld_pack [(1, S.toNat), (6, 17), (7, d.toNat)] 6 _ _ e (a.isLt) q4 rfl rfl
  have f10_4 : fld w 10 4 = b.toNat := fld_pack [(1, S.toNat), (6, 17), (7, d.toNat), (7, a.toNat)] 6 _ _ e (b.isLt) q5 rfl rfl
  have f3_0 : fld w 3 0 = 8 := fld_pack [(1, S.toNat), (6, 17), (7, d.toNat), (7, a.toNat), (7, b.toNat)] 3 _ _ e (by decide) q6 rfl rfl
  have n0 : ¬ (w = 0 ∨ w = 4294967295) := not_blank f30_25 (by decide) (by decide)
  clear e hw
  simp only [decode, n0, if_false, decodeIntB, f31_31, f30_25, f24_18, f17_11, f10_4, f3_0, bool_field, bits_field, need_some, Nat.add_zero]
  exact accept_ok hwf

theorem sub64 (S : Bool) (d : BitVec 7) (a : BitVec 7) (b : BitVec 7) : Statement (.sub64 S d a b) := by
  intro hwf w hw
  have e := (Option.some.inj hw).symm
  simp only [word_cons, word_nil, place_eq] at e
  replace e : w = pack [(1, S.toNat), (6, 17), (7, d.toNat), (7, a.toNat), (7, b.toNat), (4, 9)] := e.trans (by simp only [pack, total]; omega)
  have q6 : Fits [] := trivial
  have q5 : Fits [(4, 9)] := ⟨by decide, q6⟩
  have q4 : Fits [(7, b.toNat), (4, 9)] := ⟨b.isLt, q5⟩
  have q3 : Fits [(7, a.toNat), (7, b.toNat), (4, 9)] := ⟨a.isLt, q4⟩
  have q2 : Fits [(7, d.toNat), (7, a.toNat), (7, b.toNat), (4, 9)] := ⟨d.isLt, q3⟩
  have f31_31 : fld w 31 31 = S.toNat := fld_pack [] 0 _ _ e (S.toNat_lt) ⟨by decide, q2⟩ rfl rfl
  have f30_25 : fld w 30 25 = 17 := fld_pack [(1, S.toNat)] 5 _ _ e (by decide) q2 rfl rfl
  have f24_18 : fld w 24 18 = d.toNat := fld_pack [(1, S.toNat), (6, 17)] 6 _ _ e (d.isLt) q3 rfl rfl
  have f17_11 : fld w 17 11 = a.toNat := fld_pack [(1, S.toNat), (6, 17), (7, d.toNat)] 6 _ _ e (a.isLt) q4 rfl rfl
  have f10_4 : fld w 10 4 = b.toNat := fld_pack [(1, S.toNat), (6, 17), (7, d.toNat), (7, a.toNat)] 6 _ _ e (b.isLt) q5 rfl rfl
  have f3_0 : fld w 3 0 = 9 := fld_pack [(1, S.toNat), (6, 17), (7, d.toNat), (7, a.toNat), (7, b.toNat)] 3 _ _ e (by decide) q6 rfl rfl
  have n0 : ¬ (w = 0 ∨ w = 4294967295) := not_blank f30_25 (by decide) (by decide)
  clear e hw
  simp only [decode, n0, if_false, decodeIntB, f31_31, f30_25, f24_18, f17_11, f10_4, f3_0, bool_field, bits_field, need_some, Nat.add_zero]
  exact accept_ok hwf

theorem mulwS (S : Bool) (d : BitVec 7) (a : BitVec 7) (b : BitVec 7) : Statement (.mulwS S d a b) := by
  intro hwf w hw
  have e := (Option.some.inj hw).symm
  simp only [word_cons, word_nil, place_eq] at e
  replace e : w = pack [(1, S.toNat), (6, 17), (7, d.toNat), (7, a.toNat), (7, b.toNat), (4, 10)] := e.trans (by simp only [pack, total]; omega)
  have q6 : Fits [] := trivial
  have q5 : Fits [(4, 10)] := ⟨by decide, q6⟩
  have q4 : Fits [(7, b.toNat), (4, 10)] := ⟨b.isLt, q5⟩
  have q3 : Fits [(7, a.toNat), (7, b.toNat), (4, 10)] := ⟨a.isLt, q4⟩
  have q2 : Fits [(7, d.toNat), (7, a.toNat), (7, b.toNat), (4, 10)] := ⟨d.isLt, q3⟩
  have f31_31 : fld w 31 31 = S.toNat := fld_pack [] 0 _ _ e (S.toNat_lt) ⟨by decide, q2⟩ rfl rfl
  have f30_25 : fld w 30 25 = 17 := fld_pack [(1, S.toNat)] 5 _ _ e (by decide) q2 rfl rfl
  have f24_18 : fld w 24 18 = d.toNat := fld_pack [(1, S.toNat), (6, 17)] 6 _ _ e (d.isLt) q3 rfl rfl
  have f17_11 : fld w 17 11 = a.toNat := fld_pack [(1, S.toNat), (6, 17), (7, d.toNat)] 6 _ _ e (a.isLt) q4 rfl rfl
  have f10_4 : fld w 10 4 = b.toNat := fld_pack [(1, S.toNat), (6, 17), (7, d.toNat), (7, a.toNat)] 6 _ _ e (b.isLt) q5 rfl rfl
  have f3_0 : fld w 3 0 = 10 := fld_pack [(1, S.toNat), (6, 17), (7, d.toNat), (7, a.toNat), (7, b.toNat)] 3 _ _ e (by decide) q6 rfl rfl
  have n0 : ¬ (w = 0 ∨ w = 4294967295) := not_blank f30_25 (by decide) (by decide)
  clear e hw
  simp only [decode, n0, if_false, decodeIntB, f31_31, f30_25, f24_18, f17_11, f10_4, f3_0, bool_field, bits_field, need_some, Nat.add_zero]
  exact accept_ok hwf

theorem mulwN (S : Bool) (d : BitVec 7) (a : BitVec 7) (b : BitVec 7) : Statement (.mulwN S d a b) := by
  intro hwf w hw
  have e := (Option.some.inj hw).symm
  simp only [word_cons, word_nil, place_eq] at e
  replace e : w = pack [(1, S.toNat), (6, 17), (7, d.toNat), (7, a.toNat), (7, b.toNat), (4, 11)] := e.trans (by simp only [pack, total]; omega)
  have q6 : Fits [] := trivial
  have q5 : Fits [(4, 11)] := ⟨by decide, q6⟩
  have q4 : Fits [(7, b.toNat), (4, 11)] := ⟨b.isLt, q5⟩
  have q3 : Fits [(7, a.toNat), (7, b.toNat), (4, 11)] := ⟨a.isLt, q4⟩
  have q2 : Fits [(7, d.toNat), (7, a.toNat), (7, b.toNat), (4, 11)] := ⟨d.isLt, q3⟩
  have f31_31 : fld w 31 31 = S.toNat := fld_pack [] 0 _ _ e (S.toNat_lt) ⟨by decide, q2⟩ rfl rfl
  have f30_25 : fld w 30 25 = 17 := fld_pack [(1, S.toNat)] 5 _ _ e (by decide) q2 rfl rfl
  have f24_18 : fld w 24 18 = d.toNat := fld_pack [(1, S.toNat), (6, 17)] 6 _ _ e (d.isLt) q3 rfl rfl
  have f17_11 : fld w 17 11 = a.toNat := fld_pack [(1, S.toNat), (6, 17), (7, d.toNat)] 6 _ _ e (a.isLt) q4 rfl rfl
  have f10_4 : fld w 10 4 = b.toNat := fld_pack [(1, S.toNat), (6, 17), (7, d.toNat), (7, a.toNat)] 6 _ _ e (b.isLt) q5 rfl rfl
  have f3_0 : fld w 3 0 = 11 := fld_pack [(1, S.toNat), (6, 17), (7, d.toNat), (7, a.toNat), (7, b.toNat)] 3 _ _ e (by decide) q6 rfl rfl
  have n0 : ¬ (w = 0 ∨ w = 4294967295) := not_blank f30_25 (by decide) (by decide)
  clear e hw
  simp only [decode, n0, if_false, decodeIntB, f31_31, f30_25, f24_18, f17_11, f10_4, f3_0, bool_field, bits_field, need_some, Nat.add_zero]
  exact accept_ok hwf

theorem dot4S8 (S : Bool) (d : BitVec 7) (a : BitVec 7) (b : BitVec 7) : Statement (.dot4S8 S d a b) := by
  intro hwf w hw
  have e := (Option.some.inj hw).symm
  simp only [word_cons, word_nil, place_eq] at e
  replace e : w = pack [(1, S.toNat), (6, 17), (7, d.toNat), (7, a.toNat), (7, b.toNat), (4, 12)] := e.trans (by simp only [pack, total]; omega)
  have q6 : Fits [] := trivial
  have q5 : Fits [(4, 12)] := ⟨by decide, q6⟩
  have q4 : Fits [(7, b.toNat), (4, 12)] := ⟨b.isLt, q5⟩
  have q3 : Fits [(7, a.toNat), (7, b.toNat), (4, 12)] := ⟨a.isLt, q4⟩
  have q2 : Fits [(7, d.toNat), (7, a.toNat), (7, b.toNat), (4, 12)] := ⟨d.isLt, q3⟩
  have f31_31 : fld w 31 31 = S.toNat := fld_pack [] 0 _ _ e (S.toNat_lt) ⟨by decide, q2⟩ rfl rfl
  have f30_25 : fld w 30 25 = 17 := fld_pack [(1, S.toNat)] 5 _ _ e (by decide) q2 rfl rfl
  have f24_18 : fld w 24 18 = d.toNat := fld_pack [(1, S.toNat), (6, 17)] 6 _ _ e (d.isLt) q3 rfl rfl
  have f17_11 : fld w 17 11 = a.toNat := fld_pack [(1, S.toNat), (6, 17), (7, d.toNat)] 6 _ _ e (a.isLt) q4 rfl rfl
  have f10_4 : fld w 10 4 = b.toNat := fld_pack [(1, S.toNat), (6, 17), (7, d.toNat), (7, a.toNat)] 6 _ _ e (b.isLt) q5 rfl rfl
  have f3_0 : fld w 3 0 = 12 := fld_pack [(1, S.toNat), (6, 17), (7, d.toNat), (7, a.toNat), (7, b.toNat)] 3 _ _ e (by decide) q6 rfl rfl
  have n0 : ¬ (w = 0 ∨ w = 4294967295) := not_blank f30_25 (by decide) (by decide)
  clear e hw
  simp only [decode, n0, if_false, decodeIntB, f31_31, f30_25, f24_18, f17_11, f10_4, f3_0, bool_field, bits_field, need_some, Nat.add_zero]
  exact accept_ok hwf

theorem dot4N8 (S : Bool) (d : BitVec 7) (a : BitVec 7) (b : BitVec 7) : Statement (.dot4N8 S d a b) := by
  intro hwf w hw
  have e := (Option.some.inj hw).symm
  simp only [word_cons, word_nil, place_eq] at e
  replace e : w = pack [(1, S.toNat), (6, 17), (7, d.toNat), (7, a.toNat), (7, b.toNat), (4, 13)] := e.trans (by simp only [pack, total]; omega)
  have q6 : Fits [] := trivial
  have q5 : Fits [(4, 13)] := ⟨by decide, q6⟩
  have q4 : Fits [(7, b.toNat), (4, 13)] := ⟨b.isLt, q5⟩
  have q3 : Fits [(7, a.toNat), (7, b.toNat), (4, 13)] := ⟨a.isLt, q4⟩
  have q2 : Fits [(7, d.toNat), (7, a.toNat), (7, b.toNat), (4, 13)] := ⟨d.isLt, q3⟩
  have f31_31 : fld w 31 31 = S.toNat := fld_pack [] 0 _ _ e (S.toNat_lt) ⟨by decide, q2⟩ rfl rfl
  have f30_25 : fld w 30 25 = 17 := fld_pack [(1, S.toNat)] 5 _ _ e (by decide) q2 rfl rfl
  have f24_18 : fld w 24 18 = d.toNat := fld_pack [(1, S.toNat), (6, 17)] 6 _ _ e (d.isLt) q3 rfl rfl
  have f17_11 : fld w 17 11 = a.toNat := fld_pack [(1, S.toNat), (6, 17), (7, d.toNat)] 6 _ _ e (a.isLt) q4 rfl rfl
  have f10_4 : fld w 10 4 = b.toNat := fld_pack [(1, S.toNat), (6, 17), (7, d.toNat), (7, a.toNat)] 6 _ _ e (b.isLt) q5 rfl rfl
  have f3_0 : fld w 3 0 = 13 := fld_pack [(1, S.toNat), (6, 17), (7, d.toNat), (7, a.toNat), (7, b.toNat)] 3 _ _ e (by decide) q6 rfl rfl
  have n0 : ¬ (w = 0 ∨ w = 4294967295) := not_blank f30_25 (by decide) (by decide)
  clear e hw
  simp only [decode, n0, if_false, decodeIntB, f31_31, f30_25, f24_18, f17_11, f10_4, f3_0, bool_field, bits_field, need_some, Nat.add_zero]
  exact accept_ok hwf

theorem bfxV (S : Bool) (d : BitVec 7) (a : BitVec 7) (b : BitVec 7) : Statement (.bfxV S d a b) := by
  intro hwf w hw
  have e := (Option.some.inj hw).symm
  simp only [word_cons, word_nil, place_eq] at e
  replace e : w = pack [(1, S.toNat), (6, 17), (7, d.toNat), (7, a.toNat), (7, b.toNat), (4, 14)] := e.trans (by simp only [pack, total]; omega)
  have q6 : Fits [] := trivial
  have q5 : Fits [(4, 14)] := ⟨by decide, q6⟩
  have q4 : Fits [(7, b.toNat), (4, 14)] := ⟨b.isLt, q5⟩
  have q3 : Fits [(7, a.toNat), (7, b.toNat), (4, 14)] := ⟨a.isLt, q4⟩
  have q2 : Fits [(7, d.toNat), (7, a.toNat), (7, b.toNat), (4, 14)] := ⟨d.isLt, q3⟩
  have f31_31 : fld w 31 31 = S.toNat := fld_pack [] 0 _ _ e (S.toNat_lt) ⟨by decide, q2⟩ rfl rfl
  have f30_25 : fld w 30 25 = 17 := fld_pack [(1, S.toNat)] 5 _ _ e (by decide) q2 rfl rfl
  have f24_18 : fld w 24 18 = d.toNat := fld_pack [(1, S.toNat), (6, 17)] 6 _ _ e (d.isLt) q3 rfl rfl
  have f17_11 : fld w 17 11 = a.toNat := fld_pack [(1, S.toNat), (6, 17), (7, d.toNat)] 6 _ _ e (a.isLt) q4 rfl rfl
  have f10_4 : fld w 10 4 = b.toNat := fld_pack [(1, S.toNat), (6, 17), (7, d.toNat), (7, a.toNat)] 6 _ _ e (b.isLt) q5 rfl rfl
  have f3_0 : fld w 3 0 = 14 := fld_pack [(1, S.toNat), (6, 17), (7, d.toNat), (7, a.toNat), (7, b.toNat)] 3 _ _ e (by decide) q6 rfl rfl
  have n0 : ¬ (w = 0 ∨ w = 4294967295) := not_blank f30_25 (by decide) (by decide)
  clear e hw
  simp only [decode, n0, if_false, decodeIntB, f31_31, f30_25, f24_18, f17_11, f10_4, f3_0, bool_field, bits_field, need_some, Nat.add_zero]
  exact accept_ok hwf

theorem bfiV (S : Bool) (d : BitVec 7) (a : BitVec 7) (b : BitVec 7) : Statement (.bfiV S d a b) := by
  intro hwf w hw
  have e := (Option.some.inj hw).symm
  simp only [word_cons, word_nil, place_eq] at e
  replace e : w = pack [(1, S.toNat), (6, 17), (7, d.toNat), (7, a.toNat), (7, b.toNat), (4, 15)] := e.trans (by simp only [pack, total]; omega)
  have q6 : Fits [] := trivial
  have q5 : Fits [(4, 15)] := ⟨by decide, q6⟩
  have q4 : Fits [(7, b.toNat), (4, 15)] := ⟨b.isLt, q5⟩
  have q3 : Fits [(7, a.toNat), (7, b.toNat), (4, 15)] := ⟨a.isLt, q4⟩
  have q2 : Fits [(7, d.toNat), (7, a.toNat), (7, b.toNat), (4, 15)] := ⟨d.isLt, q3⟩
  have f31_31 : fld w 31 31 = S.toNat := fld_pack [] 0 _ _ e (S.toNat_lt) ⟨by decide, q2⟩ rfl rfl
  have f30_25 : fld w 30 25 = 17 := fld_pack [(1, S.toNat)] 5 _ _ e (by decide) q2 rfl rfl
  have f24_18 : fld w 24 18 = d.toNat := fld_pack [(1, S.toNat), (6, 17)] 6 _ _ e (d.isLt) q3 rfl rfl
  have f17_11 : fld w 17 11 = a.toNat := fld_pack [(1, S.toNat), (6, 17), (7, d.toNat)] 6 _ _ e (a.isLt) q4 rfl rfl
  have f10_4 : fld w 10 4 = b.toNat := fld_pack [(1, S.toNat), (6, 17), (7, d.toNat), (7, a.toNat)] 6 _ _ e (b.isLt) q5 rfl rfl
  have f3_0 : fld w 3 0 = 15 := fld_pack [(1, S.toNat), (6, 17), (7, d.toNat), (7, a.toNat), (7, b.toNat)] 3 _ _ e (by decide) q6 rfl rfl
  have n0 : ¬ (w = 0 ∨ w = 4294967295) := not_blank f30_25 (by decide) (by decide)
  clear e hw
  simp only [decode, n0, if_false, decodeIntB, f31_31, f30_25, f24_18, f17_11, f10_4, f3_0, bool_field, bits_field, need_some, Nat.add_zero]
  exact accept_ok hwf

theorem addiV (S : Bool) (d : BitVec 7) (a : BitVec 7) (i : BitVec 8) : Statement (.addiV S d a i) := by
  intro hwf w hw
  have e := (Option.some.inj hw).symm
  simp only [word_cons, word_nil, place_eq] at e
  replace e : w = pack [(1, S.toNat), (6, 18), (7, d.toNat), (7, a.toNat), (3, 0), (8, i.toNat)] := e.trans (by simp only [pack, total]; omega)
  have q6 : Fits [] := trivial
  have q5 : Fits [(8, i.toNat)] := ⟨i.isLt, q6⟩
  have q4 : Fits [(3, 0), (8, i.toNat)] := ⟨Nat.two_pow_pos _, q5⟩
  have q3 : Fits [(7, a.toNat), (3, 0), (8, i.toNat)] := ⟨a.isLt, q4⟩
  have q2 : Fits [(7, d.toNat), (7, a.toNat), (3, 0), (8, i.toNat)] := ⟨d.isLt, q3⟩
  have f31_31 : fld w 31 31 = S.toNat := fld_pack [] 0 _ _ e (S.toNat_lt) ⟨by decide, q2⟩ rfl rfl
  have f30_25 : fld w 30 25 = 18 := fld_pack [(1, S.toNat)] 5 _ _ e (by decide) q2 rfl rfl
  have f24_18 : fld w 24 18 = d.toNat := fld_pack [(1, S.toNat), (6, 18)] 6 _ _ e (d.isLt) q3 rfl rfl
  have f17_11 : fld w 17 11 = a.toNat := fld_pack [(1, S.toNat), (6, 18), (7, d.toNat)] 6 _ _ e (a.isLt) q4 rfl rfl
  have f10_8 : fld w 10 8 = 0 := fld_pack [(1, S.toNat), (6, 18), (7, d.toNat), (7, a.toNat)] 2 _ _ e (Nat.two_pow_pos _) q5 rfl rfl
  have f7_0 : fld w 7 0 = i.toNat := fld_pack [(1, S.toNat), (6, 18), (7, d.toNat), (7, a.toNat), (3, 0)] 7 _ _ e (i.isLt) q6 rfl rfl
  have n0 : ¬ (w = 0 ∨ w = 4294967295) := not_blank f30_25 (by decide) (by decide)
  clear e hw
  simp only [decode, n0, if_false, decodeVI, f31_31, f30_25, f24_18, f17_11, f10_8, f7_0, bool_field, bits_field, need_some, Nat.add_zero]
  exact accept_ok hwf

theorem andiV (S : Bool) (d : BitVec 7) (a : BitVec 7) (i : BitVec 8) : Statement (.andiV S d a i) := by
  intro hwf w hw
  have e := (Option.some.inj hw).symm
  simp only [word_cons, word_nil, place_eq] at e
  replace e : w = pack [(1, S.toNat), (6, 18), (7, d.toNat), (7, a.toNat), (3, 1), (8, i.toNat)] := e.trans (by simp only [pack, total]; omega)
  have q6 : Fits [] := trivial
  have q5 : Fits [(8, i.toNat)] := ⟨i.isLt, q6⟩
  have q4 : Fits [(3, 1), (8, i.toNat)] := ⟨by decide, q5⟩
  have q3 : Fits [(7, a.toNat), (3, 1), (8, i.toNat)] := ⟨a.isLt, q4⟩
  have q2 : Fits [(7, d.toNat), (7, a.toNat), (3, 1), (8, i.toNat)] := ⟨d.isLt, q3⟩
  have f31_31 : fld w 31 31 = S.toNat := fld_pack [] 0 _ _ e (S.toNat_lt) ⟨by decide, q2⟩ rfl rfl
  have f30_25 : fld w 30 25 = 18 := fld_pack [(1, S.toNat)] 5 _ _ e (by decide) q2 rfl rfl
  have f24_18 : fld w 24 18 = d.toNat := fld_pack [(1, S.toNat), (6, 18)] 6 _ _ e (d.isLt) q3 rfl rfl
  have f17_11 : fld w 17 11 = a.toNat := fld_pack [(1, S.toNat), (6, 18), (7, d.toNat)] 6 _ _ e (a.isLt) q4 rfl rfl
  have f10_8 : fld w 10 8 = 1 := fld_pack [(1, S.toNat), (6, 18), (7, d.toNat), (7, a.toNat)] 2 _ _ e (by decide) q5 rfl rfl
  have f7_0 : fld w 7 0 = i.toNat := fld_pack [(1, S.toNat), (6, 18), (7, d.toNat), (7, a.toNat), (3, 1)] 7 _ _ e (i.isLt) q6 rfl rfl
  have n0 : ¬ (w = 0 ∨ w = 4294967295) := not_blank f30_25 (by decide) (by decide)
  clear e hw
  simp only [decode, n0, if_false, decodeVI, f31_31, f30_25, f24_18, f17_11, f10_8, f7_0, bool_field, bits_field, need_some, Nat.add_zero]
  exact accept_ok hwf

theorem oriV (S : Bool) (d : BitVec 7) (a : BitVec 7) (i : BitVec 8) : Statement (.oriV S d a i) := by
  intro hwf w hw
  have e := (Option.some.inj hw).symm
  simp only [word_cons, word_nil, place_eq] at e
  replace e : w = pack [(1, S.toNat), (6, 18), (7, d.toNat), (7, a.toNat), (3, 2), (8, i.toNat)] := e.trans (by simp only [pack, total]; omega)
  have q6 : Fits [] := trivial
  have q5 : Fits [(8, i.toNat)] := ⟨i.isLt, q6⟩
  have q4 : Fits [(3, 2), (8, i.toNat)] := ⟨by decide, q5⟩
  have q3 : Fits [(7, a.toNat), (3, 2), (8, i.toNat)] := ⟨a.isLt, q4⟩
  have q2 : Fits [(7, d.toNat), (7, a.toNat), (3, 2), (8, i.toNat)] := ⟨d.isLt, q3⟩
  have f31_31 : fld w 31 31 = S.toNat := fld_pack [] 0 _ _ e (S.toNat_lt) ⟨by decide, q2⟩ rfl rfl
  have f30_25 : fld w 30 25 = 18 := fld_pack [(1, S.toNat)] 5 _ _ e (by decide) q2 rfl rfl
  have f24_18 : fld w 24 18 = d.toNat := fld_pack [(1, S.toNat), (6, 18)] 6 _ _ e (d.isLt) q3 rfl rfl
  have f17_11 : fld w 17 11 = a.toNat := fld_pack [(1, S.toNat), (6, 18), (7, d.toNat)] 6 _ _ e (a.isLt) q4 rfl rfl
  have f10_8 : fld w 10 8 = 2 := fld_pack [(1, S.toNat), (6, 18), (7, d.toNat), (7, a.toNat)] 2 _ _ e (by decide) q5 rfl rfl
  have f7_0 : fld w 7 0 = i.toNat := fld_pack [(1, S.toNat), (6, 18), (7, d.toNat), (7, a.toNat), (3, 2)] 7 _ _ e (i.isLt) q6 rfl rfl
  have n0 : ¬ (w = 0 ∨ w = 4294967295) := not_blank f30_25 (by decide) (by decide)
  clear e hw
  simp only [decode, n0, if_false, decodeVI, f31_31, f30_25, f24_18, f17_11, f10_8, f7_0, bool_field, bits_field, need_some, Nat.add_zero]
  exact accept_ok hwf

theorem xoriV (S : Bool) (d : BitVec 7) (a : BitVec 7) (i : BitVec 8) : Statement (.xoriV S d a i) := by
  intro hwf w hw
  have e := (Option.some.inj hw).symm
  simp only [word_cons, word_nil, place_eq] at e
  replace e : w = pack [(1, S.toNat), (6, 18), (7, d.toNat), (7, a.toNat), (3, 3), (8, i.toNat)] := e.trans (by simp only [pack, total]; omega)
  have q6 : Fits [] := trivial
  have q5 : Fits [(8, i.toNat)] := ⟨i.isLt, q6⟩
  have q4 : Fits [(3, 3), (8, i.toNat)] := ⟨by decide, q5⟩
  have q3 : Fits [(7, a.toNat), (3, 3), (8, i.toNat)] := ⟨a.isLt, q4⟩
  have q2 : Fits [(7, d.toNat), (7, a.toNat), (3, 3), (8, i.toNat)] := ⟨d.isLt, q3⟩
  have f31_31 : fld w 31 31 = S.toNat := fld_pack [] 0 _ _ e (S.toNat_lt) ⟨by decide, q2⟩ rfl rfl
  have f30_25 : fld w 30 25 = 18 := fld_pack [(1, S.toNat)] 5 _ _ e (by decide) q2 rfl rfl
  have f24_18 : fld w 24 18 = d.toNat := fld_pack [(1, S.toNat), (6, 18)] 6 _ _ e (d.isLt) q3 rfl rfl
  have f17_11 : fld w 17 11 = a.toNat := fld_pack [(1, S.toNat), (6, 18), (7, d.toNat)] 6 _ _ e (a.isLt) q4 rfl rfl
  have f10_8 : fld w 10 8 = 3 := fld_pack [(1, S.toNat), (6, 18), (7, d.toNat), (7, a.toNat)] 2 _ _ e (by decide) q5 rfl rfl
  have f7_0 : fld w 7 0 = i.toNat := fld_pack [(1, S.toNat), (6, 18), (7, d.toNat), (7, a.toNat), (3, 3)] 7 _ _ e (i.isLt) q6 rfl rfl
  have n0 : ¬ (w = 0 ∨ w = 4294967295) := not_blank f30_25 (by decide) (by decide)
  clear e hw
  simp only [decode, n0, if_false, decodeVI, f31_31, f30_25, f24_18, f17_11, f10_8, f7_0, bool_field, bits_field, need_some, Nat.add_zero]
  exact accept_ok hwf

theorem shliV (S : Bool) (d : BitVec 7) (a : BitVec 7) (i : BitVec 8) : Statement (.shliV S d a i) := by
  intro hwf w hw
  have e := (Option.some.inj hw).symm
  simp only [word_cons, word_nil, place_eq] at e
  replace e : w = pack [(1, S.toNat), (6, 18), (7, d.toNat), (7, a.toNat), (3, 4), (8, i.toNat)] := e.trans (by simp only [pack, total]; omega)
  have q6 : Fits [] := trivial
  have q5 : Fits [(8, i.toNat)] := ⟨i.isLt, q6⟩
  have q4 : Fits [(3, 4), (8, i.toNat)] := ⟨by decide, q5⟩
  have q3 : Fits [(7, a.toNat), (3, 4), (8, i.toNat)] := ⟨a.isLt, q4⟩
  have q2 : Fits [(7, d.toNat), (7, a.toNat), (3, 4), (8, i.toNat)] := ⟨d.isLt, q3⟩
  have f31_31 : fld w 31 31 = S.toNat := fld_pack [] 0 _ _ e (S.toNat_lt) ⟨by decide, q2⟩ rfl rfl
  have f30_25 : fld w 30 25 = 18 := fld_pack [(1, S.toNat)] 5 _ _ e (by decide) q2 rfl rfl
  have f24_18 : fld w 24 18 = d.toNat := fld_pack [(1, S.toNat), (6, 18)] 6 _ _ e (d.isLt) q3 rfl rfl
  have f17_11 : fld w 17 11 = a.toNat := fld_pack [(1, S.toNat), (6, 18), (7, d.toNat)] 6 _ _ e (a.isLt) q4 rfl rfl
  have f10_8 : fld w 10 8 = 4 := fld_pack [(1, S.toNat), (6, 18), (7, d.toNat), (7, a.toNat)] 2 _ _ e (by decide) q5 rfl rfl
  have f7_0 : fld w 7 0 = i.toNat := fld_pack [(1, S.toNat), (6, 18), (7, d.toNat), (7, a.toNat), (3, 4)] 7 _ _ e (i.isLt) q6 rfl rfl
  have n0 : ¬ (w = 0 ∨ w = 4294967295) := not_blank f30_25 (by decide) (by decide)
  clear e hw
  simp only [decode, n0, if_false, decodeVI, f31_31, f30_25, f24_18, f17_11, f10_8, f7_0, bool_field, bits_field, need_some, Nat.add_zero]
  exact accept_ok hwf

theorem shriV (S : Bool) (d : BitVec 7) (a : BitVec 7) (i : BitVec 8) : Statement (.shriV S d a i) := by
  intro hwf w hw
  have e := (Option.some.inj hw).symm
  simp only [word_cons, word_nil, place_eq] at e
  replace e : w = pack [(1, S.toNat), (6, 18), (7, d.toNat), (7, a.toNat), (3, 5), (8, i.toNat)] := e.trans (by simp only [pack, total]; omega)
  have q6 : Fits [] := trivial
  have q5 : Fits [(8, i.toNat)] := ⟨i.isLt, q6⟩
  have q4 : Fits [(3, 5), (8, i.toNat)] := ⟨by decide, q5⟩
  have q3 : Fits [(7, a.toNat), (3, 5), (8, i.toNat)] := ⟨a.isLt, q4⟩
  have q2 : Fits [(7, d.toNat), (7, a.toNat), (3, 5), (8, i.toNat)] := ⟨d.isLt, q3⟩
  have f31_31 : fld w 31 31 = S.toNat := fld_pack [] 0 _ _ e (S.toNat_lt) ⟨by decide, q2⟩ rfl rfl
  have f30_25 : fld w 30 25 = 18 := fld_pack [(1, S.toNat)] 5 _ _ e (by decide) q2 rfl rfl
  have f24_18 : fld w 24 18 = d.toNat := fld_pack [(1, S.toNat), (6, 18)] 6 _ _ e (d.isLt) q3 rfl rfl
  have f17_11 : fld w 17 11 = a.toNat := fld_pack [(1, S.toNat), (6, 18), (7, d.toNat)] 6 _ _ e (a.isLt) q4 rfl rfl
  have f10_8 : fld w 10 8 = 5 := fld_pack [(1, S.toNat), (6, 18), (7, d.toNat), (7, a.toNat)] 2 _ _ e (by decide) q5 rfl rfl
  have f7_0 : fld w 7 0 = i.toNat := fld_pack [(1, S.toNat), (6, 18), (7, d.toNat), (7, a.toNat), (3, 5)] 7 _ _ e (i.isLt) q6 rfl rfl
  have n0 : ¬ (w = 0 ∨ w = 4294967295) := not_blank f30_25 (by decide) (by decide)
  clear e hw
  simp only [decode, n0, if_false, decodeVI, f31_31, f30_25, f24_18, f17_11, f10_8, f7_0, bool_field, bits_field, need_some, Nat.add_zero]
  exact accept_ok hwf

theorem sraiV (S : Bool) (d : BitVec 7) (a : BitVec 7) (i : BitVec 8) : Statement (.sraiV S d a i) := by
  intro hwf w hw
  have e := (Option.some.inj hw).symm
  simp only [word_cons, word_nil, place_eq] at e
  replace e : w = pack [(1, S.toNat), (6, 18), (7, d.toNat), (7, a.toNat), (3, 6), (8, i.toNat)] := e.trans (by simp only [pack, total]; omega)
  have q6 : Fits [] := trivial
  have q5 : Fits [(8, i.toNat)] := ⟨i.isLt, q6⟩
  have q4 : Fits [(3, 6), (8, i.toNat)] := ⟨by decide, q5⟩
  have q3 : Fits [(7, a.toNat), (3, 6), (8, i.toNat)] := ⟨a.isLt, q4⟩
  have q2 : Fits [(7, d.toNat), (7, a.toNat), (3, 6), (8, i.toNat)] := ⟨d.isLt, q3⟩
  have f31_31 : fld w 31 31 = S.toNat := fld_pack [] 0 _ _ e (S.toNat_lt) ⟨by decide, q2⟩ rfl rfl
  have f30_25 : fld w 30 25 = 18 := fld_pack [(1, S.toNat)] 5 _ _ e (by decide) q2 rfl rfl
  have f24_18 : fld w 24 18 = d.toNat := fld_pack [(1, S.toNat), (6, 18)] 6 _ _ e (d.isLt) q3 rfl rfl
  have f17_11 : fld w 17 11 = a.toNat := fld_pack [(1, S.toNat), (6, 18), (7, d.toNat)] 6 _ _ e (a.isLt) q4 rfl rfl
  have f10_8 : fld w 10 8 = 6 := fld_pack [(1, S.toNat), (6, 18), (7, d.toNat), (7, a.toNat)] 2 _ _ e (by decide) q5 rfl rfl
  have f7_0 : fld w 7 0 = i.toNat := fld_pack [(1, S.toNat), (6, 18), (7, d.toNat), (7, a.toNat), (3, 6)] 7 _ _ e (i.isLt) q6 rfl rfl
  have n0 : ¬ (w = 0 ∨ w = 4294967295) := not_blank f30_25 (by decide) (by decide)
  clear e hw
  simp only [decode, n0, if_false, decodeVI, f31_31, f30_25, f24_18, f17_11, f10_8, f7_0, bool_field, bits_field, need_some, Nat.add_zero]
  exact accept_ok hwf

theorem muli (S : Bool) (d : BitVec 7) (a : BitVec 7) (i : BitVec 8) : Statement (.muli S d a i) := by
  intro hwf w hw
  have e := (Option.some.inj hw).symm
  simp only [word_cons, word_nil, place_eq] at e
  replace e : w = pack [(1, S.toNat), (6, 18), (7, d.toNat), (7, a.toNat), (3, 7), (8, i.toNat)] := e.trans (by simp only [pack, total]; omega)
  have q6 : Fits [] := trivial
  have q5 : Fits [(8, i.toNat)] := ⟨i.isLt, q6⟩
  have q4 : Fits [(3, 7), (8, i.toNat)] := ⟨by decide, q5⟩
  have q3 : Fits [(7, a.toNat), (3, 7), (8, i.toNat)] := ⟨a.isLt, q4⟩
  have q2 : Fits [(7, d.toNat), (7, a.toNat), (3, 7), (8, i.toNat)] := ⟨d.isLt, q3⟩
  have f31_31 : fld w 31 31 = S.toNat := fld_pack [] 0 _ _ e (S.toNat_lt) ⟨by decide, q2⟩ rfl rfl
  have f30_25 : fld w 30 25 = 18 := fld_pack [(1, S.toNat)] 5 _ _ e (by decide) q2 rfl rfl
  have f24_18 : fld w 24 18 = d.toNat := fld_pack [(1, S.toNat), (6, 18)] 6 _ _ e (d.isLt) q3 rfl rfl
  have f17_11 : fld w 17 11 = a.toNat := fld_pack [(1, S.toNat), (6, 18), (7, d.toNat)] 6 _ _ e (a.isLt) q4 rfl rfl
  have f10_8 : fld w 10 8 = 7 := fld_pack [(1, S.toNat), (6, 18), (7, d.toNat), (7, a.toNat)] 2 _ _ e (by decide) q5 rfl rfl
  have f7_0 : fld w 7 0 = i.toNat := fld_pack [(1, S.toNat), (6, 18), (7, d.toNat), (7, a.toNat), (3, 7)] 7 _ _ e (i.isLt) q6 rfl rfl
  have n0 : ¬ (w = 0 ∨ w = 4294967295) := not_blank f30_25 (by decide) (by decide)
  clear e hw
  simp only [decode, n0, if_false, decodeVI, f31_31, f30_25, f24_18, f17_11, f10_8, f7_0, bool_field, bits_field, need_some, Nat.add_zero]
  exact accept_ok hwf

theorem faddF32 (S : Bool) (d : BitVec 7) (a : BitVec 7) (b : BitVec 7) : Statement (.faddF32 S d a b) := by
  intro hwf w hw
  have e := (Option.some.inj hw).symm
  simp only [word_cons, word_nil, place_eq] at e
  replace e : w = pack [(1, S.toNat), (6, 19), (7, d.toNat), (7, a.toNat), (7, b.toNat), (4, 0)] := e.trans (by simp only [pack, total]; omega)
  have q6 : Fits [] := trivial
  have q5 : Fits [(4, 0)] := ⟨Nat.two_pow_pos _, q6⟩
  have q4 : Fits [(7, b.toNat), (4, 0)] := ⟨b.isLt, q5⟩
  have q3 : Fits [(7, a.toNat), (7, b.toNat), (4, 0)] := ⟨a.isLt, q4⟩
  have q2 : Fits [(7, d.toNat), (7, a.toNat), (7, b.toNat), (4, 0)] := ⟨d.isLt, q3⟩
  have f31_31 : fld w 31 31 = S.toNat := fld_pack [] 0 _ _ e (S.toNat_lt) ⟨by decide, q2⟩ rfl rfl
  have f30_25 : fld w 30 25 = 19 := fld_pack [(1, S.toNat)] 5 _ _ e (by decide) q2 rfl rfl
  have f24_18 : fld w 24 18 = d.toNat := fld_pack [(1, S.toNat), (6, 19)] 6 _ _ e (d.isLt) q3 rfl rfl
  have f17_11 : fld w 17 11 = a.toNat := fld_pack [(1, S.toNat), (6, 19), (7, d.toNat)] 6 _ _ e (a.isLt) q4 rfl rfl
  have f10_4 : fld w 10 4 = b.toNat := fld_pack [(1, S.toNat), (6, 19), (7, d.toNat), (7, a.toNat)] 6 _ _ e (b.isLt) q5 rfl rfl
  have f3_0 : fld w 3 0 = 0 := fld_pack [(1, S.toNat), (6, 19), (7, d.toNat), (7, a.toNat), (7, b.toNat)] 3 _ _ e (Nat.two_pow_pos _) q6 rfl rfl
  have n0 : ¬ (w = 0 ∨ w = 4294967295) := not_blank f30_25 (by decide) (by decide)
  clear e hw
  simp only [decode, n0, if_false, decodeFloat, f31_31, f30_25, f24_18, f17_11, f10_4, f3_0, bool_field, bits_field, need_some, Nat.add_zero]
  exact accept_ok hwf

theorem faddH2 (S : Bool) (d : BitVec 7) (a : BitVec 7) (b : BitVec 7) : Statement (.faddH2 S d a b) := by
  intro hwf w hw
  have e := (Option.some.inj hw).symm
  simp only [word_cons, word_nil, place_eq] at e
  replace e : w = pack [(1, S.toNat), (6, 19), (7, d.toNat), (7, a.toNat), (7, b.toNat), (4, 1)] := e.trans (by simp only [pack, total]; omega)
  have q6 : Fits [] := trivial
  have q5 : Fits [(4, 1)] := ⟨by decide, q6⟩
  have q4 : Fits [(7, b.toNat), (4, 1)] := ⟨b.isLt, q5⟩
  have q3 : Fits [(7, a.toNat), (7, b.toNat), (4, 1)] := ⟨a.isLt, q4⟩
  have q2 : Fits [(7, d.toNat), (7, a.toNat), (7, b.toNat), (4, 1)] := ⟨d.isLt, q3⟩
  have f31_31 : fld w 31 31 = S.toNat := fld_pack [] 0 _ _ e (S.toNat_lt) ⟨by decide, q2⟩ rfl rfl
  have f30_25 : fld w 30 25 = 19 := fld_pack [(1, S.toNat)] 5 _ _ e (by decide) q2 rfl rfl
  have f24_18 : fld w 24 18 = d.toNat := fld_pack [(1, S.toNat), (6, 19)] 6 _ _ e (d.isLt) q3 rfl rfl
  have f17_11 : fld w 17 11 = a.toNat := fld_pack [(1, S.toNat), (6, 19), (7, d.toNat)] 6 _ _ e (a.isLt) q4 rfl rfl
  have f10_4 : fld w 10 4 = b.toNat := fld_pack [(1, S.toNat), (6, 19), (7, d.toNat), (7, a.toNat)] 6 _ _ e (b.isLt) q5 rfl rfl
  have f3_0 : fld w 3 0 = 1 := fld_pack [(1, S.toNat), (6, 19), (7, d.toNat), (7, a.toNat), (7, b.toNat)] 3 _ _ e (by decide) q6 rfl rfl
  have n0 : ¬ (w = 0 ∨ w = 4294967295) := not_blank f30_25 (by decide) (by decide)
  clear e hw
  simp only [decode, n0, if_false, decodeFloat, f31_31, f30_25, f24_18, f17_11, f10_4, f3_0, bool_field, bits_field, need_some, Nat.add_zero]
  exact accept_ok hwf

theorem faddB2 (S : Bool) (d : BitVec 7) (a : BitVec 7) (b : BitVec 7) : Statement (.faddB2 S d a b) := by
  intro hwf w hw
  have e := (Option.some.inj hw).symm
  simp only [word_cons, word_nil, place_eq] at e
  replace e : w = pack [(1, S.toNat), (6, 19), (7, d.toNat), (7, a.toNat), (7, b.toNat), (4, 2)] := e.trans (by simp only [pack, total]; omega)
  have q6 : Fits [] := trivial
  have q5 : Fits [(4, 2)] := ⟨by decide, q6⟩
  have q4 : Fits [(7, b.toNat), (4, 2)] := ⟨b.isLt, q5⟩
  have q3 : Fits [(7, a.toNat), (7, b.toNat), (4, 2)] := ⟨a.isLt, q4⟩
  have q2 : Fits [(7, d.toNat), (7, a.toNat), (7, b.toNat), (4, 2)] := ⟨d.isLt, q3⟩
  have f31_31 : fld w 31 31 = S.toNat := fld_pack [] 0 _ _ e (S.toNat_lt) ⟨by decide, q2⟩ rfl rfl
  have f30_25 : fld w 30 25 = 19 := fld_pack [(1, S.toNat)] 5 _ _ e (by decide) q2 rfl rfl
  have f24_18 : fld w 24 18 = d.toNat := fld_pack [(1, S.toNat), (6, 19)] 6 _ _ e (d.isLt) q3 rfl rfl
  have f17_11 : fld w 17 11 = a.toNat := fld_pack [(1, S.toNat), (6, 19), (7, d.toNat)] 6 _ _ e (a.isLt) q4 rfl rfl
  have f10_4 : fld w 10 4 = b.toNat := fld_pack [(1, S.toNat), (6, 19), (7, d.toNat), (7, a.toNat)] 6 _ _ e (b.isLt) q5 rfl rfl
  have f3_0 : fld w 3 0 = 2 := fld_pack [(1, S.toNat), (6, 19), (7, d.toNat), (7, a.toNat), (7, b.toNat)] 3 _ _ e (by decide) q6 rfl rfl
  have n0 : ¬ (w = 0 ∨ w = 4294967295) := not_blank f30_25 (by decide) (by decide)
  clear e hw
  simp only [decode, n0, if_false, decodeFloat, f31_31, f30_25, f24_18, f17_11, f10_4, f3_0, bool_field, bits_field, need_some, Nat.add_zero]
  exact accept_ok hwf

theorem fsubF32 (S : Bool) (d : BitVec 7) (a : BitVec 7) (b : BitVec 7) : Statement (.fsubF32 S d a b) := by
  intro hwf w hw
  have e := (Option.some.inj hw).symm
  simp only [word_cons, word_nil, place_eq] at e
  replace e : w = pack [(1, S.toNat), (6, 19), (7, d.toNat), (7, a.toNat), (7, b.toNat), (4, 3)] := e.trans (by simp only [pack, total]; omega)
  have q6 : Fits [] := trivial
  have q5 : Fits [(4, 3)] := ⟨by decide, q6⟩
  have q4 : Fits [(7, b.toNat), (4, 3)] := ⟨b.isLt, q5⟩
  have q3 : Fits [(7, a.toNat), (7, b.toNat), (4, 3)] := ⟨a.isLt, q4⟩
  have q2 : Fits [(7, d.toNat), (7, a.toNat), (7, b.toNat), (4, 3)] := ⟨d.isLt, q3⟩
  have f31_31 : fld w 31 31 = S.toNat := fld_pack [] 0 _ _ e (S.toNat_lt) ⟨by decide, q2⟩ rfl rfl
  have f30_25 : fld w 30 25 = 19 := fld_pack [(1, S.toNat)] 5 _ _ e (by decide) q2 rfl rfl
  have f24_18 : fld w 24 18 = d.toNat := fld_pack [(1, S.toNat), (6, 19)] 6 _ _ e (d.isLt) q3 rfl rfl
  have f17_11 : fld w 17 11 = a.toNat := fld_pack [(1, S.toNat), (6, 19), (7, d.toNat)] 6 _ _ e (a.isLt) q4 rfl rfl
  have f10_4 : fld w 10 4 = b.toNat := fld_pack [(1, S.toNat), (6, 19), (7, d.toNat), (7, a.toNat)] 6 _ _ e (b.isLt) q5 rfl rfl
  have f3_0 : fld w 3 0 = 3 := fld_pack [(1, S.toNat), (6, 19), (7, d.toNat), (7, a.toNat), (7, b.toNat)] 3 _ _ e (by decide) q6 rfl rfl
  have n0 : ¬ (w = 0 ∨ w = 4294967295) := not_blank f30_25 (by decide) (by decide)
  clear e hw
  simp only [decode, n0, if_false, decodeFloat, f31_31, f30_25, f24_18, f17_11, f10_4, f3_0, bool_field, bits_field, need_some, Nat.add_zero]
  exact accept_ok hwf

theorem fsubH2 (S : Bool) (d : BitVec 7) (a : BitVec 7) (b : BitVec 7) : Statement (.fsubH2 S d a b) := by
  intro hwf w hw
  have e := (Option.some.inj hw).symm
  simp only [word_cons, word_nil, place_eq] at e
  replace e : w = pack [(1, S.toNat), (6, 19), (7, d.toNat), (7, a.toNat), (7, b.toNat), (4, 4)] := e.trans (by simp only [pack, total]; omega)
  have q6 : Fits [] := trivial
  have q5 : Fits [(4, 4)] := ⟨by decide, q6⟩
  have q4 : Fits [(7, b.toNat), (4, 4)] := ⟨b.isLt, q5⟩
  have q3 : Fits [(7, a.toNat), (7, b.toNat), (4, 4)] := ⟨a.isLt, q4⟩
  have q2 : Fits [(7, d.toNat), (7, a.toNat), (7, b.toNat), (4, 4)] := ⟨d.isLt, q3⟩
  have f31_31 : fld w 31 31 = S.toNat := fld_pack [] 0 _ _ e (S.toNat_lt) ⟨by decide, q2⟩ rfl rfl
  have f30_25 : fld w 30 25 = 19 := fld_pack [(1, S.toNat)] 5 _ _ e (by decide) q2 rfl rfl
  have f24_18 : fld w 24 18 = d.toNat := fld_pack [(1, S.toNat), (6, 19)] 6 _ _ e (d.isLt) q3 rfl rfl
  have f17_11 : fld w 17 11 = a.toNat := fld_pack [(1, S.toNat), (6, 19), (7, d.toNat)] 6 _ _ e (a.isLt) q4 rfl rfl
  have f10_4 : fld w 10 4 = b.toNat := fld_pack [(1, S.toNat), (6, 19), (7, d.toNat), (7, a.toNat)] 6 _ _ e (b.isLt) q5 rfl rfl
  have f3_0 : fld w 3 0 = 4 := fld_pack [(1, S.toNat), (6, 19), (7, d.toNat), (7, a.toNat), (7, b.toNat)] 3 _ _ e (by decide) q6 rfl rfl
  have n0 : ¬ (w = 0 ∨ w = 4294967295) := not_blank f30_25 (by decide) (by decide)
  clear e hw
  simp only [decode, n0, if_false, decodeFloat, f31_31, f30_25, f24_18, f17_11, f10_4, f3_0, bool_field, bits_field, need_some, Nat.add_zero]
  exact accept_ok hwf

theorem fsubB2 (S : Bool) (d : BitVec 7) (a : BitVec 7) (b : BitVec 7) : Statement (.fsubB2 S d a b) := by
  intro hwf w hw
  have e := (Option.some.inj hw).symm
  simp only [word_cons, word_nil, place_eq] at e
  replace e : w = pack [(1, S.toNat), (6, 19), (7, d.toNat), (7, a.toNat), (7, b.toNat), (4, 5)] := e.trans (by simp only [pack, total]; omega)
  have q6 : Fits [] := trivial
  have q5 : Fits [(4, 5)] := ⟨by decide, q6⟩
  have q4 : Fits [(7, b.toNat), (4, 5)] := ⟨b.isLt, q5⟩
  have q3 : Fits [(7, a.toNat), (7, b.toNat), (4, 5)] := ⟨a.isLt, q4⟩
  have q2 : Fits [(7, d.toNat), (7, a.toNat), (7, b.toNat), (4, 5)] := ⟨d.isLt, q3⟩
  have f31_31 : fld w 31 31 = S.toNat := fld_pack [] 0 _ _ e (S.toNat_lt) ⟨by decide, q2⟩ rfl rfl
  have f30_25 : fld w 30 25 = 19 := fld_pack [(1, S.toNat)] 5 _ _ e (by decide) q2 rfl rfl
  have f24_18 : fld w 24 18 = d.toNat := fld_pack [(1, S.toNat), (6, 19)] 6 _ _ e (d.isLt) q3 rfl rfl
  have f17_11 : fld w 17 11 = a.toNat := fld_pack [(1, S.toNat), (6, 19), (7, d.toNat)] 6 _ _ e (a.isLt) q4 rfl rfl
  have f10_4 : fld w 10 4 = b.toNat := fld_pack [(1, S.toNat), (6, 19), (7, d.toNat), (7, a.toNat)] 6 _ _ e (b.isLt) q5 rfl rfl
  have f3_0 : fld w 3 0 = 5 := fld_pack [(1, S.toNat), (6, 19), (7, d.toNat), (7, a.toNat), (7, b.toNat)] 3 _ _ e (by decide) q6 rfl rfl
  have n0 : ¬ (w = 0 ∨ w = 4294967295) := not_blank f30_25 (by decide) (by decide)
  clear e hw
  simp only [decode, n0, if_false, decodeFloat, f31_31, f30_25, f24_18, f17_11, f10_4, f3_0, bool_field, bits_field, need_some, Nat.add_zero]
  exact accept_ok hwf

theorem fmulF32 (S : Bool) (d : BitVec 7) (a : BitVec 7) (b : BitVec 7) : Statement (.fmulF32 S d a b) := by
  intro hwf w hw
  have e := (Option.some.inj hw).symm
  simp only [word_cons, word_nil, place_eq] at e
  replace e : w = pack [(1, S.toNat), (6, 19), (7, d.toNat), (7, a.toNat), (7, b.toNat), (4, 6)] := e.trans (by simp only [pack, total]; omega)
  have q6 : Fits [] := trivial
  have q5 : Fits [(4, 6)] := ⟨by decide, q6⟩
  have q4 : Fits [(7, b.toNat), (4, 6)] := ⟨b.isLt, q5⟩
  have q3 : Fits [(7, a.toNat), (7, b.toNat), (4, 6)] := ⟨a.isLt, q4⟩
  have q2 : Fits [(7, d.toNat), (7, a.toNat), (7, b.toNat), (4, 6)] := ⟨d.isLt, q3⟩
  have f31_31 : fld w 31 31 = S.toNat := fld_pack [] 0 _ _ e (S.toNat_lt) ⟨by decide, q2⟩ rfl rfl
  have f30_25 : fld w 30 25 = 19 := fld_pack [(1, S.toNat)] 5 _ _ e (by decide) q2 rfl rfl
  have f24_18 : fld w 24 18 = d.toNat := fld_pack [(1, S.toNat), (6, 19)] 6 _ _ e (d.isLt) q3 rfl rfl
  have f17_11 : fld w 17 11 = a.toNat := fld_pack [(1, S.toNat), (6, 19), (7, d.toNat)] 6 _ _ e (a.isLt) q4 rfl rfl
  have f10_4 : fld w 10 4 = b.toNat := fld_pack [(1, S.toNat), (6, 19), (7, d.toNat), (7, a.toNat)] 6 _ _ e (b.isLt) q5 rfl rfl
  have f3_0 : fld w 3 0 = 6 := fld_pack [(1, S.toNat), (6, 19), (7, d.toNat), (7, a.toNat), (7, b.toNat)] 3 _ _ e (by decide) q6 rfl rfl
  have n0 : ¬ (w = 0 ∨ w = 4294967295) := not_blank f30_25 (by decide) (by decide)
  clear e hw
  simp only [decode, n0, if_false, decodeFloat, f31_31, f30_25, f24_18, f17_11, f10_4, f3_0, bool_field, bits_field, need_some, Nat.add_zero]
  exact accept_ok hwf

theorem fmulH2 (S : Bool) (d : BitVec 7) (a : BitVec 7) (b : BitVec 7) : Statement (.fmulH2 S d a b) := by
  intro hwf w hw
  have e := (Option.some.inj hw).symm
  simp only [word_cons, word_nil, place_eq] at e
  replace e : w = pack [(1, S.toNat), (6, 19), (7, d.toNat), (7, a.toNat), (7, b.toNat), (4, 7)] := e.trans (by simp only [pack, total]; omega)
  have q6 : Fits [] := trivial
  have q5 : Fits [(4, 7)] := ⟨by decide, q6⟩
  have q4 : Fits [(7, b.toNat), (4, 7)] := ⟨b.isLt, q5⟩
  have q3 : Fits [(7, a.toNat), (7, b.toNat), (4, 7)] := ⟨a.isLt, q4⟩
  have q2 : Fits [(7, d.toNat), (7, a.toNat), (7, b.toNat), (4, 7)] := ⟨d.isLt, q3⟩
  have f31_31 : fld w 31 31 = S.toNat := fld_pack [] 0 _ _ e (S.toNat_lt) ⟨by decide, q2⟩ rfl rfl
  have f30_25 : fld w 30 25 = 19 := fld_pack [(1, S.toNat)] 5 _ _ e (by decide) q2 rfl rfl
  have f24_18 : fld w 24 18 = d.toNat := fld_pack [(1, S.toNat), (6, 19)] 6 _ _ e (d.isLt) q3 rfl rfl
  have f17_11 : fld w 17 11 = a.toNat := fld_pack [(1, S.toNat), (6, 19), (7, d.toNat)] 6 _ _ e (a.isLt) q4 rfl rfl
  have f10_4 : fld w 10 4 = b.toNat := fld_pack [(1, S.toNat), (6, 19), (7, d.toNat), (7, a.toNat)] 6 _ _ e (b.isLt) q5 rfl rfl
  have f3_0 : fld w 3 0 = 7 := fld_pack [(1, S.toNat), (6, 19), (7, d.toNat), (7, a.toNat), (7, b.toNat)] 3 _ _ e (by decide) q6 rfl rfl
  have n0 : ¬ (w = 0 ∨ w = 4294967295) := not_blank f30_25 (by decide) (by decide)
  clear e hw
  simp only [decode, n0, if_false, decodeFloat, f31_31, f30_25, f24_18, f17_11, f10_4, f3_0, bool_field, bits_field, need_some, Nat.add_zero]
  exact accept_ok hwf

theorem fmulB2 (S : Bool) (d : BitVec 7) (a : BitVec 7) (b : BitVec 7) : Statement (.fmulB2 S d a b) := by
  intro hwf w hw
  have e := (Option.some.inj hw).symm
  simp only [word_cons, word_nil, place_eq] at e
  replace e : w = pack [(1, S.toNat), (6, 19), (7, d.toNat), (7, a.toNat), (7, b.toNat), (4, 8)] := e.trans (by simp only [pack, total]; omega)
  have q6 : Fits [] := trivial
  have q5 : Fits [(4, 8)] := ⟨by decide, q6⟩
  have q4 : Fits [(7, b.toNat), (4, 8)] := ⟨b.isLt, q5⟩
  have q3 : Fits [(7, a.toNat), (7, b.toNat), (4, 8)] := ⟨a.isLt, q4⟩
  have q2 : Fits [(7, d.toNat), (7, a.toNat), (7, b.toNat), (4, 8)] := ⟨d.isLt, q3⟩
  have f31_31 : fld w 31 31 = S.toNat := fld_pack [] 0 _ _ e (S.toNat_lt) ⟨by decide, q2⟩ rfl rfl
  have f30_25 : fld w 30 25 = 19 := fld_pack [(1, S.toNat)] 5 _ _ e (by decide) q2 rfl rfl
  have f24_18 : fld w 24 18 = d.toNat := fld_pack [(1, S.toNat), (6, 19)] 6 _ _ e (d.isLt) q3 rfl rfl
  have f17_11 : fld w 17 11 = a.toNat := fld_pack [(1, S.toNat), (6, 19), (7, d.toNat)] 6 _ _ e (a.isLt) q4 rfl rfl
  have f10_4 : fld w 10 4 = b.toNat := fld_pack [(1, S.toNat), (6, 19), (7, d.toNat), (7, a.toNat)] 6 _ _ e (b.isLt) q5 rfl rfl
  have f3_0 : fld w 3 0 = 8 := fld_pack [(1, S.toNat), (6, 19), (7, d.toNat), (7, a.toNat), (7, b.toNat)] 3 _ _ e (by decide) q6 rfl rfl
  have n0 : ¬ (w = 0 ∨ w = 4294967295) := not_blank f30_25 (by decide) (by decide)
  clear e hw
  simp only [decode, n0, if_false, decodeFloat, f31_31, f30_25, f24_18, f17_11, f10_4, f3_0, bool_field, bits_field, need_some, Nat.add_zero]
  exact accept_ok hwf

theorem fminF32 (S : Bool) (d : BitVec 7) (a : BitVec 7) (b : BitVec 7) : Statement (.fminF32 S d a b) := by
  intro hwf w hw
  have e := (Option.some.inj hw).symm
  simp only [word_cons, word_nil, place_eq] at e
  replace e : w = pack [(1, S.toNat), (6, 19), (7, d.toNat), (7, a.toNat), (7, b.toNat), (4, 9)] := e.trans (by simp only [pack, total]; omega)
  have q6 : Fits [] := trivial
  have q5 : Fits [(4, 9)] := ⟨by decide, q6⟩
  have q4 : Fits [(7, b.toNat), (4, 9)] := ⟨b.isLt, q5⟩
  have q3 : Fits [(7, a.toNat), (7, b.toNat), (4, 9)] := ⟨a.isLt, q4⟩
  have q2 : Fits [(7, d.toNat), (7, a.toNat), (7, b.toNat), (4, 9)] := ⟨d.isLt, q3⟩
  have f31_31 : fld w 31 31 = S.toNat := fld_pack [] 0 _ _ e (S.toNat_lt) ⟨by decide, q2⟩ rfl rfl
  have f30_25 : fld w 30 25 = 19 := fld_pack [(1, S.toNat)] 5 _ _ e (by decide) q2 rfl rfl
  have f24_18 : fld w 24 18 = d.toNat := fld_pack [(1, S.toNat), (6, 19)] 6 _ _ e (d.isLt) q3 rfl rfl
  have f17_11 : fld w 17 11 = a.toNat := fld_pack [(1, S.toNat), (6, 19), (7, d.toNat)] 6 _ _ e (a.isLt) q4 rfl rfl
  have f10_4 : fld w 10 4 = b.toNat := fld_pack [(1, S.toNat), (6, 19), (7, d.toNat), (7, a.toNat)] 6 _ _ e (b.isLt) q5 rfl rfl
  have f3_0 : fld w 3 0 = 9 := fld_pack [(1, S.toNat), (6, 19), (7, d.toNat), (7, a.toNat), (7, b.toNat)] 3 _ _ e (by decide) q6 rfl rfl
  have n0 : ¬ (w = 0 ∨ w = 4294967295) := not_blank f30_25 (by decide) (by decide)
  clear e hw
  simp only [decode, n0, if_false, decodeFloat, f31_31, f30_25, f24_18, f17_11, f10_4, f3_0, bool_field, bits_field, need_some, Nat.add_zero]
  exact accept_ok hwf

theorem fminH2 (S : Bool) (d : BitVec 7) (a : BitVec 7) (b : BitVec 7) : Statement (.fminH2 S d a b) := by
  intro hwf w hw
  have e := (Option.some.inj hw).symm
  simp only [word_cons, word_nil, place_eq] at e
  replace e : w = pack [(1, S.toNat), (6, 19), (7, d.toNat), (7, a.toNat), (7, b.toNat), (4, 10)] := e.trans (by simp only [pack, total]; omega)
  have q6 : Fits [] := trivial
  have q5 : Fits [(4, 10)] := ⟨by decide, q6⟩
  have q4 : Fits [(7, b.toNat), (4, 10)] := ⟨b.isLt, q5⟩
  have q3 : Fits [(7, a.toNat), (7, b.toNat), (4, 10)] := ⟨a.isLt, q4⟩
  have q2 : Fits [(7, d.toNat), (7, a.toNat), (7, b.toNat), (4, 10)] := ⟨d.isLt, q3⟩
  have f31_31 : fld w 31 31 = S.toNat := fld_pack [] 0 _ _ e (S.toNat_lt) ⟨by decide, q2⟩ rfl rfl
  have f30_25 : fld w 30 25 = 19 := fld_pack [(1, S.toNat)] 5 _ _ e (by decide) q2 rfl rfl
  have f24_18 : fld w 24 18 = d.toNat := fld_pack [(1, S.toNat), (6, 19)] 6 _ _ e (d.isLt) q3 rfl rfl
  have f17_11 : fld w 17 11 = a.toNat := fld_pack [(1, S.toNat), (6, 19), (7, d.toNat)] 6 _ _ e (a.isLt) q4 rfl rfl
  have f10_4 : fld w 10 4 = b.toNat := fld_pack [(1, S.toNat), (6, 19), (7, d.toNat), (7, a.toNat)] 6 _ _ e (b.isLt) q5 rfl rfl
  have f3_0 : fld w 3 0 = 10 := fld_pack [(1, S.toNat), (6, 19), (7, d.toNat), (7, a.toNat), (7, b.toNat)] 3 _ _ e (by decide) q6 rfl rfl
  have n0 : ¬ (w = 0 ∨ w = 4294967295) := not_blank f30_25 (by decide) (by decide)
  clear e hw
  simp only [decode, n0, if_false, decodeFloat, f31_31, f30_25, f24_18, f17_11, f10_4, f3_0, bool_field, bits_field, need_some, Nat.add_zero]
  exact accept_ok hwf

theorem fminB2 (S : Bool) (d : BitVec 7) (a : BitVec 7) (b : BitVec 7) : Statement (.fminB2 S d a b) := by
  intro hwf w hw
  have e := (Option.some.inj hw).symm
  simp only [word_cons, word_nil, place_eq] at e
  replace e : w = pack [(1, S.toNat), (6, 19), (7, d.toNat), (7, a.toNat), (7, b.toNat), (4, 11)] := e.trans (by simp only [pack, total]; omega)
  have q6 : Fits [] := trivial
  have q5 : Fits [(4, 11)] := ⟨by decide, q6⟩
  have q4 : Fits [(7, b.toNat), (4, 11)] := ⟨b.isLt, q5⟩
  have q3 : Fits [(7, a.toNat), (7, b.toNat), (4, 11)] := ⟨a.isLt, q4⟩
  have q2 : Fits [(7, d.toNat), (7, a.toNat), (7, b.toNat), (4, 11)] := ⟨d.isLt, q3⟩
  have f31_31 : fld w 31 31 = S.toNat := fld_pack [] 0 _ _ e (S.toNat_lt) ⟨by decide, q2⟩ rfl rfl
  have f30_25 : fld w 30 25 = 19 := fld_pack [(1, S.toNat)] 5 _ _ e (by decide) q2 rfl rfl
  have f24_18 : fld w 24 18 = d.toNat := fld_pack [(1, S.toNat), (6, 19)] 6 _ _ e (d.isLt) q3 rfl rfl
  have f17_11 : fld w 17 11 = a.toNat := fld_pack [(1, S.toNat), (6, 19), (7, d.toNat)] 6 _ _ e (a.isLt) q4 rfl rfl
  have f10_4 : fld w 10 4 = b.toNat := fld_pack [(1, S.toNat), (6, 19), (7, d.toNat), (7, a.toNat)] 6 _ _ e (b.isLt) q5 rfl rfl
  have f3_0 : fld w 3 0 = 11 := fld_pack [(1, S.toNat), (6, 19), (7, d.toNat), (7, a.toNat), (7, b.toNat)] 3 _ _ e (by decide) q6 rfl rfl
  have n0 : ¬ (w = 0 ∨ w = 4294967295) := not_blank f30_25 (by decide) (by decide)
  clear e hw
  simp only [decode, n0, if_false, decodeFloat, f31_31, f30_25, f24_18, f17_11, f10_4, f3_0, bool_field, bits_field, need_some, Nat.add_zero]
  exact accept_ok hwf

theorem fmaxF32 (S : Bool) (d : BitVec 7) (a : BitVec 7) (b : BitVec 7) : Statement (.fmaxF32 S d a b) := by
  intro hwf w hw
  have e := (Option.some.inj hw).symm
  simp only [word_cons, word_nil, place_eq] at e
  replace e : w = pack [(1, S.toNat), (6, 19), (7, d.toNat), (7, a.toNat), (7, b.toNat), (4, 12)] := e.trans (by simp only [pack, total]; omega)
  have q6 : Fits [] := trivial
  have q5 : Fits [(4, 12)] := ⟨by decide, q6⟩
  have q4 : Fits [(7, b.toNat), (4, 12)] := ⟨b.isLt, q5⟩
  have q3 : Fits [(7, a.toNat), (7, b.toNat), (4, 12)] := ⟨a.isLt, q4⟩
  have q2 : Fits [(7, d.toNat), (7, a.toNat), (7, b.toNat), (4, 12)] := ⟨d.isLt, q3⟩
  have f31_31 : fld w 31 31 = S.toNat := fld_pack [] 0 _ _ e (S.toNat_lt) ⟨by decide, q2⟩ rfl rfl
  have f30_25 : fld w 30 25 = 19 := fld_pack [(1, S.toNat)] 5 _ _ e (by decide) q2 rfl rfl
  have f24_18 : fld w 24 18 = d.toNat := fld_pack [(1, S.toNat), (6, 19)] 6 _ _ e (d.isLt) q3 rfl rfl
  have f17_11 : fld w 17 11 = a.toNat := fld_pack [(1, S.toNat), (6, 19), (7, d.toNat)] 6 _ _ e (a.isLt) q4 rfl rfl
  have f10_4 : fld w 10 4 = b.toNat := fld_pack [(1, S.toNat), (6, 19), (7, d.toNat), (7, a.toNat)] 6 _ _ e (b.isLt) q5 rfl rfl
  have f3_0 : fld w 3 0 = 12 := fld_pack [(1, S.toNat), (6, 19), (7, d.toNat), (7, a.toNat), (7, b.toNat)] 3 _ _ e (by decide) q6 rfl rfl
  have n0 : ¬ (w = 0 ∨ w = 4294967295) := not_blank f30_25 (by decide) (by decide)
  clear e hw
  simp only [decode, n0, if_false, decodeFloat, f31_31, f30_25, f24_18, f17_11, f10_4, f3_0, bool_field, bits_field, need_some, Nat.add_zero]
  exact accept_ok hwf

theorem fmaxH2 (S : Bool) (d : BitVec 7) (a : BitVec 7) (b : BitVec 7) : Statement (.fmaxH2 S d a b) := by
  intro hwf w hw
  have e := (Option.some.inj hw).symm
  simp only [word_cons, word_nil, place_eq] at e
  replace e : w = pack [(1, S.toNat), (6, 19), (7, d.toNat), (7, a.toNat), (7, b.toNat), (4, 13)] := e.trans (by simp only [pack, total]; omega)
  have q6 : Fits [] := trivial
  have q5 : Fits [(4, 13)] := ⟨by decide, q6⟩
  have q4 : Fits [(7, b.toNat), (4, 13)] := ⟨b.isLt, q5⟩
  have q3 : Fits [(7, a.toNat), (7, b.toNat), (4, 13)] := ⟨a.isLt, q4⟩
  have q2 : Fits [(7, d.toNat), (7, a.toNat), (7, b.toNat), (4, 13)] := ⟨d.isLt, q3⟩
  have f31_31 : fld w 31 31 = S.toNat := fld_pack [] 0 _ _ e (S.toNat_lt) ⟨by decide, q2⟩ rfl rfl
  have f30_25 : fld w 30 25 = 19 := fld_pack [(1, S.toNat)] 5 _ _ e (by decide) q2 rfl rfl
  have f24_18 : fld w 24 18 = d.toNat := fld_pack [(1, S.toNat), (6, 19)] 6 _ _ e (d.isLt) q3 rfl rfl
  have f17_11 : fld w 17 11 = a.toNat := fld_pack [(1, S.toNat), (6, 19), (7, d.toNat)] 6 _ _ e (a.isLt) q4 rfl rfl
  have f10_4 : fld w 10 4 = b.toNat := fld_pack [(1, S.toNat), (6, 19), (7, d.toNat), (7, a.toNat)] 6 _ _ e (b.isLt) q5 rfl rfl
  have f3_0 : fld w 3 0 = 13 := fld_pack [(1, S.toNat), (6, 19), (7, d.toNat), (7, a.toNat), (7, b.toNat)] 3 _ _ e (by decide) q6 rfl rfl
  have n0 : ¬ (w = 0 ∨ w = 4294967295) := not_blank f30_25 (by decide) (by decide)
  clear e hw
  simp only [decode, n0, if_false, decodeFloat, f31_31, f30_25, f24_18, f17_11, f10_4, f3_0, bool_field, bits_field, need_some, Nat.add_zero]
  exact accept_ok hwf

theorem fmaxB2 (S : Bool) (d : BitVec 7) (a : BitVec 7) (b : BitVec 7) : Statement (.fmaxB2 S d a b) := by
  intro hwf w hw
  have e := (Option.some.inj hw).symm
  simp only [word_cons, word_nil, place_eq] at e
  replace e : w = pack [(1, S.toNat), (6, 19), (7, d.toNat), (7, a.toNat), (7, b.toNat), (4, 14)] := e.trans (by simp only [pack, total]; omega)
  have q6 : Fits [] := trivial
  have q5 : Fits [(4, 14)] := ⟨by decide, q6⟩
  have q4 : Fits [(7, b.toNat), (4, 14)] := ⟨b.isLt, q5⟩
  have q3 : Fits [(7, a.toNat), (7, b.toNat), (4, 14)] := ⟨a.isLt, q4⟩
  have q2 : Fits [(7, d.toNat), (7, a.toNat), (7, b.toNat), (4, 14)] := ⟨d.isLt, q3⟩
  have f31_31 : fld w 31 31 = S.toNat := fld_pack [] 0 _ _ e (S.toNat_lt) ⟨by decide, q2⟩ rfl rfl
  have f30_25 : fld w 30 25 = 19 := fld_pack [(1, S.toNat)] 5 _ _ e (by decide) q2 rfl rfl
  have f24_18 : fld w 24 18 = d.toNat := fld_pack [(1, S.toNat), (6, 19)] 6 _ _ e (d.isLt) q3 rfl rfl
  have f17_11 : fld w 17 11 = a.toNat := fld_pack [(1, S.toNat), (6, 19), (7, d.toNat)] 6 _ _ e (a.isLt) q4 rfl rfl
  have f10_4 : fld w 10 4 = b.toNat := fld_pack [(1, S.toNat), (6, 19), (7, d.toNat), (7, a.toNat)] 6 _ _ e (b.isLt) q5 rfl rfl
  have f3_0 : fld w 3 0 = 14 := fld_pack [(1, S.toNat), (6, 19), (7, d.toNat), (7, a.toNat), (7, b.toNat)] 3 _ _ e (by decide) q6 rfl rfl
  have n0 : ¬ (w = 0 ∨ w = 4294967295) := not_blank f30_25 (by decide) (by decide)
  clear e hw
  simp only [decode, n0, if_false, decodeFloat, f31_31, f30_25, f24_18, f17_11, f10_4, f3_0, bool_field, bits_field, need_some, Nat.add_zero]
  exact accept_ok hwf

theorem ffmaF32 (S : Bool) (d : BitVec 7) (a : BitVec 7) (b : BitVec 7) : Statement (.ffmaF32 S d a b) := by
  intro hwf w hw
  have e := (Option.some.inj hw).symm
  simp only [word_cons, word_nil, place_eq] at e
  replace e : w = pack [(1, S.toNat), (6, 20), (7, d.toNat), (7, a.toNat), (7, b.toNat), (4, 0)] := e.trans (by simp only [pack, total]; omega)
  have q6 : Fits [] := trivial
  have q5 : Fits [(4, 0)] := ⟨Nat.two_pow_pos _, q6⟩
  have q4 : Fits [(7, b.toNat), (4, 0)] := ⟨b.isLt, q5⟩
  have q3 : Fits [(7, a.toNat), (7, b.toNat), (4, 0)] := ⟨a.isLt, q4⟩
  have q2 : Fits [(7, d.toNat), (7, a.toNat), (7, b.toNat), (4, 0)] := ⟨d.isLt, q3⟩
  have f31_31 : fld w 31 31 = S.toNat := fld_pack [] 0 _ _ e (S.toNat_lt) ⟨by decide, q2⟩ rfl rfl
  have f30_25 : fld w 30 25 = 20 := fld_pack [(1, S.toNat)] 5 _ _ e (by decide) q2 rfl rfl
  have f24_18 : fld w 24 18 = d.toNat := fld_pack [(1, S.toNat), (6, 20)] 6 _ _ e (d.isLt) q3 rfl rfl
  have f17_11 : fld w 17 11 = a.toNat := fld_pack [(1, S.toNat), (6, 20), (7, d.toNat)] 6 _ _ e (a.isLt) q4 rfl rfl
  have f10_4 : fld w 10 4 = b.toNat := fld_pack [(1, S.toNat), (6, 20), (7, d.toNat), (7, a.toNat)] 6 _ _ e (b.isLt) q5 rfl rfl
  have f3_0 : fld w 3 0 = 0 := fld_pack [(1, S.toNat), (6, 20), (7, d.toNat), (7, a.toNat), (7, b.toNat)] 3 _ _ e (Nat.two_pow_pos _) q6 rfl rfl
  have n0 : ¬ (w = 0 ∨ w = 4294967295) := not_blank f30_25 (by decide) (by decide)
  clear e hw
  simp only [decode, n0, if_false, decodeFused, f31_31, f30_25, f24_18, f17_11, f10_4, f3_0, bool_field, bits_field, need_some, Nat.add_zero]
  exact accept_ok hwf

theorem ffmaH2 (S : Bool) (d : BitVec 7) (a : BitVec 7) (b : BitVec 7) : Statement (.ffmaH2 S d a b) := by
  intro hwf w hw
  have e := (Option.some.inj hw).symm
  simp only [word_cons, word_nil, place_eq] at e
  replace e : w = pack [(1, S.toNat), (6, 20), (7, d.toNat), (7, a.toNat), (7, b.toNat), (4, 1)] := e.trans (by simp only [pack, total]; omega)
  have q6 : Fits [] := trivial
  have q5 : Fits [(4, 1)] := ⟨by decide, q6⟩
  have q4 : Fits [(7, b.toNat), (4, 1)] := ⟨b.isLt, q5⟩
  have q3 : Fits [(7, a.toNat), (7, b.toNat), (4, 1)] := ⟨a.isLt, q4⟩
  have q2 : Fits [(7, d.toNat), (7, a.toNat), (7, b.toNat), (4, 1)] := ⟨d.isLt, q3⟩
  have f31_31 : fld w 31 31 = S.toNat := fld_pack [] 0 _ _ e (S.toNat_lt) ⟨by decide, q2⟩ rfl rfl
  have f30_25 : fld w 30 25 = 20 := fld_pack [(1, S.toNat)] 5 _ _ e (by decide) q2 rfl rfl
  have f24_18 : fld w 24 18 = d.toNat := fld_pack [(1, S.toNat), (6, 20)] 6 _ _ e (d.isLt) q3 rfl rfl
  have f17_11 : fld w 17 11 = a.toNat := fld_pack [(1, S.toNat), (6, 20), (7, d.toNat)] 6 _ _ e (a.isLt) q4 rfl rfl
  have f10_4 : fld w 10 4 = b.toNat := fld_pack [(1, S.toNat), (6, 20), (7, d.toNat), (7, a.toNat)] 6 _ _ e (b.isLt) q5 rfl rfl
  have f3_0 : fld w 3 0 = 1 := fld_pack [(1, S.toNat), (6, 20), (7, d.toNat), (7, a.toNat), (7, b.toNat)] 3 _ _ e (by decide) q6 rfl rfl
  have n0 : ¬ (w = 0 ∨ w = 4294967295) := not_blank f30_25 (by decide) (by decide)
  clear e hw
  simp only [decode, n0, if_false, decodeFused, f31_31, f30_25, f24_18, f17_11, f10_4, f3_0, bool_field, bits_field, need_some, Nat.add_zero]
  exact accept_ok hwf

theorem ffmaB2 (S : Bool) (d : BitVec 7) (a : BitVec 7) (b : BitVec 7) : Statement (.ffmaB2 S d a b) := by
  intro hwf w hw
  have e := (Option.some.inj hw).symm
  simp only [word_cons, word_nil, place_eq] at e
  replace e : w = pack [(1, S.toNat), (6, 20), (7, d.toNat), (7, a.toNat), (7, b.toNat), (4, 2)] := e.trans (by simp only [pack, total]; omega)
  have q6 : Fits [] := trivial
  have q5 : Fits [(4, 2)] := ⟨by decide, q6⟩
  have q4 : Fits [(7, b.toNat), (4, 2)] := ⟨b.isLt, q5⟩
  have q3 : Fits [(7, a.toNat), (7, b.toNat), (4, 2)] := ⟨a.isLt, q4⟩
  have q2 : Fits [(7, d.toNat), (7, a.toNat), (7, b.toNat), (4, 2)] := ⟨d.isLt, q3⟩
  have f31_31 : fld w 31 31 = S.toNat := fld_pack [] 0 _ _ e (S.toNat_lt) ⟨by decide, q2⟩ rfl rfl
  have f30_25 : fld w 30 25 = 20 := fld_pack [(1, S.toNat)] 5 _ _ e (by decide) q2 rfl rfl
  have f24_18 : fld w 24 18 = d.toNat := fld_pack [(1, S.toNat), (6, 20)] 6 _ _ e (d.isLt) q3 rfl rfl
  have f17_11 : fld w 17 11 = a.toNat := fld_pack [(1, S.toNat), (6, 20), (7, d.toNat)] 6 _ _ e (a.isLt) q4 rfl rfl
  have f10_4 : fld w 10 4 = b.toNat := fld_pack [(1, S.toNat), (6, 20), (7, d.toNat), (7, a.toNat)] 6 _ _ e (b.isLt) q5 rfl rfl
  have f3_0 : fld w 3 0 = 2 := fld_pack [(1, S.toNat), (6, 20), (7, d.toNat), (7, a.toNat), (7, b.toNat)] 3 _ _ e (by decide) q6 rfl rfl
  have n0 : ¬ (w = 0 ∨ w = 4294967295) := not_blank f30_25 (by decide) (by decide)
  clear e hw
  simp only [decode, n0, if_false, decodeFused, f31_31, f30_25, f24_18, f17_11, f10_4, f3_0, bool_field, bits_field, need_some, Nat.add_zero]
  exact accept_ok hwf

theorem ffmsF32 (S : Bool) (d : BitVec 7) (a : BitVec 7) (b : BitVec 7) : Statement (.ffmsF32 S d a b) := by
  intro hwf w hw
  have e := (Option.some.inj hw).symm
  simp only [word_cons, word_nil, place_eq] at e
  replace e : w = pack [(1, S.toNat), (6, 20), (7, d.toNat), (7, a.toNat), (7, b.toNat), (4, 3)] := e.trans (by simp only [pack, total]; omega)
  have q6 : Fits [] := trivial
  have q5 : Fits [(4, 3)] := ⟨by decide, q6⟩
  have q4 : Fits [(7, b.toNat), (4, 3)] := ⟨b.isLt, q5⟩
  have q3 : Fits [(7, a.toNat), (7, b.toNat), (4, 3)] := ⟨a.isLt, q4⟩
  have q2 : Fits [(7, d.toNat), (7, a.toNat), (7, b.toNat), (4, 3)] := ⟨d.isLt, q3⟩
  have f31_31 : fld w 31 31 = S.toNat := fld_pack [] 0 _ _ e (S.toNat_lt) ⟨by decide, q2⟩ rfl rfl
  have f30_25 : fld w 30 25 = 20 := fld_pack [(1, S.toNat)] 5 _ _ e (by decide) q2 rfl rfl
  have f24_18 : fld w 24 18 = d.toNat := fld_pack [(1, S.toNat), (6, 20)] 6 _ _ e (d.isLt) q3 rfl rfl
  have f17_11 : fld w 17 11 = a.toNat := fld_pack [(1, S.toNat), (6, 20), (7, d.toNat)] 6 _ _ e (a.isLt) q4 rfl rfl
  have f10_4 : fld w 10 4 = b.toNat := fld_pack [(1, S.toNat), (6, 20), (7, d.toNat), (7, a.toNat)] 6 _ _ e (b.isLt) q5 rfl rfl
  have f3_0 : fld w 3 0 = 3 := fld_pack [(1, S.toNat), (6, 20), (7, d.toNat), (7, a.toNat), (7, b.toNat)] 3 _ _ e (by decide) q6 rfl rfl
  have n0 : ¬ (w = 0 ∨ w = 4294967295) := not_blank f30_25 (by decide) (by decide)
  clear e hw
  simp only [decode, n0, if_false, decodeFused, f31_31, f30_25, f24_18, f17_11, f10_4, f3_0, bool_field, bits_field, need_some, Nat.add_zero]
  exact accept_ok hwf

theorem ffmsH2 (S : Bool) (d : BitVec 7) (a : BitVec 7) (b : BitVec 7) : Statement (.ffmsH2 S d a b) := by
  intro hwf w hw
  have e := (Option.some.inj hw).symm
  simp only [word_cons, word_nil, place_eq] at e
  replace e : w = pack [(1, S.toNat), (6, 20), (7, d.toNat), (7, a.toNat), (7, b.toNat), (4, 4)] := e.trans (by simp only [pack, total]; omega)
  have q6 : Fits [] := trivial
  have q5 : Fits [(4, 4)] := ⟨by decide, q6⟩
  have q4 : Fits [(7, b.toNat), (4, 4)] := ⟨b.isLt, q5⟩
  have q3 : Fits [(7, a.toNat), (7, b.toNat), (4, 4)] := ⟨a.isLt, q4⟩
  have q2 : Fits [(7, d.toNat), (7, a.toNat), (7, b.toNat), (4, 4)] := ⟨d.isLt, q3⟩
  have f31_31 : fld w 31 31 = S.toNat := fld_pack [] 0 _ _ e (S.toNat_lt) ⟨by decide, q2⟩ rfl rfl
  have f30_25 : fld w 30 25 = 20 := fld_pack [(1, S.toNat)] 5 _ _ e (by decide) q2 rfl rfl
  have f24_18 : fld w 24 18 = d.toNat := fld_pack [(1, S.toNat), (6, 20)] 6 _ _ e (d.isLt) q3 rfl rfl
  have f17_11 : fld w 17 11 = a.toNat := fld_pack [(1, S.toNat), (6, 20), (7, d.toNat)] 6 _ _ e (a.isLt) q4 rfl rfl
  have f10_4 : fld w 10 4 = b.toNat := fld_pack [(1, S.toNat), (6, 20), (7, d.toNat), (7, a.toNat)] 6 _ _ e (b.isLt) q5 rfl rfl
  have f3_0 : fld w 3 0 = 4 := fld_pack [(1, S.toNat), (6, 20), (7, d.toNat), (7, a.toNat), (7, b.toNat)] 3 _ _ e (by decide) q6 rfl rfl
  have n0 : ¬ (w = 0 ∨ w = 4294967295) := not_blank f30_25 (by decide) (by decide)
  clear e hw
  simp only [decode, n0, if_false, decodeFused, f31_31, f30_25, f24_18, f17_11, f10_4, f3_0, bool_field, bits_field, need_some, Nat.add_zero]
  exact accept_ok hwf

theorem ffmsB2 (S : Bool) (d : BitVec 7) (a : BitVec 7) (b : BitVec 7) : Statement (.ffmsB2 S d a b) := by
  intro hwf w hw
  have e := (Option.some.inj hw).symm
  simp only [word_cons, word_nil, place_eq] at e
  replace e : w = pack [(1, S.toNat), (6, 20), (7, d.toNat), (7, a.toNat), (7, b.toNat), (4, 5)] := e.trans (by simp only [pack, total]; omega)
  have q6 : Fits [] := trivial
  have q5 : Fits [(4, 5)] := ⟨by decide, q6⟩
  have q4 : Fits [(7, b.toNat), (4, 5)] := ⟨b.isLt, q5⟩
  have q3 : Fits [(7, a.toNat), (7, b.toNat), (4, 5)] := ⟨a.isLt, q4⟩
  have q2 : Fits [(7, d.toNat), (7, a.toNat), (7, b.toNat), (4, 5)] := ⟨d.isLt, q3⟩
  have f31_31 : fld w 31 31 = S.toNat := fld_pack [] 0 _ _ e (S.toNat_lt) ⟨by decide, q2⟩ rfl rfl
  have f30_25 : fld w 30 25 = 20 := fld_pack [(1, S.toNat)] 5 _ _ e (by decide) q2 rfl rfl
  have f24_18 : fld w 24 18 = d.toNat := fld_pack [(1, S.toNat), (6, 20)] 6 _ _ e (d.isLt) q3 rfl rfl
  have f17_11 : fld w 17 11 = a.toNat := fld_pack [(1, S.toNat), (6, 20), (7, d.toNat)] 6 _ _ e (a.isLt) q4 rfl rfl
  have f10_4 : fld w 10 4 = b.toNat := fld_pack [(1, S.toNat), (6, 20), (7, d.toNat), (7, a.toNat)] 6 _ _ e (b.isLt) q5 rfl rfl
  have f3_0 : fld w 3 0 = 5 := fld_pack [(1, S.toNat), (6, 20), (7, d.toNat), (7, a.toNat), (7, b.toNat)] 3 _ _ e (by decide) q6 rfl rfl
  have n0 : ¬ (w = 0 ∨ w = 4294967295) := not_blank f30_25 (by decide) (by decide)
  clear e hw
  simp only [decode, n0, if_false, decodeFused, f31_31, f30_25, f24_18, f17_11, f10_4, f3_0, bool_field, bits_field, need_some, Nat.add_zero]
  exact accept_ok hwf

theorem fnmaF32 (S : Bool) (d : BitVec 7) (a : BitVec 7) (b : BitVec 7) : Statement (.fnmaF32 S d a b) := by
  intro hwf w hw
  have e := (Option.some.inj hw).symm
  simp only [word_cons, word_nil, place_eq] at e
  replace e : w = pack [(1, S.toNat), (6, 20), (7, d.toNat), (7, a.toNat), (7, b.toNat), (4, 6)] := e.trans (by simp only [pack, total]; omega)
  have q6 : Fits [] := trivial
  have q5 : Fits [(4, 6)] := ⟨by decide, q6⟩
  have q4 : Fits [(7, b.toNat), (4, 6)] := ⟨b.isLt, q5⟩
  have q3 : Fits [(7, a.toNat), (7, b.toNat), (4, 6)] := ⟨a.isLt, q4⟩
  have q2 : Fits [(7, d.toNat), (7, a.toNat), (7, b.toNat), (4, 6)] := ⟨d.isLt, q3⟩
  have f31_31 : fld w 31 31 = S.toNat := fld_pack [] 0 _ _ e (S.toNat_lt) ⟨by decide, q2⟩ rfl rfl
  have f30_25 : fld w 30 25 = 20 := fld_pack [(1, S.toNat)] 5 _ _ e (by decide) q2 rfl rfl
  have f24_18 : fld w 24 18 = d.toNat := fld_pack [(1, S.toNat), (6, 20)] 6 _ _ e (d.isLt) q3 rfl rfl
  have f17_11 : fld w 17 11 = a.toNat := fld_pack [(1, S.toNat), (6, 20), (7, d.toNat)] 6 _ _ e (a.isLt) q4 rfl rfl
  have f10_4 : fld w 10 4 = b.toNat := fld_pack [(1, S.toNat), (6, 20), (7, d.toNat), (7, a.toNat)] 6 _ _ e (b.isLt) q5 rfl rfl
  have f3_0 : fld w 3 0 = 6 := fld_pack [(1, S.toNat), (6, 20), (7, d.toNat), (7, a.toNat), (7, b.toNat)] 3 _ _ e (by decide) q6 rfl rfl
  have n0 : ¬ (w = 0 ∨ w = 4294967295) := not_blank f30_25 (by decide) (by decide)
  clear e hw
  simp only [decode, n0, if_false, decodeFused, f31_31, f30_25, f24_18, f17_11, f10_4, f3_0, bool_field, bits_field, need_some, Nat.add_zero]
  exact accept_ok hwf

theorem fnmaH2 (S : Bool) (d : BitVec 7) (a : BitVec 7) (b : BitVec 7) : Statement (.fnmaH2 S d a b) := by
  intro hwf w hw
  have e := (Option.some.inj hw).symm
  simp only [word_cons, word_nil, place_eq] at e
  replace e : w = pack [(1, S.toNat), (6, 20), (7, d.toNat), (7, a.toNat), (7, b.toNat), (4, 7)] := e.trans (by simp only [pack, total]; omega)
  have q6 : Fits [] := trivial
  have q5 : Fits [(4, 7)] := ⟨by decide, q6⟩
  have q4 : Fits [(7, b.toNat), (4, 7)] := ⟨b.isLt, q5⟩
  have q3 : Fits [(7, a.toNat), (7, b.toNat), (4, 7)] := ⟨a.isLt, q4⟩
  have q2 : Fits [(7, d.toNat), (7, a.toNat), (7, b.toNat), (4, 7)] := ⟨d.isLt, q3⟩
  have f31_31 : fld w 31 31 = S.toNat := fld_pack [] 0 _ _ e (S.toNat_lt) ⟨by decide, q2⟩ rfl rfl
  have f30_25 : fld w 30 25 = 20 := fld_pack [(1, S.toNat)] 5 _ _ e (by decide) q2 rfl rfl
  have f24_18 : fld w 24 18 = d.toNat := fld_pack [(1, S.toNat), (6, 20)] 6 _ _ e (d.isLt) q3 rfl rfl
  have f17_11 : fld w 17 11 = a.toNat := fld_pack [(1, S.toNat), (6, 20), (7, d.toNat)] 6 _ _ e (a.isLt) q4 rfl rfl
  have f10_4 : fld w 10 4 = b.toNat := fld_pack [(1, S.toNat), (6, 20), (7, d.toNat), (7, a.toNat)] 6 _ _ e (b.isLt) q5 rfl rfl
  have f3_0 : fld w 3 0 = 7 := fld_pack [(1, S.toNat), (6, 20), (7, d.toNat), (7, a.toNat), (7, b.toNat)] 3 _ _ e (by decide) q6 rfl rfl
  have n0 : ¬ (w = 0 ∨ w = 4294967295) := not_blank f30_25 (by decide) (by decide)
  clear e hw
  simp only [decode, n0, if_false, decodeFused, f31_31, f30_25, f24_18, f17_11, f10_4, f3_0, bool_field, bits_field, need_some, Nat.add_zero]
  exact accept_ok hwf

theorem fnmaB2 (S : Bool) (d : BitVec 7) (a : BitVec 7) (b : BitVec 7) : Statement (.fnmaB2 S d a b) := by
  intro hwf w hw
  have e := (Option.some.inj hw).symm
  simp only [word_cons, word_nil, place_eq] at e
  replace e : w = pack [(1, S.toNat), (6, 20), (7, d.toNat), (7, a.toNat), (7, b.toNat), (4, 8)] := e.trans (by simp only [pack, total]; omega)
  have q6 : Fits [] := trivial
  have q5 : Fits [(4, 8)] := ⟨by decide, q6⟩
  have q4 : Fits [(7, b.toNat), (4, 8)] := ⟨b.isLt, q5⟩
  have q3 : Fits [(7, a.toNat), (7, b.toNat), (4, 8)] := ⟨a.isLt, q4⟩
  have q2 : Fits [(7, d.toNat), (7, a.toNat), (7, b.toNat), (4, 8)] := ⟨d.isLt, q3⟩
  have f31_31 : fld w 31 31 = S.toNat := fld_pack [] 0 _ _ e (S.toNat_lt) ⟨by decide, q2⟩ rfl rfl
  have f30_25 : fld w 30 25 = 20 := fld_pack [(1, S.toNat)] 5 _ _ e (by decide) q2 rfl rfl
  have f24_18 : fld w 24 18 = d.toNat := fld_pack [(1, S.toNat), (6, 20)] 6 _ _ e (d.isLt) q3 rfl rfl
  have f17_11 : fld w 17 11 = a.toNat := fld_pack [(1, S.toNat), (6, 20), (7, d.toNat)] 6 _ _ e (a.isLt) q4 rfl rfl
  have f10_4 : fld w 10 4 = b.toNat := fld_pack [(1, S.toNat), (6, 20), (7, d.toNat), (7, a.toNat)] 6 _ _ e (b.isLt) q5 rfl rfl
  have f3_0 : fld w 3 0 = 8 := fld_pack [(1, S.toNat), (6, 20), (7, d.toNat), (7, a.toNat), (7, b.toNat)] 3 _ _ e (by decide) q6 rfl rfl
  have n0 : ¬ (w = 0 ∨ w = 4294967295) := not_blank f30_25 (by decide) (by decide)
  clear e hw
  simp only [decode, n0, if_false, decodeFused, f31_31, f30_25, f24_18, f17_11, f10_4, f3_0, bool_field, bits_field, need_some, Nat.add_zero]
  exact accept_ok hwf

theorem ffmawH (S : Bool) (d : BitVec 7) (a : BitVec 7) (b : BitVec 7) : Statement (.ffmawH S d a b) := by
  intro hwf w hw
  have e := (Option.some.inj hw).symm
  simp only [word_cons, word_nil, place_eq] at e
  replace e : w = pack [(1, S.toNat), (6, 20), (7, d.toNat), (7, a.toNat), (7, b.toNat), (4, 9)] := e.trans (by simp only [pack, total]; omega)
  have q6 : Fits [] := trivial
  have q5 : Fits [(4, 9)] := ⟨by decide, q6⟩
  have q4 : Fits [(7, b.toNat), (4, 9)] := ⟨b.isLt, q5⟩
  have q3 : Fits [(7, a.toNat), (7, b.toNat), (4, 9)] := ⟨a.isLt, q4⟩
  have q2 : Fits [(7, d.toNat), (7, a.toNat), (7, b.toNat), (4, 9)] := ⟨d.isLt, q3⟩
  have f31_31 : fld w 31 31 = S.toNat := fld_pack [] 0 _ _ e (S.toNat_lt) ⟨by decide, q2⟩ rfl rfl
  have f30_25 : fld w 30 25 = 20 := fld_pack [(1, S.toNat)] 5 _ _ e (by decide) q2 rfl rfl
  have f24_18 : fld w 24 18 = d.toNat := fld_pack [(1, S.toNat), (6, 20)] 6 _ _ e (d.isLt) q3 rfl rfl
  have f17_11 : fld w 17 11 = a.toNat := fld_pack [(1, S.toNat), (6, 20), (7, d.toNat)] 6 _ _ e (a.isLt) q4 rfl rfl
  have f10_4 : fld w 10 4 = b.toNat := fld_pack [(1, S.toNat), (6, 20), (7, d.toNat), (7, a.toNat)] 6 _ _ e (b.isLt) q5 rfl rfl
  have f3_0 : fld w 3 0 = 9 := fld_pack [(1, S.toNat), (6, 20), (7, d.toNat), (7, a.toNat), (7, b.toNat)] 3 _ _ e (by decide) q6 rfl rfl
  have n0 : ¬ (w = 0 ∨ w = 4294967295) := not_blank f30_25 (by decide) (by decide)
  clear e hw
  simp only [decode, n0, if_false, decodeFused, f31_31, f30_25, f24_18, f17_11, f10_4, f3_0, bool_field, bits_field, need_some, Nat.add_zero]
  exact accept_ok hwf

theorem ffmawB (S : Bool) (d : BitVec 7) (a : BitVec 7) (b : BitVec 7) : Statement (.ffmawB S d a b) := by
  intro hwf w hw
  have e := (Option.some.inj hw).symm
  simp only [word_cons, word_nil, place_eq] at e
  replace e : w = pack [(1, S.toNat), (6, 20), (7, d.toNat), (7, a.toNat), (7, b.toNat), (4, 10)] := e.trans (by simp only [pack, total]; omega)
  have q6 : Fits [] := trivial
  have q5 : Fits [(4, 10)] := ⟨by decide, q6⟩
  have q4 : Fits [(7, b.toNat), (4, 10)] := ⟨b.isLt, q5⟩
  have q3 : Fits [(7, a.toNat), (7, b.toNat), (4, 10)] := ⟨a.isLt, q4⟩
  have q2 : Fits [(7, d.toNat), (7, a.toNat), (7, b.toNat), (4, 10)] := ⟨d.isLt, q3⟩
  have f31_31 : fld w 31 31 = S.toNat := fld_pack [] 0 _ _ e (S.toNat_lt) ⟨by decide, q2⟩ rfl rfl
  have f30_25 : fld w 30 25 = 20 := fld_pack [(1, S.toNat)] 5 _ _ e (by decide) q2 rfl rfl
  have f24_18 : fld w 24 18 = d.toNat := fld_pack [(1, S.toNat), (6, 20)] 6 _ _ e (d.isLt) q3 rfl rfl
  have f17_11 : fld w 17 11 = a.toNat := fld_pack [(1, S.toNat), (6, 20), (7, d.toNat)] 6 _ _ e (a.isLt) q4 rfl rfl
  have f10_4 : fld w 10 4 = b.toNat := fld_pack [(1, S.toNat), (6, 20), (7, d.toNat), (7, a.toNat)] 6 _ _ e (b.isLt) q5 rfl rfl
  have f3_0 : fld w 3 0 = 10 := fld_pack [(1, S.toNat), (6, 20), (7, d.toNat), (7, a.toNat), (7, b.toNat)] 3 _ _ e (by decide) q6 rfl rfl
  have n0 : ¬ (w = 0 ∨ w = 4294967295) := not_blank f30_25 (by decide) (by decide)
  clear e hw
  simp only [decode, n0, if_false, decodeFused, f31_31, f30_25, f24_18, f17_11, f10_4, f3_0, bool_field, bits_field, need_some, Nat.add_zero]
  exact accept_ok hwf

theorem frcp (S : Bool) (d : BitVec 7) (a : BitVec 7) (t : FTy) : Statement (.frcp S d a t) := by
  intro hwf w hw
  have e := (Option.some.inj hw).symm
  simp only [word_cons, word_nil, place_eq] at e
  replace e : w = pack [(1, S.toNat), (6, 21), (7, d.toNat), (7, a.toNat), (5, 0), (2, t.code), (4, 0)] := e.trans (by simp only [pack, total]; omega)
  have q7 : Fits [] := trivial
  have q6 : Fits [(4, 0)] := ⟨Nat.two_pow_pos _, q7⟩
  have q5 : Fits [(2, t.code), (4, 0)] := ⟨fty_bound t, q6⟩
  have q4 : Fits [(5, 0), (2, t.code), (4, 0)] := ⟨Nat.two_pow_pos _, q5⟩
  have q3 : Fits [(7, a.toNat), (5, 0), (2, t.code), (4, 0)] := ⟨a.isLt, q4⟩
  have q2 : Fits [(7, d.toNat), (7, a.toNat), (5, 0), (2, t.code), (4, 0)] := ⟨d.isLt, q3⟩
  have f31_31 : fld w 31 31 = S.toNat := fld_pack [] 0 _ _ e (S.toNat_lt) ⟨by decide, q2⟩ rfl rfl
  have f30_25 : fld w 30 25 = 21 := fld_pack [(1, S.toNat)] 5 _ _ e (by decide) q2 rfl rfl
  have f24_18 : fld w 24 18 = d.toNat := fld_pack [(1, S.toNat), (6, 21)] 6 _ _ e (d.isLt) q3 rfl rfl
  have f17_11 : fld w 17 11 = a.toNat := fld_pack [(1, S.toNat), (6, 21), (7, d.toNat)] 6 _ _ e (a.isLt) q4 rfl rfl
  have f10_6 : fld w 10 6 = 0 := fld_pack [(1, S.toNat), (6, 21), (7, d.toNat), (7, a.toNat)] 4 _ _ e (Nat.two_pow_pos _) q5 rfl rfl
  have f5_4 : fld w 5 4 = t.code := fld_pack [(1, S.toNat), (6, 21), (7, d.toNat), (7, a.toNat), (5, 0)] 1 _ _ e (fty_bound t) q6 rfl rfl
  have f3_0 : fld w 3 0 = 0 := fld_pack [(1, S.toNat), (6, 21), (7, d.toNat), (7, a.toNat), (5, 0), (2, t.code)] 3 _ _ e (Nat.two_pow_pos _) q7 rfl rfl
  have n0 : ¬ (w = 0 ∨ w = 4294967295) := not_blank f30_25 (by decide) (by decide)
  clear e hw
  simp only [decode, n0, if_false, decodeUnary, f31_31, f30_25, f24_18, f17_11, f10_6, f5_4, f3_0, bool_field, bits_field, need_some, Nat.add_zero, fty_code]
  exact accept_ok hwf

theorem frsqrt (S : Bool) (d : BitVec 7) (a : BitVec 7) (t : FTy) : Statement (.frsqrt S d a t) := by
  intro hwf w hw
  have e := (Option.some.inj hw).symm
  simp only [word_cons, word_nil, place_eq] at e
  replace e : w = pack [(1, S.toNat), (6, 21), (7, d.toNat), (7, a.toNat), (5, 0), (2, t.code), (4, 1)] := e.trans (by simp only [pack, total]; omega)
  have q7 : Fits [] := trivial
  have q6 : Fits [(4, 1)] := ⟨by decide, q7⟩
  have q5 : Fits [(2, t.code), (4, 1)] := ⟨fty_bound t, q6⟩
  have q4 : Fits [(5, 0), (2, t.code), (4, 1)] := ⟨Nat.two_pow_pos _, q5⟩
  have q3 : Fits [(7, a.toNat), (5, 0), (2, t.code), (4, 1)] := ⟨a.isLt, q4⟩
  have q2 : Fits [(7, d.toNat), (7, a.toNat), (5, 0), (2, t.code), (4, 1)] := ⟨d.isLt, q3⟩
  have f31_31 : fld w 31 31 = S.toNat := fld_pack [] 0 _ _ e (S.toNat_lt) ⟨by decide, q2⟩ rfl rfl
  have f30_25 : fld w 30 25 = 21 := fld_pack [(1, S.toNat)] 5 _ _ e (by decide) q2 rfl rfl
  have f24_18 : fld w 24 18 = d.toNat := fld_pack [(1, S.toNat), (6, 21)] 6 _ _ e (d.isLt) q3 rfl rfl
  have f17_11 : fld w 17 11 = a.toNat := fld_pack [(1, S.toNat), (6, 21), (7, d.toNat)] 6 _ _ e (a.isLt) q4 rfl rfl
  have f10_6 : fld w 10 6 = 0 := fld_pack [(1, S.toNat), (6, 21), (7, d.toNat), (7, a.toNat)] 4 _ _ e (Nat.two_pow_pos _) q5 rfl rfl
  have f5_4 : fld w 5 4 = t.code := fld_pack [(1, S.toNat), (6, 21), (7, d.toNat), (7, a.toNat), (5, 0)] 1 _ _ e (fty_bound t) q6 rfl rfl
  have f3_0 : fld w 3 0 = 1 := fld_pack [(1, S.toNat), (6, 21), (7, d.toNat), (7, a.toNat), (5, 0), (2, t.code)] 3 _ _ e (by decide) q7 rfl rfl
  have n0 : ¬ (w = 0 ∨ w = 4294967295) := not_blank f30_25 (by decide) (by decide)
  clear e hw
  simp only [decode, n0, if_false, decodeUnary, f31_31, f30_25, f24_18, f17_11, f10_6, f5_4, f3_0, bool_field, bits_field, need_some, Nat.add_zero, fty_code]
  exact accept_ok hwf

theorem fsqrt (S : Bool) (d : BitVec 7) (a : BitVec 7) (t : FTy) : Statement (.fsqrt S d a t) := by
  intro hwf w hw
  have e := (Option.some.inj hw).symm
  simp only [word_cons, word_nil, place_eq] at e
  replace e : w = pack [(1, S.toNat), (6, 21), (7, d.toNat), (7, a.toNat), (5, 0), (2, t.code), (4, 2)] := e.trans (by simp only [pack, total]; omega)
  have q7 : Fits [] := trivial
  have q6 : Fits [(4, 2)] := ⟨by decide, q7⟩
  have q5 : Fits [(2, t.code), (4, 2)] := ⟨fty_bound t, q6⟩
  have q4 : Fits [(5, 0), (2, t.code), (4, 2)] := ⟨Nat.two_pow_pos _, q5⟩
  have q3 : Fits [(7, a.toNat), (5, 0), (2, t.code), (4, 2)] := ⟨a.isLt, q4⟩
  have q2 : Fits [(7, d.toNat), (7, a.toNat), (5, 0), (2, t.code), (4, 2)] := ⟨d.isLt, q3⟩
  have f31_31 : fld w 31 31 = S.toNat := fld_pack [] 0 _ _ e (S.toNat_lt) ⟨by decide, q2⟩ rfl rfl
  have f30_25 : fld w 30 25 = 21 := fld_pack [(1, S.toNat)] 5 _ _ e (by decide) q2 rfl rfl
  have f24_18 : fld w 24 18 = d.toNat := fld_pack [(1, S.toNat), (6, 21)] 6 _ _ e (d.isLt) q3 rfl rfl
  have f17_11 : fld w 17 11 = a.toNat := fld_pack [(1, S.toNat), (6, 21), (7, d.toNat)] 6 _ _ e (a.isLt) q4 rfl rfl
  have f10_6 : fld w 10 6 = 0 := fld_pack [(1, S.toNat), (6, 21), (7, d.toNat), (7, a.toNat)] 4 _ _ e (Nat.two_pow_pos _) q5 rfl rfl
  have f5_4 : fld w 5 4 = t.code := fld_pack [(1, S.toNat), (6, 21), (7, d.toNat), (7, a.toNat), (5, 0)] 1 _ _ e (fty_bound t) q6 rfl rfl
  have f3_0 : fld w 3 0 = 2 := fld_pack [(1, S.toNat), (6, 21), (7, d.toNat), (7, a.toNat), (5, 0), (2, t.code)] 3 _ _ e (by decide) q7 rfl rfl
  have n0 : ¬ (w = 0 ∨ w = 4294967295) := not_blank f30_25 (by decide) (by decide)
  clear e hw
  simp only [decode, n0, if_false, decodeUnary, f31_31, f30_25, f24_18, f17_11, f10_6, f5_4, f3_0, bool_field, bits_field, need_some, Nat.add_zero, fty_code]
  exact accept_ok hwf

theorem fex2 (S : Bool) (d : BitVec 7) (a : BitVec 7) (t : FTy) : Statement (.fex2 S d a t) := by
  intro hwf w hw
  have e := (Option.some.inj hw).symm
  simp only [word_cons, word_nil, place_eq] at e
  replace e : w = pack [(1, S.toNat), (6, 21), (7, d.toNat), (7, a.toNat), (5, 0), (2, t.code), (4, 3)] := e.trans (by simp only [pack, total]; omega)
  have q7 : Fits [] := trivial
  have q6 : Fits [(4, 3)] := ⟨by decide, q7⟩
  have q5 : Fits [(2, t.code), (4, 3)] := ⟨fty_bound t, q6⟩
  have q4 : Fits [(5, 0), (2, t.code), (4, 3)] := ⟨Nat.two_pow_pos _, q5⟩
  have q3 : Fits [(7, a.toNat), (5, 0), (2, t.code), (4, 3)] := ⟨a.isLt, q4⟩
  have q2 : Fits [(7, d.toNat), (7, a.toNat), (5, 0), (2, t.code), (4, 3)] := ⟨d.isLt, q3⟩
  have f31_31 : fld w 31 31 = S.toNat := fld_pack [] 0 _ _ e (S.toNat_lt) ⟨by decide, q2⟩ rfl rfl
  have f30_25 : fld w 30 25 = 21 := fld_pack [(1, S.toNat)] 5 _ _ e (by decide) q2 rfl rfl
  have f24_18 : fld w 24 18 = d.toNat := fld_pack [(1, S.toNat), (6, 21)] 6 _ _ e (d.isLt) q3 rfl rfl
  have f17_11 : fld w 17 11 = a.toNat := fld_pack [(1, S.toNat), (6, 21), (7, d.toNat)] 6 _ _ e (a.isLt) q4 rfl rfl
  have f10_6 : fld w 10 6 = 0 := fld_pack [(1, S.toNat), (6, 21), (7, d.toNat), (7, a.toNat)] 4 _ _ e (Nat.two_pow_pos _) q5 rfl rfl
  have f5_4 : fld w 5 4 = t.code := fld_pack [(1, S.toNat), (6, 21), (7, d.toNat), (7, a.toNat), (5, 0)] 1 _ _ e (fty_bound t) q6 rfl rfl
  have f3_0 : fld w 3 0 = 3 := fld_pack [(1, S.toNat), (6, 21), (7, d.toNat), (7, a.toNat), (5, 0), (2, t.code)] 3 _ _ e (by decide) q7 rfl rfl
  have n0 : ¬ (w = 0 ∨ w = 4294967295) := not_blank f30_25 (by decide) (by decide)
  clear e hw
  simp only [decode, n0, if_false, decodeUnary, f31_31, f30_25, f24_18, f17_11, f10_6, f5_4, f3_0, bool_field, bits_field, need_some, Nat.add_zero, fty_code]
  exact accept_ok hwf

theorem flg2 (S : Bool) (d : BitVec 7) (a : BitVec 7) (t : FTy) : Statement (.flg2 S d a t) := by
  intro hwf w hw
  have e := (Option.some.inj hw).symm
  simp only [word_cons, word_nil, place_eq] at e
  replace e : w = pack [(1, S.toNat), (6, 21), (7, d.toNat), (7, a.toNat), (5, 0), (2, t.code), (4, 4)] := e.trans (by simp only [pack, total]; omega)
  have q7 : Fits [] := trivial
  have q6 : Fits [(4, 4)] := ⟨by decide, q7⟩
  have q5 : Fits [(2, t.code), (4, 4)] := ⟨fty_bound t, q6⟩
  have q4 : Fits [(5, 0), (2, t.code), (4, 4)] := ⟨Nat.two_pow_pos _, q5⟩
  have q3 : Fits [(7, a.toNat), (5, 0), (2, t.code), (4, 4)] := ⟨a.isLt, q4⟩
  have q2 : Fits [(7, d.toNat), (7, a.toNat), (5, 0), (2, t.code), (4, 4)] := ⟨d.isLt, q3⟩
  have f31_31 : fld w 31 31 = S.toNat := fld_pack [] 0 _ _ e (S.toNat_lt) ⟨by decide, q2⟩ rfl rfl
  have f30_25 : fld w 30 25 = 21 := fld_pack [(1, S.toNat)] 5 _ _ e (by decide) q2 rfl rfl
  have f24_18 : fld w 24 18 = d.toNat := fld_pack [(1, S.toNat), (6, 21)] 6 _ _ e (d.isLt) q3 rfl rfl
  have f17_11 : fld w 17 11 = a.toNat := fld_pack [(1, S.toNat), (6, 21), (7, d.toNat)] 6 _ _ e (a.isLt) q4 rfl rfl
  have f10_6 : fld w 10 6 = 0 := fld_pack [(1, S.toNat), (6, 21), (7, d.toNat), (7, a.toNat)] 4 _ _ e (Nat.two_pow_pos _) q5 rfl rfl
  have f5_4 : fld w 5 4 = t.code := fld_pack [(1, S.toNat), (6, 21), (7, d.toNat), (7, a.toNat), (5, 0)] 1 _ _ e (fty_bound t) q6 rfl rfl
  have f3_0 : fld w 3 0 = 4 := fld_pack [(1, S.toNat), (6, 21), (7, d.toNat), (7, a.toNat), (5, 0), (2, t.code)] 3 _ _ e (by decide) q7 rfl rfl
  have n0 : ¬ (w = 0 ∨ w = 4294967295) := not_blank f30_25 (by decide) (by decide)
  clear e hw
  simp only [decode, n0, if_false, decodeUnary, f31_31, f30_25, f24_18, f17_11, f10_6, f5_4, f3_0, bool_field, bits_field, need_some, Nat.add_zero, fty_code]
  exact accept_ok hwf

theorem fsinp (S : Bool) (d : BitVec 7) (a : BitVec 7) (t : FTy) : Statement (.fsinp S d a t) := by
  intro hwf w hw
  have e := (Option.some.inj hw).symm
  simp only [word_cons, word_nil, place_eq] at e
  replace e : w = pack [(1, S.toNat), (6, 21), (7, d.toNat), (7, a.toNat), (5, 0), (2, t.code), (4, 5)] := e.trans (by simp only [pack, total]; omega)
  have q7 : Fits [] := trivial
  have q6 : Fits [(4, 5)] := ⟨by decide, q7⟩
  have q5 : Fits [(2, t.code), (4, 5)] := ⟨fty_bound t, q6⟩
  have q4 : Fits [(5, 0), (2, t.code), (4, 5)] := ⟨Nat.two_pow_pos _, q5⟩
  have q3 : Fits [(7, a.toNat), (5, 0), (2, t.code), (4, 5)] := ⟨a.isLt, q4⟩
  have q2 : Fits [(7, d.toNat), (7, a.toNat), (5, 0), (2, t.code), (4, 5)] := ⟨d.isLt, q3⟩
  have f31_31 : fld w 31 31 = S.toNat := fld_pack [] 0 _ _ e (S.toNat_lt) ⟨by decide, q2⟩ rfl rfl
  have f30_25 : fld w 30 25 = 21 := fld_pack [(1, S.toNat)] 5 _ _ e (by decide) q2 rfl rfl
  have f24_18 : fld w 24 18 = d.toNat := fld_pack [(1, S.toNat), (6, 21)] 6 _ _ e (d.isLt) q3 rfl rfl
  have f17_11 : fld w 17 11 = a.toNat := fld_pack [(1, S.toNat), (6, 21), (7, d.toNat)] 6 _ _ e (a.isLt) q4 rfl rfl
  have f10_6 : fld w 10 6 = 0 := fld_pack [(1, S.toNat), (6, 21), (7, d.toNat), (7, a.toNat)] 4 _ _ e (Nat.two_pow_pos _) q5 rfl rfl
  have f5_4 : fld w 5 4 = t.code := fld_pack [(1, S.toNat), (6, 21), (7, d.toNat), (7, a.toNat), (5, 0)] 1 _ _ e (fty_bound t) q6 rfl rfl
  have f3_0 : fld w 3 0 = 5 := fld_pack [(1, S.toNat), (6, 21), (7, d.toNat), (7, a.toNat), (5, 0), (2, t.code)] 3 _ _ e (by decide) q7 rfl rfl
  have n0 : ¬ (w = 0 ∨ w = 4294967295) := not_blank f30_25 (by decide) (by decide)
  clear e hw
  simp only [decode, n0, if_false, decodeUnary, f31_31, f30_25, f24_18, f17_11, f10_6, f5_4, f3_0, bool_field, bits_field, need_some, Nat.add_zero, fty_code]
  exact accept_ok hwf

theorem fcosp (S : Bool) (d : BitVec 7) (a : BitVec 7) (t : FTy) : Statement (.fcosp S d a t) := by
  intro hwf w hw
  have e := (Option.some.inj hw).symm
  simp only [word_cons, word_nil, place_eq] at e
  replace e : w = pack [(1, S.toNat), (6, 21), (7, d.toNat), (7, a.toNat), (5, 0), (2, t.code), (4, 6)] := e.trans (by simp only [pack, total]; omega)
  have q7 : Fits [] := trivial
  have q6 : Fits [(4, 6)] := ⟨by decide, q7⟩
  have q5 : Fits [(2, t.code), (4, 6)] := ⟨fty_bound t, q6⟩
  have q4 : Fits [(5, 0), (2, t.code), (4, 6)] := ⟨Nat.two_pow_pos _, q5⟩
  have q3 : Fits [(7, a.toNat), (5, 0), (2, t.code), (4, 6)] := ⟨a.isLt, q4⟩
  have q2 : Fits [(7, d.toNat), (7, a.toNat), (5, 0), (2, t.code), (4, 6)] := ⟨d.isLt, q3⟩
  have f31_31 : fld w 31 31 = S.toNat := fld_pack [] 0 _ _ e (S.toNat_lt) ⟨by decide, q2⟩ rfl rfl
  have f30_25 : fld w 30 25 = 21 := fld_pack [(1, S.toNat)] 5 _ _ e (by decide) q2 rfl rfl
  have f24_18 : fld w 24 18 = d.toNat := fld_pack [(1, S.toNat), (6, 21)] 6 _ _ e (d.isLt) q3 rfl rfl
  have f17_11 : fld w 17 11 = a.toNat := fld_pack [(1, S.toNat), (6, 21), (7, d.toNat)] 6 _ _ e (a.isLt) q4 rfl rfl
  have f10_6 : fld w 10 6 = 0 := fld_pack [(1, S.toNat), (6, 21), (7, d.toNat), (7, a.toNat)] 4 _ _ e (Nat.two_pow_pos _) q5 rfl rfl
  have f5_4 : fld w 5 4 = t.code := fld_pack [(1, S.toNat), (6, 21), (7, d.toNat), (7, a.toNat), (5, 0)] 1 _ _ e (fty_bound t) q6 rfl rfl
  have f3_0 : fld w 3 0 = 6 := fld_pack [(1, S.toNat), (6, 21), (7, d.toNat), (7, a.toNat), (5, 0), (2, t.code)] 3 _ _ e (by decide) q7 rfl rfl
  have n0 : ¬ (w = 0 ∨ w = 4294967295) := not_blank f30_25 (by decide) (by decide)
  clear e hw
  simp only [decode, n0, if_false, decodeUnary, f31_31, f30_25, f24_18, f17_11, f10_6, f5_4, f3_0, bool_field, bits_field, need_some, Nat.add_zero, fty_code]
  exact accept_ok hwf

theorem ftanh (S : Bool) (d : BitVec 7) (a : BitVec 7) (t : FTy) : Statement (.ftanh S d a t) := by
  intro hwf w hw
  have e := (Option.some.inj hw).symm
  simp only [word_cons, word_nil, place_eq] at e
  replace e : w = pack [(1, S.toNat), (6, 21), (7, d.toNat), (7, a.toNat), (5, 0), (2, t.code), (4, 7)] := e.trans (by simp only [pack, total]; omega)
  have q7 : Fits [] := trivial
  have q6 : Fits [(4, 7)] := ⟨by decide, q7⟩
  have q5 : Fits [(2, t.code), (4, 7)] := ⟨fty_bound t, q6⟩
  have q4 : Fits [(5, 0), (2, t.code), (4, 7)] := ⟨Nat.two_pow_pos _, q5⟩
  have q3 : Fits [(7, a.toNat), (5, 0), (2, t.code), (4, 7)] := ⟨a.isLt, q4⟩
  have q2 : Fits [(7, d.toNat), (7, a.toNat), (5, 0), (2, t.code), (4, 7)] := ⟨d.isLt, q3⟩
  have f31_31 : fld w 31 31 = S.toNat := fld_pack [] 0 _ _ e (S.toNat_lt) ⟨by decide, q2⟩ rfl rfl
  have f30_25 : fld w 30 25 = 21 := fld_pack [(1, S.toNat)] 5 _ _ e (by decide) q2 rfl rfl
  have f24_18 : fld w 24 18 = d.toNat := fld_pack [(1, S.toNat), (6, 21)] 6 _ _ e (d.isLt) q3 rfl rfl
  have f17_11 : fld w 17 11 = a.toNat := fld_pack [(1, S.toNat), (6, 21), (7, d.toNat)] 6 _ _ e (a.isLt) q4 rfl rfl
  have f10_6 : fld w 10 6 = 0 := fld_pack [(1, S.toNat), (6, 21), (7, d.toNat), (7, a.toNat)] 4 _ _ e (Nat.two_pow_pos _) q5 rfl rfl
  have f5_4 : fld w 5 4 = t.code := fld_pack [(1, S.toNat), (6, 21), (7, d.toNat), (7, a.toNat), (5, 0)] 1 _ _ e (fty_bound t) q6 rfl rfl
  have f3_0 : fld w 3 0 = 7 := fld_pack [(1, S.toNat), (6, 21), (7, d.toNat), (7, a.toNat), (5, 0), (2, t.code)] 3 _ _ e (by decide) q7 rfl rfl
  have n0 : ¬ (w = 0 ∨ w = 4294967295) := not_blank f30_25 (by decide) (by decide)
  clear e hw
  simp only [decode, n0, if_false, decodeUnary, f31_31, f30_25, f24_18, f17_11, f10_6, f5_4, f3_0, bool_field, bits_field, need_some, Nat.add_zero, fty_code]
  exact accept_ok hwf

theorem ffrac (S : Bool) (d : BitVec 7) (a : BitVec 7) (t : FTy) : Statement (.ffrac S d a t) := by
  intro hwf w hw
  have e := (Option.some.inj hw).symm
  simp only [word_cons, word_nil, place_eq] at e
  replace e : w = pack [(1, S.toNat), (6, 21), (7, d.toNat), (7, a.toNat), (5, 0), (2, t.code), (4, 8)] := e.trans (by simp only [pack, total]; omega)
  have q7 : Fits [] := trivial
  have q6 : Fits [(4, 8)] := ⟨by decide, q7⟩
  have q5 : Fits [(2, t.code), (4, 8)] := ⟨fty_bound t, q6⟩
  have q4 : Fits [(5, 0), (2, t.code), (4, 8)] := ⟨Nat.two_pow_pos _, q5⟩
  have q3 : Fits [(7, a.toNat), (5, 0), (2, t.code), (4, 8)] := ⟨a.isLt, q4⟩
  have q2 : Fits [(7, d.toNat), (7, a.toNat), (5, 0), (2, t.code), (4, 8)] := ⟨d.isLt, q3⟩
  have f31_31 : fld w 31 31 = S.toNat := fld_pack [] 0 _ _ e (S.toNat_lt) ⟨by decide, q2⟩ rfl rfl
  have f30_25 : fld w 30 25 = 21 := fld_pack [(1, S.toNat)] 5 _ _ e (by decide) q2 rfl rfl
  have f24_18 : fld w 24 18 = d.toNat := fld_pack [(1, S.toNat), (6, 21)] 6 _ _ e (d.isLt) q3 rfl rfl
  have f17_11 : fld w 17 11 = a.toNat := fld_pack [(1, S.toNat), (6, 21), (7, d.toNat)] 6 _ _ e (a.isLt) q4 rfl rfl
  have f10_6 : fld w 10 6 = 0 := fld_pack [(1, S.toNat), (6, 21), (7, d.toNat), (7, a.toNat)] 4 _ _ e (Nat.two_pow_pos _) q5 rfl rfl
  have f5_4 : fld w 5 4 = t.code := fld_pack [(1, S.toNat), (6, 21), (7, d.toNat), (7, a.toNat), (5, 0)] 1 _ _ e (fty_bound t) q6 rfl rfl
  have f3_0 : fld w 3 0 = 8 := fld_pack [(1, S.toNat), (6, 21), (7, d.toNat), (7, a.toNat), (5, 0), (2, t.code)] 3 _ _ e (by decide) q7 rfl rfl
  have n0 : ¬ (w = 0 ∨ w = 4294967295) := not_blank f30_25 (by decide) (by decide)
  clear e hw
  simp only [decode, n0, if_false, decodeUnary, f31_31, f30_25, f24_18, f17_11, f10_6, f5_4, f3_0, bool_field, bits_field, need_some, Nat.add_zero, fty_code]
  exact accept_ok hwf

theorem fclass (S : Bool) (d : BitVec 7) (a : BitVec 7) (t : FTy) : Statement (.fclass S d a t) := by
  intro hwf w hw
  have e := (Option.some.inj hw).symm
  simp only [word_cons, word_nil, place_eq] at e
  replace e : w = pack [(1, S.toNat), (6, 21), (7, d.toNat), (7, a.toNat), (5, 0), (2, t.code), (4, 9)] := e.trans (by simp only [pack, total]; omega)
  have q7 : Fits [] := trivial
  have q6 : Fits [(4, 9)] := ⟨by decide, q7⟩
  have q5 : Fits [(2, t.code), (4, 9)] := ⟨fty_bound t, q6⟩
  have q4 : Fits [(5, 0), (2, t.code), (4, 9)] := ⟨Nat.two_pow_pos _, q5⟩
  have q3 : Fits [(7, a.toNat), (5, 0), (2, t.code), (4, 9)] := ⟨a.isLt, q4⟩
  have q2 : Fits [(7, d.toNat), (7, a.toNat), (5, 0), (2, t.code), (4, 9)] := ⟨d.isLt, q3⟩
  have f31_31 : fld w 31 31 = S.toNat := fld_pack [] 0 _ _ e (S.toNat_lt) ⟨by decide, q2⟩ rfl rfl
  have f30_25 : fld w 30 25 = 21 := fld_pack [(1, S.toNat)] 5 _ _ e (by decide) q2 rfl rfl
  have f24_18 : fld w 24 18 = d.toNat := fld_pack [(1, S.toNat), (6, 21)] 6 _ _ e (d.isLt) q3 rfl rfl
  have f17_11 : fld w 17 11 = a.toNat := fld_pack [(1, S.toNat), (6, 21), (7, d.toNat)] 6 _ _ e (a.isLt) q4 rfl rfl
  have f10_6 : fld w 10 6 = 0 := fld_pack [(1, S.toNat), (6, 21), (7, d.toNat), (7, a.toNat)] 4 _ _ e (Nat.two_pow_pos _) q5 rfl rfl
  have f5_4 : fld w 5 4 = t.code := fld_pack [(1, S.toNat), (6, 21), (7, d.toNat), (7, a.toNat), (5, 0)] 1 _ _ e (fty_bound t) q6 rfl rfl
  have f3_0 : fld w 3 0 = 9 := fld_pack [(1, S.toNat), (6, 21), (7, d.toNat), (7, a.toNat), (5, 0), (2, t.code)] 3 _ _ e (by decide) q7 rfl rfl
  have n0 : ¬ (w = 0 ∨ w = 4294967295) := not_blank f30_25 (by decide) (by decide)
  clear e hw
  simp only [decode, n0, if_false, decodeUnary, f31_31, f30_25, f24_18, f17_11, f10_6, f5_4, f3_0, bool_field, bits_field, need_some, Nat.add_zero, fty_code]
  exact accept_ok hwf

theorem cvt (S : Bool) (d : BitVec 7) (a : BitVec 7) (y : TyCode) (z : TyCode) : Statement (.cvt S d a y z) := by
  intro hwf w hw
  have e := (Option.some.inj hw).symm
  simp only [word_cons, word_nil, place_eq] at e
  replace e : w = pack [(1, S.toNat), (6, 22), (7, d.toNat), (7, a.toNat), (4, y.code), (4, z.code), (3, 0)] := e.trans (by simp only [pack, total]; omega)
  have q7 : Fits [] := trivial
  have q6 : Fits [(3, 0)] := ⟨Nat.two_pow_pos _, q7⟩
  have q5 : Fits [(4, z.code), (3, 0)] := ⟨tycode_bound z, q6⟩
  have q4 : Fits [(4, y.code), (4, z.code), (3, 0)] := ⟨tycode_bound y, q5⟩
  have q3 : Fits [(7, a.toNat), (4, y.code), (4, z.code), (3, 0)] := ⟨a.isLt, q4⟩
  have q2 : Fits [(7, d.toNat), (7, a.toNat), (4, y.code), (4, z.code), (3, 0)] := ⟨d.isLt, q3⟩
  have f31_31 : fld w 31 31 = S.toNat := fld_pack [] 0 _ _ e (S.toNat_lt) ⟨by decide, q2⟩ rfl rfl
  have f30_25 : fld w 30 25 = 22 := fld_pack [(1, S.toNat)] 5 _ _ e (by decide) q2 rfl rfl
  have f24_18 : fld w 24 18 = d.toNat := fld_pack [(1, S.toNat), (6, 22)] 6 _ _ e (d.isLt) q3 rfl rfl
  have f17_11 : fld w 17 11 = a.toNat := fld_pack [(1, S.toNat), (6, 22), (7, d.toNat)] 6 _ _ e (a.isLt) q4 rfl rfl
  have f10_7 : fld w 10 7 = y.code := fld_pack [(1, S.toNat), (6, 22), (7, d.toNat), (7, a.toNat)] 3 _ _ e (tycode_bound y) q5 rfl rfl
  have f6_3 : fld w 6 3 = z.code := fld_pack [(1, S.toNat), (6, 22), (7, d.toNat), (7, a.toNat), (4, y.code)] 3 _ _ e (tycode_bound z) q6 rfl rfl
  have f2_0 : fld w 2 0 = 0 := fld_pack [(1, S.toNat), (6, 22), (7, d.toNat), (7, a.toNat), (4, y.code), (4, z.code)] 2 _ _ e (Nat.two_pow_pos _) q7 rfl rfl
  have n0 : ¬ (w = 0 ∨ w = 4294967295) := not_blank f30_25 (by decide) (by decide)
  clear e hw
  simp only [decode, n0, if_false, decodeVT, f31_31, f30_25, f24_18, f17_11, f10_7, f6_3, f2_0, bool_field, bits_field, need_some, Nat.add_zero, tycode_code]
  exact accept_ok hwf

theorem cvtmfE (S : Bool) (d : BitVec 7) (a : BitVec 7) (b : BitVec 5) : Statement (.cvtmfE S d a b) := by
  intro hwf w hw
  have e := (Option.some.inj hw).symm
  simp only [word_cons, word_nil, place_eq] at e
  replace e : w = pack [(1, S.toNat), (6, 22), (7, d.toNat), (7, a.toNat), (5, b.toNat), (3, 0), (3, 1)] := e.trans (by simp only [pack, total]; omega)
  have q7 : Fits [] := trivial
  have q6 : Fits [(3, 1)] := ⟨by decide, q7⟩
  have q5 : Fits [(3, 0), (3, 1)] := ⟨Nat.two_pow_pos _, q6⟩
  have q4 : Fits [(5, b.toNat), (3, 0), (3, 1)] := ⟨b.isLt, q5⟩
  have q3 : Fits [(7, a.toNat), (5, b.toNat), (3, 0), (3, 1)] := ⟨a.isLt, q4⟩
  have q2 : Fits [(7, d.toNat), (7, a.toNat), (5, b.toNat), (3, 0), (3, 1)] := ⟨d.isLt, q3⟩
  have f31_31 : fld w 31 31 = S.toNat := fld_pack [] 0 _ _ e (S.toNat_lt) ⟨by decide, q2⟩ rfl rfl
  have f30_25 : fld w 30 25 = 22 := fld_pack [(1, S.toNat)] 5 _ _ e (by decide) q2 rfl rfl
  have f24_18 : fld w 24 18 = d.toNat := fld_pack [(1, S.toNat), (6, 22)] 6 _ _ e (d.isLt) q3 rfl rfl
  have f17_11 : fld w 17 11 = a.toNat := fld_pack [(1, S.toNat), (6, 22), (7, d.toNat)] 6 _ _ e (a.isLt) q4 rfl rfl
  have f10_6 : fld w 10 6 = b.toNat := fld_pack [(1, S.toNat), (6, 22), (7, d.toNat), (7, a.toNat)] 4 _ _ e (b.isLt) q5 rfl rfl
  have f5_3 : fld w 5 3 = 0 := fld_pack [(1, S.toNat), (6, 22), (7, d.toNat), (7, a.toNat), (5, b.toNat)] 2 _ _ e (Nat.two_pow_pos _) q6 rfl rfl
  have f2_0 : fld w 2 0 = 1 := fld_pack [(1, S.toNat), (6, 22), (7, d.toNat), (7, a.toNat), (5, b.toNat), (3, 0)] 2 _ _ e (by decide) q7 rfl rfl
  have n0 : ¬ (w = 0 ∨ w = 4294967295) := not_blank f30_25 (by decide) (by decide)
  clear e hw
  simp only [decode, n0, if_false, decodeVT, f31_31, f30_25, f24_18, f17_11, f10_6, f5_3, f2_0, bool_field, bits_field, need_some, Nat.add_zero]
  exact accept_ok hwf

theorem cvtmfD (S : Bool) (d : BitVec 7) (a : BitVec 7) (b : BitVec 5) : Statement (.cvtmfD S d a b) := by
  intro hwf w hw
  have e := (Option.some.inj hw).symm
  simp only [word_cons, word_nil, place_eq] at e
  replace e : w = pack [(1, S.toNat), (6, 22), (7, d.toNat), (7, a.toNat), (5, b.toNat), (3, 0), (3, 2)] := e.trans (by simp only [pack, total]; omega)
  have q7 : Fits [] := trivial
  have q6 : Fits [(3, 2)] := ⟨by decide, q7⟩
  have q5 : Fits [(3, 0), (3, 2)] := ⟨Nat.two_pow_pos _, q6⟩
  have q4 : Fits [(5, b.toNat), (3, 0), (3, 2)] := ⟨b.isLt, q5⟩
  have q3 : Fits [(7, a.toNat), (5, b.toNat), (3, 0), (3, 2)] := ⟨a.isLt, q4⟩
  have q2 : Fits [(7, d.toNat), (7, a.toNat), (5, b.toNat), (3, 0), (3, 2)] := ⟨d.isLt, q3⟩
  have f31_31 : fld w 31 31 = S.toNat := fld_pack [] 0 _ _ e (S.toNat_lt) ⟨by decide, q2⟩ rfl rfl
  have f30_25 : fld w 30 25 = 22 := fld_pack [(1, S.toNat)] 5 _ _ e (by decide) q2 rfl rfl
  have f24_18 : fld w 24 18 = d.toNat := fld_pack [(1, S.toNat), (6, 22)] 6 _ _ e (d.isLt) q3 rfl rfl
  have f17_11 : fld w 17 11 = a.toNat := fld_pack [(1, S.toNat), (6, 22), (7, d.toNat)] 6 _ _ e (a.isLt) q4 rfl rfl
  have f10_6 : fld w 10 6 = b.toNat := fld_pack [(1, S.toNat), (6, 22), (7, d.toNat), (7, a.toNat)] 4 _ _ e (b.isLt) q5 rfl rfl
  have f5_3 : fld w 5 3 = 0 := fld_pack [(1, S.toNat), (6, 22), (7, d.toNat), (7, a.toNat), (5, b.toNat)] 2 _ _ e (Nat.two_pow_pos _) q6 rfl rfl
  have f2_0 : fld w 2 0 = 2 := fld_pack [(1, S.toNat), (6, 22), (7, d.toNat), (7, a.toNat), (5, b.toNat), (3, 0)] 2 _ _ e (by decide) q7 rfl rfl
  have n0 : ¬ (w = 0 ∨ w = 4294967295) := not_blank f30_25 (by decide) (by decide)
  clear e hw
  simp only [decode, n0, if_false, decodeVT, f31_31, f30_25, f24_18, f17_11, f10_6, f5_3, f2_0, bool_field, bits_field, need_some, Nat.add_zero]
  exact accept_ok hwf

theorem pk2 (S : Bool) (d : BitVec 7) (a : BitVec 7) (b : BitVec 7) (t : Pair) : Statement (.pk2 S d a b t) := by
  intro hwf w hw
  have e := (Option.some.inj hw).symm
  simp only [word_cons, word_nil, place_eq] at e
  replace e : w = pack [(1, S.toNat), (6, 22), (7, d.toNat), (7, a.toNat), (7, b.toNat), (1, t.code), (3, 3)] := e.trans (by simp only [pack, total]; omega)
  have q7 : Fits [] := trivial
  have q6 : Fits [(3, 3)] := ⟨by decide, q7⟩
  have q5 : Fits [(1, t.code), (3, 3)] := ⟨pair_bound t, q6⟩
  have q4 : Fits [(7, b.toNat), (1, t.code), (3, 3)] := ⟨b.isLt, q5⟩
  have q3 : Fits [(7, a.toNat), (7, b.toNat), (1, t.code), (3, 3)] := ⟨a.isLt, q4⟩
  have q2 : Fits [(7, d.toNat), (7, a.toNat), (7, b.toNat), (1, t.code), (3, 3)] := ⟨d.isLt, q3⟩
  have f31_31 : fld w 31 31 = S.toNat := fld_pack [] 0 _ _ e (S.toNat_lt) ⟨by decide, q2⟩ rfl rfl
  have f30_25 : fld w 30 25 = 22 := fld_pack [(1, S.toNat)] 5 _ _ e (by decide) q2 rfl rfl
  have f24_18 : fld w 24 18 = d.toNat := fld_pack [(1, S.toNat), (6, 22)] 6 _ _ e (d.isLt) q3 rfl rfl
  have f17_11 : fld w 17 11 = a.toNat := fld_pack [(1, S.toNat), (6, 22), (7, d.toNat)] 6 _ _ e (a.isLt) q4 rfl rfl
  have f10_4 : fld w 10 4 = b.toNat := fld_pack [(1, S.toNat), (6, 22), (7, d.toNat), (7, a.toNat)] 6 _ _ e (b.isLt) q5 rfl rfl
  have f3_3 : fld w 3 3 = t.code := fld_pack [(1, S.toNat), (6, 22), (7, d.toNat), (7, a.toNat), (7, b.toNat)] 0 _ _ e (pair_bound t) q6 rfl rfl
  have f2_0 : fld w 2 0 = 3 := fld_pack [(1, S.toNat), (6, 22), (7, d.toNat), (7, a.toNat), (7, b.toNat), (1, t.code)] 2 _ _ e (by decide) q7 rfl rfl
  have n0 : ¬ (w = 0 ∨ w = 4294967295) := not_blank f30_25 (by decide) (by decide)
  clear e hw
  simp only [decode, n0, if_false, decodeVT, f31_31, f30_25, f24_18, f17_11, f10_4, f3_3, f2_0, bool_field, bits_field, need_some, Nat.add_zero, pair_code]
  exact accept_ok hwf

theorem upk (S : Bool) (d : BitVec 7) (a : BitVec 7) (h : Bool) (t : Pair) : Statement (.upk S d a h t) := by
  intro hwf w hw
  have e := (Option.some.inj hw).symm
  simp only [word_cons, word_nil, place_eq] at e
  replace e : w = pack [(1, S.toNat), (6, 22), (7, d.toNat), (7, a.toNat), (6, 0), (1, h.toNat), (1, t.code), (3, 4)] := e.trans (by simp only [pack, total]; omega)
  have q8 : Fits [] := trivial
  have q7 : Fits [(3, 4)] := ⟨by decide, q8⟩
  have q6 : Fits [(1, t.code), (3, 4)] := ⟨pair_bound t, q7⟩
  have q5 : Fits [(1, h.toNat), (1, t.code), (3, 4)] := ⟨h.toNat_lt, q6⟩
  have q4 : Fits [(6, 0), (1, h.toNat), (1, t.code), (3, 4)] := ⟨Nat.two_pow_pos _, q5⟩
  have q3 : Fits [(7, a.toNat), (6, 0), (1, h.toNat), (1, t.code), (3, 4)] := ⟨a.isLt, q4⟩
  have q2 : Fits [(7, d.toNat), (7, a.toNat), (6, 0), (1, h.toNat), (1, t.code), (3, 4)] := ⟨d.isLt, q3⟩
  have f31_31 : fld w 31 31 = S.toNat := fld_pack [] 0 _ _ e (S.toNat_lt) ⟨by decide, q2⟩ rfl rfl
  have f30_25 : fld w 30 25 = 22 := fld_pack [(1, S.toNat)] 5 _ _ e (by decide) q2 rfl rfl
  have f24_18 : fld w 24 18 = d.toNat := fld_pack [(1, S.toNat), (6, 22)] 6 _ _ e (d.isLt) q3 rfl rfl
  have f17_11 : fld w 17 11 = a.toNat := fld_pack [(1, S.toNat), (6, 22), (7, d.toNat)] 6 _ _ e (a.isLt) q4 rfl rfl
  have f10_5 : fld w 10 5 = 0 := fld_pack [(1, S.toNat), (6, 22), (7, d.toNat), (7, a.toNat)] 5 _ _ e (Nat.two_pow_pos _) q5 rfl rfl
  have f4_4 : fld w 4 4 = h.toNat := fld_pack [(1, S.toNat), (6, 22), (7, d.toNat), (7, a.toNat), (6, 0)] 0 _ _ e (h.toNat_lt) q6 rfl rfl
  have f3_3 : fld w 3 3 = t.code := fld_pack [(1, S.toNat), (6, 22), (7, d.toNat), (7, a.toNat), (6, 0), (1, h.toNat)] 0 _ _ e (pair_bound t) q7 rfl rfl
  have f2_0 : fld w 2 0 = 4 := fld_pack [(1, S.toNat), (6, 22), (7, d.toNat), (7, a.toNat), (6, 0), (1, h.toNat), (1, t.code)] 2 _ _ e (by decide) q8 rfl rfl
  have n0 : ¬ (w = 0 ∨ w = 4294967295) := not_blank f30_25 (by decide) (by decide)
  clear e hw
  simp only [decode, n0, if_false, decodeVT, f31_31, f30_25, f24_18, f17_11, f10_5, f4_4, f3_3, f2_0, bool_field, bits_field, need_some, Nat.add_zero, pair_code]
  exact accept_ok hwf

theorem cmp (S : Bool) (p : BitVec 3) (c : CmpCond) (a : BitVec 7) (b : BitVec 7) (t : TyCode) : Statement (.cmp S p c a b t) := by
  intro hwf w hw
  have e := (Option.some.inj hw).symm
  simp only [word_cons, word_nil, place_eq] at e
  replace e : w = pack [(1, S.toNat), (6, 23), (3, p.toNat), (4, c.code), (7, a.toNat), (7, b.toNat), (4, t.code)] := e.trans (by simp only [pack, total]; omega)
  have q7 : Fits [] := trivial
  have q6 : Fits [(4, t.code)] := ⟨tycode_bound t, q7⟩
  have q5 : Fits [(7, b.toNat), (4, t.code)] := ⟨b.isLt, q6⟩
  have q4 : Fits [(7, a.toNat), (7, b.toNat), (4, t.code)] := ⟨a.isLt, q5⟩
  have q3 : Fits [(4, c.code), (7, a.toNat), (7, b.toNat), (4, t.code)] := ⟨cmpcond_bound c, q4⟩
  have q2 : Fits [(3, p.toNat), (4, c.code), (7, a.toNat), (7, b.toNat), (4, t.code)] := ⟨p.isLt, q3⟩
  have f31_31 : fld w 31 31 = S.toNat := fld_pack [] 0 _ _ e (S.toNat_lt) ⟨by decide, q2⟩ rfl rfl
  have f30_25 : fld w 30 25 = 23 := fld_pack [(1, S.toNat)] 5 _ _ e (by decide) q2 rfl rfl
  have f24_22 : fld w 24 22 = p.toNat := fld_pack [(1, S.toNat), (6, 23)] 2 _ _ e (p.isLt) q3 rfl rfl
  have f21_18 : fld w 21 18 = c.code := fld_pack [(1, S.toNat), (6, 23), (3, p.toNat)] 3 _ _ e (cmpcond_bound c) q4 rfl rfl
  have f17_11 : fld w 17 11 = a.toNat := fld_pack [(1, S.toNat), (6, 23), (3, p.toNat), (4, c.code)] 6 _ _ e (a.isLt) q5 rfl rfl
  have f10_4 : fld w 10 4 = b.toNat := fld_pack [(1, S.toNat), (6, 23), (3, p.toNat), (4, c.code), (7, a.toNat)] 6 _ _ e (b.isLt) q6 rfl rfl
  have f3_0 : fld w 3 0 = t.code := fld_pack [(1, S.toNat), (6, 23), (3, p.toNat), (4, c.code), (7, a.toNat), (7, b.toNat)] 3 _ _ e (tycode_bound t) q7 rfl rfl
  have n0 : ¬ (w = 0 ∨ w = 4294967295) := not_blank f30_25 (by decide) (by decide)
  clear e hw
  simp only [decode, n0, if_false, decodeVC, f31_31, f30_25, f24_22, f21_18, f17_11, f10_4, f3_0, bool_field, bits_field, need_some, Nat.add_zero, cmpcond_code, tycode_code]
  rw [if_neg (by cases c <;> decide)]
  exact accept_ok hwf

theorem ftst (S : Bool) (p : BitVec 3) (a : BitVec 7) (b : BitVec 7) (t : TyCode) : Statement (.ftst S p a b t) := by
  intro hwf w hw
  have e := (Option.some.inj hw).symm
  simp only [word_cons, word_nil, place_eq] at e
  replace e : w = pack [(1, S.toNat), (6, 23), (3, p.toNat), (4, 8), (7, a.toNat), (7, b.toNat), (4, t.code)] := e.trans (by simp only [pack, total]; omega)
  have q7 : Fits [] := trivial
  have q6 : Fits [(4, t.code)] := ⟨tycode_bound t, q7⟩
  have q5 : Fits [(7, b.toNat), (4, t.code)] := ⟨b.isLt, q6⟩
  have q4 : Fits [(7, a.toNat), (7, b.toNat), (4, t.code)] := ⟨a.isLt, q5⟩
  have q3 : Fits [(4, 8), (7, a.toNat), (7, b.toNat), (4, t.code)] := ⟨by decide, q4⟩
  have q2 : Fits [(3, p.toNat), (4, 8), (7, a.toNat), (7, b.toNat), (4, t.code)] := ⟨p.isLt, q3⟩
  have f31_31 : fld w 31 31 = S.toNat := fld_pack [] 0 _ _ e (S.toNat_lt) ⟨by decide, q2⟩ rfl rfl
  have f30_25 : fld w 30 25 = 23 := fld_pack [(1, S.toNat)] 5 _ _ e (by decide) q2 rfl rfl
  have f24_22 : fld w 24 22 = p.toNat := fld_pack [(1, S.toNat), (6, 23)] 2 _ _ e (p.isLt) q3 rfl rfl
  have f21_18 : fld w 21 18 = 8 := fld_pack [(1, S.toNat), (6, 23), (3, p.toNat)] 3 _ _ e (by decide) q4 rfl rfl
  have f17_11 : fld w 17 11 = a.toNat := fld_pack [(1, S.toNat), (6, 23), (3, p.toNat), (4, 8)] 6 _ _ e (a.isLt) q5 rfl rfl
  have f10_4 : fld w 10 4 = b.toNat := fld_pack [(1, S.toNat), (6, 23), (3, p.toNat), (4, 8), (7, a.toNat)] 6 _ _ e (b.isLt) q6 rfl rfl
  have f3_0 : fld w 3 0 = t.code := fld_pack [(1, S.toNat), (6, 23), (3, p.toNat), (4, 8), (7, a.toNat), (7, b.toNat)] 3 _ _ e (tycode_bound t) q7 rfl rfl
  have n0 : ¬ (w = 0 ∨ w = 4294967295) := not_blank f30_25 (by decide) (by decide)
  clear e hw
  simp only [decode, n0, if_false, decodeVC, f31_31, f30_25, f24_22, f21_18, f17_11, f10_4, f3_0, bool_field, bits_field, need_some, Nat.add_zero, tycode_code]
  exact accept_ok hwf

theorem sel (S : Bool) (d : BitVec 7) (a : BitVec 7) (b : BitVec 7) (p : BitVec 3) (i : Bool) : Statement (.sel S d a b p i) := by
  intro hwf w hw
  have e := (Option.some.inj hw).symm
  simp only [word_cons, word_nil, place_eq] at e
  replace e : w = pack [(1, S.toNat), (6, 24), (7, d.toNat), (7, a.toNat), (7, b.toNat), (3, p.toNat), (1, i.toNat)] := e.trans (by simp only [pack, total]; omega)
  have q7 : Fits [] := trivial
  have q6 : Fits [(1, i.toNat)] := ⟨i.toNat_lt, q7⟩
  have q5 : Fits [(3, p.toNat), (1, i.toNat)] := ⟨p.isLt, q6⟩
  have q4 : Fits [(7, b.toNat), (3, p.toNat), (1, i.toNat)] := ⟨b.isLt, q5⟩
  have q3 : Fits [(7, a.toNat), (7, b.toNat), (3, p.toNat), (1, i.toNat)] := ⟨a.isLt, q4⟩
  have q2 : Fits [(7, d.toNat), (7, a.toNat), (7, b.toNat), (3, p.toNat), (1, i.toNat)] := ⟨d.isLt, q3⟩
  have f31_31 : fld w 31 31 = S.toNat := fld_pack [] 0 _ _ e (S.toNat_lt) ⟨by decide, q2⟩ rfl rfl
  have f30_25 : fld w 30 25 = 24 := fld_pack [(1, S.toNat)] 5 _ _ e (by decide) q2 rfl rfl
  have f24_18 : fld w 24 18 = d.toNat := fld_pack [(1, S.toNat), (6, 24)] 6 _ _ e (d.isLt) q3 rfl rfl
  have f17_11 : fld w 17 11 = a.toNat := fld_pack [(1, S.toNat), (6, 24), (7, d.toNat)] 6 _ _ e (a.isLt) q4 rfl rfl
  have f10_4 : fld w 10 4 = b.toNat := fld_pack [(1, S.toNat), (6, 24), (7, d.toNat), (7, a.toNat)] 6 _ _ e (b.isLt) q5 rfl rfl
  have f3_1 : fld w 3 1 = p.toNat := fld_pack [(1, S.toNat), (6, 24), (7, d.toNat), (7, a.toNat), (7, b.toNat)] 2 _ _ e (p.isLt) q6 rfl rfl
  have f0_0 : fld w 0 0 = i.toNat := fld_pack [(1, S.toNat), (6, 24), (7, d.toNat), (7, a.toNat), (7, b.toNat), (3, p.toNat)] 0 _ _ e (i.toNat_lt) q7 rfl rfl
  have n0 : ¬ (w = 0 ∨ w = 4294967295) := not_blank f30_25 (by decide) (by decide)
  clear e hw
  simp only [decode, n0, if_false, decodeVS, f31_31, f30_25, f24_18, f17_11, f10_4, f3_1, f0_0, bool_field, bits_field, need_some, Nat.add_zero]
  rw [if_neg (by intro h; have : p = 0 := BitVec.eq_of_toNat_eq h; subst this; exact absurd hwf (by simp [Instr.wellFormed]))]
  exact accept_ok hwf

theorem plog (S : Bool) (d : BitVec 3) (t : BitVec 4) (a : BitVec 3) (b : BitVec 3) : Statement (.plog S d t a b) := by
  intro hwf w hw
  have e := (Option.some.inj hw).symm
  simp only [word_cons, word_nil, place_eq] at e
  replace e : w = pack [(1, S.toNat), (6, 24), (3, d.toNat), (4, t.toNat), (3, a.toNat), (4, 0), (3, b.toNat), (8, 0)] := e.trans (by simp only [pack, total]; omega)
  have q8 : Fits [] := trivial
  have q7 : Fits [(8, 0)] := ⟨Nat.two_pow_pos _, q8⟩
  have q6 : Fits [(3, b.toNat), (8, 0)] := ⟨b.isLt, q7⟩
  have q5 : Fits [(4, 0), (3, b.toNat), (8, 0)] := ⟨Nat.two_pow_pos _, q6⟩
  have q4 : Fits [(3, a.toNat), (4, 0), (3, b.toNat), (8, 0)] := ⟨a.isLt, q5⟩
  have q3 : Fits [(4, t.toNat), (3, a.toNat), (4, 0), (3, b.toNat), (8, 0)] := ⟨t.isLt, q4⟩
  have q2 : Fits [(3, d.toNat), (4, t.toNat), (3, a.toNat), (4, 0), (3, b.toNat), (8, 0)] := ⟨d.isLt, q3⟩
  have f31_31 : fld w 31 31 = S.toNat := fld_pack [] 0 _ _ e (S.toNat_lt) ⟨by decide, q2⟩ rfl rfl
  have f30_25 : fld w 30 25 = 24 := fld_pack [(1, S.toNat)] 5 _ _ e (by decide) q2 rfl rfl
  have f24_22 : fld w 24 22 = d.toNat := fld_pack [(1, S.toNat), (6, 24)] 2 _ _ e (d.isLt) q3 rfl rfl
  have f21_18 : fld w 21 18 = t.toNat := fld_pack [(1, S.toNat), (6, 24), (3, d.toNat)] 3 _ _ e (t.isLt) q4 rfl rfl
  have f17_15 : fld w 17 15 = a.toNat := fld_pack [(1, S.toNat), (6, 24), (3, d.toNat), (4, t.toNat)] 2 _ _ e (a.isLt) q5 rfl rfl
  have f14_11 : fld w 14 11 = 0 := fld_pack [(1, S.toNat), (6, 24), (3, d.toNat), (4, t.toNat), (3, a.toNat)] 3 _ _ e (Nat.two_pow_pos _) q6 rfl rfl
  have f10_8 : fld w 10 8 = b.toNat := fld_pack [(1, S.toNat), (6, 24), (3, d.toNat), (4, t.toNat), (3, a.toNat), (4, 0)] 2 _ _ e (b.isLt) q7 rfl rfl
  have f7_0 : fld w 7 0 = 0 := fld_pack [(1, S.toNat), (6, 24), (3, d.toNat), (4, t.toNat), (3, a.toNat), (4, 0), (3, b.toNat)] 7 _ _ e (Nat.two_pow_pos _) q8 rfl rfl
  have n0 : ¬ (w = 0 ∨ w = 4294967295) := not_blank f30_25 (by decide) (by decide)
  clear e hw
  have f3_1 : fld w 3 1 = 0 := fld_eq (p := 2) (q := 8) rfl rfl (by have : w / 1 % 256 = 0 := f7_0; omega)
  simp only [decode, n0, if_false, decodeVS, f31_31, f30_25, f24_22, f21_18, f17_15, f14_11, f10_8, f7_0, f3_1, bool_field, bits_field, need_some, Nat.add_zero]
  exact accept_ok hwf

theorem shflIdx (S : Bool) (d : BitVec 7) (a : BitVec 7) (b : BitVec 7) : Statement (.shflIdx S d a b) := by
  intro hwf w hw
  have e := (Option.some.inj hw).symm
  simp only [word_cons, word_nil, place_eq] at e
  replace e : w = pack [(1, S.toNat), (6, 25), (7, d.toNat), (7, a.toNat), (7, b.toNat), (4, 0)] := e.trans (by simp only [pack, total]; omega)
  have q6 : Fits [] := trivial
  have q5 : Fits [(4, 0)] := ⟨Nat.two_pow_pos _, q6⟩
  have q4 : Fits [(7, b.toNat), (4, 0)] := ⟨b.isLt, q5⟩
  have q3 : Fits [(7, a.toNat), (7, b.toNat), (4, 0)] := ⟨a.isLt, q4⟩
  have q2 : Fits [(7, d.toNat), (7, a.toNat), (7, b.toNat), (4, 0)] := ⟨d.isLt, q3⟩
  have f31_31 : fld w 31 31 = S.toNat := fld_pack [] 0 _ _ e (S.toNat_lt) ⟨by decide, q2⟩ rfl rfl
  have f30_25 : fld w 30 25 = 25 := fld_pack [(1, S.toNat)] 5 _ _ e (by decide) q2 rfl rfl
  have f24_18 : fld w 24 18 = d.toNat := fld_pack [(1, S.toNat), (6, 25)] 6 _ _ e (d.isLt) q3 rfl rfl
  have f17_11 : fld w 17 11 = a.toNat := fld_pack [(1, S.toNat), (6, 25), (7, d.toNat)] 6 _ _ e (a.isLt) q4 rfl rfl
  have f10_4 : fld w 10 4 = b.toNat := fld_pack [(1, S.toNat), (6, 25), (7, d.toNat), (7, a.toNat)] 6 _ _ e (b.isLt) q5 rfl rfl
  have f3_0 : fld w 3 0 = 0 := fld_pack [(1, S.toNat), (6, 25), (7, d.toNat), (7, a.toNat), (7, b.toNat)] 3 _ _ e (Nat.two_pow_pos _) q6 rfl rfl
  have n0 : ¬ (w = 0 ∨ w = 4294967295) := not_blank f30_25 (by decide) (by decide)
  clear e hw
  simp only [decode, n0, if_false, decodeLane, f31_31, f30_25, f24_18, f17_11, f10_4, f3_0, bool_field, bits_field, need_some, Nat.add_zero]
  exact accept_ok hwf

theorem shflUp (S : Bool) (d : BitVec 7) (a : BitVec 7) (b : BitVec 7) : Statement (.shflUp S d a b) := by
  intro hwf w hw
  have e := (Option.some.inj hw).symm
  simp only [word_cons, word_nil, place_eq] at e
  replace e : w = pack [(1, S.toNat), (6, 25), (7, d.toNat), (7, a.toNat), (7, b.toNat), (4, 1)] := e.trans (by simp only [pack, total]; omega)
  have q6 : Fits [] := trivial
  have q5 : Fits [(4, 1)] := ⟨by decide, q6⟩
  have q4 : Fits [(7, b.toNat), (4, 1)] := ⟨b.isLt, q5⟩
  have q3 : Fits [(7, a.toNat), (7, b.toNat), (4, 1)] := ⟨a.isLt, q4⟩
  have q2 : Fits [(7, d.toNat), (7, a.toNat), (7, b.toNat), (4, 1)] := ⟨d.isLt, q3⟩
  have f31_31 : fld w 31 31 = S.toNat := fld_pack [] 0 _ _ e (S.toNat_lt) ⟨by decide, q2⟩ rfl rfl
  have f30_25 : fld w 30 25 = 25 := fld_pack [(1, S.toNat)] 5 _ _ e (by decide) q2 rfl rfl
  have f24_18 : fld w 24 18 = d.toNat := fld_pack [(1, S.toNat), (6, 25)] 6 _ _ e (d.isLt) q3 rfl rfl
  have f17_11 : fld w 17 11 = a.toNat := fld_pack [(1, S.toNat), (6, 25), (7, d.toNat)] 6 _ _ e (a.isLt) q4 rfl rfl
  have f10_4 : fld w 10 4 = b.toNat := fld_pack [(1, S.toNat), (6, 25), (7, d.toNat), (7, a.toNat)] 6 _ _ e (b.isLt) q5 rfl rfl
  have f3_0 : fld w 3 0 = 1 := fld_pack [(1, S.toNat), (6, 25), (7, d.toNat), (7, a.toNat), (7, b.toNat)] 3 _ _ e (by decide) q6 rfl rfl
  have n0 : ¬ (w = 0 ∨ w = 4294967295) := not_blank f30_25 (by decide) (by decide)
  clear e hw
  simp only [decode, n0, if_false, decodeLane, f31_31, f30_25, f24_18, f17_11, f10_4, f3_0, bool_field, bits_field, need_some, Nat.add_zero]
  exact accept_ok hwf

theorem shflDn (S : Bool) (d : BitVec 7) (a : BitVec 7) (b : BitVec 7) : Statement (.shflDn S d a b) := by
  intro hwf w hw
  have e := (Option.some.inj hw).symm
  simp only [word_cons, word_nil, place_eq] at e
  replace e : w = pack [(1, S.toNat), (6, 25), (7, d.toNat), (7, a.toNat), (7, b.toNat), (4, 2)] := e.trans (by simp only [pack, total]; omega)
  have q6 : Fits [] := trivial
  have q5 : Fits [(4, 2)] := ⟨by decide, q6⟩
  have q4 : Fits [(7, b.toNat), (4, 2)] := ⟨b.isLt, q5⟩
  have q3 : Fits [(7, a.toNat), (7, b.toNat), (4, 2)] := ⟨a.isLt, q4⟩
  have q2 : Fits [(7, d.toNat), (7, a.toNat), (7, b.toNat), (4, 2)] := ⟨d.isLt, q3⟩
  have f31_31 : fld w 31 31 = S.toNat := fld_pack [] 0 _ _ e (S.toNat_lt) ⟨by decide, q2⟩ rfl rfl
  have f30_25 : fld w 30 25 = 25 := fld_pack [(1, S.toNat)] 5 _ _ e (by decide) q2 rfl rfl
  have f24_18 : fld w 24 18 = d.toNat := fld_pack [(1, S.toNat), (6, 25)] 6 _ _ e (d.isLt) q3 rfl rfl
  have f17_11 : fld w 17 11 = a.toNat := fld_pack [(1, S.toNat), (6, 25), (7, d.toNat)] 6 _ _ e (a.isLt) q4 rfl rfl
  have f10_4 : fld w 10 4 = b.toNat := fld_pack [(1, S.toNat), (6, 25), (7, d.toNat), (7, a.toNat)] 6 _ _ e (b.isLt) q5 rfl rfl
  have f3_0 : fld w 3 0 = 2 := fld_pack [(1, S.toNat), (6, 25), (7, d.toNat), (7, a.toNat), (7, b.toNat)] 3 _ _ e (by decide) q6 rfl rfl
  have n0 : ¬ (w = 0 ∨ w = 4294967295) := not_blank f30_25 (by decide) (by decide)
  clear e hw
  simp only [decode, n0, if_false, decodeLane, f31_31, f30_25, f24_18, f17_11, f10_4, f3_0, bool_field, bits_field, need_some, Nat.add_zero]
  exact accept_ok hwf

theorem shflXor (S : Bool) (d : BitVec 7) (a : BitVec 7) (b : BitVec 7) : Statement (.shflXor S d a b) := by
  intro hwf w hw
  have e := (Option.some.inj hw).symm
  simp only [word_cons, word_nil, place_eq] at e
  replace e : w = pack [(1, S.toNat), (6, 25), (7, d.toNat), (7, a.toNat), (7, b.toNat), (4, 3)] := e.trans (by simp only [pack, total]; omega)
  have q6 : Fits [] := trivial
  have q5 : Fits [(4, 3)] := ⟨by decide, q6⟩
  have q4 : Fits [(7, b.toNat), (4, 3)] := ⟨b.isLt, q5⟩
  have q3 : Fits [(7, a.toNat), (7, b.toNat), (4, 3)] := ⟨a.isLt, q4⟩
  have q2 : Fits [(7, d.toNat), (7, a.toNat), (7, b.toNat), (4, 3)] := ⟨d.isLt, q3⟩
  have f31_31 : fld w 31 31 = S.toNat := fld_pack [] 0 _ _ e (S.toNat_lt) ⟨by decide, q2⟩ rfl rfl
  have f30_25 : fld w 30 25 = 25 := fld_pack [(1, S.toNat)] 5 _ _ e (by decide) q2 rfl rfl
  have f24_18 : fld w 24 18 = d.toNat := fld_pack [(1, S.toNat), (6, 25)] 6 _ _ e (d.isLt) q3 rfl rfl
  have f17_11 : fld w 17 11 = a.toNat := fld_pack [(1, S.toNat), (6, 25), (7, d.toNat)] 6 _ _ e (a.isLt) q4 rfl rfl
  have f10_4 : fld w 10 4 = b.toNat := fld_pack [(1, S.toNat), (6, 25), (7, d.toNat), (7, a.toNat)] 6 _ _ e (b.isLt) q5 rfl rfl
  have f3_0 : fld w 3 0 = 3 := fld_pack [(1, S.toNat), (6, 25), (7, d.toNat), (7, a.toNat), (7, b.toNat)] 3 _ _ e (by decide) q6 rfl rfl
  have n0 : ¬ (w = 0 ∨ w = 4294967295) := not_blank f30_25 (by decide) (by decide)
  clear e hw
  simp only [decode, n0, if_false, decodeLane, f31_31, f30_25, f24_18, f17_11, f10_4, f3_0, bool_field, bits_field, need_some, Nat.add_zero]
  exact accept_ok hwf

theorem bcast (S : Bool) (d : BitVec 7) (a : BitVec 7) (b : BitVec 7) : Statement (.bcast S d a b) := by
  intro hwf w hw
  have e := (Option.some.inj hw).symm
  simp only [word_cons, word_nil, place_eq] at e
  replace e : w = pack [(1, S.toNat), (6, 25), (7, d.toNat), (7, a.toNat), (7, b.toNat), (4, 4)] := e.trans (by simp only [pack, total]; omega)
  have q6 : Fits [] := trivial
  have q5 : Fits [(4, 4)] := ⟨by decide, q6⟩
  have q4 : Fits [(7, b.toNat), (4, 4)] := ⟨b.isLt, q5⟩
  have q3 : Fits [(7, a.toNat), (7, b.toNat), (4, 4)] := ⟨a.isLt, q4⟩
  have q2 : Fits [(7, d.toNat), (7, a.toNat), (7, b.toNat), (4, 4)] := ⟨d.isLt, q3⟩
  have f31_31 : fld w 31 31 = S.toNat := fld_pack [] 0 _ _ e (S.toNat_lt) ⟨by decide, q2⟩ rfl rfl
  have f30_25 : fld w 30 25 = 25 := fld_pack [(1, S.toNat)] 5 _ _ e (by decide) q2 rfl rfl
  have f24_18 : fld w 24 18 = d.toNat := fld_pack [(1, S.toNat), (6, 25)] 6 _ _ e (d.isLt) q3 rfl rfl
  have f17_11 : fld w 17 11 = a.toNat := fld_pack [(1, S.toNat), (6, 25), (7, d.toNat)] 6 _ _ e (a.isLt) q4 rfl rfl
  have f10_4 : fld w 10 4 = b.toNat := fld_pack [(1, S.toNat), (6, 25), (7, d.toNat), (7, a.toNat)] 6 _ _ e (b.isLt) q5 rfl rfl
  have f3_0 : fld w 3 0 = 4 := fld_pack [(1, S.toNat), (6, 25), (7, d.toNat), (7, a.toNat), (7, b.toNat)] 3 _ _ e (by decide) q6 rfl rfl
  have n0 : ¬ (w = 0 ∨ w = 4294967295) := not_blank f30_25 (by decide) (by decide)
  clear e hw
  simp only [decode, n0, if_false, decodeLane, f31_31, f30_25, f24_18, f17_11, f10_4, f3_0, bool_field, bits_field, need_some, Nat.add_zero]
  exact accept_ok hwf

theorem ballot (S : Bool) (d : BitVec 7) (p : BitVec 3) : Statement (.ballot S d p) := by
  intro hwf w hw
  have e := (Option.some.inj hw).symm
  simp only [word_cons, word_nil, place_eq] at e
  replace e : w = pack [(1, S.toNat), (6, 25), (7, d.toNat), (4, 0), (3, p.toNat), (7, 0), (4, 5)] := e.trans (by simp only [pack, total]; omega)
  have q7 : Fits [] := trivial
  have q6 : Fits [(4, 5)] := ⟨by decide, q7⟩
  have q5 : Fits [(7, 0), (4, 5)] := ⟨Nat.two_pow_pos _, q6⟩
  have q4 : Fits [(3, p.toNat), (7, 0), (4, 5)] := ⟨p.isLt, q5⟩
  have q3 : Fits [(4, 0), (3, p.toNat), (7, 0), (4, 5)] := ⟨Nat.two_pow_pos _, q4⟩
  have q2 : Fits [(7, d.toNat), (4, 0), (3, p.toNat), (7, 0), (4, 5)] := ⟨d.isLt, q3⟩
  have f31_31 : fld w 31 31 = S.toNat := fld_pack [] 0 _ _ e (S.toNat_lt) ⟨by decide, q2⟩ rfl rfl
  have f30_25 : fld w 30 25 = 25 := fld_pack [(1, S.toNat)] 5 _ _ e (by decide) q2 rfl rfl
  have f24_18 : fld w 24 18 = d.toNat := fld_pack [(1, S.toNat), (6, 25)] 6 _ _ e (d.isLt) q3 rfl rfl
  have f17_14 : fld w 17 14 = 0 := fld_pack [(1, S.toNat), (6, 25), (7, d.toNat)] 3 _ _ e (Nat.two_pow_pos _) q4 rfl rfl
  have f13_11 : fld w 13 11 = p.toNat := fld_pack [(1, S.toNat), (6, 25), (7, d.toNat), (4, 0)] 2 _ _ e (p.isLt) q5 rfl rfl
  have f10_4 : fld w 10 4 = 0 := fld_pack [(1, S.toNat), (6, 25), (7, d.toNat), (4, 0), (3, p.toNat)] 6 _ _ e (Nat.two_pow_pos _) q6 rfl rfl
  have f3_0 : fld w 3 0 = 5 := fld_pack [(1, S.toNat), (6, 25), (7, d.toNat), (4, 0), (3, p.toNat), (7, 0)] 3 _ _ e (by decide) q7 rfl rfl
  have n0 : ¬ (w = 0 ∨ w = 4294967295) := not_blank f30_25 (by decide) (by decide)
  clear e hw
  simp only [decode, n0, if_false, decodeLane, f31_31, f30_25, f24_18, f17_14, f13_11, f10_4, f3_0, bool_field, bits_field, need_some, Nat.add_zero]
  exact accept_ok hwf

theorem vrank (S : Bool) (d : BitVec 7) (p : BitVec 3) : Statement (.vrank S d p) := by
  intro hwf w hw
  have e := (Option.some.inj hw).symm
  simp only [word_cons, word_nil, place_eq] at e
  replace e : w = pack [(1, S.toNat), (6, 25), (7, d.toNat), (4, 0), (3, p.toNat), (7, 0), (4, 6)] := e.trans (by simp only [pack, total]; omega)
  have q7 : Fits [] := trivial
  have q6 : Fits [(4, 6)] := ⟨by decide, q7⟩
  have q5 : Fits [(7, 0), (4, 6)] := ⟨Nat.two_pow_pos _, q6⟩
  have q4 : Fits [(3, p.toNat), (7, 0), (4, 6)] := ⟨p.isLt, q5⟩
  have q3 : Fits [(4, 0), (3, p.toNat), (7, 0), (4, 6)] := ⟨Nat.two_pow_pos _, q4⟩
  have q2 : Fits [(7, d.toNat), (4, 0), (3, p.toNat), (7, 0), (4, 6)] := ⟨d.isLt, q3⟩
  have f31_31 : fld w 31 31 = S.toNat := fld_pack [] 0 _ _ e (S.toNat_lt) ⟨by decide, q2⟩ rfl rfl
  have f30_25 : fld w 30 25 = 25 := fld_pack [(1, S.toNat)] 5 _ _ e (by decide) q2 rfl rfl
  have f24_18 : fld w 24 18 = d.toNat := fld_pack [(1, S.toNat), (6, 25)] 6 _ _ e (d.isLt) q3 rfl rfl
  have f17_14 : fld w 17 14 = 0 := fld_pack [(1, S.toNat), (6, 25), (7, d.toNat)] 3 _ _ e (Nat.two_pow_pos _) q4 rfl rfl
  have f13_11 : fld w 13 11 = p.toNat := fld_pack [(1, S.toNat), (6, 25), (7, d.toNat), (4, 0)] 2 _ _ e (p.isLt) q5 rfl rfl
  have f10_4 : fld w 10 4 = 0 := fld_pack [(1, S.toNat), (6, 25), (7, d.toNat), (4, 0), (3, p.toNat)] 6 _ _ e (Nat.two_pow_pos _) q6 rfl rfl
  have f3_0 : fld w 3 0 = 6 := fld_pack [(1, S.toNat), (6, 25), (7, d.toNat), (4, 0), (3, p.toNat), (7, 0)] 3 _ _ e (by decide) q7 rfl rfl
  have n0 : ¬ (w = 0 ∨ w = 4294967295) := not_blank f30_25 (by decide) (by decide)
  clear e hw
  simp only [decode, n0, if_false, decodeLane, f31_31, f30_25, f24_18, f17_14, f13_11, f10_4, f3_0, bool_field, bits_field, need_some, Nat.add_zero]
  exact accept_ok hwf

theorem vcount (S : Bool) (d : BitVec 7) (p : BitVec 3) : Statement (.vcount S d p) := by
  intro hwf w hw
  have e := (Option.some.inj hw).symm
  simp only [word_cons, word_nil, place_eq] at e
  replace e : w = pack [(1, S.toNat), (6, 25), (7, d.toNat), (4, 0), (3, p.toNat), (7, 0), (4, 7)] := e.trans (by simp only [pack, total]; omega)
  have q7 : Fits [] := trivial
  have q6 : Fits [(4, 7)] := ⟨by decide, q7⟩
  have q5 : Fits [(7, 0), (4, 7)] := ⟨Nat.two_pow_pos _, q6⟩
  have q4 : Fits [(3, p.toNat), (7, 0), (4, 7)] := ⟨p.isLt, q5⟩
  have q3 : Fits [(4, 0), (3, p.toNat), (7, 0), (4, 7)] := ⟨Nat.two_pow_pos _, q4⟩
  have q2 : Fits [(7, d.toNat), (4, 0), (3, p.toNat), (7, 0), (4, 7)] := ⟨d.isLt, q3⟩
  have f31_31 : fld w 31 31 = S.toNat := fld_pack [] 0 _ _ e (S.toNat_lt) ⟨by decide, q2⟩ rfl rfl
  have f30_25 : fld w 30 25 = 25 := fld_pack [(1, S.toNat)] 5 _ _ e (by decide) q2 rfl rfl
  have f24_18 : fld w 24 18 = d.toNat := fld_pack [(1, S.toNat), (6, 25)] 6 _ _ e (d.isLt) q3 rfl rfl
  have f17_14 : fld w 17 14 = 0 := fld_pack [(1, S.toNat), (6, 25), (7, d.toNat)] 3 _ _ e (Nat.two_pow_pos _) q4 rfl rfl
  have f13_11 : fld w 13 11 = p.toNat := fld_pack [(1, S.toNat), (6, 25), (7, d.toNat), (4, 0)] 2 _ _ e (p.isLt) q5 rfl rfl
  have f10_4 : fld w 10 4 = 0 := fld_pack [(1, S.toNat), (6, 25), (7, d.toNat), (4, 0), (3, p.toNat)] 6 _ _ e (Nat.two_pow_pos _) q6 rfl rfl
  have f3_0 : fld w 3 0 = 7 := fld_pack [(1, S.toNat), (6, 25), (7, d.toNat), (4, 0), (3, p.toNat), (7, 0)] 3 _ _ e (by decide) q7 rfl rfl
  have n0 : ¬ (w = 0 ∨ w = 4294967295) := not_blank f30_25 (by decide) (by decide)
  clear e hw
  simp only [decode, n0, if_false, decodeLane, f31_31, f30_25, f24_18, f17_14, f13_11, f10_4, f3_0, bool_field, bits_field, need_some, Nat.add_zero]
  exact accept_ok hwf

theorem vany (S : Bool) (d : BitVec 3) (p : BitVec 3) : Statement (.vany S d p) := by
  intro hwf w hw
  have e := (Option.some.inj hw).symm
  simp only [word_cons, word_nil, place_eq] at e
  replace e : w = pack [(1, S.toNat), (6, 25), (4, 0), (3, d.toNat), (4, 0), (3, p.toNat), (7, 0), (4, 8)] := e.trans (by simp only [pack, total]; omega)
  have q8 : Fits [] := trivial
  have q7 : Fits [(4, 8)] := ⟨by decide, q8⟩
  have q6 : Fits [(7, 0), (4, 8)] := ⟨Nat.two_pow_pos _, q7⟩
  have q5 : Fits [(3, p.toNat), (7, 0), (4, 8)] := ⟨p.isLt, q6⟩
  have q4 : Fits [(4, 0), (3, p.toNat), (7, 0), (4, 8)] := ⟨Nat.two_pow_pos _, q5⟩
  have q3 : Fits [(3, d.toNat), (4, 0), (3, p.toNat), (7, 0), (4, 8)] := ⟨d.isLt, q4⟩
  have q2 : Fits [(4, 0), (3, d.toNat), (4, 0), (3, p.toNat), (7, 0), (4, 8)] := ⟨Nat.two_pow_pos _, q3⟩
  have f31_31 : fld w 31 31 = S.toNat := fld_pack [] 0 _ _ e (S.toNat_lt) ⟨by decide, q2⟩ rfl rfl
  have f30_25 : fld w 30 25 = 25 := fld_pack [(1, S.toNat)] 5 _ _ e (by decide) q2 rfl rfl
  have f24_21 : fld w 24 21 = 0 := fld_pack [(1, S.toNat), (6, 25)] 3 _ _ e (Nat.two_pow_pos _) q3 rfl rfl
  have f20_18 : fld w 20 18 = d.toNat := fld_pack [(1, S.toNat), (6, 25), (4, 0)] 2 _ _ e (d.isLt) q4 rfl rfl
  have f17_14 : fld w 17 14 = 0 := fld_pack [(1, S.toNat), (6, 25), (4, 0), (3, d.toNat)] 3 _ _ e (Nat.two_pow_pos _) q5 rfl rfl
  have f13_11 : fld w 13 11 = p.toNat := fld_pack [(1, S.toNat), (6, 25), (4, 0), (3, d.toNat), (4, 0)] 2 _ _ e (p.isLt) q6 rfl rfl
  have f10_4 : fld w 10 4 = 0 := fld_pack [(1, S.toNat), (6, 25), (4, 0), (3, d.toNat), (4, 0), (3, p.toNat)] 6 _ _ e (Nat.two_pow_pos _) q7 rfl rfl
  have f3_0 : fld w 3 0 = 8 := fld_pack [(1, S.toNat), (6, 25), (4, 0), (3, d.toNat), (4, 0), (3, p.toNat), (7, 0)] 3 _ _ e (by decide) q8 rfl rfl
  have n0 : ¬ (w = 0 ∨ w = 4294967295) := not_blank f30_25 (by decide) (by decide)
  clear e hw
  simp only [decode, n0, if_false, decodeLane, f31_31, f30_25, f24_21, f20_18, f17_14, f13_11, f10_4, f3_0, bool_field, bits_field, need_some, Nat.add_zero]
  exact accept_ok hwf

theorem vall (S : Bool) (d : BitVec 3) (p : BitVec 3) : Statement (.vall S d p) := by
  intro hwf w hw
  have e := (Option.some.inj hw).symm
  simp only [word_cons, word_nil, place_eq] at e
  replace e : w = pack [(1, S.toNat), (6, 25), (4, 0), (3, d.toNat), (4, 0), (3, p.toNat), (7, 0), (4, 9)] := e.trans (by simp only [pack, total]; omega)
  have q8 : Fits [] := trivial
  have q7 : Fits [(4, 9)] := ⟨by decide, q8⟩
  have q6 : Fits [(7, 0), (4, 9)] := ⟨Nat.two_pow_pos _, q7⟩
  have q5 : Fits [(3, p.toNat), (7, 0), (4, 9)] := ⟨p.isLt, q6⟩
  have q4 : Fits [(4, 0), (3, p.toNat), (7, 0), (4, 9)] := ⟨Nat.two_pow_pos _, q5⟩
  have q3 : Fits [(3, d.toNat), (4, 0), (3, p.toNat), (7, 0), (4, 9)] := ⟨d.isLt, q4⟩
  have q2 : Fits [(4, 0), (3, d.toNat), (4, 0), (3, p.toNat), (7, 0), (4, 9)] := ⟨Nat.two_pow_pos _, q3⟩
  have f31_31 : fld w 31 31 = S.toNat := fld_pack [] 0 _ _ e (S.toNat_lt) ⟨by decide, q2⟩ rfl rfl
  have f30_25 : fld w 30 25 = 25 := fld_pack [(1, S.toNat)] 5 _ _ e (by decide) q2 rfl rfl
  have f24_21 : fld w 24 21 = 0 := fld_pack [(1, S.toNat), (6, 25)] 3 _ _ e (Nat.two_pow_pos _) q3 rfl rfl
  have f20_18 : fld w 20 18 = d.toNat := fld_pack [(1, S.toNat), (6, 25), (4, 0)] 2 _ _ e (d.isLt) q4 rfl rfl
  have f17_14 : fld w 17 14 = 0 := fld_pack [(1, S.toNat), (6, 25), (4, 0), (3, d.toNat)] 3 _ _ e (Nat.two_pow_pos _) q5 rfl rfl
  have f13_11 : fld w 13 11 = p.toNat := fld_pack [(1, S.toNat), (6, 25), (4, 0), (3, d.toNat), (4, 0)] 2 _ _ e (p.isLt) q6 rfl rfl
  have f10_4 : fld w 10 4 = 0 := fld_pack [(1, S.toNat), (6, 25), (4, 0), (3, d.toNat), (4, 0), (3, p.toNat)] 6 _ _ e (Nat.two_pow_pos _) q7 rfl rfl
  have f3_0 : fld w 3 0 = 9 := fld_pack [(1, S.toNat), (6, 25), (4, 0), (3, d.toNat), (4, 0), (3, p.toNat), (7, 0)] 3 _ _ e (by decide) q8 rfl rfl
  have n0 : ¬ (w = 0 ∨ w = 4294967295) := not_blank f30_25 (by decide) (by decide)
  clear e hw
  simp only [decode, n0, if_false, decodeLane, f31_31, f30_25, f24_21, f20_18, f17_14, f13_11, f10_4, f3_0, bool_field, bits_field, need_some, Nat.add_zero]
  exact accept_ok hwf

theorem redadd (S : Bool) (d : BitVec 7) (a : BitVec 7) (t : TyCode) : Statement (.redadd S d a t) := by
  intro hwf w hw
  have e := (Option.some.inj hw).symm
  simp only [word_cons, word_nil, place_eq] at e
  replace e : w = pack [(1, S.toNat), (6, 25), (7, d.toNat), (7, a.toNat), (3, 0), (4, t.code), (4, 10)] := e.trans (by simp only [pack, total]; omega)
  have q7 : Fits [] := trivial
  have q6 : Fits [(4, 10)] := ⟨by decide, q7⟩
  have q5 : Fits [(4, t.code), (4, 10)] := ⟨tycode_bound t, q6⟩
  have q4 : Fits [(3, 0), (4, t.code), (4, 10)] := ⟨Nat.two_pow_pos _, q5⟩
  have q3 : Fits [(7, a.toNat), (3, 0), (4, t.code), (4, 10)] := ⟨a.isLt, q4⟩
  have q2 : Fits [(7, d.toNat), (7, a.toNat), (3, 0), (4, t.code), (4, 10)] := ⟨d.isLt, q3⟩
  have f31_31 : fld w 31 31 = S.toNat := fld_pack [] 0 _ _ e (S.toNat_lt) ⟨by decide, q2⟩ rfl rfl
  have f30_25 : fld w 30 25 = 25 := fld_pack [(1, S.toNat)] 5 _ _ e (by decide) q2 rfl rfl
  have f24_18 : fld w 24 18 = d.toNat := fld_pack [(1, S.toNat), (6, 25)] 6 _ _ e (d.isLt) q3 rfl rfl
  have f17_11 : fld w 17 11 = a.toNat := fld_pack [(1, S.toNat), (6, 25), (7, d.toNat)] 6 _ _ e (a.isLt) q4 rfl rfl
  have f10_8 : fld w 10 8 = 0 := fld_pack [(1, S.toNat), (6, 25), (7, d.toNat), (7, a.toNat)] 2 _ _ e (Nat.two_pow_pos _) q5 rfl rfl
  have f7_4 : fld w 7 4 = t.code := fld_pack [(1, S.toNat), (6, 25), (7, d.toNat), (7, a.toNat), (3, 0)] 3 _ _ e (tycode_bound t) q6 rfl rfl
  have f3_0 : fld w 3 0 = 10 := fld_pack [(1, S.toNat), (6, 25), (7, d.toNat), (7, a.toNat), (3, 0), (4, t.code)] 3 _ _ e (by decide) q7 rfl rfl
  have n0 : ¬ (w = 0 ∨ w = 4294967295) := not_blank f30_25 (by decide) (by decide)
  clear e hw
  simp only [decode, n0, if_false, decodeLane, f31_31, f30_25, f24_18, f17_11, f10_8, f7_4, f3_0, bool_field, bits_field, need_some, Nat.add_zero, tycode_code]
  exact accept_ok hwf

theorem redmax (S : Bool) (d : BitVec 7) (a : BitVec 7) (t : TyCode) : Statement (.redmax S d a t) := by
  intro hwf w hw
  have e := (Option.some.inj hw).symm
  simp only [word_cons, word_nil, place_eq] at e
  replace e : w = pack [(1, S.toNat), (6, 25), (7, d.toNat), (7, a.toNat), (3, 0), (4, t.code), (4, 11)] := e.trans (by simp only [pack, total]; omega)
  have q7 : Fits [] := trivial
  have q6 : Fits [(4, 11)] := ⟨by decide, q7⟩
  have q5 : Fits [(4, t.code), (4, 11)] := ⟨tycode_bound t, q6⟩
  have q4 : Fits [(3, 0), (4, t.code), (4, 11)] := ⟨Nat.two_pow_pos _, q5⟩
  have q3 : Fits [(7, a.toNat), (3, 0), (4, t.code), (4, 11)] := ⟨a.isLt, q4⟩
  have q2 : Fits [(7, d.toNat), (7, a.toNat), (3, 0), (4, t.code), (4, 11)] := ⟨d.isLt, q3⟩
  have f31_31 : fld w 31 31 = S.toNat := fld_pack [] 0 _ _ e (S.toNat_lt) ⟨by decide, q2⟩ rfl rfl
  have f30_25 : fld w 30 25 = 25 := fld_pack [(1, S.toNat)] 5 _ _ e (by decide) q2 rfl rfl
  have f24_18 : fld w 24 18 = d.toNat := fld_pack [(1, S.toNat), (6, 25)] 6 _ _ e (d.isLt) q3 rfl rfl
  have f17_11 : fld w 17 11 = a.toNat := fld_pack [(1, S.toNat), (6, 25), (7, d.toNat)] 6 _ _ e (a.isLt) q4 rfl rfl
  have f10_8 : fld w 10 8 = 0 := fld_pack [(1, S.toNat), (6, 25), (7, d.toNat), (7, a.toNat)] 2 _ _ e (Nat.two_pow_pos _) q5 rfl rfl
  have f7_4 : fld w 7 4 = t.code := fld_pack [(1, S.toNat), (6, 25), (7, d.toNat), (7, a.toNat), (3, 0)] 3 _ _ e (tycode_bound t) q6 rfl rfl
  have f3_0 : fld w 3 0 = 11 := fld_pack [(1, S.toNat), (6, 25), (7, d.toNat), (7, a.toNat), (3, 0), (4, t.code)] 3 _ _ e (by decide) q7 rfl rfl
  have n0 : ¬ (w = 0 ∨ w = 4294967295) := not_blank f30_25 (by decide) (by decide)
  clear e hw
  simp only [decode, n0, if_false, decodeLane, f31_31, f30_25, f24_18, f17_11, f10_8, f7_4, f3_0, bool_field, bits_field, need_some, Nat.add_zero, tycode_code]
  exact accept_ok hwf

theorem redmin (S : Bool) (d : BitVec 7) (a : BitVec 7) (t : TyCode) : Statement (.redmin S d a t) := by
  intro hwf w hw
  have e := (Option.some.inj hw).symm
  simp only [word_cons, word_nil, place_eq] at e
  replace e : w = pack [(1, S.toNat), (6, 25), (7, d.toNat), (7, a.toNat), (3, 0), (4, t.code), (4, 12)] := e.trans (by simp only [pack, total]; omega)
  have q7 : Fits [] := trivial
  have q6 : Fits [(4, 12)] := ⟨by decide, q7⟩
  have q5 : Fits [(4, t.code), (4, 12)] := ⟨tycode_bound t, q6⟩
  have q4 : Fits [(3, 0), (4, t.code), (4, 12)] := ⟨Nat.two_pow_pos _, q5⟩
  have q3 : Fits [(7, a.toNat), (3, 0), (4, t.code), (4, 12)] := ⟨a.isLt, q4⟩
  have q2 : Fits [(7, d.toNat), (7, a.toNat), (3, 0), (4, t.code), (4, 12)] := ⟨d.isLt, q3⟩
  have f31_31 : fld w 31 31 = S.toNat := fld_pack [] 0 _ _ e (S.toNat_lt) ⟨by decide, q2⟩ rfl rfl
  have f30_25 : fld w 30 25 = 25 := fld_pack [(1, S.toNat)] 5 _ _ e (by decide) q2 rfl rfl
  have f24_18 : fld w 24 18 = d.toNat := fld_pack [(1, S.toNat), (6, 25)] 6 _ _ e (d.isLt) q3 rfl rfl
  have f17_11 : fld w 17 11 = a.toNat := fld_pack [(1, S.toNat), (6, 25), (7, d.toNat)] 6 _ _ e (a.isLt) q4 rfl rfl
  have f10_8 : fld w 10 8 = 0 := fld_pack [(1, S.toNat), (6, 25), (7, d.toNat), (7, a.toNat)] 2 _ _ e (Nat.two_pow_pos _) q5 rfl rfl
  have f7_4 : fld w 7 4 = t.code := fld_pack [(1, S.toNat), (6, 25), (7, d.toNat), (7, a.toNat), (3, 0)] 3 _ _ e (tycode_bound t) q6 rfl rfl
  have f3_0 : fld w 3 0 = 12 := fld_pack [(1, S.toNat), (6, 25), (7, d.toNat), (7, a.toNat), (3, 0), (4, t.code)] 3 _ _ e (by decide) q7 rfl rfl
  have n0 : ¬ (w = 0 ∨ w = 4294967295) := not_blank f30_25 (by decide) (by decide)
  clear e hw
  simp only [decode, n0, if_false, decodeLane, f31_31, f30_25, f24_18, f17_11, f10_8, f7_4, f3_0, bool_field, bits_field, need_some, Nat.add_zero, tycode_code]
  exact accept_ok hwf

theorem scanadd (S : Bool) (d : BitVec 7) (a : BitVec 7) (t : TyCode) : Statement (.scanadd S d a t) := by
  intro hwf w hw
  have e := (Option.some.inj hw).symm
  simp only [word_cons, word_nil, place_eq] at e
  replace e : w = pack [(1, S.toNat), (6, 25), (7, d.toNat), (7, a.toNat), (3, 0), (4, t.code), (4, 13)] := e.trans (by simp only [pack, total]; omega)
  have q7 : Fits [] := trivial
  have q6 : Fits [(4, 13)] := ⟨by decide, q7⟩
  have q5 : Fits [(4, t.code), (4, 13)] := ⟨tycode_bound t, q6⟩
  have q4 : Fits [(3, 0), (4, t.code), (4, 13)] := ⟨Nat.two_pow_pos _, q5⟩
  have q3 : Fits [(7, a.toNat), (3, 0), (4, t.code), (4, 13)] := ⟨a.isLt, q4⟩
  have q2 : Fits [(7, d.toNat), (7, a.toNat), (3, 0), (4, t.code), (4, 13)] := ⟨d.isLt, q3⟩
  have f31_31 : fld w 31 31 = S.toNat := fld_pack [] 0 _ _ e (S.toNat_lt) ⟨by decide, q2⟩ rfl rfl
  have f30_25 : fld w 30 25 = 25 := fld_pack [(1, S.toNat)] 5 _ _ e (by decide) q2 rfl rfl
  have f24_18 : fld w 24 18 = d.toNat := fld_pack [(1, S.toNat), (6, 25)] 6 _ _ e (d.isLt) q3 rfl rfl
  have f17_11 : fld w 17 11 = a.toNat := fld_pack [(1, S.toNat), (6, 25), (7, d.toNat)] 6 _ _ e (a.isLt) q4 rfl rfl
  have f10_8 : fld w 10 8 = 0 := fld_pack [(1, S.toNat), (6, 25), (7, d.toNat), (7, a.toNat)] 2 _ _ e (Nat.two_pow_pos _) q5 rfl rfl
  have f7_4 : fld w 7 4 = t.code := fld_pack [(1, S.toNat), (6, 25), (7, d.toNat), (7, a.toNat), (3, 0)] 3 _ _ e (tycode_bound t) q6 rfl rfl
  have f3_0 : fld w 3 0 = 13 := fld_pack [(1, S.toNat), (6, 25), (7, d.toNat), (7, a.toNat), (3, 0), (4, t.code)] 3 _ _ e (by decide) q7 rfl rfl
  have n0 : ¬ (w = 0 ∨ w = 4294967295) := not_blank f30_25 (by decide) (by decide)
  clear e hw
  simp only [decode, n0, if_false, decodeLane, f31_31, f30_25, f24_18, f17_11, f10_8, f7_4, f3_0, bool_field, bits_field, need_some, Nat.add_zero, tycode_code]
  exact accept_ok hwf

theorem mov (S : Bool) (d : BitVec 7) (a : BitVec 7) : Statement (.mov S d a) := by
  intro hwf w hw
  have e := (Option.some.inj hw).symm
  simp only [word_cons, word_nil, place_eq] at e
  replace e : w = pack [(1, S.toNat), (6, 26), (7, d.toNat), (7, a.toNat), (7, 0), (4, 0)] := e.trans (by simp only [pack, total]; omega)
  have q6 : Fits [] := trivial
  have q5 : Fits [(4, 0)] := ⟨Nat.two_pow_pos _, q6⟩
  have q4 : Fits [(7, 0), (4, 0)] := ⟨Nat.two_pow_pos _, q5⟩
  have q3 : Fits [(7, a.toNat), (7, 0), (4, 0)] := ⟨a.isLt, q4⟩
  have q2 : Fits [(7, d.toNat), (7, a.toNat), (7, 0), (4, 0)] := ⟨d.isLt, q3⟩
  have f31_31 : fld w 31 31 = S.toNat := fld_pack [] 0 _ _ e (S.toNat_lt) ⟨by decide, q2⟩ rfl rfl
  have f30_25 : fld w 30 25 = 26 := fld_pack [(1, S.toNat)] 5 _ _ e (by decide) q2 rfl rfl
  have f24_18 : fld w 24 18 = d.toNat := fld_pack [(1, S.toNat), (6, 26)] 6 _ _ e (d.isLt) q3 rfl rfl
  have f17_11 : fld w 17 11 = a.toNat := fld_pack [(1, S.toNat), (6, 26), (7, d.toNat)] 6 _ _ e (a.isLt) q4 rfl rfl
  have f10_4 : fld w 10 4 = 0 := fld_pack [(1, S.toNat), (6, 26), (7, d.toNat), (7, a.toNat)] 6 _ _ e (Nat.two_pow_pos _) q5 rfl rfl
  have f3_0 : fld w 3 0 = 0 := fld_pack [(1, S.toNat), (6, 26), (7, d.toNat), (7, a.toNat), (7, 0)] 3 _ _ e (Nat.two_pow_pos _) q6 rfl rfl
  have n0 : ¬ (w = 0 ∨ w = 4294967295) := not_blank f30_25 (by decide) (by decide)
  clear e hw
  simp only [decode, n0, if_false, decodeVX, f31_31, f30_25, f24_18, f17_11, f10_4, f3_0, bool_field, bits_field, need_some, Nat.add_zero]
  exact accept_ok hwf

theorem movs (S : Bool) (d : BitVec 7) (a : BitVec 5) : Statement (.movs S d a) := by
  intro hwf w hw
  have e := (Option.some.inj hw).symm
  simp only [word_cons, word_nil, place_eq] at e
  replace e : w = pack [(1, S.toNat), (6, 26), (7, d.toNat), (2, 0), (5, a.toNat), (7, 0), (4, 1)] := e.trans (by simp only [pack, total]; omega)
  have q7 : Fits [] := trivial
  have q6 : Fits [(4, 1)] := ⟨by decide, q7⟩
  have q5 : Fits [(7, 0), (4, 1)] := ⟨Nat.two_pow_pos _, q6⟩
  have q4 : Fits [(5, a.toNat), (7, 0), (4, 1)] := ⟨a.isLt, q5⟩
  have q3 : Fits [(2, 0), (5, a.toNat), (7, 0), (4, 1)] := ⟨Nat.two_pow_pos _, q4⟩
  have q2 : Fits [(7, d.toNat), (2, 0), (5, a.toNat), (7, 0), (4, 1)] := ⟨d.isLt, q3⟩
  have f31_31 : fld w 31 31 = S.toNat := fld_pack [] 0 _ _ e (S.toNat_lt) ⟨by decide, q2⟩ rfl rfl
  have f30_25 : fld w 30 25 = 26 := fld_pack [(1, S.toNat)] 5 _ _ e (by decide) q2 rfl rfl
  have f24_18 : fld w 24 18 = d.toNat := fld_pack [(1, S.toNat), (6, 26)] 6 _ _ e (d.isLt) q3 rfl rfl
  have f17_16 : fld w 17 16 = 0 := fld_pack [(1, S.toNat), (6, 26), (7, d.toNat)] 1 _ _ e (Nat.two_pow_pos _) q4 rfl rfl
  have f15_11 : fld w 15 11 = a.toNat := fld_pack [(1, S.toNat), (6, 26), (7, d.toNat), (2, 0)] 4 _ _ e (a.isLt) q5 rfl rfl
  have f10_4 : fld w 10 4 = 0 := fld_pack [(1, S.toNat), (6, 26), (7, d.toNat), (2, 0), (5, a.toNat)] 6 _ _ e (Nat.two_pow_pos _) q6 rfl rfl
  have f3_0 : fld w 3 0 = 1 := fld_pack [(1, S.toNat), (6, 26), (7, d.toNat), (2, 0), (5, a.toNat), (7, 0)] 3 _ _ e (by decide) q7 rfl rfl
  have n0 : ¬ (w = 0 ∨ w = 4294967295) := not_blank f30_25 (by decide) (by decide)
  clear e hw
  simp only [decode, n0, if_false, decodeVX, f31_31, f30_25, f24_18, f17_16, f15_11, f10_4, f3_0, bool_field, bits_field, need_some, Nat.add_zero]
  exact accept_ok hwf

theorem movi (S : Bool) (d : BitVec 7) (i : BitVec 14) : Statement (.movi S d i) := by
  intro hwf w hw
  have e := (Option.some.inj hw).symm
  simp only [word_cons, word_nil, place_eq] at e
  replace e : w = pack [(1, S.toNat), (6, 26), (7, d.toNat), (14, i.toNat), (4, 2)] := e.trans (by simp only [pack, total]; omega)
  have q5 : Fits [] := trivial
  have q4 : Fits [(4, 2)] := ⟨by decide, q5⟩
  have q3 : Fits [(14, i.toNat), (4, 2)] := ⟨i.isLt, q4⟩
  have q2 : Fits [(7, d.toNat), (14, i.toNat), (4, 2)] := ⟨d.isLt, q3⟩
  have f31_31 : fld w 31 31 = S.toNat := fld_pack [] 0 _ _ e (S.toNat_lt) ⟨by decide, q2⟩ rfl rfl
  have f30_25 : fld w 30 25 = 26 := fld_pack [(1, S.toNat)] 5 _ _ e (by decide) q2 rfl rfl
  have f24_18 : fld w 24 18 = d.toNat := fld_pack [(1, S.toNat), (6, 26)] 6 _ _ e (d.isLt) q3 rfl rfl
  have f17_4 : fld w 17 4 = i.toNat := fld_pack [(1, S.toNat), (6, 26), (7, d.toNat)] 13 _ _ e (i.isLt) q4 rfl rfl
  have f3_0 : fld w 3 0 = 2 := fld_pack [(1, S.toNat), (6, 26), (7, d.toNat), (14, i.toNat)] 3 _ _ e (by decide) q5 rfl rfl
  have n0 : ¬ (w = 0 ∨ w = 4294967295) := not_blank f30_25 (by decide) (by decide)
  clear e hw
  simp only [decode, n0, if_false, decodeVX, f31_31, f30_25, f24_18, f17_4, f3_0, bool_field, bits_field, need_some, Nat.add_zero]
  exact accept_ok hwf

theorem rdlane (S : Bool) (d : BitVec 5) (a : BitVec 7) (b : BitVec 5) : Statement (.rdlane S d a b) := by
  intro hwf w hw
  have e := (Option.some.inj hw).symm
  simp only [word_cons, word_nil, place_eq] at e
  replace e : w = pack [(1, S.toNat), (6, 26), (2, 0), (5, d.toNat), (7, a.toNat), (2, 0), (5, b.toNat), (4, 3)] := e.trans (by simp only [pack, total]; omega)
  have q8 : Fits [] := trivial
  have q7 : Fits [(4, 3)] := ⟨by decide, q8⟩
  have q6 : Fits [(5, b.toNat), (4, 3)] := ⟨b.isLt, q7⟩
  have q5 : Fits [(2, 0), (5, b.toNat), (4, 3)] := ⟨Nat.two_pow_pos _, q6⟩
  have q4 : Fits [(7, a.toNat), (2, 0), (5, b.toNat), (4, 3)] := ⟨a.isLt, q5⟩
  have q3 : Fits [(5, d.toNat), (7, a.toNat), (2, 0), (5, b.toNat), (4, 3)] := ⟨d.isLt, q4⟩
  have q2 : Fits [(2, 0), (5, d.toNat), (7, a.toNat), (2, 0), (5, b.toNat), (4, 3)] := ⟨Nat.two_pow_pos _, q3⟩
  have f31_31 : fld w 31 31 = S.toNat := fld_pack [] 0 _ _ e (S.toNat_lt) ⟨by decide, q2⟩ rfl rfl
  have f30_25 : fld w 30 25 = 26 := fld_pack [(1, S.toNat)] 5 _ _ e (by decide) q2 rfl rfl
  have f24_23 : fld w 24 23 = 0 := fld_pack [(1, S.toNat), (6, 26)] 1 _ _ e (Nat.two_pow_pos _) q3 rfl rfl
  have f22_18 : fld w 22 18 = d.toNat := fld_pack [(1, S.toNat), (6, 26), (2, 0)] 4 _ _ e (d.isLt) q4 rfl rfl
  have f17_11 : fld w 17 11 = a.toNat := fld_pack [(1, S.toNat), (6, 26), (2, 0), (5, d.toNat)] 6 _ _ e (a.isLt) q5 rfl rfl
  have f10_9 : fld w 10 9 = 0 := fld_pack [(1, S.toNat), (6, 26), (2, 0), (5, d.toNat), (7, a.toNat)] 1 _ _ e (Nat.two_pow_pos _) q6 rfl rfl
  have f8_4 : fld w 8 4 = b.toNat := fld_pack [(1, S.toNat), (6, 26), (2, 0), (5, d.toNat), (7, a.toNat), (2, 0)] 4 _ _ e (b.isLt) q7 rfl rfl
  have f3_0 : fld w 3 0 = 3 := fld_pack [(1, S.toNat), (6, 26), (2, 0), (5, d.toNat), (7, a.toNat), (2, 0), (5, b.toNat)] 3 _ _ e (by decide) q8 rfl rfl
  have n0 : ¬ (w = 0 ∨ w = 4294967295) := not_blank f30_25 (by decide) (by decide)
  clear e hw
  simp only [decode, n0, if_false, decodeVX, f31_31, f30_25, f24_23, f22_18, f17_11, f10_9, f8_4, f3_0, bool_field, bits_field, need_some, Nat.add_zero]
  exact accept_ok hwf

theorem wrlane (S : Bool) (d : BitVec 7) (a : BitVec 5) (b : BitVec 5) : Statement (.wrlane S d a b) := by
  intro hwf w hw
  have e := (Option.some.inj hw).symm
  simp only [word_cons, word_nil, place_eq] at e
  replace e : w = pack [(1, S.toNat), (6, 26), (7, d.toNat), (2, 0), (5, a.toNat), (2, 0), (5, b.toNat), (4, 4)] := e.trans (by simp only [pack, total]; omega)
  have q8 : Fits [] := trivial
  have q7 : Fits [(4, 4)] := ⟨by decide, q8⟩
  have q6 : Fits [(5, b.toNat), (4, 4)] := ⟨b.isLt, q7⟩
  have q5 : Fits [(2, 0), (5, b.toNat), (4, 4)] := ⟨Nat.two_pow_pos _, q6⟩
  have q4 : Fits [(5, a.toNat), (2, 0), (5, b.toNat), (4, 4)] := ⟨a.isLt, q5⟩
  have q3 : Fits [(2, 0), (5, a.toNat), (2, 0), (5, b.toNat), (4, 4)] := ⟨Nat.two_pow_pos _, q4⟩
  have q2 : Fits [(7, d.toNat), (2, 0), (5, a.toNat), (2, 0), (5, b.toNat), (4, 4)] := ⟨d.isLt, q3⟩
  have f31_31 : fld w 31 31 = S.toNat := fld_pack [] 0 _ _ e (S.toNat_lt) ⟨by decide, q2⟩ rfl rfl
  have f30_25 : fld w 30 25 = 26 := fld_pack [(1, S.toNat)] 5 _ _ e (by decide) q2 rfl rfl
  have f24_18 : fld w 24 18 = d.toNat := fld_pack [(1, S.toNat), (6, 26)] 6 _ _ e (d.isLt) q3 rfl rfl
  have f17_16 : fld w 17 16 = 0 := fld_pack [(1, S.toNat), (6, 26), (7, d.toNat)] 1 _ _ e (Nat.two_pow_pos _) q4 rfl rfl
  have f15_11 : fld w 15 11 = a.toNat := fld_pack [(1, S.toNat), (6, 26), (7, d.toNat), (2, 0)] 4 _ _ e (a.isLt) q5 rfl rfl
  have f10_9 : fld w 10 9 = 0 := fld_pack [(1, S.toNat), (6, 26), (7, d.toNat), (2, 0), (5, a.toNat)] 1 _ _ e (Nat.two_pow_pos _) q6 rfl rfl
  have f8_4 : fld w 8 4 = b.toNat := fld_pack [(1, S.toNat), (6, 26), (7, d.toNat), (2, 0), (5, a.toNat), (2, 0)] 4 _ _ e (b.isLt) q7 rfl rfl
  have f3_0 : fld w 3 0 = 4 := fld_pack [(1, S.toNat), (6, 26), (7, d.toNat), (2, 0), (5, a.toNat), (2, 0), (5, b.toNat)] 3 _ _ e (by decide) q8 rfl rfl
  have n0 : ¬ (w = 0 ∨ w = 4294967295) := not_blank f30_25 (by decide) (by decide)
  clear e hw
  simp only [decode, n0, if_false, decodeVX, f31_31, f30_25, f24_18, f17_16, f15_11, f10_9, f8_4, f3_0, bool_field, bits_field, need_some, Nat.add_zero]
  exact accept_ok hwf

theorem rdsp (S : Bool) (d : BitVec 7) : Statement (.rdsp S d) := by
  intro hwf w hw
  have e := (Option.some.inj hw).symm
  simp only [word_cons, word_nil, place_eq] at e
  replace e : w = pack [(1, S.toNat), (6, 26), (7, d.toNat), (14, 0), (4, 5)] := e.trans (by simp only [pack, total]; omega)
  have q5 : Fits [] := trivial
  have q4 : Fits [(4, 5)] := ⟨by decide, q5⟩
  have q3 : Fits [(14, 0), (4, 5)] := ⟨Nat.two_pow_pos _, q4⟩
  have q2 : Fits [(7, d.toNat), (14, 0), (4, 5)] := ⟨d.isLt, q3⟩
  have f31_31 : fld w 31 31 = S.toNat := fld_pack [] 0 _ _ e (S.toNat_lt) ⟨by decide, q2⟩ rfl rfl
  have f30_25 : fld w 30 25 = 26 := fld_pack [(1, S.toNat)] 5 _ _ e (by decide) q2 rfl rfl
  have f24_18 : fld w 24 18 = d.toNat := fld_pack [(1, S.toNat), (6, 26)] 6 _ _ e (d.isLt) q3 rfl rfl
  have f17_4 : fld w 17 4 = 0 := fld_pack [(1, S.toNat), (6, 26), (7, d.toNat)] 13 _ _ e (Nat.two_pow_pos _) q4 rfl rfl
  have f3_0 : fld w 3 0 = 5 := fld_pack [(1, S.toNat), (6, 26), (7, d.toNat), (14, 0)] 3 _ _ e (by decide) q5 rfl rfl
  have n0 : ¬ (w = 0 ∨ w = 4294967295) := not_blank f30_25 (by decide) (by decide)
  clear e hw
  simp only [decode, n0, if_false, decodeVX, f31_31, f30_25, f24_18, f17_4, f3_0, bool_field, bits_field, need_some, Nat.add_zero]
  exact accept_ok hwf

theorem movp (S : Bool) (d : BitVec 7) (p : BitVec 3) : Statement (.movp S d p) := by
  intro hwf w hw
  have e := (Option.some.inj hw).symm
  simp only [word_cons, word_nil, place_eq] at e
  replace e : w = pack [(1, S.toNat), (6, 26), (7, d.toNat), (4, 0), (3, p.toNat), (7, 0), (4, 6)] := e.trans (by simp only [pack, total]; omega)
  have q7 : Fits [] := trivial
  have q6 : Fits [(4, 6)] := ⟨by decide, q7⟩
  have q5 : Fits [(7, 0), (4, 6)] := ⟨Nat.two_pow_pos _, q6⟩
  have q4 : Fits [(3, p.toNat), (7, 0), (4, 6)] := ⟨p.isLt, q5⟩
  have q3 : Fits [(4, 0), (3, p.toNat), (7, 0), (4, 6)] := ⟨Nat.two_pow_pos _, q4⟩
  have q2 : Fits [(7, d.toNat), (4, 0), (3, p.toNat), (7, 0), (4, 6)] := ⟨d.isLt, q3⟩
  have f31_31 : fld w 31 31 = S.toNat := fld_pack [] 0 _ _ e (S.toNat_lt) ⟨by decide, q2⟩ rfl rfl
  have f30_25 : fld w 30 25 = 26 := fld_pack [(1, S.toNat)] 5 _ _ e (by decide) q2 rfl rfl
  have f24_18 : fld w 24 18 = d.toNat := fld_pack [(1, S.toNat), (6, 26)] 6 _ _ e (d.isLt) q3 rfl rfl
  have f17_14 : fld w 17 14 = 0 := fld_pack [(1, S.toNat), (6, 26), (7, d.toNat)] 3 _ _ e (Nat.two_pow_pos _) q4 rfl rfl
  have f13_11 : fld w 13 11 = p.toNat := fld_pack [(1, S.toNat), (6, 26), (7, d.toNat), (4, 0)] 2 _ _ e (p.isLt) q5 rfl rfl
  have f10_4 : fld w 10 4 = 0 := fld_pack [(1, S.toNat), (6, 26), (7, d.toNat), (4, 0), (3, p.toNat)] 6 _ _ e (Nat.two_pow_pos _) q6 rfl rfl
  have f3_0 : fld w 3 0 = 6 := fld_pack [(1, S.toNat), (6, 26), (7, d.toNat), (4, 0), (3, p.toNat), (7, 0)] 3 _ _ e (by decide) q7 rfl rfl
  have n0 : ¬ (w = 0 ∨ w = 4294967295) := not_blank f30_25 (by decide) (by decide)
  clear e hw
  simp only [decode, n0, if_false, decodeVX, f31_31, f30_25, f24_18, f17_14, f13_11, f10_4, f3_0, bool_field, bits_field, need_some, Nat.add_zero]
  exact accept_ok hwf

theorem setp (S : Bool) (d : BitVec 3) (a : BitVec 7) : Statement (.setp S d a) := by
  intro hwf w hw
  have e := (Option.some.inj hw).symm
  simp only [word_cons, word_nil, place_eq] at e
  replace e : w = pack [(1, S.toNat), (6, 26), (4, 0), (3, d.toNat), (7, a.toNat), (7, 0), (4, 7)] := e.trans (by simp only [pack, total]; omega)
  have q7 : Fits [] := trivial
  have q6 : Fits [(4, 7)] := ⟨by decide, q7⟩
  have q5 : Fits [(7, 0), (4, 7)] := ⟨Nat.two_pow_pos _, q6⟩
  have q4 : Fits [(7, a.toNat), (7, 0), (4, 7)] := ⟨a.isLt, q5⟩
  have q3 : Fits [(3, d.toNat), (7, a.toNat), (7, 0), (4, 7)] := ⟨d.isLt, q4⟩
  have q2 : Fits [(4, 0), (3, d.toNat), (7, a.toNat), (7, 0), (4, 7)] := ⟨Nat.two_pow_pos _, q3⟩
  have f31_31 : fld w 31 31 = S.toNat := fld_pack [] 0 _ _ e (S.toNat_lt) ⟨by decide, q2⟩ rfl rfl
  have f30_25 : fld w 30 25 = 26 := fld_pack [(1, S.toNat)] 5 _ _ e (by decide) q2 rfl rfl
  have f24_21 : fld w 24 21 = 0 := fld_pack [(1, S.toNat), (6, 26)] 3 _ _ e (Nat.two_pow_pos _) q3 rfl rfl
  have f20_18 : fld w 20 18 = d.toNat := fld_pack [(1, S.toNat), (6, 26), (4, 0)] 2 _ _ e (d.isLt) q4 rfl rfl
  have f17_11 : fld w 17 11 = a.toNat := fld_pack [(1, S.toNat), (6, 26), (4, 0), (3, d.toNat)] 6 _ _ e (a.isLt) q5 rfl rfl
  have f10_4 : fld w 10 4 = 0 := fld_pack [(1, S.toNat), (6, 26), (4, 0), (3, d.toNat), (7, a.toNat)] 6 _ _ e (Nat.two_pow_pos _) q6 rfl rfl
  have f3_0 : fld w 3 0 = 7 := fld_pack [(1, S.toNat), (6, 26), (4, 0), (3, d.toNat), (7, a.toNat), (7, 0)] 3 _ _ e (by decide) q7 rfl rfl
  have n0 : ¬ (w = 0 ∨ w = 4294967295) := not_blank f30_25 (by decide) (by decide)
  clear e hw
  simp only [decode, n0, if_false, decodeVX, f31_31, f30_25, f24_21, f20_18, f17_11, f10_4, f3_0, bool_field, bits_field, need_some, Nat.add_zero]
  exact accept_ok hwf

theorem ld (S : Bool) (d : BitVec 7) (k : BitVec 4) (a : BitVec 7) (t : LdTy) (i : BitVec 4) : Statement (.ld S d k a t i) := by
  intro hwf w hw
  have e := (Option.some.inj hw).symm
  simp only [word_cons, word_nil, place_eq] at e
  replace e : w = pack [(1, S.toNat), (6, 32), (7, d.toNat), (4, k.toNat), (7, a.toNat), (3, t.code), (4, i.toNat)] := e.trans (by simp only [pack, total]; omega)
  have q7 : Fits [] := trivial
  have q6 : Fits [(4, i.toNat)] := ⟨i.isLt, q7⟩
  have q5 : Fits [(3, t.code), (4, i.toNat)] := ⟨ldty_bound t, q6⟩
  have q4 : Fits [(7, a.toNat), (3, t.code), (4, i.toNat)] := ⟨a.isLt, q5⟩
  have q3 : Fits [(4, k.toNat), (7, a.toNat), (3, t.code), (4, i.toNat)] := ⟨k.isLt, q4⟩
  have q2 : Fits [(7, d.toNat), (4, k.toNat), (7, a.toNat), (3, t.code), (4, i.toNat)] := ⟨d.isLt, q3⟩
  have f31_31 : fld w 31 31 = S.toNat := fld_pack [] 0 _ _ e (S.toNat_lt) ⟨by decide, q2⟩ rfl rfl
  have f30_25 : fld w 30 25 = 32 := fld_pack [(1, S.toNat)] 5 _ _ e (by decide) q2 rfl rfl
  have f24_18 : fld w 24 18 = d.toNat := fld_pack [(1, S.toNat), (6, 32)] 6 _ _ e (d.isLt) q3 rfl rfl
  have f17_14 : fld w 17 14 = k.toNat := fld_pack [(1, S.toNat), (6, 32), (7, d.toNat)] 3 _ _ e (k.isLt) q4 rfl rfl
  have f13_7 : fld w 13 7 = a.toNat := fld_pack [(1, S.toNat), (6, 32), (7, d.toNat), (4, k.toNat)] 6 _ _ e (a.isLt) q5 rfl rfl
  have f6_4 : fld w 6 4 = t.code := fld_pack [(1, S.toNat), (6, 32), (7, d.toNat), (4, k.toNat), (7, a.toNat)] 2 _ _ e (ldty_bound t) q6 rfl rfl
  have f3_0 : fld w 3 0 = i.toNat := fld_pack [(1, S.toNat), (6, 32), (7, d.toNat), (4, k.toNat), (7, a.toNat), (3, t.code)] 3 _ _ e (i.isLt) q7 rfl rfl
  have n0 : ¬ (w = 0 ∨ w = 4294967295) := not_blank f30_25 (by decide) (by decide)
  clear e hw
  simp only [decode, n0, if_false, decodeLd, f31_31, f30_25, f24_18, f17_14, f13_7, f6_4, f3_0, bool_field, bits_field, need_some, Nat.add_zero, ldty_code]
  exact accept_ok hwf

theorem st (S : Bool) (d : BitVec 7) (k : BitVec 4) (a : BitVec 7) (t : StTy) (i : BitVec 4) : Statement (.st S d k a t i) := by
  intro hwf w hw
  have e := (Option.some.inj hw).symm
  simp only [word_cons, word_nil, place_eq] at e
  replace e : w = pack [(1, S.toNat), (6, 33), (7, d.toNat), (4, k.toNat), (7, a.toNat), (3, t.code), (4, i.toNat)] := e.trans (by simp only [pack, total]; omega)
  have q7 : Fits [] := trivial
  have q6 : Fits [(4, i.toNat)] := ⟨i.isLt, q7⟩
  have q5 : Fits [(3, t.code), (4, i.toNat)] := ⟨stty_bound t, q6⟩
  have q4 : Fits [(7, a.toNat), (3, t.code), (4, i.toNat)] := ⟨a.isLt, q5⟩
  have q3 : Fits [(4, k.toNat), (7, a.toNat), (3, t.code), (4, i.toNat)] := ⟨k.isLt, q4⟩
  have q2 : Fits [(7, d.toNat), (4, k.toNat), (7, a.toNat), (3, t.code), (4, i.toNat)] := ⟨d.isLt, q3⟩
  have f31_31 : fld w 31 31 = S.toNat := fld_pack [] 0 _ _ e (S.toNat_lt) ⟨by decide, q2⟩ rfl rfl
  have f30_25 : fld w 30 25 = 33 := fld_pack [(1, S.toNat)] 5 _ _ e (by decide) q2 rfl rfl
  have f24_18 : fld w 24 18 = d.toNat := fld_pack [(1, S.toNat), (6, 33)] 6 _ _ e (d.isLt) q3 rfl rfl
  have f17_14 : fld w 17 14 = k.toNat := fld_pack [(1, S.toNat), (6, 33), (7, d.toNat)] 3 _ _ e (k.isLt) q4 rfl rfl
  have f13_7 : fld w 13 7 = a.toNat := fld_pack [(1, S.toNat), (6, 33), (7, d.toNat), (4, k.toNat)] 6 _ _ e (a.isLt) q5 rfl rfl
  have f6_4 : fld w 6 4 = t.code := fld_pack [(1, S.toNat), (6, 33), (7, d.toNat), (4, k.toNat), (7, a.toNat)] 2 _ _ e (stty_bound t) q6 rfl rfl
  have f3_0 : fld w 3 0 = i.toNat := fld_pack [(1, S.toNat), (6, 33), (7, d.toNat), (4, k.toNat), (7, a.toNat), (3, t.code)] 3 _ _ e (i.isLt) q7 rfl rfl
  have n0 : ¬ (w = 0 ∨ w = 4294967295) := not_blank f30_25 (by decide) (by decide)
  clear e hw
  simp only [decode, n0, if_false, decodeSt, f31_31, f30_25, f24_18, f17_14, f13_7, f6_4, f3_0, bool_field, bits_field, need_some, Nat.add_zero, stty_code]
  exact accept_ok hwf

theorem atom (S : Bool) (d : BitVec 7) (k : BitVec 4) (a : BitVec 7) (o : AtomOp) (c : Scope) : Statement (.atom S d k a o c) := by
  intro hwf w hw
  have e := (Option.some.inj hw).symm
  simp only [word_cons, word_nil, place_eq] at e
  replace e : w = pack [(1, S.toNat), (6, 34), (7, d.toNat), (4, k.toNat), (7, a.toNat), (1, 0), (3, o.code), (3, c.code)] := e.trans (by simp only [pack, total]; omega)
  have q8 : Fits [] := trivial
  have q7 : Fits [(3, c.code)] := ⟨scope_bound c, q8⟩
  have q6 : Fits [(3, o.code), (3, c.code)] := ⟨atomop_bound o, q7⟩
  have q5 : Fits [(1, 0), (3, o.code), (3, c.code)] := ⟨Nat.two_pow_pos _, q6⟩
  have q4 : Fits [(7, a.toNat), (1, 0), (3, o.code), (3, c.code)] := ⟨a.isLt, q5⟩
  have q3 : Fits [(4, k.toNat), (7, a.toNat), (1, 0), (3, o.code), (3, c.code)] := ⟨k.isLt, q4⟩
  have q2 : Fits [(7, d.toNat), (4, k.toNat), (7, a.toNat), (1, 0), (3, o.code), (3, c.code)] := ⟨d.isLt, q3⟩
  have f31_31 : fld w 31 31 = S.toNat := fld_pack [] 0 _ _ e (S.toNat_lt) ⟨by decide, q2⟩ rfl rfl
  have f30_25 : fld w 30 25 = 34 := fld_pack [(1, S.toNat)] 5 _ _ e (by decide) q2 rfl rfl
  have f24_18 : fld w 24 18 = d.toNat := fld_pack [(1, S.toNat), (6, 34)] 6 _ _ e (d.isLt) q3 rfl rfl
  have f17_14 : fld w 17 14 = k.toNat := fld_pack [(1, S.toNat), (6, 34), (7, d.toNat)] 3 _ _ e (k.isLt) q4 rfl rfl
  have f13_7 : fld w 13 7 = a.toNat := fld_pack [(1, S.toNat), (6, 34), (7, d.toNat), (4, k.toNat)] 6 _ _ e (a.isLt) q5 rfl rfl
  have f6_6 : fld w 6 6 = 0 := fld_pack [(1, S.toNat), (6, 34), (7, d.toNat), (4, k.toNat), (7, a.toNat)] 0 _ _ e (Nat.two_pow_pos _) q6 rfl rfl
  have f5_3 : fld w 5 3 = o.code := fld_pack [(1, S.toNat), (6, 34), (7, d.toNat), (4, k.toNat), (7, a.toNat), (1, 0)] 2 _ _ e (atomop_bound o) q7 rfl rfl
  have f2_0 : fld w 2 0 = c.code := fld_pack [(1, S.toNat), (6, 34), (7, d.toNat), (4, k.toNat), (7, a.toNat), (1, 0), (3, o.code)] 2 _ _ e (scope_bound c) q8 rfl rfl
  have n0 : ¬ (w = 0 ∨ w = 4294967295) := not_blank f30_25 (by decide) (by decide)
  clear e hw
  simp only [decode, n0, if_false, decodeAtom32, f31_31, f30_25, f24_18, f17_14, f13_7, f6_6, f5_3, f2_0, bool_field, bits_field, need_some, Nat.add_zero, atomop_code, scope_code]
  exact accept_ok hwf

theorem atomx (S : Bool) (d : BitVec 7) (k : BitVec 4) (a : BitVec 7) (o : AtomOp) (c : Scope) : Statement (.atomx S d k a o c) := by
  intro hwf w hw
  have e := (Option.some.inj hw).symm
  simp only [word_cons, word_nil, place_eq] at e
  replace e : w = pack [(1, S.toNat), (6, 34), (7, d.toNat), (4, k.toNat), (7, a.toNat), (1, 1), (3, o.code), (3, c.code)] := e.trans (by simp only [pack, total]; omega)
  have q8 : Fits [] := trivial
  have q7 : Fits [(3, c.code)] := ⟨scope_bound c, q8⟩
  have q6 : Fits [(3, o.code), (3, c.code)] := ⟨atomop_bound o, q7⟩
  have q5 : Fits [(1, 1), (3, o.code), (3, c.code)] := ⟨by decide, q6⟩
  have q4 : Fits [(7, a.toNat), (1, 1), (3, o.code), (3, c.code)] := ⟨a.isLt, q5⟩
  have q3 : Fits [(4, k.toNat), (7, a.toNat), (1, 1), (3, o.code), (3, c.code)] := ⟨k.isLt, q4⟩
  have q2 : Fits [(7, d.toNat), (4, k.toNat), (7, a.toNat), (1, 1), (3, o.code), (3, c.code)] := ⟨d.isLt, q3⟩
  have f31_31 : fld w 31 31 = S.toNat := fld_pack [] 0 _ _ e (S.toNat_lt) ⟨by decide, q2⟩ rfl rfl
  have f30_25 : fld w 30 25 = 34 := fld_pack [(1, S.toNat)] 5 _ _ e (by decide) q2 rfl rfl
  have f24_18 : fld w 24 18 = d.toNat := fld_pack [(1, S.toNat), (6, 34)] 6 _ _ e (d.isLt) q3 rfl rfl
  have f17_14 : fld w 17 14 = k.toNat := fld_pack [(1, S.toNat), (6, 34), (7, d.toNat)] 3 _ _ e (k.isLt) q4 rfl rfl
  have f13_7 : fld w 13 7 = a.toNat := fld_pack [(1, S.toNat), (6, 34), (7, d.toNat), (4, k.toNat)] 6 _ _ e (a.isLt) q5 rfl rfl
  have f6_6 : fld w 6 6 = 1 := fld_pack [(1, S.toNat), (6, 34), (7, d.toNat), (4, k.toNat), (7, a.toNat)] 0 _ _ e (by decide) q6 rfl rfl
  have f5_3 : fld w 5 3 = o.code := fld_pack [(1, S.toNat), (6, 34), (7, d.toNat), (4, k.toNat), (7, a.toNat), (1, 1)] 2 _ _ e (atomop_bound o) q7 rfl rfl
  have f2_0 : fld w 2 0 = c.code := fld_pack [(1, S.toNat), (6, 34), (7, d.toNat), (4, k.toNat), (7, a.toNat), (1, 1), (3, o.code)] 2 _ _ e (scope_bound c) q8 rfl rfl
  have n0 : ¬ (w = 0 ∨ w = 4294967295) := not_blank f30_25 (by decide) (by decide)
  clear e hw
  simp only [decode, n0, if_false, decodeAtom32, f31_31, f30_25, f24_18, f17_14, f13_7, f6_6, f5_3, f2_0, bool_field, bits_field, need_some, Nat.add_zero, atomop_code, scope_code]
  exact accept_ok hwf

theorem atom64 (S : Bool) (d : BitVec 7) (k : BitVec 4) (a : BitVec 7) (o : AtomOp) (c : Scope) : Statement (.atom64 S d k a o c) := by
  intro hwf w hw
  have e := (Option.some.inj hw).symm
  simp only [word_cons, word_nil, place_eq] at e
  replace e : w = pack [(1, S.toNat), (6, 35), (7, d.toNat), (4, k.toNat), (7, a.toNat), (1, 0), (3, o.code), (3, c.code)] := e.trans (by simp only [pack, total]; omega)
  have q8 : Fits [] := trivial
  have q7 : Fits [(3, c.code)] := ⟨scope_bound c, q8⟩
  have q6 : Fits [(3, o.code), (3, c.code)] := ⟨atomop_bound o, q7⟩
  have q5 : Fits [(1, 0), (3, o.code), (3, c.code)] := ⟨Nat.two_pow_pos _, q6⟩
  have q4 : Fits [(7, a.toNat), (1, 0), (3, o.code), (3, c.code)] := ⟨a.isLt, q5⟩
  have q3 : Fits [(4, k.toNat), (7, a.toNat), (1, 0), (3, o.code), (3, c.code)] := ⟨k.isLt, q4⟩
  have q2 : Fits [(7, d.toNat), (4, k.toNat), (7, a.toNat), (1, 0), (3, o.code), (3, c.code)] := ⟨d.isLt, q3⟩
  have f31_31 : fld w 31 31 = S.toNat := fld_pack [] 0 _ _ e (S.toNat_lt) ⟨by decide, q2⟩ rfl rfl
  have f30_25 : fld w 30 25 = 35 := fld_pack [(1, S.toNat)] 5 _ _ e (by decide) q2 rfl rfl
  have f24_18 : fld w 24 18 = d.toNat := fld_pack [(1, S.toNat), (6, 35)] 6 _ _ e (d.isLt) q3 rfl rfl
  have f17_14 : fld w 17 14 = k.toNat := fld_pack [(1, S.toNat), (6, 35), (7, d.toNat)] 3 _ _ e (k.isLt) q4 rfl rfl
  have f13_7 : fld w 13 7 = a.toNat := fld_pack [(1, S.toNat), (6, 35), (7, d.toNat), (4, k.toNat)] 6 _ _ e (a.isLt) q5 rfl rfl
  have f6_6 : fld w 6 6 = 0 := fld_pack [(1, S.toNat), (6, 35), (7, d.toNat), (4, k.toNat), (7, a.toNat)] 0 _ _ e (Nat.two_pow_pos _) q6 rfl rfl
  have f5_3 : fld w 5 3 = o.code := fld_pack [(1, S.toNat), (6, 35), (7, d.toNat), (4, k.toNat), (7, a.toNat), (1, 0)] 2 _ _ e (atomop_bound o) q7 rfl rfl
  have f2_0 : fld w 2 0 = c.code := fld_pack [(1, S.toNat), (6, 35), (7, d.toNat), (4, k.toNat), (7, a.toNat), (1, 0), (3, o.code)] 2 _ _ e (scope_bound c) q8 rfl rfl
  have n0 : ¬ (w = 0 ∨ w = 4294967295) := not_blank f30_25 (by decide) (by decide)
  clear e hw
  simp only [decode, n0, if_false, decodeAtom64, f31_31, f30_25, f24_18, f17_14, f13_7, f6_6, f5_3, f2_0, bool_field, bits_field, need_some, Nat.add_zero, atomop_code, scope_code]
  exact accept_ok hwf

theorem atomx64 (S : Bool) (d : BitVec 7) (k : BitVec 4) (a : BitVec 7) (o : AtomOp) (c : Scope) : Statement (.atomx64 S d k a o c) := by
  intro hwf w hw
  have e := (Option.some.inj hw).symm
  simp only [word_cons, word_nil, place_eq] at e
  replace e : w = pack [(1, S.toNat), (6, 35), (7, d.toNat), (4, k.toNat), (7, a.toNat), (1, 1), (3, o.code), (3, c.code)] := e.trans (by simp only [pack, total]; omega)
  have q8 : Fits [] := trivial
  have q7 : Fits [(3, c.code)] := ⟨scope_bound c, q8⟩
  have q6 : Fits [(3, o.code), (3, c.code)] := ⟨atomop_bound o, q7⟩
  have q5 : Fits [(1, 1), (3, o.code), (3, c.code)] := ⟨by decide, q6⟩
  have q4 : Fits [(7, a.toNat), (1, 1), (3, o.code), (3, c.code)] := ⟨a.isLt, q5⟩
  have q3 : Fits [(4, k.toNat), (7, a.toNat), (1, 1), (3, o.code), (3, c.code)] := ⟨k.isLt, q4⟩
  have q2 : Fits [(7, d.toNat), (4, k.toNat), (7, a.toNat), (1, 1), (3, o.code), (3, c.code)] := ⟨d.isLt, q3⟩
  have f31_31 : fld w 31 31 = S.toNat := fld_pack [] 0 _ _ e (S.toNat_lt) ⟨by decide, q2⟩ rfl rfl
  have f30_25 : fld w 30 25 = 35 := fld_pack [(1, S.toNat)] 5 _ _ e (by decide) q2 rfl rfl
  have f24_18 : fld w 24 18 = d.toNat := fld_pack [(1, S.toNat), (6, 35)] 6 _ _ e (d.isLt) q3 rfl rfl
  have f17_14 : fld w 17 14 = k.toNat := fld_pack [(1, S.toNat), (6, 35), (7, d.toNat)] 3 _ _ e (k.isLt) q4 rfl rfl
  have f13_7 : fld w 13 7 = a.toNat := fld_pack [(1, S.toNat), (6, 35), (7, d.toNat), (4, k.toNat)] 6 _ _ e (a.isLt) q5 rfl rfl
  have f6_6 : fld w 6 6 = 1 := fld_pack [(1, S.toNat), (6, 35), (7, d.toNat), (4, k.toNat), (7, a.toNat)] 0 _ _ e (by decide) q6 rfl rfl
  have f5_3 : fld w 5 3 = o.code := fld_pack [(1, S.toNat), (6, 35), (7, d.toNat), (4, k.toNat), (7, a.toNat), (1, 1)] 2 _ _ e (atomop_bound o) q7 rfl rfl
  have f2_0 : fld w 2 0 = c.code := fld_pack [(1, S.toNat), (6, 35), (7, d.toNat), (4, k.toNat), (7, a.toNat), (1, 1), (3, o.code)] 2 _ _ e (scope_bound c) q8 rfl rfl
  have n0 : ¬ (w = 0 ∨ w = 4294967295) := not_blank f30_25 (by decide) (by decide)
  clear e hw
  simp only [decode, n0, if_false, decodeAtom64, f31_31, f30_25, f24_18, f17_14, f13_7, f6_6, f5_3, f2_0, bool_field, bits_field, need_some, Nat.add_zero, atomop_code, scope_code]
  exact accept_ok hwf

theorem fence (S : Bool) (p : BitVec 6) (q : BitVec 6) (c : Scope) : Statement (.fence S p q c) := by
  intro hwf w hw
  have e := (Option.some.inj hw).symm
  simp only [word_cons, word_nil, place_eq] at e
  replace e : w = pack [(1, S.toNat), (6, 36), (3, 0), (6, p.toNat), (6, q.toNat), (3, c.code), (7, 0)] := e.trans (by simp only [pack, total]; omega)
  have q7 : Fits [] := trivial
  have q6 : Fits [(7, 0)] := ⟨Nat.two_pow_pos _, q7⟩
  have q5 : Fits [(3, c.code), (7, 0)] := ⟨scope_bound c, q6⟩
  have q4 : Fits [(6, q.toNat), (3, c.code), (7, 0)] := ⟨q.isLt, q5⟩
  have q3 : Fits [(6, p.toNat), (6, q.toNat), (3, c.code), (7, 0)] := ⟨p.isLt, q4⟩
  have q2 : Fits [(3, 0), (6, p.toNat), (6, q.toNat), (3, c.code), (7, 0)] := ⟨Nat.two_pow_pos _, q3⟩
  have f31_31 : fld w 31 31 = S.toNat := fld_pack [] 0 _ _ e (S.toNat_lt) ⟨by decide, q2⟩ rfl rfl
  have f30_25 : fld w 30 25 = 36 := fld_pack [(1, S.toNat)] 5 _ _ e (by decide) q2 rfl rfl
  have f24_22 : fld w 24 22 = 0 := fld_pack [(1, S.toNat), (6, 36)] 2 _ _ e (Nat.two_pow_pos _) q3 rfl rfl
  have f21_16 : fld w 21 16 = p.toNat := fld_pack [(1, S.toNat), (6, 36), (3, 0)] 5 _ _ e (p.isLt) q4 rfl rfl
  have f15_10 : fld w 15 10 = q.toNat := fld_pack [(1, S.toNat), (6, 36), (3, 0), (6, p.toNat)] 5 _ _ e (q.isLt) q5 rfl rfl
  have f9_7 : fld w 9 7 = c.code := fld_pack [(1, S.toNat), (6, 36), (3, 0), (6, p.toNat), (6, q.toNat)] 2 _ _ e (scope_bound c) q6 rfl rfl
  have f6_0 : fld w 6 0 = 0 := fld_pack [(1, S.toNat), (6, 36), (3, 0), (6, p.toNat), (6, q.toNat), (3, c.code)] 6 _ _ e (Nat.two_pow_pos _) q7 rfl rfl
  have n0 : ¬ (w = 0 ∨ w = 4294967295) := not_blank f30_25 (by decide) (by decide)
  clear e hw
  simp only [decode, n0, if_false, decodeSN, f31_31, f30_25, f24_22, f21_16, f15_10, f9_7, f6_0, bool_field, bits_field, need_some, Nat.add_zero, scope_code]
  exact accept_ok hwf

theorem barinit (S : Bool) (k : BitVec 4) (a : BitVec 5) (b : BitVec 5) : Statement (.barinit S k a b) := by
  intro hwf w hw
  have e := (Option.some.inj hw).symm
  simp only [word_cons, word_nil, place_eq] at e
  replace e : w = pack [(1, S.toNat), (6, 36), (3, 1), (4, k.toNat), (5, a.toNat), (5, b.toNat), (8, 0)] := e.trans (by simp only [pack, total]; omega)
  have q7 : Fits [] := trivial
  have q6 : Fits [(8, 0)] := ⟨Nat.two_pow_pos _, q7⟩
  have q5 : Fits [(5, b.toNat), (8, 0)] := ⟨b.isLt, q6⟩
  have q4 : Fits [(5, a.toNat), (5, b.toNat), (8, 0)] := ⟨a.isLt, q5⟩
  have q3 : Fits [(4, k.toNat), (5, a.toNat), (5, b.toNat), (8, 0)] := ⟨k.isLt, q4⟩
  have q2 : Fits [(3, 1), (4, k.toNat), (5, a.toNat), (5, b.toNat), (8, 0)] := ⟨by decide, q3⟩
  have f31_31 : fld w 31 31 = S.toNat := fld_pack [] 0 _ _ e (S.toNat_lt) ⟨by decide, q2⟩ rfl rfl
  have f30_25 : fld w 30 25 = 36 := fld_pack [(1, S.toNat)] 5 _ _ e (by decide) q2 rfl rfl
  have f24_22 : fld w 24 22 = 1 := fld_pack [(1, S.toNat), (6, 36)] 2 _ _ e (by decide) q3 rfl rfl
  have f21_18 : fld w 21 18 = k.toNat := fld_pack [(1, S.toNat), (6, 36), (3, 1)] 3 _ _ e (k.isLt) q4 rfl rfl
  have f17_13 : fld w 17 13 = a.toNat := fld_pack [(1, S.toNat), (6, 36), (3, 1), (4, k.toNat)] 4 _ _ e (a.isLt) q5 rfl rfl
  have f12_8 : fld w 12 8 = b.toNat := fld_pack [(1, S.toNat), (6, 36), (3, 1), (4, k.toNat), (5, a.toNat)] 4 _ _ e (b.isLt) q6 rfl rfl
  have f7_0 : fld w 7 0 = 0 := fld_pack [(1, S.toNat), (6, 36), (3, 1), (4, k.toNat), (5, a.toNat), (5, b.toNat)] 7 _ _ e (Nat.two_pow_pos _) q7 rfl rfl
  have n0 : ¬ (w = 0 ∨ w = 4294967295) := not_blank f30_25 (by decide) (by decide)
  clear e hw
  simp only [decode, n0, if_false, decodeSN, f31_31, f30_25, f24_22, f21_18, f17_13, f12_8, f7_0, bool_field, bits_field, need_some, Nat.add_zero]
  exact accept_ok hwf

theorem barr (S : Bool) (k : BitVec 4) (a : BitVec 5) (c : Scope) (n : BitVec 5) : Statement (.barr S k a c n) := by
  intro hwf w hw
  have e := (Option.some.inj hw).symm
  simp only [word_cons, word_nil, place_eq] at e
  replace e : w = pack [(1, S.toNat), (6, 36), (3, 2), (4, k.toNat), (5, a.toNat), (5, 0), (3, c.code), (5, n.toNat)] := e.trans (by simp only [pack, total]; omega)
  have q8 : Fits [] := trivial
  have q7 : Fits [(5, n.toNat)] := ⟨n.isLt, q8⟩
  have q6 : Fits [(3, c.code), (5, n.toNat)] := ⟨scope_bound c, q7⟩
  have q5 : Fits [(5, 0), (3, c.code), (5, n.toNat)] := ⟨Nat.two_pow_pos _, q6⟩
  have q4 : Fits [(5, a.toNat), (5, 0), (3, c.code), (5, n.toNat)] := ⟨a.isLt, q5⟩
  have q3 : Fits [(4, k.toNat), (5, a.toNat), (5, 0), (3, c.code), (5, n.toNat)] := ⟨k.isLt, q4⟩
  have q2 : Fits [(3, 2), (4, k.toNat), (5, a.toNat), (5, 0), (3, c.code), (5, n.toNat)] := ⟨by decide, q3⟩
  have f31_31 : fld w 31 31 = S.toNat := fld_pack [] 0 _ _ e (S.toNat_lt) ⟨by decide, q2⟩ rfl rfl
  have f30_25 : fld w 30 25 = 36 := fld_pack [(1, S.toNat)] 5 _ _ e (by decide) q2 rfl rfl
  have f24_22 : fld w 24 22 = 2 := fld_pack [(1, S.toNat), (6, 36)] 2 _ _ e (by decide) q3 rfl rfl
  have f21_18 : fld w 21 18 = k.toNat := fld_pack [(1, S.toNat), (6, 36), (3, 2)] 3 _ _ e (k.isLt) q4 rfl rfl
  have f17_13 : fld w 17 13 = a.toNat := fld_pack [(1, S.toNat), (6, 36), (3, 2), (4, k.toNat)] 4 _ _ e (a.isLt) q5 rfl rfl
  have f12_8 : fld w 12 8 = 0 := fld_pack [(1, S.toNat), (6, 36), (3, 2), (4, k.toNat), (5, a.toNat)] 4 _ _ e (Nat.two_pow_pos _) q6 rfl rfl
  have f7_5 : fld w 7 5 = c.code := fld_pack [(1, S.toNat), (6, 36), (3, 2), (4, k.toNat), (5, a.toNat), (5, 0)] 2 _ _ e (scope_bound c) q7 rfl rfl
  have f4_0 : fld w 4 0 = n.toNat := fld_pack [(1, S.toNat), (6, 36), (3, 2), (4, k.toNat), (5, a.toNat), (5, 0), (3, c.code)] 4 _ _ e (n.isLt) q8 rfl rfl
  have n0 : ¬ (w = 0 ∨ w = 4294967295) := not_blank f30_25 (by decide) (by decide)
  clear e hw
  simp only [decode, n0, if_false, decodeSN, f31_31, f30_25, f24_22, f21_18, f17_13, f12_8, f7_5, f4_0, bool_field, bits_field, need_some, Nat.add_zero, scope_code]
  exact accept_ok hwf

theorem barw (S : Bool) (k : BitVec 4) (a : BitVec 5) (b : BitVec 5) (c : Scope) : Statement (.barw S k a b c) := by
  intro hwf w hw
  have e := (Option.some.inj hw).symm
  simp only [word_cons, word_nil, place_eq] at e
  replace e : w = pack [(1, S.toNat), (6, 36), (3, 3), (4, k.toNat), (5, a.toNat), (5, b.toNat), (3, c.code), (5, 0)] := e.trans (by simp only [pack, total]; omega)
  have q8 : Fits [] := trivial
  have q7 : Fits [(5, 0)] := ⟨Nat.two_pow_pos _, q8⟩
  have q6 : Fits [(3, c.code), (5, 0)] := ⟨scope_bound c, q7⟩
  have q5 : Fits [(5, b.toNat), (3, c.code), (5, 0)] := ⟨b.isLt, q6⟩
  have q4 : Fits [(5, a.toNat), (5, b.toNat), (3, c.code), (5, 0)] := ⟨a.isLt, q5⟩
  have q3 : Fits [(4, k.toNat), (5, a.toNat), (5, b.toNat), (3, c.code), (5, 0)] := ⟨k.isLt, q4⟩
  have q2 : Fits [(3, 3), (4, k.toNat), (5, a.toNat), (5, b.toNat), (3, c.code), (5, 0)] := ⟨by decide, q3⟩
  have f31_31 : fld w 31 31 = S.toNat := fld_pack [] 0 _ _ e (S.toNat_lt) ⟨by decide, q2⟩ rfl rfl
  have f30_25 : fld w 30 25 = 36 := fld_pack [(1, S.toNat)] 5 _ _ e (by decide) q2 rfl rfl
  have f24_22 : fld w 24 22 = 3 := fld_pack [(1, S.toNat), (6, 36)] 2 _ _ e (by decide) q3 rfl rfl
  have f21_18 : fld w 21 18 = k.toNat := fld_pack [(1, S.toNat), (6, 36), (3, 3)] 3 _ _ e (k.isLt) q4 rfl rfl
  have f17_13 : fld w 17 13 = a.toNat := fld_pack [(1, S.toNat), (6, 36), (3, 3), (4, k.toNat)] 4 _ _ e (a.isLt) q5 rfl rfl
  have f12_8 : fld w 12 8 = b.toNat := fld_pack [(1, S.toNat), (6, 36), (3, 3), (4, k.toNat), (5, a.toNat)] 4 _ _ e (b.isLt) q6 rfl rfl
  have f7_5 : fld w 7 5 = c.code := fld_pack [(1, S.toNat), (6, 36), (3, 3), (4, k.toNat), (5, a.toNat), (5, b.toNat)] 2 _ _ e (scope_bound c) q7 rfl rfl
  have f4_0 : fld w 4 0 = 0 := fld_pack [(1, S.toNat), (6, 36), (3, 3), (4, k.toNat), (5, a.toNat), (5, b.toNat), (3, c.code)] 4 _ _ e (Nat.two_pow_pos _) q8 rfl rfl
  have n0 : ¬ (w = 0 ∨ w = 4294967295) := not_blank f30_25 (by decide) (by decide)
  clear e hw
  simp only [decode, n0, if_false, decodeSN, f31_31, f30_25, f24_22, f21_18, f17_13, f12_8, f7_5, f4_0, bool_field, bits_field, need_some, Nat.add_zero, scope_code]
  exact accept_ok hwf

theorem bars (S : Bool) (k : BitVec 4) (a : BitVec 5) (c : Scope) (n : BitVec 5) : Statement (.bars S k a c n) := by
  intro hwf w hw
  have e := (Option.some.inj hw).symm
  simp only [word_cons, word_nil, place_eq] at e
  replace e : w = pack [(1, S.toNat), (6, 36), (3, 4), (4, k.toNat), (5, a.toNat), (5, 0), (3, c.code), (5, n.toNat)] := e.trans (by simp only [pack, total]; omega)
  have q8 : Fits [] := trivial
  have q7 : Fits [(5, n.toNat)] := ⟨n.isLt, q8⟩
  have q6 : Fits [(3, c.code), (5, n.toNat)] := ⟨scope_bound c, q7⟩
  have q5 : Fits [(5, 0), (3, c.code), (5, n.toNat)] := ⟨Nat.two_pow_pos _, q6⟩
  have q4 : Fits [(5, a.toNat), (5, 0), (3, c.code), (5, n.toNat)] := ⟨a.isLt, q5⟩
  have q3 : Fits [(4, k.toNat), (5, a.toNat), (5, 0), (3, c.code), (5, n.toNat)] := ⟨k.isLt, q4⟩
  have q2 : Fits [(3, 4), (4, k.toNat), (5, a.toNat), (5, 0), (3, c.code), (5, n.toNat)] := ⟨by decide, q3⟩
  have f31_31 : fld w 31 31 = S.toNat := fld_pack [] 0 _ _ e (S.toNat_lt) ⟨by decide, q2⟩ rfl rfl
  have f30_25 : fld w 30 25 = 36 := fld_pack [(1, S.toNat)] 5 _ _ e (by decide) q2 rfl rfl
  have f24_22 : fld w 24 22 = 4 := fld_pack [(1, S.toNat), (6, 36)] 2 _ _ e (by decide) q3 rfl rfl
  have f21_18 : fld w 21 18 = k.toNat := fld_pack [(1, S.toNat), (6, 36), (3, 4)] 3 _ _ e (k.isLt) q4 rfl rfl
  have f17_13 : fld w 17 13 = a.toNat := fld_pack [(1, S.toNat), (6, 36), (3, 4), (4, k.toNat)] 4 _ _ e (a.isLt) q5 rfl rfl
  have f12_8 : fld w 12 8 = 0 := fld_pack [(1, S.toNat), (6, 36), (3, 4), (4, k.toNat), (5, a.toNat)] 4 _ _ e (Nat.two_pow_pos _) q6 rfl rfl
  have f7_5 : fld w 7 5 = c.code := fld_pack [(1, S.toNat), (6, 36), (3, 4), (4, k.toNat), (5, a.toNat), (5, 0)] 2 _ _ e (scope_bound c) q7 rfl rfl
  have f4_0 : fld w 4 0 = n.toNat := fld_pack [(1, S.toNat), (6, 36), (3, 4), (4, k.toNat), (5, a.toNat), (5, 0), (3, c.code)] 4 _ _ e (n.isLt) q8 rfl rfl
  have n0 : ¬ (w = 0 ∨ w = 4294967295) := not_blank f30_25 (by decide) (by decide)
  clear e hw
  simp only [decode, n0, if_false, decodeSN, f31_31, f30_25, f24_22, f21_18, f17_13, f12_8, f7_5, f4_0, bool_field, bits_field, need_some, Nat.add_zero, scope_code]
  exact accept_ok hwf

theorem waitw (S : Bool) (k : BitVec 4) (a : BitVec 5) (b : BitVec 5) : Statement (.waitw S k a b) := by
  intro hwf w hw
  have e := (Option.some.inj hw).symm
  simp only [word_cons, word_nil, place_eq] at e
  replace e : w = pack [(1, S.toNat), (6, 36), (3, 5), (4, k.toNat), (5, a.toNat), (5, b.toNat), (8, 0)] := e.trans (by simp only [pack, total]; omega)
  have q7 : Fits [] := trivial
  have q6 : Fits [(8, 0)] := ⟨Nat.two_pow_pos _, q7⟩
  have q5 : Fits [(5, b.toNat), (8, 0)] := ⟨b.isLt, q6⟩
  have q4 : Fits [(5, a.toNat), (5, b.toNat), (8, 0)] := ⟨a.isLt, q5⟩
  have q3 : Fits [(4, k.toNat), (5, a.toNat), (5, b.toNat), (8, 0)] := ⟨k.isLt, q4⟩
  have q2 : Fits [(3, 5), (4, k.toNat), (5, a.toNat), (5, b.toNat), (8, 0)] := ⟨by decide, q3⟩
  have f31_31 : fld w 31 31 = S.toNat := fld_pack [] 0 _ _ e (S.toNat_lt) ⟨by decide, q2⟩ rfl rfl
  have f30_25 : fld w 30 25 = 36 := fld_pack [(1, S.toNat)] 5 _ _ e (by decide) q2 rfl rfl
  have f24_22 : fld w 24 22 = 5 := fld_pack [(1, S.toNat), (6, 36)] 2 _ _ e (by decide) q3 rfl rfl
  have f21_18 : fld w 21 18 = k.toNat := fld_pack [(1, S.toNat), (6, 36), (3, 5)] 3 _ _ e (k.isLt) q4 rfl rfl
  have f17_13 : fld w 17 13 = a.toNat := fld_pack [(1, S.toNat), (6, 36), (3, 5), (4, k.toNat)] 4 _ _ e (a.isLt) q5 rfl rfl
  have f12_8 : fld w 12 8 = b.toNat := fld_pack [(1, S.toNat), (6, 36), (3, 5), (4, k.toNat), (5, a.toNat)] 4 _ _ e (b.isLt) q6 rfl rfl
  have f7_0 : fld w 7 0 = 0 := fld_pack [(1, S.toNat), (6, 36), (3, 5), (4, k.toNat), (5, a.toNat), (5, b.toNat)] 7 _ _ e (Nat.two_pow_pos _) q7 rfl rfl
  have n0 : ¬ (w = 0 ∨ w = 4294967295) := not_blank f30_25 (by decide) (by decide)
  clear e hw
  simp only [decode, n0, if_false, decodeSN, f31_31, f30_25, f24_22, f21_18, f17_13, f12_8, f7_0, bool_field, bits_field, need_some, Nat.add_zero]
  exact accept_ok hwf

theorem kmov (S : Bool) (d : BitVec 4) (k : BitVec 4) : Statement (.kmov S d k) := by
  intro hwf w hw
  have e := (Option.some.inj hw).symm
  simp only [word_cons, word_nil, place_eq] at e
  replace e : w = pack [(1, S.toNat), (6, 37), (3, 0), (1, 0), (4, d.toNat), (4, k.toNat), (13, 0)] := e.trans (by simp only [pack, total]; omega)
  have q7 : Fits [] := trivial
  have q6 : Fits [(13, 0)] := ⟨Nat.two_pow_pos _, q7⟩
  have q5 : Fits [(4, k.toNat), (13, 0)] := ⟨k.isLt, q6⟩
  have q4 : Fits [(4, d.toNat), (4, k.toNat), (13, 0)] := ⟨d.isLt, q5⟩
  have q3 : Fits [(1, 0), (4, d.toNat), (4, k.toNat), (13, 0)] := ⟨Nat.two_pow_pos _, q4⟩
  have q2 : Fits [(3, 0), (1, 0), (4, d.toNat), (4, k.toNat), (13, 0)] := ⟨Nat.two_pow_pos _, q3⟩
  have f31_31 : fld w 31 31 = S.toNat := fld_pack [] 0 _ _ e (S.toNat_lt) ⟨by decide, q2⟩ rfl rfl
  have f30_25 : fld w 30 25 = 37 := fld_pack [(1, S.toNat)] 5 _ _ e (by decide) q2 rfl rfl
  have f24_22 : fld w 24 22 = 0 := fld_pack [(1, S.toNat), (6, 37)] 2 _ _ e (Nat.two_pow_pos _) q3 rfl rfl
  have f21_21 : fld w 21 21 = 0 := fld_pack [(1, S.toNat), (6, 37), (3, 0)] 0 _ _ e (Nat.two_pow_pos _) q4 rfl rfl
  have f20_17 : fld w 20 17 = d.toNat := fld_pack [(1, S.toNat), (6, 37), (3, 0), (1, 0)] 3 _ _ e (d.isLt) q5 rfl rfl
  have f16_13 : fld w 16 13 = k.toNat := fld_pack [(1, S.toNat), (6, 37), (3, 0), (1, 0), (4, d.toNat)] 3 _ _ e (k.isLt) q6 rfl rfl
  have f12_0 : fld w 12 0 = 0 := fld_pack [(1, S.toNat), (6, 37), (3, 0), (1, 0), (4, d.toNat), (4, k.toNat)] 12 _ _ e (Nat.two_pow_pos _) q7 rfl rfl
  have n0 : ¬ (w = 0 ∨ w = 4294967295) := not_blank f30_25 (by decide) (by decide)
  clear e hw
  simp only [decode, n0, if_false, decodeKP, f31_31, f30_25, f24_22, f21_21, f20_17, f16_13, f12_0, bool_field, bits_field, need_some, Nat.add_zero]
  exact accept_ok hwf

theorem kwin (S : Bool) (d : BitVec 4) (k : BitVec 4) (a : BitVec 5) (b : BitVec 5) : Statement (.kwin S d k a b) := by
  intro hwf w hw
  have e := (Option.some.inj hw).symm
  simp only [word_cons, word_nil, place_eq] at e
  replace e : w = pack [(1, S.toNat), (6, 37), (3, 1), (1, 0), (4, d.toNat), (4, k.toNat), (5, a.toNat), (5, b.toNat), (3, 0)] := e.trans (by simp only [pack, total]; omega)
  have q9 : Fits [] := trivial
  have q8 : Fits [(3, 0)] := ⟨Nat.two_pow_pos _, q9⟩
  have q7 : Fits [(5, b.toNat), (3, 0)] := ⟨b.isLt, q8⟩
  have q6 : Fits [(5, a.toNat), (5, b.toNat), (3, 0)] := ⟨a.isLt, q7⟩
  have q5 : Fits [(4, k.toNat), (5, a.toNat), (5, b.toNat), (3, 0)] := ⟨k.isLt, q6⟩
  have q4 : Fits [(4, d.toNat), (4, k.toNat), (5, a.toNat), (5, b.toNat), (3, 0)] := ⟨d.isLt, q5⟩
  have q3 : Fits [(1, 0), (4, d.toNat), (4, k.toNat), (5, a.toNat), (5, b.toNat), (3, 0)] := ⟨Nat.two_pow_pos _, q4⟩
  have q2 : Fits [(3, 1), (1, 0), (4, d.toNat), (4, k.toNat), (5, a.toNat), (5, b.toNat), (3, 0)] := ⟨by decide, q3⟩
  have f31_31 : fld w 31 31 = S.toNat := fld_pack [] 0 _ _ e (S.toNat_lt) ⟨by decide, q2⟩ rfl rfl
  have f30_25 : fld w 30 25 = 37 := fld_pack [(1, S.toNat)] 5 _ _ e (by decide) q2 rfl rfl
  have f24_22 : fld w 24 22 = 1 := fld_pack [(1, S.toNat), (6, 37)] 2 _ _ e (by decide) q3 rfl rfl
  have f21_21 : fld w 21 21 = 0 := fld_pack [(1, S.toNat), (6, 37), (3, 1)] 0 _ _ e (Nat.two_pow_pos _) q4 rfl rfl
  have f20_17 : fld w 20 17 = d.toNat := fld_pack [(1, S.toNat), (6, 37), (3, 1), (1, 0)] 3 _ _ e (d.isLt) q5 rfl rfl
  have f16_13 : fld w 16 13 = k.toNat := fld_pack [(1, S.toNat), (6, 37), (3, 1), (1, 0), (4, d.toNat)] 3 _ _ e (k.isLt) q6 rfl rfl
  have f12_8 : fld w 12 8 = a.toNat := fld_pack [(1, S.toNat), (6, 37), (3, 1), (1, 0), (4, d.toNat), (4, k.toNat)] 4 _ _ e (a.isLt) q7 rfl rfl
  have f7_3 : fld w 7 3 = b.toNat := fld_pack [(1, S.toNat), (6, 37), (3, 1), (1, 0), (4, d.toNat), (4, k.toNat), (5, a.toNat)] 4 _ _ e (b.isLt) q8 rfl rfl
  have f2_0 : fld w 2 0 = 0 := fld_pack [(1, S.toNat), (6, 37), (3, 1), (1, 0), (4, d.toNat), (4, k.toNat), (5, a.toNat), (5, b.toNat)] 2 _ _ e (Nat.two_pow_pos _) q9 rfl rfl
  have n0 : ¬ (w = 0 ∨ w = 4294967295) := not_blank f30_25 (by decide) (by decide)
  clear e hw
  simp only [decode, n0, if_false, decodeKP, f31_31, f30_25, f24_22, f21_21, f20_17, f16_13, f12_8, f7_3, f2_0, bool_field, bits_field, need_some, Nat.add_zero]
  exact accept_ok hwf

theorem krights (S : Bool) (d : BitVec 4) (k : BitVec 4) (a : BitVec 5) : Statement (.krights S d k a) := by
  intro hwf w hw
  have e := (Option.some.inj hw).symm
  simp only [word_cons, word_nil, place_eq] at e
  replace e : w = pack [(1, S.toNat), (6, 37), (3, 2), (1, 0), (4, d.toNat), (4, k.toNat), (5, a.toNat), (8, 0)] := e.trans (by simp only [pack, total]; omega)
  have q8 : Fits [] := trivial
  have q7 : Fits [(8, 0)] := ⟨Nat.two_pow_pos _, q8⟩
  have q6 : Fits [(5, a.toNat), (8, 0)] := ⟨a.isLt, q7⟩
  have q5 : Fits [(4, k.toNat), (5, a.toNat), (8, 0)] := ⟨k.isLt, q6⟩
  have q4 : Fits [(4, d.toNat), (4, k.toNat), (5, a.toNat), (8, 0)] := ⟨d.isLt, q5⟩
  have q3 : Fits [(1, 0), (4, d.toNat), (4, k.toNat), (5, a.toNat), (8, 0)] := ⟨Nat.two_pow_pos _, q4⟩
  have q2 : Fits [(3, 2), (1, 0), (4, d.toNat), (4, k.toNat), (5, a.toNat), (8, 0)] := ⟨by decide, q3⟩
  have f31_31 : fld w 31 31 = S.toNat := fld_pack [] 0 _ _ e (S.toNat_lt) ⟨by decide, q2⟩ rfl rfl
  have f30_25 : fld w 30 25 = 37 := fld_pack [(1, S.toNat)] 5 _ _ e (by decide) q2 rfl rfl
  have f24_22 : fld w 24 22 = 2 := fld_pack [(1, S.toNat), (6, 37)] 2 _ _ e (by decide) q3 rfl rfl
  have f21_21 : fld w 21 21 = 0 := fld_pack [(1, S.toNat), (6, 37), (3, 2)] 0 _ _ e (Nat.two_pow_pos _) q4 rfl rfl
  have f20_17 : fld w 20 17 = d.toNat := fld_pack [(1, S.toNat), (6, 37), (3, 2), (1, 0)] 3 _ _ e (d.isLt) q5 rfl rfl
  have f16_13 : fld w 16 13 = k.toNat := fld_pack [(1, S.toNat), (6, 37), (3, 2), (1, 0), (4, d.toNat)] 3 _ _ e (k.isLt) q6 rfl rfl
  have f12_8 : fld w 12 8 = a.toNat := fld_pack [(1, S.toNat), (6, 37), (3, 2), (1, 0), (4, d.toNat), (4, k.toNat)] 4 _ _ e (a.isLt) q7 rfl rfl
  have f7_0 : fld w 7 0 = 0 := fld_pack [(1, S.toNat), (6, 37), (3, 2), (1, 0), (4, d.toNat), (4, k.toNat), (5, a.toNat)] 7 _ _ e (Nat.two_pow_pos _) q8 rfl rfl
  have n0 : ¬ (w = 0 ∨ w = 4294967295) := not_blank f30_25 (by decide) (by decide)
  clear e hw
  simp only [decode, n0, if_false, decodeKP, f31_31, f30_25, f24_22, f21_21, f20_17, f16_13, f12_8, f7_0, bool_field, bits_field, need_some, Nat.add_zero]
  exact accept_ok hwf

theorem kld (S : Bool) (d : BitVec 4) (k : BitVec 4) (a : BitVec 5) : Statement (.kld S d k a) := by
  intro hwf w hw
  have e := (Option.some.inj hw).symm
  simp only [word_cons, word_nil, place_eq] at e
  replace e : w = pack [(1, S.toNat), (6, 37), (3, 3), (1, 0), (4, d.toNat), (4, k.toNat), (5, a.toNat), (8, 0)] := e.trans (by simp only [pack, total]; omega)
  have q8 : Fits [] := trivial
  have q7 : Fits [(8, 0)] := ⟨Nat.two_pow_pos _, q8⟩
  have q6 : Fits [(5, a.toNat), (8, 0)] := ⟨a.isLt, q7⟩
  have q5 : Fits [(4, k.toNat), (5, a.toNat), (8, 0)] := ⟨k.isLt, q6⟩
  have q4 : Fits [(4, d.toNat), (4, k.toNat), (5, a.toNat), (8, 0)] := ⟨d.isLt, q5⟩
  have q3 : Fits [(1, 0), (4, d.toNat), (4, k.toNat), (5, a.toNat), (8, 0)] := ⟨Nat.two_pow_pos _, q4⟩
  have q2 : Fits [(3, 3), (1, 0), (4, d.toNat), (4, k.toNat), (5, a.toNat), (8, 0)] := ⟨by decide, q3⟩
  have f31_31 : fld w 31 31 = S.toNat := fld_pack [] 0 _ _ e (S.toNat_lt) ⟨by decide, q2⟩ rfl rfl
  have f30_25 : fld w 30 25 = 37 := fld_pack [(1, S.toNat)] 5 _ _ e (by decide) q2 rfl rfl
  have f24_22 : fld w 24 22 = 3 := fld_pack [(1, S.toNat), (6, 37)] 2 _ _ e (by decide) q3 rfl rfl
  have f21_21 : fld w 21 21 = 0 := fld_pack [(1, S.toNat), (6, 37), (3, 3)] 0 _ _ e (Nat.two_pow_pos _) q4 rfl rfl
  have f20_17 : fld w 20 17 = d.toNat := fld_pack [(1, S.toNat), (6, 37), (3, 3), (1, 0)] 3 _ _ e (d.isLt) q5 rfl rfl
  have f16_13 : fld w 16 13 = k.toNat := fld_pack [(1, S.toNat), (6, 37), (3, 3), (1, 0), (4, d.toNat)] 3 _ _ e (k.isLt) q6 rfl rfl
  have f12_8 : fld w 12 8 = a.toNat := fld_pack [(1, S.toNat), (6, 37), (3, 3), (1, 0), (4, d.toNat), (4, k.toNat)] 4 _ _ e (a.isLt) q7 rfl rfl
  have f7_0 : fld w 7 0 = 0 := fld_pack [(1, S.toNat), (6, 37), (3, 3), (1, 0), (4, d.toNat), (4, k.toNat), (5, a.toNat)] 7 _ _ e (Nat.two_pow_pos _) q8 rfl rfl
  have n0 : ¬ (w = 0 ∨ w = 4294967295) := not_blank f30_25 (by decide) (by decide)
  clear e hw
  simp only [decode, n0, if_false, decodeKP, f31_31, f30_25, f24_22, f21_21, f20_17, f16_13, f12_8, f7_0, bool_field, bits_field, need_some, Nat.add_zero]
  exact accept_ok hwf

theorem kst (S : Bool) (d : BitVec 4) (k : BitVec 4) (a : BitVec 5) : Statement (.kst S d k a) := by
  intro hwf w hw
  have e := (Option.some.inj hw).symm
  simp only [word_cons, word_nil, place_eq] at e
  replace e : w = pack [(1, S.toNat), (6, 37), (3, 4), (1, 0), (4, d.toNat), (4, k.toNat), (5, a.toNat), (8, 0)] := e.trans (by simp only [pack, total]; omega)
  have q8 : Fits [] := trivial
  have q7 : Fits [(8, 0)] := ⟨Nat.two_pow_pos _, q8⟩
  have q6 : Fits [(5, a.toNat), (8, 0)] := ⟨a.isLt, q7⟩
  have q5 : Fits [(4, k.toNat), (5, a.toNat), (8, 0)] := ⟨k.isLt, q6⟩
  have q4 : Fits [(4, d.toNat), (4, k.toNat), (5, a.toNat), (8, 0)] := ⟨d.isLt, q5⟩
  have q3 : Fits [(1, 0), (4, d.toNat), (4, k.toNat), (5, a.toNat), (8, 0)] := ⟨Nat.two_pow_pos _, q4⟩
  have q2 : Fits [(3, 4), (1, 0), (4, d.toNat), (4, k.toNat), (5, a.toNat), (8, 0)] := ⟨by decide, q3⟩
  have f31_31 : fld w 31 31 = S.toNat := fld_pack [] 0 _ _ e (S.toNat_lt) ⟨by decide, q2⟩ rfl rfl
  have f30_25 : fld w 30 25 = 37 := fld_pack [(1, S.toNat)] 5 _ _ e (by decide) q2 rfl rfl
  have f24_22 : fld w 24 22 = 4 := fld_pack [(1, S.toNat), (6, 37)] 2 _ _ e (by decide) q3 rfl rfl
  have f21_21 : fld w 21 21 = 0 := fld_pack [(1, S.toNat), (6, 37), (3, 4)] 0 _ _ e (Nat.two_pow_pos _) q4 rfl rfl
  have f20_17 : fld w 20 17 = d.toNat := fld_pack [(1, S.toNat), (6, 37), (3, 4), (1, 0)] 3 _ _ e (d.isLt) q5 rfl rfl
  have f16_13 : fld w 16 13 = k.toNat := fld_pack [(1, S.toNat), (6, 37), (3, 4), (1, 0), (4, d.toNat)] 3 _ _ e (k.isLt) q6 rfl rfl
  have f12_8 : fld w 12 8 = a.toNat := fld_pack [(1, S.toNat), (6, 37), (3, 4), (1, 0), (4, d.toNat), (4, k.toNat)] 4 _ _ e (a.isLt) q7 rfl rfl
  have f7_0 : fld w 7 0 = 0 := fld_pack [(1, S.toNat), (6, 37), (3, 4), (1, 0), (4, d.toNat), (4, k.toNat), (5, a.toNat)] 7 _ _ e (Nat.two_pow_pos _) q8 rfl rfl
  have n0 : ¬ (w = 0 ∨ w = 4294967295) := not_blank f30_25 (by decide) (by decide)
  clear e hw
  simp only [decode, n0, if_false, decodeKP, f31_31, f30_25, f24_22, f21_21, f20_17, f16_13, f12_8, f7_0, bool_field, bits_field, need_some, Nat.add_zero]
  exact accept_ok hwf

theorem kget (S : Bool) (d : BitVec 5) (k : BitVec 4) (x : CapField) : Statement (.kget S d k x) := by
  intro hwf w hw
  have e := (Option.some.inj hw).symm
  simp only [word_cons, word_nil, place_eq] at e
  replace e : w = pack [(1, S.toNat), (6, 37), (3, 5), (5, d.toNat), (4, k.toNat), (10, 0), (3, x.code)] := e.trans (by simp only [pack, total]; omega)
  have q7 : Fits [] := trivial
  have q6 : Fits [(3, x.code)] := ⟨capfield_bound x, q7⟩
  have q5 : Fits [(10, 0), (3, x.code)] := ⟨Nat.two_pow_pos _, q6⟩
  have q4 : Fits [(4, k.toNat), (10, 0), (3, x.code)] := ⟨k.isLt, q5⟩
  have q3 : Fits [(5, d.toNat), (4, k.toNat), (10, 0), (3, x.code)] := ⟨d.isLt, q4⟩
  have q2 : Fits [(3, 5), (5, d.toNat), (4, k.toNat), (10, 0), (3, x.code)] := ⟨by decide, q3⟩
  have f31_31 : fld w 31 31 = S.toNat := fld_pack [] 0 _ _ e (S.toNat_lt) ⟨by decide, q2⟩ rfl rfl
  have f30_25 : fld w 30 25 = 37 := fld_pack [(1, S.toNat)] 5 _ _ e (by decide) q2 rfl rfl
  have f24_22 : fld w 24 22 = 5 := fld_pack [(1, S.toNat), (6, 37)] 2 _ _ e (by decide) q3 rfl rfl
  have f21_17 : fld w 21 17 = d.toNat := fld_pack [(1, S.toNat), (6, 37), (3, 5)] 4 _ _ e (d.isLt) q4 rfl rfl
  have f16_13 : fld w 16 13 = k.toNat := fld_pack [(1, S.toNat), (6, 37), (3, 5), (5, d.toNat)] 3 _ _ e (k.isLt) q5 rfl rfl
  have f12_3 : fld w 12 3 = 0 := fld_pack [(1, S.toNat), (6, 37), (3, 5), (5, d.toNat), (4, k.toNat)] 9 _ _ e (Nat.two_pow_pos _) q6 rfl rfl
  have f2_0 : fld w 2 0 = x.code := fld_pack [(1, S.toNat), (6, 37), (3, 5), (5, d.toNat), (4, k.toNat), (10, 0)] 2 _ _ e (capfield_bound x) q7 rfl rfl
  have n0 : ¬ (w = 0 ∨ w = 4294967295) := not_blank f30_25 (by decide) (by decide)
  clear e hw
  simp only [decode, n0, if_false, decodeKP, f31_31, f30_25, f24_22, f21_17, f16_13, f12_3, f2_0, bool_field, bits_field, need_some, Nat.add_zero, capfield_code]
  exact accept_ok hwf

theorem ktag (S : Bool) (d : BitVec 5) (k : BitVec 4) : Statement (.ktag S d k) := by
  intro hwf w hw
  have e := (Option.some.inj hw).symm
  simp only [word_cons, word_nil, place_eq] at e
  replace e : w = pack [(1, S.toNat), (6, 37), (3, 6), (5, d.toNat), (4, k.toNat), (13, 0)] := e.trans (by simp only [pack, total]; omega)
  have q6 : Fits [] := trivial
  have q5 : Fits [(13, 0)] := ⟨Nat.two_pow_pos _, q6⟩
  have q4 : Fits [(4, k.toNat), (13, 0)] := ⟨k.isLt, q5⟩
  have q3 : Fits [(5, d.toNat), (4, k.toNat), (13, 0)] := ⟨d.isLt, q4⟩
  have q2 : Fits [(3, 6), (5, d.toNat), (4, k.toNat), (13, 0)] := ⟨by decide, q3⟩
  have f31_31 : fld w 31 31 = S.toNat := fld_pack [] 0 _ _ e (S.toNat_lt) ⟨by decide, q2⟩ rfl rfl
  have f30_25 : fld w 30 25 = 37 := fld_pack [(1, S.toNat)] 5 _ _ e (by decide) q2 rfl rfl
  have f24_22 : fld w 24 22 = 6 := fld_pack [(1, S.toNat), (6, 37)] 2 _ _ e (by decide) q3 rfl rfl
  have f21_17 : fld w 21 17 = d.toNat := fld_pack [(1, S.toNat), (6, 37), (3, 6)] 4 _ _ e (d.isLt) q4 rfl rfl
  have f16_13 : fld w 16 13 = k.toNat := fld_pack [(1, S.toNat), (6, 37), (3, 6), (5, d.toNat)] 3 _ _ e (k.isLt) q5 rfl rfl
  have f12_0 : fld w 12 0 = 0 := fld_pack [(1, S.toNat), (6, 37), (3, 6), (5, d.toNat), (4, k.toNat)] 12 _ _ e (Nat.two_pow_pos _) q6 rfl rfl
  have n0 : ¬ (w = 0 ∨ w = 4294967295) := not_blank f30_25 (by decide) (by decide)
  clear e hw
  simp only [decode, n0, if_false, decodeKP, f31_31, f30_25, f24_22, f21_17, f16_13, f12_0, bool_field, bits_field, need_some, Nat.add_zero]
  exact accept_ok hwf

theorem tcfg (S : Bool) (t : BitVec 4) (a : BitVec 5) : Statement (.tcfg S t a) := by
  intro hwf w hw
  have e := (Option.some.inj hw).symm
  simp only [word_cons, word_nil, place_eq] at e
  replace e : w = pack [(1, S.toNat), (6, 40), (2, 0), (4, t.toNat), (5, a.toNat), (14, 0)] := e.trans (by simp only [pack, total]; omega)
  have q6 : Fits [] := trivial
  have q5 : Fits [(14, 0)] := ⟨Nat.two_pow_pos _, q6⟩
  have q4 : Fits [(5, a.toNat), (14, 0)] := ⟨a.isLt, q5⟩
  have q3 : Fits [(4, t.toNat), (5, a.toNat), (14, 0)] := ⟨t.isLt, q4⟩
  have q2 : Fits [(2, 0), (4, t.toNat), (5, a.toNat), (14, 0)] := ⟨Nat.two_pow_pos _, q3⟩
  have f31_31 : fld w 31 31 = S.toNat := fld_pack [] 0 _ _ e (S.toNat_lt) ⟨by decide, q2⟩ rfl rfl
  have f30_25 : fld w 30 25 = 40 := fld_pack [(1, S.toNat)] 5 _ _ e (by decide) q2 rfl rfl
  have f24_23 : fld w 24 23 = 0 := fld_pack [(1, S.toNat), (6, 40)] 1 _ _ e (Nat.two_pow_pos _) q3 rfl rfl
  have f22_19 : fld w 22 19 = t.toNat := fld_pack [(1, S.toNat), (6, 40), (2, 0)] 3 _ _ e (t.isLt) q4 rfl rfl
  have f18_14 : fld w 18 14 = a.toNat := fld_pack [(1, S.toNat), (6, 40), (2, 0), (4, t.toNat)] 4 _ _ e (a.isLt) q5 rfl rfl
  have f13_0 : fld w 13 0 = 0 := fld_pack [(1, S.toNat), (6, 40), (2, 0), (4, t.toNat), (5, a.toNat)] 13 _ _ e (Nat.two_pow_pos _) q6 rfl rfl
  have n0 : ¬ (w = 0 ∨ w = 4294967295) := not_blank f30_25 (by decide) (by decide)
  clear e hw
  simp only [decode, n0, if_false, decodeMC, f31_31, f30_25, f24_23, f22_19, f18_14, f13_0, bool_field, bits_field, need_some, Nat.add_zero]
  exact accept_ok hwf

theorem acfg (S : Bool) (d : BitVec 3) (a : BitVec 5) : Statement (.acfg S d a) := by
  intro hwf w hw
  have e := (Option.some.inj hw).symm
  simp only [word_cons, word_nil, place_eq] at e
  replace e : w = pack [(1, S.toNat), (6, 40), (2, 1), (1, 0), (3, d.toNat), (5, a.toNat), (14, 0)] := e.trans (by simp only [pack, total]; omega)
  have q7 : Fits [] := trivial
  have q6 : Fits [(14, 0)] := ⟨Nat.two_pow_pos _, q7⟩
  have q5 : Fits [(5, a.toNat), (14, 0)] := ⟨a.isLt, q6⟩
  have q4 : Fits [(3, d.toNat), (5, a.toNat), (14, 0)] := ⟨d.isLt, q5⟩
  have q3 : Fits [(1, 0), (3, d.toNat), (5, a.toNat), (14, 0)] := ⟨Nat.two_pow_pos _, q4⟩
  have q2 : Fits [(2, 1), (1, 0), (3, d.toNat), (5, a.toNat), (14, 0)] := ⟨by decide, q3⟩
  have f31_31 : fld w 31 31 = S.toNat := fld_pack [] 0 _ _ e (S.toNat_lt) ⟨by decide, q2⟩ rfl rfl
  have f30_25 : fld w 30 25 = 40 := fld_pack [(1, S.toNat)] 5 _ _ e (by decide) q2 rfl rfl
  have f24_23 : fld w 24 23 = 1 := fld_pack [(1, S.toNat), (6, 40)] 1 _ _ e (by decide) q3 rfl rfl
  have f22_22 : fld w 22 22 = 0 := fld_pack [(1, S.toNat), (6, 40), (2, 1)] 0 _ _ e (Nat.two_pow_pos _) q4 rfl rfl
  have f21_19 : fld w 21 19 = d.toNat := fld_pack [(1, S.toNat), (6, 40), (2, 1), (1, 0)] 2 _ _ e (d.isLt) q5 rfl rfl
  have f18_14 : fld w 18 14 = a.toNat := fld_pack [(1, S.toNat), (6, 40), (2, 1), (1, 0), (3, d.toNat)] 4 _ _ e (a.isLt) q6 rfl rfl
  have f13_0 : fld w 13 0 = 0 := fld_pack [(1, S.toNat), (6, 40), (2, 1), (1, 0), (3, d.toNat), (5, a.toNat)] 13 _ _ e (Nat.two_pow_pos _) q7 rfl rfl
  have n0 : ¬ (w = 0 ∨ w = 4294967295) := not_blank f30_25 (by decide) (by decide)
  clear e hw
  simp only [decode, n0, if_false, decodeMC, f31_31, f30_25, f24_23, f22_22, f21_19, f18_14, f13_0, bool_field, bits_field, need_some, Nat.add_zero]
  exact accept_ok hwf

theorem tld (S : Bool) (t : BitVec 4) (k : BitVec 4) (a : BitVec 5) (b : BitVec 5) (p : Part) : Statement (.tld S t k a b p) := by
  intro hwf w hw
  have e := (Option.some.inj hw).symm
  simp only [word_cons, word_nil, place_eq] at e
  replace e : w = pack [(1, S.toNat), (6, 41), (1, 0), (4, t.toNat), (4, k.toNat), (5, a.toNat), (5, b.toNat), (2, p.code), (4, 0)] := e.trans (by simp only [pack, total]; omega)
  have q9 : Fits [] := trivial
  have q8 : Fits [(4, 0)] := ⟨Nat.two_pow_pos _, q9⟩
  have q7 : Fits [(2, p.code), (4, 0)] := ⟨part_bound p, q8⟩
  have q6 : Fits [(5, b.toNat), (2, p.code), (4, 0)] := ⟨b.isLt, q7⟩
  have q5 : Fits [(5, a.toNat), (5, b.toNat), (2, p.code), (4, 0)] := ⟨a.isLt, q6⟩
  have q4 : Fits [(4, k.toNat), (5, a.toNat), (5, b.toNat), (2, p.code), (4, 0)] := ⟨k.isLt, q5⟩
  have q3 : Fits [(4, t.toNat), (4, k.toNat), (5, a.toNat), (5, b.toNat), (2, p.code), (4, 0)] := ⟨t.isLt, q4⟩
  have q2 : Fits [(1, 0), (4, t.toNat), (4, k.toNat), (5, a.toNat), (5, b.toNat), (2, p.code), (4, 0)] := ⟨Nat.two_pow_pos _, q3⟩
  have f31_31 : fld w 31 31 = S.toNat := fld_pack [] 0 _ _ e (S.toNat_lt) ⟨by decide, q2⟩ rfl rfl
  have f30_25 : fld w 30 25 = 41 := fld_pack [(1, S.toNat)] 5 _ _ e (by decide) q2 rfl rfl
  have f24_24 : fld w 24 24 = 0 := fld_pack [(1, S.toNat), (6, 41)] 0 _ _ e (Nat.two_pow_pos _) q3 rfl rfl
  have f23_20 : fld w 23 20 = t.toNat := fld_pack [(1, S.toNat), (6, 41), (1, 0)] 3 _ _ e (t.isLt) q4 rfl rfl
  have f19_16 : fld w 19 16 = k.toNat := fld_pack [(1, S.toNat), (6, 41), (1, 0), (4, t.toNat)] 3 _ _ e (k.isLt) q5 rfl rfl
  have f15_11 : fld w 15 11 = a.toNat := fld_pack [(1, S.toNat), (6, 41), (1, 0), (4, t.toNat), (4, k.toNat)] 4 _ _ e (a.isLt) q6 rfl rfl
  have f10_6 : fld w 10 6 = b.toNat := fld_pack [(1, S.toNat), (6, 41), (1, 0), (4, t.toNat), (4, k.toNat), (5, a.toNat)] 4 _ _ e (b.isLt) q7 rfl rfl
  have f5_4 : fld w 5 4 = p.code := fld_pack [(1, S.toNat), (6, 41), (1, 0), (4, t.toNat), (4, k.toNat), (5, a.toNat), (5, b.toNat)] 1 _ _ e (part_bound p) q8 rfl rfl
  have f3_0 : fld w 3 0 = 0 := fld_pack [(1, S.toNat), (6, 41), (1, 0), (4, t.toNat), (4, k.toNat), (5, a.toNat), (5, b.toNat), (2, p.code)] 3 _ _ e (Nat.two_pow_pos _) q9 rfl rfl
  have n0 : ¬ (w = 0 ∨ w = 4294967295) := not_blank f30_25 (by decide) (by decide)
  clear e hw
  simp only [decode, n0, if_false, decodeMT, f31_31, f30_25, f24_24, f23_20, f19_16, f15_11, f10_6, f5_4, f3_0, bool_field, bits_field, need_some, Nat.add_zero, part_code]
  exact accept_ok hwf

theorem tst (S : Bool) (t : BitVec 4) (k : BitVec 4) (a : BitVec 5) (b : BitVec 5) (p : Part) : Statement (.tst S t k a b p) := by
  intro hwf w hw
  have e := (Option.some.inj hw).symm
  simp only [word_cons, word_nil, place_eq] at e
  replace e : w = pack [(1, S.toNat), (6, 41), (1, 1), (4, t.toNat), (4, k.toNat), (5, a.toNat), (5, b.toNat), (2, p.code), (4, 0)] := e.trans (by simp only [pack, total]; omega)
  have q9 : Fits [] := trivial
  have q8 : Fits [(4, 0)] := ⟨Nat.two_pow_pos _, q9⟩
  have q7 : Fits [(2, p.code), (4, 0)] := ⟨part_bound p, q8⟩
  have q6 : Fits [(5, b.toNat), (2, p.code), (4, 0)] := ⟨b.isLt, q7⟩
  have q5 : Fits [(5, a.toNat), (5, b.toNat), (2, p.code), (4, 0)] := ⟨a.isLt, q6⟩
  have q4 : Fits [(4, k.toNat), (5, a.toNat), (5, b.toNat), (2, p.code), (4, 0)] := ⟨k.isLt, q5⟩
  have q3 : Fits [(4, t.toNat), (4, k.toNat), (5, a.toNat), (5, b.toNat), (2, p.code), (4, 0)] := ⟨t.isLt, q4⟩
  have q2 : Fits [(1, 1), (4, t.toNat), (4, k.toNat), (5, a.toNat), (5, b.toNat), (2, p.code), (4, 0)] := ⟨by decide, q3⟩
  have f31_31 : fld w 31 31 = S.toNat := fld_pack [] 0 _ _ e (S.toNat_lt) ⟨by decide, q2⟩ rfl rfl
  have f30_25 : fld w 30 25 = 41 := fld_pack [(1, S.toNat)] 5 _ _ e (by decide) q2 rfl rfl
  have f24_24 : fld w 24 24 = 1 := fld_pack [(1, S.toNat), (6, 41)] 0 _ _ e (by decide) q3 rfl rfl
  have f23_20 : fld w 23 20 = t.toNat := fld_pack [(1, S.toNat), (6, 41), (1, 1)] 3 _ _ e (t.isLt) q4 rfl rfl
  have f19_16 : fld w 19 16 = k.toNat := fld_pack [(1, S.toNat), (6, 41), (1, 1), (4, t.toNat)] 3 _ _ e (k.isLt) q5 rfl rfl
  have f15_11 : fld w 15 11 = a.toNat := fld_pack [(1, S.toNat), (6, 41), (1, 1), (4, t.toNat), (4, k.toNat)] 4 _ _ e (a.isLt) q6 rfl rfl
  have f10_6 : fld w 10 6 = b.toNat := fld_pack [(1, S.toNat), (6, 41), (1, 1), (4, t.toNat), (4, k.toNat), (5, a.toNat)] 4 _ _ e (b.isLt) q7 rfl rfl
  have f5_4 : fld w 5 4 = p.code := fld_pack [(1, S.toNat), (6, 41), (1, 1), (4, t.toNat), (4, k.toNat), (5, a.toNat), (5, b.toNat)] 1 _ _ e (part_bound p) q8 rfl rfl
  have f3_0 : fld w 3 0 = 0 := fld_pack [(1, S.toNat), (6, 41), (1, 1), (4, t.toNat), (4, k.toNat), (5, a.toNat), (5, b.toNat), (2, p.code)] 3 _ _ e (Nat.two_pow_pos _) q9 rfl rfl
  have n0 : ¬ (w = 0 ∨ w = 4294967295) := not_blank f30_25 (by decide) (by decide)
  clear e hw
  simp only [decode, n0, if_false, decodeMT, f31_31, f30_25, f24_24, f23_20, f19_16, f15_11, f10_6, f5_4, f3_0, bool_field, bits_field, need_some, Nat.add_zero, part_code]
  exact accept_ok hwf

theorem mma (S : Bool) (d : BitVec 3) (a : BitVec 4) (b : BitVec 4) (h : Shape) : Statement (.mma S d a b h) := by
  intro hwf w hw
  have e := (Option.some.inj hw).symm
  simp only [word_cons, word_nil, place_eq] at e
  replace e : w = pack [(1, S.toNat), (6, 42), (1, 0), (3, d.toNat), (4, a.toNat), (4, b.toNat), (2, h.code), (11, 0)] := e.trans (by simp only [pack, total]; omega)
  have q8 : Fits [] := trivial
  have q7 : Fits [(11, 0)] := ⟨Nat.two_pow_pos _, q8⟩
  have q6 : Fits [(2, h.code), (11, 0)] := ⟨shape_bound h, q7⟩
  have q5 : Fits [(4, b.toNat), (2, h.code), (11, 0)] := ⟨b.isLt, q6⟩
  have q4 : Fits [(4, a.toNat), (4, b.toNat), (2, h.code), (11, 0)] := ⟨a.isLt, q5⟩
  have q3 : Fits [(3, d.toNat), (4, a.toNat), (4, b.toNat), (2, h.code), (11, 0)] := ⟨d.isLt, q4⟩
  have q2 : Fits [(1, 0), (3, d.toNat), (4, a.toNat), (4, b.toNat), (2, h.code), (11, 0)] := ⟨Nat.two_pow_pos _, q3⟩
  have f31_31 : fld w 31 31 = S.toNat := fld_pack [] 0 _ _ e (S.toNat_lt) ⟨by decide, q2⟩ rfl rfl
  have f30_25 : fld w 30 25 = 42 := fld_pack [(1, S.toNat)] 5 _ _ e (by decide) q2 rfl rfl
  have f24_24 : fld w 24 24 = 0 := fld_pack [(1, S.toNat), (6, 42)] 0 _ _ e (Nat.two_pow_pos _) q3 rfl rfl
  have f23_21 : fld w 23 21 = d.toNat := fld_pack [(1, S.toNat), (6, 42), (1, 0)] 2 _ _ e (d.isLt) q4 rfl rfl
  have f20_17 : fld w 20 17 = a.toNat := fld_pack [(1, S.toNat), (6, 42), (1, 0), (3, d.toNat)] 3 _ _ e (a.isLt) q5 rfl rfl
  have f16_13 : fld w 16 13 = b.toNat := fld_pack [(1, S.toNat), (6, 42), (1, 0), (3, d.toNat), (4, a.toNat)] 3 _ _ e (b.isLt) q6 rfl rfl
  have f12_11 : fld w 12 11 = h.code := fld_pack [(1, S.toNat), (6, 42), (1, 0), (3, d.toNat), (4, a.toNat), (4, b.toNat)] 1 _ _ e (shape_bound h) q7 rfl rfl
  have f10_0 : fld w 10 0 = 0 := fld_pack [(1, S.toNat), (6, 42), (1, 0), (3, d.toNat), (4, a.toNat), (4, b.toNat), (2, h.code)] 10 _ _ e (Nat.two_pow_pos _) q8 rfl rfl
  have n0 : ¬ (w = 0 ∨ w = 4294967295) := not_blank f30_25 (by decide) (by decide)
  clear e hw
  simp only [decode, n0, if_false, decodeMM, f31_31, f30_25, f24_24, f23_21, f20_17, f16_13, f12_11, f10_0, bool_field, bits_field, need_some, Nat.add_zero, shape_code]
  exact accept_ok hwf

theorem mmb (S : Bool) (d : BitVec 3) (a : BitVec 4) (b : BitVec 4) (o : MmbOp) : Statement (.mmb S d a b o) := by
  intro hwf w hw
  have e := (Option.some.inj hw).symm
  simp only [word_cons, word_nil, place_eq] at e
  replace e : w = pack [(1, S.toNat), (6, 42), (1, 1), (3, d.toNat), (4, a.toNat), (4, b.toNat), (1, 0), (1, o.code), (11, 0)] := e.trans (by simp only [pack, total]; omega)
  have q9 : Fits [] := trivial
  have q8 : Fits [(11, 0)] := ⟨Nat.two_pow_pos _, q9⟩
  have q7 : Fits [(1, o.code), (11, 0)] := ⟨mmbop_bound o, q8⟩
  have q6 : Fits [(1, 0), (1, o.code), (11, 0)] := ⟨Nat.two_pow_pos _, q7⟩
  have q5 : Fits [(4, b.toNat), (1, 0), (1, o.code), (11, 0)] := ⟨b.isLt, q6⟩
  have q4 : Fits [(4, a.toNat), (4, b.toNat), (1, 0), (1, o.code), (11, 0)] := ⟨a.isLt, q5⟩
  have q3 : Fits [(3, d.toNat), (4, a.toNat), (4, b.toNat), (1, 0), (1, o.code), (11, 0)] := ⟨d.isLt, q4⟩
  have q2 : Fits [(1, 1), (3, d.toNat), (4, a.toNat), (4, b.toNat), (1, 0), (1, o.code), (11, 0)] := ⟨by decide, q3⟩
  have f31_31 : fld w 31 31 = S.toNat := fld_pack [] 0 _ _ e (S.toNat_lt) ⟨by decide, q2⟩ rfl rfl
  have f30_25 : fld w 30 25 = 42 := fld_pack [(1, S.toNat)] 5 _ _ e (by decide) q2 rfl rfl
  have f24_24 : fld w 24 24 = 1 := fld_pack [(1, S.toNat), (6, 42)] 0 _ _ e (by decide) q3 rfl rfl
  have f23_21 : fld w 23 21 = d.toNat := fld_pack [(1, S.toNat), (6, 42), (1, 1)] 2 _ _ e (d.isLt) q4 rfl rfl
  have f20_17 : fld w 20 17 = a.toNat := fld_pack [(1, S.toNat), (6, 42), (1, 1), (3, d.toNat)] 3 _ _ e (a.isLt) q5 rfl rfl
  have f16_13 : fld w 16 13 = b.toNat := fld_pack [(1, S.toNat), (6, 42), (1, 1), (3, d.toNat), (4, a.toNat)] 3 _ _ e (b.isLt) q6 rfl rfl
  have f12_12 : fld w 12 12 = 0 := fld_pack [(1, S.toNat), (6, 42), (1, 1), (3, d.toNat), (4, a.toNat), (4, b.toNat)] 0 _ _ e (Nat.two_pow_pos _) q7 rfl rfl
  have f11_11 : fld w 11 11 = o.code := fld_pack [(1, S.toNat), (6, 42), (1, 1), (3, d.toNat), (4, a.toNat), (4, b.toNat), (1, 0)] 0 _ _ e (mmbop_bound o) q8 rfl rfl
  have f10_0 : fld w 10 0 = 0 := fld_pack [(1, S.toNat), (6, 42), (1, 1), (3, d.toNat), (4, a.toNat), (4, b.toNat), (1, 0), (1, o.code)] 10 _ _ e (Nat.two_pow_pos _) q9 rfl rfl
  have n0 : ¬ (w = 0 ∨ w = 4294967295) := not_blank f30_25 (by decide) (by decide)
  clear e hw
  simp only [decode, n0, if_false, decodeMM, f31_31, f30_25, f24_24, f23_21, f20_17, f16_13, f12_12, f11_11, f10_0, bool_field, bits_field, need_some, Nat.add_zero, mmbop_code]
  exact accept_ok hwf

theorem azero (S : Bool) (d : BitVec 3) : Statement (.azero S d) := by
  intro hwf w hw
  have e := (Option.some.inj hw).symm
  simp only [word_cons, word_nil, place_eq] at e
  replace e : w = pack [(1, S.toNat), (6, 43), (2, 0), (3, d.toNat), (20, 0)] := e.trans (by simp only [pack, total]; omega)
  have q5 : Fits [] := trivial
  have q4 : Fits [(20, 0)] := ⟨Nat.two_pow_pos _, q5⟩
  have q3 : Fits [(3, d.toNat), (20, 0)] := ⟨d.isLt, q4⟩
  have q2 : Fits [(2, 0), (3, d.toNat), (20, 0)] := ⟨Nat.two_pow_pos _, q3⟩
  have f31_31 : fld w 31 31 = S.toNat := fld_pack [] 0 _ _ e (S.toNat_lt) ⟨by decide, q2⟩ rfl rfl
  have f30_25 : fld w 30 25 = 43 := fld_pack [(1, S.toNat)] 5 _ _ e (by decide) q2 rfl rfl
  have f24_23 : fld w 24 23 = 0 := fld_pack [(1, S.toNat), (6, 43)] 1 _ _ e (Nat.two_pow_pos _) q3 rfl rfl
  have f22_20 : fld w 22 20 = d.toNat := fld_pack [(1, S.toNat), (6, 43), (2, 0)] 2 _ _ e (d.isLt) q4 rfl rfl
  have f19_0 : fld w 19 0 = 0 := fld_pack [(1, S.toNat), (6, 43), (2, 0), (3, d.toNat)] 19 _ _ e (Nat.two_pow_pos _) q5 rfl rfl
  have n0 : ¬ (w = 0 ∨ w = 4294967295) := not_blank f30_25 (by decide) (by decide)
  clear e hw
  simp only [decode, n0, if_false, decodeMA, f31_31, f30_25, f24_23, f22_20, f19_0, bool_field, bits_field, need_some, Nat.add_zero]
  exact accept_ok hwf

theorem ard (S : Bool) (d : BitVec 3) (v : BitVec 7) (c : BitVec 6) : Statement (.ard S d v c) := by
  intro hwf w hw
  have e := (Option.some.inj hw).symm
  simp only [word_cons, word_nil, place_eq] at e
  replace e : w = pack [(1, S.toNat), (6, 43), (2, 1), (3, d.toNat), (7, v.toNat), (6, c.toNat), (7, 0)] := e.trans (by simp only [pack, total]; omega)
  have q7 : Fits [] := trivial
  have q6 : Fits [(7, 0)] := ⟨Nat.two_pow_pos _, q7⟩
  have q5 : Fits [(6, c.toNat), (7, 0)] := ⟨c.isLt, q6⟩
  have q4 : Fits [(7, v.toNat), (6, c.toNat), (7, 0)] := ⟨v.isLt, q5⟩
  have q3 : Fits [(3, d.toNat), (7, v.toNat), (6, c.toNat), (7, 0)] := ⟨d.isLt, q4⟩
  have q2 : Fits [(2, 1), (3, d.toNat), (7, v.toNat), (6, c.toNat), (7, 0)] := ⟨by decide, q3⟩
  have f31_31 : fld w 31 31 = S.toNat := fld_pack [] 0 _ _ e (S.toNat_lt) ⟨by decide, q2⟩ rfl rfl
  have f30_25 : fld w 30 25 = 43 := fld_pack [(1, S.toNat)] 5 _ _ e (by decide) q2 rfl rfl
  have f24_23 : fld w 24 23 = 1 := fld_pack [(1, S.toNat), (6, 43)] 1 _ _ e (by decide) q3 rfl rfl
  have f22_20 : fld w 22 20 = d.toNat := fld_pack [(1, S.toNat), (6, 43), (2, 1)] 2 _ _ e (d.isLt) q4 rfl rfl
  have f19_13 : fld w 19 13 = v.toNat := fld_pack [(1, S.toNat), (6, 43), (2, 1), (3, d.toNat)] 6 _ _ e (v.isLt) q5 rfl rfl
  have f12_7 : fld w 12 7 = c.toNat := fld_pack [(1, S.toNat), (6, 43), (2, 1), (3, d.toNat), (7, v.toNat)] 5 _ _ e (c.isLt) q6 rfl rfl
  have f6_0 : fld w 6 0 = 0 := fld_pack [(1, S.toNat), (6, 43), (2, 1), (3, d.toNat), (7, v.toNat), (6, c.toNat)] 6 _ _ e (Nat.two_pow_pos _) q7 rfl rfl
  have n0 : ¬ (w = 0 ∨ w = 4294967295) := not_blank f30_25 (by decide) (by decide)
  clear e hw
  simp only [decode, n0, if_false, decodeMA, f31_31, f30_25, f24_23, f22_20, f19_13, f12_7, f6_0, bool_field, bits_field, need_some, Nat.add_zero]
  exact accept_ok hwf

theorem awr (S : Bool) (d : BitVec 3) (v : BitVec 7) (c : BitVec 6) : Statement (.awr S d v c) := by
  intro hwf w hw
  have e := (Option.some.inj hw).symm
  simp only [word_cons, word_nil, place_eq] at e
  replace e : w = pack [(1, S.toNat), (6, 43), (2, 2), (3, d.toNat), (7, v.toNat), (6, c.toNat), (7, 0)] := e.trans (by simp only [pack, total]; omega)
  have q7 : Fits [] := trivial
  have q6 : Fits [(7, 0)] := ⟨Nat.two_pow_pos _, q7⟩
  have q5 : Fits [(6, c.toNat), (7, 0)] := ⟨c.isLt, q6⟩
  have q4 : Fits [(7, v.toNat), (6, c.toNat), (7, 0)] := ⟨v.isLt, q5⟩
  have q3 : Fits [(3, d.toNat), (7, v.toNat), (6, c.toNat), (7, 0)] := ⟨d.isLt, q4⟩
  have q2 : Fits [(2, 2), (3, d.toNat), (7, v.toNat), (6, c.toNat), (7, 0)] := ⟨by decide, q3⟩
  have f31_31 : fld w 31 31 = S.toNat := fld_pack [] 0 _ _ e (S.toNat_lt) ⟨by decide, q2⟩ rfl rfl
  have f30_25 : fld w 30 25 = 43 := fld_pack [(1, S.toNat)] 5 _ _ e (by decide) q2 rfl rfl
  have f24_23 : fld w 24 23 = 2 := fld_pack [(1, S.toNat), (6, 43)] 1 _ _ e (by decide) q3 rfl rfl
  have f22_20 : fld w 22 20 = d.toNat := fld_pack [(1, S.toNat), (6, 43), (2, 2)] 2 _ _ e (d.isLt) q4 rfl rfl
  have f19_13 : fld w 19 13 = v.toNat := fld_pack [(1, S.toNat), (6, 43), (2, 2), (3, d.toNat)] 6 _ _ e (v.isLt) q5 rfl rfl
  have f12_7 : fld w 12 7 = c.toNat := fld_pack [(1, S.toNat), (6, 43), (2, 2), (3, d.toNat), (7, v.toNat)] 5 _ _ e (c.isLt) q6 rfl rfl
  have f6_0 : fld w 6 0 = 0 := fld_pack [(1, S.toNat), (6, 43), (2, 2), (3, d.toNat), (7, v.toNat), (6, c.toNat)] 6 _ _ e (Nat.two_pow_pos _) q7 rfl rfl
  have n0 : ¬ (w = 0 ∨ w = 4294967295) := not_blank f30_25 (by decide) (by decide)
  clear e hw
  simp only [decode, n0, if_false, decodeMA, f31_31, f30_25, f24_23, f22_20, f19_13, f12_7, f6_0, bool_field, bits_field, need_some, Nat.add_zero]
  exact accept_ok hwf

theorem acvt (S : Bool) (d : BitVec 3) (c : AcvtDir) : Statement (.acvt S d c) := by
  intro hwf w hw
  have e := (Option.some.inj hw).symm
  simp only [word_cons, word_nil, place_eq] at e
  replace e : w = pack [(1, S.toNat), (6, 43), (2, 3), (3, d.toNat), (13, 0), (2, c.code), (5, 0)] := e.trans (by simp only [pack, total]; omega)
  have q7 : Fits [] := trivial
  have q6 : Fits [(5, 0)] := ⟨Nat.two_pow_pos _, q7⟩
  have q5 : Fits [(2, c.code), (5, 0)] := ⟨acvtdir_bound c, q6⟩
  have q4 : Fits [(13, 0), (2, c.code), (5, 0)] := ⟨Nat.two_pow_pos _, q5⟩
  have q3 : Fits [(3, d.toNat), (13, 0), (2, c.code), (5, 0)] := ⟨d.isLt, q4⟩
  have q2 : Fits [(2, 3), (3, d.toNat), (13, 0), (2, c.code), (5, 0)] := ⟨by decide, q3⟩
  have f31_31 : fld w 31 31 = S.toNat := fld_pack [] 0 _ _ e (S.toNat_lt) ⟨by decide, q2⟩ rfl rfl
  have f30_25 : fld w 30 25 = 43 := fld_pack [(1, S.toNat)] 5 _ _ e (by decide) q2 rfl rfl
  have f24_23 : fld w 24 23 = 3 := fld_pack [(1, S.toNat), (6, 43)] 1 _ _ e (by decide) q3 rfl rfl
  have f22_20 : fld w 22 20 = d.toNat := fld_pack [(1, S.toNat), (6, 43), (2, 3)] 2 _ _ e (d.isLt) q4 rfl rfl
  have f19_7 : fld w 19 7 = 0 := fld_pack [(1, S.toNat), (6, 43), (2, 3), (3, d.toNat)] 12 _ _ e (Nat.two_pow_pos _) q5 rfl rfl
  have f6_5 : fld w 6 5 = c.code := fld_pack [(1, S.toNat), (6, 43), (2, 3), (3, d.toNat), (13, 0)] 1 _ _ e (acvtdir_bound c) q6 rfl rfl
  have f4_0 : fld w 4 0 = 0 := fld_pack [(1, S.toNat), (6, 43), (2, 3), (3, d.toNat), (13, 0), (2, c.code)] 4 _ _ e (Nat.two_pow_pos _) q7 rfl rfl
  have n0 : ¬ (w = 0 ∨ w = 4294967295) := not_blank f30_25 (by decide) (by decide)
  clear e hw
  simp only [decode, n0, if_false, decodeMA, f31_31, f30_25, f24_23, f22_20, f19_7, f6_5, f4_0, bool_field, bits_field, need_some, Nat.add_zero, acvtdir_code]
  exact accept_ok hwf

theorem cpyLin (S : Bool) (b : BitVec 5) : Statement (.cpyLin S b) := by
  intro hwf w hw
  have e := (Option.some.inj hw).symm
  simp only [word_cons, word_nil, place_eq] at e
  replace e : w = pack [(1, S.toNat), (6, 48), (3, 0), (5, b.toNat), (17, 0)] := e.trans (by simp only [pack, total]; omega)
  have q5 : Fits [] := trivial
  have q4 : Fits [(17, 0)] := ⟨Nat.two_pow_pos _, q5⟩
  have q3 : Fits [(5, b.toNat), (17, 0)] := ⟨b.isLt, q4⟩
  have q2 : Fits [(3, 0), (5, b.toNat), (17, 0)] := ⟨Nat.two_pow_pos _, q3⟩
  have f31_31 : fld w 31 31 = S.toNat := fld_pack [] 0 _ _ e (S.toNat_lt) ⟨by decide, q2⟩ rfl rfl
  have f30_25 : fld w 30 25 = 48 := fld_pack [(1, S.toNat)] 5 _ _ e (by decide) q2 rfl rfl
  have f24_22 : fld w 24 22 = 0 := fld_pack [(1, S.toNat), (6, 48)] 2 _ _ e (Nat.two_pow_pos _) q3 rfl rfl
  have f21_17 : fld w 21 17 = b.toNat := fld_pack [(1, S.toNat), (6, 48), (3, 0)] 4 _ _ e (b.isLt) q4 rfl rfl
  have f16_0 : fld w 16 0 = 0 := fld_pack [(1, S.toNat), (6, 48), (3, 0), (5, b.toNat)] 16 _ _ e (Nat.two_pow_pos _) q5 rfl rfl
  have n0 : ¬ (w = 0 ∨ w = 4294967295) := not_blank f30_25 (by decide) (by decide)
  clear e hw
  simp only [decode, n0, if_false, decodeCP, f31_31, f30_25, f24_22, f21_17, f16_0, bool_field, bits_field, need_some, Nat.add_zero]
  exact accept_ok hwf

theorem cpyTen (S : Bool) (b : BitVec 5) (l : Lay) : Statement (.cpyTen S b l) := by
  intro hwf w hw
  have e := (Option.some.inj hw).symm
  simp only [word_cons, word_nil, place_eq] at e
  replace e : w = pack [(1, S.toNat), (6, 48), (3, 1), (5, b.toNat), (2, l.code), (15, 0)] := e.trans (by simp only [pack, total]; omega)
  have q6 : Fits [] := trivial
  have q5 : Fits [(15, 0)] := ⟨Nat.two_pow_pos _, q6⟩
  have q4 : Fits [(2, l.code), (15, 0)] := ⟨lay_bound l, q5⟩
  have q3 : Fits [(5, b.toNat), (2, l.code), (15, 0)] := ⟨b.isLt, q4⟩
  have q2 : Fits [(3, 1), (5, b.toNat), (2, l.code), (15, 0)] := ⟨by decide, q3⟩
  have f31_31 : fld w 31 31 = S.toNat := fld_pack [] 0 _ _ e (S.toNat_lt) ⟨by decide, q2⟩ rfl rfl
  have f30_25 : fld w 30 25 = 48 := fld_pack [(1, S.toNat)] 5 _ _ e (by decide) q2 rfl rfl
  have f24_22 : fld w 24 22 = 1 := fld_pack [(1, S.toNat), (6, 48)] 2 _ _ e (by decide) q3 rfl rfl
  have f21_17 : fld w 21 17 = b.toNat := fld_pack [(1, S.toNat), (6, 48), (3, 1)] 4 _ _ e (b.isLt) q4 rfl rfl
  have f16_15 : fld w 16 15 = l.code := fld_pack [(1, S.toNat), (6, 48), (3, 1), (5, b.toNat)] 1 _ _ e (lay_bound l) q5 rfl rfl
  have f14_0 : fld w 14 0 = 0 := fld_pack [(1, S.toNat), (6, 48), (3, 1), (5, b.toNat), (2, l.code)] 14 _ _ e (Nat.two_pow_pos _) q6 rfl rfl
  have n0 : ¬ (w = 0 ∨ w = 4294967295) := not_blank f30_25 (by decide) (by decide)
  clear e hw
  simp only [decode, n0, if_false, decodeCP, f31_31, f30_25, f24_22, f21_17, f16_15, f14_0, bool_field, bits_field, need_some, Nat.add_zero, lay_code]
  exact accept_ok hwf

theorem cpyGat (S : Bool) (b : BitVec 5) : Statement (.cpyGat S b) := by
  intro hwf w hw
  have e := (Option.some.inj hw).symm
  simp only [word_cons, word_nil, place_eq] at e
  replace e : w = pack [(1, S.toNat), (6, 48), (3, 2), (5, b.toNat), (17, 0)] := e.trans (by simp only [pack, total]; omega)
  have q5 : Fits [] := trivial
  have q4 : Fits [(17, 0)] := ⟨Nat.two_pow_pos _, q5⟩
  have q3 : Fits [(5, b.toNat), (17, 0)] := ⟨b.isLt, q4⟩
  have q2 : Fits [(3, 2), (5, b.toNat), (17, 0)] := ⟨by decide, q3⟩
  have f31_31 : fld w 31 31 = S.toNat := fld_pack [] 0 _ _ e (S.toNat_lt) ⟨by decide, q2⟩ rfl rfl
  have f30_25 : fld w 30 25 = 48 := fld_pack [(1, S.toNat)] 5 _ _ e (by decide) q2 rfl rfl
  have f24_22 : fld w 24 22 = 2 := fld_pack [(1, S.toNat), (6, 48)] 2 _ _ e (by decide) q3 rfl rfl
  have f21_17 : fld w 21 17 = b.toNat := fld_pack [(1, S.toNat), (6, 48), (3, 2)] 4 _ _ e (b.isLt) q4 rfl rfl
  have f16_0 : fld w 16 0 = 0 := fld_pack [(1, S.toNat), (6, 48), (3, 2), (5, b.toNat)] 16 _ _ e (Nat.two_pow_pos _) q5 rfl rfl
  have n0 : ¬ (w = 0 ∨ w = 4294967295) := not_blank f30_25 (by decide) (by decide)
  clear e hw
  simp only [decode, n0, if_false, decodeCP, f31_31, f30_25, f24_22, f21_17, f16_0, bool_field, bits_field, need_some, Nat.add_zero]
  exact accept_ok hwf

theorem cpySct (S : Bool) (b : BitVec 5) : Statement (.cpySct S b) := by
  intro hwf w hw
  have e := (Option.some.inj hw).symm
  simp only [word_cons, word_nil, place_eq] at e
  replace e : w = pack [(1, S.toNat), (6, 48), (3, 3), (5, b.toNat), (17, 0)] := e.trans (by simp only [pack, total]; omega)
  have q5 : Fits [] := trivial
  have q4 : Fits [(17, 0)] := ⟨Nat.two_pow_pos _, q5⟩
  have q3 : Fits [(5, b.toNat), (17, 0)] := ⟨b.isLt, q4⟩
  have q2 : Fits [(3, 3), (5, b.toNat), (17, 0)] := ⟨by decide, q3⟩
  have f31_31 : fld w 31 31 = S.toNat := fld_pack [] 0 _ _ e (S.toNat_lt) ⟨by decide, q2⟩ rfl rfl
  have f30_25 : fld w 30 25 = 48 := fld_pack [(1, S.toNat)] 5 _ _ e (by decide) q2 rfl rfl
  have f24_22 : fld w 24 22 = 3 := fld_pack [(1, S.toNat), (6, 48)] 2 _ _ e (by decide) q3 rfl rfl
  have f21_17 : fld w 21 17 = b.toNat := fld_pack [(1, S.toNat), (6, 48), (3, 3)] 4 _ _ e (b.isLt) q4 rfl rfl
  have f16_0 : fld w 16 0 = 0 := fld_pack [(1, S.toNat), (6, 48), (3, 3), (5, b.toNat)] 16 _ _ e (Nat.two_pow_pos _) q5 rfl rfl
  have n0 : ¬ (w = 0 ∨ w = 4294967295) := not_blank f30_25 (by decide) (by decide)
  clear e hw
  simp only [decode, n0, if_false, decodeCP, f31_31, f30_25, f24_22, f21_17, f16_0, bool_field, bits_field, need_some, Nat.add_zero]
  exact accept_ok hwf

theorem cpyRed (S : Bool) (b : BitVec 5) (r : Rop) : Statement (.cpyRed S b r) := by
  intro hwf w hw
  have e := (Option.some.inj hw).symm
  simp only [word_cons, word_nil, place_eq] at e
  replace e : w = pack [(1, S.toNat), (6, 48), (3, 4), (5, b.toNat), (2, 0), (4, r.code), (11, 0)] := e.trans (by simp only [pack, total]; omega)
  have q7 : Fits [] := trivial
  have q6 : Fits [(11, 0)] := ⟨Nat.two_pow_pos _, q7⟩
  have q5 : Fits [(4, r.code), (11, 0)] := ⟨rop_bound r, q6⟩
  have q4 : Fits [(2, 0), (4, r.code), (11, 0)] := ⟨Nat.two_pow_pos _, q5⟩
  have q3 : Fits [(5, b.toNat), (2, 0), (4, r.code), (11, 0)] := ⟨b.isLt, q4⟩
  have q2 : Fits [(3, 4), (5, b.toNat), (2, 0), (4, r.code), (11, 0)] := ⟨by decide, q3⟩
  have f31_31 : fld w 31 31 = S.toNat := fld_pack [] 0 _ _ e (S.toNat_lt) ⟨by decide, q2⟩ rfl rfl
  have f30_25 : fld w 30 25 = 48 := fld_pack [(1, S.toNat)] 5 _ _ e (by decide) q2 rfl rfl
  have f24_22 : fld w 24 22 = 4 := fld_pack [(1, S.toNat), (6, 48)] 2 _ _ e (by decide) q3 rfl rfl
  have f21_17 : fld w 21 17 = b.toNat := fld_pack [(1, S.toNat), (6, 48), (3, 4)] 4 _ _ e (b.isLt) q4 rfl rfl
  have f16_15 : fld w 16 15 = 0 := fld_pack [(1, S.toNat), (6, 48), (3, 4), (5, b.toNat)] 1 _ _ e (Nat.two_pow_pos _) q5 rfl rfl
  have f14_11 : fld w 14 11 = r.code := fld_pack [(1, S.toNat), (6, 48), (3, 4), (5, b.toNat), (2, 0)] 3 _ _ e (rop_bound r) q6 rfl rfl
  have f10_0 : fld w 10 0 = 0 := fld_pack [(1, S.toNat), (6, 48), (3, 4), (5, b.toNat), (2, 0), (4, r.code)] 10 _ _ e (Nat.two_pow_pos _) q7 rfl rfl
  have n0 : ¬ (w = 0 ∨ w = 4294967295) := not_blank f30_25 (by decide) (by decide)
  clear e hw
  simp only [decode, n0, if_false, decodeCP, f31_31, f30_25, f24_22, f21_17, f16_15, f14_11, f10_0, bool_field, bits_field, need_some, Nat.add_zero, rop_code]
  exact accept_ok hwf

theorem qfence (S : Bool) (q : BitVec 3) (m : BitVec 8) : Statement (.qfence S q m) := by
  intro hwf w hw
  have e := (Option.some.inj hw).symm
  simp only [word_cons, word_nil, place_eq] at e
  replace e : w = pack [(1, S.toNat), (6, 48), (3, 5), (3, q.toNat), (8, m.toNat), (11, 0)] := e.trans (by simp only [pack, total]; omega)
  have q6 : Fits [] := trivial
  have q5 : Fits [(11, 0)] := ⟨Nat.two_pow_pos _, q6⟩
  have q4 : Fits [(8, m.toNat), (11, 0)] := ⟨m.isLt, q5⟩
  have q3 : Fits [(3, q.toNat), (8, m.toNat), (11, 0)] := ⟨q.isLt, q4⟩
  have q2 : Fits [(3, 5), (3, q.toNat), (8, m.toNat), (11, 0)] := ⟨by decide, q3⟩
  have f31_31 : fld w 31 31 = S.toNat := fld_pack [] 0 _ _ e (S.toNat_lt) ⟨by decide, q2⟩ rfl rfl
  have f30_25 : fld w 30 25 = 48 := fld_pack [(1, S.toNat)] 5 _ _ e (by decide) q2 rfl rfl
  have f24_22 : fld w 24 22 = 5 := fld_pack [(1, S.toNat), (6, 48)] 2 _ _ e (by decide) q3 rfl rfl
  have f21_19 : fld w 21 19 = q.toNat := fld_pack [(1, S.toNat), (6, 48), (3, 5)] 2 _ _ e (q.isLt) q4 rfl rfl
  have f18_11 : fld w 18 11 = m.toNat := fld_pack [(1, S.toNat), (6, 48), (3, 5), (3, q.toNat)] 7 _ _ e (m.isLt) q5 rfl rfl
  have f10_0 : fld w 10 0 = 0 := fld_pack [(1, S.toNat), (6, 48), (3, 5), (3, q.toNat), (8, m.toNat)] 10 _ _ e (Nat.two_pow_pos _) q6 rfl rfl
  have n0 : ¬ (w = 0 ∨ w = 4294967295) := not_blank f30_25 (by decide) (by decide)
  clear e hw
  simp only [decode, n0, if_false, decodeCP, f31_31, f30_25, f24_22, f21_19, f18_11, f10_0, bool_field, bits_field, need_some, Nat.add_zero]
  exact accept_ok hwf

theorem nop (S : Bool) : Statement (.nop S) := by
  intro hwf w hw
  have e := (Option.some.inj hw).symm
  simp only [word_cons, word_nil, place_eq] at e
  replace e : w = pack [(1, S.toNat), (6, 56), (3, 0), (22, 0)] := e.trans (by simp only [pack, total]; omega)
  have q4 : Fits [] := trivial
  have q3 : Fits [(22, 0)] := ⟨Nat.two_pow_pos _, q4⟩
  have q2 : Fits [(3, 0), (22, 0)] := ⟨Nat.two_pow_pos _, q3⟩
  have f31_31 : fld w 31 31 = S.toNat := fld_pack [] 0 _ _ e (S.toNat_lt) ⟨by decide, q2⟩ rfl rfl
  have f30_25 : fld w 30 25 = 56 := fld_pack [(1, S.toNat)] 5 _ _ e (by decide) q2 rfl rfl
  have f24_22 : fld w 24 22 = 0 := fld_pack [(1, S.toNat), (6, 56)] 2 _ _ e (Nat.two_pow_pos _) q3 rfl rfl
  have f21_0 : fld w 21 0 = 0 := fld_pack [(1, S.toNat), (6, 56), (3, 0)] 21 _ _ e (Nat.two_pow_pos _) q4 rfl rfl
  have n0 : ¬ (w = 0 ∨ w = 4294967295) := not_blank f30_25 (by decide) (by decide)
  clear e hw
  simp only [decode, n0, if_false, decodeCT, f31_31, f30_25, f24_22, f21_0, bool_field, bits_field, need_some, Nat.add_zero]
  exact accept_ok hwf

theorem setblk (S : Bool) (a : BitVec 8) (b : BitVec 8) (p : BitVec 3) : Statement (.setblk S a b p) := by
  intro hwf w hw
  have e := (Option.some.inj hw).symm
  simp only [word_cons, word_nil, place_eq] at e
  replace e : w = pack [(1, S.toNat), (6, 56), (3, 1), (8, a.toNat), (8, b.toNat), (3, p.toNat), (3, 0)] := e.trans (by simp only [pack, total]; omega)
  have q7 : Fits [] := trivial
  have q6 : Fits [(3, 0)] := ⟨Nat.two_pow_pos _, q7⟩
  have q5 : Fits [(3, p.toNat), (3, 0)] := ⟨p.isLt, q6⟩
  have q4 : Fits [(8, b.toNat), (3, p.toNat), (3, 0)] := ⟨b.isLt, q5⟩
  have q3 : Fits [(8, a.toNat), (8, b.toNat), (3, p.toNat), (3, 0)] := ⟨a.isLt, q4⟩
  have q2 : Fits [(3, 1), (8, a.toNat), (8, b.toNat), (3, p.toNat), (3, 0)] := ⟨by decide, q3⟩
  have f31_31 : fld w 31 31 = S.toNat := fld_pack [] 0 _ _ e (S.toNat_lt) ⟨by decide, q2⟩ rfl rfl
  have f30_25 : fld w 30 25 = 56 := fld_pack [(1, S.toNat)] 5 _ _ e (by decide) q2 rfl rfl
  have f24_22 : fld w 24 22 = 1 := fld_pack [(1, S.toNat), (6, 56)] 2 _ _ e (by decide) q3 rfl rfl
  have f21_14 : fld w 21 14 = a.toNat := fld_pack [(1, S.toNat), (6, 56), (3, 1)] 7 _ _ e (a.isLt) q4 rfl rfl
  have f13_6 : fld w 13 6 = b.toNat := fld_pack [(1, S.toNat), (6, 56), (3, 1), (8, a.toNat)] 7 _ _ e (b.isLt) q5 rfl rfl
  have f5_3 : fld w 5 3 = p.toNat := fld_pack [(1, S.toNat), (6, 56), (3, 1), (8, a.toNat), (8, b.toNat)] 2 _ _ e (p.isLt) q6 rfl rfl
  have f2_0 : fld w 2 0 = 0 := fld_pack [(1, S.toNat), (6, 56), (3, 1), (8, a.toNat), (8, b.toNat), (3, p.toNat)] 2 _ _ e (Nat.two_pow_pos _) q7 rfl rfl
  have n0 : ¬ (w = 0 ∨ w = 4294967295) := not_blank f30_25 (by decide) (by decide)
  clear e hw
  simp only [decode, n0, if_false, decodeCT, f31_31, f30_25, f24_22, f21_14, f13_6, f5_3, f2_0, bool_field, bits_field, need_some, Nat.add_zero]
  exact accept_ok hwf

theorem setblkv (S : Bool) (v : BitVec 7) : Statement (.setblkv S v) := by
  intro hwf w hw
  have e := (Option.some.inj hw).symm
  simp only [word_cons, word_nil, place_eq] at e
  replace e : w = pack [(1, S.toNat), (6, 56), (3, 2), (7, v.toNat), (15, 0)] := e.trans (by simp only [pack, total]; omega)
  have q5 : Fits [] := trivial
  have q4 : Fits [(15, 0)] := ⟨Nat.two_pow_pos _, q5⟩
  have q3 : Fits [(7, v.toNat), (15, 0)] := ⟨v.isLt, q4⟩
  have q2 : Fits [(3, 2), (7, v.toNat), (15, 0)] := ⟨by decide, q3⟩
  have f31_31 : fld w 31 31 = S.toNat := fld_pack [] 0 _ _ e (S.toNat_lt) ⟨by decide, q2⟩ rfl rfl
  have f30_25 : fld w 30 25 = 56 := fld_pack [(1, S.toNat)] 5 _ _ e (by decide) q2 rfl rfl
  have f24_22 : fld w 24 22 = 2 := fld_pack [(1, S.toNat), (6, 56)] 2 _ _ e (by decide) q3 rfl rfl
  have f21_15 : fld w 21 15 = v.toNat := fld_pack [(1, S.toNat), (6, 56), (3, 2)] 6 _ _ e (v.isLt) q4 rfl rfl
  have f14_0 : fld w 14 0 = 0 := fld_pack [(1, S.toNat), (6, 56), (3, 2), (7, v.toNat)] 14 _ _ e (Nat.two_pow_pos _) q5 rfl rfl
  have n0 : ¬ (w = 0 ∨ w = 4294967295) := not_blank f30_25 (by decide) (by decide)
  clear e hw
  simp only [decode, n0, if_false, decodeCT, f31_31, f30_25, f24_22, f21_15, f14_0, bool_field, bits_field, need_some, Nat.add_zero]
  exact accept_ok hwf

theorem vote (S : Bool) : Statement (.vote S) := by
  intro hwf w hw
  have e := (Option.some.inj hw).symm
  simp only [word_cons, word_nil, place_eq] at e
  replace e : w = pack [(1, S.toNat), (6, 56), (3, 3), (22, 0)] := e.trans (by simp only [pack, total]; omega)
  have q4 : Fits [] := trivial
  have q3 : Fits [(22, 0)] := ⟨Nat.two_pow_pos _, q4⟩
  have q2 : Fits [(3, 3), (22, 0)] := ⟨by decide, q3⟩
  have f31_31 : fld w 31 31 = S.toNat := fld_pack [] 0 _ _ e (S.toNat_lt) ⟨by decide, q2⟩ rfl rfl
  have f30_25 : fld w 30 25 = 56 := fld_pack [(1, S.toNat)] 5 _ _ e (by decide) q2 rfl rfl
  have f24_22 : fld w 24 22 = 3 := fld_pack [(1, S.toNat), (6, 56)] 2 _ _ e (by decide) q3 rfl rfl
  have f21_0 : fld w 21 0 = 0 := fld_pack [(1, S.toNat), (6, 56), (3, 3)] 21 _ _ e (Nat.two_pow_pos _) q4 rfl rfl
  have n0 : ¬ (w = 0 ∨ w = 4294967295) := not_blank f30_25 (by decide) (by decide)
  clear e hw
  simp only [decode, n0, if_false, decodeCT, f31_31, f30_25, f24_22, f21_0, bool_field, bits_field, need_some, Nat.add_zero]
  exact accept_ok hwf

theorem exit (S : Bool) : Statement (.exit S) := by
  intro hwf w hw
  have e := (Option.some.inj hw).symm
  simp only [word_cons, word_nil, place_eq] at e
  replace e : w = pack [(1, S.toNat), (6, 56), (3, 4), (22, 0)] := e.trans (by simp only [pack, total]; omega)
  have q4 : Fits [] := trivial
  have q3 : Fits [(22, 0)] := ⟨Nat.two_pow_pos _, q4⟩
  have q2 : Fits [(3, 4), (22, 0)] := ⟨by decide, q3⟩
  have f31_31 : fld w 31 31 = S.toNat := fld_pack [] 0 _ _ e (S.toNat_lt) ⟨by decide, q2⟩ rfl rfl
  have f30_25 : fld w 30 25 = 56 := fld_pack [(1, S.toNat)] 5 _ _ e (by decide) q2 rfl rfl
  have f24_22 : fld w 24 22 = 4 := fld_pack [(1, S.toNat), (6, 56)] 2 _ _ e (by decide) q3 rfl rfl
  have f21_0 : fld w 21 0 = 0 := fld_pack [(1, S.toNat), (6, 56), (3, 4)] 21 _ _ e (Nat.two_pow_pos _) q4 rfl rfl
  have n0 : ¬ (w = 0 ∨ w = 4294967295) := not_blank f30_25 (by decide) (by decide)
  clear e hw
  simp only [decode, n0, if_false, decodeCT, f31_31, f30_25, f24_22, f21_0, bool_field, bits_field, need_some, Nat.add_zero]
  exact accept_ok hwf

theorem fuse (S : Bool) (d : BitVec 5) (s : BitVec 4) : Statement (.fuse S d s) := by
  intro hwf w hw
  have e := (Option.some.inj hw).symm
  simp only [word_cons, word_nil, place_eq] at e
  replace e : w = pack [(1, S.toNat), (6, 56), (3, 5), (5, d.toNat), (4, s.toNat), (13, 0)] := e.trans (by simp only [pack, total]; omega)
  have q6 : Fits [] := trivial
  have q5 : Fits [(13, 0)] := ⟨Nat.two_pow_pos _, q6⟩
  have q4 : Fits [(4, s.toNat), (13, 0)] := ⟨s.isLt, q5⟩
  have q3 : Fits [(5, d.toNat), (4, s.toNat), (13, 0)] := ⟨d.isLt, q4⟩
  have q2 : Fits [(3, 5), (5, d.toNat), (4, s.toNat), (13, 0)] := ⟨by decide, q3⟩
  have f31_31 : fld w 31 31 = S.toNat := fld_pack [] 0 _ _ e (S.toNat_lt) ⟨by decide, q2⟩ rfl rfl
  have f30_25 : fld w 30 25 = 56 := fld_pack [(1, S.toNat)] 5 _ _ e (by decide) q2 rfl rfl
  have f24_22 : fld w 24 22 = 5 := fld_pack [(1, S.toNat), (6, 56)] 2 _ _ e (by decide) q3 rfl rfl
  have f21_17 : fld w 21 17 = d.toNat := fld_pack [(1, S.toNat), (6, 56), (3, 5)] 4 _ _ e (d.isLt) q4 rfl rfl
  have f16_13 : fld w 16 13 = s.toNat := fld_pack [(1, S.toNat), (6, 56), (3, 5), (5, d.toNat)] 3 _ _ e (s.isLt) q5 rfl rfl
  have f12_0 : fld w 12 0 = 0 := fld_pack [(1, S.toNat), (6, 56), (3, 5), (5, d.toNat), (4, s.toNat)] 12 _ _ e (Nat.two_pow_pos _) q6 rfl rfl
  have n0 : ¬ (w = 0 ∨ w = 4294967295) := not_blank f30_25 (by decide) (by decide)
  clear e hw
  simp only [decode, n0, if_false, decodeCT, f31_31, f30_25, f24_22, f21_17, f16_13, f12_0, bool_field, bits_field, need_some, Nat.add_zero]
  exact accept_ok hwf

theorem trap (S : Bool) (c : BitVec 16) : Statement (.trap S c) := by
  intro hwf w hw
  have e := (Option.some.inj hw).symm
  simp only [word_cons, word_nil, place_eq] at e
  replace e : w = pack [(1, S.toNat), (6, 56), (3, 6), (6, 0), (16, c.toNat)] := e.trans (by simp only [pack, total]; omega)
  have q5 : Fits [] := trivial
  have q4 : Fits [(16, c.toNat)] := ⟨c.isLt, q5⟩
  have q3 : Fits [(6, 0), (16, c.toNat)] := ⟨Nat.two_pow_pos _, q4⟩
  have q2 : Fits [(3, 6), (6, 0), (16, c.toNat)] := ⟨by decide, q3⟩
  have f31_31 : fld w 31 31 = S.toNat := fld_pack [] 0 _ _ e (S.toNat_lt) ⟨by decide, q2⟩ rfl rfl
  have f30_25 : fld w 30 25 = 56 := fld_pack [(1, S.toNat)] 5 _ _ e (by decide) q2 rfl rfl
  have f24_22 : fld w 24 22 = 6 := fld_pack [(1, S.toNat), (6, 56)] 2 _ _ e (by decide) q3 rfl rfl
  have f21_16 : fld w 21 16 = 0 := fld_pack [(1, S.toNat), (6, 56), (3, 6)] 5 _ _ e (Nat.two_pow_pos _) q4 rfl rfl
  have f15_0 : fld w 15 0 = c.toNat := fld_pack [(1, S.toNat), (6, 56), (3, 6), (6, 0)] 15 _ _ e (c.isLt) q5 rfl rfl
  have n0 : ¬ (w = 0 ∨ w = 4294967295) := not_blank f30_25 (by decide) (by decide)
  clear e hw
  simp only [decode, n0, if_false, decodeCT, f31_31, f30_25, f24_22, f21_16, f15_0, bool_field, bits_field, need_some, Nat.add_zero]
  exact accept_ok hwf

theorem slot (S : Bool) (m : BitVec 8) : Statement (.slot S m) := by
  intro hwf w hw
  have e := (Option.some.inj hw).symm
  simp only [word_cons, word_nil, place_eq] at e
  replace e : w = pack [(1, S.toNat), (6, 57), (3, 0), (14, 0), (8, m.toNat)] := e.trans (by simp only [pack, total]; omega)
  have q5 : Fits [] := trivial
  have q4 : Fits [(8, m.toNat)] := ⟨m.isLt, q5⟩
  have q3 : Fits [(14, 0), (8, m.toNat)] := ⟨Nat.two_pow_pos _, q4⟩
  have q2 : Fits [(3, 0), (14, 0), (8, m.toNat)] := ⟨Nat.two_pow_pos _, q3⟩
  have f31_31 : fld w 31 31 = S.toNat := fld_pack [] 0 _ _ e (S.toNat_lt) ⟨by decide, q2⟩ rfl rfl
  have f30_25 : fld w 30 25 = 57 := fld_pack [(1, S.toNat)] 5 _ _ e (by decide) q2 rfl rfl
  have f24_22 : fld w 24 22 = 0 := fld_pack [(1, S.toNat), (6, 57)] 2 _ _ e (Nat.two_pow_pos _) q3 rfl rfl
  have f21_8 : fld w 21 8 = 0 := fld_pack [(1, S.toNat), (6, 57), (3, 0)] 13 _ _ e (Nat.two_pow_pos _) q4 rfl rfl
  have f7_0 : fld w 7 0 = m.toNat := fld_pack [(1, S.toNat), (6, 57), (3, 0), (14, 0)] 7 _ _ e (m.isLt) q5 rfl rfl
  have n0 : ¬ (w = 0 ∨ w = 4294967295) := not_blank f30_25 (by decide) (by decide)
  clear e hw
  simp only [decode, n0, if_false, decodeHN, f31_31, f30_25, f24_22, f21_8, f7_0, bool_field, bits_field, need_some, Nat.add_zero]
  exact accept_ok hwf

theorem grd (S : Bool) (p : BitVec 3) (i : Bool) (n : BitVec 3) : Statement (.grd S p i n) := by
  intro hwf w hw
  have e := (Option.some.inj hw).symm
  simp only [word_cons, word_nil, place_eq] at e
  replace e : w = pack [(1, S.toNat), (6, 57), (3, 1), (3, p.toNat), (1, i.toNat), (3, n.toNat), (15, 0)] := e.trans (by simp only [pack, total]; omega)
  have q7 : Fits [] := trivial
  have q6 : Fits [(15, 0)] := ⟨Nat.two_pow_pos _, q7⟩
  have q5 : Fits [(3, n.toNat), (15, 0)] := ⟨n.isLt, q6⟩
  have q4 : Fits [(1, i.toNat), (3, n.toNat), (15, 0)] := ⟨i.toNat_lt, q5⟩
  have q3 : Fits [(3, p.toNat), (1, i.toNat), (3, n.toNat), (15, 0)] := ⟨p.isLt, q4⟩
  have q2 : Fits [(3, 1), (3, p.toNat), (1, i.toNat), (3, n.toNat), (15, 0)] := ⟨by decide, q3⟩
  have f31_31 : fld w 31 31 = S.toNat := fld_pack [] 0 _ _ e (S.toNat_lt) ⟨by decide, q2⟩ rfl rfl
  have f30_25 : fld w 30 25 = 57 := fld_pack [(1, S.toNat)] 5 _ _ e (by decide) q2 rfl rfl
  have f24_22 : fld w 24 22 = 1 := fld_pack [(1, S.toNat), (6, 57)] 2 _ _ e (by decide) q3 rfl rfl
  have f21_19 : fld w 21 19 = p.toNat := fld_pack [(1, S.toNat), (6, 57), (3, 1)] 2 _ _ e (p.isLt) q4 rfl rfl
  have f18_18 : fld w 18 18 = i.toNat := fld_pack [(1, S.toNat), (6, 57), (3, 1), (3, p.toNat)] 0 _ _ e (i.toNat_lt) q5 rfl rfl
  have f17_15 : fld w 17 15 = n.toNat := fld_pack [(1, S.toNat), (6, 57), (3, 1), (3, p.toNat), (1, i.toNat)] 2 _ _ e (n.isLt) q6 rfl rfl
  have f14_0 : fld w 14 0 = 0 := fld_pack [(1, S.toNat), (6, 57), (3, 1), (3, p.toNat), (1, i.toNat), (3, n.toNat)] 14 _ _ e (Nat.two_pow_pos _) q7 rfl rfl
  have n0 : ¬ (w = 0 ∨ w = 4294967295) := not_blank f30_25 (by decide) (by decide)
  clear e hw
  simp only [decode, n0, if_false, decodeHN, f31_31, f30_25, f24_22, f21_19, f18_18, f17_15, f14_0, bool_field, bits_field, need_some, Nat.add_zero]
  exact accept_ok hwf

theorem pfch (S : Bool) (k : BitVec 4) (v : BitVec 7) (l : PfLevel) : Statement (.pfch S k v l) := by
  intro hwf w hw
  have e := (Option.some.inj hw).symm
  simp only [word_cons, word_nil, place_eq] at e
  replace e : w = pack [(1, S.toNat), (6, 57), (3, 2), (4, k.toNat), (7, v.toNat), (2, l.code), (9, 0)] := e.trans (by simp only [pack, total]; omega)
  have q7 : Fits [] := trivial
  have q6 : Fits [(9, 0)] := ⟨Nat.two_pow_pos _, q7⟩
  have q5 : Fits [(2, l.code), (9, 0)] := ⟨pflevel_bound l, q6⟩
  have q4 : Fits [(7, v.toNat), (2, l.code), (9, 0)] := ⟨v.isLt, q5⟩
  have q3 : Fits [(4, k.toNat), (7, v.toNat), (2, l.code), (9, 0)] := ⟨k.isLt, q4⟩
  have q2 : Fits [(3, 2), (4, k.toNat), (7, v.toNat), (2, l.code), (9, 0)] := ⟨by decide, q3⟩
  have f31_31 : fld w 31 31 = S.toNat := fld_pack [] 0 _ _ e (S.toNat_lt) ⟨by decide, q2⟩ rfl rfl
  have f30_25 : fld w 30 25 = 57 := fld_pack [(1, S.toNat)] 5 _ _ e (by decide) q2 rfl rfl
  have f24_22 : fld w 24 22 = 2 := fld_pack [(1, S.toNat), (6, 57)] 2 _ _ e (by decide) q3 rfl rfl
  have f21_18 : fld w 21 18 = k.toNat := fld_pack [(1, S.toNat), (6, 57), (3, 2)] 3 _ _ e (k.isLt) q4 rfl rfl
  have f17_11 : fld w 17 11 = v.toNat := fld_pack [(1, S.toNat), (6, 57), (3, 2), (4, k.toNat)] 6 _ _ e (v.isLt) q5 rfl rfl
  have f10_9 : fld w 10 9 = l.code := fld_pack [(1, S.toNat), (6, 57), (3, 2), (4, k.toNat), (7, v.toNat)] 1 _ _ e (pflevel_bound l) q6 rfl rfl
  have f8_0 : fld w 8 0 = 0 := fld_pack [(1, S.toNat), (6, 57), (3, 2), (4, k.toNat), (7, v.toNat), (2, l.code)] 8 _ _ e (Nat.two_pow_pos _) q7 rfl rfl
  have n0 : ¬ (w = 0 ∨ w = 4294967295) := not_blank f30_25 (by decide) (by decide)
  clear e hw
  simp only [decode, n0, if_false, decodeHN, f31_31, f30_25, f24_22, f21_18, f17_11, f10_9, f8_0, bool_field, bits_field, need_some, Nat.add_zero, pflevel_code]
  exact accept_ok hwf

theorem cach (S : Bool) (p : CachePol) : Statement (.cach S p) := by
  intro hwf w hw
  have e := (Option.some.inj hw).symm
  simp only [word_cons, word_nil, place_eq] at e
  replace e : w = pack [(1, S.toNat), (6, 57), (3, 3), (3, p.code), (19, 0)] := e.trans (by simp only [pack, total]; omega)
  have q5 : Fits [] := trivial
  have q4 : Fits [(19, 0)] := ⟨Nat.two_pow_pos _, q5⟩
  have q3 : Fits [(3, p.code), (19, 0)] := ⟨cachepol_bound p, q4⟩
  have q2 : Fits [(3, 3), (3, p.code), (19, 0)] := ⟨by decide, q3⟩
  have f31_31 : fld w 31 31 = S.toNat := fld_pack [] 0 _ _ e (S.toNat_lt) ⟨by decide, q2⟩ rfl rfl
  have f30_25 : fld w 30 25 = 57 := fld_pack [(1, S.toNat)] 5 _ _ e (by decide) q2 rfl rfl
  have f24_22 : fld w 24 22 = 3 := fld_pack [(1, S.toNat), (6, 57)] 2 _ _ e (by decide) q3 rfl rfl
  have f21_19 : fld w 21 19 = p.code := fld_pack [(1, S.toNat), (6, 57), (3, 3)] 2 _ _ e (cachepol_bound p) q4 rfl rfl
  have f18_0 : fld w 18 0 = 0 := fld_pack [(1, S.toNat), (6, 57), (3, 3), (3, p.code)] 18 _ _ e (Nat.two_pow_pos _) q5 rfl rfl
  have n0 : ¬ (w = 0 ∨ w = 4294967295) := not_blank f30_25 (by decide) (by decide)
  clear e hw
  simp only [decode, n0, if_false, decodeHN, f31_31, f30_25, f24_22, f21_19, f18_0, bool_field, bits_field, need_some, Nat.add_zero, cachepol_code]
  exact accept_ok hwf

theorem hix (S : Bool) (p : BitVec 25) : Statement (.hix S p) := by
  intro hwf w hw
  have e := (Option.some.inj hw).symm
  simp only [word_cons, word_nil, place_eq] at e
  replace e : w = pack [(1, S.toNat), (6, 59), (25, p.toNat)] := e.trans (by simp only [pack, total]; omega)
  have q3 : Fits [] := trivial
  have q2 : Fits [(25, p.toNat)] := ⟨p.isLt, q3⟩
  have f31_31 : fld w 31 31 = S.toNat := fld_pack [] 0 _ _ e (S.toNat_lt) ⟨by decide, q2⟩ rfl rfl
  have f30_25 : fld w 30 25 = 59 := fld_pack [(1, S.toNat)] 5 _ _ e (by decide) q2 rfl rfl
  have f24_0 : fld w 24 0 = p.toNat := fld_pack [(1, S.toNat), (6, 59)] 24 _ _ e (p.isLt) q3 rfl rfl
  have n0 : ¬ (w = 0 ∨ w = 4294967295) := not_blank f30_25 (by decide) (by decide)
  clear e hw
  simp only [decode, n0, if_false, decodeHX, f31_31, f30_25, f24_0, bool_field, bits_field, need_some, Nat.add_zero]
  exact accept_ok hwf

theorem rdsr (S : Bool) (d : BitVec 7) (e' : BitVec 8) : Statement (.rdsr S d e') := by
  intro hwf w hw
  have e := (Option.some.inj hw).symm
  simp only [word_cons, word_nil, place_eq] at e
  replace e : w = pack [(1, S.toNat), (6, 58), (3, 0), (7, d.toNat), (8, e'.toNat), (7, 0)] := e.trans (by simp only [pack, total]; omega)
  have q6 : Fits [] := trivial
  have q5 : Fits [(7, 0)] := ⟨Nat.two_pow_pos _, q6⟩
  have q4 : Fits [(8, e'.toNat), (7, 0)] := ⟨e'.isLt, q5⟩
  have q3 : Fits [(7, d.toNat), (8, e'.toNat), (7, 0)] := ⟨d.isLt, q4⟩
  have q2 : Fits [(3, 0), (7, d.toNat), (8, e'.toNat), (7, 0)] := ⟨Nat.two_pow_pos _, q3⟩
  have f31_31 : fld w 31 31 = S.toNat := fld_pack [] 0 _ _ e (S.toNat_lt) ⟨by decide, q2⟩ rfl rfl
  have f30_25 : fld w 30 25 = 58 := fld_pack [(1, S.toNat)] 5 _ _ e (by decide) q2 rfl rfl
  have f24_22 : fld w 24 22 = 0 := fld_pack [(1, S.toNat), (6, 58)] 2 _ _ e (Nat.two_pow_pos _) q3 rfl rfl
  have f21_15 : fld w 21 15 = d.toNat := fld_pack [(1, S.toNat), (6, 58), (3, 0)] 6 _ _ e (d.isLt) q4 rfl rfl
  have f14_7 : fld w 14 7 = e'.toNat := fld_pack [(1, S.toNat), (6, 58), (3, 0), (7, d.toNat)] 7 _ _ e (e'.isLt) q5 rfl rfl
  have f6_0 : fld w 6 0 = 0 := fld_pack [(1, S.toNat), (6, 58), (3, 0), (7, d.toNat), (8, e'.toNat)] 6 _ _ e (Nat.two_pow_pos _) q6 rfl rfl
  have n0 : ¬ (w = 0 ∨ w = 4294967295) := not_blank f30_25 (by decide) (by decide)
  clear e hw
  simp only [decode, n0, if_false, decodeSY, f31_31, f30_25, f24_22, f21_15, f14_7, f6_0, bool_field, bits_field, need_some, Nat.add_zero]
  simp only [Instr.wellFormed, Bool.and_eq_true, Bool.or_eq_true, decide_eq_true_eq] at hwf
  obtain ⟨ha, hp⟩ := hwf
  have hz : (if srPerLane e'.toNat = true then 0 else fld w 21 20) = 0 := by
    split
    · rfl
    · rename_i hn
      have hd := hp.resolve_left hn
      have h1 : w / 32768 % 128 = d.toNat := f21_15
      exact fld_eq (p := 1048576) (q := 4) rfl rfl (by omega)
  simp [ha, hz]

theorem wrsr (S : Bool) (a : BitVec 5) (e' : BitVec 8) : Statement (.wrsr S a e') := by
  intro hwf w hw
  have e := (Option.some.inj hw).symm
  simp only [word_cons, word_nil, place_eq] at e
  replace e : w = pack [(1, S.toNat), (6, 58), (3, 1), (2, 0), (5, a.toNat), (8, e'.toNat), (7, 0)] := e.trans (by simp only [pack, total]; omega)
  have q7 : Fits [] := trivial
  have q6 : Fits [(7, 0)] := ⟨Nat.two_pow_pos _, q7⟩
  have q5 : Fits [(8, e'.toNat), (7, 0)] := ⟨e'.isLt, q6⟩
  have q4 : Fits [(5, a.toNat), (8, e'.toNat), (7, 0)] := ⟨a.isLt, q5⟩
  have q3 : Fits [(2, 0), (5, a.toNat), (8, e'.toNat), (7, 0)] := ⟨Nat.two_pow_pos _, q4⟩
  have q2 : Fits [(3, 1), (2, 0), (5, a.toNat), (8, e'.toNat), (7, 0)] := ⟨by decide, q3⟩
  have f31_31 : fld w 31 31 = S.toNat := fld_pack [] 0 _ _ e (S.toNat_lt) ⟨by decide, q2⟩ rfl rfl
  have f30_25 : fld w 30 25 = 58 := fld_pack [(1, S.toNat)] 5 _ _ e (by decide) q2 rfl rfl
  have f24_22 : fld w 24 22 = 1 := fld_pack [(1, S.toNat), (6, 58)] 2 _ _ e (by decide) q3 rfl rfl
  have f21_20 : fld w 21 20 = 0 := fld_pack [(1, S.toNat), (6, 58), (3, 1)] 1 _ _ e (Nat.two_pow_pos _) q4 rfl rfl
  have f19_15 : fld w 19 15 = a.toNat := fld_pack [(1, S.toNat), (6, 58), (3, 1), (2, 0)] 4 _ _ e (a.isLt) q5 rfl rfl
  have f14_7 : fld w 14 7 = e'.toNat := fld_pack [(1, S.toNat), (6, 58), (3, 1), (2, 0), (5, a.toNat)] 7 _ _ e (e'.isLt) q6 rfl rfl
  have f6_0 : fld w 6 0 = 0 := fld_pack [(1, S.toNat), (6, 58), (3, 1), (2, 0), (5, a.toNat), (8, e'.toNat)] 6 _ _ e (Nat.two_pow_pos _) q7 rfl rfl
  have n0 : ¬ (w = 0 ∨ w = 4294967295) := not_blank f30_25 (by decide) (by decide)
  clear e hw
  simp only [decode, n0, if_false, decodeSY, f31_31, f30_25, f24_22, f21_20, f19_15, f14_7, f6_0, bool_field, bits_field, need_some, Nat.add_zero]
  exact accept_ok hwf

theorem setfmImm (S : Bool) (i : BitVec 16) : Statement (.setfmImm S i) := by
  intro hwf w hw
  have e := (Option.some.inj hw).symm
  simp only [word_cons, word_nil, place_eq] at e
  replace e : w = pack [(1, S.toNat), (6, 58), (3, 2), (1, 0), (5, 0), (16, i.toNat)] := e.trans (by simp only [pack, total]; omega)
  have q6 : Fits [] := trivial
  have q5 : Fits [(16, i.toNat)] := ⟨i.isLt, q6⟩
  have q4 : Fits [(5, 0), (16, i.toNat)] := ⟨Nat.two_pow_pos _, q5⟩
  have q3 : Fits [(1, 0), (5, 0), (16, i.toNat)] := ⟨Nat.two_pow_pos _, q4⟩
  have q2 : Fits [(3, 2), (1, 0), (5, 0), (16, i.toNat)] := ⟨by decide, q3⟩
  have f31_31 : fld w 31 31 = S.toNat := fld_pack [] 0 _ _ e (S.toNat_lt) ⟨by decide, q2⟩ rfl rfl
  have f30_25 : fld w 30 25 = 58 := fld_pack [(1, S.toNat)] 5 _ _ e (by decide) q2 rfl rfl
  have f24_22 : fld w 24 22 = 2 := fld_pack [(1, S.toNat), (6, 58)] 2 _ _ e (by decide) q3 rfl rfl
  have f21_21 : fld w 21 21 = 0 := fld_pack [(1, S.toNat), (6, 58), (3, 2)] 0 _ _ e (Nat.two_pow_pos _) q4 rfl rfl
  have f20_16 : fld w 20 16 = 0 := fld_pack [(1, S.toNat), (6, 58), (3, 2), (1, 0)] 4 _ _ e (Nat.two_pow_pos _) q5 rfl rfl
  have f15_0 : fld w 15 0 = i.toNat := fld_pack [(1, S.toNat), (6, 58), (3, 2), (1, 0), (5, 0)] 15 _ _ e (i.isLt) q6 rfl rfl
  have n0 : ¬ (w = 0 ∨ w = 4294967295) := not_blank f30_25 (by decide) (by decide)
  clear e hw
  simp only [decode, n0, if_false, decodeSY, f31_31, f30_25, f24_22, f21_21, f20_16, f15_0, bool_field, bits_field, need_some, Nat.add_zero]
  exact accept_ok hwf

theorem setfmReg (S : Bool) (v : BitVec 7) : Statement (.setfmReg S v) := by
  intro hwf w hw
  have e := (Option.some.inj hw).symm
  simp only [word_cons, word_nil, place_eq] at e
  replace e : w = pack [(1, S.toNat), (6, 58), (3, 2), (1, 1), (7, v.toNat), (14, 0)] := e.trans (by simp only [pack, total]; omega)
  have q6 : Fits [] := trivial
  have q5 : Fits [(14, 0)] := ⟨Nat.two_pow_pos _, q6⟩
  have q4 : Fits [(7, v.toNat), (14, 0)] := ⟨v.isLt, q5⟩
  have q3 : Fits [(1, 1), (7, v.toNat), (14, 0)] := ⟨by decide, q4⟩
  have q2 : Fits [(3, 2), (1, 1), (7, v.toNat), (14, 0)] := ⟨by decide, q3⟩
  have f31_31 : fld w 31 31 = S.toNat := fld_pack [] 0 _ _ e (S.toNat_lt) ⟨by decide, q2⟩ rfl rfl
  have f30_25 : fld w 30 25 = 58 := fld_pack [(1, S.toNat)] 5 _ _ e (by decide) q2 rfl rfl
  have f24_22 : fld w 24 22 = 2 := fld_pack [(1, S.toNat), (6, 58)] 2 _ _ e (by decide) q3 rfl rfl
  have f21_21 : fld w 21 21 = 1 := fld_pack [(1, S.toNat), (6, 58), (3, 2)] 0 _ _ e (by decide) q4 rfl rfl
  have f20_14 : fld w 20 14 = v.toNat := fld_pack [(1, S.toNat), (6, 58), (3, 2), (1, 1)] 6 _ _ e (v.isLt) q5 rfl rfl
  have f13_0 : fld w 13 0 = 0 := fld_pack [(1, S.toNat), (6, 58), (3, 2), (1, 1), (7, v.toNat)] 13 _ _ e (Nat.two_pow_pos _) q6 rfl rfl
  have n0 : ¬ (w = 0 ∨ w = 4294967295) := not_blank f30_25 (by decide) (by decide)
  clear e hw
  simp only [decode, n0, if_false, decodeSY, f31_31, f30_25, f24_22, f21_21, f20_14, f13_0, bool_field, bits_field, need_some, Nat.add_zero]
  exact accept_ok hwf

theorem brk (S : Bool) (c : BitVec 16) : Statement (.brk S c) := by
  intro hwf w hw
  have e := (Option.some.inj hw).symm
  simp only [word_cons, word_nil, place_eq] at e
  replace e : w = pack [(1, S.toNat), (6, 58), (3, 3), (6, 0), (16, c.toNat)] := e.trans (by simp only [pack, total]; omega)
  have q5 : Fits [] := trivial
  have q4 : Fits [(16, c.toNat)] := ⟨c.isLt, q5⟩
  have q3 : Fits [(6, 0), (16, c.toNat)] := ⟨Nat.two_pow_pos _, q4⟩
  have q2 : Fits [(3, 3), (6, 0), (16, c.toNat)] := ⟨by decide, q3⟩
  have f31_31 : fld w 31 31 = S.toNat := fld_pack [] 0 _ _ e (S.toNat_lt) ⟨by decide, q2⟩ rfl rfl
  have f30_25 : fld w 30 25 = 58 := fld_pack [(1, S.toNat)] 5 _ _ e (by decide) q2 rfl rfl
  have f24_22 : fld w 24 22 = 3 := fld_pack [(1, S.toNat), (6, 58)] 2 _ _ e (by decide) q3 rfl rfl
  have f21_16 : fld w 21 16 = 0 := fld_pack [(1, S.toNat), (6, 58), (3, 3)] 5 _ _ e (Nat.two_pow_pos _) q4 rfl rfl
  have f15_0 : fld w 15 0 = c.toNat := fld_pack [(1, S.toNat), (6, 58), (3, 3), (6, 0)] 15 _ _ e (c.isLt) q5 rfl rfl
  have n0 : ¬ (w = 0 ∨ w = 4294967295) := not_blank f30_25 (by decide) (by decide)
  clear e hw
  simp only [decode, n0, if_false, decodeSY, f31_31, f30_25, f24_22, f21_16, f15_0, bool_field, bits_field, need_some, Nat.add_zero]
  exact accept_ok hwf

theorem sinv (S : Bool) (k : BitVec 4) (a : BitVec 5) (b : BitVec 5) : Statement (.sinv S k a b) := by
  intro hwf w hw
  have e := (Option.some.inj hw).symm
  simp only [word_cons, word_nil, place_eq] at e
  replace e : w = pack [(1, S.toNat), (6, 58), (3, 4), (4, k.toNat), (5, a.toNat), (5, b.toNat), (8, 0)] := e.trans (by simp only [pack, total]; omega)
  have q7 : Fits [] := trivial
  have q6 : Fits [(8, 0)] := ⟨Nat.two_pow_pos _, q7⟩
  have q5 : Fits [(5, b.toNat), (8, 0)] := ⟨b.isLt, q6⟩
  have q4 : Fits [(5, a.toNat), (5, b.toNat), (8, 0)] := ⟨a.isLt, q5⟩
  have q3 : Fits [(4, k.toNat), (5, a.toNat), (5, b.toNat), (8, 0)] := ⟨k.isLt, q4⟩
  have q2 : Fits [(3, 4), (4, k.toNat), (5, a.toNat), (5, b.toNat), (8, 0)] := ⟨by decide, q3⟩
  have f31_31 : fld w 31 31 = S.toNat := fld_pack [] 0 _ _ e (S.toNat_lt) ⟨by decide, q2⟩ rfl rfl
  have f30_25 : fld w 30 25 = 58 := fld_pack [(1, S.toNat)] 5 _ _ e (by decide) q2 rfl rfl
  have f24_22 : fld w 24 22 = 4 := fld_pack [(1, S.toNat), (6, 58)] 2 _ _ e (by decide) q3 rfl rfl
  have f21_18 : fld w 21 18 = k.toNat := fld_pack [(1, S.toNat), (6, 58), (3, 4)] 3 _ _ e (k.isLt) q4 rfl rfl
  have f17_13 : fld w 17 13 = a.toNat := fld_pack [(1, S.toNat), (6, 58), (3, 4), (4, k.toNat)] 4 _ _ e (a.isLt) q5 rfl rfl
  have f12_8 : fld w 12 8 = b.toNat := fld_pack [(1, S.toNat), (6, 58), (3, 4), (4, k.toNat), (5, a.toNat)] 4 _ _ e (b.isLt) q6 rfl rfl
  have f7_0 : fld w 7 0 = 0 := fld_pack [(1, S.toNat), (6, 58), (3, 4), (4, k.toNat), (5, a.toNat), (5, b.toNat)] 7 _ _ e (Nat.two_pow_pos _) q7 rfl rfl
  have n0 : ¬ (w = 0 ∨ w = 4294967295) := not_blank f30_25 (by decide) (by decide)
  clear e hw
  simp only [decode, n0, if_false, decodeSY, f31_31, f30_25, f24_22, f21_18, f17_13, f12_8, f7_0, bool_field, bits_field, need_some, Nat.add_zero]
  exact accept_ok hwf

theorem launchFirstHalf (slot : Nat) (words : List DWord) : Statement (.launchFirstHalf slot words) := fun _ _ h => nomatch h
theorem launchSecondHalf (slot : Nat) (words : List DWord) : Statement (.launchSecondHalf slot words) := fun _ _ h => nomatch h
theorem launchSlotStatusWrite (slot : Nat) (value : DWord) : Statement (.launchSlotStatusWrite slot value) := fun _ _ h => nomatch h
theorem mailboxStatusWrite (value : DWord) : Statement (.mailboxStatusWrite value) := fun _ _ h => nomatch h
theorem registerWriteIgnored (offset : Nat) (bytes : List Byte) : Statement (.registerWriteIgnored offset bytes) := fun _ _ h => nomatch h
theorem ctxcreate  : Statement (.ctxcreate ) := fun _ _ h => nomatch h
theorem ctxdestroy  : Statement (.ctxdestroy ) := fun _ _ h => nomatch h
theorem recipeset  : Statement (.recipeset ) := fun _ _ h => nomatch h
theorem recipeImageWrite (ctx : Nat) : Statement (.recipeImageWrite ctx) := fun _ _ h => nomatch h
theorem capmint  : Statement (.capmint ) := fun _ _ h => nomatch h
theorem otinv  : Statement (.otinv ) := fun _ _ h => nomatch h
theorem otinvComplete  : Statement (.otinvComplete ) := fun _ _ h => nomatch h
theorem wdtset  : Statement (.wdtset ) := fun _ _ h => nomatch h
theorem codeload  : Statement (.codeload ) := fun _ _ h => nomatch h
theorem codeunload  : Statement (.codeunload ) := fun _ _ h => nomatch h
theorem codeUnmap (ctx : Nat) (codeid : Nat) : Statement (.codeUnmap ctx codeid) := fun _ _ h => nomatch h
theorem codekey  : Statement (.codekey ) := fun _ _ h => nomatch h
theorem preempt  : Statement (.preempt ) := fun _ _ h => nomatch h
theorem preemptGated (order : Nat) : Statement (.preemptGated order) := fun _ _ h => nomatch h
theorem rptake  : Statement (.rptake ) := fun _ _ h => nomatch h
theorem rpintset  : Statement (.rpintset ) := fun _ _ h => nomatch h
theorem recoveryPointTimer  : Statement (.recoveryPointTimer ) := fun _ _ h => nomatch h
theorem wornthr  : Statement (.wornthr ) := fun _ _ h => nomatch h
theorem framepool  : Statement (.framepool ) := fun _ _ h => nomatch h
theorem evring  : Statement (.evring ) := fun _ _ h => nomatch h
theorem island  : Statement (.island ) := fun _ _ h => nomatch h
theorem railmap  : Statement (.railmap ) := fun _ _ h => nomatch h
theorem ident  : Statement (.ident ) := fun _ _ h => nomatch h
theorem attest  : Statement (.attest ) := fun _ _ h => nomatch h
theorem dbggrant  : Statement (.dbggrant ) := fun _ _ h => nomatch h
theorem dbgrevoke  : Statement (.dbgrevoke ) := fun _ _ h => nomatch h
theorem dbghalt  : Statement (.dbghalt ) := fun _ _ h => nomatch h
theorem dbgread  : Statement (.dbgread ) := fun _ _ h => nomatch h
theorem dbgwrite  : Statement (.dbgwrite ) := fun _ _ h => nomatch h
theorem dbgresume  : Statement (.dbgresume ) := fun _ _ h => nomatch h
theorem dbgstop  : Statement (.dbgstop ) := fun _ _ h => nomatch h
theorem preciseStop (group : Nat) : Statement (.preciseStop group) := fun _ _ h => nomatch h
theorem dbgwatch  : Statement (.dbgwatch ) := fun _ _ h => nomatch h
theorem tracebuf  : Statement (.tracebuf ) := fun _ _ h => nomatch h
theorem profcfg  : Statement (.profcfg ) := fun _ _ h => nomatch h
theorem launchValidate (port : Bool) (source : Nat) : Statement (.launchValidate port source) := fun _ _ h => nomatch h
theorem crewAdmit (launch : Nat) : Statement (.crewAdmit launch) := fun _ _ h => nomatch h
theorem launchClassRise (launch : Nat) : Statement (.launchClassRise launch) := fun _ _ h => nomatch h
theorem launchComplete (launch : Nat) : Statement (.launchComplete launch) := fun _ _ h => nomatch h
theorem crewCommit (launch : Nat) : Statement (.crewCommit launch) := fun _ _ h => nomatch h
theorem generalAgeSelect (group : Nat) : Statement (.generalAgeSelect group) := fun _ _ h => nomatch h
theorem groupWake (group : Nat) : Statement (.groupWake group) := fun _ _ h => nomatch h
theorem urgencyBit (access : Nat) : Statement (.urgencyBit access) := fun _ _ h => nomatch h
theorem portAccess (access : Nat) : Statement (.portAccess access) := fun _ _ h => nomatch h
theorem claimCheck (access : Nat) : Statement (.claimCheck access) := fun _ _ h => nomatch h
theorem answerReturn (access : Nat) : Statement (.answerReturn access) := fun _ _ h => nomatch h
theorem siblingStop (group : Nat) : Statement (.siblingStop group) := fun _ _ h => nomatch h
theorem crewHaltEvent (crew : Nat) : Statement (.crewHaltEvent crew) := fun _ _ h => nomatch h
theorem trapRecordWrite (group : Nat) : Statement (.trapRecordWrite group) := fun _ _ h => nomatch h
theorem matrixEnginePerform (core : Nat) : Statement (.matrixEnginePerform core) := fun _ _ h => nomatch h
theorem copyChunk (command : Nat) : Statement (.copyChunk command) := fun _ _ h => nomatch h
theorem copyCompletion (command : Nat) : Statement (.copyCompletion command) := fun _ _ h => nomatch h
theorem qfencePerform (command : Nat) : Statement (.qfencePerform command) := fun _ _ h => nomatch h
theorem fenceComplete (group : Nat) : Statement (.fenceComplete group) := fun _ _ h => nomatch h
theorem barrierArrival (access : Nat) : Statement (.barrierArrival access) := fun _ _ h => nomatch h
theorem sinvComplete (group : Nat) : Statement (.sinvComplete group) := fun _ _ h => nomatch h
theorem fuseResolve (crew : Nat) (site : Nat) : Statement (.fuseResolve crew site) := fun _ _ h => nomatch h
theorem groupRetire (group : Nat) : Statement (.groupRetire group) := fun _ _ h => nomatch h
theorem pageMigration (entry : Nat) : Statement (.pageMigration entry) := fun _ _ h => nomatch h
theorem targetedReplay (entry : Nat) : Statement (.targetedReplay entry) := fun _ _ h => nomatch h
theorem claimScrub (line : Nat) : Statement (.claimScrub line) := fun _ _ h => nomatch h
theorem eventQueuePlaceFree (thread : Nat) : Statement (.eventQueuePlaceFree thread) := fun _ _ h => nomatch h
theorem gwaitWake (thread : Nat) : Statement (.gwaitWake thread) := fun _ _ h => nomatch h
theorem gwaitTimeout (thread : Nat) : Statement (.gwaitTimeout thread) := fun _ _ h => nomatch h
theorem emitUnblock (thread : Nat) : Statement (.emitUnblock thread) := fun _ _ h => nomatch h
theorem watchdogExpire (thread : Nat) : Statement (.watchdogExpire thread) := fun _ _ h => nomatch h
theorem eventRingWrite  : Statement (.eventRingWrite ) := fun _ _ h => nomatch h
theorem eventRingPoll  : Statement (.eventRingPoll ) := fun _ _ h => nomatch h
theorem hostMemWrite (address : Nat) (bytes : List Byte) : Statement (.hostMemWrite address bytes) := fun _ _ h => nomatch h
theorem peerAccess (device : Nat) (handle : Nat) (offset : Nat) (write : Bool) (bytes : List Byte) : Statement (.peerAccess device handle offset write bytes) := fun _ _ h => nomatch h
theorem railPortDown (port : Nat) : Statement (.railPortDown port) := fun _ _ h => nomatch h
theorem activationBackoff (controller : Nat) (bank : Nat) : Statement (.activationBackoff controller bank) := fun _ _ h => nomatch h
theorem uncorrectableError (unit : Nat) : Statement (.uncorrectableError unit) := fun _ _ h => nomatch h
theorem correctedError (unit : Nat) : Statement (.correctedError unit) := fun _ _ h => nomatch h
theorem thermalStep (die : Nat) (temperature : Nat) : Statement (.thermalStep die temperature) := fun _ _ h => nomatch h
theorem thermalCritical (die : Nat) (temperature : Nat) : Statement (.thermalCritical die temperature) := fun _ _ h => nomatch h
theorem thermalRecover (die : Nat) (temperature : Nat) : Statement (.thermalRecover die temperature) := fun _ _ h => nomatch h
theorem powerGood  : Statement (.powerGood ) := fun _ _ h => nomatch h
theorem mailboxCommandWrite (offset : Nat) (bytes : List Byte) : Statement (.mailboxCommandWrite offset bytes) := fun _ _ h => nomatch h
theorem recoveryPointCommit  : Statement (.recoveryPointCommit ) := fun _ _ h => nomatch h
theorem refreshHoldEnd (controller : Nat) (bank : Nat) : Statement (.refreshHoldEnd controller bank) := fun _ _ h => nomatch h
theorem railPortUp (port : Nat) : Statement (.railPortUp port) := fun _ _ h => nomatch h

end Sys2Proof.Laws.Encodes
end

