-- ==== Sys2Proof/Tests/Slice0.lean ====
section
/-! SUPPORT. The model's own tests: words of every format written out bit by bit from the encodings of chapter 11, the checks of
well-formedness, one step each for worked examples of the manual, and for every statement states and operands that meet its
hypotheses. -/
namespace Sys2Proof.Tests
open Sys2Proof.Machine Sys2Proof.Claims

/-! ### Words: S, the major, then the fields of the format (R238 to R259) -/

/-- Format SR: sd, sa, sb, fn. -/
theorem test_decode_sr :
    decode 0b0_000001_00011_00100_00101_0000000000 = .ok (.add false 3 4 5) := by decide

/-- Format LR: ld, la, lb, op, kc. -/
theorem test_decode_lr :
    decode 0b0_000111_01001_01010_01011_00000_0000_0 = .ok (.emit false 9 10 11) ∧
    decode 0b0_000111_01101_00000_01100_00010_0000_0 = .ok (.emits false 13 12) ∧
    decode 0b0_000111_01001_01010_00000_00100_0000_0 = .ok (.stins false 9 10) ∧
    decode 0b0_000111_00001_00000_00000_00110_0000_0 = .ok (.gwait false 1 0) ∧
    decode 0b0_000111_00101_00110_00111_01000_0000_0 = .ok (.gread false 5 6 7) ∧
    decode 0b0_000111_00010_00011_00000_01100_0100_0 = .ok (.launch false 2 3 4) := by decide

/-- Format SI: sd, sa, fn, imm12. -/
theorem test_decode_si :
    decode 0b0_000010_00101_00000_000_111111110000 = .ok (.addi false 5 0 0xFF0) := by decide

/-- Format SU: sd, imm20. -/
theorem test_decode_su :
    decode 0b0_000011_00110_00000000000000010011 = .ok (.luh false 6 0x13) := by decide

/-- Format SM: sd, k, sa, ty, imm8. -/
theorem test_decode_sm :
    decode 0b0_000100_00111_0010_00011_011_00001000 = .ok (.ldsB64 false 7 2 3 8) := by decide

/-- Format SB: sa, sb, cond, off12. -/
theorem test_decode_sb :
    decode 0b0_000101_00011_00100_000_000000001000 = .ok (.beq false 3 4 8) := by decide

/-- Format SJ: sd, off20. -/
theorem test_decode_sj :
    decode 0b0_000110_00001_11111111111111111100 = .ok (.jal false 1 0xFFFFC) := by decide

/-- Format VR: vd, va, vb, fn. -/
theorem test_decode_vr :
    decode 0b0_010001_0000100_0000101_0000110_0000 = .ok (.addsS false 4 5 6) ∧
    decode 0b0_010011_0000001_0000010_0000011_1001 = .ok (.fminF32 false 1 2 3) ∧
    decode 0b0_010011_0000001_0000010_0000011_1100 = .ok (.fmaxF32 false 1 2 3) ∧
    decode 0b0_010100_0000111_0001000_0001001_0000 = .ok (.ffmaF32 false 7 8 9) ∧
    decode 0b0_010101_0000011_0000100_0000000_0010 = .ok (.fsqrt false 3 4 .f32) ∧
    decode 0b0_011001_0000101_0000010_0000000_0101 = .ok (.ballot false 5 2) ∧
    decode 0b0_011001_0000110_0000010_0000000_0110 = .ok (.vrank false 6 2) ∧
    decode 0b0_011001_0000111_0001000_0000010_1010 = .ok (.redadd false 7 8 .s32) ∧
    decode 0b0_010000_0000001_0000010_0000011_0000 = .ok (.addV false 1 2 3) := by decide

/-- Format VI: vd, va, fn, imm8. -/
theorem test_decode_vi :
    decode 0b0_010010_0000010_0000011_100_00000100 = .ok (.shliV false 2 3 4) := by decide

/-- Format VT: vd, va, x, fn. -/
theorem test_decode_vt :
    decode 0b0_010110_0000010_0000011_00101000_000 = .ok (.cvt false 2 3 .s32 .f32) ∧
    decode 0b0_010110_0000101_0000110_01001000_001 = .ok (.cvtmfE false 5 6 9) ∧
    decode 0b0_010110_0000001_0000010_00000110_011 = .ok (.pk2 false 1 2 3 .h2) ∧
    decode 0b0_010110_0000100_0000101_00000010_100 = .ok (.upk false 4 5 true .h2) := by decide

/-- Format VC: pd, cond, va, vb, ty. -/
theorem test_decode_vc :
    decode 0b0_010111_010_0010_0000011_0000100_0010 = .ok (.cmp false 2 .lt 3 4 .s32) := by decide

/-- Format VS: vd, va, vb, p, inv. -/
theorem test_decode_vs :
    decode 0b0_011000_0000001_0000010_0000011_100_0 = .ok (.sel false 1 2 3 4 false) ∧
    decode 0b0_011000_0011000_0100000_0110000_000_0 = .ok (.plog false 1 8 2 3) := by decide

/-- Format VX: vd, x, fn. -/
theorem test_decode_vx :
    decode 0b0_011010_0000011_11111111111011_0010 = .ok (.movi false 3 0x3FFB) ∧
    decode 0b0_011010_0000100_00001010000110_0011 = .ok (.rdlane false 4 5 6) := by decide

/-- Format VM: vd, k, va, ty, imm4. -/
theorem test_decode_vm :
    decode 0b0_100000_0000100_0001_0001000_101_0010 = .ok (.ld false 4 1 8 .b64 2) ∧
    decode 0b0_100001_0000001_0001_0001000_100_0000 = .ok (.st false 1 1 8 .b32 0) := by decide

/-- Format VA: vd, k, va, X and op, scope. -/
theorem test_decode_va :
    decode 0b0_100010_0000100_0001_0001000_0_000_100 = .ok (.atom false 4 1 8 .add .device) ∧
    decode 0b1_100011_0001000_0010_0000011_1_111_101 = .ok (.atomx64 true 8 2 3 .cas .system) := by decide

/-- Format SN: fn, then by fn (R254). -/
theorem test_decode_sn :
    decode 0b0_100100_000_001010_000001_100_0000000 = .ok (.fence false 10 1 .device) ∧
    decode 0b0_100100_000_000010_000001_100_0000000 = .ok (.fence false 2 1 .device) ∧
    decode 0b0_100100_001_0010_00101_01001_000_00000 = .ok (.barinit false 2 5 9) ∧
    decode 0b0_100100_010_0010_00101_000_00100_00001 = .ok (.barr false 2 5 .device 1) ∧
    decode 0b0_100100_011_0010_00101_00110_100_00000 = .ok (.barw false 2 5 6 .device) ∧
    decode 0b0_100100_101_0001_00111_01000_00000000 = .ok (.waitw false 1 7 8) := by decide

/-- Format KP: fn, d, k, sa, sb, x. -/
theorem test_decode_kp :
    decode 0b0_100101_001_00010_0001_00100_00101_000 = .ok (.kwin false 2 1 4 5) ∧
    decode 0b0_100101_010_00011_0010_00110_00000_000 = .ok (.krights false 3 2 6) := by decide

/-- Format MC: fn, x, sa. -/
theorem test_decode_mc :
    decode 0b0_101000_00_0010_01010_00000000000000 = .ok (.tcfg false 2 10) ∧
    decode 0b0_101000_01_0001_00000_00000000000000 = .ok (.acfg false 1 0) := by decide

/-- Format MT: fn, t, k, sa, sb, part. -/
theorem test_decode_mt :
    decode 0b0_101001_0_0010_0011_01100_01101_10_0000 = .ok (.tld false 2 3 12 13 .both) ∧
    decode 0b0_101001_1_0010_0011_01100_01101_00_0000 = .ok (.tst false 2 3 12 13 .data) := by decide

/-- Format MM: fn, ad, ta, tb, sh. -/
theorem test_decode_mm :
    decode 0b0_101010_0_001_0010_0011_01_00000000000 = .ok (.mma false 1 2 3 .chunk) := by decide

/-- Format MA: fn, ad, v, col, cv. -/
theorem test_decode_ma :
    decode 0b0_101011_00_001_0000000_000000_00_00000 = .ok (.azero false 1) ∧
    decode 0b1_101011_01_001_0010100_000000_00_00000 = .ok (.ard true 1 20 0) := by decide

/-- Format CP: fn, then by fn (R257). -/
theorem test_decode_cp :
    decode 0b0_110000_000_10000_00000000000000000 = .ok (.cpyLin false 16) ∧
    decode 0b0_110000_100_10100_00000100000000000 = .ok (.cpyRed false 20 .addF32) ∧
    decode 0b0_110000_101_001_00000001_00000000000 = .ok (.qfence false 1 1) ∧
    decode 0b0_110000_001_10000_01000000000000000 = .ok (.cpyTen false 16 .transpose) ∧
    decode 0b0_110000_001_10000_11000000000000000 = .error 3 := by decide

/-- Format CT: fn, then by fn (R258). -/
theorem test_decode_ct :
    decode 0b0_111000_001_00000101_00000010_001_000 = .ok (.setblk false 5 2 1) ∧
    decode 0b0_111000_001_00000000_00000000_000_000 = .ok (.setblk false 0 0 0) ∧
    decode 0b0_111000_010_0000111_000000000000000 = .ok (.setblkv false 7) ∧
    decode 0b0_111000_101_01001_0011_0000000000000 = .ok (.fuse false 9 3) ∧
    decode 0b0_111000_110_000000_0000000010100001 = .ok (.trap false 0xA1) ∧
    decode 0b1_111000_000_0000000000000000000000 = .ok (.nop true) := by decide

/-- Format HN: fn, then by fn (R259). -/
theorem test_decode_hn :
    decode 0b0_111001_001_010_1_010_000000000000000 = .ok (.grd false 2 true 2) ∧
    decode 0b0_111001_010_0001_0001000_10_000000000 = .ok (.pfch false 1 8 .tier) ∧
    decode 0b0_111001_011_001_0000000000000000000 = .ok (.cach false .stream) ∧
    decode 0b0_111001_000_00000000000000_00000001 = .ok (.slot false 1) ∧
    decode 0b0_111001_001_011_0_000_000000000000000 = .ok (.grd false 3 false 0) := by decide

/-- Format SY: fn, then by fn (R263). -/
theorem test_decode_sy :
    decode 0b0_111010_000_0000110000000000000000 = .ok (.rdsr false 6 0) ∧
    decode 0b0_111010_000_0000100001000010000000 = .ok (.rdsr false 4 33) ∧
    decode 0b0_111010_001_0000000001000100000000 = .ok (.wrsr false 0 34) ∧
    decode 0b0_111010_010_0000000000000100010100 = .ok (.setfmImm false 0x114) ∧
    decode 0b0_111010_010_1000001100000000000000 = .ok (.setfmReg false 3) ∧
    decode 0b0_111010_011_0000000000000000000111 = .ok (.brk false 7) ∧
    decode 0b0_111010_100_0101001100011100000000 = .ok (.sinv false 5 6 7) := by decide

/-- R264, R205: a word that is not an instruction, with its reason. -/
theorem test_decode_refuses :
    decode 0 = .error 1 ∧ decode 0xFFFFFFFF = .error 1 ∧
    decode 0b0_001000_0000000000000000000000000 = .error 2 ∧ decode 0b1_111111_0000000000000000000000000 = .error 2 ∧
    decode 0b0_000001_00001_00010_00011_0000011101 = .error 3 ∧ decode 0b0_000101_00001_00010_110_000000000000 = .error 3 ∧
    decode 0b0_000010_00001_00010_100_000001000000 = .error 3 ∧
    decode 0b0_000001_00001_00010_00011_0000011001 = .error 4 ∧ decode 0b0_101010_0_001_0010_0011_00_00000000001 = .error 4 := by
  decide

/-- decodeTableWord reads its bits as the table numbers them, and refuses what the decoder refuses. -/
theorem test_decode_table_word :
    decodeTableWord 32 0x02321400 = some (.add false 3 4 5) ∧ decodeTableWord 32 0 = none := by decide

/-! ### Each check of WellFormed refuses an ill-formed term -/

theorem test_wellFormed_shift_counts :
    (Instr.shli false 1 2 63).wellFormed = true ∧ (Instr.shli false 1 2 64).wellFormed = false ∧
    (Instr.shri false 1 2 0xFFF).wellFormed = false ∧ (Instr.srai false 1 2 64).wellFormed = false ∧
    (Instr.shliV false 1 2 31).wellFormed = true ∧ (Instr.shliV false 1 2 32).wellFormed = false ∧
    (Instr.shriV false 1 2 0xFF).wellFormed = false ∧ (Instr.sraiV false 1 2 32).wellFormed = false := by decide
theorem test_wellFormed_types :
    (Instr.cvt false 1 2 .b32 .f32).wellFormed = false ∧ (Instr.cvt false 1 2 .f32 .b32).wellFormed = false ∧
    (Instr.cmp false 1 .lt 2 3 .b32).wellFormed = false ∧ (Instr.cmp false 1 .uno 2 3 .s32).wellFormed = false ∧
    (Instr.cmp false 1 .eq 2 3 .b32).wellFormed = true ∧ (Instr.ftst false 1 2 3 .s32).wellFormed = false ∧
    (Instr.redadd false 1 2 .s8).wellFormed = false ∧ (Instr.redmax false 1 2 .f16).wellFormed = false ∧
    (Instr.redmin false 1 2 .b32).wellFormed = false ∧ (Instr.scanadd false 1 2 .s64).wellFormed = false := by decide
theorem test_wellFormed_runs :
    (Instr.cpyLin false 28).wellFormed = true ∧ (Instr.cpyLin false 29).wellFormed = false ∧ (Instr.cpyLin false 0).wellFormed = false ∧
    (Instr.cpyTen false 25 .none).wellFormed = false ∧ (Instr.cpyGat false 27).wellFormed = false ∧
    (Instr.cpySct false 27).wellFormed = false ∧ (Instr.cpyRed false 28 .addF32).wellFormed = false := by decide
theorem test_wellFormed_registers :
    (Instr.sel false 1 2 3 0 true).wellFormed = false ∧ (Instr.rdsr false 4 0x21).wellFormed = true ∧
    (Instr.rdsr false 4 0x05).wellFormed = false ∧ (Instr.rdsr false 32 0x21).wellFormed = false ∧
    (Instr.wrsr false 0 0x22).wellFormed = true ∧ (Instr.wrsr false 0 0x21).wellFormed = false := by decide


/-! ### States for one step -/

/-- A lane with its first vector registers, predicates and FMODE; block 0. -/
def lane (v : List Word) (p : BitVec 8 := 0) (fm : BitVec 16 := 0) : Lane := ⟨v ++ List.replicate (16 - v.length) 0, p, 0, fm, 0⟩

/-- A GENERAL group with these lanes, scalar registers from s1 on, and capabilities from k0 on. -/
def grp (ls : List Lane) (ss : List DWord := []) (ks : List Cap := []) : Group :=
  { placedGroup 0 with
    lanes := ls, s := (0 :: ss) ++ List.replicate (31 - ss.length) 0, k := ks ++ List.replicate (16 - ks.length) Cap.null, rwcount := 5 }

/-- The group in slot 0 performs a word whose active set is given. -/
def byGroup (gr : Group) (act : List Nat) (hix : Option (BitVec 25) := none) : State :=
  { State.reset.placed 0 with agenda := [], groups := [(0, gr)], cur := ⟨.group 0, 0x1234, 7, act, hix, none, 4⟩ }

/-- A thread at byte 256 of its arena, with registers from l1 on and capabilities from k0 on, performs a word. -/
def thr (ls : List DWord) (ks : List Cap := []) : Thread :=
  { placedThread with l := (0 :: ls) ++ List.replicate (31 - ls.length) 0, k := ks ++ List.replicate (16 - ks.length) Cap.null, pc := 256 }
def byThread (th : Thread) (gr : Group := grp []) : State :=
  { State.reset.placed 0 with agenda := [], groups := [(0, gr)], threads := [(0, th)], cur := ⟨.thread 0, 0x1234, 0, [], none, none, 0⟩ }

/-- What a step leaves: the group in slot 0, thread 0, a scalar register, a lane's vector register, its predicate. -/
def next (o : Out) : State :=
  match o with
  | .next s => s
  | .fault _ | .refused _ => State.reset
def groupOf (o : Out) : Group := ((next o).group? 0).getD (grp [])
def threadOf (o : Out) : Thread := ((next o).thread? 0).getD (thr [])
def sOf (o : Out) (r : Nat) : DWord := (groupOf o).rs r
def vOf (o : Out) (n r : Nat) : Word := ((groupOf o).lane n).rd r
def pOf (o : Out) (n : Nat) (p : BitVec 3) : Bool := ((groupOf o).lane n).pred p
def lOf (o : Out) (r : Nat) : DWord := (threadOf o).rl r

/-- One lane with registers v0 on. -/
def one (v : List Word) (fm : BitVec 16 := 0) (ss : List DWord := []) : State := byGroup (grp [lane v 0 fm] ss) [0]

/-! ### Worked examples of the manual -/

/-- R269, R270: 5 + (−7); −7 ÷ 2 and its remainder. -/
theorem test_add : sOf (exec (.add false 3 1 2) (byGroup (grp [lane []] [5, -7]) [0])) 3 = 0xFFFFFFFFFFFFFFFE := by decide
theorem test_divS : lOf (exec (.divS false 5 1 2) (byThread (thr [-7, 2]))) 5 = -3 := by decide
theorem test_remS : lOf (exec (.remS false 5 1 2) (byThread (thr [-7, 2]))) 5 = -1 := by decide
/-- R121: division by zero, and INT_MIN ÷ −1. -/
theorem test_divN_zero : sOf (exec (.divN false 3 1 2) (byGroup (grp [lane []] [5, 0]) [0])) 3 = -1 := by decide
theorem test_remN_zero : sOf (exec (.remN false 3 1 2) (byGroup (grp [lane []] [5, 0]) [0])) 3 = 5 := by decide
theorem test_divS_min : sOf (exec (.divS false 3 1 2) (byGroup (grp [lane []] [0x8000000000000000, -1]) [0])) 3 = 0x8000000000000000 := by
  decide
/-- R19: a write to s0 is discarded. -/
theorem test_add_s0 : groupOf (exec (.add false 0 1 2) (byGroup (grp [lane []] [5, -7]) [0])) = grp [lane []] [5, -7] := by rfl
/-- R270: a field that would pass bit 63 is cut; of length 0 it is 0. -/
theorem test_bfxN : sOf (exec (.bfxN false 3 1 2) (byGroup (grp [lane []] [0xF000000000000000, 0x103C + 0x0F00]) [0])) 3 = 0xF := by decide
/-- R271: the example of `jalr`; a target that is no multiple of 4 is a level-two fault. -/
theorem test_jalr : (threadOf (exec (.jalr false 1 9) (byThread (thr [0, 0, 0, 0, 0, 0, 0, 0, 0x20040])))).pc = 0x20040 ∧
    lOf (exec (.jalr false 1 9) (byThread (thr [0, 0, 0, 0, 0, 0, 0, 0, 0x20040]))) 1 = 0x104 := by decide
/-- R272, R273, and the wide immediate of chapter 11. -/
theorem test_addi : lOf (exec (.addi false 5 0 0xFF0) (byThread (thr []))) 5 = 0xFFFFFFFFFFFFFFF0 := by decide
theorem test_luh_addi : lOf (exec (.luh false 6 0x13) (byThread (thr []))) 6 = 0x13000 ∧
    lOf (exec (.addi false 6 6 0xF80) (byThread (thr [0, 0, 0, 0, 0, 0x13000]))) 6 = 0x12F80 := by decide
/-- R275: a branch and `jal` count words from their own. -/
theorem test_beq : (threadOf (exec (.beq false 3 4 8) (byThread (thr [])))).pc = 288 := by decide
theorem test_jal : (threadOf (exec (.jal false 1 0xFFFFC) (byThread (thr [])))).pc = 240 := by decide
/-- R278: a full queue. -/
theorem test_emitnb_full : lOf (exec (.emitnb false 9 10 11) (byThread (thr []) { grp [lane []] with
    isOpen := true, queue := List.replicate 32 ⟨0, 0⟩ })) 9 = 1 := by decide
/-- R296: the examples of `adds.s` and `absd`. -/
theorem test_addsS : vOf (exec (.addsS false 4 5 6) (one [0, 0, 0, 0, 0, 0x7FFFFFF0, 0x20])) 0 4 = 0x7FFFFFFF := by decide
theorem test_addV : vOf (exec (.addV false 4 5 6) (one [0, 0, 0, 0, 0, 0x7FFFFFF0, 0x20])) 0 4 = 0x80000010 := by decide
theorem test_absd : vOf (exec (.absd false 4 5 6) (one [0, 0, 0, 0, 0, -3, 5])) 0 4 = 8 := by decide
/-- R298. -/
theorem test_shliV : vOf (exec (.shliV false 2 3 4) (one [0, 0, 0, 0xF1])) 0 2 = 0xF10 := by decide
/-- R300: `fmin` of 1.0 and a signalling NaN under MINX 0, under MINX, and under MINX with NANP. -/
theorem test_fminF32 : vOf (exec (.fminF32 false 1 2 3) (one [0, 0, 0x3F800000, 0x7F800001])) 0 1 = 0x3F800000 ∧
    vOf (exec (.fminF32 false 1 2 3) (one [0, 0, 0x3F800000, 0x7F800001] 0x80)) 0 1 = 0x7FC00000 := by decide
/-- R301: 2 × 3 + 1. -/
theorem test_ffmaF32 : vOf (exec (.ffmaF32 false 7 8 9) (one [0, 0, 0, 0, 0, 0, 0, 0x3F800000, 0x40000000, 0x40400000])) 0 7 = 0x40E00000 := by
  decide
set_option maxRecDepth 4000 in
/-- R303, R304: the root of 2.0 to nearest and upward; the class of a negative subnormal. -/
theorem test_fsqrt : vOf (exec (.fsqrt false 3 4 .f32) (one [0, 0, 0, 0, 0x40000000])) 0 3 = 0x3FB504F3 ∧
    vOf (exec (.fsqrt false 3 4 .f32) (one [0, 0, 0, 0, 0x40000000] 3)) 0 3 = 0x3FB504F4 := by decide
theorem test_fclass : vOf (exec (.fclass false 3 4 .f32) (one [0, 0, 0, 0, 0x80000001])) 0 3 = 4 := by decide
/-- R305: −2.5 to an integer, to nearest even and to nearest away. -/
theorem test_cvt : vOf (exec (.cvt false 2 3 .s32 .f32) (one [0, 0, 0, 0xC0200000])) 0 2 = -2 ∧
    vOf (exec (.cvt false 2 3 .s32 .f32) (one [0, 0, 0, 0xC0200000] 4)) 0 2 = -3 := by decide
/-- R306: −3.0 in the minifloat of R131, and back. -/
theorem test_cvtmf : vOf (exec (.cvtmfE false 5 6 1) (one [0, 0, 0, 0, 0, 0, 0xC0400000] 0 [0x0107727A])) 0 5 = 0xC4 ∧
    vOf (exec (.cvtmfD false 5 6 1) (one [0, 0, 0, 0, 0, 0, 0xC4] 0 [0x0107727A])) 0 5 = 0xC0400000 := by decide
/-- R307: two halves packed, and the upper one taken out. -/
theorem test_pk2 : vOf (exec (.pk2 false 1 2 3 .h2) (one [0, 0, 0x3F800000, 0xC0000000])) 0 1 = 0xC0003C00 := by decide
theorem test_upk : vOf (exec (.upk false 4 5 true .h2) (one [0, 0, 0, 0, 0, 0xC0003C00])) 0 4 = 0xC0000000 := by decide
/-- R308: −1 < 1 signed, not unsigned. -/
theorem test_cmp : pOf (exec (.cmp false 2 .lt 3 4 .s32) (one [0, 0, 0, -1, 1])) 0 2 = true ∧
    pOf (exec (.cmp false 2 .lt 3 4 .n32) (one [0, 0, 0, -1, 1])) 0 2 = false := by decide
/-- R309: 0x8 is `and`. -/
theorem test_plog : pOf (exec (.plog false 1 8 2 3) (byGroup (grp [lane [] 0b1100, lane [] 0b0100]) [0, 1])) 0 1 = true ∧
    pOf (exec (.plog false 1 8 2 3) (byGroup (grp [lane [] 0b1100, lane [] 0b0100]) [0, 1])) 1 1 = false := by decide

/-- Eight lanes with p2 true in lanes 1, 4 and 5 (R312). -/
def ballotState : State := byGroup (grp ((List.range 8).map fun i => lane [] (if i = 1 ∨ i = 4 ∨ i = 5 then 4 else 0))) (List.range 8)
theorem test_ballot : (List.range 8).map (fun i => vOf (exec (.ballot false 5 2) ballotState) i 5) = List.replicate 8 0x32 := by decide
theorem test_vrank : (List.range 8).map (fun i => vOf (exec (.vrank false 6 2) ballotState) i 6) = [0, 0, 1, 1, 1, 2, 3, 3] := by decide
theorem test_vcount : vOf (exec (.vcount false 6 2) ballotState) 7 6 = 3 := by decide
/-- R313: a sum over the active lanes only, and an inclusive scan. -/
theorem test_redadd : vOf (exec (.redadd false 7 8 .s32) (byGroup (grp ((List.range 4).map fun i =>
    lane [0, 0, 0, 0, 0, 0, 0, 0, BitVec.ofNat 32 (i + 1)])) [0, 1, 3])) 3 7 = 7 := by decide
theorem test_scanadd : (List.range 4).map (fun n => vOf (exec (.scanadd false 7 8 .s32) (byGroup (grp ((List.range 4).map fun i =>
    lane [0, 0, 0, 0, 0, 0, 0, 0, BitVec.ofNat 32 (i + 1)])) [0, 1, 3])) n 7) = [1, 3, 0, 7] := by decide
/-- R315: lanes that round differently. -/
theorem test_redadd_fmtmix : ((groupOf (exec (.redadd false 7 8 .f32) (byGroup (grp [lane [] 0 0, lane [] 0 1]) [0, 1]))).trap.map
    (·.code)) = some 5 := by decide
/-- R316, R317: −5; a lane beyond the width reads 0. -/
theorem test_movi : vOf (exec (.movi false 3 0x3FFB) (one [])) 0 3 = 0xFFFFFFFB := by decide
theorem test_rdlane : sOf (exec (.rdlane false 4 5 6) (byGroup (grp [lane [0, 0, 0, 0, 0, 9]] [0, 0, 0, 77, 0, 40]) [0])) 4 = 0 := by decide

/-- An object capability: handle 1, every right, the first bytes of an object (R179). -/
def cap (low len : Nat) (kind : Nat := 1) : Cap := mkCap 1 127 kind low len
/-- The stages and pieces of the accesses under way. -/
def pieces (o : Out) : List (Nat × List (Nat × Nat)) := (next o).accs.map fun x => (x.2.sector, x.2.pieces.map fun p => (p.lane, p.off))

/-- R321: the example of `ld.b64`: three sectors, lanes 0–1, 2–5 and 6–7. -/
theorem test_ld : pieces (exec (.ld false 4 1 8 .b64 2) (byGroup (grp ((List.range 8).map fun i =>
    lane [0, 0, 0, 0, 0, 0, 0, 0, BitVec.ofNat 32 (8 * i)]) [] [Cap.null, cap 32 4096]) (List.range 8))) =
    [(1, [(0, 48), (1, 56)]), (2, [(2, 64), (3, 72), (4, 80), (5, 88)]), (3, [(6, 96), (7, 104)])] := by decide
/-- The same with lane 5 at 0x2C: ALIGN, its fault set lane 5. -/
theorem test_ld_align : ((groupOf (exec (.ld false 4 1 8 .b64 2) (byGroup (grp ((List.range 8).map fun i =>
    lane [0, 0, 0, 0, 0, 0, 0, 0, BitVec.ofNat 32 (if i = 5 then 0x2C else 8 * i)]) [] [Cap.null, cap 32 4096]) (List.range 8)))).trap.map
    fun t => (t.code, t.fault, t.retry)) = some (3, [5], List.range 8) := by decide
/-- R319: an access beyond the window traps CAPBOUND. -/
theorem test_st_bound : ((groupOf (exec (.st false 1 1 8 .b32 0) (byGroup (grp [lane [0, 0, 0, 0, 0, 0, 0, 0, 16]] [] [Cap.null, cap 0 16]) [0]))).trap.map
    (·.code)) = some 8 := by decide
/-- R336: rights only shrink; a window inside the window. -/
theorem test_krights : ((groupOf (exec (.krights false 3 2 6) (byGroup (grp [lane []] [0, 0, 0, 0, 0, 3] [Cap.null, Cap.null, cap 0 64]) [0]))).rk 3).rights = 3 := by
  decide
theorem test_kwin : let k := (groupOf (exec (.kwin false 2 1 4 5) (byGroup (grp [lane []] [0, 0, 0, 16, 32] [Cap.null, cap 64 48]) [0]))).rk 2
    (k.low, k.len, k.tag) = (80, 32, true) := by decide
theorem test_kwin_bound : ((groupOf (exec (.kwin false 2 1 4 5) (byGroup (grp [lane []] [0, 0, 0, 17, 32] [Cap.null, cap 64 48]) [0]))).trap.map
    (·.code)) = some 8 := by decide
/-- R329: `barinit` with EXPECTED 2 stores 0x2000_0000. -/
theorem test_barinit : ((next (exec (.barinit false 2 5 9) (byGroup (grp [lane []] [0, 0, 0, 0, 0, 0, 0, 0, 2] [Cap.null, Cap.null, cap 0 64 2]) [0]))).accs.flatMap
    fun x => x.2.pieces.map (·.value)) = [0x20000000] := by decide
/-- R367, R370: a block by predicate; `exit` ends the lanes. -/
theorem test_setblk : ((groupOf (exec (.setblk false 0 255 1) (byGroup (grp [lane [] 2, lane []]) [0, 1]))).lanes.map (·.blk)) = [0, 255] := by decide
theorem test_exit : (groupOf (exec (.exit false) (byGroup (grp [lane [] 2, lane []]) [1]))).liveLanes = [0] := by decide
/-- R372: `trap` traps with an empty active set. -/
theorem test_trap : ((groupOf (exec (.trap false 0xA1) (byGroup (grp [lane []]) []))).trap.map fun t => (t.code, t.detail, t.retry)) = some (7, 0xA1, []) := by
  decide
/-- R376, R383: three words guarded; RNA, FTZ and FMAL. -/
theorem test_grd : (groupOf (exec (.grd false 2 true 2) (byGroup (grp [lane []]) [0]))).guard = some ⟨2, true, 3⟩ := by decide
theorem test_setfm : (((groupOf (exec (.setfmImm false 0x114) (byGroup (grp [lane []]) [0]))).lane 0).fmode) = 0x114 := by decide
/-- R381, R382. -/
theorem test_rdsr : (List.range 2).map (fun n => vOf (exec (.rdsr false 6 0) (byGroup (grp [lane [], lane []]) [0, 1])) n 6) = [0, 1] := by decide
theorem test_wrsr : ((next (exec (.wrsr false 1 0x22) (byGroup (grp [lane []] [0xF00000FF00000007]) [0]))).ctx? 0).map (·.claimLost) =
    some 0x8000000000000007 := by decide
/-- R264, R265: a thread's word in a group, a group's word in a thread. -/
theorem test_undef_group : ((groupOf (exec (.jal false 1 4) (byGroup (grp [lane []]) [0]))).trap.map fun t => (t.code, t.detail)) = some (1, 7) := by decide
theorem test_role : ((groupOf (exec (.azero false 0) (byGroup { grp [lane []] with role := .vector } [0]))).trap.map fun t => (t.code, t.detail)) = some (2, 0) := by
  decide

/-! ### Hypotheses of the statements are met -/

theorem acts {gr : Group} {act : List Nat} {h : Option (BitVec 25)} (ha : act ≠ []) : Acts (byGroup gr act h) 0 gr := ⟨⟨rfl, rfl⟩, ha⟩
theorem issues {gr : Group} {act : List Nat} {h : Option (BitVec 25)} : Issues (byGroup gr act h) 0 gr := ⟨rfl, rfl⟩
theorem runs {th : Thread} {gr : Group} : Runs (byThread th gr) 0 th := ⟨rfl, rfl⟩

theorem declared {gr : Group} {rs : List (BitVec 7)} (h : (∀ r ∈ rs, r.toNat < gr.regs)) : Declared gr rs := h
theorem fits {gr : Group} {r : BitVec 7 × Nat} (h : r.1.toNat % r.2 = 0 ∧ r.1.toNat + r.2 ≤ gr.regs) : Fits gr r := h

/-- A group of one lane and sixteen registers, with s1 = 5, s2 = −7; and a thread with l1 = 5, l2 = −7. -/
def grp1 : Group := { grp [lane [1, 2, 3, 4]] [5, -7] with regs := 16 }
def thr1 : Thread := thr [5, -7]

theorem witness_ScalarRegisterWord :
    (∃ i s g gr d v, Acts s g gr ∧ s.cur.hix = none ∧ registerResult (fun r => gr.rs r.toNat) i = some (d, v)) ∧
    (∃ i s t th d v, Runs s t th ∧ registerResult (fun r => th.rl r.toNat) i = some (d, v)) :=
  ⟨⟨.divS false 0 1 0, byGroup grp1 [0], 0, grp1, _, _, acts (by decide), rfl, rfl⟩,
   ⟨.bfi false 31 1 2, byThread thr1, 0, thr1, _, _, runs, rfl⟩⟩

theorem witness_ScalarImmediateWord :
    (∃ i s g gr d v, Acts s g gr ∧ immediateResult s.cur.hix (fun r => gr.rs r.toNat) i = some (d, v)) ∧
    (∃ i s t th d v, Runs s t th ∧ immediateResult none (fun r => th.rl r.toNat) i = some (d, v)) :=
  ⟨⟨.addi false 5 1 0xFFF, byGroup grp1 [0] (some 0x1FFFFFF), 0, grp1, _, _, acts (by decide), rfl⟩,
   ⟨.shli false 5 1 63, byThread thr1, 0, thr1, _, _, runs, rfl⟩⟩

theorem witness_VectorIntegerResult : ∃ i s g gr d a b f, Acts s g gr ∧ s.cur.hix = none ∧
    integerResult i = some (d, a, b, f) ∧ Declared gr [d, a, b] :=
  ⟨.bfiV false 15 1 2, byGroup grp1 [0], 0, grp1, _, _, _, _, acts (by decide), rfl, rfl, declared (by decide)⟩

theorem witness_VectorImmediateAndPairResult :
    (∃ i s g gr d a f, Acts s g gr ∧ vectorImmediate s.cur.hix i = some (d, a, f) ∧ Declared gr [d, a]) ∧
    (∃ i s g gr w d a b f, Acts s g gr ∧ s.cur.hix = none ∧ pairResult i = some (w, d, a, b, f) ∧ Fits gr (d, 2) ∧
      Fits gr (a, if w then 2 else 1) ∧ Fits gr (b, if w then 2 else 1)) :=
  ⟨⟨.shliV false 15 1 31, byGroup grp1 [0] (some 0), 0, grp1, _, _, _, acts (by decide), rfl, declared (by decide)⟩,
   ⟨.add64 false 14 0 2, byGroup grp1 [0], 0, grp1, _, _, _, _, _, acts (by decide), rfl, rfl, fits (by decide), fits (by decide), fits (by decide)⟩⟩

theorem witness_VectorFloatResult : ∃ i s g gr d a b, Acts s g gr ∧ s.cur.hix = none ∧
    (∃ f, floatResult (modeOf 0) i = some (d, a, b, f)) ∧ Declared gr [d, a, b] :=
  ⟨.ffmaH2 false 15 1 2, byGroup grp1 [0], 0, grp1, _, _, _, acts (by decide), rfl, ⟨_, rfl⟩, declared (by decide)⟩

/-- A legal descriptor of FMT 9 in s1, the minifloat of R131, and an illegal one in s2. -/
def grpMf : Group := { grp [lane []] [0x0107727A - 1, 0xF] with regs := 16 }
theorem witness_ConversionResult :
    (∃ (y z : TyCode) (d a : BitVec 7) (s : State) (g : Nat) (gr : Group), Acts s g gr ∧ s.cur.hix = none ∧ Fits gr (d, regsOf y) ∧ Fits gr (a, regsOf z)) ∧
    (∃ (d a : BitVec 7) (s : State) (g : Nat) (gr : Group), Acts s g gr ∧ s.cur.hix = none ∧ Declared gr [d, a]) ∧
    (let e := descOf (fld (grpMf.rs 1).toNat 31 0)
     descLegal (fld (grpMf.rs 1).toNat 31 0) = true ∧ (e.fmt = 9 ∨ e.fmt = 10)) ∧
    descLegal (fld (grpMf.rs 2).toNat 31 0) = false :=
  ⟨⟨.s64, .f32, 14, 15, byGroup grp1 [0], 0, grp1, acts (by decide), rfl, fits (by decide), fits (by decide)⟩,
   ⟨15, 0, byGroup grpMf [0], 0, grpMf, acts (by decide), rfl, declared (by decide)⟩, by decide, by decide⟩

theorem witness_PredicateResult : ∃ i s g gr rs p f, Acts s g gr ∧ s.cur.hix = none ∧ predicateResult i = some (rs, p, f) ∧
    ∀ r ∈ rs, Fits gr r :=
  ⟨.cmp false 0 .lt 14 2 .s64, byGroup grp1 [0], 0, grp1, _, _, _, acts (by decide), rfl, rfl, fun r h => fits ((by decide : ∀ r ∈ [((14 : BitVec 7), 2), (2, 2)], r.1.toNat % r.2 = 0 ∧ r.1.toNat + r.2 ≤ grp1.regs) r h)⟩

theorem witness_AcrossLanesResult :
    (∃ i s g gr rs d f, Acts s g gr ∧ s.cur.hix = none ∧ acrossResult gr s.cur.act i = some (rs, d, f) ∧ Declared gr rs) ∧
    (∃ (a : BitVec 7) (s : State) (g : Nat) (gr : Group), Acts s g gr ∧ s.cur.hix = none ∧ Declared gr [a]) :=
  ⟨⟨.shflDn false 15 0 1, byGroup grp1 [0], 0, grp1, _, _, _, acts (by decide), rfl, rfl, declared (by decide)⟩,
   ⟨15, byGroup grp1 [0], 0, grp1, acts (by decide), rfl, declared (by decide)⟩⟩

/-- Two lanes that round alike, and two that do not. -/
def grp2 (fm : BitVec 16) : Group := { grp [lane [0x3F800000], lane [0x40000000] 0 fm] with regs := 16 }
theorem witness_FoldResult :
    (∃ i s g gr d a t scan op, Acts s g gr ∧ s.cur.hix = none ∧ foldResult i = some (d, a, t, scan, op) ∧ Declared gr [d, a] ∧
      t = .f32 ∧ ∃ j ∈ s.cur.act.tail, (gr.lane j).fmode &&& 0xDF ≠ (gr.lane (s.cur.act.headD 0)).fmode &&& 0xDF) ∧
    (∃ i s g gr d a t scan op, Acts s g gr ∧ s.cur.hix = none ∧ foldResult i = some (d, a, t, scan, op) ∧ Declared gr [d, a] ∧
      ¬ ∃ j ∈ s.cur.act.tail, (gr.lane j).fmode &&& 0xDF ≠ (gr.lane (s.cur.act.headD 0)).fmode &&& 0xDF) :=
  ⟨⟨.redadd false 15 0 .f32, byGroup (grp2 1) [0, 1], 0, grp2 1, _, _, _, _, _, acts (by decide), rfl, rfl, declared (by decide), rfl, 1, by decide, by decide⟩,
   ⟨.scanadd false 15 0 .f32, byGroup (grp2 0x20) [0, 1], 0, grp2 0x20, _, _, _, _, _, acts (by decide), rfl, rfl, declared (by decide), by decide⟩⟩

/-- Where a port keeps a copy of an entry that is still the table's and allows the access, the access is judged by it. -/
theorem portEntry_kept {s : State} {port ctx h kind need off size : Nat} {c : Context} {e : Entry} (hc : s.ctx? ctx = some c)
    (he : entryAt s.mem c h = some e) (hp : s.copyOf port ctx h = some e) (hf : portFails s.mem (some e) kind need off size = [])
    (hk : s.keepCopy port ctx h e = s) : s.portEntry port ctx h kind need off size = (s, some e) := by
  simp [State.portEntry, hc, he, hp, hf, hk]

/-- The entry of the arena of the placed context, object 0, and the copy of it that port 0 keeps. -/
def arena : Entry := ⟨6 * 2 ^ 60 + 0x7F * 2 ^ 52 + 2 ^ 40 + 65535, 65536, 0, 0⟩
def kept (s : State) : State := { s with otCache := [⟨0, 0, 0, arena.words⟩] }
/-- With no access under way no urgent read stands in front; with no refresh nothing is held. -/
theorem readWaits_none {s : State} {f : Nat} (h : s.accs = []) : s.readWaits f = false := by
  simp [State.readWaits, State.urgentAt, h]
theorem tableBank_none {s : State} {port ctx h kind need off n : Nat} (hr : s.refresh = []) : s.tableBank port ctx h kind need off n = none := by
  simp [State.tableBank, hr]

/-- A thread about to fetch word w at byte 0 of its arena. -/
def fetching (w : Nat) : State := { kept (byThread { thr [] with pc := 0 }) with agenda := [.fetch 0], mem := placedMem [] w }
theorem fetches (w : Nat) (he : entryAt (placedMem [] w) placedContext 0 = some arena) (hf : portFails (placedMem [] w) (some arena) 6 32 0 4 = [])
    (hj : judge (placedMem [] w) (some arena) 6 32 0 4 = .at_ 0) :
    Fetches { fetching w with agenda := [] } 0 { thr [] with pc := 0 } placedContext ({ fetching w with agenda := [] }, some arena) 0 :=
  ⟨rfl, rfl, rfl, by decide, rfl, tableBank_none rfl, portEntry_kept (c := placedContext) rfl he rfl hf rfl, hj, rfl, readWaits_none rfl⟩

/-- A group about to issue word w, behind a `hix` or not. -/
def issuing (w : Word) (h : Option (BitVec 25)) : State :=
  { byGroup { placedGroup w.toNat with hix := h } [] with agenda := [.issue 0] }

theorem witness_WordsRefused :
    (∃ i s g gr, Issues s g gr ∧ Claims.threadOnly i = true ∧ s.cur.hix = none) ∧
    (∃ i s g gr, Issues s g gr ∧ encoded i = true ∧ widened i = false ∧ Claims.threadOnly i = true ∧ s.cur.hix ≠ none) ∧
    (∃ i s g gr, Issues s g gr ∧ encoded i = true ∧ widened i = false ∧ Claims.threadOnly i = false ∧ s.cur.hix ≠ none) ∧
    (∃ i s t th, Runs s t th ∧ encoded i = true ∧ Claims.threadOnly i = false ∧ shared i = false) ∧
    (∀ x ∈ [((0 : Word), 1, false), (0x10000000, 2, false), (0b0_000001_00001_00010_00011_0000011101, 3, false),
        (0b0_000001_00001_00010_00011_0000011001, 4, false), (0b0_000001_00001_00010_00011_0000011001, 4, true)],
      ∃ s g r gr q gr1, State.bootFail s = 0 ∧ s.agenda = .issue g :: r ∧ s.group? g = some gr ∧ { s with agenda := r }.raiseDue gr = false ∧
        gr.nextWord = some (q, gr1) ∧ q.word = x.1 ∧ decode q.word.toNat = .error x.2.1 ∧
        ({ s with agenda := r }.begin g gr q gr1).cur.hix.isSome = x.2.2 ∧ fld q.word.toNat 30 25 ∉ [0x16, 0x28, 0x38] ∧
        fld q.word.toNat 30 25 ∉ widenedMajors) ∧
    (∃ s t r th c p f k, State.bootFail s = 0 ∧ s.agenda = .fetch t :: r ∧ Fetches { s with agenda := r } t th c p f ∧
      decode (BitVec.ofNat 32 (mnat s.mem f 4) : Word).toNat = .error k) :=
  ⟨⟨.gkill false 1 2, byGroup grp1 [0], 0, grp1, issues, rfl, rfl⟩,
   ⟨.beq false 1 2 0, byGroup grp1 [] (some 0), 0, grp1, issues, rfl, rfl, rfl, by decide⟩,
   ⟨.vote false, byGroup grp1 [] (some 0), 0, grp1, issues, rfl, rfl, rfl, by decide⟩,
   ⟨.hix false 0, byThread thr1, 0, thr1, runs, rfl, rfl, rfl⟩,
   fun x hx => by
     simp only [List.mem_cons, List.not_mem_nil, or_false] at hx
     rcases hx with rfl | rfl | rfl | rfl | rfl
     · exact ⟨issuing 0 none, 0, [], _, _, _, rfl, rfl, rfl, by decide, rfl, rfl, by decide, by decide, by decide, by decide⟩
     · exact ⟨issuing 0x10000000 none, 0, [], _, _, _, rfl, rfl, rfl, by decide, rfl, rfl, by decide, by decide, by decide, by decide⟩
     · exact ⟨issuing 0b0_000001_00001_00010_00011_0000011101 none, 0, [], _, _, _, rfl, rfl, rfl, by decide, rfl, rfl, by decide, by decide, by decide, by decide⟩
     · exact ⟨issuing 0b0_000001_00001_00010_00011_0000011001 none, 0, [], _, _, _, rfl, rfl, rfl, by decide, rfl, rfl, by decide, by decide, by decide, by decide⟩
     · exact ⟨issuing 0b0_000001_00001_00010_00011_0000011001 (some 0), 0, [], _, _, _, rfl, rfl, rfl, by decide, rfl, rfl, by decide, by decide, by decide, by decide⟩,
   ⟨fetching 0, 0, [], _, placedContext, _, 0, 1, rfl, rfl, fetches _ (by decide) (by decide) (by decide), by decide⟩⟩

/-- Where a word names no register that is not declared, no tile and no accumulator, no check of UNDEF stops it. -/
theorem admitted {s : State} {gr : Group} {i : Instr} (hx : s.cur.hix = none) (hv : Allowed s gr i) (hr : ∀ r ∈ runsOf gr i, r.1.toNat % r.2 = 0 ∧ r.1.toNat + r.2 ≤ gr.regs)
    (ht : tilesOf i = []) (ha : accsOf i = []) (hs : ∀ S (m : BitVec 8), i ≠ .slot S m) (hm : ∀ S (m : BitVec 16), i ≠ .setfmImm S m) : Admitted s gr i :=
  ⟨.inl hx, hv, hr, by rw [ht]; exact fun _ h => absurd h (List.not_mem_nil), by rw [ha]; exact fun _ h => absurd h (List.not_mem_nil),
   fun S m h => absurd h (hs S m), fun S m h => absurd h (hm S m)⟩
theorem witness_EmptyActiveSetChangesNothing : ∃ i s g gr, Issues s g gr ∧ s.cur.act = [] ∧ encoded i = true ∧
    evenEmpty i = false ∧ threadOnly i = false ∧ Admitted s gr i ∧ gr.role ∈ rolesOf i :=
  ⟨.st false 1 1 8 .b32 0, byGroup grp1 [], 0, grp1, issues, rfl, rfl, rfl, rfl,
   admitted rfl trivial (by decide) rfl rfl (fun _ _ h => Instr.noConfusion h) (fun _ _ h => Instr.noConfusion h), by decide⟩

/-- v15 holds no block of the kernel and no legal mode. -/
def grpBad : Group := { grp [lane (List.replicate 15 0 ++ [7]), lane []] [5] with regs := 16 }
/-- Its crew has no tile and no accumulator. -/
def bare : State := { byGroup grp1 [0] with crews := [(0, { placedCrew with tiles := [], accs := [] })] }
theorem witness_RegisterAndRoleChecks :
    let checks := fun (i : Instr) (s : State) (gr : Group) => Issues s 0 gr ∧ encoded i = true ∧ threadOnly i = false ∧ s.cur.hix = none
    let fit := fun (i : Instr) (gr : Group) => ∀ r ∈ runsOf gr i, Fits gr r
    (∃ i s gr, checks i s gr ∧ ¬ Allowed s gr i) ∧
    (∀ i ∈ [Instr.addV false 1 2 16, .add64 false 13 0 2], ∃ s gr, checks i s gr ∧ Allowed s gr i ∧ ¬ fit i gr) ∧
    (∃ i s gr, checks i s gr ∧ Allowed s gr i ∧ fit i gr ∧ ¬ TilesIn s gr (tilesOf i)) ∧
    (∃ i s gr, checks i s gr ∧ Allowed s gr i ∧ fit i gr ∧ ¬ AccsIn s gr (accsOf i)) ∧
    (∃ i s gr, checks i s gr ∧ Admitted s gr i ∧ gr.role ∉ rolesOf i) ∧
    (∃ (m : BitVec 8) (s : State) (gr : Group), checks (.slot false m) s gr ∧ 2 ^ gr.members.length ≤ m.toNat) ∧
    (∃ (m : BitVec 16) (s : State) (gr : Group), checks (.setfmImm false m) s gr ∧ fmodeLegal m.toNat = false) ∧
    ∃ (v : BitVec 7) (s : State) (gr : Group), Acts s 0 gr ∧ s.cur.hix = none ∧ Declared gr [v] ∧
      (let value := fun i => ((gr.lane i).rd v.toNat).toNat
       (s.cur.act.filter fun i => decide (value i ≠ 255 ∧ s.blocksOf gr ≤ value i)) = [0] ∧
       (s.cur.act.filter fun i => !fmodeLegal (value i % 65536)) = [0]) := by
  refine ⟨⟨.setblk false 200 255 0, byGroup grp1 [0], grp1, ⟨issues, rfl, rfl, rfl⟩, fun h => absurd h.1 (by decide)⟩, fun i h => ?_,
   ⟨.tld false 0 1 1 2 .data, bare, grp1, ⟨⟨rfl, rfl⟩, rfl, rfl, rfl⟩, trivial, fun _ h => absurd h (List.not_mem_nil), fun h => ?_⟩,
   ⟨.azero false 0, bare, grp1, ⟨⟨rfl, rfl⟩, rfl, rfl, rfl⟩, trivial, fun _ h => absurd h (List.not_mem_nil), fun h => ?_⟩,
   ⟨.cpyLin false 1, byGroup { grp1 with role := .vector } [0], { grp1 with role := .vector }, ⟨issues, rfl, rfl, rfl⟩,
     admitted rfl trivial (by decide) rfl rfl (fun _ _ h => Instr.noConfusion h) (fun _ _ h => Instr.noConfusion h), by decide⟩,
   ⟨255, byGroup grp1 [0], grp1, ⟨issues, rfl, rfl, rfl⟩, by decide⟩, ⟨7, byGroup grp1 [0], grp1, ⟨issues, rfl, rfl, rfl⟩, by decide⟩,
   ⟨15, byGroup grpBad [0, 1], grpBad, acts (by decide), rfl, declared (by decide), by decide, by decide⟩⟩
  · simp only [List.mem_cons, List.not_mem_nil, or_false] at h
    rcases h with rfl | rfl
    · exact ⟨byGroup grp1 [0], grp1, ⟨issues, rfl, rfl, rfl⟩, trivial, fun h => absurd (h (16, 1) (by decide)) (by unfold Fits; decide)⟩
    · exact ⟨byGroup grp1 [0], grp1, ⟨issues, rfl, rfl, rfl⟩, trivial, fun h => absurd (h (13, 2) (by decide)) (by unfold Fits; decide)⟩
  · obtain ⟨c, hc, hn⟩ := h 0 (List.mem_cons_self ..)
    cases hc; exact absurd hn (by decide)
  · obtain ⟨c, hc, hn⟩ := h 0 (List.mem_cons_self ..)
    cases hc; exact absurd hn (by decide)

theorem witness_BlockAndModeWords : ∃ (a b : BitVec 8) (v : BitVec 7) (m : BitVec 16) (s : State) (g : Nat) (gr : Group), Acts s g gr ∧ s.cur.hix = none ∧
    (a = 255 ∨ a.toNat < s.blocksOf gr) ∧ (b = 255 ∨ b.toNat < s.blocksOf gr) ∧ b ≠ 255 ∧ Declared gr [v] ∧
    (∀ i ∈ s.cur.act, ((gr.lane i).rd v.toNat).toNat = 255 ∨ ((gr.lane i).rd v.toNat).toNat < s.blocksOf gr) ∧
    fmodeLegal m.toNat = true ∧ (∀ i ∈ s.cur.act, fmodeLegal (((gr.lane i).rd v.toNat).toNat % 65536) = true) :=
  ⟨255, 0, 15, 0x1FC, byGroup grp1 [0], 0, grp1, acts (by decide), rfl, by decide, by decide, by decide, declared (by decide),
   by decide, by decide, by decide⟩

theorem witness_HintWords : ∃ (m : BitVec 8) (s : State) (g : Nat) (gr : Group), Issues s g gr ∧ s.cur.hix = none ∧ m.toNat < 2 ^ gr.members.length :=
  ⟨1, byGroup grp1 [], 0, grp1, issues, rfl, by decide⟩

theorem witness_ParkingWords : ∃ (s : State) (g : Nat) (gr : Group), Issues s g gr ∧ s.cur.hix = none ∧ s.cur.act ≠ [] ∧ gr.stop = .run :=
  ⟨byGroup grp1 [0], 0, grp1, issues, rfl, by decide, rfl⟩

theorem witness_SpecialRegisterWords : ∃ (d : BitVec 7) (e e' : BitVec 8) (s : State) (g : Nat) (gr : Group), Acts s g gr ∧ s.cur.hix = none ∧
    srPerLane e.toNat = true ∧ srPerLane e'.toNat = false ∧ Declared gr [d] :=
  ⟨15, 0x13, 0x22, byGroup grp1 [0], 0, grp1, acts (by decide), rfl, by decide, by decide, declared (by decide)⟩

/-- The last word of a 4,096-byte window by v8; s1 = 4,088. -/
def grpM : Group := { grp [lane [0, 0, 0, 0, 0, 0, 0, 0, 4092]] [4088, 16, 4081] [Cap.null, cap 64 4096, cap 64 4096 2] with regs := 16 }

theorem witness_LaneMemoryWordPerforms : ∃ i s g gr w, Acts s g gr ∧ laneWordOf s.cur.hix i = some w ∧ (∀ r ∈ w.regs, Fits gr r) ∧
    (let c := gr.rk w.cap.toNat
     (∀ n ∈ s.cur.act, ¬ BadAlign c (laneOffset gr w n) w.size ∧ ¬ BadBound c (laneOffset gr w n) w.size) ∧
     c.rights &&& w.need = w.need ∧ c.wellFormed = true) :=
  ⟨.atom false 14 1 8 .cas .device, byGroup grpM [0], 0, grpM, _, acts (by decide), rfl, by unfold Fits; decide,
   by unfold BadAlign BadBound; decide, by decide, by decide⟩

theorem witness_SingleMemoryWordPerforms :
    (∃ i s g gr w, Acts s g gr ∧ onceWordOf gr s.cur.hix i = some w ∧ OncePasses gr w) ∧
    (∃ i s g gr w, Acts s g gr ∧ syncWordOf gr s.cur.hix i = some w ∧ OncePasses gr w) :=
  ⟨⟨.stsB64 false 2 1 1 0, byGroup grpM [0], 0, grpM, _, acts (by decide), rfl, by unfold OncePasses BadAlign BadBound; decide⟩,
   ⟨.bars false 2 1 .device 1, byGroup grpM [0] (some 0x1FFFFFF), 0, grpM, _, acts (by decide), rfl,
    by unfold OncePasses BadAlign BadBound; decide⟩⟩

/-- Lane 0 within the window, lane 1 at an odd offset, lane 2 beyond; k1 whole, k2 without R, k3 of no kind. -/
def grpC : Group := { grp ([4092, 4093, 4096].map fun x => lane [0, 0, 0, 0, 0, 0, 0, 0, x]) [4088, 4096]
  [Cap.null, cap 64 4096, mkCap 1 126 1 64 4096, cap 64 4096 9] with regs := 16 }
theorem witness_MemoryWordChecks :
    let ld := fun (k : BitVec 4) => Instr.ld false 4 k 8 .b32 0
    let meets := fun (k : BitVec 4) (act : List Nat) (a b r : Bool) => ∃ w, Acts (byGroup grpC act) 0 grpC ∧
      laneWordOf none (ld k) = some w ∧ (∀ r ∈ w.regs, Fits grpC r) ∧
      (let c := grpC.rk w.cap.toNat
       let off := laneOffset grpC w
       ((act.filter fun n => misaligned c (off n) w.size) ≠ [] ↔ a = true) ∧
       ((act.filter fun n => decide (off n < 0 ∨ (c.len : Int) < off n + w.size)) ≠ [] ↔ b = true) ∧
       (c.rights &&& w.need ≠ w.need ↔ r = true) ∧ (r = false → a = false → b = false → c.wellFormed = false))
    meets 1 [0, 1, 2] true true false ∧ meets 1 [0, 2] false true false ∧ meets 2 [0] false false true ∧ meets 3 [0] false false false ∧
    (∃ i w, Acts (byGroup grpC [0]) 0 grpC ∧ onceWordOf grpC none i = some w ∧ ¬ OncePasses grpC w) ∧
    (∃ i w, Acts (byGroup grpC [0]) 0 grpC ∧ syncWordOf grpC none i = some w ∧ ¬ OncePasses grpC w) ∧
    (let good := fun (w : OnceWord) => ¬ BadAlign (grpC.rk w.cap.toNat) w.off w.size ∧ ¬ BadBound (grpC.rk w.cap.toNat) w.off w.size
     (∃ i w, onceWordOf grpC none i = some w ∧ good w ∧ (grpC.rk w.cap.toNat).rights &&& w.need ≠ w.need) ∧
     (∃ i w, syncWordOf grpC none i = some w ∧ good w ∧ (grpC.rk w.cap.toNat).rights &&& w.need = w.need ∧ (grpC.rk w.cap.toNat).wellFormed = true ∧
       (grpC.rk w.cap.toNat).kind ∉ w.kinds) ∧
     ∃ i w, onceWordOf grpC none i = some w ∧ good w ∧ (grpC.rk w.cap.toNat).rights &&& w.need = w.need ∧ (grpC.rk w.cap.toNat).wellFormed = false) := by
  refine ⟨⟨_, acts (by decide), rfl, ?_, ?_⟩, ⟨_, acts (by decide), rfl, ?_, ?_⟩, ⟨_, acts (by decide), rfl, ?_, ?_⟩,
    ⟨_, acts (by decide), rfl, ?_, ?_⟩, ⟨.ldsB64 false 1 1 2 0, _, acts (by decide), rfl, ?_⟩,
    ⟨.waitw false 3 1 1, _, acts (by decide), rfl, ?_⟩, ⟨.ldsB64 false 1 2 1 0, _, rfl, ?_, ?_⟩, ⟨.barr false 1 1 .device 1, _, rfl, ?_, ?_, ?_, ?_⟩,
    ⟨.ldsB64 false 1 3 1 0, _, rfl, ?_, ?_, ?_⟩⟩
  all_goals first
    | (unfold Fits; decide)
    | (unfold OncePasses BadAlign BadBound; decide)
    | (unfold BadAlign BadBound; decide)
    | decide

/-- A word of one lane has a sector, and an access that was there is beside the new ones. -/
theorem witness_SentWordWaitsForItsAccesses : ∃ (s : State) (gr : Group) (ps : List Piece) (j : Nat) (y : Nat × List Piece),
    (bySector (s.sectorShift gr.ctx 0) ps)[j]? = some y ∧ ∃ n, n ≤ s.nextId :=
  ⟨byGroup grpC [0], grpC, [⟨0, 64, 4, 0, 0⟩], 0, _, by rfl, 0, by decide⟩

theorem witness_CapabilityWord :
    (∃ i s g gr k e, Acts s g gr ∧ s.cur.hix = none ∧ capEffect (fun r => gr.rk r.toNat) (fun r => gr.rs r.toNat) i = some (k, e)) ∧
    (∃ i s t th k e, Runs s t th ∧ capEffect (fun r => th.rk r.toNat) (fun r => th.rl r.toNat) i = some (k, e)) ∧
    (∀ code ∈ [8, 10], ∃ i k, (∃ s g gr, Acts s g gr ∧ s.cur.hix = none ∧
        capEffect (fun r => gr.rk r.toNat) (fun r => gr.rs r.toNat) i = some (k, .stops code)) ∧
      ∃ s t th, Runs s t th ∧ capEffect (fun r => th.rk r.toNat) (fun r => th.rl r.toNat) i = some (k, .stops code)) :=
  ⟨⟨.kwin false 3 1 1 2, byGroup grpM [0], 0, grpM, _, _, acts (by decide), rfl, rfl⟩, ⟨.kget false 3 1 .len, byThread thr1, 0, thr1, _, _, runs, rfl⟩,
   fun code h => by
     simp only [List.mem_cons, List.not_mem_nil, or_false] at h
     rcases h with rfl | rfl
     · exact ⟨.kwin false 3 1 3 2, 1, ⟨byGroup grpM [0], 0, grpM, acts (by decide), rfl, by rfl⟩,
         byThread (thr [4088, 16, 4081] [Cap.null, cap 64 4096]), 0, _, runs, by rfl⟩
     · exact ⟨.krights false 3 0 2, 0, ⟨byGroup grpM [0], 0, grpM, acts (by decide), rfl, by rfl⟩,
         byThread (thr [4088, 16, 4081] [Cap.null, cap 64 4096]), 0, _, runs, by rfl⟩⟩

/-- A plain store on its way to its home. -/
def anAccess : Access := {
  op := 3, uid := 0, gidx := 0, group := 0, gid := 0, ctx := 0, core := 0, crew := 0, kind := 6, handle := 0, rights := 2, sector := 0
  pieces := [⟨0, 0, 4, 0, 0⟩], write := true, isAtom := false, plain := true, tag := none, stage := .toHome, flats := [0], res := [], urgent := false
  upgraded := false, ser := 0, watch := false, replays := 0, cpol := 0, strong := false }
/-- A store of the thread that its port has admitted. -/
def aPosted : Posted := ⟨0, 0, 0, 64, 4, 7, none, 0, 0, 64⟩
def holding : State := { byThread thr1 with posted := [(3, aPosted)], refresh := [(0, Config.bankOf 64)] }
theorem holding_held : holding.drainable 0 0 = false := by
  have h : holding.postedOf 0 0 = [(3, aPosted)] := by decide
  have b : bankAt 64 = some (0, Config.bankOf 64) := rfl
  simp [State.drainable, h, State.bankHeld, State.heldBank, aPosted, b, Option.filter, show holding.refresh = [(0, Config.bankOf 64)] from rfl]
theorem witness_FenceWord : (∃ s g gr, Acts s g gr ∧ s.cur.hix = none) ∧
    (∃ p q : BitVec 6, p ≠ 0 ∧ q.toNat &&& 0x33 ≠ 0) ∧ (∃ p q : BitVec 6, p ≠ 0 ∧ q ≠ 0 ∧ q.toNat &&& 0x33 = 0) ∧ (∃ p q : BitVec 6, p = 0 ∨ q = 0) ∧
    (∃ s t th, Runs s t th ∧ s.drainable (threadCore t) th.ctx = true ∧ s.posted ≠ []) ∧
    (∃ s t th, Runs s t th ∧ s.drainable (threadCore t) th.ctx = false) ∧ ∃ p q : BitVec 6, (p.getLsbD 1 && q.toNat &&& 3 != 0) = true :=
  ⟨⟨byGroup grpM [0], 0, grpM, acts (by decide), rfl⟩, ⟨2, 1, by decide, by decide⟩, ⟨2, 4, by decide, by decide, by decide⟩, ⟨0, 1, .inl rfl⟩,
   ⟨{ byThread thr1 with posted := [(3, aPosted)] }, 0, thr1, ⟨rfl, rfl⟩, by decide +kernel, List.cons_ne_nil _ _⟩,
   ⟨holding, 0, thr1, ⟨rfl, rfl⟩, holding_held⟩, 2, 1, by decide⟩

/-- k1 names bytes of a code arena; s1 = 4,088 and s2 = 8 reach its window's end. -/
def grpA : Group := { grp [lane []] [4088, 8] [Cap.null, cap 64 4096 6] with regs := 16 }
/-- The group's launch has DETERM set (R60). -/
def byDeterm (gr : Group) : State :=
  { byGroup gr [0] with launches := [(0, { placedLaunch with record := placedRecord.set 2 (dw (2 ^ 25 + 2 ^ 20 + 3 * 2 ^ 16 + 2 ^ 14 + 2)) })] }
theorem witness_InvalidateAndPrefetchWords :
    (∃ (k : BitVec 4) (a b : BitVec 5) (s : State) (g : Nat) (gr : Group), Acts s g gr ∧ s.cur.hix = none ∧ gr.role = .general ∧
      (let c := gr.rk k.toNat
       (gr.rs a.toNat).toNat + (gr.rs b.toNat).toNat ≤ c.len ∧ c.rights &&& 1 = 1 ∧ c.wellFormed = true ∧ c.kind = 6)) ∧
    (∃ (v : BitVec 7) (s : State) (g : Nat) (gr : Group), Acts s g gr ∧ s.cur.hix = none ∧ Declared gr [v]) ∧
    ((byDeterm grpA).serialLaunch grpA.crew).isSome = true :=
  ⟨⟨1, 1, 2, byGroup grpA [0], 0, grpA, acts (by decide), rfl, rfl, by decide, by decide, by decide, by decide⟩,
   ⟨15, byGroup grpA [0], 0, grpA, acts (by decide), rfl, declared (by decide)⟩, by decide⟩


/-- A capability of the arena; l1 = 0xFF0, the last granule of its window. -/
def thrK : Thread := thr [0xFF0] [mkCap 0 127 6 0x1000 0x1000]
/-- What ThreadMemoryWordPerforms asks of an access at window offset off. -/
def ThreadReady (off : Int) (n need : Nat) : Prop :=
  let s := kept (byThread thrK)
  let c := thrK.rk 0
  ∃ f, ¬ BadAlign c off n ∧ ¬ BadBound c off n ∧ c.rights &&& need = need ∧ c.wellFormed = true ∧
    s.portEntry (portOf (threadCore 0)) thrK.ctx c.handle c.kind need ((c.low : Int) + off).toNat n = (s, some arena) ∧
    judge s.mem (some arena) c.kind need ((c.low : Int) + off).toNat n = .at_ f ∧
    s.hostFails f = false ∧ s.peerFails f = false ∧
    s.tableBank (portOf (threadCore 0)) thrK.ctx c.handle c.kind need ((c.low : Int) + off).toNat n = none ∧
    s.rangeBank f n = none ∧ (need = 1 → s.readWaits f = false) ∧
    s.watchHits thrK.ctx c.handle ((c.low : Int) + off).toNat n (need &&& 2 ≠ 0) = []
theorem threadReady {off : Int} {o n need : Nat} (ho : (((thrK.rk 0).low : Int) + off).toNat = o)
    (ha : ¬ (off % (n : Int) ≠ 0 ∨ (((thrK.rk 0).low : Int) + off) % (n : Int) ≠ 0)) (hb : ¬ (off < 0 ∨ (((thrK.rk 0).len : Int) < off + n)))
    (hr : (thrK.rk 0).rights &&& need = need) (hf : portFails (kept (byThread thrK)).mem (some arena) 6 need o n = [])
    (hj : judge (kept (byThread thrK)).mem (some arena) 6 need o n = .at_ o) (hp : o < capBase) : ThreadReady off n need := by
  have e : (kept (byThread thrK)).portEntry 0 0 0 6 need o n = (kept (byThread thrK), some arena) :=
    portEntry_kept (c := placedContext) rfl (by rfl) (by rfl) hf rfl
  have e' : (kept (byThread thrK)).portEntry (portOf (threadCore 0)) thrK.ctx (thrK.rk 0).handle (thrK.rk 0).kind need o n = _ := e
  refine ⟨o, ha, hb, hr, by decide, ?_, ?_, ?_, ?_, rfl, rfl, fun _ => readWaits_none rfl, rfl⟩
  · rw [ho, e']
  · rw [ho]; exact hj
  · have : ¬ hostBase ≤ o := by have : capBase < hostBase := by decide
                                omega
    simp [State.hostFails, this]
  · have : ¬ peerBase ≤ o := by have : capBase < peerBase := by decide
                                omega
    simp [State.peerFails, State.peerDown, this]
theorem witness_ThreadMemoryWordPerforms : Runs (kept (byThread thrK)) 0 thrK ∧
    ThreadReady 0xFF8 1 1 ∧ ThreadReady 0xFF8 2 1 ∧ ThreadReady 0xFF8 4 1 ∧ ThreadReady 0xFF8 8 1 ∧
    ThreadReady 0xFF8 1 2 ∧ ThreadReady 0xFF8 2 2 ∧ ThreadReady 0xFF8 4 2 ∧ ThreadReady 0xFF8 8 2 ∧
    ThreadReady 0xFF0 16 1 ∧ ThreadReady 0xFF0 16 66 := by
  refine ⟨⟨rfl, rfl⟩, ?_, ?_, ?_, ?_, ?_, ?_, ?_, ?_, ?_, ?_⟩ <;>
    exact threadReady rfl (by decide) (by decide) (by decide) (by decide) (by decide) (by decide)

/-! Matrix words: tiles of BF16, of bits and with a scale plane, an empty tile; a bound and an unbound accumulator; s1 a legal TCTL. -/
def bf16 : DWord := 0x00005F07000000F2
def crewM : Crew := { placedCrew with
  tiles := [⟨bf16, [], []⟩, ⟨8, [], []⟩, ⟨2 ^ 52 + 1, [], []⟩, ⟨0, [], []⟩], accs := [⟨some (0, 0), []⟩, ⟨none, []⟩] }
def grpT : Group := { grp [lane []] [bf16, 16, 64] [Cap.null, mkCap 0 127 6 64 4096] with regs := 16 }
def byMatrix (gr : Group) : State := { byGroup gr [0] with crews := [(0, crewM)] }
theorem matrix (ts : List (BitVec 4)) (as : List (BitVec 3)) (ht : ∀ t ∈ ts, t.toNat < 4) (ha : ∀ a ∈ as, a.toNat < 2) :
    Matrix (byMatrix grpT) 0 grpT ts as :=
  ⟨⟨⟨rfl, rfl⟩, (by decide : [0] ≠ [])⟩, rfl, .inr rfl, fun t h => ⟨crewM, rfl, ht t h⟩, fun a h => ⟨crewM, rfl, ha a h⟩⟩

theorem witness_MatrixWordQueued :
    let s := byMatrix grpT
    (∃ t a, Matrix s 0 grpT [t] [] ∧ grpT.rs a = 0) ∧ (∃ t a, Matrix s 0 grpT [t] [] ∧ tctlLegal (grpT.rs a) = true) ∧
    (∃ d a, Matrix s 0 grpT [] [d] ∧ (grpT.rs a).toNat % 32 = 0 ∧ (grpT.rs a).toNat < grpT.lanes.length) ∧
    (∃ d a b h, Matrix s 0 grpT [a, b] [d] ∧ s.tctlNow grpT.crew a.toNat ≠ 0 ∧ s.tctlNow grpT.crew b.toNat ≠ 0 ∧
      mmaPair (s.tctlNow grpT.crew a.toNat) (s.tctlNow grpT.crew b.toNat) h = true ∧ s.boundTo grpT d.toNat = true ∧
      ∀ i ∈ s.cur.act, ∀ j ∈ s.cur.act, (grpT.lane i).fmode &&& 31 = (grpT.lane j).fmode &&& 31) ∧
    (∃ d a b, Matrix s 0 grpT [a, b] [d] ∧ s.tctlNow grpT.crew a.toNat ≠ 0 ∧ s.tctlNow grpT.crew b.toNat ≠ 0 ∧
      (tDesc (s.tctlNow grpT.crew a.toNat)).fmt = 8 ∧ (tDesc (s.tctlNow grpT.crew b.toNat)).fmt = 8 ∧ s.boundTo grpT d.toNat = true) ∧
    (∃ d v, Matrix s 0 grpT [] [d] ∧ s.boundTo grpT d.toNat = true ∧ Declared grpT [v]) ∧
    (∃ (t k : BitVec 4) (a b : BitVec 5) (p : Part), Matrix s 0 grpT [t] [] ∧
      (let tc := s.tctlNow grpT.crew t.toNat
       let c := grpT.rk k.toNat
       let sa := (grpT.rs a.toNat).toNat
       let sb := (grpT.rs b.toNat).toNat
       tc ≠ 0 ∧ (p = .data ∨ tScm tc = true) ∧ sa % 16 = 0 ∧ sb % 16 = 0 ∧ c.low % 16 = 0 ∧
       (∀ i < tRows tc, sa + i * sb + partBytes tc p ≤ c.len) ∧ c.wellFormed = true ∧ c.rights &&& 1 = 1 ∧ c.rights &&& 2 = 2)) ∧
    (∃ (t : BitVec 4) (p : Part), Matrix s 0 grpT [t] [] ∧ p ≠ .data ∧ tScm (s.tctlNow grpT.crew t.toNat) = true) :=
  ⟨⟨3, 0, matrix _ _ (by decide) (by decide), by decide⟩, ⟨3, 1, matrix _ _ (by decide) (by decide), by decide⟩,
   ⟨1, 0, matrix _ _ (by decide) (by decide), by decide, by decide⟩,
   ⟨0, 0, 0, .chunk, matrix _ _ (by decide) (by decide), by decide, by decide, by decide, by decide, by decide⟩,
   ⟨0, 1, 1, matrix _ _ (by decide) (by decide), by decide, by decide, by decide, by decide, by decide⟩,
   ⟨0, 15, matrix _ _ (by decide) (by decide), by decide, declared (by decide)⟩,
   ⟨0, 1, 2, 3, .data, matrix _ _ (by decide) (by decide), by decide, by decide, by decide, by decide, by decide, by decide, by decide,
    by decide, by decide⟩,
   ⟨2, .both, matrix _ _ (by decide) (by decide), by decide, by decide⟩⟩

theorem witness_MatrixShapeTraps :
    (∃ d a b, Matrix (byMatrix grpT) 0 grpT [a, b] [d] ∧ (byMatrix grpT).boundTo grpT d.toNat = false ∧
      (byMatrix grpT).tctlNow grpT.crew a.toNat = 0 ∧ ∃ v, Declared grpT [v]) ∧
    (∃ d a b, Matrix (byMatrix grpT) 0 grpT [a, b] [d] ∧ (byMatrix grpT).boundTo grpT d.toNat = true ∧
      (byMatrix grpT).tctlNow grpT.crew b.toNat = 0) :=
  ⟨⟨1, 3, 0, matrix _ _ (by decide) (by decide), by decide, by decide, 15, declared (by decide)⟩,
   ⟨0, 0, 3, matrix _ _ (by decide) (by decide), by decide, by decide⟩⟩

/-! Copy words: s1 on are the parameters; 16 bytes of k1 to k2, with a completion at k3; an index list in k1. -/
def grpK (ps : List DWord) : Group := { grp [lane []] ps [Cap.null, cap 0 4096, cap 4096 4096, cap 0 64 2] with regs := 16 }
def linPs : List DWord := [0x1000_6428 + 8, 0x30, 0x38, 7]
def tenPs : List DWord := [0x420, 0x30, 0x38, 0, 2 * 2 ^ 32 + 4 * 2 ^ 8 + 2, 16, 16, 0]
def redPs : List DWord := [0x10000420, 0x30, 0x38, 0, 0]
def gatPs : List DWord := [0x420, 0x40, 0x40, 0, 2 ^ 44 + 0x10, 2 * 2 ^ 32 + 3]
theorem witness_CopyWordAccepted :
    let plain := fun (ps : List DWord) (c : State → Nat → Group → Copy) =>
      Acts (byGroup (grpK ps) [0]) 0 (grpK ps) ∧ (byGroup (grpK ps) [0]).cur.hix = none ∧ (grpK ps).role = .general ∧
        (let x := c (byGroup (grpK ps) [0]) 0 (grpK ps)
         x.reserved = false ∧ x.extentFault (listCap (grpK ps) x) = none ∧ (byGroup (grpK ps) [0]).lateFault x = none)
    plain linPs (fun s g gr => mkCopy s g gr 0 4 1 .none .addS32) ∧ plain tenPs (fun s g gr => mkCopy s g gr 1 8 1 .transpose .addS32) ∧
    plain redPs (fun s g gr => mkCopy s g gr 4 5 1 .none .addF32) ∧ plain gatPs (fun s g gr => mkCopy s g gr 2 6 1 .none .addS32) ∧
    plain gatPs (fun s g gr => mkCopy s g gr 3 6 1 .none .addS32) ∧
    (∀ fn < 5, (mkCopy (byGroup (grpK [0x20420]) [0]) 0 (grpK [0x20420]) fn 8 1 .none .addS32).reserved = true) :=
  ⟨⟨acts (by decide), rfl, rfl, by decide, by decide, by decide⟩, ⟨acts (by decide), rfl, rfl, by decide, by decide, by decide⟩,
   ⟨acts (by decide), rfl, rfl, by decide, by decide, by decide⟩, ⟨acts (by decide), rfl, rfl, by decide, by decide, by decide⟩,
   ⟨acts (by decide), rfl, rfl, by decide, by decide, by decide⟩, by decide⟩

theorem witness_BranchAndJumpWords : Runs (byThread thr1) 0 thr1 ∧
    (∃ p o, branchOf (fun r => thr1.rl r.toNat) (.beq false 1 1 0x7FF) = some (p, o) ∧ p) ∧
    (∃ p o, branchOf (fun r => thr1.rl r.toNat) (.bgeN false 1 2 0x800) = some (p, o) ∧ ¬ p) ∧
    (thr1.rl 0).toNat % 4 = 0 ∧ (thr1.rl 2).toNat % 4 ≠ 0 :=
  ⟨runs, ⟨_, _, rfl, by decide⟩, ⟨_, _, rfl, by decide⟩, by decide, by decide⟩

/-- The group that l0 names for thread 0. -/
theorem refers {th : Thread} {gr : Group} (hc : gr.ctx = th.ctx) : Refers (byThread th gr) 0 th 0 0 gr := ⟨rfl, rfl, rfl, hc⟩
def grpQ (isOpen : Bool) (n : Nat) (stop : Stop) : Group := { grp [lane []] with isOpen := isOpen, queue := List.replicate n ⟨0, 0⟩, stop := stop }
theorem witness_EmitWords :
    let meets := fun (gr : Group) (stopped : Bool) => Runs (byThread thr1 gr) 0 thr1 ∧ Refers (byThread thr1 gr) 0 thr1 (thr1.rl 0) 0 gr ∧
      ((gr.stop = .trapping ∨ gr.stop = .trapped ∨ gr.stop = .halted) ↔ stopped = true)
    (meets (grpQ true 31 .run) false ∧ (grpQ true 31 .run).isOpen = true ∧ (grpQ true 31 .run).liveQueue.length < 32) ∧
    meets (grpQ true 0 .halted) true ∧
    (meets (grpQ true 32 .run) false ∧ (grpQ true 32 .run).isOpen = true ∧ 32 ≤ (grpQ true 32 .run).liveQueue.length) ∧
    (meets (grpQ false 0 .halting) false ∧ (grpQ false 0 .halting).isOpen = false) :=
  ⟨⟨⟨runs, refers rfl, by decide⟩, by decide, by decide⟩, ⟨runs, refers rfl, by decide⟩, ⟨⟨runs, refers rfl, by decide⟩, by decide, by decide⟩,
   ⟨runs, refers rfl, by decide⟩, by decide⟩

/-- A thread that composes station words for kernel 0 of object 1: l1 the set of block 0 alone, l2 the kernel's key. -/
def thrB (ws : List Word) : Thread := { thr [0x0100000000000000, 0x100] with buf := some ⟨1, 0, [0], ws⟩ }
theorem storeFull (ws : List Word) (hw : ws.length = 262144) : (byThread (thrB ws)).makeRoom 0 1 0 = none := by
  have h : (byThread (thrB ws)).storeUsed 0 = 0 + 0 + (0 + ws.length) := rfl
  simp [State.makeRoom, h, hw]
def thrOpen : Thread := thr [0xFFFFFFFFFFFFFF00, 0x100]
def thrNew (ws : List Word) : Thread := { thrOpen with buf := some ⟨1, 0, [1], ws⟩ }
/-- A thread with a compose request 5 that l1 names. -/
def thrAsked : Thread := { thr [5] with reqs := [⟨5, 1, 0, [0], []⟩] }
/-- A thread whose buffer answers that request. -/
def thrServes : Thread := { thrAsked with buf := some ⟨1, 0, [0], [0x70C00000]⟩ }
theorem witness_CompositionWords :
    (Runs (byThread thrOpen) 0 thrOpen ∧ thrOpen.buf = none ∧ thrOpen.reqs = [] ∧
      ∃ k, (byThread thrOpen).kernelOf thrOpen.ctx ((thrOpen.rl 2).toNat / 256) ((thrOpen.rl 2).toNat % 256) = some k ∧
        (let set := setBlocks (thrOpen.rl 1)
         set ≠ [] ∧ set.Nodup ∧ ∀ x ∈ set, x < k.nb)) ∧
    (Runs (byThread (thrNew [0x70C00000])) 0 (thrNew [0x70C00000]) ∧ (thrNew [0x70C00000]).buf = some ⟨1, 0, [1], [0x70C00000]⟩ ∧
      (∃ s1, (byThread (thrNew [0x70C00000])).makeRoom 0 1 0 = some s1) ∧ (thrNew [0x70C00000]).rl 0 = 0 ∧ (thrNew [0x70C00000]).reqs = [] ∧
      endsInVote [0x70C00000] = true ∧
      (let tt := (byThread (thrNew [0x70C00000])).timetable 0 0 1 0
       (∀ x ∈ tt, sortNat x.set ≠ [1]) ∧ tt.length < 1024)) ∧
    (Runs (byThread (thrB (List.replicate 262144 0))) 0 (thrB (List.replicate 262144 0)) ∧
      (byThread (thrB (List.replicate 262144 0))).store.length = 0 ∧ (byThread (thrB (List.replicate 262144 0))).makeRoom 0 1 0 = none) ∧
    (Runs (byThread thrServes) 0 thrServes ∧ ∃ bf r, thrServes.buf = some bf ∧ thrServes.reqs.find? (fun r => r.id == (thrServes.rl 1).toNat) = some r ∧
      r.isFor bf = true ∧ endsInVote bf.words = true) ∧
    (Runs (byThread thrAsked) 0 thrAsked ∧ ∃ r, thrAsked.rl 1 ≠ 0 ∧ thrAsked.reqs.find? (fun r => r.id == (thrAsked.rl 1).toNat) = some r) :=
  ⟨⟨runs, rfl, rfl, _, rfl, by decide, by decide, by decide⟩, ⟨runs, rfl, ⟨_, rfl⟩, rfl, rfl, by decide, by decide, by decide⟩,
   ⟨runs, rfl, storeFull _ (List.length_replicate ..)⟩, ⟨runs, _, _, rfl, rfl, by decide, by decide⟩, runs, _, by decide, rfl⟩

/-- An event at the head of the queue; a record taken. -/
def thrE : Thread := { thr [100] with queue := [⟨[0x0100000000000000], 0, false, none⟩], taken := some [1, 2, 3] }
theorem witness_EventWords : (Runs (byThread thrE) 0 thrE ∧ (∃ e r, thrE.queue = e :: r ∧ e.mark = false) ∧ ∃ ws, thrE.taken = some ws) ∧
    (Runs (byThread thr1) 0 thr1 ∧ thr1.queue = [] ∧ thr1.taken = none) :=
  ⟨⟨runs, ⟨_, _, rfl, rfl⟩, _, rfl⟩, runs, rfl, rfl⟩

/-- A group parked on UNDEF; one halted; one whose trap is of no word of its own. -/
def undefTrap : Trap := trapOf grp1 (byGroup grp1 [0]).cur 1 0 [0] [0] 7 0 0
def grpTrapped : Group := { grp1 with stop := .trapped, trap := some undefTrap }
theorem witness_ParkedGroupWords :
    (Runs (byThread thr1 grpTrapped) 0 thr1 ∧ Refers (byThread thr1 grpTrapped) 0 thr1 (thr1.rl 0) 0 grpTrapped ∧ Parked grpTrapped ∧
      grpTrapped.stop = .trapped ∧ ∀ r, grpTrapped.trap = some r → r.debug = false) ∧
    (Runs (byThread thr1 grp1) 0 thr1 ∧ Refers (byThread thr1 grp1) 0 thr1 (thr1.rl 0) 0 grp1 ∧ grp1.stop = .run ∧
      (∀ x y, grp1.wait ≠ .fuse x y ∧ grp1.wait ≠ .compose x y) ∧ grp1.trap = none) :=
  ⟨⟨runs, refers rfl, .inl rfl, rfl, fun _ h => by cases h; rfl⟩, runs, refers rfl, rfl, fun _ _ => ⟨fun h => Wait.noConfusion (show Wait.none = _ from h), fun h => Wait.noConfusion (show Wait.none = _ from h)⟩, rfl⟩

theorem witness_ReturnFromTrap :
    (grpTrapped.stop = .trapped ∧ grpTrapped.trap = some undefTrap ∧ undefTrap.noWord = false) ∧
    ({ grp1 with stop := .halted } : Group).stop = .halted ∧
    ({ grpTrapped with trap := some (siblingTrap grp1) } : Group).stop = .trapped ∧ (siblingTrap grp1).noWord = true :=
  ⟨⟨rfl, rfl, by decide⟩, rfl, rfl, by decide⟩

/-- Three groups: two of crew 0, one of crew 1. -/
def threeGroups (c : Crew) : State := { byGroup grp1 [0] with
  groups := [(0, grp1), (1, { grp1 with gid := 1, gidx := 1 }), (2, { grp1 with gid := 2, crew := 1 })], crews := [(0, { c with groups := [0, 1] })] }
theorem witness_TakingATrap : classOf 8 = 1 ∧ classOf 3 ≠ 1 ∧
    (∃ s g gr c, State.group? s g = some gr ∧ gr.stop = .run ∧ s.crew? gr.crew = some c ∧ (∀ h, c.halt = some h → h.sent = true) ∧
      (∃ h x, h ≠ g ∧ s.group? h = some x ∧ x.crew = gr.crew ∧ x.stop = .run) ∧ ∃ h x, h ≠ g ∧ s.group? h = some x ∧ x.crew ≠ gr.crew) ∧
    (∃ s g gr c, State.group? s g = some gr ∧ gr.stop = .run ∧ s.crew? gr.crew = some c ∧ ∃ h, c.halt = some h ∧ h.sent = false) :=
  ⟨by decide, by decide,
   ⟨threeGroups placedCrew, 0, grp1, _, rfl, rfl, rfl, (fun _ h => by cases h), ⟨1, _, by decide, rfl, rfl, rfl⟩, 2, _, by decide, rfl, by decide⟩,
   ⟨threeGroups { placedCrew with halt := some ⟨0, undefTrap, false, false⟩ }, 0, grp1, _, rfl, rfl, rfl, _, rfl, rfl⟩⟩

/-- A launch record at window offset 0x40 of the arena, behind the placed word. -/
def thrL (n : Nat) : Thread := { thr [0x40] [mkCap 0 127 6 0 0xC0] with dlq := List.replicate n ⟨0, 0, placedRecord⟩ }
theorem witness_LaunchWord :
    let meets := fun n => ∃ f,
      let s := kept (byThread (thrL n))
      let c := (thrL n).rk 0
      let off := ((thrL n).rl 1).toNat
      let o := c.low + off
      let p := s.portEntry (portOf (threadCore 0)) (thrL n).ctx c.handle c.kind 1 o 128
      Runs s 0 (thrL n) ∧ off % 64 = 0 ∧ off + 128 ≤ c.len ∧ c.rights &&& 1 = 1 ∧ c.wellFormed = true ∧
        (∃ f, s.recordPage (thrL n).ctx c o = .at_ f) ∧ p.1 = s ∧ judge s.mem p.2 c.kind 1 o 128 = .at_ f ∧
        s.tableBank (portOf (threadCore 0)) (thrL n).ctx c.handle c.kind 1 o 128 = none ∧
        s.hostFails f = false ∧ s.peerFails f = false ∧ s.rangeBank f 128 = none ∧ s.readWaits f = false ∧
        s.watchHits (thrL n).ctx c.handle o 128 false = [] ∧ (thrL n).stopped = false ∧ s.drainable 0 (thrL n).ctx = true ∧
        ∀ x ∈ s.postedOf 0 (thrL n).ctx, s.peerDown x.2.flat = false
    (meets 15 ∧ (thrL 15).dlq.length < 16) ∧ (meets 16 ∧ 16 ≤ (thrL 16).dlq.length) := by
  have e : ∀ n, (kept (byThread (thrL n))).portEntry 0 0 0 6 1 64 128 = (kept (byThread (thrL n)), some arena) := fun n =>
    portEntry_kept (c := placedContext) rfl (show entryAt (State.reset.placed 0).mem placedContext 0 = some arena by decide) rfl
      (show portFails (State.reset.placed 0).mem (some arena) 6 1 64 128 = [] by decide) rfl
  refine ⟨⟨⟨64, ⟨rfl, rfl⟩, by decide, by decide, by decide, by decide, ⟨191, by rfl⟩, ?_, ?_, rfl, by decide, by decide, rfl, readWaits_none rfl, rfl, rfl, rfl, fun _ h => by cases h⟩, by decide⟩,
    ⟨64, ⟨rfl, rfl⟩, by decide, by decide, by decide, by decide, ⟨191, by rfl⟩, ?_, ?_, rfl, by decide, by decide, rfl, readWaits_none rfl, rfl, rfl, rfl, fun _ h => by cases h⟩, by decide⟩
  · exact congrArg Prod.fst (e 15)
  · exact (congrArg (fun x : State × Option Entry => judge (State.reset.placed 0).mem x.2 6 1 64 128) (e 15)).trans (by decide)
  · exact congrArg Prod.fst (e 16)
  · exact (congrArg (fun x : State × Option Entry => judge (State.reset.placed 0).mem x.2 6 1 64 128) (e 16)).trans (by decide)

/-- A group at its vote: its live lanes in the blocks given, in a pass of a cover or in none. -/
def grpV (blks : List (BitVec 8)) (pass : Nat) (cover : List Sta) : Group :=
  { grp (blks.map fun b => { lane [] with blk := b }) with pass := pass, cover := cover }
/-- A group whose set has no station, where its launch, kernel and thread let it be composed; the thread has these requests. -/
def offers (rs : List Request) : State :=
  { byGroup (grpV [0, 1] 0 []) [] with
    ctxs := [(0, { placedContext with objs := [{ placedObject with kernels := [{ placedKernel with nb := 2, compose := some 0 }] }] })]
    launches := [(0, { placedLaunch with record := placedRecord.set 2 (dw (2 ^ 25 + 2 ^ 20 + 3 * 2 ^ 16 + 2 ^ 14 + 1)) })]
    threads := [(0, { placedThread with reqs := rs })] }
theorem witness_VoteWord :
    let s := fun gr => byGroup gr []
    let set := fun gr => dropHolds (match (s gr).kernelOfGroup gr with
      | none => []
      | some k => k.hold) gr.voteSet
    (∀ pass ∈ [0, 2], ∃ gr, Issues (s gr) 0 gr ∧ (s gr).cur.hix = none ∧ gr.pass = pass ∧ gr.cover = [] ∧ gr.voteSet = []) ∧
    (∀ pass ∈ [0, 2], ∃ gr x, Issues (s gr) 0 gr ∧ gr.pass = pass ∧ gr.cover = [] ∧ gr.voteSet ≠ [] ∧ ((s gr).tableOf gr).find? (fun x => sortNat x.set == set gr) = some x) ∧
    (∀ pass ∈ [0, 2], ∃ gr, Issues (s gr) 0 gr ∧ gr.pass = pass ∧ gr.cover = [] ∧ gr.voteSet ≠ [] ∧ (∀ x ∈ (s gr).tableOf gr, sortNat x.set ≠ set gr) ∧
      ∀ l, (s gr).launchOf gr = some l → l.compose = false) ∧
    (∀ rs ∈ [[], [(⟨5, 1, 0, [0, 1], [9]⟩ : Request)]], ∃ l t th k, Issues (offers rs) 0 (grpV [0, 1] 0 []) ∧ (grpV [0, 1] 0 []).pass = 0 ∧
      (grpV [0, 1] 0 []).voteSet = [0, 1] ∧ (offers rs).kernelOfGroup (grpV [0, 1] 0 []) = some k ∧ k.hold = [] ∧ k.compose.isSome = true ∧
      (∀ x ∈ (offers rs).tableOf (grpV [0, 1] 0 []), sortNat x.set ≠ [0, 1]) ∧ (offers rs).launchOf (grpV [0, 1] 0 []) = some l ∧ l.compose = true ∧
      (offers rs).threadOf ((offers rs).coreOf (grpV [0, 1] 0 [])) 0 = some t ∧ (offers rs).thread? t = some th ∧
      (th.reqs.find? fun r => r.codeid == l.codeid && r.kernel == l.kernel && r.set == [0, 1]).isSome = !rs.isEmpty) ∧
    (∃ gr x r, Issues (s gr) 0 gr ∧ gr.pass ≠ 0 ∧ gr.cover = x :: r) :=
  ⟨fun p _ => ⟨grpV [255] p [], issues, rfl, rfl, rfl, by rfl⟩, fun p _ => ⟨grpV [0, 255] p [], _, issues, rfl, rfl, by decide +revert, by rfl⟩,
   fun p _ => ⟨grpV [0, 1] p [], issues, rfl, rfl, by decide +revert, by decide +revert, fun l h => by cases h; decide⟩,
   fun rs h => by
     simp only [List.mem_cons, List.not_mem_nil, or_false] at h
     rcases h with rfl | rfl <;>
       exact ⟨_, _, _, _, ⟨rfl, rfl⟩, rfl, by decide, rfl, rfl, rfl, by decide, rfl, by decide, rfl, rfl, by decide⟩,
   ⟨grpV [0] 1 [⟨0, [0], none⟩], _, [], issues, by decide, rfl⟩⟩

/-! ### Steps of the memory path -/

/-- A word of lane 0 at object offset 0x1010 of the arena has left; port 0 keeps the object's entry. -/
def grpP : Group := { grp [lane [0, 5, 0, 0, 0, 0, 0, 0, 0x10]] [0x10, 1] [mkCap 0 127 6 0x1000 0x1000, mkCap 5 127 6 0x1000 0x1000] with regs := 16 }
def sent (i : Instr) (k : State → State := id) : State := next (exec i (k (kept (byGroup grpP [0]))))
def accOf (s : State) : Access := (tget s.accs 1).getD anAccess

def stP : State := sent (.st false 1 0 8 .b32 0)
def ldP : State := sent (.ld false 2 0 8 .b32 0)
/-- The object has 16 bytes only, and no port keeps its entry. -/
def short : Entry := ⟨6 * 2 ^ 60 + 0x7F * 2 ^ 52 + 2 ^ 40 + 15, 65536, 0, 0⟩
def cut : State := sent (.ld false 2 0 8 .b32 0) fun s => { s with otCache := [], mem := mputs s.mem tableBase (leBytes (6 * 2 ^ 60 + 0x7F * 2 ^ 52 + 2 ^ 40 + 15) 8) }
def atP : State := sent (.atom false 1 0 8 .add .device)

theorem judgeBank_none {s : State} {a : Access} (hr : s.refresh = []) : s.judgeBank a = none := tableBank_none hr
theorem lets {s : State} {a : Access} (ho : (s.ctx? a.ctx) = some placedContext) (he : entryAt s.mem placedContext a.handle = some arena)
    (hc : s.copyOf (portOf a.core) a.ctx a.handle = some arena)
    (hf : portFails s.mem (some arena) a.kind a.rights (Claims.lowest a) (behind a - Claims.lowest a) = [])
    (hk : s.keepCopy (portOf a.core) a.ctx a.handle arena = s) (hp : a.pieces ≠ [])
    (hj : ∀ p ∈ a.pieces, judge s.mem (some arena) a.kind a.rights p.off p.size = .at_ p.off)
    (hw : ∀ p ∈ a.pieces, s.watchHits a.ctx a.handle p.off p.size a.write = [])
    (hh : s.hostFails ((a.pieces.map Piece.off).headD 0) = false) (hq : s.peerFails ((a.pieces.map Piece.off).headD 0) = false)
    (hr : s.refresh = []) (hs : s.serialLaunch a.crew = none) (hg : s.joins a = none) : Lets s a arena Piece.off :=
  ⟨portEntry_kept ho he hc hf hk, hp, hj, hw, hh, hq, by simp [State.heldBank, hr], by rfl, hs, judgeBank_none hr, hg⟩

/-- An access that its port may take. -/
def AtPort (n : Nat) (s : State) (a : Access) : Prop :=
  tget s.accs n = some a ∧ s.portDue n a = true ∧ s.givesWay a = false ∧ memWf s.mem = true ∧ s.judgeBank a = none
theorem witness_PortAccessStep :
    (∃ (n : Nat) (s : State) (a : Access) (e : Entry) (flat : Piece → Nat), AtPort n s a ∧ Lets s a e flat ∧
      s.opKind a.op = .store ∧ a.write = true ∧ ∃ p, a.pieces = [p]) ∧
    (∃ (n : Nat) (s : State) (a : Access) (e : Entry) (flat : Piece → Nat), AtPort n s a ∧ Lets s a e flat ∧
      (s.opKind a.op).atomOp = none ∧ (∀ c w k, s.opKind a.op ≠ .arrive c w k) ∧ (∀ x v k, s.opKind a.op ≠ .register x v k) ∧
      a.write = false ∧ s.cachedSector a.core a.ctx (sectorOf ((a.pieces.map flat).headD 0)) = none) ∧
    (∃ (n : Nat) (s : State) (a : Access) (e : Entry) (flat : Piece → Nat) (size : Nat) (op : AtomOp) (vd : Nat) (ret : Bool) (p : Piece), AtPort n s a ∧ Lets s a e flat ∧
      s.opKind a.op = .atom size op vd ret ∧ a.pieces = [p]) ∧
    (∃ (n : Nat) (s : State) (a : Access), AtPort n s a ∧ a.pieces ≠ [] ∧
      s.portEntry (portOf a.core) a.ctx a.handle a.kind a.rights (Claims.lowest a) (behind a - Claims.lowest a) = (s, none)) ∧
    (∃ (n : Nat) (s : State) (a : Access) (e : Entry), AtPort n s a ∧ a.pieces ≠ [] ∧
      s.portEntry (portOf a.core) a.ctx a.handle a.kind a.rights (Claims.lowest a) (behind a - Claims.lowest a) = (s, some e) ∧
      ∀ p ∈ a.pieces, portFails s.mem (some e) a.kind a.rights p.off p.size ≠ []) ∧
    (∃ (n : Nat) (s : State) (a : Access) (e : Entry) (p : Piece) (r : List Piece) (pme : Nat), AtPort n s a ∧ a.pieces = p :: r ∧
      s.portEntry (portOf a.core) a.ctx a.handle a.kind a.rights (Claims.lowest a) (behind a - Claims.lowest a) = (s, some e) ∧
      (∀ p ∈ a.pieces, portFails s.mem (some e) a.kind a.rights p.off p.size = []) ∧
      (∀ p ∈ a.pieces, s.watchHits a.ctx a.handle p.off p.size a.write = []) ∧
      judge s.mem (some e) a.kind a.rights p.off p.size = .elsewhere pme) := by
  refine ⟨⟨1, stP, accOf stP, arena, Piece.off, ⟨by rfl, by decide, by decide, by decide, judgeBank_none rfl⟩, lets rfl ?_ rfl ?_ rfl ?_ ?_ ?_ ?_ ?_ rfl ?_ ?_, by rfl, by rfl, _, by rfl⟩,
    ⟨1, ldP, accOf ldP, arena, Piece.off, ⟨by rfl, by decide, by decide, by decide, judgeBank_none rfl⟩, lets rfl ?_ rfl ?_ rfl ?_ ?_ ?_ ?_ ?_ rfl ?_ ?_, by rfl,
      fun _ _ _ h => OpKind.noConfusion (show OpKind.ld .b32 2 = _ from h), fun _ _ _ h => OpKind.noConfusion (show OpKind.ld .b32 2 = _ from h), by rfl, by rfl⟩,
    ⟨1, atP, accOf atP, arena, Piece.off, _, _, _, _, _, ⟨by rfl, by decide, by decide, by decide, judgeBank_none rfl⟩, lets rfl ?_ rfl ?_ rfl ?_ ?_ ?_ ?_ ?_ rfl ?_ ?_, by rfl, by rfl⟩,
    ⟨1, sent (.ld false 2 1 8 .b32 0), accOf (sent (.ld false 2 1 8 .b32 0)), ⟨by rfl, by decide, by decide, by decide, judgeBank_none rfl⟩, by decide, by rfl⟩,
    ⟨1, cut, accOf cut, short, ⟨by rfl, by decide, by decide, by decide, judgeBank_none rfl⟩, by decide, by rfl, by decide⟩,
    ⟨1, sent (.ld false 2 0 8 .b32 0) fun s => { s with mem := mputs s.mem 65536 (leBytes (mkPme 1 0 7) 8) }, accOf ldP, arena, _, _, 65536, ⟨by rfl, by decide, by decide, by decide, judgeBank_none rfl⟩, by rfl,
      portEntry_kept (c := placedContext) rfl ?_ rfl ?_ rfl, ?_, ?_, ?_⟩⟩
  all_goals decide

/-- The same access at the home of a line whose tag holds a claim of the group in slot 1. -/
def atHome (s : State) : State :=
  { s with accs := [(1, { accOf s with stage := .toHome, flats := [0x1010] })], claims := [(0x40, ⟨false, (0xFFFFF, 0), (0xFFFFF, 0), (1, 0), 0⟩)]
           groups := s.groups ++ [(1, { grpP with gid := 1, uid := 9 })] }
/-- The line's tag: the claims of two reads and of a write, by slots and regions; the access of the group in slot 0 is checked. -/
def tagged (acc : State) (ovf : Bool) (rd0 rd1 wr : Nat × Nat) : State :=
  { atHome acc with claims := [(0x40, ⟨ovf, rd0, rd1, wr, 0⟩)] }
/-- A line of host memory without a tag, its directory full of this tag of the next line. -/
def hostLine : Nat := hostBase / 64
def fullOf (x : Claim) : State :=
  { atHome stP with accs := [(1, { accOf stP with stage := .toHome, flats := [hostBase] })], claims := List.replicate 262144 (hostLine + 1, x) }
def stale : Claim := ⟨false, (0xFFFFF, 0), (0xFFFFF, 0), (0xFFFFF, 0), 0⟩
def claimed : Claim := ⟨false, (0xFFFFF, 0), (0xFFFFF, 0), (1, 0), 0⟩
theorem full_here (x : Claim) : ((fullOf x).claims.filter fun y => directoryOf y.1 == some 8) = List.replicate 262144 (hostLine + 1, x) := by
  show (List.replicate 262144 (hostLine + 1, x)).filter (fun y => directoryOf y.1 == some 8) = _
  rw [List.filter_replicate, if_pos (by decide : (directoryOf (hostLine + 1) == some 8) = true)]
/-- A directory that holds one tag many times gives that tag up, whatever the tag holds. -/
theorem evicts_same {s : State} {d n : Nat} {x : Nat × Claim} (f : (s.claims.filter fun y => directoryOf y.1 == some d) = List.replicate (n + 1) x) :
    s.evictTag d = some x := by
  have same : ∀ n, (List.replicate n x).foldl (fun b x => match b with
      | none => some x
      | some y => if x.2.use < y.2.use then some x else some y) (some x) = some x := by
    intro n
    induction n with
    | zero => rfl
    | succ n h => rw [List.replicate_succ, List.foldl_cons]; simpa using h
  simp only [State.evictTag, f]
  split
  · next y h => rw [List.eq_of_mem_replicate (List.mem_of_find?_eq_some h)]
  · rw [List.replicate_succ, List.foldl_cons]; exact same n
theorem full_evicts (x : Claim) : (fullOf x).evictTag 8 = some (hostLine + 1, x) := evicts_same (n := 262143) (full_here x)

theorem witness_ClaimSteps :
    let free : Nat × Nat := (0xFFFFF, 0)
    let other : Nat × Nat := (1, 0)
    let own : Nat × Nat := (0, 0)
    let due := fun (s : State) (a : Access) (u : State) (c : Claim) => tget s.accs 1 = some a ∧ s.claimDue a = true ∧ s.givesWay a = false ∧
      Tagged s (a.flats.headD 0 / 64) u c
    let meets := fun (acc : State) (o : Bool) (rd0 rd1 wr : Nat × Nat) => ∃ a c, due (tagged acc o rd0 rd1 wr) a (tagged acc o rd0 rd1 wr) c ∧
      (c.ovf, c.rd0, c.rd1, c.wr) = (o, rd0, rd1, wr)
    (meets stP false free free other ∧ meets stP false other free free ∧ meets stP false free other free ∧ meets stP true free free own ∧
      meets ldP false own free free ∧ meets ldP false free free free ∧ meets ldP false other free free ∧ meets ldP false other other free) ∧
    (∀ f ∈ [sramBase, 0x1010], ∃ s a, due s a s stale ∧ tget s.claims (a.flats.headD 0 / 64) = none ∧ a.flats = [f]) ∧
    (∀ x ∈ [stale, claimed], ∃ s a u k, due s a u stale ∧ tget s.claims (a.flats.headD 0 / 64) = none ∧ s.evictTag 8 = some (k, x) ∧
      (Unclaimed s k x ↔ x = stale)) ∧
    (∃ (s : State) (a : Access), tget s.accs 1 = some a ∧ OfOther s a other ∧ OfOwn s a own ∧ ¬ OfOther s a own ∧ s.holder free = none) ∧
    (∃ (line : Nat) (s : State) (c : Claim), tget s.claims line = some c ∧ s.scrubbed c ≠ c) ∧
    (∃ (n : Nat) (s : State) (a : Access), tget s.accs n = some a ∧ s.urgencyDue a = true) := by
  refine ⟨⟨⟨_, _, ⟨rfl, by decide, by rfl, .inl ⟨rfl, rfl⟩⟩, rfl⟩, ⟨_, _, ⟨rfl, by decide, by rfl, .inl ⟨rfl, rfl⟩⟩, rfl⟩,
      ⟨_, _, ⟨rfl, by decide, by rfl, .inl ⟨rfl, rfl⟩⟩, rfl⟩, ⟨_, _, ⟨rfl, by decide, by rfl, .inl ⟨rfl, rfl⟩⟩, rfl⟩,
      ⟨_, _, ⟨rfl, by decide, by rfl, .inl ⟨rfl, rfl⟩⟩, rfl⟩, ⟨_, _, ⟨rfl, by decide, by rfl, .inl ⟨rfl, rfl⟩⟩, rfl⟩,
      ⟨_, _, ⟨rfl, by decide, by rfl, .inl ⟨rfl, rfl⟩⟩, rfl⟩, ⟨_, _, ⟨rfl, by decide, by rfl, .inl ⟨rfl, rfl⟩⟩, rfl⟩⟩, fun f h => ?_, fun x h => ?_,
   ⟨atHome stP, _, by rfl, ⟨_, by rfl, by decide⟩, ⟨_, by rfl, by decide⟩, (fun h => by obtain ⟨_, hx, hn⟩ := h; cases hx; exact hn (by decide)), by rfl⟩,
   ⟨0x40, { atHome stP with groups := [], accs := [] }, _, by rfl, by decide⟩,
   ⟨1, sent (.ld false 2 0 8 .b32 0) fun s => s.modGroup 0 fun x => { x with marker := true }, _, by rfl, by decide⟩⟩
  · simp only [List.mem_cons, List.not_mem_nil, or_false] at h
    rcases h with rfl | rfl
    · exact ⟨{ atHome stP with accs := [(1, { accOf stP with stage := .toHome, flats := [sramBase] })], claims := [] }, _,
        ⟨rfl, by decide, by rfl, .inr ⟨rfl, rfl, .inl ⟨by decide, rfl⟩⟩⟩, rfl, rfl⟩
    · exact ⟨{ atHome stP with claims := [] }, _, ⟨rfl, by decide, by rfl, .inr ⟨rfl, rfl, .inr (.inl ⟨0, by decide, by decide, rfl⟩)⟩⟩, rfl, rfl⟩
  · simp only [List.mem_cons, List.not_mem_nil, or_false] at h
    have e : ∀ x, 262144 ≤ ((fullOf x).claims.filter fun y => directoryOf y.1 == some 8).length := fun x => by
      rw [full_here, List.length_replicate]
    have absent : ∀ x, tget (fullOf x).claims (hostBase / 64) = none := fun x => by
      show tget (List.replicate 262144 (hostLine + 1, x)) hostLine = none
      rw [List.replicate_succ]; exact (if_neg (Nat.succ_ne_self _)).trans (if_pos (Nat.lt_succ_self _))
    rcases h with rfl | rfl
    · exact ⟨fullOf stale, _, _, _, ⟨rfl, by decide, by rfl, .inr ⟨absent _, rfl, .inr (.inr ⟨8, _, _, by decide, e _, full_evicts _, rfl⟩)⟩⟩, absent _,
        full_evicts _, fun _ => rfl, fun _ => ⟨rfl, rfl, rfl, rfl⟩⟩
    · exact ⟨fullOf claimed, _, _, _, ⟨rfl, by decide, by rfl, .inr ⟨absent _, rfl, .inr (.inr ⟨8, _, _, by decide, e _, full_evicts _, rfl⟩)⟩⟩, absent _,
        full_evicts _, fun u => absurd (u.2.2.1 : (fullOf claimed).holder (1, 0) = none) (by decide), fun h => absurd h (by decide)⟩

/-- A load answered; a store refused. -/
def answeredWith (s : State) (r : PieceRes) : State := { s with accs := [(1, { accOf s with stage := .answered, res := [r] })] }
theorem witness_AnswerReturnStep :
    (∃ (n : Nat) (s : State) (a : Access) (o : Op) (gr : Group), tget s.accs n = some a ∧ s.answerDue a = true ∧ tget s.ops a.op = some o ∧
      s.group? o.group = some gr ∧ o.sample = false) ∧
    (∃ (n : Nat) (s : State) (a : Access) (o : Op) (gr : Group) (f : Fail), tget s.accs n = some a ∧ s.answerDue a = true ∧ tget s.ops a.op = some o ∧
      s.group? o.group = some gr ∧ o.left = 1 ∧ leastFail (o.fails ++ failsOf a.res) = some f ∧ o.watch = false ∧ a.watch = false ∧ gr.stop = .run) :=
  ⟨⟨1, answeredWith ldP (.value 7 false), _, _, _, by rfl, by decide, by rfl, by rfl, by rfl⟩,
   ⟨1, answeredWith stP (.fail ⟨0, 11, 2, 0, 0, 0x1010⟩), _, _, _, _, by rfl, by decide, by rfl, by rfl, by rfl, by rfl, by rfl, by rfl, by rfl⟩⟩

/-- An arrival at its home, on a barrier word with these bits; the group in slot 1 waits on the phase 0. -/
def barK : State := { byGroup { grpP with k := [mkCap 0 127 2 0x1000 0x1000] ++ List.replicate 15 Cap.null } [0] with otCache := [⟨0, 0, 0, arena.words⟩] }
def arrives (n : BitVec 5) (waits : Bool) (w : Nat) : State :=
  let s := next (exec (if waits then .bars false 0 1 .device n else .barr false 0 1 .device n) barK)
  { s with accs := [(1, { accOf s with stage := .toHome, flats := [0x1010] })], mem := mputs [] 0x1010 (leBytes w 8)
           groups := s.groups ++ [(1, { grpP with gid := 1, wait := .phase 0x1010 false 4 })] }
theorem witness_BarrierArrivalStep :
    let meets := fun (n : BitVec 5) (waits : Bool) (w : Nat) => ∃ a scope, tget (arrives n waits w).accs 1 = some a ∧ (arrives n waits w).arrivalDue a = true ∧
      (arrives n waits w).opKind a.op = .arrive n.toNat waits scope ∧ memWf (arrives n waits w).mem = true ∧ a.flats.headD 0 = 0x1010 ∧
      mnat (arrives n waits w).mem 0x1010 8 = w
    meets 0 false 0 ∧ (meets 1 true (2 * 2 ^ 28) ∧ fld (2 * 2 ^ 28) 63 58 = 0 ∧ fld (2 * 2 ^ 28) 27 0 + 1 < fld (2 * 2 ^ 28) 55 28) ∧
    (meets 1 false (2 * 2 ^ 28 + 1) ∧ fld (2 * 2 ^ 28 + 1) 27 0 + 1 = fld (2 * 2 ^ 28 + 1) 55 28 ∧
      ∃ x, (arrives 1 false (2 * 2 ^ 28 + 1)).group? 1 = some x ∧ x.wait = .phase 0x1010 false 4 ∧ false = decide ((2 * 2 ^ 28 + 1) / 2 ^ 56 % 2 = 1)) ∧
    (meets 1 false (2 ^ 28 + 1) ∧ fld (2 ^ 28 + 1) 55 28 < fld (2 ^ 28 + 1) 27 0 + 1) ∧ (meets 31 false (2 ^ 58) ∧ fld (2 ^ 58) 63 58 ≠ 0) :=
  ⟨⟨_, _, by rfl, by decide, by rfl, by decide, by rfl, by decide⟩, ⟨⟨_, _, by rfl, by decide, by rfl, by decide, by rfl, by decide⟩, by decide, by decide⟩,
   ⟨⟨_, _, by rfl, by decide, by rfl, by decide, by rfl, by decide⟩, by decide, _, by rfl, by rfl, by decide⟩,
   ⟨⟨_, _, by rfl, by decide, by rfl, by decide, by rfl, by decide⟩, by decide⟩, ⟨_, _, by rfl, by decide, by rfl, by decide, by rfl, by decide⟩, by decide⟩

/-- A group that traps, one that a halt has reached, one at its armed count, and a crew whose groups all have their records. -/
def oneGroup (gr : Group) : State := { byGroup gr [0] with stops := [⟨0, 0, 0, 0, 5⟩] }
def halted (c : Crew) : Crew := { c with halt := some ⟨0, undefTrap, false, false⟩ }
/-- A crew whose halt is to be told to a thread with n events in its queue. -/
def haltTold (n : Nat) : State := { oneGroup grpTrapped with
  crews := [(0, halted placedCrew)], threads := [(0, { thr [] with queue := List.replicate n ⟨[2 ^ 56], 0, false, none⟩ })] }
theorem witness_TrapAndHaltSteps :
    (∃ (s : State) (g : Nat) (gr : Group) (r : Trap), s.group? g = some gr ∧ s.recordDue g gr = true ∧ gr.trap = some r ∧ r.noWord = false ∧ isHint r.instr = false ∧
      r.rwc < gr.rwcount.toNat ∧ gr.rwcount.toNat ≤ r.rwc + 65) ∧
    (∃ (s : State) (g : Nat) (gr : Group), s.group? g = some gr ∧ s.siblingDue g gr = true) ∧
    (∃ (s : State) (g : Nat) (gr : Group), s.group? g = some gr ∧ s.preciseDue g gr = true) ∧
    (∃ (s : State) (g : Nat) (gr : Group) (c : Crew) (h : Halt), s.group? g = some gr ∧ s.crew? gr.crew = some c ∧ c.halt = some h ∧ s.haltEventDue gr.crew = true) ∧
    (∃ (s : State) (g : Nat) (gr : Group) (c : Crew) (h : Halt), s.group? g = some gr ∧ s.crew? gr.crew = some c ∧ c.halt = some h ∧ s.haltEventDue gr.crew = true ∧
      s.threadOf c.core c.ctx = none) ∧
    (∀ n ∈ [0, 255], ∃ (s : State) (g : Nat) (gr : Group) (c : Crew) (h : Halt) (k : Nat) (th : Thread), s.group? g = some gr ∧ s.crew? gr.crew = some c ∧ c.halt = some h ∧
      s.haltEventDue gr.crew = true ∧ s.threadOf c.core c.ctx = some k ∧ s.thread? k = some th ∧ th.idle = false ∧ th.queue.length = n) :=
  ⟨⟨oneGroup { grp1 with stop := .trapping, trap := some undefTrap }, 0, _, undefTrap, by rfl, by decide, by rfl, by decide, by decide, by decide, by decide⟩,
   ⟨oneGroup { grp1 with stop := .halting }, 0, _, by rfl, by decide⟩, ⟨oneGroup { grp1 with rwcount := 5 }, 0, _, by rfl, by decide⟩,
   ⟨{ oneGroup grpTrapped with crews := [(0, halted placedCrew)] }, 0, _, halted placedCrew, _, by rfl, by rfl, by rfl, by decide⟩,
   ⟨{ oneGroup grpTrapped with crews := [(0, halted placedCrew)], threads := [] }, 0, _, halted placedCrew, _, by rfl, by rfl, by rfl, by decide, by rfl⟩,
   fun n h => by
     simp only [List.mem_cons, List.not_mem_nil, or_false] at h
     rcases h with rfl | rfl
     · exact ⟨haltTold 0, 0, _, halted placedCrew, _, 0, _, by rfl, by rfl, by rfl, by decide, by rfl, by rfl, by decide, by rfl⟩
     · exact ⟨haltTold 255, 0, _, halted placedCrew, _, 0, _, by rfl, by rfl, by rfl, by decide +kernel, by rfl, by rfl, by decide, List.length_replicate ..⟩⟩

/-- Two groups at fuse site 3; the second lane of the first is in block b. -/
def atFuse (b : BitVec 8) : State := { byGroup (grp []) [0] with
  groups := [(0, { grp [lane [1], { lane [2] with blk := b }] [7] with wait := .fuse 3 1, regs := 16 }),
    (1, { grp [{ lane [8] with blk := 255 }, lane [9]] [9] with wait := .fuse 3 2, regs := 16, gid := 1, gidx := 1, uid := 6 })]
  crews := [(0, { placedCrew with groups := [0, 1] })] }
/-- A group that came to this core runs a stored copy of the arena's code; another waits for its `sinv`. -/
def storedCode : Cached := ⟨4, 0, 0, 0, 0, [0x70C00000], false, 0⟩
def movedHere : State := { oneGroup { grp1 with wait := .sinv [] [] 0 0 4096 } with
  store := [storedCode], groups := [(0, { grp1 with wait := .sinv [] [] 0 0 4096 }), (1, { grp1 with gid := 1, gidx := 1, moved := true, copy := some 4 })] }
/-- The station of block 0. -/
def inBlock0 : Sta := ⟨0, [0], none⟩
theorem witness_WaitSteps :
    let is := fun (w : Wait) (met : Bool) => oneGroup { grp1 with wait := w, met := met }
    (∃ gr ops cmds drop ends, (is (.fence [] [] true true) false).group? 0 = some gr ∧ (is (.fence [] [] true true) false).fenceDue gr = true ∧
      gr.wait = .fence ops cmds drop ends) ∧
    (∀ h ∈ [0, 1], ∃ gr ops cmds low len c, (is (.sinv [] [] h 0 4) false).group? 0 = some gr ∧ (is (.sinv [] [] h 0 4) false).sinvDue gr = true ∧
      gr.wait = .sinv ops cmds h low len ∧ (is (.sinv [] [] h 0 4) false).ctx? gr.ctx = some c ∧ c.arena = 0) ∧
    (∀ w ∈ [Wait.phase 0 false 2, .word 0 0], ∃ gr, (is w true).group? 0 = some gr ∧ gr.metDue = true ∧ watchedWord gr.wait = some 0 ∧
      (is w true).refetchDue gr = false) ∧
    (∃ gr x, (is (.store inBlock0) false).group? 0 = some gr ∧ (is (.store inBlock0) false).enterDue gr = true ∧
      (is (.store inBlock0) false).refetchDue gr = false ∧ gr.wait = .store x) ∧
    (∃ (s : State) (gr : Group), s.group? 0 = some gr ∧ s.refetchDue gr = true) ∧
    (∃ (s : State) (gr : Group), s.group? 0 = some gr ∧ s.retireDue 0 gr = true) ∧ (∃ (s : State) (gr : Group), s.group? 0 = some gr ∧ s.ageDue 0 gr = true) ∧
    (∃ (s : State) (gr : Group), s.group? 0 = some gr ∧ s.siteDue gr.crew 3 = true) ∧
    (∃ (s : State) (gr : Group) (k : Nat) (z : Group) (x : Cached) (c : Context), s.group? 0 = some gr ∧ s.sinvDue gr = true ∧ s.ctx? gr.ctx = some c ∧ x ∈ s.store ∧
      codeMeets c x 0 4096 = true ∧ s.group? k = some z ∧ z.ctx = gr.ctx ∧ z.moved = true ∧ z.copy = some x.id) ∧
    (∀ b ∈ [(0 : BitVec 8), 255], ∃ (s : State) (gr hr : Group) (l : Launch), s.group? 0 = some gr ∧ s.siteDue gr.crew 3 = true ∧
      atSite s gr.crew 3 = [(0, gr), (1, hr)] ∧ s.launchOf gr = some l ∧ gr.wait = .fuse 3 1 ∧ hr.wait = .fuse 3 2 ∧
      gr.eligible = true ∧ hr.eligible = true ∧ hr.role = gr.role ∧ hr.station = gr.station ∧ hr.members = gr.members ∧
      ((gr.lanes.filter Lane.live ++ hr.lanes.filter Lane.live).length ≤ gr.lanes.length ↔ b = 255)) :=
  ⟨⟨_, _, _, _, _, by rfl, by decide, by rfl⟩,
   fun h hh => by
     simp only [List.mem_cons, List.not_mem_nil, or_false] at hh
     rcases hh with rfl | rfl
     · exact ⟨_, _, _, _, _, _, by rfl, by decide, by rfl, by rfl, by rfl⟩
     · exact ⟨_, _, _, _, _, _, by rfl, by decide, by rfl, by rfl, by rfl⟩,
   fun w hw => by
     simp only [List.mem_cons, List.not_mem_nil, or_false] at hw
     rcases hw with rfl | rfl
     · exact ⟨_, by rfl, by decide, by rfl, by decide⟩
     · exact ⟨_, by rfl, by decide, by rfl, by decide⟩,
   ⟨_, _, by rfl, by decide, by decide, by rfl⟩,
   ⟨oneGroup { grp1 with refetch := true }, _, by rfl, by decide⟩,
   ⟨oneGroup { grpV [255] 0 [] with code := [], ended := true }, _, by rfl, by decide⟩,
   ⟨{ oneGroup { grp1 with ready := some 0 } with clock := 4096, stops := [] }, _, by rfl, by decide⟩, ⟨oneGroup { grp1 with wait := .fuse 3 1 }, _, by rfl, by decide⟩,
   ⟨movedHere, _, 1, _, storedCode, _, by rfl, by decide, by rfl, List.mem_cons_self .., by decide +kernel, by rfl, by rfl, by rfl, by rfl⟩,
   fun b h => by
     simp only [List.mem_cons, List.not_mem_nil, or_false] at h
     rcases h with rfl | rfl
     · exact ⟨atFuse 0, _, _, _, by rfl, by decide, by rfl, by rfl, by rfl, by rfl, by decide, by decide, by rfl, by rfl, by rfl, by decide⟩
     · exact ⟨atFuse 255, _, _, _, by rfl, by decide, by rfl, by rfl, by rfl, by rfl, by decide, by decide, by rfl, by rfl, by rfl, by decide⟩⟩

/-- A page in the capacity tier that an access waits for, with a free frame and without one. -/
def waiting (free : List Nat) (migrated : Bool) : State :=
  { stP with mem := mputs stP.mem 65536 (leBytes (mkPme 1 0 7) 8), fastFree := free
             waits := [(0, ⟨9, 0, 65536, [.access 1], migrated, false⟩)], accs := [(1, { accOf stP with stage := .parked 0 })] }
/-- Die 0's wait table is full. -/
def crowd : Nat × WaitEntry := (0, ⟨9, 0, 65536, [], true, false⟩)
def crowded : State := { stP with waits := List.replicate 4096 crowd }
theorem crowd_find : (List.replicate 4096 crowd).find? (fun (_, w) => w.pme == 65544) = none :=
  List.find?_eq_none.mpr fun x h => by rw [List.eq_of_mem_replicate h]; decide
theorem witness_PageSteps :
    (∃ (s : State) (n : Nat) (e : WaitEntry) (f x : Nat) (r : List Nat), tget s.waits n = some e ∧ s.migrationDue e = true ∧ s.migrationBank e = none ∧ s.fastFree = f :: r ∧ memWf s.mem = true ∧
      (let src := capBase + pmeFrame (mnat s.mem e.pme 8) * 65536
       f * 65536 ≤ x ∧ x < f * 65536 + 65536 ∧ (x < e.pme ∨ e.pme + 8 ≤ x) ∧ (src + 65536 ≤ f * 65536 ∨ f * 65536 + 65536 ≤ src))) ∧
    (∃ (s : State) (n : Nat) (e : WaitEntry), tget s.waits n = some e ∧ s.migrationDue e = true ∧ s.migrationBank e = none ∧ s.fastFree = [] ∧ memWf s.mem = true) ∧
    (∃ (s : State) (n : Nat) (e : WaitEntry) (k : Nat), tget s.waits n = some e ∧ e.migrated = true ∧ Waiter.access k ∈ e.waiters) ∧
    (∃ (s : State) (n : Nat) (e : WaitEntry) (p m : Nat) (w : WaitEntry), tget s.waits n = some e ∧ s.entryFor p = some m ∧ tget s.waits m = some w) ∧
    (∃ (s : State) (n : Nat) (e : WaitEntry) (p : Nat), tget s.waits n = some e ∧ s.entryFor p = none ∧
      4096 ≤ (s.waits.filter fun x => x.2.die == faultDie p).length) := by
  refine ⟨⟨waiting [9] false, 0, _, 9, 9 * 65536 + 65535, [], by rfl, by decide, by rfl, by rfl, by decide, by decide, by decide, by decide, by decide⟩,
   ⟨waiting [] false, 0, _, by rfl, by decide, by rfl, by rfl, by decide⟩, ⟨waiting [] true, 0, _, 1, by rfl, by rfl, by decide⟩,
   ⟨waiting [] false, 0, _, 65536, 0, _, by rfl, by decide, by rfl⟩, ⟨crowded, 0, ⟨9, 0, 65536, [], true, false⟩, 65544, rfl, ?_, ?_⟩⟩
  · simp only [State.entryFor, crowded, crowd_find, Option.map_none]
  · show 4096 ≤ ((List.replicate 4096 crowd).filter fun x => x.2.die == faultDie 65544).length
    rw [List.filter_replicate, if_pos (by decide), List.length_replicate]

/-! ### Engines, threads, launches -/

/-- The engine of core 0 holds this word of the group in slot 0. -/
def entryOf (w : MWord) (op : Option Nat := none) : MEntry := ⟨0, 0, 0, 0, 0, 0, [0], [(0, 0)], w, op, 0⟩
def engaged (w : MWord) (op : Option Nat := none) : State :=
  { byMatrix grpT with engine := [entryOf w op], ops := [(3, ⟨0, 0, .ard, true, 0, 0, 0, none, none, 4, [0], 0, [], [], false, false, 0, 0, 0⟩)] }
theorem witness_MatrixEngineStep :
    let meets := fun (w : MWord) (op : Option Nat) => (engaged w op).engineNext 0 (engaged w op).engine [] = some (entryOf w op) ∧
      (engaged w op).crew? (entryOf w op).crew = some crewM
    meets (.tcfg 3 bf16) none ∧ meets (.acfg 1 0) none ∧
    (∀ w ∈ [MWord.mma 0 0 0 .chunk, .mmb 0 1 1 .xor, .azero 0, .awr 0 63 [(0, 7)], .acvt 0 .s32ToF32, .acvt 0 .f32ToS32], meets w none ∧
      (∃ v, element crewM (entryOf w) 0 0 0 0 = some (0, v)) ∧ (crewM.acc 0).bind = some (0, 0) ∧ 0 < crewM.accs.length) ∧
    (meets (.ard 0 5 63) (some 3) ∧ (crewM.acc 0).bind = some (0, 0) ∧ (engaged (.ard 0 5 63) (some 3)).group? 0 = some grpT ∧
      ∃ o, tget (engaged (.ard 0 5 63) (some 3)).ops 3 = some o ∧ o.group = 0 ∧ o.fails = [] ∧ o.watch = false ∧ o.sample = false) ∧
    meets (.tld 0 .data 64 64 (grpT.rk 1)) none ∧ meets (.tst 0 .data 64 64 (grpT.rk 1)) none := by
  refine ⟨⟨by decide, rfl⟩, ⟨by decide, rfl⟩, fun w h => ?_, ⟨⟨by decide, rfl⟩, rfl, rfl, _, rfl, rfl, rfl, rfl, rfl⟩, ⟨by decide, rfl⟩, by decide, rfl⟩
  simp only [List.mem_cons, List.not_mem_nil, or_false] at h
  rcases h with rfl | rfl | rfl | rfl | rfl | rfl <;> exact ⟨⟨by decide, rfl⟩, ⟨_, rfl⟩, rfl, by decide⟩

/-- Sixteen bytes of the arena at 0x1000 to 0x2000, a completion at 0x3000; port 0 keeps the object's entry. -/
def copyCmd (fn cm : Nat) (done : Nat := 0) : Copy :=
  { mkCopy (byGroup (grpK linPs) [0]) 0 (grpK linPs) 0 4 1 .none .addS32 with
    fn := fn, src := mkCap 0 127 6 0x1000 64, dst := mkCap 0 127 6 0x2000 64, cmp := mkCap 0 127 6 0x3000 64
    params := [dw (16 * 2 ^ 24 + cm * 8), 0, 0, 7], total := 16, done := done }
def copying (c : Copy) (w : Nat := 0) : State :=
  { kept (byGroup (grpK linPs) [0]) with cmds := [(2, c)], mem := mputs (State.reset.placed 0).mem 0x3000 (leBytes w 8) }
def sideOf (c : Cap) (need : Nat) : Side := ⟨c, need, some arena⟩
theorem sideFor_kept {s : State} {c : Copy} {cap : Cap} {need : Nat} {offs : List Nat} {k : Context} (hc : s.ctx? c.ctx = some k)
    (he : entryAt s.mem k cap.handle = some arena) (hp : s.copyOf (portOf c.core) c.ctx cap.handle = some arena)
    (hf : portFails s.mem (some arena) cap.kind need (cap.low + offs.foldl min (offs.headD 0))
      (offs.foldl max 0 - offs.foldl min (offs.headD 0) + 1) = [])
    (hk : s.keepCopy (portOf c.core) c.ctx cap.handle arena = s) : s.sideFor c cap need offs = (s, sideOf cap need) := by
  simp only [State.sideFor, portEntry_kept hc he hp hf hk, sideOf]
theorem reaches {s : State} {x : Side} {off f : Nat} (hp : s.sidePlace x off = .at_ f) (hh : s.hostFails f = false) (hq : s.peerFails f = false)
    (hr : s.refresh = []) (hu : s.accs = []) : Reaches s x off f :=
  ⟨hp, hh, hq, fun _ _ => ⟨by rw [hr]; rfl, by simp [State.urgentAt, hu]⟩⟩
theorem keeps (c : Copy) (w : Nat) : (copying c w).keepCopy 0 0 0 arena = copying c w := rfl
theorem unwatched {s : State} {ctx : Nat} {c : Cap} {k : Context} (hc : s.ctx? ctx = some k) (hw : k.watches = []) : Unwatched s ctx c := by
  intro off n w; simp [State.watchHits, hc, hw]

theorem sideBank_none {s : State} {c : Copy} {cap : Cap} {need : Nat} {offs : List Nat} (hr : s.refresh = []) : s.sideBank c cap need offs = none := by
  simp [State.sideBank, hr]
/-- What an entry allows depends on memory by its page map entry alone. -/
theorem judge_congr {m m' : List Host.Cell} {e : Entry} {kind need off size : Nat} (h : ∀ k < 8, mget m (e.pmeAt off + k) = mget m' (e.pmeAt off + k)) :
    judge m (some e) kind need off size = judge m' (some e) kind need off size := by
  have same : ∀ n a, (∀ k < n, mget m (a + k) = mget m' (a + k)) → mgets m a n = mgets m' a n := by
    intro n; induction n with
    | zero => intros; rfl
    | succ n ih =>
      intro a h
      have h0 : mget m a = mget m' a := h 0 (Nat.succ_pos _)
      rw [mgets, mgets, h0, ih (a + 1) fun k hk => by rw [Nat.add_assoc, Nat.add_comm 1 k]; exact h (k + 1) (Nat.succ_lt_succ hk)]
  have e8 : mnat m (e.pmeAt off) 8 = mnat m' (e.pmeAt off) 8 := by rw [mnat, mnat, same 8 _ h]
  have f : pageFails m e need off = pageFails m' e need off := by simp only [pageFails, e8]
  have g : portFails m (some e) kind need off size = portFails m' (some e) kind need off size := by
    unfold portFails; split <;> simp_all
  have p : placeOf m e off = placeOf m' e off := by simp only [placeOf, e8]
  unfold judge; rw [g]; split <;> simp_all

/-- Two rows of eight bytes, each with a scale byte for four of them; the scale byte of the second block of row 0 is 0x80. -/
def scaledCmd : Copy :=
  { copyCmd 1 0 with params := [dw 0, 0, 0, 0, dw (2 * 2 ^ 32 + 8 * 2 ^ 8), 8, 8, dw (2 ^ 44 + 2 ^ 40 + 32)] }
def scaledMem : List Host.Cell := mputs (State.reset.placed 0).mem 0x1021 [0x80]
def copyingIn (c : Copy) (m : List Host.Cell) : State := { kept (byGroup (grpK linPs) [0]) with cmds := [(2, c)], mem := m }
/-- The next bytes of a command. -/
def chunkOf (c : Copy) : List Nat := upTo c.done (min 4096 (c.total - c.done))
/-- Where its bytes lie: source, scale and destination. -/
def from_ (c : Copy) (b : Nat) : Nat := 0x1000 + c.srcAt b
def scaleOf (c : Copy) (b : Nat) : Nat := 0x1000 + (c.scaleAt b).getD 0
def to_ (c : Copy) (b : Nat) : Nat := 0x2000 + c.dstAt b
theorem chunkFree {c : Copy} {m : List Host.Cell} (hc : c.ctx = 0 ∧ c.core = 0 ∧ c.src.handle = 0 ∧ c.dst.handle = 0) (due : (copyingIn c m).chunkDue 2 c = true)
    (sort : c.listing = false ∧ c.system = false) (more : c.done < c.total) (fn : c.fn ≠ 2) (serial : (copyingIn c m).cmdSerial c = none)
    (wf : memWf m = true) (he : entryAt m placedContext 0 = some arena)
    (fails : ∀ x ∈ [(c.src, 8, (chunkOf c).map c.srcAt), (c.dst, 16, (chunkOf c).map c.dstAt)],
      portFails m (some arena) x.1.kind x.2.1 (x.1.low + x.2.2.foldl min (x.2.2.headD 0)) (x.2.2.foldl max 0 - x.2.2.foldl min (x.2.2.headD 0) + 1) = [])
    (places : ∀ b ∈ chunkOf c, judge m (some arena) c.src.kind 8 (c.src.low + c.srcAt b) 1 = .at_ (from_ c b) ∧ from_ c b < capBase ∧
      judge m (some arena) c.dst.kind 16 (c.dst.low + c.dstAt b) 1 = .at_ (to_ c b) ∧ to_ c b < capBase ∧
      ∀ o, c.scaleAt b = some o → judge m (some arena) c.src.kind 8 (c.src.low + o) 1 = .at_ (scaleOf c b) ∧ scaleOf c b < capBase) :
    ChunkFree (copyingIn c m) 2 c (sideOf c.src 8) (sideOf c.dst 16) (chunkOf c) (from_ c) (scaleOf c) (to_ c) := by
  obtain ⟨h0, h1, h2, h3⟩ := hc
  have ctx : (copyingIn c m).ctx? c.ctx = some placedContext := by rw [h0]; rfl
  have side : ∀ x ∈ [(c.src, 8, (chunkOf c).map c.srcAt), (c.dst, 16, (chunkOf c).map c.dstAt)],
      (copyingIn c m).sideFor c x.1 x.2.1 x.2.2 = (copyingIn c m, sideOf x.1 x.2.1) := fun x hx => by
    have hh : x.1.handle = 0 := by
      simp only [List.mem_cons, List.not_mem_nil, or_false] at hx
      rcases hx with rfl | rfl
      exacts [h2, h3]
    exact sideFor_kept (k := placedContext) ctx (by rw [hh]; exact he) (by rw [h0, h1, hh]; rfl) (fails x hx) (by rw [h0, h1, hh]; rfl)
  have near : ∀ {x : Side} {o f}, (copyingIn c m).sidePlace x o = .at_ f → f < capBase → Reaches (copyingIn c m) x o f := fun {x o f} hp hl => by
    have lo : ¬ hostBase ≤ f := by have : capBase < hostBase := by decide
                                   omega
    have lo2 : ¬ peerBase ≤ f := by have : capBase < peerBase := by decide
                                    omega
    exact reaches hp (by simp [State.hostFails, lo]) (by simp [State.peerFails, State.peerDown, lo2]) rfl rfl
  have chunk : chunkOf c = upTo c.done (min 4096 (c.total - c.done)) := rfl
  have scales : ∀ b ∈ chunkOf c, ∀ o, c.scaleAt b = some o → Reaches (copyingIn c m) (sideOf c.src 8) o (scaleOf c b) :=
    fun b hb o ho => near ((places b hb).2.2.2.2 o ho).1 ((places b hb).2.2.2.2 o ho).2
  have reads : ∀ b ∈ chunkOf c, (c.scaleAt b = none ∨ mget (copyingIn c m).mem (scaleOf c b) ≠ 0x80) →
      Reaches (copyingIn c m) (sideOf c.src 8) (c.srcAt b) (from_ c b) := fun b hb _ => near (places b hb).1 (places b hb).2.1
  have writes : ∀ b ∈ chunkOf c, Reaches (copyingIn c m) (sideOf c.dst 16) (c.dstAt b) (to_ c b) :=
    fun b hb => near (places b hb).2.2.1 (places b hb).2.2.2.1
  have free : Unwatched (copyingIn c m) c.ctx c.src ∧ Unwatched (copyingIn c m) c.ctx c.dst := ⟨unwatched ctx rfl, unwatched ctx rfl⟩
  have source := side _ (List.mem_cons_self ..)
  have target := side _ (List.mem_cons_of_mem _ (List.mem_cons_self ..))
  exact ⟨due, sort, more, chunk, ⟨sideBank_none rfl, sideBank_none rfl⟩, source, target, scales, reads, writes, fun h => absurd h fn, serial, free, wf⟩

theorem witness_CopyEngineSteps :
    (∃ (n : Nat) (s : State) (c : Copy) (src dst : Side) (bs : List Nat) (f g d : Nat → Nat), tget s.cmds n = some c ∧ c.fn ≠ 4 ∧
      ChunkFree s n c src dst bs f g d ∧ ∀ b ∈ bs, c.scaleAt b = none ∧ ∀ a ∈ bs, b < a → d a ≠ d b) ∧
    (∃ (n : Nat) (s : State) (c : Copy) (src dst : Side) (bs : List Nat) (f g d : Nat → Nat), tget s.cmds n = some c ∧ c.fn ≠ 4 ∧
      ChunkFree s n c src dst bs f g d ∧ (∃ b ∈ bs, (c.scaleAt b).isSome = true ∧ mget s.mem (g b) = 0x80) ∧
      ∃ b ∈ bs, (c.scaleAt b).isSome = true ∧ mget s.mem (g b) ≠ 0x80) ∧
    (∃ (n : Nat) (s : State) (c : Copy) (src dst : Side) (bs : List Nat) (f g d : Nat → Nat), tget s.cmds n = some c ∧ c.fn = 4 ∧
      ChunkFree s n c src dst bs f g d ∧ c.done % c.esz = 0 ∧ c.total % c.esz = 0 ∧ (∀ a ∈ bs, ∀ b ∈ bs, d a = d b → a = b) ∧
      (∀ m : List Host.Cell, (∀ x, (∀ b ∈ bs, x ≠ d b) → mget m x = mget s.mem x) →
        ∀ b ∈ bs, judge m dst.entry dst.cap.kind dst.need (dst.cap.low + c.dstAt b) 1 = .at_ (d b)) ∧ ∃ b ∈ bs, b % c.esz = 0) ∧
    (∃ (n : Nat) (s : State) (c : Copy), tget s.cmds n = some c ∧ s.completionDue n c = true ∧ c.cm = 0) ∧
    (∀ cm ∈ [1, 2], ∃ (n : Nat) (s : State) (c : Copy) (x : Side) (f : Nat), tget s.cmds n = some c ∧ s.completionDue n c = true ∧ c.cm = cm ∧
      s.sideFor c c.cmp 16 (upTo c.coff 8) = (s, x) ∧ s.cmdSerial c = none ∧ s.sideBank c c.cmp 16 (upTo c.coff 8) = none ∧
      (∀ k < 8, Reaches s x (c.coff + k) (f + k)) ∧
      Unwatched s c.ctx c.cmp ∧ memWf s.mem = true ∧ (cm = 2 → ∃ v k, arrival (mnat s.mem f 8) c.count = .applied v k)) ∧
    (∃ (n : Nat) (s : State) (c : Copy), tget s.cmds n = some c ∧ s.qfenceDue n c = true) := by
  have scale : ∀ {c : Copy} {m : List Host.Cell} {b : Nat}, c.fn ≠ 1 → ∀ o, c.scaleAt b = some o →
      judge m (some arena) c.src.kind 8 (c.src.low + o) 1 = .at_ (scaleOf c b) ∧ scaleOf c b < capBase := fun {c m b} h o ho => by
    simp [Copy.scaleAt, h] at ho
  refine ⟨⟨2, copyingIn (copyCmd 0 0) (State.reset.placed 0).mem, copyCmd 0 0, _, _, _, _, _, _, rfl, by decide,
      chunkFree ⟨rfl, rfl, rfl, rfl⟩ (by decide) ⟨rfl, rfl⟩ (by decide) (by decide) rfl (by decide) (by decide) (by decide) fun b hb => ?_, ?_⟩,
    ⟨2, copyingIn scaledCmd scaledMem, scaledCmd, _, _, _, _, _, _, rfl, by decide,
      chunkFree ⟨rfl, rfl, rfl, rfl⟩ (by decide) ⟨rfl, rfl⟩ (by decide) (by decide) rfl (by decide) (by decide) (by decide) fun b hb => ?_,
      ⟨4, by decide, by decide, by decide⟩, ⟨8, by decide, by decide, by decide⟩⟩,
    ⟨2, copyingIn (copyCmd 4 0) (State.reset.placed 0).mem, copyCmd 4 0, _, _, _, _, _, _, rfl, rfl,
      chunkFree ⟨rfl, rfl, rfl, rfl⟩ (by decide) ⟨rfl, rfl⟩ (by decide) (by decide) rfl (by decide) (by decide) (by decide) fun b hb => ?_,
      by decide, by decide, by decide, fun m h b hb => ?_, 0, by decide, by decide⟩,
    ⟨2, copying (copyCmd 0 0 16), _, rfl, by decide, by decide⟩, fun cm h => ?_, ⟨2, copying (copyCmd 5 0), _, rfl, by decide⟩⟩
  · exact ⟨by decide +revert, by decide +revert, by decide +revert, by decide +revert, scale (by decide)⟩
  · decide
  · have : ∀ b ∈ chunkOf scaledCmd, ∃ o, scaledCmd.scaleAt b = some o ∧ judge scaledMem (some arena) scaledCmd.src.kind 8 (scaledCmd.src.low + o) 1 =
        .at_ (scaleOf scaledCmd b) ∧ scaleOf scaledCmd b < capBase := fun b hb => ⟨(scaledCmd.scaleAt b).getD 0, by decide +revert, by decide +revert, by decide +revert⟩
    obtain ⟨o', h1, h2⟩ := this b hb
    exact ⟨by decide +revert, by decide +revert, by decide +revert, by decide +revert, fun o ho => by rw [h1] at ho; cases ho; exact h2⟩
  · exact ⟨by decide +revert, by decide +revert, by decide +revert, by decide +revert, scale (by decide)⟩
  · have far : ∀ b ∈ chunkOf (copyCmd 4 0), ∀ k < 8, ∀ x ∈ chunkOf (copyCmd 4 0), arena.pmeAt ((copyCmd 4 0).dst.low + (copyCmd 4 0).dstAt b) + k ≠ to_ (copyCmd 4 0) x := by decide
    exact (judge_congr fun k hk => h _ (far b hb k hk)).trans ((by decide : ∀ b ∈ chunkOf (copyCmd 4 0), judge (State.reset.placed 0).mem (some arena)
      (copyCmd 4 0).dst.kind 16 ((copyCmd 4 0).dst.low + (copyCmd 4 0).dstAt b) 1 = .at_ (to_ (copyCmd 4 0) b)) b hb)
  · simp only [List.mem_cons, List.not_mem_nil, or_false] at h
    rcases h with rfl | rfl
    · refine ⟨2, copying (copyCmd 0 1 16), copyCmd 0 1 16, sideOf (copyCmd 0 1 16).cmp 16, 0x3000, rfl, by decide, by decide, sideFor_kept (k := placedContext) rfl ?_ rfl ?_ rfl, rfl,
        rfl, fun k h => reaches ?_ ?_ ?_ rfl rfl, unwatched rfl rfl, by decide, fun h => absurd h (by decide)⟩
      · decide
      · decide
      all_goals (revert k; decide)
    · refine ⟨2, copying (copyCmd 0 2 16) (20 * 2 ^ 28), copyCmd 0 2 16, sideOf (copyCmd 0 2 16).cmp 16, 0x3000, rfl, by decide, by decide, sideFor_kept (k := placedContext) rfl ?_ rfl ?_ (keeps _ _), rfl,
        rfl, fun k h => reaches ?_ ?_ ?_ rfl rfl, unwatched rfl rfl, by decide, fun _ => ⟨20 * 2 ^ 28 + 16, false, ?_⟩⟩
      · decide
      · decide
      · revert k; decide
      · revert k; decide
      · revert k; decide
      · decide

/-- Threads: one with an event held, one asleep with an event or at its limit, one whose `emit` is blocked on a place or on a
stopped group, one whose oldest event is too old. -/
def thrHeld : Thread := { thr [] with held := [⟨[5], 0, false, none⟩] }
def thrWakes : Thread := { thr [] with sleep := some (4, none), queue := [⟨[2 ^ 56], 0, false, none⟩] }
def thrTimes : Thread := { thr [] with sleep := some (4, some 0) }
def thrBlocked : Thread := { thr [] with blocked := some ⟨4, 0x70C00000, 0, 0, 0, 0⟩ }
theorem witness_ThreadSteps :
    (∃ n s th e r, State.thread? s n = some th ∧ th.placeDue = true ∧ th.held = e :: r) ∧
    (∃ n s th d l e r, State.thread? s n = some th ∧ th.wakeDue = true ∧ th.sleep = some (d, l) ∧ nextEvent th.queue = some (e, r)) ∧
    (∃ n s th d l, State.thread? s n = some th ∧ th.timeoutDue (State.clock s) = true ∧ th.sleep = some (d, l)) ∧
    (∀ gr ∈ [grpQ true 31 .run, grpQ true 0 .trapped], ∃ n s th b k, State.thread? s n = some th ∧ s.group? 0 = some gr ∧ s.unblockDue th = true ∧
      th.blocked = some b ∧ s.unblocks b = some k ∧ (k = 0 → ∃ g, s.blockedTarget b = some (g, gr))) ∧
    (∃ n s th, State.thread? s n = some th ∧ s.watchdogDue th = true) := by
  refine ⟨⟨0, byThread thrHeld, _, _, _, rfl, by decide, rfl⟩, ⟨0, byThread thrWakes, _, _, _, _, _, rfl, by decide, rfl, rfl⟩,
    ⟨0, byThread thrTimes, _, _, _, rfl, by decide, rfl⟩, fun gr h => ?_, ⟨0, { byThread thrE with clock := 2 ^ 30 }, _, rfl, by decide⟩⟩
  simp only [List.mem_cons, List.not_mem_nil, or_false] at h
  rcases h with rfl | rfl
  · exact ⟨0, byThread thrBlocked (grpQ true 31 .run), _, _, 0, rfl, rfl, by decide, rfl, rfl, fun _ => ⟨0, rfl⟩⟩
  · exact ⟨0, byThread thrBlocked (grpQ true 0 .trapped), _, _, 3, rfl, rfl, by decide, rfl, rfl, fun h => absurd h (by decide)⟩

/-- A launch none of whose crews is placed, one whose crews have retired, one under DETERM at its first crew. -/
def waits : Launch := launchFrom placedRecord 0 0 0
def launches (l : Launch) : State := { byGroup (grp []) [] with launches := [(0, l)], groups := [], crews := [], withdrawn := (List.range 96).drop 1 }
theorem admits : ((launches waits).admitted 0).isSome = true := by decide +kernel
/-- The same with core 0's tiles taken by another launch's crew. -/
def full : State := { launches waits with crews := [(5, { placedCrew with launch := 9, tiles := List.replicate 16 Tile.zero })] }
theorem one_core : (List.range 96).filter (launches waits).isOpen = [0] ∧ (List.range 96).filter full.isOpen = [0] := by decide +kernel
theorem places : ((launches waits).placeItem 0 0 waits (.fresh waits.next)).isSome = true := by decide +kernel
theorem full_place : full.placeItem 0 0 waits (.fresh waits.next) = none := by decide +kernel
theorem room : ((launches waits).roomFor 0 waits.need).any (fun r => (r.slots[0]?).isSome) = true := by decide +kernel
/-- A launch stands first with a crew to place, and nothing of it to resume. -/
def Heads (s : State) : Prop := s.placeOrder.head? = some 0 ∧ s.launch? 0 = some waits ∧ s.critical = [] ∧ s.taking = none ∧ waits.gang = none ∧
  s.resumable 0 = [] ∧ s.hasNew 0 waits = true
/-- CREW_ADMIT with room, and with none. -/
theorem witness_LaunchSteps_placement :
    (Heads (launches waits) ∧ ∃ c v, c ∈ (List.range 96).filter (launches waits).isOpen ∧ (launches waits).placeItem c 0 waits (.fresh waits.next) = some v ∧
      ∀ d ∈ (List.range 96).filter (launches waits).isOpen, ((launches waits).placeItem d 0 waits (.fresh waits.next)).isSome = true →
        (launches waits).freeLanes d waits < (launches waits).freeLanes c waits ∨ ((launches waits).freeLanes d waits = (launches waits).freeLanes c waits ∧ c ≤ d)) ∧
    (Heads full ∧ (∀ c ∈ (List.range 96).filter full.isOpen, full.placeItem c 0 waits (.fresh waits.next) = none) ∧ waits.reserve = [] ∧ full.reservation waits ≠ []) ∧
    (∀ s ∈ [launches waits, full], ∃ t th, s.threadOf 0 waits.ctx = some t ∧ s.thread? t = some th ∧ th.gated = false ∧ s.gatedOn 0 = [] ∧ s.storeUsed 0 ≤ 262144) ∧
    full.roomFor 0 waits.need = none ∧
    (∃ (r : Room) (k : Kernel) (c : Context), (launches waits).roomFor 0 waits.need = some r ∧ (launches waits).kernelOf waits.ctx waits.codeid waits.kernel = some k ∧
      (launches waits).ctx? waits.ctx = some c ∧ ∃ i slot : Nat, r.slots[i]? = some slot) := by
  refine ⟨⟨by unfold Heads; decide +kernel, 0, ?_⟩, ⟨by unfold Heads; decide +kernel, ?_, rfl, by decide +kernel⟩, fun s h => ?_, by decide +kernel,
    ?_⟩
  rotate_left 3
  · obtain ⟨r, hr, hs⟩ := (Option.any_eq_true ..).mp room
    obtain ⟨x, hx⟩ := Option.isSome_iff_exists.mp hs
    exact ⟨r, _, _, hr, by rfl, by rfl, 0, x, hx⟩
  · obtain ⟨v, hv⟩ := Option.isSome_iff_exists.mp places
    refine ⟨v, by rw [one_core.1]; exact List.mem_cons_self .., hv, fun d hd _ => ?_⟩
    rw [one_core.1, List.mem_singleton] at hd
    exact .inr ⟨by rw [hd], Nat.zero_le _⟩
  · intro c hc
    rw [one_core.2, List.mem_singleton] at hc
    rw [hc]; exact full_place
  · simp only [List.mem_cons, List.not_mem_nil, or_false] at h
    rcases h with rfl | rfl
    · exact ⟨_, _, by rfl, by rfl, by rfl, by rfl, by decide⟩
    · exact ⟨_, _, by rfl, by rfl, by rfl, by rfl, by decide⟩

theorem witness_LaunchSteps :
    (∃ slot ws, slot < 64 ∧ List.length (α := DWord) ws = 8 ∧ (launches waits).ready = true ∧ State.reset.ready = false) ∧
    (∃ off bs, bs ≠ ([] : List Byte) ∧ barWrite off bs.length = false) ∧
    (∃ n s x r, tget (State.slots s) n = some x ∧ x.record = some r ∧ (let l := launchFrom r (fld ((r[0]?).getD 0).toNat 51 40) 0 s.clock
      s.recordAway l = [] ∧ s.capBank l = none)) ∧
    (∃ n s th r q, State.thread? s n = some th ∧ th.dlq = r :: q ∧ (let l := launchFrom r.words th.ctx (n + 1) r.since
      s.recordAway l = [] ∧ s.capBank l = none)) ∧
    (∃ n s t, State.admitted s n = some t) ∧
    (∃ n s l, State.launch? s n = some l ∧ l.status = 0 ∧ l.next = 0 ∧ l.cls < 2 ∧ l.since + 2 ^ 24 ≤ s.clock) ∧
    (∃ n s l, State.launch? s n = some l ∧ l.over = true) ∧
    (∃ n s l k c, State.launch? s n = some l ∧ s.commitDue n l = true ∧ s.crewAt n l.head = some (k, c) ∧
      (s.nextBuffer n (l.head + 1)).findSome? (fun e => s.rangeBank e.addr e.size) = none) :=
  ⟨⟨63, List.replicate 8 0, by decide, rfl, rfl, rfl⟩, ⟨0x4048, [1], by decide, by decide⟩,
   ⟨63, { launches waits with slots := [(63, ⟨none, some placedRecord, false, false⟩)] }, _, _, rfl, rfl, by decide +kernel⟩,
   ⟨0, byThread (thrL 1), _, _, _, rfl, rfl, by decide +kernel⟩,
   ⟨0, launches waits, Option.isSome_iff_exists.mp admits⟩, ⟨0, { launches waits with clock := 2 ^ 24 }, _, rfl, rfl, rfl, by decide, by decide⟩,
   ⟨0, launches { waits with next := 1, retired := 1 }, _, rfl, by decide⟩,
   ⟨0, { byDeterm (grp []) with crews := [(0, { placedCrew with groups := [] })] }, _, 0, _, rfl, by decide, rfl, rfl⟩⟩

/-! ### Mailbox commands -/

/-- A command of a context with these words 4 to 7 and payload length; its payload and its result stand at host address 0. -/
def cmd (op ctx : Nat) (w4 w5 w6 w7 : DWord := 0) (n : Nat := 0) : List DWord := [dw (op + ctx * 256 + 5 * 2 ^ 32), 0, dw n, 0, w4, w5, w6, w7]
/-- The device with this command queued and this memory. -/
def mailed (ws : List DWord) (m : List Host.Cell := []) (c : Context := placedContext) (gr : Group := grp1) : State :=
  let s := byGroup gr []
  { s with mbox := [ws], ctxs := [(0, c)]
           mem := m }
def debugged : Context := { placedContext with debug := true }

theorem entryBank_none {s : State} {c h : Nat} (hr : s.refresh = []) : s.entryBank c h = none := by
  simp [State.entryBank, State.rangeBank, hr]
theorem unheld {s : State} {op : Nat} {ws : List DWord} (hr : s.refresh = []) : Unheld s op ws :=
  ⟨fun _ => entryBank_none hr, fun _ => entryBank_none hr⟩
/-- No code object of a context is to be unloaded. -/
def Keeps (c : Context) : Prop := (c.objs.all fun o => o.unload.isNone) = true
theorem idle {s : State} {c : Context} (hp : s.pending = []) (hc : s.ctxs = [(0, c)]) (hu : Keeps c) (ho : s.preempts = [])
    (ht : ∀ rs, s.taking = some rs → rs = []) : Idle s :=
  ⟨hp, fun x hx o h => by
    rw [hc, List.mem_singleton] at hx; subst hx
    exact Option.isNone_iff_eq_none.mp (List.all_eq_true.mp hu o h), (fun _ h => by rw [ho] at h; cases h), ht⟩
theorem mailed_idle {ws : List DWord} {p : List Host.Cell} {c : Context} {gr : Group} (hu : Keeps c) : Idle (mailed ws p c gr) :=
  idle rfl rfl hu rfl fun _ h => by cases h
theorem placed_keeps : Keeps placedContext := by unfold Keeps; decide
theorem debugged_keeps : Keeps debugged := by unfold Keeps; decide
theorem takes {op : Nat} {ws : List DWord} {p : List Host.Cell} {c : Context} {gr : Group} (ho : cmdOp ws = op) (hf : (formOf op).reserved ws = false)
    (hc : (formOf op).names = .created → ((mailed ws p c gr).ctx? (cmdCtx ws)).isSome = true) (hu : Keeps c := by first | exact placed_keeps | exact debugged_keeps) :
    Takes (mailed ws p c gr) op (formOf op) ws := ⟨mailed_idle hu, unheld rfl, rfl, ho, hf, hc⟩

theorem witness_MailboxSteps :
    (∃ off bs, off < 0x4040 ∧ 0x4000 < off + List.length (α := Byte) bs) ∧
    (∀ x ∈ commandForms, ∃ s ws, (State.mbox s).head? = some ws ∧ cmdOp ws = x.2.1 ∧ Idle s ∧ Unheld s x.2.1 ws ∧ x.2.2.reserved ws = true) ∧
    (∀ x ∈ commandForms, x.2.2.names = .created → ∃ s ws, (State.mbox s).head? = some ws ∧ cmdOp ws = x.2.1 ∧ Idle s ∧ Unheld s x.2.1 ws ∧
      x.2.2.reserved ws = false ∧ s.ctx? (cmdCtx ws) = none) ∧ (∃ (s : State) (st : Nat), memWf s.mem = true ∧ st < 2 ^ 32) := by
  refine ⟨⟨0x403F, [1], by decide, by decide⟩, fun x h => ?_, fun x h hn => ?_, ⟨State.reset, 0, by decide, by decide⟩⟩
  · have e : cmdOp (cmd x.2.1 0x1000) = x.2.1 ∧ x.2.2.reserved (cmd x.2.1 0x1000) = true := by revert x; decide
    exact ⟨mailed (cmd x.2.1 0x1000), _, rfl, e.1, mailed_idle placed_keeps, unheld rfl, e.2⟩
  · have e : cmdOp (cmd x.2.1 4095) = x.2.1 ∧ x.2.2.reserved (cmd x.2.1 4095) = false ∧ (mailed (cmd x.2.1 4095)).ctx? (cmdCtx (cmd x.2.1 4095)) = none := by
      revert x; decide
    exact ⟨mailed (cmd x.2.1 4095), _, rfl, e.1, mailed_idle placed_keeps, unheld rfl, e.2.1, e.2.2⟩

/-- The base point of the curve stands in host memory. -/
def keyed (n : Nat) : State := let s := mailed (cmd 0x12 0 1 0 0 0 n)
  { s with mem := (beBytes ecGx 48 ++ beBytes ecGy 48).zipIdx.map fun x => (hostBase + x.2, x.1) }
/-- The device takes a command, of which this holds with its payload. -/
def meets (op : Nat) (w4 w5 : DWord) (n : Nat) (p : State → List DWord → List Byte → Prop) : Prop :=
  let ws := cmd op 0 w4 w5 0 0 n
  Takes (mailed ws) op (formOf op) ws ∧ p (mailed ws) ws (mgets (mailed ws).mem (hostBase + cmdPaddr ws) (cmdPlen ws))
def routed : List DWord := cmd 0x27 0 0 0 0 0 8
theorem routed_words : wordsOf (mgets (mailed routed).mem (hostBase + cmdPaddr routed) (cmdPlen routed)) (cmdPlen routed / 8) = [0] := by decide +kernel
theorem witness_SetupCommands :
    meets 0x22 7 0 0 (fun _ _ _ => True) ∧ meets 0x23 1 0 0 (fun _ ws _ => cmdWord ws 4 ≠ 0) ∧ meets 0x06 0 0 0 (fun _ _ _ => True) ∧
    meets 0x39 0x1000000 0 0 (fun _ ws _ => cmdWord ws 4 ≤ 2 ^ 24) ∧ meets 0x28 0 0 0 (fun _ _ _ => True) ∧
    meets 0x27 0 0 8 (fun _ ws pay => cmdWord ws 4 = 0 ∧ cmdPlen ws % 8 = 0 ∧ ∀ x ∈ wordsOf pay (cmdPlen ws / 8), routeOk x.toNat = true) ∧
    meets 0x27 1 0 16 (fun _ ws pay => cmdWord ws 4 = 1 ∧ cmdPlen ws % 16 = 0 ∧ importsOk (wordsOf pay (cmdPlen ws / 8)) = true) ∧
    meets 0x25 64 0x10000 0 (fun _ ws _ => cmdWord ws 4 % 64 = 0 ∧ cmdWord ws 6 % 16 = 0 ∧ ringSize (cmdWord ws 5) = true) ∧
    (∀ p ∈ [((0 : DWord), fastFrames), (1, capFrames)], meets 0x24 p.1 0 8 (fun _ ws pay => cmdWord ws 4 = p.1.toNat ∧ cmdPlen ws % 8 = 0 ∧
      ∀ f ∈ (wordsOf pay (cmdPlen ws / 8)).map BitVec.toNat, f < p.2)) ∧
    (∃ (s : State) (ws : List DWord), Takes s 0x12 (formOf 0x12) ws ∧ cmdPlen ws = 96 ∧
      ∀ k ∈ keyPoints (mgets s.mem (hostBase + cmdPaddr ws) (cmdPlen ws)) (cmdPlen ws / 96), onCurve k = true) ∧
    meets 0x26 23 2 0 (fun _ ws _ => cmdWord ws 4 < 24 ∧ cmdWord ws 5 ≠ 3) ∧
    meets 0x26 0 3 0 (fun _ ws _ => cmdWord ws 4 < 24 ∧ cmdWord ws 5 = 3) ∧
    meets 0x29 0 0 320 (fun _ ws _ => 320 ≤ cmdPlen ws) := by
  refine ⟨⟨takes ?_ ?_ ?_, trivial⟩, ⟨takes ?_ ?_ ?_, ?_⟩, ⟨takes ?_ ?_ ?_, trivial⟩, ⟨takes ?_ ?_ ?_, ?_⟩, ⟨takes ?_ ?_ ?_, trivial⟩,
    ⟨takes ?_ ?_ ?_, ?_, ?_, fun x hx => List.mem_singleton.mp (routed_words ▸ hx : x ∈ [(0 : DWord)]) ▸ (by decide : routeOk (0 : DWord).toNat = true)⟩,
    ⟨takes ?_ ?_ ?_, ?_⟩, ⟨takes ?_ ?_ ?_, ?_⟩, fun p h => ?_, ⟨keyed 96, cmd 0x12 0 1 0 0 0 96, ⟨idle rfl rfl placed_keeps rfl (fun _ h => by cases h), unheld rfl, rfl, ?_, ?_, ?_⟩, ?_, ?_⟩, ⟨takes ?_ ?_ ?_, ?_⟩,
    ⟨takes ?_ ?_ ?_, ?_⟩, ⟨takes ?_ ?_ ?_, ?_⟩⟩
  all_goals first
    | decide +kernel
    | (simp only [List.mem_cons, List.not_mem_nil, or_false] at h; rcases h with rfl | rfl <;> exact ⟨takes (by decide +kernel) (by decide +kernel) (by decide +kernel), by decide +kernel⟩)

/-- A table of one entry, of this kind, at the table region's first byte; its page map at 65,536, page 0 in frame 0. -/
def tableOf (kind : Nat) : List Host.Cell :=
  mputs (mputs [] 65536 (leBytes (mkPme 0 0 0) 8)) tableBase (leBytes (kind * 2 ^ 60 + 0x7F * 2 ^ 52 + 2 ^ 40 + 65535) 8 ++ leBytes 65536 8)
def plainEntry : Entry := ⟨2 ^ 60 + 0x7F * 2 ^ 52 + 2 ^ 40 + 65535, 65536, 0, 0⟩
/-- A command waits. -/
def pends (ws : List DWord) (d : List Byte := []) : State := { mailed ws with mbox := [], pending := [⟨ws, d, []⟩], crews := [], groups := [] }
def dying : State := { mailed [] [] { placedContext with objs := [{ placedObject with unload := some (0, 5) }] } with launches := [] }

theorem witness_ContextCommands :
    (∃ (s : State) (ws : List DWord) (e : Entry), Takes s 0x01 (formOf 0x01) ws ∧ s.ctx? (cmdCtx ws) = none ∧ cmdWord ws 4 % 32 = 0 ∧ tableBase ≤ cmdWord ws 4 ∧ cmdWord ws 4 + 32 * cmdWord ws 5 ≤ capBase ∧
      1 ≤ cmdWord ws 5 ∧ cmdWord ws 5 ≤ 2 ^ 24 ∧ cmdPlen ws % 16 = 0 ∧ cmdPlen ws ≤ 256 ∧
      s.arenaOf (newContext s.nextId (cmdWord ws 4) (cmdWord ws 5) (cmdWord ws 6)
        (capsOf (mgets s.mem (hostBase + cmdPaddr ws) (cmdPlen ws)) (cmdPlen ws / 16))) = some e) ∧
    (∃ (s : State) (ws : List DWord), Takes s 0x02 (formOf 0x02) ws) ∧
    (∃ (s : State) (q : PendCmd), s.destroyDue = some q ∧ (s.ctx? (cmdCtx q.words)).isSome = true) ∧
    (∃ (s : State) (ws : List DWord), Takes s 0x03 (formOf 0x03) ws ∧ imageLegal (mgets s.mem (hostBase + cmdPaddr ws) (cmdPlen ws)) = true) ∧
    (∃ (s : State) (q : PendCmd), s.recipeDue 0 = some q) ∧
    (∃ (s : State) (ws : List DWord) (e : Entry) (f : Nat), Takes s 0x04 (formOf 0x04) ws ∧ cmdWord ws 5 % 16 = 0 ∧ cmdPlen ws = 16 ∧
      (popped s).mintEntry ws = some e ∧ cmdWord ws 5 + cmdPlen ws ≤ e.olen ∧ mintPlace s.mem e (cmdWord ws 5) = .at_ f ∧ s.mintBank e (cmdWord ws 5) = none) ∧
    (∃ (s : State) (ws : List DWord) (c : Context), Takes s 0x05 (formOf 0x05) ws ∧ 1 ≤ cmdWord ws 5 ∧ cmdWord ws 5 ≤ 2 ^ 24 ∧ s.ctx? (cmdCtx ws) = some c ∧
      cmdWord ws 4 + cmdWord ws 5 ≤ c.otn) ∧
    (∃ (s : State) (q : PendCmd), s.otinvDue = some q) ∧
    (∃ (s : State) (ws : List DWord) (t : State), Idle s ∧ s.mbox.head? = some ws ∧ cmdOp ws = 0x10 ∧ (popped s).load ws = .done t) ∧
    (∃ (s : State) (ws : List DWord) (c : Context) (o : CodeObj), Takes s 0x11 (formOf 0x11) ws ∧ s.ctx? (cmdCtx ws) = some c ∧
      c.objs.find? (fun o => o.id == cmdWord ws 4 && o.unload.isNone) = some o ∧ globalsUsed c o = false) ∧
    (∃ (s : State) (a t : Nat), s.unmapDue 0 1 = some (a, t) ∧ s.unmapBank 0 1 = none) ∧ (∃ (s : State) (ws : List DWord), Takes s 0x20 (formOf 0x20) ws) ∧
    (∃ (s : State) (k : Nat) (o : Preempt), tget s.preempts k = some o ∧ s.gatingDue o = true ∧ o.results = [] ∧ s.posted = [] ∧
      ∀ x ∈ s.posted, s.peerDown x.2.flat = false) := by
  refine ⟨⟨mailed (cmd 0x01 1 (dw tableBase) 1) (tableOf 6), cmd 0x01 1 (dw tableBase) 1, arena, takes ?_ ?_ ?_, ?_, ?_, ?_, ?_, ?_, ?_, ?_, ?_, ?_⟩,
    ⟨mailed (cmd 0x02 0), cmd 0x02 0, takes ?_ ?_ ?_⟩, ⟨pends (cmd 0x02 0), _, rfl, ?_⟩,
    ⟨mailed (cmd 0x03 0 0 0 0 0 2048), cmd 0x03 0 0 0 0 0 2048, takes ?_ ?_ ?_, ?_⟩, ⟨pends (cmd 0x03 0), _, rfl⟩,
    ⟨mailed (cmd 0x04 0 0 0 0 0 16) (tableOf 1), cmd 0x04 0 0 0 0 0 16, plainEntry, 0, takes ?_ ?_ ?_, ?_, ?_, ?_, ?_, ?_, rfl⟩,
    ⟨mailed (cmd 0x05 0 0 1), cmd 0x05 0 0 1, placedContext, takes ?_ ?_ ?_, ?_, ?_, rfl, ?_⟩, ⟨pends (cmd 0x05 0), _, rfl⟩,
    ⟨mailed (cmd 0x10 1), cmd 0x10 1, _, mailed_idle placed_keeps, rfl, ?_, rfl⟩, ⟨mailed (cmd 0x11 0 1), cmd 0x11 0 1, placedContext, placedObject, takes ?_ ?_ ?_, rfl, ?_, ?_⟩,
    ⟨dying, 0, 5, rfl, ?_⟩, ⟨mailed (cmd 0x20 0 1), cmd 0x20 0 1, takes ?_ ?_ ?_⟩,
    ⟨{ mailed [] with preempts := [(3, ⟨0, [], [], false, false, []⟩)] }, 3, _, rfl, ?_, rfl, rfl, fun _ h => by cases h⟩⟩
  all_goals decide +kernel

/-- A command of the debugger for the group of crew 0, which is parked on its trap. -/
def debugging (op : Nat) (w4 w5 w6 w7 : DWord := 0) : State := mailed (cmd op 0 w4 w5 w6 w7) (tableOf 1) debugged grpTrapped
theorem witness_DebugCommands :
    (∃ (s : State) (ws : List DWord), Takes s 0x30 (formOf 0x30) ws) ∧ (∃ (s : State) (ws : List DWord), Takes s 0x31 (formOf 0x31) ws) ∧
    (∀ x ∈ commandForms, 0x32 ≤ x.2.1 → x.2.1 ≤ 0x37 → ∃ (s : State) (ws : List DWord), s.debugs (cmdCtx ws) = false ∧ Takes s x.2.1 (formOf x.2.1) ws) ∧
    (∃ (s : State) (ws : List DWord) (k : Nat) (c : Crew), s.debugs (cmdCtx ws) = true ∧ Takes s 0x32 (formOf 0x32) ws ∧
      (popped s).findCrew (cmdCtx ws) (cmdWord ws 4) (cmdWord ws 5) = .here k c ∧ c.gated = false) ∧
    (∀ op ∈ [0x33, 0x34, 0x35], ∃ (s : State) (ws : List DWord) (x : Seen), s.debugs (cmdCtx ws) = true ∧ (popped s).findGroup (cmdCtx ws) ws = some x ∧ x.saved = none ∧
      x.state = popped s ∧ (x.gr.stop = .trapped ∨ x.gr.stop = .halted) ∧ Takes s op (formOf op) ws) ∧
    (∃ (s : State) (ws : List DWord), s.debugs (cmdCtx ws) = true ∧ Takes s 0x36 (formOf 0x36) ws ∧ (popped s).findGroup (cmdCtx ws) ws = none ∧
      (popped s).stopRetired ws = false) ∧
    (∃ (s : State) (ws : List DWord), s.debugs (cmdCtx ws) = true ∧ Takes s 0x37 (formOf 0x37) ws ∧ (cmdWord ws 4).testBit 8 = true ∧ 1 ≤ cmdWord ws 7 ∧
      cmdWord ws 7 ≤ 2 ^ 40 ∧ (popped s).watchable (cmdCtx ws) (cmdWord ws 5) = true) ∧
    (∃ (s : State) (ws : List DWord) (e : Entry), Takes s 0x38 (formOf 0x38) ws ∧ cmdWord ws 5 % 4096 = 0 ∧ 4096 ≤ cmdWord ws 5 ∧
      cmdWord ws 5 ≤ 2 ^ 32 ∧ (popped s).mintEntry ws = some e) := by
  refine ⟨⟨mailed (cmd 0x30 0), cmd 0x30 0, takes ?_ ?_ ?_⟩, ⟨mailed (cmd 0x31 0), cmd 0x31 0, takes ?_ ?_ ?_⟩, fun x h h1 h2 => ?_,
    ⟨debugging 0x32, cmd 0x32 0, 0, placedCrew, rfl, takes ?_ ?_ ?_, rfl, rfl⟩, fun op h => ?_,
    ⟨debugging 0x36 1, cmd 0x36 0 1, rfl, takes ?_ ?_ ?_, rfl, ?_⟩, ⟨debugging 0x37 0x107 0 0 (2 ^ 40), cmd 0x37 0 0x107 0 0 (2 ^ 40), rfl, takes ?_ ?_ ?_, ?_, ?_, ?_, ?_⟩,
    ⟨mailed (cmd 0x38 0 0 4096) (tableOf 1), cmd 0x38 0 0 4096, plainEntry, takes ?_ ?_ ?_, ?_, ?_, ?_, ?_⟩⟩
  case refine_7 =>
    have e : cmdOp (cmd x.2.1 0) = x.2.1 ∧ (formOf x.2.1).reserved (cmd x.2.1 0) = false ∧ cmdCtx (cmd x.2.1 0) = 0 := by revert x; decide +kernel
    exact ⟨mailed (cmd x.2.1 0), _, by rw [e.2.2]; rfl, takes e.1 e.2.1 fun _ => by rw [e.2.2]; rfl⟩
  case refine_11 =>
    simp only [List.mem_cons, List.not_mem_nil, or_false] at h
    rcases h with rfl | rfl | rfl
    · exact ⟨debugging 0x33, cmd 0x33 0, _, rfl, rfl, rfl, rfl, .inl rfl, takes (by decide +kernel) (by decide +kernel) (by decide +kernel)⟩
    · exact ⟨debugging 0x34, cmd 0x34 0, _, rfl, rfl, rfl, rfl, .inl rfl, takes (by decide +kernel) (by decide +kernel) (by decide +kernel)⟩
    · exact ⟨debugging 0x35, cmd 0x35 0, _, rfl, rfl, rfl, rfl, .inl rfl, takes (by decide +kernel) (by decide +kernel) (by decide +kernel)⟩
  all_goals decide +kernel

/-! ### Recovery, the board, the step -/

/-- A device with as many frames in its recovery pool as a point needs. -/
def supplied (s : State) : State := { s with recFree := List.replicate s.pointNeed 0 }
theorem supplied_frames (s : State) : (supplied s).pointNeed ≤ (supplied s).recFree.length :=
  (show s.pointNeed ≤ (List.replicate s.pointNeed 0).length by rw [List.length_replicate])
/-- A point of an empty device. -/
def pointed : State := { State.reset with point := some (Dev.reset, 0, []) }
theorem witness_RecoverySteps :
    (∃ (s : State) (ws : List DWord), Takes s 0x21 (formOf 0x21) ws ∧ s.taking = none ∧ s.pointNeed ≤ s.recFree.length) ∧
    (∃ (s : State) (ws : List DWord), Takes s 0x21 (formOf 0x21) ws ∧ s.taking = some []) ∧
    (∃ (s : State) (ws : List DWord), Takes s 0x21 (formOf 0x21) ws ∧ s.taking = none ∧ s.recFree.length < s.pointNeed) ∧
    (∃ s : State, s.rpint ≠ 0 ∧ s.rpNext ≤ s.clock ∧ s.taking = none ∧ s.pointNeed ≤ s.recFree.length) ∧
    (∃ (s : State) (rs : List (Nat × Nat)), s.taking = some rs ∧ s.gatingOrders = [] ∧ s.refresh = [] ∧ s.pointNeed ≤ s.recFree.length) ∧
    (∃ (s : State) (u : Nat), storesState u = true ∧ s.point = none) ∧
    (∀ t ∈ [9, 10], ∃ (s : State) (u : Nat) (d : Dev) (k : Nat) (fs : List Nat), storesState u = true ∧ s.point = some (d, k, fs) ∧ unitType u = t) ∧
    (∃ (s : State) (u : Nat), countsErrors u = true ∧ s.wornThr < ((s.corrected.filter fun x => x.1 == u && decide (s.clock < x.2 + 2 ^ 36)).length) + 1) := by
  refine ⟨⟨supplied (mailed (cmd 0x21 0)), cmd 0x21 0, ⟨idle rfl rfl placed_keeps rfl (fun _ h => by cases h), unheld rfl, rfl, ?_, ?_, ?_⟩, rfl, supplied_frames _⟩,
    ⟨{ mailed (cmd 0x21 0) with taking := some [] }, cmd 0x21 0, ⟨idle rfl rfl placed_keeps rfl (fun _ h => by cases h; rfl), unheld rfl, rfl, ?_, ?_, ?_⟩, rfl⟩,
    ⟨mailed (cmd 0x21 0), cmd 0x21 0, takes ?_ ?_ ?_, rfl, ?_⟩, ⟨supplied { State.reset with rpint := 1 }, ?_, ?_, rfl, supplied_frames _⟩,
    ⟨supplied { State.reset with taking := some [(0, 5)] }, [(0, 5)], rfl, rfl, rfl, supplied_frames _⟩, ⟨State.reset, 9 * 256 + 7, ?_, rfl⟩, fun t h => ?_,
    ⟨{ State.reset with corrected := List.replicate 16 (0x300, 0) }, 0x300, ?_, ?_⟩⟩
  case refine_10 =>
    show 0 < (changedFrames [] []).length + sramFrames + Config.pointFrames 0
    have : 0 < sramFrames := by decide
    omega
  case refine_14 =>
    simp only [List.mem_cons, List.not_mem_nil, or_false] at h
    rcases h with rfl | rfl
    · exact ⟨pointed, 9 * 256, Dev.reset, 0, [], by decide, rfl, by decide⟩
    · exact ⟨pointed, 10 * 256, Dev.reset, 0, [], by decide, rfl, by decide⟩
  all_goals decide +kernel

def reporting (prod : Nat) : State := { State.reset with ready := true, ring := some ⟨0, 16, 0x1000, prod, 0⟩, reports := [List.replicate 8 0] }
/-- Object 0 is a peer's, whose traffic takes port 11; an access of it stands at its port; the address of a thread's store. -/
def railEntry : Entry := ⟨5 * 2 ^ 60 + 0x7F * 2 ^ 52 + 2 ^ 40 + 65535, 0, 0, 0⟩
def railMem : List Host.Cell := mputs [] tableBase (leBytes railEntry.w0 8)
def railAcc : Access := { accOf stP with kind := 5, stage := .toPort }
def railed (a : Nat) : State := { stP with mem := railMem, routes := [(0, 2 ^ 11)], accs := [(1, railAcc)], posted := [(3, { aPosted with flat := a })] }
theorem rail_entry : entryAt railMem placedContext 0 = some railEntry := by decide +kernel
theorem rail_port (a f : Nat) (h : (f - peerBase) / 2 ^ 73 = 0) : (railed a).railPort f = some 11 := by
  have p : (railed a).portsUp 0 = [11] := by
    show ((List.range 12).filter fun p => (2 ^ 11).testBit p && !([] : List Nat).contains p) = [11]
    decide
  simp only [State.railPort, h, p, List.length_singleton, Nat.mod_one]; rfl
theorem railed_port (a : Nat) : (railed a).portTaken railAcc = some 11 := by
  have f : (railed a).portTaken railAcc = match entryAt railMem placedContext 0 with
    | none => none
    | some e => if e.kind = 5 then (railed a).railPort (objFlat railMem e 0x1010) else none := by rfl
  rw [f, rail_entry]
  exact (if_pos (by decide)).trans (rail_port a _ (by decide +kernel))
theorem railed_free {a : Nat} (ha : a ∈ [64, peerBase]) :
    (∀ x ∈ (railed a).posted, peerBase ≤ x.2.flat → (railed a).railPort x.2.flat ≠ some 11) ↔ a = 64 := by
  have low : ¬ peerBase ≤ 64 := by decide
  have : (∀ x ∈ (railed a).posted, peerBase ≤ x.2.flat → (railed a).railPort x.2.flat ≠ some 11) ↔ (peerBase ≤ a → (railed a).railPort a ≠ some 11) :=
    ⟨fun h => h _ (List.mem_cons_self ..), fun h x hx => by cases List.mem_singleton.mp hx; exact h⟩
  rw [this]
  simp only [List.mem_cons, List.not_mem_nil, or_false] at ha
  rcases ha with rfl | rfl
  · exact ⟨fun _ => rfl, fun _ h => absurd h low⟩
  · exact ⟨fun h => absurd (rail_port peerBase peerBase (by decide)) (h (Nat.le_refl _)), fun h => absurd h (by decide)⟩
/-- A refresh of a bank of the fast tier, with an access and an admitted store there. -/
def refreshed : State :=
  { State.reset with refresh := [(0, Config.bankOf 64)], accs := [(1, { anAccess with flats := [64] })], posted := [(3, aPosted)] }
theorem refreshed_bank : refreshed.heldBank 64 = some (0, Config.bankOf 64) := by
  have b : bankAt 64 = some (0, Config.bankOf 64) := rfl
  simp [State.heldBank, b, Option.filter, show refreshed.refresh = [(0, Config.bankOf 64)] from rfl]
theorem refreshed_access : refreshed.holdsAt (0, Config.bankOf 64) { anAccess with flats := [64] } = true := by
  show (true && refreshed.heldBank 64 == _) = true
  rw [refreshed_bank]; exact beq_self_eq_true _
def imported : State := { kept (byGroup grp1 []) with imports := [(5, 9, 0, 0)] }
theorem witness_BoardSteps :
    (State.reset.ready = false ∧ State.reset.bootFail = 0 ∧ (failingStep = 0 ∨ failingStep ≠ 0)) ∧
    (∃ (s : State) (a : Nat) (bs : List Byte), bs ≠ [] ∧ a + bs.length ≤ capBase ∧ (∀ x, a ≤ x → x < a + bs.length → s.bankHeld x = false) ∧ memWf s.mem = true ∧
      ∃ k, a / 16 ≤ k ∧ k ≤ (a + bs.length - 1) / 16) ∧
    (∃ (s : State) (v h : Nat) (bs : List Byte), bs ≠ [] ∧ s.importOf v h = none) ∧
    (∃ (s : State) (v h o : Nat) (bs : List Byte) (ctx k : Nat) (c : Context) (e : Entry) (fs : List Nat), bs ≠ [] ∧ s.importOf v h = some (ctx, k) ∧ s.ctx? ctx = some c ∧
      entryAt s.mem c k = some e ∧ s.objectBank ctx k o bs.length = none ∧ s.portEntry 0 ctx k e.kind 2 o bs.length = (s, some e) ∧ peerPlace s.mem e 2 o bs.length = .at_ fs ∧
      (∀ f ∈ fs, s.bankHeld f = false) ∧ s.watchHits ctx k o bs.length true = []) ∧
    (∀ a ∈ [64, peerBase], ∃ (s : State) (p n : Nat) (x : Access), p < 12 ∧ s.railDown.contains p = false ∧ s.posted ≠ [] ∧
      ((∀ x ∈ s.posted, peerBase ≤ x.2.flat → s.railPort x.2.flat ≠ some p) ↔ a = 64) ∧ tget s.accs n = some x ∧ x.stage = .toPort ∧
      x.kind = 5 ∧ s.portTaken x = some p) ∧
    (∃ (s : State) (p : Nat), s.railDown.contains p = true) ∧
    (∃ (s : State) (r : EvRing) (ws : List DWord) (q : List (List DWord)), s.ring = some r ∧ s.reports = ws :: q ∧ ws.length = 8 ∧ r.used < r.n ∧ memWf s.mem = true ∧
      hostBase + r.rbase + 64 * (r.prod % r.n) + 64 ≤ hostBase + r.cbase + 8) ∧
    (∃ (s : State) (r : EvRing), s.ring = some r ∧ s.reports ≠ [] ∧ r.n ≤ r.used) ∧
    (∃ (s : State) (c b : Nat) (w : Waiter), s.refresh.contains (c, b) = true ∧ (c, b, w) ∈ s.bankQueue) ∧
    (∃ (s : State) (b : Nat × Nat), (∀ x ∈ s.accs, ∀ y ∈ s.posted, x.1 ≠ y.1) ∧ (∃ n a, (n, a) ∈ s.accs ∧ s.holdsAt b a = true) ∧
      ∃ n q, (n, q) ∈ s.posted ∧ s.heldBank q.flat = some b ∧ s.inBank (.posted n) = false) ∧
    (∃ (s : State) (d k : Nat), d < 4 ∧ s.islands.length = 24 ∧ (105 < k ∨ (s.hot.contains d = true ∧ 100 ≤ k))) ∧
    (∃ (s : State) (d k : Nat), d < 4 ∧ s.hot.contains d = true ∧ k < 100) ∧ (∃ (s : State) (d k : Nat), d < 4 ∧ 115 < k ∧ s.critical.contains d = false) ∧
    (∃ (s : State) (d k : Nat), s.critical.contains d = true ∧ k < 95) := by
  refine ⟨⟨rfl, rfl, Classical.em _⟩, ⟨State.reset, capBase - 1, [7], ?_, ?_, fun x _ _ => by simp [State.bankHeld, State.heldBank, State.reset, Option.filter]; split <;> rfl, rfl, (capBase - 1) / 16, ?_, ?_⟩, ⟨State.reset, 5, 9, [7], ?_, rfl⟩,
    ⟨imported, 5, 9, 0x1000, [7], 0, 0, placedContext, arena, [0x1000], ?_, rfl, rfl, ?_, rfl, portEntry_kept (c := placedContext) rfl ?_ rfl ?_ rfl, ?_, fun f h => ?_, rfl⟩,
    fun a ha => ⟨railed a, 11, 1, railAcc, by decide, rfl, List.cons_ne_nil _ _, railed_free ha, rfl, rfl, rfl, railed_port a⟩,
    ⟨{ State.reset with railDown := [0] }, 0, rfl⟩, ⟨reporting 15, _, _, _, rfl, rfl, rfl, ?_, rfl, ?_⟩, ⟨reporting 16, _, rfl, ?_, ?_⟩,
    ⟨{ State.reset with refresh := [(55, 31)], bankQueue := [(55, 31, .access 1)] }, 55, 31, .access 1, rfl, List.mem_cons_self ..⟩,
    ⟨refreshed, (0, Config.bankOf 64), by decide, ⟨1, _, List.mem_cons_self .., refreshed_access⟩, 3, _, List.mem_cons_self .., refreshed_bank, rfl⟩, ⟨State.reset, 3, 106, ?_, rfl, ?_⟩, ⟨{ State.reset with hot := [3] }, 3, 99, ?_, rfl, ?_⟩,
    ⟨State.reset, 3, 116, ?_, ?_, rfl⟩, ⟨{ State.reset with critical := [3] }, 3, 94, rfl, ?_⟩⟩
  all_goals first
    | (cases List.mem_singleton.mp h; rfl)
    | decide

/-- The device carries out a command of the row with this index. -/
def Carried (l : State → List DWord → List (Instr × Nat × Prop)) (i : Nat) : Prop :=
  ∃ (s : State) (ws : List DWord) (x : Instr × Nat × Prop), (l s ws)[i]? = some x ∧ memWf s.mem = true ∧
    Takes s x.2.1 (formOf x.2.1) ws ∧ x.2.2
theorem carried (ws : List DWord) (m : List Host.Cell) (c : Context) {l : State → List DWord → List (Instr × Nat × Prop)} {i op : Nat}
    {j : Instr} {p : Prop} (hx : (l (mailed ws m c grpTrapped) ws)[i]? = some (j, op, p)) (hm : memWf m = true) (ho : cmdOp ws = op)
    (hf : (formOf op).reserved ws = false) (hc : (formOf op).names = .created → ((mailed ws m c grpTrapped).ctx? (cmdCtx ws)).isSome = true) (hp : p)
    (hu : Keeps c := by first | exact placed_keeps | exact debugged_keeps) : Carried l i := ⟨mailed ws m c grpTrapped, ws, _, hx, hm, takes ho hf hc hu, hp⟩
/-- The same for a command without a context to be made. -/
theorem plainly (ws : List DWord) (m : List Host.Cell := []) (c : Context := placedContext) {l : State → List DWord → List (Instr × Nat × Prop)} {i op : Nat}
    {j : Instr} {p : Prop} (hx : (l (mailed ws m c grpTrapped) ws)[i]? = some (j, op, p))
    (hd : (memWf m && cmdOp ws == op && !(formOf op).reserved ws && ((mailed ws m c grpTrapped).ctx? (cmdCtx ws)).isSome) = true) (hp : p)
    (hu : Keeps c := by first | exact placed_keeps | exact debugged_keeps) : Carried l i := by
  simp only [Bool.and_eq_true, beq_iff_eq, Bool.not_eq_true'] at hd
  exact carried ws m c hx hd.1.1.1 hd.1.1.2 hd.1.2 (fun _ => hd.2) hp hu
/-- Every row of the two lists is met. -/
theorem witness_EveryStepCompletes_prompt : Carried prompt 0 ∧ Carried prompt 1 ∧ Carried prompt 2 ∧ Carried prompt 3 ∧ Carried prompt 4 ∧ Carried prompt 5 ∧ Carried prompt 6 ∧
    Carried prompt 7 ∧ Carried prompt 8 ∧ Carried prompt 9 ∧ Carried prompt 10 ∧ Carried prompt 11 ∧ Carried prompt 12 ∧ Carried prompt 13 ∧ Carried prompt 14 ∧
    Carried prompt 15 ∧ Carried prompt 16 ∧ Carried prompt 17 ∧ Carried prompt 18 :=
  ⟨plainly (cmd 0x06 0) (hx := rfl) (hd := by decide) (hp := trivial), plainly (cmd 0x22 0) (hx := rfl) (hd := by decide) (hp := trivial),
   plainly (cmd 0x23 0 1) (hx := rfl) (hd := by decide) (hp := by decide), plainly (cmd 0x28 0) (hx := rfl) (hd := by decide) (hp := trivial),
   plainly (cmd 0x30 0) (hx := rfl) (hd := by decide) (hp := trivial), plainly (cmd 0x31 0) (hx := rfl) (hd := by decide) (hp := trivial),
   plainly (cmd 0x39 0 0x1000000) (hx := rfl) (hd := by decide) (hp := by decide), plainly (cmd 0x29 0 0 0 0 0 320) (hx := rfl) (hd := by decide +kernel) (hp := by decide +kernel),
   carried (cmd 0x01 1 (dw tableBase) 1) (tableOf 6) placedContext rfl (by decide) (by decide) (by decide) (fun h => absurd h (by decide)) (by decide +kernel),
   plainly (cmd 0x12 0) (hx := rfl) (hd := by decide) (hp := by decide), plainly (cmd 0x24 0 1) (hx := rfl) (hd := by decide) (hp := ⟨by decide, fun f h => absurd h (List.not_mem_nil (a := f))⟩),
   plainly (cmd 0x25 0 64 0x10000) (hx := rfl) (hd := by decide) (hp := by decide), plainly (cmd 0x26 0 23 2) (hx := rfl) (hd := by decide) (hp := by decide),
   plainly (cmd 0x27 0 1) (hx := rfl) (hd := by decide) (hp := .inr (by decide)), 
   plainly (cmd 0x33 0) [] debugged (hx := rfl) (hd := by decide) (hp := ⟨rfl, _, rfl, .inl rfl⟩), plainly (cmd 0x34 0) [] debugged (hx := rfl) (hd := by decide) (hp := ⟨rfl, _, rfl, .inl rfl⟩),
   plainly (cmd 0x35 0) [] debugged (hx := rfl) (hd := by decide) (hp := ⟨rfl, _, rfl, .inl rfl⟩), plainly (cmd 0x36 0 1) [] debugged (hx := rfl) (hd := by decide) (hp := ⟨rfl, rfl⟩),
   plainly (cmd 0x37 0 0x107 0 0 (2 ^ 40)) (tableOf 1) debugged (hx := rfl) (hd := by decide) (hp := by decide)⟩
theorem witness_EveryStepCompletes_lasting : Carried lasting 0 ∧ Carried lasting 1 ∧ Carried lasting 2 ∧ Carried lasting 3 ∧ Carried lasting 4 ∧ Carried lasting 5 ∧ Carried lasting 6 ∧
    Carried lasting 7 ∧ Carried lasting 8 ∧ Carried lasting 9 :=
  ⟨plainly (cmd 0x02 0) (hx := rfl) (hd := by decide) (hp := trivial), plainly (cmd 0x03 0 0 0 0 0 2048) (hx := rfl) (hd := by decide) (hp := by decide +kernel),
   plainly (cmd 0x04 0 0 0 0 0 16) (tableOf 1) (hx := rfl) (hd := by decide) (hp := ⟨by decide, by decide, by decide, by decide, plainEntry, by decide, by decide⟩),
   plainly (cmd 0x05 0 0 1) (hx := rfl) (hd := by decide) (hp := ⟨by decide, by decide, _, rfl, by decide⟩),
   plainly (cmd 0x11 0 1) (hx := rfl) (hd := by decide) (hp := ⟨placedContext, placedObject, rfl, by decide +kernel, by decide +kernel⟩),
   plainly (cmd 0x20 0 1) (hx := rfl) (hd := by decide) (hp := trivial),
   ⟨{ mailed (cmd 0x21 0) with taking := some [] }, cmd 0x21 0, _, rfl, by decide, ⟨idle rfl rfl placed_keeps rfl (fun _ h => by cases h; rfl), unheld rfl, rfl, by decide, by decide, by decide⟩, .inl rfl⟩,
   plainly (cmd 0x26 0 0 3) (hx := rfl) (hd := by decide) (hp := by decide), plainly (cmd 0x32 0) [] debugged (hx := rfl) (hd := by decide) (hp := ⟨rfl, by decide⟩),
   plainly (cmd 0x38 0 0 4096) (tableOf 1) (hx := rfl) (hd := by decide) (hp := by decide)⟩

theorem witness_EveryStepCompletes :
    (∃ slot ws, slot < 64 ∧ List.length (α := DWord) ws = 8 ∧ (launches waits).ready = true) ∧
    (∃ off bs, off < 0x4040 ∧ 0x4000 < off + List.length (α := Byte) bs) ∧ (∃ off bs, bs ≠ ([] : List Byte) ∧ barWrite off bs.length = false) ∧
    (∃ (s : State) (ws : List DWord), Idle s ∧ s.mbox.head? = some ws ∧ cmdOp ws = 0x10) ∧ (∃ s, (State.loadDue s).isSome = true) ∧
    ((∃ s n, (State.recipeDue s n).isSome = true) ∧ (∃ s, (State.otinvDue s).isSome = true) ∧ (∃ s n m, (State.unmapDue s n m).isSome = true ∧ s.unmapBank n m = none) ∧
      ∃ s : State, ∃ n o, tget s.preempts n = some o ∧ s.gatingDue o = true) ∧
    ((∃ s n l, State.launch? s n = some l ∧ (s.admitted n).isSome = true) ∧ (∃ s n l, State.launch? s n = some l ∧ s.riseDue l = true) ∧
      (∃ s n l, State.launch? s n = some l ∧ l.over = true) ∧ ∃ s n l, State.launch? s n = some l ∧ s.commitDue n l = true ∧ (s.nextBuffer n (l.head + 1)).findSome? (fun e => s.rangeBank e.addr e.size) = none) ∧
    ((∃ s n r, (State.slot s n).record = some r ∧ (let l := launchFrom r (fld ((r[0]?).getD 0).toNat 51 40) 0 s.clock
      s.recordAway l = [] ∧ s.capBank l = none)) ∧
      ∃ s n th r q, State.thread? s n = some th ∧ th.dlq = r :: q ∧ (let l := launchFrom r.words th.ctx (n + 1) r.since
        s.recordAway l = [] ∧ s.capBank l = none)) ∧
    ((∃ s g gr, State.group? s g = some gr ∧ s.ageDue g gr = true) ∧ (∃ s g gr, State.group? s g = some gr ∧ s.recordDue g gr = true) ∧
      (∃ s g gr, State.group? s g = some gr ∧ s.siblingDue g gr = true) ∧ (∃ s g gr, State.group? s g = some gr ∧ s.preciseDue g gr = true) ∧
      (∃ s g gr, State.group? s g = some gr ∧ s.fenceDue gr = true) ∧ (∃ s g gr, State.group? s g = some gr ∧ s.sinvDue gr = true ∧ (s.ctx? gr.ctx).isSome = true) ∧
      (∃ s g gr, State.group? s g = some gr ∧ s.refetchDue gr = true) ∧ (∃ s g gr, State.group? s g = some gr ∧ gr.metDue = true) ∧
      (∃ s g gr, State.group? s g = some gr ∧ s.enterDue gr = true) ∧ ∃ s g gr, State.group? s g = some gr ∧ s.retireDue g gr = true) ∧
    ((∃ s k site, State.siteDue s k site = true) ∧ ∃ s k, State.haltEventDue s k = true) ∧
    ((∃ s : State, ∃ n a, tget s.accs n = some a ∧ s.claimDue a = true ∧ s.givesWay a = false) ∧ (∃ s : State, ∃ n a, tget s.accs n = some a ∧ s.answerDue a = true) ∧
      (∃ s : State, ∃ n a, tget s.accs n = some a ∧ s.urgencyDue a = true) ∧
      (∃ s : State, ∃ n a c w k, tget s.accs n = some a ∧ s.arrivalDue a = true ∧ s.opKind a.op = .arrive c w k) ∧
      ∃ s : State, ∃ n a e flat, tget s.accs n = some a ∧ s.portDue n a = true ∧ s.givesWay a = false ∧ Lets s a e flat) ∧
    ((∃ s : State, ∃ n e, tget s.waits n = some e ∧ s.migrationDue e = true ∧ s.migrationBank e = none) ∧ ∃ s : State, ∃ n e, tget s.waits n = some e ∧ e.migrated = true) ∧
    (∃ s : State, ∃ n c, tget s.claims n = some c ∧ s.scrubbed c ≠ c) ∧
    ((∃ s : State, ∃ n c, tget s.cmds n = some c ∧ s.qfenceDue n c = true) ∧ ∃ s : State, ∃ n c, tget s.cmds n = some c ∧ s.completionDue n c = true ∧ c.cm = 0) ∧
    (∃ s core e, State.engineNext s core s.engine [] = some e ∧ (s.crew? e.crew).isSome = true) ∧
    ((∃ s n th, State.thread? s n = some th ∧ th.placeDue = true) ∧ (∃ s n th, State.thread? s n = some th ∧ th.wakeDue = true) ∧
      (∃ s n th, State.thread? s n = some th ∧ th.timeoutDue s.clock = true) ∧ (∃ s n th, State.thread? s n = some th ∧ s.unblockDue th = true) ∧
      ∃ s n th, State.thread? s n = some th ∧ s.watchdogDue th = true) ∧
    ((∃ s, State.pointTimerDue s = true) ∧ (∃ s, State.commitPointDue s = true) ∧ (∃ s, State.ringWriteDue s = true) ∧ (∃ s, State.ringPollDue s = true) ∧
      (∃ u, storesState u = true) ∧ ∃ u, countsErrors u = true) ∧
    (State.reset.ready = false ∧ State.reset.bootFail = 0) ∧ (∃ a bs, bs ≠ ([] : List Byte) ∧ a + bs.length ≤ capBase) ∧
    ((∃ s : State, ∃ p, p < 12 ∧ s.railDown.contains p = false) ∧ (∃ s : State, ∃ p, s.railDown.contains p = true) ∧
      ∃ s : State, ∃ c b, s.refresh.contains (c, b) = true) ∧
    ((∃ s : State, ∃ d k, d < 4 ∧ (105 < k ∨ s.hot.contains d = true)) ∧ (∃ s : State, ∃ d k, d < 4 ∧ 115 < k ∧ s.critical.contains d = false) ∧
      ∃ s : State, ∃ d k, d < 4 ∧ s.critical.contains d = true ∧ k < 95) := by
  refine ⟨⟨63, List.replicate 8 0, by decide, rfl, rfl⟩, ⟨0x403F, [1], by decide, by decide⟩, ⟨0x4048, [1], by decide, by decide⟩,
    ⟨mailed (cmd 0x10 1), cmd 0x10 1, mailed_idle placed_keeps, rfl, by decide⟩, ⟨pends (cmd 0x10 1), rfl⟩,
    ⟨⟨pends (cmd 0x03 0), 0, rfl⟩, ⟨pends (cmd 0x05 0), rfl⟩, ⟨dying, 0, 1, rfl, by decide +kernel⟩, ⟨{ mailed [] with preempts := [(3, ⟨0, [], [], false, false, []⟩)] }, 3, _, rfl, by decide⟩⟩,
    ⟨⟨launches waits, 0, waits, rfl, admits⟩, ⟨{ launches waits with clock := 2 ^ 24 }, 0, waits, rfl, by decide⟩, ⟨launches { waits with next := 1, retired := 1 }, 0, _, rfl, by decide⟩,
      ⟨{ byDeterm (grp []) with crews := [(0, { placedCrew with groups := [] })] }, 0, _, rfl, by decide, rfl⟩⟩,
    ⟨⟨{ launches waits with slots := [(63, ⟨none, some placedRecord, false, false⟩)] }, 63, _, rfl, by decide +kernel⟩,
      ⟨byThread (thrL 1), 0, _, _, _, rfl, rfl, by decide +kernel⟩⟩,
    ⟨⟨{ oneGroup { grp1 with ready := some 0 } with clock := 4096, stops := [] }, 0, _, by rfl, by decide⟩,
      ⟨oneGroup { grp1 with stop := .trapping, trap := some undefTrap }, 0, _, by rfl, by decide⟩, ⟨oneGroup { grp1 with stop := .halting }, 0, _, by rfl, by decide⟩,
      ⟨oneGroup { grp1 with rwcount := 5 }, 0, _, by rfl, by decide⟩, ⟨oneGroup { grp1 with wait := .fence [] [] true true }, 0, _, by rfl, by decide⟩,
      ⟨oneGroup { grp1 with wait := .sinv [] [] 0 0 4 }, 0, _, by rfl, by decide, by rfl⟩, ⟨oneGroup { grp1 with refetch := true }, 0, _, by rfl, by decide⟩,
      ⟨oneGroup { grp1 with wait := .word 0 0, met := true }, 0, _, by rfl, by decide⟩, ⟨oneGroup { grp1 with wait := .store inBlock0 }, 0, _, by rfl, by decide⟩,
      ⟨oneGroup { grpV [255] 0 [] with code := [], ended := true }, 0, _, by rfl, by decide⟩⟩,
    ⟨⟨oneGroup { grp1 with wait := .fuse 3 1 }, 0, 3, by decide⟩, ⟨{ oneGroup grpTrapped with crews := [(0, halted placedCrew)] }, 0, by decide⟩⟩,
    ⟨⟨atHome stP, 1, _, by rfl, by decide, by rfl⟩, ⟨answeredWith ldP (.value 7 false), 1, _, by rfl, by decide⟩,
      ⟨sent (.ld false 2 0 8 .b32 0) fun s => s.modGroup 0 fun x => { x with marker := true }, 1, _, by rfl, by decide⟩,
      ⟨arrives 1 true 0, 1, _, 1, true, _, by rfl, by decide, by rfl⟩, let ⟨n, s, a, e, flat, ⟨h1, h2, h3, _⟩, h4, _⟩ := witness_PortAccessStep.1
      ⟨s, n, a, e, flat, h1, h2, h3, h4⟩⟩,
    ⟨⟨waiting [9] false, 0, _, by rfl, by decide, by rfl⟩, ⟨waiting [] true, 0, _, by rfl, by rfl⟩⟩, ⟨{ atHome stP with groups := [] }, 0x40, _, by rfl, by decide⟩,
    ⟨⟨copying (copyCmd 5 0), 2, _, rfl, by decide⟩, ⟨copying (copyCmd 0 0 16), 2, _, rfl, by decide, by decide⟩⟩,
    ⟨engaged (.tcfg 3 bf16) none, 0, entryOf (.tcfg 3 bf16) none, by decide, rfl⟩,
    ⟨⟨byThread thrHeld, 0, _, rfl, by decide⟩, ⟨byThread thrWakes, 0, _, rfl, by decide⟩, ⟨byThread thrTimes, 0, _, rfl, by decide⟩,
      ⟨byThread thrBlocked (grpQ true 31 .run), 0, _, rfl, by decide⟩, ⟨{ byThread thrE with clock := 2 ^ 30 }, 0, _, rfl, by decide⟩⟩,
    ⟨⟨{ State.reset with rpint := 1, clock := 2 ^ 40 }, by decide⟩, ⟨{ State.reset with taking := some [] }, by decide⟩, ⟨reporting 15, by decide⟩, ⟨reporting 16, by decide⟩,
      ⟨9 * 256 + 7, by decide⟩, ⟨0x300, by decide⟩⟩,
    ⟨rfl, rfl⟩, ⟨capBase - 1, [7], by decide, by decide⟩,
    ⟨⟨State.reset, 11, by decide, rfl⟩, ⟨{ State.reset with railDown := [0] }, 0, rfl⟩, ⟨{ State.reset with refresh := [(55, 31)] }, 55, 31, rfl⟩⟩,
    ⟨⟨State.reset, 3, 106, by decide, by decide⟩, ⟨State.reset, 3, 116, by decide, by decide, rfl⟩, ⟨{ State.reset with critical := [3] }, 3, 94, by decide, rfl, by decide⟩⟩⟩

/-- A group and a thread about to take a word; a step from outside that stands on the agenda; a device with a command due. -/
def issues1 : State := { byGroup (placedGroup 0x02321400) [] with agenda := [.issue 0] }
def duty : State := { State.reset with ready := true, mbox := [cmd 0x28 0] }
theorem duty_due : duty.due.isEmpty = false := by decide +kernel
theorem witness_StepRunsTheDecodedWord :
    (issues1.bootFail = 0 ∧ ∃ g r gr q gr1 i, issues1.agenda = .issue g :: r ∧ issues1.group? g = some gr ∧
      { issues1 with agenda := r }.raiseDue gr = false ∧ gr.nextWord = some (q, gr1) ∧ decode q.word.toNat = .ok i) ∧
    (∃ (s : State) (g : Nat) (r : List Move) (gr : Group), s.bootFail = 0 ∧ s.agenda = .issue g :: r ∧ s.group? g = some gr ∧ { s with agenda := r }.raiseDue gr = true) ∧
    (∃ (s : State) (m : Move) (r : List Move), s.bootFail = 0 ∧ s.agenda = m :: r ∧ { s with agenda := r }.flowHeld m = true) ∧
    (∃ s t r th c p f i, State.bootFail s = 0 ∧ s.agenda = .fetch t :: r ∧ Fetches { s with agenda := r } t th c p f ∧
      decode (BitVec.ofNat 32 (mnat s.mem f 4) : Word).toNat = .ok i) ∧
    (∃ (s : State) (i : Instr) (r : List Move), s.bootFail = 0 ∧ s.agenda = .run i :: r ∧ { s with agenda := r }.flowHeld (.run i) = false) ∧
    (∃ (s : State) (k : Nat) (a : Access) (e : Nat) (r : List Move), s.bootFail = 0 ∧ s.agenda = .present e (.access k) :: r ∧ tget s.accs k = some a ∧
      a.stage = .parked e) ∧ (State.reset.bootFail = 0 ∧ State.reset.agenda = [] ∧ State.reset.ready = false) ∧
    (duty.bootFail = 0 ∧ duty.agenda = [] ∧ duty.ready = true ∧ duty.due ≠ []) ∧ (∃ w i, w < 2 ^ 32 ∧ decode w = .ok i) := by
  refine ⟨⟨rfl, 0, [], placedGroup 0x02321400, ⟨0x02321400, _⟩, _, .add false 3 4 5, rfl, rfl, by decide, rfl, ?_⟩,
    ⟨{ issues1 with groups := [(0, { grp1 with stacked := [undefTrap] })] }, 0, [], { grp1 with stacked := [undefTrap] }, rfl, rfl, rfl, by decide⟩,
    ⟨{ State.reset with agenda := [.run (.hostMemWrite 0 [1])], heldIn := [.run (.hostMemWrite 0 [1])] }, _, [], rfl, rfl, by decide⟩,
    ⟨fetching 0x0C1FFFFC, 0, [], _, placedContext, _, 0, .jal false 1 0xFFFFC, rfl, rfl, fetches _ (by decide) (by decide) (by decide), by decide⟩,
    ⟨{ State.reset with agenda := [.run (.railPortDown 0)] }, .railPortDown 0, [], rfl, rfl, by decide⟩, ⟨{ stP with agenda := [.present 9 (.access 1)], accs := [(1, { anAccess with stage := .parked 9 })] }, 1, _, 9, [], rfl, rfl, rfl, rfl⟩, ⟨rfl, rfl, rfl⟩,
    ⟨rfl, rfl, rfl, fun h => ?_⟩, ⟨0x02321400, .add false 3 4 5, ?_, ?_⟩⟩
  case refine_2 => exact absurd duty_due (by rw [h]; exact Bool.noConfusion)
  all_goals decide

theorem witness_DecodeOfEncode : ∃ (i : Instr) (w : Nat), i.wellFormed = true ∧ encode i = some w := ⟨.add true 31 30 29, _, by decide, by rfl⟩
theorem witness_EncodeOfDecode : ∃ (i : Instr) (w : Nat), w < 2 ^ 32 ∧ decode w = .ok i := ⟨.add false 3 4 5, 0x02321400, by decide, by decide⟩
theorem witness_StepKeepsSound : ∃ s t : State, s.Sound = true ∧ step s = .next t := ⟨{ State.reset with agenda := [.run (.railPortDown 0)] }, _, by decide, by rfl⟩

end Sys2Proof.Tests
end

/-! The scalar register and immediate words (R269 to R273). What such a word writes is said once for a group and a thread
alike (`Writes`); the tables of the statements are then read word by word. -/
namespace Sys2Proof.Claims.Scalar
open Sys2Proof.Machine

/-! ### A word that writes one scalar register -/

/-- The payload of a `hix` that widens the word being performed: only a group binds one (R260, R268). -/
def payload (s : State) : Option (BitVec 25) :=
  match s.cur.who with
  | .group _ => s.cur.hix
  | .none | .thread _ => none

theorem payload_group {s : State} {g : Nat} (hw : s.cur.who = .group g) : payload s = s.cur.hix := by simp [payload, hw]
theorem payload_thread {s : State} {t : Nat} (hw : s.cur.who = .thread t) : payload s = none := by simp [payload, hw]

/-- Over the registers r and under the payload h, the instruction is a scalar word without a reserved value that writes v to
register d. `takes`: it has a field that a `hix` widens. -/
def Writes (i : Instr) (takes : Bool) (h : Option (BitVec 25)) (r : BitVec 5 → DWord) (d : BitVec 5) (v : DWord) : Prop :=
  ∀ s, payload s = h → ∃ f, f h r = v ∧ exec i s = scalarWord s takes false d f

section
variable {i : Instr} {takes : Bool} {d : BitVec 5} {v : DWord} {s : State}

/-- Performed by a group, such a word writes its scalar register (R266). -/
theorem Writes.group {g : Nat} {gr : Group} (hw : Writes i takes s.cur.hix (fun r => gr.rs r.toNat) d v) (ha : Acts s g gr)
    (hx : s.cur.hix = none ∨ takes = true) : exec i s = .next (s.modGroup g fun x => x.ws d.toNat v) := by
  obtain ⟨f, rfl, he⟩ := hw s (payload_group ha.who)
  rw [he, scalarWord_group ha.who ha.here ha.active hx rfl]

/-- Performed by a thread, it writes its lamplighter register, and the PC advances (R268). -/
theorem Writes.thread {t : Nat} {th : Thread} (hw : Writes i takes none (fun r => th.rl r.toNat) d v) (hr : Runs s t th) :
    exec i s = .next (s.modThread t fun x => { x.wl d.toNat v with pc := x.pc + 4 }) := by
  obtain ⟨f, rfl, he⟩ := hw s (payload_thread hr.who)
  rw [he, scalarWord_thread hr.who hr.here rfl]

end

/-! ### The operations of the words are those of the statements -/

/-- The low six bits of a shift's second operand are its amount (R269). -/
theorem fld_eq_amount (y : DWord) : fld y.toNat 5 0 = amount y := by simp [fld, amount]

theorem shl64_eq (x y : DWord) : shl64 x y = x <<< amount y := by rw [shl64, fld_eq_amount]
theorem shr64_eq (x y : DWord) : shr64 x y = x >>> amount y := by rw [shr64, fld_eq_amount]
theorem sra64_eq (x y : DWord) : sra64 x y = x.sshiftRight (amount y) := by rw [sra64, fld_eq_amount]

/-- A choice by a comparison of words is the choice by the comparison of their values. -/
theorem ite_slt (x y u w : DWord) : (if x.slt y then u else w) = if x.toInt < y.toInt then u else w := by
  simp only [BitVec.slt, decide_eq_true_eq]
theorem ite_ult (x y u w : DWord) : (if x.ult y then u else w) = if x.toNat < y.toNat then u else w := by
  simp only [BitVec.ult, decide_eq_true_eq]

/-! ### Immediates (R260, R272, R273) -/

theorem ofInt_immS (h : Option (BitVec 25)) (x : BitVec 12) : BitVec.ofInt 64 (immS h 12 x.toNat) = wide12 h x := by
  cases h with
  | none => rw [immS_none x (by decide)]; rfl
  | some p => rw [immS_some]; rfl

/-- A number that sign-extends to a value in 0 to 63 is that value. -/
theorem toInt_of_signExtend_lt {n : Nat} {x : BitVec n} (hn : n ≤ 64) (hb : x.signExtend 64 < 64) :
    x.toInt = x.toNat ∧ x.toNat < 64 := by
  have hlt : (x.signExtend 64).toNat < 64 := hb
  have he := BitVec.toInt_signExtend_of_le (x := x) hn
  rw [BitVec.toInt_eq_toNat_of_lt (by omega)] at he
  have hx := BitVec.toInt_eq_toNat_cond x
  have hl := x.isLt
  split at hx <;> omega

/-- A `hix` adds only zeros to a shift's immediate that lies in 0 to 63. -/
theorem immS_of_wide12_lt {h : Option (BitVec 25)} {x : BitVec 12} (hb : wide12 h x < 64) :
    immS h 12 x.toNat = x.toNat ∧ x.toNat < 64 := by
  cases h with
  | none => rw [immS_none x (by decide)]; exact toInt_of_signExtend_lt (by decide) hb
  | some p =>
    obtain ⟨hi, hlt⟩ := toInt_of_signExtend_lt (x := p ++ x) (by decide) hb
    have happ : (p ++ x).toNat = p.toNat * 2 ^ 12 + x.toNat := (immU_some p x).symm
    rw [immS_some, hi]
    omega

/-- A number below 64 is its own amount. -/
theorem amount_ofNat {n : Nat} (hn : n < 64) : amount (BitVec.ofNat 64 n) = n := by
  rw [← fld_eq_amount, fld, BitVec.toNat_ofNat]
  omega

theorem dw_shifted {n : Nat} (x : BitVec n) : dw (x.toNat * 2 ^ 12) = (x ++ 0#12).zeroExtend 64 :=
  BitVec.eq_of_toNat_eq (by simp [dw, BitVec.toNat_append, Nat.shiftLeft_eq])

/-- `luh` places its immediate above 12 zero bits (R273). -/
theorem immediateResult_luh (h : Option (BitVec 25)) (r : BitVec 5 → DWord) (S : Bool) (d : BitVec 5) (x : BitVec 20) :
    immediateResult h r (.luh S d x) = some (d, dw (immU h 20 x.toNat * 2 ^ 12)) := by
  cases h with
  | none => exact congrArg (fun v => some (d, v)) (dw_shifted x).symm
  | some p => rw [immU_some, dw_shifted]; rfl

/-- A shift by an immediate, over the payload of the word. -/
theorem shiftScalar_eq (s : State) (d a : BitVec 5) (x : BitVec 12) (f : DWord → DWord → DWord) :
    shiftScalar s d a x f = scalarWord s true (decide (immS (payload s) 12 x.toNat < 0 ∨ 63 < immS (payload s) 12 x.toNat)) d
      fun _ r => f (r a) (BitVec.ofInt 64 (immS (payload s) 12 x.toNat)) := rfl

/-! ### The forms of scalar words -/

section
variable {i : Instr} {takes : Bool} {h : Option (BitVec 25)} {r : BitVec 5 → DWord} {d a b : BitVec 5} {v : DWord} {x : BitVec 12}

theorem Writes.of_scalarWord (f : Option (BitVec 25) → (BitVec 5 → DWord) → DWord)
    (he : ∀ s, exec i s = scalarWord s takes false d f) (hv : f h r = v) : Writes i takes h r d v :=
  fun s _ => ⟨f, hv, he s⟩

theorem Writes.of_binScalar (f : DWord → DWord → DWord) (he : ∀ s, exec i s = binScalar s d a b f) (hv : f (r a) (r b) = v) :
    Writes i false h r d v := .of_scalarWord (fun _ r => f (r a) (r b)) he hv

theorem Writes.of_unScalar (f : DWord → DWord) (he : ∀ s, exec i s = unScalar s d a f) (hv : f (r a) = v) :
    Writes i false h r d v := .of_scalarWord (fun _ r => f (r a)) he hv

theorem Writes.of_immScalar (f : DWord → DWord → DWord) (he : ∀ s, exec i s = immScalar s d a x f)
    (hv : f (r a) (wide12 h x) = v) : Writes i true h r d v :=
  .of_scalarWord (fun h r => f (r a) (BitVec.ofInt 64 (immS h 12 x.toNat))) he ((congrArg (f (r a)) (ofInt_immS h x)).trans hv)

/-- A shift by an immediate in 0 to 63, the only values for which the table has an entry. -/
theorem Writes.of_shiftScalar (f : DWord → DWord → DWord) {e : BitVec 5} {w : DWord} (he : ∀ s, exec i s = shiftScalar s e a x f)
    (hf : ∀ y, amount y = x.toNat → f (r a) y = w) (hv : (if wide12 h x < 64 then some (e, w) else none) = some (d, v)) :
    Writes i true h r d v := by
  obtain ⟨hb, hv⟩ := Option.ite_none_right_eq_some.1 hv
  cases hv
  obtain ⟨hn, hlt⟩ := immS_of_wide12_lt hb
  have hok : decide ((x.toNat : Int) < 0 ∨ 63 < (x.toNat : Int)) = false := decide_eq_false (by omega)
  rintro s rfl
  refine ⟨fun _ r => f (r a) (BitVec.ofInt 64 x.toNat), hf _ (amount_ofNat hlt), ?_⟩
  rw [he, shiftScalar_eq, hn, hok]

end

/-! ### The tables, word by word -/

section
variable {i : Instr} {h : Option (BitVec 25)} {r : BitVec 5 → DWord} {d : BitVec 5} {v : DWord}

/-- A register word writes what the table says (R269, R270). -/
theorem writes_of_registerResult (hv : registerResult r i = some (d, v)) : Writes i false h r d v := by
  cases i
  case add => cases hv; exact .of_binScalar (· + ·) (fun _ => rfl) rfl
  case sub => cases hv; exact .of_binScalar (· - ·) (fun _ => rfl) rfl
  case mul => cases hv; exact .of_binScalar (· * ·) (fun _ => rfl) rfl
  case mulhS => cases hv; exact .of_binScalar (fun x y => .ofInt 64 (x.toInt * y.toInt / ((2 ^ 64 : Nat) : Int))) (fun _ => rfl) rfl
  case mulhN => cases hv; exact .of_binScalar (fun x y => dw (x.toNat * y.toNat / 2 ^ 64)) (fun _ => rfl) rfl
  case divS => cases hv; exact .of_binScalar divS64 (fun _ => rfl) rfl
  case divN => cases hv; exact .of_binScalar divN64 (fun _ => rfl) rfl
  case remS => cases hv; exact .of_binScalar remS64 (fun _ => rfl) rfl
  case remN => cases hv; exact .of_binScalar remN64 (fun _ => rfl) rfl
  case and => cases hv; exact .of_binScalar (· &&& ·) (fun _ => rfl) rfl
  case or => cases hv; exact .of_binScalar (· ||| ·) (fun _ => rfl) rfl
  case xor => cases hv; exact .of_binScalar (· ^^^ ·) (fun _ => rfl) rfl
  case shl => cases hv; exact .of_binScalar shl64 (fun _ => rfl) (shl64_eq ..)
  case shr => cases hv; exact .of_binScalar shr64 (fun _ => rfl) (shr64_eq ..)
  case sra => cases hv; exact .of_binScalar sra64 (fun _ => rfl) (sra64_eq ..)
  case minS => cases hv; exact .of_binScalar (fun x y => if x.slt y then x else y) (fun _ => rfl) (ite_slt ..)
  case maxS => cases hv; exact .of_binScalar (fun x y => if x.slt y then y else x) (fun _ => rfl) (ite_slt ..)
  case minN => cases hv; exact .of_binScalar (fun x y => if x.ult y then x else y) (fun _ => rfl) (ite_ult ..)
  case maxN => cases hv; exact .of_binScalar (fun x y => if x.ult y then y else x) (fun _ => rfl) (ite_ult ..)
  case sltS => cases hv; exact .of_binScalar (fun x y => bit (x.slt y)) (fun _ => rfl) rfl
  case sltN => cases hv; exact .of_binScalar (fun x y => bit (x.ult y)) (fun _ => rfl) rfl
  case seq => cases hv; exact .of_binScalar (fun x y => bit (x == y)) (fun _ => rfl) rfl
  case bfxS => cases hv; exact .of_binScalar (fun x c => .ofInt 64 (bfx true 64 x.toNat (ctlPos c) (ctlLen c))) (fun _ => rfl) rfl
  case bfxN => cases hv; exact .of_binScalar (fun x c => .ofInt 64 (bfx false 64 x.toNat (ctlPos c) (ctlLen c))) (fun _ => rfl) rfl
  case bfi S d a b =>
    cases hv
    exact .of_scalarWord (fun _ r => dw (bfi 64 (r d).toNat (ctlPos (r a)) (ctlLen (r a)) (r b).toNat)) (fun _ => rfl) rfl
  case clz => cases hv; exact .of_unScalar (fun x => dw (clzN 64 x.toNat)) (fun _ => rfl) rfl
  case ctz => cases hv; exact .of_unScalar (fun x => dw (ctzN 64 x.toNat)) (fun _ => rfl) rfl
  case popc => cases hv; exact .of_unScalar (fun x => dw (popN 64 x.toNat)) (fun _ => rfl) rfl
  all_goals cases hv

/-- An immediate word writes what the table says (R272, R273). -/
theorem writes_of_immediateResult (hv : immediateResult h r i = some (d, v)) : Writes i true h r d v := by
  cases i
  case addi => cases hv; exact .of_immScalar (· + ·) (fun _ => rfl) rfl
  case andi => cases hv; exact .of_immScalar (· &&& ·) (fun _ => rfl) rfl
  case ori => cases hv; exact .of_immScalar (· ||| ·) (fun _ => rfl) rfl
  case xori => cases hv; exact .of_immScalar (· ^^^ ·) (fun _ => rfl) rfl
  case sltiS => cases hv; exact .of_immScalar (fun x y => bit (x.slt y)) (fun _ => rfl) rfl
  case shli => exact .of_shiftScalar shl64 (fun _ => rfl) (fun y hy => by rw [shl64_eq, hy]) hv
  case shri => exact .of_shiftScalar shr64 (fun _ => rfl) (fun y hy => by rw [shr64_eq, hy]) hv
  case srai => exact .of_shiftScalar sra64 (fun _ => rfl) (fun y hy => by rw [sra64_eq, hy]) hv
  case luh S d x =>
    rw [immediateResult_luh] at hv
    cases hv
    exact .of_scalarWord (fun h _ => dw (immU h 20 x.toNat * 2 ^ 12)) (fun _ => rfl) rfl
  all_goals cases hv

end

/-- Settles O1: a register word writes what the table says whatever the payload, in a group and in a thread. -/
theorem scalarRegisterWord : Obligations.ScalarRegisterWord :=
  ⟨fun _ _ _ _ _ _ ha hx hv => (writes_of_registerResult hv).group ha (.inl hx),
   fun _ _ _ _ _ _ hr hv => (writes_of_registerResult hv).thread hr⟩

/-- Settles O2: an immediate word writes what the table says under the payload that its group has bound, and under none in a
thread. -/
theorem scalarImmediateWord : Obligations.ScalarImmediateWord :=
  ⟨fun _ _ _ _ _ _ ha hv => (writes_of_immediateResult hv).group ha (.inr rfl),
   fun _ _ _ _ _ _ hr hv => (writes_of_immediateResult hv).thread hr⟩

end Sys2Proof.Claims.Scalar

/-! Words across the lanes (R309 to R312, R316, R317). Each of them is an `exchange`: a change of the active lanes that is worked
out on the group as it stood before the word. The table of the statement is then read word by word (`Exchanges`). -/
namespace Sys2Proof.Claims.Across
open Sys2Proof.Machine

/-! ### A word that changes the active lanes from the group as it stood -/

/-- In state s the instruction is an exchange on the declared registers rs, which gives lane n of gr the value f n in its
register d. -/
def Exchanges (i : Instr) (s : State) (gr : Machine.Group) (rs : List (BitVec 7)) (d : BitVec 7) (f : Nat → Lane → Word) : Prop :=
  ∃ F : Machine.Group → Nat → Lane → Lane,
    exec i s = exchange s (fun x => [v1 x rs]) F ∧ ∀ n l, F gr n l = l.wr d.toNat (f n l)

section
variable {s : State} {g : Nat} {gr : Machine.Group} {i : Instr} {rs : List (BitVec 7)} {d : BitVec 7} {f : Nat → Lane → Word}

/-- Declared registers pass the one check of such a word (R20). -/
theorem firstFail_declared (hd : Declared gr rs) : firstFail [v1 gr rs] = none := by simp [firstFail, v1_passes hd]

/-- A group with an active lane performs the exchange on itself as it stood (R30). -/
theorem Exchanges.performs (he : Exchanges i s gr rs d f) (ha : Acts s g gr) (hx : s.cur.hix = none) (hd : Declared gr rs) :
    exec i s = .next (s.modGroup g fun x => x.onLanes s.cur.act fun n l => l.wr d.toNat (f n l)) := by
  obtain ⟨F, hF, hf⟩ := he
  rw [hF, exchange_performs ha.who ha.here ha.active hx (firstFail_declared hd), funext₂ hf]

/-- An exchange without a register to check is performed whatever the group declares. -/
theorem exchange_unchecked {F : Machine.Group → Nat → Lane → Lane} (ha : Acts s g gr) (hx : s.cur.hix = none) :
    exchange s (fun _ => []) F = .next (s.modGroup g fun x => x.onLanes s.cur.act (F gr)) :=
  exchange_performs ha.who ha.here ha.active hx rfl

end

/-! ### The table, word by word -/

/-- A lane that is given back what its register holds is unchanged, as `wrlane` leaves the lanes that it does not name. -/
theorem wr_rd_self (l : Lane) (r : Nat) : l.wr r (l.rd r) = l := by
  have hv : l.v.set r (l.rd r) = l.v := by
    by_cases h : r < l.v.length
    · simp [Lane.rd, h]
    · exact List.set_eq_of_length_le (Nat.le_of_not_lt h)
  rw [Lane.wr, hv]

/-- `wrlane` writes the lane it names; in the table every other lane is given its own value (R317). -/
theorem wrlane_eq_wr (l : Lane) (r n j : Nat) (x : Word) :
    (if n = j then l.wr r x else l) = l.wr r (if n = j then x else l.rd r) := by
  split
  · rfl
  · exact (wr_rd_self l r).symm

/-- The words of the table are exchanges of what the table says (R309 to R312, R316, R317). -/
theorem exchanges_of_acrossResult {i : Instr} {s : State} {gr : Machine.Group} {rs : List (BitVec 7)} {d : BitVec 7}
    {f : Nat → Lane → Word} (hv : acrossResult gr s.cur.act i = some (rs, d, f)) : Exchanges i s gr rs d f := by
  cases i
  case shflIdx => cases hv; exact ⟨_, rfl, fun _ _ => rfl⟩
  case shflUp => cases hv; exact ⟨_, rfl, fun _ _ => rfl⟩
  case shflDn => cases hv; exact ⟨_, rfl, fun _ _ => rfl⟩
  case shflXor => cases hv; exact ⟨_, rfl, fun _ _ => rfl⟩
  case bcast => cases hv; exact ⟨_, rfl, fun _ _ => rfl⟩
  case ballot => cases hv; exact ⟨_, rfl, fun _ _ => rfl⟩
  case vrank => cases hv; exact ⟨_, rfl, fun _ _ => rfl⟩
  case vcount => cases hv; exact ⟨_, rfl, fun _ _ => rfl⟩
  case sel S d a b p inv => cases hv; exact ⟨_, rfl, fun _ l => by rw [Bool.bne_eq_xor]⟩
  case movs => cases hv; exact ⟨_, rfl, fun _ _ => rfl⟩
  case movp => cases hv; exact ⟨_, rfl, fun _ _ => rfl⟩
  case rdsp => cases hv; exact ⟨_, rfl, fun _ _ => rfl⟩
  case wrlane => cases hv; exact ⟨_, rfl, fun n l => wrlane_eq_wr l _ n _ _⟩
  all_goals cases hv

/-! ### `vany`, `vall` and `rdlane` -/

/-- The set B of R312 has a member exactly when some lane of ACT has the predicate. -/
theorem trueLanes_nonempty (gr : Machine.Group) (act : List Nat) (p : BitVec 3) :
    (!(trueLanes gr act p).isEmpty) = act.any fun n => (gr.lane n).pred p := by
  rw [Bool.eq_iff_iff, Bool.not_eq_true', List.isEmpty_eq_false_iff_exists_mem, List.any_eq_true]
  exact exists_congr fun _ => List.mem_filter

/-- B counts as many lanes as ACT exactly when every lane of ACT has the predicate. -/
theorem trueLanes_length (gr : Machine.Group) (act : List Nat) (p : BitVec 3) :
    ((trueLanes gr act p).length == act.length) = act.all fun n => (gr.lane n).pred p := by
  rw [Bool.eq_iff_iff, beq_iff_eq, trueLanes, List.length_filter_eq_length_iff, List.all_eq_true]

/-- A 32-bit value as a scalar register holds it is its zero extension (R317). -/
theorem dw_toNat (x : Word) : dw x.toNat = x.zeroExtend 64 := BitVec.ofNat_toNat 64 x

section
variable {s : State} {g : Nat} {gr : Machine.Group}

/-- `vany` sets pd where a lane of ACT has the predicate, `vall` where each has it (R312). -/
theorem exec_vany (S : Bool) (d p : BitVec 3) (ha : Acts s g gr) (hx : s.cur.hix = none) :
    exec (.vany S d p) s = .next (s.modGroup g fun x => x.onLanes s.cur.act fun _ l =>
      l.setPred d (s.cur.act.any fun n => (gr.lane n).pred p)) := by
  have he : exec (.vany S d p) s = execVany d p s := rfl
  rw [he, execVany, exchange_unchecked ha hx, trueLanes_nonempty]

theorem exec_vall (S : Bool) (d p : BitVec 3) (ha : Acts s g gr) (hx : s.cur.hix = none) :
    exec (.vall S d p) s = .next (s.modGroup g fun x => x.onLanes s.cur.act fun _ l =>
      l.setPred d (s.cur.act.all fun n => (gr.lane n).pred p)) := by
  have he : exec (.vall S d p) s = execVall d p s := rfl
  rw [he, execVall, exchange_unchecked ha hx, trueLanes_length]

/-- The lane that `rdlane` reads need not be active (R310); it is read before sd is written. -/
theorem exec_rdlane (S : Bool) (d b : BitVec 5) (a : BitVec 7) (ha : Acts s g gr) (hx : s.cur.hix = none) (hd : Declared gr [a]) :
    exec (.rdlane S d a b) s = .next (s.modGroup g fun x => x.ws d.toNat
      (if (gr.rs b.toNat).toNat < gr.lanes.length then ((gr.lane (gr.rs b.toNat).toNat).rd a.toNat).zeroExtend 64 else 0)) := by
  have he : exec (.rdlane S d a b) s = execRdlane d a b s := rfl
  rw [he, execRdlane, actWord_performs ha.who ha.here ha.active (.inl hx) (firstFail_declared hd) rfl]
  simp only [dw_toNat]

end

/-- Settles O8: the words of the table are exchanges of what the table says; `vany`, `vall` and `rdlane` are read on their own. -/
theorem acrossLanesResult : Obligations.AcrossLanesResult :=
  ⟨fun _ _ _ _ _ _ _ ha hx hv hd => (exchanges_of_acrossResult hv).performs ha hx hd,
   fun S d p _ _ _ ha hx => ⟨exec_vany S d p ha hx, exec_vall S d p ha hx⟩,
   fun S d b a _ _ _ ha hx hd => exec_rdlane S d b a ha hx hd⟩

end Sys2Proof.Claims.Across

/-! Decoding and encoding (R238 to R259). A word is the sum of its fields (`cut`): that is what makes the word of a decoded
instruction the word decoded. The other direction, instruction by instruction, is Laws/PerInstr. -/
namespace Sys2Proof.Claims.Coding
open Sys2Proof Sys2Proof.Laws Sys2Proof.Laws.Encodes
-- One proof at a time: the text is compiled as one file, whose memory parallel elaboration would exceed.
set_option Elab.async false

/-! ### A word as the sum of its fields -/

/-- The fields of a word from bit n down, each from one cut to the next, at their places. -/
def cut (w n : Nat) : List Nat → Nat
  | [] => w % 2 ^ n
  | c :: cs => fld w (n - 1) c * 2 ^ c + cut w c cs

/-- The cuts lie below n, each below the one before. -/
def falling (n : Nat) : List Nat → Bool
  | [] => true
  | c :: cs => decide (c < n) && falling c cs

/-- The bits below n are the field from c up and the bits below c. -/
theorem mod_eq_fld_add {w n c : Nat} (h : c < n) : w % 2 ^ n = fld w (n - 1) c * 2 ^ c + w % 2 ^ c := by
  have hn : n = c + (n - 1 - c + 1) := by omega
  conv_lhs => rw [hn, Nat.pow_add, Nat.mod_mul]
  rw [fld, Nat.add_comm, Nat.mul_comm]

theorem cut_eq_mod {w : Nat} : ∀ {cs : List Nat} {n : Nat}, falling n cs = true → cut w n cs = w % 2 ^ n
  | [], _, _ => rfl
  | c :: cs, n, h => by
    obtain ⟨hc, hcs⟩ := Bool.and_eq_true_iff.1 h
    rw [cut, cut_eq_mod hcs, ← mod_eq_fld_add (of_decide_eq_true hc)]

/-- A field of one bit is 0 or 1. -/
theorem fld_bit (w n : Nat) : fld w n n = 0 ∨ fld w n n = 1 := by
  have h : fld w n n < 2 := by rw [fld, Nat.sub_self]; exact Nat.mod_lt _ (by decide)
  exact Nat.le_one_iff_eq_zero_or_eq_one.1 (Nat.le_of_lt_succ h)

/-- A field of one bit as a flag, and a field as a bit vector of its width. -/
theorem toNat_flag (w n : Nat) : (fld w n n == 1).toNat = fld w n n := by
  rcases fld_bit w n with h | h <;> rw [h] <;> rfl

theorem toNat_bits {w hi lo n : Nat} (h : hi - lo + 1 = n) : (BitVec.ofNat n (fld w hi lo)).toNat = fld w hi lo := by
  subst h
  rw [BitVec.toNat_ofNat, fld, Nat.mod_mod]

/-! ### Codes -/

theorem scope_of_code {n : Nat} {x : Scope} (h : Scope.ofCode n = some x) : x.code = n := by
  unfold Scope.ofCode at h; split at h <;> cases h <;> rfl
theorem tyCode_of_code {n : Nat} {x : TyCode} (h : TyCode.ofCode n = some x) : x.code = n := by
  unfold TyCode.ofCode at h; split at h <;> cases h <;> rfl
theorem cmpCond_of_code {n : Nat} {x : CmpCond} (h : CmpCond.ofCode n = some x) : x.code = n := by
  unfold CmpCond.ofCode at h; split at h <;> cases h <;> rfl
theorem fTy_of_code {n : Nat} {x : FTy} (h : FTy.ofCode n = some x) : x.code = n := by
  unfold FTy.ofCode at h; split at h <;> cases h <;> rfl
theorem pair_of_code {n : Nat} {x : Pair} (h : Pair.ofCode n = some x) : x.code = n := by
  unfold Pair.ofCode at h; split at h <;> cases h <;> rfl
theorem ldTy_of_code {n : Nat} {x : LdTy} (h : LdTy.ofCode n = some x) : x.code = n := by
  unfold LdTy.ofCode at h; split at h <;> cases h <;> rfl
theorem stTy_of_code {n : Nat} {x : StTy} (h : StTy.ofCode n = some x) : x.code = n := by
  unfold StTy.ofCode at h; split at h <;> cases h <;> rfl
theorem atomOp_of_code {n : Nat} {x : AtomOp} (h : AtomOp.ofCode n = some x) : x.code = n := by
  unfold AtomOp.ofCode at h; split at h <;> cases h <;> rfl
theorem part_of_code {n : Nat} {x : Part} (h : Part.ofCode n = some x) : x.code = n := by
  unfold Part.ofCode at h; split at h <;> cases h <;> rfl
theorem shape_of_code {n : Nat} {x : Shape} (h : Shape.ofCode n = some x) : x.code = n := by
  unfold Shape.ofCode at h; split at h <;> cases h <;> rfl
theorem mmbOp_of_code {n : Nat} {x : MmbOp} (h : MmbOp.ofCode n = some x) : x.code = n := by
  unfold MmbOp.ofCode at h; split at h <;> cases h <;> rfl
theorem acvtDir_of_code {n : Nat} {x : AcvtDir} (h : AcvtDir.ofCode n = some x) : x.code = n := by
  unfold AcvtDir.ofCode at h; split at h <;> cases h <;> rfl
theorem lay_of_code {n : Nat} {x : Lay} (h : Lay.ofCode n = some x) : x.code = n := by
  unfold Lay.ofCode at h; split at h <;> cases h <;> rfl
theorem rop_of_code {n : Nat} {x : Rop} (h : Rop.ofCode n = some x) : x.code = n := by
  unfold Rop.ofCode at h; split at h <;> cases h <;> rfl
theorem pfLevel_of_code {n : Nat} {x : PfLevel} (h : PfLevel.ofCode n = some x) : x.code = n := by
  unfold PfLevel.ofCode at h; split at h <;> cases h <;> rfl
theorem cachePol_of_code {n : Nat} {x : CachePol} (h : CachePol.ofCode n = some x) : x.code = n := by
  unfold CachePol.ofCode at h; split at h <;> cases h <;> rfl
theorem capField_of_code {n : Nat} {x : CapField} (h : CapField.ofCode n = some x) : x.code = n := by
  unfold CapField.ofCode at h; split at h <;> cases h <;> rfl

/-! ### What a decoder answers -/

/-- An instruction that the decoder answers for w is well-formed, and its word is the lowest 32 bits of w. -/
def Faithful (w : Nat) (o : Except Nat Instr) : Prop := ∀ i, o = .ok i → i.wellFormed = true ∧ encode i = some (w % 2 ^ 32)

theorem faithful_error {w r : Nat} : Faithful w (.error r) := fun _ h => nomatch h

/-- A well-formed instruction whose fields, cut at the places cs, make up the word. -/
theorem faithful_ok {w : Nat} {i : Instr} (hwf : i.wellFormed = true) (cs : List Nat) (hcs : falling 32 cs = true)
    (h : encode i = some (cut w 32 cs)) : Faithful w (.ok i) := by
  intro j hj
  cases hj
  exact ⟨hwf, by rw [h, cut_eq_mod hcs]⟩

/-- An accepted instruction has no reserved value and no reserved bit. -/
theorem faithful_accept {w r : Nat} {i : Instr} (cs : List Nat) (hcs : falling 32 cs = true)
    (h : r = 0 → encode i = some (cut w 32 cs)) : Faithful w (accept i r) := by
  unfold accept
  split
  · exact faithful_error
  · next hwf =>
    split
    · exact faithful_error
    · next hr => exact faithful_ok (by simpa using hwf) cs hcs (h (not_not.1 hr))

/-- A field with a code is that code. -/
theorem faithful_need {α : Type} {w n : Nat} {code : α → Nat} {o : Option α} {k : α → Except Nat Instr}
    (hc : ∀ {x}, o = some x → code x = n) (h : ∀ x, code x = n → Faithful w (k x)) : Faithful w (need o k) := by
  cases o with
  | none => exact faithful_error
  | some x => exact h x (hc rfl)

/-! ### The decoders -/

section
variable {w : Nat}

theorem faithful_decodeSR (hm : fld w 30 25 = 0x01) : Faithful w (decodeSR w) := by
  unfold decodeSR
  split
  case h_30 => exact faithful_error
  all_goals
    refine faithful_accept [31, 25, 20, 15, 10, 0] rfl fun hr => congrArg some ?_
    simp only [cut, Nat.reduceSub, word_cons, word_nil, place_eq, toNat_flag, toNat_bits]
    omega

theorem faithful_decodeSI (hm : fld w 30 25 = 0x02) : Faithful w (decodeSI w) := by
  unfold decodeSI
  split
  case h_9 => exact faithful_error
  all_goals
    refine faithful_accept [31, 25, 20, 15, 12, 0] rfl fun hr => congrArg some ?_
    simp only [cut, Nat.reduceSub, word_cons, word_nil, place_eq, toNat_flag, toNat_bits]
    omega

theorem faithful_decodeSU (hm : fld w 30 25 = 0x03) : Faithful w (decodeSU w) := by
  unfold decodeSU
  refine faithful_accept [31, 25, 20, 0] rfl fun hr => congrArg some ?_
  simp only [cut, Nat.reduceSub, word_cons, word_nil, place_eq, toNat_flag, toNat_bits]
  omega

theorem faithful_decodeSM (hm : fld w 30 25 = 0x04) : Faithful w (decodeSM w) := by
  unfold decodeSM
  split
  case h_9 => exact faithful_error
  all_goals
    refine faithful_accept [31, 25, 20, 16, 11, 8, 0] rfl fun hr => congrArg some ?_
    simp only [cut, Nat.reduceSub, word_cons, word_nil, place_eq, toNat_flag, toNat_bits]
    omega

theorem faithful_decodeSB (hm : fld w 30 25 = 0x05) : Faithful w (decodeSB w) := by
  unfold decodeSB
  split
  case h_7 => exact faithful_error
  all_goals
    refine faithful_accept [31, 25, 20, 15, 12, 0] rfl fun hr => congrArg some ?_
    simp only [cut, Nat.reduceSub, word_cons, word_nil, place_eq, toNat_flag, toNat_bits]
    omega

theorem faithful_decodeSJ (hm : fld w 30 25 = 0x06) : Faithful w (decodeSJ w) := by
  unfold decodeSJ
  refine faithful_accept [31, 25, 20, 0] rfl fun hr => congrArg some ?_
  simp only [cut, Nat.reduceSub, word_cons, word_nil, place_eq, toNat_flag, toNat_bits]
  omega

theorem faithful_decodeLR (hm : fld w 30 25 = 0x07) : Faithful w (decodeLR w) := by
  unfold decodeLR
  split
  on_goal 1 => refine faithful_accept [31, 25, 20, 15, 10, 5, 0] rfl fun hr => congrArg some ?_
  on_goal 2 => refine faithful_accept [31, 25, 20, 15, 10, 5, 0] rfl fun hr => congrArg some ?_
  on_goal 3 => refine faithful_accept [31, 25, 20, 15, 10, 5, 0] rfl fun hr => congrArg some ?_
  on_goal 4 => refine faithful_accept [31, 25, 20, 15, 10, 5, 0] rfl fun hr => congrArg some ?_
  on_goal 5 => refine faithful_accept [31, 25, 20, 15, 10, 5, 0] rfl fun hr => congrArg some ?_
  on_goal 6 => refine faithful_accept [31, 25, 20, 15, 10, 5, 0] rfl fun hr => congrArg some ?_
  on_goal 7 => refine faithful_accept [31, 25, 20, 15, 10, 5, 0] rfl fun hr => congrArg some ?_
  on_goal 8 => refine faithful_accept [31, 25, 20, 15, 10, 5, 0] rfl fun hr => congrArg some ?_
  on_goal 9 => refine faithful_accept [31, 25, 20, 15, 10, 5, 0] rfl fun hr => congrArg some ?_
  on_goal 10 => refine faithful_accept [31, 25, 20, 15, 10, 5, 0] rfl fun hr => congrArg some ?_
  on_goal 11 => refine faithful_accept [31, 25, 20, 15, 10, 5, 0] rfl fun hr => congrArg some ?_
  on_goal 12 => refine faithful_accept [31, 25, 20, 15, 10, 5, 0] rfl fun hr => congrArg some ?_
  on_goal 13 => refine faithful_accept [31, 25, 20, 15, 10, 5, 1, 0] rfl fun hr => congrArg some ?_
  on_goal 14 => exact faithful_error
  all_goals
    simp only [cut, Nat.reduceSub, word_cons, word_nil, place_eq, toNat_flag, toNat_bits]
    omega

theorem faithful_decodeIntA (hm : fld w 30 25 = 0x10) : Faithful w (decodeIntA w) := by
  unfold decodeIntA
  split
  case h_17 => exact faithful_error
  all_goals
    refine faithful_accept [31, 25, 18, 11, 4, 0] rfl fun hr => congrArg some ?_
    simp only [cut, Nat.reduceSub, word_cons, word_nil, place_eq, toNat_flag, toNat_bits]
    omega

theorem faithful_decodeIntB (hm : fld w 30 25 = 0x11) : Faithful w (decodeIntB w) := by
  unfold decodeIntB
  split
  case h_17 => exact faithful_error
  all_goals
    refine faithful_accept [31, 25, 18, 11, 4, 0] rfl fun hr => congrArg some ?_
    simp only [cut, Nat.reduceSub, word_cons, word_nil, place_eq, toNat_flag, toNat_bits]
    omega

theorem faithful_decodeVI (hm : fld w 30 25 = 0x12) : Faithful w (decodeVI w) := by
  unfold decodeVI
  split
  case h_9 => exact faithful_error
  all_goals
    refine faithful_accept [31, 25, 18, 11, 8, 0] rfl fun hr => congrArg some ?_
    simp only [cut, Nat.reduceSub, word_cons, word_nil, place_eq, toNat_flag, toNat_bits]
    omega

theorem faithful_decodeFloat (hm : fld w 30 25 = 0x13) : Faithful w (decodeFloat w) := by
  unfold decodeFloat
  split
  case h_16 => exact faithful_error
  all_goals
    refine faithful_accept [31, 25, 18, 11, 4, 0] rfl fun hr => congrArg some ?_
    simp only [cut, Nat.reduceSub, word_cons, word_nil, place_eq, toNat_flag, toNat_bits]
    omega

theorem faithful_decodeFused (hm : fld w 30 25 = 0x14) : Faithful w (decodeFused w) := by
  unfold decodeFused
  split
  case h_12 => exact faithful_error
  all_goals
    refine faithful_accept [31, 25, 18, 11, 4, 0] rfl fun hr => congrArg some ?_
    simp only [cut, Nat.reduceSub, word_cons, word_nil, place_eq, toNat_flag, toNat_bits]
    omega

theorem faithful_decodeUnary (hm : fld w 30 25 = 0x15) : Faithful w (decodeUnary w) := by
  unfold decodeUnary
  split
  case h_11 => exact faithful_error
  all_goals
    refine faithful_need fTy_of_code fun t ht => faithful_accept [31, 25, 18, 11, 6, 4, 0] rfl fun hr => congrArg some ?_
    simp only [cut, Nat.reduceSub, word_cons, word_nil, place_eq, toNat_flag, toNat_bits]
    omega

theorem faithful_decodeVT (hm : fld w 30 25 = 0x16) : Faithful w (decodeVT w) := by
  unfold decodeVT
  split
  on_goal 1 => refine faithful_need tyCode_of_code fun y hy => faithful_need tyCode_of_code fun z hz => faithful_accept [31, 25, 18, 11, 7, 3, 0] rfl fun hr => congrArg some ?_
  on_goal 2 => refine faithful_accept [31, 25, 18, 11, 6, 3, 0] rfl fun hr => congrArg some ?_
  on_goal 3 => refine faithful_accept [31, 25, 18, 11, 6, 3, 0] rfl fun hr => congrArg some ?_
  on_goal 4 => refine faithful_need pair_of_code fun t ht => faithful_accept [31, 25, 18, 11, 4, 3, 0] rfl fun hr => congrArg some ?_
  on_goal 5 => refine faithful_need pair_of_code fun t ht => faithful_accept [31, 25, 18, 11, 5, 4, 3, 0] rfl fun hr => congrArg some ?_
  on_goal 6 => exact faithful_error
  all_goals
    simp only [cut, Nat.reduceSub, word_cons, word_nil, place_eq, toNat_flag, toNat_bits]
    omega

theorem faithful_decodeVC (hm : fld w 30 25 = 0x17) : Faithful w (decodeVC w) := by
  unfold decodeVC
  split
  on_goal 1 => refine faithful_need tyCode_of_code fun t ht => faithful_accept [31, 25, 22, 18, 11, 4, 0] rfl fun hr => congrArg some ?_
  on_goal 2 => refine faithful_need cmpCond_of_code fun c hc => faithful_need tyCode_of_code fun t ht => faithful_accept [31, 25, 22, 18, 11, 4, 0] rfl fun hr => congrArg some ?_
  all_goals
    simp only [cut, Nat.reduceSub, word_cons, word_nil, place_eq, toNat_flag, toNat_bits]
    omega

theorem faithful_decodeVS (hm : fld w 30 25 = 0x18) : Faithful w (decodeVS w) := by
  unfold decodeVS
  split
  on_goal 1 => refine faithful_accept [31, 25, 22, 18, 15, 11, 8, 0] rfl fun hr => congrArg some ?_
  on_goal 2 => refine faithful_accept [31, 25, 18, 11, 4, 1, 0] rfl fun hr => congrArg some ?_
  all_goals
    simp only [cut, Nat.reduceSub, word_cons, word_nil, place_eq, toNat_flag, toNat_bits]
    omega

theorem faithful_decodeLane (hm : fld w 30 25 = 0x19) : Faithful w (decodeLane w) := by
  unfold decodeLane
  split
  on_goal 1 => refine faithful_accept [31, 25, 18, 11, 4, 0] rfl fun hr => congrArg some ?_
  on_goal 2 => refine faithful_accept [31, 25, 18, 11, 4, 0] rfl fun hr => congrArg some ?_
  on_goal 3 => refine faithful_accept [31, 25, 18, 11, 4, 0] rfl fun hr => congrArg some ?_
  on_goal 4 => refine faithful_accept [31, 25, 18, 11, 4, 0] rfl fun hr => congrArg some ?_
  on_goal 5 => refine faithful_accept [31, 25, 18, 11, 4, 0] rfl fun hr => congrArg some ?_
  on_goal 6 => refine faithful_accept [31, 25, 18, 14, 11, 4, 0] rfl fun hr => congrArg some ?_
  on_goal 7 => refine faithful_accept [31, 25, 18, 14, 11, 4, 0] rfl fun hr => congrArg some ?_
  on_goal 8 => refine faithful_accept [31, 25, 18, 14, 11, 4, 0] rfl fun hr => congrArg some ?_
  on_goal 9 => refine faithful_accept [31, 25, 21, 18, 14, 11, 4, 0] rfl fun hr => congrArg some ?_
  on_goal 10 => refine faithful_accept [31, 25, 21, 18, 14, 11, 4, 0] rfl fun hr => congrArg some ?_
  on_goal 11 => refine faithful_need tyCode_of_code fun t ht => faithful_accept [31, 25, 18, 11, 8, 4, 0] rfl fun hr => congrArg some ?_
  on_goal 12 => refine faithful_need tyCode_of_code fun t ht => faithful_accept [31, 25, 18, 11, 8, 4, 0] rfl fun hr => congrArg some ?_
  on_goal 13 => refine faithful_need tyCode_of_code fun t ht => faithful_accept [31, 25, 18, 11, 8, 4, 0] rfl fun hr => congrArg some ?_
  on_goal 14 => refine faithful_need tyCode_of_code fun t ht => faithful_accept [31, 25, 18, 11, 8, 4, 0] rfl fun hr => congrArg some ?_
  on_goal 15 => exact faithful_error
  all_goals
    simp only [cut, Nat.reduceSub, word_cons, word_nil, place_eq, toNat_flag, toNat_bits]
    omega

theorem faithful_decodeVX (hm : fld w 30 25 = 0x1A) : Faithful w (decodeVX w) := by
  unfold decodeVX
  split
  on_goal 1 => refine faithful_accept [31, 25, 18, 11, 4, 0] rfl fun hr => congrArg some ?_
  on_goal 2 => refine faithful_accept [31, 25, 18, 16, 11, 4, 0] rfl fun hr => congrArg some ?_
  on_goal 3 => refine faithful_accept [31, 25, 18, 4, 0] rfl fun hr => congrArg some ?_
  on_goal 4 => refine faithful_accept [31, 25, 23, 18, 11, 9, 4, 0] rfl fun hr => congrArg some ?_
  on_goal 5 => refine faithful_accept [31, 25, 18, 16, 11, 9, 4, 0] rfl fun hr => congrArg some ?_
  on_goal 6 => refine faithful_accept [31, 25, 18, 4, 0] rfl fun hr => congrArg some ?_
  on_goal 7 => refine faithful_accept [31, 25, 18, 14, 11, 4, 0] rfl fun hr => congrArg some ?_
  on_goal 8 => refine faithful_accept [31, 25, 21, 18, 11, 4, 0] rfl fun hr => congrArg some ?_
  on_goal 9 => exact faithful_error
  all_goals
    simp only [cut, Nat.reduceSub, word_cons, word_nil, place_eq, toNat_flag, toNat_bits]
    omega

theorem faithful_decodeLd (hm : fld w 30 25 = 0x20) : Faithful w (decodeLd w) := by
  unfold decodeLd
  refine faithful_need ldTy_of_code fun t ht => faithful_accept [31, 25, 18, 14, 7, 4, 0] rfl fun hr => congrArg some ?_
  simp only [cut, Nat.reduceSub, word_cons, word_nil, place_eq, toNat_flag, toNat_bits]
  omega

theorem faithful_decodeSt (hm : fld w 30 25 = 0x21) : Faithful w (decodeSt w) := by
  unfold decodeSt
  refine faithful_need stTy_of_code fun t ht => faithful_accept [31, 25, 18, 14, 7, 4, 0] rfl fun hr => congrArg some ?_
  simp only [cut, Nat.reduceSub, word_cons, word_nil, place_eq, toNat_flag, toNat_bits]
  omega

theorem faithful_decodeAtom32 (hm : fld w 30 25 = 0x22) : Faithful w (decodeAtom32 w) := by
  unfold decodeAtom32
  split
  case h_3 => exact faithful_error
  all_goals
    refine faithful_need atomOp_of_code fun o ho => faithful_need scope_of_code fun c hc => faithful_accept [31, 25, 18, 14, 7, 6, 3, 0] rfl fun hr => congrArg some ?_
    simp only [cut, Nat.reduceSub, word_cons, word_nil, place_eq, toNat_flag, toNat_bits]
    omega

theorem faithful_decodeAtom64 (hm : fld w 30 25 = 0x23) : Faithful w (decodeAtom64 w) := by
  unfold decodeAtom64
  split
  case h_3 => exact faithful_error
  all_goals
    refine faithful_need atomOp_of_code fun o ho => faithful_need scope_of_code fun c hc => faithful_accept [31, 25, 18, 14, 7, 6, 3, 0] rfl fun hr => congrArg some ?_
    simp only [cut, Nat.reduceSub, word_cons, word_nil, place_eq, toNat_flag, toNat_bits]
    omega

theorem faithful_decodeSN (hm : fld w 30 25 = 0x24) : Faithful w (decodeSN w) := by
  unfold decodeSN
  split
  on_goal 1 => refine faithful_need scope_of_code fun c hc => faithful_accept [31, 25, 22, 16, 10, 7, 0] rfl fun hr => congrArg some ?_
  on_goal 2 => refine faithful_accept [31, 25, 22, 18, 13, 8, 0] rfl fun hr => congrArg some ?_
  on_goal 3 => refine faithful_need scope_of_code fun c hc => faithful_accept [31, 25, 22, 18, 13, 8, 5, 0] rfl fun hr => congrArg some ?_
  on_goal 4 => refine faithful_need scope_of_code fun c hc => faithful_accept [31, 25, 22, 18, 13, 8, 5, 0] rfl fun hr => congrArg some ?_
  on_goal 5 => refine faithful_need scope_of_code fun c hc => faithful_accept [31, 25, 22, 18, 13, 8, 5, 0] rfl fun hr => congrArg some ?_
  on_goal 6 => refine faithful_accept [31, 25, 22, 18, 13, 8, 0] rfl fun hr => congrArg some ?_
  on_goal 7 => exact faithful_error
  all_goals
    simp only [cut, Nat.reduceSub, word_cons, word_nil, place_eq, toNat_flag, toNat_bits]
    omega

theorem faithful_decodeKP (hm : fld w 30 25 = 0x25) : Faithful w (decodeKP w) := by
  unfold decodeKP
  split
  on_goal 1 => refine faithful_accept [31, 25, 22, 21, 17, 13, 0] rfl fun hr => congrArg some ?_
  on_goal 2 => refine faithful_accept [31, 25, 22, 21, 17, 13, 8, 3, 0] rfl fun hr => congrArg some ?_
  on_goal 3 => refine faithful_accept [31, 25, 22, 21, 17, 13, 8, 0] rfl fun hr => congrArg some ?_
  on_goal 4 => refine faithful_accept [31, 25, 22, 21, 17, 13, 8, 0] rfl fun hr => congrArg some ?_
  on_goal 5 => refine faithful_accept [31, 25, 22, 21, 17, 13, 8, 0] rfl fun hr => congrArg some ?_
  on_goal 6 => refine faithful_need capField_of_code fun x hx => faithful_accept [31, 25, 22, 17, 13, 3, 0] rfl fun hr => congrArg some ?_
  on_goal 7 => refine faithful_accept [31, 25, 22, 17, 13, 0] rfl fun hr => congrArg some ?_
  on_goal 8 => exact faithful_error
  all_goals
    simp only [cut, Nat.reduceSub, word_cons, word_nil, place_eq, toNat_flag, toNat_bits]
    omega

theorem faithful_decodeMC (hm : fld w 30 25 = 0x28) : Faithful w (decodeMC w) := by
  unfold decodeMC
  split
  on_goal 1 => refine faithful_accept [31, 25, 23, 19, 14, 0] rfl fun hr => congrArg some ?_
  on_goal 2 => refine faithful_accept [31, 25, 23, 22, 19, 14, 0] rfl fun hr => congrArg some ?_
  on_goal 3 => exact faithful_error
  all_goals
    simp only [cut, Nat.reduceSub, word_cons, word_nil, place_eq, toNat_flag, toNat_bits]
    omega

theorem faithful_decodeMT (hm : fld w 30 25 = 0x29) : Faithful w (decodeMT w) := by
  unfold decodeMT
  split
  case h_3 => exact faithful_error
  all_goals
    refine faithful_need part_of_code fun p hp => faithful_accept [31, 25, 24, 20, 16, 11, 6, 4, 0] rfl fun hr => congrArg some ?_
    simp only [cut, Nat.reduceSub, word_cons, word_nil, place_eq, toNat_flag, toNat_bits]
    omega

theorem faithful_decodeMM (hm : fld w 30 25 = 0x2A) : Faithful w (decodeMM w) := by
  unfold decodeMM
  split
  on_goal 1 => refine faithful_need shape_of_code fun h hh => faithful_accept [31, 25, 24, 21, 17, 13, 11, 0] rfl fun hr => congrArg some ?_
  on_goal 2 => refine faithful_need mmbOp_of_code fun o ho => faithful_accept [31, 25, 24, 21, 17, 13, 12, 11, 0] rfl fun hr => congrArg some ?_
  on_goal 3 => exact faithful_error
  all_goals
    simp only [cut, Nat.reduceSub, word_cons, word_nil, place_eq, toNat_flag, toNat_bits]
    omega

theorem faithful_decodeMA (hm : fld w 30 25 = 0x2B) : Faithful w (decodeMA w) := by
  unfold decodeMA
  split
  on_goal 1 => refine faithful_accept [31, 25, 23, 20, 0] rfl fun hr => congrArg some ?_
  on_goal 2 => refine faithful_accept [31, 25, 23, 20, 13, 7, 0] rfl fun hr => congrArg some ?_
  on_goal 3 => refine faithful_accept [31, 25, 23, 20, 13, 7, 0] rfl fun hr => congrArg some ?_
  on_goal 4 => refine faithful_need acvtDir_of_code fun c hc => faithful_accept [31, 25, 23, 20, 7, 5, 0] rfl fun hr => congrArg some ?_
  on_goal 5 => exact faithful_error
  all_goals
    simp only [cut, Nat.reduceSub, word_cons, word_nil, place_eq, toNat_flag, toNat_bits]
    omega

theorem faithful_decodeCP (hm : fld w 30 25 = 0x30) : Faithful w (decodeCP w) := by
  unfold decodeCP
  split
  on_goal 1 => refine faithful_accept [31, 25, 22, 17, 0] rfl fun hr => congrArg some ?_
  on_goal 2 => refine faithful_need lay_of_code fun l hl => faithful_accept [31, 25, 22, 17, 15, 0] rfl fun hr => congrArg some ?_
  on_goal 3 => refine faithful_accept [31, 25, 22, 17, 0] rfl fun hr => congrArg some ?_
  on_goal 4 => refine faithful_accept [31, 25, 22, 17, 0] rfl fun hr => congrArg some ?_
  on_goal 5 => refine faithful_need rop_of_code fun r hr => faithful_accept [31, 25, 22, 17, 15, 11, 0] rfl fun hr => congrArg some ?_
  on_goal 6 => refine faithful_accept [31, 25, 22, 19, 11, 0] rfl fun hr => congrArg some ?_
  on_goal 7 => exact faithful_error
  all_goals
    simp only [cut, Nat.reduceSub, word_cons, word_nil, place_eq, toNat_flag, toNat_bits]
    omega

theorem faithful_decodeCT (hm : fld w 30 25 = 0x38) : Faithful w (decodeCT w) := by
  unfold decodeCT
  split
  on_goal 1 => refine faithful_accept [31, 25, 22, 0] rfl fun hr => congrArg some ?_
  on_goal 2 => refine faithful_accept [31, 25, 22, 14, 6, 3, 0] rfl fun hr => congrArg some ?_
  on_goal 3 => refine faithful_accept [31, 25, 22, 15, 0] rfl fun hr => congrArg some ?_
  on_goal 4 => refine faithful_accept [31, 25, 22, 0] rfl fun hr => congrArg some ?_
  on_goal 5 => refine faithful_accept [31, 25, 22, 0] rfl fun hr => congrArg some ?_
  on_goal 6 => refine faithful_accept [31, 25, 22, 17, 13, 0] rfl fun hr => congrArg some ?_
  on_goal 7 => refine faithful_accept [31, 25, 22, 16, 0] rfl fun hr => congrArg some ?_
  on_goal 8 => exact faithful_error
  all_goals
    simp only [cut, Nat.reduceSub, word_cons, word_nil, place_eq, toNat_flag, toNat_bits]
    omega

theorem faithful_decodeHN (hm : fld w 30 25 = 0x39) : Faithful w (decodeHN w) := by
  unfold decodeHN
  split
  on_goal 1 => refine faithful_accept [31, 25, 22, 8, 0] rfl fun hr => congrArg some ?_
  on_goal 2 => refine faithful_accept [31, 25, 22, 19, 18, 15, 0] rfl fun hr => congrArg some ?_
  on_goal 3 => refine faithful_need pfLevel_of_code fun l hl => faithful_accept [31, 25, 22, 18, 11, 9, 0] rfl fun hr => congrArg some ?_
  on_goal 4 => refine faithful_need cachePol_of_code fun p hp => faithful_accept [31, 25, 22, 19, 0] rfl fun hr => congrArg some ?_
  on_goal 5 => exact faithful_error
  all_goals
    simp only [cut, Nat.reduceSub, word_cons, word_nil, place_eq, toNat_flag, toNat_bits]
    omega

/-- `rdsr` has a field whose upper two bits are reserved where it names a scalar register. -/
theorem faithful_rdsr (hm : fld w 30 25 = 0x3A) (ho : fld w 24 22 = 0) :
    Faithful w (if srAssigned (fld w 14 7) = false then .error 3
      else if (fld w 6 0 + (if srPerLane (fld w 14 7) then 0 else fld w 21 20)) ≠ 0 then .error 4
      else .ok (.rdsr (fld w 31 31 == 1) (BitVec.ofNat 7 (fld w 21 15)) (BitVec.ofNat 8 (fld w 14 7)))) := by
  split
  · exact faithful_error
  next ha =>
  by_cases hr : fld w 6 0 + (if srPerLane (fld w 14 7) then 0 else fld w 21 20) = 0
  case neg => rw [if_pos hr]; exact faithful_error
  rw [if_neg (not_not.2 hr)]
  obtain ⟨hz, hd⟩ := Nat.add_eq_zero_iff.1 hr
  have hwf : (Instr.rdsr (fld w 31 31 == 1) (BitVec.ofNat 7 (fld w 21 15)) (BitVec.ofNat 8 (fld w 14 7))).wellFormed = true := by
    simp only [Instr.wellFormed, toNat_bits, Bool.and_eq_true, Bool.or_eq_true, decide_eq_true_eq]
    refine ⟨by simpa using ha, or_iff_not_imp_left.2 fun hp => ?_⟩
    rw [if_neg hp] at hd
    simp only [fld] at hd ⊢
    omega
  refine faithful_ok hwf [31, 25, 22, 15, 7, 0] rfl (congrArg some ?_)
  simp only [cut, Nat.reduceSub, word_cons, word_nil, place_eq, toNat_flag, toNat_bits]
  omega

theorem faithful_decodeSY (hm : fld w 30 25 = 0x3A) : Faithful w (decodeSY w) := by
  unfold decodeSY
  split
  on_goal 1 => exact faithful_rdsr hm (by assumption)
  on_goal 1 => refine faithful_accept [31, 25, 22, 20, 15, 7, 0] rfl fun hr => congrArg some ?_
  on_goal 2 => split
  on_goal 2 => refine faithful_accept [31, 25, 22, 21, 16, 0] rfl fun hr => congrArg some ?_
  on_goal 3 => have h1 := (fld_bit w 21).resolve_left ‹_›
  on_goal 3 => refine faithful_accept [31, 25, 22, 21, 14, 0] rfl fun hr => congrArg some ?_
  on_goal 4 => refine faithful_accept [31, 25, 22, 16, 0] rfl fun hr => congrArg some ?_
  on_goal 5 => refine faithful_accept [31, 25, 22, 18, 13, 8, 0] rfl fun hr => congrArg some ?_
  on_goal 6 => exact faithful_error
  all_goals
    simp only [cut, Nat.reduceSub, word_cons, word_nil, place_eq, toNat_flag, toNat_bits]
    omega

theorem faithful_decodeHX (hm : fld w 30 25 = 0x3B) : Faithful w (decodeHX w) := by
  unfold decodeHX
  refine faithful_accept [31, 25, 0] rfl fun hr => congrArg some ?_
  simp only [cut, Nat.reduceSub, word_cons, word_nil, place_eq, toNat_flag, toNat_bits]
  omega
/-- The decoder of each major is faithful, and the other majors answer nothing. -/
theorem faithful_decode : Faithful w (decode w) := by
  unfold decode
  split
  · exact faithful_error
  split <;> rename_i hm
  case h_34 => exact faithful_error
  exacts [
    faithful_decodeSR hm, faithful_decodeSI hm, faithful_decodeSU hm, faithful_decodeSM hm,
    faithful_decodeSB hm, faithful_decodeSJ hm, faithful_decodeLR hm, faithful_decodeIntA hm,
    faithful_decodeIntB hm, faithful_decodeVI hm, faithful_decodeFloat hm, faithful_decodeFused hm,
    faithful_decodeUnary hm, faithful_decodeVT hm, faithful_decodeVC hm, faithful_decodeVS hm,
    faithful_decodeLane hm, faithful_decodeVX hm, faithful_decodeLd hm, faithful_decodeSt hm,
    faithful_decodeAtom32 hm, faithful_decodeAtom64 hm, faithful_decodeSN hm, faithful_decodeKP hm,
    faithful_decodeMC hm, faithful_decodeMT hm, faithful_decodeMM hm, faithful_decodeMA hm,
    faithful_decodeCP hm, faithful_decodeCT hm, faithful_decodeHN hm, faithful_decodeSY hm, faithful_decodeHX hm]

end

/-! ### The word of an instruction -/

/-- Every instruction is what its word decodes to. -/
theorem statement (i : Instr) : Statement i := by
  cases i
  exacts [
    Encodes.add _ _ _ _, Encodes.sub _ _ _ _, Encodes.mul _ _ _ _, Encodes.mulhS _ _ _ _, Encodes.mulhN _ _ _ _,
    Encodes.divS _ _ _ _, Encodes.divN _ _ _ _, Encodes.remS _ _ _ _, Encodes.remN _ _ _ _, Encodes.and _ _ _ _,
    Encodes.or _ _ _ _, Encodes.xor _ _ _ _, Encodes.shl _ _ _ _, Encodes.shr _ _ _ _, Encodes.sra _ _ _ _,
    Encodes.minS _ _ _ _, Encodes.maxS _ _ _ _, Encodes.minN _ _ _ _, Encodes.maxN _ _ _ _, Encodes.sltS _ _ _ _,
    Encodes.sltN _ _ _ _, Encodes.seq _ _ _ _, Encodes.bfxS _ _ _ _, Encodes.bfxN _ _ _ _, Encodes.bfi _ _ _ _,
    Encodes.clz _ _ _, Encodes.ctz _ _ _, Encodes.popc _ _ _, Encodes.jalr _ _ _, Encodes.addi _ _ _ _, Encodes.andi _ _ _ _,
    Encodes.ori _ _ _ _, Encodes.xori _ _ _ _, Encodes.shli _ _ _ _, Encodes.shri _ _ _ _, Encodes.srai _ _ _ _,
    Encodes.sltiS _ _ _ _, Encodes.luh _ _ _, Encodes.ldsN8 _ _ _ _ _, Encodes.ldsN16 _ _ _ _ _, Encodes.ldsN32 _ _ _ _ _,
    Encodes.ldsB64 _ _ _ _ _, Encodes.stsB8 _ _ _ _ _, Encodes.stsB16 _ _ _ _ _, Encodes.stsB32 _ _ _ _ _,
    Encodes.stsB64 _ _ _ _ _, Encodes.beq _ _ _ _, Encodes.bne _ _ _ _, Encodes.bltS _ _ _ _, Encodes.bgeS _ _ _ _,
    Encodes.bltN _ _ _ _, Encodes.bgeN _ _ _ _, Encodes.jal _ _ _, Encodes.emit _ _ _ _, Encodes.emitnb _ _ _ _,
    Encodes.emits _ _ _, Encodes.sopen _ _ _, Encodes.stins _ _ _, Encodes.sdecl _ _ _, Encodes.gwait _ _ _,
    Encodes.grec _ _ _, Encodes.gread _ _ _ _, Encodes.gwrite _ _ _ _, Encodes.gres _ _ _, Encodes.gkill _ _ _,
    Encodes.launch _ _ _ _, Encodes.addV _ _ _ _, Encodes.subV _ _ _ _, Encodes.mulV _ _ _ _, Encodes.mulhSV _ _ _ _,
    Encodes.mulhNV _ _ _ _, Encodes.andV _ _ _ _, Encodes.orV _ _ _ _, Encodes.xorV _ _ _ _, Encodes.shlV _ _ _ _,
    Encodes.shrV _ _ _ _, Encodes.sraV _ _ _ _, Encodes.minSV _ _ _ _, Encodes.maxSV _ _ _ _, Encodes.minNV _ _ _ _,
    Encodes.maxNV _ _ _ _, Encodes.absd _ _ _ _, Encodes.addsS _ _ _ _, Encodes.addsN _ _ _ _, Encodes.subsS _ _ _ _,
    Encodes.subsN _ _ _ _, Encodes.avgN _ _ _ _, Encodes.clzV _ _ _, Encodes.popcV _ _ _, Encodes.brev _ _ _,
    Encodes.add64 _ _ _ _, Encodes.sub64 _ _ _ _, Encodes.mulwS _ _ _ _, Encodes.mulwN _ _ _ _, Encodes.dot4S8 _ _ _ _,
    Encodes.dot4N8 _ _ _ _, Encodes.bfxV _ _ _ _, Encodes.bfiV _ _ _ _, Encodes.addiV _ _ _ _, Encodes.andiV _ _ _ _,
    Encodes.oriV _ _ _ _, Encodes.xoriV _ _ _ _, Encodes.shliV _ _ _ _, Encodes.shriV _ _ _ _, Encodes.sraiV _ _ _ _,
    Encodes.muli _ _ _ _, Encodes.faddF32 _ _ _ _, Encodes.faddH2 _ _ _ _, Encodes.faddB2 _ _ _ _, Encodes.fsubF32 _ _ _ _,
    Encodes.fsubH2 _ _ _ _, Encodes.fsubB2 _ _ _ _, Encodes.fmulF32 _ _ _ _, Encodes.fmulH2 _ _ _ _, Encodes.fmulB2 _ _ _ _,
    Encodes.fminF32 _ _ _ _, Encodes.fminH2 _ _ _ _, Encodes.fminB2 _ _ _ _, Encodes.fmaxF32 _ _ _ _, Encodes.fmaxH2 _ _ _ _,
    Encodes.fmaxB2 _ _ _ _, Encodes.ffmaF32 _ _ _ _, Encodes.ffmaH2 _ _ _ _, Encodes.ffmaB2 _ _ _ _, Encodes.ffmsF32 _ _ _ _,
    Encodes.ffmsH2 _ _ _ _, Encodes.ffmsB2 _ _ _ _, Encodes.fnmaF32 _ _ _ _, Encodes.fnmaH2 _ _ _ _, Encodes.fnmaB2 _ _ _ _,
    Encodes.ffmawH _ _ _ _, Encodes.ffmawB _ _ _ _, Encodes.frcp _ _ _ _, Encodes.frsqrt _ _ _ _, Encodes.fsqrt _ _ _ _,
    Encodes.fex2 _ _ _ _, Encodes.flg2 _ _ _ _, Encodes.fsinp _ _ _ _, Encodes.fcosp _ _ _ _, Encodes.ftanh _ _ _ _,
    Encodes.ffrac _ _ _ _, Encodes.fclass _ _ _ _, Encodes.cvt _ _ _ _ _, Encodes.cvtmfE _ _ _ _, Encodes.cvtmfD _ _ _ _,
    Encodes.pk2 _ _ _ _ _, Encodes.upk _ _ _ _ _, Encodes.cmp _ _ _ _ _ _, Encodes.ftst _ _ _ _ _, Encodes.sel _ _ _ _ _ _,
    Encodes.plog _ _ _ _ _, Encodes.shflIdx _ _ _ _, Encodes.shflUp _ _ _ _, Encodes.shflDn _ _ _ _, Encodes.shflXor _ _ _ _,
    Encodes.bcast _ _ _ _, Encodes.ballot _ _ _, Encodes.vrank _ _ _, Encodes.vcount _ _ _, Encodes.vany _ _ _,
    Encodes.vall _ _ _, Encodes.redadd _ _ _ _, Encodes.redmax _ _ _ _, Encodes.redmin _ _ _ _, Encodes.scanadd _ _ _ _,
    Encodes.mov _ _ _, Encodes.movs _ _ _, Encodes.movi _ _ _, Encodes.rdlane _ _ _ _, Encodes.wrlane _ _ _ _,
    Encodes.rdsp _ _, Encodes.movp _ _ _, Encodes.setp _ _ _, Encodes.ld _ _ _ _ _ _, Encodes.st _ _ _ _ _ _,
    Encodes.atom _ _ _ _ _ _, Encodes.atomx _ _ _ _ _ _, Encodes.atom64 _ _ _ _ _ _, Encodes.atomx64 _ _ _ _ _ _,
    Encodes.fence _ _ _ _, Encodes.barinit _ _ _ _, Encodes.barr _ _ _ _ _, Encodes.barw _ _ _ _ _, Encodes.bars _ _ _ _ _,
    Encodes.waitw _ _ _ _, Encodes.kmov _ _ _, Encodes.kwin _ _ _ _ _, Encodes.krights _ _ _ _, Encodes.kld _ _ _ _,
    Encodes.kst _ _ _ _, Encodes.kget _ _ _ _, Encodes.ktag _ _ _, Encodes.tcfg _ _ _, Encodes.acfg _ _ _,
    Encodes.tld _ _ _ _ _ _, Encodes.tst _ _ _ _ _ _, Encodes.mma _ _ _ _ _, Encodes.mmb _ _ _ _ _, Encodes.azero _ _,
    Encodes.ard _ _ _ _, Encodes.awr _ _ _ _, Encodes.acvt _ _ _, Encodes.cpyLin _ _, Encodes.cpyTen _ _ _, Encodes.cpyGat _ _,
    Encodes.cpySct _ _, Encodes.cpyRed _ _ _, Encodes.qfence _ _ _, Encodes.nop _, Encodes.setblk _ _ _ _, Encodes.setblkv _ _,
    Encodes.vote _, Encodes.exit _, Encodes.fuse _ _ _, Encodes.trap _ _, Encodes.slot _ _, Encodes.grd _ _ _ _,
    Encodes.pfch _ _ _ _, Encodes.cach _ _, Encodes.hix _ _, Encodes.rdsr _ _ _, Encodes.wrsr _ _ _, Encodes.setfmImm _ _,
    Encodes.setfmReg _ _, Encodes.brk _ _, Encodes.sinv _ _ _ _, Encodes.launchFirstHalf _ _, Encodes.launchSecondHalf _ _,
    Encodes.launchSlotStatusWrite _ _, Encodes.mailboxStatusWrite _, Encodes.registerWriteIgnored _ _, Encodes.ctxcreate,
    Encodes.ctxdestroy, Encodes.recipeset, Encodes.recipeImageWrite _, Encodes.capmint, Encodes.otinv, Encodes.otinvComplete,
    Encodes.wdtset, Encodes.codeload, Encodes.codeunload, Encodes.codeUnmap _ _, Encodes.codekey, Encodes.preempt,
    Encodes.preemptGated _, Encodes.rptake, Encodes.rpintset, Encodes.recoveryPointTimer, Encodes.wornthr, Encodes.framepool,
    Encodes.evring, Encodes.island, Encodes.railmap, Encodes.ident, Encodes.attest, Encodes.dbggrant, Encodes.dbgrevoke,
    Encodes.dbghalt, Encodes.dbgread, Encodes.dbgwrite, Encodes.dbgresume, Encodes.dbgstop, Encodes.preciseStop _,
    Encodes.dbgwatch, Encodes.tracebuf, Encodes.profcfg, Encodes.launchValidate _ _, Encodes.crewAdmit _,
    Encodes.launchClassRise _, Encodes.launchComplete _, Encodes.crewCommit _, Encodes.generalAgeSelect _, Encodes.groupWake _,
    Encodes.urgencyBit _, Encodes.portAccess _, Encodes.claimCheck _, Encodes.answerReturn _, Encodes.siblingStop _,
    Encodes.crewHaltEvent _, Encodes.trapRecordWrite _, Encodes.matrixEnginePerform _, Encodes.copyChunk _,
    Encodes.copyCompletion _, Encodes.qfencePerform _, Encodes.fenceComplete _, Encodes.barrierArrival _,
    Encodes.sinvComplete _, Encodes.fuseResolve _ _, Encodes.groupRetire _, Encodes.pageMigration _, Encodes.targetedReplay _,
    Encodes.claimScrub _, Encodes.eventQueuePlaceFree _, Encodes.gwaitWake _, Encodes.gwaitTimeout _, Encodes.emitUnblock _,
    Encodes.watchdogExpire _, Encodes.eventRingWrite, Encodes.eventRingPoll, Encodes.hostMemWrite _ _,
    Encodes.peerAccess _ _ _ _ _, Encodes.railPortDown _, Encodes.activationBackoff _ _, Encodes.uncorrectableError _,
    Encodes.correctedError _, Encodes.thermalStep _ _, Encodes.thermalCritical _ _, Encodes.thermalRecover _ _,
    Encodes.powerGood, Encodes.mailboxCommandWrite _ _, Encodes.recoveryPointCommit, Encodes.refreshHoldEnd _ _,
    Encodes.railPortUp _]

/-- Settles O58: the word decodes by the lemma of its instruction, and the decoder answers no instruction for a word that has
more than the 32 bits it reads. -/
theorem decodeOfEncode : Obligations.DecodeOfEncode := by
  intro i w hwf hw
  have hd := statement i hwf w hw
  have he := (faithful_decode i hd).2
  rw [hw, Option.some.injEq] at he
  exact ⟨he ▸ Nat.mod_lt _ (by decide), hd⟩

/-- Settles O59: each decoder answers an instruction whose fields are those of the word. -/
theorem encodeOfDecode : Obligations.EncodeOfDecode := by
  intro w i hw h
  have hf := faithful_decode i h
  rwa [Nat.mod_eq_of_lt hw] at hf

end Sys2Proof.Claims.Coding

/-! Vector words that change each active lane from that lane alone (R296 to R309, R316). Each of them is a `laneWord`; the
tables of the statements are read word by word (`Lanewise`). -/
namespace Sys2Proof.Claims.Vector
open Sys2Proof.Machine
-- One proof at a time: the text is compiled as one file, whose memory parallel elaboration would exceed.
set_option Elab.async false

/-! ### A word that changes each active lane from that lane alone -/

/-- In state s the instruction is a word lane by lane whose checks gr passes, and which makes F l of an active lane l.
`takes`: it has a field that a `hix` widens. -/
def Lanewise (i : Instr) (s : State) (gr : Machine.Group) (takes : Bool) (F : Lane → Lane) : Prop :=
  ∃ checks f, exec i s = laneWord s takes checks f ∧ firstFail (checks gr) = none ∧ ∀ l, f l = F l

section
variable {i : Instr} {s : State} {g : Nat} {gr : Machine.Group} {takes : Bool} {F : Lane → Lane} {d a b : BitVec 7}

/-- A group with an active lane performs the word on those lanes and changes nothing else (R30). -/
theorem Lanewise.performs (hl : Lanewise i s gr takes F) (ha : Acts s g gr) (hx : s.cur.hix = none ∨ takes = true) :
    exec i s = .next (s.modGroup g fun x => x.onLanes s.cur.act fun _ l => F l) := by
  obtain ⟨checks, f, he, hc, hf⟩ := hl
  rw [he, laneWord_performs ha.who ha.here ha.active hx hc, funext hf]

/-- A word whose one check is that of R20 on single registers. -/
theorem Lanewise.of_declared {rs : List (BitVec 7)} {f : Lane → Lane} (hd : Declared gr rs)
    (he : exec i s = laneWord s takes (fun x => [v1 x rs]) f) (hf : ∀ l, f l = F l) : Lanewise i s gr takes F :=
  ⟨_, f, he, Across.firstFail_declared hd, hf⟩

/-- A run that fits passes its check (R20). -/
theorem vOk_of_fits {r : BitVec 7} {n : Nat} (h : Fits gr (r, n)) : vOk gr r.toNat n = true := by
  simp only [vOk, Bool.and_eq_true, beq_iff_eq, decide_eq_true_eq]
  exact h

/-- A word whose one check is on runs of registers. -/
theorem Lanewise.of_runs {ok : Machine.Group → Bool} {f : Lane → Lane} (hk : ok gr = true)
    (he : exec i s = laneWord s takes (fun x => [(!ok x, 5)]) f) (hf : ∀ l, f l = F l) : Lanewise i s gr takes F :=
  ⟨_, f, he, by simp [firstFail, hk], hf⟩

end

/-! ### The operations of the words are those of the statements -/

theorem sh5_eq_amount32 (y : Word) : sh5 y = amount32 y := by simp [sh5, fld, amount32]

theorem shl32_eq (x y : Word) : shl32 x y = x <<< amount32 y := by rw [shl32, sh5_eq_amount32]
theorem shr32_eq (x y : Word) : shr32 x y = x >>> amount32 y := by rw [shr32, sh5_eq_amount32]
theorem sra32_eq (x y : Word) : sra32 x y = x.sshiftRight (amount32 y) := by rw [sra32, sh5_eq_amount32]

/-- A choice by a comparison of words is the choice by the comparison of their values. -/
theorem ite_slt (x y u w : Word) : (if x.slt y then u else w) = if x.toInt < y.toInt then u else w := by
  simp only [BitVec.slt, decide_eq_true_eq]
theorem ite_ult (x y u w : Word) : (if x.ult y then u else w) = if x.toNat < y.toNat then u else w := by
  simp only [BitVec.ult, decide_eq_true_eq]

/-- Saturation is clamping to the range of the type (R296). -/
theorem w32_clamp_signed (x : Int) : w32 (clampInt true 32 x) = clamp32 (-2 ^ 31) (2 ^ 31 - 1) x := rfl
theorem w32_clamp_unsigned (x : Int) : w32 (clampInt false 32 x) = clamp32 0 (2 ^ 32 - 1) x := rfl

/-- Byte i of an element as the model reads it. -/
theorem byteOf_unsigned (x : Word) (i : Nat) : byteOf false x i = byteN x i := by
  simp [byteOf, byteN, fld, Nat.shiftRight_eq_div_pow]

theorem byteOf_signed (x : Word) (i : Nat) : byteOf true x i = byteS x i := by
  have h : fld x.toNat (8 * i + 7) (8 * i) = (x.extractLsb' (8 * i) 8).toNat := by simp [fld, Nat.shiftRight_eq_div_pow]
  simp only [byteOf, byteS, h, if_true]
  exact sval_toNat _ (by decide)

/-- An element plus an integer, modulo 2^32. -/
theorem w32_toNat_add (v : Word) (n : Int) : w32 ((v.toNat : Int) + n) = v + BitVec.ofInt 32 n := by
  rw [w32, BitVec.ofInt_add, BitVec.ofInt_natCast, BitVec.ofNat_toNat, BitVec.setWidth_eq]

theorem dot4_signed (v x y : Word) : dot4 true v x y = v + BitVec.ofInt 32
    (byteS x 0 * byteS y 0 + byteS x 1 * byteS y 1 + byteS x 2 * byteS y 2 + byteS x 3 * byteS y 3) := by
  simp only [dot4, byteOf_signed, Int.add_assoc, w32_toNat_add]
theorem dot4_unsigned (v x y : Word) : dot4 false v x y = v + BitVec.ofInt 32
    (byteN x 0 * byteN y 0 + byteN x 1 * byteN y 1 + byteN x 2 * byteN y 2 + byteN x 3 * byteN y 3) := by
  simp only [dot4, byteOf_unsigned, Int.add_assoc, w32_toNat_add]

/-- Immediates at an element's width (R260). -/
theorem ofInt_payload {n : Nat} (p : BitVec 25) (x : BitVec n) (hn : 7 ≤ n) :
    BitVec.ofInt 32 (p ++ x).toInt = (p ++ x).setWidth 32 := BitVec.signExtend_eq_setWidth_of_le _ (by omega)

theorem immW_eq_wide8 (h : Option (BitVec 25)) (x : BitVec 8) : immW h 8 x.toNat = wide8 h x := by
  cases h with
  | none => rw [immW, immS_none x (by decide)]; rfl
  | some p => rw [immW, immS_some, ofInt_payload p x (by decide)]; rfl
theorem immW_eq_wide14 (h : Option (BitVec 25)) (x : BitVec 14) : immW h 14 x.toNat = wide14 h x := by
  cases h with
  | none => rw [immW, immS_none x (by decide)]; rfl
  | some p => rw [immW, immS_some, ofInt_payload p x (by decide)]; rfl

/-- A number below 32 is its own amount. -/
theorem amount32_of_lt {y : Word} (h : y < 32) : amount32 y = y.toNat := by
  have hy : y.toNat < 32 := h
  rw [← sh5_eq_amount32, sh5, fld]
  omega

/-! ### Integer words (R296 to R298) -/

section
variable {i : Instr} {s : State} {gr : Machine.Group} {d a b : BitVec 7}

/-- The change that an integer word makes in a lane: vd is written over vd, va and vb. -/
def writes (d a b : BitVec 7) (f : Word → Word → Word → Word) (l : Lane) : Lane :=
  l.wr d.toNat (f (l.rd d.toNat) (l.rd a.toNat) (l.rd b.toNat))

theorem Lanewise.of_binVec {F : Word → Word → Word → Word} (f : Word → Word → Word) (hd : Declared gr [d, a, b])
    (he : exec i s = binVec s d a b f) (hf : ∀ v x y, f x y = F v x y) : Lanewise i s gr false (writes d a b F) :=
  .of_declared hd he fun _ => by rw [writes, hf]

theorem Lanewise.of_unVec {F : Word → Word → Word → Word} (f : Word → Word) (hd : Declared gr [d, a, a])
    (he : exec i s = unVec s d a f) (hf : ∀ v x y, f x = F v x y) : Lanewise i s gr false (writes d a a F) :=
  .of_declared (rs := [d, a]) (fun r hr => hd r (by simp at hr ⊢; tauto)) he fun _ => by rw [writes, hf]

theorem Lanewise.of_triVec {F : Word → Word → Word → Word} (f : Word → Word → Word → Word) (hd : Declared gr [d, a, b])
    (he : exec i s = triVec s d a b f) (hf : ∀ v x y, f v x y = F v x y) : Lanewise i s gr false (writes d a b F) :=
  .of_declared hd he fun _ => by rw [writes, hf]

/-- An integer word writes what the table says (R296, R297, R316). -/
theorem lanewise_of_integerResult {f : Word → Word → Word → Word} (hv : integerResult i = some (d, a, b, f))
    (hd : Declared gr [d, a, b]) : Lanewise i s gr false (writes d a b f) := by
  cases i
  case addV => cases hv; exact .of_binVec (· + ·) hd rfl fun _ _ _ => rfl
  case subV => cases hv; exact .of_binVec (· - ·) hd rfl fun _ _ _ => rfl
  case mulV => cases hv; exact .of_binVec (· * ·) hd rfl fun _ _ _ => rfl
  case mulhSV => cases hv; exact .of_binVec (fun x y => w32 (x.toInt * y.toInt / ((2 ^ 32 : Nat) : Int))) hd rfl fun _ _ _ => rfl
  case mulhNV => cases hv; exact .of_binVec (fun x y => BitVec.ofNat 32 (x.toNat * y.toNat / 2 ^ 32)) hd rfl fun _ _ _ => rfl
  case andV => cases hv; exact .of_binVec (· &&& ·) hd rfl fun _ _ _ => rfl
  case orV => cases hv; exact .of_binVec (· ||| ·) hd rfl fun _ _ _ => rfl
  case xorV => cases hv; exact .of_binVec (· ^^^ ·) hd rfl fun _ _ _ => rfl
  case shlV => cases hv; exact .of_binVec shl32 hd rfl fun _ => shl32_eq
  case shrV => cases hv; exact .of_binVec shr32 hd rfl fun _ => shr32_eq
  case sraV => cases hv; exact .of_binVec sra32 hd rfl fun _ => sra32_eq
  case minSV => cases hv; exact .of_binVec (fun x y => if x.slt y then x else y) hd rfl fun _ x y => ite_slt x y x y
  case maxSV => cases hv; exact .of_binVec (fun x y => if x.slt y then y else x) hd rfl fun _ x y => ite_slt x y y x
  case minNV => cases hv; exact .of_binVec (fun x y => if x.ult y then x else y) hd rfl fun _ x y => ite_ult x y x y
  case maxNV => cases hv; exact .of_binVec (fun x y => if x.ult y then y else x) hd rfl fun _ x y => ite_ult x y y x
  case absd => cases hv; exact .of_binVec (fun x y => BitVec.ofNat 32 (x.toInt - y.toInt).natAbs) hd rfl fun _ _ _ => rfl
  case addsS =>
    cases hv; exact .of_binVec (fun x y => w32 (clampInt true 32 (x.toInt + y.toInt))) hd rfl fun _ _ _ => w32_clamp_signed _
  case addsN =>
    cases hv
    exact .of_binVec (fun x y => w32 (clampInt false 32 ((x.toNat : Int) + y.toNat))) hd rfl fun _ _ _ => w32_clamp_unsigned _
  case subsS =>
    cases hv; exact .of_binVec (fun x y => w32 (clampInt true 32 (x.toInt - y.toInt))) hd rfl fun _ _ _ => w32_clamp_signed _
  case subsN =>
    cases hv
    exact .of_binVec (fun x y => w32 (clampInt false 32 ((x.toNat : Int) - y.toNat))) hd rfl fun _ _ _ => w32_clamp_unsigned _
  case avgN => cases hv; exact .of_binVec (fun x y => BitVec.ofNat 32 ((x.toNat + y.toNat + 1) / 2)) hd rfl fun _ _ _ => rfl
  case bfxV =>
    cases hv; exact .of_binVec (fun x c => w32 (bfx (c.getLsbD 15) 32 x.toNat (vPos c) (vLen c))) hd rfl fun _ _ _ => rfl
  case clzV => cases hv; exact .of_unVec (fun x => BitVec.ofNat 32 (clzN 32 x.toNat)) hd rfl fun _ _ _ => rfl
  case popcV => cases hv; exact .of_unVec (fun x => BitVec.ofNat 32 (popN 32 x.toNat)) hd rfl fun _ _ _ => rfl
  case brev => cases hv; exact .of_unVec brev32 hd rfl fun _ _ _ => rfl
  case mov => cases hv; exact .of_unVec id hd rfl fun _ _ _ => rfl
  case dot4S8 => cases hv; exact .of_triVec (dot4 true) hd rfl dot4_signed
  case dot4N8 => cases hv; exact .of_triVec (dot4 false) hd rfl dot4_unsigned
  case bfiV =>
    cases hv; exact .of_triVec (fun v x c => BitVec.ofNat 32 (bfi 32 v.toNat (vPos c) (vLen c) x.toNat)) hd rfl fun _ _ _ => rfl
  all_goals cases hv

end

/-- Settles O3: an integer word is a word lane by lane that writes what the table says. -/
theorem vectorIntegerResult : Obligations.VectorIntegerResult :=
  fun _ _ _ _ _ _ _ _ ha hx hv hd => (lanewise_of_integerResult hv hd).performs ha (.inl hx)

/-! ### Words with an immediate, and words on pairs -/

section
variable {i : Instr} {s : State} {gr : Machine.Group} {d a b : BitVec 7} {x : BitVec 8} {F : Word → Word}

theorem Lanewise.of_immVec (f : Word → Word → Word) (hd : Declared gr [d, a]) (he : exec i s = immVec s d a x f)
    (hf : ∀ y, f y (wide8 s.cur.hix x) = F y) : Lanewise i s gr true fun l => l.wr d.toNat (F (l.rd a.toNat)) :=
  .of_declared hd he fun _ => by rw [immW_eq_wide8, hf]

/-- A shift by an immediate in 0 to 31, the only values for which the table has an entry. -/
theorem Lanewise.of_shiftVec {e c : BitVec 7} {G : Word → Word} (f : Word → Word → Word) (he : exec i s = shiftVec s e c x f)
    (hf : wide8 s.cur.hix x < 32 → ∀ y, f y (wide8 s.cur.hix x) = G y)
    (hv : (if wide8 s.cur.hix x < 32 then some (e, c, G) else none) = some (d, a, F)) (hd : Declared gr [d, a]) :
    Lanewise i s gr true fun l => l.wr d.toNat (F (l.rd a.toNat)) := by
  obtain ⟨hb, hv⟩ := Option.ite_none_right_eq_some.1 hv
  cases hv
  have hn : ¬ 31 < (wide8 s.cur.hix x).toNat := Nat.not_lt.2 (Nat.le_of_lt_succ hb)
  refine ⟨_, _, he, ?_, fun l => ?_⟩
  · simp only [immW_eq_wide8, firstFail, v1_passes hd, hn, decide_false, Bool.false_eq_true, if_false]
  · rw [immW_eq_wide8, hf hb]

/-- A word with an immediate writes what the table says under the payload of its `hix` (R298, R316). -/
theorem lanewise_of_vectorImmediate (hv : vectorImmediate s.cur.hix i = some (d, a, F)) (hd : Declared gr [d, a]) :
    Lanewise i s gr true fun l => l.wr d.toNat (F (l.rd a.toNat)) := by
  cases i
  case addiV => cases hv; exact .of_immVec (· + ·) hd rfl fun _ => rfl
  case andiV => cases hv; exact .of_immVec (· &&& ·) hd rfl fun _ => rfl
  case oriV => cases hv; exact .of_immVec (· ||| ·) hd rfl fun _ => rfl
  case xoriV => cases hv; exact .of_immVec (· ^^^ ·) hd rfl fun _ => rfl
  case muli => cases hv; exact .of_immVec (· * ·) hd rfl fun _ => rfl
  case shliV => exact .of_shiftVec shl32 rfl (fun h y => by rw [shl32_eq, amount32_of_lt h]) hv hd
  case shriV => exact .of_shiftVec shr32 rfl (fun h y => by rw [shr32_eq, amount32_of_lt h]) hv hd
  case sraiV => exact .of_shiftVec sra32 rfl (fun h y => by rw [sra32_eq, amount32_of_lt h]) hv hd
  case movi =>
    cases hv
    exact .of_declared (rs := [d]) (fun r hr => hd r (List.mem_cons_of_mem _ hr)) rfl fun _ => by rw [immW_eq_wide14]
  all_goals cases hv

/-- A value of the table's pair words: a pair of registers, or one register (R18). -/
def operand (w : Bool) (l : Lane) (r : BitVec 7) : Nat := if w then l.rd64 r.toNat else (l.rd r.toNat).toNat

/-- A word that writes a pair writes what the table says, low word first (R18, R296). -/
theorem lanewise_of_pairResult {w : Bool} {f : Nat → Nat → Nat} (hv : pairResult i = some (w, d, a, b, f)) (hd : Fits gr (d, 2))
    (ha : Fits gr (a, if w then 2 else 1)) (hb : Fits gr (b, if w then 2 else 1)) :
    Lanewise i s gr false fun l => l.wr64 d.toNat (f (operand w l a) (operand w l b)) := by
  have hk : (vOk gr d.toNat 2 && vOk gr a.toNat (if w then 2 else 1) && vOk gr b.toNat (if w then 2 else 1)) = true := by
    rw [vOk_of_fits hd, vOk_of_fits ha, vOk_of_fits hb]; rfl
  cases i
  case add64 => cases hv; exact .of_runs (ok := fun x => vOk x d.toNat 2 && vOk x a.toNat 2 && vOk x b.toNat 2) hk rfl fun _ => rfl
  case sub64 => cases hv; exact .of_runs (ok := fun x => vOk x d.toNat 2 && vOk x a.toNat 2 && vOk x b.toNat 2) hk rfl fun _ => rfl
  case mulwS =>
    cases hv
    exact .of_runs (ok := fun x => vOk x d.toNat 2 && vOk x a.toNat 1 && vOk x b.toNat 1) hk rfl fun l => by
      simp only [operand, Bool.false_eq_true, if_false, BitVec.ofNat_toNat, BitVec.setWidth_eq]; rfl
  case mulwN => cases hv; exact .of_runs (ok := fun x => vOk x d.toNat 2 && vOk x a.toNat 1 && vOk x b.toNat 1) hk rfl fun _ => rfl
  all_goals cases hv

end

/-- Settles O4: words with an immediate, under the payload of their `hix`, and words on pairs, are words lane by lane. -/
theorem vectorImmediateAndPairResult : Obligations.VectorImmediateAndPairResult :=
  ⟨fun _ _ _ _ _ _ _ ha hv hd => (lanewise_of_vectorImmediate hv hd).performs ha (.inr rfl),
   fun _ _ _ _ _ _ _ _ _ ha hx hv hd h1 h2 => (lanewise_of_pairResult hv hd h1 h2).performs ha (.inl hx)⟩

end Sys2Proof.Claims.Vector

/-! Floating-point words, conversions and predicates lane by lane, and folds over the lanes (R299 to R309, R313 to R316). -/
namespace Sys2Proof.Claims.Vector
open Sys2Proof.Machine
-- One proof at a time: the text is compiled as one file, whose memory parallel elaboration would exceed.
set_option Elab.async false

/-! ### Floating-point words (R299 to R304, R307) -/

/-- What the table of floating-point words makes of a lane, under that lane's own mode (R294). -/
def floated (i : Instr) (l : Lane) : Lane :=
  match floatResult (modeOf l.fmode) i with
  | some (d, a, b, f) => l.wr d.toNat (f (l.rd d.toNat) (l.rd a.toNat) (l.rd b.toNat))
  | none => l

section
variable {i : Instr} {s : State} {gr : Machine.Group} {d a b : BitVec 7}

/-- A word whose registers are those of the table. -/
theorem Lanewise.of_table {e p q : BitVec 7} {F f : Word → Word → Word → Word} {G : Lane → Lane} {rs : List (BitVec 7)}
    (hv : some (e, p, q, F) = some (d, a, b, f)) (hd : Declared gr [d, a, b]) (hs : ∀ r ∈ rs, r ∈ [e, p, q])
    (he : exec i s = laneWord s false (fun x => [v1 x rs]) G) (hf : ∀ l, G l = floated i l) :
    Lanewise i s gr false (floated i) := by
  cases hv
  exact .of_declared (rs := rs) (fun r hr => hd r (hs r hr)) he hf

/-- The registers of a word with one source are among those of the table, which names it twice. -/
theorem mem_of_mem_pair {e p : BitVec 7} : ∀ r ∈ [e, p], r ∈ [e, p, p] :=
  fun r hr => by simp only [List.mem_cons, List.not_mem_nil, or_false] at hr ⊢; tauto

/-- Bits [15:0] or [31:16] of an element. -/
theorem half_toNat (x : Word) (h : Bool) :
    half x (if h then 1 else 0) = if h then x.toNat / 65536 % 65536 else x.toNat % 65536 := by
  cases h <;> simp [half, fld]

/-- A floating-point word is a word lane by lane that writes what the table says under the mode of each lane. -/
theorem lanewise_of_floatResult {m : Mode} {f : Word → Word → Word → Word} (hv : floatResult m i = some (d, a, b, f))
    (hd : Declared gr [d, a, b]) : Lanewise i s gr false (floated i) := by
  cases i
  case faddF32 | faddH2 | faddB2 | fsubF32 | fsubH2 | fsubB2 | fmulF32 | fmulH2 | fmulB2 | fminF32 | fminH2 | fminB2
      | fmaxF32 | fmaxH2 | fmaxB2 | ffmaF32 | ffmaH2 | ffmaB2 | ffmsF32 | ffmsH2 | ffmsB2 | fnmaF32 | fnmaH2 | fnmaB2
      | ffmawH | ffmawB | pk2 =>
    exact .of_table hv hd (fun _ => id) rfl fun _ => rfl
  case frcp | frsqrt | fsqrt | fex2 | flg2 | fsinp | fcosp | ftanh | ffrac | fclass =>
    exact .of_table hv hd mem_of_mem_pair rfl fun _ => rfl
  case upk => exact .of_table hv hd mem_of_mem_pair rfl fun l => by rw [half_toNat]; rfl
  all_goals cases hv

/-- The registers of a floating-point word do not depend on the mode. -/
theorem floatResult_registers {m : Mode} {f : Word → Word → Word → Word} (hv : floatResult m i = some (d, a, b, f)) (m' : Mode) :
    ∃ f', floatResult m' i = some (d, a, b, f') := by
  cases i <;> cases hv <;> exact ⟨_, rfl⟩

end

/-- Settles O5: each element is computed under the FMODE of its own lane. -/
theorem vectorFloatResult : Obligations.VectorFloatResult := by
  rintro i s g gr d a b ha hx ⟨f, hv⟩ hd
  rw [(lanewise_of_floatResult hv hd).performs ha (.inl hx)]
  congr
  funext x
  congr
  funext n l
  obtain ⟨f', hf⟩ := floatResult_registers hv (modeOf l.fmode)
  simp only [floated, hf]

/-! ### Conversions (R305, R306) -/

section
variable {s : State} {g : Nat} {gr : Machine.Group}

/-- `cvt` checks its two runs of registers and converts lane by lane. -/
theorem lanewise_cvt (S : Bool) {d a : BitVec 7} {y z : TyCode} (hd : Fits gr (d, regsOf y)) (hs : Fits gr (a, regsOf z)) :
    Lanewise (.cvt S d a y z) s gr false fun l =>
      l.wrN d.toNat (extended y (convert (numTy y) (numTy z) (modeOf l.fmode) (l.rdN a.toNat (regsOf z)))) (regsOf y) :=
  .of_runs (ok := fun x => vOk x d.toNat (regsOf y) && vOk x a.toNat (regsOf z)) (by rw [vOk_of_fits hd, vOk_of_fits hs]; rfl) rfl
    fun _ => rfl

/-- The descriptor of a `cvtmf` passes exactly when it is a legal MF or MFS descriptor. -/
theorem mfDescOk_iff {v : DWord} : mfDescOk v = true ↔
    descLegal (fld v.toNat 31 0) = true ∧ ((descOf (fld v.toNat 31 0)).fmt = 9 ∨ (descOf (fld v.toNat 31 0)).fmt = 10) := by
  simp [mfDescOk]

variable {d a : BitVec 7} {b : BitVec 5} {f : Desc → Mode → Nat → Nat} (ha : Acts s g gr) (hx : s.cur.hix = none)
include ha hx

/-- A `cvtmf` under a legal descriptor converts lane by lane. -/
theorem mfWord_performs (hd : Declared gr [d, a]) (hk : mfDescOk (gr.rs b.toNat) = true) :
    mfWord s d a b f = .next (s.modGroup g fun x => x.onLanes s.cur.act fun _ l =>
      l.wr d.toNat (BitVec.ofNat 32 (f (descOf (fld (gr.rs b.toNat).toNat 31 0)) l.mode (l.rd a.toNat).toNat))) := by
  rw [mfWord, actWord_performs ha.who ha.here ha.active (.inl hx) (by simp [firstFail, hk, v1_passes hd]) rfl]

/-- Under another one it traps UNDEF with reason 3. -/
theorem mfWord_undef (hk : ¬ mfDescOk (gr.rs b.toNat) = true) : mfWord s d a b f = .next ((s.countRefused g gr).undef g 3) :=
  actWord_undef ha.who ha.here (.inl hx) (by simp [firstFail, hk])

end

/-- What `cvtmf.e` makes of an element. -/
def encoded (desc : Desc) (md : Mode) (x : Nat) : Nat := encodeMF desc md.rm md.sat (readF .f32 md x)

/-- Settles O6: `cvt` is a word lane by lane; the two minifloat forms share their operand form. -/
theorem conversionResult : Obligations.ConversionResult := by
  refine ⟨fun S d a y z s g gr ha hx hd hs => (lanewise_cvt S hd hs).performs ha (.inl hx), fun S d a b s g gr ha hx hd => ?_⟩
  dsimp only
  split
  · next h =>
    have hk := mfDescOk_iff.2 h
    exact ⟨mfWord_performs (f := encoded) ha hx hd hk, mfWord_performs (f := mfToF32) ha hx hd hk⟩
  · next h =>
    have hk := mt mfDescOk_iff.1 h
    exact ⟨mfWord_undef (f := encoded) ha hx hk, mfWord_undef (f := mfToF32) ha hx hk⟩

/-! ### Comparisons and predicate words (R308, R309, R316) -/

/-- The entry of a truth table for two predicates. -/
theorem truthTable_index (x y : Bool) : (if x then 2 else 0) + (if y then 1 else 0) = 2 * x.toNat + y.toNat := by
  cases x <;> cases y <;> rfl

/-- A comparison with zero as a truth value. -/
theorem bne_zero (x : Word) : (x != 0) = decide (x ≠ 0) := by rw [Bool.eq_iff_iff]; simp

/-- A predicate word writes the predicate that the table says. -/
theorem lanewise_of_predicateResult {i : Instr} {s : State} {gr : Machine.Group} {rs : List (BitVec 7 × Nat)} {p : BitVec 3}
    {f : Lane → Bool} (hv : predicateResult i = some (rs, p, f)) (hr : ∀ r ∈ rs, Fits gr r) :
    Lanewise i s gr false fun l => l.setPred p (f l) := by
  have hdecl : ∀ r : BitVec 7, Fits gr (r, 1) → r.toNat < gr.regs := fun r h => h.2
  cases i
  case cmp S p c a b t =>
    cases hv
    exact .of_runs (ok := fun x => vOk x a.toNat (regsOf t) && vOk x b.toNat (regsOf t))
      (by rw [vOk_of_fits (hr (a, _) (by simp)), vOk_of_fits (hr (b, _) (by simp))]; rfl) rfl fun _ => rfl
  case ftst S p a b t =>
    cases hv
    exact .of_declared (rs := [a, b]) (by simpa [Declared] using ⟨hdecl a (hr _ (by simp)), hdecl b (hr _ (by simp))⟩) rfl fun _ => rfl
  case plog =>
    cases hv
    exact ⟨fun _ => [], _, rfl, rfl, fun l => by rw [truthTable_index]⟩
  case setp S d a =>
    cases hv
    exact .of_declared (rs := [a]) (by simpa [Declared] using hdecl a (hr _ (by simp))) rfl fun l => by
      rw [bne_zero]
  all_goals cases hv

/-- Settles O7: a predicate word is a word lane by lane that writes the predicate the table says. -/
theorem predicateResult : Obligations.PredicateResult :=
  fun _ _ _ _ _ _ _ ha hx hv hr => (lanewise_of_predicateResult hv hr).performs ha (.inl hx)

end Sys2Proof.Claims.Vector

/-! Reductions and scans (R313 to R315): the running values of the model's fold are folds over the lanes before. -/
namespace Sys2Proof.Claims.Fold
open Sys2Proof.Machine
-- One proof at a time: the text is compiled as one file, whose memory parallel elaboration would exceed.
set_option Elab.async false

/-! ### The operations -/

/-- The signed value of the low 32 bits. -/
theorem sval_eq_toInt (x : Nat) : sval 32 x = (BitVec.ofNat 32 x).toInt := by
  rw [← sval_toNat _ (by decide), BitVec.toNat_ofNat, sval, sval, Nat.mod_mod]

/-- The types that fold are 32-bit integers and F32; on each the model's operation is that of the statement. -/
theorem foldAdd_of_sumOf {t : TyCode} {op : Mode → Nat → Nat → Nat} (h : sumOf t = some op) :
    t.isFloat = decide (t = .f32) ∧ foldAdd t = op := by
  cases t <;> cases h <;> exact ⟨rfl, rfl⟩

theorem foldMax_of_greaterOf {t : TyCode} {op : Mode → Nat → Nat → Nat} (h : greaterOf t = some op) :
    t.isFloat = decide (t = .f32) ∧ foldMax t = op := by
  cases t <;> cases h <;> refine ⟨rfl, ?_⟩ <;> funext md x y
  case s32 => simp only [foldMax, TyCode.isFloat, Bool.false_eq_true, if_false, if_true, sval_eq_toInt]
  case n32 => exact max_def_lt x y
  case f32 => rfl

theorem foldMin_of_lesserOf {t : TyCode} {op : Mode → Nat → Nat → Nat} (h : lesserOf t = some op) :
    t.isFloat = decide (t = .f32) ∧ foldMin t = op := by
  cases t <;> cases h <;> refine ⟨rfl, ?_⟩ <;> funext md x y
  case s32 => simp only [foldMin, TyCode.isFloat, Bool.false_eq_true, if_false, if_true, sval_eq_toInt]
  case n32 => exact (min_comm x y).trans (min_def_lt y x)
  case f32 => rfl

/-- A fold of the table is the model's fold word on the same operation. -/
theorem exec_of_foldResult {i : Instr} {s : State} {d a : BitVec 7} {t : TyCode} {scan : Bool} {op : Mode → Nat → Nat → Nat}
    (hv : foldResult i = some (d, a, t, scan, op)) :
    exec i s = foldWord s d a t scan op ∧ t.isFloat = decide (t = .f32) := by
  cases i
  case redadd =>
    obtain ⟨op, ho, hv⟩ := Option.map_eq_some_iff.1 hv
    cases hv
    obtain ⟨hf, rfl⟩ := foldAdd_of_sumOf ho
    exact ⟨rfl, hf⟩
  case redmax =>
    obtain ⟨op, ho, hv⟩ := Option.map_eq_some_iff.1 hv
    cases hv
    obtain ⟨hf, rfl⟩ := foldMax_of_greaterOf ho
    exact ⟨rfl, hf⟩
  case redmin =>
    obtain ⟨op, ho, hv⟩ := Option.map_eq_some_iff.1 hv
    cases hv
    obtain ⟨hf, rfl⟩ := foldMin_of_lesserOf ho
    exact ⟨rfl, hf⟩
  case scanadd =>
    obtain ⟨op, ho, hv⟩ := Option.map_eq_some_iff.1 hv
    cases hv
    obtain ⟨hf, rfl⟩ := foldAdd_of_sumOf ho
    exact ⟨rfl, hf⟩
  all_goals cases hv

/-! ### Running values -/

theorem foldFrom_getLastD (op : Nat → Nat → Nat) : ∀ (ys : List Nat) (x z : Nat), (foldFrom op x ys).getLastD z = ys.foldl op x
  | [], _, _ => rfl
  | y :: ys, x, z => by
    rw [foldFrom, List.getLastD_cons, foldFrom_getLastD op ys]
    rfl

/-- The value at place k takes in the first k values. -/
theorem foldFrom_getElem? (op : Nat → Nat → Nat) : ∀ (ys : List Nat) (x k : Nat), k ≤ ys.length →
    (foldFrom op x ys)[k]? = some ((ys.take k).foldl op x)
  | [], _, 0, _ => rfl
  | _ :: _, _, 0, _ => rfl
  | y :: ys, x, k + 1, h => by
    rw [foldFrom, List.getElem?_cons_succ, foldFrom_getElem? op ys _ k (Nat.le_of_succ_le_succ h)]
    rfl

/-- Lanes outside the active set do not matter for a change of the active lanes. -/
theorem onLanes_congr {gr : Machine.Group} {act : List Nat} {f f' : Nat → Lane → Lane} (h : ∀ n ∈ act, ∀ l, f n l = f' n l) :
    gr.onLanes act f = gr.onLanes act f' := by
  have hm : ∀ (ls : List Lane) (i : Nat), mapLanes act f ls i = mapLanes act f' ls i := by
    intro ls
    induction ls with
    | nil => exact fun _ => rfl
    | cons l r ih =>
      intro i
      simp only [mapLanes, ih]
      split
      · next hc => rw [h i (List.contains_iff_mem.1 hc)]
      · rfl
  rw [Group.onLanes, Group.onLanes, hm]

/-! ### The modes of the lanes (R315) -/

theorem foldModes_eq_false {gr : Machine.Group} {act : List Nat} : foldModes gr act = false ↔
    ∃ j ∈ act.tail, (gr.lane j).fmode &&& 0xDF ≠ (gr.lane (act.headD 0)).fmode &&& 0xDF := by
  cases act with
  | nil => simp [foldModes]
  | cons i r => simp [foldModes]

section
variable {s : State} {g : Nat} {gr : Machine.Group} {d a : BitVec 7} {t : TyCode} {scan : Bool} {op : Mode → Nat → Nat → Nat}
  (ha : Acts s g gr) (hx : s.cur.hix = none) (hd : Declared gr [d, a]) (ht : t.isFloat = decide (t = .f32))
include ha hx hd ht

/-- Lanes that disagree in their modes stop a float fold (R315). -/
theorem foldWord_traps (hf : t = .f32)
    (hm : ∃ j ∈ s.cur.act.tail, (gr.lane j).fmode &&& 0xDF ≠ (gr.lane (s.cur.act.headD 0)).fmode &&& 0xDF) :
    foldWord s d a t scan op = .next (s.trapNow g 5 s.cur.act 0 0 0) := by
  rw [foldWord, actWord_performs ha.who ha.here ha.active (.inl hx) (Across.firstFail_declared hd) rfl]
  have hno : (t.isFloat && !foldModes gr s.cur.act) = true := by rw [ht, foldModes_eq_false.2 hm, decide_eq_true hf]; rfl
  rw [if_pos hno]

/-- Otherwise each active lane has the fold of the lanes of ACT, or of those up to its own (R313, R314). -/
theorem foldWord_performs
    (hm : ¬ (t = .f32 ∧ ∃ j ∈ s.cur.act.tail, (gr.lane j).fmode &&& 0xDF ≠ (gr.lane (s.cur.act.headD 0)).fmode &&& 0xDF)) :
    let md := modeOf (gr.lane (s.cur.act.headD 0)).fmode
    let code := fun i => ((gr.lane i).rd a.toNat).toNat
    let first := if t = .f32 then returned .f32 md (code (s.cur.act.headD 0)) else code (s.cur.act.headD 0)
    foldWord s d a t scan op = .next (s.modGroup g fun x => x.onLanes s.cur.act fun i l => l.wr d.toNat (BitVec.ofNat 32
      ((if scan then s.cur.act.tail.take (s.cur.act.idxOf i) else s.cur.act.tail).foldl (fun x i => op md x (code i)) first))) := by
  intro md code first
  rw [foldWord, actWord_performs ha.who ha.here ha.active (.inl hx) (Across.firstFail_declared hd) rfl]
  have hok : ¬ (t.isFloat && !foldModes gr s.cur.act) = true := by
    rw [Bool.and_eq_true, Bool.not_eq_true', foldModes_eq_false, ht, decide_eq_true_eq]
    exact hm
  rw [if_neg hok]
  obtain ⟨i0, rest, hact⟩ := List.exists_cons_of_ne_nil ha.active
  have hrun : running t md (op md) (s.cur.act.map code) = foldFrom (op md) first (rest.map code) := by
    simp only [hact, List.map_cons, running, ht, decide_eq_true_eq, first, List.headD_cons]
  refine congrArg (fun f => Host.Outcome.next (s.modGroup g f)) (funext fun x => onLanes_congr fun i hi l => ?_)
  refine congrArg (fun n => l.wr d.toNat (BitVec.ofNat 32 n)) ?_
  change (if scan = true then ((running t md (op md) (s.cur.act.map code))[s.cur.act.idxOf i]?).getD 0
    else (running t md (op md) (s.cur.act.map code)).getLastD 0) = _
  have hlt : s.cur.act.idxOf i ≤ (rest.map code).length := by
    have := List.idxOf_lt_length_of_mem hi
    rw [hact, List.length_cons] at this
    rw [hact, List.length_map]
    omega
  rw [hrun, foldFrom_getElem? _ _ _ _ hlt, foldFrom_getLastD]
  have htail : s.cur.act.tail = rest := by rw [hact, List.tail_cons]
  cases scan
  · simp only [Bool.false_eq_true, if_false, htail, List.foldl_map]
  · simp only [if_true, htail, Option.getD_some, ← List.map_take, List.foldl_map]

end

/-- Settles O9: the running values of the fold word are folds over the active lanes. -/
theorem foldResult : Obligations.FoldResult := by
  intro i s g gr d a t scan op ha hx hv hd
  obtain ⟨he, ht⟩ := exec_of_foldResult (s := s) hv
  dsimp only
  rw [he]
  split
  · next h => exact foldWord_traps ha hx hd ht h.1 h.2
  · next h => exact foldWord_performs ha hx hd ht h

end Sys2Proof.Claims.Fold

/-! Control words, hints and special registers (R366 to R384): what a word that the checks let pass leaves behind. -/
namespace Sys2Proof.Claims.Control
open Sys2Proof.Machine
-- One proof at a time: the text is compiled as one file, whose memory parallel elaboration would exceed.
set_option Elab.async false

section
variable {s : State} {g : Nat} {gr : Machine.Group} {checks : Machine.Group → List (Bool × Nat)}
  {body : Nat → Machine.Group → Out} {act : Nat → Machine.Group → State}

/-! ### Words that every group performs -/

/-- A word of every role on the active lanes, without a `hix` and with its checks passed. -/
theorem actWord_here (ha : Acts s g gr) (hx : s.cur.hix = none) (hc : firstFail (checks gr) = none) :
    actWord s false checks anyRole act = .next (act g gr) :=
  actWord_performs ha.who ha.here ha.active (.inl hx) hc rfl

/-- A word of every role on the active lanes without a check. -/
theorem actWord_unchecked (ha : Acts s g gr) (hx : s.cur.hix = none) :
    actWord s false (fun _ => []) anyRole act = .next (act g gr) := actWord_here ha hx rfl

/-- A word of every role whatever the active set is, without a `hix` and with its checks passed. -/
theorem groupWord_here (hi : Issues s g gr) (hx : s.cur.hix = none) (hc : firstFail (checks gr) = none) :
    groupWord s false checks anyRole body = body g gr :=
  groupWord_performs hi.who hi.here (.inl hx) hc rfl

theorem groupWord_unchecked (hi : Issues s g gr) (hx : s.cur.hix = none) :
    groupWord s false (fun _ => []) anyRole body = body g gr := groupWord_here hi hx rfl

/-- A change of a group that is there depends on its value there alone. -/
theorem modGroup_congr (hg : s.group? g = some gr) {f f' : Machine.Group → Machine.Group} (h : f gr = f' gr) :
    s.modGroup g f = s.modGroup g f' := by
  have ht : tget s.groups g = some gr := hg
  simp only [State.modGroup, tmod, ht, h]

/-! ### Blocks and modes (R258, R366 to R370, R383) -/

theorem blockOk_iff (b : BitVec 8) : blockOk s gr b = true ↔ b = 255 ∨ b.toNat < s.blocksOf gr := by
  rw [blockOk, Bool.or_eq_true, beq_iff_eq, decide_eq_true_iff]

/-- An element names a block when it is 255 or a declared number (R368). -/
theorem elementBlock_iff (x : Word) : elementBlock s gr x = true ↔ x.toNat = 255 ∨ x.toNat < s.blocksOf gr := by
  rw [elementBlock, Bool.or_eq_true, beq_iff_eq, decide_eq_true_iff, ← BitVec.toNat_inj]
  rfl

/-- The low 16 bits of a word. -/
theorem fld_low16 (n : Nat) : fld n 15 0 = n % 65536 := by simp [fld]

theorem filter_not_isEmpty {l : List Nat} {p : Nat → Bool} (h : ∀ n ∈ l, p n = true) : (l.filter fun n => !p n).isEmpty = true := by
  simpa using h

theorem setblk_performs (ha : Acts s g gr) (hx : s.cur.hix = none) {S : Bool} {a b : BitVec 8} {p : BitVec 3}
    (h1 : a = 255 ∨ a.toNat < s.blocksOf gr) (h2 : b = 255 ∨ b.toNat < s.blocksOf gr) :
    exec (.setblk S a b p) s = .next (s.writeBlocks g gr fun l => if l.pred p then a else b) :=
  actWord_here ha hx (by simp [firstFail, (blockOk_iff a).2 h1, (blockOk_iff b).2 h2])

theorem setblkv_performs (ha : Acts s g gr) (hx : s.cur.hix = none) {S : Bool} {v : BitVec 7} (hd : Declared gr [v])
    (h : ∀ n ∈ s.cur.act, ((gr.lane n).rd v.toNat).toNat = 255 ∨ ((gr.lane n).rd v.toNat).toNat < s.blocksOf gr) :
    exec (.setblkv S v) s = .next (s.writeBlocks g gr fun l => (l.rd v.toNat).truncate 8) := by
  refine (actWord_here ha hx (Across.firstFail_declared hd)).trans (congrArg _ ?_)
  exact if_pos (filter_not_isEmpty fun n hn => (elementBlock_iff _).2 (h n hn))

theorem setfmReg_performs (ha : Acts s g gr) (hx : s.cur.hix = none) {S : Bool} {v : BitVec 7} (hd : Declared gr [v])
    (h : ∀ n ∈ s.cur.act, fmodeLegal (((gr.lane n).rd v.toNat).toNat % 65536) = true) :
    exec (.setfmReg S v) s = .next (s.modGroup g fun x => x.onLanes s.cur.act fun _ l =>
      { l with fmode := (l.rd v.toNat).truncate 16 }) := by
  refine (actWord_here ha hx (Across.firstFail_declared hd)).trans (congrArg _ ?_)
  exact if_pos (filter_not_isEmpty fun n hn => (fld_low16 _).symm ▸ h n hn)

/-! ### Parking (R371, R372, R384, R430) -/

/-- The debugger's halt of the group's crew, under way. -/
def Joins (s : State) (gr : Machine.Group) : Prop :=
  ∃ c h, s.crew? gr.crew = some c ∧ c.halt = some h ∧ h.sent = false ∧ h.debug = true

/-- A trap joins the debugger's halt, and is as it was but for that (log entry 45). -/
theorem joined_debug (s : State) (gr : Machine.Group) (t : Trap) :
    (s.joined gr.crew t).debug = true ↔ t.debug = true ∨ Joins s gr := by
  unfold State.joined Joins
  split
  next hh =>
    obtain ⟨c, hc, hk⟩ := Option.bind_eq_some_iff.1 hh
    exact ⟨fun _ => .inr ⟨c, _, hc, hk, rfl, rfl⟩, fun _ => rfl⟩
  all_goals
    next hh =>
      refine ⟨.inl, fun h => h.elim id ?_⟩
      rintro ⟨c, k, hc, hk, hs, hd⟩
      simp only [hc, Option.bind_some, hk, Option.some.injEq, reduceCtorEq] at hh
      all_goals subst hh
      all_goals cases hs
      all_goals cases hd

theorem joined_only_debug (s : State) (crew : Nat) (t : Trap) : ∃ b, s.joined crew t = { t with debug := b } := by
  unfold State.joined
  split
  · exact ⟨true, rfl⟩
  · exact ⟨t.debug, rfl⟩
  · exact ⟨t.debug, rfl⟩
  · exact ⟨t.debug, rfl⟩

/-- A running group that takes a local trap parks on it, and nothing else changes. -/
theorem takeTrap_parks (hg : s.group? g = some gr) (hr : gr.stop = .run) {t : Trap} (hc : t.cls = 0) :
    s.takeTrap g t = s.modGroup g fun _ => { gr with stop := .trapping, trap := some (s.joined gr.crew t) } := by
  rw [takeTrap_local hg (by rw [hc]; decide)]
  exact modGroup_congr hg (addTrap_run _ hr)

theorem dw_toNat {n : Nat} (c : BitVec n) : dw c.toNat = c.zeroExtend 64 := BitVec.ofNat_toNat ..

/-- A disjunction whose left side is a closed false equation. -/
theorem false_or_iff (p : Prop) : (false = true ∨ p) ↔ p := by simp

/-- The trap of `brk`: the debugger's where the context has the debug right (R384). -/
def brkTrap (s : State) (gr : Machine.Group) (c : BitVec 16) : Trap :=
  { trapOf gr s.cur 7 (if s.debugs gr.ctx then 5 else 0) s.cur.act s.cur.act (c.zeroExtend 64) 0 0 with debug := s.debugs gr.ctx }

theorem brk_traps (hi : Issues s g gr) (c : BitVec 16) :
    (if s.debugs gr.ctx then
      .next (s.takeTrap g { trapOf gr s.cur 7 5 s.cur.act s.cur.act (dw c.toNat) 0 0 with debug := true })
    else .next (s.trapNow g 7 s.cur.act (dw c.toNat) 0 0) : Out) = .next (s.takeTrap g (brkTrap s gr c)) := by
  rw [dw_toNat, trapNow_eq hi.here]
  unfold brkTrap
  cases s.debugs gr.ctx <;> rfl

/-! ### Special registers (R380 to R382) -/

theorem laneReg_eq (l : Lane) (i e : Nat) : laneReg l i e = laneSpecial l i e := by
  unfold laneReg laneSpecial
  split
  · rfl
  · rfl
  next h1 h2 => rw [if_neg h1, if_neg h2]

/-- A crew's index at level n of its launch, counted from the innermost (R61). -/
theorem levelIndex_eq (l : Machine.Launch) (crew n : Nat) : levelIndex l crew n = indexAt l crew n := by
  rw [levelIndex, indexAt, upTo, List.foldl_map, List.foldl_map]
  by_cases h : l.nlev ≤ n
  · rw [if_pos h, if_neg (Nat.not_lt.2 h)]
  · rw [if_neg h, if_pos (Nat.not_le.1 h)]

/-- A register of such an index, where crew and launch are there. -/
theorem groupReg_level (s : State) (gr : Machine.Group) (n : Nat) :
    (match s.crew? gr.crew, s.launchOf gr with
      | some c, some l => dw (levelIndex l c.idx n)
      | _, _ => 0) =
    ((s.crew? gr.crew).bind fun c => (s.launchOf gr).map fun l => BitVec.ofNat 64 (indexAt l c.idx n)).getD 0 := by
  cases s.crew? gr.crew with
  | none => rfl
  | some c => cases s.launchOf gr with
    | none => rfl
    | some l => exact congrArg dw (levelIndex_eq l c.idx n)

/-- What `rdsr` reads of the group, its crew, its context and the device. -/
theorem rdsrVal_eq (s : State) (gr : Machine.Group) (e : Nat) : s.rdsrVal gr e = special s gr (BitVec.ofNat 64 s.cur.rwc) e := by
  unfold State.rdsrVal special
  by_cases h : e = 0x20
  · subst h; rfl
  rw [if_neg h]
  unfold State.groupReg
  split
  case h_4 => cases s.crew? gr.crew <;> rfl
  case h_5 => unfold State.coreOf; cases s.crew? gr.crew <;> rfl
  case h_9 => exact absurd rfl h
  case h_11 => cases s.ctx? gr.ctx <;> rfl
  case h_12 =>
    split
    next hr =>
      have : e = 0x0A ∨ e = 0x0B ∨ e = 0x0C ∨ e = 0x0D ∨ e = 0x0E ∨ e = 0x0F := by omega
      rcases this with rfl | rfl | rfl | rfl | rfl | rfl <;> exact groupReg_level s gr _
    next hr =>
      dsimp only
      split
      case h_6 | h_7 | h_8 | h_9 | h_10 | h_11 => exact absurd (by decide) hr
      case h_18 => rfl
      all_goals contradiction
  all_goals rfl

/-- CLAIMLOST's bits: the sticky one and the count (R382). -/
theorem claimLost_bits (v : DWord) : dw (fld v.toNat 63 63 * 2 ^ 63 + fld v.toNat 31 0) = v &&& 0x80000000FFFFFFFF := by
  have hm : (0x80000000FFFFFFFF : DWord).toNat = 2 ^ 63 ||| (2 ^ 32 - 1) := by decide
  have hs : fld v.toNat 63 63 = v.toNat / 2 ^ 63 := Nat.mod_eq_of_lt (by omega)
  have hc : fld v.toNat 31 0 = v.toNat % 2 ^ 32 := by simp [fld]
  have hb : v.toNat &&& 2 ^ 63 = v.toNat / 2 ^ 63 * 2 ^ 63 := by
    rw [Nat.and_two_pow, Nat.testBit_eq_decide_div_mod_eq, Nat.mod_eq_of_lt (by omega : v.toNat / 2 ^ 63 < 2)]
    rcases (by omega : v.toNat / 2 ^ 63 = 0 ∨ v.toNat / 2 ^ 63 = 1) with h | h <;> rw [h] <;> rfl
  apply BitVec.eq_of_toNat_eq
  rw [BitVec.toNat_and, hm, Nat.and_or_distrib_left, Nat.and_two_pow_sub_one_eq_mod, hb, hs, hc, ← Nat.shiftLeft_eq,
    ← Nat.shiftLeft_add_eq_or_of_lt (by omega)]
  simp only [dw, BitVec.toNat_ofNat, Nat.shiftLeft_eq]
  omega

/-! ### The statements -/

/-- Settles O13: each of the words is performed on the active lanes once its values are legal. -/
theorem blockAndModeWords : Obligations.BlockAndModeWords := by
  intro S s g gr ha hx
  exact ⟨actWord_unchecked ha hx, fun a b p h1 h2 => setblk_performs ha hx h1 h2, fun v hd h => setblkv_performs ha hx hd h,
    actWord_unchecked ha hx, fun m hm => laneWord_performs ha.who ha.here ha.active (.inl hx) (by simp [firstFail, hm]),
    fun v hd h => setfmReg_performs ha hx hd h⟩

/-- Settles O14: hints are performed whatever the active set is. -/
theorem hintWords : Obligations.HintWords := by
  intro S s g gr hi hx
  refine ⟨fun m hm => groupWord_here hi hx (by simp [firstFail, Nat.not_le.2 hm]), fun p n v => groupWord_unchecked hi hx, ?_,
    fun p => groupWord_unchecked hi hx⟩
  intro c
  refine (groupWord_unchecked hi hx).trans (congrArg _ ?_)
  cases c <;> rfl

/-- Settles O15: `fuse` waits at its site; a local trap parks its group, whose record the debugger's halt may claim. -/
theorem parkingWords : Obligations.ParkingWords := by
  intro S s g gr hi hx joins
  refine ⟨fun d n ha => actWord_unchecked ⟨hi, ha⟩ hx, fun c hr => ?_, fun c hr => ?_⟩
  · have he : exec (.trap S c) s = .next (s.takeTrap g (trapOf gr s.cur 7 0 s.cur.act s.cur.act (dw c.toNat) 0 0)) :=
      (groupWord_unchecked hi hx).trans (congrArg _ (trapNow_eq hi.here ..))
    rw [he, takeTrap_parks hi.here hr rfl, dw_toNat]
    refine ⟨_, _, _, rfl, rfl, rfl, ?_⟩
    have hj := joined_debug s gr (trapOf gr s.cur 7 0 s.cur.act s.cur.act (c.zeroExtend 64) 0 0)
    obtain ⟨b, hb⟩ := joined_only_debug s gr.crew (trapOf gr s.cur 7 0 s.cur.act s.cur.act (c.zeroExtend 64) 0 0)
    rw [hb] at hj ⊢
    exact ⟨rfl, rfl, rfl, rfl, rfl, rfl, rfl, rfl, rfl, hj.trans (false_or_iff _)⟩
  · have he : exec (.brk S c) s = .next (s.takeTrap g (brkTrap s gr c)) := (groupWord_unchecked hi hx).trans (brk_traps hi c)
    rw [he, takeTrap_parks hi.here hr (by rfl)]
    refine ⟨_, _, _, rfl, rfl, rfl, ?_⟩
    have hj := joined_debug s gr (brkTrap s gr c)
    obtain ⟨b, hb⟩ := joined_only_debug s gr.crew (brkTrap s gr c)
    rw [hb] at hj ⊢
    exact ⟨rfl, rfl, rfl, hj, rfl⟩

/-- Settles O16: the numbers of the special registers read what the model holds for them. -/
theorem specialRegisterWords : Obligations.SpecialRegisterWords := by
  intro S s g gr ha hx
  refine ⟨fun d e he hd => ?_, fun d e he => ?_, fun a => ?_⟩
  · refine (actWord_here ha hx ?_).trans (congrArg _ ?_)
    · simpa [he, v1] using Across.firstFail_declared hd
    · exact (if_pos he).trans (by simp only [laneReg_eq])
  · refine (actWord_here ha hx (by simp [he, firstFail])).trans (congrArg _ ?_)
    exact (if_neg (by simp [he])).trans (by rw [rdsrVal_eq])
  · refine (actWord_unchecked ha hx).trans (congrArg _ ?_)
    simp only [claimLost_bits]

end
end Sys2Proof.Claims.Control

/-! Taking a trap and returning from one (R199 to R210), reset, and the words written out from the encodings. -/
namespace Sys2Proof.Claims.Traps
open Sys2Proof.Machine
-- One proof at a time: the text is compiled as one file, whose memory parallel elaboration would exceed.
set_option Elab.async false

/-! ### The return from a trap (R210, R262) -/

section
variable {gr : Machine.Group} {t : Trap}

theorem resume_noWord (hs : gr.stop = .trapped) (ht : gr.trap = some t) (hn : t.noWord = true) (k : Bool) :
    gr.resume k = { gr with stop := .run, trap := none } := by simp only [Group.resume, hs, ht, hn, if_true]

theorem resume_retry (hs : gr.stop = .trapped) (ht : gr.trap = some t) (hn : t.noWord = false) :
    gr.resume false = { gr with stop := .run, trap := none, retry := stackTrap t gr.retry } := by
  simp only [Group.resume, hs, ht, hn, Bool.false_eq_true, if_false]

theorem resume_skip (hs : gr.stop = .trapped) (ht : gr.trap = some t) (hn : t.noWord = false) :
    gr.resume true = { gr with stop := .run, trap := none, rwcount := if isHint t.instr = true then gr.rwcount else gr.rwcount + 1 } := by
  simp only [Group.resume, hs, ht, hn, Bool.false_eq_true, if_false, if_true]

/-- A halted group goes on at its next word. -/
theorem resume_halted (hs : gr.stop = .halted) (k : Bool) : gr.resume k = { gr with stop := .run, trap := none } := by
  simp only [Group.resume, hs]

/-- With nothing else to retry, the trapping word is the next one, under its own retry set, binding and guard. -/
theorem retried_issues (hs : gr.stop = .trapped) (ht : gr.trap = some t) (hn : t.noWord = false) (hr : gr.retry = []) :
    (gr.resume false).nextWord = some (⟨t.instr, t.prov⟩, { gr with stop := .run, trap := none }) ∧
      ∀ g q, curOf g (gr.resume false) q = ⟨.group g, q.word, q.prov, t.retry, t.hix, t.guard, gr.rwcount.toNat⟩ := by
  have he : gr.resume false = { gr with stop := .run, trap := none, retry := [t] } := by
    rw [resume_retry hs ht hn, hr]
    rfl
  rw [he]
  refine ⟨?_, fun g q => rfl⟩
  simp only [Group.nextWord, ← hr]

end

/-- Settles O33: each way of going on, from the record that the group holds. -/
theorem returnFromTrap : Obligations.ReturnFromTrap := by
  intro gr t
  refine ⟨fun hs ht hn => ⟨resume_retry hs ht hn, resume_skip hs ht hn, fun hr => ?_⟩, resume_halted,
    fun hs ht hn => resume_noWord hs ht hn⟩
  obtain ⟨hw, hc⟩ := retried_issues hs ht hn hr
  refine ⟨hw, fun g q => ?_⟩
  rw [hc]
  exact ⟨rfl, rfl, rfl, rfl, rfl⟩

/-! ### Taking a trap (R199, R203, R206, R207) -/

section
variable {s : State} {g : Nat} {gr : Machine.Group} {t : Trap}

/-- The record of a halted sibling: CODE 0, CLASS 3, no lane at fault (R206). -/
theorem siblingTrap_fields (gr : Machine.Group) : (siblingTrap gr).code = 0 ∧ (siblingTrap gr).cls = 3 ∧ (siblingTrap gr).fault = [] := by
  unfold siblingTrap
  split
  exact ⟨rfl, rfl, rfl⟩

/-- A halt under way is not begun anew. -/
theorem startHalt_underWay {crew : Nat} {c : Crew} {h : Halt} (hc : s.crew? crew = some c) (hh : c.halt = some h)
    (hs : h.sent = false) (x : Nat) (t : Trap) (dbg : Bool) : s.startHalt crew x t dbg = s := by
  obtain ⟨_, _, _, _⟩ := h
  cases hs
  simp only [State.startHalt, hc, hh]

/-- A halt begins: the crew notes it, and it reaches each of the crew's groups. -/
theorem startHalt_begins {crew : Nat} {c : Crew} (hc : s.crew? crew = some c) (hh : ∀ h, c.halt = some h → h.sent = true)
    (x : Nat) (t : Trap) (dbg : Bool) : s.startHalt crew x t dbg =
      { s.modCrew crew fun c => { c with halt := some ⟨x, t, false, dbg⟩ } with
        groups := tmap s.groups fun g gr => if gr.crew == crew then (gr.markEarly t).haltReached (s.parkedAt g gr) else gr } := by
  simp only [State.startHalt, hc]
  cases hk : c.halt with
  | none => rfl
  | some h =>
    have := hh h hk
    obtain ⟨_, _, _, _⟩ := h
    cases this
    rfl

/-- The halt does not touch the group whose trap begins it. -/
theorem haltReached_self (ht : gr.trap = some t) (hs : gr.stop = .trapping) (b : Bool) :
    (gr.markEarly t).haltReached b = gr := by
  simp only [Group.markEarly, hs, ht, if_true, Group.haltReached]

/-- It halts a running sibling. -/
theorem haltReached_running (hs : gr.stop = .run) (t : Trap) (b : Bool) : (gr.markEarly t).haltReached b =
    { gr with stop := .halting, trap := some (siblingTrap gr), hslots := if b = true then 64 else 0 } := by
  simp only [Group.markEarly, hs, Group.haltReached, haltSlots]

/-- The group parks on its trap. -/
theorem trapAdded (hg : s.group? g = some gr) (hr : gr.stop = .run) (t : Trap) (h : Nat) :
    (s.modGroup g fun x => x.addTrap t).group? h =
      if h = g then some { gr with trap := some t, stop := .trapping } else s.group? h := by
  rw [State.group?_modGroup, hg, Option.map_some, addTrap_run t hr]

/-- What the trap leaves where it begins no halt of its own: its class is not the crew's, or a halt is under way. -/
theorem takeTrap_alone (hg : s.group? g = some gr)
    (h : t.cls ≠ 1 ∨ (∀ c, s.crew? gr.crew = some c → ∃ h, c.halt = some h ∧ h.sent = false)) :
    s.takeTrap g t = s.modGroup g fun x => x.addTrap (s.joined gr.crew t) := by
  by_cases hc : t.cls = 1
  · have hk := h.resolve_left (not_not_intro hc)
    simp only [State.takeTrap, hg, joined_cls, hc, if_true]
    cases hcr : s.crew? gr.crew with
    | none =>
      have : (s.modGroup g fun x => x.addTrap (s.joined gr.crew t)).crew? gr.crew = none := hcr
      simp only [State.startHalt, this]
    | some c =>
      obtain ⟨h, hh, hs⟩ := hk c hcr
      exact startHalt_underWay (s := s.modGroup g fun x => x.addTrap (s.joined gr.crew t)) hcr hh hs ..
  · exact takeTrap_local hg hc

/-- What it leaves of crews and groups where it begins one. -/
theorem takeTrap_halts {c : Crew} (hg : s.group? g = some gr) (hc : t.cls = 1) (hcr : s.crew? gr.crew = some c)
    (hh : ∀ h, c.halt = some h → h.sent = true) :
    (s.takeTrap g t).crews = (s.modCrew gr.crew fun c => { c with halt := some ⟨g, t, false, false⟩ }).crews ∧
    (s.takeTrap g t).groups = tmap (s.modGroup g fun x => x.addTrap t).groups fun n x =>
      if x.crew == gr.crew then (x.markEarly t).haltReached (s.parkedAt n x) else x := by
  have hj : s.joined gr.crew t = t := joined_eq fun c' k hc' hk => by
    rw [hcr] at hc'
    cases hc'
    exact .inl (hh k hk)
  simp only [State.takeTrap, hg, hc, if_true, hj]
  rw [startHalt_begins (s := s.modGroup g fun x => x.addTrap t) hcr hh]
  exact ⟨rfl, rfl⟩

/-- A group of the state in which the halt has begun. -/
theorem takeTrap_halted_group {c : Crew} (hg : s.group? g = some gr) (hr : gr.stop = .run) (hc : t.cls = 1)
    (hcr : s.crew? gr.crew = some c) (hh : ∀ h, c.halt = some h → h.sent = true) (h : Nat) :
    (s.takeTrap g t).group? h = (if h = g then some { gr with trap := some t, stop := .trapping } else s.group? h).map fun x =>
      if x.crew == gr.crew then (x.markEarly t).haltReached (s.parkedAt h x) else x := by
  rw [State.group?, (takeTrap_halts hg hc hcr hh).2, tget_tmap, ← trapAdded hg hr t h]
  rfl

/-- A trap parks its group in either case, with the record that joined the debugger's halt or did not. -/
theorem takeTrap_group (hg : s.group? g = some gr) (hr : gr.stop = .run) :
    (s.takeTrap g t).group? g = some { gr with trap := some (s.joined gr.crew t), stop := .trapping } := by
  by_cases h : t.cls ≠ 1 ∨ (∀ c, s.crew? gr.crew = some c → ∃ h, c.halt = some h ∧ h.sent = false)
  · rw [takeTrap_alone hg h, trapAdded hg hr, if_pos rfl]
  · obtain ⟨hc, hn⟩ := not_or.1 h
    obtain ⟨c, hn⟩ := not_forall.1 hn
    obtain ⟨hcr, hn⟩ := Classical.not_imp.1 hn
    have hh : ∀ h, c.halt = some h → h.sent = true := fun h hk =>
      (Bool.eq_false_or_eq_true _).resolve_right fun hs => hn ⟨h, hk, hs⟩
    rw [joined_eq fun c' k hc' hk => .inl (hh k (by cases hcr.symm.trans hc'; exact hk)),
      takeTrap_halted_group hg hr (not_not.1 hc) hcr hh, if_pos rfl, Option.map_some]
    exact congrArg some ((if_pos (beq_self_eq_true _)).trans (haltReached_self rfl rfl _))

/-- The siblings of a crew whose halt begins, and the groups of other crews. -/
theorem takeTrap_sibling {c : Crew} {h : Nat} {x : Machine.Group} (hg : s.group? g = some gr) (hr : gr.stop = .run) (hc : t.cls = 1)
    (hcr : s.crew? gr.crew = some c) (hh : ∀ h, c.halt = some h → h.sent = true) (hne : h ≠ g) (hx : s.group? h = some x) :
    (s.takeTrap g t).group? h = some (if x.crew == gr.crew then (x.markEarly t).haltReached (s.parkedAt h x) else x) := by
  rw [takeTrap_halted_group hg hr hc hcr hh, if_neg hne, hx, Option.map_some]

end

/-- Settles O34: the trap parks its group; a crew trap halts the siblings unless a halt is under way. -/
theorem takingATrap : Obligations.TakingATrap := by
  intro s g gr code fault detail handle ooff hg hr
  have hm := (trapNow_mem s g code fault detail handle ooff).1
  rw [trapNow_eq hg] at hm ⊢
  generalize hT : trapOf gr s.cur code 0 fault s.cur.act detail handle ooff = T at hm ⊢
  have hcls : T.cls = classOf code := by rw [← hT]; rfl
  obtain ⟨b, hb⟩ := Control.joined_only_debug s gr.crew T
  refine ⟨s.joined gr.crew T, _, takeTrap_group hg hr, rfl, rfl, ?_⟩
  have hold : s.joined gr.crew T = { T with debug := b } := hb
  refine ⟨?_, ?_, ?_, ?_, ?_, ?_, ?_, ?_, ?_, ?_, ?_, ?_, ?_, rfl, rfl, rfl, rfl, hm, fun hc h hne => ?_, fun hc c hcr => ⟨?_, fun hh => ⟨?_, ?_, ?_⟩⟩⟩
  iterate 13 (rw [hold, ← hT]; rfl)
  · rw [takeTrap_local hg (hcls ▸ hc), trapAdded hg hr, if_neg hne]
  · rintro ⟨k, hk, hs⟩
    have ha := takeTrap_alone (t := T) hg (.inr fun c' hc' => ⟨k, by cases hcr.symm.trans hc'; exact hk, hs⟩)
    rw [ha]
    exact ⟨rfl, fun h hne => by rw [trapAdded hg hr, if_neg hne]⟩
  · rw [State.crew?, (takeTrap_halts hg (hcls.trans hc) hcr hh).1,
      joined_eq fun c' k hc' hk => .inl (hh k (by cases hcr.symm.trans hc'; exact hk))]
    exact (State.crew?_modCrew s gr.crew _ gr.crew).trans (by rw [if_pos rfl, hcr]; rfl)
  · intro h x hne hx hcrew hrun
    obtain ⟨h0, h3, hf⟩ := siblingTrap_fields x
    refine ⟨siblingTrap x, h0, h3, hf, ?_⟩
    rw [takeTrap_sibling hg hr (hcls.trans hc) hcr hh hne hx, if_pos (by rw [hcrew]; exact beq_self_eq_true _), haltReached_running hrun]
  · intro h x hne hx hcrew
    rw [takeTrap_sibling hg hr (hcls.trans hc) hcr hh hne hx, if_neg (by simpa using hcrew)]

/-! ### Reset and the words written out -/

/-- Settles O56: every clause is a field of the state that reset leaves. -/
theorem resetState : Obligations.ResetState := by
  refine ⟨rfl, rfl, fun _ => rfl, rfl, rfl, rfl, rfl, rfl, rfl, rfl, rfl, rfl, rfl, rfl, rfl, rfl, rfl, rfl, ?_⟩
  decide

/-- Each word written out is the encoding of its instruction, which is well-formed. -/
theorem words_encode : (words.all fun x => x.2.wellFormed && encode x.2 == some x.1) = true := by decide

/-- Settles O57: the words are the encodings of their instructions, and decode to them (O58). -/
theorem wordsDecode : Obligations.WordsDecode := by
  intro x hx
  have h := List.all_eq_true.1 words_encode x hx
  obtain ⟨hw, he⟩ := Bool.and_eq_true_iff.1 h
  exact (Coding.decodeOfEncode x.2 x.1 hw (eq_of_beq he)).2

end Sys2Proof.Claims.Traps

/-! Words of threads: branches, direct emits, composition, events, and the access to parked groups (R271, R275 to R290). -/
namespace Sys2Proof.Claims.Lamps
open Sys2Proof.Machine
-- One proof at a time: the text is compiled as one file, whose memory parallel elaboration would exceed.
set_option Elab.async false

section
variable {s : State} {t : Nat} {th : Machine.Thread} {g : Nat} {gr : Machine.Group}

/-- A thread's word is what its body says, in the thread that runs. -/
theorem threadWord_runs (hr : Runs s t th) (body : Nat → Machine.Thread → Out) : threadWord s body = body t th :=
  threadWord_thread hr.who hr.here

/-- A change of a thread that is there depends on its value there alone. -/
theorem modThread_congr (ht : s.thread? t = some th) {f f' : Machine.Thread → Machine.Thread} (h : f th = f' th) :
    s.modThread t f = s.modThread t f' := by
  have he : tget s.threads t = some th := ht
  simp only [State.modThread, tmod, he, h]

/-! ### Branches and jumps (R271, R275) -/

/-- The PC moved by words. -/
theorem pcPlus_eq (pc : Nat) {n : Nat} (o : BitVec n) (hn : 0 < n) :
    pcPlus pc (sval n o.toNat) = (((pc : Int) + 4 * o.toInt) % 2 ^ 64).toNat := by
  rw [pcPlus, cutInt, sval_toNat o hn]
  rfl

/-- A branch of the table moves the PC by its offset where its condition holds, else to the next word. -/
theorem branchWord_moves (hr : Runs s t th) {a b : BitVec 5} {o : BitVec 12} {cond : DWord → DWord → Bool} {p : Prop}
    (hp : cond (th.rl a.toNat) (th.rl b.toNat) = true ↔ p) :
    (p → branchWord s a b o cond = .next (s.modThread t fun x => { x with pc := (((th.pc : Int) + 4 * o.toInt) % 2 ^ 64).toNat })) ∧
    (¬ p → branchWord s a b o cond = .next (s.modThread t fun x => { x with pc := th.pc + 4 })) := by
  rw [branchWord, threadWord_runs hr, ← pcPlus_eq _ _ (by decide)]
  exact ⟨fun h => by rw [if_pos (hp.2 h)], fun h => by rw [if_neg (mt hp.1 h)]⟩

theorem branch_moves (hr : Runs s t th) {i : Instr} {p : Prop} {o : BitVec 12}
    (hb : branchOf (fun r => th.rl r.toNat) i = some (p, o)) :
    (p → exec i s = .next (s.modThread t fun x => { x with pc := (((th.pc : Int) + 4 * o.toInt) % 2 ^ 64).toNat })) ∧
    (¬ p → exec i s = .next (s.modThread t fun x => { x with pc := th.pc + 4 })) := by
  cases i
  case beq => cases hb; exact branchWord_moves hr beq_iff_eq
  case bne => cases hb; exact branchWord_moves hr bne_iff_ne
  case bltS => cases hb; exact branchWord_moves (cond := fun x y => decide (x.toInt < y.toInt)) hr decide_eq_true_iff
  case bgeS => cases hb; exact branchWord_moves (cond := fun x y => decide (y.toInt ≤ x.toInt)) hr decide_eq_true_iff
  case bltN => cases hb; exact branchWord_moves (cond := fun x y => decide (x.toNat < y.toNat)) hr decide_eq_true_iff
  case bgeN => cases hb; exact branchWord_moves (cond := fun x y => decide (y.toNat ≤ x.toNat)) hr decide_eq_true_iff
  all_goals cases hb

/-- Settles O28: branches by their table; the jumps by their bodies. -/
theorem branchAndJumpWords : Obligations.BranchAndJumpWords := by
  intro i s t th S d a o20 hr
  refine ⟨fun p o hb => branch_moves hr hb, ?_, fun h => ?_, fun h => ?_⟩
  · rw [← pcPlus_eq _ _ (by decide)]
    exact threadWord_runs hr _
  · exact (threadWord_runs hr _).trans (if_neg (not_not_intro h))
  · exact (threadWord_runs hr _).trans (if_pos h)

theorem toNat_eq_zero_iff (x : DWord) : x.toNat = 0 ↔ x = 0 := BitVec.toNat_inj (y := 0)

/-! ### Events (R82, R284) -/

/-- Settles O31: `gwait` takes the head of the queue, which no mark hides, or sleeps; `grec` reads what was taken. -/
theorem eventWords : Obligations.EventWords := by
  intro S d a s t th hr
  refine ⟨fun e r hq hm => ?_, fun hq => ?_, fun ws hw => ?_, fun hn => ?_⟩
  · have hn : nextEvent th.queue = some (e, r) := by rw [hq, nextEvent, hm]; rfl
    refine (threadWord_runs hr _).trans ?_
    simp only [hn]
    rfl
  · have hn : nextEvent th.queue = none := by rw [hq]; rfl
    refine (threadWord_runs hr _).trans ?_
    simp only [hn, toNat_eq_zero_iff]
  · refine (threadWord_runs hr _).trans ?_
    simp only [hw]
    rfl
  · refine (threadWord_runs hr _).trans ?_
    simp only [hn]

/-! ### Direct emits (R83, R278) -/

/-- The group that a reference names is the target of an emit. -/
theorem targetOf_refers {r : DWord} (h : Refers s t th r g gr) : s.targetOf t th r = .ok (g, gr) := by
  obtain ⟨hg, hc, hs, hx⟩ := h
  simp only [State.targetOf, State.groupOfRef, ← hg, hc, if_true, hs, hx]

/-- A group stopped or about to stop by a trap. -/
def Stopped (gr : Machine.Group) : Prop := gr.stop = .trapping ∨ gr.stop = .trapped ∨ gr.stop = .halted

theorem emitStatus_stopped (h : Stopped gr) : emitStatus gr = some 3 := by
  rcases h with h | h | h <;> simp only [emitStatus, h]

theorem emitStatus_live (h : ¬ Stopped gr) :
    emitStatus gr = if gr.isOpen = true ∧ gr.liveQueue.length < 32 then some 0 else none := by
  have hs : gr.stop = .run ∨ gr.stop = .halting := by
    unfold Stopped at h
    cases hs : gr.stop <;> simp [hs] at h ⊢
  rcases hs with hs | hs <;> simp only [emitStatus, hs, Bool.and_eq_true, decide_eq_true_eq]

section
variable {d a b : BitVec 5} {blocks : Bool} (hr : Runs s t th) (hf : Refers s t th (th.rl a.toNat) g gr)
include hr hf

/-- The word enters the queue, and the thread has status 0. -/
theorem emitWord_enters (h : emitStatus gr = some 0) : emitWord s d a b blocks =
    .next ((s.enqueue t g ((th.rl b.toNat).truncate 32)).threadDone t fun x => x.wl d.toNat 0) := by
  rw [emitWord, threadWord_runs hr, targetOf_refers hf]
  simp only [h]

/-- A stopped group answers 3. -/
theorem emitWord_answers (h : Stopped gr) : emitWord s d a b blocks = .next (wrote s t d 3) := by
  rw [emitWord, threadWord_runs hr, targetOf_refers hf]
  simp only [emitStatus_stopped h]
  rfl

/-- With no place, `emitnb` answers and `emit` blocks. -/
theorem emitnb_answers (h : emitStatus gr = none) :
    emitWord s d a b false = .next (wrote s t d (if gr.isOpen then 1 else 2)) := by
  rw [emitWord, threadWord_runs hr, targetOf_refers hf]
  simp only [h, Bool.false_eq_true, if_false]
  rfl

theorem emit_blocks (h : emitStatus gr = none) : ∃ k, emitWord s d a b true =
    .next (s.modThread t fun _ => { th with blocked := some k }) := by
  rw [emitWord, threadWord_runs hr, targetOf_refers hf]
  simp only [h, if_true]
  exact ⟨_, congrArg _ (modThread_congr hr.here rfl)⟩

end

/-- Where a word enters, in the terms of the statement. -/
theorem enqueue_eq (ht : s.thread? t = some th) (hg : s.group? g = some gr) (w : Word) : s.enqueue t g w =
    (s.modGroup g fun x => { x with queue := x.liveQueue ++ [⟨w, provOf 2 gr.station (th.emitSeq % 2 ^ 20)⟩] }).modThread t
      fun x => { x with emitSeq := x.emitSeq + 1 } := by
  simp only [State.enqueue, ht]
  exact congrArg (State.modThread · t _) (Control.modGroup_congr hg rfl)

/-- Settles O29: by what the group answers. -/
theorem emitWords : Obligations.EmitWords := by
  intro S d a b s t th g gr hr hf w stopped queued
  refine ⟨fun hs ho hl => ?_, fun hs => ⟨emitWord_answers hr hf hs, emitWord_answers hr hf hs⟩, fun hs ho hl => ?_, fun hs ho => ?_,
    fun hs hw => ?_⟩
  · have h : emitStatus gr = some 0 := (emitStatus_live hs).trans (if_pos ⟨ho, hl⟩)
    have he := enqueue_eq hr.here hf.2.2.1 w
    exact ⟨(emitWord_enters hr hf h).trans (by rw [he]; rfl), (emitWord_enters hr hf h).trans (by rw [he]; rfl)⟩
  · have h : emitStatus gr = none := (emitStatus_live hs).trans (if_neg fun h => absurd h.2 (by omega))
    exact (emitnb_answers hr hf h).trans (by rw [ho]; rfl)
  · have h : emitStatus gr = none := (emitStatus_live hs).trans (if_neg fun h => by simp [ho] at h)
    exact (emitnb_answers hr hf h).trans (by rw [ho]; rfl)
  · have h : emitStatus gr = none := (emitStatus_live hs).trans (if_neg fun h => hw.elim (fun ho => by simp [ho] at h) (by omega))
    obtain ⟨k, hk⟩ := emit_blocks (d := d) (b := b) hr hf h
    exact ⟨{ th with blocked := some k }, rfl, hk, rfl⟩

end
end Sys2Proof.Claims.Lamps

/-! The access of a thread to a parked group (R210, R211, R287 to R290). -/
namespace Sys2Proof.Claims.Lamps
open Sys2Proof.Machine
-- One proof at a time: the text is compiled as one file, whose memory parallel elaboration would exceed.
set_option Elab.async false

section
variable {s : State} {t : Nat} {th : Machine.Thread} {g : Nat} {gr : Machine.Group}

/-! ### What a selector names (R287, R288) -/

/-- Registers of the group read as the statement's table says, RWCOUNT with the count as it is (R380). -/
theorem special_of_ne {e : Nat} (h : e ≠ 0x20) (s : State) (gr : Machine.Group) (c c' : DWord) :
    special s gr c e = special s gr c' e := by
  unfold special
  split
  case h_15 => exact absurd rfl h
  all_goals rfl

theorem groupReg_eq (s : State) (gr : Machine.Group) (e : Nat) : s.groupReg gr e = special s gr gr.rwcount e := by
  by_cases h : e = 0x20
  · subst h; rfl
  · have hr : s.rdsrVal gr e = s.groupReg gr e := if_neg h
    rw [← hr, Control.rdsrVal_eq, special_of_ne h]

theorem maskPair_comm (a b : Nat) : dw (a * 2 ^ 32 + b) = BitVec.ofNat 64 (b + 2 ^ 32 * a) := by
  rw [dw, Nat.add_comm, Nat.mul_comm]

/-- A binding as file 9 reads it. -/
theorem hixWord_eq (h : Option (BitVec 25)) : dw (hixBits h) = hixWord h := by cases h <;> rfl

theorem guardWord_eq (x : Option Guard) (count : Bool) :
    dw (guardBits x count) = guardWord x fun g => if count then g.left else 0 := by
  cases x with
  | none => rfl
  | some x => exact congrArg dw (by rw [Nat.mul_comm]; rfl)

/-- What file 9 reads of the trap that the group holds: nothing of a halt's record. -/
theorem ofHeldTrap {α : Type} (x : Option Trap) (w : Option α → DWord) (p : Trap → Option α) (hn : w none = 0) :
    w ((x.filter fun t => decide (t.code ≠ 0)).bind p) = match x with
      | some t => if t.code = 0 then 0 else w (p t)
      | none => 0 := by
  cases x with
  | none => exact hn
  | some t => by_cases h : t.code = 0 <;> simp [Option.filter, h, hn]

/-- A choice by a condition in two parts. -/
theorem one_eq {lane num n : Nat} (v : DWord) :
    (if lane = 0 ∧ num < n then some v else none) = if (decide (num < n) && lane == 0) = true then some v else none := by
  simp only [Bool.and_eq_true, decide_eq_true_eq, beq_iff_eq, and_comm]

/-- The same value within range, and 0 as `gread` answers beyond it. -/
theorem named_eq {ok : Bool} {v v' : DWord} (h : ok = true → v = v') :
    (if ok = true then some v else none) = if ok = true then some (if (!ok) = true then 0 else v') else none := by
  cases ok
  · rfl
  · rw [h rfl]; rfl

/-- A selector names a value exactly when it is within range, and `gread` reads it. -/
theorem selected_eq (s : State) (gr : Machine.Group) (x : DWord) :
    selected s gr x = if selOk gr x then some (s.selRead gr x) else none := by
  unfold selected State.selRead selOk selFile selLane selNum
  generalize fld x.toNat 25 16 = lane
  generalize fld x.toNat 15 0 = num
  by_cases hl : gr.lanes.length ≤ lane
  · simp [hl]
  simp only [hl, Nat.not_le.1 hl, decide_true, Bool.true_and, if_false]
  generalize fld x.toNat 31 28 = file
  split
  case h_1 => simpa using named_eq (ok := decide (num < gr.regs)) fun _ => rfl
  case h_2 => rw [one_eq]; exact named_eq fun _ => rfl
  case h_3 => simpa using named_eq (ok := decide (num < 8)) fun _ => rfl
  case h_4 => simpa using named_eq (ok := num == 0) fun _ => rfl
  case h_5 => simpa using named_eq (ok := num == 0) fun _ => rfl
  case h_6 => rw [one_eq]; exact named_eq fun _ => rfl
  case h_7 => rw [one_eq]; refine named_eq fun hk => ?_; cases gr.trap <;> rfl
  case h_8 => rw [one_eq]; refine named_eq fun hk => ?_; cases gr.trap; exacts [rfl, (maskPair_comm ..).symm]
  case h_9 => rw [one_eq]; refine named_eq fun hk => ?_; cases gr.stacked[num / 8]? <;> rfl
  case h_10 =>
    rw [one_eq]
    refine named_eq fun hk => ?_
    have hn : num = 0 ∨ num = 1 ∨ num = 2 ∨ num = 3 := by
      simp only [Bool.and_eq_true, decide_eq_true_eq] at hk
      omega
    rcases hn with rfl | rfl | rfl | rfl
    · refine (ofHeldTrap gr.trap hixWord (fun t => t.hix) rfl).trans ?_
      cases gr.trap
      exacts [rfl, by simp only [hixWord_eq]]
    · refine (ofHeldTrap gr.trap (fun x => guardWord x fun _ => 0) (fun t => t.guard) rfl).trans ?_
      cases gr.trap
      exacts [rfl, by simp only [guardWord_eq, Bool.false_eq_true, if_false]]
    · exact (hixWord_eq _).symm
    · exact (guardWord_eq _ true).symm
  case h_11 =>
    rw [one_eq]
    refine named_eq fun _ => ?_
    cases gr.trap
    exacts [congrArg dw (by rw [Nat.mul_comm]; rfl), congrArg dw (by rw [Nat.mul_comm]; rfl)]
  case h_12 =>
    by_cases hn : 256 ≤ num
    · simp [hn, Nat.not_lt.2 hn]
    · by_cases hp : srPerLane num
      · simp [hn, hp, Nat.not_le.1 hn, Control.laneReg_eq]
      · rw [if_neg hn, if_neg hp, one_eq, groupReg_eq]
        simp only [hp, Bool.or_false, Bool.false_eq_true, if_false]
        exact named_eq fun _ => rfl
  case h_13 =>
    split
    case h_13 => rfl
    all_goals contradiction

theorem selRead_eq (s : State) (gr : Machine.Group) (x : DWord) : s.selRead gr x = (selected s gr x).getD 0 := by
  rw [selected_eq]
  by_cases h : selOk gr x = true
  · rw [if_pos h, Option.getD_some]
  · rw [if_neg h, Option.getD_none]
    unfold State.selRead
    simp only [h, Bool.not_false, if_true]

/-! ### What a selector writes (R287, R288) -/

/-- The legal modes: a rounding mode, and no bit above the fields (R18). -/
theorem fmodeLegal_iff (v : DWord) : fmodeLegal v.toNat = true ↔ fld v.toNat 2 0 ≤ 4 ∧ fld v.toNat 15 9 = 0 := by
  rw [fmodeLegal, Bool.and_eq_true, decide_eq_true_iff, beq_iff_eq]

/-- A lane may become live only below the level-0 extent (R28). -/
theorem blockWrite_iff (s : State) (gr : Machine.Group) (lane v : Nat) : s.blockWrite gr lane v = true ↔
    v = 255 ∨ (v < s.blocksOf gr ∧
      ((s.launchOf gr).map fun l => (gr.lane lane).live || decide (lane < l.extent 0)).getD false = true) := by
  unfold State.blockWrite
  cases s.launchOf gr <;> simp

theorem selWrite_eq (s : State) (gr : Machine.Group) (x v : DWord) : s.selWrite gr x v = stored s gr x v := by
  unfold State.selWrite stored
  rw [selected_eq]
  by_cases h : selOk gr x = true
  · simp only [h, Bool.not_true, Bool.false_eq_true, if_false, if_true, Option.isNone_some]
    unfold selFile selLane selNum
    generalize fld x.toNat 31 28 = file
    match file with
    | 0 => rfl
    | 1 => rfl
    | 2 => simp only [Bool.beq_eq_decide_eq]
    | 3 => simp only [blockWrite_iff]
    | 4 => simp only [fmodeLegal_iff]
    | _ + 5 => rfl
  · simp [h]

/-! ### Which groups are open to the thread (R211) -/

theorem openToThread_of_parked (h : Parked gr) : gr.openToThread = true ∧ gr.stop ≠ .trapping := by
  rcases h with h | h | ⟨h, x, y, hw | hw⟩
  · exact ⟨by simp only [Group.openToThread, h], by rw [h]; decide⟩
  · exact ⟨by simp only [Group.openToThread, h], by rw [h]; decide⟩
  · exact ⟨by simp only [Group.openToThread, h, hw], by rw [h]; decide⟩
  · exact ⟨by simp only [Group.openToThread, h, hw], by rw [h]; decide⟩

/-- A group that runs and waits for no site or composition is not. -/
theorem running_not_open (hs : gr.stop = .run) (hw : ∀ x y, gr.wait ≠ .fuse x y ∧ gr.wait ≠ .compose x y) :
    gr.openToThread = false := by
  simp only [Group.openToThread, hs]
  split
  next x y h => exact absurd h (hw x y).1
  next x y h => exact absurd h (hw x y).2
  all_goals rfl

theorem threadDone_id (s : State) (t : Nat) : s.threadDone t id = s.modThread t fun x => { x with pc := x.pc + 4 } := rfl

section
variable {a : BitVec 5} {body : Nat → Machine.Thread → Nat → Machine.Group → State} (hr : Runs s t th)
  (hf : Refers s t th (th.rl a.toNat) g gr)
include hr hf

theorem parkedWord_open (hp : Parked gr) : parkedWord s a body = .next (body t th g gr) := by
  obtain ⟨ho, hs⟩ := openToThread_of_parked hp
  rw [parkedWord, threadWord_runs hr, targetOf_refers hf]
  simp only [ho, hs, Bool.not_true, Bool.false_eq_true, if_false]

theorem parkedWord_shut (ho : gr.openToThread = false) : parkedWord s a body = .next (s.l2fault t .group gr.gid) := by
  rw [parkedWord, threadWord_runs hr, targetOf_refers hf]
  simp only [ho, Bool.not_false, if_true]

/-- A parked group that the debugger does not hold resumes. -/
theorem gres_resumes {S : Bool} {b : BitVec 5} (hs : gr.stop = .trapped ∨ gr.stop = .halted) (hd : ∀ r, gr.trap = some r → r.debug = false) :
    exec (.gres S a b) s = .next ((s.resumeGroup g ((th.rl b.toNat).getLsbD 0)).threadDone t id) := by
  have hh : gr.debugHeld = false := by
    unfold Group.debugHeld
    split
    exacts [rfl, hd _ ‹_›]
  refine (threadWord_runs hr _).trans ?_
  rw [targetOf_refers hf]
  rcases hs with hs | hs <;> simp only [hh, hs, Bool.false_eq_true, if_false]

/-- A running group does not: the thread takes L2GROUP. -/
theorem gres_running {S : Bool} {b : BitVec 5} (hs : gr.stop = .run) (hn : gr.trap = none) :
    exec (.gres S a b) s = .next (s.l2fault t .group gr.gid) := by
  refine (threadWord_runs hr _).trans ?_
  rw [targetOf_refers hf]
  simp only [Group.debugHeld, hn, hs, Bool.false_eq_true, if_false]

/-- `gkill` kills the group whatever it does (R290). -/
theorem gkill_kills {S : Bool} {d : BitVec 5} : exec (.gkill S d a) s = .next (wrote (s.killGroup g) t d 0) := by
  obtain ⟨hg, hc, hs, hx⟩ := hf
  refine (threadWord_runs hr _).trans ?_
  simp only [State.groupOfRef, ← hg, hc, if_true, hs, hx]
  rfl

end

/-- Settles O32: the words on a group of the thread's context, by what the group does. -/
theorem parkedGroupWords : Obligations.ParkedGroupWords := by
  intro S d a b s t th g gr hr hf
  refine ⟨fun hp => ⟨?_, ?_⟩, fun hs hd => ?_, gkill_kills hr hf, fun hs hw hn => ⟨?_, ?_, gres_running hr hf hs hn⟩⟩
  · exact (parkedWord_open hr hf hp).trans (by rw [selRead_eq]; rfl)
  · exact (parkedWord_open hr hf hp).trans (by rw [State.writeSel, selWrite_eq]; rfl)
  · refine (gres_resumes hr hf hs hd).trans ?_
    have hg : (s.dropFaulted gr.crew).group? g = some gr := hf.2.2.1
    simp only [State.resumeGroup, hf.2.2.1, threadDone_id]
    rw [Control.modGroup_congr hg (f' := fun x => (x.resume ((th.rl b.toNat).getLsbD 0)).underHalt (s.haltUnder gr.crew)) rfl]
  · exact parkedWord_shut hr hf (running_not_open hs hw)
  · exact parkedWord_shut hr hf (running_not_open hs hw)

end
end Sys2Proof.Claims.Lamps

/-! Composition by a thread (R85, R219, R279 to R283). -/
namespace Sys2Proof.Claims.Lamps
open Sys2Proof.Machine
-- One proof at a time: the text is compiled as one file, whose memory parallel elaboration would exceed.
set_option Elab.async false

section
variable {s : State} {t : Nat} {th : Machine.Thread} {S : Bool} {d a b : BitVec 5} {bf : Buffer}

/-! ### The number of a new station (R281) -/

theorem noRepeats_of_nodup : ∀ {l : List Nat}, l.Nodup → noRepeats l = true
  | [], _ => rfl
  | x :: r, h => by
    obtain ⟨hx, hr⟩ := List.nodup_cons.1 h
    simp [noRepeats, hx, noRepeats_of_nodup hr]

/-- The search from n with k to go: it passes only numbers in use, and stops below n + k at a free one. -/
theorem freeStation_spec (tt : List Sta) : ∀ k n : Nat,
    n ≤ freeStation tt n k ∧ freeStation tt n k ≤ n + k ∧ (∀ m, n ≤ m → m < freeStation tt n k → ∃ x ∈ tt, x.num = m) ∧
    (freeStation tt n k < n + k → ∀ x ∈ tt, x.num ≠ freeStation tt n k)
  | 0, n => by
    refine ⟨Nat.le_refl _, Nat.le_refl _, fun m h1 h2 => ?_, fun h => absurd h (Nat.lt_irrefl _)⟩
    exact absurd h2 (Nat.not_lt.2 h1)
  | k + 1, n => by
    by_cases h : ∃ x ∈ tt, x.num = n
    · have ht : tt.any (·.num == n) = true := by simpa using h
      obtain ⟨h1, h2, h3, h4⟩ := freeStation_spec tt k (n + 1)
      simp only [freeStation, ht, if_true]
      refine ⟨by omega, by omega, fun m hm1 hm2 => ?_, fun hl => h4 (by omega)⟩
      rcases Nat.eq_or_lt_of_le hm1 with rfl | hlt
      · exact h
      · exact h3 m hlt hm2
    · have ht : tt.any (·.num == n) = false := by simpa using h
      simp only [freeStation, ht, Bool.false_eq_true, if_false]
      exact ⟨Nat.le_refl _, by omega, fun m h1 h2 => absurd h2 (Nat.not_lt.2 h1), fun _ x hx he => h ⟨x, hx, he⟩⟩

/-- A list of length n that has every number below n has no other: its numbers are those. -/
theorem not_mem_of_covers {l : List Nat} (h : ∀ m < l.length, m ∈ l) : l.length ∉ l := by
  intro hm
  have hsub : List.range (l.length + 1) ⊆ l := by
    intro m hr
    rcases Nat.lt_succ_iff_lt_or_eq.1 (List.mem_range.1 hr) with hlt | rfl
    · exact h m hlt
    · exact hm
  have := (List.nodup_range.subperm hsub).length_le
  rw [List.length_range] at this
  omega

/-- The least number that no station of the timetable has. -/
theorem freeStation_least (tt : List Sta) :
    (∀ x ∈ tt, x.num ≠ freeStation tt 0 tt.length) ∧ ∀ m < freeStation tt 0 tt.length, ∃ x ∈ tt, x.num = m := by
  obtain ⟨-, h2, h3, h4⟩ := freeStation_spec tt tt.length 0
  have hused : ∀ m < freeStation tt 0 tt.length, ∃ x ∈ tt, x.num = m := fun m hm => h3 m (Nat.zero_le _) hm
  refine ⟨?_, hused⟩
  rcases Nat.lt_or_eq_of_le h2 with hl | he
  · exact h4 hl
  · rw [Nat.zero_add] at he
    rw [he] at hused ⊢
    have := not_mem_of_covers (l := tt.map (·.num)) (by simpa using hused)
    simpa using this

/-! ### The words -/

/-- `sopen` opens a buffer for a set of declared blocks (R279). -/
theorem sopen_opens (hr : Runs s t th) (hb : th.buf = none) {k : Kernel}
    (hk : s.kernelOf th.ctx ((th.rl b.toNat).toNat / 256) ((th.rl b.toNat).toNat % 256) = some k)
    (h0 : setBlocks (th.rl a.toNat) ≠ []) (hn : (setBlocks (th.rl a.toNat)).Nodup) (hd : ∀ x ∈ setBlocks (th.rl a.toNat), x < k.nb) :
    exec (.sopen S a b) s = .next (s.threadDone t fun x => { x with
      buf := some ⟨(th.rl b.toNat).toNat / 256, (th.rl b.toNat).toNat % 256, sortNat (setBlocks (th.rl a.toNat)), []⟩ }) := by
  refine (threadWord_runs hr _).trans ?_
  have hany : (setBlocks (th.rl a.toNat)).any (fun b => decide (k.nb ≤ b)) = false := by
    simp only [List.any_eq_false, decide_eq_true_eq, Nat.not_le]
    exact hd
  simp only [hb, hk, isEmpty_eq_false h0, noRepeats_of_nodup hn, hany, Bool.not_true, Bool.or_self, Bool.false_eq_true, if_false]

theorem sopen_open (hr : Runs s t th) (hb : th.buf ≠ none) : exec (.sopen S a b) s = .next (s.l2fault t .noBuf 0) := by
  obtain ⟨bf, hb⟩ := Option.ne_none_iff_exists'.1 hb
  refine (threadWord_runs hr _).trans ?_
  simp only [hb]

/-- `emits` adds a word where the store has room (R85). -/
theorem emits_adds (hr : Runs s t th) (hb : th.buf = some bf) {s1 : State}
    (hm : s.makeRoom (threadCore t) 1 s.store.length = some s1) : exec (.emits S d b) s = .next (s1.threadDone t fun x =>
      { x.wl d.toNat 0 with buf := some { bf with words := bf.words ++ [(th.rl b.toNat).truncate 32] } }) := by
  refine (threadWord_runs hr _).trans ?_
  simp only [hb, hm]

theorem emits_full (hr : Runs s t th) (hb : th.buf = some bf) (hm : s.makeRoom (threadCore t) 1 s.store.length = none) :
    exec (.emits S d b) s = .next (s.threadDone t fun x => x.wl d.toNat 5) := by
  refine (threadWord_runs hr _).trans ?_
  simp only [hb, hm]

theorem emits_noBuffer (hr : Runs s t th) (hb : th.buf = none) : exec (.emits S d b) s = .next (s.l2fault t .noBuf 0) := by
  refine (threadWord_runs hr _).trans ?_
  simp only [hb]

theorem stins_noBuffer (hr : Runs s t th) (hb : th.buf = none) : exec (.stins S d a) s = .next (s.l2fault t .noBuf 0) := by
  refine (threadWord_runs hr _).trans ?_
  simp only [hb]

/-- The request that `stins` serves: the one it names, or with no name the one for the buffer's kernel and set. -/
def served (th : Machine.Thread) (bf : Buffer) (r : DWord) : Option Request :=
  th.reqs.find? fun q => if r = 0 then q.isFor bf else q.id == r.toNat

theorem served_eq (th : Machine.Thread) (bf : Buffer) (r : DWord) :
    (if r.toNat = 0 then th.reqs.find? (·.isFor bf) else th.reqs.find? (·.id == r.toNat)) = served th bf r := by
  unfold served
  by_cases h : r = 0
  · subst h; rfl
  · rw [if_neg (mt (toNat_eq_zero_iff r).1 h)]
    simp only [h, if_false]

/-- The station is new and its words end in their vote, and the request that is named is for it: it is installed (R281). -/
theorem stins_installs (hr : Runs s t th) (hb : th.buf = some bf)
    (hq : th.rl a.toNat = 0 ∨ ∃ r, served th bf (th.rl a.toNat) = some r ∧ r.isFor bf = true)
    (hv : endsInVote bf.words = true) (hs : ∀ x ∈ s.timetable (threadCore t) th.ctx bf.codeid bf.kernel, sortNat x.set ≠ bf.set)
    (hl : (s.timetable (threadCore t) th.ctx bf.codeid bf.kernel).length < 1024) :
    let tt := s.timetable (threadCore t) th.ctx bf.codeid bf.kernel
    let n := freeStation tt 0 tt.length
    let u := ((s.modThread t fun x => { x with buf := none }).modCtx th.ctx fun c =>
      { c with composed := c.composed ++ [⟨threadCore t, bf.codeid, bf.kernel, n, bf.set, bf.words⟩] }).threadDone t
        fun x => x.wl d.toNat (dw n)
    exec (.stins S d a) s = .next (match served th bf (th.rl a.toNat) with
      | none => u
      | some r => u.serveRequest t r (some ⟨n, bf.set, some bf.words⟩)) := by
  intro tt n u
  have hany : tt.any (fun x => sortNat x.set == bf.set) = false := by simpa using hs
  refine (threadWord_runs hr _).trans ?_
  simp only [hb]
  refine (if_neg ?_).trans ((if_neg (Nat.not_le.2 hl)).trans ?_)
  · rw [hv, Bool.not_true, Bool.or_false, hany, Bool.or_false]
    rcases hq with hz | ⟨r, hf, hi⟩
    · rw [hz]; exact Bool.false_ne_true
    · by_cases hz : th.rl a.toNat = 0
      · rw [hz]; exact Bool.false_ne_true
      · rw [← served_eq, if_neg (mt (toNat_eq_zero_iff _).1 hz)] at hf
        simp only [hf, hi, Bool.not_true, Bool.and_false, Bool.false_eq_true, not_false_eq_true]
  · rw [served_eq]
    cases served th bf (th.rl a.toNat) <;> rfl

/-- `sdecl` of no request, and of one that is there (R283). -/
theorem sdecl_none (hr : Runs s t th) (hq : th.reqs = []) :
    exec (.sdecl S d a) s = .next (wrote (s.modThread t fun x => { x with buf := none }) t d 1) := by
  refine (threadWord_runs hr _).trans ?_
  simp only [hq, List.find?_nil, ite_self]
  rfl

theorem sdecl_declines (hr : Runs s t th) {r : Request} (h0 : th.rl a.toNat ≠ 0)
    (hq : th.reqs.find? (fun r => r.id == (th.rl a.toNat).toNat) = some r) : exec (.sdecl S d a) s =
      .next ((wrote (s.modThread t fun x => { x with buf := none }) t d 0).serveRequest t r none) := by
  refine (threadWord_runs hr _).trans ?_
  simp only [mt (toNat_eq_zero_iff _).1 h0, if_false, hq]
  rfl

/-- Settles O30: the composition words, by the buffer and the requests of their thread. -/
theorem compositionWords : Obligations.CompositionWords := by
  refine ⟨fun S d a b s t th hr => ⟨fun k hb hk h0 hn hd => sopen_opens hr hb hk h0 hn hd, fun bf hb => ⟨fun s1 hm => emits_adds hr hb hm,
    fun hm => emits_full hr hb hm, fun hq hv hs hl => ?_⟩, sdecl_none hr, fun r => sdecl_declines hr⟩, fun S d a b s t th hr =>
    ⟨fun hb => ⟨emits_noBuffer hr hb, stins_noBuffer hr hb⟩, sopen_open hr⟩⟩
  obtain ⟨h1, h2⟩ := freeStation_least (s.timetable (threadCore t) th.ctx bf.codeid bf.kernel)
  exact ⟨_, h1, h2, stins_installs hr hb hq hv hs hl⟩

end
end Sys2Proof.Claims.Lamps

/-! What the operations of the model leave as it is, whatever else they do: the word being performed, CLOCK, the islands, the mailbox,
the recovery point and the dies too hot; and memory and tags stay in canonical form (R232, R434, R441). One lemma per operation, in the order
of the model. -/
namespace Sys2Proof.Claims.Kept
open Sys2Proof.Machine
-- One proof at a time: the text is compiled as one file, whose memory parallel elaboration would exceed.
set_option Elab.async false

/-- The parts of a state that are as they were in o, and its contents in canonical form if o's were. -/
structure AsIn (o : State) (cur : Cur) (clock : Nat) (islands : List Nat) (mbox : List (List DWord)) (point : Option (Dev × Nat × List Nat))
    (critical : List Nat) (mem : List Host.Cell) (tags : List Nat) : Prop where
  cur : cur = o.cur
  clock : clock = o.clock
  islands : islands = o.islands
  mbox : mbox = o.mbox
  point : point = o.point
  critical : critical = o.critical
  mem : memWf o.mem = true → memWf mem = true
  tags : ascending o.tags = true → ascending tags = true

/-- The state keeps those parts of o. -/
def Keeps (o s : State) : Prop := AsIn o s.cur s.clock s.islands s.mbox s.point s.critical s.mem s.tags

theorem keeps_refl (o : State) : Keeps o o := ⟨rfl, rfl, rfl, rfl, rfl, rfl, id, id⟩

section
variable {o s : State}

/-- A state that keeps the parts of a sound one is sound. -/
theorem Keeps.sound (h : Keeps o s) (ho : o.Sound = true) : s.Sound = true := by
  simp only [State.Sound, Bool.and_eq_true] at ho ⊢
  obtain ⟨⟨⟨hd, hi⟩, hm⟩, hp⟩ := ho
  obtain ⟨hm', ht'⟩ := Bool.and_eq_true_iff.1 hd
  refine ⟨⟨⟨Bool.and_eq_true_iff.2 ⟨h.mem hm', h.tags ht'⟩, ?_⟩, ?_⟩, ?_⟩
  · rw [h.islands]; exact hi
  · rw [h.mbox]; exact hm
  · rw [h.point]; exact hp

/-- A fold of an operation that keeps them does. -/
theorem keeps_foldl {α : Type} {f : State → α → State} (hf : ∀ s x, Keeps o s → Keeps o (f s x)) :
    ∀ (l : List α) (s : State), Keeps o s → Keeps o (l.foldl f s)
  | [], _, h => h
  | x :: l, s, h => keeps_foldl hf l (f s x) (hf s x h)

/-- New contents in canonical form are kept. -/
theorem Keeps.dev_of (h : Keeps o s) {m : List Host.Cell} {ts : List Nat} (hm : memWf s.mem = true → memWf m = true)
    (ht : ascending s.tags = true → ascending ts = true) : AsIn o s.cur s.clock s.islands s.mbox s.point s.critical m ts :=
  { h with mem := fun ho => hm (h.mem ho), tags := fun ho => ht (h.tags ho) }

/-- Runs of bytes written one after another keep memory and tags in canonical form. -/
theorem memWf_putRuns : ∀ (ws : List (Nat × List Byte)) {m : List Host.Cell}, memWf m = true →
    memWf (ws.foldl (fun m x => mputs m x.1 x.2) m) = true
  | [], _, h => h
  | x :: ws, _, h => memWf_putRuns ws (memWf_mputs x.2 x.1 h)

theorem ascending_clearRuns : ∀ (ws : List (Nat × List Byte)) {ts : List Nat}, ascending ts = true →
    ascending (ws.foldl (fun ts x => (granules x.1 x.2.length).foldl tagClear ts) ts) = true
  | [], _, h => h
  | x :: ws, _, h => ascending_clearRuns ws (ascending_tagClears (granules x.1 x.2.length) h)

theorem keeps_addAccesses (l : List Access) : ∀ {s : State}, Keeps o s → Keeps o (s.addAccesses l) := by
  induction l with
  | nil => exact id
  | cons a r ih =>
    intro s h
    unfold State.addAccesses
    exact ih h

variable (h : Keeps o s)
include h

/-! ### Events, reports, release points (R82, R110, R467) -/

theorem keeps_notifyBy (core ctx : Nat) (by_ : Option Nat) (ws : List DWord) : Keeps o (s.notifyBy core ctx by_ ws) := by
  unfold State.notifyBy
  split <;> exact h

theorem keeps_notify (core ctx : Nat) (ws : List DWord) : Keeps o (s.notify core ctx ws) := keeps_notifyBy h ..

theorem keeps_report (kind ctx : Nat) (ws : List DWord) : Keeps o (s.report kind ctx ws) := h

theorem keeps_lapse (g : Nat) : Keeps o (s.lapse g) := by
  unfold State.lapse
  split <;> exact h

theorem keeps_release (g : Nat) : Keeps o (s.release g) := keeps_lapse h g

theorem keeps_orphan (g : Nat) : Keeps o (s.orphan g) := keeps_lapse h g

/-! ### Traps (R199 to R209) -/

theorem keeps_startHalt (crew group : Nat) (t : Trap) (dbg : Bool) : Keeps o (s.startHalt crew group t dbg) := by
  unfold State.startHalt
  split
  · exact h
  · split <;> exact h

theorem keeps_takeTrap (g : Nat) (t : Trap) : Keeps o (s.takeTrap g t) := by
  unfold State.takeTrap
  split
  · exact h
  · dsimp only
    split
    · exact keeps_startHalt (s := s.modGroup g _) h ..
    · exact h

theorem keeps_trapNow (g code : Nat) (fault : List Nat) (detail : DWord) (handle ooff : Nat) :
    Keeps o (s.trapNow g code fault detail handle ooff) := by
  unfold State.trapNow
  split
  · exact h
  · exact keeps_takeTrap h ..

/-! ### The end of a group and of a crew (R28, R65, R427) -/

theorem keeps_retireCrew (c : Nat) : Keeps o (s.retireCrew c) := by
  unfold State.retireCrew
  split
  · exact h
  · dsimp only
    split <;> split <;> exact h

theorem keeps_endStop (x : DbgStop) : Keeps o (s.endStop x) := h

theorem keeps_dropStops (gr : Machine.Group) : Keeps o (s.dropStops gr) := keeps_foldl (fun _ x h => keeps_endStop h x) _ _ h

theorem keeps_retireGroup (g : Nat) : Keeps o (s.retireGroup g) := by
  unfold State.retireGroup
  split
  · exact h
  · next gr _ =>
    have h1 : Keeps o { (s.dropStops gr).orphan g with groups := tdel ((s.dropStops gr).orphan g).groups g } :=
      keeps_orphan (keeps_dropStops h gr) g
    dsimp only
    split
    · exact keeps_retireCrew h1 _
    · exact h1

/-! ### Writes at the home of a byte (R91, R186, R233) -/

theorem keeps_memPuts (ws : List (Nat × List Byte)) : Keeps o (s.memPuts ws) :=
  h.dev_of (memWf_putRuns ws) (ascending_clearRuns ws)

theorem keeps_memWrite (a : Nat) (bs : List Byte) : Keeps o (s.memWrite a bs) := keeps_memPuts h _

theorem keeps_memWriteTagged (a : Nat) (bs : List Byte) (tag : Bool) : Keeps o (s.memWriteTagged a bs tag) := by
  unfold State.memWriteTagged
  dsimp only
  split
  · exact (keeps_memWrite h a bs).dev_of id (ascending_tagSet _)
  · exact keeps_memWrite h a bs

theorem keeps_logOut (ctx a n : Nat) : Keeps o (s.logOut ctx a n) := by
  unfold State.logOut
  split
  · exact h
  · dsimp only
    split
    · exact h
    · split <;> exact h

theorem keeps_devWrite (ctx a : Nat) (bs : List Byte) : Keeps o (s.devWrite ctx a bs) := keeps_logOut (keeps_memWrite h a bs) ..

theorem keeps_mailResult (raddr ctag status : Nat) (ws : List DWord) : Keeps o (s.mailResult raddr ctag status ws) :=
  keeps_memWrite h _ _

/-! ### Ports and tiles (R190, R321, R350) -/

theorem keeps_portEntry (port ctx x kind need off size : Nat) : Keeps o (s.portEntry port ctx x kind need off size).1 := by
  unfold State.portEntry
  split
  · exact h
  · dsimp only
    split
    · split
      · exact h
      · split <;> exact h
    · split <;> exact h

theorem keeps_sendTile (e : MEntry) (op : Nat) (cap : Cap) (write : Bool) (ps : List Piece) : Keeps o (s.sendTile e op cap write ps) :=
  keeps_addAccesses _ h

theorem keeps_startStore (e : MEntry) (t : Tile) (part : Part) (base stride : Nat) (cap : Cap) :
    Keeps o (s.startStore e t part base stride cap) := by
  unfold State.startStore
  split
  exacts [h, keeps_sendTile h ..]

theorem keeps_flushStores (g : Nat) : Keeps o (s.flushStores g) := by
  refine keeps_foldl (fun s e h => ?_) _ _ h
  split
  · split
    · exact keeps_startStore h ..
    all_goals exact h
  · exact h

/-! ### Writes of the device that may park (R65, R423) -/

theorem keeps_writeWords (ctx : Nat) (l : List (Nat × DWord)) : Keeps o (s.writeWords ctx l) := by
  induction l generalizing s with
  | nil => exact h
  | cons a r ih => exact ih (keeps_devWrite h ctx a.1 _)

theorem keeps_recordSignal (fn kind : Nat) : Keeps o (s.recordSignal fn kind) := by
  unfold State.recordSignal
  split <;> exact h

theorem keeps_sysQueue (c : Copy) : Keeps o (s.sysQueue c) := h

theorem keeps_holdCommand (id : Nat) (b : Nat × Nat) : Keeps o (s.holdCommand id b) := h

theorem keeps_sysWrite {fn tag ctx core x kind : Nat} {offs : List Nat} {ws : List DWord} {t : State}
    (ht : s.sysWrite fn tag ctx core x kind offs ws = some t) : Keeps o t := by
  simp only [State.sysWrite] at ht
  split at ht
  · cases ht; exact h
  · split at ht
    · cases ht
    · cases ht; exact keeps_recordSignal (keeps_writeWords h ..) ..
    · cases ht; exact h
    · cases ht; exact h

theorem keeps_completionLost (ctx cwh cwo : Nat) (ws : List DWord) : Keeps o (s.completionLost ctx cwh cwo ws) := h

/-! ### Tracing (R421 to R426) -/

theorem keeps_ringWrite (b : TraceBuf) (ctx core : Nat) (offs : List Nat) (ws : List DWord) : Keeps o (s.ringWrite b ctx core offs ws) := by
  unfold State.ringWrite
  split
  · exact keeps_sysWrite h ‹_›
  · split <;> exact h

theorem keeps_ringPacket (b : TraceBuf) (ctx core : Nat) (ws : List DWord) : Keeps o (s.ringPacket b ctx core ws).1 := by
  unfold State.ringPacket
  dsimp only
  split
  · exact h
  · split
    · exact keeps_ringWrite (s := s.setRing b core _) h ..
    · exact keeps_ringWrite (s := s.setRing b core _) h ..

theorem keeps_writePacket (b : TraceBuf) (core : Nat) (gr : Machine.Group) (p : TPkt) : Keeps o (s.writePacket b core gr p).1 := by
  have h1 : Keeps o (s.ringPacket b gr.ctx core (p.sync gr (p.place gr).1 (p.place gr).2)).1 := keeps_ringPacket h ..
  unfold State.writePacket
  dsimp only
  split
  · split
    · exact keeps_ringWrite (s := State.setRing _ b core _) h1 ..
    · exact keeps_ringPacket h1 ..
  · split
    · exact keeps_ringWrite (s := State.setRing _ b core _) h ..
    · exact keeps_ringPacket h ..

theorem keeps_writeReady (b : TraceBuf) (core : Nat) (l : List TPkt) (gr : Machine.Group) : Keeps o (s.writeReady b core gr l).1 := by
  induction l generalizing s gr with
  | nil => exact h
  | cons p r ih =>
    unfold State.writeReady
    split
    · exact h
    · exact ih (keeps_writePacket h b core gr p) _

theorem keeps_packet (g : Nat) (p : TPkt) : Keeps o (s.packet g p) := by
  unfold State.packet
  split
  · exact h
  · split
    · exact h
    · exact keeps_writeReady h ..

theorem keeps_tracePkt (g type station pass w0 : Nat) (rest : List DWord) : Keeps o (s.tracePkt g type station pass w0 rest) := by
  unfold State.tracePkt
  split
  · exact h
  · split
    exacts [keeps_packet h .., h]

theorem keeps_traceSync (g : Nat) : Keeps o (s.traceSync g) := by
  unfold State.traceSync
  split
  · exact h
  · split
    exacts [h, keeps_tracePkt h ..]

theorem keeps_traceEntry (g : Nat) (first : Bool) : Keeps o (s.traceEntry g first) := by
  unfold State.traceEntry
  split
  · exact h
  · split
    · exact keeps_traceSync h g
    · split <;> exact keeps_tracePkt h ..

theorem keeps_packets (g : Nat) (ps : List TPkt) : Keeps o (s.packets g ps) := keeps_foldl (fun _ p h => keeps_packet h g p) _ _ h

theorem keeps_traceLive (g : Nat) (before : List Nat) (isExit : Bool) : Keeps o (s.traceLive g before isExit) := by
  unfold State.traceLive
  split
  · exact h
  · split
    · exact h
    · dsimp only
      split <;> exact keeps_packets h ..

theorem keeps_sampleTick (gr : Machine.Group) : Keeps o (s.sampleTick gr).1 := by
  unfold State.sampleTick
  split
  · dsimp only
    split
    · exact h
    · split <;> exact h
  · exact h

theorem keeps_sampleDone (g n : Nat) (body : Nat × List DWord) : Keeps o (s.sampleDone g n body) := by
  unfold State.sampleDone
  split
  · exact h
  · split
    · exact h
    · exact keeps_writeReady h ..

theorem keeps_sampleRefused (g : Nat) (gr : Machine.Group) : Keeps o (s.sampleRefused g gr) := by
  unfold State.sampleRefused
  dsimp only
  split
  · exact keeps_packet (keeps_sampleTick h gr) ..
  · exact keeps_sampleTick h gr

theorem keeps_countRefused (g : Nat) (gr : Machine.Group) : Keeps o (s.countRefused g gr) := by
  unfold State.countRefused
  split
  exacts [h, keeps_sampleRefused h g gr]

omit h in
/-- A refused word's sample leaves the word being performed. -/
theorem sampleRefused_cur (s : State) (g : Nat) (gr : Machine.Group) : (s.sampleRefused g gr).cur = s.cur :=
  (keeps_sampleRefused (keeps_refl s) g gr).cur

/-! ### The end of a group and of a context (R211, R219) -/

theorem keeps_endQueued (g : Nat) : Keeps o (s.endQueued g) := by
  refine keeps_foldl (fun s x h => ?_) _ _ h
  dsimp only
  split
  · exact keeps_sampleDone (s := { s with ops := tdel s.ops x.1 }) h ..
  · exact h

theorem keeps_traceKill (g : Nat) : Keeps o (s.traceKill g) := by
  unfold State.traceKill
  dsimp only
  have h1 := keeps_endQueued h g
  split
  · exact h1
  · split
    · exact h1
    · split <;> split <;> exact keeps_writeReady h1 ..

theorem keeps_ghostDone (n : Nat) (body : Nat × List DWord) : Keeps o (s.ghostDone n body) := by
  unfold State.ghostDone
  split
  · exact h
  · exact keeps_writeReady h ..

theorem keeps_withSavedOf (ctx : Nat) : Keeps o (s.withSavedOf ctx) := by
  refine keeps_foldl (fun s x h => ?_) _ _ h
  dsimp only
  split <;> exact h

theorem keeps_endGroup (g : Nat) : Keeps o (s.endGroup g) := by
  unfold State.endGroup
  split
  · exact h
  · exact keeps_orphan (keeps_traceKill (keeps_flushStores (keeps_dropStops h _) g) g) g

theorem keeps_failContext (ctx : Nat) : Keeps o (s.failContext ctx) := by
  unfold State.failContext
  refine keeps_foldl (fun s x h => keeps_mailResult h ..) _ _ ?_
  exact keeps_foldl (fun s g h => keeps_endGroup h g) _ _ (keeps_withSavedOf h ctx)

theorem keeps_l2faultAt (t ctx pc : Nat) (word : Word) (code : L2) (detail : Nat) : Keeps o (s.l2faultAt t ctx pc word code detail) :=
  keeps_failContext h ctx

theorem keeps_l2fault (t : Nat) (code : L2) (detail : Nat) : Keeps o (s.l2fault t code detail) := by
  unfold State.l2fault
  split
  exacts [h, keeps_l2faultAt h ..]

end
end Sys2Proof.Claims.Kept

/-! Memory words of a group: the checks at issue and the way into the memory path (R182, R274, R318 to R338). -/
namespace Sys2Proof.Claims.Memory
open Sys2Proof.Machine
-- One proof at a time: the text is compiled as one file, whose memory parallel elaboration would exceed.
set_option Elab.async false

/-! ### Immediates and checks (R182, R260) -/

theorem immS_eq_wideS (h : Option (BitVec 25)) {n : Nat} (x : BitVec n) (hn : 0 < n) : immS h n x.toNat = wideS h n x := by
  cases h with
  | none => exact immS_none x hn
  | some p => exact immS_some p x

theorem immU_eq_wideN (h : Option (BitVec 25)) {n : Nat} (x : BitVec n) : immU h n x.toNat = wideN h n x := by
  cases h with
  | none => rfl
  | some p => exact immU_some p x

theorem scopeNum_eq (c : Scope) : scopeNum c = scopeCode c := by cases c <;> rfl

theorem misaligned_iff (c : Cap) (off : Int) (n : Nat) : misaligned c off n = true ↔ BadAlign c off n := by
  simp only [misaligned, BadAlign, Bool.or_eq_true, bne_iff_ne]

theorem holds_iff (mask need : Nat) : holds mask need = true ↔ mask &&& need = need := beq_iff_eq

/-- What the checks of one access answer, in their order (R182). -/
theorem issueCheck_none {c : Cap} {off : Int} {n need : Nat} : issueCheck c off n need = none ↔
    ¬ BadAlign c off n ∧ ¬ BadBound c off n ∧ c.rights &&& need = need ∧ c.wellFormed = true := by
  unfold issueCheck capCheck BadBound
  rw [← misaligned_iff, ← holds_iff]
  split
  · simp [*]
  · split
    · simp_all
    · cases holds c.rights need <;> cases c.wellFormed <;> simp_all

theorem issueCheck_code {c : Cap} {off : Int} {n need code : Nat} (h : issueCheck c off n need = some code) :
    (code = 3 ↔ BadAlign c off n) ∧ (code = 8 ↔ ¬ BadAlign c off n ∧ BadBound c off n) ∧
    (code = 9 ↔ ¬ BadAlign c off n ∧ ¬ BadBound c off n ∧ c.rights &&& need ≠ need) ∧
    (code = 10 ↔ ¬ BadAlign c off n ∧ ¬ BadBound c off n ∧ c.rights &&& need = need ∧ c.wellFormed = false) := by
  unfold issueCheck capCheck at h
  unfold BadBound
  rw [← misaligned_iff, Ne, ← holds_iff]
  split at h
  next hm => cases h; simp [hm]
  next hm =>
    split at h
    next hb => cases h; simp [hm, hb]
    next hb =>
      cases hh : holds c.rights need <;> cases hw : c.wellFormed <;> simp [hh, hw] at h <;> subst h <;> simp [hm, hb]

/-- A well-formed capability is of one of the six kinds (R180). -/
theorem kind_of_wellFormed {c : Cap} (h : c.wellFormed = true) : c.kind ∈ [1, 2, 3, 4, 5, 6] := by
  simp only [Cap.wellFormed, Bool.and_eq_true, decide_eq_true_eq] at h
  obtain ⟨-, h1, h6, -⟩ := h
  simp only [List.mem_cons, List.not_mem_nil, or_false]
  omega

/-- A word of every role without a check, which a `hix` widens or stands alone. -/
theorem actWord_open {s : State} {g : Nat} {gr : Machine.Group} {takes : Bool} {act : Nat → Machine.Group → State} (ha : Acts s g gr)
    (hx : s.cur.hix = none ∨ takes = true) : actWord s takes (fun _ => []) anyRole act = .next (act g gr) :=
  actWord_performs ha.who ha.here ha.active hx rfl rfl

/-! ### Per-lane words (R318 to R324) -/

section
variable {s : State} {g : Nat} {gr : Machine.Group} {w : LaneWord} {i : Instr}

/-- The checks of a per-lane word's registers, which pass where they fit. -/
def runChecks (rs : List (BitVec 7 × Nat)) (gr : Machine.Group) : List (Bool × Nat) :=
  [(!rs.all fun r => vOk gr r.1.toNat r.2, 5)]

theorem runChecks_pass {rs : List (BitVec 7 × Nat)} (h : ∀ r ∈ rs, Fits gr r) : firstFail (runChecks rs gr) = none := by
  have : (rs.all fun r => vOk gr r.1.toNat r.2) = true :=
    List.all_eq_true.2 fun r hr => Vector.vOk_of_fits (h r hr)
  simp [runChecks, firstFail, this]

/-- The instruction is the per-lane access of its table. -/
def LaneAccess (i : Instr) (s : State) (w : LaneWord) : Prop :=
  ∃ takes, (s.cur.hix = none ∨ takes = true) ∧ exec i s =
    laneAccess s (runChecks w.regs) w.cap w.addr takes w.add w.size w.need w.kind w.counted w.cls w.write w.isAtom w.value

theorem runChecks_two (d a : BitVec 7) (n : Nat) :
    (fun gr => [(!(vOk gr d.toNat n && vOk gr a.toNat 1), 5)]) = runChecks [(d, n), (a, 1)] := by
  funext gr
  simp [runChecks]

theorem ldSize_eq (t : LdTy) : ldSize t = ldBytes t := by cases t <;> rfl
theorem stSize_eq (t : StTy) : stSize t = stBytes t := by cases t <;> rfl
theorem regsFor_ldBytes (t : LdTy) : regsFor (ldBytes t) = elements (ldBytes t) := by cases t <;> rfl
theorem regsFor_stBytes (t : StTy) : regsFor (stBytes t) = elements (stBytes t) := by cases t <;> rfl

/-- An atomic of w elements, as the table gives it. -/
theorem laneAccess_of_atom (d : BitVec 7) (k : BitVec 4) (a : BitVec 7) (o : AtomOp) (w : Nat) (returns : Bool)
    (hx : s.cur.hix = none) (he : exec i s = atomWord s d k a o (4 * w) returns) : LaneAccess i s (atomAsk d k a o w returns) := by
  refine ⟨false, .inl hx, he.trans ?_⟩
  simp only [atomWord, runChecks_two, Nat.mul_div_cancel_left w (by decide : 0 < 4)]
  rfl

theorem laneAccess_of_table (hv : laneWordOf s.cur.hix i = some w) : LaneAccess i s w := by
  cases i
  case ld S d k a t im =>
    cases hv
    refine ⟨true, .inr rfl, ?_⟩
    show execLd d k a t im s = _
    simp only [execLd, runChecks_two, ldSize_eq, regsFor_ldBytes, immS_eq_wideS _ im (by decide)]
    rfl
  case st S d k a t im =>
    cases hv
    refine ⟨true, .inr rfl, ?_⟩
    show execSt d k a t im s = _
    simp only [execSt, runChecks_two, stSize_eq, regsFor_stBytes, immS_eq_wideS _ im (by decide)]
    rfl
  case atom S d k a o c =>
    obtain ⟨hx, hw⟩ := Option.ite_none_right_eq_some.1 hv
    cases hw
    exact laneAccess_of_atom d k a o 1 true hx rfl
  case atomx S d k a o c =>
    obtain ⟨hx, hw⟩ := Option.ite_none_right_eq_some.1 hv
    cases hw
    exact laneAccess_of_atom d k a o 1 false hx rfl
  case atom64 S d k a o c =>
    obtain ⟨hx, hw⟩ := Option.ite_none_right_eq_some.1 hv
    cases hw
    exact laneAccess_of_atom d k a o 2 true hx rfl
  case atomx64 S d k a o c =>
    obtain ⟨hx, hw⟩ := Option.ite_none_right_eq_some.1 hv
    cases hw
    exact laneAccess_of_atom d k a o 2 false hx rfl
  all_goals cases hv

/-- The lanes whose window offset has a property. -/
theorem laneOffs_filter (p : Int → Bool) (w : LaneWord) : (laneOffs s gr w.addr w.add).filter (fun x => p x.2) =
    (s.cur.act.filter fun n => p (laneOffset gr w n)).map fun n => (n, laneOffset gr w n) := by
  rw [laneOffs, List.filter_map]
  rfl

/-- A per-lane word with its registers in place traps on the earliest check that some lane fails. -/
theorem laneAccess_traps (ha : Acts s g gr) (hl : LaneAccess i s w) (hr : ∀ r ∈ w.regs, Fits gr r) {code : Nat} {lanes : List LaneOff}
    (hf : laneFault (gr.rk w.cap.toNat) w.size w.need (laneOffs s gr w.addr w.add) = some (code, lanes)) :
    exec i s = .next (s.checkTrap g (gr.rk w.cap.toNat) code lanes) := by
  obtain ⟨takes, hx, he⟩ := hl
  rw [he, laneAccess, actWord_performs ha.who ha.here ha.active hx (runChecks_pass hr) rfl]
  simp only [hf]

/-- With no check failed its accesses leave. -/
theorem laneAccess_sends (ha : Acts s g gr) (hl : LaneAccess i s w) (hr : ∀ r ∈ w.regs, Fits gr r)
    (hf : laneFault (gr.rk w.cap.toNat) w.size w.need (laneOffs s gr w.addr w.add) = none) :
    exec i s = .next (s.send g gr w.kind w.counted w.cls ⟨gr.rk w.cap.toNat, w.need, w.write, w.isAtom, !w.isAtom, none⟩
      (s.cur.act.map fun n => ⟨n, (((gr.rk w.cap.toNat).low : Int) + laneOffset gr w n).toNat, w.size,
        (w.value (gr.lane n)).1, (w.value (gr.lane n)).2⟩)) := by
  obtain ⟨takes, hx, he⟩ := hl
  rw [he, laneAccess, actWord_performs ha.who ha.here ha.active hx (runChecks_pass hr) rfl]
  simp only [hf]
  rw [laneOffs, List.map_map]
  rfl

/-- A check that some lanes fail: they are the fault set, and the lowest gives HANDLE and OOFF (R203). -/
theorem checkTrap_lanes (ha : Acts s g gr) (c : Cap) (code : Nat) {ns : List Nat} (h : ns ≠ []) :
    s.checkTrap g c code (ns.map fun n => (n, laneOffset gr w n)) = (s.sampleRefused g gr).trapNow g code ns 0 c.handle
        (cutInt 40 ((c.low : Int) + laneOffset gr w (ns.headD 0))) := by
  have hm : (ns.map fun n => (n, laneOffset gr w n)).map Prod.fst = ns := by
    rw [List.map_map]
    exact List.map_id ns
  cases ns with
  | nil => exact absurd rfl h
  | cons n r =>
    unfold State.checkTrap
    rw [hm]
    simp only [ha.here, List.map_cons, List.headD_cons]

/-- The checks of R182 lane by lane: those of ALIGN, then those of CAPBOUND, then the two of the capability. -/
theorem laneFault_eq {c : Cap} {size need : Nat} {offs a b : List LaneOff} (ha : (offs.filter fun x => misaligned c x.2 size) = a)
    (hb : (offs.filter fun x => decide (x.2 < 0 ∨ (c.len : Int) < x.2 + size)) = b) :
    (a ≠ [] → laneFault c size need offs = some (3, a)) ∧ (a = [] → b ≠ [] → laneFault c size need offs = some (8, b)) ∧
    (a = [] → b = [] → c.rights &&& need ≠ need → laneFault c size need offs = some (9, offs)) ∧
    (a = [] → b = [] → c.rights &&& need = need → c.wellFormed = false → laneFault c size need offs = some (10, offs)) ∧
    (a = [] → b = [] → c.rights &&& need = need → c.wellFormed = true → laneFault c size need offs = none) := by
  simp only [laneFault, ha, hb, ← holds_iff]
  refine ⟨fun h => ?_, fun h h' => ?_, fun h h' hn => ?_, fun h h' hn hw => ?_, fun h h' hn hw => ?_⟩
  · cases a <;> [exact absurd rfl h; rfl]
  · subst h; cases b <;> [exact absurd rfl h'; rfl]
  · have : holds c.rights need = false := Bool.eq_false_iff.2 (mt (holds_iff ..).1 hn)
    subst h h'
    simp only [this, Bool.not_false, if_true]
  · subst h h'; simp [hn, hw]
  · subst h h'; simp [hn, hw]

end

/-- The lanes of the active set that fail the checks of ALIGN and of CAPBOUND. -/
def misalignedLanes (s : State) (gr : Machine.Group) (w : LaneWord) : List Nat :=
  s.cur.act.filter fun n => misaligned (gr.rk w.cap.toNat) (laneOffset gr w n) w.size
def unboundLanes (s : State) (gr : Machine.Group) (w : LaneWord) : List Nat :=
  s.cur.act.filter fun n => decide (laneOffset gr w n < 0 ∨ ((gr.rk w.cap.toNat).len : Int) < laneOffset gr w n + w.size)

theorem misalignedLanes_nil {s : State} {gr : Machine.Group} {w : LaneWord} :
    misalignedLanes s gr w = [] ↔ ∀ n ∈ s.cur.act, ¬ BadAlign (gr.rk w.cap.toNat) (laneOffset gr w n) w.size := by
  rw [misalignedLanes, List.filter_eq_nil_iff]
  simp only [misaligned_iff]

theorem unboundLanes_nil {s : State} {gr : Machine.Group} {w : LaneWord} :
    unboundLanes s gr w = [] ↔ ∀ n ∈ s.cur.act, ¬ BadBound (gr.rk w.cap.toNat) (laneOffset gr w n) w.size := by
  rw [unboundLanes, List.filter_eq_nil_iff]
  simp only [decide_eq_true_eq, BadBound]

/-- The checks of a word of the table, by its lanes. -/
theorem laneFault_of_lanes (s : State) (gr : Machine.Group) (w : LaneWord) :
    let c := gr.rk w.cap.toNat
    let pair := List.map fun n => (n, laneOffset gr w n)
    let fault := laneFault c w.size w.need (laneOffs s gr w.addr w.add)
    (misalignedLanes s gr w ≠ [] → fault = some (3, pair (misalignedLanes s gr w))) ∧
    (misalignedLanes s gr w = [] → unboundLanes s gr w ≠ [] → fault = some (8, pair (unboundLanes s gr w))) ∧
    (misalignedLanes s gr w = [] → unboundLanes s gr w = [] → c.rights &&& w.need ≠ w.need → fault = some (9, pair s.cur.act)) ∧
    (misalignedLanes s gr w = [] → unboundLanes s gr w = [] → c.rights &&& w.need = w.need → c.wellFormed = false →
      fault = some (10, pair s.cur.act)) ∧
    (misalignedLanes s gr w = [] → unboundLanes s gr w = [] → c.rights &&& w.need = w.need → c.wellFormed = true → fault = none) := by
  intro c pair fault
  obtain ⟨h3, h8, h9, h10, h0⟩ := laneFault_eq (need := w.need) (laneOffs_filter (s := s) (gr := gr) (fun x => misaligned c x w.size) w)
    (laneOffs_filter (fun x => decide (x < 0 ∨ (c.len : Int) < x + w.size)) w)
  simp only [Ne, List.map_eq_nil_iff] at h3 h8 h9 h10 h0
  exact ⟨h3, h8, h9, h10, h0⟩

/-- Settles O17: no lane fails a check. -/
theorem laneMemoryWordPerforms : Obligations.LaneMemoryWordPerforms := by
  intro i s g gr w ha hv hr c hok hn hw
  obtain ⟨-, -, -, -, h0⟩ := laneFault_of_lanes s gr w
  exact laneAccess_sends ha (laneAccess_of_table hv) hr
    (h0 (misalignedLanes_nil.2 fun n hn => (hok n hn).1) (unboundLanes_nil.2 fun n hn => (hok n hn).2) hn hw)

/-! ### Single accesses (R274, R328 to R338) -/

section
variable {s : State} {g : Nat} {gr : Machine.Group} {w : OnceWord} {i : Instr}

/-- A single access with every check passed leaves; with one failed it traps on that one. -/
theorem onceAccess_sends {kinds : Nat → Bool} (hk : ∀ n ∈ [1, 2, 3, 4, 5, 6], kinds n = true ↔ n ∈ w.kinds) (hp : OncePasses gr w) :
    s.onceAccess g gr (gr.rk w.cap.toNat) w.off w.size w.need kinds w.kind w.counted w.cls w.write w.isAtom w.plain w.tag w.value =
      onceSent s g gr w := by
  obtain ⟨h1, h2, h3, h4, h5⟩ := hp
  have hc : issueCheck (gr.rk w.cap.toNat) w.off w.size w.need = none := issueCheck_none.2 ⟨h1, h2, h3, h4⟩
  simp only [State.onceAccess, hc, (hk _ (kind_of_wellFormed h4)).2 h5, if_true]
  rfl

/-- The codes of a single access that a check stops, as the statement orders them. -/
def StopCode (gr : Machine.Group) (w : OnceWord) (code : Nat) : Prop :=
  let c := gr.rk w.cap.toNat
  (code = 3 ↔ BadAlign c w.off w.size) ∧ (code = 8 ↔ ¬ BadAlign c w.off w.size ∧ BadBound c w.off w.size) ∧
  (code = 9 ↔ ¬ BadAlign c w.off w.size ∧ ¬ BadBound c w.off w.size ∧
    (c.rights &&& w.need ≠ w.need ∨ (c.rights &&& w.need = w.need ∧ c.wellFormed = true ∧ c.kind ∉ w.kinds))) ∧
  (code = 10 ↔ ¬ BadAlign c w.off w.size ∧ ¬ BadBound c w.off w.size ∧ c.rights &&& w.need = w.need ∧ c.wellFormed = false)

theorem onceTrap_eq (hg : s.group? g = some gr) (c : Cap) (code : Nat) (off : Int) : s.onceTrap g c code off =
    (s.sampleRefused g gr).trapNow g code s.cur.act 0 c.handle (cutInt 40 ((c.low : Int) + off)) := by
  simp only [State.onceTrap, hg, Kept.sampleRefused_cur]

theorem onceAccess_traps (hg : s.group? g = some gr) {kinds : Nat → Bool} (hk : ∀ n ∈ [1, 2, 3, 4, 5, 6], kinds n = true ↔ n ∈ w.kinds)
    (hp : ¬ OncePasses gr w) : ∃ code, StopCode gr w code ∧
      s.onceAccess g gr (gr.rk w.cap.toNat) w.off w.size w.need kinds w.kind w.counted w.cls w.write w.isAtom w.plain w.tag w.value =
        (s.sampleRefused g gr).trapNow g code s.cur.act 0 (gr.rk w.cap.toNat).handle
          (cutInt 40 (((gr.rk w.cap.toNat).low : Int) + w.off)) := by
  cases hc : issueCheck (gr.rk w.cap.toNat) w.off w.size w.need with
  | some code =>
    obtain ⟨h3, h8, h9, h10⟩ := issueCheck_code hc
    refine ⟨code, ⟨h3, h8, h9.trans ?_, h10⟩, ?_⟩
    · -- a capability whose rights are there and that is well-formed stops at no check before its kind
      refine and_congr_right fun ha => and_congr_right fun hb => ⟨.inl, fun h => h.elim id fun ⟨hn, hw, _⟩ => ?_⟩
      rw [issueCheck_none.2 ⟨ha, hb, hn, hw⟩] at hc
      cases hc
    · simp only [State.onceAccess, hc, onceTrap_eq hg]
  | none =>
    obtain ⟨ha, hb, hn, hw⟩ := issueCheck_none.1 hc
    have hkind : (gr.rk w.cap.toNat).kind ∉ w.kinds := fun h => hp ⟨ha, hb, hn, hw, h⟩
    refine ⟨9, ?_, ?_⟩
    · simp [StopCode, ha, hb, hn, hw, hkind]
    · have : kinds (gr.rk w.cap.toNat).kind = false := by
        rw [Bool.eq_false_iff]
        exact mt (hk _ (kind_of_wellFormed hw)).1 hkind
      simp only [State.onceAccess, hc, this, Bool.false_eq_true, if_false, onceTrap_eq hg]

/-- The instruction is the single access of its table, then a change of the state that its group waits in. -/
def OnceAccess (i : Instr) (s : State) (g : Nat) (gr : Machine.Group) (w : OnceWord) : Prop :=
  ∃ kinds : Nat → Bool, (∀ n ∈ [1, 2, 3, 4, 5, 6], kinds n = true ↔ n ∈ w.kinds) ∧ exec i s = .next (s.onceAccess g gr (gr.rk w.cap.toNat)
    w.off w.size w.need kinds w.kind w.counted w.cls w.write w.isAtom w.plain w.tag w.value)

theorem anyKind_iff (n : Nat) (hn : n ∈ [1, 2, 3, 4, 5, 6]) : anyKind n = true ↔ n ∈ [1, 2, 3, 4, 5, 6] := by simp [anyKind, hn]
theorem sramKind_iff (n : Nat) (_ : n ∈ [1, 2, 3, 4, 5, 6]) : sramKind n = true ↔ n ∈ [2] := by simp [sramKind]
theorem waitKinds_iff (n : Nat) (_ : n ∈ [1, 2, 3, 4, 5, 6]) : waitKinds n = true ↔ n ∈ [1, 2] := by simp [waitKinds]

section
variable (ha : Acts s g gr)
include ha

/-- `lds` and `sts` of a group are accesses of their tables. -/
theorem onceAccess_of_lds {d : BitVec 5} {k : BitVec 4} {a : BitVec 5} {im : BitVec 8} {n : Nat} (he : exec i s = ldsWord s d k a im n) :
    OnceAccess i s g gr (scalarAsk gr s.cur.hix k a im n (some d) 0) := by
  refine ⟨anyKind, anyKind_iff, ?_⟩
  simp only [he, ldsWord, ha.who]
  rw [actWord_open ha (.inr rfl), immS_eq_wideS _ _ (by decide)]
  simp only [scalarAsk, Nat.zero_mod]
  rfl

theorem onceAccess_of_sts {d : BitVec 5} {k : BitVec 4} {a : BitVec 5} {im : BitVec 8} {n : Nat} (he : exec i s = stsWord s d k a im n) :
    OnceAccess i s g gr (scalarAsk gr s.cur.hix k a im n none (gr.rs d.toNat).toNat) := by
  refine ⟨anyKind, anyKind_iff, ?_⟩
  simp only [he, stsWord, ha.who]
  rw [actWord_open ha (.inr rfl), immS_eq_wideS _ _ (by decide)]
  rfl

theorem onceAccess_of_table (hv : onceWordOf gr s.cur.hix i = some w) : OnceAccess i s g gr w := by
  cases i
  case ldsN8 => cases hv; exact onceAccess_of_lds ha rfl
  case ldsN16 => cases hv; exact onceAccess_of_lds ha rfl
  case ldsN32 => cases hv; exact onceAccess_of_lds ha rfl
  case ldsB64 => cases hv; exact onceAccess_of_lds ha rfl
  case stsB8 => cases hv; exact onceAccess_of_sts ha rfl
  case stsB16 => cases hv; exact onceAccess_of_sts ha rfl
  case stsB32 => cases hv; exact onceAccess_of_sts ha rfl
  case stsB64 => cases hv; exact onceAccess_of_sts ha rfl
  case kld S d k a =>
    obtain ⟨hx, hw⟩ := Option.ite_none_right_eq_some.1 hv
    cases hw
    refine ⟨anyKind, anyKind_iff, ?_⟩
    show execKld d k a s = _
    simp only [execKld, ha.who]
    exact actWord_open ha (.inl hx)
  case kst S d k a =>
    obtain ⟨hx, hw⟩ := Option.ite_none_right_eq_some.1 hv
    cases hw
    refine ⟨anyKind, anyKind_iff, ?_⟩
    show execKst d k a s = _
    simp only [execKst, ha.who]
    exact actWord_open ha (.inl hx)
  case barinit S k a b =>
    obtain ⟨hx, hw⟩ := Option.ite_none_right_eq_some.1 hv
    cases hw
    exact ⟨sramKind, sramKind_iff, actWord_open ha (.inl hx)⟩
  all_goals cases hv

/-- A synchronisation word is its access, after which the group holds issue where it left (R200). -/
theorem heldAccess_of_table (hv : syncWordOf gr s.cur.hix i = some w) :
    ∃ kinds : Nat → Bool, (∀ n ∈ [1, 2, 3, 4, 5, 6], kinds n = true ↔ n ∈ w.kinds) ∧
      exec i s = .next (s.heldAccess g gr (gr.rk w.cap.toNat) w.off w.need kinds w.kind w.isAtom) ∧
      w.size = 8 ∧ w.counted = false ∧ w.cls = 0 ∧ w.write = w.isAtom ∧ w.plain = false ∧ w.tag = none ∧ w.value = 0 := by
  cases i
  case barr S k a c n =>
    cases hv
    refine ⟨sramKind, sramKind_iff, ?_, rfl, rfl, rfl, rfl, rfl, rfl, rfl⟩
    exact (actWord_open ha (.inr rfl)).trans (by rw [immU_eq_wideN, scopeNum_eq]; rfl)
  case bars S k a c n =>
    cases hv
    refine ⟨sramKind, sramKind_iff, ?_, rfl, rfl, rfl, rfl, rfl, rfl, rfl⟩
    exact (actWord_open ha (.inr rfl)).trans (by rw [immU_eq_wideN, scopeNum_eq]; rfl)
  case barw S k a b c =>
    obtain ⟨hx, hw⟩ := Option.ite_none_right_eq_some.1 hv
    cases hw
    refine ⟨sramKind, sramKind_iff, ?_, rfl, rfl, rfl, rfl, rfl, rfl, rfl⟩
    exact (actWord_open ha (.inl hx)).trans (by rw [scopeNum_eq]; rfl)
  case waitw S k a b =>
    obtain ⟨hx, hw⟩ := Option.ite_none_right_eq_some.1 hv
    cases hw
    exact ⟨waitKinds, waitKinds_iff, actWord_open ha (.inl hx), rfl, rfl, rfl, rfl, rfl, rfl, rfl⟩
  all_goals cases hv

end

/-- What a synchronisation word makes of its access. -/
theorem heldAccess_eq {kinds : Nat → Bool} (hd : w.size = 8 ∧ w.counted = false ∧ w.cls = 0 ∧ w.write = w.isAtom ∧ w.plain = false ∧
      w.tag = none ∧ w.value = 0) :
    s.heldAccess g gr (gr.rk w.cap.toNat) w.off w.need kinds w.kind w.isAtom =
      let s1 := s.onceAccess g gr (gr.rk w.cap.toNat) w.off w.size w.need kinds w.kind w.counted w.cls w.write w.isAtom w.plain w.tag w.value
      if ((issueCheck (gr.rk w.cap.toNat) w.off w.size w.need).isNone && kinds (gr.rk w.cap.toNat).kind) = true then
        s1.modGroup g fun x => { x with wait := .answer s.nextId, met := false }
      else s1 := by
  obtain ⟨h1, h2, h3, h4, h5, h6, h7⟩ := hd
  rw [h1, h2, h3, h4, h5, h6, h7]
  rfl

/-- The word's access passes: it leaves, and the group waits for its answer. -/
theorem heldAccess_sends {kinds : Nat → Bool} (hk : ∀ n ∈ [1, 2, 3, 4, 5, 6], kinds n = true ↔ n ∈ w.kinds)
    (hd : w.size = 8 ∧ w.counted = false ∧ w.cls = 0 ∧ w.write = w.isAtom ∧ w.plain = false ∧ w.tag = none ∧ w.value = 0)
    (hp : OncePasses gr w) : s.heldAccess g gr (gr.rk w.cap.toNat) w.off w.need kinds w.kind w.isAtom =
      (onceSent s g gr w).modGroup g fun x => { x with wait := .answer s.nextId, met := false } := by
  rw [heldAccess_eq hd, onceAccess_sends hk hp]
  obtain ⟨h1, h2, h3, h4, h5⟩ := hp
  refine if_pos ?_
  rw [issueCheck_none.2 ⟨h1, h2, h3, h4⟩, (hk _ (kind_of_wellFormed h4)).2 h5]
  rfl

/-- It does not pass: what stops it is all that is left. -/
theorem heldAccess_stops {kinds : Nat → Bool} (hk : ∀ n ∈ [1, 2, 3, 4, 5, 6], kinds n = true ↔ n ∈ w.kinds)
    (hd : w.size = 8 ∧ w.counted = false ∧ w.cls = 0 ∧ w.write = w.isAtom ∧ w.plain = false ∧ w.tag = none ∧ w.value = 0)
    (hp : ¬ OncePasses gr w) : s.heldAccess g gr (gr.rk w.cap.toNat) w.off w.need kinds w.kind w.isAtom =
      s.onceAccess g gr (gr.rk w.cap.toNat) w.off w.size w.need kinds w.kind w.counted w.cls w.write w.isAtom w.plain w.tag w.value := by
  rw [heldAccess_eq hd]
  refine if_neg fun h => hp ?_
  obtain ⟨hc, hkind⟩ := Bool.and_eq_true_iff.1 h
  obtain ⟨h1, h2, h3, h4⟩ := issueCheck_none.1 (Option.isNone_iff_eq_none.1 hc)
  exact ⟨h1, h2, h3, h4, (hk _ (kind_of_wellFormed h4)).1 hkind⟩

end

/-- Settles O18: every check passes. -/
theorem singleMemoryWordPerforms : Obligations.SingleMemoryWordPerforms := by
  refine ⟨fun i s g gr w ha hv hp => ?_, fun i s g gr w ha hv hp => ?_⟩
  · obtain ⟨kinds, hk, he⟩ := onceAccess_of_table ha hv
    rw [he, onceAccess_sends hk hp]
  · obtain ⟨kinds, hk, he, hd⟩ := heldAccess_of_table ha hv
    rw [he, heldAccess_sends hk hd hp]

/-- Settles O19: the first check that fails, of the lanes and of a single access. -/
theorem memoryWordChecks : Obligations.MemoryWordChecks := by
  refine ⟨fun i s g gr w ha hv hr => ?_, fun i s g gr w ha hv hp => ?_⟩
  · obtain ⟨h3, h8, h9, h10, -⟩ := laneFault_of_lanes s gr w
    have hl := laneAccess_of_table hv
    exact ⟨fun h => (laneAccess_traps ha hl hr (h3 h)).trans (congrArg _ (checkTrap_lanes ha _ _ h)),
      fun h h' => (laneAccess_traps ha hl hr (h8 h h')).trans (congrArg _ (checkTrap_lanes ha _ _ h')),
      fun h h' hn => (laneAccess_traps ha hl hr (h9 h h' hn)).trans (congrArg _ (checkTrap_lanes ha _ _ ha.active)),
      fun h h' hn hw => (laneAccess_traps ha hl hr (h10 h h' hn hw)).trans (congrArg _ (checkTrap_lanes ha _ _ ha.active))⟩
  · have hstop : ∃ kinds : Nat → Bool, (∀ n ∈ [1, 2, 3, 4, 5, 6], kinds n = true ↔ n ∈ w.kinds) ∧ exec i s = .next (s.onceAccess g gr
        (gr.rk w.cap.toNat) w.off w.size w.need kinds w.kind w.counted w.cls w.write w.isAtom w.plain w.tag w.value) := by
      rcases hv with hv | hv
      · exact onceAccess_of_table ha hv
      · obtain ⟨kinds, hk, he, hd⟩ := heldAccess_of_table ha hv
        exact ⟨kinds, hk, he.trans (by rw [heldAccess_stops hk hd hp])⟩
    obtain ⟨kinds, hk, he⟩ := hstop
    obtain ⟨code, hcode, ht⟩ := onceAccess_traps ha.here hk hp
    exact ⟨code, he.trans (congrArg _ ht), hcode⟩

end Sys2Proof.Claims.Memory

/-! Words with an empty active set (R31): the statement leaves out a value that only the word's own check knows. -/
namespace Sys2Proof.Claims.Empty
open Sys2Proof.Machine
-- One proof at a time: the text is compiled as one file, whose memory parallel elaboration would exceed.
set_option Elab.async false

/-- A group in its station with no lane active, about to perform a word. -/
def nobodyActs : Machine.State :=
  { State.reset with groups := [(0, placedGroup 0)], cur := ⟨.group 0, 0, 0, [], none, none, 0⟩ }

theorem nobodyActs_issues : Issues nobodyActs 0 (placedGroup 0) := ⟨rfl, rfl⟩

/-- A `wrsr` of a number that no word can write is stopped by its own check, which `Admitted` does not name. -/
theorem wrsr_unwritable : exec (.wrsr false 0 0) nobodyActs = .next (nobodyActs.undef 0 3) := by
  show execWrsr 0 0 nobodyActs = _
  rw [execWrsr, actWord_undef (r := 3) nobodyActs_issues.who nobodyActs_issues.here (.inl rfl) rfl, countRefused_empty rfl]

theorem wrsr_admitted : Admitted nobodyActs (placedGroup 0) (.wrsr false 0 0) where
  hix := .inl rfl
  values := trivial
  runs r hr := absurd hr List.not_mem_nil
  tiles t ht := absurd ht List.not_mem_nil
  accs a h := absurd h List.not_mem_nil
  slot S m h := by cases h
  mode S m h := by cases h

/-- The group that trapped has stopped. -/
theorem wrsr_stops : ((nobodyActs.undef 0 3).group? 0).map (·.stop) = some .trapping := rfl

end Sys2Proof.Claims.Empty

open Sys2Proof.Claims.Empty in
/-- Refutes O11: a `wrsr` with an encoding whose number is not 0x22 traps UNDEF with reason 3 with an empty active set, though every
check that `Admitted` names passes. -/
theorem not_emptyActiveSetChangesNothing : ¬ Obligations.EmptyActiveSetChangesNothing := by
  unfold Obligations.EmptyActiveSetChangesNothing
  intro h
  have hsame := (h (.wrsr false 0 0) nobodyActs 0 _ nobodyActs_issues rfl rfl rfl rfl).1 wrsr_admitted (by decide)
  rw [wrsr_unwritable] at hsame
  have hstop := wrsr_stops
  rw [Host.Outcome.next.inj hsame] at hstop
  exact absurd hstop (by decide)

/-! A word enters the memory path (R77, R201, R321): what stays as it was, and what waits there. -/
namespace Sys2Proof.Claims.Sends
open Sys2Proof.Machine
-- One proof at a time: the text is compiled as one file, whose memory parallel elaboration would exceed.
set_option Elab.async false

/-- Accesses are numbered from the next free number on; what was there under another number stays. -/
theorem addAccesses_get (as : List Access) : ∀ (s : Machine.State) (n : Nat),
    tget (s.addAccesses as).accs n = if n < s.nextId then tget s.accs n else (as[n - s.nextId]?).or (tget s.accs n) := by
  induction as with
  | nil => intro s n; simp [State.addAccesses]
  | cons a r ih =>
    intro s n
    rw [State.addAccesses, ih, tget_tset]
    rcases Nat.lt_trichotomy n s.nextId with h | h | h
    · simp [h, Nat.lt_succ_of_lt h, Nat.ne_of_lt h]
    · simp [h]
    · obtain ⟨k, rfl⟩ : ∃ k, n = s.nextId + 1 + k := ⟨n - (s.nextId + 1), by omega⟩
      have h1 : s.nextId + 1 + k - s.nextId = k + 1 := by omega
      have h2 : ¬ s.nextId + 1 + k < s.nextId + 1 := by omega
      simp only [h1, h2, Nat.not_lt.2 (Nat.le_of_lt h), if_false, show s.nextId + 1 + k ≠ s.nextId by omega, List.getElem?_cons_succ,
        show s.nextId + 1 + k - (s.nextId + 1) = k by omega]

/-- Added accesses change the table of accesses and the next number alone. -/
theorem addAccesses_rest (as : List Access) : ∀ s : Machine.State,
    s.addAccesses as = { s with accs := (s.addAccesses as).accs, nextId := (s.addAccesses as).nextId } := by
  induction as with
  | nil => intro s; rfl
  | cons a r ih => intro s; rw [State.addAccesses, ih]

/-- Counting a word for the profile changes a ring of the trace alone. -/
theorem sampleTick_rest (s : Machine.State) (gr : Machine.Group) :
    (s.sampleTick gr).1 = { s with rings := (s.sampleTick gr).1.rings } := by
  unfold State.sampleTick
  split
  · dsimp only
    split
    · rfl
    · split <;> rfl
  · rfl

/-- A sampled word's packet waits with its group; nothing else changes. -/
theorem sampleHold_rest (s : Machine.State) (g n : Nat) : s.sampleHold g n = { s with groups := (s.sampleHold g n).groups } := rfl

/-- An access that does not go to its port is an atomic's that returns a value, of a DETERM crew that is not head. -/
theorem firstStage_cases (s : Machine.State) (kind : OpKind) (a : Access) :
    s.firstStage kind a = .toPort ∨ (s.firstStage kind a = .forHead ∧ (∃ size o vd, kind = .atom size o vd true) ∧
      ∃ c l, s.serialLaunch a.crew = some (c, l) ∧ c.idx ≠ l.head) := by
  unfold State.firstStage
  split
  · next size o vd c l hl =>
    by_cases h : c.idx = l.head
    · exact .inl (if_pos (by simpa using h))
    · rw [if_neg (by simpa using h)]
      have late : (∃ size' o' vd', OpKind.atom size o vd true = .atom size' o' vd' true) ∧
          ∃ c' l', s.serialLaunch a.crew = some (c', l') ∧ c'.idx ≠ l'.head := ⟨⟨size, o, vd, rfl⟩, c, l, hl, h⟩
      split
      · split
        · exact .inl rfl
        · exact .inr ⟨rfl, late⟩
      · exact .inr ⟨rfl, late⟩
      all_goals exact .inl rfl
  · exact .inl rfl

/-- The state once the word has been counted for the profile: a sampled word has its packet. -/
def sampled (s : Machine.State) (g : Nat) (gr : Machine.Group) : Machine.State :=
  if (s.sampleTick gr).2 then (s.sampleTick gr).1.sampleHold g s.nextId else (s.sampleTick gr).1

/-- Counting a word leaves a ring of the trace and the packets of its group. -/
theorem sampled_rest (s : Machine.State) (g : Nat) (gr : Machine.Group) :
    ∃ rings groups, sampled s g gr = { s with rings := rings, groups := groups } ∧
      ∀ h x, tget s.groups h = some x → ∃ y, tget groups h = some y ∧ y = { x with tHeld := y.tHeld } := by
  unfold sampled
  rw [sampleTick_rest]
  split
  · refine ⟨_, _, rfl, fun h x hx => ?_⟩
    rw [tget_tmod]
    split
    · next he => subst he; exact ⟨_, congrArg (Option.map _) hx, rfl⟩
    · exact ⟨x, hx, rfl⟩
  · exact ⟨_, _, rfl, fun h x hx => ⟨x, hx, rfl⟩⟩

/-- The entry in flight of a word. -/
def inFlight (s : Machine.State) (g : Nat) (gr : Machine.Group) (kind : OpKind) (counted : Bool) (cls n : Nat) : Op :=
  { group := g, gid := gr.gid, kind := kind, counted := counted, cls := cls, word := s.cur.word, prov := s.cur.prov,
    hix := s.cur.hix, guard := s.cur.guard, rwc := s.cur.rwc, act := s.cur.act, left := n, fails := [], buf := [], watch := false,
    sample := (s.sampleTick gr).2, sectors := n, replays := 0, last := 0 }

/-- The access of one sector, at its first stage. -/
def staged (s : Machine.State) (n g : Nat) (gr : Machine.Group) (kind : OpKind) (x : Shape0) (y : Nat × List Piece) : Access :=
  { mkAccess s n g gr x y.1 y.2 with stage := s.firstStage kind (mkAccess s n g gr x y.1 y.2) }

theorem send_eq (s : Machine.State) (g : Nat) (gr : Machine.Group) (kind : OpKind) (counted : Bool) (cls : Nat) (x : Shape0)
    (ps : List Piece) {s1 : Machine.State} (h1 : sampled s g gr = s1) (hc : s1.cur = s.cur)
    {sectors : List (Nat × List Piece)} (hs : bySector (s.sectorShift gr.ctx x.cap.handle) ps = sectors) :
    s.send g gr kind counted cls x ps =
      State.addAccesses { s1 with ops := tset s1.ops s.nextId (inFlight s g gr kind counted cls sectors.length), nextId := s.nextId + 1 }
        (sectors.map (staged s1 s.nextId g gr kind x)) := by
  subst hs
  unfold inFlight
  rw [← hc]
  subst h1
  rfl

end Sys2Proof.Claims.Sends

open Sys2Proof.Machine Sys2Proof.Claims Sys2Proof.Claims.Sends in
/-- Settles O20: a word leaves its entry in flight and the accesses of its sectors, and of the rest a ring of the trace and its
group's packets. -/
theorem sentWordWaitsForItsAccesses : Obligations.SentWordWaitsForItsAccesses := by
  unfold Obligations.SentWordWaitsForItsAccesses
  intro s g gr kind counted cls x ps t sectors
  obtain ⟨rings, groups, h1, hgroups⟩ := sampled_rest s g gr
  have ht : t = _ := send_eq s g gr kind counted cls x ps h1 rfl (sectors := sectors) rfl
  have hget := fun n => congrArg (fun u : Sys2Proof.Machine.State => tget u.accs n) ht
  simp only [addAccesses_get] at hget
  rw [addAccesses_rest] at ht
  refine ⟨by rw [ht], by rw [ht], by rw [ht], by rw [ht], by rw [ht], by rw [ht], fun h y hy => ?_, ?_, fun j y hj => ?_, fun n hn => ?_⟩
  · rw [ht]; exact hgroups h y hy
  · rw [ht]
    exact ⟨inFlight s g gr kind counted cls sectors.length, tget_tset_same .., rfl, rfl, rfl, rfl, rfl, rfl, rfl⟩
  · refine ⟨staged { s with rings := rings, groups := groups } s.nextId g gr kind x y, (hget _).trans ?_, rfl, rfl, rfl, rfl, rfl,
      firstStage_cases _ kind _, rfl, rfl, rfl⟩
    rw [if_neg (by omega), show s.nextId + 1 + j - (s.nextId + 1) = j by omega, List.getElem?_map, hj]
    rfl
  · rw [hget]
    split
    · rfl
    · rw [List.getElem?_eq_none (by simp only [List.length_map]; omega), Option.none_or]

/-! Capability words without an access, fences, `sinv` and `pfch` (R96 to R98, R336, R339, R378, R385). -/
namespace Sys2Proof.Claims.Order
open Sys2Proof.Machine Sys2Proof.Claims.Memory Sys2Proof.Claims.Control
-- One proof at a time: the text is compiled as one file, whose memory parallel elaboration would exceed.
set_option Elab.async false

section
variable {s : Machine.State} {g t : Nat} {gr : Machine.Group} {th : Machine.Thread}

/-! ### Capability words (R336, R339) -/

/-- What a capability word's function answers, as its effect on the registers named. -/
def answerOf (d : BitVec 4) (sd : BitVec 5) : Except Nat (Option Cap × Option DWord) → Option CapEffect
  | .error code => some (.stops code)
  | .ok (some c, none) => some (.cap d c)
  | .ok (none, some v) => some (.scalar sd v)
  | .ok (none, none) | .ok (some _, some _) => none

/-- What an effect leaves of a group's word. -/
def groupLeft (s : Machine.State) (g : Nat) (gr : Machine.Group) (k : BitVec 4) : CapEffect → Machine.State
  | .stops code => (s.sampleRefused g gr).trapNow g code s.cur.act 0 (gr.rk k.toNat).handle (cutInt 40 (gr.rk k.toNat).low)
  | .cap d c => s.modGroup g fun x => x.wk d.toNat c
  | .scalar d v => s.modGroup g fun x => x.ws d.toNat v

/-- What an effect leaves of a thread's word. -/
def threadLeft (s : Machine.State) (t : Nat) (th : Machine.Thread) (k : BitVec 4) : CapEffect → Machine.State
  | .stops _ => s.l2fault t .cap (th.rk k.toNat).low
  | .cap d c => s.modThread t fun x => { x.wk d.toNat c with pc := x.pc + 4 }
  | .scalar d v => s.modThread t fun x => { x.wl d.toNat v with pc := x.pc + 4 }

variable {k d : BitVec 4} {sd : BitVec 5} {f : Cap → (BitVec 5 → DWord) → Except Nat (Option Cap × Option DWord)} {e : CapEffect}

theorem capWord_group (ha : Acts s g gr) (hx : s.cur.hix = none)
    (he : answerOf d sd (f (gr.rk k.toNat) fun r => gr.rs r.toNat) = some e) :
    capWord s k f d sd = .next (groupLeft s g gr k e) := by
  unfold capWord
  simp only [ha.who]
  rw [actWord_unchecked ha hx]
  cases hf : f (gr.rk k.toNat) fun r => gr.rs r.toNat with
  | error code =>
    rw [hf] at he
    cases he
    simp only [onceTrap_eq ha.here, groupLeft, Int.add_zero]
  | ok r =>
    rw [hf] at he
    obtain ⟨_ | c, _ | v⟩ := r <;> cases he <;> rfl

theorem capWord_thread (hr : Runs s t th) (he : answerOf d sd (f (th.rk k.toNat) fun r => th.rl r.toNat) = some e) :
    capWord s k f d sd = .next (threadLeft s t th k e) := by
  unfold capWord
  simp only [hr.who, hr.here]
  cases hf : f (th.rk k.toNat) fun r => th.rl r.toNat with
  | error code => rw [hf] at he; cases he; rfl
  | ok r =>
    rw [hf] at he
    obtain ⟨_ | c, _ | v⟩ := r <;> cases he <;> rfl

/-- A capability word of the table is one function on whichever registers hold its operands. -/
theorem capFunction_of_table {ks : BitVec 4 → Cap} {rs : BitVec 5 → DWord} {i : Instr} (h : capEffect ks rs i = some (k, e)) :
    ∃ f d sd, (∀ s, exec i s = capWord s k f d sd) ∧ answerOf d sd (f (ks k) rs) = some e := by
  cases i
  case kmov S d x =>
    cases h
    exact ⟨_, _, _, fun s => (rfl : _ = execKmov d k s), rfl⟩
  case kwin S d x a b =>
    cases h
    refine ⟨_, _, _, fun s => (rfl : _ = execKwin d k a b s), ?_⟩
    simp only [Cap.narrowed]
    split
    · rfl
    · cases (ks k).wellFormed <;> rfl
  case krights S d x a =>
    cases h
    refine ⟨_, _, _, fun s => (rfl : _ = execKrights d k a s), ?_⟩
    cases (ks k).wellFormed <;> simp [answerOf, fld]
  case kget S d x f =>
    cases h
    exact ⟨_, _, _, fun s => (rfl : _ = execKget d k f s), by cases f <;> rfl⟩
  case ktag S d x =>
    cases h
    exact ⟨_, _, _, fun s => (rfl : _ = execKtag d k s), rfl⟩
  all_goals cases h

/-! ### Fences (R96 to R98, R326) -/

/-- A group's fence that is over at once, and the state before it has the group. -/
theorem fenceOver_eq (hg : s.group? g = some gr) (drop ends : Bool) : s.fenceOver g drop ends =
    let s1 := if drop = true then s.dropLines (s.coreOf gr) gr.ctx else s
    if ends = true then s1.release g else s1 := by
  simp only [State.fenceOver, hg]

theorem fence_group (S : Bool) (p q : BitVec 6) (c : Scope) (ha : Acts s g gr) (hx : s.cur.hix = none) :
    exec (.fence S p q c) s = .next (
      let drop := q.getLsbD 0 && decide (2 ≤ scopeNum c)
      let ends := p.toNat &&& 3 != 0
      if p ≠ 0 ∧ q.toNat &&& 0x33 ≠ 0 then
        s.modGroup g fun x => { x with wait := .fence (s.preOps g p.toNat) (s.preCmds g p.toNat) drop ends, met := false }
      else (if p = 0 ∨ q = 0 then s
        else { s with softFences := s.softFences ++ [⟨g, s.preOps g p.toNat, s.preCmds g p.toNat, q.toNat⟩] }).fenceOver g drop ends) := by
  show execFence p q c s = _
  simp only [execFence, ha.who]
  exact actWord_unchecked ha hx

theorem fence_thread (S : Bool) (p q : BitVec 6) (c : Scope) (hr : Runs s t th) :
    exec (.fence S p q c) s =
      let drop := q.getLsbD 0 && decide (2 ≤ scopeNum c)
      let drains := p.getLsbD 1 && q.toNat &&& 3 != 0
      let s1 := if drains then s.drainPosted (threadCore t) th.ctx else s
      if drains && !s.drainable (threadCore t) th.ctx then .next s
      else .next ((if drop then s1.dropLines (threadCore t) th.ctx else s1).threadDone t id) := by
  show execFence p q c s = _
  simp only [execFence, hr.who, hr.here]

/-! ### `sinv` and `pfch` (R378, R385) -/

/-- A prefetched lane changes the read cache and the entries of pages alone. -/
theorem prefetchLane_rest (u : Machine.State) (core ctx : Nat) (level : PfLevel) (p : Option Place) :
    let v := prefetchLane u core ctx level p
    v.mem = u.mem ∧ v.tags = u.tags ∧ v.groups = u.groups ∧ v.threads = u.threads ∧ v.claims = u.claims := by
  unfold prefetchLane
  split
  · exact ⟨rfl, rfl, rfl, rfl, rfl⟩
  · dsimp only
    split
    · exact ⟨rfl, rfl, rfl, rfl, rfl⟩
    · split <;> exact ⟨rfl, rfl, rfl, rfl, rfl⟩
  · exact ⟨rfl, rfl, rfl, rfl, rfl⟩

theorem prefetchLanes_rest (core ctx : Nat) (level : PfLevel) (p : Nat → Option Place) (ls : List Nat) : ∀ u : Machine.State,
    let v := ls.foldl (fun s' i => prefetchLane s' core ctx level (p i)) u
    v.mem = u.mem ∧ v.tags = u.tags ∧ v.groups = u.groups ∧ v.threads = u.threads ∧ v.claims = u.claims := by
  induction ls with
  | nil => exact fun u => ⟨rfl, rfl, rfl, rfl, rfl⟩
  | cons l r ih =>
    intro u
    obtain ⟨hm, ht, hg, hth, hc⟩ := ih (prefetchLane u core ctx level (p l))
    obtain ⟨hm', ht', hg', hth', hc'⟩ := prefetchLane_rest u core ctx level (p l)
    exact ⟨hm.trans hm', ht.trans ht', hg.trans hg', hth.trans hth', hc.trans hc'⟩

theorem pfch_group (S : Bool) (k : BitVec 4) (v : BitVec 7) (l : PfLevel) (ha : Acts s g gr) (hx : s.cur.hix = none)
    (hd : Declared gr [v]) : exec (.pfch S k v l) s = .next (
      if (s.serialLaunch gr.crew).isSome then s
      else s.cur.act.foldl (fun s' i =>
        prefetchLane s' (s.coreOf gr) gr.ctx l (prefetchPlace s gr (gr.rk k.toNat) ((gr.lane i).rd v.toNat).toNat)) s) :=
  actWord_here (checks := fun gr => [v1 gr [v]]) ha hx (Across.firstFail_declared hd)

theorem capCheck_passes {c : Cap} {off n need : Nat} (hb : off + n ≤ c.len) (hr : c.rights &&& need = need)
    (hw : c.wellFormed = true) : capCheck c (off : Int) n need = none := by
  have hin : ¬ ((off : Int) < 0 ∨ (c.len : Int) < (off : Int) + n) := by omega
  simp [capCheck, hin, holds, hr, hw]

theorem sinv_waits (S : Bool) (k : BitVec 4) (a b : BitVec 5) (ha : Acts s g gr) (hx : s.cur.hix = none) (hrole : gr.role = .general)
    (hb : (gr.rs a.toNat).toNat + (gr.rs b.toNat).toNat ≤ (gr.rk k.toNat).len) (hr : (gr.rk k.toNat).rights &&& 1 = 1)
    (hw : (gr.rk k.toNat).wellFormed = true) (hk : (gr.rk k.toNat).kind = 6) :
    exec (.sinv S k a b) s = .next (s.modGroup g fun x => { x with
      wait := .sinv (s.preOps g 2) (s.preCmds g 8) (gr.rk k.toNat).handle ((gr.rk k.toNat).low + (gr.rs a.toNat).toNat)
        (gr.rs b.toNat).toNat, met := false }) := by
  show execSinv k a b s = _
  rw [execSinv, actWord_performs ha.who ha.here ha.active (.inl hx) rfl (by rw [hrole]; rfl)]
  simp only [syncOff, rR, capCheck_passes hb hr hw, hk, objOff, ← Int.natCast_add, Int.toNat_natCast]
  rfl

end
end Sys2Proof.Claims.Order

open Sys2Proof.Claims Sys2Proof.Claims.Order in
/-- Settles O21: each word is one function on its operands, whose answer is written or stops the word. -/
theorem capabilityWord : Obligations.CapabilityWord := by
  unfold Obligations.CapabilityWord
  refine ⟨fun i s g gr k e ha hx he => ?_, fun i s t th k e hr he => ?_⟩
  · obtain ⟨f, d, sd, hw, hf⟩ := capFunction_of_table he
    rw [hw, capWord_group ha hx hf]
    cases e <;> rfl
  · obtain ⟨f, d, sd, hw, hf⟩ := capFunction_of_table he
    rw [hw, capWord_thread hr hf]
    cases e <;> rfl

open Sys2Proof.Claims Sys2Proof.Claims.Order in
/-- Settles O22, by the classes that the fence names in a group, and by the admitted stores in a thread. -/
theorem fenceWord : Obligations.FenceWord := by
  unfold Obligations.FenceWord
  intro S p q c s drop
  have hdrop : (q.getLsbD 0 && decide (2 ≤ Sys2Proof.Machine.scopeNum c)) = drop := by rw [Memory.scopeNum_eq]
  constructor
  · intro g gr ha hx ends ops cmds past
    have hends : (p.toNat &&& 3 != 0) = ends := Bool.eq_iff_iff.2 (bne_iff_ne.trans decide_eq_true_iff.symm)
    rw [fence_group S p q c ha hx]
    simp only [hdrop, hends]
    refine ⟨fun hp hq => ?_, fun hp hq hn => ?_, fun h => ?_⟩
    · rw [if_pos ⟨hp, hq⟩]
    · rw [if_neg fun h => h.2 hn, if_neg fun h => h.elim hp hq]
      exact congrArg _ (fenceOver_eq (gr := gr) (by exact ha.here) drop ends)
    · rw [if_neg fun hh => h.elim hh.1 fun hq => hh.2 (by rw [hq]; rfl), if_pos h, fenceOver_eq ha.here]
  · intro t th hr drains s1
    rw [fence_thread S p q c hr]
    simp only [hdrop]
    refine ⟨fun hd hn => if_pos ?_, fun hd => if_neg ?_⟩
    · rw [Bool.and_eq_true, Bool.not_eq_true']
      exact ⟨hd, hn⟩
    · rw [Bool.and_eq_true, Bool.not_eq_true']
      exact fun h => absurd (hd h.1) (by rw [h.2]; decide)

open Sys2Proof.Claims Sys2Proof.Claims.Order in
/-- Settles O23: the checks of `sinv` pass, and a prefetch touches only the read cache and the entries of pages. -/
theorem invalidateAndPrefetchWords : Obligations.InvalidateAndPrefetchWords := by
  unfold Obligations.InvalidateAndPrefetchWords
  refine ⟨fun S k a b s g gr ha hx hrole hb hr hw hk => sinv_waits S k a b ha hx hrole hb hr hw hk,
    fun S k v l s g gr ha hx hd => ?_⟩
  rw [pfch_group S k v l ha hx hd]
  refine ⟨⟨_, rfl, ?_⟩, fun h => by rw [if_pos h]⟩
  split
  · exact ⟨rfl, rfl, rfl, rfl, rfl⟩
  · exact prefetchLanes_rest _ _ l (fun i => Sys2Proof.Machine.prefetchPlace s gr (gr.rk k.toNat) ((gr.lane i).rd v.toNat).toNat) _ s

/-! A thread's own accesses of memory (R90, R91, R268, R274, R337, R338). -/
namespace Sys2Proof.Claims.ThreadMem
open Sys2Proof.Machine Sys2Proof.Claims.Memory
-- One proof at a time: the text is compiled as one file, whose memory parallel elaboration would exceed.
set_option Elab.async false

section
variable {s : Machine.State} {t : Nat} {th : Machine.Thread}

/-- No refresh holds the bank of a byte in a range whose banks are free. -/
theorem heldBank_none {f n : Nat} (h : s.rangeBank f n = none) (hn : 0 < n) : s.heldBank f = none := by
  unfold State.rangeBank at h
  split at h
  next hr => simp [State.heldBank, List.isEmpty_iff.1 hr]
  next => exact List.findSome?_eq_none_iff.1 h f (List.mem_map.2 ⟨0, List.mem_range.2 hn, Nat.zero_add f⟩)

theorem watchReport_none {cls ctx handle off size queue : Nat} {write : Bool} (h : s.watchHits ctx handle off size write = []) :
    s.watchReport cls ctx handle off size queue write = s := by rw [State.watchReport, h]; rfl

/-- No store of the thread to the sector is admitted, so that none performs before the read. -/
theorem settleAll_alone {f : Posted → Bool} (h : ∀ x ∈ s.posted, f x.2 = false) : s.settleAll f = s := by
  have h1 : (s.posted.filter fun (_, p) => f p) = [] := List.filter_eq_nil_iff.2 fun x hx => by simp [h x hx]
  have h2 : (s.posted.filter fun (_, p) => !f p) = s.posted := List.filter_eq_self.2 fun x hx => by simp [h x hx]
  rw [State.settleAll, h1, h2]
  rfl

/-- The capability allows an access, and its port answers with a place that stands ready (R80, R91, R182, R440). -/
structure Stands (s : Machine.State) (t : Nat) (th : Machine.Thread) (c : Cap) (f : Nat) (e : Entry) (off : Int) (n need : Nat) : Prop where
  bound : ¬ BadBound c off n
  right : c.rights &&& need = need
  tag   : c.wellFormed = true
  entry : s.portEntry (portOf (threadCore t)) th.ctx c.handle c.kind need ((c.low : Int) + off).toNat n = (s, some e)
  place : judge s.mem (some e) c.kind need ((c.low : Int) + off).toNat n = .at_ f
  host  : s.hostFails f = false
  peer  : s.peerFails f = false
  table : s.tableBank (portOf (threadCore t)) th.ctx c.handle c.kind need ((c.low : Int) + off).toNat n = none
  bank  : s.rangeBank f n = none
  goes  : need = 1 → s.readWaits f = false
  watch : s.watchHits th.ctx c.handle ((c.low : Int) + off).toNat n (need &&& 2 ≠ 0) = []

/-- So does an aligned access (R219). -/
structure Ready (s : Machine.State) (t : Nat) (th : Machine.Thread) (c : Cap) (f : Nat) (e : Entry) (off : Int) (n need : Nat) : Prop
    extends Stands s t th c f e off n need where
  align : ¬ BadAlign c off n

variable {c : Cap} {f : Nat} {e : Entry} {off : Int} {n need : Nat} {write : Bool} {atFlat : Machine.State → Entry → Nat → Machine.State}
  {atWindow : Machine.State → Nat → Machine.State}

theorem capCheck_none (hb : ¬ BadBound c off n) (hr : c.rights &&& need = need) (hw : c.wellFormed = true) :
    capCheck c off n need = none := by
  have hin : ¬ (off < 0 ∨ (c.len : Int) < off + n) := hb
  rw [capCheck, if_neg hin, (holds_iff _ _).2 hr, hw]
  rfl

/-- An access that stands ready is performed at its place. -/
theorem threadAccess_ready (h : Stands s t th c f e off n need) (hw : write = decide (need &&& 2 ≠ 0)) (h1 : write = false → need = 1) :
    threadAccess s t th c off n need write atFlat atWindow = .next (atFlat s e f) := by
  have hgo : (!write && s.readWaits f) = false := by
    cases write
    · simpa using h.goes (h1 rfl)
    · rfl
  have hwatch : s.watchReport 2 th.ctx c.handle (objOff c off) n 0 write = s := watchReport_none (hw ▸ h.watch)
  rw [threadAccess, capCheck_none h.bound h.right h.tag]
  simp only [objOff, h.table, h.entry, h.place, h.host, h.peer, h.bank, hgo]
  exact congrArg (fun u => Host.Outcome.next (atFlat u e f)) hwatch

theorem threadScalar_ready (h : Ready s t th c f e off n need) (hw : write = decide (need &&& 2 ≠ 0)) (h1 : write = false → need = 1) :
    threadScalar s t th c off n need write atFlat atWindow = .next (atFlat s e f) := by
  have hm : ¬ misaligned c off n = true := fun hm => h.align ((misaligned_iff c off n).1 hm)
  rw [threadScalar, if_neg hm]
  exact threadAccess_ready h.toStands hw h1

/-! ### Reads and stores at a place -/

/-- A read with no earlier store to its sector: by the core's copy, which then serves it, or from the home (R90, R91). -/
theorem threadRead_alone (h : ∀ x ∈ s.postedOf (threadCore t) th.ctx, sectorOf x.2.flat ≠ sectorOf f) :
    s.threadRead t th e f n = (s.renewSector (threadCore t) th.ctx (sectorOf f) e.cacheable, readPiece s none f n) ∨
    ∃ l, s.cachedSector (threadCore t) th.ctx (sectorOf f) = some l ∧ s.threadRead t th e f n = (s, readPiece s (some l) f n) := by
  have hs : (s.settleAll fun p => p.isOf (threadCore t) th.ctx && sectorOf p.flat == sectorOf f) = s := by
    refine settleAll_alone fun x hx => ?_
    cases ho : x.2.isOf (threadCore t) th.ctx
    · rfl
    · simpa using h x (List.mem_filter.2 ⟨hx, ho⟩)
  unfold State.threadRead
  simp only [hs]
  split
  next l _ hl => exact .inr ⟨l, hl, rfl⟩
  next => exact .inl rfl

theorem threadStore_free (hb : s.heldBank f = none) (v : Nat) (tag : Option Bool) : s.threadStore t th c off f n v tag =
    { s with posted := tset s.posted s.nextId ⟨threadCore t, th.ctx, c.handle, f, n, v, tag, s.cur.word, th.pc,
        cutInt 32 ((c.low : Int) + off)⟩, nextId := s.nextId + 1 } := by
  simp only [State.threadStore, hb]

/-! ### The words -/

/-- The offset of `lds` and `sts` in a thread: no `hix` widens it. -/
def immOff (th : Machine.Thread) (a : BitVec 5) (i : BitVec 8) : Int := ((th.rl a.toNat).toNat : Int) + i.toInt

variable {d a : BitVec 5} {k d4 : BitVec 4} {i : BitVec 8}

/-- What a read leaves of `lds`: the register written, the PC advanced. -/
def loaded (u : Machine.State) (t : Nat) (d : BitVec 5) (v : Nat) : Machine.State :=
  u.modThread t fun x => { x.wl d.toNat (BitVec.ofNat 64 v) with pc := x.pc + 4 }

theorem lds_ready (hr : Runs s t th) (h : Ready s t th (th.rk k.toNat) f e (immOff th a i) n 1) :
    ldsWord s d k a i n = .next (loaded (s.threadRead t th e f n).1 t d (s.threadRead t th e f n).2.val.1) := by
  unfold ldsWord
  simp only [hr.who, hr.here, sval_toNat i (by decide)]
  exact threadScalar_ready h rfl fun _ => rfl

theorem sts_ready (hr : Runs s t th) (h : Ready s t th (th.rk k.toNat) f e (immOff th a i) n 2) :
    stsWord s d k a i n = .next ((s.threadStore t th (th.rk k.toNat) (immOff th a i) f n ((th.rl d.toNat).toNat % 2 ^ (8 * n)) none).modThread t
      fun x => { x with pc := x.pc + 4 }) := by
  unfold stsWord
  simp only [hr.who, hr.here, sval_toNat i (by decide)]
  exact threadScalar_ready h rfl nofun

/-- What a read leaves of `kld`. -/
def loadedCap (u : Machine.State) (t : Nat) (d : BitVec 4) (c : Cap) (v : Nat) (tag : Bool) : Machine.State :=
  u.modThread t fun x => { x.wk d.toNat ⟨BitVec.ofNat 128 v, holds c.rights 64 && tag⟩ with pc := x.pc + 4 }

theorem kld_ready (S : Bool) (hr : Runs s t th) (h : Ready s t th (th.rk k.toNat) f e ((th.rl a.toNat).toNat : Int) 16 1) :
    exec (.kld S d4 k a) s = .next (loadedCap (s.threadRead t th e f 16).1 t d4 (th.rk k.toNat) (s.threadRead t th e f 16).2.val.1
      (s.threadRead t th e f 16).2.val.2) := by
  show execKld d4 k a s = _
  unfold execKld
  simp only [hr.who, hr.here]
  exact threadScalar_ready h rfl fun _ => rfl

theorem kst_ready (S : Bool) (hr : Runs s t th) (h : Ready s t th (th.rk k.toNat) f e ((th.rl a.toNat).toNat : Int) 16 66) :
    exec (.kst S d4 k a) s = .next ((s.threadStore t th (th.rk k.toNat) ((th.rl a.toNat).toNat : Int) f 16 (th.rk d4.toNat).bits.toNat
      (some (th.rk d4.toNat).tag)).modThread t fun x => { x with pc := x.pc + 4 }) := by
  show execKst d4 k a s = _
  unfold execKst
  simp only [hr.who, hr.here]
  exact threadScalar_ready h rfl nofun

/-- The four loads, and the four stores, are one word at four sizes. -/
theorem lds_sizes (S : Bool) {o : Out} (h : ldsWord s d k a i n = o) :
    (n = 1 → exec (.ldsN8 S d k a i) s = o) ∧ (n = 2 → exec (.ldsN16 S d k a i) s = o) ∧
    (n = 4 → exec (.ldsN32 S d k a i) s = o) ∧ (n = 8 → exec (.ldsB64 S d k a i) s = o) :=
  ⟨by rintro rfl; exact h, by rintro rfl; exact h, by rintro rfl; exact h, by rintro rfl; exact h⟩

theorem sts_sizes (S : Bool) {o : Out} (h : 0 < n → stsWord s d k a i n = o) :
    (n = 1 → exec (.stsB8 S d k a i) s = o) ∧ (n = 2 → exec (.stsB16 S d k a i) s = o) ∧
    (n = 4 → exec (.stsB32 S d k a i) s = o) ∧ (n = 8 → exec (.stsB64 S d k a i) s = o) := by
  refine ⟨?_, ?_, ?_, ?_⟩ <;> rintro rfl <;> exact h (by decide)

end
end Sys2Proof.Claims.ThreadMem

open Sys2Proof.Claims Sys2Proof.Claims.ThreadMem in
/-- Settles O24: a ready access is performed at its place; a read is then served by the core's copy or by the home. -/
theorem threadMemoryWordPerforms : Obligations.ThreadMemoryWordPerforms := by
  unfold Obligations.ThreadMemoryWordPerforms
  intro s t th S d a d4 k i n f e hr c core sec ready off off0 loads loadsCap alone admits
  have hready : ∀ {o m need}, ready o m need → Ready s t th c f e o m need := fun ⟨h1, h2, h3, h4, h5, h6, h7, h8, h9, h10, h11, h12⟩ =>
    ⟨⟨h2, h3, h4, h5, h6, h7, h8, h9, h10, h11, h12⟩, h1⟩
  refine ⟨fun h => ?_, fun h => ?_, fun h => ?_, fun h => ?_⟩
  · have hl := lds_ready (d := d) hr (hready h)
    refine ⟨fun ha hn => ?_, fun l ha hl' => ?_, ⟨_, _, lds_sizes S hl⟩⟩
    · rcases threadRead_alone (n := n) (e := e) ha with hread | ⟨l, hc, -⟩
      · rw [hread] at hl; exact lds_sizes S hl
      · exact absurd (hc.symm.trans hn) nofun
    · rcases threadRead_alone (n := n) (e := e) ha with hread | ⟨l', hc, hread⟩
      · rw [hread] at hl; exact .inl (lds_sizes S hl)
      · rw [hread] at hl
        cases Option.some.inj (hc.symm.trans hl')
        exact .inr (lds_sizes S hl)
  · refine sts_sizes S fun hn => (sts_ready hr (hready h)).trans ?_
    rw [threadStore_free (heldBank_none (hready h).bank hn)]
    rfl
  · have hl := kld_ready (d4 := d4) S hr (hready h)
    refine ⟨fun ha hn => ?_, ⟨_, _, _, hl⟩⟩
    rcases threadRead_alone (n := 16) (e := e) ha with hread | ⟨l, hc, -⟩
    · rw [hread] at hl; exact hl
    · exact absurd (hc.symm.trans hn) nofun
  · refine (kst_ready S hr (hready h)).trans ?_
    rw [threadStore_free (heldBank_none (hready h).bank (by decide))]

/-! Matrix and copy words at issue (R340 to R365): the checks, and the queue that a word enters. -/
namespace Sys2Proof.Claims.Engines
open Sys2Proof.Machine Sys2Proof.Claims.Memory
-- One proof at a time: the text is compiled as one file, whose memory parallel elaboration would exceed.
set_option Elab.async false

section
variable {s : Machine.State} {g : Nat} {gr : Machine.Group} {ts : List (BitVec 4)} {as : List (BitVec 3)}
  {checks : Machine.Group → List (Bool × Nat)} {body : Nat → Machine.Group → Machine.State}

/-! ### Checks of matrix words (R20, R342) -/

theorem matrixRole_of (h : gr.role = .matrix ∨ gr.role = .general) : matrixRole gr.role = true := by
  rcases h with h | h <;> rw [h] <;> rfl

/-- The tile register is of the crew's partition. -/
theorem tOk_iff (t : BitVec 4) : tOk s gr t = true ↔ ∃ c, s.crew? gr.crew = some c ∧ t.toNat < c.tiles.length := by
  unfold tOk
  split
  next h => simp [h]
  next c h => simp [h]

theorem aOk_iff (a : BitVec 3) : aOk s gr a = true ↔ ∃ c, s.crew? gr.crew = some c ∧ a.toNat < c.accs.length := by
  unfold aOk
  split
  next h => simp [h]
  next c h => simp [h]

/-- A matrix word that its checks let pass acts once for its group. -/
theorem matrixWord_performs (hm : Matrix s g gr ts as) (hc : firstFail (checks gr) = none) :
    matrixWord s checks body = .next (body g gr) :=
  actWord_performs hm.who hm.here hm.active (.inl hm.alone) hc (matrixRole_of hm.role)

/-- A word on two tiles and an accumulator, all of the partition. -/
theorem pair_performs {a b : BitVec 4} {d : BitVec 3} (hm : Matrix s g gr [a, b] [d]) :
    matrixWord s (fun gr => [(!(tOk s gr a && tOk s gr b && aOk s gr d), 6)]) body = .next (body g gr) := by
  refine matrixWord_performs hm ?_
  simp [firstFail, (tOk_iff a).2 (hm.tile a (by simp)), (tOk_iff b).2 (hm.tile b (by simp)), (aOk_iff d).2 (hm.acc d (by simp))]

/-- A word of accumulator data whose registers are declared, by the accumulator's binding (R343). -/
theorem accWord_performs {d : BitVec 3} {rs : List (BitVec 7)} (hm : Matrix s g gr ts as) (hd : d ∈ as) (hr : Declared gr rs) :
    accWord s d rs body = .next (if s.boundTo gr d.toNat then body g gr else s.tshape g) := by
  refine matrixWord_performs hm ?_
  simp [firstFail, v1_passes hr, (aOk_iff d).2 (hm.acc d hd)]

theorem declared_nil : Declared gr [] := fun _ h => absurd h List.not_mem_nil

theorem tileMem_performs {t k : BitVec 4} {a b : BitVec 5} {p : Part} {st : Bool} (hm : Matrix s g gr ts as) (ht : t ∈ ts) :
    tileMem s t k a b p st = .next (
      let tc := s.tctlNow gr.crew t.toNat
      let c := gr.rk k.toNat
      let sa := (gr.rs a.toNat).toNat
      let sb := (gr.rs b.toNat).toNat
      let need := if st then rW else rR
      if tc == 0 || (p != .data && !tScm tc) then (s.sampleRefused g gr).tshape g
      else if sa % 16 ≠ 0 ∨ sb % 16 ≠ 0 ∨ c.low % 16 ≠ 0 then s.onceTrap g c 3 sa
      else match rowOutside c sa sb (partBytes tc p) 0 (tRows tc) with
        | some off => s.onceTrap g c 8 off
        | none =>
          if !holds c.rights need then s.onceTrap g c 9 sa
          else if !c.wellFormed then s.onceTrap g c 10 sa
          else if st then s.queueFlight g gr (.tst t.toNat p (c.low + sa) sb c) .store false 32 (tRows tc)
          else s.queueFlight g gr (.tld t.toNat p (c.low + sa) sb c) .tld true 16 (tRows tc)) :=
  matrixWord_performs (checks := fun gr => [(!tOk s gr t, 6)]) hm (by simp [firstFail, (tOk_iff t).2 (hm.tile t ht)])

/-- Every row lies in the window. -/
theorem rowOutside_none {c : Cap} {sa sb bytes : Nat} : ∀ (n i : Nat),
    (∀ j, i ≤ j → j < i + n → sa + j * sb + bytes ≤ c.len) → rowOutside c sa sb bytes i n = none
  | 0, i, _ => rfl
  | n + 1, i, h => by
    rw [rowOutside, if_neg (Nat.not_lt.2 (h i (Nat.le_refl i) (by omega)))]
    exact rowOutside_none n (i + 1) fun j h1 h2 => h j (by omega) (by omega)

theorem tile_queued {t k : BitVec 4} {a b : BitVec 5} {p : Part} {st : Bool} (hm : Matrix s g gr ts as) (ht : t ∈ ts)
    (hz : s.tctlNow gr.crew t.toNat ≠ 0) (hp : p = .data ∨ tScm (s.tctlNow gr.crew t.toNat) = true)
    (ha : (gr.rs a.toNat).toNat % 16 = 0) (hb : (gr.rs b.toNat).toNat % 16 = 0) (hl : (gr.rk k.toNat).low % 16 = 0)
    (hrows : ∀ i < tRows (s.tctlNow gr.crew t.toNat), (gr.rs a.toNat).toNat + i * (gr.rs b.toNat).toNat +
      partBytes (s.tctlNow gr.crew t.toNat) p ≤ (gr.rk k.toNat).len)
    (hw : (gr.rk k.toNat).wellFormed = true) (hr : holds (gr.rk k.toNat).rights (if st then rW else rR) = true) :
    tileMem s t k a b p st = .next (
      if st then s.queueFlight g gr (.tst t.toNat p ((gr.rk k.toNat).low + (gr.rs a.toNat).toNat) (gr.rs b.toNat).toNat (gr.rk k.toNat))
        .store false 32 (tRows (s.tctlNow gr.crew t.toNat))
      else s.queueFlight g gr (.tld t.toNat p ((gr.rk k.toNat).low + (gr.rs a.toNat).toNat) (gr.rs b.toNat).toNat (gr.rk k.toNat))
        .tld true 16 (tRows (s.tctlNow gr.crew t.toNat))) := by
  have hshape : (s.tctlNow gr.crew t.toNat == 0 || (p != .data && !tScm (s.tctlNow gr.crew t.toNat))) = false := by
    rw [beq_eq_false_iff_ne.2 hz]
    rcases hp with hp | hp <;> simp [hp]
  have hin := rowOutside_none (c := gr.rk k.toNat) (sa := (gr.rs a.toNat).toNat) (sb := (gr.rs b.toNat).toNat)
    (bytes := partBytes (s.tctlNow gr.crew t.toNat) p) (tRows (s.tctlNow gr.crew t.toNat)) 0 fun j _ hj => hrows j (by omega)
  rw [tileMem_performs hm ht]
  simp only [hshape, ha, hb, hl, hin, hr, hw, ne_eq, not_true_eq_false, or_self, Bool.not_true, Bool.false_eq_true, if_false]

/-- The lanes agree where their low five bits of FMODE are one value (R134, R144). -/
theorem agree_of (h : ∀ i ∈ s.cur.act, ∀ j ∈ s.cur.act, (gr.lane i).fmode &&& 31 = (gr.lane j).fmode &&& 31) :
    agree gr s.cur.act = true := by
  have low5 : ∀ x y : BitVec 16, x &&& 31 = y &&& 31 → fld x.toNat 4 0 = fld y.toNat 4 0 := fun x y hxy => by
    have hn := congrArg BitVec.toNat hxy
    rw [BitVec.toNat_and, BitVec.toNat_and, show BitVec.toNat (31 : BitVec 16) = 2 ^ 5 - 1 from rfl, Nat.and_two_pow_sub_one_eq_mod, Nat.and_two_pow_sub_one_eq_mod] at hn
    simpa [fld] using hn
  unfold agree
  split
  next => rfl
  next i r hact =>
    rw [hact] at h
    exact List.all_eq_true.2 fun j hj => beq_iff_eq.2 (low5 _ _ (h j (List.mem_cons_of_mem _ hj) i List.mem_cons_self))

end
end Sys2Proof.Claims.Engines

open Sys2Proof.Claims Sys2Proof.Claims.Engines in
/-- Settles O25: each word passes its checks and enters the engine's queue. -/
theorem matrixWordQueued : Obligations.MatrixWordQueued := by
  unfold Obligations.MatrixWordQueued
  refine ⟨fun S s g gr => ⟨fun t a hm hv => ?_, fun d a hm h32 hlen => ?_, fun d a b h hm ha hb hp hd hl => ?_,
      fun d a b o hm ha hb hfa hfb hd => ?_, fun d hm hd => ⟨?_, fun c => ?_, fun v c hv => ?_⟩⟩,
    fun S s g gr => ⟨fun d v c hm hd hv => ?_, fun t k a b p hm hz hp hsa hsb hl hrows hw => ⟨fun hr => ?_, fun hr => ?_⟩⟩⟩
  · have hbad : Sys2Proof.Machine.tctlBad (gr.rs a.toNat) = false := by
      rcases hv with hv | hv <;> simp [Sys2Proof.Machine.tctlBad, hv]
    exact matrixWord_performs (checks := fun gr => [(Sys2Proof.Machine.tctlBad (gr.rs a.toNat), 3), (!Sys2Proof.Machine.tOk s gr t, 6)]) hm
      (by simp [Sys2Proof.Machine.firstFail, hbad, (tOk_iff t).2 (hm.tile t (by simp))])
  · have hbad : Sys2Proof.Machine.bindBad gr (gr.rs a.toNat) = false := by
      simp [Sys2Proof.Machine.bindBad, h32, hlen]
    exact matrixWord_performs (checks := fun gr => [(Sys2Proof.Machine.bindBad gr (gr.rs a.toNat), 3), (!Sys2Proof.Machine.aOk s gr d, 6)]) hm
      (by simp [Sys2Proof.Machine.firstFail, hbad, (aOk_iff d).2 (hm.acc d (by simp))])
  · refine (pair_performs hm).trans (congrArg _ ?_)
    simp only [beq_eq_false_iff_ne.2 ha, beq_eq_false_iff_ne.2 hb, hp, hd, agree_of hl, Bool.or_self, Bool.not_true, Bool.false_eq_true,
      if_false]
    rfl
  · refine (pair_performs hm).trans (congrArg _ ?_)
    simp only [beq_eq_false_iff_ne.2 ha, beq_eq_false_iff_ne.2 hb, hfa, hfb, hd, bne_self_eq_false, Bool.or_self, Bool.not_true,
      Bool.false_eq_true, if_false]
    rfl
  · refine (accWord_performs hm (by simp) declared_nil).trans (congrArg _ ?_)
    rw [if_pos hd]
    rfl
  · refine (accWord_performs hm (by simp) declared_nil).trans (congrArg _ ?_)
    rw [if_pos hd]
    rfl
  · refine (accWord_performs hm (by simp) hv).trans (congrArg _ ?_)
    rw [if_pos hd]
    rfl
  · refine (accWord_performs hm (by simp) hv).trans (congrArg _ ?_)
    rw [if_pos hd]
  · exact tile_queued (st := false) hm (by simp) hz hp hsa hsb hl hrows hw ((Memory.holds_iff _ _).2 hr)
  · exact tile_queued (st := true) hm (by simp) hz hp hsa hsb hl hrows hw ((Memory.holds_iff _ _).2 hr)

open Sys2Proof.Claims Sys2Proof.Claims.Engines in
/-- Settles O26: the binding and the configuration are looked at before anything is queued. -/
theorem matrixShapeTraps : Obligations.MatrixShapeTraps := by
  unfold Obligations.MatrixShapeTraps
  intro S s g gr d a b hm hbad traps
  refine ⟨fun h => ?_, fun o => ?_, fun hd => ⟨?_, fun c => ?_, fun v c hv => ⟨?_, ?_⟩⟩, fun ha k x y p => ?_⟩
  · refine (pair_performs hm).trans (congrArg _ ?_)
    rcases hbad with h | h | h <;> simp [h] <;> rfl
  · refine (pair_performs hm).trans (congrArg _ ?_)
    rcases hbad with h | h | h <;> simp [h] <;> rfl
  · refine (accWord_performs hm (by simp) declared_nil).trans (congrArg _ ?_)
    rw [hd]
    rfl
  · refine (accWord_performs hm (by simp) declared_nil).trans (congrArg _ ?_)
    rw [hd]
    rfl
  · refine (accWord_performs hm (by simp) hv).trans (congrArg _ ?_)
    rw [hd]
    rfl
  · refine (accWord_performs hm (by simp) hv).trans (congrArg _ ?_)
    rw [hd]
    rfl
  · have hcur : (s.sampleRefused g gr).tshape g = (s.sampleRefused g gr).trapNow g 6 s.cur.act 0 0 0 := by
      simp only [Sys2Proof.Machine.State.tshape, Kept.sampleRefused_cur]
    have tile : ∀ st, Sys2Proof.Machine.tileMem s a k x y p st = .next ((s.sampleRefused g gr).trapNow g 6 s.cur.act 0 0 0) := fun st => by
      rw [tileMem_performs hm (by simp)]
      simp [ha, hcur]
    exact ⟨tile false, tile true⟩

/-! Copy words at issue (R354 to R365): the checks of the parameters, and the entry that a command has in its queue. -/
namespace Sys2Proof.Claims.Copies
open Sys2Proof.Machine
-- One proof at a time: the text is compiled as one file, whose memory parallel elaboration would exceed.
set_option Elab.async false

section
variable {s : Machine.State} {g : Nat} {gr : Machine.Group} {fn n : Nat} {b : BitVec 5} {l : Lay} {r : Rop}

theorem copyRole_of (h : gr.role = .copy ∨ gr.role = .general) : copyRole gr.role = true := by
  rcases h with h | h <;> rw [h] <;> rfl

/-- A copy word of a group that may issue it, by its checks alone. -/
theorem copyWord_performs (ha : Acts s g gr) (hx : s.cur.hix = none) (hr : gr.role = .copy ∨ gr.role = .general) :
    copyWord s fn n b l r = .next (
      let c := mkCopy s g gr fn n b l r
      if c.reserved then s.trapNow g 13 s.cur.act (dw (c.queue * 256 + 5)) 0 0
      else match c.extentFault (listCap gr c) with
        | some cause => s.trapNow g 13 s.cur.act (dw (c.queue * 256 + cause)) 0 0
        | none =>
          if fn = 2 ∨ fn = 3 then
            let id := s.nextId
            let c1 := { c with listing := true, list := listCap gr c, pre := s.fencePre g 4, place := freePlace (s.queuePlaces c.core c.queue) 0 64 }
            ({ s with cmds := tset s.cmds id c1, nextId := id + 1 }).modGroup g fun x => { x with wait := .answer id, met := false }
          else match s.lateFault c with
            | some (code, detail) => s.trapNow g code s.cur.act detail 0 0
            | none => s.accept c) :=
  actWord_performs (checks := fun _ => []) ha.who ha.here ha.active (.inl hx) rfl (copyRole_of hr)

/-- Reserved parameters trap COPY with cause 5 ahead of the other checks (R355). -/
theorem copyWord_reserved (ha : Acts s g gr) (hx : s.cur.hix = none) (hr : gr.role = .copy ∨ gr.role = .general)
    (h : (mkCopy s g gr fn n b l r).reserved = true) : copyWord s fn n b l r =
      .next (s.trapNow g 13 s.cur.act (BitVec.ofNat 64 ((mkCopy s g gr fn n b l r).queue * 256 + 5)) 0 0) := by
  rw [copyWord_performs ha hx hr]
  exact congrArg _ (if_pos h)

/-- A command that needs no index list is accepted once its checks pass. -/
theorem copyWord_accepts (ha : Acts s g gr) (hx : s.cur.hix = none) (hr : gr.role = .copy ∨ gr.role = .general)
    (hfn : ¬ (fn = 2 ∨ fn = 3)) (h5 : (mkCopy s g gr fn n b l r).reserved = false)
    (he : (mkCopy s g gr fn n b l r).extentFault (listCap gr (mkCopy s g gr fn n b l r)) = none)
    (hl : s.lateFault (mkCopy s g gr fn n b l r) = none) : copyWord s fn n b l r = .next (s.accept (mkCopy s g gr fn n b l r)) := by
  rw [copyWord_performs ha hx hr]
  simp only [h5, he, hl, hfn, Bool.false_eq_true, if_false]

/-- The entry of a gather or scatter whose index list is still to be read. -/
def listing (s : Machine.State) (g : Nat) (gr : Machine.Group) (c : Copy) : Copy :=
  { c with listing := true, list := listCap gr c, pre := s.fencePre g 4, place := freePlace (s.queuePlaces c.core c.queue) 0 64 }

theorem copyWord_lists (ha : Acts s g gr) (hx : s.cur.hix = none) (hr : gr.role = .copy ∨ gr.role = .general)
    (hfn : fn = 2 ∨ fn = 3) (h5 : (mkCopy s g gr fn n b l r).reserved = false)
    (he : (mkCopy s g gr fn n b l r).extentFault (listCap gr (mkCopy s g gr fn n b l r)) = none) :
    copyWord s fn n b l r = .next (({ s with cmds := tset s.cmds s.nextId (listing s g gr (mkCopy s g gr fn n b l r)), nextId := s.nextId + 1 } :
      Machine.State).modGroup g fun x => { x with wait := .answer s.nextId, met := false }) := by
  rw [copyWord_performs ha hx hr]
  simp only [h5, he, hfn, Bool.false_eq_true, if_false, if_true]
  rfl

/-- What acceptance leaves: the command under the next number, memory as it was (R103, R356). -/
theorem accept_entry (s : Machine.State) (c : Copy) : (s.accept c).mem = s.mem ∧
    ∃ x, tget (s.accept c).cmds s.nextId = some x ∧ x.params = c.params ∧ x.fn = c.fn ∧ x.done = c.done ∧ x.total = c.count ∧
      x.queue = c.queue ∧ x.after = c.after :=
  ⟨rfl, _, tget_tset_same .., rfl, rfl, rfl, rfl, rfl, rfl⟩

/-- The entries that a `qfence` waits for (R104, R365). -/
def fencedBy (s : Machine.State) (gr : Machine.Group) (m : BitVec 8) : List Nat :=
  (s.cmds.filter fun (_, x) => x.core == s.coreOf gr && x.ctx == gr.ctx && !x.system && !x.listing
    && decide (x.queue < 8) && m.getLsbD x.queue).map (·.1)

theorem mem_fencedBy {m : BitVec 8} {k : Nat} : k ∈ fencedBy s gr m ↔ ∃ c, (k, c) ∈ s.cmds ∧ c.core = s.coreOf gr ∧ c.ctx = gr.ctx ∧
    c.system = false ∧ c.listing = false ∧ c.queue < 8 ∧ m.getLsbD c.queue = true := by
  simp only [fencedBy, List.mem_map, List.mem_filter, Bool.and_eq_true, beq_iff_eq, Bool.not_eq_true', decide_eq_true_eq, and_assoc]
  constructor
  · rintro ⟨⟨_, c⟩, hc, hcore, hctx, hs, hl, hq, hm, rfl⟩
    exact ⟨c, hc, hcore, hctx, hs, hl, hq, hm⟩
  · rintro ⟨c, hc, hcore, hctx, hs, hl, hq, hm⟩
    exact ⟨(k, c), hc, hcore, hctx, hs, hl, hq, hm, rfl⟩

theorem qfence_accepts (S : Bool) (q : BitVec 3) (m : BitVec 8) (ha : Acts s g gr) (hx : s.cur.hix = none)
    (hr : gr.role = .copy ∨ gr.role = .general) : exec (.qfence S q m) s =
      .next (s.accept { mkCopy s g gr 5 0 0 .none .addS32 with queue := q.toNat, after := fencedBy s gr m }) :=
  actWord_performs (checks := fun _ => []) ha.who ha.here ha.active (.inl hx) rfl (copyRole_of hr)

end
end Sys2Proof.Claims.Copies

open Sys2Proof.Claims Sys2Proof.Claims.Copies in
/-- Settles O27: the five copy words are one word with a function code; its checks are taken in their order. -/
theorem copyWordAccepted : Obligations.CopyWordAccepted := by
  unfold Obligations.CopyWordAccepted
  refine ⟨fun S s g gr b ha hx hr => ?_, fun S s g gr b ha hx hr => ?_⟩
  · intro plain listed
    have hplain : ∀ i fn n l r, Sys2Proof.Machine.exec i s = Sys2Proof.Machine.copyWord s fn n b l r → ¬ (fn = 2 ∨ fn = 3) →
        plain i (Sys2Proof.Machine.mkCopy s g gr fn n b l r) := fun i fn n l r hi hfn h5 he hl => by
      obtain ⟨hmem, x, hx', hp, hf, hd, ht, hq, -⟩ := accept_entry s (Sys2Proof.Machine.mkCopy s g gr fn n b l r)
      exact ⟨hi.trans (copyWord_accepts ha hx hr hfn h5 he hl), hmem, x, hx', hp, hf, hd, ht, hq⟩
    have hlisted : ∀ i fn n l r, Sys2Proof.Machine.exec i s = Sys2Proof.Machine.copyWord s fn n b l r → (fn = 2 ∨ fn = 3) →
        listed i (Sys2Proof.Machine.mkCopy s g gr fn n b l r) := fun i fn n l r hi hfn h5 he =>
      ⟨_, hi.trans (copyWord_lists ha hx hr hfn h5 he), rfl, ⟨_, Sys2Proof.Machine.tget_tset_same .., rfl, rfl, rfl⟩,
        (Sys2Proof.Machine.tget_tmod_same ..).trans (congrArg (Option.map _) ha.here)⟩
    refine ⟨hplain _ _ _ _ _ rfl (by decide), fun l => hplain _ _ _ _ _ rfl (by decide), fun r => hplain _ _ _ _ _ rfl (by decide),
      hlisted _ _ _ _ _ rfl (by decide), hlisted _ _ _ _ _ rfl (by decide), fun q m => ?_⟩
    obtain ⟨hmem, x, hx', -, hf, -, -, hq, hafter⟩ :=
      accept_entry s { Sys2Proof.Machine.mkCopy s g gr 5 0 0 .none .addS32 with queue := q.toNat, after := fencedBy s gr m }
    exact ⟨_, x, qfence_accepts S q m ha hx hr, hmem, hx', hf, hq, fun n => hafter ▸ mem_fencedBy⟩
  · intro traps
    have htraps : ∀ i fn n l r, Sys2Proof.Machine.exec i s = Sys2Proof.Machine.copyWord s fn n b l r →
        traps i (Sys2Proof.Machine.mkCopy s g gr fn n b l r) := fun i fn n l r hi h => hi.trans (copyWord_reserved ha hx hr h)
    exact ⟨htraps _ _ _ _ _ rfl, fun l => htraps _ _ _ _ _ rfl, htraps _ _ _ _ _ rfl, htraps _ _ _ _ _ rfl,
      fun r => htraps _ _ _ _ _ rfl⟩

/-! `launch` (R66, R291), and the steps of a thread (R82, R83, R212, R219, R226, R284). -/
namespace Sys2Proof.Claims.Moves
open Sys2Proof.Machine Sys2Proof.Claims.ThreadMem Sys2Proof.Claims.Lamps
-- One proof at a time: the text is compiled as one file, whose memory parallel elaboration would exceed.
set_option Elab.async false

section
variable {s : Machine.State} {t n : Nat} {th : Machine.Thread}

/-! ### Admitted stores that perform (R95) -/

/-- The threads are as they were, and every port leads where it did. -/
def SameThreads (s u : Machine.State) : Prop := u.threads = s.threads ∧ ∀ f, u.peerDown f = s.peerDown f

theorem sameThreads_logOut (s : Machine.State) (ctx a k : Nat) : SameThreads s (s.logOut ctx a k) := by
  unfold State.logOut
  split
  · exact ⟨rfl, fun _ => rfl⟩
  · dsimp only
    split
    · exact ⟨rfl, fun _ => rfl⟩
    · split <;> exact ⟨rfl, fun _ => rfl⟩

theorem SameThreads.trans {a b c : Machine.State} (h : SameThreads a b) (h' : SameThreads b c) : SameThreads a c :=
  ⟨h'.1.trans h.1, fun f => (h'.2 f).trans (h.2 f)⟩

theorem sameThreads_foldl {α : Type} (step : Machine.State → α → Machine.State) (xs : List α) (s : Machine.State)
    (h : ∀ u, SameThreads s u → ∀ x ∈ xs, SameThreads u (step u x)) : SameThreads s (xs.foldl step s) := by
  induction xs generalizing s with
  | nil => exact ⟨rfl, fun _ => rfl⟩
  | cons x r ih =>
    have h1 := h s ⟨rfl, fun _ => rfl⟩ x List.mem_cons_self
    exact h1.trans (ih (step s x) fun u hu y hy => h u (h1.trans hu) y (List.mem_cons_of_mem _ hy))

theorem sameThreads_dropRuns (s : Machine.State) (core : Nat) (ws : List (Nat × List Byte)) : SameThreads s (s.dropRuns core ws) :=
  sameThreads_foldl _ ws s fun _ _ _ _ => ⟨rfl, fun _ => rfl⟩

theorem sameThreads_runsWrite (s : Machine.State) (ctx core : Nat) (ws : List (Nat × List Byte)) :
    SameThreads s (s.runsWrite ctx core ws) :=
  (sameThreads_dropRuns s core ws).trans <| SameThreads.trans (b := (s.dropRuns core ws).memPuts ws) ⟨rfl, fun _ => rfl⟩ <|
    sameThreads_foldl _ ws _ fun u _ x _ => sameThreads_logOut u ctx x.1 x.2.length

theorem sameThreads_settlePosted (p : Posted) (h : s.peerDown p.flat = false) : SameThreads s (s.settlePosted p) := by
  unfold State.settlePosted
  rw [h]
  dsimp only
  have hw := sameThreads_runsWrite s p.ctx p.core [(p.flat, leBytes p.value p.size)]
  split
  · contradiction
  · split
    · exact hw
    · exact hw

/-- The admitted stores of a thread perform and leave the threads as they were, where their ports lead to their peers. -/
theorem sameThreads_drainPosted {core ctx : Nat} (h : ∀ x ∈ s.postedOf core ctx, s.peerDown x.2.flat = false) :
    SameThreads s (s.drainPosted core ctx) :=
  SameThreads.trans (b := { s with posted := s.posted.filter fun (_, p) => !p.isOf core ctx }) ⟨rfl, fun _ => rfl⟩ <|
    sameThreads_foldl _ _ _ fun _ hu x hx => sameThreads_settlePosted x.2 ((hu.2 _).trans (h x hx))

/-! ### launch (R66, R291) -/

variable {d a : BitVec 5} {k : BitVec 4} {rec_ : List DWord}

theorem acceptRecord_room (ht : s.thread? t = some th) (hs : th.stopped = false) (hl : th.dlq.length < 16) :
    s.acceptRecord t d rec_ = { (s.modThread t (fun x =>
      { x.wl d.toNat 0 with dlq := x.dlq ++ [⟨s.nextLaunch, s.clock, rec_⟩], pc := x.pc + 4 })).accepted ⟨th.ctx, t + 1, rec_⟩ with
        nextLaunch := s.nextLaunch + 1 } := by
  simp only [State.acceptRecord, ht, hs, hl, Bool.false_eq_true, if_false, if_true]
  rfl

theorem acceptRecord_full (ht : s.thread? t = some th) (hs : th.stopped = false) (hl : 16 ≤ th.dlq.length) :
    s.acceptRecord t d rec_ = wrote s t d 1 := by
  simp only [State.acceptRecord, ht, hs, Nat.not_lt.2 hl, Bool.false_eq_true, if_false]
  rfl

/-- A record that stands ready, with none of the thread's stores under a refresh, is read and handed over. -/
theorem launch_ready (S : Bool) {f f' : Nat} {e : Entry} (hr : Runs s t th) (h64 : (th.rl a.toNat).toNat % 64 = 0)
    (hp : s.recordPage th.ctx (th.rk k.toNat) ((th.rk k.toNat).low + (th.rl a.toNat).toNat) = .at_ f')
    (h : Stands s t th (th.rk k.toNat) f e (th.rl a.toNat).toNat 128 1) (hd : s.drainable (threadCore t) th.ctx = true) :
    exec (.launch S d a k) s =
      let u := s.drainPosted (threadCore t) th.ctx
      .next (u.acceptRecord t d (u.recordWords th.ctx (th.rk k.toNat) ((th.rk k.toNat).low + (th.rl a.toNat).toNat))) := by
  show execLaunch d a k s = _
  rw [execLaunch, threadWord_runs hr]
  simp only [h64, rR, capCheck_none h.bound h.right h.tag, hp, hd, ne_eq, not_true_eq_false, if_false, Bool.not_true, Bool.false_eq_true]
  exact threadAccess_ready h rfl fun _ => rfl

/-! ### Steps of a thread (R82, R83, R219, R284) -/

theorem eventQueuePlaceFree_takes {e : QEvent} {r : List QEvent} (ht : s.thread? n = some th) (hp : th.placeDue = true)
    (hh : th.held = e :: r) : exec (.eventQueuePlaceFree n) s = .next (s.modThread n fun x => { x with queue := x.queue ++ [e], held := r }) := by
  show execEventQueuePlaceFree n s = _
  simp only [execEventQueuePlaceFree, ht, hp, hh]

theorem gwaitWake_takes {d : Nat} {l : Option Nat} {e : QEvent} {r : List QEvent} (ht : s.thread? n = some th) (hw : th.wakeDue = true)
    (hs : th.sleep = some (d, l)) (hq : nextEvent th.queue = some (e, r)) : exec (.gwaitWake n) s = .next (s.threadDone n fun x =>
      { x.wl d (dw (eventKind e.words)) with queue := r, taken := some e.words, sleep := none }) := by
  show execGwaitWake n s = _
  simp only [execGwaitWake, ht, hw, hs, hq]

theorem gwaitTimeout_answers {d : Nat} {l : Option Nat} (ht : s.thread? n = some th) (hw : th.timeoutDue s.clock = true)
    (hs : th.sleep = some (d, l)) : exec (.gwaitTimeout n) s = .next (s.threadDone n fun x => { x.wl d 0 with sleep := none }) := by
  show execGwaitTimeout n s = _
  simp only [execGwaitTimeout, ht, hw, hs]

variable {b : Blocked} {k : Nat}

/-- A blocked `emit` that does not enter its group has its answer. -/
theorem emitUnblock_answers (ht : s.thread? n = some th) (hu : s.unblockDue th = true) (hb : th.blocked = some b)
    (hk : s.unblocks b = some k) (h0 : k ≠ 0) : exec (.emitUnblock n) s = .next (s.threadDone n fun x => { x.wl b.ld (dw k) with blocked := none }) := by
  show execEmitUnblock n s = _
  obtain ⟨k, rfl⟩ := Nat.exists_eq_succ_of_ne_zero h0
  simp only [execEmitUnblock, ht, hu, hb, hk]

/-- One that does hands its word over first. -/
theorem emitUnblock_enters {g : Nat} {gr : Machine.Group} (ht : s.thread? n = some th) (hu : s.unblockDue th = true)
    (hb : th.blocked = some b) (hk : s.unblocks b = some 0) (hg : s.blockedTarget b = some (g, gr)) :
    exec (.emitUnblock n) s = .next ((s.enqueue n g b.word).threadDone n fun x => { x.wl b.ld (dw 0) with blocked := none }) := by
  show execEmitUnblock n s = _
  simp only [execEmitUnblock, ht, hu, hb, hk, hg]

theorem watchdogExpire_faults (ht : s.thread? n = some th) (hw : s.watchdogDue th = true) : exec (.watchdogExpire n) s =
    .next ({ s with cur := { s.cur with word := 0 } }.l2fault n .wdog 0) := by
  show execWatchdogExpire n s = _
  simp only [execWatchdogExpire, ht, hw, if_true]

end
end Sys2Proof.Claims.Moves

open Sys2Proof.Claims Sys2Proof.Claims.Moves in
/-- Settles O35: the record is read once the thread's stores have performed, which leave the thread as it was. -/
theorem launchWord : Obligations.LaunchWord := by
  unfold Obligations.LaunchWord
  intro S d a k s t th f hr c off o p h64 hlen hright hwf hpage htable hp hjudge hhost hpeer hbank hgoes hwatch hstopped hdrain hdown u rec_
  obtain ⟨f', hpage⟩ := hpage
  obtain ⟨e, he⟩ : ∃ e, p.2 = some e := by
    cases hp2 : p.2 with
    | none => rw [hp2] at hjudge; cases hjudge
    | some e => exact ⟨e, rfl⟩
  have hs : ThreadMem.Stands s t th c f e off 128 1 :=
    { bound := by unfold BadBound; omega
      right := hright
      tag := hwf
      entry := Prod.ext hp he
      place := he ▸ hjudge
      host := hhost
      peer := hpeer
      table := htable
      bank := hbank
      goes := fun _ => hgoes
      watch := hwatch }
  have hu : u.thread? t = some th := (congrArg (fun l => Sys2Proof.Machine.tget l t) (sameThreads_drainPosted hdown).1).trans hr.here
  have hl : Sys2Proof.Machine.exec (.launch S d a k) s = .next (u.acceptRecord t d rec_) := launch_ready S hr h64 hpage hs hdrain
  exact ⟨fun h => hl.trans (congrArg _ (acceptRecord_room hu hstopped h)), fun h => hl.trans (congrArg _ (acceptRecord_full hu hstopped h))⟩

open Sys2Proof.Claims Sys2Proof.Claims.Moves in
/-- Settles O46, step by step. -/
theorem threadSteps : Obligations.ThreadSteps := by
  unfold Obligations.ThreadSteps
  intro n s th ht
  exact ⟨fun e r hp hh => eventQueuePlaceFree_takes ht hp hh, fun d l e r hw hs hq => gwaitWake_takes ht hw hs hq,
    fun d l hw hs => gwaitTimeout_answers ht hw hs,
    fun b k hu hb hk => ⟨fun h0 => emitUnblock_answers ht hu hb hk h0, fun g gr h0 hg => h0 ▸ emitUnblock_enters ht hu hb (h0 ▸ hk) hg⟩,
    fun hw => watchdogExpire_faults ht hw⟩

/-! How the model steps: the move at the head of the agenda, the word that a group or a thread performs, the choice among the moves
that are due. -/
namespace Sys2Proof.Claims.Steps
open Sys2Proof.Machine
-- One proof at a time: the text is compiled as one file, whose memory parallel elaboration would exceed.
set_option Elab.async false

section
variable {s : Machine.State} {m : Move} {r : List Move}

/-! ### The head of the agenda -/

theorem step_head (hb : s.bootFail = 0) (ha : s.agenda = m :: r) : step s = after ({ s with agenda := r }.runMove m) := by
  rw [step, State.move, if_neg (not_not_intro hb), ha]

theorem runMove_waits (hf : s.flowHeld m = true) : s.runMove m = .next (s.holdMove m) := if_pos hf

theorem runMove_goes (hf : s.flowHeld m = false) : s.runMove m = taken s m (s.perform1 m) := by
  rw [State.runMove, if_neg (by rw [hf]; decide)]
  cases s.perform1 m <;> rfl

/-- A move of the device, which no link holds. -/
theorem step_inside (hb : s.bootFail = 0) (ha : s.agenda = m :: r) (hl : m.link = none) :
    step s = after (taken { s with agenda := r } m (State.perform1 { s with agenda := r } m)) := by
  rw [step_head hb ha, runMove_goes (by rw [State.flowHeld, hl]; rfl)]

theorem perform1_issue (s : Machine.State) (g : Nat) : s.perform1 (.issue g) = s.issue g := rfl
theorem perform1_fetch (s : Machine.State) (t : Nat) : s.perform1 (.fetch t) = s.fetch t := rfl

/-! ### A group issues (R73, R205, R208) -/

variable {g : Nat} {gr gr1 : Machine.Group} {q : QWord}

theorem issue_raises (hg : s.group? g = some gr) (hr : s.raiseDue gr = true) : s.issue g = .next (s.raiseNext g gr) := by
  simp only [State.issue, hg, hr, if_true]

theorem issue_performs (hg : s.group? g = some gr) (hr : s.raiseDue gr = false) (hn : gr.nextWord = some (q, gr1)) :
    s.issue g = (s.begin g gr q gr1).perform g gr q.word := by
  simp only [State.issue, hg, hr, hn, Bool.false_eq_true, if_false]

theorem perform_ok {w : Word} {i : Instr} (hd : decode w.toNat = .ok i) : s.perform g gr w = exec i s := by
  simp only [State.perform, hd]

theorem perform_error {w : Word} {k : Nat} (hd : decode w.toNat = .error k) :
    s.perform g gr w = .next ((s.countRefused g gr).undef g (s.undefReason gr w k)) := by
  simp only [State.perform, hd]

/-! ### A thread fetches (R268) -/

variable {t f : Nat} {th : Machine.Thread} {c : Context} {p : Machine.State × Option Entry}

theorem fetch_performs (hf : Fetches s t th c p f) : s.fetch t =
    (p.1.watchReport 2 th.ctx c.arena th.pc 4 0 false).performThread t (BitVec.ofNat 32 (mnat s.mem f 4)) := by
  have hlen : (decide (c.fetchLen < th.pc + 4) || c.isUnloaded th.pc) = false := by
    rw [hf.loaded, decide_eq_false (Nat.not_lt.2 hf.within)]
    rfl
  simp only [State.fetch, hf.here, hf.runs, hf.ctx, hlen, rX, hf.table, hf.entry, hf.place, hf.bank, hf.goes, Bool.not_true,
    Bool.false_eq_true, if_false]

theorem performThread_ok {w : Word} {i : Instr} (hd : decode w.toNat = .ok i) : s.performThread t w = exec i (s.beginThread t w) := by
  simp only [State.performThread, hd]

theorem performThread_error {w : Word} {k : Nat} (hd : decode w.toNat = .error k) :
    s.performThread t w = .next ((s.beginThread t w).l2fault t .undef 0) := by
  simp only [State.performThread, hd]

/-! ### An access is presented again (R216) -/

theorem presentAccess_parked {e k : Nat} {a : Access} (ha : tget s.accs k = some a) (hs : a.stage = .parked e) (ref : Nat) :
    s.presentAccess ref k =
      let u := s.represent ref (.access k)
      if u.isDue (execPortAccess k) = true then exec (.portAccess k) u
      else if u.isDue (execClaimCheck k) = true then exec (.claimCheck k) u
      else if u.isDue (execBarrierArrival k) = true then exec (.barrierArrival k) u else .next u := by
  have hb : s.fromBank k = false := by simp only [State.fromBank, ha, hs]
  rw [State.presentAccess, hb]
  simp only [State.takeFirst, List.find?_cons, List.find?_nil, Bool.false_eq_true, if_false]
  cases (s.represent ref (.access k)).isDue (execPortAccess k)
  · cases (s.represent ref (.access k)).isDue (execClaimCheck k)
    · cases (s.represent ref (.access k)).isDue (execBarrierArrival k) <;> rfl
    · rfl
  · rfl

/-! ### One of the moves that are due -/

theorem takeOne_mem {fs : List Act} (h : fs ≠ []) : ∃ f ∈ fs, s.takeOne fs = f s := by
  match fs, h with
  | [f], _ => exact ⟨f, List.mem_cons_self, rfl⟩
  | f :: f' :: r, _ =>
    have hlt : Config.choice s.tick % ((f' :: r).length + 1) < (f :: f' :: r).length := Nat.mod_lt _ (by simp)
    refine ⟨_, List.getElem_mem hlt, ?_⟩
    show (((f :: f' :: r)[Config.choice s.tick % ((f' :: r).length + 1)]?).getD f) s = _
    rw [List.getElem?_eq_getElem hlt]
    rfl

end

/-! ### A placed word is the next one (log entry 5) -/

/-- The object table and the page map of the placed context. -/
def placedTables : List Host.Cell :=
  mputs (mputs [] tableBase (leBytes (6 * 2 ^ 60 + 0x7F * 2 ^ 52 + 2 ^ 40 + 65535) 8 ++ leBytes 65536 8 ++ List.replicate 16 0))
    65536 (leBytes (mkPme 0 0 0) 8)

theorem placedTables_wf : memWf placedTables = true := memWf_mputs _ _ (memWf_mputs _ _ rfl)

theorem placedMem_eq (w : Nat) : placedMem State.reset.mem w = mputs placedTables 0 (leBytes w 4) := rfl

/-- Behind the word's four bytes, the placed memory is the tables. -/
theorem placedMem_tables (w : Nat) {a : Nat} (n : Nat) (ha : 4 ≤ a) : mnat (placedMem State.reset.mem w) a n = mnat placedTables a n := by
  rw [placedMem_eq]
  exact congrArg leNat (mgets_mputs_other _ 0 placedTables_wf n a (.inr (by rw [length_leBytes]; omega)))

theorem placedMem_word (w : Nat) (hw : w < 2 ^ 32) : mnat (placedMem State.reset.mem w) 0 4 = w := by
  rw [placedMem_eq, mnat_mputs 0 w 4 placedTables_wf]
  exact Nat.mod_eq_of_lt hw

/-- The entry of the arena of the placed context. -/
def placedEntry : Entry := ⟨6 * 2 ^ 60 + 0x7F * 2 ^ 52 + 2 ^ 40 + 65535, 65536, 0, 0⟩

theorem placed_entryAt (w : Nat) : entryAt (placedMem State.reset.mem w) placedContext 0 = some placedEntry := by
  simp only [entryAt, placedMem_tables w 8 (a := placedContext.table + 32 * 0) (by decide),
    placedMem_tables w 8 (a := placedContext.table + 32 * 0 + 8) (by decide),
    placedMem_tables w 8 (a := placedContext.table + 32 * 0 + 16) (by decide),
    placedMem_tables w 8 (a := placedContext.table + 32 * 0 + 24) (by decide)]
  decide +kernel

theorem placed_page (w : Nat) : mnat (placedMem State.reset.mem w) (placedEntry.pmeAt 0) 8 = mkPme 0 0 0 := by
  rw [placedMem_tables w 8 (by decide)]
  decide +kernel

theorem placed_portFails (w : Nat) : portFails (placedMem State.reset.mem w) (some placedEntry) 6 32 0 4 = [] := by
  have hf : entryFails (some placedEntry) 6 32 0 4 = [] := by decide
  simp only [portFails, hf, pageFails, placed_page]
  decide

theorem placed_judge (w : Nat) : judge (placedMem State.reset.mem w) (some placedEntry) 6 32 0 4 = .at_ 0 := by
  unfold judge
  rw [placed_portFails]
  show (if pmeRes (mnat (placedMem State.reset.mem w) (placedEntry.pmeAt 0) 8) = 0 then
    (if pmeFrame (mnat (placedMem State.reset.mem w) (placedEntry.pmeAt 0) 8) < fastFrames then
      Place.at_ (pmeFrame (mnat (placedMem State.reset.mem w) (placedEntry.pmeAt 0) 8) * 65536 + 0 % 65536) else _) else _) = _
  rw [placed_page]
  decide

/-- After reset the placed thread fetches the placed word. -/
theorem placed_fetches (w : Nat) : ∃ p, Fetches { State.reset.placed w with agenda := [] } 0 placedThread placedContext p 0 := by
  refine ⟨_, rfl, rfl, rfl, by decide, rfl, rfl, rfl, ?_, rfl, rfl⟩
  have he : (State.portEntry { State.reset.placed w with agenda := [] } (portOf (threadCore 0)) placedThread.ctx placedContext.arena 6 32
      placedThread.pc 4).2 = some placedEntry := by
    have hf : (match portFails (placedMem State.reset.mem w) (entryAt (placedMem State.reset.mem w) placedContext 0) 6 32 0 4,
        entryAt (placedMem State.reset.mem w) placedContext 0 with
      | [], some f => (State.keepCopy { State.reset.placed w with agenda := [] } 0 0 0 f, some f)
      | _, _ => ({ State.reset.placed w with agenda := [] }, entryAt (placedMem State.reset.mem w) placedContext 0)).2 = some placedEntry := by
      rw [placed_entryAt, placed_portFails]
    exact hf
  rw [he]
  exact placed_judge w

/-- A move is taken as it is where no report stands in the store. -/
theorem taken_of_empty {s : Machine.State} (h : s.reports = []) (m : Move) (o : Out) : taken s m o = o := by
  cases o with
  | next t =>
    have hw : s.mustWait t = false := decide_eq_false fun hw => by rw [h] at hw; exact absurd hw.1 (by decide)
    rw [taken, hw]
    rfl
  | fault f => rfl
  | refused r => rfl

theorem step_placed_group {w : Nat} {i : Instr} (hw : w < 2 ^ 32) (hf : forThread w = false) (hd : decode w = .ok i) :
    ∃ u, step (State.reset.placed w) = after (exec i u) ∧ u.cur.word.toNat = w ∧ u.cur.who = .group 0 := by
  have ha : (State.reset.placed w).agenda = .issue 0 :: [] := by rw [State.placed, hf]; rfl
  have hword : (BitVec.ofNat 32 w).toNat = w := Nat.mod_eq_of_lt hw
  obtain ⟨q, gr1, hn, hq⟩ : ∃ q gr1, (placedGroup w).nextWord = some (q, gr1) ∧ q.word = BitVec.ofNat 32 w := ⟨_, _, rfl, rfl⟩
  refine ⟨State.begin { State.reset.placed w with agenda := [] } 0 (placedGroup w) q gr1, ?_, ?_, rfl⟩
  · rw [step_inside rfl ha rfl, taken_of_empty rfl]
    rw [perform1_issue, issue_performs (gr := placedGroup w) rfl rfl hn, perform_ok (hq ▸ hword ▸ hd)]
  · exact (congrArg BitVec.toNat hq).trans hword

theorem step_placed_thread {w : Nat} {i : Instr} (hw : w < 2 ^ 32) (hf : forThread w = true) (hd : decode w = .ok i) :
    ∃ u, step (State.reset.placed w) = after (exec i u) ∧ u.cur.word.toNat = w ∧ u.cur.who = .thread 0 := by
  have ha : (State.reset.placed w).agenda = .fetch 0 :: [] := by rw [State.placed, hf]; rfl
  have hword : (BitVec.ofNat 32 w).toNat = w := Nat.mod_eq_of_lt hw
  obtain ⟨p, hp⟩ := placed_fetches w
  refine ⟨(p.1.watchReport 2 placedThread.ctx placedContext.arena placedThread.pc 4 0 false).beginThread 0 (BitVec.ofNat 32 w), ?_, hword, rfl⟩
  rw [step_inside rfl ha rfl, taken_of_empty rfl, perform1_fetch, fetch_performs hp]
  exact congrArg after ((congrArg (fun n => State.performThread _ 0 (BitVec.ofNat 32 n)) (placedMem_word w hw)).trans
    (performThread_ok (hword.symm ▸ hd)))

end Sys2Proof.Claims.Steps

open Sys2Proof.Claims Sys2Proof.Claims.Steps in
/-- Settles O55, by the kinds of move that stand at the head of the agenda. -/
theorem stepRunsTheDecodedWord : Obligations.StepRunsTheDecodedWord := by
  unfold Obligations.StepRunsTheDecodedWord
  intro s hb
  refine ⟨fun m r ha hf => ?_, fun g r gr ha hg => ⟨fun hr => ?_, fun q gr1 i hr hn hd => ?_⟩, fun t r th c p f i ha hf hd => ?_,
    fun i r ha hf => ?_, fun k a e r ha hk hs => ?_, fun ha hr => ?_, fun ha hr hdue => ?_, fun w i hw hd => ?_⟩
  · rw [step_head hb ha, runMove_waits hf]
  · rw [step_inside hb ha rfl]
    exact congrArg (fun o => Sys2Proof.Machine.after (taken _ _ o)) (issue_raises (s := { s with agenda := r }) hg hr)
  · rw [step_inside hb ha rfl]
    exact congrArg (fun o => Sys2Proof.Machine.after (taken _ _ o)) ((issue_performs (s := { s with agenda := r }) hg hr hn).trans (perform_ok hd))
  · rw [step_inside hb ha rfl]
    exact congrArg (fun o => Sys2Proof.Machine.after (taken _ _ o)) ((fetch_performs hf).trans (performThread_ok hd))
  · rw [step_head hb ha, runMove_goes hf]
    rfl
  · rw [step_inside hb ha rfl]
    exact congrArg (fun o => Sys2Proof.Machine.after (taken _ _ o)) (presentAccess_parked (s := { s with agenda := r }) hk hs e)
  · rw [Sys2Proof.Machine.step, Sys2Proof.Machine.State.move, if_neg (not_not_intro hb), ha, hr]
    rfl
  · obtain ⟨f, hf, h⟩ := takeOne_mem (s := s) hdue
    refine ⟨f, hf, ?_⟩
    rw [Sys2Proof.Machine.step, Sys2Proof.Machine.State.move, if_neg (not_not_intro hb), ha, hr]
    exact congrArg _ h
  · rw [show Sys2Proof.Machine.State.reset.withFetchWord 32 w = Sys2Proof.Machine.State.reset.placed w from
      congrArg Sys2Proof.Machine.State.reset.placed (Nat.mod_eq_of_lt hw)]
    cases hf : Sys2Proof.Machine.forThread w with
    | false =>
      obtain ⟨u, hu, hword, hwho⟩ := step_placed_group hw hf hd
      exact ⟨u, hu, hword, .inl hwho⟩
    | true =>
      obtain ⟨u, hu, hword, hwho⟩ := step_placed_thread hw hf hd
      exact ⟨u, hu, hword, .inr hwho⟩

/-! `vote` (R38, R40 to R44, R369): the points, the cover and the compose request. -/
namespace Sys2Proof.Claims.Votes
open Sys2Proof.Machine Sys2Proof.Claims.Control
-- One proof at a time: the text is compiled as one file, whose memory parallel elaboration would exceed.
set_option Elab.async false

theorem tset_tset {α : Type} (t : Tab α) (n : Nat) (x y : α) : tset (tset t n x) n y = tset t n y := by
  induction t with
  | nil => simp [tset]
  | cons c r ih =>
    obtain ⟨k, a⟩ := c
    rcases Nat.lt_trichotomy n k with h | h | h
    · simp [tset, h]
    · simp [tset, h]
    · simp [tset, Nat.not_lt.2 (Nat.le_of_lt h), Nat.ne_of_lt h, ih]

section
variable {s : Machine.State} {g : Nat} {gr : Machine.Group}

/-- Two changes of a group are one. -/
theorem modGroup_modGroup (hg : s.group? g = some gr) (f f' : Machine.Group → Machine.Group) :
    (s.modGroup g f).modGroup g f' = s.modGroup g fun x => f' (f x) := by
  have ht : tget s.groups g = some gr := hg
  have hs : tget (tset s.groups g (f gr)) g = some (f gr) := tget_tset_same ..
  simp only [State.modGroup, tmod, ht, hs, tset_tset]

theorem group_modGroup (hg : s.group? g = some gr) (f : Machine.Group → Machine.Group) : (s.modGroup g f).group? g = some (f gr) :=
  (tget_tmod_same ..).trans (congrArg (Option.map f) hg)

/-! ### The points (R38) -/

/-- The HOLD blocks of a group's kernel. -/
def holds (s : Machine.State) (gr : Machine.Group) : List Nat := ((s.kernelOfGroup gr).map (·.hold)).getD []

/-- The vote set without the HOLD blocks that wait (R38 step 2). -/
def votesFor (s : Machine.State) (gr : Machine.Group) : List Nat := dropHolds (holds s gr) gr.voteSet

/-- The group with the lanes outside a set waiting, in no pass. -/
def waiting (set : List Nat) (x : Machine.Group) : Machine.Group :=
  { x with pass := 0, cover := [], lanes := x.lanes.map fun l =>
      { l with mark := if l.live && !set.contains l.blk.toNat then waitMark else 0 } }

/-- The group with no word left. -/
def wordless (x : Machine.Group) : Machine.Group :=
  { x with code := [], isOpen := false, copy := none, ended := true, pc := 0, queue := [], pass := 0, cover := [] }

theorem points_retires (hg : s.group? g = some gr) (h : gr.voteSet = []) : s.points g = s.modGroup g wordless := by
  simp only [State.points, hg, h, List.isEmpty_nil, if_true]
  rfl

/-- A composition is offered for a set of the group's blocks (R40). -/
def offers (s : Machine.State) (gr : Machine.Group) : Bool :=
  ((s.launchOf gr).map (·.compose)).getD false && ((s.kernelOfGroup gr).map (·.compose.isSome)).getD false &&
    decide ((votesFor s gr).length ≤ 8)

theorem offers_iff : offers s gr = true ↔ ∃ l, s.launchOf gr = some l ∧ l.compose = true ∧
    (∃ k, s.kernelOfGroup gr = some k ∧ k.compose.isSome = true) ∧ (votesFor s gr).length ≤ 8 := by
  unfold offers
  rw [Bool.and_eq_true, Bool.and_eq_true, decide_eq_true_iff]
  cases s.launchOf gr <;> cases s.kernelOfGroup gr <;> simp [and_assoc]

/-- With a live lane the group goes to the station of its set, or to the absent-station response. -/
theorem points_votes (hg : s.group? g = some gr) (h : gr.voteSet ≠ []) : s.points g =
    let set := votesFor s gr
    let s1 := s.modGroup g (waiting set)
    match (s.tableOf gr).find? fun x => sortNat x.set == set with
    | some x => s1.enter g x
    | none => match offers s gr, s.threadOf (s.coreOf gr) gr.ctx with
      | true, some t => s1.requestCompose g t (s.codeOf gr).1 (s.codeOf gr).2 set
      | _, _ => s1.startCover g set := by
  have hempty : gr.voteSet.isEmpty = false := List.isEmpty_eq_false_iff.2 h
  simp only [State.points, hg, hempty, Bool.false_eq_true, if_false]
  unfold offers votesFor holds waiting
  cases s.kernelOfGroup gr <;> cases s.launchOf gr <;> rfl

theorem points_enters (hg : s.group? g = some gr) (h : gr.voteSet ≠ []) {x : Sta}
    (hx : ((s.tableOf gr).find? fun x => sortNat x.set == votesFor s gr) = some x) :
    s.points g = (s.modGroup g (waiting (votesFor s gr))).enter g x := by
  rw [points_votes hg h]
  simp only [hx]

theorem points_covers (hg : s.group? g = some gr) (h : gr.voteSet ≠ [])
    (hx : ((s.tableOf gr).find? fun x => sortNat x.set == votesFor s gr) = none)
    (ho : ¬ (offers s gr = true ∧ (s.threadOf (s.coreOf gr) gr.ctx).isSome)) :
    s.points g = (s.modGroup g (waiting (votesFor s gr))).startCover g (votesFor s gr) := by
  rw [points_votes hg h]
  simp only [hx]
  cases hoff : offers s gr with
  | false => rfl
  | true =>
    cases ht : s.threadOf (s.coreOf gr) gr.ctx with
    | none => rfl
    | some t => exact absurd ⟨hoff, by rw [ht]; rfl⟩ ho

theorem points_requests (hg : s.group? g = some gr) (h : gr.voteSet ≠ [])
    (hx : ((s.tableOf gr).find? fun x => sortNat x.set == votesFor s gr) = none) {t : Nat} (ho : offers s gr = true)
    (ht : s.threadOf (s.coreOf gr) gr.ctx = some t) :
    s.points g = (s.modGroup g (waiting (votesFor s gr))).requestCompose g t (s.codeOf gr).1 (s.codeOf gr).2 (votesFor s gr) := by
  rw [points_votes hg h]
  simp only [hx, ho, ht]

/-! ### The compose request (R40, R286) -/

/-- The outstanding request for a set. -/
def sameRequest (th : Machine.Thread) (codeid kernel : Nat) (set : List Nat) : Option Request :=
  th.reqs.find? fun r => r.codeid == codeid && r.kernel == kernel && r.set == set

variable {t codeid kernel : Nat} {th : Machine.Thread} {set : List Nat}

theorem requestCompose_joins (ht : s.thread? t = some th) (hg : s.group? g = some gr) {r : Request}
    (hr : sameRequest th codeid kernel set = some r) : s.requestCompose g t codeid kernel set =
      (s.modThread t fun x => { x with reqs := x.reqs.map fun y => if y.id = r.id then { y with groups := y.groups ++ [g] } else y }).modGroup
        g fun x => { x with wait := .compose t r.id, met := false } := by
  rw [sameRequest] at hr
  simp only [State.requestCompose, ht, hg, hr]

theorem requestCompose_new (ht : s.thread? t = some th) (hg : s.group? g = some gr)
    (hr : sameRequest th codeid kernel set = none) : s.requestCompose g t codeid kernel set =
      ((s.modThread t fun x => { x with
          reqs := x.reqs ++ [⟨th.nextReq, codeid, kernel, set, [g]⟩]
          nextReq := if th.nextReq = 0xFFFFFFFF then 1 else th.nextReq + 1 }).modGroup g fun x =>
        { x with wait := .compose t th.nextReq, met := false }).modThread t fun x => x.takeEvent
          ⟨composeEvent 0 gr kernel codeid th.nextReq set 0 gr.station s.clock, s.clock, false, some gr.uid⟩ := by
  rw [sameRequest] at hr
  simp only [State.requestCompose, ht, hg, hr]
  rfl

/-! ### The word (R38, R43, R44) -/

/-- A group as its `vote` finds it: no guard, no open station. -/
def voting (gr : Machine.Group) : Machine.Group := { gr with guard := none, isOpen := false }

theorem vote_performs (S : Bool) (hi : Issues s g gr) (hx : s.cur.hix = none) : exec (.vote S) s = .next (s.vote g) :=
  groupWord_unchecked hi hx

/-- In no pass, or in the last one, the group votes anew. -/
theorem vote_points (hg : s.group? g = some gr) (h : gr.pass = 0 ∨ gr.cover = []) :
    ∃ p c, s.vote g = (s.modGroup g fun _ => { voting gr with pass := p, cover := c }).points g := by
  have h1 : s.modGroup g (fun gr => { gr with guard := none, isOpen := false }) = s.modGroup g fun _ => voting gr :=
    modGroup_congr hg rfl
  by_cases hp : gr.pass = 0
  · refine ⟨gr.pass, gr.cover, ?_⟩
    simp only [State.vote, hg, hp, if_true, h1]
    rw [← hp]
    rfl
  · refine ⟨0, [], ?_⟩
    simp only [State.vote, hg, hp, h.resolve_left hp, if_false, h1, modGroup_modGroup hg]

/-- In a pass that is not the last the group enters the next. -/
theorem vote_next (hg : s.group? g = some gr) {x : Sta} {r : List Sta} (hp : gr.pass ≠ 0) (hc : gr.cover = x :: r) :
    s.vote g = ((s.modGroup g fun _ => voting gr).modGroup g fun y => { y with pass := y.pass + 1, cover := r }).enter g x := by
  have h1 : s.modGroup g (fun gr => { gr with guard := none, isOpen := false }) = s.modGroup g fun _ => voting gr :=
    modGroup_congr hg rfl
  simp only [State.vote, hg, hp, hc, if_false, h1]

end
end Sys2Proof.Claims.Votes

open Sys2Proof.Claims Sys2Proof.Claims.Votes in
/-- Settles O36: a group in no further pass is at the points, where its lanes are marked before it enters, covers or asks. -/
theorem voteWord : Obligations.VoteWord := by
  unfold Obligations.VoteWord
  intro S s g gr hi hx s1 held set marked offered
  have hset : votesFor s gr = set := by
    simp only [set, held, votesFor, Votes.holds]
    cases s.kernelOfGroup gr <;> rfl
  -- at the points, with the lanes marked, the state is the one of the statement whatever the pass was
  have points : (gr.pass = 0 ∨ gr.cover = []) → ∃ u : Sys2Proof.Machine.State, ∃ v, s.vote g = u.points g ∧ u.group? g = some v ∧
      v.voteSet = gr.voteSet ∧ votesFor u v = set ∧ u.tableOf v = s.tableOf gr ∧ offers u v = offers s gr ∧
      u.threadOf (u.coreOf v) v.ctx = s.threadOf (s.coreOf gr) gr.ctx ∧ u.codeOf v = s.codeOf gr ∧
      u.modGroup g (waiting set) = marked ∧ u.modGroup g wordless = s1.modGroup g fun x =>
        { x with code := [], copy := none, ended := true, pc := 0, queue := [], pass := 0, cover := [] } := fun h => by
    obtain ⟨p, c, hv⟩ := vote_points hi.here h
    refine ⟨_, _, hv, group_modGroup hi.here _, rfl, hset, rfl, rfl, rfl, rfl, ?_, ?_⟩
    · simp only [marked, s1, modGroup_modGroup hi.here]
      rfl
    · simp only [s1, modGroup_modGroup hi.here]
      rfl
  have noStation : (∀ x ∈ s.tableOf gr, Sys2Proof.Machine.sortNat x.set ≠ set) →
      ((s.tableOf gr).find? fun x => Sys2Proof.Machine.sortNat x.set == set) = none := fun h =>
    List.find?_eq_none.2 fun x hx => by simpa using h x hx
  refine ⟨fun h hv => ?_, fun h hv x hf => ?_, fun h hv hf => ⟨fun ho => ?_, fun l t th ho ht => ?_⟩, fun x r hp hc => ?_⟩
  all_goals rw [vote_performs S hi hx]
  · obtain ⟨u, v, hu, hg, hvs, -, -, -, -, -, -, hw⟩ := points h
    rw [hu, points_retires hg (hvs.trans hv), hw]
  · obtain ⟨u, v, hu, hg, hvs, hs, htab, -, -, -, hm, -⟩ := points h
    rw [hu, points_enters hg (hvs ▸ hv) (by rw [hs, htab]; exact hf), hs, hm]
  · obtain ⟨u, v, hu, hg, hvs, hs, htab, hoff, hth, -, hm, -⟩ := points h
    rw [hu, points_covers hg (hvs ▸ hv) (by rw [hs, htab]; exact noStation hf) ?_, hs, hm]
    rintro ⟨ho', ht⟩
    obtain ⟨l, hl, hc, hk, hlen⟩ := offers_iff.1 (hoff ▸ ho')
    obtain ⟨t, ht⟩ := Option.isSome_iff_exists.1 ht
    exact ho l t ⟨hl, hc, hk, hset ▸ hlen, hth ▸ ht⟩
  · obtain ⟨u, v, hu, hg, hvs, hs, htab, hoff, hth, hcode, hm, -⟩ := points h
    obtain ⟨hl, hc, hk, hlen, hthread⟩ := ho
    have hgo : s.vote g = marked.requestCompose g t l.codeid l.kernel set := by
      rw [hu, points_requests hg (hvs ▸ hv) (by rw [hs, htab]; exact noStation hf)
        (hoff ▸ offers_iff.2 ⟨l, hl, hc, hk, hset ▸ hlen⟩) (hth ▸ hthread), hs, hm, hcode, Sys2Proof.Machine.State.codeOf, hl]
    have hmg : marked.group? g = some (waiting set (voting gr)) :=
      group_modGroup (group_modGroup hi.here fun _ => voting gr) (waiting set)
    exact ⟨fun r hr => congrArg _ (hgo.trans (requestCompose_joins (s := marked) ht hmg hr)),
      fun hr => congrArg _ (hgo.trans (requestCompose_new (s := marked) (gr := waiting set (voting gr)) ht hmg hr))⟩
  · rw [vote_next hi.here hp hc]
    rfl

/-! The checks at issue (R20, R31, R54, R205, R260, R264): every word of a group is a word with checks in their order. -/
namespace Sys2Proof.Claims.Checks
open Sys2Proof.Machine
-- One proof at a time: the text is compiled as one file, whose memory parallel elaboration would exceed.
set_option Elab.async false

section
variable {s : Machine.State} {g : Nat} {gr : Machine.Group} {i : Instr}

/-! ### Registers that fit -/

/-- The runs that a word names are aligned and declared. -/
def Fit (gr : Machine.Group) (i : Instr) : Prop := ∀ r ∈ runsOf gr i, Fits gr r

/-- The tiles and accumulators that a word names are of the crew's partition. -/
def Owned (s : Machine.State) (gr : Machine.Group) (i : Instr) : Prop := TilesIn s gr (tilesOf i) ∧ AccsIn s gr (accsOf i)

theorem vOk_iff (r : BitVec 7) (n : Nat) : vOk gr r.toNat n = true ↔ Fits gr (r, n) := by
  rw [vOk, Bool.and_eq_true, beq_iff_eq, decide_eq_true_iff]
  rfl

theorem fits_one (r : BitVec 7) : Fits gr (r, 1) ↔ r.toNat < gr.regs :=
  ⟨fun h => h.2, fun h => ⟨Nat.mod_one _, h⟩⟩

theorem declared_all {rs : List (BitVec 7)} : Declared gr rs ↔ (rs.all fun r => vOk gr r.toNat 1) = true := by
  rw [List.all_eq_true]
  exact forall₂_congr fun r _ => (fits_one r).symm.trans (vOk_iff r 1).symm

/-- Single registers, as many as a word names, one of them twice where it has two. -/
theorem fit_one {d : BitVec 7} (h : runsOf gr i = [(d, 1)]) : Fit gr i ↔ Declared gr [d] := by
  simp [Fit, h, fits_one, Declared]
theorem fit_two {d a : BitVec 7} (h : runsOf gr i = [(d, 1), (a, 1)]) : Fit gr i ↔ Declared gr [d, a] := by
  simp [Fit, h, fits_one, Declared]
theorem fit_twice {d a : BitVec 7} (h : runsOf gr i = [(d, 1), (a, 1), (a, 1)]) : Fit gr i ↔ Declared gr [d, a] := by
  simp [Fit, h, fits_one, Declared]
theorem fit_three {d a b : BitVec 7} (h : runsOf gr i = [(d, 1), (a, 1), (b, 1)]) : Fit gr i ↔ Declared gr [d, a, b] := by
  simp [Fit, h, fits_one, Declared]
theorem fit_none (h : runsOf gr i = []) : Fit gr i := by simp [Fit, h]

/-! ### The order of the checks (R205) -/

/-- The reason that the checks of a word give: a reserved value, registers that do not fit, tiles that are not the crew's; and
where none of these stops it, the role decides. -/
structure Orders (s : Machine.State) (gr : Machine.Group) (i : Instr) (fail : Option Nat) (roles : Role → Bool) : Prop where
  values : ¬ Allowed s gr i → fail = some 3
  runs   : Allowed s gr i → ¬ Fit gr i → fail = some 5
  tiles  : Allowed s gr i → Fit gr i → ¬ Owned s gr i → fail = some 6
  role   : Allowed s gr i → Fit gr i → Owned s gr i → gr.role ∉ rolesOf i → fail = none ∧ roles gr.role = false

/-- The word is one with checks in that order. -/
def Shaped (s : Machine.State) (gr : Machine.Group) (i : Instr) : Prop :=
  ∃ checks roles body, exec i s = groupWord s (widened i) checks roles body ∧ Orders s gr i (firstFail (checks gr)) roles

variable {checks : Machine.Group → List (Bool × Nat)} {roles : Role → Bool} {body : Nat → Machine.Group → Out}

theorem role_mem (r : Role) : r ∈ [Role.vector, .matrix, .copy, .general] := by cases r <;> decide

theorem owned_nil (ht : tilesOf i = []) (ha : accsOf i = []) : Owned s gr i := by
  rw [Owned, ht, ha]
  exact ⟨fun _ h => absurd h List.not_mem_nil, fun _ h => absurd h List.not_mem_nil⟩

/-- A word whose checks are, in their order, of its values, of its registers and of its tiles. -/
theorem Shaped.of_checks {bv br bt : Bool} (he : exec i s = groupWord s (widened i) checks roles body)
    (hc : firstFail (checks gr) = firstFail [(bv, 3), (br, 5), (bt, 6)]) (hv : Allowed s gr i ↔ bv = false) (hf : Fit gr i ↔ br = false)
    (ho : Owned s gr i ↔ bt = false) (hr : gr.role ∉ rolesOf i → roles gr.role = false) : Shaped s gr i := by
  refine ⟨_, _, _, he, fun h => ?_, fun h1 h2 => ?_, fun h1 h2 h3 => ?_, fun h1 h2 h3 h4 => ⟨?_, hr h4⟩⟩
  · rw [hc, Bool.eq_true_of_not_eq_false fun hb => h (hv.2 hb)]
    rfl
  · rw [hc, hv.1 h1, Bool.eq_true_of_not_eq_false fun hb => h2 (hf.2 hb)]
    rfl
  · rw [hc, hv.1 h1, hf.1 h2, Bool.eq_true_of_not_eq_false fun hb => h3 (ho.2 hb)]
    rfl
  · rw [hc, hv.1 h1, hf.1 h2, ho.1 h3]
    rfl

theorem anyRole_of (hr : rolesOf i = [.vector, .matrix, .copy, .general]) : gr.role ∉ rolesOf i → roles gr.role = false :=
  fun h => absurd (hr ▸ role_mem gr.role) h

/-- A word of every role whose only reason to be stopped is a register. -/
theorem Shaped.of_regs {ok : Machine.Group → Bool} (he : exec i s = groupWord s (widened i) (fun gr => [(!ok gr, 5)]) roles body)
    (hv : Allowed s gr i) (hf : Fit gr i ↔ ok gr = true) (ht : tilesOf i = []) (ha : accsOf i = [])
    (hr : rolesOf i = [.vector, .matrix, .copy, .general]) : Shaped s gr i :=
  .of_checks (bv := false) (bt := false) he rfl (iff_of_true hv rfl) (hf.trans (by rw [Bool.not_eq_false']))
    (iff_of_true (owned_nil ht ha) rfl) (anyRole_of hr)

/-- A word of every role that no check of this kind stops. -/
theorem Shaped.of_none (he : exec i s = groupWord s (widened i) checks roles body) (hv : Allowed s gr i) (hf : runsOf gr i = [])
    (ht : tilesOf i = []) (ha : accsOf i = []) (hr : rolesOf i = [.vector, .matrix, .copy, .general]) : Shaped s gr i :=
  ⟨_, _, _, he, fun h => absurd hv h, fun _ h => absurd (fit_none hf) h, fun _ _ h => absurd (owned_nil ht ha) h,
    fun _ _ _ h => absurd (hr ▸ role_mem gr.role) h⟩

theorem Shaped.of_declared {rs : List (BitVec 7)} (he : exec i s = groupWord s (widened i) (fun gr => [v1 gr rs]) roles body)
    (hv : Allowed s gr i) (hf : Fit gr i ↔ Declared gr rs) (ht : tilesOf i = []) (ha : accsOf i = [])
    (hr : rolesOf i = [.vector, .matrix, .copy, .general]) : Shaped s gr i :=
  .of_regs (ok := fun gr => rs.all fun r => vOk gr r.toNat 1) he hv (hf.trans declared_all) ht ha hr

/-- Two runs, or three, as the model checks them. -/
theorem fit_runs2 {d a : BitVec 7} {n m : Nat} (h : runsOf gr i = [(d, n), (a, m)]) :
    Fit gr i ↔ (vOk gr d.toNat n && vOk gr a.toNat m) = true := by
  simp [Fit, h, vOk_iff]
theorem fit_runs3 {d a b : BitVec 7} {n m k : Nat} (h : runsOf gr i = [(d, n), (a, m), (b, k)]) :
    Fit gr i ↔ (vOk gr d.toNat n && vOk gr a.toNat m && vOk gr b.toNat k) = true := by
  simp [Fit, h, vOk_iff, and_assoc]

/-! ### Shared words in a group (R265) -/

theorem scalarWord_group (hw : s.cur.who = .group g) (takes bad : Bool) (d : BitVec 5) (f : Option (BitVec 25) → (BitVec 5 → DWord) → DWord) :
    ∃ body, scalarWord s takes bad d f = groupWord s takes (fun _ => [(bad, 3)]) anyRole body := by
  simp only [scalarWord, hw]
  exact ⟨_, rfl⟩

/-- A scalar word without a reserved value. -/
theorem Shaped.of_scalar {d : BitVec 5} {f : Option (BitVec 25) → (BitVec 5 → DWord) → DWord} (hw : s.cur.who = .group g)
    (he : exec i s = scalarWord s (widened i) false d f) (hv : Allowed s gr i) (hf : runsOf gr i = []) (ht : tilesOf i = [])
    (ha : accsOf i = []) (hr : rolesOf i = [.vector, .matrix, .copy, .general]) : Shaped s gr i :=
  let ⟨_, hb⟩ := scalarWord_group hw (widened i) false d f
  .of_none (he.trans hb) hv hf ht ha hr

/-! ### Words with checks of their own -/

/-- A number below 64 in the register's width is the shift's immediate in 0 to 63 (R272). -/
theorem wide12_lt (h : Option (BitVec 25)) (x : BitVec 12) : wide12 h x < 64 ↔ decide (immS h 12 x.toNat < 0 ∨ 63 < immS h 12 x.toNat) = false := by
  rw [decide_eq_false_iff_not]
  constructor
  · intro hb
    obtain ⟨hn, hlt⟩ := Scalar.immS_of_wide12_lt hb
    omega
  · intro hb
    obtain ⟨n, hn⟩ := Int.eq_ofNat_of_zero_le (a := immS h 12 x.toNat) (by omega)
    rw [← Scalar.ofInt_immS, hn, BitVec.ofInt_natCast, BitVec.lt_def, BitVec.toNat_ofNat]
    have : n < 64 := by omega
    rw [Nat.mod_eq_of_lt (show n < 2 ^ 64 by omega)]
    exact this

/-- A shift by an immediate. -/
theorem Shaped.of_shiftScalar {d a : BitVec 5} {x : BitVec 12} {f : DWord → DWord → DWord} (hw : s.cur.who = .group g)
    (he : exec i s = shiftScalar s d a x f) (hx : widened i = true) (hv : Allowed s gr i ↔ wide12 s.cur.hix x < 64) (hf : runsOf gr i = [])
    (ht : tilesOf i = []) (ha : accsOf i = []) (hr : rolesOf i = [.vector, .matrix, .copy, .general]) : Shaped s gr i := by
  have hp : Scalar.payload s = s.cur.hix := by simp only [Scalar.payload, hw]
  obtain ⟨body, hb⟩ := scalarWord_group hw true (decide (immS s.cur.hix 12 x.toNat < 0 ∨ 63 < immS s.cur.hix 12 x.toNat)) d
    fun _ r => f (r a) (BitVec.ofInt 64 (immS s.cur.hix 12 x.toNat))
  rw [Scalar.shiftScalar_eq, hp, hb, ← hx] at he
  exact .of_checks (br := false) (bt := false) he rfl (hv.trans (wide12_lt _ x)) (iff_of_true (fit_none hf) rfl)
    (iff_of_true (owned_nil ht ha) rfl) (anyRole_of hr)

theorem Shaped.of_shiftVec {d a : BitVec 7} {x : BitVec 8} {f : Word → Word → Word} (he : exec i s = shiftVec s d a x f)
    (hx : widened i = true) (hv : Allowed s gr i ↔ wide8 s.cur.hix x < 32) (hf : runsOf gr i = [(d, 1), (a, 1)])
    (ht : tilesOf i = []) (ha : accsOf i = []) (hr : rolesOf i = [.vector, .matrix, .copy, .general]) : Shaped s gr i := by
  have hlt : wide8 s.cur.hix x < 32 ↔ decide (31 < (immW s.cur.hix 8 x.toNat).toNat) = false := by
    rw [Vector.immW_eq_wide8, decide_eq_false_iff_not, BitVec.lt_def, Nat.not_lt]
    exact Nat.lt_succ_iff
  unfold shiftVec laneWord actWord at he
  rw [← hx] at he
  exact .of_checks (bt := false) he rfl (hv.trans hlt) ((fit_two hf).trans (declared_all.trans (by rw [Bool.not_eq_false'])))
    (iff_of_true (owned_nil ht ha) rfl) (anyRole_of hr)

theorem Shaped.of_mfWord {d a : BitVec 7} {b : BitVec 5} {f : Desc → Mode → Nat → Nat} (he : exec i s = mfWord s d a b f)
    (hx : widened i = false) (hv : Allowed s gr i ↔ mfDescOk (gr.rs b.toNat) = true) (hf : runsOf gr i = [(d, 1), (a, 1)])
    (ht : tilesOf i = []) (ha : accsOf i = []) (hr : rolesOf i = [.vector, .matrix, .copy, .general]) : Shaped s gr i := by
  unfold mfWord actWord at he
  rw [← hx] at he
  exact .of_checks (bt := false) he rfl (hv.trans (by rw [Bool.not_eq_false']))
    ((fit_two hf).trans (declared_all.trans (by rw [Bool.not_eq_false']))) (iff_of_true (owned_nil ht ha) rfl) (anyRole_of hr)

/-! ### Words of a role (R54) -/

theorem matrixRole_not : gr.role ∉ [Role.matrix, .general] → matrixRole gr.role = false := by cases gr.role <;> decide
theorem copyRole_not : gr.role ∉ [Role.copy, .general] → copyRole gr.role = false := by cases gr.role <;> decide
theorem generalRole_not : gr.role ∉ [Role.general] → generalRole gr.role = false := by cases gr.role <;> decide

theorem owned_tile {t : BitVec 4} (ht : tilesOf i = [t]) (ha : accsOf i = []) : Owned s gr i ↔ (!tOk s gr t) = false := by
  rw [Bool.not_eq_false', Engines.tOk_iff]
  simp [Owned, ht, ha, TilesIn, AccsIn]
theorem owned_acc {a : BitVec 3} (ht : tilesOf i = []) (ha : accsOf i = [a]) : Owned s gr i ↔ (!aOk s gr a) = false := by
  rw [Bool.not_eq_false', Engines.aOk_iff]
  simp [Owned, ht, ha, TilesIn, AccsIn]
theorem owned_pair {a b : BitVec 4} {d : BitVec 3} (ht : tilesOf i = [a, b]) (ha : accsOf i = [d]) :
    Owned s gr i ↔ (!(tOk s gr a && tOk s gr b && aOk s gr d)) = false := by
  rw [Bool.not_eq_false', Bool.and_eq_true, Bool.and_eq_true, Engines.tOk_iff, Engines.tOk_iff, Engines.aOk_iff]
  simp [Owned, ht, ha, TilesIn, AccsIn]

theorem fit_nil (h : runsOf gr i = []) : Fit gr i ↔ false = false := iff_of_true (fit_none h) rfl

end

end Sys2Proof.Claims.Checks

/-! Every word of a group has its checks in their order (R20, R54, R205). -/
namespace Sys2Proof.Claims.Checks
open Sys2Proof.Machine
-- One proof at a time: the text is compiled as one file, whose memory parallel elaboration would exceed.
set_option Elab.async false

section
variable {s : Machine.State} {g : Nat} {gr : Machine.Group} {i : Instr}

/-! ### Shared words of memory and capabilities in a group -/

theorem ldsWord_group (hw : s.cur.who = .group g) (d : BitVec 5) (k : BitVec 4) (a : BitVec 5) (x : BitVec 8) (n : Nat) :
    ∃ body, ldsWord s d k a x n = groupWord s true (fun _ => []) anyRole body := by
  simp only [ldsWord, hw]
  exact ⟨_, rfl⟩

theorem stsWord_group (hw : s.cur.who = .group g) (d : BitVec 5) (k : BitVec 4) (a : BitVec 5) (x : BitVec 8) (n : Nat) :
    ∃ body, stsWord s d k a x n = groupWord s true (fun _ => []) anyRole body := by
  simp only [stsWord, hw]
  exact ⟨_, rfl⟩

theorem capWord_group (hw : s.cur.who = .group g) (k : BitVec 4) (f : Cap → (BitVec 5 → DWord) → Except Nat (Option Cap × Option DWord))
    (kd : BitVec 4) (sd : BitVec 5) : ∃ body, capWord s k f kd sd = groupWord s false (fun _ => []) anyRole body := by
  simp only [capWord, hw]
  exact ⟨_, rfl⟩

theorem fence_group (hw : s.cur.who = .group g) (p q : BitVec 6) (c : Scope) :
    ∃ body, execFence p q c s = groupWord s false (fun _ => []) anyRole body := by
  simp only [execFence, hw]
  exact ⟨_, rfl⟩

theorem kld_group (hw : s.cur.who = .group g) (d k : BitVec 4) (a : BitVec 5) :
    ∃ body, execKld d k a s = groupWord s false (fun _ => []) anyRole body := by
  simp only [execKld, hw]
  exact ⟨_, rfl⟩

theorem kst_group (hw : s.cur.who = .group g) (d k : BitVec 4) (a : BitVec 5) :
    ∃ body, execKst d k a s = groupWord s false (fun _ => []) anyRole body := by
  simp only [execKst, hw]
  exact ⟨_, rfl⟩

/-- A word of every role that nothing stops, given by its body. -/
theorem Shaped.of_open {checks : Machine.Group → List (Bool × Nat)}
    (he : ∃ body, exec i s = groupWord s (widened i) checks anyRole body) (hv : Allowed s gr i)
    (hf : runsOf gr i = []) (ht : tilesOf i = []) (ha : accsOf i = []) (hr : rolesOf i = [.vector, .matrix, .copy, .general]) :
    Shaped s gr i :=
  let ⟨_, hb⟩ := he
  .of_none hb hv hf ht ha hr

/-- A scalar word of the tables, which have an entry whatever the registers hold. -/
theorem Shaped.of_register {d : BitVec 5} {v : DWord} (hw : s.cur.who = .group g) (h : registerResult (fun _ => 0) i = some (d, v))
    (hx : widened i = false) (hv : Allowed s gr i) (hf : runsOf gr i = []) (ht : tilesOf i = []) (ha : accsOf i = [])
    (hr : rolesOf i = [.vector, .matrix, .copy, .general]) : Shaped s gr i := by
  obtain ⟨f, -, he⟩ := Scalar.writes_of_registerResult h s rfl
  exact .of_scalar hw (by rw [hx]; exact he) hv hf ht ha hr

theorem Shaped.of_immediate {d : BitVec 5} {v : DWord} (hw : s.cur.who = .group g)
    (h : immediateResult (Scalar.payload s) (fun _ => 0) i = some (d, v)) (hx : widened i = true) (hv : Allowed s gr i) (hf : runsOf gr i = [])
    (ht : tilesOf i = []) (ha : accsOf i = []) (hr : rolesOf i = [.vector, .matrix, .copy, .general]) : Shaped s gr i := by
  obtain ⟨f, -, he⟩ := Scalar.writes_of_immediateResult h s rfl
  exact .of_scalar hw (by rw [hx]; exact he) hv hf ht ha hr

/-- A capability word of the table. -/
theorem Shaped.of_capability {k : BitVec 4} {e : CapEffect} (hw : s.cur.who = .group g)
    (h : capEffect (fun _ => Cap.null) (fun _ => 0) i = some (k, e)) (hx : widened i = false) (hv : Allowed s gr i) (hf : runsOf gr i = [])
    (ht : tilesOf i = []) (ha : accsOf i = []) (hr : rolesOf i = [.vector, .matrix, .copy, .general]) : Shaped s gr i := by
  obtain ⟨f, d, sd, he, -⟩ := Order.capFunction_of_table h
  obtain ⟨body, hb⟩ := capWord_group hw k f d sd
  exact .of_none (by rw [hx]; exact (he s).trans hb) hv hf ht ha hr

/-- A shared word in a group. -/
theorem shaped_shared (hw : s.cur.who = .group g) (h : shared i = true) : Shaped s gr i := by
  cases i
  case add | sub | mul | mulhS | mulhN | divS | divN | remS | remN | and | or | xor | shl | shr | sra | minS | maxS | minN | maxN | sltS | sltN
      | seq | bfxS | bfxN | bfi | clz | ctz | popc => exact .of_register hw rfl rfl trivial rfl rfl rfl rfl
  case addi | andi | ori | xori | sltiS => exact .of_immediate hw rfl rfl trivial rfl rfl rfl rfl
  case luh => exact .of_immediate hw (Scalar.immediateResult_luh ..) rfl trivial rfl rfl rfl rfl
  case shli | shri | srai => exact .of_shiftScalar hw rfl rfl Iff.rfl rfl rfl rfl rfl
  case ldsN8 | ldsN16 | ldsN32 | ldsB64 => exact .of_open (ldsWord_group hw ..) trivial rfl rfl rfl rfl
  case stsB8 | stsB16 | stsB32 | stsB64 => exact .of_open (stsWord_group hw ..) trivial rfl rfl rfl rfl
  case fence => exact .of_open (fence_group hw ..) trivial rfl rfl rfl rfl
  case kmov | kwin | krights | kget | ktag => exact .of_capability hw rfl rfl trivial rfl rfl rfl rfl
  case kld => exact .of_open (kld_group hw ..) trivial rfl rfl rfl rfl
  case kst => exact .of_open (kst_group hw ..) trivial rfl rfl rfl rfl
  all_goals cases h

/-! ### Words of groups alone -/

theorem shaped_integer (h : (integerResult i).isSome = true) : Shaped s gr i := by
  cases i
  case addV | subV | mulV | mulhSV | mulhNV | andV | orV | xorV | shlV | shrV | sraV | minSV | maxSV | minNV | maxNV | absd | addsS | addsN
      | subsS | subsN | avgN | bfxV | dot4S8 | dot4N8 | bfiV =>
    exact .of_declared rfl trivial (fit_three rfl) rfl rfl rfl
  case clzV | popcV | brev | mov => exact .of_declared rfl trivial (fit_twice rfl) rfl rfl rfl
  all_goals cases h

theorem shaped_float (h : (floatResult (modeOf 0) i).isSome = true) : Shaped s gr i := by
  cases i
  case faddF32 | faddH2 | faddB2 | fsubF32 | fsubH2 | fsubB2 | fmulF32 | fmulH2 | fmulB2 | fminF32 | fminH2 | fminB2 | fmaxF32 | fmaxH2
      | fmaxB2 | ffmaF32 | ffmaH2 | ffmaB2 | ffmsF32 | ffmsH2 | ffmsB2 | fnmaF32 | fnmaH2 | fnmaB2 | ffmawH | ffmawB | pk2 =>
    exact .of_declared rfl trivial (fit_three rfl) rfl rfl rfl
  case frcp | frsqrt | fsqrt | fex2 | flg2 | fsinp | fcosp | ftanh | ffrac | fclass | upk =>
    exact .of_declared rfl trivial (fit_twice rfl) rfl rfl rfl
  all_goals cases h

/-- Memory words of lanes: the runs of their data and their addresses. -/
theorem shaped_memory (h : (laneWordOf none i).isSome = true) : Shaped s gr i := by
  cases i
  case ld S d k a t x =>
    refine .of_regs (ok := fun gr => vOk gr d.toNat (regsFor (ldSize t)) && vOk gr a.toNat 1) rfl trivial ?_ rfl rfl rfl
    rw [Memory.ldSize_eq, Memory.regsFor_ldBytes]
    exact fit_runs2 rfl
  case st S d k a t x =>
    refine .of_regs (ok := fun gr => vOk gr d.toNat (regsFor (stSize t)) && vOk gr a.toNat 1) rfl trivial ?_ rfl rfl rfl
    rw [Memory.stSize_eq, Memory.regsFor_stBytes]
    exact fit_runs2 rfl
  case atom S d k a o c | atomx S d k a o c =>
    exact .of_regs (ok := fun gr => vOk gr d.toNat (if o = .cas then 2 * 1 else 1) && vOk gr a.toNat 1) rfl trivial (fit_runs2 rfl) rfl rfl rfl
  case atom64 S d k a o c | atomx64 S d k a o c =>
    exact .of_regs (ok := fun gr => vOk gr d.toNat (if o = .cas then 2 * 2 else 2) && vOk gr a.toNat 1) rfl trivial (fit_runs2 rfl) rfl rfl rfl
  all_goals cases h

/-- Words of one role or two. -/
theorem shaped_role (h : rolesOf i ≠ [.vector, .matrix, .copy, .general]) : Shaped s gr i := by
  cases i
  case tcfg S t a =>
    exact .of_checks rfl rfl (by simp [Allowed, tctlBad]; tauto) (fit_nil rfl) (owned_tile rfl rfl) matrixRole_not
  case acfg S d a =>
    exact .of_checks rfl rfl (by simp [Allowed, bindBad]) (fit_nil rfl) (owned_acc rfl rfl) matrixRole_not
  case tld | tst => exact .of_checks rfl rfl (iff_of_true trivial rfl) (fit_nil rfl) (owned_tile rfl rfl) matrixRole_not
  case mma | mmb => exact .of_checks rfl rfl (iff_of_true trivial rfl) (fit_nil rfl) (owned_pair rfl rfl) matrixRole_not
  case azero | acvt =>
    exact .of_checks (br := false) rfl rfl (iff_of_true trivial rfl) (fit_nil rfl) (owned_acc rfl rfl) matrixRole_not
  case ard | awr =>
    exact .of_checks rfl rfl (iff_of_true trivial rfl) ((fit_one rfl).trans (declared_all.trans (by rw [Bool.not_eq_false'])))
      (owned_acc rfl rfl) matrixRole_not
  case cpyLin | cpyTen | cpyGat | cpySct | cpyRed | qfence =>
    exact .of_checks (checks := fun _ => []) (bt := false) rfl rfl (iff_of_true trivial rfl) (fit_nil rfl) (iff_of_true (owned_nil rfl rfl) rfl)
      copyRole_not
  case sinv =>
    exact .of_checks (checks := fun _ => []) (bt := false) rfl rfl (iff_of_true trivial rfl) (fit_nil rfl) (iff_of_true (owned_nil rfl rfl) rfl)
      generalRole_not
  all_goals exact absurd rfl h

theorem shaped_across (h : (acrossResult gr [] i).isSome = true) : Shaped s gr i := by
  cases i
  case sel | shflIdx | shflUp | shflDn | shflXor | bcast => exact .of_declared rfl trivial (fit_three rfl) rfl rfl rfl
  case movs | rdsp | movp | ballot | vrank | vcount | wrlane => exact .of_declared rfl trivial (fit_one rfl) rfl rfl rfl
  all_goals cases h

/-- Words that a `hix` widens, but scalar words and the memory words of lanes. -/
theorem shaped_widened (h : (widened i && !shared i && (laneWordOf none i).isNone) = true) : Shaped s gr i := by
  cases i
  case addiV | andiV | oriV | xoriV | muli => exact .of_declared rfl trivial (fit_two rfl) rfl rfl rfl
  case movi => exact .of_declared rfl trivial (fit_one rfl) rfl rfl rfl
  case shliV | shriV | sraiV => exact .of_shiftVec rfl rfl Iff.rfl rfl rfl rfl rfl
  case barr | bars => exact .of_none (checks := fun _ => []) rfl trivial rfl rfl rfl rfl
  all_goals cases h

/-- A special register that the lanes hold, or one that they do not. -/
theorem fit_rdsr (S : Bool) (d : BitVec 7) (e : BitVec 8) : Fit gr (.rdsr S d e) ↔ (!(srPerLane e.toNat && !vOk gr d.toNat 1)) = true := by
  have hruns : runsOf gr (.rdsr S d e) = if srPerLane e.toNat then [(d, 1)] else [] := rfl
  cases h : srPerLane e.toNat <;> simp [Fit, hruns, h, vOk_iff]

/-- The words of the tables that have lemmas of their own above. -/
def tabled (gr : Machine.Group) (i : Instr) : Bool :=
  shared i || (integerResult i).isSome || (floatResult (modeOf 0) i).isSome || (laneWordOf none i).isSome || (acrossResult gr [] i).isSome ||
    (widened i && !shared i && (laneWordOf none i).isNone)

/-- The other words of groups, which every role performs. -/
theorem shaped_other (h : (tabled gr i || !encoded i || threadOnly i || rolesOf i != [.vector, .matrix, .copy, .general]) = false) :
    Shaped s gr i := by
  cases i
  case redadd | redmax | redmin | scanadd | ftst => exact .of_declared rfl trivial (fit_two rfl) rfl rfl rfl
  case rdlane | setblkv | setfmReg | pfch | setp => exact .of_declared rfl trivial (fit_one rfl) rfl rfl rfl
  case cvtmfE => exact .of_mfWord (f := Vector.encoded) rfl rfl Vector.mfDescOk_iff.symm rfl rfl rfl rfl
  case cvtmfD => exact .of_mfWord (f := mfToF32) rfl rfl Vector.mfDescOk_iff.symm rfl rfl rfl rfl
  case add64 | sub64 | mulwS | mulwN => exact .of_regs rfl trivial (fit_runs3 rfl) rfl rfl rfl
  case cvt | cmp => exact .of_regs rfl trivial (fit_runs2 rfl) rfl rfl rfl
  case rdsr S d e =>
    exact .of_checks (checks := fun gr => [(srPerLane e.toNat && !vOk gr d.toNat 1, 5)]) (bv := false) (bt := false) rfl rfl
      (iff_of_true trivial rfl) ((fit_rdsr S d e).trans (by rw [Bool.not_eq_true'])) (iff_of_true (owned_nil rfl rfl) rfl) (anyRole_of rfl)
  case setblk S a b p =>
    exact .of_checks (br := false) (bt := false) rfl rfl (by simp [Allowed, Control.blockOk_iff]) (fit_nil rfl) (iff_of_true (owned_nil rfl rfl) rfl)
      (anyRole_of rfl)
  case plog | vany | vall | nop | exit | vote | fuse | trap | grd | cach | hix | brk | barinit | barw | waitw =>
    exact .of_none (checks := fun _ => []) rfl trivial rfl rfl rfl rfl
  case wrsr S a e => exact .of_none (checks := fun _ => [(e != 0x22, 3)]) rfl trivial rfl rfl rfl rfl
  case slot S m => exact .of_none (checks := fun gr => [(decide (2 ^ gr.members.length ≤ m.toNat), 8)]) rfl trivial rfl rfl rfl rfl
  case setfmImm S x => exact .of_none (checks := fun _ => [(!fmodeLegal x.toNat, 10)]) rfl trivial rfl rfl rfl rfl
  all_goals cases h

/-- Every encoded word but a thread's own has its checks in their order, in a group; where only a group performs it, in a thread too. -/
theorem shaped (hs : shared i = true → ∃ g, s.cur.who = .group g) (he : encoded i = true) (ht : threadOnly i = false) : Shaped s gr i := by
  by_cases h1 : shared i = true
  · exact shaped_shared (hs h1).choose_spec h1
  by_cases h2 : (integerResult i).isSome = true
  · exact shaped_integer h2
  by_cases h3 : (floatResult (modeOf 0) i).isSome = true
  · exact shaped_float h3
  by_cases h4 : (laneWordOf none i).isSome = true
  · exact shaped_memory h4
  by_cases h5 : (acrossResult gr [] i).isSome = true
  · exact shaped_across h5
  by_cases h6 : (widened i && !shared i && (laneWordOf none i).isNone) = true
  · exact shaped_widened h6
  by_cases h7 : rolesOf i = [.vector, .matrix, .copy, .general]
  · have hn : tabled gr i = false := by
      rw [tabled, Bool.or_eq_false_iff, Bool.or_eq_false_iff, Bool.or_eq_false_iff, Bool.or_eq_false_iff, Bool.or_eq_false_iff]
      exact ⟨⟨⟨⟨⟨Bool.eq_false_of_not_eq_true h1, Bool.eq_false_of_not_eq_true h2⟩, Bool.eq_false_of_not_eq_true h3⟩,
        Bool.eq_false_of_not_eq_true h4⟩, Bool.eq_false_of_not_eq_true h5⟩, Bool.eq_false_of_not_eq_true h6⟩
    exact shaped_other (by rw [hn, he, ht, h7]; rfl)
  · exact shaped_role h7

end
end Sys2Proof.Claims.Checks

/-! Words that do not decode, words of threads, and the checks at issue (R205, R241, R264, R265, R268). -/
namespace Sys2Proof.Claims.Checks
open Sys2Proof.Machine
-- One proof at a time: the text is compiled as one file, whose memory parallel elaboration would exceed.
set_option Elab.async false

/-! ### The reasons of words that do not decode -/

/-- What a decoder of one major gives: an instruction, or reason 3 or 4. -/
def within : Except Nat Instr → Bool
  | .ok _ => true
  | .error k => k == 3 || k == 4

@[simp] theorem within_ok (i : Instr) : within (.ok i) = true := rfl
@[simp] theorem within_reserved : within (.error 3) = true := rfl
@[simp] theorem within_unused : within (.error 4) = true := rfl

@[simp] theorem within_accept (i : Instr) (r : Nat) : within (accept i r) = true := by
  unfold accept
  split_ifs <;> rfl

@[simp] theorem within_need {α : Type} (o : Option α) (k : α → Except Nat Instr) (h : ∀ x, within (k x) = true) : within (need o k) = true := by
  cases o with
  | none => rfl
  | some x => exact h x

section
variable (w : Nat)
@[simp] theorem within_decodeSR : within (decodeSR w) = true := by
  unfold decodeSR
  split <;> simp
@[simp] theorem within_decodeSI : within (decodeSI w) = true := by
  unfold decodeSI
  split <;> simp
@[simp] theorem within_decodeSU : within (decodeSU w) = true := by simp [decodeSU]
@[simp] theorem within_decodeSM : within (decodeSM w) = true := by
  unfold decodeSM
  split <;> simp
@[simp] theorem within_decodeSB : within (decodeSB w) = true := by
  unfold decodeSB
  split <;> simp
@[simp] theorem within_decodeSJ : within (decodeSJ w) = true := by simp [decodeSJ]
@[simp] theorem within_decodeLR : within (decodeLR w) = true := by
  unfold decodeLR
  split <;> simp
@[simp] theorem within_decodeIntA : within (decodeIntA w) = true := by
  unfold decodeIntA
  split <;> simp
@[simp] theorem within_decodeIntB : within (decodeIntB w) = true := by
  unfold decodeIntB
  split <;> simp
@[simp] theorem within_decodeVI : within (decodeVI w) = true := by
  unfold decodeVI
  split <;> simp
@[simp] theorem within_decodeFloat : within (decodeFloat w) = true := by
  unfold decodeFloat
  split <;> simp
@[simp] theorem within_decodeFused : within (decodeFused w) = true := by
  unfold decodeFused
  split <;> simp
@[simp] theorem within_decodeUnary : within (decodeUnary w) = true := by
  unfold decodeUnary
  split <;> simp
@[simp] theorem within_decodeVT : within (decodeVT w) = true := by
  unfold decodeVT
  split <;> simp
@[simp] theorem within_decodeVC : within (decodeVC w) = true := by
  unfold decodeVC
  split <;> simp
@[simp] theorem within_decodeVS : within (decodeVS w) = true := by
  unfold decodeVS
  split <;> simp
@[simp] theorem within_decodeLane : within (decodeLane w) = true := by
  unfold decodeLane
  split <;> simp
@[simp] theorem within_decodeVX : within (decodeVX w) = true := by
  unfold decodeVX
  split <;> simp
@[simp] theorem within_decodeLd : within (decodeLd w) = true := by simp [decodeLd]
@[simp] theorem within_decodeSt : within (decodeSt w) = true := by simp [decodeSt]
@[simp] theorem within_decodeAtom32 : within (decodeAtom32 w) = true := by
  unfold decodeAtom32
  split <;> simp
@[simp] theorem within_decodeAtom64 : within (decodeAtom64 w) = true := by
  unfold decodeAtom64
  split <;> simp
@[simp] theorem within_decodeSN : within (decodeSN w) = true := by
  unfold decodeSN
  split <;> simp
@[simp] theorem within_decodeKP : within (decodeKP w) = true := by
  unfold decodeKP
  split <;> simp
@[simp] theorem within_decodeMC : within (decodeMC w) = true := by
  unfold decodeMC
  split <;> simp
@[simp] theorem within_decodeMT : within (decodeMT w) = true := by
  unfold decodeMT
  split <;> simp
@[simp] theorem within_decodeMM : within (decodeMM w) = true := by
  unfold decodeMM
  split <;> simp
@[simp] theorem within_decodeMA : within (decodeMA w) = true := by
  unfold decodeMA
  split <;> simp
@[simp] theorem within_decodeCP : within (decodeCP w) = true := by
  unfold decodeCP
  split <;> simp
@[simp] theorem within_decodeCT : within (decodeCT w) = true := by
  unfold decodeCT
  split <;> simp
@[simp] theorem within_decodeHN : within (decodeHN w) = true := by
  unfold decodeHN
  split <;> simp
@[simp] theorem within_decodeSY : within (decodeSY w) = true := by
  unfold decodeSY
  split <;> simp [apply_ite within]
@[simp] theorem within_decodeHX : within (decodeHX w) = true := by simp [decodeHX]
end

/-- A word that does not decode: reason 1 for the words of zeros and of ones, 2 for a major that is not assigned, else 3 or 4. -/
theorem decode_error {w k : Nat} (h : decode w = .error k) :
    ((w = 0 ∨ w = 0xFFFFFFFF) ∧ k = 1) ∨
    (¬ (w = 0 ∨ w = 0xFFFFFFFF) ∧ fld w 30 25 ∉ majors ∧ k = 2) ∨
    (¬ (w = 0 ∨ w = 0xFFFFFFFF) ∧ fld w 30 25 ∈ majors ∧ (k = 3 ∨ k = 4)) := by
  by_cases hw : w = 0 ∨ w = 0xFFFFFFFF
  · rw [decode, if_pos hw] at h
    exact .inl ⟨hw, (Except.error.inj h).symm⟩
  · by_cases hm : fld w 30 25 ∈ majors
    · have hk : within (decode w) = true := by
        simp only [majors, List.mem_cons, List.not_mem_nil, or_false] at hm
        rw [decode, if_neg hw]
        rcases hm with hm | hm | hm | hm | hm | hm | hm | hm | hm | hm | hm | hm | hm | hm | hm | hm | hm | hm | hm | hm | hm | hm | hm | hm | hm |
          hm | hm | hm | hm | hm | hm | hm | hm <;> rw [hm] <;> simp
      rw [h, within, Bool.or_eq_true, beq_iff_eq, beq_iff_eq] at hk
      exact .inr (.inr ⟨hw, hm, hk⟩)
    · rw [decode, if_neg hw] at h
      split at h
      case h_34 => exact .inr (.inl ⟨hw, hm, (Except.error.inj h).symm⟩)
      all_goals exact absurd (by simp [majors, *]) hm

/-! ### The reserved conditions behind a reserved bit (R205, R264) -/

variable {s : Machine.State} {g : Nat} {gr : Machine.Group} {w : Word}

theorem setblkBad_elsewhere (h : fld w.toNat 30 25 ≠ 0x38) : s.setblkBad gr w = false := by
  have hne : fld w.toNat 30 22 ≠ 0x1C1 := by
    unfold fld at h ⊢
    omega
  rw [State.setblkBad, beq_eq_false_iff_ne.2 hne, Bool.false_and]

theorem valueBad_elsewhere (h : fld w.toNat 30 25 ≠ 0x16) (h' : fld w.toNat 30 25 ≠ 0x28) : valueBad gr w = false := by
  simp [valueBad]

theorem widens_elsewhere (h : fld w.toNat 30 25 ∉ widenedMajors) : widens w = false := by
  simp only [widenedMajors, List.mem_cons, List.not_mem_nil, or_false, not_or] at h
  simp [widens, major, h]

/-- Reasons 1 to 3 stand; 4 stands too, unless a reserved condition gives 3. -/
theorem undefReason_low {k : Nat} (h : k ≤ 3) : s.undefReason gr w k = k := if_neg fun hk => absurd hk.1 (Nat.not_lt.2 h)

theorem undefReason_unused : s.undefReason gr w 4 = 3 ∨ s.undefReason gr w 4 = 4 := by
  rw [State.undefReason]
  exact ite_eq_or_eq _ _ _

theorem undefReason_alone (hx : s.cur.hix = none) (h1 : fld w.toNat 30 25 ≠ 0x16) (h2 : fld w.toNat 30 25 ≠ 0x28)
    (h3 : fld w.toNat 30 25 ≠ 0x38) : s.undefReason gr w 4 = 4 := by
  rw [State.undefReason, hx, setblkBad_elsewhere h3, valueBad_elsewhere h1 h2]
  rfl

theorem undefReason_hix (hx : s.cur.hix ≠ none) (h : fld w.toNat 30 25 ∉ widenedMajors) : s.undefReason gr w 4 = 3 := by
  rw [State.undefReason, widens_elsewhere h, Option.isSome_iff_ne_none.2 hx]
  rfl

/-- The reason of a word that does not decode. -/
theorem undefReason_lowest {k : Nat} (hd : decode w.toNat = .error k) :
    (s.undefReason gr w k = 1 ↔ w.toNat = 0 ∨ w.toNat = 0xFFFFFFFF) ∧
    (s.undefReason gr w k = 2 ↔ w.toNat ≠ 0 ∧ w.toNat ≠ 0xFFFFFFFF ∧ fld w.toNat 30 25 ∉ majors) ∧
    (k = 3 → s.undefReason gr w k = 3) ∧ (k = 4 → s.undefReason gr w k = 3 ∨ s.undefReason gr w k = 4) := by
  refine ⟨?_, ?_, fun h => undefReason_low (Nat.le_of_eq h) |>.trans h, fun h => ?_⟩
  case refine_3 => exact h.symm ▸ undefReason_unused
  all_goals rcases decode_error hd with ⟨hw, rfl⟩ | ⟨hw, hm, rfl⟩ | ⟨hw, hm, rfl | rfl⟩
  case refine_1.inl | refine_1.inr.inl | refine_1.inr.inr.inl =>
    rw [undefReason_low (by decide)]
    simp [hw]
  case refine_2.inl =>
    rw [undefReason_low (by decide)]
    exact iff_of_false (by decide) fun h => hw.elim h.1 h.2.1
  case refine_2.inr.inl =>
    rw [undefReason_low (by decide)]
    exact iff_of_true rfl ⟨fun h => hw (.inl h), fun h => hw (.inr h), hm⟩
  case refine_2.inr.inr.inl =>
    rw [undefReason_low (by decide)]
    exact iff_of_false (by decide) fun h => h.2.2 hm
  case refine_1.inr.inr.inr => exact iff_of_false (by rcases undefReason_unused (s := s) (gr := gr) (w := w) with h | h <;> rw [h] <;> decide) hw
  case refine_2.inr.inr.inr =>
    exact iff_of_false (by rcases undefReason_unused (s := s) (gr := gr) (w := w) with h | h <;> rw [h] <;> decide) fun h => h.2.2 hm

/-! ### Words of threads (R265) -/

variable {i : Instr}

theorem threadOnly_exec (h : threadOnly i = true) : ∃ body, exec i s = threadWord s body := by
  cases i
  case jalr | beq | bne | bltS | bgeS | bltN | bgeN | jal | emit | emitnb | emits | sopen | stins | sdecl => exact ⟨_, rfl⟩
  case gwait | grec | gread | gwrite | gres | gkill | launch => exact ⟨_, rfl⟩
  all_goals cases h

/-- A word of groups, in a group behind a `hix` that it does not take. -/
theorem hix_stops (hi : Issues s g gr) (he : encoded i = true) (ht : threadOnly i = false) (hw : widened i = false) (hx : s.cur.hix ≠ none) :
    exec i s = .next ((s.countRefused g gr).undef g 3) := by
  obtain ⟨checks, roles, body, hb, -⟩ := shaped (gr := gr) (fun _ => ⟨g, hi.who⟩) he ht
  rw [hb, hw, groupWord_hix hi.who hi.here hx]

/-- And in a thread. -/
theorem group_stops {t : Nat} {th : Machine.Thread} (hr : Runs s t th) (he : encoded i = true) (ht : threadOnly i = false)
    (hs : shared i = false) : exec i s = .next (s.l2fault t .undef 0) := by
  obtain ⟨checks, roles, body, hb, -⟩ := shaped (gr := placedGroup 0) (s := s) (fun h => absurd (hs.symm.trans h) (by decide)) he ht
  rw [hb, groupWord_thread hr.who]

/-! ### Reserved modes and blocks in registers (R368, R383) -/

variable {S : Bool} {v : BitVec 7}

theorem setblkv_traps (ha : Acts s g gr) (hx : s.cur.hix = none) (hd : Declared gr [v]) {bad : List Nat} (hb : bad ≠ [])
    (h : (s.cur.act.filter fun n => !elementBlock s gr ((gr.lane n).rd v.toNat)) = bad) :
    exec (.setblkv S v) s = .next (s.trapNow g 1 bad 9 0 0) := by
  refine (Control.actWord_here ha hx (Across.firstFail_declared hd)).trans (congrArg _ ?_)
  simp only [h, hx]
  exact if_neg (by rw [isEmpty_eq_false hb]; decide)

theorem setfmReg_traps (ha : Acts s g gr) (hx : s.cur.hix = none) (hd : Declared gr [v]) {bad : List Nat} (hb : bad ≠ [])
    (h : (s.cur.act.filter fun n => !fmodeLegal (((gr.lane n).rd v.toNat).toNat % 65536)) = bad) :
    exec (.setfmReg S v) s = .next (s.trapNow g 1 bad 10 0 0) := by
  refine (Control.actWord_here ha hx (Across.firstFail_declared hd)).trans (congrArg _ ?_)
  simp only [Control.fld_low16, h, hx]
  exact if_neg (by rw [isEmpty_eq_false hb]; decide)

theorem noBlock_eq (x : Word) : decide (x.toNat ≠ 255 ∧ s.blocksOf gr ≤ x.toNat) = !elementBlock s gr x := by
  rw [← decide_not.trans (congrArg (!·) Bool.decide_eq_true), decide_eq_decide, Control.elementBlock_iff, not_or, Nat.not_lt]

end Sys2Proof.Claims.Checks

open Sys2Proof Sys2Proof.Machine Sys2Proof.Claims Sys2Proof.Claims.Checks

/-- Settles O12: the checks at issue, by the shape of every word of groups. -/
theorem registerAndRoleChecks : Obligations.RegisterAndRoleChecks := by
  refine ⟨?_, ?_⟩
  · intro i s g gr hi he ht hx u fit owned
    obtain ⟨checks, roles, body, hb, hvalues, hruns, htiles, hrole⟩ := shaped (gr := gr) (fun _ => ⟨g, hi.who⟩) he ht
    rw [hb]
    refine ⟨fun h => groupWord_undef hi.who hi.here hx (hvalues h), fun h1 h2 => groupWord_undef hi.who hi.here hx (hruns h1 h2),
      fun h1 h2 h3 => groupWord_undef hi.who hi.here hx (htiles h1 h2 h3), fun h hr => ?_, fun S m h hm => ?_, fun S m h hm => ?_⟩
    · obtain ⟨hc, hr⟩ := hrole h.values h.runs ⟨h.tiles, h.accs⟩ hr
      exact groupWord_role hi.who hi.here hx hc hr
    · subst h
      exact hb.symm.trans (groupWord_undef (r := 8) hi.who hi.here (.inl (hx.resolve_right (by simp [widened]))) (by simp [firstFail, hm]))
    · subst h
      exact hb.symm.trans (actWord_undef (r := 10) hi.who hi.here (.inl (hx.resolve_right (by simp [widened]))) (by simp [firstFail, hm]))
  · intro S v s g gr ha hx hd value noBlock noMode
    exact ⟨fun h => setblkv_traps ha hx hd h (List.filter_congr fun n _ => (noBlock_eq _).symm), fun h => setfmReg_traps ha hx hd h rfl⟩

/-- Settles O10: words of threads, words behind a `hix`, words of groups in a thread, and words that do not decode. -/
theorem wordsRefused : Obligations.WordsRefused := by
  refine ⟨fun i s g gr hi => ⟨fun h hx => ?_, fun h hx => ?_, hix_stops hi⟩, fun i s t th => group_stops, ?_, ?_⟩
  · obtain ⟨body, hb⟩ := threadOnly_exec (s := s) h
    rw [hb, threadWord_group hi.who hx]
  · obtain ⟨body, hb⟩ := threadOnly_exec (s := s) h
    rw [hb, threadWord_hix hi.who hx]
  · intro s g r gr q gr1 k hb ha hg s0 u w major hr hn hd
    have hlow := undefReason_lowest (s := u) (gr := gr) hd
    obtain ⟨h1, h2, h3, h4⟩ := hlow
    refine ⟨u.undefReason gr q.word k, ?_, h1, h2, h3, h4, fun hk => ?_, fun hk => ?_⟩
    · rw [Steps.step_inside hb ha rfl, Steps.perform1_issue]
      exact congrArg (fun o => Machine.after (taken s0 (.issue g) o)) ((Steps.issue_performs (s := s0) hg hr hn).trans (Steps.perform_error hd))
    all_goals subst hk
    · exact undefReason_alone
    · exact undefReason_hix
  · intro s t r th c f p k hb ha s0 hf w hd
    rw [Steps.step_inside hb ha rfl, Steps.perform1_fetch, Steps.fetch_performs hf]
    exact congrArg (fun o => Machine.after (taken s0 (.fetch t) o)) (Steps.performThread_error hd)

/-! CLAIM_CHECK in a full directory (R116), where the table of tags holds a line's key twice over or out of order: the statement
takes the line to have no tag, while giving up another line's tag brings an old one of the line to light. -/
namespace Sys2Proof.Claims.Tags
open Sys2Proof.Machine
-- One proof at a time: the text is compiled as one file, whose memory parallel elaboration would exceed.
set_option Elab.async false

/-- A tag of line 0 that has lost a read (OVF), hidden behind line 1's. -/
def lostRead : Claim := { Claim.free with ovf := true }
def hiddenTags (n : Nat) : Tab Claim := (1, Claim.free) :: List.replicate n (0, lostRead)

/-- A plain read of line 0 that waits at its home. -/
def homeRead : Access :=
  { op := 0, uid := 0, gidx := 0, group := noGroup, gid := 0, ctx := 0, core := 0, crew := 0, kind := 0, handle := 0, rights := 0
    sector := 0, pieces := [], write := false, isAtom := false, plain := true, tag := none, stage := .toHome, flats := [0], res := []
    urgent := false, upgraded := false, ser := 0, watch := false, replays := 0, cpol := 0, strong := false }

def fullDirectory (n : Nat) : Machine.State := { State.reset with claims := hiddenTags n, accs := [(0, homeRead)] }

variable {n : Nat}

theorem hidden_here : ((hiddenTags n).filter fun x => directoryOf x.1 == some 0) = hiddenTags n :=
  List.filter_eq_self.2 fun x hx => by
    rcases List.mem_cons.1 hx with rfl | hx
    · rfl
    · rw [List.eq_of_mem_replicate hx]
      rfl

theorem evictTag_of_find {s : Machine.State} {d : Nat} {x : Nat × Claim}
    (h : (s.claims.filter fun x => directoryOf x.1 == some d).find? (fun x => (s.claimants x.2).isEmpty && (s.ownersOn x.1).isEmpty) = some x) :
    s.evictTag d = some x := by
  simp only [State.evictTag, h]

/-- Line 1 has no claim, so its tag is given up first. -/
theorem evicts_first : (fullDirectory n).evictTag 0 = some (1, Claim.free) :=
  evictTag_of_find ((congrArg (List.find? _) hidden_here).trans rfl)

/-- The state that the statement names: line 1's tag gone, and nothing lost. -/
def evicted (n : Nat) : Machine.State := { fullDirectory n with claims := List.replicate n (0, lostRead) }

theorem hidden_tagged (hn : directorySize 0 ≤ n) : Tagged (fullDirectory n) 0 (evicted n) Claim.free := by
  refine .inr ⟨rfl, rfl, .inr (.inr ⟨0, 1, Claim.free, rfl, ?_, evicts_first, rfl⟩)⟩
  show _ ≤ ((hiddenTags n).filter fun x => directoryOf x.1 == some 0).length
  rw [hidden_here, hiddenTags, List.length_cons, List.length_replicate]
  exact Nat.le_succ_of_le hn

theorem allocTag_evicts (hn : directorySize 0 ≤ n) : (fullDirectory n).allocTag 0 = evicted n := by
  have hl : ¬ ((fullDirectory n).claims.filter fun x => directoryOf x.1 == some 0).length < directorySize 0 := by
    show ¬ ((hiddenTags n).filter _).length < _
    rw [hidden_here, hiddenTags, List.length_cons, List.length_replicate]
    omega
  have hd : tget (fullDirectory n).claims 0 = none := rfl
  have h0 : directoryOf 0 = some 0 := rfl
  simp only [State.allocTag, hd, h0, if_neg hl, evicts_first]
  rfl

/-- CLAIM_CHECK finds the hidden tag. -/
theorem claimCheck_finds (hn : directorySize 0 ≤ n) : ∃ t, exec (.claimCheck 0) (fullDirectory n) = .next t ∧
    (tget t.claims 0).map (·.ovf) = some true := by
  obtain ⟨m, rfl⟩ : ∃ m, n = m + 1 := ⟨n - 1, by have : directorySize 0 = 1048576 := rfl; omega⟩
  refine ⟨(fullDirectory (m + 1)).claimAccess 0 homeRead homeRead.otherGroup fun s =>
    s.performAccess 0 homeRead (s.opKind homeRead.op) false, rfl, ?_⟩
  have ha : (fullDirectory (m + 1)).allocTag (homeRead.flats.headD 0 / 64) = evicted (m + 1) := allocTag_evicts hn
  simp only [State.claimAccess, ha]
  rfl

end Sys2Proof.Claims.Tags

open Sys2Proof Sys2Proof.Machine Sys2Proof.Claims Sys2Proof.Claims.Tags in
/-- Refutes O38: where line 1's tag is given up in a full directory, CLAIM_CHECK reads the tag of line 0 that then comes to light,
whose OVF stays, and not the free one that the statement takes. -/
theorem not_claimSteps : ¬ Obligations.ClaimSteps := by
  intro h
  have hn : directorySize 0 ≤ 1048576 := Nat.le_refl _
  obtain ⟨t, ht, hovf⟩ := claimCheck_finds hn
  have hfree : ∀ x, ¬ OfOther (fullDirectory 1048576) homeRead x := fun x hx => by
    obtain ⟨y, hy, -⟩ := hx
    cases hy
  have hrec : Records (fullDirectory 1048576) homeRead Claim.free { Claim.free with rd0 := (0, 0) } false := by
    have hnone : ∀ x : Nat × Nat, (fullDirectory 1048576).holder x = none := fun _ => rfl
    have hown : ∀ x, ¬ OfOwn (fullDirectory 1048576) homeRead x := fun x hx => by
      obtain ⟨y, hy, -⟩ := hx
      cases hy
    exact ⟨fun hw => (nomatch hw), fun _ ho => absurd ho (by simp [hown]), fun _ _ _ => ⟨rfl, rfl⟩, fun _ _ h0 => absurd (hnone _) h0,
      fun _ _ h0 => absurd (hnone _) h0⟩
  have hperf := ((h (fullDirectory 1048576)).1 0 homeRead _ _ rfl rfl rfl (hidden_tagged hn)).2.2.2 (hfree _) (fun hw => (nomatch hw)) _ _ hrec
  rw [ht] at hperf
  rw [Host.Outcome.next.inj hperf] at hovf
  exact absurd hovf (by decide)

/-! PORT_ACCESS (R89 to R92, R189, R215, R320 to R324): the port judges every piece, and what it lets through performs at its home. -/
namespace Sys2Proof.Claims.Ports
open Sys2Proof.Machine
-- One proof at a time: the text is compiled as one file, whose memory parallel elaboration would exceed.
set_option Elab.async false

section
variable {s t : Machine.State} {a : Access} {e : Entry} {flat : Piece → Nat} {n : Nat}

/-! ### Runs of bytes written at their homes -/

theorem mget_runs_other (ws : List (Nat × List Byte)) {x : Nat} (h : ∀ w ∈ ws, x < w.1 ∨ w.1 + w.2.length ≤ x) :
    ∀ {m : List Host.Cell}, memWf m = true → mget (ws.foldl (fun m w => mputs m w.1 w.2) m) x = mget m x := by
  induction ws with
  | nil => exact fun _ => rfl
  | cons w ws ih =>
    intro m hm
    rw [List.forall_mem_cons] at h
    rw [List.foldl_cons, ih h.2 (memWf_mputs _ _ hm), mget_mputs_other _ _ hm h.1]

theorem dropRuns_eq (k : Nat) (ws : List (Nat × List Byte)) : ∀ s : Machine.State, ∃ r, s.dropRuns k ws = { s with rcache := r } := by
  induction ws with
  | nil => exact fun s => ⟨s.rcache, rfl⟩
  | cons w ws ih =>
    intro s
    obtain ⟨r, hr⟩ := ih ((s.dropSector k (sectorOf w.1)).dropSector k (sectorOf (w.1 + w.2.length - 1)))
    exact ⟨r, hr⟩

theorem logOuts_toDev (c : Nat) (ws : List (Nat × List Byte)) : ∀ s : Machine.State,
    (ws.foldl (fun s x => s.logOut c x.1 x.2.length) s).toDev = s.toDev := by
  induction ws with
  | nil => exact fun _ => rfl
  | cons w ws ih => exact fun s => (ih _).trans (logOut_toDev _ _ _ _)

/-- A write of runs leaves the device as it was but for memory, tags, registrations met and cached copies. -/
theorem runsWrite_toDev (s : Machine.State) (c k : Nat) (ws : List (Nat × List Byte)) :
    ∃ r, (s.runsWrite c k ws).toDev = (State.memPuts { s with rcache := r } ws).toDev := by
  obtain ⟨r, hr⟩ := dropRuns_eq k ws s
  exact ⟨r, by rw [State.runsWrite, logOuts_toDev, hr]⟩

theorem reeval_met (gr : Machine.Group) (m : List Host.Cell) (ws : List (Nat × List Byte)) :
    gr.reeval m ws = { gr with met := (gr.reeval m ws).met } := by
  unfold Machine.Group.reeval
  split <;> rfl

/-- A write of an access's pieces, or of what an atomic leaves: groups are kept, and no other byte changes. -/
theorem runsWrite_kept (s : Machine.State) (c k : Nat) (ws : List (Nat × List Byte)) (hm : memWf s.mem = true) :
    GroupsKept s (s.runsWrite c k ws) ∧ (s.runsWrite c k ws).accs = s.accs ∧
    (∀ x, (∀ w ∈ ws, x < w.1 ∨ w.1 + w.2.length ≤ x) → mget (s.runsWrite c k ws).mem x = mget s.mem x) ∧
    (∀ f v m, ws = [(f, leBytes v m)] → mnat (s.runsWrite c k ws).mem f m = v % 256 ^ m) := by
  obtain ⟨r, hr⟩ := runsWrite_toDev s c k ws
  have hmem : (s.runsWrite c k ws).mem = ws.foldl (fun m w => mputs m w.1 w.2) s.mem := congrArg Dev.mem hr
  refine ⟨fun g x hx => ?_, (congrArg Dev.accs hr).trans rfl, fun x hx => ?_, fun f v m hw => ?_⟩
  · refine ⟨x.reeval (ws.foldl (fun m w => mputs m w.1 w.2) s.mem) ws, ?_, reeval_met x _ ws⟩
    have hg : (s.runsWrite c k ws).groups = tmap s.groups fun _ gr => gr.reeval (ws.foldl (fun m w => mputs m w.1 w.2) s.mem) ws := congrArg Dev.groups hr
    rw [State.group?, hg, tget_tmap, show tget s.groups g = some x from hx]
    rfl
  · rw [hmem, mget_runs_other ws hx hm]
  · rw [hmem, hw]
    exact mnat_mputs f v m hm

theorem writePieces_kept (s : Machine.State) (a : Access) (pf : List (Piece × Nat)) :
    ∃ ts, s.writePieces a pf = { s.runsWrite a.ctx a.core (storeRuns pf) with tags := ts } := by
  unfold State.writePieces
  split
  · split
    · exact ⟨_, rfl⟩
    · exact ⟨_, rfl⟩
  all_goals exact ⟨_, rfl⟩

/-! ### The port lets an access through -/

theorem portFails_of_at {p : Piece} {f : Nat} (h : judge s.mem (some e) a.kind a.rights p.off p.size = .at_ f) :
    portFails s.mem (some e) a.kind a.rights p.off p.size = [] := by
  unfold judge at h
  split at h
  next hp _ => exact hp
  next => cases h

theorem portAccess_stops (hp : a.pieces ≠ []) (he : s.portEntry (portOf a.core) a.ctx a.handle a.kind a.rights a.span.1 a.span.2 = (s, none)) :
    s.portAccess n a = .next (s.refuse n a (denialCode [1]) 1 1) := by
  obtain ⟨p, ps, hps⟩ := List.exists_cons_of_ne_nil hp
  simp only [State.portAccess, hps, he]

theorem portAccess_allows (hp : a.pieces ≠ []) (he : s.portEntry (portOf a.core) a.ctx a.handle a.kind a.rights a.span.1 a.span.2 = (s, some e))
    (hf : ∀ p ∈ a.pieces, portFails s.mem (some e) a.kind a.rights p.off p.size = []) : s.portAccess n a = s.portAllowed n a e := by
  have hb : (a.pieces.filter fun p => !(portFails s.mem (some e) a.kind a.rights p.off p.size).isEmpty).isEmpty = true := by
    rw [List.isEmpty_iff, List.filter_eq_nil_iff]
    exact fun p hp => by simp [hf p hp]
  obtain ⟨p, ps, hps⟩ := List.exists_cons_of_ne_nil hp
  rw [hps] at hb
  simp only [State.portAccess, hps, he, hb, if_true]

theorem portAccess_denies (hp : a.pieces ≠ []) (he : s.portEntry (portOf a.core) a.ctx a.handle a.kind a.rights a.span.1 a.span.2 = (s, some e))
    (hf : ∀ p ∈ a.pieces, portFails s.mem (some e) a.kind a.rights p.off p.size ≠ []) :
    s.portAccess n a = .next (s.modAcc n fun x => { x with stage := .answered, res := a.pieces.map (denialOf s.mem a e) }) := by
  obtain ⟨p, ps, hps⟩ := List.exists_cons_of_ne_nil hp
  have hb : ((p :: ps).filter fun p => !(portFails s.mem (some e) a.kind a.rights p.off p.size).isEmpty).isEmpty = false := by
    rw [Bool.eq_false_iff, ne_eq, List.isEmpty_iff, List.filter_eq_nil_iff]
    exact fun h => h p List.mem_cons_self (by simp [hf p (hps ▸ List.mem_cons_self)])
  have hk : ((p :: ps).filter fun p => (portFails s.mem (some e) a.kind a.rights p.off p.size).isEmpty).isEmpty = true := by
    rw [List.isEmpty_iff, List.filter_eq_nil_iff]
    exact fun q hq => by simp [hf q (hps ▸ hq)]
  simp only [State.portAccess, hps, he, hb, hk, if_true, Bool.false_eq_true, if_false]

theorem unwatched (hw : ∀ p ∈ a.pieces, s.watchHits a.ctx a.handle p.off p.size a.write = []) :
    (a.pieces.all fun p => (s.watchHits a.ctx a.handle p.off p.size a.write).isEmpty) = true :=
  List.all_eq_true.2 fun p hp => by rw [hw p hp]; rfl

theorem portAllowed_parks {p : Piece} {r : List Piece} {pme : Nat} (hp : a.pieces = p :: r)
    (hw : ∀ p ∈ a.pieces, s.watchHits a.ctx a.handle p.off p.size a.write = [])
    (hj : judge s.mem (some e) a.kind a.rights p.off p.size = .elsewhere pme) : s.portAllowed n a e = .next (s.parkAccess n pme) := by
  have h0 : (a.pieces.map fun p => judge s.mem (some e) a.kind a.rights p.off p.size).headD (.denied [1]) = .elsewhere pme := by
    rw [hp]
    exact hj
  simp only [State.portAllowed, unwatched hw, if_true, h0]

/-- The access with its flat addresses, and the state that has it so. -/
def placed (a : Access) (flat : Piece → Nat) : Access := { a with flats := a.pieces.map flat }
def placedAt (s : Machine.State) (n : Nat) (a : Access) (flat : Piece → Nat) : Machine.State :=
  s.modAcc n fun x => { x with flats := a.pieces.map flat }

theorem portAllowed_goes (hl : Lets s a e flat) : s.portAllowed n a e = .next ((placedAt s n a flat).atHome n (placed a flat) e) := by
  have hmap : (a.pieces.map fun p => judge s.mem (some e) a.kind a.rights p.off p.size) = a.pieces.map fun p => .at_ (flat p) :=
    List.map_congr_left hl.places
  obtain ⟨p, ps, hps⟩ := List.exists_cons_of_ne_nil hl.some_
  have h0 : (a.pieces.map fun p => Place.at_ (flat p)).headD (.denied [1]) = .at_ (flat p) := by rw [hps]; rfl
  have hf : ∀ g : Place → Nat, (∀ f, g (.at_ f) = f) → ((a.pieces.map fun p => Place.at_ (flat p)).map g) = a.pieces.map flat :=
    fun g hg => (List.map_map ..).trans (List.map_congr_left fun p _ => hg (flat p))
  simp only [State.portAllowed, unwatched hl.quiet, if_true, hmap, h0, hl.goes]
  rw [hf _ fun _ => rfl, hl.host, hl.peer]
  rfl

theorem portAccess_goes (hl : Lets s a e flat) : s.portAccess n a = .next ((placedAt s n a flat).atHome n (placed a flat) e) :=
  (portAccess_allows hl.some_ hl.entry fun p hp => portFails_of_at (hl.places p hp)).trans (portAllowed_goes hl)

/-- At its home it performs, where it is no arrival and no registration. -/
theorem atHome_performs (hl : Lets s a e flat) (h1 : ∀ c w k, s.opKind a.op ≠ .arrive c w k) (h2 : ∀ x v k, s.opKind a.op ≠ .register x v k) :
    ∃ c, (placedAt s n a flat).atHome n (placed a flat) e = (placedAt s n a flat).performAccess n (placed a flat) (s.opKind a.op) c := by
  have hbank : (placedAt s n a flat).heldBank ((placed a flat).flats.headD 0) = none := hl.bank
  have halone : (placedAt s n a flat).serialLaunch (placed a flat).crew = none := hl.alone
  have hfree : (e.racechk && (placed a flat).plain) = false := hl.free
  have hk : (placedAt s n a flat).opKind (placed a flat).op = s.opKind a.op := rfl
  refine ⟨(pagedKind a.kind || a.kind == 4 || a.kind == 5) && !e.racechk && (none : Option (Crew × Machine.Launch)).isNone, ?_⟩
  simp only [State.atHome, hbank, hk, State.atHome.go, halone, hfree]
  split
  next h => exact absurd h (h1 _ _ _)
  next h => exact absurd h (h2 _ _ _)
  all_goals rfl

theorem portAccess_performs (hd : s.portDue n a = true) (hg : s.givesWay a = false) (ha : tget s.accs n = some a) (hj : s.judgeBank a = none) :
    exec (.portAccess n) s = s.portAccess n a := by
  show execPortAccess n s = _
  simp only [execPortAccess, ha, hd, hg, hj]
  rfl

/-! ### What the access leaves -/

theorem answered_modAcc (ha : ∃ y, tget t.accs n = some y) (res : List PieceRes) :
    Answered (t.modAcc n fun x => { x with stage := .answered, res := res }) n res := by
  obtain ⟨y, hy⟩ := ha
  refine ⟨{ y with stage := .answered, res := res }, ?_, rfl, rfl⟩
  exact (tget_tmod_same _ _ _).trans (by rw [hy]; rfl)

theorem placedAt_here (ha : tget s.accs n = some a) : tget (placedAt s n a flat).accs n = some (placed a flat) :=
  (tget_tmod_same _ _ _).trans (by rw [ha]; rfl)

theorem zip_placed : (placed a flat).pieces.zip (placed a flat).flats = a.pieces.map fun p => (p, flat p) := by
  have h := List.zip_map' (f := fun p => p) (g := flat) (l := a.pieces)
  rwa [List.map_id'] at h

/-- A store writes its pieces. -/
theorem store_performs (ha : tget s.accs n = some a) (hm : memWf s.mem = true) (hw : a.write = true) {kind : OpKind} (hk : kind.atomOp = none)
    (c : Bool) : ∀ {t}, (placedAt s n a flat).performAccess n (placed a flat) kind c = t →
      (∀ x, (∀ p ∈ a.pieces, x < flat p ∨ flat p + p.size ≤ x) → mget t.mem x = mget s.mem x) ∧
      (∀ p, a.pieces = [p] → mnat t.mem (flat p) p.size = p.value % 256 ^ p.size) ∧
      GroupsKept s t ∧ Answered t n (a.pieces.map fun _ => .value 0 false) := by
  have hruns : storeRuns (a.pieces.map fun p => (p, flat p)) = a.pieces.map fun p => (flat p, leBytes p.value p.size) := by
    rw [storeRuns, List.map_map]
    rfl
  obtain ⟨ts, hp⟩ := writePieces_kept (placedAt s n a flat) (placed a flat) (a.pieces.map fun p => (p, flat p))
  obtain ⟨hg, hacc, hother, hsame⟩ := runsWrite_kept (placedAt s n a flat) a.ctx a.core (storeRuns (a.pieces.map fun p => (p, flat p))) hm
  have hw' : (placed a flat).write = true := hw
  rintro t rfl
  simp only [State.performAccess, hk, zip_placed, hw', if_true, hp]
  refine ⟨fun x hx => hother x ?_, fun p h1 => hsame _ _ _ (by rw [hruns, h1]; rfl), hg, answered_modAcc ⟨placed a flat, ?_⟩ _⟩
  · rw [hruns]
    intro w hw
    obtain ⟨p, hp, rfl⟩ := List.mem_map.1 hw
    rw [length_leBytes]
    exact hx p hp
  · exact (congrArg (fun t => tget t n) hacc).trans (placedAt_here ha)

theorem readAccess_home (pf : List (Piece × Nat)) (c : Bool) (hc : s.cachedSector a.core a.ctx (sectorOf (a.flats.headD 0)) = none) :
    ∃ fill, s.readAccess a pf c = (s.renewSector a.core a.ctx (sectorOf (a.flats.headD 0)) fill, pf.map fun x => readPiece s none x.2 x.1.size) := by
  simp only [State.readAccess, hc]
  split
  next h => cases h
  next => exact ⟨_, rfl⟩

/-- A read that no cached copy serves gives what stands at its home. -/
theorem load_performs (ha : tget s.accs n = some a) (hw : a.write = false) {kind : OpKind} (hk : kind.atomOp = none)
    (hc : s.cachedSector a.core a.ctx (sectorOf ((a.pieces.map flat).headD 0)) = none) (c : Bool) :
    ∀ {t}, (placedAt s n a flat).performAccess n (placed a flat) kind c = t → t.mem = s.mem ∧ t.tags = s.tags ∧ t.groups = s.groups ∧
      Answered t n (a.pieces.map fun p => .value (mnat s.mem (flat p) p.size) (p.size == 16 && tagAt s.tags (flat p / 16))) := by
  have hw' : (placed a flat).write = false := hw
  have hc' : (placedAt s n a flat).cachedSector (placed a flat).core (placed a flat).ctx (sectorOf ((placed a flat).flats.headD 0)) = none := hc
  obtain ⟨fill, hr⟩ := readAccess_home (a.pieces.map fun p => (p, flat p)) (c && kind.caches) hc'
  rintro t rfl
  simp only [State.performAccess, hk, zip_placed, hw', hr, Bool.false_eq_true, if_false, List.map_map]
  refine ⟨rfl, rfl, rfl, answered_modAcc ⟨placed a flat, ?_⟩ _⟩
  exact placedAt_here ha

/-- An atomic of one piece gives the old value and leaves the new one. -/
theorem atom_performs (ha : tget s.accs n = some a) (hm : memWf s.mem = true) {p : Piece} (hp : a.pieces = [p]) {kind : OpKind} {op : AtomOp}
    (hk : kind.atomOp = some op) (c : Bool) : ∀ {t}, (placedAt s n a flat).performAccess n (placed a flat) kind c = t →
      (∀ x, (x < flat p ∨ flat p + p.size ≤ x) → mget t.mem x = mget s.mem x) ∧
      mnat t.mem (flat p) p.size = atomVal op (8 * p.size) (mnat s.mem (flat p) p.size) p.value p.value2 % 256 ^ p.size ∧
      Answered t n [.value (mnat s.mem (flat p) p.size) false] ∧ GroupsKept s t := by
  obtain ⟨hg, hacc, hother, hsame⟩ := runsWrite_kept (placedAt s n a flat) a.ctx a.core
    [(flat p, leBytes (atomVal op (8 * p.size) (mnat s.mem (flat p) p.size) p.value p.value2) p.size)] hm
  rintro t rfl
  simp only [State.performAccess, hk, zip_placed, hp, List.map_cons, List.map_nil, atomRun, List.find?_nil, List.filter_nil]
  refine ⟨fun x hx => hother x ?_, hsame _ _ _ rfl, answered_modAcc ⟨placed a flat, (congrArg (fun t => tget t n) hacc).trans (placedAt_here ha)⟩ _, hg⟩
  rw [List.forall_mem_singleton, length_leBytes]
  exact hx

end
end Sys2Proof.Claims.Ports

open Sys2Proof Sys2Proof.Claims Sys2Proof.Claims.Ports

/-- Settles O37: the port judges every piece; what it lets through performs at its home, by the kind of its word. -/
theorem portAccessStep : Obligations.PortAccessStep := by
  intro n s a ha hd hg hm hj i
  have he : Machine.exec i s = s.portAccess n a := portAccess_performs hd hg ha hj
  rw [he]
  refine ⟨fun e flat hl => ?_, fun hp hn => ?_, fun e hp hn => ⟨fun hf => ?_, fun p r pme hps hf hw hj => ?_⟩⟩
  · rw [portAccess_goes hl]
    refine ⟨fun hk hw => ?_, fun hk h1 h2 hw hc => ?_, fun size op vd ret p hk hp => ?_⟩
    · obtain ⟨c, hc⟩ := atHome_performs (n := n) hl (by simp [hk]) (by simp [hk])
      exact ⟨_, congrArg _ hc, store_performs (flat := flat) ha hm hw (kind := s.opKind a.op) (by rw [hk]; rfl) c rfl⟩
    · obtain ⟨c, hc'⟩ := atHome_performs (n := n) hl h1 h2
      exact ⟨_, congrArg _ hc', load_performs (flat := flat) ha hw hk hc c rfl⟩
    · obtain ⟨c, hc⟩ := atHome_performs (n := n) hl (by simp [hk]) (by simp [hk])
      obtain ⟨h1, h2, h3, h4⟩ := atom_performs (flat := flat) ha hm hp (kind := s.opKind a.op) (op := op) (by rw [hk]; rfl) c rfl
      exact ⟨_, congrArg _ hc, h1, ⟨h2, h3⟩, h4⟩
  · exact ⟨_, portAccess_stops hp hn, rfl, rfl, answered_modAcc ⟨a, ha⟩ _⟩
  · exact ⟨_, portAccess_denies hp hn hf, rfl, rfl, answered_modAcc ⟨a, ha⟩ _⟩
  · exact (portAccess_allows hp hn hf).trans (portAllowed_parks hps hw hj)

/-! BARRIER_ARRIVAL (R107 to R109, R330). -/
namespace Sys2Proof.Claims.Arrivals
open Sys2Proof.Machine Sys2Proof.Claims.Ports Sys2Proof.Claims.Votes
-- One proof at a time: the text is compiled as one file, whose memory parallel elaboration would exceed.
set_option Elab.async false

section
variable {s t : Machine.State} {a : Access} {n count scope : Nat} {waits : Bool}

/-! ### The numbers of a barrier word (R107) -/

theorem leNat_lt : ∀ bs : List Byte, leNat bs < 256 ^ bs.length
  | [] => Nat.one_pos
  | b :: bs => by
    have h := leNat_lt bs
    have hb : b.toNat < 256 := b.isLt
    rw [leNat, List.length_cons, Nat.pow_succ]
    omega

theorem mnat_lt (m : List Host.Cell) (f k : Nat) : mnat m f k < 256 ^ k := by
  have h := leNat_lt (mgets m f k)
  rwa [length_mgets] at h

/-- The phase of the word once it has flipped, with ARRIVED cleared. -/
theorem flipped_phase (w : Nat) : (((w - fld w 27 0) ^^^ 2 ^ 56) / 2 ^ 56 % 2 = 1) ↔ ¬ (w / 2 ^ 56 % 2 = 1) := by
  have hbit : ∀ x : Nat, (x / 2 ^ 56 % 2 = 1) ↔ x.testBit 56 = true := fun x => by rw [Nat.testBit_eq_decide_div_mod_eq, decide_eq_true_iff]
  have hsame : (w - fld w 27 0) / 2 ^ 56 = w / 2 ^ 56 := by
    unfold fld
    omega
  rw [hbit, Nat.testBit_xor, ← hsame, hbit, Nat.testBit_two_pow_self]
  cases (w - fld w 27 0).testBit 56 <;> decide

theorem flipped_holds {m : List Host.Cell} {f w k : Nat} (hm : mnat m f 8 = (w - fld w 27 0) ^^^ 2 ^ 56) :
    waitHolds m (.phase f (decide (w / 2 ^ 56 % 2 = 1)) k) = true := by
  have h := flipped_phase w
  rw [waitHolds, hm, bne_iff_ne, fld]
  by_cases hw : w / 2 ^ 56 % 2 = 1
  · rw [decide_eq_true hw]
    exact fun h1 => h.1 h1 hw
  · rw [decide_eq_false hw]
    intro h0
    have h1 : ((w - fld w 27 0) ^^^ 2 ^ 56) / 2 ^ 56 % 2 = 0 := h0
    have h2 := h.2 hw
    omega

/-! ### What an arrival does to the word (R108) -/

theorem arrival_refuses {w : Nat} (h0 : count ≠ 0) (h : fld w 63 58 ≠ 0 ∨ fld w 55 28 < fld w 27 0 + count) :
    arrival w count = .refused (w ||| 2 ^ 57) := by simp [arrival, h0, h]

theorem arrival_flips {w : Nat} (h0 : count ≠ 0) (hz : fld w 63 58 = 0) (h : fld w 27 0 + count = fld w 55 28) :
    arrival w count = .applied ((w - fld w 27 0) ^^^ 2 ^ 56) true := by simp [arrival, h0, hz, h]

theorem arrival_adds {w : Nat} (h0 : count ≠ 0) (hz : fld w 63 58 = 0) (h : fld w 27 0 + count < fld w 55 28) :
    arrival w count = .applied (w + count) false := by
  have h1 : ¬ fld w 55 28 < fld w 27 0 + count := by omega
  have h2 : fld w 27 0 + count ≠ fld w 55 28 := by omega
  simp [arrival, h0, hz, h1, h2]

/-- The arrivals but that of count 0, which applies nothing. -/
theorem arrival_cases (w count : Nat) : (fld w 63 58 ≠ 0 ∨ fld w 55 28 < fld w 27 0 + count) ∨
    (fld w 63 58 = 0 ∧ fld w 27 0 + count = fld w 55 28) ∨ (fld w 63 58 = 0 ∧ fld w 27 0 + count < fld w 55 28) := by
  omega

/-! ### The states of an arrival -/

/-- The group's release point has passed; the word's answers are in; the group waits on the phase that the word had. -/
def opened (s : Machine.State) (a : Access) : Machine.State := if a.group = noGroup then s else s.release a.group
def replied (u : Machine.State) (n : Nat) (a : Access) (w : Nat) : Machine.State :=
  u.modAcc n fun x => { x with stage := .answered, res := a.pieces.map fun _ => .value w false }
def standing (u : Machine.State) (a : Access) (w : Nat) (waits : Bool) (scope : Nat) : Machine.State :=
  if waits then u.modGroup a.group fun gr => { gr with wait := .phase (a.flats.headD 0) (w / 2 ^ 56 % 2 == 1) scope, met := false } else u

theorem arrive_nothing : s.arrive n a 0 waits scope =
    replied (standing (opened s a) a (mnat s.mem (a.flats.headD 0) 8) waits scope) n a (mnat s.mem (a.flats.headD 0) 8) := rfl

theorem arrive_refused {v : Nat} (h : arrival (mnat s.mem (a.flats.headD 0) 8) count = .refused v) :
    s.arrive n a count waits scope = ((opened s a).memWrite (a.flats.headD 0) (leBytes v 8)).refuse n a 12 2 (dw v) := by
  simp only [State.arrive, h]
  rfl

theorem arrive_adds {v : Nat} (h : arrival (mnat s.mem (a.flats.headD 0) 8) count = .applied v false) :
    s.arrive n a count waits scope = replied (standing ((opened s a).memWrite (a.flats.headD 0) (leBytes v 8)) a
      (mnat s.mem (a.flats.headD 0) 8) waits scope) n a (mnat s.mem (a.flats.headD 0) 8) := by
  simp only [State.arrive, h]
  rfl

theorem arrive_flips {v : Nat} (h : arrival (mnat s.mem (a.flats.headD 0) 8) count = .applied v true) :
    ∃ r, s.arrive n a count waits scope = replied (State.memWrite { opened s a with rcache := r } (a.flats.headD 0) (leBytes v 8)) n a
      (mnat s.mem (a.flats.headD 0) 8) := by
  simp only [State.arrive, h, if_true]
  by_cases hw : (waits && decide (2 ≤ scope)) = true
  · rw [if_pos hw]
    exact ⟨_, rfl⟩
  · rw [if_neg hw]
    exact ⟨(opened s a).rcache, rfl⟩

theorem opened_rest : (opened s a).mem = s.mem ∧ (opened s a).accs = s.accs := by
  unfold opened
  split
  · exact ⟨rfl, rfl⟩
  · exact ⟨State.release_mem _ _, State.release_accs _ _⟩

theorem opened_slotCtr (h : a.group ≠ noGroup) : tget (opened s a).slotCtr a.group = some ((tget s.slotCtr a.group).getD 0 + 1) := by
  rw [opened, if_neg h]
  exact tget_tset_same ..

/-- A group keeps what it had but its id, which names the new region. -/
theorem opened_group {g : Nat} {x : Machine.Group} (h : s.group? g = some x) : ∃ i, (opened s a).group? g = some { x with gid := i } := by
  unfold opened
  split
  · exact ⟨x.gid, h⟩
  · have hl : (s.lapse a.group).groups = s.groups := by rw [State.lapse_eq]
    have hr : (s.release a.group).group? g = tget (tmod (s.lapse a.group).groups a.group _) g := rfl
    rw [hr, hl, tget_tmod, show tget s.groups g = some x from h]
    by_cases hg : g = a.group
    · subst hg
      rw [if_pos rfl]
      exact ⟨gidOf a.group ((tget s.slotCtr a.group).getD 0 + 1), congrArg (Option.map _) h⟩
    · rw [if_neg hg]
      exact ⟨x.gid, rfl⟩

/-- The word is written, and nothing else. -/
theorem written (u : Machine.State) (f v : Nat) (hu : u.mem = s.mem) (hm : memWf s.mem = true) :
    (∀ x, (x < f ∨ f + 8 ≤ x) → mget (u.memWrite f (leBytes v 8)).mem x = mget s.mem x) ∧
    mnat (u.memWrite f (leBytes v 8)).mem f 8 = v % 256 ^ 8 := by
  refine ⟨fun x hx => ?_, ?_⟩
  · rw [mget_memWrite_other u f (leBytes v 8) (hu.symm ▸ hm) (by rwa [length_leBytes]), hu]
  · exact mnat_mputs f v 8 (hu.symm ▸ hm)

/-! ### What an arrival leaves -/

theorem standing_rest (u : Machine.State) (w : Nat) : (standing u a w waits scope).mem = u.mem ∧
    (standing u a w waits scope).accs = u.accs ∧ (standing u a w waits scope).slotCtr = u.slotCtr := by
  unfold standing
  split <;> exact ⟨rfl, rfl, rfl⟩

theorem replied_answered {u : Machine.State} (w : Nat) (ha : tget s.accs n = some a) (hu : u.accs = s.accs) :
    Answered (replied u n a w) n (a.pieces.map fun _ => .value w false) := answered_modAcc ⟨a, hu ▸ ha⟩ _

theorem arrive_other (hm : memWf s.mem = true) {x : Nat} (hx : x < a.flats.headD 0 ∨ a.flats.headD 0 + 8 ≤ x) :
    mget (s.arrive n a count waits scope).mem x = mget s.mem x := by
  have ho := (opened_rest (s := s) (a := a)).1
  by_cases h0 : count = 0
  · subst h0
    exact congrArg (mget · x) ((standing_rest _ _).1.trans ho)
  · rcases arrival_cases (mnat s.mem (a.flats.headD 0) 8) count with h | ⟨hz, h⟩ | ⟨hz, h⟩
    · rw [arrive_refused (arrival_refuses h0 h)]
      exact (written _ _ _ ho hm).1 x hx
    · obtain ⟨r, hr⟩ := arrive_flips (s := s) (n := n) (waits := waits) (scope := scope) (arrival_flips h0 hz h)
      rw [hr]
      exact (written { opened s a with rcache := r } _ _ ho hm).1 x hx
    · rw [arrive_adds (arrival_adds h0 hz h)]
      exact (congrArg (mget · x) (standing_rest _ _).1).trans ((written _ _ _ ho hm).1 x hx)

theorem arrive_slotCtr (hg : a.group ≠ noGroup) :
    tget (s.arrive n a count waits scope).slotCtr a.group = some ((tget s.slotCtr a.group).getD 0 + 1) := by
  have ho := opened_slotCtr (s := s) hg
  by_cases h0 : count = 0
  · subst h0
    exact (congrArg (tget · a.group) (standing_rest _ _).2.2).trans ho
  · rcases arrival_cases (mnat s.mem (a.flats.headD 0) 8) count with h | ⟨hz, h⟩ | ⟨hz, h⟩
    · rw [arrive_refused (arrival_refuses h0 h)]
      exact ho
    · obtain ⟨r, hr⟩ := arrive_flips (s := s) (n := n) (waits := waits) (scope := scope) (arrival_flips h0 hz h)
      rw [hr]
      exact ho
    · rw [arrive_adds (arrival_adds h0 hz h)]
      exact (congrArg (tget · a.group) (standing_rest _ _).2.2).trans ho

theorem memWrite_group (u : Machine.State) (f g : Nat) (bs : List Byte) :
    (u.memWrite f bs).group? g = (u.group? g).map fun x => x.reeval (mputs u.mem f bs) [(f, bs)] :=
  tget_tmap u.groups (fun _ x => x.reeval (mputs u.mem f bs) [(f, bs)]) g

/-- A group that waits on the phase that the word had is met by the write that flips it. -/
theorem flips_wakes {u : Machine.State} {g f w k : Nat} {x : Machine.Group} (hm : memWf u.mem = true) (hw : w < 256 ^ 8)
    (hx : u.group? g = some x) (hwait : x.wait = .phase f (decide (w / 2 ^ 56 % 2 = 1)) k) :
    ∃ y, (u.memWrite f (leBytes ((w - fld w 27 0) ^^^ 2 ^ 56) 8)).group? g = some y ∧ y.met = true := by
  refine ⟨x.reeval (mputs u.mem f (leBytes ((w - fld w 27 0) ^^^ 2 ^ 56) 8)) [(f, leBytes ((w - fld w 27 0) ^^^ 2 ^ 56) 8)],
    by rw [memWrite_group, hx]; rfl, ?_⟩
  have hv : (w - fld w 27 0) ^^^ 2 ^ 56 < 2 ^ 64 := Nat.xor_lt_two_pow (by omega) (by decide)
  have hn : mnat (mputs u.mem f (leBytes ((w - fld w 27 0) ^^^ 2 ^ 56) 8)) f 8 = (w - fld w 27 0) ^^^ 2 ^ 56 :=
    (mnat_mputs f _ 8 hm).trans (Nat.mod_eq_of_lt hv)
  have ht : waitTouched x.wait f 8 = true := by
    rw [hwait]
    exact decide_eq_true (by omega)
  have hh : waitHolds (mputs u.mem f (leBytes ((w - fld w 27 0) ^^^ 2 ^ 56) 8)) x.wait = true := hwait ▸ flipped_holds hn
  rw [Machine.Group.reeval, if_pos]
  rw [List.any_cons, length_leBytes, ht, hh]
  rfl

theorem standing_waits {u : Machine.State} {w : Nat} {x : Machine.Group} (hx : u.group? a.group = some x) :
    ∃ y, (standing u a w true scope).group? a.group = some y ∧ y.wait = .phase (a.flats.headD 0) (decide (w / 2 ^ 56 % 2 = 1)) scope ∧
      y.met = false := by
  refine ⟨_, group_modGroup hx _, ?_, rfl⟩
  exact congrArg (fun b => Wait.phase _ b scope) (by rw [Bool.eq_iff_iff, beq_iff_eq, decide_eq_true_iff])

end
end Sys2Proof.Claims.Arrivals

open Sys2Proof Sys2Proof.Claims Sys2Proof.Claims.Arrivals

/-- Settles O40: an arrival by what it does to the word, which is nothing, a refusal, the flip or the sum. -/
theorem barrierArrivalStep : Obligations.BarrierArrivalStep := by
  intro n s a count waits scope ha hd hk hm flat w arrived expected
  have he : Machine.exec (.barrierArrival n) s = .next (s.arrive n a count waits scope) := by
    show Machine.execBarrierArrival n s = _
    simp only [Machine.execBarrierArrival, ha, hd, hk]
  obtain ⟨hmem, hacc⟩ := opened_rest (s := s) (a := a)
  have hw : w < 256 ^ 8 := mnat_lt _ _ _
  refine ⟨_, he, fun x hx => arrive_other hm hx, arrive_slotCtr, fun h0 => ?_, fun h0 hz h => ?_, fun h0 hz h => ?_, fun hwt hc x hx => ?_,
    fun h0 h => ?_⟩
  · subst h0
    obtain ⟨h1, h2, -⟩ := standing_rest (a := a) (waits := waits) (scope := scope) (opened s a) w
    exact ⟨h1.trans hmem, replied_answered w ha (h2.trans hacc)⟩
  · rw [arrive_adds (arrival_adds h0 hz h)]
    obtain ⟨h1, h2, -⟩ := standing_rest (a := a) (waits := waits) (scope := scope)
      ((opened s a).memWrite flat (Machine.leBytes (w + count) 8)) w
    refine ⟨?_, replied_answered w ha (h2.trans hacc)⟩
    have hn := (written (s := s) (opened s a) flat (w + count) hmem hm).2
    rw [Nat.mod_eq_of_lt (by simp only [fld, arrived, expected] at *; omega)] at hn
    exact (congrArg (Machine.mnat · flat 8) h1).trans hn
  · obtain ⟨r, hr⟩ := arrive_flips (s := s) (n := n) (waits := waits) (scope := scope) (arrival_flips h0 hz h)
    rw [hr]
    have hn := (written (s := s) { opened s a with rcache := r } flat ((w - arrived) ^^^ 2 ^ 56) hmem hm).2
    rw [Nat.mod_eq_of_lt (show _ < 256 ^ 8 from Nat.xor_lt_two_pow (n := 64) (by omega) (by decide))] at hn
    refine ⟨hn, replied_answered w ha hacc, fun g x ph k hx hwait hph => ?_⟩
    subst hph
    obtain ⟨i, hi⟩ := opened_group (a := a) hx
    exact flips_wakes (u := { opened s a with rcache := r }) (hmem.symm ▸ hm) hw hi hwait
  · subst hwt
    obtain ⟨i, hi⟩ := opened_group (a := a) hx
    by_cases h0 : count = 0
    · subst h0
      exact standing_waits hi
    · obtain ⟨hz, h⟩ := hc.resolve_left h0
      rw [arrive_adds (arrival_adds h0 hz h)]
      exact standing_waits ((memWrite_group ..).trans (congrArg (Option.map _) hi))
  · rw [arrive_refused (arrival_refuses h0 h)]
    have hn := (written (s := s) (opened s a) flat (w ||| 2 ^ 57) hmem hm).2
    rw [Nat.mod_eq_of_lt (show _ < 256 ^ 8 from Nat.or_lt_two_pow (n := 64) (by omega) (by decide))] at hn
    exact ⟨hn, Ports.answered_modAcc ⟨a, (congrArg (Machine.tget · n) hacc).trans ha⟩ _⟩

/-! What the trace writer leaves alone (R421 to R426): it writes memory, rings, commands of its own and reports, and what a group's
trace has come to. -/
namespace Sys2Proof.Claims.Traces
open Sys2Proof.Machine
-- One proof at a time: the text is compiled as one file, whose memory parallel elaboration would exceed.
set_option Elab.async false

/-- A group but for its trace, and for whether a registration of it is met. -/
def held (gr : Machine.Group) : Machine.Group :=
  { gr with met := false, tSync := false, tLast := 0, tSyncAt := 0, tStation := 0, tPass := 0, tHeld := [] }

/-- A state but for what a write by the device can change (R65, R423). -/
def others (s : Machine.State) : Machine.State :=
  { s with mem := [], tags := [], groups := [], savedCrews := [], outLog := [], outOver := false, msix := [], cmds := [], nextId := 0
           bankQueue := [], rings := [], reports := [] }

/-- Nothing but that, and no group but for its trace, is other than in o. -/
def Traced (o t : Machine.State) : Prop :=
  others t = others o ∧ (∀ g, (t.group? g).map held = (o.group? g).map held) ∧ t.groups.length = o.groups.length

theorem traced_refl (o : Machine.State) : Traced o o := ⟨rfl, fun _ => rfl, rfl⟩

theorem length_tset {α : Type} {t : Tab α} {n : Nat} {a : α} (h : tget t n = some a) (x : α) : (tset t n x).length = t.length := by
  induction t with
  | nil => nomatch h
  | cons p r ih =>
    obtain ⟨k, y⟩ := p
    simp only [tget] at h
    unfold tset
    by_cases hk : k = n
    · rw [if_neg (by omega), if_pos hk]
      rfl
    · rw [if_neg hk] at h
      split at h
      · nomatch h
      next hlt => rw [if_neg hlt, if_neg hk, List.length_cons, ih h, List.length_cons]

theorem length_tmod {α : Type} (t : Tab α) (n : Nat) (f : α → α) : (tmod t n f).length = t.length := by
  unfold tmod
  split
  · rfl
  next h => exact length_tset h _

section
variable {o s : Machine.State} (h : Traced o s)
include h

/-! ### The trace writer's words (R421 to R426) -/

theorem traced_memWrite (a : Nat) (bs : List Byte) : Traced o (s.memWrite a bs) := by
  refine ⟨h.1, fun g => (h.2.1 g).symm ▸ ?_, (List.length_map ..).trans h.2.2⟩
  rw [Arrivals.memWrite_group, Option.map_map]
  refine congrArg (fun f => (s.group? g).map f) (funext fun x => ?_)
  show held (x.reeval _ _) = held x
  rw [Ports.reeval_met]
  rfl

theorem traced_logOut (ctx a n : Nat) : Traced o (s.logOut ctx a n) := by
  unfold State.logOut
  split
  · exact h
  · dsimp only
    split
    · exact h
    · split <;> exact h

theorem traced_devWrite (ctx a : Nat) (bs : List Byte) : Traced o (s.devWrite ctx a bs) := traced_logOut (traced_memWrite h a bs) ..

theorem traced_writeWords (ctx : Nat) (l : List (Nat × DWord)) : Traced o (s.writeWords ctx l) := by
  induction l generalizing s with
  | nil => exact h
  | cons a r ih => exact ih (traced_devWrite h ctx a.1 _)

theorem traced_recordSignal (fn kind : Nat) : Traced o (s.recordSignal fn kind) := by
  unfold State.recordSignal
  split <;> exact h

theorem traced_sysQueue (c : Copy) : Traced o (s.sysQueue c) := h

theorem traced_holdCommand (id : Nat) (b : Nat × Nat) : Traced o (s.holdCommand id b) := h

theorem traced_sysWrite {fn tag ctx core x kind : Nat} {offs : List Nat} {ws : List DWord} {t : State}
    (ht : s.sysWrite fn tag ctx core x kind offs ws = some t) : Traced o t := by
  simp only [State.sysWrite] at ht
  split at ht
  · cases ht; exact traced_sysQueue h _
  · split at ht
    · cases ht
    · cases ht; exact traced_recordSignal (traced_writeWords h ..) ..
    · cases ht; exact traced_sysQueue h _
    · cases ht; exact traced_holdCommand (traced_sysQueue h _) ..

theorem traced_ringWrite (b : TraceBuf) (ctx core : Nat) (offs : List Nat) (ws : List DWord) : Traced o (s.ringWrite b ctx core offs ws) := by
  unfold State.ringWrite
  split
  · exact traced_sysWrite h ‹_›
  · split
    · exact traced_sysQueue h _
    · exact h

theorem traced_ringPacket (b : TraceBuf) (ctx core : Nat) (ws : List DWord) : Traced o (s.ringPacket b ctx core ws).1 := by
  unfold State.ringPacket
  dsimp only
  split
  · exact h
  · split
    · exact traced_ringWrite (s := s.setRing b core _) h ..
    · exact traced_ringWrite (s := s.setRing b core _) h ..

theorem traced_writePacket (b : TraceBuf) (core : Nat) (gr : Machine.Group) (p : TPkt) : Traced o (s.writePacket b core gr p).1 := by
  have h1 : Traced o (s.ringPacket b gr.ctx core (p.sync gr (p.place gr).1 (p.place gr).2)).1 := traced_ringPacket h ..
  unfold State.writePacket
  dsimp only
  split
  · split
    · exact traced_ringWrite (s := State.setRing _ b core _) h1 ..
    · exact traced_ringPacket h1 ..
  · split
    · exact traced_ringWrite (s := State.setRing _ b core _) h ..
    · exact traced_ringPacket h ..

theorem traced_writeReady (b : TraceBuf) (core : Nat) (l : List TPkt) (gr : Machine.Group) : Traced o (s.writeReady b core gr l).1 := by
  induction l generalizing s gr with
  | nil => exact h
  | cons p r ih =>
    unfold State.writeReady
    split
    · exact h
    · exact ih (traced_writePacket h b core gr p) _

omit h in
theorem group_map_modGroup {β : Type} {φ : Machine.Group → β} (s : Machine.State) (g : Nat) {f : Machine.Group → Machine.Group}
    (hf : ∀ x, φ (f x) = φ x) (n : Nat) : ((s.modGroup g f).group? n).map φ = (s.group? n).map φ := by
  rw [State.group?_modGroup]
  split
  next hn =>
    rw [hn, Option.map_map]
    exact congrArg (fun f => (s.group? g).map f) (funext hf)
  next => rfl

theorem traced_sampleDone (g n : Nat) (body : Nat × List DWord) : Traced o (s.sampleDone g n body) := by
  unfold State.sampleDone
  split
  · exact h
  next gr _ =>
    split
    · exact h
    next b core _ =>
      have hr := traced_writeReady h b core (gr.tHeld.map (TPkt.release n body)) gr
      refine ⟨hr.1, fun x => Eq.trans ?_ (hr.2.1 x), (length_tmod ..).trans hr.2.2⟩
      unfold State.putTrace
      refine group_map_modGroup _ g (fun x => ?_) x
      rfl

theorem traced_group (g n : Nat) (body : Nat × List DWord) {x : Machine.Group} (hx : o.group? g = some x) :
    ∃ y, (s.sampleDone g n body).group? g = some y ∧ held y = held x := by
  have hk := (traced_sampleDone h g n body).2.1 g
  rw [hx] at hk
  exact Option.map_eq_some_iff.1 hk

end

variable {s : Machine.State}

/-! ### The packets of a change of lanes (R425) -/

theorem traced_packet {o : Machine.State} (h : Traced o s) (g : Nat) (p : TPkt) : Traced o (s.packet g p) := by
  unfold State.packet
  split
  · exact h
  next gr _ =>
    split
    · exact h
    next b core _ =>
      have hr := traced_writeReady h b core (gr.tHeld ++ [p.of gr]) gr
      refine ⟨hr.1, fun x => Eq.trans ?_ (hr.2.1 x), (length_tmod ..).trans hr.2.2⟩
      unfold State.putTrace
      refine group_map_modGroup _ g (fun x => ?_) x
      rfl

theorem traced_packets {o : Machine.State} (g : Nat) (l : List TPkt) (h : Traced o s) : Traced o (s.packets g l) := by
  induction l generalizing s with
  | nil => exact h
  | cons p r ih => exact ih (traced_packet h g p)

theorem traced_traceLive (g : Nat) (before : List Nat) (isExit : Bool) : Traced s (s.traceLive g before isExit) := by
  unfold State.traceLive
  split
  · exact traced_refl s
  · split
    · exact traced_refl s
    · dsimp only
      split
      · exact traced_packets g _ (traced_refl s)
      · exact traced_packets g _ (traced_refl s)

end Sys2Proof.Claims.Traces

/-! ANSWER_RETURN (R77, R319, R320): the values are delivered, and a word whose last answer failed traps. -/
namespace Sys2Proof.Claims.Answers
open Sys2Proof.Machine Sys2Proof.Claims.Traps Sys2Proof.Claims.Traces
-- One proof at a time: the text is compiled as one file, whose memory parallel elaboration would exceed.
set_option Elab.async false

/-! ### What a trap leaves (R199, R206) -/

/-- What a trap leaves alone in a group. -/
def regs (gr : Machine.Group) := ((gr.lanes, gr.s, gr.k), (gr.pc, gr.code, gr.rwcount))

/-- Accesses, memory and the registers of every group are as in o. -/
def Unread (o t : Machine.State) : Prop := t.accs = o.accs ∧ t.mem = o.mem ∧ t.tags = o.tags ∧ ∀ g, (t.group? g).map regs = (o.group? g).map regs

section
variable {o s : Machine.State}

theorem unread_refl (o : Machine.State) : Unread o o := ⟨rfl, rfl, rfl, fun _ => rfl⟩

theorem unread_modGroup (h : Unread o s) (g : Nat) {f : Machine.Group → Machine.Group} (hf : ∀ x, regs (f x) = regs x) :
    Unread o (s.modGroup g f) := ⟨h.1, h.2.1, h.2.2.1, fun n => (group_map_modGroup s g hf n).trans (h.2.2.2 n)⟩

theorem regs_addTrap (gr : Machine.Group) (t : Trap) : regs (gr.addTrap t) = regs gr := by
  unfold Machine.Group.addTrap
  split
  · split <;> rfl
  all_goals rfl

theorem regs_haltReached (gr : Machine.Group) (t : Trap) (b : Bool) : regs ((gr.markEarly t).haltReached b) = regs gr := by
  have hm : regs (gr.markEarly t) = regs gr := by
    unfold Machine.Group.markEarly
    split
    · split <;> rfl
    all_goals rfl
  rw [← hm]
  unfold Machine.Group.haltReached
  split <;> rfl

theorem map_tmap {α β : Type} {φ : α → β} (t : Tab α) {f : Nat → α → α} (hf : ∀ n x, φ (f n x) = φ x) (n : Nat) :
    (tget (tmap t f) n).map φ = (tget t n).map φ := by
  rw [tget_tmap, Option.map_map]
  exact congrArg (fun f => (tget t n).map f) (funext fun x => hf n x)

theorem unread_startHalt (h : Unread o s) (crew g : Nat) (t : Trap) (dbg : Bool) : Unread o (s.startHalt crew g t dbg) := by
  obtain ⟨ha, hm, ht, hg⟩ := h
  unfold State.startHalt
  split
  · exact ⟨ha, hm, ht, hg⟩
  · split
    · exact ⟨ha, hm, ht, hg⟩
    all_goals
      refine ⟨ha, hm, ht, fun n => (hg n).symm ▸ ?_⟩
      refine map_tmap (φ := regs) s.groups (f := fun n x => if x.crew == crew then (x.markEarly t).haltReached (s.parkedAt n x) else x)
        (fun n x => ?_) n
      split
      · exact regs_haltReached ..
      · rfl

theorem unread_takeTrap (h : Unread o s) (g : Nat) (t : Trap) : Unread o (s.takeTrap g t) := by
  unfold State.takeTrap
  split
  · exact h
  · dsimp only
    have h1 := fun t => unread_modGroup h g (f := fun x => x.addTrap t) fun x => regs_addTrap x t
    split
    · exact unread_startHalt (h1 _) ..
    · exact h1 _

end

/-! ### The last answer of a word -/

section
variable {s : Machine.State} {n : Nat} {o : Op} {gr : Machine.Group}

/-- The word has left flight, and a group that its answer held goes on. -/
def landed (s : Machine.State) (n : Nat) (o : Op) : Machine.State :=
  State.modGroup { s with ops := tdel s.ops n, engine := s.engine.filter fun e => e.op != some n } o.group fun gr =>
    if gr.wait = .answer n then { gr with wait := .none } else gr

/-- What a failed registration no longer waits for. -/
def unregistered (kind : OpKind) (gr : Machine.Group) : Machine.Group :=
  match kind with
  | .register _ _ _ => { gr with wait := .none, met := false }
  | .ld _ _ | .lds _ | .store | .kld _ _ | .atom _ _ _ _ | .tld | .ard | .arrive _ _ _ => gr

/-- The traps of its answers and of its watchpoints. -/
def failed (s : Machine.State) (gr : Machine.Group) (o : Op) : Machine.State :=
  match opTrap gr o.group o with
  | none => s
  | some t => (s.modGroup o.group (unregistered o.kind)).takeTrap o.group t
def watched (s : Machine.State) (gr : Machine.Group) (o : Op) : Machine.State :=
  if o.watch then s.takeTrap o.group (watchTrap gr o.group o) else s

theorem finishOp_eq (hg : s.group? o.group = some gr) : s.finishOp n o =
    let u := watched (failed (landed s n o) gr o) gr o
    if o.sample then u.sampleDone o.group n (o.sampleBody s.tick) else u := by
  have hg' : State.group? { s with ops := tdel s.ops n, engine := s.engine.filter fun e => e.op != some n } o.group = some gr := hg
  unfold State.finishOp
  dsimp only
  rw [hg']
  rfl

theorem unread_landed (s : Machine.State) (n : Nat) (o : Op) : Unread s (landed s n o) :=
  unread_modGroup (o := s) (s := { s with ops := tdel s.ops n, engine := s.engine.filter fun e => e.op != some n })
    ⟨rfl, rfl, rfl, fun _ => rfl⟩ o.group fun x => by split <;> rfl

theorem unread_failed {u : Machine.State} (h : Unread s u) : Unread s (failed u gr o) := by
  unfold failed
  split
  · exact h
  · refine unread_takeTrap (unread_modGroup h _ fun x => ?_) ..
    unfold unregistered
    split <;> rfl

theorem unread_watched {u : Machine.State} (h : Unread s u) : Unread s (watched u gr o) := by
  unfold watched
  split
  · exact unread_takeTrap h ..
  · exact h

/-- Groups keep their registers, also where the word is traced. -/
theorem finishOp_kept (hg : s.group? o.group = some gr) : (s.finishOp n o).accs = s.accs ∧
    (∀ g, ((s.finishOp n o).group? g).map regs = (s.group? g).map regs) ∧
    (o.sample = false → (s.finishOp n o).mem = s.mem ∧ (s.finishOp n o).tags = s.tags) := by
  obtain ⟨ha, hm, ht, hr⟩ := unread_watched (gr := gr) (o := o) (unread_failed (gr := gr) (o := o) (unread_landed s n o))
  rw [finishOp_eq hg]
  dsimp only
  split
  next hs =>
    obtain ⟨ha', hr', -⟩ := traced_sampleDone (o := watched (failed (landed s n o) gr o) gr o) (traced_refl _) o.group n (o.sampleBody s.tick)
    refine ⟨Eq.trans (congrArg (·.accs) ha') ha, fun g => ?_, fun h => absurd (hs.symm.trans h) (by decide)⟩
    have h := congrArg (Option.map regs) (hr' g)
    rw [Option.map_map, Option.map_map] at h
    exact Eq.trans h (hr g)
  next => exact ⟨ha, hr, fun _ => ⟨hm, ht⟩⟩

/-- A running group parks on a trap that keeps its fields. -/
theorem takeTrap_parks {g : Nat} {x : Machine.Group} (hg : s.group? g = some x) (hr : x.stop = .run) (t : Trap) :
    ∃ y r, (s.takeTrap g t).group? g = some y ∧ y.stop = .trapping ∧ y.trap = some r ∧ r.code = t.code ∧ r.origin = t.origin ∧
      r.detail = t.detail ∧ r.instr = t.instr ∧ r.prov = t.prov ∧ r.rwc = t.rwc := by
  obtain ⟨b, hb⟩ := Control.joined_only_debug s x.crew t
  exact ⟨_, _, takeTrap_group hg hr, rfl, rfl, by rw [hb]; exact ⟨rfl, rfl, rfl, rfl, rfl, rfl⟩⟩

/-- A running group whose word failed parks on the least failure. -/
theorem finishOp_traps {f : Fail} (hg : s.group? o.group = some gr) (hf : leastFail o.fails = some f) (hw : o.watch = false)
    (hr : gr.stop = .run) : ∃ y r, (s.finishOp n o).group? o.group = some y ∧ y.stop = .trapping ∧ y.trap = some r ∧ r.code = f.code ∧
      r.origin = f.origin ∧ r.detail = f.detail ∧ r.instr = o.word ∧ r.prov = o.prov ∧ r.rwc = o.rwc := by
  obtain ⟨fault, retry, ht⟩ : ∃ fault retry, opTrap gr o.group o = some (trapOf gr (o.cur o.group) f.code f.origin fault retry f.detail
      f.handle f.ooff) := ⟨_, _, by rw [opTrap, hf]⟩
  have h1 : (landed s n o).group? o.group = some _ := Votes.group_modGroup
    (s := { s with ops := tdel s.ops n, engine := s.engine.filter fun e => e.op != some n }) hg _
  have h2 := Votes.group_modGroup h1 (unregistered o.kind)
  have hrun : ∀ x : Machine.Group, (unregistered o.kind x).stop = x.stop := fun x => by
    unfold unregistered
    split <;> rfl
  obtain ⟨y, r, hy, hs, htr, hfields⟩ := takeTrap_parks h2 (by rw [hrun]; split <;> exact hr)
    (trapOf gr (o.cur o.group) f.code f.origin fault retry f.detail f.handle f.ooff)
  have hu : watched (failed (landed s n o) gr o) gr o = ((landed s n o).modGroup o.group (unregistered o.kind)).takeTrap o.group
      (trapOf gr (o.cur o.group) f.code f.origin fault retry f.detail f.handle f.ooff) := by
    simp only [watched, hw, failed, ht, Bool.false_eq_true, if_false]
  rw [finishOp_eq hg]
  dsimp only
  rw [hu]
  split
  · obtain ⟨z, hz, hk⟩ := traced_group (traced_refl _) o.group n (o.sampleBody s.tick) hy
    exact ⟨z, r, hz, Eq.trans (congrArg (·.stop) hk) hs, Eq.trans (congrArg (·.trap) hk) htr, hfields⟩
  · exact ⟨y, r, hy, hs, htr, hfields⟩

/-! ### ANSWER_RETURN -/

variable {a : Access}

/-- The word once an access's answers are counted. -/
def counted (o : Op) (a : Access) : Op :=
  { o with left := o.left - 1, fails := o.fails ++ failsOf a.res
           buf := if o.kind = .tld then o.buf ++ tileBytes (a.pieces.zip a.res) else o.buf, watch := o.watch || a.watch
           replays := o.replays + a.replays, last := (a.pieces.map (·.lane)).foldl max 0 }

/-- The access has left, and its group has its values. -/
def delivered (s : Machine.State) (n : Nat) (a : Access) (o : Op) : Machine.State :=
  State.modGroup { s with accs := tdel s.accs n, ops := tset s.ops a.op (counted o a) } o.group fun gr =>
    deliverAll gr o.kind (a.pieces.zip a.res)

/-- The engine finishes a `tld` that did not fail. -/
def engineEnds (s : Machine.State) (a : Access) (o : Op) : Bool := o.kind == .tld && o.fails.isEmpty && s.engine.any (·.op == some a.op)

theorem delivered_group (hg : s.group? o.group = some gr) :
    (delivered s n a o).group? o.group = some (deliverAll gr o.kind (a.pieces.zip a.res)) :=
  Votes.group_modGroup (s := { s with accs := tdel s.accs n, ops := tset s.ops a.op (counted o a) }) hg _

theorem answered_eq (hg : s.group? o.group = some gr) : s.answered n a o =
    if o.left - 1 = 0 ∧ engineEnds s a (counted o a) = false then (delivered s n a o).finishOp a.op (counted o a) else delivered s n a o := by
  have horphan : (delivered s n a o).orphanRace a.crew (counted o a) = delivered s n a o := by
    have hs : ((delivered s n a o).group? (counted o a).group).isSome = true := by
      rw [show (counted o a).group = o.group from rfl, delivered_group hg]
      rfl
    simp only [State.orphanRace, hs]
  have hc : (counted o a).left = 0 && !engineEnds s a (counted o a) ↔ o.left - 1 = 0 ∧ engineEnds s a (counted o a) = false := by
    rw [Bool.and_eq_true, decide_eq_true_iff, Bool.not_eq_true']
    rfl
  unfold State.answered
  dsimp only
  rw [← horphan]
  exact if_congr hc rfl horphan.symm

theorem deliverPiece_regs (gr : Machine.Group) (kind : OpKind) (lane v : Nat) (tag : Bool) :
    ∃ l x k, deliverPiece gr kind lane v tag = { gr with lanes := l, s := x, k := k } := by
  unfold deliverPiece
  split
  · exact ⟨_, gr.s, gr.k, rfl⟩
  · unfold Machine.Group.ws
    split
    · exact ⟨gr.lanes, gr.s, gr.k, rfl⟩
    · exact ⟨gr.lanes, _, gr.k, rfl⟩
  · exact ⟨gr.lanes, gr.s, _, rfl⟩
  · exact ⟨_, gr.s, gr.k, rfl⟩
  all_goals exact ⟨gr.lanes, gr.s, gr.k, rfl⟩

/-- Answers write registers only. -/
theorem deliverAll_regs (kind : OpKind) : ∀ (l : List (Piece × PieceRes)) (gr : Machine.Group),
    ∃ ls x k, deliverAll gr kind l = { gr with lanes := ls, s := x, k := k }
  | [], gr => ⟨gr.lanes, gr.s, gr.k, rfl⟩
  | (p, .value v tag) :: r, gr => by
    obtain ⟨ls, x, k, h⟩ := deliverPiece_regs gr kind p.lane v tag
    rw [deliverAll, h]
    exact deliverAll_regs kind r _
  | (_, .fail _) :: r, gr => deliverAll_regs kind r gr

/-- What ANSWER_RETURN leaves, whether it is the word's last answer or not. -/
theorem answered_kept (hg : s.group? o.group = some gr) : (s.answered n a o).accs = tdel s.accs n ∧
    (∀ g, ((s.answered n a o).group? g).map regs = ((delivered s n a o).group? g).map regs) ∧
    (o.sample = false → (s.answered n a o).mem = s.mem ∧ (s.answered n a o).tags = s.tags) := by
  rw [answered_eq hg]
  split
  · obtain ⟨h1, h2, h3⟩ := finishOp_kept (s := delivered s n a o) (n := a.op) (o := counted o a) (delivered_group hg)
    exact ⟨h1, h2, h3⟩
  · exact ⟨rfl, fun _ => rfl, fun _ => ⟨rfl, rfl⟩⟩

end
end Sys2Proof.Claims.Answers

open Sys2Proof Sys2Proof.Claims Sys2Proof.Claims.Answers

/-- Settles O39: the values are delivered to the word's group, whose registers what follows leaves alone. -/
theorem answerReturnStep : Obligations.AnswerReturnStep := by
  intro n s a o gr ha hd ho hg
  have he : Machine.exec (.answerReturn n) s = .next (s.answered n a o) := by
    show Machine.execAnswerReturn n s = _
    simp only [Machine.execAnswerReturn, ha, hd, ho, if_true]
  obtain ⟨h1, h2, h3⟩ := answered_kept (n := n) (a := a) hg
  have hy := h2 o.group
  rw [delivered_group hg] at hy
  obtain ⟨y, hy, hregs⟩ := Option.map_eq_some_iff.1 hy
  obtain ⟨ls, x, k, hx⟩ := deliverAll_regs o.kind (a.pieces.zip a.res) gr
  simp only [regs, hx, Prod.mk.injEq] at hregs
  obtain ⟨⟨hl, hs, hk⟩, hpc, hcode, hrw⟩ := hregs
  refine ⟨_, y, he, h3, h1, hy, ?_, fun h z hne hz => ?_, fun hleft f hf hw hwa hrun => ?_⟩
  · rw [hx]
    exact ⟨hl, hs, hk, hpc, hcode, hrw⟩
  · have hz' : (delivered s n a o).group? h = some z := by
      rw [delivered, Machine.State.group?_modGroup, if_neg hne]
      exact hz
    have hw := h2 h
    rw [hz'] at hw
    obtain ⟨w, hw, hregs⟩ := Option.map_eq_some_iff.1 hw
    simp only [regs, Prod.mk.injEq] at hregs
    obtain ⟨⟨h4, h5, h6⟩, -, -, h7⟩ := hregs
    exact ⟨w, hw, h4, h5, h6, h7⟩
  · have hend : engineEnds s a (counted o a) = false := by
      have hne : (counted o a).fails.isEmpty = false := by
        cases hc : (counted o a).fails with
        | nil => exact absurd (hf.symm.trans (congrArg Machine.leastFail hc)) (by simp [Machine.leastFail])
        | cons x l => rfl
      rw [engineEnds, hne, Bool.and_false, Bool.false_and]
    have hans : s.answered n a o = (delivered s n a o).finishOp a.op (counted o a) := by
      rw [answered_eq hg, if_pos ⟨by omega, hend⟩]
    have hwatch : (counted o a).watch = false := by
      show (o.watch || a.watch) = false
      rw [hw, hwa]
      rfl
    have hrun' : (Machine.deliverAll gr o.kind (a.pieces.zip a.res)).stop = .run := by rw [hx]; exact hrun
    obtain ⟨z, r, hz, h4, h5, h6⟩ := finishOp_traps (s := delivered s n a o) (n := a.op) (o := counted o a) (delivered_group hg) hf hwatch hrun'
    rw [hans] at hy
    cases hy.symm.trans hz
    exact ⟨r, h4, h5, h6⟩

/-! The steps of traps and halts (R199, R203, R206, R208, R427). -/
namespace Sys2Proof.Claims.Halts
open Sys2Proof.Machine
-- One proof at a time: the text is compiled as one file, whose memory parallel elaboration would exceed.
set_option Elab.async false

section
variable {s : Machine.State} {g : Nat} {gr : Machine.Group}

theorem notifyBy_eq (core ctx : Nat) (by_ : Option Nat) (ws : List DWord) :
    s.notifyBy core ctx by_ ws = { s with threads := (s.notifyBy core ctx by_ ws).threads } := by
  unfold State.notifyBy
  split <;> rfl

theorem debugRecord_eq (ctx : Nat) (t : Trap) : s.debugRecord ctx t = { s with reports := (s.debugRecord ctx t).reports } := by
  unfold State.debugRecord
  split <;> rfl

/-! ### TRAP_RECORD_WRITE -/

theorem writeRecord_eq {r : Trap} (ht : gr.trap = some r) : gr.writeRecord =
    { gr with trap := some (r.settle gr), stop := .trapped
              rwcount := if r.noWord || isHint r.instr then gr.rwcount else gr.rwcount - 1 } := by
  simp only [Machine.Group.writeRecord, ht]

/-- RWCOUNT is RWC + SKID once the trapping word counts no longer, where no more words than SKID can say issued behind it. -/
theorem writeRecord_rwcount {r : Trap} (hn : r.noWord = false) (hh : isHint r.instr = false) (h1 : r.rwc < gr.rwcount.toNat)
    (h2 : gr.rwcount.toNat ≤ r.rwc + 65) :
    (if r.noWord || isHint r.instr then gr.rwcount else gr.rwcount - 1).toNat = r.rwc + (r.settle gr).skid := by
  have hs : (r.settle gr).skid = min 64 (gr.rwcount.toNat - (r.rwc + 1)) := by
    simp only [Trap.settle, hn, hh, haltSlots, Bool.false_eq_true, if_false]
  rw [hs, hn, hh, Bool.or_self, if_neg Bool.false_ne_true]
  have hr : (gr.rwcount - 1).toNat = gr.rwcount.toNat - 1 := by bv_omega
  omega

/-- The record stands, and its event or report, if it has one, changes no group. -/
theorem trapRecordWrite_writes {r : Trap} (hg : s.group? g = some gr) (hd : s.recordDue g gr = true) (ht : gr.trap = some r) :
    ∃ t, exec (.trapRecordWrite g) s = .next t ∧ t.mem = s.mem ∧ t.group? g = some gr.writeRecord := by
  have hw : gr.writeRecord.trap = some (r.settle gr) := by rw [writeRecord_eq ht]
  have hgroup : (s.modGroup g Machine.Group.writeRecord).group? g = some gr.writeRecord := Votes.group_modGroup hg _
  show ∃ t, execTrapRecordWrite g s = .next t ∧ _
  simp only [execTrapRecordWrite, hg, hd, hw, if_true]
  split
  · exact ⟨_, rfl, by rw [debugRecord_eq]; rfl, by rw [debugRecord_eq]; exact hgroup⟩
  · split
    · exact ⟨_, rfl, rfl, hgroup⟩
    · exact ⟨_, rfl, by rw [notifyBy_eq]; rfl, by rw [notifyBy_eq]; exact hgroup⟩

/-! ### SIBLING_STOP and PRECISE_STOP -/

theorem siblingTrap_record (gr : Machine.Group) : (siblingTrap gr).code = 0 ∧ (siblingTrap gr).cls = 3 ∧ (siblingTrap gr).fault = [] ∧
    (siblingTrap gr).detail = 0 ∧ (siblingTrap gr).skid = 0 := by
  unfold siblingTrap
  split
  exact ⟨rfl, rfl, rfl, rfl, rfl⟩

theorem siblingStop_stops (hg : s.group? g = some gr) (hd : s.siblingDue g gr = true) : ∃ t r, exec (.siblingStop g) s = .next t ∧
    t.mem = s.mem ∧ t.group? g = some { gr with stop := .halted, trap := some r } ∧ r.code = 0 ∧ r.cls = 3 ∧ r.fault = [] ∧ r.detail = 0 := by
  obtain ⟨h1, h2, h3, h4, -⟩ := siblingTrap_record gr
  show ∃ t r, execSiblingStop g s = .next t ∧ _
  simp only [execSiblingStop, hg, hd, if_true]
  exact ⟨_, _, rfl, rfl, Votes.group_modGroup hg _, h1, h2, h3, h4⟩

theorem preciseStop_stops (hg : s.group? g = some gr) (hd : s.preciseDue g gr = true) : ∃ t, exec (.preciseStop g) s = .next t ∧
    t.mem = s.mem ∧ t.group? g = some { gr with stop := .trapped, trap := some (preciseTrap gr) } := by
  show ∃ t, execPreciseStop g s = .next t ∧ _
  simp only [execPreciseStop, hg, hd, if_true]
  exact ⟨_, rfl, by rw [debugRecord_eq]; rfl, by rw [debugRecord_eq]; exact Votes.group_modGroup hg _⟩

/-! ### CREW_HALT_EVENT -/

variable {n : Nat} {c : Crew} {h : Halt}

/-- A halt whose event is due has not been told, and the queue of the crew's thread has a place. -/
theorem haltOf_due (hc : s.crew? n = some c) (hh : c.halt = some h) (hd : s.haltEventDue n = true) :
    s.haltOf n = some h ∧ s.eventRoom c.core c.ctx = true := by
  simp only [State.haltEventDue, Bool.and_eq_true, hc] at hd
  obtain ⟨⟨hof, -, hroom⟩, -⟩ := hd
  refine ⟨?_, hroom⟩
  simp only [State.haltOf, hc, hh] at hof ⊢
  split at hof
  · cases hof
  next hs => exact if_neg hs

theorem crewHaltEvent_tells (hc : s.crew? n = some c) (hh : c.halt = some h) (hd : s.haltEventDue n = true) :
    exec (.crewHaltEvent n) s = .next ((s.modCrew n fun x => { x with halt := some { h with sent := true } }).notifyBy c.core c.ctx
      ((s.group? h.group).map (·.uid)) ((s.haltRecord n h).words (if h.origin.code = 14 then 6 else 4))) := by
  show execCrewHaltEvent n s = _
  simp only [execCrewHaltEvent, (haltOf_due hc hh hd).1, hc, hd, if_true]
  rfl

theorem eventRoom_thread {core ctx k : Nat} {th : Machine.Thread} (hr : s.eventRoom core ctx = true) (hk : s.threadOf core ctx = some k)
    (ht : s.thread? k = some th) : th.queue.length < 256 ∧ th.held = [] := by
  simp only [State.eventRoom, hk, Option.bind_some, ht, Option.all_some, Bool.and_eq_true, decide_eq_true_iff] at hr
  exact ⟨hr.1, List.isEmpty_iff.1 hr.2⟩

/-- With a place in the queue, an event that an idle thread does not discard stands in it. -/
theorem takeEvent_queues {th : Machine.Thread} {e : QEvent} (h1 : th.queue.length < 256) (h2 : th.held = [])
    (hi : th.idle = true → eventKind e.words ≠ 1 ∧ eventKind e.words ≠ 5) : th.takeEvent e = { th with queue := th.queue ++ [e] } := by
  have hdis : (th.idle && (eventKind e.words == 1 || eventKind e.words == 5)) = false := by
    cases hb : th.idle with
    | false => rfl
    | true => simp [hi hb]
  rw [Machine.Thread.takeEvent, hdis, h2, decide_eq_true h1]
  rfl

end
end Sys2Proof.Claims.Halts

open Sys2Proof Sys2Proof.Claims Sys2Proof.Claims.Halts

/-- Settles O41: each step writes its record or tells its event, and changes nothing else of its group. -/
theorem trapAndHaltSteps : Obligations.TrapAndHaltSteps := by
  intro s g gr hg
  refine ⟨fun r hd ht => ?_, fun hd => ?_, fun hd => ?_, fun c h hc hh hd => ?_⟩
  · obtain ⟨t, he, hm, hy⟩ := trapRecordWrite_writes hg hd ht
    rw [writeRecord_eq ht] at hy
    exact ⟨t, _, he, hm, hy, rfl, rfl, writeRecord_rwcount⟩
  · obtain ⟨t, r, he, hm, hy, hr⟩ := siblingStop_stops hg hd
    exact ⟨t, _, r, he, hm, hy, rfl, hr⟩
  · obtain ⟨t, he, hm, hy⟩ := preciseStop_stops hg hd
    exact ⟨t, _, _, he, hm, hy, rfl, rfl, rfl, rfl, (siblingTrap_record gr).2.2.2.2, rfl⟩
  · refine ⟨_, crewHaltEvent_tells hc hh hd, by rw [notifyBy_eq]; rfl, by rw [notifyBy_eq]; rfl, ?_, fun hn => ?_, fun k th hk ht hi => ?_⟩
    · rw [notifyBy_eq]
      exact (Machine.State.crew?_modCrew ..).trans (by rw [if_pos rfl, hc]; rfl)
    · have hn' : (s.modCrew gr.crew fun x => { x with halt := some { h with sent := true } }).threadOf c.core c.ctx = none := hn
      simp only [Machine.State.notifyBy, hn']
      rfl
    · obtain ⟨hq, hl⟩ := eventRoom_thread (haltOf_due hc hh hd).2 hk ht
      refine ⟨hq, hl, ⟨(s.haltRecord gr.crew h).words (if h.origin.code = 14 then 6 else 4), s.clock, false, (s.group? h.group).map (·.uid)⟩, rfl, rfl, rfl, ?_⟩
      have hk' : (s.modCrew gr.crew fun x => { x with halt := some { h with sent := true } }).threadOf c.core c.ctx = some k := hk
      rw [← takeEvent_queues hq hl hi]
      simp only [Machine.State.notifyBy, hk']
      exact (Machine.State.thread?_modThread ..).trans (by rw [if_pos rfl]; exact congrArg (Option.map _) ht)

/-! Page migration and targeted replay (R215 to R217). -/
namespace Sys2Proof.Claims.Pages
open Sys2Proof.Machine
-- One proof at a time: the text is compiled as one file, whose memory parallel elaboration would exceed.
set_option Elab.async false

section
variable {m l : List Host.Cell}

/-! ### A range of bytes moved -/

/-- What is left of memory where the cells outside a set of addresses are dropped. -/
theorem mget_filter (q : Nat → Bool) {x : Nat} (hm : memWf m = true) : mget (m.filter fun c => q c.1) x = if q x then mget m x else 0 := by
  induction m with
  | nil => exact (ite_self _).symm
  | cons c r ih =>
    obtain ⟨k, b⟩ := c
    have hr := memWf_tail hm
    have habove : x < k → mget r x = 0 := fun h => mget_above (above_trans (Nat.le_of_lt h) ((memWf_cons.1 hm).2.1))
    rw [List.filter_cons]
    split
    next hq =>
      rw [mget, mget, ih hr]
      by_cases hk : k = x
      · subst hk
        rw [if_pos rfl, if_pos rfl, if_pos hq]
      · rw [if_neg hk, if_neg hk]
        split
        · exact (ite_self _).symm
        · rfl
    next hq =>
      rw [ih hr, mget]
      by_cases hk : k = x
      · subst hk
        rw [if_neg hq, if_neg hq]
      · rw [if_neg hk]
        by_cases h : x < k
        · rw [if_pos h, habove h]
        · rw [if_neg h]

/-- The cells of a list written at their distance from src behind dst, over another memory. -/
def laid (m l : List Host.Cell) (src dst : Nat) : List Host.Cell := l.foldl (fun m c => mput m (dst + (c.1 - src)) c.2) m

theorem memWf_laid (src dst : Nat) (hm : memWf m = true) : memWf (laid m l src dst) = true := memWf_foldl (fun c => (dst + (c.1 - src), c.2)) l hm

theorem mget_laid_other {src dst x : Nat} (hx : ∀ c ∈ l, x ≠ dst + (c.1 - src)) : ∀ {m}, memWf m = true → mget (laid m l src dst) x = mget m x := by
  induction l with
  | nil => exact fun _ => rfl
  | cons c r ih =>
    intro m hm
    rw [List.forall_mem_cons] at hx
    exact (ih hx.2 (memWf_mput _ _ hm)).trans (mget_mput_other _ _ hm hx.1)

theorem keys_above {k : Nat} {b : Byte} (h : memWf ((k, b) :: l) = true) : ∀ c ∈ l, k < c.1 := by
  induction l generalizing k b with
  | nil => exact fun c hc => absurd hc List.not_mem_nil
  | cons c r ih =>
    obtain ⟨-, ha, hr⟩ := memWf_cons.1 h
    exact List.forall_mem_cons.2 ⟨ha, fun d hd => Nat.lt_trans ha (ih hr d hd)⟩

/-- A byte laid is the byte of the list, where nothing stood before. -/
theorem mget_laid {src dst y : Nat} (hs : ∀ c ∈ l, src ≤ c.1) (hy : src ≤ y) (hl : memWf l = true) :
    ∀ {m}, memWf m = true → mget m (dst + (y - src)) = 0 → mget (laid m l src dst) (dst + (y - src)) = mget l y := by
  induction l with
  | nil => exact fun _ h => h
  | cons c r ih =>
    intro m hm h0
    obtain ⟨k, b⟩ := c
    obtain ⟨hk, hs⟩ := List.forall_mem_cons.1 hs
    have hk : src ≤ k := hk
    have habove := keys_above hl
    have hstep : laid m ((k, b) :: r) src dst = laid (mput m (dst + (k - src)) b) r src dst := rfl
    rw [hstep, mget]
    by_cases he : k = y
    · subst he
      rw [if_pos rfl, mget_laid_other (fun c hc => by have := habove c hc; omega) (memWf_mput _ _ hm), mget_mput_same _ _ hm]
    · rw [if_neg he, ih hs (memWf_tail hl) (memWf_mput _ _ hm) ((mget_mput_other _ _ hm (by omega)).trans h0)]
      by_cases hlt : y < k
      · rw [if_pos hlt]
        exact mget_above (above_trans (Nat.le_of_lt hlt) (memWf_cons.1 hl).2.1)
      · rw [if_neg hlt]

theorem moveBytes_eq (src dst n : Nat) : moveBytes m src dst n =
    laid (m.filter fun c => !decide (dst ≤ c.1 ∧ c.1 < dst + n)) (m.filter fun c => decide (src ≤ c.1 ∧ c.1 < src + n)) src dst := rfl

theorem mget_moveBytes_other {src dst n x : Nat} (hm : memWf m = true) (hx : x < dst ∨ dst + n ≤ x) :
    mget (moveBytes m src dst n) x = mget m x := by
  rw [moveBytes_eq, mget_laid_other _ (memWf_filter _ hm), mget_filter (fun a => !decide (dst ≤ a ∧ a < dst + n)) hm, if_pos]
  · simp only [Bool.not_eq_true', decide_eq_false_iff_not]
    omega
  · intro c hc
    have h := (List.mem_filter.1 hc).2
    simp only [decide_eq_true_iff] at h
    omega

theorem mget_moveBytes {src dst n x : Nat} (hm : memWf m = true) (h1 : dst ≤ x) (h2 : x < dst + n) :
    mget (moveBytes m src dst n) x = mget m (src + (x - dst)) := by
  have hx : x = dst + ((src + (x - dst)) - src) := by omega
  rw [moveBytes_eq]
  conv_lhs => rw [hx]
  rw [mget_laid _ (by omega) (memWf_filter _ hm) (memWf_filter _ hm), mget_filter (fun a => decide (src ≤ a ∧ a < src + n)) hm, if_pos]
  · exact decide_eq_true (by omega)
  · rw [mget_filter (fun a => !decide (dst ≤ a ∧ a < dst + n)) hm, if_neg]
    simp only [Bool.not_eq_true', decide_eq_false_iff_not, not_not]
    omega
  · intro c hc
    have h := (List.mem_filter.1 hc).2
    simp only [decide_eq_true_iff] at h
    exact h.1

/-! ### PAGE_MIGRATION (R216) -/

variable {s : Machine.State} {n f : Nat} {e : WaitEntry} {r : List Nat}

/-- The page's bytes in their frame, before its map entry says so. -/
def moved (s : Machine.State) (e : WaitEntry) (f : Nat) : List Host.Cell :=
  moveBytes s.mem (capBase + pmeFrame (mnat s.mem e.pme 8) * 65536) (f * 65536) 65536

theorem pageMigration_moves (he : tget s.waits n = some e) (hd : s.migrationDue e = true) (hb : s.migrationBank e = none)
    (hf : s.fastFree = f :: r) : ∃ t, exec (.pageMigration n) s = .next t ∧ t.fastFree = r ∧
      t.mem = mputs (moved s e f) e.pme (leBytes (pmeWith (mnat s.mem e.pme 8) 0 f) 8) ∧
      tget t.waits n = some { e with migrated := true } := by
  show ∃ t, execPageMigration n s = .next t ∧ _
  simp only [execPageMigration, he, hd, hb, hf, Bool.not_true, Bool.false_eq_true, if_false]
  exact ⟨_, rfl, rfl, rfl, tget_tset_same ..⟩

theorem pageMigration_asks (he : tget s.waits n = some e) (hd : s.migrationDue e = true) (hb : s.migrationBank e = none)
    (hf : s.fastFree = []) : ∃ t, exec (.pageMigration n) s = .next t ∧
      t.mem = mputs s.mem e.pme (leBytes (pmeWith (mnat s.mem e.pme 8) 2 (pmeFrame (mnat s.mem e.pme 8))) 8) ∧
      t.reports.length = s.reports.length + 1 ∧ tget t.waits n = some { e with asked := true } := by
  show ∃ t, execPageMigration n s = .next t ∧ _
  simp only [execPageMigration, he, hd, hb, hf, Bool.not_true, Bool.false_eq_true, if_false]
  exact ⟨_, rfl, rfl, List.length_append, tget_tset_same ..⟩

/-! ### The entry of a page (R215, R217) -/

theorem joinEntry_joins {p k m : Nat} {w : WaitEntry} (h : s.entryFor p = some m) (hw : tget s.waits m = some w) :
    (s.joinEntry p (.access k)).2 = m ∧
      tget (s.joinEntry p (.access k)).1.waits m = some { w with waiters := w.waiters ++ [.access k] } := by
  simp only [State.joinEntry, h]
  exact ⟨trivial, (tget_tmod_same ..).trans (congrArg (Option.map _) hw)⟩

theorem joinEntry_overflows {p k : Nat} (h : s.entryFor p = none) (hf : 4096 ≤ (s.waits.filter fun x => x.2.die == faultDie p).length) :
    (s.joinEntry p (.access k)).1 = { s with overflow := s.overflow ++ [(faultDie p, .access k)] } := by
  simp only [State.joinEntry, h, if_neg (Nat.not_lt.2 hf)]

end
end Sys2Proof.Claims.Pages

open Sys2Proof Sys2Proof.Claims Sys2Proof.Claims.Pages

/-- Settles O43: a page moves as a range of bytes, its map entry is written, and what waited for it is presented again. -/
theorem pageSteps : Obligations.PageSteps := by
  intro s n e he
  refine ⟨fun f r hd hb hf hm => ?_, fun hd hb hf hm => ?_, fun hd => ?_, fun k p => ⟨fun m w => joinEntry_joins, joinEntry_overflows⟩⟩
  · obtain ⟨t, ht, hfree, hmem, hw⟩ := pageMigration_moves he hd hb hf
    have hwf : Machine.memWf (moved s e f) = true := Machine.memWf_moveBytes (Machine.capBase + Machine.pmeFrame (Machine.mnat s.mem e.pme 8) * 65536) (f * 65536) 65536 hm
    refine ⟨fun x h1 h2 hx hdis => ⟨t, ht, ?_⟩, t, ht, hfree, ?_, fun x hx hp => ?_, hw⟩
    · rw [hmem, Machine.mget_mputs_other _ _ hwf (by rwa [Machine.length_leBytes])]
      exact mget_moveBytes hm h1 h2
    · rw [hmem]
      exact Machine.mnat_mputs _ _ 8 hwf
    · rw [hmem, Machine.mget_mputs_other _ _ hwf (by rwa [Machine.length_leBytes])]
      exact mget_moveBytes_other hm hx
  · obtain ⟨t, ht, hmem, hr, hw⟩ := pageMigration_asks he hd hb hf
    exact ⟨t, ht, by rw [hmem]; exact Machine.mnat_mputs _ _ 8 hm, hr, hw⟩
  · show Machine.execTargetedReplay n s = _
    simp only [Machine.execTargetedReplay, he, hd, if_true]

/-! The steps that end a wait or a group (R48 to R50, R74, R76, R97, R228, R385, R386). -/
namespace Sys2Proof.Claims.Waits
open Sys2Proof.Machine
-- One proof at a time: the text is compiled as one file, whose memory parallel elaboration would exceed.
set_option Elab.async false

variable {s : Machine.State} {g : Nat} {gr : Machine.Group}

/-! ### Fences and `sinv` -/

theorem fenceComplete_ends (hg : s.group? g = some gr) {ops cmds : List Nat} {drop ends : Bool} (hd : s.fenceDue gr = true)
    (hw : gr.wait = .fence ops cmds drop ends) :
    let s1 := s.modGroup g fun x => { x with wait := .none }
    let s2 := if drop = true then s1.dropLines (s.coreOf gr) gr.ctx else s1
    exec (.fenceComplete g) s = .next (if ends = true then s2.release g else s2) := by
  intro s1 s2
  have he : exec (.fenceComplete g) s = .next (s1.fenceOver g drop ends) := by
    show execFenceComplete g s = _
    simp only [execFenceComplete, hg, hd]
    rw [hw]
  rw [he, Order.fenceOver_eq (Votes.group_modGroup hg _)]
  rfl

/-- The copies a `sinv` of a range makes stale. -/
def staleIn (s : Machine.State) (c : Machine.Context) (low len n : Nat) : Bool := s.store.any fun x => x.id == n && codeMeets c x low len

theorem makeStale_group (ctx : Nat) (c : Machine.Context) (low len k : Nat) :
    (s.makeStale ctx c low len).group? k = (s.group? k).map (·.renewed ctx (staleIn s c low len)) :=
  tget_tmap s.groups (fun _ x => x.renewed ctx (staleIn s c low len)) k

theorem renewed_eq (ctx : Nat) (f : Nat → Bool) :
    gr.renewed ctx f = { gr with refetch := (gr.renewed ctx f).refetch, moved := (gr.renewed ctx f).moved } := by
  unfold Machine.Group.renewed; split <;> rfl

theorem renewed_moves {ctx n : Nat} {f : Nat → Bool} (hc : gr.ctx = ctx) (hm : gr.moved = true) (hn : gr.copy = some n) (hf : f n = true) :
    gr.renewed ctx f = { gr with refetch := true, moved := false } := by
  unfold Machine.Group.renewed
  simp only [hc, hm, hn, beq_self_eq_true, Option.any_some, hf, Bool.and_true, if_true]

theorem makeStale_store_nothing (ctx : Nat) (c : Machine.Context) (low : Nat) : (s.makeStale ctx c low 0).store = s.store := by
  have hn : ∀ x, codeMeets c x low 0 = false := fun x => by
    unfold codeMeets
    rfl
  show s.store.map _ = s.store
  simp only [hn, Bool.false_eq_true, if_false, List.map_id']

/-- The group goes on. -/
def unwait (x : Machine.Group) : Machine.Group := { x with wait := .none }

theorem sinvComplete_eq (hg : s.group? g = some gr) {ops cmds : List Nat} {h low len : Nat} {c : Machine.Context} (hd : s.sinvDue gr = true)
    (hw : gr.wait = .sinv ops cmds h low len) (hc : s.ctx? gr.ctx = some c) : exec (.sinvComplete g) s = .next (
      if h = c.arena then (s.modGroup g unwait).makeStale gr.ctx c low len else s.modGroup g unwait) := by
  show execSinvComplete g s = _
  simp only [execSinvComplete, hg, hd, hw, hc]
  rfl

theorem sinvComplete_ends (hg : s.group? g = some gr) {ops cmds : List Nat} {h low len : Nat} {c : Machine.Context} (hd : s.sinvDue gr = true)
    (hw : gr.wait = .sinv ops cmds h low len) (hc : s.ctx? gr.ctx = some c) :
    ∃ t y, exec (.sinvComplete g) s = .next t ∧ t.mem = s.mem ∧ t.group? g = some y ∧
      y = { gr with wait := .none, refetch := y.refetch, moved := y.moved } ∧ (h ≠ c.arena → t.store = s.store) ∧ (len = 0 → t.store = s.store) ∧
      (h = c.arena → ∀ x ∈ s.store, codeMeets c x low len = true → { x with stale := true } ∈ t.store ∧
        ∀ k z, s.group? k = some z → z.ctx = gr.ctx → z.moved = true → z.copy = some x.id →
          ∃ w, t.group? k = some w ∧ w.refetch = true ∧ w.moved = false) := by
  rw [sinvComplete_eq hg hd hw hc]
  have hu := Votes.group_modGroup hg unwait
  by_cases ha : h = c.arena
  · rw [if_pos ha]
    refine ⟨_, (unwait gr).renewed gr.ctx (staleIn (s.modGroup g unwait) c low len), rfl, rfl, ?_, renewed_eq .., fun hn => absurd ha hn,
      ?_, fun _ x hx hm => ⟨?_, fun k z hz hzc hzm hzn => ?_⟩⟩
    · rw [makeStale_group, hu, Option.map_some]
    · rintro rfl
      exact makeStale_store_nothing ..
    · exact List.mem_map.2 ⟨x, hx, if_pos hm⟩
    · have hf : staleIn (s.modGroup g unwait) c low len x.id = true :=
        List.any_eq_true.2 ⟨x, hx, by simp only [beq_self_eq_true, hm, Bool.and_self]⟩
      rw [makeStale_group, State.group?_modGroup]
      split
      next hk =>
        subst hk
        rw [hz, Option.map_some, Option.map_some, renewed_moves (gr := unwait z) hzc hzm hzn hf]
        exact ⟨_, rfl, rfl, rfl⟩
      next =>
        rw [hz, Option.map_some, renewed_moves hzc hzm hzn hf]
        exact ⟨_, rfl, rfl, rfl⟩
  · rw [if_neg ha]
    exact ⟨_, _, rfl, rfl, hu, rfl, fun _ => rfl, fun _ => rfl, fun h => absurd h ha⟩

/-! ### Groups that wake together (R76) -/

/-- A group whose condition has held goes on. -/
def woken (x : Machine.Group) : Machine.Group := { x with wait := .none, met := false }

/-- The wait orders later reads, so that its core drops the context's cached lines (R109, R331, R333). -/
def drops : Wait → Bool
  | .phase _ _ scope => decide (2 ≤ scope)
  | .word _ _ => true
  | .none | .fuse _ _ | .compose _ _ | .fence _ _ _ _ | .sinv _ _ _ _ _ | .answer _ | .store _ => false

theorem wakeOne_eq : s.wakeOne g gr = if drops gr.wait then (s.modGroup g woken).dropLines (s.coreOf gr) gr.ctx else s.modGroup g woken := by
  unfold State.wakeOne
  cases hw : gr.wait with
  | phase a p k => by_cases hk : 2 ≤ k <;> simp only [drops, hk, decide_true, decide_false, if_true, if_false, Bool.false_eq_true] <;> rfl
  | word a v => rfl
  | none | fuse _ _ | compose _ _ | fence _ _ _ _ | sinv _ _ _ _ _ | answer _ | store _ => rfl

theorem wakeOne_kept : (s.wakeOne g gr).mem = s.mem ∧ (s.wakeOne g gr).crews = s.crews ∧ (s.wakeOne g gr).groups = (s.modGroup g woken).groups ∧
    ∀ l ∈ (s.wakeOne g gr).rcache, l ∈ s.rcache := by
  rw [wakeOne_eq]
  split
  · exact ⟨rfl, rfl, rfl, fun l hl => (List.mem_filter.1 hl).1⟩
  · exact ⟨rfl, rfl, rfl, fun l hl => hl⟩

theorem wakeOne_drops (h : drops gr.wait = true) : ∀ l ∈ (s.wakeOne g gr).rcache, ¬ (l.core = s.coreOf gr ∧ l.ctx = gr.ctx) := by
  rw [wakeOne_eq, if_pos h]
  intro l hl hk
  have hf := (List.mem_filter.1 hl).2
  simp only [hk.1, hk.2, beq_self_eq_true, Bool.and_self, Bool.not_true, Bool.false_eq_true] at hf

/-- The groups of a list go on, one after the other. -/
def wakeAll (s : Machine.State) (l : List (Nat × Machine.Group)) : Machine.State := l.foldl (fun s x => s.wakeOne x.1 x.2) s

theorem wakeAll_kept (l : List (Nat × Machine.Group)) : (wakeAll s l).mem = s.mem ∧ (wakeAll s l).crews = s.crews ∧
    ∀ x ∈ (wakeAll s l).rcache, x ∈ s.rcache := by
  induction l generalizing s with
  | nil => exact ⟨rfl, rfl, fun _ h => h⟩
  | cons a r ih =>
    obtain ⟨hm, hc, -, hr⟩ := wakeOne_kept (s := s) (g := a.1) (gr := a.2)
    obtain ⟨im, ic, ir⟩ := ih (s := s.wakeOne a.1 a.2)
    exact ⟨im.trans hm, ic.trans hc, fun x hx => hr x (ir x hx)⟩

theorem wakeAll_group (l : List (Nat × Machine.Group)) (k : Nat) :
    (wakeAll s l).group? k = if k ∈ l.map (·.1) then (s.group? k).map woken else s.group? k := by
  induction l generalizing s with
  | nil => rfl
  | cons a r ih =>
    have h1 : (s.wakeOne a.1 a.2).group? k = if k = a.1 then (s.group? k).map woken else s.group? k := by
      have := State.group?_modGroup s a.1 woken k
      rw [State.group?, (wakeOne_kept (s := s) (g := a.1) (gr := a.2)).2.2.1]
      refine this.trans ?_
      split
      next h => rw [h]
      next => rfl
    refine ih.trans ?_
    have hm : k ∈ (a :: r).map (·.1) ↔ k = a.1 ∨ k ∈ r.map (·.1) := by rw [List.map_cons, List.mem_cons]
    rw [h1]
    by_cases ha : k = a.1 <;> by_cases hr : k ∈ r.map (·.1)
    · rw [if_pos hr, if_pos ha, if_pos (hm.2 (.inl ha)), Option.map_map]; rfl
    · rw [if_neg hr, if_pos ha, if_pos (hm.2 (.inl ha))]
    · rw [if_pos hr, if_neg ha, if_pos (hm.2 (.inr hr))]
    · rw [if_neg hr, if_neg ha, if_neg fun h => (hm.1 h).elim ha hr]

theorem wakeAll_drops {l : List (Nat × Machine.Group)} (hm : (g, gr) ∈ l) (h : drops gr.wait = true) :
    ∀ x ∈ (wakeAll s l).rcache, ¬ (x.core = s.coreOf gr ∧ x.ctx = gr.ctx) := by
  induction l generalizing s with
  | nil => exact absurd hm List.not_mem_nil
  | cons a r ih =>
    rcases List.mem_cons.1 hm with rfl | hr
    · exact fun x hx => wakeOne_drops h x ((wakeAll_kept (s := s.wakeOne g gr) r).2.2 x hx)
    · have hc : (s.wakeOne a.1 a.2).coreOf gr = s.coreOf gr := by
        unfold State.coreOf State.crew?
        rw [(wakeOne_kept (s := s) (g := a.1) (gr := a.2)).2.1]
      exact hc ▸ ih (s := s.wakeOne a.1 a.2) hr

theorem mem_of_tget {α : Type} {t : Tab α} {n : Nat} {x : α} (h : tget t n = some x) : (n, x) ∈ t := by
  induction t with
  | nil => nomatch h
  | cons a r ih =>
    obtain ⟨k, y⟩ := a
    simp only [tget] at h
    split at h
    next hk => cases h; exact hk ▸ List.mem_cons_self
    next =>
      split at h
      · nomatch h
      · exact List.mem_cons_of_mem _ (ih h)

theorem mem_wakers {w : Nat} (hw : watchedWord gr.wait = some w) {k : Nat} {x : Machine.Group} (hx : s.group? k = some x)
    (hm : x.metDue = true) (hxw : watchedWord x.wait = some w) : (k, x) ∈ s.wakers gr :=
  List.mem_filter.2 ⟨mem_of_tget hx, by simp only [hm, hw, hxw, beq_self_eq_true, Bool.and_self]⟩

theorem groupWake_wakes (hg : s.group? g = some gr) (hm : gr.metDue = true) (hr : s.refetchDue gr = false) :
    exec (.groupWake g) s = .next (wakeAll s (s.wakers gr)) := by
  show execGroupWake g s = _
  simp only [execGroupWake, hg, hr, hm, Bool.false_eq_true, if_false, if_true]
  rfl

theorem groupWake_together (hg : s.group? g = some gr) {w : Nat} (hm : gr.metDue = true) (hw : watchedWord gr.wait = some w)
    (hr : s.refetchDue gr = false) : ∃ t, exec (.groupWake g) s = .next t ∧ t.mem = s.mem ∧
      (∀ h x, s.group? h = some x → x.metDue = true → watchedWord x.wait = some w → t.group? h = some { x with wait := .none, met := false }) ∧
      (∀ h x, s.group? h = some x → ∃ y, t.group? h = some y ∧ (y = x ∨ y = { x with wait := .none, met := false })) ∧
      (∀ ph k, gr.wait = .phase w ph k → 2 ≤ k → ∀ l ∈ t.rcache, ¬ (l.core = s.coreOf gr ∧ l.ctx = gr.ctx)) ∧
      (∀ v, gr.wait = .word w v → ∀ l ∈ t.rcache, ¬ (l.core = s.coreOf gr ∧ l.ctx = gr.ctx)) := by
  have hin := mem_wakers hw hg hm hw
  refine ⟨_, groupWake_wakes hg hm hr, (wakeAll_kept _).1, fun h x hx hxm hxw => ?_, fun h x hx => ?_, fun ph k hp hk => ?_, fun v hv => ?_⟩
  · rw [wakeAll_group, if_pos (List.mem_map.2 ⟨_, mem_wakers hw hx hxm hxw, rfl⟩), hx]
    rfl
  · rw [wakeAll_group]
    split
    · exact ⟨woken x, by rw [hx]; rfl, .inr rfl⟩
    · exact ⟨x, hx, .inl rfl⟩
  · exact wakeAll_drops hin (by rw [hp]; exact decide_eq_true hk)
  · exact wakeAll_drops hin (by rw [hv]; rfl)

theorem groupWake_enters (hg : s.group? g = some gr) {x : Sta} (hd : s.enterDue gr = true) (hr : s.refetchDue gr = false)
    (hw : gr.wait = .store x) : exec (.groupWake g) s = .next ((s.modGroup g woken).enter g x) := by
  have hm : gr.metDue = false := by
    unfold Machine.Group.metDue
    rw [hw]
    exact Bool.and_false _
  show execGroupWake g s = _
  simp only [execGroupWake, hg, hr, hm, hd, hw, Bool.false_eq_true, if_false]
  rfl

/-! ### Code fetched anew (R228, R230) -/

theorem makeRoom_eq {core n k : Nat} {t : Machine.State} (h : s.makeRoom core n k = some t) : t = { s with store := t.store } := by
  induction k generalizing s with
  | zero =>
    unfold State.makeRoom at h
    split at h
    · cases h; rfl
    · nomatch h
  | succ k ih =>
    unfold State.makeRoom at h
    split at h
    · cases h; rfl
    · split at h
      · nomatch h
      · have e := ih h
        exact e

/-- Every copy of a station on a core that is not stale holds the arena's words. -/
def CopiesFresh (s : Machine.State) (core ctx codeid kernel num : Nat) : Prop :=
  ∀ c ∈ s.store, c.core = core → c.hash = s.hashOf ctx codeid → c.kernel = kernel → c.num = num → c.stale = false →
    c.words = s.fetchStation ctx codeid kernel num

theorem codeFor_fresh {core ctx codeid kernel num n : Nat} {t : Machine.State} {ws : List Word}
    (hf : CopiesFresh s core ctx codeid kernel num) (h : s.codeFor core ctx codeid kernel num = some (t, n, ws)) :
    ws = s.fetchStation ctx codeid kernel num ∧ t.mem = s.mem ∧ t.groups = s.groups := by
  unfold State.codeFor at h
  dsimp only at h
  split at h
  next c hc =>
    cases h
    have hp := List.find?_some hc
    simp only [Bool.and_eq_true, beq_iff_eq, Bool.not_eq_true'] at hp
    obtain ⟨⟨⟨⟨h1, h2⟩, h3⟩, h4⟩, h5⟩ := hp
    exact ⟨hf c (List.mem_of_find?_eq_some hc) h1 h2 h3 h4 h5, rfl, rfl⟩
  next =>
    split at h
    · nomatch h
    · split at h
      · nomatch h
      next s2 hs2 =>
        cases h
        have he := makeRoom_eq hs2
        exact ⟨rfl, congrArg (·.mem) he, congrArg (·.groups) he⟩

/-- Copies of a group's station whose words are not those of the arena are stale. -/
def staleUnless (s : Machine.State) (gr : Machine.Group) (ws : List Word) (x : Cached) : Cached :=
  if x.core == s.coreOf gr && x.hash == s.hashOf gr.ctx (s.codeOf gr).1 && x.kernel == (s.codeOf gr).2 && x.num == gr.station && x.words != ws
  then { x with stale := true } else x

theorem staleUnless_fresh {ws : List Word} {x : Cached} (h1 : (staleUnless s gr ws x).core = s.coreOf gr)
    (h2 : (staleUnless s gr ws x).hash = s.hashOf gr.ctx (s.codeOf gr).1) (h3 : (staleUnless s gr ws x).kernel = (s.codeOf gr).2)
    (h4 : (staleUnless s gr ws x).num = gr.station) (h5 : (staleUnless s gr ws x).stale = false) : (staleUnless s gr ws x).words = ws := by
  unfold staleUnless at *
  split at h5
  next => nomatch h5
  next hn =>
    rw [if_neg hn] at h1 h2 h3 h4 ⊢
    by_contra hw
    exact hn (by simp only [h1, h2, h3, h4, bne_iff_ne.2 hw, beq_self_eq_true, Bool.and_self])

theorem codeAnew_fresh {t : Machine.State} {n : Nat} {ws : List Word} (h : s.codeAnew gr = some (t, n, ws)) :
    ws = s.fetchStation gr.ctx (s.codeOf gr).1 (s.codeOf gr).2 gr.station ∧ t.mem = s.mem ∧ t.groups = s.groups := by
  unfold State.codeAnew at h
  dsimp only at h
  split at h
  · nomatch h
  · have hf : CopiesFresh { s with store := s.store.map (staleUnless s gr (s.fetchStation gr.ctx (s.codeOf gr).1 (s.codeOf gr).2 gr.station)) }
        (s.coreOf gr) gr.ctx (s.codeOf gr).1 (s.codeOf gr).2 gr.station := by
      intro c hc h1 h2 h3 h4 h5
      obtain ⟨x, -, rfl⟩ := List.mem_map.1 hc
      exact staleUnless_fresh h1 h2 h3 h4 h5
    have e := codeFor_fresh hf h
    exact e

/-- A group with its station's code anew, of a copy. -/
def withCode (ws : List Word) (n : Nat) (x : Machine.Group) : Machine.Group := { x with code := ws, copy := some n, refetch := false }

theorem groupWake_refetches (hg : s.group? g = some gr) (hd : s.refetchDue gr = true) : ∃ t y, exec (.groupWake g) s = .next t ∧
    t.mem = s.mem ∧ t.group? g = some y ∧
    y = { gr with code := s.fetchStation gr.ctx (s.codeOf gr).1 (s.codeOf gr).2 gr.station, copy := y.copy, refetch := false } := by
  have he : exec (.groupWake g) s = .next (s.refetched g gr) := by
    show execGroupWake g s = _
    simp only [execGroupWake, hg, hd, if_true]
  have hs : (s.codeAnew gr).isSome = true := (Bool.and_eq_true_iff.1 hd).2
  obtain ⟨⟨u, n, ws⟩, hu⟩ := Option.isSome_iff_exists.1 hs
  obtain ⟨rfl, hm, hgs⟩ := codeAnew_fresh hu
  have hug : u.group? g = some gr := (congrArg (tget · g) hgs).trans hg
  have hr : s.refetched g gr = u.modGroup g (withCode (s.fetchStation gr.ctx (s.codeOf gr).1 (s.codeOf gr).2 gr.station) n) := by
    simp only [State.refetched, hu]
    rfl
  exact ⟨_, _, he.trans (congrArg Host.Outcome.next hr), hm, Votes.group_modGroup hug _, rfl⟩

/-! ### A group that retires, ages, or stands at a fuse site -/

theorem groupRetire_retires (hg : s.group? g = some gr) (hd : s.retireDue g gr = true) : exec (.groupRetire g) s = .next (s.retireGroup g) := by
  show execGroupRetire g s = _
  simp only [execGroupRetire, hg, hd, if_true]

theorem generalAgeSelect_selects (hg : s.group? g = some gr) (hd : s.ageDue g gr = true) : exec (.generalAgeSelect g) s =
    .next { s.modGroup g fun x => { x with ready := none } with agenda := .issue g :: s.agenda } := by
  show execGeneralAgeSelect g s = _
  simp only [execGeneralAgeSelect, hg, hd, if_true]
  rfl

theorem fuseResolve_resolves {crew site : Nat} (hd : s.siteDue crew site = true) :
    exec (.fuseResolve crew site) s = .next (s.resolveSite crew site) := by
  show execFuseResolve crew site s = _
  simp only [execFuseResolve, hd, if_true]

end Sys2Proof.Claims.Waits

/-! A fuse site of two groups resolves (R48 to R50). -/
namespace Sys2Proof.Claims.Fuses
open Sys2Proof.Machine Sys2Proof.Claims.Traces
-- One proof at a time: the text is compiled as one file, whose memory parallel elaboration would exceed.
set_option Elab.async false

variable {s : Machine.State}

/-! ### The parts of a resolution -/

/-- A parked group leaves the site: fused with its partner, or alone; a group that is fused into another stays. -/
def leaves (pairs : List (Nat × Nat)) (s : Machine.State) (x : Nat × Machine.Group) : Machine.State :=
  match pairs.find? (·.1 == x.1) with
  | some (_, h) => match s.group? h, s.launchOf x.2 with
    | some hr, some l => (s.modGroup x.1 fun gr => (gr.absorb hr l.fminit).leaveSite 1).traceLive x.1 x.2.liveLanes false
    | _, _ => s
  | none => if pairs.any (·.2 == x.1) then s else s.modGroup x.1 fun gr => gr.leaveSite 0

/-- What bound an accumulator to a group that is no more. -/
def unbindFrom (i : Nat) (c : Machine.Crew) : Machine.Crew := { c with accs := c.accs.map fun a => match a.bind with
  | none => a
  | some (j, _) => if j = i then { a with bind := none } else a }

/-- A pair's second group is no more. -/
def joins (crew : Nat) (s : Machine.State) (x : Nat × Nat) : Machine.State :=
  match s.group? x.2, s.group? x.1 with
  | none, _ | _, none => s
  | some hr, some gr => ((s.fuseBuffer crew gr.gidx hr.gidx).modCrew crew (unbindFrom hr.gidx)).retireGroup x.2

theorem resolveSite_eq (crew site : Nat) : s.resolveSite crew site =
    let parked := atSite s crew site
    let pairs := pairUp parked.length parked
    pairs.foldl (joins crew) (parked.foldl (leaves pairs) (parked.foldl (fun s x => s.release x.1) s)) := rfl

theorem atSite_group {crew site k : Nat} {x : Machine.Group} (h : (k, x) ∈ atSite s crew site) : s.group? k = some x := by
  obtain ⟨n, -, hn⟩ := List.mem_filterMap.1 h
  split at hn
  next y hy =>
    split at hn
    · cases hn; exact hy
    · nomatch hn
  next => nomatch hn

/-! ### What a part leaves -/

/-- A group under the id of its next region. -/
def renamed (n : Nat) (x : Machine.Group) : Machine.Group := { x with gid := n }

/-- The id of the next region of a slot (R111). -/
def nextGid (s : Machine.State) (g : Nat) : Nat := gidOf g ((tget s.slotCtr g).getD 0 + 1)

theorem release_group (g k : Nat) : (s.release g).group? k =
    if k = g then (s.group? g).map (renamed (nextGid s g)) else s.group? k := by
  have h : (s.release g).group? k = tget (tmod ((s.lapse g).setCtr g ((tget s.slotCtr g).getD 0 + 1)).groups g
    (renamed (nextGid s g))) k := rfl
  rw [h, tget_tmod, State.lapse_eq]
  rfl

theorem launchOf_release (g : Nat) (gr : Machine.Group) : (s.release g).launchOf gr = s.launchOf gr := by
  rw [State.release_eq]
  rfl

theorem positions_length {α : Type} (p : α → Bool) (l : List α) (i : Nat) : (positions p l i).length = (l.filter p).length := by
  induction l generalizing i with
  | nil => rfl
  | cons a r ih =>
    unfold positions
    by_cases h : p a = true
    · simp only [h, if_true, List.length_cons, List.filter_cons, ih]
    · simp only [h, if_false, List.filter_cons, ih, Bool.false_eq_true]

theorem dropStops_groups (gr : Machine.Group) : (s.dropStops gr).groups = s.groups := by
  have h : ∀ (l : List DbgStop) (u : Machine.State), (l.foldl State.endStop u).groups = u.groups := fun l => by
    induction l with
    | nil => exact fun _ => rfl
    | cons x r ih => exact fun u => ih (u.endStop x)
  exact h ..

theorem orphan_groups (h : Nat) : (s.orphan h).groups = s.groups := by
  show (s.lapse h).groups = s.groups
  rw [State.lapse_eq]

theorem retireCrew_groups (c : Nat) : (s.retireCrew c).groups = s.groups := by
  unfold State.retireCrew
  split
  · rfl
  next cr _ =>
    dsimp only
    split <;> split <;> rfl

theorem retireGroup_groups {h : Nat} {hr : Machine.Group} (hh : s.group? h = some hr) : (s.retireGroup h).groups = tdel s.groups h := by
  have he : ((s.dropStops hr).orphan h).groups = s.groups := (orphan_groups h).trans (dropStops_groups hr)
  unfold State.retireGroup
  simp only [hh]
  split
  · exact (retireCrew_groups ..).trans (congrArg (tdel · h) he)
  · exact congrArg (tdel · h) he

theorem fuseBuffer_groups (crew i j : Nat) : (s.fuseBuffer crew i j).groups = s.groups := by
  unfold State.fuseBuffer
  split <;> rfl

theorem joins_groups {crew g h : Nat} {gr hr : Machine.Group} (hg : s.group? g = some gr) (hh : s.group? h = some hr) :
    (joins crew s (g, h)).groups = tdel s.groups h := by
  unfold joins
  simp only [hg, hh]
  have hf := fuseBuffer_groups (s := s) crew gr.gidx hr.gidx
  refine (retireGroup_groups (hr := hr) ?_).trans (congrArg (tdel · h) hf)
  exact (congrArg (tget · h) hf).trans hh

theorem leaveSite_fuse {gr : Machine.Group} {site sd : Nat} (hw : gr.wait = .fuse site sd) (v : DWord) :
    gr.leaveSite v = { gr.ws sd v with wait := .none } := by
  unfold Machine.Group.leaveSite
  rw [hw]

/-! ### Pairs of two groups (R49) -/

/-- Two groups of a site pair. -/
def Pairs (gr hr : Machine.Group) : Prop :=
  gr.eligible = true ∧ hr.eligible = true ∧ hr.role = gr.role ∧ hr.station = gr.station ∧ hr.members = gr.members ∧
    (gr.lanes.filter Lane.live ++ hr.lanes.filter Lane.live).length ≤ gr.lanes.length

theorem partner_eq (gr hr : Machine.Group) (h : Nat) : (partner gr [(h, hr)] = some h ∧ hr.eligible = true ∧ hr.role = gr.role ∧
      hr.station = gr.station ∧ hr.members = gr.members ∧ (gr.lanes.filter Lane.live ++ hr.lanes.filter Lane.live).length ≤ gr.lanes.length) ∨
    (partner gr [(h, hr)] = none ∧ ¬ (hr.eligible = true ∧ hr.role = gr.role ∧
      hr.station = gr.station ∧ hr.members = gr.members ∧ (gr.lanes.filter Lane.live ++ hr.lanes.filter Lane.live).length ≤ gr.lanes.length)) := by
  unfold partner
  rw [List.find?_cons]
  split
  next hc =>
    simp only [Bool.and_eq_true, beq_iff_eq, decide_eq_true_eq, Machine.Group.liveLanes, positions_length] at hc
    obtain ⟨⟨⟨⟨h1, h2⟩, h3⟩, h4⟩, h5⟩ := hc
    exact .inl ⟨rfl, h1, h2, h3, h4, (List.length_append ..).trans_le h5⟩
  next hc =>
    refine .inr ⟨rfl, fun ⟨h1, h2, h3, h4, h5⟩ => ?_⟩
    rw [List.length_append] at h5
    simp only [h1, h2, h3, h4, beq_self_eq_true, Bool.true_and, decide_eq_false_iff_not, Machine.Group.liveLanes, positions_length] at hc
    exact hc h5

theorem pairUp_alone (n h : Nat) (hr : Machine.Group) : pairUp n [(h, hr)] = [] := by
  cases n with
  | zero => rfl
  | succ n =>
    have hp : pairUp n [] = [] := by cases n <;> rfl
    simp only [pairUp]
    split
    · exact hp
    · exact hp

theorem pairUp_pairs {gr hr : Machine.Group} (g h : Nat) (hp : Pairs gr hr) : pairUp 2 [(g, gr), (h, hr)] = [(g, h)] := by
  obtain ⟨he, hq⟩ := hp
  obtain ⟨h1, -⟩ | ⟨-, h1⟩ := partner_eq gr hr h
  · have hf : ([(h, hr)] : List (Nat × Machine.Group)).filter (·.1 != h) = [] := by
      simp only [List.filter_cons, bne_self_eq_false, Bool.false_eq_true, if_false, List.filter_nil]
    simp only [pairUp, he, if_true, h1, hf]
  · exact absurd hq h1

theorem pairUp_apart {gr hr : Machine.Group} (g h : Nat) (hp : ¬ Pairs gr hr) : pairUp 2 [(g, gr), (h, hr)] = [] := by
  have ha := pairUp_alone 1 h hr
  by_cases he : gr.eligible = true
  · obtain ⟨-, h1⟩ | ⟨h1, -⟩ := partner_eq gr hr h
    · exact absurd ⟨he, h1⟩ hp
    · unfold pairUp
      simp only [he, if_true, h1, ha]
  · unfold pairUp
    simp only [he, if_false, Bool.false_eq_true, ha]

/-! ### Two groups at a site -/

section
variable {g h : Nat} {gr hr : Machine.Group} {crew site : Nat} (hat : atSite s crew site = [(g, gr), (h, hr)]) (hne : g ≠ h)
include hat hne

/-- Each has ended its region. -/
theorem released_groups : ∃ m n, ((s.release g).release h).group? g = some (renamed m gr) ∧
    ((s.release g).release h).group? h = some (renamed n hr) := by
  have hg : s.group? g = some gr := atSite_group (hat ▸ List.mem_cons_self)
  have hh : s.group? h = some hr := atSite_group (hat ▸ List.mem_cons_of_mem _ List.mem_cons_self)
  refine ⟨nextGid s g, nextGid (s.release g) h, ?_, ?_⟩
  · rw [release_group, if_neg hne, release_group, if_pos rfl, hg, Option.map_some]
  · rw [release_group, if_pos rfl, release_group, if_neg hne.symm, hh, Option.map_some]

/-- A group with the lanes of its partner, off the site. -/
def fused (hr : Machine.Group) (m : BitVec 16) (x : Machine.Group) : Machine.Group := (x.absorb hr m).leaveSite 1

/-- The site's state once the first group is fused with the second. -/
def fusedState (s : Machine.State) (g : Nat) (gr : Machine.Group) (hr : Machine.Group) (m : BitVec 16) : Machine.State :=
  (s.modGroup g (fused hr m)).traceLive g gr.liveLanes false

omit hat in
theorem leaves_pair {l : Launch} {hr' : Machine.Group} (hl : s.launchOf gr = some l) (hh : s.group? h = some hr') :
    leaves [(g, h)] (leaves [(g, h)] s (g, gr)) (h, hr) = fusedState s g gr hr' l.fminit := by
  have h1 : leaves [(g, h)] s (g, gr) = fusedState s g gr hr' l.fminit := by
    simp only [leaves, List.find?_cons, beq_self_eq_true, hl, hh]
    rfl
  have h2 : (g == h) = false := beq_eq_false_iff_ne.2 hne
  rw [h1]
  simp only [leaves, List.find?_cons, h2, List.find?_nil, List.any_cons, beq_self_eq_true, Bool.true_or, if_true]

theorem resolveSite_pair {l : Launch} (hl : s.launchOf gr = some l) (hp : Pairs gr hr) : ∃ n,
    ((s.release g).release h).group? h = some (renamed n hr) ∧
    s.resolveSite crew site = joins crew (fusedState ((s.release g).release h) g gr (renamed n hr) l.fminit) (g, h) := by
  obtain ⟨m, n, -, hh⟩ := released_groups hat hne
  refine ⟨n, hh, ?_⟩
  have hl' : ((s.release g).release h).launchOf gr = some l := by rw [launchOf_release, launchOf_release, hl]
  rw [resolveSite_eq, hat]
  simp only [List.length_cons, List.length_nil, pairUp_pairs g h hp, List.foldl_cons, List.foldl_nil]
  exact congrArg (joins crew · (g, h)) (leaves_pair hne hl' hh)

omit hat hne in
theorem fused_held {site sg : Nat} (m n : Nat) (v : BitVec 16) (hw : gr.wait = .fuse site sg) :
    (fused (renamed n hr) v (renamed m gr)).wait = .none ∧ (fused (renamed n hr) v (renamed m gr)).s = (gr.ws sg 1).s ∧
      (fused (renamed n hr) v (renamed m gr)).k = gr.k ∧ (fused (renamed n hr) v (renamed m gr)).lanes = (gr.absorb hr v).lanes := by
  unfold fused
  rw [leaveSite_fuse (gr := (renamed m gr).absorb (renamed n hr) v) hw]
  unfold Machine.Group.ws
  split
  · exact ⟨rfl, rfl, rfl, rfl⟩
  · exact ⟨rfl, rfl, rfl, rfl⟩

theorem resolveSite_pairs {l : Launch} {sg : Nat} (hl : s.launchOf gr = some l) (hw : gr.wait = .fuse site sg) (hp : Pairs gr hr) :
    ∃ gs y, (s.resolveSite crew site).groups = tdel gs h ∧ tget gs g = some y ∧ y.wait = .none ∧ y.s = (gr.ws sg 1).s ∧ y.k = gr.k ∧
      y.lanes = (gr.absorb hr l.fminit).lanes := by
  obtain ⟨n, hh, he⟩ := resolveSite_pair hat hne hl hp
  obtain ⟨m, -, hg, -⟩ := released_groups hat hne
  have ht := (traced_traceLive (s := ((s.release g).release h).modGroup g (fused (renamed n hr) l.fminit)) g gr.liveLanes false).2.1
  have htg := ht g
  have hth := ht h
  rw [Votes.group_modGroup hg] at htg
  rw [State.group?_modGroup, if_neg hne.symm, hh] at hth
  obtain ⟨y, hy, hky⟩ := Option.map_eq_some_iff.1 htg
  obtain ⟨z, hz, -⟩ := Option.map_eq_some_iff.1 hth
  obtain ⟨h1, h2, h3, h4⟩ := fused_held (hr := hr) m n l.fminit hw
  exact ⟨_, y, (congrArg (·.groups) he).trans (joins_groups hy hz), hy, Eq.trans (congrArg (·.wait) hky) h1, Eq.trans (congrArg (·.s) hky) h2,
    Eq.trans (congrArg (·.k) hky) h3, Eq.trans (congrArg (·.lanes) hky) h4⟩

theorem resolveSite_apart {sg sh : Nat} (hwg : gr.wait = .fuse site sg) (hwh : hr.wait = .fuse site sh) (hp : ¬ Pairs gr hr) :
    ∃ y z, (s.resolveSite crew site).group? g = some y ∧ (s.resolveSite crew site).group? h = some z ∧ y.wait = .none ∧ z.wait = .none ∧
      y.s = (gr.ws sg 0).s ∧ z.s = (hr.ws sh 0).s ∧ y.lanes = gr.lanes ∧ z.lanes = hr.lanes := by
  obtain ⟨m, n, hg1, hh1⟩ := released_groups hat hne
  have he : s.resolveSite crew site =
      (((s.release g).release h).modGroup g fun x => x.leaveSite 0).modGroup h fun x => x.leaveSite 0 := by
    rw [resolveSite_eq, hat]
    simp only [List.length_cons, List.length_nil, pairUp_apart g h hp, List.foldl_cons, List.foldl_nil]
    rfl
  have hl : ∀ {x : Machine.Group} {sd : Nat} (k : Nat), x.wait = .fuse site sd → ((renamed k x).leaveSite 0).wait = .none ∧
      ((renamed k x).leaveSite 0).s = (x.ws sd 0).s ∧ ((renamed k x).leaveSite 0).lanes = x.lanes := by
    intro x sd k hw
    rw [leaveSite_fuse (gr := renamed k x) hw]
    unfold Machine.Group.ws
    split
    · exact ⟨rfl, rfl, rfl⟩
    · exact ⟨rfl, rfl, rfl⟩
  obtain ⟨g1, g2, g3⟩ := hl m hwg
  obtain ⟨h1, h2, h3⟩ := hl n hwh
  refine ⟨_, _, ?_, ?_, g1, h1, g2, h2, g3, h3⟩
  · rw [he, State.group?_modGroup, if_neg hne, Votes.group_modGroup hg1]
  · rw [he, Votes.group_modGroup (by rw [State.group?_modGroup, if_neg hne.symm, hh1])]

end

end Sys2Proof.Claims.Fuses

open Sys2Proof Sys2Proof.Claims Sys2Proof.Claims.Waits Sys2Proof.Claims.Fuses

/-- Settles O42: each step that ends a wait is due, and what it leaves is that of the parts it consists of. -/
theorem waitSteps : Obligations.WaitSteps := by
  intro s g gr hg
  refine ⟨fun ops cmds drop ends hd hw => fenceComplete_ends hg hd hw, fun ops cmds h low len c hd hw hc => sinvComplete_ends hg hd hw hc,
    fun w hm hw hr => groupWake_together hg hm hw hr, fun x hd hr hw => groupWake_enters hg hd hr hw, groupWake_refetches hg,
    groupRetire_retires hg, generalAgeSelect_selects hg, fun site => fuseResolve_resolves, fun site h hr l sg sh hd hat hne hl hwg hwh => ?_⟩
  intro live pairs
  refine ⟨fun hp => ?_, fun hp => ?_⟩
  · obtain ⟨gs, y, hgs, hy, h1, h2, h3, h4⟩ := resolveSite_pairs hat hne hl hwg hp
    exact ⟨_, gs, y, fuseResolve_resolves hd, hgs, hy, h1, h2, h3, h4⟩
  · obtain ⟨y, z, hy, hz, hk⟩ := resolveSite_apart hat hne hwg hwh hp
    exact ⟨_, y, z, fuseResolve_resolves hd, hy, hz, hk⟩

/-! MATRIX_ENGINE_PERFORM (R145, R343 to R353): the oldest queued word of a crew. -/
namespace Sys2Proof.Claims.Engine
open Sys2Proof.Machine
-- One proof at a time: the text is compiled as one file, whose memory parallel elaboration would exceed.
set_option Elab.async false

variable {s : Machine.State} {e : MEntry} {c : Machine.Crew} {core : Nat}

theorem matrixEnginePerform_performs (hn : s.engineNext core s.engine [] = some e) (hc : s.crew? e.crew = some c) :
    exec (.matrixEnginePerform core) s = .next (s.performMatrix e c) := by
  show execMatrixEnginePerform core s = _
  simp only [execMatrixEnginePerform, hn, hc]

theorem crew_modTile (hc : s.crew? e.crew = some c) (k : Nat) (f : Tile → Tile) :
    ((s.leaveEngine e).modTile e.crew k f).crew? e.crew = some { c with tiles := c.tiles.set k (f (c.tile k)) } :=
  (tget_tmod_same ..).trans (congrArg (Option.map _) hc)

theorem crew_modAccum (hc : s.crew? e.crew = some c) (a : Nat) (f : Accum → Accum) :
    ((s.leaveEngine e).modAccum e.crew a f).crew? e.crew = some { c with accs := c.accs.set a (f (c.acc a)) } :=
  (tget_tmod_same ..).trans (congrArg (Option.map _) hc)

theorem noteShape_kept (crew bit : Nat) : (s.noteShape crew bit).mem = s.mem ∧ (s.noteShape crew bit).groups = s.groups ∧
    (s.noteShape crew bit).crews = s.crews := by
  unfold State.noteShape
  split
  · exact ⟨rfl, rfl, rfl⟩
  · exact ⟨rfl, rfl, rfl⟩

/-! ### The elements of an accumulator (R353) -/

theorem onRows_elem {x : Accum} {gidx w0 : Nat} (hb : x.bind = some (gidx, w0)) (act : List Nat) (f : Nat → Nat → Nat → Word → Word)
    {i j : Nat} (hi : i < 64) (hj : j < 64) :
    (x.onRows act f).elem i j = if w0 + i ∈ act then f (w0 + i) i j (x.elem i j) else x.elem i j := by
  unfold Accum.onRows
  rw [hb]
  simp only [Accum.elem, List.getElem?_map, List.getElem?_range hi, Option.map_some, Option.getD_some, List.getElem?_range hj,
    List.contains_iff_mem]

theorem onRows_bind (x : Accum) (act : List Nat) (f : Nat → Nat → Nat → Word → Word) : (x.onRows act f).bind = x.bind := by
  unfold Accum.onRows
  split
  · rfl
  next h => exact h.symm ▸ rfl

/-- The elements of an accumulator whose lanes are active are changed, and nothing else of the crew. -/
def Changes (e : MEntry) (c : Machine.Crew) (a w0 : Nat) (f : Nat → Nat → Nat → Word → Word) (y : Machine.Crew) : Prop :=
  y.tiles = c.tiles ∧ (y.acc a).bind = (c.acc a).bind ∧ (∀ b, b ≠ a → y.acc b = c.acc b) ∧
    ∀ i < 64, ∀ j < 64, (Touched e w0 i → (y.acc a).elem i j = f (w0 + i) i j ((c.acc a).elem i j)) ∧
      (¬ Touched e w0 i → (y.acc a).elem i j = (c.acc a).elem i j)

theorem onRows_changes {a gidx w0 : Nat} (hb : (c.acc a).bind = some (gidx, w0)) (ha : a < c.accs.length)
    (f : Nat → Nat → Nat → Word → Word) : Changes e c a w0 f { c with accs := c.accs.set a ((c.acc a).onRows e.act f) } := by
  have hsame : Machine.Crew.acc { c with accs := c.accs.set a ((c.acc a).onRows e.act f) } a = (c.acc a).onRows e.act f := by
    show ((c.accs.set a _)[a]?).getD _ = _
    rw [List.getElem?_set_self ha, Option.getD_some]
  refine ⟨rfl, by rw [hsame, onRows_bind], fun b hne => ?_, fun i hi j hj => ⟨fun ht => ?_, fun ht => ?_⟩⟩
  · show ((c.accs.set a _)[b]?).getD _ = _
    rw [List.getElem?_set_ne hne.symm]
    rfl
  · rw [hsame, onRows_elem hb _ _ hi hj]; exact if_pos ht
  · rw [hsame, onRows_elem hb _ _ hi hj]; exact if_neg ht

/-- What an accumulator word does to an element, by lane, row and column, and the accumulator it writes (R145 to R153). -/
def wordElem (e : MEntry) (c : Machine.Crew) : Option (Nat × (Nat → Nat → Nat → Word → Word)) :=
  match e.word with
  | .mma a ta tb sh => some (a, fun _ i j old => if fmtClass (tDesc (c.tile ta).tctl).fmt = 0 then
      mmaFloat (mmaMode (e.fmode (e.act.headD 0))) sh (c.tile ta) (c.tile tb) i j old else mmaInt (c.tile ta) (c.tile tb) i j old)
  | .mmb a ta tb op => some (a, fun _ i j old => mmbElem op (c.tile ta) (c.tile tb) i j old)
  | .azero a => some (a, fun _ _ _ _ => 0)
  | .awr a col vs => some (a, fun lane _ j old => if j = col then (match vs.find? (·.1 == lane) with
      | none => old
      | some (_, v) => v) else old)
  | .acvt a d => some (a, fun lane _ _ old => BitVec.ofNat 32 (match d with
      | .s32ToF32 => convert (.flt .f32) (.int true 32) (modeOf (e.fmode lane)) old.toNat
      | .f32ToS32 => convert (.int true 32) (.flt .f32) (modeOf (e.fmode lane)) old.toNat))
  | .tcfg .. | .acfg .. | .ard .. | .tld .. | .tst .. => none

theorem element_eq (w0 i j : Nat) (old : Word) : element c e w0 i j old = (wordElem e c).map fun x => (x.1, x.2 (w0 + i) i j old) := by
  unfold element wordElem
  cases e.word with
  | acvt a d => cases d <;> rfl
  | mma | mmb | azero | awr => rfl
  | tcfg | acfg | ard | tld | tst => rfl

theorem performMatrix_elements {a : Nat} {f : Nat → Nat → Nat → Word → Word} (h : wordElem e c = some (a, f)) :
    (s.performMatrix e c).mem = s.mem ∧ (s.performMatrix e c).groups = s.groups ∧
      (s.performMatrix e c).crews = ((s.leaveEngine e).modAccum e.crew a fun x => x.onRows e.act f).crews := by
  unfold wordElem at h
  unfold State.performMatrix
  cases hw : e.word with
  | mma b ta tb sh =>
    rw [hw] at h; cases h
    exact noteShape_kept ..
  | mmb b ta tb op =>
    rw [hw] at h; cases h
    exact noteShape_kept ..
  | azero b | awr b col vs | acvt b d =>
    rw [hw] at h; cases h
    exact ⟨rfl, rfl, rfl⟩
  | tcfg | acfg | ard | tld | tst =>
    rw [hw] at h
    nomatch h

/-! ### `ard` -/

theorem flightDone_eq {n : Nat} {o : Op} (hn : e.op = some n) (ho : tget s.ops n = some o) : s.flightDone e = (s.leaveEngine e).finishOp n o := by
  unfold State.flightDone
  simp only [hn, ho]

theorem finishOp_crews {gr : Machine.Group} {n : Nat} {o : Op} (hg : s.group? o.group = some gr) (hf : o.fails = []) (hw : o.watch = false)
    (hs : o.sample = false) : (s.finishOp n o).crews = s.crews := by
  have ht : opTrap gr o.group o = none := by
    unfold opTrap
    rw [hf]
    rfl
  rw [Answers.finishOp_eq hg]
  simp only [hs, Answers.watched, hw, Answers.failed, ht, Bool.false_eq_true, if_false]
  rfl

theorem performMatrix_ard {a vd col w0 gidx n : Nat} {gr : Machine.Group} {o : Op} (hw : e.word = .ard a vd col)
    (hb : (c.acc a).bind = some (gidx, w0)) (hg : s.group? e.group = some gr) (hn : e.op = some n) (ho : tget s.ops n = some o)
    (hog : o.group = e.group) (hf : o.fails = []) (hwt : o.watch = false) (hs : o.sample = false) :
    ∃ y, (s.performMatrix e c).mem = s.mem ∧ (s.performMatrix e c).crews = s.crews ∧ (s.performMatrix e c).group? e.group = some y ∧
      y.s = gr.s ∧ y.k = gr.k ∧ y.lanes = (gr.onLanes (e.act.filter fun l => decide (w0 ≤ l ∧ l < w0 + 64)) fun l x =>
        x.wr vd ((c.acc a).elem (l - w0) col)).lanes := by
  obtain ⟨s1, hs1⟩ : ∃ s1, s1 = s.modGroup e.group fun gr => gr.onLanes (e.act.filter fun l => decide (w0 ≤ l ∧ l < w0 + 64)) fun l x =>
    x.wr vd ((c.acc a).elem (l - w0) col) := ⟨_, rfl⟩
  have he : s.performMatrix e c = (s1.leaveEngine e).finishOp n o := by
    rw [← flightDone_eq hn (hs1 ▸ ho), hs1]
    simp only [State.performMatrix, hw, hb]
  have hg1 : (s1.leaveEngine e).group? o.group = some (gr.onLanes (e.act.filter fun l => decide (w0 ≤ l ∧ l < w0 + 64)) fun l x =>
      x.wr vd ((c.acc a).elem (l - w0) col)) := by
    rw [hog, hs1]
    exact Votes.group_modGroup hg _
  obtain ⟨-, hr, hm⟩ := Answers.finishOp_kept (n := n) hg1
  have hk := hr o.group
  rw [hg1, Option.map_some] at hk
  obtain ⟨y, hy, hky⟩ := Option.map_eq_some_iff.1 hk
  simp only [Answers.regs, Prod.mk.injEq] at hky
  obtain ⟨⟨hl, hks, hkk⟩, -⟩ := hky
  rw [he]
  exact ⟨y, (hm hs).1.trans (hs1 ▸ rfl), (finishOp_crews hg1 hf hwt hs).trans (hs1 ▸ rfl), hog ▸ hy, hks, hkk, hl⟩

end Sys2Proof.Claims.Engine

open Sys2Proof Sys2Proof.Claims Sys2Proof.Claims.Engine

/-- Settles O44: an accumulator word is one function on the elements of the rows whose lanes were active. -/
theorem matrixEngineStep : Obligations.MatrixEngineStep := by
  intro core s e c hn hc
  have hp := matrixEnginePerform_performs hn hc
  refine ⟨fun k v hw => ⟨_, hp, ?_⟩, fun a w0 hw => ⟨_, hp, ?_⟩, fun a w0 gidx hv hb ha => ?_,
    fun a vd col w0 gidx gr n o hw hb hg hon ho hog hf hwt hs => ?_, fun _ => ⟨_, hp⟩⟩
  · simp only [Machine.State.performMatrix, hw]
    exact ⟨rfl, rfl, crew_modTile hc _ _⟩
  · simp only [Machine.State.performMatrix, hw]
    exact ⟨rfl, rfl, crew_modAccum hc _ _⟩
  · obtain ⟨v, hv⟩ := hv
    rw [element_eq, Option.map_eq_some_iff] at hv
    obtain ⟨⟨b, f⟩, hf, hv⟩ := hv
    cases hv
    obtain ⟨hm, hg, hcr⟩ := performMatrix_elements (s := s) hf
    obtain ⟨h1, h2, h3, h4⟩ := onRows_changes (e := e) hb ha f
    refine ⟨_, _, hp, hm, hg, (congrArg (Machine.tget · e.crew) hcr).trans (crew_modAccum hc _ _), h1, h2, h3, fun i hi j hj => ?_⟩
    obtain ⟨ht, hnt⟩ := h4 i hi j hj
    refine ⟨fun h => ?_, hnt⟩
    rw [element_eq, hf, Option.map_some, ht h]
  · obtain ⟨y, hm, hcr, hy, hk⟩ := performMatrix_ard hw hb hg hon ho hog hf hwt hs
    exact ⟨_, y, hp, hm, hcr, hy, hk⟩

/-! What a chunk of a copy command leaves in memory (R357, R361 to R364). -/
namespace Sys2Proof.Claims.Chunks
open Sys2Proof.Machine
-- One proof at a time: the text is compiled as one file, whose memory parallel elaboration would exceed.
set_option Elab.async false

/-! ### Bytes put one after the other -/

/-- Bytes put at their addresses, the last one last. -/
def puts (l : List (Nat × Byte)) (m : List Host.Cell) : List Host.Cell := l.foldl (fun m x => mput m x.1 x.2) m

theorem memWf_puts (l : List (Nat × Byte)) {m : List Host.Cell} (h : memWf m = true) : memWf (puts l m) = true :=
  memWf_foldl (fun x => x) l h

theorem mget_puts_other {l : List (Nat × Byte)} {x : Nat} (hx : ∀ p ∈ l, x ≠ p.1) :
    ∀ {m : List Host.Cell}, memWf m = true → mget (puts l m) x = mget m x := by
  induction l with
  | nil => exact fun _ => rfl
  | cons p r ih =>
    intro m hm
    rw [List.forall_mem_cons] at hx
    exact (ih hx.2 (memWf_mput _ _ hm)).trans (mget_mput_other _ _ hm hx.1)

/-- The last byte that goes to an address stands there. -/
theorem mget_puts_last (d : Nat → Nat) (v : Nat → Byte) {bs : List Nat} (hs : bs.Pairwise (· < ·)) {b : Nat} (hb : b ∈ bs)
    (hd : ∀ a ∈ bs, b < a → d a ≠ d b) :
    ∀ {m : List Host.Cell}, memWf m = true → mget (puts (bs.map fun b => (d b, v b)) m) (d b) = v b := by
  induction bs with
  | nil => exact absurd hb List.not_mem_nil
  | cons a r ih =>
    intro m hm
    rw [List.pairwise_cons] at hs
    rcases List.mem_cons.1 hb with rfl | hr
    · refine (mget_puts_other (fun p hp => ?_) (memWf_mput (d b) (v b) hm)).trans (mget_mput_same _ _ hm)
      obtain ⟨a, ha, rfl⟩ := List.mem_map.1 hp
      exact (hd a (List.mem_cons_of_mem _ ha) (hs.1 a ha)).symm
    · exact ih hs.2 hr (fun a ha => hd a (List.mem_cons_of_mem _ ha)) (memWf_mput _ _ hm)

/-- Bytes at addresses that rise by one are a run. -/
theorem puts_run (n : Nat) : ∀ (f : Nat) (v : Nat → Byte) (m : List Host.Cell),
    puts ((List.range n).map fun i => (f + i, v i)) m = mputs m f ((List.range n).map v) := by
  induction n with
  | zero => exact fun _ _ _ => rfl
  | succ n ih =>
    intro f v m
    rw [List.range_succ_eq_map, List.map_cons, List.map_cons, List.map_map, List.map_map]
    refine Eq.trans ?_ (ih (f + 1) (v ∘ Nat.succ) (mput m f (v 0)))
    refine congrArg (fun l => puts l (mput m f (v 0))) (List.map_congr_left fun i _ => ?_)
    show (f + (i + 1), v (i + 1)) = (f + 1 + i, v (i + 1))
    rw [Nat.add_assoc, Nat.add_comm i 1]

/-! ### Runs of moved bytes -/

/-- Where moved bytes go. -/
def landing (ms : List Moved) : List (Nat × Byte) := ms.filterMap fun m => m.dst.map (·, m.val)

theorem movedRuns_puts (ms : List Moved) : ∀ m : List Host.Cell,
    (movedRuns ms).foldl (fun m r => mputs m r.at_ r.vals) m = puts (landing ms) m := by
  induction ms with
  | nil => exact fun _ => rfl
  | cons x r ih =>
    intro m
    unfold movedRuns landing
    rw [List.filterMap_cons]
    split
    next hd =>
      rw [hd, Option.map_none]
      exact ih m
    next d hd =>
      rw [hd, Option.map_some]
      refine Eq.trans ?_ (ih (mput m d x.val))
      dsimp only
      split
      next y rest hr =>
        split
        next hc =>
          rw [hr, List.foldl_cons, List.foldl_cons, hc.1]
          rfl
        next =>
          rw [hr]
          rfl
      next hr =>
        rw [hr]
        rfl

/-- A copy write: memory has the bytes put, and commands and groups are kept. -/
def Wrote (o t : Machine.State) (m : List Host.Cell) : Prop := t.mem = m ∧ t.cmds = o.cmds ∧ GroupsKept o t

theorem groupsKept_refl (s : Machine.State) : GroupsKept s s := fun _ x hx => ⟨x, hx, rfl⟩

theorem groupsKept_trans {s t u : Machine.State} (h1 : GroupsKept s t) (h2 : GroupsKept t u) : GroupsKept s u := by
  intro g x hx
  obtain ⟨y, hy, e1⟩ := h1 g x hx
  obtain ⟨z, hz, e2⟩ := h2 g y hy
  refine ⟨z, hz, ?_⟩
  rw [e2, e1]

theorem wrote_refl (s : Machine.State) : Wrote s s s.mem := ⟨rfl, rfl, groupsKept_refl s⟩

theorem wrote_trans {s t u : Machine.State} {m m' : List Host.Cell} (h1 : Wrote s t m) (h2 : Wrote t u m') : Wrote s u m' :=
  ⟨h2.1, h2.2.1.trans h1.2.1, groupsKept_trans h1.2.2 h2.2.2⟩

variable {s t : Machine.State} {c : Copy}

theorem wrote_runsWrite (s : Machine.State) (x k : Nat) (ws : List (Nat × List Byte)) :
    Wrote s (s.runsWrite x k ws) (ws.foldl (fun m w => mputs m w.1 w.2) s.mem) := by
  obtain ⟨r, hr⟩ := Ports.runsWrite_toDev s x k ws
  refine ⟨congrArg Dev.mem hr, (congrArg Dev.cmds hr).trans rfl, fun g y hy => ?_⟩
  refine ⟨y.reeval (ws.foldl (fun m w => mputs m w.1 w.2) s.mem) ws, ?_, Ports.reeval_met y _ ws⟩
  have hg : (s.runsWrite x k ws).groups = tmap s.groups fun _ gr => gr.reeval (ws.foldl (fun m w => mputs m w.1 w.2) s.mem) ws := congrArg Dev.groups hr
  rw [State.group?, hg, tget_tmap, show tget s.groups g = some y from hy]
  rfl

theorem wrote_memWrite (s : Machine.State) (a : Nat) (bs : List Byte) : Wrote s (s.memWrite a bs) (mputs s.mem a bs) := by
  refine ⟨rfl, rfl, fun g y hy => ⟨_, ?_, Ports.reeval_met y (mputs s.mem a bs) [(a, bs)]⟩⟩
  rw [Arrivals.memWrite_group, hy]
  rfl

/-- One run of a chunk is written, with its tags. -/
def writeRun (c : Copy) (s : Machine.State) (x : MovedRun) : Machine.State :=
  { s.runsWrite c.ctx c.core [(x.at_, x.vals)] with tags := x.tags.foldl tagSet (s.runsWrite c.ctx c.core [(x.at_, x.vals)]).tags }

theorem wrote_writeRun (c : Copy) (x : MovedRun) : Wrote s (writeRun c s x) (mputs s.mem x.at_ x.vals) :=
  wrote_runsWrite s c.ctx c.core [(x.at_, x.vals)]

theorem wrote_writeRuns (c : Copy) (l : List MovedRun) : ∀ s : Machine.State,
    Wrote s (l.foldl (writeRun c) s) (l.foldl (fun m r => mputs m r.at_ r.vals) s.mem) := by
  induction l with
  | nil => exact wrote_refl
  | cons x r ih =>
    intro s
    have h1 := wrote_writeRun (s := s) c x
    have h2 := ih (writeRun c s x)
    rw [h1.1] at h2
    exact wrote_trans h1 h2

theorem wrote_writeChunk (c : Copy) (ms : List Moved) : Wrote s (s.writeChunk c ms) (puts (landing ms) s.mem) := by
  rw [← movedRuns_puts]
  exact wrote_writeRuns c _ s

theorem foldl_map_runs (l : List MovedRun) : ∀ m : List Host.Cell,
    (l.map fun r => (r.at_, r.vals)).foldl (fun m w => mputs m w.1 w.2) m = l.foldl (fun m r => mputs m r.at_ r.vals) m := fun _ => List.foldl_map ..

theorem wrote_sideWrite (c : Copy) (x : Side) (offs : List Nat) (bs : List Byte) : Wrote s (s.sideWrite c x offs bs)
    (puts (landing ((offs.zip bs).map fun p => ⟨s.sideFlat x p.1, p.2, false⟩)) s.mem) := by
  rw [← movedRuns_puts, ← foldl_map_runs]
  exact wrote_runsWrite ..

end Sys2Proof.Claims.Chunks

/-! The steps of the copy engine (R97, R103 to R105, R357 to R364). -/
namespace Sys2Proof.Claims.Copies
open Sys2Proof.Machine Sys2Proof.Claims.Chunks
-- One proof at a time: the text is compiled as one file, whose memory parallel elaboration would exceed.
set_option Elab.async false

variable {s t : Machine.State} {n : Nat} {c : Copy}

/-! ### Nothing stands in a command's way -/

theorem placeHitch_none {x : Side} {o f : Nat} (h : Reaches s x o f) (w : Bool) : placeHitch s c (s.sidePlace x o) w = none := by
  obtain ⟨hp, hh, hpe, hb⟩ := h
  rw [hp]
  simp only [placeHitch, hh, hpe, Bool.false_eq_true, if_false]
  split
  · rfl
  next b hb' =>
    obtain ⟨hr, hu⟩ := hb b hb'
    simp only [hr, hu, Bool.false_eq_true, if_false]

theorem firstHitch_none {x : Side} {w : Bool} {l : List Nat} (h : ∀ o ∈ l, ∃ f, Reaches s x o f) : firstHitch s c x w l = none := by
  induction l with
  | nil => rfl
  | cons o r ih =>
    obtain ⟨f, hf⟩ := h o List.mem_cons_self
    simp only [firstHitch, placeHitch_none hf, ih fun o ho => h o (List.mem_cons_of_mem _ ho)]

theorem sideFlat_reaches {x : Side} {o f : Nat} (h : Reaches s x o f) : s.sideFlat x o = some f := by
  unfold State.sideFlat
  rw [h.1]

theorem sideByte_reaches {x : Side} {o f : Nat} (h : Reaches s x o f) : s.sideByte c x o = mget s.mem f := by
  unfold State.sideByte
  rw [h.1]

theorem mem_insertNat {l : List Nat} {x y : Nat} (h : y ∈ insertNat l x) : y ∈ l ∨ y = x := by
  induction l with
  | nil => exact .inr (List.mem_singleton.1 h)
  | cons a r ih =>
    unfold insertNat at h
    split at h
    · rcases List.mem_cons.1 h with h | h
      · exact .inr h
      · exact .inl h
    · split at h
      · exact .inl h
      · rcases List.mem_cons.1 h with h | h
        · exact .inl (h ▸ List.mem_cons_self)
        · exact (ih h).imp_left (List.mem_cons_of_mem _)

theorem mem_of_mem_sortNat {l : List Nat} {y : Nat} (h : y ∈ sortNat l) : y ∈ l := by
  have hf : ∀ (l m : List Nat), y ∈ l.foldl insertNat m → y ∈ m ∨ y ∈ l := by
    intro l
    induction l with
    | nil => exact fun _ h => .inl h
    | cons a r ih =>
      intro m h
      rcases ih _ h with h | h
      · rcases mem_insertNat h with h | h
        · exact .inl h
        · exact .inr (h ▸ List.mem_cons_self)
      · exact .inr (List.mem_cons_of_mem _ h)
  exact (hf l [] h).elim (fun h => absurd h List.not_mem_nil) id

theorem watchSide_none {x : Side} (hx : Unwatched s c.ctx x.cap) (offs : List Nat) (w : Bool) : s.watchSide c x offs w = s := by
  unfold State.watchSide
  induction offRuns offs with
  | nil => rfl
  | cons r l ih =>
    obtain ⟨o, k⟩ := r
    simp only [List.foldl_cons, ThreadMem.watchReport_none (hx _ _ _), ih]

theorem sideFor_cap {cap : Cap} {need : Nat} {offs : List Nat} {x : Side} (h : s.sideFor c cap need offs = (t, x)) : x.cap = cap :=
  (congrArg (fun y => y.2.cap) h).symm.trans rfl

/-! ### A chunk that nothing stops -/

section
variable {src dst : Side} {bs : List Nat} {f g d : Nat → Nat} (h : ChunkFree s n c src dst bs f g d)
include h

theorem zeroBlock_iff {b : Nat} (hb : b ∈ bs) : s.zeroBlock c src b = true ↔ (c.scaleAt b).isSome = true ∧ mget s.mem (g b) = 0x80 := by
  unfold State.zeroBlock
  split
  next hs => simp only [hs, Bool.false_eq_true, Option.isSome_none, false_and]
  next o hs => rw [sideByte_reaches (h.scales b hb o hs), hs, beq_iff_eq, Option.isSome_some, eq_self_iff_true, true_and]

theorem reaches_of_read {b : Nat} (hb : b ∈ bs) (hz : ¬ s.zeroBlock c src b = true) : Reaches s src (c.srcAt b) (f b) := by
  refine h.reads b hb ?_
  rw [zeroBlock_iff h hb] at hz
  by_cases hs : (c.scaleAt b).isSome = true
  · exact .inr fun hm => hz ⟨hs, hm⟩
  · exact .inl (Option.not_isSome_iff_eq_none.1 hs)

omit h in
theorem scaleAt_none (hfn : c.fn ≠ 1) (b : Nat) : c.scaleAt b = none := if_neg fun hs => hfn hs.1

theorem awayElements_nil : s.awayElements n c src bs = [] := by
  unfold State.awayElements
  dsimp only
  split
  next hfn =>
    have hr : ∀ b ∈ bs, Reaches s src (c.srcAt b) (f b) := fun b hb => h.reads b hb (.inl (scaleAt_none (by rw [hfn]; decide) b))
    have hw : ∀ p, (s.entryWaiters p).contains (.command n) = false := by
      intro p
      rw [Bool.eq_false_iff, ne_eq, List.contains_iff_mem]
      unfold State.entryWaiters
      cases he : (s.entryFor p).bind (tget s.waits) with
      | none => exact List.not_mem_nil
      | some e =>
        obtain ⟨k, -, hk⟩ := Option.bind_eq_some_iff.1 he
        exact h.here hfn _ (Waits.mem_of_tget hk)
    rw [List.filter_eq_nil_iff.2 fun b hb => ?_]
    · rfl
    · rw [(hr b hb).1]
      cases src.entry with
      | none => exact Bool.false_ne_true
      | some e => simp only [hw, Bool.and_false, Bool.false_eq_true, not_false_eq_true]
  next => rfl

/-- Memory with a chunk moved. -/
def chunked (s : Machine.State) (c : Copy) (src dst : Side) (bs : List Nat) : Machine.State :=
  if c.fn = 4 then s.reduceChunk c dst ((bs.filter (· % c.esz == 0)).map fun b => (b, (List.range c.esz).map fun i => s.sideByte c src (c.srcAt (b + i))))
  else s.writeChunk c (s.readChunk c src dst bs)

theorem moveBytesOf_moves : ∃ k, (∀ x : Copy, x.parkedElts = c.parkedElts → k x = { x with done := c.done + bs.length }) ∧
    s.moveBytesOf n c bs false = .next ((chunked s c src dst bs).modCmd n k) := by
  have hsb : (s.sideBank c c.src rCR (bs.map c.srcAt) <|> s.sideBank c c.dst rCW (bs.map c.dstAt)) = none := by
    rw [show s.sideBank c c.src rCR (bs.map c.srcAt) = none from h.noBank.1, show s.sideBank c c.dst rCW (bs.map c.dstAt) = none from h.noBank.2]
    rfl
  have hsrc : s.sideFor c c.src rCR (bs.map c.srcAt) = (s, src) := h.source
  have hdst : s.sideFor c c.dst rCW (bs.map c.dstAt) = (s, dst) := h.target
  have hscale : firstHitch s c src false (sortNat (bs.filterMap c.scaleAt)) = none := by
    refine firstHitch_none fun o ho => ?_
    obtain ⟨b, hb, hbo⟩ := List.mem_filterMap.1 (mem_of_mem_sortNat ho)
    exact ⟨_, h.scales b hb o hbo⟩
  have hreads : firstHitch s c src false ((bs.filter fun b => !s.zeroBlock c src b).map c.srcAt) = none := by
    refine firstHitch_none fun o ho => ?_
    obtain ⟨b, hb, rfl⟩ := List.mem_map.1 ho
    obtain ⟨hb, hz⟩ := List.mem_filter.1 hb
    exact ⟨_, reaches_of_read h hb fun hz' => by rw [hz'] at hz; exact Bool.false_ne_true hz⟩
  have hwrites : firstHitch s c dst true (bs.map c.dstAt) = none := by
    refine firstHitch_none fun o ho => ?_
    obtain ⟨b, hb, rfl⟩ := List.mem_map.1 ho
    exact ⟨_, h.writes b hb⟩
  have hserial : ∀ x w l, s.sideSerial c x w l = none := fun x w l => by rw [State.sideSerial, h.serial]
  have hword : s.writeSerialOf c dst (bs.map c.dstAt) false = none := by
    unfold State.writeSerialOf State.wordSerial
    simp only [hserial]
    split
    · split <;> rfl
    · rfl
  have hkept : ∀ x w l, s.sideKept c x w l = s := fun x w l => by rw [State.sideKept, h.serial]
  have hws : ∀ l w, s.watchSide c src l w = s := watchSide_none (sideFor_cap hsrc ▸ h.unwatched.1)
  have hwd : ∀ l w, s.watchSide c dst l w = s := watchSide_none (sideFor_cap hdst ▸ h.unwatched.2)
  have haway := awayElements_nil h
  refine ⟨fun x => { x with done := c.done + bs.length, parkedElts := x.parkedElts ++ ([] : List Nat).filter fun e => !x.parkedElts.contains e },
    fun x hx => by simp only [List.filter_nil, List.append_nil], ?_⟩
  unfold State.moveBytesOf
  simp only [hsb, hsrc, hdst, hscale, Bool.false_eq_true, if_false, haway, List.contains_nil, Bool.not_false, List.filter_true, hreads, hwrites, hword,
    hserial, hkept, List.filter_false, List.map_nil]
  simp only [State.askPages, hws, hwd]
  rfl

theorem copyChunk_moves (hc : tget s.cmds n = some c) : ∃ t, exec (.copyChunk n) s = .next t ∧ t.mem = (chunked s c src dst bs).mem ∧
    t.groups = (chunked s c src dst bs).groups ∧
    ((chunked s c src dst bs).cmds = s.cmds → tget t.cmds n = some { c with done := c.done + bs.length }) := by
  obtain ⟨k, hk, hm⟩ := moveBytesOf_moves h
  refine ⟨(chunked s c src dst bs).modCmd n k, ?_, rfl, rfl, fun he => ?_⟩
  · rw [← hm, h.chunk]
    show execCopyChunk n s = _
    simp only [execCopyChunk, hc, h.due, h.sort.1, h.sort.2, h.more, Bool.not_true, Bool.false_eq_true, if_false, if_true]
  · refine (tget_tmod_same ..).trans ?_
    rw [he, hc, Option.map_some, hk c rfl]

/-! ### Bytes that are moved (R357, R362) -/

/-- The byte that a byte of the chunk brings. -/
def brought (s : Machine.State) (c : Copy) (src : Side) (b : Nat) : Byte := if s.zeroBlock c src b then 0 else s.sideByte c src (c.srcAt b)

theorem brought_eq {b : Nat} (hb : b ∈ bs) : brought s c src b =
    if (c.scaleAt b).isSome = true ∧ mget s.mem (g b) = 0x80 then 0 else mget s.mem (f b) := by
  unfold brought
  by_cases hz : s.zeroBlock c src b = true
  · rw [if_pos hz, if_pos ((zeroBlock_iff h hb).1 hz)]
  · rw [if_neg hz, if_neg (fun hs => hz ((zeroBlock_iff h hb).2 hs)), sideByte_reaches (reaches_of_read h hb hz)]

theorem landing_readChunk : landing (s.readChunk c src dst bs) = bs.map fun b => (d b, brought s c src b) := by
  unfold landing State.readChunk
  rw [List.filterMap_map, ← List.filterMap_eq_map]
  refine List.filterMap_congr fun b hb => ?_
  show (s.sideFlat dst (c.dstAt b)).map _ = _
  rw [sideFlat_reaches (h.writes b hb)]
  rfl

omit h in
theorem upTo_pairwise (a k : Nat) : (upTo a k).Pairwise (· < ·) :=
  List.Pairwise.map _ (fun _ _ hlt => Nat.add_lt_add_right hlt a) List.pairwise_lt_range

theorem chunk_moves (hfn : c.fn ≠ 4) : (chunked s c src dst bs).cmds = s.cmds ∧ GroupsKept s (chunked s c src dst bs) ∧
    (∀ b ∈ bs, (∀ a ∈ bs, b < a → d a ≠ d b) → mget (chunked s c src dst bs).mem (d b) =
      if (c.scaleAt b).isSome = true ∧ mget s.mem (g b) = 0x80 then 0 else mget s.mem (f b)) ∧
    ∀ x, (∀ b ∈ bs, x ≠ d b) → mget (chunked s c src dst bs).mem x = mget s.mem x := by
  have hw := wrote_writeChunk (s := s) c (s.readChunk c src dst bs)
  rw [landing_readChunk h] at hw
  obtain ⟨hm, hc, hg⟩ := hw
  rw [chunked, if_neg hfn, hm]
  refine ⟨hc, hg, fun b hb hd => ?_, fun x hx => mget_puts_other (fun p hp => ?_) h.wf⟩
  · rw [mget_puts_last d _ (h.chunk ▸ upTo_pairwise ..) hb hd h.wf, brought_eq h hb]
  · obtain ⟨b, hb, rfl⟩ := List.mem_map.1 hp
    exact hx b hb

end

/-! ### Op of a `cpy.red` (R364) -/

theorem sval_toInt {a : Nat} (h : a < 2 ^ 32) : sval 32 a = (BitVec.ofNat 32 a).toInt := by
  unfold sval
  rw [BitVec.toInt_eq_toNat_cond, BitVec.toNat_ofNat, Nat.mod_eq_of_lt h]
  have h2 : 2 * a < 2 ^ 32 ↔ a < 2 ^ (32 - 1) := by omega
  simp only [h2]

theorem fld_fld_low (p : Nat) : fld (fld p 4 0 % 2 ^ 16) 2 0 = fld p 2 0 := by
  simp only [fld, Nat.pow_zero, Nat.div_one]
  omega

theorem redMode_eq (c : Copy) :
    c.redMode = ⟨Rm.ofCode (fld (c.par 4) 2 0), (c.par 4).testBit 3, (c.par 4).testBit 4, false, false, false, false⟩ := by
  have hb : ∀ i, i < 5 → (BitVec.ofNat 16 (fld (c.par 4) 4 0)).getLsbD i = (c.par 4).testBit i := by
    intro i hi
    have h16 : i < 16 := by omega
    simp only [BitVec.getLsbD_ofNat, h16, decide_true, Bool.true_and, fld, Nat.pow_zero, Nat.div_one, Nat.testBit_mod_two_pow]
    rw [decide_eq_true (by omega : i < 4 - 0 + 1), Bool.true_and]
  unfold Copy.redMode modeOf
  rw [hb 3 (by decide), hb 4 (by decide), BitVec.toNat_ofNat, fld_fld_low]

theorem redOp_eq (c : Copy) {d s : Nat} (hd : d < 2 ^ 32) (hs : s < 2 ^ 32) : c.redOp d s = combined c d s := by
  unfold Copy.redOp combined
  cases c.rop with
  | addS32 => rfl
  | maxS32 | minS32 => simp only [atomVal, sLess, sval_toInt hd, sval_toInt hs, decide_eq_true_eq]
  | addF32 | addBf16 | maxF32 | minF32 => simp only [redMode_eq]

end Sys2Proof.Claims.Copies

/-! A chunk of a `cpy.red` (R364) and the completion of a command (R105, R358). -/
namespace Sys2Proof.Claims.Reduces
open Sys2Proof.Machine Sys2Proof.Claims.Chunks Sys2Proof.Claims.Copies
-- One proof at a time: the text is compiled as one file, whose memory parallel elaboration would exceed.
set_option Elab.async false

variable {s t : Machine.State} {n : Nat} {c : Copy}

/-! ### An element -/

/-- The element at byte b, its bytes at p. -/
def elemAt (k : Nat) (p : Nat → Nat) (m : List Host.Cell) (b : Nat) : Nat := leNat ((List.range k).map fun i => mget m (p (b + i)))

theorem elemAt_congr {k b : Nat} {p : Nat → Nat} {m m' : List Host.Cell} (h : ∀ i < k, mget m (p (b + i)) = mget m' (p (b + i))) :
    elemAt k p m b = elemAt k p m' b :=
  congrArg leNat (List.map_congr_left fun i hi => h i (List.mem_range.1 hi))

theorem elemAt_lt (k : Nat) (p : Nat → Nat) (m : List Host.Cell) (b : Nat) : elemAt k p m b < 256 ^ k := by
  have h := Arrivals.leNat_lt ((List.range k).map fun i => mget m (p (b + i)))
  rwa [List.length_map, List.length_range] at h

theorem zip_range (k : Nat) (o : Nat → Nat) (v : List Byte) (hv : v.length = k) :
    ((List.range k).map o).zip v = (List.range k).map fun i => (o i, (v[i]?).getD 0) := by
  refine List.ext_getElem (by simp [hv]) fun i h1 _ => ?_
  have hi : i < v.length := by simpa [hv] using h1
  simp [List.getElem?_eq_getElem hi]

theorem map_getD_range (k : Nat) (v : List Byte) (hv : v.length = k) : (List.range k).map (fun i => (v[i]?).getD 0) = v := by
  refine List.ext_getElem (by simp [hv]) fun i _ h2 => ?_
  simp [List.getElem?_eq_getElem h2]

theorem wrote_element {x : Side} {o p : Nat → Nat} {k : Nat} {v : List Byte} (hp : ∀ i < k, t.sidePlace x (o i) = .at_ (p i)) (hv : v.length = k) :
    Wrote t (t.sideWrite c x ((List.range k).map o) v) (puts ((List.range k).map fun i => (p i, (v[i]?).getD 0)) t.mem) := by
  have h := wrote_sideWrite (s := t) c x ((List.range k).map o) v
  rw [zip_range k o v hv, landing, List.map_map, List.filterMap_map] at h
  have hl : (List.range k).filterMap ((fun m : Moved => m.dst.map (·, m.val)) ∘ (fun q : Nat × Byte => ⟨t.sideFlat x q.1, q.2, false⟩) ∘
      fun i => (o i, (v[i]?).getD 0)) = (List.range k).map fun i => (p i, (v[i]?).getD 0) := by
    rw [← List.filterMap_eq_map]
    refine List.filterMap_congr fun i hi => ?_
    show (t.sideFlat x (o i)).map _ = _
    unfold State.sideFlat
    rw [hp i (List.mem_range.1 hi)]
    rfl
  exact hl ▸ h

theorem elemAt_puts {k b : Nat} {d : Nat → Nat} {m : List Host.Cell} (hm : memWf m = true) (v : List Byte) (hv : v.length = k)
    (hd : ∀ i < k, ∀ j < k, d (b + i) = d (b + j) → i = j) :
    elemAt k d (puts ((List.range k).map fun i => (d (b + i), (v[i]?).getD 0)) m) b = leNat v := by
  refine congrArg leNat (Eq.trans (List.map_congr_left fun i hi => ?_) (map_getD_range k v hv))
  refine mget_puts_last (fun i => d (b + i)) (fun i => (v[i]?).getD 0) List.pairwise_lt_range hi (fun j hj hij he => ?_) hm
  exact absurd (hd j (List.mem_range.1 hj) i (List.mem_range.1 hi) he) (Nat.ne_of_gt hij)

/-! ### The elements of a chunk -/

section
variable {dst : Side} {bs : List Nat} {d : Nat → Nat}

/-- The bytes of the destination are where they are whatever stands in the chunk's own bytes. -/
def Steady (s : Machine.State) (c : Copy) (dst : Side) (bs : List Nat) (d : Nat → Nat) : Prop :=
  ∀ m : List Host.Cell, (∀ x, (∀ b ∈ bs, x ≠ d b) → mget m x = mget s.mem x) →
    ∀ b ∈ bs, judge m dst.entry dst.cap.kind dst.need (dst.cap.low + c.dstAt b) 1 = .at_ (d b)

/-- What a chunk of a reduction leaves, from a state within it. -/
structure Reduced (s t r : Machine.State) (c : Copy) (bs : List Nat) (d : Nat → Nat) (L : List Nat) (w : Nat → List Byte) : Prop where
  cmds : r.cmds = t.cmds
  groups : GroupsKept t r
  outside : ∀ x, (∀ b ∈ bs, x ≠ d b) → mget r.mem x = mget s.mem x
  still : ∀ b ∈ bs, (∀ a ∈ L, ∀ i < c.esz, b ≠ a + i) → mget r.mem (d b) = mget t.mem (d b)
  value : ∀ b ∈ L, elemAt c.esz d r.mem b = c.redOp (elemAt c.esz d t.mem b) (leNat (w b)) % 256 ^ c.esz

theorem reduceChunk_cons {b : Nat} {v : List Byte} {L : List (Nat × List Byte)} (hz : 0 < c.esz)
    (hp : ∀ i < c.esz, t.sidePlace dst (c.dstAt (b + i)) = .at_ (d (b + i))) : t.reduceChunk c dst ((b, v) :: L) =
      (t.sideWrite c dst ((List.range c.esz).map fun i => c.dstAt (b + i)) (leBytes (c.redOp (elemAt c.esz d t.mem b) (leNat v)) c.esz)).reduceChunk
        c dst L := by
  have h0 : t.sidePlace dst (((List.range c.esz).map fun i => c.dstAt (b + i)).headD 0) = .at_ (d (b + 0)) := by
    obtain ⟨k, hk⟩ := Nat.exists_eq_succ_of_ne_zero hz.ne'
    rw [hk, List.range_succ_eq_map]
    exact hp 0 hz
  have hv : (((List.range c.esz).map fun i => c.dstAt (b + i)).map fun o => t.sideByte c dst o) =
      (List.range c.esz).map fun i => mget t.mem (d (b + i)) := by
    rw [List.map_map]
    refine List.map_congr_left fun i hi => ?_
    show t.sideByte c dst (c.dstAt (b + i)) = _
    unfold State.sideByte
    rw [hp i (List.mem_range.1 hi)]
  simp only [State.reduceChunk, h0, hv]
  rfl

theorem reduceChunk_reduces (hz : 0 < c.esz) (hs : Steady s c dst bs d) (hinj : ∀ a ∈ bs, ∀ b ∈ bs, d a = d b → a = b) (w : Nat → List Byte)
    {L : List Nat} (hL : ∀ b ∈ L, ∀ i < c.esz, b + i ∈ bs) (hdis : L.Pairwise fun a b => ∀ i < c.esz, ∀ j < c.esz, a + i ≠ b + j) :
    ∀ {t : Machine.State}, memWf t.mem = true → (∀ x, (∀ b ∈ bs, x ≠ d b) → mget t.mem x = mget s.mem x) →
      Reduced s t (t.reduceChunk c dst (L.map fun b => (b, w b))) c bs d L w := by
  induction L with
  | nil => exact fun _ hk => ⟨rfl, groupsKept_refl _, hk, fun _ _ _ => rfl, fun _ hb => absurd hb List.not_mem_nil⟩
  | cons b L ih =>
    intro t hm hk
    rw [List.pairwise_cons] at hdis
    have hb := hL b List.mem_cons_self
    have hp : ∀ i < c.esz, t.sidePlace dst (c.dstAt (b + i)) = .at_ (d (b + i)) := fun i hi => hs t.mem hk _ (hb i hi)
    obtain ⟨u, hu⟩ : ∃ u, u = t.sideWrite c dst ((List.range c.esz).map fun i => c.dstAt (b + i))
      (leBytes (c.redOp (elemAt c.esz d t.mem b) (leNat (w b))) c.esz) := ⟨_, rfl⟩
    have hw := wrote_element (c := c) (o := fun i => c.dstAt (b + i)) (p := fun i => d (b + i)) hp
      (length_leBytes c.esz (c.redOp (elemAt c.esz d t.mem b) (leNat (w b))))
    rw [← hu] at hw
    obtain ⟨hum, huc, hug⟩ := hw
    have hother : ∀ x, (∀ i < c.esz, x ≠ d (b + i)) → mget u.mem x = mget t.mem x := by
      intro x hx
      rw [hum]
      refine mget_puts_other (fun p hp => ?_) hm
      obtain ⟨i, hi, rfl⟩ := List.mem_map.1 hp
      exact hx i (List.mem_range.1 hi)
    have hval : elemAt c.esz d u.mem b = c.redOp (elemAt c.esz d t.mem b) (leNat (w b)) % 256 ^ c.esz := by
      rw [hum, elemAt_puts hm _ (length_leBytes ..) fun i hi j hj he => Nat.add_left_cancel (hinj _ (hb i hi) _ (hb j hj) he), leNat_leBytes]
    have hr := ih (fun a ha => hL a (List.mem_cons_of_mem _ ha)) hdis.2 (t := u) (hum ▸ memWf_puts _ hm)
      fun x hx => (hother x fun i hi => hx _ (hb i hi)).trans (hk x hx)
    rw [List.map_cons, reduceChunk_cons hz hp, ← hu]
    refine ⟨hr.cmds.trans huc, groupsKept_trans hug hr.groups, hr.outside, fun a ha hn => ?_, fun a ha => ?_⟩
    · refine (hr.still a ha fun x hx => hn x (List.mem_cons_of_mem _ hx)).trans (hother _ fun i hi he => ?_)
      exact hn b List.mem_cons_self i hi (hinj a ha _ (hb i hi) he)
    · rcases List.mem_cons.1 ha with rfl | ha
      · exact (elemAt_congr fun i hi => hr.still _ (hb i hi) fun x hx j hj => hdis.1 x hx i hi j hj).trans hval
      · rw [hr.value a ha, elemAt_congr fun i hi => hother _ fun j hj he => ?_]
        exact hdis.1 a ha j hj i hi (hinj _ (hL a (List.mem_cons_of_mem _ ha) i hi) _ (hb j hj) he).symm

end

/-! ### The elements of the next chunk -/

theorem esz_red (hf : c.fn = 4) : c.esz = 2 ∨ c.esz = 4 := by
  unfold Copy.esz
  rw [hf]
  by_cases h : c.rop = .addBf16
  · exact .inl (if_pos h)
  · exact .inr (if_neg h)

theorem mem_upTo {a k x : Nat} : x ∈ upTo a k ↔ a ≤ x ∧ x < a + k := by
  unfold upTo
  rw [List.mem_map]
  constructor
  · rintro ⟨i, hi, rfl⟩
    have := List.mem_range.1 hi
    omega
  · rintro ⟨h1, h2⟩
    exact ⟨x - a, List.mem_range.2 (by omega), by omega⟩

theorem chunk_whole (hz : c.esz = 2 ∨ c.esz = 4) (hd : c.done % c.esz = 0) (ht : c.total % c.esz = 0) {b : Nat}
    (hb : b ∈ upTo c.done (min 4096 (c.total - c.done))) (hm : b % c.esz = 0) {i : Nat} (hi : i < c.esz) :
    b + i ∈ upTo c.done (min 4096 (c.total - c.done)) := by
  rw [mem_upTo] at *
  rcases hz with hz | hz <;> rw [hz] at hd ht hm hi <;> omega

section
variable {src dst : Side} {bs : List Nat} {f g d : Nat → Nat} (h : ChunkFree s n c src dst bs f g d)
include h

theorem chunk_reduces (hf : c.fn = 4) (hd : c.done % c.esz = 0) (ht : c.total % c.esz = 0) (hinj : ∀ a ∈ bs, ∀ b ∈ bs, d a = d b → a = b)
    (hs : Steady s c dst bs d) : (chunked s c src dst bs).cmds = s.cmds ∧ GroupsKept s (chunked s c src dst bs) ∧
      (∀ b ∈ bs, b % c.esz = 0 → elemAt c.esz d (chunked s c src dst bs).mem b =
        combined c (elemAt c.esz d s.mem b) (elemAt c.esz f s.mem b) % 2 ^ (8 * c.esz)) ∧
      ∀ x, (∀ b ∈ bs, x ≠ d b) → mget (chunked s c src dst bs).mem x = mget s.mem x := by
  have hz := esz_red hf
  have h0 : 0 < c.esz := by omega
  have hin : ∀ b ∈ bs, b % c.esz = 0 → ∀ i < c.esz, b + i ∈ bs := by
    intro b hb hm i hi
    rw [h.chunk] at hb ⊢
    exact chunk_whole hz hd ht hb hm hi
  have hL : ∀ b ∈ bs.filter (· % c.esz == 0), b ∈ bs ∧ b % c.esz = 0 := fun b hb => by
    obtain ⟨h1, h2⟩ := List.mem_filter.1 hb
    exact ⟨h1, beq_iff_eq.1 h2⟩
  have hp : bs.Pairwise (· < ·) := h.chunk ▸ upTo_pairwise ..
  have hdis : (bs.filter (· % c.esz == 0)).Pairwise fun a b => ∀ i < c.esz, ∀ j < c.esz, a + i ≠ b + j := by
    refine (hp.filter _).imp_of_mem fun {a b} ha hb hab i hi j hj => ?_
    have ha' := (hL a ha).2
    have hb' := (hL b hb).2
    rcases hz with hz | hz <;> rw [hz] at ha' hb' hi hj <;> omega
  have hr := reduceChunk_reduces h0 hs hinj (fun b => (List.range c.esz).map fun i => s.sideByte c src (c.srcAt (b + i)))
    (fun b hb => hin b (hL b hb).1 (hL b hb).2) hdis h.wf fun _ _ => rfl
  rw [chunked, if_pos hf]
  refine ⟨hr.cmds, hr.groups, fun b hb hm => ?_, hr.outside⟩
  have hsrc : leNat ((List.range c.esz).map fun i => s.sideByte c src (c.srcAt (b + i))) = elemAt c.esz f s.mem b := by
    refine congrArg leNat (List.map_congr_left fun i hi => sideByte_reaches ?_)
    exact h.reads _ (hin b hb hm i (List.mem_range.1 hi)) (.inl (scaleAt_none (by rw [hf]; decide) _))
  have hlt : ∀ p, elemAt c.esz p s.mem b < 2 ^ 32 := by
    intro p
    have := elemAt_lt c.esz p s.mem b
    rcases hz with hz | hz <;> rw [hz] at this ⊢ <;> omega
  rw [hr.value b (List.mem_filter.2 ⟨hb, beq_iff_eq.2 hm⟩), hsrc, redOp_eq c (hlt d) (hlt f), Nat.pow_mul]

end

/-! ### Completion (R105, R358) -/

theorem copyCompletion_none (hc : tget s.cmds n = some c) (hd : s.completionDue n c = true) (hm : c.cm = 0) :
    exec (.copyCompletion n) s = .next { s with cmds := tdel s.cmds n } := by
  show execCopyCompletion n s = _
  simp only [execCopyCompletion, hc, hd, hm, Bool.not_true, Bool.false_eq_true, if_false, if_true]
  rfl

section
variable {x : Side} {f : Nat} (hc : tget s.cmds n = some c) (hd : s.completionDue n c = true)
  (hx : s.sideFor c c.cmp 16 (upTo c.coff 8) = (s, x)) (hs : s.cmdSerial c = none) (hb : s.sideBank c c.cmp 16 (upTo c.coff 8) = none)
  (hr : ∀ k < 8, Reaches s x (c.coff + k) (f + k)) (hu : Unwatched s c.ctx c.cmp)
include hc hd hx hs hb hr hu

theorem copyCompletion_finishes (hm : c.cm ≠ 0) : exec (.copyCompletion n) s = execCopyCompletion.finish n s c x := by
  have hx' : s.sideFor c c.cmp rCW c.wordBytes = (s, x) := hx
  have hb' : s.sideBank c c.cmp rCW c.wordBytes = none := hb
  have hh : firstHitch s c x true c.wordBytes = none := by
    refine firstHitch_none fun o ho => ?_
    obtain ⟨k, hk, rfl⟩ := List.mem_map.1 ho
    exact ⟨_, (Nat.add_comm k _).symm ▸ hr k (List.mem_range.1 hk)⟩
  have hserial : s.sideSerial c x true c.wordBytes = none := by rw [State.sideSerial, hs]
  have hkept : s.sideKept c x true c.wordBytes = s := by rw [State.sideKept, hs]
  have hw : s.watchSide c x c.wordBytes true = s := watchSide_none (sideFor_cap hx' ▸ hu) _ _
  show execCopyCompletion n s = _
  simp only [execCopyCompletion, hc, hd, hm, hx', hb', hh, hserial, hkept, hw, Bool.not_true, Bool.false_eq_true, if_false]

theorem copyCompletion_writes (hm : c.cm = 1) (hwf : memWf s.mem = true) : ∃ t, exec (.copyCompletion n) s = .next t ∧
    t.cmds = tdel s.cmds n ∧ mnat t.mem f 8 = c.par 3 ∧ ∀ a, (a < f ∨ f + 8 ≤ a) → mget t.mem a = mget s.mem a := by
  have hp : ∀ i < 8, s.sidePlace x (i + c.coff) = .at_ (f + i) := fun i hi => (Nat.add_comm i _).symm ▸ (hr i hi).1
  have hl := length_leBytes 8 (c.par 3)
  obtain ⟨hmem, hcm, -⟩ := wrote_element (c := c) (o := (· + c.coff)) (p := (f + ·)) hp hl
  rw [puts_run, map_getD_range 8 _ hl] at hmem
  refine ⟨(s.sideWrite c x c.wordBytes (leBytes (c.par 3) 8)).cmdDone n, ?_, congrArg (tdel · n) hcm, ?_, fun a ha => ?_⟩
  · rw [copyCompletion_finishes hc hd hx hs hb hr hu (by rw [hm]; decide)]
    exact if_pos hm
  · refine (congrArg (fun m => mnat m f 8) hmem).trans ((mnat_mputs _ _ 8 hwf).trans (Nat.mod_eq_of_lt ?_))
    exact ((c.params[3]?).getD 0).isLt
  · refine (congrArg (fun m => mget m a) hmem).trans (mget_mputs_other _ _ hwf ?_)
    rwa [hl]

theorem copyCompletion_arrives {v : Nat} {k : Bool} (hm : c.cm = 2) (ha : arrival (mnat s.mem f 8) c.count = .applied v k) (hwf : memWf s.mem = true) :
    ∃ t, exec (.copyCompletion n) s = .next t ∧
      t.cmds = tdel s.cmds n ∧ mnat t.mem f 8 = v % 2 ^ 64 ∧ ∀ a, (a < f ∨ f + 8 ≤ a) → mget t.mem a = mget s.mem a := by
  have hf : s.sideFlat x c.coff = some f := sideFlat_reaches (hr 0 (by decide))
  refine ⟨(s.memWrite f (leBytes v 8)).cmdDone n, ?_, rfl, mnat_mputs _ _ 8 hwf, fun a h => mget_mputs_other _ _ hwf ?_⟩
  · rw [copyCompletion_finishes hc hd hx hs hb hr hu (by rw [hm]; decide)]
    simp only [execCopyCompletion.finish, hm, hf, ha]
    rfl
  · rwa [length_leBytes]

end

theorem qfencePerform_leaves (hc : tget s.cmds n = some c) (hd : s.qfenceDue n c = true) :
    exec (.qfencePerform n) s = .next { s with cmds := tdel s.cmds n } := by
  show execQfencePerform n s = _
  simp only [execQfencePerform, hc, hd, if_true]
  rfl

end Sys2Proof.Claims.Reduces

open Sys2Proof Sys2Proof.Claims Sys2Proof.Claims.Copies Sys2Proof.Claims.Reduces

/-- Settles O45: a chunk's bytes are put in command order, and a reduction's elements one after the other, each from its own bytes. -/
theorem copyEngineSteps : Obligations.CopyEngineSteps := by
  intro n s c hc
  refine ⟨fun src dst bs f g d hf h => ?_, fun src dst bs f g d hf h hdone htotal hinj hs => ?_,
    fun hd => ⟨copyCompletion_none hc hd, fun x f hx hs hb hr hu hwf => ⟨fun hm => copyCompletion_writes hc hd hx hs hb hr hu hm hwf,
      fun v k hm ha => copyCompletion_arrives hc hd hx hs hb hr hu hm ha hwf⟩⟩, qfencePerform_leaves hc⟩
  · obtain ⟨t, ht, hm, hg, hk⟩ := copyChunk_moves h hc
    obtain ⟨h1, h2, h3, h4⟩ := chunk_moves h hf
    refine ⟨t, ht, hm.symm ▸ h3, hm.symm ▸ h4, hk h1, fun k x hx => ?_⟩
    obtain ⟨y, hy, he⟩ := h2 k x hx
    exact ⟨y, (congrArg (Machine.tget · k) hg).trans hy, he⟩
  · intro value
    obtain ⟨t, ht, hm, hg, hk⟩ := copyChunk_moves h hc
    obtain ⟨h1, h2, h3, h4⟩ := chunk_reduces h hf hdone htotal hinj hs
    refine ⟨t, ht, hm.symm ▸ h3, hm.symm ▸ h4, hk h1, fun k x hx => ?_⟩
    obtain ⟨y, hy, he⟩ := h2 k x hx
    exact ⟨y, (congrArg (Machine.tget · k) hg).trans hy, he⟩

/-! The mailbox (R434 to R436, R469): its queue, the checks that every command passes, and the result of a command. -/
namespace Sys2Proof.Claims.Mail
open Sys2Proof.Machine
-- One proof at a time: the text is compiled as one file, whose memory parallel elaboration would exceed.
set_option Elab.async false

variable {s : Machine.State} {ws : List DWord}

/-! ### The queue (R434) -/

theorem mailboxCommandWrite_queues {off : Nat} {bs : List Byte} (h1 : off < 0x4040) (h2 : 0x4000 < off + bs.length) :
    exec (.mailboxCommandWrite off bs) s = .next (
      if s.ready = false then s
      else if off ≠ 0x4000 ∨ bs.length ≠ 64 then { s with mbPart := true }
      else if 64 ≤ s.mbox.length + (if s.mailBusy = true then 1 else 0) then { s with mbDrop := true }
      else { s with mbox := s.mbox ++ [wordsOf bs 8] }) := by
  have hm : meetsWindow off bs.length = true := decide_eq_true ⟨h1, h2⟩
  show execMailboxCommandWrite off bs s = _
  simp only [execMailboxCommandWrite, hm, Bool.not_true, Bool.false_eq_true, if_false, Bool.not_eq_true']
  split
  · rfl
  · split
    · rfl
    · by_cases h : 64 ≤ s.mailCount
      · exact (if_pos h).trans (congrArg Host.Outcome.next (if_pos h).symm)
      · exact (if_neg h).trans (congrArg Host.Outcome.next (if_neg h).symm)

theorem mailboxStatusWrite_clears (v : DWord) : exec (.mailboxStatusWrite v) s =
    .next (if v = 0 ∧ s.ready = true then { s with mbDrop := false, mbPart := false } else s) := by
  show execMailboxStatusWrite v s = _
  unfold execMailboxStatusWrite
  split <;> rfl

theorem not_mailBusy_iff : s.mailBusy = false ↔ Idle s := by
  have hu : (s.ctxs.any fun x => x.2.objs.any fun o => o.unload.isSome) = false ↔ ∀ x ∈ s.ctxs, ∀ o ∈ x.2.objs, o.unload = none := by
    simp only [List.any_eq_false, Bool.not_eq_true]
    exact ⟨fun h x hx o ho => Option.isSome_eq_false_iff.1 (h x hx o ho) |> Option.isNone_iff_eq_none.1,
      fun h x hx o ho => by rw [h x hx o ho]; rfl⟩
  have hr : (s.preempts.any fun x => !x.2.results.isEmpty) = false ↔ ∀ x ∈ s.preempts, x.2.results = [] := by
    simp only [List.any_eq_false, Bool.not_eq_true', Bool.not_eq_false, List.isEmpty_iff]
  have ht : (s.taking.any fun rs => !rs.isEmpty) = false ↔ ∀ rs, s.taking = some rs → rs = [] := by
    cases s.taking with
    | none => exact ⟨fun _ _ h => (nomatch h), fun _ => rfl⟩
    | some r =>
      rw [Option.any_some, Bool.not_eq_false', List.isEmpty_iff]
      exact ⟨fun h _ he => Option.some.inj he ▸ h, fun h => h r rfl⟩
  have hp : (!s.pending.isEmpty) = false ↔ s.pending = [] := by rw [Bool.not_eq_false', List.isEmpty_iff]
  show ((!s.pending.isEmpty || _) || _ || _) = false ↔ _
  rw [Bool.or_eq_false_iff, Bool.or_eq_false_iff, Bool.or_eq_false_iff]
  constructor
  · rintro ⟨⟨⟨h1, h2⟩, h3⟩, h4⟩
    exact ⟨hp.1 h1, hu.1 h2, hr.1 h3, ht.1 h4⟩
  · rintro ⟨h1, h2, h3, h4⟩
    exact ⟨⟨⟨hp.2 h1, hu.2 h2⟩, hr.2 h3⟩, ht.2 h4⟩

theorem waiting_none (hi : Idle s) (op : Nat) (f : PendCmd → Bool) : s.waiting op f = none := by
  unfold State.waiting
  rw [hi.waits]
  rfl

/-! ### The checks of a command (R435, R436) -/

theorem headIs_eq (hi : Idle s) (hh : s.mbox.head? = some ws) : s.headIs (cmdOp ws) = some ws := by
  obtain ⟨r, hr⟩ := List.head?_eq_some_iff.1 hh
  simp only [State.headIs, hr, not_mailBusy_iff.2 hi, Bool.not_false, and_self, if_true]

section
variable {op : Nat} {f : Form} {body : List DWord → Machine.State → Machine.State} (hi : Idle s) (hh : s.mbox.head? = some ws) (ho : cmdOp ws = op)
include hi hh ho

theorem command_reserved (hr : f.reserved ws = true) : command op f s body = .next ((popped s).answer ws 1 []) := by
  simp only [command, ← ho, headIs_eq hi hh, State.checked, hr, if_true]
  rfl

theorem command_noContext (hr : f.reserved ws = false) (hn : f.names = .created) (hc : s.ctx? (cmdCtx ws) = none) :
    command op f s body = .next ((popped s).answer ws 32 []) := by
  have hc' : (s.popMail.ctx? (cmdCtx ws)).isNone = true := by
    rw [show s.popMail.ctx? (cmdCtx ws) = none from hc]
    rfl
  simp only [command, ← ho, headIs_eq hi hh, State.checked, hr, hn, hc', Bool.false_eq_true, if_false, and_self, if_true]
  rfl

end

theorem command_runs {op : Nat} {f : Form} {body : List DWord → Machine.State → Machine.State} (h : Takes s op f ws) :
    command op f s body = .next (body ws (popped s)) := by
  have hc : ¬ (f.names = .created ∧ (s.popMail.ctx? (cmdCtx ws)).isNone = true) := by
    rintro ⟨hn, hc⟩
    have hs : (s.popMail.ctx? (cmdCtx ws)).isSome = true := h.ctx hn
    rw [Option.isNone_iff_eq_none.1 hc] at hs
    exact Bool.false_ne_true hs
  simp only [command, ← h.op, headIs_eq h.idle h.head, State.checked, h.free, if_neg hc, Bool.false_eq_true, if_false]
  rfl

/-- A command that no refresh holds goes on as one of one step. -/
theorem bankCommand_goes {op : Nat} (hi : Idle s) (hh : s.mbox.head? = some ws) (ho : cmdOp ws = op) (i : HeldStep)
    {bank : List DWord → Option (Nat × Nat)} (hb : bank ws = none) (go : Out) : bankCommand op i s bank go = go := by
  simp only [bankCommand, ← ho, headIs_eq hi hh, Option.bind_some, hb]

/-! ### Every command is one of its form -/

theorem haltWaits_none (hi : Idle s) : s.haltWaits = none := by
  unfold State.haltWaits
  rw [hi.waits]
  rfl

/-- A command's step is that of its OP and form. -/
def Formed (s : Machine.State) (ws : List DWord) (x : Instr × Nat × Form) : Prop :=
  Idle s → s.mbox.head? = some ws → cmdOp ws = x.2.1 → Unheld s x.2.1 ws → ∃ body, exec x.1 s = command x.2.1 x.2.2 s body

theorem formed_ctxdestroy : Formed s ws (row .ctxdestroy 0x02 .created false 0 0 0 0) := fun hi _ _ _ =>
  ⟨_, show execCtxdestroy s = _ by simp only [execCtxdestroy, State.destroyDue, waiting_none hi]; rfl⟩

theorem formed_capmint : Formed s ws (row .capmint 0x04 .created true 0xFFFFFFFF 0xFFFFFFFFFF 0 0) := by
  intro hi hh ho hb
  have hm : s.mintDue = none := waiting_none hi ..
  have he : exec .capmint s = execCapmint s := rfl
  rw [execCapmint, hm] at he
  exact ⟨_, he.trans (bankCommand_goes hi hh ho .capmint (hb.1 (.inl rfl)) _)⟩

theorem formed_island : Formed s ws (row .island 0x26 .nothing false 31 3 0 0) := fun hi _ _ _ =>
  ⟨_, show execIsland s = _ by simp only [execIsland, State.islandDue, waiting_none hi]; rfl⟩

theorem formed_dbghalt : Formed s ws (row .dbghalt 0x32 .created false 0xFFFFFFFF 0xFFFFFFFF 0 0) := fun hi _ _ _ =>
  ⟨_, show execDbghalt s = _ by simp only [execDbghalt, haltWaits_none hi]; rfl⟩

theorem formed_dbgwatch : Formed s ws (row .dbgwatch 0x37 .created false 0x307 0xFFFFFFFF 0xFFFFFFFFFF 0x1FFFFFFFFFF) := by
  intro hi hh ho hb
  exact ⟨_, bankCommand_goes hi hh ho .dbgwatch (hb.2 rfl) _⟩

theorem formed_tracebuf : Formed s ws (row .tracebuf 0x38 .created false 0xFFFFFFFF 0x1FFFFFFFF 0 0) := by
  intro hi hh ho hb
  have hm : s.tracebufDue = none := waiting_none hi ..
  have he : exec .tracebuf s = execTracebuf s := rfl
  rw [execTracebuf, hm] at he
  exact ⟨_, he.trans (bankCommand_goes hi hh ho .tracebuf (hb.1 (.inr rfl)) _)⟩

theorem commandForms_formed : ∀ x ∈ commandForms, Formed s ws x := by
  have prompt : ∀ {x : Instr × Nat × Form}, (∃ body, exec x.1 s = command x.2.1 x.2.2 s body) → Formed s ws x := fun h _ _ _ _ => h
  unfold commandForms
  simp only [List.forall_mem_cons]
  exact ⟨formed_ctxdestroy, prompt ⟨_, rfl⟩, prompt ⟨_, rfl⟩, formed_capmint, prompt ⟨_, rfl⟩, prompt ⟨_, rfl⟩, prompt ⟨_, rfl⟩, prompt ⟨_, rfl⟩,
    prompt ⟨_, rfl⟩, prompt ⟨_, rfl⟩, prompt ⟨_, rfl⟩, prompt ⟨_, rfl⟩, prompt ⟨_, rfl⟩, prompt ⟨_, rfl⟩, formed_island, prompt ⟨_, rfl⟩,
    prompt ⟨_, rfl⟩, prompt ⟨_, rfl⟩, prompt ⟨_, rfl⟩, prompt ⟨_, rfl⟩, formed_dbghalt, prompt ⟨_, rfl⟩, prompt ⟨_, rfl⟩, prompt ⟨_, rfl⟩,
    prompt ⟨_, rfl⟩, formed_dbgwatch, formed_tracebuf, prompt ⟨_, rfl⟩, fun _ h => nomatch h⟩

/-! ### The result of a command (R433, R435) -/

theorem length_bytesOf (ws : List DWord) : (bytesOf ws).length = 8 * ws.length := by
  induction ws with
  | nil => rfl
  | cons w r ih =>
    show (leBytes w.toNat 8 ++ bytesOf r).length = _
    rw [List.length_append, ih, length_leBytes, List.length_cons]
    omega

theorem mputs_append (l r : List Byte) : ∀ (m : List Host.Cell) (a : Nat), mputs m a (l ++ r) = mputs (mputs m a l) (a + l.length) r := by
  induction l with
  | nil => exact fun _ _ => rfl
  | cons b l ih =>
    intro m a
    refine (ih (mput m a b) (a + 1)).trans ?_
    rw [List.length_cons, Nat.add_assoc, Nat.add_comm 1]
    rfl

/-- The first of the words written is read back. -/
theorem mnat_bytesOf {m : List Host.Cell} (a : Nat) (w : DWord) (ws : List DWord) (hm : memWf m = true) : mnat (mputs m a (bytesOf (w :: ws))) a 8 = w.toNat := by
  show mnat (mputs m a (leBytes w.toNat 8 ++ bytesOf ws)) a 8 = _
  rw [mputs_append, mnat, mgets_mputs_other _ _ (memWf_mputs _ _ hm) 8 a (.inl (by rw [length_leBytes])), ← mnat, mnat_mputs _ _ 8 hm,
    show 256 ^ 8 = 2 ^ 64 from rfl, Nat.mod_eq_of_lt w.isLt]

theorem answer_result {st : Nat} (r : List DWord) (hm : memWf s.mem = true) (hst : st < 2 ^ 32) :
    let at_ := hostBase + cmdRaddr ws
    let t := s.answer ws st r
    mnat t.mem at_ 8 = cmdTag ws * 2 ^ 32 + st ∧ t.msix = 1 :: s.msix ∧ ∀ x, (x < at_ ∨ at_ + 32 ≤ x) → mget t.mem x = mget s.mem x := by
  intro at_ t
  refine ⟨(mnat_bytesOf _ _ _ hm).trans ?_, rfl, fun x hx => mget_mputs_other _ _ hm ?_⟩
  · have ht : cmdTag ws < 2 ^ 32 := Nat.mod_lt _ (by decide)
    show (BitVec.ofNat 64 (cmdTag ws * 2 ^ 32 + st)).toNat = _
    rw [BitVec.toNat_ofNat, Nat.mod_eq_of_lt (by omega)]
  · rw [length_bytesOf, List.length_cons, List.length_take, List.length_append]
    exact hx.imp_right fun h => Nat.le_trans (by simp only [List.length_cons, List.length_nil]; omega) h

end Sys2Proof.Claims.Mail

open Sys2Proof Sys2Proof.Claims Sys2Proof.Claims.Mail

/-- Settles O48: every command's step is that of its OP and form, whose checks come before what it does. -/
theorem mailboxSteps : Obligations.MailboxSteps := by
  intro s
  refine ⟨fun off bs h1 h2 => mailboxCommandWrite_queues h1 h2, not_mailBusy_iff, mailboxStatusWrite_clears, fun x hx ws hh ho hi hb => ?_,
    fun ws st r hm hst => answer_result r hm hst⟩
  obtain ⟨body, he⟩ := commandForms_formed x hx hi hh ho hb
  rw [he]
  exact ⟨command_reserved hi hh ho, command_noContext hi hh ho⟩

/-! The commands that set the module up (R219, R232, R236, R402, R426, R438, R441, R443, R444, R466, R469). -/
namespace Sys2Proof.Claims.Setup
open Sys2Proof.Machine Sys2Proof.Claims.Mail
-- One proof at a time: the text is compiled as one file, whose memory parallel elaboration would exceed.
set_option Elab.async false

variable {s : Machine.State} {ws : List DWord}

/-- The command stands at the head, with its form. -/
abbrev Stands (s : Machine.State) (op : Nat) (ws : List DWord) : Prop := Takes s op (formOf op) ws

theorem rpintset_runs (h : Stands s 0x22 ws) : exec .rpintset s =
    .next ({ popped s with rpint := cmdWord ws 4, rpNext := s.clock + cmdWord ws 4 }.answer ws 0 []) := command_runs h

theorem wornthr_runs (h : Stands s 0x23 ws) (hw : cmdWord ws 4 ≠ 0) : exec .wornthr s =
    .next (((sortNat (s.corrected.map Prod.fst)).foldl State.markWorn { popped s with wornThr := cmdWord ws 4 }).answer ws 0 []) :=
  (command_runs h).trans (congrArg Host.Outcome.next (if_neg hw))

theorem wdtset_runs (h : Stands s 0x06 ws) : exec .wdtset s =
    .next (((popped s).modCtx (cmdCtx ws) fun c => { c with wdt := if cmdWord ws 4 = 0 then 2 ^ 30 else cmdWord ws 4 }).answer ws 0 []) :=
  command_runs h

theorem profcfg_runs (h : Stands s 0x39 ws) (hw : cmdWord ws 4 ≤ 2 ^ 24) : exec .profcfg s =
    .next (((popped s).modCtx (cmdCtx ws) fun c => { c with prof := cmdWord ws 4 }).answer ws 0 []) :=
  (command_runs h).trans (congrArg Host.Outcome.next (if_neg (Nat.not_lt.2 hw)))

theorem partNumber_eq : partNumber = 0x383637314D4B5741 := by decide

theorem ident_runs (h : Stands s 0x28 ws) : exec .ident s = .next ((popped s).answer ws 0 [0x383637314D4B5741,
    BitVec.ofNat 64 (0x00010000 * 2 ^ 32 + Config.firmwareVersion.toNat), Config.serial]) := by
  rw [← partNumber_eq]
  exact command_runs h

/-! ### The Rail's tables, the ring and frames (R438, R466, R469) -/

/-- The payload of a command at the head. -/
abbrev pay (s : Machine.State) (ws : List DWord) : List Byte := mgets s.mem (hostBase + cmdPaddr ws) (cmdPlen ws)

/-- The table of routes that a payload holds. -/
def routesOf (xs : List DWord) : Tab Nat := xs.foldl (fun t w => tset t (fld w.toNat 7 0) (fld w.toNat 27 16)) []

theorem railmap_routes (h : Stands s 0x27 ws) (hw : cmdWord ws 4 = 0) (hn : cmdPlen ws % 8 = 0)
    (hr : ∀ x ∈ wordsOf (pay s ws) (cmdPlen ws / 8), routeOk x.toNat = true) :
    ∃ t : Machine.State, exec .railmap s = .next (t.answer ws 0 []) ∧ t = { popped s with routes := t.routes } := by
  have hall : ((wordsOf ((popped s).payload ws) (cmdPlen ws / 8)).all fun w => routeOk w.toNat) = true := List.all_eq_true.2 hr
  refine ⟨{ popped s with routes := routesOf (wordsOf (pay s ws) (cmdPlen ws / 8)) }, (command_runs h).trans ?_, rfl⟩
  simp only [hw, if_true, hn, hall, Bool.not_true, Bool.false_eq_true, ne_eq, not_true_eq_false, or_self, if_false]
  rfl

theorem railmap_imports (h : Stands s 0x27 ws) (hw : cmdWord ws 4 = 1) (hn : cmdPlen ws % 16 = 0)
    (hi : importsOk (wordsOf (pay s ws) (cmdPlen ws / 8)) = true) : exec .railmap s =
      .next ({ popped s with imports := importsOf (wordsOf (pay s ws) (cmdPlen ws / 8)) }.answer ws 0 []) := by
  have hi' : importsOk (wordsOf ((popped s).payload ws) (cmdPlen ws / 8)) = true := hi
  refine (command_runs h).trans ?_
  simp only [hw, Nat.one_ne_zero, if_false, hn, hi', Bool.not_true, Bool.false_eq_true, ne_eq, not_true_eq_false, or_self]
  rfl

theorem evring_runs (h : Stands s 0x25 ws) (h4 : cmdWord ws 4 % 64 = 0) (h6 : cmdWord ws 6 % 16 = 0) (h5 : ringSize (cmdWord ws 5) = true) :
    exec .evring s = .next (({ popped s with ring := some ⟨cmdWord ws 4, cmdWord ws 5, cmdWord ws 6, 0, 0⟩ }.memWrite (hostBase + cmdWord ws 6 + 8)
      (leBytes 0 8)).answer ws 0 []) := by
  refine (command_runs h).trans ?_
  simp only [h4, h6, h5, Bool.not_true, Bool.false_eq_true, ne_eq, not_true_eq_false, or_self, if_false]

/-- The frames that a command names. -/
abbrev frames (s : Machine.State) (ws : List DWord) : List Nat := (wordsOf (pay s ws) (cmdPlen ws / 8)).map BitVec.toNat

theorem framepool_fast (h : Stands s 0x24 ws) (hn : cmdPlen ws % 8 = 0) (hw : cmdWord ws 4 = 0) (hf : ∀ f ∈ frames s ws, f < fastFrames) :
    exec .framepool s = .next (((frames s ws).foldl (fun (s : Machine.State) f => s.dropRange (65536 * f) 65536)
      { popped s with fastFree := s.fastFree ++ frames s ws, supplied := s.supplied ++ frames s ws }).answer ws 0 []) := by
  have hall : (frames (popped s) ws).any (fun f => decide (fastFrames ≤ f)) = false :=
    List.any_eq_false.2 fun f h => by rw [decide_eq_true_eq]; exact Nat.not_le.2 (hf f h)
  have hall' : ((wordsOf ((popped s).payload ws) (cmdPlen ws / 8)).map BitVec.toNat).any (fun f => decide (fastFrames ≤ f)) = false := hall
  refine (command_runs h).trans ?_
  simp only [hn, hw, if_true, hall', Bool.false_eq_true, ne_eq, not_true_eq_false, or_self, if_false]
  rfl

theorem framepool_capacity (h : Stands s 0x24 ws) (hn : cmdPlen ws % 8 = 0) (hw : cmdWord ws 4 ≠ 0) (hf : ∀ f ∈ frames s ws, f < capFrames) :
    exec .framepool s = .next ({ popped s with recFree := s.recFree ++ frames s ws }.answer ws 0 []) := by
  have hall : ((wordsOf ((popped s).payload ws) (cmdPlen ws / 8)).map BitVec.toNat).any (fun f => decide (capFrames ≤ f)) = false :=
    List.any_eq_false.2 fun f h => by rw [decide_eq_true_eq]; exact Nat.not_le.2 (hf f h)
  refine (command_runs h).trans ?_
  simp only [hn, hw, if_false, hall, Bool.false_eq_true, ne_eq, not_true_eq_false, or_self]
  rfl

theorem codekey_runs (h : Stands s 0x12 ws) (hn : cmdPlen ws % 96 = 0) (hl : cmdPlen ws ≤ 768)
    (hk : ∀ k ∈ keyPoints (pay s ws) (cmdPlen ws / 96), onCurve k = true) : exec .codekey s =
      .next (((popped s).modCtx (cmdCtx ws) fun c => { c with keys := keyPoints (pay s ws) (cmdPlen ws / 96), reqSig := cmdWord ws 4 == 1 }).answer
        ws 0 []) := by
  have hall : (keyPoints ((popped s).payload ws) (cmdPlen ws / 96)).all onCurve = true := List.all_eq_true.2 hk
  refine (command_runs h).trans ?_
  simp only [hn, Nat.not_lt.2 hl, hall, Bool.not_true, Bool.false_eq_true, ne_eq, not_true_eq_false, or_self, if_false]
  rfl

/-! ### Islands (R441) and attestation (R444) -/

theorem orderPreempt_kept (ctx : Nat) (cores : List Nat) (hold : Bool) (rs : List (Nat × Nat)) :
    (s.orderPreempt ctx cores hold rs).mem = s.mem ∧ (s.orderPreempt ctx cores hold rs).islands = s.islands ∧
      (s.orderPreempt ctx cores hold rs).pending = s.pending := by
  unfold State.orderPreempt
  dsimp only
  split
  · exact ⟨rfl, rfl, rfl⟩
  · exact ⟨rfl, rfl, rfl⟩

theorem preemptAll_kept (cores : List Nat) (hold : Bool) : (s.preemptAll cores hold).mem = s.mem ∧ (s.preemptAll cores hold).islands = s.islands ∧
    (s.preemptAll cores hold).pending = s.pending := by
  have h : ∀ (l : List (Nat × Machine.Context)) (u : Machine.State),
      (l.foldl (fun s x => s.orderPreempt x.1 cores hold []) u).mem = u.mem ∧ (l.foldl (fun s x => s.orderPreempt x.1 cores hold []) u).islands = u.islands ∧
        (l.foldl (fun s x => s.orderPreempt x.1 cores hold []) u).pending = u.pending := by
    intro l
    induction l with
    | nil => exact fun _ => ⟨rfl, rfl, rfl⟩
    | cons x r ih =>
      intro u
      obtain ⟨h1, h2, h3⟩ := ih (u.orderPreempt x.1 cores hold [])
      obtain ⟨g1, g2, g3⟩ := orderPreempt_kept (s := u) x.1 cores hold []
      exact ⟨h1.trans g1, h2.trans g2, h3.trans g3⟩
  exact h ..

/-- ISLAND with none under way is the command at the head. -/
theorem island_runs (h : Stands s 0x26 ws) (hw : cmdWord ws 4 < 24) : exec .island s = .next (
    let s1 := { popped s with islands := s.islands.set (cmdWord ws 4) (cmdWord ws 5) }
    if cmdWord ws 5 = 3 then
      let s2 := s1.preemptAll (upTo (4 * cmdWord ws 4) 4) false
      s2.waitMail ws [] s2.gatingOrders
    else s1.answer ws 0 []) := by
  have hd : s.islandDue = none := waiting_none h.idle ..
  have he : exec .island s = execIsland s := rfl
  rw [execIsland, hd] at he
  exact (he.trans (command_runs h)).trans (congrArg Host.Outcome.next (if_neg (Nat.not_le.2 hw)))

theorem island_sets (h : Stands s 0x26 ws) (hw : cmdWord ws 4 < 24) (h5 : cmdWord ws 5 ≠ 3) :
    exec .island s = .next ({ popped s with islands := s.islands.set (cmdWord ws 4) (cmdWord ws 5) }.answer ws 0 []) :=
  (island_runs h hw).trans (congrArg Host.Outcome.next (if_neg h5))

theorem island_off (h : Stands s 0x26 ws) (hw : cmdWord ws 4 < 24) (h5 : cmdWord ws 5 = 3) : ∃ t, exec .island s = .next t ∧
    t.islands = s.islands.set (cmdWord ws 4) 3 ∧ t.pending.length = s.pending.length + 1 ∧ t.mem = s.mem := by
  obtain ⟨hm, hi, hp⟩ := preemptAll_kept (s := { popped s with islands := s.islands.set (cmdWord ws 4) (cmdWord ws 5) })
    (upTo (4 * cmdWord ws 4) 4) false
  refine ⟨_, (island_runs h hw).trans (congrArg Host.Outcome.next (if_pos h5)), hi.trans (h5 ▸ rfl), ?_, hm⟩
  exact (List.length_append ..).trans (congrArg (·.length + 1) hp)

theorem attest_runs (h : Stands s 0x29 ws) (hn : 320 ≤ cmdPlen ws) : exec .attest s =
    .next (((popped s).memWrite (hostBase + cmdPaddr ws) (attestMessage ((ws.drop 4).take 4) ++ beBytes (attestSign
      (sha384Num (attestMessage ((ws.drop 4).take 4)))) 96)).answer ws 0 []) :=
  (command_runs h).trans (congrArg Host.Outcome.next (if_neg (Nat.not_lt.2 hn)))

end Sys2Proof.Claims.Setup

open Sys2Proof Sys2Proof.Claims Sys2Proof.Claims.Setup

/-- Settles O49: each command passes its checks, and is then carried out whole. -/
theorem setupCommands : Obligations.SetupCommands := by
  intro s ws takes p w n pay ctx
  exact ⟨rpintset_runs, wornthr_runs, wdtset_runs, profcfg_runs, fun h => ⟨_, ident_runs h, rfl⟩,
    fun h => ⟨railmap_routes h, railmap_imports h⟩, evring_runs,
    fun h hn => ⟨framepool_fast h hn, fun hw => framepool_capacity h hn fun h0 => Nat.one_ne_zero (hw.symm.trans h0)⟩, codekey_runs,
    fun h hw => ⟨island_sets h hw, island_off h hw⟩, fun h hn => ⟨_, attest_runs h hn, rfl⟩⟩

/-! The debugger's commands (R196, R197, R384, R421, R427 to R430, R469). -/
namespace Sys2Proof.Claims.Debugs
open Sys2Proof.Machine Sys2Proof.Claims.Mail Sys2Proof.Claims.Setup Sys2Proof.Claims.Traces
-- One proof at a time: the text is compiled as one file, whose memory parallel elaboration would exceed.
set_option Elab.async false

variable {s : Machine.State} {ws : List DWord} {gr : Machine.Group}

/-! ### The right (R196, R197) -/

theorem dbggrant_runs (h : Stands s 0x30 ws) : exec .dbggrant s =
    .next (((popped s).modCtx (cmdCtx ws) fun c => { c with debug := true }).answer ws 0 []) := command_runs h

/-- The registers of a group. -/
def files (gr : Machine.Group) := (gr.lanes, gr.s, gr.k)

theorem files_resume (k : Bool) : files (gr.resume k) = files gr := by
  unfold Machine.Group.resume
  split
  · split
    · rfl
    · split <;> rfl
  · rfl
  all_goals rfl

theorem files_letGo (b : Bool) : files (gr.letGo b) = files gr := by
  unfold Machine.Group.letGo
  dsimp only
  split
  · split <;> rfl
  · exact (files_resume _).trans rfl
  · split <;> rfl
  · rfl

theorem files_underHalt (b : Bool) : files (gr.underHalt b) = files gr := by
  unfold Machine.Group.underHalt Machine.Group.haltReached
  split
  · split <;> rfl
  · rfl

/-- The crew is in a halt by the debugger that is still to be delivered. -/
def halted (s : Machine.State) (k : Nat) : Bool :=
  match s.crew? k with
  | none => false
  | some c => c.debugHalt

/-- A group of the context goes on. -/
def revoked (s : Machine.State) (ctx : Nat) (gr : Machine.Group) : Machine.Group :=
  if gr.ctx == ctx then (gr.letGo (halted s gr.crew)).underHalt (s.haltUnder gr.crew && !halted s gr.crew) else gr

theorem revoked_files (ctx : Nat) : files (revoked s ctx gr) = files gr := by
  unfold revoked
  split
  · rw [files_underHalt, files_letGo]
  · rfl

/-- The context without the debug right. -/
def revoke (s : Machine.State) (ctx : Nat) : Machine.State :=
  { s.modCtx ctx fun c => { c with debug := false, watches := [] } with
    groups := tmap s.groups fun _ gr => revoked s ctx gr
    crews := tmap s.crews fun _ c => if c.ctx == ctx && c.debugHalt then { c with halt := none } else c
    savedCrews := tmap s.savedCrews fun _ x => if x.crew.ctx == ctx then x.letGo else x
    accs := tmap s.accs fun _ a => if a.ctx == ctx then { a with watch := false } else a
    ops := tmap s.ops fun n o => if s.opOf ctx n o then { o with watch := false } else o
    stops := s.stops.filter (·.ctx != ctx) }

theorem dbgrevoke_runs (h : Stands s 0x31 ws) : exec .dbgrevoke s = .next ((revoke (popped s) (cmdCtx ws)).answer ws 0 []) := command_runs h

theorem revoke_group (ctx g : Nat) : (revoke s ctx).group? g = (s.group? g).map (revoked s ctx) := tget_tmap s.groups (fun _ => revoked s ctx) g

theorem revoke_leaves (ctx : Nat) : (revoke s ctx).mem = s.mem ∧
    (∀ c, s.ctx? ctx = some c → (revoke s ctx).ctx? ctx = some { c with debug := false, watches := [] }) ∧ (∀ x ∈ (revoke s ctx).stops, x.ctx ≠ ctx) ∧
    ∀ g x, s.group? g = some x → ∃ y, (revoke s ctx).group? g = some y ∧ y.lanes = x.lanes ∧ y.s = x.s ∧ y.k = x.k ∧ (x.ctx ≠ ctx → y = x) := by
  refine ⟨rfl, fun c hc => (tget_tmod_same ..).trans (congrArg (Option.map _) hc), fun x hx => bne_iff_ne.1 (List.mem_filter.1 hx).2, fun g x hx => ?_⟩
  have hf := revoked_files (s := s) (gr := x) ctx
  simp only [files, Prod.mk.injEq] at hf
  obtain ⟨hl, hs, hk⟩ := hf
  refine ⟨revoked s ctx x, by rw [revoke_group, hx, Option.map_some], hl, hs, hk, fun hne => if_neg fun he => hne (beq_iff_eq.1 he)⟩

/-! ### Commands that need the right -/

section
variable {op : Nat} {f : Form} {body : List DWord → Machine.State → Machine.State} (h : Takes s op f ws)
include h

theorem debugging_refused (hd : s.debugs (cmdCtx ws) = false) :
    command op f s (fun ws s => s.debugging ws (body ws)) = .next ((popped s).answer ws 35 []) := by
  refine (command_runs h).trans (congrArg Host.Outcome.next ?_)
  have hd' : (popped s).debugs (cmdCtx ws) = false := hd
  simp only [State.debugging, hd', Bool.false_eq_true, if_false]

theorem debugging_runs (hd : s.debugs (cmdCtx ws) = true) :
    command op f s (fun ws s => s.debugging ws (body ws)) = .next (body ws (popped s)) :=
  (command_runs h).trans (congrArg Host.Outcome.next (if_pos hd))

end

theorem dbghalt_command (hi : Idle s) : exec .dbghalt s = command 0x32 ⟨.created, false, low32, low32, 0, 0⟩ s fun ws s => s.debugging ws fun s =>
    match s.findCrew (cmdCtx ws) (cmdWord ws 4) (cmdWord ws 5) with
    | .none => s.answer ws 1 []
    | .here k c => if c.gated then s.waitMail ws [] [] else (s.debugHaltCrew k).waitMail ws [] [k]
    | .saved _ _ => s.waitMail ws [] [] := by
  show execDbghalt s = _
  rw [execDbghalt, haltWaits_none hi] <;> rfl

/-- DBGWATCH as it is carried out. -/
def watch (ws : List DWord) (s : Machine.State) : Machine.State :=
  let n := fld (cmdWord ws 4) 2 0
  let rd := fld (cmdWord ws 4) 8 8 == 1
  let wr := fld (cmdWord ws 4) 9 9 == 1
  let len := cmdWord ws 7
  if !rd && !wr then (s.modCtx (cmdCtx ws) fun c => { c with watches := tdel c.watches n }).answer ws 0 []
  else if len < 1 ∨ 2 ^ 40 < len then s.answer ws 1 []
  else if !s.watchable (cmdCtx ws) (cmdWord ws 5) then s.answer ws 34 []
  else (s.modCtx (cmdCtx ws) fun c => { c with watches := tset c.watches n ⟨cmdWord ws 5, cmdWord ws 6, len, rd, wr⟩ }).answer ws 0 []

theorem dbgwatch_command {f : Form} (h : Takes s 0x37 f ws) : exec .dbgwatch s =
    command 0x37 ⟨.created, false, 7 + ones 9 8, low32, ones 39 0, ones 40 0⟩ s fun ws s => s.debugging ws (watch ws) :=
  bankCommand_goes h.idle h.head h.op .dbgwatch (h.bank.2 rfl) _

/-- The commands that need the right. -/
theorem debugForms : (commandForms.filter fun x => decide (0x32 ≤ x.2.1 ∧ x.2.1 ≤ 0x37)) =
    [row .dbghalt 0x32 .created false 0xFFFFFFFF 0xFFFFFFFF 0 0, (.dbgread, 0x33, groupForm 0xFFFFFFFFFFFFFFFF 0),
     (.dbgwrite, 0x34, groupForm 0xFFFFFFFFFFFFFFFF 0xFFFFFFFFFFFFFFFF), (.dbgresume, 0x35, groupForm 1 0),
     (.dbgstop, 0x36, groupForm 0xFFFFFFFFFFFFFFFF 0), row .dbgwatch 0x37 .created false 0x307 0xFFFFFFFF 0xFFFFFFFFFF 0x1FFFFFFFFFF] := rfl

theorem debugCommand_refused (hd : s.debugs (cmdCtx ws) = false) : ∀ x ∈ commandForms, 0x32 ≤ x.2.1 → x.2.1 ≤ 0x37 → Stands s x.2.1 ws →
    exec x.1 s = .next ((popped s).answer ws 35 []) := by
  have hall : ∀ x ∈ commandForms.filter fun x => decide (0x32 ≤ x.2.1 ∧ x.2.1 ≤ 0x37), Stands s x.2.1 ws →
      exec x.1 s = .next ((popped s).answer ws 35 []) := by
    rw [debugForms]
    simp only [List.forall_mem_cons]
    exact ⟨fun h => (dbghalt_command h.idle).trans (debugging_refused h hd), fun h => debugging_refused h hd, fun h => debugging_refused h hd,
      fun h => debugging_refused h hd, fun h => debugging_refused h hd, fun h => (dbgwatch_command h).trans (debugging_refused h hd),
      fun _ hx => nomatch hx⟩
  exact fun x hx h1 h2 => hall x (List.mem_filter.2 ⟨hx, decide_eq_true ⟨h1, h2⟩⟩)

section
variable (hd : s.debugs (cmdCtx ws) = true)
include hd

theorem dbghalt_runs {k : Nat} {c : Machine.Crew} (h : Stands s 0x32 ws)
    (hf : (popped s).findCrew (cmdCtx ws) (cmdWord ws 4) (cmdWord ws 5) = .here k c) (hg : c.gated = false) :
    exec .dbghalt s = .next (((popped s).debugHaltCrew k).waitMail ws [] [k]) := by
  refine ((dbghalt_command h.idle).trans (debugging_runs h hd)).trans ?_
  simp only [hf, hg, Bool.false_eq_true, if_false]

omit hd in
theorem onStopped_runs {x : Seen} (hx : s.findGroup (cmdCtx ws) ws = some x) (hs : x.gr.stop = .trapped ∨ x.gr.stop = .halted)
    (f : Seen → Machine.State) : s.onStopped ws f = f x := by
  have ho : (x.gr.openToThread && x.gr.stop != .trapping) = true := by
    unfold Machine.Group.openToThread
    rcases hs with hs | hs <;> rw [hs] <;> rfl
  simp only [State.onStopped, hx, ho, if_true]

theorem dbgstop_arms (h : Stands s 0x36 ws) (hf : (popped s).findGroup (cmdCtx ws) ws = none) (hr : (popped s).stopRetired ws = false) :
    exec .dbgstop s = .next ({ popped s with stops := s.stops ++ [stopOf ws] }.answer ws 0 []) := by
  refine (debugging_runs h hd).trans ?_
  simp only [hf, hr, Bool.false_eq_true, if_false]
  rfl

omit hd in
theorem fld_bit (v i : Nat) : (fld v i i == 1) = v.testBit i := by
  rw [fld, Nat.testBit_eq_decide_div_mod_eq, show i - i + 1 = 1 by omega, Nat.pow_one]
  by_cases h : v / 2 ^ i % 2 = 1 <;> simp [h]

theorem dbgwatch_runs (h : Stands s 0x37 ws) (hr : (cmdWord ws 4).testBit 8 = true) (h1 : 1 ≤ cmdWord ws 7) (h2 : cmdWord ws 7 ≤ 2 ^ 40)
    (hw : (popped s).watchable (cmdCtx ws) (cmdWord ws 5) = true) : exec .dbgwatch s = .next (((popped s).modCtx (cmdCtx ws) fun c => { c with
      watches := tset c.watches (cmdWord ws 4 % 8) ⟨cmdWord ws 5, cmdWord ws 6, cmdWord ws 7, true, (cmdWord ws 4).testBit 9⟩ }).answer ws 0 []) := by
  refine ((dbgwatch_command h).trans (debugging_runs h hd)).trans ?_
  have hlen : ¬ (cmdWord ws 7 < 1 ∨ 2 ^ 40 < cmdWord ws 7) := by omega
  have hn : fld (cmdWord ws 4) 2 0 = cmdWord ws 4 % 8 := by
    simp only [fld, Nat.pow_zero, Nat.div_one]
    rfl
  simp only [watch, fld_bit, hr, hn, Bool.not_true, Bool.false_and, Bool.false_eq_true, if_false, hlen, hw]

section
variable {x : Seen} (hx : (popped s).findGroup (cmdCtx ws) ws = some x) (hs : x.saved = none) (ht : x.state = popped s)
  (hstop : x.gr.stop = .trapped ∨ x.gr.stop = .halted)
include hx hs ht hstop

omit hs in
theorem dbgread_runs (h : Stands s 0x33 ws) :
    exec .dbgread s = .next ((popped s).answer ws 0 [(popped s).selRead x.gr (BitVec.ofNat 64 (cmdWord ws 6))]) := by
  refine (debugging_runs h hd).trans ?_
  rw [onStopped_runs hx hstop, ht]
  rfl

theorem dbgwrite_runs (h : Stands s 0x34 ws) : exec .dbgwrite s =
    .next (((popped s).writeSel x.group x.gr (BitVec.ofNat 64 (cmdWord ws 6)) (BitVec.ofNat 64 (cmdWord ws 7))).answer ws 0 []) := by
  refine (debugging_runs h hd).trans ?_
  rw [onStopped_runs hx hstop, ht, Seen.put, hs]
  rfl

theorem dbgresume_runs (h : Stands s 0x35 ws) : exec .dbgresume s = .next (((popped s).resumeGroup x.group (cmdWord ws 6 == 1)).answer ws 0 []) := by
  have hst : x.gr.stopped = true := by
    unfold Machine.Group.stopped
    rcases hstop with h | h <;> rw [h]
  refine (debugging_runs h hd).trans ?_
  rw [onStopped_runs hx hstop]
  simp only [hst, if_true, Seen.put, hs, ht]

end

end

/-! ### TRACEBUF (R421, R469) -/

theorem traced_writeHeader {o : Machine.State} (h : Traced o s) (b : TraceBuf) (ctx olen core : Nat) : Traced o (s.writeHeader b ctx olen core) := by
  unfold State.writeHeader
  split
  · exact h
  · exact traced_ringWrite h ..

theorem traced_writeHeaders {o : Machine.State} (b : TraceBuf) (ctx olen : Nat) (l : List Nat) : ∀ {s : Machine.State}, Traced o s →
    Traced o (l.foldl (fun s core => s.writeHeader b ctx olen core) s) := by
  induction l with
  | nil => exact id
  | cons core r ih => exact fun h => ih (traced_writeHeader h b ctx olen core)

/-- A trace buffer is the context's from now on. -/
def buffered (s : Machine.State) (ws : List DWord) (b : TraceBuf) : Machine.State :=
  { s with nextId := s.nextId + 1 }.modCtx (cmdCtx ws) fun c => { c with trace := some b }

/-- The buffer that TRACEBUF makes of an object. -/
def newBuffer (s : Machine.State) (ws : List DWord) (e : Entry) : TraceBuf := ⟨s.nextId, cmdWord ws 4, e.kind, cmdWord ws 5⟩

/-- Its headers are written, and the command waits for them. -/
theorem tracebuf_begins {e : Entry} (h : Stands s 0x38 ws) (h1 : cmdWord ws 5 % 4096 = 0) (h2 : 4096 ≤ cmdWord ws 5) (h3 : cmdWord ws 5 ≤ 2 ^ 32)
    (he : (popped s).mintEntry ws = some e) : exec .tracebuf s = .next (((List.range 96).foldl
      (fun u core => u.writeHeader (newBuffer (popped s) ws e) (cmdCtx ws) e.olen core) (buffered (popped s) ws (newBuffer (popped s) ws e))).waitMail ws []
        [s.nextId]) := by
  have hm : s.tracebufDue = none := waiting_none h.idle ..
  have hx : exec .tracebuf s = execTracebuf s := rfl
  rw [execTracebuf, hm] at hx
  have hlen : ¬ (cmdWord ws 5 % 4096 ≠ 0 ∨ cmdWord ws 5 < 4096 ∨ 2 ^ 32 < cmdWord ws 5) := by omega
  have hb := (hx.trans (bankCommand_goes h.idle h.head h.op .tracebuf (h.bank.1 (.inr rfl)) _)).trans (command_runs h)
  simp only [if_neg hlen, he] at hb
  exact hb

theorem tracebuf_runs {e : Entry} (h : Stands s 0x38 ws) (h1 : cmdWord ws 5 % 4096 = 0) (h2 : 4096 ≤ cmdWord ws 5) (h3 : cmdWord ws 5 ≤ 2 ^ 32)
    (he : (popped s).mintEntry ws = some e) :
    ∃ t, exec .tracebuf s = .next t ∧ t.pending.length = s.pending.length + 1 ∧ t.groups.length = s.groups.length := by
  obtain ⟨ho, -, hg⟩ := traced_writeHeaders (newBuffer (popped s) ws e) (cmdCtx ws) e.olen (List.range 96)
    (traced_refl (buffered (popped s) ws (newBuffer (popped s) ws e)))
  refine ⟨_, tracebuf_begins h h1 h2 h3 he, ?_, hg⟩
  exact (List.length_append ..).trans (congrArg (fun u => u.pending.length + 1) ho)

end Sys2Proof.Claims.Debugs

open Sys2Proof Sys2Proof.Claims Sys2Proof.Claims.Debugs

/-- Settles O51: a command needs the debug right, and then acts on the crew or group that it names. -/
theorem debugCommands : Obligations.DebugCommands := by
  intro s ws takes p w ctx
  refine ⟨dbggrant_runs, fun h => ⟨_, dbgrevoke_runs h, revoke_leaves _⟩, debugCommand_refused,
    fun hd => ⟨fun k c => dbghalt_runs hd, fun x hx hs ht hstop => ⟨dbgread_runs hd hx ht hstop, dbgwrite_runs hd hx hs ht hstop,
      dbgresume_runs hd hx hs ht hstop⟩, dbgstop_arms hd, dbgwatch_runs hd⟩, fun e => tracebuf_runs⟩

/-! Recovery points and errors (R232 to R237). -/
namespace Sys2Proof.Claims.Recover
open Sys2Proof.Machine Sys2Proof.Claims.Mail Sys2Proof.Claims.Setup
-- One proof at a time: the text is compiled as one file, whose memory parallel elaboration would exceed.
set_option Elab.async false

variable {s : Machine.State} {ws : List DWord}

/-! ### Recovery points (R232) -/

theorem beginPoint_begins (rs : List (Nat × Nat)) (h : s.pointNeed ≤ s.recFree.length) :
    s.beginPoint rs = { s with taking := some rs }.preemptAll (List.range 96) true := if_neg (Nat.not_lt.2 h)

theorem beginPoint_lacks (rs : List (Nat × Nat)) (h : s.recFree.length < s.pointNeed) : s.beginPoint rs = s.noPoint rs := if_pos h

theorem rptake_joins (h : Stands s 0x21 ws) (ht : s.taking = some []) :
    exec .rptake s = .next { popped s with taking := some [(cmdRaddr ws, cmdTag ws)] } := by
  refine (command_runs h).trans ?_
  have ht' : (popped s).taking = some [] := ht
  simp only [ht', List.nil_append]

theorem rptake_begins (h : Stands s 0x21 ws) (ht : s.taking = none) :
    exec .rptake s = .next ((popped s).beginPoint [(cmdRaddr ws, cmdTag ws)]) := by
  refine (command_runs h).trans ?_
  have ht' : (popped s).taking = none := ht
  simp only [ht']

theorem recoveryPointTimer_begins (h0 : s.rpint ≠ 0) (h1 : s.rpNext ≤ s.clock) (ht : s.taking = none) :
    exec .recoveryPointTimer s = .next ({ s with rpNext := s.clock + s.rpint }.beginPoint []) := by
  have hd : s.pointTimerDue = true := by
    simp only [State.pointTimerDue, bne_iff_ne.2 h0, decide_eq_true h1, ht, Option.isNone_none, Bool.and_self]
  exact if_pos hd

theorem recoveryPointCommit_keeps {rs : List (Nat × Nat)} (ht : s.taking = some rs) (hg : s.gatingOrders = []) (hr : s.refresh = [])
    (hn : s.pointNeed ≤ s.recFree.length) : exec .recoveryPointCommit s =
      .next ((rs.foldl (fun (s : Machine.State) a => s.mailResult a.1 a.2 0 [BitVec.ofNat 64 s.clock]) { s with
        taking := none, point := some (s.toDev, s.clock, s.recFree.take s.pointNeed), outLog := [], outOver := false, since := [],
        supplied := [], recFree := s.recFree.drop s.pointNeed ++ s.pointFrames }).resumeHeld) := by
  have hd : s.commitPointDue = true := by
    simp only [State.commitPointDue, ht, hg, hr, Option.isSome_some, List.isEmpty_nil, Bool.and_self]
  show execRecoveryPointCommit s = _
  simp only [execRecoveryPointCommit, ht, hd, Bool.not_true, Bool.false_eq_true, if_false, Nat.not_lt.2 hn]
  rfl

/-! ### Uncorrectable errors (R234, R235) -/

theorem countUncorrected_point (u : Nat) : (s.countUncorrected u).point = s.point := by
  unfold State.countUncorrected
  split
  · rfl
  · dsimp only
    split
    · rfl
    · rfl

theorem uncorrectableError_fails {u : Nat} (hu : storesState u = true) (hp : s.point = none) :
    exec (.uncorrectableError u) s = .next (s.countUncorrected u).failAccepted.abandonPoint := by
  show execUncorrectableError u s = _
  simp only [execUncorrectableError, hu, Bool.not_true, Bool.false_eq_true, if_false, countUncorrected_point, hp]

theorem uncorrectableError_restores {u k : Nat} {d : Dev} {fs : List Nat} (hu : storesState u = true) (hp : s.point = some (d, k, fs)) :
    exec (.uncorrectableError u) s =
      if unitType u = 10 then .next (s.countUncorrected u).failAccepted.abandonPoint else .next ((s.countUncorrected u).rollback u d k) := by
  show execUncorrectableError u s = _
  simp only [execUncorrectableError, hu, Bool.not_true, Bool.false_eq_true, if_false, countUncorrected_point, hp]

/-! ### Corrected errors (R236) -/

theorem mem_insertNat_self (l : List Nat) (x : Nat) : x ∈ insertNat l x := by
  induction l with
  | nil => exact List.mem_singleton_self x
  | cons y r ih =>
    unfold insertNat
    split
    · exact List.mem_cons_self
    · split
      next h => exact h ▸ List.mem_cons_self
      · exact List.mem_cons_of_mem _ ih

theorem mem_insertNat_of_mem {l : List Nat} {x y : Nat} (h : y ∈ l) : y ∈ insertNat l x := by
  induction l with
  | nil => exact absurd h List.not_mem_nil
  | cons z r ih =>
    unfold insertNat
    split
    · exact List.mem_cons_of_mem _ h
    · split
      · exact h
      · rcases List.mem_cons.1 h with rfl | h
        · exact List.mem_cons_self
        · exact List.mem_cons_of_mem _ (ih h)

theorem markWorn_kept (u : Nat) : (s.markWorn u).corrected = s.corrected ∧ (s.markWorn u).mem = s.mem ∧ (s.markWorn u).groups = s.groups ∧
    (∀ x ∈ s.worn, x ∈ (s.markWorn u).worn) ∧ (s.wornThr < s.errorCount u → u ∈ (s.markWorn u).worn) := by
  unfold State.markWorn
  split
  next => exact ⟨rfl, rfl, rfl, fun x hx => mem_insertNat_of_mem hx, fun _ => mem_insertNat_self _ _⟩
  next h =>
    refine ⟨rfl, rfl, rfl, fun _ hx => hx, fun hc => ?_⟩
    by_contra hn
    exact h ⟨hc, by rw [Bool.not_eq_true', Bool.eq_false_iff, ne_eq, List.contains_iff_mem]; exact hn⟩

/-- The errors still in the window. -/
def recent (s : Machine.State) : List (Nat × Nat) := s.corrected.filter fun x => decide (s.clock < x.2 + 2 ^ 36)

theorem errorCount_next (u : Nat) : State.errorCount { s with corrected := recent s ++ [(u, s.clock)] } u =
    (s.corrected.filter fun x => x.1 == u && decide (s.clock < x.2 + 2 ^ 36)).length + 1 := by
  have hnew : (u == u && decide (s.clock < s.clock + errorWindow)) = true := by
    rw [beq_self_eq_true, Bool.true_and, decide_eq_true_eq]
    exact Nat.lt_add_of_pos_right (by decide)
  show ((recent s ++ [(u, s.clock)]).filter fun x => x.1 == u && decide (s.clock < x.2 + errorWindow)).length = _
  rw [List.filter_append, List.length_append, recent, List.filter_filter]
  refine congrArg₂ (· + ·) (congrArg List.length (List.filter_congr fun x _ => ?_)) ?_
  · show (x.1 == u && decide (s.clock < x.2 + 2 ^ 36) && decide (s.clock < x.2 + 2 ^ 36)) = _
    rw [Bool.and_assoc, Bool.and_self]
  · exact congrArg List.length ((List.filter_cons_of_pos (p := fun x : Nat × Nat => x.1 == u && decide (s.clock < x.2 + errorWindow)) hnew).trans rfl)

theorem correctedError_counts {u : Nat} (hu : countsErrors u = true) : ∃ t, exec (.correctedError u) s = .next t ∧
    t.corrected = recent s ++ [(u, s.clock)] ∧ t.mem = s.mem ∧ t.groups = s.groups ∧ (∀ x ∈ s.worn, x ∈ t.worn) ∧
    (s.wornThr < ((s.corrected.filter fun x => x.1 == u && decide (s.clock < x.2 + 2 ^ 36)).length) + 1 → u ∈ t.worn) := by
  obtain ⟨h1, h2, h3, h4, h5⟩ := markWorn_kept (s := { s with corrected := recent s ++ [(u, s.clock)] }) u
  refine ⟨_, ?_, h1, h2, h3, h4, fun h => h5 (by rw [errorCount_next]; exact h)⟩
  show execCorrectedError u s = _
  simp only [execCorrectedError, hu, Bool.not_true, Bool.false_eq_true, if_false]
  rfl

end Sys2Proof.Claims.Recover

open Sys2Proof Sys2Proof.Claims Sys2Proof.Claims.Recover

/-- Settles O52: a point begins with every context pre-empted, is kept as data, and is what an error goes back to. -/
theorem recoverySteps : Obligations.RecoverySteps := by
  intro s
  refine ⟨fun ws h => ⟨rptake_joins h, fun ht hn => ?_, fun ht hn => ?_⟩, fun h0 h1 ht hn => ?_,
    fun rs => recoveryPointCommit_keeps, fun u hu => ⟨uncorrectableError_fails hu, fun d k fs hp => ⟨fun h => ?_, fun h => ?_⟩⟩, fun u => correctedError_counts⟩
  · exact (rptake_begins h ht).trans (congrArg Host.Outcome.next (beginPoint_begins _ hn))
  · exact (rptake_begins h ht).trans (congrArg Host.Outcome.next (beginPoint_lacks _ hn))
  · exact (recoveryPointTimer_begins h0 h1 ht).trans (congrArg Host.Outcome.next (beginPoint_begins _ hn))
  · rw [uncorrectableError_restores hu hp, if_pos h]
  · rw [uncorrectableError_restores hu hp, if_neg h]

/-! What the operations of the model leave as it is, continued: groups at stations, the memory path of an access and its answers. -/
namespace Sys2Proof.Claims.Kept
open Sys2Proof.Machine
-- One proof at a time: the text is compiled as one file, whose memory parallel elaboration would exceed.
set_option Elab.async false

section
variable {o s : Machine.State} (h : Keeps o s)
include h

/-! ### Tables -/

theorem keeps_modGroup (g : Nat) (f : Machine.Group → Machine.Group) : Keeps o (s.modGroup g f) := h
theorem keeps_modThread (t : Nat) (f : Thread → Thread) : Keeps o (s.modThread t f) := h
theorem keeps_modCrew (k : Nat) (f : Crew → Crew) : Keeps o (s.modCrew k f) := h
theorem keeps_modAnyCrew (k : Nat) (f : Crew → Crew) : Keeps o (s.modAnyCrew k f) := h
theorem keeps_modCtx (n : Nat) (f : Machine.Context → Machine.Context) : Keeps o (s.modCtx n f) := h
theorem keeps_modAcc (n : Nat) (f : Access → Access) : Keeps o (s.modAcc n f) := h
theorem keeps_modOp (n : Nat) (f : Op → Op) : Keeps o (s.modOp n f) := h
theorem keeps_modCmd (n : Nat) (f : Copy → Copy) : Keeps o (s.modCmd n f) := h
theorem keeps_pushEvent (t : Nat) (b : Option Nat) (ws : List DWord) : Keeps o (s.pushEvent t b ws) := h

theorem keeps_savedCrews (t : Tab SavedCrew) : Keeps o { s with savedCrews := t } := h

/-! ### Stations (R38 to R44, R418) -/

theorem keeps_makeRoom {core n k : Nat} {t : Machine.State} (ht : s.makeRoom core n k = some t) : Keeps o t := by
  rw [Waits.makeRoom_eq ht]
  exact h

theorem keeps_codeFor {core ctx codeid kernel num : Nat} {r : Machine.State × Nat × List Word}
    (hr : s.codeFor core ctx codeid kernel num = some r) : Keeps o r.1 := by
  unfold State.codeFor at hr
  dsimp only at hr
  split at hr
  · cases hr
    exact h
  · split at hr
    · cases hr
    · split at hr
      · cases hr
      next hm =>
        cases hr
        have h1 := keeps_makeRoom (s := { s with store := s.store.filter s.keepsCopy }) h hm
        exact h1

theorem keeps_joinEntry (pme : Nat) (w : Waiter) : Keeps o (s.joinEntry pme w).1 := by
  unfold State.joinEntry
  split
  · exact h
  · dsimp only
    split <;> exact h

theorem keeps_wantPage (pme : Nat) : Keeps o (s.wantPage pme) := by
  unfold State.wantPage
  split <;> exact h

theorem keeps_askCode (g : Nat) (pmes : List Nat) : Keeps o (s.askCode g pmes) := by
  unfold State.askCode
  split
  · exact h
  · exact keeps_foldl (fun s p h => keeps_joinEntry h p _) _ _ h

theorem keeps_enter (g : Nat) (x : Sta) : Keeps o (s.enter g x) := by
  unfold State.enter
  split
  · exact h
  · dsimp only
    split
    · exact keeps_notifyBy (keeps_traceEntry (keeps_modGroup h ..) ..) ..
    · exact keeps_traceEntry (keeps_modGroup h ..) ..
    · split
      next hc =>
        refine keeps_traceEntry (keeps_modGroup ?_ ..) ..
        exact keeps_codeFor (keeps_modGroup h ..) hc
      next =>
        refine keeps_askCode (keeps_modGroup ?_ ..) ..
        exact keeps_modGroup h ..

theorem keeps_startCover (g : Nat) (set : List Nat) : Keeps o (s.startCover g set) := by
  unfold State.startCover
  split
  · exact h
  · dsimp only
    split
    · exact h
    · exact keeps_enter (keeps_modGroup h ..) ..

theorem keeps_requestCompose (g t codeid kernel : Nat) (set : List Nat) : Keeps o (s.requestCompose g t codeid kernel set) := by
  unfold State.requestCompose
  split
  · split
    · exact h
    · exact keeps_pushEvent (keeps_modGroup (keeps_modThread h ..) ..) ..
  · exact h

theorem keeps_points (g : Nat) : Keeps o (s.points g) := by
  unfold State.points
  split
  · exact h
  · dsimp only
    split
    · exact h
    · split
      · exact keeps_enter (keeps_modGroup h ..) ..
      · split
        · exact keeps_requestCompose (keeps_modGroup h ..) ..
        · exact keeps_startCover (keeps_modGroup h ..) ..

theorem keeps_vote (g : Nat) : Keeps o (s.vote g) := by
  unfold State.vote
  split
  · exact h
  · dsimp only
    split
    · exact keeps_points (keeps_modGroup h ..) g
    · split
      · exact keeps_points (keeps_modGroup (keeps_modGroup h ..) ..) g
      · exact keeps_enter (keeps_modGroup (keeps_modGroup h ..) ..) ..

theorem keeps_installFor (ctx : Nat) (r : Request) (x : Sta) (gs : List Nat) : Keeps o (s.installFor ctx r x gs) := by
  refine keeps_foldl (fun s g h => ?_) _ _ h
  split <;> exact h

theorem keeps_serveRequest (t : Nat) (r : Request) (x : Option Sta) : Keeps o (s.serveRequest t r x) := by
  unfold State.serveRequest
  split
  · exact h
  · refine keeps_savedCrews (keeps_foldl (fun s g h => ?_) _ _ ?_) _
    · split
      · exact keeps_enter h ..
      · exact keeps_startCover (keeps_modGroup h ..) ..
    · split
      · exact keeps_installFor (keeps_modThread h ..) ..
      · exact keeps_modThread h ..

/-! ### Fuse (R48 to R50) -/

theorem keeps_fuseBuffer (crew g n : Nat) : Keeps o (s.fuseBuffer crew g n) := by
  unfold State.fuseBuffer
  split <;> exact h

theorem keeps_resolveSite (crew site : Nat) : Keeps o (s.resolveSite crew site) := by
  unfold State.resolveSite
  refine keeps_foldl (fun s x h => ?_) _ _ (keeps_foldl (fun s x h => ?_) _ _ (keeps_foldl (fun s x h => keeps_release h x.1) _ _ h))
  · dsimp only
    split
    · exact h
    · exact h
    · exact keeps_retireGroup (keeps_modCrew (keeps_fuseBuffer h ..) ..) _
  · dsimp only
    split
    · split
      · exact keeps_traceLive (keeps_modGroup h ..) ..
      · exact h
    · split <;> exact h

theorem keeps_writeBlocks (g : Nat) (gr : Machine.Group) (f : Lane → BitVec 8) : Keeps o (s.writeBlocks g gr f) :=
  keeps_traceLive (keeps_modGroup h ..) ..

/-! ### Performing at the home (R89 to R92, R101) -/

theorem keeps_dropRuns (core : Nat) (ws : List (Nat × List Byte)) : Keeps o (s.dropRuns core ws) := by
  refine keeps_foldl (fun s x h => ?_) _ _ h
  exact h

theorem keeps_runsWrite (ctx core : Nat) (ws : List (Nat × List Byte)) : Keeps o (s.runsWrite ctx core ws) :=
  keeps_foldl (fun _ _ h => keeps_logOut h ..) _ _ (keeps_memPuts (keeps_dropRuns h core ws) ws)

theorem keeps_writePieces (a : Access) (pf : List (Piece × Nat)) : Keeps o (s.writePieces a pf) := by
  have h1 : Keeps o (s.runsWrite a.ctx a.core (storeRuns pf)) := keeps_runsWrite h ..
  unfold State.writePieces
  dsimp only
  split
  · split
    · exact h1
    · exact h1.dev_of id (ascending_tagSet _)
  all_goals exact h1

theorem keeps_watchReport (cls ctx handle off size queue : Nat) (write : Bool) : Keeps o (s.watchReport cls ctx handle off size queue write) :=
  keeps_foldl (fun _ _ h => keeps_report h ..) _ _ h

theorem keeps_parkAccess (id pme : Nat) : Keeps o (s.parkAccess id pme) := by
  unfold State.parkAccess
  exact keeps_modAcc (keeps_joinEntry h ..) ..

theorem keeps_readAccess (a : Access) (pf : List (Piece × Nat)) (cacheable : Bool) : Keeps o (s.readAccess a pf cacheable).1 := by
  unfold State.readAccess
  dsimp only
  split <;> exact h

theorem keeps_performAccess (id : Nat) (a : Access) (kind : OpKind) (cacheable : Bool) : Keeps o (s.performAccess id a kind cacheable) := by
  unfold State.performAccess
  dsimp only
  split
  · exact keeps_modAcc (keeps_runsWrite h ..) ..
  · split
    · exact keeps_modAcc (keeps_writePieces h ..) ..
    · exact keeps_modAcc (keeps_readAccess h ..) ..

theorem keeps_refuse (id : Nat) (a : Access) (code origin : Nat) (detail : DWord) : Keeps o (s.refuse id a code origin detail) := h

/-! ### Claims and the serial order (R112 to R116, R156 to R161) -/

theorem keeps_loseClaim (n : Nat) : Keeps o (s.loseClaim n) := h

theorem keeps_allocTag (line : Nat) : Keeps o (s.allocTag line) := by
  unfold State.allocTag
  split
  · exact h
  · exact h
  · split
    · exact h
    · split
      · exact h
      next d _ _ k c _ =>
        refine keeps_foldl (fun _ n h => keeps_loseClaim h n) _ _ ?_
        exact h

theorem keeps_claimAccess (id : Nat) (a : Access) (foreign : Holder → Bool) {f : Machine.State → Machine.State}
    (hf : ∀ s, Keeps o s → Keeps o (f s)) : Keeps o (s.claimAccess id a foreign f) := by
  have h1 := keeps_allocTag h (a.flats.headD 0 / 64)
  unfold State.claimAccess
  dsimp only
  split
  · exact keeps_refuse h1 ..
  · refine hf _ (keeps_foldl (fun _ n h => keeps_loseClaim h n) _ _ ?_)
    exact h1

theorem keeps_keepOwner (launch : Nat) (l : Launch) (idx line : Nat) (write shared outside : Bool) :
    Keeps o (s.keepOwner launch l idx line write shared outside) := by
  have h1 := keeps_allocTag h line
  unfold State.keepOwner
  dsimp only
  split
  · exact h
  · split
    · exact h1
    · exact h1

theorem keeps_serialAccess (id : Nat) (a : Access) (c : Crew) (l : Launch) (kind : OpKind) (e : Entry) {f : Machine.State → Machine.State}
    (hf : ∀ s, Keeps o s → Keeps o (f s)) : Keeps o (s.serialAccess id a c l kind e f) := by
  have hc (p : Bool) {k : Machine.State → Machine.State} (hk : ∀ s, Keeps o s → Keeps o (k s)) :
      Keeps o (if p = true then s.claimAccess id a (s.otherInCrew a c.launch) k else k s) := by
    split
    · exact keeps_claimAccess h _ _ _ hk
    · exact hk s h
  unfold State.serialAccess
  dsimp only
  split
  · exact h
  · exact keeps_refuse h ..
  · exact hc _ fun s h => keeps_modAcc (keeps_modAnyCrew h ..) ..
  · refine hc _ fun s h => ?_
    split
    · exact hf s h
    · exact keeps_keepOwner (hf s h) ..

/-! ### Ports and homes (R189 to R192, R215) -/

theorem keeps_windowAccess (id : Nat) (a : Access) (kind : OpKind) (d : Nat) : Keeps o (s.windowAccess id a kind d) := by
  unfold State.windowAccess
  dsimp only
  split <;> exact h

theorem keeps_holdAccess (id : Nat) (b : Nat × Nat) : Keeps o (s.holdAccess id b) := h

theorem keeps_homeGo (id : Nat) (a : Access) (e : Entry) (kind : OpKind) {f : Machine.State → Machine.State}
    (hf : ∀ s, Keeps o s → Keeps o (f s)) : Keeps o (State.atHome.go s id a e kind f) := by
  unfold State.atHome.go
  split
  · exact h
  · exact h
  all_goals
    split
    · exact keeps_serialAccess h _ _ _ _ _ _ hf
    · split
      · exact h
      · exact hf s h

theorem keeps_atHome (id : Nat) (a : Access) (e : Entry) : Keeps o (s.atHome id a e) := by
  unfold State.atHome
  dsimp only
  split
  · exact keeps_holdAccess h ..
  · exact keeps_homeGo h _ _ _ _ fun s h => keeps_performAccess h ..

theorem keeps_splitDenied (id : Nat) (a : Access) (e : Entry) (bad ok : List Piece) : Keeps o (s.splitDenied id a e bad ok) :=
  keeps_modAcc (keeps_modOp (keeps_addAccesses _ h) ..) ..

end

/-- Whatever state an outcome goes on in keeps those parts of o. -/
structure KeepsOut (o : Machine.State) (x : Out) : Prop where
  next : ∀ t, x = .next t → Keeps o t

section
variable {o s : Machine.State}

theorem keepsOut_next (h : Keeps o s) : KeepsOut o (.next s) := ⟨fun _ ht => Host.Outcome.next.inj ht ▸ h⟩
theorem keepsOut_refused (r : Refusal) : KeepsOut o (.refused r) := ⟨fun _ ht => nomatch ht⟩
theorem keepsOut_fault (f : Fault) : KeepsOut o (.fault f) := ⟨fun _ ht => nomatch ht⟩

variable (h : Keeps o s)
include h

theorem keepsOut_portAllowed (id : Nat) (a : Access) (e : Entry) : KeepsOut o (s.portAllowed id a e) := by
  unfold State.portAllowed
  extract_lets s1 places
  have h1 : Keeps o s1 := by
    unfold s1
    split <;> exact h
  clear_value s1
  split
  · exact keepsOut_next h1
  · exact keepsOut_fault _
  · exact keepsOut_next (keeps_parkAccess h1 ..)
  · exact keepsOut_next (keeps_windowAccess h1 ..)
  · split
    · exact keepsOut_next (keeps_parkAccess h1 ..)
    · split
      · exact keepsOut_next (keeps_refuse h1 ..)
      · split
        · exact keepsOut_next (keeps_refuse h1 ..)
        · exact keepsOut_next (keeps_atHome (keeps_modAcc h1 ..) ..)

theorem keepsOut_portAccess (id : Nat) (a : Access) : KeepsOut o (s.portAccess id a) := by
  unfold State.portAccess
  split
  · exact keepsOut_next h
  · have h1 := keeps_portEntry h (portOf a.core) a.ctx a.handle a.kind a.rights a.span.1 a.span.2
    dsimp only
    split
    · exact keepsOut_next (keeps_refuse h1 ..)
    · split
      · exact keepsOut_portAllowed h1 ..
      · split
        · exact keepsOut_next h1
        · exact keepsOut_portAllowed (keeps_splitDenied h1 ..) ..

/-! ### A word leaves, and its answers return (R77, R201, R319) -/

theorem keeps_sampleHold (g n : Nat) : Keeps o (s.sampleHold g n) := h

theorem keeps_send (g : Nat) (gr : Machine.Group) (kind : OpKind) (counted : Bool) (cls : Nat) (x : Shape0) (ps : List Piece) :
    Keeps o (s.send g gr kind counted cls x ps) := by
  have h1 : Keeps o (if (s.sampleTick gr).2 then (s.sampleTick gr).1.sampleHold g s.nextId else (s.sampleTick gr).1) := by
    split
    exacts [keeps_sampleHold (keeps_sampleTick h gr) .., keeps_sampleTick h gr]
  unfold State.send
  refine keeps_addAccesses _ ?_
  exact h1

theorem keeps_checkTrap (g : Nat) (c : Cap) (code : Nat) (lanes : List LaneOff) : Keeps o (s.checkTrap g c code lanes) := by
  unfold State.checkTrap
  dsimp only
  split
  · exact keeps_trapNow h ..
  · exact keeps_trapNow (keeps_sampleRefused h ..) ..

theorem keeps_crewTrap (k : Nat) (t : Trap) : Keeps o (s.crewTrap k t) := by
  unfold State.crewTrap
  split
  · exact h
  · split
    · exact keeps_notify h ..
    · exact keeps_startHalt h ..

theorem keeps_orphanRace (crew : Nat) (x : Op) : Keeps o (s.orphanRace crew x) := by
  unfold State.orphanRace
  split
  · exact keeps_crewTrap h ..
  all_goals exact h

theorem keeps_finishOp (n : Nat) (x : Op) : Keeps o (s.finishOp n x) := by
  have h1 : Keeps o { s with ops := tdel s.ops n, engine := s.engine.filter fun e => e.op != some n } := h
  unfold State.finishOp
  dsimp only
  split
  · split
    · exact keeps_ghostDone h1 ..
    · exact h1
  next gr _ =>
    have h2 (f : Machine.Group → Machine.Group) : Keeps o (State.modGroup { s with ops := tdel s.ops n, engine := s.engine.filter fun e => e.op != some n } x.group f) := h
    cases opTrap gr x.group x with
    | none =>
      dsimp only
      split <;> split
      · exact keeps_sampleDone (keeps_takeTrap (h2 _) ..) ..
      · exact keeps_sampleDone (h2 _) ..
      · exact keeps_takeTrap (h2 _) ..
      · exact h2 _
    | some t =>
      have h3 (f f' : Machine.Group → Machine.Group) := keeps_takeTrap (keeps_modGroup (h2 f) x.group f') x.group t
      dsimp only
      split <;> split
      · exact keeps_sampleDone (keeps_takeTrap (h3 ..) ..) ..
      · exact keeps_sampleDone (h3 ..) ..
      · exact keeps_takeTrap (h3 ..) ..
      · exact h3 ..

theorem keeps_answered (id : Nat) (a : Access) (x : Op) : Keeps o (s.answered id a x) := by
  unfold State.answered
  dsimp only
  split
  · refine keeps_finishOp (keeps_orphanRace (keeps_modGroup ?_ ..) ..) ..
    exact h
  · exact h

end
end Sys2Proof.Claims.Kept

/-! What the operations of the model leave as it is, continued: the words of groups and of threads. -/
namespace Sys2Proof.Claims.Kept
open Sys2Proof.Machine
-- One proof at a time: the text is compiled as one file, whose memory parallel elaboration would exceed.
set_option Elab.async false

variable {o s : Machine.State} (h : Keeps o s)
include h

/-! ### A word performed (R20, R31, R265) -/

theorem keeps_undef (g r : Nat) : Keeps o (s.undef g r) := keeps_trapNow h ..
theorem keeps_roleTrap (g : Nat) (r : Role) : Keeps o (s.roleTrap g r) := keeps_trapNow h ..
theorem keeps_threadDone (t : Nat) (f : Thread → Thread) : Keeps o (s.threadDone t f) := h

theorem keepsOut_groupWord (hix : Bool) (checks : Machine.Group → List (Bool × Nat)) (roles : Role → Bool) {body : Nat → Machine.Group → Out}
    (hb : ∀ g gr, KeepsOut o (body g gr)) : KeepsOut o (groupWord s hix checks roles body) := by
  unfold groupWord
  split
  · exact keepsOut_refused _
  · exact keepsOut_next (keeps_l2fault h ..)
  · split
    · exact keepsOut_refused _
    · split
      · exact keepsOut_next (keeps_undef (keeps_countRefused h ..) ..)
      · split
        · exact keepsOut_next (keeps_undef (keeps_countRefused h ..) ..)
        · split
          · exact hb _ _
          · exact keepsOut_next (keeps_roleTrap (keeps_countRefused h ..) ..)

theorem keepsOut_actWord (hix : Bool) (checks : Machine.Group → List (Bool × Nat)) (roles : Role → Bool) {body : Nat → Machine.Group → Machine.State}
    (hb : ∀ g gr, Keeps o (body g gr)) : KeepsOut o (actWord s hix checks roles body) := by
  refine keepsOut_groupWord h _ _ _ fun g gr => ?_
  split
  · exact keepsOut_next h
  · exact keepsOut_next (hb g gr)

theorem keepsOut_laneWord (hix : Bool) (checks : Machine.Group → List (Bool × Nat)) (f : Lane → Lane) : KeepsOut o (laneWord s hix checks f) :=
  keepsOut_actWord h _ _ _ fun _ _ => keeps_modGroup h ..

theorem keepsOut_scalarWord (hix bad : Bool) (d : BitVec 5) (f : Option (BitVec 25) → (BitVec 5 → DWord) → DWord) :
    KeepsOut o (scalarWord s hix bad d f) := by
  unfold scalarWord
  split
  · exact keepsOut_refused _
  · split
    · exact keepsOut_refused _
    · split
      · exact keepsOut_next (keeps_l2fault h ..)
      · exact keepsOut_next (keeps_threadDone h ..)
  · exact keepsOut_actWord h _ _ _ fun _ _ => keeps_modGroup h ..

theorem keepsOut_threadOnly (r : Nat) {body : Nat → Thread → Out} (hb : ∀ t th, KeepsOut o (body t th)) : KeepsOut o (Machine.threadOnly s r body) := by
  unfold Machine.threadOnly
  split
  · exact keepsOut_refused _
  · exact keepsOut_next (keeps_undef h ..)
  · split
    · exact keepsOut_refused _
    · exact hb _ _

theorem keepsOut_threadWord {body : Nat → Thread → Out} (hb : ∀ t th, KeepsOut o (body t th)) : KeepsOut o (threadWord s body) :=
  keepsOut_threadOnly h _ hb

/-! ### Memory words (R318 to R339) -/

theorem keepsOut_laneAccess (checks : Machine.Group → List (Bool × Nat)) (k : BitVec 4) (a : BitVec 7) (takesHix : Bool) (imm : Int)
    (size need : Nat) (kind : OpKind) (counted : Bool) (cls : Nat) (write isAtom : Bool) (val : Lane → Nat × Nat) :
    KeepsOut o (laneAccess s checks k a takesHix imm size need kind counted cls write isAtom val) := by
  refine keepsOut_actWord h _ _ _ fun g gr => ?_
  dsimp only
  split
  · exact keeps_checkTrap h ..
  · exact keeps_send h ..

theorem keeps_onceTrap (g : Nat) (c : Cap) (code : Nat) (off : Int) : Keeps o (s.onceTrap g c code off) := by
  unfold State.onceTrap
  dsimp only
  split
  · exact keeps_trapNow h ..
  · exact keeps_trapNow (keeps_sampleRefused h ..) ..

theorem keeps_onceAccess (g : Nat) (gr : Machine.Group) (c : Cap) (off : Int) (size need : Nat) (kinds : Nat → Bool)
    (kind : OpKind) (counted : Bool) (cls : Nat) (write isAtom plain : Bool) (tag : Option Bool) (value : Nat) :
    Keeps o (s.onceAccess g gr c off size need kinds kind counted cls write isAtom plain tag value) := by
  unfold State.onceAccess
  split
  · exact keeps_onceTrap h ..
  · split
    · exact keeps_send h ..
    · exact keeps_onceTrap h ..

theorem keeps_heldAccess (g : Nat) (gr : Machine.Group) (c : Cap) (off : Int) (need : Nat) (kinds : Nat → Bool) (kind : OpKind)
    (arrives : Bool) : Keeps o (s.heldAccess g gr c off need kinds kind arrives) := by
  have h1 := keeps_onceAccess h g gr c off 8 need kinds kind false 0 arrives arrives false none 0
  unfold State.heldAccess
  dsimp only
  split
  · exact keeps_modGroup h1 ..
  · exact h1

theorem keeps_refusePosted (p : Posted) : Keeps o (s.refusePosted p) := keeps_l2faultAt h ..

theorem keeps_settlePosted (p : Posted) : Keeps o (s.settlePosted p) := by
  have h1 : Keeps o (s.runsWrite p.ctx p.core [(p.flat, leBytes p.value p.size)]) := keeps_runsWrite h ..
  unfold State.settlePosted
  dsimp only
  split
  · exact keeps_refusePosted h p
  · split
    · exact h1.dev_of id (ascending_tagSet _)
    · exact h1

theorem keeps_performPosted (n : Nat) : Keeps o (s.performPosted n) := by
  unfold State.performPosted
  split
  · exact h
  · refine keeps_settlePosted ?_ _
    exact h

theorem keeps_settleAll (f : Posted → Bool) : Keeps o (s.settleAll f) := by
  refine keeps_foldl (fun _ x h => keeps_settlePosted h x.2) _ _ ?_
  exact h

theorem keeps_drainPosted (core ctx : Nat) : Keeps o (s.drainPosted core ctx) := keeps_settleAll h _

theorem keeps_renewSector (core ctx sec : Nat) (cacheable : Bool) : Keeps o (s.renewSector core ctx sec cacheable) := h

theorem keeps_threadRead (t : Nat) (th : Thread) (e : Entry) (f n : Nat) : Keeps o (s.threadRead t th e f n).1 := by
  have h1 := keeps_settleAll h fun p => p.isOf (threadCore t) th.ctx && sectorOf p.flat == sectorOf f
  unfold State.threadRead
  dsimp only
  split
  · exact h1
  · exact keeps_renewSector h1 ..

theorem keeps_threadStore (t : Nat) (th : Thread) (c : Cap) (off : Int) (f n v : Nat) (tag : Option Bool) :
    Keeps o (s.threadStore t th c off f n v tag) := by
  unfold State.threadStore
  dsimp only
  split <;> exact h

theorem keeps_holdThread (t : Nat) (b : Nat × Nat) (replay : Bool) : Keeps o (s.holdThread t b replay) := h

theorem keepsOut_threadAccess (t : Nat) (th : Thread) (c : Cap) (off : Int) (size need : Nat) (write : Bool)
    {atFlat : Machine.State → Entry → Nat → Machine.State} {atWindow : Machine.State → Nat → Machine.State}
    (hf : ∀ s e f, Keeps o s → Keeps o (atFlat s e f)) (hw : ∀ s d, Keeps o s → Keeps o (atWindow s d)) :
    KeepsOut o (threadAccess s t th c off size need write atFlat atWindow) := by
  unfold threadAccess
  dsimp only
  split
  · exact keepsOut_next (keeps_l2fault h ..)
  · split
    · exact keepsOut_next (keeps_holdThread h ..)
    · have h1 := keeps_portEntry h (portOf (threadCore t)) th.ctx c.handle c.kind need (objOff c off) size
      split
      · exact keepsOut_next (keeps_l2fault h1 ..)
      · exact keepsOut_next (keeps_l2fault h1 ..)
      · exact keepsOut_fault _
      · exact keepsOut_next (keeps_modThread (keeps_joinEntry h1 ..) ..)
      · split
        · exact keepsOut_next (keeps_l2fault h1 ..)
        · exact keepsOut_next (hw _ _ (keeps_watchReport h1 ..))
      · split
        · exact keepsOut_next (keeps_l2fault h1 ..)
        · split
          · split
            · exact keepsOut_next (hf _ _ _ (keeps_watchReport h1 ..))
            · exact keepsOut_next (keeps_holdThread h1 ..)
          · split
            · exact keepsOut_next h1
            · exact keepsOut_next (hf _ _ _ (keeps_watchReport h1 ..))

theorem keepsOut_threadScalar (t : Nat) (th : Thread) (c : Cap) (off : Int) (size need : Nat) (write : Bool)
    {atFlat : Machine.State → Entry → Nat → Machine.State} {atWindow : Machine.State → Nat → Machine.State}
    (hf : ∀ s e f, Keeps o s → Keeps o (atFlat s e f)) (hw : ∀ s d, Keeps o s → Keeps o (atWindow s d)) :
    KeepsOut o (threadScalar s t th c off size need write atFlat atWindow) := by
  unfold threadScalar
  split
  · exact keepsOut_next (keeps_l2fault h ..)
  · exact keepsOut_threadAccess h _ _ _ _ _ _ _ hf hw

theorem keepsOut_ldsWord (d : BitVec 5) (k : BitVec 4) (a : BitVec 5) (i : BitVec 8) (n : Nat) : KeepsOut o (ldsWord s d k a i n) := by
  unfold ldsWord
  split
  · exact keepsOut_refused _
  · exact keepsOut_actWord h _ _ _ fun _ _ => keeps_onceAccess h ..
  · split
    · exact keepsOut_refused _
    · exact keepsOut_threadScalar h _ _ _ _ _ _ _ (fun _ _ _ h => keeps_threadDone (keeps_threadRead h ..) ..) fun _ _ h => h

theorem keepsOut_stsWord (d : BitVec 5) (k : BitVec 4) (a : BitVec 5) (i : BitVec 8) (n : Nat) : KeepsOut o (stsWord s d k a i n) := by
  unfold stsWord
  split
  · exact keepsOut_refused _
  · exact keepsOut_actWord h _ _ _ fun _ _ => keeps_onceAccess h ..
  · split
    · exact keepsOut_refused _
    · exact keepsOut_threadScalar h _ _ _ _ _ _ _ (fun _ _ _ h => keeps_threadDone (keeps_threadStore h ..) ..) fun _ _ h => h

theorem keepsOut_kld (d k : BitVec 4) (a : BitVec 5) : KeepsOut o (execKld d k a s) := by
  unfold execKld
  split
  · exact keepsOut_refused _
  · exact keepsOut_actWord h _ _ _ fun _ _ => keeps_onceAccess h ..
  · split
    · exact keepsOut_refused _
    · exact keepsOut_threadScalar h _ _ _ _ _ _ _ (fun _ _ _ h => keeps_threadDone (keeps_threadRead h ..) ..) fun _ _ h => h

theorem keepsOut_kst (d k : BitVec 4) (a : BitVec 5) : KeepsOut o (execKst d k a s) := by
  unfold execKst
  split
  · exact keepsOut_refused _
  · exact keepsOut_actWord h _ _ _ fun _ _ => keeps_onceAccess h ..
  · split
    · exact keepsOut_refused _
    · exact keepsOut_threadScalar h _ _ _ _ _ _ _ (fun _ _ _ h => keeps_threadDone (keeps_threadStore h ..) ..) fun _ _ h => h

theorem keeps_dropLines (core ctx : Nat) : Keeps o (s.dropLines core ctx) := h

theorem keeps_fenceOver (g : Nat) (drop ends : Bool) : Keeps o (s.fenceOver g drop ends) := by
  have h1 : Keeps o (match s.group? g with
      | none => s
      | some gr => if drop = true then s.dropLines (s.coreOf gr) gr.ctx else s) := by
    split
    · exact h
    · split <;> exact h
  unfold State.fenceOver
  dsimp only
  split
  · exact keeps_release h1 g
  · exact h1

theorem keepsOut_fence (p q : BitVec 6) (c : Scope) : KeepsOut o (execFence p q c s) := by
  unfold execFence
  dsimp only
  split
  · exact keepsOut_refused _
  · split
    · exact keepsOut_refused _
    next t _ _ th _ =>
      have hd : ∀ b : Bool, Keeps o (if b = true then s.drainPosted (threadCore t) th.ctx else s) := fun b => by
        split
        exacts [keeps_drainPosted h .., h]
      split
      · exact keepsOut_next h
      · refine keepsOut_next (keeps_threadDone ?_ ..)
        split
        · exact keeps_dropLines (hd _) ..
        · exact hd _
  · refine keepsOut_actWord h _ _ _ fun g gr => ?_
    split
    · exact h
    · refine keeps_fenceOver ?_ ..
      split <;> exact h

theorem keepsOut_capWord (c0 : BitVec 4) (f : Cap → (BitVec 5 → DWord) → Except Nat (Option Cap × Option DWord)) (kd : BitVec 4) (sd : BitVec 5) :
    KeepsOut o (capWord s c0 f kd sd) := by
  unfold capWord
  split
  · exact keepsOut_refused _
  · refine keepsOut_actWord h _ _ _ fun g gr => ?_
    split
    · exact keeps_onceTrap h ..
    · exact keeps_modGroup h ..
  · split
    · exact keepsOut_refused _
    · split
      · exact keepsOut_next (keeps_l2fault h ..)
      · exact keepsOut_next (keeps_threadDone h ..)

theorem keeps_prefetchLane (core ctx : Nat) (l : PfLevel) (p : Option Place) : Keeps o (prefetchLane s core ctx l p) := by
  unfold prefetchLane
  split
  · exact h
  · split
    · exact h
    · split <;> exact h
  · exact h

theorem keepsOut_pfch (k : BitVec 4) (v : BitVec 7) (l : PfLevel) : KeepsOut o (execPfch k v l s) := by
  refine keepsOut_actWord h _ _ _ fun g gr => ?_
  split
  · exact h
  · exact keeps_foldl (fun _ _ h => keeps_prefetchLane h ..) _ _ h

theorem keepsOut_sinv (k : BitVec 4) (a b : BitVec 5) : KeepsOut o (execSinv k a b s) := by
  refine keepsOut_actWord h _ _ _ fun g gr => ?_
  dsimp only
  split
  · exact keeps_onceTrap h ..
  · split
    · exact keeps_onceTrap h ..
    · exact keeps_modGroup h ..

/-! ### Threads (R271 to R291) -/

theorem keeps_enqueue (t g : Nat) (w : Word) : Keeps o (s.enqueue t g w) := by
  unfold State.enqueue
  split <;> exact h

theorem keepsOut_branchWord (a b : BitVec 5) (d : BitVec 12) (c : DWord → DWord → Bool) : KeepsOut o (branchWord s a b d c) :=
  keepsOut_threadWord h fun _ _ => keepsOut_next (keeps_modThread h ..)

theorem keepsOut_jal (d : BitVec 5) (i : BitVec 20) : KeepsOut o (execJal d i s) :=
  keepsOut_threadWord h fun _ _ => keepsOut_next (keeps_modThread h ..)

theorem keepsOut_jalr (d a : BitVec 5) : KeepsOut o (execJalr d a s) := by
  refine keepsOut_threadWord h fun t th => ?_
  dsimp only
  split
  · exact keepsOut_next (keeps_l2fault (keeps_modThread h ..) ..)
  · exact keepsOut_next h

theorem keepsOut_emitWord (d a b : BitVec 5) (blocks : Bool) : KeepsOut o (emitWord s d a b blocks) := by
  refine keepsOut_threadWord h fun t th => ?_
  split
  · exact keepsOut_next (keeps_l2fault h ..)
  · dsimp only
    split
    · exact keepsOut_next (keeps_threadDone (keeps_enqueue h ..) ..)
    · exact keepsOut_next (keeps_threadDone h ..)
    · split
      · exact keepsOut_next (keeps_modThread h ..)
      · exact keepsOut_next (keeps_threadDone h ..)

theorem keepsOut_sopen (a b : BitVec 5) : KeepsOut o (execSopen a b s) := by
  refine keepsOut_threadWord h fun t th => ?_
  dsimp only
  split
  · exact keepsOut_next (keeps_l2fault h ..)
  · split
    · exact keepsOut_next (keeps_l2fault h ..)
    · split
      · exact keepsOut_next (keeps_l2fault h ..)
      · exact keepsOut_next (keeps_threadDone h ..)

theorem keepsOut_emits (d b : BitVec 5) : KeepsOut o (execEmits d b s) := by
  refine keepsOut_threadWord h fun t th => ?_
  split
  · exact keepsOut_next (keeps_l2fault h ..)
  · split
    · exact keepsOut_next (keeps_threadDone h ..)
    next hm => exact keepsOut_next (keeps_threadDone (keeps_makeRoom h hm) ..)

theorem keepsOut_stins (d a : BitVec 5) : KeepsOut o (execStins d a s) := by
  refine keepsOut_threadWord h fun t th => ?_
  split
  · exact keepsOut_next (keeps_l2fault h ..)
  · extract_lets req core tt fail named bad s1 n s2 s3
    have h3 : Keeps o s3 := h
    clear_value bad named s3
    split
    · exact keepsOut_next (keeps_l2fault h ..)
    · split
      · exact keepsOut_next h
      · split
        · exact keepsOut_next h3
        · exact keepsOut_next (keeps_serveRequest h3 ..)

theorem keepsOut_sdecl (d a : BitVec 5) : KeepsOut o (execSdecl d a s) := by
  refine keepsOut_threadWord h fun t th => ?_
  dsimp only
  split
  · exact keepsOut_next (keeps_threadDone (keeps_modThread h ..) ..)
  · exact keepsOut_next (keeps_serveRequest (keeps_threadDone (keeps_modThread h ..) ..) ..)

theorem keepsOut_gwait (d a : BitVec 5) : KeepsOut o (execGwait d a s) := by
  refine keepsOut_threadWord h fun t th => ?_
  split
  · exact keepsOut_next (keeps_threadDone h ..)
  · exact keepsOut_next (keeps_modThread h ..)

theorem keepsOut_grec (d a : BitVec 5) : KeepsOut o (execGrec d a s) := by
  refine keepsOut_threadWord h fun t th => ?_
  split
  · exact keepsOut_next (keeps_l2fault h ..)
  · exact keepsOut_next (keeps_threadDone h ..)

theorem keeps_writeSel (g : Nat) (gr : Machine.Group) (x v : DWord) : Keeps o (s.writeSel g gr x v) := keeps_traceLive (keeps_modGroup h ..) ..

theorem keepsOut_parkedWord (a : BitVec 5) {body : Nat → Thread → Nat → Machine.Group → Machine.State}
    (hb : ∀ t th g gr, Keeps o (body t th g gr)) : KeepsOut o (parkedWord s a body) := by
  refine keepsOut_threadWord h fun t th => ?_
  split
  · exact keepsOut_next (keeps_l2fault h ..)
  · split
    · exact keepsOut_next (keeps_l2fault h ..)
    · split
      · exact keepsOut_next h
      · exact keepsOut_next (hb ..)

theorem keepsOut_gread (d a b : BitVec 5) : KeepsOut o (execGread d a b s) := keepsOut_parkedWord h _ fun _ _ _ _ => keeps_threadDone h ..

theorem keepsOut_gwrite (d a b : BitVec 5) : KeepsOut o (execGwrite d a b s) :=
  keepsOut_parkedWord h _ fun _ _ _ _ => keeps_threadDone (keeps_writeSel h ..) ..

theorem keeps_dropFaulted (k : Nat) : Keeps o (s.dropFaulted k) := h

theorem keeps_passStops (g : Nat) : Keeps o (s.passStops g) := by
  unfold State.passStops
  split
  · exact h
  · exact keeps_foldl (fun _ x h => keeps_endStop h x) _ _ h

theorem keeps_resumeGroup (g : Nat) (skip : Bool) : Keeps o (s.resumeGroup g skip) := by
  unfold State.resumeGroup
  split
  · exact h
  · exact keeps_passStops (keeps_modGroup (keeps_dropFaulted h ..) ..) g

theorem keepsOut_gres (a b : BitVec 5) : KeepsOut o (execGres a b s) := by
  refine keepsOut_threadWord h fun t th => ?_
  split
  · exact keepsOut_next (keeps_l2fault h ..)
  · split
    · exact keepsOut_next (keeps_l2fault h ..)
    · split
      · exact keepsOut_next (keeps_l2fault h ..)
      · exact keepsOut_next h
      · exact keepsOut_next h
      all_goals exact keepsOut_next (keeps_threadDone (keeps_resumeGroup h ..) ..)

theorem keeps_killGroup (g : Nat) : Keeps o (s.killGroup g) := by
  unfold State.killGroup
  split
  · exact h
  · exact keeps_retireGroup (keeps_traceKill (keeps_flushStores (keeps_dropFaulted h ..) g) g) g

theorem keepsOut_gkill (d a : BitVec 5) : KeepsOut o (execGkill d a s) := by
  refine keepsOut_threadWord h fun t th => ?_
  split
  · exact keepsOut_next (keeps_threadDone h ..)
  · split
    · exact keepsOut_next (keeps_threadDone (keeps_killGroup h ..) ..)
    · exact keepsOut_next (keeps_l2fault h ..)

theorem keeps_acceptRecord (t : Nat) (d : BitVec 5) (rec : List DWord) : Keeps o (s.acceptRecord t d rec) := by
  unfold State.acceptRecord
  split
  · exact h
  · split
    · exact h
    · split <;> exact h

theorem keepsOut_launch (d a : BitVec 5) (k : BitVec 4) : KeepsOut o (execLaunch d a k s) := by
  refine keepsOut_threadWord h fun t th => ?_
  dsimp only
  split
  · exact keepsOut_next (keeps_l2fault h ..)
  · split
    · exact keepsOut_next (keeps_modThread (keeps_joinEntry h ..) ..)
    · exact keepsOut_fault _
    · exact keepsOut_next (keeps_l2fault h ..)
    · split
      · exact keepsOut_next h
      · exact keepsOut_threadAccess h _ _ _ _ _ _ _ (fun _ _ _ h => keeps_acceptRecord (keeps_drainPosted h ..) ..)
          fun _ _ h => keeps_acceptRecord h ..

/-! ### Copy words (R354 to R365) -/

theorem keeps_accept (c : Copy) : Keeps o (s.accept c) := h

theorem keepsOut_copyWord (fn n : Nat) (b : BitVec 5) (l : Lay) (r : Rop) : KeepsOut o (copyWord s fn n b l r) := by
  refine keepsOut_actWord h _ _ _ fun g gr => ?_
  dsimp only
  split
  · exact keeps_trapNow h ..
  · split
    · exact keeps_trapNow h ..
    · split
      · exact h
      · split
        · exact keeps_trapNow h ..
        · exact keeps_accept h _

theorem keepsOut_qfence (q : BitVec 3) (m : BitVec 8) : KeepsOut o (execQfence q m s) := keepsOut_actWord h _ _ _ fun _ _ => keeps_accept h _

/-! ### Matrix words (R340 to R353) -/

theorem keeps_queueMatrix (g : Nat) (gr : Machine.Group) (w : MWord) (op : Option Nat) : Keeps o (s.queueMatrix g gr w op) := h

theorem keeps_queueFlight (g : Nat) (gr : Machine.Group) (w : MWord) (kind : OpKind) (counted : Bool) (cls rows : Nat) :
    Keeps o (s.queueFlight g gr w kind counted cls rows) := by
  have h1 : Keeps o (if (s.sampleTick gr).2 then (s.sampleTick gr).1.sampleHold g (s.sampleTick gr).1.nextId else (s.sampleTick gr).1) := by
    split
    exacts [keeps_sampleHold (keeps_sampleTick h gr) .., keeps_sampleTick h gr]
  unfold State.queueFlight
  refine keeps_queueMatrix ?_ ..
  exact h1

theorem keepsOut_matrixWord (checks : Machine.Group → List (Bool × Nat)) {body : Nat → Machine.Group → Machine.State} (hb : ∀ g gr, Keeps o (body g gr)) :
    KeepsOut o (matrixWord s checks body) := keepsOut_actWord h _ _ _ hb

theorem keeps_tshape (g : Nat) : Keeps o (s.tshape g) := keeps_trapNow h ..
theorem keeps_fmtmix (g : Nat) : Keeps o (s.fmtmix g) := keeps_trapNow h ..

theorem keepsOut_tileMem (t : BitVec 4) (k : BitVec 4) (a b : BitVec 5) (p : Part) (isStore : Bool) : KeepsOut o (tileMem s t k a b p isStore) := by
  refine keepsOut_matrixWord h _ fun g gr => ?_
  extract_lets tc c sa sb need
  clear_value need
  split
  · exact keeps_tshape (keeps_sampleRefused h ..) g
  · split
    · exact keeps_onceTrap h ..
    · split
      · exact keeps_onceTrap h ..
      · split
        · exact keeps_onceTrap h ..
        · split
          · exact keeps_onceTrap h ..
          · split
            · exact keeps_queueFlight h ..
            · exact keeps_queueFlight h ..

theorem keepsOut_mma (d : BitVec 3) (a b : BitVec 4) (x : Shape) : KeepsOut o (execMma d a b x s) := by
  refine keepsOut_matrixWord h _ fun g gr => ?_
  dsimp only
  split
  · exact keeps_tshape h g
  · split
    · exact keeps_fmtmix h g
    · exact keeps_queueMatrix h ..

theorem keepsOut_mmb (d : BitVec 3) (a b : BitVec 4) (x : MmbOp) : KeepsOut o (execMmb d a b x s) := by
  refine keepsOut_matrixWord h _ fun g gr => ?_
  dsimp only
  split
  · exact keeps_tshape h g
  · exact keeps_queueMatrix h ..

theorem keepsOut_accWord (d : BitVec 3) (regs : List (BitVec 7)) {body : Nat → Machine.Group → Machine.State} (hb : ∀ g gr, Keeps o (body g gr)) :
    KeepsOut o (accWord s d regs body) := by
  refine keepsOut_matrixWord h _ fun g gr => ?_
  split
  · exact hb g gr
  · exact keeps_tshape h g

/-! ### Folds and control (R313 to R315, R366 to R385) -/

theorem keepsOut_foldWord (d a : BitVec 7) (t : TyCode) (scan : Bool) (op : Mode → Nat → Nat → Nat) : KeepsOut o (foldWord s d a t scan op) := by
  refine keepsOut_actWord h _ _ _ fun g gr => ?_
  dsimp only
  split
  · exact keeps_trapNow h ..
  · exact keeps_modGroup h ..

end Sys2Proof.Claims.Kept

/-! What the operations of the model leave as it is, continued: the engines, and the steps of the memory path, of waits and of pages. -/
namespace Sys2Proof.Claims.Kept
open Sys2Proof.Machine
-- One proof at a time: the text is compiled as one file, whose memory parallel elaboration would exceed.
set_option Elab.async false

variable {o s : Machine.State} (h : Keeps o s)
include h

/-! ### The matrix engine (R145, R344) -/

theorem keeps_noteShape (k b : Nat) : Keeps o (s.noteShape k b) := by
  unfold State.noteShape
  split <;> exact h

theorem keeps_leaveEngine (e : MEntry) : Keeps o (s.leaveEngine e) := h

theorem keeps_flightDone (e : MEntry) : Keeps o (s.flightDone e) := by
  unfold State.flightDone
  split
  · exact h
  · split
    · exact h
    · exact keeps_finishOp (keeps_leaveEngine h e) ..

theorem keeps_loadPhase (e : MEntry) (phase : Nat) (cap : Cap) (ps : List Piece) : Keeps o (s.loadPhase e phase cap ps) := by
  unfold State.loadPhase
  split
  · exact h
  · refine keeps_sendTile ?_ ..
    exact h

theorem keeps_performMatrix (e : MEntry) (c : Crew) : Keeps o (s.performMatrix e c) := by
  unfold State.performMatrix
  split
  · exact h
  · exact h
  · exact keeps_noteShape (keeps_modCrew (keeps_leaveEngine h e) ..) ..
  · exact keeps_noteShape (keeps_modCrew (keeps_leaveEngine h e) ..) ..
  · exact h
  · refine keeps_flightDone ?_ e
    split <;> exact h
  · exact h
  · exact h
  · exact keeps_startStore (keeps_leaveEngine h e) ..
  · dsimp only
    split
    · exact keeps_loadPhase h ..
    · exact keeps_loadPhase h ..
    · exact keeps_loadPhase h ..
    · exact keeps_flightDone (keeps_modCrew h ..) e

theorem keepsOut_matrixEnginePerform (core : Nat) : KeepsOut o (execMatrixEnginePerform core s) := by
  unfold execMatrixEnginePerform
  split
  · exact keepsOut_refused _
  · split
    · exact keepsOut_refused _
    · exact keepsOut_next (keeps_performMatrix h ..)

/-! ### The memory path (R107 to R117, R189 to R192) -/

theorem keepsOut_execPortAccess (n : Nat) : KeepsOut o (execPortAccess n s) := by
  unfold execPortAccess
  split
  · exact keepsOut_refused _
  · split
    · split
      · exact keepsOut_next (keeps_holdAccess h ..)
      · exact keepsOut_portAccess h ..
    · exact keepsOut_refused _

theorem keepsOut_claimCheck (n : Nat) : KeepsOut o (execClaimCheck n s) := by
  unfold execClaimCheck
  split
  · exact keepsOut_refused _
  · split
    · exact keepsOut_next (keeps_claimAccess h _ _ _ fun s h => keeps_performAccess h ..)
    · exact keepsOut_refused _

theorem keepsOut_answerReturn (n : Nat) : KeepsOut o (execAnswerReturn n s) := by
  unfold execAnswerReturn
  split
  · exact keepsOut_refused _
  · split
    · split
      · exact keepsOut_next (keeps_answered h ..)
      · exact keepsOut_next h
    · exact keepsOut_refused _

theorem keeps_wakeAll (f : Nat) : Keeps o (s.wakeAll f) := h

theorem keeps_arrive (n : Nat) (a : Access) (count : Nat) (waits : Bool) (scope : Nat) : Keeps o (s.arrive n a count waits scope) := by
  have h0 : Keeps o (if a.group = noGroup then s else s.release a.group) := by
    split
    exacts [h, keeps_release h _]
  unfold State.arrive
  dsimp only
  split
  · refine keeps_modAcc ?_ ..
    split
    exacts [keeps_modGroup h0 .., h0]
  · exact keeps_refuse (keeps_memWrite h0 ..) ..
  · split
    · refine keeps_modAcc (keeps_memWrite ?_ ..) ..
      split
      exacts [keeps_dropLines h0 .., h0]
    · refine keeps_modAcc ?_ ..
      split
      exacts [keeps_modGroup (keeps_memWrite h0 ..) .., keeps_memWrite h0 ..]

theorem keepsOut_barrierArrival (n : Nat) : KeepsOut o (execBarrierArrival n s) := by
  unfold execBarrierArrival
  split
  · exact keepsOut_refused _
  · split
    · exact keepsOut_next (keeps_arrive h ..)
    · exact keepsOut_refused _

theorem keepsOut_urgencyBit (n : Nat) : KeepsOut o (execUrgencyBit n s) := by
  unfold execUrgencyBit
  split
  · exact keepsOut_refused _
  · split
    · exact keepsOut_next (keeps_modAcc h ..)
    · exact keepsOut_refused _

theorem keepsOut_claimScrub (n : Nat) : KeepsOut o (execClaimScrub n s) := by
  unfold execClaimScrub
  split
  · exact keepsOut_refused _
  · split
    · exact keepsOut_refused _
    · exact keepsOut_next h

/-! ### Waits (R76, R97, R334, R385) -/

theorem keepsOut_fenceComplete (g : Nat) : KeepsOut o (execFenceComplete g s) := by
  unfold execFenceComplete
  split
  · exact keepsOut_refused _
  · split
    · exact keepsOut_next (keeps_fenceOver (keeps_modGroup h ..) ..)
    · exact keepsOut_refused _

theorem keepsOut_sinvComplete (g : Nat) : KeepsOut o (execSinvComplete g s) := by
  unfold execSinvComplete
  split
  · exact keepsOut_refused _
  · split
    · refine keepsOut_next ?_
      split <;> exact h
    · exact keepsOut_refused _

theorem keeps_codeAnew {gr : Machine.Group} {r : Machine.State × Nat × List Word} (hr : s.codeAnew gr = some r) : Keeps o r.1 := by
  unfold State.codeAnew at hr
  dsimp only at hr
  split at hr
  · cases hr
  · refine keeps_codeFor ?_ hr
    exact h

theorem keeps_refetched (g : Nat) (gr : Machine.Group) : Keeps o (s.refetched g gr) := by
  unfold State.refetched
  split
  · exact h
  next hc => exact keeps_modGroup (keeps_codeAnew h hc) ..

theorem keeps_wakeOne (g : Nat) (gr : Machine.Group) : Keeps o (s.wakeOne g gr) := by
  unfold State.wakeOne
  dsimp only
  split
  · split <;> exact h
  all_goals exact h

theorem keepsOut_groupWake (g : Nat) : KeepsOut o (execGroupWake g s) := by
  unfold execGroupWake
  split
  · exact keepsOut_refused _
  · split
    · exact keepsOut_next (keeps_refetched h ..)
    · split
      · exact keepsOut_next (keeps_foldl (fun _ x h => keeps_wakeOne h ..) _ _ h)
      · split
        · exact keepsOut_next (keeps_enter (keeps_modGroup h ..) ..)
        · exact keepsOut_refused _

theorem keepsOut_fuseResolve (k site : Nat) : KeepsOut o (execFuseResolve k site s) := by
  unfold execFuseResolve
  split
  · exact keepsOut_next (keeps_resolveSite h ..)
  · exact keepsOut_refused _

theorem keepsOut_groupRetire (g : Nat) : KeepsOut o (execGroupRetire g s) := by
  unfold execGroupRetire
  split
  · exact keepsOut_refused _
  · split
    · exact keepsOut_next (keeps_retireGroup h g)
    · exact keepsOut_refused _

/-! ### Pages (R215 to R217, R440) -/

theorem keepsOut_holdStep (b : Nat × Nat) (i : HeldStep) : KeepsOut o (s.holdStep b i) := by
  unfold State.holdStep
  split
  · exact keepsOut_refused _
  · exact keepsOut_next h

theorem keeps_dropRange (a n : Nat) : Keeps o (s.dropRange a n) := h

theorem keeps_writePme (pme v : Nat) : Keeps o (s.writePme pme v) := keeps_memWrite h ..

theorem keepsOut_pageMigration (n : Nat) : KeepsOut o (execPageMigration n s) := by
  unfold execPageMigration
  split
  · exact keepsOut_refused _
  · split
    · exact keepsOut_refused _
    · split
      · exact keepsOut_holdStep h ..
      · dsimp only
        split
        · refine keepsOut_next (keeps_report ?_ ..)
          exact keeps_writePme h ..
        · refine keepsOut_next (keeps_dropRange (keeps_dropRange (keeps_memWrite ?_ ..) ..) ..)
          exact h.dev_of (memWf_moveBytes _ _ _) (ascending_moveTags _ _ _)

theorem keeps_represent (ref : Nat) (w : Waiter) : Keeps o (s.represent ref w) := by
  unfold State.represent
  split
  · exact h
  · exact h
  · exact h
  · split
    · exact h
    · split
      · exact h
      · exact keeps_askCode h ..
  all_goals exact h

theorem keepsOut_targetedReplay (n : Nat) : KeepsOut o (execTargetedReplay n s) := by
  unfold execTargetedReplay
  split
  · exact keepsOut_refused _
  · split
    · exact keepsOut_next h
    · exact keepsOut_refused _

/-! ### The copy engine (R103 to R105, R213, R214, R354 to R365) -/

theorem keeps_sideFor (c : Copy) (cap : Cap) (need : Nat) (offs : List Nat) : Keeps o (s.sideFor c cap need offs).1 := keeps_portEntry h ..

theorem keeps_keepOwners (cr : Crew) (l : Launch) (shared write : Bool) (xs : List Nat) : Keeps o (s.keepOwners cr l shared write xs) := by
  induction xs generalizing s with
  | nil => exact h
  | cons x r ih =>
    refine ih ?_
    split
    · exact h
    · exact keeps_keepOwner h ..

theorem keeps_sideKept (c : Copy) (x : Side) (write : Bool) (offs : List Nat) : Keeps o (s.sideKept c x write offs) := by
  unfold State.sideKept
  split
  · exact h
  · exact keeps_keepOwners h ..

theorem keeps_copyFault (n : Nat) (c : Copy) (t : Trap) : Keeps o (s.copyFault n c t) := by
  unfold State.copyFault
  split
  · refine keeps_notify ?_ ..
    exact h
  · dsimp only
    split
    · split
      · exact keeps_startHalt (keeps_modGroup (keeps_modCmd h ..) ..) ..
      · exact keeps_startHalt (keeps_modCmd h ..) ..
    · exact keeps_startHalt (keeps_modCmd h ..) ..

theorem keepsOut_hitch (n : Nat) (c : Copy) (x : Hitch) : KeepsOut o (s.hitch n c x) := by
  unfold State.hitch
  split
  · exact keepsOut_next (keeps_copyFault h ..)
  · exact keepsOut_next (keeps_copyFault h ..)
  · exact keepsOut_fault _
  · exact keepsOut_next (keeps_modCmd h ..)
  · exact keepsOut_refused _
  · exact keepsOut_next (keeps_holdCommand h ..)
  · exact keepsOut_next (keeps_modCmd (keeps_joinEntry h ..) ..)

theorem keeps_writeChunk (c : Copy) (ms : List Moved) : Keeps o (s.writeChunk c ms) := by
  refine keeps_foldl (fun s x h => ?_) _ _ h
  exact (keeps_runsWrite h ..).dev_of id (ascending_tagSets (fun t => t) x.tags)

theorem keeps_sideWrite (c : Copy) (x : Side) (offs : List Nat) (bs : List Byte) : Keeps o (s.sideWrite c x offs bs) := keeps_runsWrite h ..

theorem keeps_reduceChunk (c : Copy) (x : Side) (l : List (Nat × List Byte)) : Keeps o (s.reduceChunk c x l) := by
  induction l generalizing s with
  | nil => exact h
  | cons p r ih =>
    unfold State.reduceChunk
    dsimp only
    split
    · exact ih (keeps_sideWrite h ..)
    all_goals exact ih h

theorem keeps_askPages (n : Nat) (x : Side) (l : List Nat) : Keeps o (s.askPages n x l) := by
  induction l generalizing s with
  | nil => exact h
  | cons p r ih =>
    unfold State.askPages
    split
    · refine ih ?_
      split
      · exact h
      · exact keeps_joinEntry h ..
    all_goals exact ih h

theorem keeps_watchSide (c : Copy) (x : Side) (offs : List Nat) (write : Bool) : Keeps o (s.watchSide c x offs write) :=
  keeps_foldl (fun _ _ h => keeps_watchReport h ..) _ _ h

theorem keepsOut_moveBytesOf (n : Nat) (c : Copy) (bs : List Nat) (parked : Bool) : KeepsOut o (s.moveBytesOf n c bs parked) := by
  unfold State.moveBytesOf
  split
  · exact keepsOut_next (keeps_holdCommand h ..)
  · have h2 := keeps_sideFor (keeps_sideFor h c c.src rCR (bs.map c.srcAt)) c c.dst rCW (bs.map c.dstAt)
    dsimp only
    split
    · exact keepsOut_hitch h2 ..
    · split
      · exact keepsOut_hitch h2 ..
      · exact keepsOut_hitch h2 ..
      · split
        · exact keepsOut_hitch h2 ..
        · exact keepsOut_hitch h2 ..
        · refine keepsOut_next (keeps_modCmd ?_ ..)
          have h5 := fun (l m : List Nat) => keeps_watchSide (keeps_watchSide (keeps_watchSide (keeps_askPages (keeps_sideKept (keeps_sideKept h2
            c (s.sideFor c c.src rCR (bs.map c.srcAt)).2 false l) c
            ((s.sideFor c c.src rCR (bs.map c.srcAt)).1.sideFor c c.dst rCW (bs.map c.dstAt)).2 true m)
            n (s.sideFor c c.src rCR (bs.map c.srcAt)).2 l) c (s.sideFor c c.src rCR (bs.map c.srcAt)).2 l false)
            c (s.sideFor c c.src rCR (bs.map c.srcAt)).2 l false)
            c ((s.sideFor c c.src rCR (bs.map c.srcAt)).1.sideFor c c.dst rCW (bs.map c.dstAt)).2 m true
          split
          · exact keeps_reduceChunk (keeps_watchSide (keeps_watchSide (keeps_watchSide (keeps_askPages (keeps_sideKept (keeps_sideKept h2 ..) ..) ..) ..) ..) ..) ..
          · exact keeps_writeChunk (keeps_watchSide (keeps_watchSide (keeps_watchSide (keeps_askPages (keeps_sideKept (keeps_sideKept h2 ..) ..) ..) ..) ..) ..) ..

theorem keeps_listTrap (n : Nat) (c : Copy) (code origin : Nat) (detail : DWord) (handle ooff : Nat) :
    Keeps o (s.listTrap n c code origin detail handle ooff) := by
  unfold State.listTrap
  dsimp only
  split
  · exact h
  · refine keeps_takeTrap (keeps_modGroup ?_ ..) ..
    exact h

theorem keepsOut_readList (n : Nat) (c : Copy) : KeepsOut o (s.readList n c) := by
  unfold State.readList
  split
  · exact keepsOut_next (keeps_holdCommand h ..)
  · have h1 := keeps_sideFor h c c.list rCR c.listBytes
    dsimp only
    split
    · exact keepsOut_next (keeps_listTrap h1 ..)
    · exact keepsOut_next (keeps_listTrap h1 ..)
    · exact keepsOut_hitch h1 ..
    · split
      · exact keepsOut_next (keeps_listTrap h1 ..)
      · exact keepsOut_hitch h1 ..
      · have h2 := keeps_watchSide (keeps_sideKept h1 c (s.sideFor c c.list rCR c.listBytes).2 false c.listBytes) c
          (s.sideFor c c.list rCR c.listBytes).2 c.listBytes false
        split
        · exact keepsOut_next (keeps_listTrap h2 ..)
        · refine keepsOut_next (keeps_accept (keeps_modGroup ?_ ..) _)
          exact h2

theorem keeps_denyRing (n : Nat) : Keeps o (s.denyRing n) := h

theorem keepsOut_sysChunk (n : Nat) (c : Copy) : KeepsOut o (s.sysChunk n c) := by
  unfold State.sysChunk
  split
  · refine keepsOut_next ?_
    exact keeps_recordSignal (keeps_writeWords h ..) ..
  · exact keepsOut_hitch h ..
  · exact keepsOut_next (keeps_holdCommand h ..)
  · dsimp only
    split
    · refine keepsOut_next (keeps_completionLost ?_ ..)
      exact h
    · refine keepsOut_next (keeps_report ?_ ..)
      exact h

theorem keepsOut_landElement (n : Nat) : KeepsOut o (s.landElement n) := by
  unfold State.landElement
  split
  · exact keepsOut_refused _
  · split
    · exact keepsOut_moveBytesOf h ..
    · exact keepsOut_refused _

theorem keeps_representCopy (ref n : Nat) : Keeps o (s.representCopy ref n) := by
  have h1 := keeps_represent h ref (.command n)
  unfold State.representCopy
  dsimp only
  split
  · exact h1
  · exact keeps_foldl (fun _ e h => keeps_askPages h ..) _ _ h1

theorem keepsOut_copyChunk (n : Nat) : KeepsOut o (execCopyChunk n s) := by
  unfold execCopyChunk
  split
  · exact keepsOut_refused _
  · split
    · exact keepsOut_refused _
    · split
      · exact keepsOut_readList h ..
      · split
        · exact keepsOut_sysChunk h ..
        · split
          · exact keepsOut_moveBytesOf h ..
          · exact keepsOut_landElement h n

theorem keeps_cmdDone (n : Nat) : Keeps o (s.cmdDone n) := h

theorem keepsOut_copyFinish (n : Nat) (c : Copy) (x : Side) : KeepsOut o (execCopyCompletion.finish n s c x) := by
  unfold execCopyCompletion.finish
  split
  · exact keepsOut_next (keeps_cmdDone (keeps_sideWrite h ..) n)
  · split
    · exact keepsOut_next (keeps_cmdDone h n)
    · split
      · exact keepsOut_next (keeps_cmdDone h n)
      · exact keepsOut_next (keeps_cmdDone (keeps_memWrite h ..) n)
      · exact keepsOut_next (keeps_copyFault (keeps_wakeAll (keeps_memWrite h ..) _) ..)

theorem keepsOut_copyCompletion (n : Nat) : KeepsOut o (execCopyCompletion n s) := by
  unfold execCopyCompletion
  split
  · exact keepsOut_refused _
  · split
    · exact keepsOut_refused _
    · split
      · exact keepsOut_next (keeps_cmdDone h n)
      next c _ _ _ =>
        have h1 := keeps_sideFor h c c.cmp rCW c.wordBytes
        dsimp only
        split
        · exact keepsOut_next (keeps_holdCommand h ..)
        · exact keepsOut_hitch h1 ..
        · exact keepsOut_hitch h1 ..
        · exact keepsOut_copyFinish (keeps_watchSide (keeps_sideKept h1 ..) ..) ..

theorem keepsOut_qfencePerform (n : Nat) : KeepsOut o (execQfencePerform n s) := by
  unfold execQfencePerform
  split
  · exact keepsOut_refused _
  · split
    · exact keepsOut_next (keeps_cmdDone h n)
    · exact keepsOut_refused _

/-! ### Issue and the records of traps (R73, R203, R206, R427) -/

theorem keepsOut_generalAgeSelect (g : Nat) : KeepsOut o (execGeneralAgeSelect g s) := by
  unfold execGeneralAgeSelect
  split
  · exact keepsOut_refused _
  · split
    · exact keepsOut_next h
    · exact keepsOut_refused _

theorem keeps_markReady : Keeps o s.markReady := h

theorem keeps_debugRecord (ctx : Nat) (t : Trap) : Keeps o (s.debugRecord ctx t) := by
  unfold State.debugRecord
  split <;> exact h

theorem keepsOut_trapRecordWrite (g : Nat) : KeepsOut o (execTrapRecordWrite g s) := by
  unfold execTrapRecordWrite
  split
  · exact keepsOut_refused _
  · split
    · dsimp only
      split
      · exact keepsOut_next (keeps_modGroup h ..)
      · split
        · exact keepsOut_next (keeps_debugRecord (keeps_modGroup h ..) ..)
        · split
          · exact keepsOut_next (keeps_modGroup h ..)
          · exact keepsOut_next (keeps_notifyBy (keeps_modGroup h ..) ..)
    · exact keepsOut_refused _

theorem keepsOut_siblingStop (g : Nat) : KeepsOut o (execSiblingStop g s) := by
  unfold execSiblingStop
  split
  · exact keepsOut_refused _
  · split
    · exact keepsOut_next (keeps_modGroup h ..)
    · exact keepsOut_refused _

theorem keepsOut_crewHaltEvent (k : Nat) : KeepsOut o (execCrewHaltEvent k s) := by
  unfold execCrewHaltEvent
  split
  · split
    · exact keepsOut_next (keeps_notifyBy (keeps_modCrew h ..) ..)
    · exact keepsOut_refused _
  · exact keepsOut_refused _

theorem keepsOut_preciseStop (g : Nat) : KeepsOut o (execPreciseStop g s) := by
  unfold execPreciseStop
  split
  · exact keepsOut_refused _
  · split
    · refine keepsOut_next (keeps_debugRecord ?_ ..)
      exact h
    · exact keepsOut_refused _

/-! ### Events of threads (R82, R219, R284) -/

theorem keepsOut_eventQueuePlaceFree (t : Nat) : KeepsOut o (execEventQueuePlaceFree t s) := by
  unfold execEventQueuePlaceFree
  split
  · exact keepsOut_refused _
  · split
    · exact keepsOut_next (keeps_modThread h ..)
    · exact keepsOut_refused _

theorem keepsOut_gwaitWake (t : Nat) : KeepsOut o (execGwaitWake t s) := by
  unfold execGwaitWake
  split
  · exact keepsOut_refused _
  · split
    · exact keepsOut_next (keeps_threadDone h ..)
    · exact keepsOut_refused _

theorem keepsOut_gwaitTimeout (t : Nat) : KeepsOut o (execGwaitTimeout t s) := by
  unfold execGwaitTimeout
  split
  · exact keepsOut_refused _
  · split
    · exact keepsOut_next (keeps_threadDone h ..)
    · exact keepsOut_refused _

theorem keepsOut_emitUnblock (t : Nat) : KeepsOut o (execEmitUnblock t s) := by
  unfold execEmitUnblock
  split
  · exact keepsOut_refused _
  · split
    · split
      · refine keepsOut_next (keeps_threadDone ?_ ..)
        split
        · exact keeps_enqueue h ..
        · exact h
      · exact keepsOut_refused _
    · exact keepsOut_refused _

end Sys2Proof.Claims.Kept

/-! What the operations of the model leave as it is, continued: launches, pre-emption and placement. -/
namespace Sys2Proof.Claims.Kept
open Sys2Proof.Machine
-- One proof at a time: the text is compiled as one file, whose memory parallel elaboration would exceed.
set_option Elab.async false

section
variable {o s : Machine.State} (h : Keeps o s)
include h

/-! ### Launches (R63 to R66, R156, R160) -/

theorem keeps_modLaunch (n : Nat) (f : Launch → Launch) : Keeps o (s.modLaunch n f) := h

theorem keeps_complete (n : Nat) (l : Launch) : Keeps o (s.complete n l) := by
  have h1 : Keeps o { s with launches := tdel s.launches n } := h
  unfold State.complete
  dsimp only
  split
  · exact keeps_completionLost h1 ..
  · split
    · exact keeps_completionLost h1 ..
    · split
      · split
        next hw => exact keeps_sysWrite h1 hw
        next => exact keeps_completionLost h1 ..
      · exact keeps_completionLost h1 ..

theorem keeps_takeRecord (n : Nat) (l : Launch) : Keeps o (s.takeRecord n l) := by
  unfold State.takeRecord
  dsimp only
  split
  · split <;> exact h
  · exact keeps_complete h ..

theorem keepsOut_wantPages (ps : List Nat) : KeepsOut o (s.wantPages ps) := by
  unfold State.wantPages
  split
  · exact keepsOut_next (keeps_foldl (fun _ p h => keeps_wantPage h p) _ _ h)
  · exact keepsOut_refused _

theorem keepsOut_launchFirstHalf (n : Nat) (ws : List DWord) : KeepsOut o (execLaunchFirstHalf n ws s) := by
  unfold execLaunchFirstHalf
  split
  · exact keepsOut_refused _
  · split
    · exact keepsOut_next h
    · exact keepsOut_next h

theorem keepsOut_launchSecondHalf (n : Nat) (ws : List DWord) : KeepsOut o (execLaunchSecondHalf n ws s) := by
  unfold execLaunchSecondHalf
  split
  · exact keepsOut_refused _
  · split
    · exact keepsOut_next h
    · exact keepsOut_next h

theorem keepsOut_launchSlotStatusWrite (n : Nat) (v : DWord) : KeepsOut o (execLaunchSlotStatusWrite n v s) := by
  unfold execLaunchSlotStatusWrite
  split
  · exact keepsOut_refused _
  · split
    · exact keepsOut_next h
    · exact keepsOut_next h

theorem keepsOut_registerWriteIgnored (a : Nat) (bs : List Byte) : KeepsOut o (execRegisterWriteIgnored a bs s) := by
  unfold execRegisterWriteIgnored
  split
  · exact keepsOut_refused _
  · exact keepsOut_next h

theorem keepsOut_launchValidate (port : Bool) (source : Nat) : KeepsOut o (execLaunchValidate port source s) := by
  unfold execLaunchValidate
  split
  · split
    · exact keepsOut_refused _
    · dsimp only
      split
      · exact keepsOut_holdStep h ..
      · exact keepsOut_wantPages h _
      · refine keepsOut_next (keeps_takeRecord ?_ ..)
        exact h
  · split
    · exact keepsOut_refused _
    · split
      · exact keepsOut_refused _
      · dsimp only
        split
        · exact keepsOut_holdStep h ..
        · exact keepsOut_wantPages h _
        · exact keepsOut_next (keeps_takeRecord (keeps_modThread h ..) ..)

theorem keepsOut_launchComplete (n : Nat) : KeepsOut o (execLaunchComplete n s) := by
  unfold execLaunchComplete
  split
  · exact keepsOut_refused _
  · split
    · exact keepsOut_next (keeps_complete h ..)
    · exact keepsOut_refused _

theorem keepsOut_launchClassRise (n : Nat) : KeepsOut o (execLaunchClassRise n s) := by
  unfold execLaunchClassRise
  split
  · exact keepsOut_refused _
  · split
    · exact keepsOut_next (keeps_modLaunch h ..)
    · exact keepsOut_refused _

theorem keeps_performEntries (core : Nat) (es : List DEntry) : Keeps o (s.performEntries core es) := by
  unfold State.performEntries
  split
  · exact h
  · dsimp only
    split
    · exact keeps_runsWrite h ..
    · split
      · exact (keeps_runsWrite h ..).dev_of id (ascending_tagSet _)
      · exact keeps_runsWrite h ..

theorem keeps_refuseWord (k : Nat) (e : DEntry) (fs : List Fail) : Keeps o (s.refuseWord k e fs) := by
  unfold State.refuseWord
  dsimp only
  split
  · exact h
  · exact keeps_takeTrap h ..
  · exact keeps_crewTrap h ..

omit h in
theorem keeps_serialPhase (k : Nat) (c : Crew) (l : Launch) (es : List (List DEntry)) :
    ∀ (bad : List (DEntry × Fail)) {s : Machine.State}, Keeps o s → Keeps o (s.serialPhase k c l bad es) := by
  induction es with
  | nil => exact fun bad s h => keeps_foldl (fun _ x h => keeps_refuseWord h ..) _ _ (keeps_modCrew h ..)
  | cons e r ih =>
    intro bad s h
    cases e with
    | nil => exact ih bad h
    | cons e es =>
      unfold State.serialPhase
      split
      · exact ih _ h
      · refine ih bad ?_
        split
        · exact keeps_performEntries h ..
        · exact keeps_keepOwner (keeps_performEntries h ..) ..

theorem keepsOut_crewCommit (n : Nat) : KeepsOut o (execCrewCommit n s) := by
  unfold execCrewCommit
  split
  · exact keepsOut_refused _
  next l _ =>
    split
    · split
      · exact keepsOut_refused _
      · exact keepsOut_holdStep h ..
      next k c _ _ =>
        have h1 : Keeps o (({ s with crews := tdel s.crews k } : Machine.State).modLaunch n fun x => { x with head := x.head + 1 }) := h
        dsimp only
        split
        · refine keepsOut_next ?_
          exact h1
        · refine keepsOut_next ?_
          exact keeps_serialPhase _ _ _ _ _ h1
    · exact keepsOut_refused _

/-! ### Pre-emption (R221 to R224) -/

theorem keeps_orderPreempt (ctx : Nat) (cores : List Nat) (hold : Bool) (rs : List (Nat × Nat)) : Keeps o (s.orderPreempt ctx cores hold rs) := by
  unfold State.orderPreempt
  dsimp only
  split <;> exact h

theorem keeps_drainThreads (ts : List Nat) : Keeps o (s.drainThreads ts) := by
  refine keeps_foldl (fun s t h => ?_) _ _ h
  split
  · exact h
  · exact keeps_drainPosted h ..

theorem keeps_gateVictims (p : Preempt) : Keeps o (s.gateVictims p) := by
  have h0 := keeps_drainThreads h p.threads
  refine keeps_foldl (fun _ g h => keeps_release h g) _ _ ?_
  exact h0

theorem keeps_results (rs : List (Nat × Nat)) (st : Nat) (ws : List DWord) :
    Keeps o (rs.foldl (fun (s : Machine.State) x => s.mailResult x.1 x.2 st ws) s) :=
  keeps_foldl (fun _ _ h => keeps_mailResult h ..) _ _ h

theorem keepsOut_preemptGated (n : Nat) : KeepsOut o (execPreemptGated n s) := by
  unfold execPreemptGated
  split
  · exact keepsOut_refused _
  next p _ =>
    have h1 := keeps_gateVictims h p
    split
    · refine keepsOut_next (keeps_results ?_ ..)
      exact h1
    · exact keepsOut_refused _

/-! ### Scan-out (R225 to R227) -/

theorem keeps_renameGroup (a b : Nat) : Keeps o (s.renameGroup a b) := h
theorem keeps_renameThread (ctx a b : Nat) : Keeps o (s.renameThread ctx a b) := h
theorem keeps_movePads (m : Shift) : Keeps o (s.movePads m) := h

theorem keeps_zeroRange (a n : Nat) : Keeps o (s.zeroRange a n) := h.dev_of (memWf_filter _) (ascending_filter _)

theorem keeps_settleRange (a n : Nat) : Keeps o (s.settleRange a n) := keeps_settleAll h _

theorem keeps_scanOutCrew (k : Nat) : Keeps o (s.scanOutCrew k) := by
  unfold State.scanOutCrew
  split
  · exact h
  · have h1 := keeps_foldl (f := fun s x => s.renameGroup x.1 (savedRef k x.2)) (fun _ x h => keeps_renameGroup h ..)
      (s.crewGroups k).zipIdx s h
    exact h1

theorem keeps_moveOut (k : Nat) (u : StateUnit) : Keeps o (s.moveOut k u) := by
  unfold State.moveOut
  split
  · exact h
  · split
    · exact h
    · split
      · exact keeps_scanOutCrew h k
      · exact keeps_modAnyCrew h ..
      · exact keeps_modAnyCrew h ..
      · exact keeps_modAnyCrew (keeps_movePads (keeps_settleRange h ..) _) ..

theorem keeps_takeOut (k : Nat) : Keeps o (s.takeOut k) := keeps_foldl (fun _ u h => keeps_moveOut h k u) _ _ h

theorem keeps_scanOutThread (t : Nat) : Keeps o (s.scanOutThread t) := by
  unfold State.scanOutThread
  split <;> exact h

theorem keeps_claimPart {k : Nat} {u : StateUnit} {t : Machine.State} (ht : s.claimPart k u = some t) : Keeps o t := by
  unfold State.claimPart at ht
  split at ht
  · cases ht
    exact h
  · dsimp only at ht
    split at ht
    · cases ht
    · cases ht
      exact keeps_moveOut h k u

theorem keeps_claimThread {n : Nat} {t : Machine.State} (ht : s.claimThread n = some t) : Keeps o t := by
  unfold State.claimThread at ht
  split at ht
  · cases ht
    exact h
  · dsimp only at ht
    split at ht
    · cases ht
    · cases ht
      exact keeps_scanOutThread h n

/-! ### Resumption (R227 to R229) -/

theorem keeps_ungateThread (core ctx : Nat) : Keeps o (s.ungateThread core ctx) := by
  unfold State.ungateThread
  split <;> exact h

theorem keeps_leavePreempt (k : Nat) : Keeps o (s.leavePreempt k) := h

theorem keeps_revote (g : Nat) : Keeps o (s.revote g) := by
  unfold State.revote
  split
  · exact h
  · split
    · split
      · rw [if_neg Bool.false_ne_true]
        exact keeps_vote (keeps_modGroup h ..) g
      · split
        · exact h
        · exact keeps_vote (keeps_modGroup h ..) g
    all_goals exact h

theorem keeps_replaceCmds (k : Nat) : Keeps o (s.replaceCmds k) := by
  refine keeps_foldl (fun s x h => ?_) _ _ h
  dsimp only
  split <;> exact h

theorem keeps_wakeCrew (k : Nat) : Keeps o (s.wakeCrew k) := by
  unfold State.wakeCrew
  split
  · exact h
  · refine keeps_foldl (fun _ g h => keeps_revote (keeps_traceSync (keeps_release h g) g) g) _ _ (keeps_replaceCmds (keeps_ungateThread ?_ ..) k)
    exact h

theorem keeps_endPreempt (n : Nat) : Keeps o (s.endPreempt n) := by
  unfold State.endPreempt
  split
  · exact h
  · dsimp only
    refine keeps_foldl (f := fun s t => match s.thread? t with
      | none => s
      | some th => s.ungateThread (threadCore t) th.ctx) (fun s t h => ?_) _ _ (keeps_foldl (fun _ k h => keeps_wakeCrew h k) _ _ ?_)
    · split
      · exact h
      · exact keeps_ungateThread h ..
    · exact h

theorem keeps_resumeHeld : Keeps o s.resumeHeld := by
  unfold State.resumeHeld
  split
  · exact h
  · exact keeps_foldl (fun _ x h => keeps_endPreempt h x.1) _ _ h

/-! ### Admission (R62, R67, R71, R72) -/

theorem keeps_claimFor (core : Nat) (x : Need) (l : List (StateUnit × Nat)) : Keeps o (s.claimFor core x l) := by
  induction l generalizing s with
  | nil => exact h
  | cons p r ih =>
    unfold State.claimFor
    split
    · exact ih h
    · split
      · exact h
      next hc => exact ih (keeps_claimPart h hc)

theorem keeps_threadRoom {core ctx : Nat} {t : Machine.State} (ht : s.threadRoom core ctx = some t) : Keeps o t := by
  unfold State.threadRoom at ht
  split at ht
  · split at ht
    · cases ht
    · split at ht
      · cases ht
      · cases ht
        exact h
  · split at ht
    · cases ht
      exact h
    · obtain ⟨u, -, hu⟩ := Option.bind_eq_some_iff.1 ht
      exact keeps_claimThread (keeps_modThread (keeps_drainThreads h [u]) ..) hu

theorem keeps_freeLeft (core old ctx : Nat) : Keeps o (s.freeLeft core old ctx) := by
  unfold State.freeLeft
  split
  · exact h
  · split
    · exact keeps_ungateThread h ..
    · split
      · exact h
      · refine keeps_renameThread ?_ ..
        exact h
    · exact h

theorem keeps_bringThread (core old ctx : Nat) (compose : Option Nat) : Keeps o (s.bringThread core old ctx compose) := by
  unfold State.bringThread
  split
  · exact keeps_freeLeft (keeps_ungateThread h ..) ..
  · dsimp only
    split
    · refine keeps_renameThread ?_ ..
      exact h
    · refine keeps_renameThread ?_ ..
      exact h
    · exact h
    · exact h

theorem keeps_addGroups (core crew : Nat) (l : Launch) (entry : Nat) (is : List (Nat × Nat)) : Keeps o (s.addGroups core crew l entry is) := by
  induction is generalizing s with
  | nil => exact h
  | cons p r ih =>
    unfold State.addGroups
    refine ih ?_
    exact h

theorem keeps_startGroup (entry : Nat) (traced : Bool) (g : Nat) : Keeps o (s.startGroup entry traced g) := by
  unfold State.startGroup
  split
  · exact h
  · refine keeps_traceSync (keeps_modGroup ?_ ..) g
    split
    · exact h
    · exact keeps_enter h ..

theorem keeps_admitNew (core n : Nat) (l : Launch) (idx : Nat) (r : Room) : Keeps o (s.admitNew core n l idx r) := by
  unfold State.admitNew
  split
  next k c _ _ =>
    have h1 := keeps_zeroRange (keeps_bringThread h core core l.ctx k.compose) (sramBase + r.spad) (l.spadLen + l.dbufLen)
    refine keeps_notify (keeps_foldl (fun _ g h => keeps_startGroup h ..) _ _ (keeps_modLaunch (keeps_addGroups ?_ ..) ..)) ..
    exact h1
  next => exact h

/-! ### Resumption on a core (R228) -/

theorem keeps_movePlace (ctx old new len : Nat) : Keeps o (s.movePlace ctx old new len) := by
  unfold State.movePlace
  split
  · exact h
  · split
    · exact h
    · refine keeps_foldl (fun s x h => ?_) _ _ h
      split
      · exact h
      next e _ =>
        split
        · exact keeps_memWrite h ..
        · exact h

theorem keeps_putPad (x : Parts) (a n : Nat) : Keeps o (s.putPad x a n) :=
  (keeps_zeroRange h a n).dev_of (memWf_foldl (fun c => (a + c.1, c.2)) x.bytes) (ascending_tagSets (fun t => a / 16 + t) x.tags)

theorem keeps_restoreGroups (core k : Nat) (same : Bool) (is : List ((Machine.Group × Nat) × Nat)) : Keeps o (s.restoreGroups core k same is) := by
  induction is generalizing s with
  | nil => exact h
  | cons p r ih =>
    unfold State.restoreGroups
    refine ih ?_
    exact h

theorem keeps_askRefetch (k : Nat) : Keeps o (s.askRefetch k) := by
  refine keeps_foldl (fun s g h => ?_) _ _ h
  split
  · exact h
  · split
    · exact keeps_askCode h ..
    · exact h

theorem keeps_threadBack (core old : Nat) (c : Crew) (slots : List Nat) (compose : Option Nat) : Keeps o (s.threadBack core old c slots compose) := by
  unfold State.threadBack
  split
  · exact h
  · dsimp only
    split
    · exact keeps_notify (keeps_bringThread h ..) ..
    · exact keeps_bringThread h ..

theorem keeps_restoreCrew (core k : Nat) (x : SavedCrew) (r : Room) (compose : Option Nat) : Keeps o (s.restoreCrew core k x r compose) := by
  have h1 := keeps_movePads (keeps_putPad (keeps_threadBack h core x.crew.core x.crew r.slots compose) x.crew.out (sramBase + r.spad)
    (x.crew.spadLen + x.crew.dbufLen)) ⟨padHome k, sramBase + r.spad, x.crew.spadLen⟩
  unfold State.restoreCrew
  dsimp only
  split
  · exact h
  · have h2 := keeps_modCtx (keeps_movePlace h1 x.crew.ctx x.crew.spad r.spad x.crew.spadLen) x.crew.ctx fun z => z.reinstall x.crew.core core
    refine keeps_askRefetch (keeps_wakeCrew (keeps_dropLines (keeps_restoreGroups ?_ ..) ..) k) k
    exact h2

end

/-! ### One decision (R53, R67 to R70) -/

/-- A decision, where there is one, keeps those parts of o. -/
structure KeepsSome (o : Machine.State) (x : Option Machine.State) : Prop where
  some : ∀ t, x = some t → Keeps o t

section
variable {o s : Machine.State}

theorem keepsSome_none : KeepsSome o none := ⟨fun _ ht => nomatch ht⟩
theorem keepsSome_some (h : Keeps o s) : KeepsSome o (some s) := ⟨fun _ ht => Option.some.inj ht ▸ h⟩

theorem keepsSome_bestOf {f : Nat → Option Machine.State} (hf : ∀ x, KeepsSome o (f x)) (m : Nat → Nat) (l : List Nat) :
    KeepsSome o ((bestOf f m l).map (·.2)) := by
  induction l with
  | nil => exact keepsSome_none
  | cons x r ih =>
    unfold bestOf
    split
    · exact ih
    next t hx _ => exact keepsSome_some ((hf x).some t hx)
    next t y u hx hr =>
      split
      · exact keepsSome_some (ih.some u (by rw [hr]; rfl))
      · exact keepsSome_some ((hf x).some t hx)

variable (h : Keeps o s)
include h

theorem keepsSome_placeItem (core n : Nat) (l : Launch) (i : Item) : KeepsSome o (s.placeItem core n l i) := by
  unfold State.placeItem
  dsimp only
  split
  · exact keepsSome_none
  next s2 h2 =>
    have k2 := keeps_threadRoom (keeps_claimFor h core (s.itemNeed l core i) (s.gatedOn core)) h2
    split
    · exact keepsSome_none
    next s3 h3 =>
      have k3 := keeps_makeRoom k2 h3
      split
      · exact keepsSome_none
      · split
        · exact keepsSome_some (keeps_admitNew k3 ..)
        · split
          · exact keepsSome_none
          · split
            · exact keepsSome_none
            · exact keepsSome_some (keeps_restoreCrew k3 ..)

theorem keepsSome_placeCrew (cores : List Nat) (n : Nat) (l : Launch) (i : Item) : KeepsSome o (s.placeCrew cores n l i) :=
  keepsSome_bestOf (fun c => keepsSome_placeItem h c n l i) _ cores

theorem keepsSome_placeAll (cores : List Nat) (n : Nat) (l : Launch) (is : List Item) : KeepsSome o (s.placeAll cores n l is) := by
  induction is generalizing s with
  | nil => exact keepsSome_some h
  | cons i r ih =>
    unfold State.placeAll
    split
    · exact keepsSome_none
    next s1 h1 => exact ih ((keepsSome_placeCrew h cores n l i).some s1 h1)

theorem keepsSome_placeCluster (avail cs : List Nat) (n : Nat) (l : Launch) (is : List Item) : KeepsSome o (s.placeCluster avail cs n l is) :=
  keepsSome_bestOf (fun _ => keepsSome_placeAll h _ n l is) _ cs

theorem keepsSome_placeParts (avail cs : List Nat) (n : Nat) (l : Launch) (ps : List (List Item)) : KeepsSome o (s.placeParts avail cs n l ps) := by
  induction ps generalizing s with
  | nil => exact keepsSome_some h
  | cons p r ih =>
    unfold State.placeParts
    split
    · exact keepsSome_none
    next s1 h1 => exact ih ((keepsSome_placeCluster h avail cs n l p).some s1 h1)

theorem keepsSome_placeGang (avail : List Nat) (n : Nat) (l : Launch) (is : List Item) : KeepsSome o (s.placeGang avail n l is) := by
  unfold State.placeGang
  split
  · exact keepsSome_placeAll h ..
  · split
    · exact keepsSome_placeCluster h ..
    · refine keepsSome_bestOf (fun d => ?_) _ _
      split
      · exact keepsSome_placeAll h ..
      · exact keepsSome_placeParts h ..

theorem keepsSome_wakeAllInPlace (avail : List Nat) (compose : Option Nat) (cs : List (Nat × Crew)) : KeepsSome o (s.wakeAllInPlace avail compose cs) := by
  induction cs generalizing s with
  | nil => exact keepsSome_some h
  | cons x r ih =>
    unfold State.wakeAllInPlace
    split
    · exact keepsSome_none
    · split
      · exact keepsSome_none
      next s1 h1 => exact ih (keeps_wakeCrew (keeps_threadBack (keeps_threadRoom h h1) ..) _)

theorem keepsSome_resumeGang (avail : List Nat) (n : Nat) (l : Launch) (cs : List (Nat × Crew)) : KeepsSome o (s.resumeGang avail n l cs) := by
  unfold State.resumeGang
  split
  next s1 h1 => exact keepsSome_some ((keepsSome_wakeAllInPlace h _ _ _).some s1 h1)
  next => exact keepsSome_placeGang (keeps_foldl (fun _ x h => keeps_takeOut h x.1) _ _ h) ..

theorem keepsSome_placeNext (avail : List Nat) (n : Nat) (l : Launch) : KeepsSome o (s.placeNext avail n l) := by
  unfold State.placeNext
  split
  · exact keepsSome_resumeGang h ..
  · split
    · exact keepsSome_placeGang h ..
    · exact keepsSome_none

theorem keepsSome_planOf (order : List Nat) (n : Nat) : KeepsSome o (s.planOf order n) := by
  unfold State.planOf
  split
  · exact keepsSome_none
  · exact keepsSome_placeNext h ..

theorem keepsSome_headWaits (n : Nat) (l : Launch) : KeepsSome o (s.headWaits n l) := by
  unfold State.headWaits
  split
  · dsimp only
    split
    · exact keepsSome_none
    · exact keepsSome_some (keeps_modLaunch h ..)
  · split
    · refine ⟨fun t ht => ?_⟩
      obtain ⟨x, -, rfl⟩ := Option.map_eq_some_iff.1 ht
      exact keeps_orderPreempt h ..
    · exact keepsSome_none

theorem keepsSome_admitted (n : Nat) : KeepsSome o (s.admitted n) := by
  unfold State.admitted
  dsimp only
  split
  · exact keepsSome_none
  · split
    · exact keepsSome_none
    · split
      next s1 h1 => exact keepsSome_some (keeps_modLaunch ((keepsSome_planOf h _ _).some s1 h1) ..)
      next =>
        split
        · exact keepsSome_headWaits h ..
        · exact keepsSome_none
      next => exact keepsSome_none

theorem keepsOut_crewAdmit (n : Nat) : KeepsOut o (execCrewAdmit n s) := by
  unfold execCrewAdmit
  split
  · exact keepsOut_wantPages h _
  next s1 h1 => exact keepsOut_next ((keepsSome_admitted h n).some s1 h1)

end
end Sys2Proof.Claims.Kept

/-! What the operations of the model leave as it is, continued: the mailbox (R434), the commands that set the module up, code objects and contexts.
A command begins with the queue without it, so that what it keeps is said of that state. -/
namespace Sys2Proof.Claims.Kept
open Sys2Proof.Machine
-- One proof at a time: the text is compiled as one file, whose memory parallel elaboration would exceed.
set_option Elab.async false

/-- Whatever state an outcome goes on in is sound. -/
structure SoundOut (x : Out) : Prop where
  next : ∀ t, x = .next t → t.Sound = true

section
variable {o s : Machine.State}

theorem KeepsOut.sound {x : Out} (h : KeepsOut o x) (ho : o.Sound = true) : SoundOut x := ⟨fun t ht => (h.next t ht).sound ho⟩
theorem soundOut_next (h : s.Sound = true) : SoundOut (.next s) := ⟨fun _ ht => Host.Outcome.next.inj ht ▸ h⟩
theorem soundOut_refused (r : Refusal) : SoundOut (.refused r) := ⟨fun _ ht => nomatch ht⟩

section
variable (h : Keeps o s)
include h

theorem keeps_answer (ws : List DWord) (status : Nat) (r : List DWord) : Keeps o (s.answer ws status r) := keeps_mailResult h ..
theorem keeps_waitMail (ws : List DWord) (data : List Byte) (ids : List Nat) : Keeps o (s.waitMail ws data ids) := h
theorem keeps_dropWait (p : PendCmd) : Keeps o (s.dropWait p) := h
theorem keeps_joinBank (b : Nat × Nat) (w : Waiter) : Keeps o (s.joinBank b w) := h
theorem keeps_dropContext (ctx : Nat) : Keeps o (s.dropContext ctx) := h

end

/-! ### How a command is carried out (R434, R435, R469) -/

/-- The queue without its head holds no more commands. -/
theorem sound_popMail (h : s.Sound = true) : s.popMail.Sound = true := by
  simp only [State.Sound, Bool.and_eq_true, decide_eq_true_eq] at h ⊢
  obtain ⟨⟨⟨hd, hi⟩, hm⟩, hp⟩ := h
  refine ⟨⟨⟨hd, hi⟩, ?_⟩, hp⟩
  show s.mbox.tail.length ≤ 64
  rw [List.length_tail]
  exact Nat.le_trans (Nat.sub_le ..) hm

section
variable (hs : s.Sound = true)
include hs

theorem soundOut_command (op : Nat) (f : Form) {body : List DWord → Machine.State → Machine.State}
    (hb : ∀ ws, f.reserved ws = false → (body ws s.popMail).Sound = true) : SoundOut (command op f s body) := by
  unfold command
  split
  · exact soundOut_refused _
  next ws _ =>
    refine soundOut_next ?_
    have ha (st : Nat) : (s.popMail.answer ws st []).Sound = true := (keeps_answer (keeps_refl _) ..).sound (sound_popMail hs)
    unfold State.checked
    split
    · exact ha 1
    next hr =>
      split
      · exact ha 32
      · exact hb ws (Bool.eq_false_iff.2 hr)

/-- A command whose effect keeps those parts of the state without it leaves a sound state. -/
theorem soundOut_keeping (op : Nat) (f : Form) {body : List DWord → Machine.State → Machine.State}
    (hb : ∀ ws, Keeps s.popMail (body ws s.popMail)) : SoundOut (command op f s body) :=
  soundOut_command hs op f fun ws _ => (hb ws).sound (sound_popMail hs)

theorem soundOut_bankCommand (op : Nat) (i : HeldStep) (bank : List DWord → Option (Nat × Nat)) {go : Out} (hg : SoundOut go) :
    SoundOut (bankCommand op i s bank go) := by
  unfold bankCommand
  split
  · exact (keepsOut_holdStep (keeps_refl s) ..).sound hs
  · exact hg

theorem soundOut_badCommand : SoundOut s.badCommand := by
  unfold State.badCommand
  split
  · exact soundOut_refused _
  · split
    · exact soundOut_refused _
    · exact soundOut_next ((keeps_answer (keeps_refl _) ..).sound (sound_popMail hs))

end

/-! ### Pre-emption of every context, the queue's own writes (R221, R434, R441) -/

theorem keeps_preemptAll (h : Keeps o s) (cores : List Nat) (hold : Bool) : Keeps o (s.preemptAll cores hold) :=
  keeps_foldl (fun _ _ h => keeps_orderPreempt h ..) _ _ h

theorem keepsOut_mailboxStatusWrite (h : Keeps o s) (v : DWord) : KeepsOut o (execMailboxStatusWrite v s) := by
  unfold execMailboxStatusWrite
  split <;> exact keepsOut_next h

theorem soundOut_mailboxCommandWrite (hs : s.Sound = true) (offset : Nat) (bytes : List Byte) : SoundOut (execMailboxCommandWrite offset bytes s) := by
  unfold execMailboxCommandWrite
  split
  · exact soundOut_refused _
  · split
    · exact soundOut_next hs
    · split
      · exact soundOut_next hs
      · split
        · exact soundOut_next hs
        next hc =>
          refine soundOut_next ?_
          simp only [State.Sound, Bool.and_eq_true, decide_eq_true_eq] at hs ⊢
          obtain ⟨⟨⟨hd, hi⟩, -⟩, hp⟩ := hs
          refine ⟨⟨⟨hd, hi⟩, ?_⟩, hp⟩
          rw [List.length_append, List.length_singleton]
          unfold State.mailCount at hc
          omega

/-! ### The commands that set the module up -/

section
variable (h : Keeps o s)
include h

theorem keepsOut_recipeImageWrite (ctx : Nat) : KeepsOut o (execRecipeImageWrite ctx s) := by
  unfold execRecipeImageWrite
  split
  · exact keepsOut_refused _
  next p _ => exact keepsOut_next (keeps_answer (keeps_modCtx (keeps_dropWait h p) ..) ..)

omit h in
theorem keeps_mint (e : Entry) (off n : Nat) : ∀ (i : Nat) (bs : List Byte) {s : Machine.State}, Keeps o s → Keeps o (s.mint e off i bs n).1 := by
  induction n with
  | zero => exact fun _ _ _ h => h
  | succ n ih =>
    intro i bs s h
    unfold State.mint
    split
    · exact keeps_joinBank h ..
    · exact ih _ _ (keeps_memWriteTagged h ..)
    · exact keeps_wantPage h _
    all_goals exact ih _ _ h

theorem keeps_mintFrom (ws : List DWord) (bs : List Byte) (i : Nat) : Keeps o (s.mintFrom ws bs i) := by
  unfold State.mintFrom
  split
  · exact keeps_answer h ..
  next e _ =>
    have h1 := keeps_mint e (cmdWord ws 5) (cmdPlen ws / 16 - i) i (bs.drop (16 * i)) h
    dsimp only
    split
    · exact keeps_answer h1 ..
    · exact h1

theorem keepsOut_otinvComplete : KeepsOut o (execOtinvComplete s) := by
  unfold execOtinvComplete
  split
  · exact keepsOut_refused _
  next p _ => exact keepsOut_next (keeps_answer (keeps_dropContext (keeps_dropWait h p) _) ..)

theorem keeps_writeHeader (b : TraceBuf) (ctx olen core : Nat) : Keeps o (s.writeHeader b ctx olen core) := by
  unfold State.writeHeader
  split
  · exact h
  · exact keeps_ringWrite h ..

end

section
variable (hs : s.Sound = true)
include hs

theorem soundOut_recipeset : SoundOut (execRecipeset s) := by
  refine soundOut_keeping hs _ _ fun ws => ?_
  dsimp only
  split
  · exact keeps_refl _
  · exact keeps_answer (keeps_refl _) ..

theorem soundOut_capmint : SoundOut (execCapmint s) := by
  unfold execCapmint
  split
  next p _ => exact (keepsOut_next (keeps_mintFrom (keeps_dropWait (keeps_refl s) p) ..)).sound hs
  · refine soundOut_bankCommand hs _ _ _ (soundOut_keeping hs _ _ fun ws => ?_)
    have h := keeps_refl s.popMail
    dsimp only
    split
    · exact keeps_answer h ..
    · split
      · exact keeps_answer h ..
      · split
        · exact keeps_answer h ..
        · split
          · exact keeps_answer h ..
          · exact keeps_mintFrom h ..

theorem soundOut_otinv : SoundOut (execOtinv s) := by
  refine soundOut_keeping hs _ _ fun ws => ?_
  have h := keeps_refl s.popMail
  dsimp only
  split
  · exact keeps_answer h ..
  · split
    · exact keeps_answer h ..
    · split
      · exact keeps_answer h ..
      · exact h

theorem soundOut_wdtset : SoundOut (execWdtset s) := soundOut_keeping hs _ _ fun _ => keeps_answer (keeps_modCtx (keeps_refl _) ..) ..

theorem soundOut_codekey : SoundOut (execCodekey s) := by
  refine soundOut_keeping hs _ _ fun ws => ?_
  dsimp only
  split
  · exact keeps_answer (keeps_refl _) ..
  · exact keeps_answer (keeps_modCtx (keeps_refl _) ..) ..

theorem soundOut_preempt : SoundOut (execPreempt s) := soundOut_keeping hs _ _ fun _ => keeps_orderPreempt (keeps_refl _) ..

omit hs in
/-- An island set to one of the four states leaves them all legal. -/
theorem islandsLegal_set {l : List Nat} (n : Nat) {st : Nat} (hst : st < 4) (hl : islandsLegal l = true) : islandsLegal (l.set n st) = true := by
  simp only [islandsLegal, Bool.and_eq_true, beq_iff_eq, List.all_eq_true, decide_eq_true_eq] at hl ⊢
  refine ⟨by rw [List.length_set]; exact hl.1, fun x hx => ?_⟩
  obtain hx | rfl := List.mem_or_eq_of_mem_set hx
  exacts [hl.2 x hx, hst]

/-- The state with legal islands in place of its own. -/
theorem sound_islands {l : List Nat} (hl : islandsLegal s.islands = true → islandsLegal l = true) : ({ s with islands := l } : Machine.State).Sound = true := by
  simp only [State.Sound, Bool.and_eq_true, decide_eq_true_eq] at hs ⊢
  obtain ⟨⟨⟨hd, hi⟩, hm⟩, hp⟩ := hs
  exact ⟨⟨⟨hd, hl hi⟩, hm⟩, hp⟩

theorem soundOut_island : SoundOut (execIsland s) := by
  unfold execIsland
  split
  next p _ => exact (keepsOut_next (keeps_answer (keeps_dropWait (keeps_refl s) p) ..)).sound hs
  · refine soundOut_command hs _ _ fun ws hr => ?_
    have hst : cmdWord ws 5 < 4 := by
      simp only [Form.reserved, Bool.or_eq_false_iff, Bool.not_eq_false', Bool.and_eq_true, Sys2Proof.Machine.within, beq_iff_eq] at hr
      obtain ⟨-, ⟨⟨-, h5⟩, -⟩, -⟩ := hr
      have := Nat.and_le_right (n := cmdWord ws 5) (m := ones 1 0)
      have : ones 1 0 = 3 := rfl
      omega
    dsimp only
    split
    · exact (keeps_answer (keeps_refl _) ..).sound (sound_popMail hs)
    · have h1 := sound_islands (sound_popMail hs) (islandsLegal_set (cmdWord ws 4) hst)
      split
      · exact Keeps.sound (keeps_preemptAll (keeps_refl _) ..) h1
      · exact (keeps_answer (keeps_refl _) ..).sound h1

theorem soundOut_framepool : SoundOut (execFramepool s) := by
  refine soundOut_keeping hs _ _ fun ws => ?_
  have h := keeps_refl s.popMail
  extract_lets n fs limit
  clear_value limit fs
  split
  · exact keeps_answer h ..
  · split
    · refine keeps_answer (keeps_foldl (fun _ f h => keeps_dropRange h ..) _ _ ?_) ..
      exact h
    · exact keeps_mailResult (s := { s.popMail with recFree := _ }) h ..

theorem soundOut_evring : SoundOut (execEvring s) := by
  refine soundOut_keeping hs _ _ fun ws => ?_
  have h := keeps_refl s.popMail
  dsimp only
  split
  · exact keeps_answer h ..
  · exact keeps_answer (keeps_memWrite (s := { s.popMail with ring := _ }) h ..) ..

theorem soundOut_railmap : SoundOut (execRailmap s) := by
  refine soundOut_keeping hs _ _ fun ws => ?_
  have h := keeps_refl s.popMail
  dsimp only
  split
  · split
    · exact keeps_answer h ..
    · exact keeps_answer (s := { s.popMail with routes := _ }) h ..
  · split
    · exact keeps_answer h ..
    · exact keeps_answer (s := { s.popMail with imports := _ }) h ..

theorem soundOut_ident : SoundOut (execIdent s) := soundOut_keeping hs _ _ fun _ => keeps_answer (keeps_refl _) ..

theorem soundOut_attest : SoundOut (execAttest s) := by
  refine soundOut_keeping hs _ _ fun ws => ?_
  split
  · exact keeps_answer (keeps_refl _) ..
  · exact keeps_answer (keeps_memWrite (keeps_refl _) ..) ..

theorem soundOut_tracebuf : SoundOut (execTracebuf s) := by
  unfold execTracebuf
  split
  next p _ => exact (keepsOut_next (keeps_answer (keeps_dropWait (keeps_refl s) p) ..)).sound hs
  · refine soundOut_bankCommand hs _ _ _ (soundOut_keeping hs _ _ fun ws => ?_)
    have h := keeps_refl s.popMail
    dsimp only
    split
    · exact keeps_answer h ..
    · split
      · exact keeps_answer h ..
      · refine keeps_waitMail (keeps_foldl (fun _ _ h => keeps_writeHeader h ..) _ _ ?_) ..
        exact h

theorem soundOut_profcfg : SoundOut (execProfcfg s) := by
  refine soundOut_keeping hs _ _ fun ws => ?_
  dsimp only
  split
  · exact keeps_answer (keeps_refl _) ..
  · exact keeps_answer (keeps_modCtx (keeps_refl _) ..) ..

end

/-! ### Code objects (R404, R415, R419) -/

section
variable (h : Keeps o s)
include h

theorem keeps_freeFrame (ctx v : Nat) : Keeps o (s.freeFrame ctx v) := by
  unfold State.freeFrame
  split <;> exact h

theorem keeps_dropEntry (pme : Nat) : Keeps o (s.dropEntry pme) := by
  unfold State.dropEntry
  split
  · exact h
  · split <;> exact h

theorem keeps_moveRange (a b n c d m : Nat) : Keeps o { s with mem := moveBytes s.mem a b n, tags := moveTags s.tags c d m } :=
  h.dev_of (memWf_moveBytes a b n) (ascending_moveTags c d m)

theorem keeps_loadPage (ctx : Nat) (c : Machine.Context) (e : Entry) (x : Loaded) (p : Nat) : Keeps o (s.loadPage ctx c e x p) := by
  unfold State.loadPage
  dsimp only
  split
  · exact keeps_memWrite h ..
  · split
    · exact h
    next fr r _ =>
      have h1 : Keeps o (({ s with fastFree := r } : Machine.State).dropRange (65536 * fr) 65536) := h
      split
      · exact keeps_dropEntry (keeps_freeFrame (keeps_memWrite (keeps_memWrite (keeps_moveRange h1 ..) ..) ..) ..) _
      · exact keeps_memWrite (keeps_memWrite (keeps_zeroRange h1 ..) ..) ..

theorem keeps_setDeny (ctx : Nat) (ps : List Nat) : Keeps o (s.setDeny ctx ps) := by
  unfold State.setDeny
  split
  · exact h
  · split
    · exact h
    · exact keeps_foldl (fun _ _ h => keeps_memWrite h ..) _ _ h

theorem keeps_place (ctx : Nat) (c : Machine.Context) (e : Entry) (x : Loaded) : Keeps o (s.place ctx c e x) := by
  have h1 := keeps_foldl (f := fun s p => State.loadPage s ctx c e x p) (fun _ p h => keeps_loadPage h ..) x.obj.pages s h
  unfold State.place
  dsimp only
  split
  · exact keeps_modCtx h1 ..
  · exact keeps_setDeny (keeps_modCtx (keeps_modCtx h1 ..) ..) ..

/-- A load keeps those parts of o, carried out or begun. -/
structure KeepsLoad (o : Machine.State) (x : Load) : Prop where
  done : ∀ t, x = .done t → Keeps o t
  waits : ∀ t, x = .waits (some t) → Keeps o t

omit h in
theorem keepsLoad_done (h : Keeps o s) : KeepsLoad o (.done s) := ⟨fun _ ht => Load.done.inj ht ▸ h, fun _ ht => nomatch ht⟩

omit h in
theorem keepsLoad_waits {b : Option Machine.State} (hb : KeepsSome o b) : KeepsLoad o (.waits b) :=
  ⟨fun _ ht => (nomatch ht), fun t ht => hb.some t (Load.waits.inj ht)⟩

theorem keepsLoad_held (b : Nat × Nat) : KeepsLoad o (s.loadHeld b) := by
  refine keepsLoad_waits ?_
  split
  exacts [keepsSome_none, keepsSome_some h]

theorem keepsSome_unmapFresh (c : Machine.Context) (e : Entry) (x : Loaded) : KeepsSome o (s.unmapFresh c e x) := by
  unfold State.unmapFresh
  dsimp only
  split
  · exact keepsSome_none
  · exact keepsSome_some (keeps_foldl (fun _ _ h => keeps_memWrite h ..) _ _ h)

theorem keepsLoad_load (ws : List DWord) : KeepsLoad o (s.load ws) := by
  unfold State.load
  split
  · exact keepsLoad_done (keeps_answer h ..)
  · split
    · exact keepsLoad_done (keeps_answer h ..)
    · exact keepsLoad_held h _
    · split
      · exact keepsLoad_done (keeps_answer h ..)
      · refine keepsLoad_waits ?_
        split
        exacts [keepsSome_some (keeps_wantPage h _), keepsSome_none]
      · dsimp only
        split
        · exact keepsLoad_done (keeps_answer h ..)
        · exact keepsLoad_done (keeps_answer h ..)
        · split
          · exact keepsLoad_held h _
          · split
            · exact keepsLoad_waits (keepsSome_unmapFresh h ..)
            · exact keepsLoad_done (keeps_answer (keeps_place h ..) ..)

theorem keepsSome_loadDue : KeepsSome o s.loadDue := by
  refine ⟨fun t ht => ?_⟩
  obtain ⟨p, -, hp⟩ := Option.bind_eq_some_iff.1 ht
  have h1 := keepsLoad_load (keeps_dropWait h p) p.words
  split at hp
  next u hu =>
    cases hp
    exact h1.done t hu
  next b hb =>
    obtain ⟨u, rfl, rfl⟩ := Option.map_eq_some_iff.1 hp
    exact h1.waits u hb

theorem keeps_unmapPage (ctx : Nat) (e : Entry) (rest : List CodeObj) (p : Nat) : Keeps o (s.unmapPage ctx e rest p) := by
  unfold State.unmapPage
  dsimp only
  split
  · exact keeps_memWrite h ..
  · exact keeps_dropEntry (keeps_freeFrame (keeps_memWrite h ..) ..) _

theorem keeps_unload (ctx id : Nat) : Keeps o (s.unload ctx id) := by
  unfold State.unload
  split
  · exact h
  next c _ =>
    split
    · exact h
    next cobj _ =>
      have h1 : Keeps o (match s.arenaEntry c with
          | none => s
          | some e => cobj.pages.foldl (fun s p => s.unmapPage ctx e (c.objs.filter (·.id != id)) p) s) := by
        split
        · exact h
        · exact keeps_foldl (fun _ _ h => keeps_unmapPage h ..) _ _ h
      exact h1

theorem keepsOut_codeUnmap (ctx codeid : Nat) : KeepsOut o (execCodeUnmap ctx codeid s) := by
  unfold execCodeUnmap
  split
  · exact keepsOut_refused _
  · split
    · exact keepsOut_holdStep h ..
    · exact keepsOut_next (keeps_mailResult (keeps_unload h ..) ..)

/-! ### The end of a context (R470) -/

theorem keeps_killSlots (ctx : Nat) : Keeps o (s.killSlots ctx) := by
  refine keeps_foldl (fun s x h => ?_) _ _ h
  dsimp only
  split
  · exact h
  · split
    · refine keeps_complete ?_ ..
      exact h
    · exact h

theorem keeps_killContext (ctx : Nat) : Keeps o (s.killContext ctx) :=
  keeps_foldl (fun _ x h => keeps_complete h x.1 x.2) _ _ (keeps_killSlots (keeps_failContext h ctx) ctx)

theorem keeps_freeContext (ctx : Nat) : Keeps o (s.freeContext ctx) := by
  unfold State.freeContext
  split
  · exact h
  next c _ =>
    have h1 := keeps_foldl (f := fun s (o : CodeObj) => match o.unload with
      | none => State.unload s ctx o.id
      | some (a, t) => (s.unload ctx o.id).mailResult a t 0 []) (o := o) (fun s x h => by
        split
        exacts [keeps_unload h .., keeps_mailResult (keeps_unload h ..) ..]) c.objs s h
    exact h1

end

section
variable (hs : s.Sound = true)
include hs

theorem soundOut_codeload : SoundOut (execCodeload s) := by
  unfold execCodeload
  split
  next t ht => exact soundOut_next (((keepsSome_loadDue (keeps_refl s)).some t ht).sound hs)
  · split
    · exact soundOut_refused _
    next ws _ =>
      have h1 := keepsLoad_load (keeps_refl s.popMail) ws
      dsimp only
      split
      next t ht => exact soundOut_next ((h1.done t ht).sound (sound_popMail hs))
      next b hb =>
        refine soundOut_next (Keeps.sound (o := s.popMail) (keeps_waitMail ?_ ..) (sound_popMail hs))
        cases b with
        | none => exact keeps_refl _
        | some t => exact h1.waits t hb

theorem soundOut_codeunload : SoundOut (execCodeunload s) := by
  refine soundOut_keeping hs _ _ fun ws => ?_
  have h := keeps_refl s.popMail
  dsimp only
  split
  · exact keeps_answer h ..
  · split
    · exact keeps_answer h ..
    · split
      · exact keeps_answer h ..
      · exact keeps_modCtx h ..

theorem soundOut_ctxcreate : SoundOut (execCtxcreate s) := by
  refine soundOut_keeping hs _ _ fun ws => ?_
  have h := keeps_refl s.popMail
  dsimp only
  split
  · exact keeps_answer h ..
  · split
    · exact keeps_answer h ..
    · split
      · exact keeps_answer h ..
      · exact keeps_answer (s := { s.popMail with ctxs := _, nextId := _ }) h ..

theorem soundOut_ctxdestroy : SoundOut (execCtxdestroy s) := by
  unfold execCtxdestroy
  split
  next p _ => exact (keepsOut_next (keeps_answer (keeps_freeContext (keeps_dropWait (keeps_refl s) p) _) ..)).sound hs
  · exact soundOut_keeping hs _ _ fun _ => keeps_waitMail (keeps_killContext (keeps_refl _) _) ..

end
end
end Sys2Proof.Claims.Kept

/-! What the operations of the model leave as it is, continued: recovery points and errors (R232 to R237), the debugger (R427 to R430), and what
reaches the module from outside (R431 to R445). -/
namespace Sys2Proof.Claims.Kept
open Sys2Proof.Machine
-- One proof at a time: the text is compiled as one file, whose memory parallel elaboration would exceed.
set_option Elab.async false

section
variable {o s : Machine.State}

/-! ### Recovery points (R232) -/

section
variable (h : Keeps o s)
include h

theorem keeps_noPoint (rs : List (Nat × Nat)) : Keeps o (s.noPoint rs) := keeps_results (keeps_report h ..) ..

theorem keeps_beginPoint (rs : List (Nat × Nat)) : Keeps o (s.beginPoint rs) := by
  unfold State.beginPoint
  split
  · exact keeps_noPoint h _
  · refine keeps_preemptAll ?_ ..
    exact h

theorem keepsOut_recoveryPointTimer : KeepsOut o (execRecoveryPointTimer s) := by
  unfold execRecoveryPointTimer
  split
  · refine keepsOut_next (keeps_beginPoint ?_ _)
    exact h
  · exact keepsOut_refused _

theorem keeps_endResults (ps : Tab Preempt) : Keeps o (s.endResults ps) := keeps_results h ..

theorem keeps_failAccepted : Keeps o s.failAccepted := keeps_foldl (fun _ c h => keeps_failContext h c) _ _ h

theorem keeps_abandonPoint : Keeps o s.abandonPoint := by
  unfold State.abandonPoint
  split
  · exact h
  next rs _ =>
    have h1 : Keeps o ({ s with taking := none } : Machine.State).resumeHeld := by
      refine keeps_resumeHeld ?_
      exact h
    have h2 : Keeps o (if s.critical.isEmpty then ({ s with taking := none } : Machine.State).resumeHeld.endResults (s.preempts.filter fun (_, p) => p.hold)
        else ({ s with taking := none } : Machine.State).resumeHeld) := by
      split
      exacts [keeps_endResults h1 _, h1]
    dsimp only
    split
    · exact h2
    · exact keeps_beginPoint h2 _

theorem keeps_countUncorrected (unit : Nat) : Keeps o (s.countUncorrected unit) := by
  unfold State.countUncorrected
  split
  · exact h
  · dsimp only
    split <;> exact h

theorem keeps_markWorn (unit : Nat) : Keeps o (s.markWorn unit) := by
  unfold State.markWorn
  split <;> exact h

theorem keepsOut_correctedError (unit : Nat) : KeepsOut o (execCorrectedError unit s) := by
  unfold execCorrectedError
  split
  · exact keepsOut_refused _
  · refine keepsOut_next (keeps_markWorn ?_ _)
    exact h

omit h in
theorem keeps_reportLaunches (n : Nat) : ∀ (l : List Accepted) {s : Machine.State}, Keeps o s → Keeps o (s.reportLaunches n l) := by
  induction n with
  | zero => exact fun _ _ h => h
  | succ n ih =>
    intro l s h
    unfold State.reportLaunches
    split
    · exact h
    · exact ih _ (keeps_report h ..)

theorem keeps_reportRollback (unit clock : Nat) : Keeps o (s.reportRollback unit clock) :=
  keeps_foldl (fun _ _ h => keeps_report h ..) _ _ (keeps_reportLaunches _ _ (keeps_report h ..))

end

/-! ### Rollback (R234) -/

/-- Bytes inside the device followed by bytes outside it are in canonical form. -/
theorem memWf_inside_outside {m l : List Host.Cell} (hl : memWf l = true) (hlo : ∀ c ∈ l, isOutside c.1 = true) :
    memWf m = true → (∀ c ∈ m, isOutside c.1 = false) → memWf (m ++ l) = true := by
  induction m with
  | nil => exact fun _ _ => hl
  | cons c r ih =>
    intro hm hi
    obtain ⟨k, x⟩ := c
    obtain ⟨hx, hk, hr⟩ := memWf_cons.1 hm
    refine memWf_cons.2 ⟨hx, ?_, ih hr fun c hc => hi c (List.mem_cons_of_mem _ hc)⟩
    cases r with
    | cons d r => exact hk
    | nil =>
      cases l with
      | nil => trivial
      | cons d l =>
        have h1 : isOutside k = false := hi (k, x) List.mem_cons_self
        have h2 : isOutside d.1 = true := hlo d List.mem_cons_self
        unfold isOutside at h1 h2
        have := of_decide_eq_false h1
        have := of_decide_eq_true h2
        show k < d.1
        omega

/-- The contents of a sound point, with what lies outside the device as it is now, are sound. -/
theorem sound_restoredDev (d : Dev) (hd : d.sound = true) (hs : s.toDev.sound = true) : (s.restoredDev d).sound = true := by
  obtain ⟨hm, ht⟩ := Bool.and_eq_true_iff.1 hd
  refine Bool.and_eq_true_iff.2 ⟨?_, ht⟩
  refine memWf_inside_outside (memWf_filter _ (Bool.and_eq_true_iff.1 hs).1) (fun c hc => (List.mem_filter.1 hc).2) (memWf_filter _ hm) fun c hc => ?_
  exact Bool.not_eq_true' _ ▸ (List.mem_filter.1 hc).2

section
variable (hs : s.Sound = true)
include hs

theorem sound_rollback (unit : Nat) (d : Dev) (clock : Nat) (hd : d.sound = true) : (s.rollback unit d clock).Sound = true := by
  have h0 : ({ s with
      toDev := s.restoredDev d, agenda := s.agenda.filterMap Move.outside ++ s.outsideWaits, heldIn := s.heldIn.filterMap Move.outside
      taking := none } : Machine.State).Sound = true := by
    simp only [State.Sound, Bool.and_eq_true, decide_eq_true_eq] at hs ⊢
    obtain ⟨⟨⟨hdev, hi⟩, hm⟩, hp⟩ := hs
    exact ⟨⟨⟨sound_restoredDev d hd hdev, hi⟩, hm⟩, hp⟩
  refine Keeps.sound ?_ h0
  have h1 := keeps_endResults (keeps_resumeHeld (keeps_reportRollback (keeps_refl ({ s with
      toDev := s.restoredDev d, agenda := s.agenda.filterMap Move.outside ++ s.outsideWaits, heldIn := s.heldIn.filterMap Move.outside
      taking := none } : Machine.State)) unit clock)) s.preempts
  unfold State.rollback
  dsimp only
  split
  · exact h1
  · split
    · exact h1
    · refine keeps_beginPoint ?_ _
      exact h1

theorem soundOut_uncorrectableError (unit : Nat) : SoundOut (execUncorrectableError unit s) := by
  have h1 := keeps_countUncorrected (keeps_refl s) unit
  unfold execUncorrectableError
  split
  · exact soundOut_refused _
  · dsimp only
    split
    · exact soundOut_next ((keeps_abandonPoint (keeps_failAccepted h1)).sound hs)
    next d clock fs hp =>
      split
      · exact soundOut_next ((keeps_abandonPoint (keeps_failAccepted h1)).sound hs)
      · refine soundOut_next (sound_rollback (h1.sound hs) unit d clock ?_)
        have h2 := h1.sound hs
        simp only [State.Sound, Bool.and_eq_true, hp] at h2
        exact h2.2

theorem soundOut_rptake : SoundOut (execRptake s) := by
  refine soundOut_keeping hs _ _ fun ws => ?_
  have h := keeps_refl s.popMail
  split
  · exact h
  · exact keeps_beginPoint h _

theorem soundOut_rpintset : SoundOut (execRpintset s) :=
  soundOut_keeping hs _ _ fun _ => keeps_answer (s := { s.popMail with rpint := _, rpNext := _ }) (keeps_refl s.popMail) ..

theorem soundOut_wornthr : SoundOut (execWornthr s) := by
  refine soundOut_keeping hs _ _ fun ws => ?_
  have h := keeps_refl s.popMail
  dsimp only
  split
  · exact keeps_answer h ..
  · refine keeps_answer (keeps_foldl (fun _ _ h => keeps_markWorn h _) _ _ ?_) ..
    exact h

theorem soundOut_recoveryPointCommit : SoundOut (execRecoveryPointCommit s) := by
  unfold execRecoveryPointCommit
  split
  · exact soundOut_refused _
  next rs _ =>
    split
    · exact soundOut_refused _
    · dsimp only
      split
      · refine soundOut_next (Keeps.sound (o := s) (keeps_resumeHeld (keeps_noPoint ?_ _)) hs)
        exact keeps_refl s
      · refine soundOut_next (Keeps.sound (keeps_resumeHeld (keeps_foldl (fun _ _ h => keeps_mailResult h ..) _ _ (keeps_refl _))) ?_)
        simp only [State.Sound, Bool.and_eq_true, decide_eq_true_eq] at hs ⊢
        obtain ⟨⟨⟨hd, hi⟩, hm⟩, -⟩ := hs
        exact ⟨⟨⟨hd, hi⟩, hm⟩, hd⟩

end

/-! ### The debugger (R196, R427 to R430) -/

section
variable (h : Keeps o s)
include h

theorem keeps_withSaved (k : Nat) (x : SavedCrew) : Keeps o (s.withSaved k x) := h

/-- A group is seen in a state that keeps those parts. -/
theorem keeps_findGroup {ctx : Nat} {ws : List DWord} {x : Seen} (hx : s.findGroup ctx ws = some x) : Keeps o x.state := by
  unfold State.findGroup at hx
  dsimp only at hx
  split at hx
  · cases hx
  · obtain ⟨p, -, rfl⟩ := Option.map_eq_some_iff.1 hx
    exact h
  · obtain ⟨p, -, rfl⟩ := Option.map_eq_some_iff.1 hx
    exact keeps_withSaved h ..

theorem keeps_put (x : Seen) : Keeps o (x.put s) := by
  unfold Seen.put
  split <;> exact h

theorem keeps_debugging (ws : List DWord) {body : Machine.State → Machine.State} (hb : Keeps o (body s)) : Keeps o (s.debugging ws body) := by
  unfold State.debugging
  split
  exacts [hb, keeps_answer h ..]

theorem keeps_onStopped (ws : List DWord) {f : Seen → Machine.State} (hf : ∀ x, Keeps o x.state → Keeps o (f x)) : Keeps o (s.onStopped ws f) := by
  unfold State.onStopped
  split
  · exact keeps_answer h ..
  next x hx =>
    split
    · exact hf x (keeps_findGroup h hx)
    · exact keeps_answer h ..

theorem keeps_debugHaltCrew (k : Nat) : Keeps o (s.debugHaltCrew k) := by
  unfold State.debugHaltCrew
  split
  · exact h
  · exact keeps_startHalt h ..

theorem keeps_restoreRange (old : Dev) (src dst n : Nat) : Keeps o (s.restoreRange old src dst n) :=
  h.dev_of (fun hm => memWf_foldl (fun c => (dst + (c.1 - src), c.2)) _ (memWf_filter _ hm))
    (fun ht => ascending_tagSets (fun t => dst / 16 + (t - src / 16)) _ (ascending_filter _ ht))

theorem keeps_restoreReach (old : Dev) (c : Machine.Context) : Keeps o (s.restoreReach old c) := by
  refine keeps_foldl (fun _ x h => keeps_restoreRange h ..) _ _ (keeps_foldl (fun s p h => ?_) _ _ h)
  split
  · exact keeps_restoreRange h ..
  · exact h

theorem keeps_restoreOwner (k : Nat) (x : Owner) : Keeps o (s.restoreOwner k x) := by
  have h1 := keeps_allocTag h (k / 2 ^ 64)
  exact h1

theorem keeps_restoreContext (old : Dev) (ctx : Nat) : Keeps o (s.restoreContext old ctx) := by
  refine keeps_foldl (fun _ x h => keeps_restoreOwner h x.1 x.2) _ _ ?_
  exact h

theorem keeps_debugReplay (old : Dev) (ctx : Nat) (c : Machine.Context) : Keeps o (s.debugReplay old ctx c) := by
  have h1 := keeps_restoreContext (keeps_restoreReach h old c) old ctx
  refine keeps_foldl (fun s x h => ?_) _ _ ?_
  · dsimp only
    split
    · refine keeps_takeRecord ?_ ..
      exact h
    · refine keeps_takeRecord ?_ ..
      exact h
  · exact h1

theorem keeps_stopPassed (ws : List DWord) : Keeps o (s.stopPassed ws) := by
  unfold State.stopPassed
  dsimp only
  split
  · split
    · exact keeps_answer h ..
    · split
      · exact keeps_answer h ..
      · refine keeps_answer (keeps_debugReplay ?_ ..) ..
        exact h
  · exact keeps_answer h ..

end

section
variable (hs : s.Sound = true)
include hs

/-- A debugger's command whose effect under the right keeps those parts of the state leaves a sound state. -/
theorem soundOut_debugging (op : Nat) (f : Form) {body : List DWord → Machine.State → Machine.State}
    (hb : ∀ ws, Keeps s.popMail (body ws s.popMail)) : SoundOut (command op f s fun ws s => s.debugging ws (body ws)) :=
  soundOut_keeping hs _ _ fun ws => keeps_debugging (keeps_refl _) _ (hb ws)

theorem soundOut_dbggrant : SoundOut (execDbggrant s) := soundOut_keeping hs _ _ fun _ => keeps_answer (keeps_modCtx (keeps_refl _) ..) ..

theorem soundOut_dbgrevoke : SoundOut (execDbgrevoke s) := by
  refine soundOut_keeping hs _ _ fun ws => ?_
  refine keeps_answer ?_ ..
  exact keeps_refl s.popMail

theorem soundOut_dbghalt : SoundOut (execDbghalt s) := by
  unfold execDbghalt
  split
  next p _ => exact (keepsOut_next (keeps_answer (keeps_dropWait (keeps_refl s) p) ..)).sound hs
  next p k _ => exact (keepsOut_next (keeps_waitMail (keeps_debugHaltCrew (keeps_dropWait (keeps_refl s) p) k) ..)).sound hs
  · refine soundOut_debugging hs _ _ fun ws => ?_
    have h := keeps_refl s.popMail
    split
    · exact keeps_answer h ..
    · split
      · exact h
      · exact keeps_waitMail (keeps_debugHaltCrew h _) ..
    · exact h

theorem soundOut_dbgread : SoundOut (execDbgread s) :=
  soundOut_debugging hs _ _ fun _ => keeps_onStopped (keeps_refl _) _ fun _ _ => keeps_answer (keeps_refl _) ..

theorem soundOut_dbgwrite : SoundOut (execDbgwrite s) :=
  soundOut_debugging hs _ _ fun _ => keeps_onStopped (keeps_refl _) _ fun x hx => keeps_answer (keeps_put (keeps_writeSel hx ..) x) ..

theorem soundOut_dbgresume : SoundOut (execDbgresume s) := by
  refine soundOut_debugging hs _ _ fun _ => keeps_onStopped (keeps_refl _) _ fun x hx => ?_
  split
  · exact keeps_answer (keeps_put (keeps_resumeGroup hx ..) x) ..
  · exact keeps_answer (keeps_refl _) ..

theorem soundOut_dbgstop : SoundOut (execDbgstop s) := by
  refine soundOut_debugging hs _ _ fun ws => ?_
  have h := keeps_refl s.popMail
  have ha : Keeps s.popMail (({ s.popMail with stops := s.popMail.stops ++ [stopOf ws] } : Machine.State).answer ws 0 []) := by
    refine keeps_answer ?_ ..
    exact h
  dsimp only
  split
  · split
    · exact keeps_stopPassed h ws
    · exact ha
  · split
    · exact keeps_answer (keeps_report h ..) ..
    · exact ha

theorem soundOut_dbgwatch : SoundOut (execDbgwatch s) := by
  refine soundOut_bankCommand hs _ _ _ (soundOut_debugging hs _ _ fun ws => ?_)
  have h := keeps_refl s.popMail
  dsimp only
  split
  · exact keeps_answer (keeps_modCtx h ..) ..
  · split
    · exact keeps_answer h ..
    · split
      · exact keeps_answer h ..
      · exact keeps_answer (keeps_modCtx h ..) ..

end

/-! ### What reaches the module from outside (R431, R433, R437 to R442, R445) -/

section
variable (h : Keeps o s)
include h

theorem keeps_scrub : Keeps o s.scrub := h.dev_of (memWf_filter _) fun _ => rfl

theorem keepsOut_powerGood : KeepsOut o (execPowerGood s) := by
  unfold execPowerGood
  dsimp only
  split
  · exact keepsOut_refused _
  · split
    · refine keepsOut_next ?_
      exact keeps_scrub h
    · split
      · refine keepsOut_next ?_
        exact keeps_scrub h
      · refine keepsOut_next ?_
        exact h

theorem keeps_logHostWrite (a n : Nat) : Keeps o (s.logHostWrite a n) := by
  unfold State.logHostWrite
  dsimp only
  split
  exacts [h, keeps_logOut h ..]

theorem keeps_watchHost (a n : Nat) (write : Bool) : Keeps o (s.watchHost a n write) :=
  keeps_foldl (fun _ _ h => keeps_foldl (fun _ _ h => keeps_foldl (fun _ _ h => keeps_foldl (fun _ _ h => keeps_report h ..) _ _ h) _ _ h) _ _ h) _ _ h

theorem keepsOut_hostMemWrite (a : Nat) (bs : List Byte) : KeepsOut o (execHostMemWrite a bs s) := by
  unfold execHostMemWrite
  dsimp only
  split
  · exact keepsOut_refused _
  · split
    · split
      · exact keepsOut_next (keeps_memWrite h ..)
      · exact keepsOut_refused _
    · split
      · exact keepsOut_refused _
      · split
        · exact keepsOut_next h
        · exact keepsOut_next (keeps_watchHost (keeps_logHostWrite (keeps_memWrite h ..) ..) ..)

theorem keepsOut_hostMemRead (a n : Nat) : KeepsOut o (execHostMemRead a n s) := by
  unfold execHostMemRead
  split
  · exact keepsOut_refused _
  · split
    · exact keepsOut_next h
    · exact keepsOut_next (keeps_watchHost h ..)

theorem keeps_putBytes (ctx : Nat) (fs : List (Nat × Byte)) : Keeps o (s.putBytes ctx fs) := keeps_foldl (fun _ _ h => keeps_runsWrite h ..) _ _ h

theorem keepsOut_peerAccess (d x off : Nat) (w : Bool) (bs : List Byte) : KeepsOut o (execPeerAccess d x off w bs s) := by
  unfold execPeerAccess
  dsimp only
  split
  · exact keepsOut_refused _
  · split
    · exact keepsOut_next h
    next ctx hd _ =>
      split
      · exact keepsOut_next h
      · split
        · exact keepsOut_next h
        next e0 _ =>
          split
          · exact keepsOut_next h
          · have h1 := keeps_portEntry h 0 ctx hd e0.kind (if w = true then rW else rR) off bs.length
            split
            · exact keepsOut_next h1
            · split
              · exact keepsOut_next h1
              · exact keepsOut_next (keeps_joinEntry h1 ..)
              · refine keepsOut_next (keeps_watchReport ?_ ..)
                split
                exacts [keeps_putBytes (keeps_portEntry h ..) .., keeps_portEntry h ..]

theorem keepsOut_runAgain (x : Outside) : KeepsOut o (runAgain x s) := by
  cases x with
  | host a bs => exact keepsOut_hostMemWrite h a bs
  | hostRead a n => exact keepsOut_hostMemRead h a n
  | peer d x off w bs => exact keepsOut_peerAccess h d x off w bs

theorem keepsOut_railPortDown (p : Nat) : KeepsOut o (execRailPortDown p s) := by
  unfold execRailPortDown
  dsimp only
  split
  · exact keepsOut_refused _
  · refine keepsOut_next ?_
    have h1 := keeps_foldl (f := fun s (x : Nat × Posted) => ({ s with posted := tdel s.posted x.1 } : Machine.State).refusePosted x.2) (o := o) (fun s x h => by
        refine keeps_refusePosted ?_ _
        exact h) (s.posted.filter fun (_, q) => decide (peerBase ≤ q.flat) && s.railPort q.flat == some p)
      ((s.accs.filter fun (_, a) => a.inFlight && a.kind == 5 && s.portTaken a == some p).foldl (fun s x => s.refuse x.1 x.2 9 1 9) s)
      (keeps_foldl (fun _ _ h => keeps_refuse h ..) _ _ h)
    exact h1

theorem keepsOut_railPortUp (p : Nat) : KeepsOut o (execRailPortUp p s) := by
  unfold execRailPortUp
  split
  · exact keepsOut_next h
  · exact keepsOut_refused _

theorem keepsOut_eventRingWrite : KeepsOut o (execEventRingWrite s) := by
  unfold execEventRingWrite
  split
  next r ws rest _ _ =>
    dsimp only
    split
    · refine keepsOut_next ?_
      have h1 := keeps_memWrite (keeps_memWrite h (hostBase + r.rbase + 64 * (r.prod % r.n)) (bytesOf ws)) (hostBase + r.cbase + 8)
        (leBytes ((r.prod + 1) % 2 ^ 32) 8)
      exact h1
    · exact keepsOut_refused _
  · exact keepsOut_refused _

theorem keepsOut_eventRingPoll : KeepsOut o (execEventRingPoll s) := by
  unfold execEventRingPoll
  split
  · exact keepsOut_refused _
  · split
    · exact keepsOut_next h
    · exact keepsOut_refused _

theorem keepsOut_activationBackoff (c b : Nat) : KeepsOut o (execActivationBackoff c b s) := by
  unfold execActivationBackoff
  split
  · exact keepsOut_refused _
  · split <;> exact keepsOut_next h

theorem keepsOut_refreshHoldEnd (c b : Nat) : KeepsOut o (execRefreshHoldEnd c b s) := by
  unfold execRefreshHoldEnd
  dsimp only
  split
  · exact keepsOut_refused _
  · exact keepsOut_next h

end

/-! ### Temperature (R441, R442) -/

/-- An island lowered stays in one of the four states. -/
theorem lowerIsland_legal {x : Nat} (hx : x < 4) : lowerIsland x < 4 := by
  unfold lowerIsland
  split
  · decide
  · split
    · decide
    · exact hx

/-- Islands lowered one after another stay legal. -/
theorem islandsLegal_lowered (is : List Nat) : ∀ {l : List Nat}, islandsLegal l = true →
    islandsLegal (is.foldl (fun l i => l.set i (lowerIsland ((l[i]?).getD 0))) l) = true := by
  induction is with
  | nil => exact fun h => h
  | cons i is ih =>
    intro l hl
    refine ih (islandsLegal_set i (lowerIsland_legal ?_) hl)
    rw [islandsLegal, Bool.and_eq_true, List.all_eq_true] at hl
    cases hi : l[i]? with
    | none => decide
    | some x => exact of_decide_eq_true (hl.2 x (List.mem_of_getElem? hi))

section
variable (hs : s.Sound = true)
include hs

theorem soundOut_thermalStep (die temp : Nat) : SoundOut (execThermalStep die temp s) := by
  unfold execThermalStep
  split
  · exact soundOut_refused _
  · split
    · refine soundOut_next ?_
      exact sound_islands hs (islandsLegal_lowered (islandsOf die))
    · split
      · exact soundOut_next hs
      · exact soundOut_refused _

theorem soundOut_thermalCritical (die temp : Nat) : SoundOut (execThermalCritical die temp s) := by
  unfold execThermalCritical
  split
  · exact soundOut_refused _
  · refine soundOut_next ?_
    have h1 := Keeps.sound (keeps_preemptAll (keeps_refl ({ s with critical := insertNat s.critical die, hot := insertNat s.hot die } : Machine.State))
      allCores true) hs
    exact h1

theorem soundOut_thermalRecover (die temp : Nat) : SoundOut (execThermalRecover die temp s) := by
  unfold execThermalRecover
  split
  · exact soundOut_next (Keeps.sound (keeps_resumeHeld (keeps_refl
      ({ s with critical := s.critical.filter (· != die), hot := s.hot.filter (· != die) } : Machine.State))) hs)
  · exact soundOut_refused _

end
end
end Sys2Proof.Claims.Kept

/-! THE INVARIANT (R232, R434, R441): every instruction and every move of the device, and so every step, leaves a sound state. -/
namespace Sys2Proof.Claims.Kept
open Sys2Proof.Machine
-- One proof at a time: the text is compiled as one file, whose memory parallel elaboration would exceed.
set_option Elab.async false

section
variable {o s : Machine.State}

/-! ### The words of groups that have no lemma of their own above -/

section
variable (h : Keeps o s)
include h

theorem keepsOut_binScalar (d a b : BitVec 5) (f : DWord → DWord → DWord) : KeepsOut o (binScalar s d a b f) := keepsOut_scalarWord h ..
theorem keepsOut_unScalar (d a : BitVec 5) (f : DWord → DWord) : KeepsOut o (unScalar s d a f) := keepsOut_scalarWord h ..
theorem keepsOut_immScalar (d a : BitVec 5) (i : BitVec 12) (f : DWord → DWord → DWord) : KeepsOut o (immScalar s d a i f) :=
  keepsOut_scalarWord h ..
theorem keepsOut_shiftScalar (d a : BitVec 5) (i : BitVec 12) (f : DWord → DWord → DWord) : KeepsOut o (shiftScalar s d a i f) := by
  unfold shiftScalar
  exact keepsOut_scalarWord h ..

theorem keepsOut_binVec (d a b : BitVec 7) (f : Word → Word → Word) : KeepsOut o (binVec s d a b f) := by
  unfold binVec
  exact keepsOut_laneWord h ..

theorem keepsOut_immVec (d a : BitVec 7) (i : BitVec 8) (f : Word → Word → Word) : KeepsOut o (immVec s d a i f) := by
  unfold immVec
  exact keepsOut_laneWord h ..

theorem keepsOut_unVec (d a : BitVec 7) (f : Word → Word) : KeepsOut o (unVec s d a f) := by
  unfold unVec
  exact keepsOut_laneWord h ..

theorem keepsOut_triVec (d a b : BitVec 7) (f : Word → Word → Word → Word) : KeepsOut o (triVec s d a b f) := by
  unfold triVec
  exact keepsOut_laneWord h ..

theorem keepsOut_shiftVec (d a : BitVec 7) (i : BitVec 8) (f : Word → Word → Word) : KeepsOut o (shiftVec s d a i f) := by
  unfold shiftVec
  exact keepsOut_laneWord h ..

theorem keepsOut_pairVec (d a b : BitVec 7) (f : Nat → Nat → Nat) : KeepsOut o (pairVec s d a b f) := by
  unfold pairVec
  exact keepsOut_laneWord h ..

theorem keepsOut_wideVec (d a b : BitVec 7) (f : Word → Word → Nat) : KeepsOut o (wideVec s d a b f) := by
  unfold wideVec
  exact keepsOut_laneWord h ..

theorem keepsOut_binFloat (d a b : BitVec 7) (t : FTy) (f : Fmt → Mode → Nat → Nat → Nat) : KeepsOut o (binFloat s d a b t f) := by
  unfold binFloat
  exact keepsOut_laneWord h ..

theorem keepsOut_unFloat (d a : BitVec 7) (t : FTy) (f : Fmt → Mode → Nat → Nat) : KeepsOut o (unFloat s d a t f) := by
  unfold unFloat
  exact keepsOut_laneWord h ..

theorem keepsOut_fusedFloat (d a b : BitVec 7) (t : FTy) (f : Fmt → Mode → Nat → Nat → Nat → Nat) : KeepsOut o (fusedFloat s d a b t f) := by
  unfold fusedFloat
  exact keepsOut_laneWord h ..

theorem keepsOut_wideFloat (d a b : BitVec 7) (src : Fmt) : KeepsOut o (wideFloat s d a b src) := by
  unfold wideFloat
  exact keepsOut_laneWord h ..

theorem keepsOut_exchange (checks : Machine.Group → List (Bool × Nat)) (f : Machine.Group → Nat → Lane → Lane) :
    KeepsOut o (exchange s checks f) := by
  unfold exchange
  exact keepsOut_actWord h _ _ _ fun _ _ => keeps_modGroup h ..

theorem keepsOut_shuffle (d a b : BitVec 7) (src : Nat → Nat → Int) : KeepsOut o (shuffle s d a b src) := by
  unfold shuffle
  exact keepsOut_exchange h ..

theorem keepsOut_mfWord (d a : BitVec 7) (b : BitVec 5) (f : Desc → Mode → Nat → Nat) : KeepsOut o (mfWord s d a b f) := by
  unfold mfWord
  exact keepsOut_actWord h _ _ _ fun _ _ => keeps_modGroup h ..

theorem keepsOut_atomWord (d : BitVec 7) (k : BitVec 4) (a : BitVec 7) (x : AtomOp) (n : Nat) (returns : Bool) :
    KeepsOut o (atomWord s d k a x n returns) := by
  unfold atomWord
  exact keepsOut_laneAccess h ..

theorem keepsOut_arriveWord (k : BitVec 4) (a : BitVec 5) (c : Scope) (n : BitVec 5) (thenWait : Bool) :
    KeepsOut o (arriveWord s k a c n thenWait) := by
  unfold arriveWord
  exact keepsOut_actWord h _ _ _ fun _ _ => keeps_heldAccess h ..

theorem keepsOut_registerWord (k : BitVec 4) (a : BitVec 5) (kinds : Nat → Bool) (kind : Machine.Group → OpKind) :
    KeepsOut o (registerWord s k a kinds kind) := by
  unfold registerWord
  exact keepsOut_actWord h _ _ _ fun _ _ => keeps_heldAccess h ..

theorem keepsOut_brk (c : BitVec 16) : KeepsOut o (execBrk c s) := by
  refine keepsOut_groupWord h _ _ _ fun g gr => ?_
  dsimp only
  split
  · exact keepsOut_next (keeps_takeTrap h ..)
  · exact keepsOut_next (keeps_trapNow h ..)

theorem keepsOut_setblkv (v : BitVec 7) : KeepsOut o (execSetblkv v s) := by
  refine keepsOut_actWord h _ _ _ fun g gr => ?_
  dsimp only
  split
  · exact keeps_writeBlocks h ..
  · exact keeps_trapNow h ..

theorem keepsOut_setfmReg (v : BitVec 7) : KeepsOut o (execSetfmReg v s) := by
  refine keepsOut_actWord h _ _ _ fun g gr => ?_
  dsimp only
  split
  · exact keeps_modGroup h ..
  · exact keeps_trapNow h ..

theorem keepsOut_rdsr (d : BitVec 7) (e : BitVec 8) : KeepsOut o (execRdsr d e s) := by
  refine keepsOut_actWord h _ _ _ fun g gr => ?_
  split <;> exact keeps_modGroup h ..

theorem keepsOut_performStore (n : Nat) : KeepsOut o (performStore n s) := by
  unfold performStore
  split
  · exact keepsOut_refused _
  · split
    · exact keepsOut_next (keeps_performPosted h n)
    · exact keepsOut_refused _

theorem keeps_raiseNext (g : Nat) (gr : Machine.Group) : Keeps o (s.raiseNext g gr) := by
  unfold State.raiseNext
  dsimp only
  split
  · exact h
  · split
    · exact keeps_startHalt (s := s.modGroup g _) h ..
    · exact h

end

theorem soundOut_fault (f : Fault) : SoundOut (.fault f) := ⟨fun _ ht => nomatch ht⟩

/-- What L2WDOG reports names no word: the rest of the state is kept. -/
theorem soundOut_watchdogExpire (hs : s.Sound = true) (t : Nat) : SoundOut (execWatchdogExpire t s) := by
  unfold execWatchdogExpire
  split
  · exact soundOut_refused _
  · split
    · exact soundOut_next (Keeps.sound (keeps_l2fault (keeps_refl ({ s with cur := { s.cur with word := 0 } } : Machine.State)) ..) hs)
    · exact soundOut_refused _

/-- Every instruction leaves a sound state. -/
theorem soundOut_exec (hs : s.Sound = true) (i : Instr) : SoundOut (exec i s) := by
  have h := keeps_refl s
  cases i with
  | add _ d a b => exact KeepsOut.sound (show KeepsOut s (execAdd d a b s) from keepsOut_binScalar h ..) hs
  | sub _ d a b => exact KeepsOut.sound (show KeepsOut s (execSub d a b s) from keepsOut_binScalar h ..) hs
  | mul _ d a b => exact KeepsOut.sound (show KeepsOut s (execMul d a b s) from keepsOut_binScalar h ..) hs
  | mulhS _ d a b => exact KeepsOut.sound (show KeepsOut s (execMulhS d a b s) from keepsOut_binScalar h ..) hs
  | mulhN _ d a b => exact KeepsOut.sound (show KeepsOut s (execMulhN d a b s) from keepsOut_binScalar h ..) hs
  | divS _ d a b => exact KeepsOut.sound (show KeepsOut s (execDivS d a b s) from keepsOut_binScalar h ..) hs
  | divN _ d a b => exact KeepsOut.sound (show KeepsOut s (execDivN d a b s) from keepsOut_binScalar h ..) hs
  | remS _ d a b => exact KeepsOut.sound (show KeepsOut s (execRemS d a b s) from keepsOut_binScalar h ..) hs
  | remN _ d a b => exact KeepsOut.sound (show KeepsOut s (execRemN d a b s) from keepsOut_binScalar h ..) hs
  | and _ d a b => exact KeepsOut.sound (show KeepsOut s (execAnd d a b s) from keepsOut_binScalar h ..) hs
  | or _ d a b => exact KeepsOut.sound (show KeepsOut s (execOr d a b s) from keepsOut_binScalar h ..) hs
  | xor _ d a b => exact KeepsOut.sound (show KeepsOut s (execXor d a b s) from keepsOut_binScalar h ..) hs
  | shl _ d a b => exact KeepsOut.sound (show KeepsOut s (execShl d a b s) from keepsOut_binScalar h ..) hs
  | shr _ d a b => exact KeepsOut.sound (show KeepsOut s (execShr d a b s) from keepsOut_binScalar h ..) hs
  | sra _ d a b => exact KeepsOut.sound (show KeepsOut s (execSra d a b s) from keepsOut_binScalar h ..) hs
  | minS _ d a b => exact KeepsOut.sound (show KeepsOut s (execMinS d a b s) from keepsOut_binScalar h ..) hs
  | maxS _ d a b => exact KeepsOut.sound (show KeepsOut s (execMaxS d a b s) from keepsOut_binScalar h ..) hs
  | minN _ d a b => exact KeepsOut.sound (show KeepsOut s (execMinN d a b s) from keepsOut_binScalar h ..) hs
  | maxN _ d a b => exact KeepsOut.sound (show KeepsOut s (execMaxN d a b s) from keepsOut_binScalar h ..) hs
  | sltS _ d a b => exact KeepsOut.sound (show KeepsOut s (execSltS d a b s) from keepsOut_binScalar h ..) hs
  | sltN _ d a b => exact KeepsOut.sound (show KeepsOut s (execSltN d a b s) from keepsOut_binScalar h ..) hs
  | seq _ d a b => exact KeepsOut.sound (show KeepsOut s (execSeq d a b s) from keepsOut_binScalar h ..) hs
  | bfxS _ d a b => exact KeepsOut.sound (show KeepsOut s (execBfxS d a b s) from keepsOut_binScalar h ..) hs
  | bfxN _ d a b => exact KeepsOut.sound (show KeepsOut s (execBfxN d a b s) from keepsOut_binScalar h ..) hs
  | bfi _ d a b => exact KeepsOut.sound (show KeepsOut s (execBfi d a b s) by unfold execBfi; exact keepsOut_scalarWord h _ _ _ _) hs
  | clz _ d a => exact KeepsOut.sound (show KeepsOut s (execClz d a s) from keepsOut_unScalar h ..) hs
  | ctz _ d a => exact KeepsOut.sound (show KeepsOut s (execCtz d a s) from keepsOut_unScalar h ..) hs
  | popc _ d a => exact KeepsOut.sound (show KeepsOut s (execPopc d a s) from keepsOut_unScalar h ..) hs
  | jalr => exact KeepsOut.sound (keepsOut_jalr h ..) hs
  | addi _ d a imm => exact KeepsOut.sound (show KeepsOut s (execAddi d a imm s) from keepsOut_immScalar h ..) hs
  | andi _ d a imm => exact KeepsOut.sound (show KeepsOut s (execAndi d a imm s) from keepsOut_immScalar h ..) hs
  | ori _ d a imm => exact KeepsOut.sound (show KeepsOut s (execOri d a imm s) from keepsOut_immScalar h ..) hs
  | xori _ d a imm => exact KeepsOut.sound (show KeepsOut s (execXori d a imm s) from keepsOut_immScalar h ..) hs
  | shli _ d a imm => exact KeepsOut.sound (show KeepsOut s (execShli d a imm s) from keepsOut_shiftScalar h ..) hs
  | shri _ d a imm => exact KeepsOut.sound (show KeepsOut s (execShri d a imm s) from keepsOut_shiftScalar h ..) hs
  | srai _ d a imm => exact KeepsOut.sound (show KeepsOut s (execSrai d a imm s) from keepsOut_shiftScalar h ..) hs
  | sltiS _ d a imm => exact KeepsOut.sound (show KeepsOut s (execSltiS d a imm s) from keepsOut_immScalar h ..) hs
  | luh _ d imm => exact KeepsOut.sound (show KeepsOut s (execLuh d imm s) by unfold execLuh; exact keepsOut_scalarWord h _ _ _ _) hs
  | ldsN8 _ d k a imm => exact KeepsOut.sound (show KeepsOut s (execLdsN8 d k a imm s) from keepsOut_ldsWord h ..) hs
  | ldsN16 _ d k a imm => exact KeepsOut.sound (show KeepsOut s (execLdsN16 d k a imm s) from keepsOut_ldsWord h ..) hs
  | ldsN32 _ d k a imm => exact KeepsOut.sound (show KeepsOut s (execLdsN32 d k a imm s) from keepsOut_ldsWord h ..) hs
  | ldsB64 _ d k a imm => exact KeepsOut.sound (show KeepsOut s (execLdsB64 d k a imm s) from keepsOut_ldsWord h ..) hs
  | stsB8 _ d k a imm => exact KeepsOut.sound (show KeepsOut s (execStsB8 d k a imm s) from keepsOut_stsWord h ..) hs
  | stsB16 _ d k a imm => exact KeepsOut.sound (show KeepsOut s (execStsB16 d k a imm s) from keepsOut_stsWord h ..) hs
  | stsB32 _ d k a imm => exact KeepsOut.sound (show KeepsOut s (execStsB32 d k a imm s) from keepsOut_stsWord h ..) hs
  | stsB64 _ d k a imm => exact KeepsOut.sound (show KeepsOut s (execStsB64 d k a imm s) from keepsOut_stsWord h ..) hs
  | beq _ a b o => exact KeepsOut.sound (show KeepsOut s (execBeq a b o s) from keepsOut_branchWord h ..) hs
  | bne _ a b o => exact KeepsOut.sound (show KeepsOut s (execBne a b o s) from keepsOut_branchWord h ..) hs
  | bltS _ a b o => exact KeepsOut.sound (show KeepsOut s (execBltS a b o s) from keepsOut_branchWord h ..) hs
  | bgeS _ a b o => exact KeepsOut.sound (show KeepsOut s (execBgeS a b o s) from keepsOut_branchWord h ..) hs
  | bltN _ a b o => exact KeepsOut.sound (show KeepsOut s (execBltN a b o s) from keepsOut_branchWord h ..) hs
  | bgeN _ a b o => exact KeepsOut.sound (show KeepsOut s (execBgeN a b o s) from keepsOut_branchWord h ..) hs
  | jal => exact KeepsOut.sound (keepsOut_jal h ..) hs
  | emit _ d a b => exact KeepsOut.sound (show KeepsOut s (execEmit d a b s) from keepsOut_emitWord h ..) hs
  | emitnb _ d a b => exact KeepsOut.sound (show KeepsOut s (execEmitnb d a b s) from keepsOut_emitWord h ..) hs
  | emits => exact KeepsOut.sound (keepsOut_emits h ..) hs
  | sopen => exact KeepsOut.sound (keepsOut_sopen h ..) hs
  | stins => exact KeepsOut.sound (keepsOut_stins h ..) hs
  | sdecl => exact KeepsOut.sound (keepsOut_sdecl h ..) hs
  | gwait => exact KeepsOut.sound (keepsOut_gwait h ..) hs
  | grec => exact KeepsOut.sound (keepsOut_grec h ..) hs
  | gread => exact KeepsOut.sound (keepsOut_gread h ..) hs
  | gwrite => exact KeepsOut.sound (keepsOut_gwrite h ..) hs
  | gres => exact KeepsOut.sound (keepsOut_gres h ..) hs
  | gkill => exact KeepsOut.sound (keepsOut_gkill h ..) hs
  | launch _ d a k => exact KeepsOut.sound (show KeepsOut s (execLaunch d a k s) from keepsOut_launch h ..) hs
  | addV _ d a b => exact KeepsOut.sound (show KeepsOut s (execAddV d a b s) from keepsOut_binVec h ..) hs
  | subV _ d a b => exact KeepsOut.sound (show KeepsOut s (execSubV d a b s) from keepsOut_binVec h ..) hs
  | mulV _ d a b => exact KeepsOut.sound (show KeepsOut s (execMulV d a b s) from keepsOut_binVec h ..) hs
  | mulhSV _ d a b => exact KeepsOut.sound (show KeepsOut s (execMulhSV d a b s) from keepsOut_binVec h ..) hs
  | mulhNV _ d a b => exact KeepsOut.sound (show KeepsOut s (execMulhNV d a b s) from keepsOut_binVec h ..) hs
  | andV _ d a b => exact KeepsOut.sound (show KeepsOut s (execAndV d a b s) from keepsOut_binVec h ..) hs
  | orV _ d a b => exact KeepsOut.sound (show KeepsOut s (execOrV d a b s) from keepsOut_binVec h ..) hs
  | xorV _ d a b => exact KeepsOut.sound (show KeepsOut s (execXorV d a b s) from keepsOut_binVec h ..) hs
  | shlV _ d a b => exact KeepsOut.sound (show KeepsOut s (execShlV d a b s) from keepsOut_binVec h ..) hs
  | shrV _ d a b => exact KeepsOut.sound (show KeepsOut s (execShrV d a b s) from keepsOut_binVec h ..) hs
  | sraV _ d a b => exact KeepsOut.sound (show KeepsOut s (execSraV d a b s) from keepsOut_binVec h ..) hs
  | minSV _ d a b => exact KeepsOut.sound (show KeepsOut s (execMinSV d a b s) from keepsOut_binVec h ..) hs
  | maxSV _ d a b => exact KeepsOut.sound (show KeepsOut s (execMaxSV d a b s) from keepsOut_binVec h ..) hs
  | minNV _ d a b => exact KeepsOut.sound (show KeepsOut s (execMinNV d a b s) from keepsOut_binVec h ..) hs
  | maxNV _ d a b => exact KeepsOut.sound (show KeepsOut s (execMaxNV d a b s) from keepsOut_binVec h ..) hs
  | absd _ d a b => exact KeepsOut.sound (show KeepsOut s (execAbsd d a b s) from keepsOut_binVec h ..) hs
  | addsS _ d a b => exact KeepsOut.sound (show KeepsOut s (execAddsS d a b s) from keepsOut_binVec h ..) hs
  | addsN _ d a b => exact KeepsOut.sound (show KeepsOut s (execAddsN d a b s) from keepsOut_binVec h ..) hs
  | subsS _ d a b => exact KeepsOut.sound (show KeepsOut s (execSubsS d a b s) from keepsOut_binVec h ..) hs
  | subsN _ d a b => exact KeepsOut.sound (show KeepsOut s (execSubsN d a b s) from keepsOut_binVec h ..) hs
  | avgN _ d a b => exact KeepsOut.sound (show KeepsOut s (execAvgN d a b s) from keepsOut_binVec h ..) hs
  | clzV _ d a => exact KeepsOut.sound (show KeepsOut s (execClzV d a s) from keepsOut_unVec h ..) hs
  | popcV _ d a => exact KeepsOut.sound (show KeepsOut s (execPopcV d a s) from keepsOut_unVec h ..) hs
  | brev _ d a => exact KeepsOut.sound (show KeepsOut s (execBrev d a s) from keepsOut_unVec h ..) hs
  | add64 _ d a b => exact KeepsOut.sound (show KeepsOut s (execAdd64 d a b s) from keepsOut_pairVec h ..) hs
  | sub64 _ d a b => exact KeepsOut.sound (show KeepsOut s (execSub64 d a b s) from keepsOut_pairVec h ..) hs
  | mulwS _ d a b => exact KeepsOut.sound (show KeepsOut s (execMulwS d a b s) from keepsOut_wideVec h ..) hs
  | mulwN _ d a b => exact KeepsOut.sound (show KeepsOut s (execMulwN d a b s) from keepsOut_wideVec h ..) hs
  | dot4S8 _ d a b => exact KeepsOut.sound (show KeepsOut s (execDot4S8 d a b s) from keepsOut_triVec h ..) hs
  | dot4N8 _ d a b => exact KeepsOut.sound (show KeepsOut s (execDot4N8 d a b s) from keepsOut_triVec h ..) hs
  | bfxV _ d a b => exact KeepsOut.sound (show KeepsOut s (execBfxV d a b s) from keepsOut_binVec h ..) hs
  | bfiV _ d a b => exact KeepsOut.sound (show KeepsOut s (execBfiV d a b s) from keepsOut_triVec h ..) hs
  | addiV _ d a imm => exact KeepsOut.sound (show KeepsOut s (execAddiV d a imm s) from keepsOut_immVec h ..) hs
  | andiV _ d a imm => exact KeepsOut.sound (show KeepsOut s (execAndiV d a imm s) from keepsOut_immVec h ..) hs
  | oriV _ d a imm => exact KeepsOut.sound (show KeepsOut s (execOriV d a imm s) from keepsOut_immVec h ..) hs
  | xoriV _ d a imm => exact KeepsOut.sound (show KeepsOut s (execXoriV d a imm s) from keepsOut_immVec h ..) hs
  | shliV _ d a imm => exact KeepsOut.sound (show KeepsOut s (execShliV d a imm s) from keepsOut_shiftVec h ..) hs
  | shriV _ d a imm => exact KeepsOut.sound (show KeepsOut s (execShriV d a imm s) from keepsOut_shiftVec h ..) hs
  | sraiV _ d a imm => exact KeepsOut.sound (show KeepsOut s (execSraiV d a imm s) from keepsOut_shiftVec h ..) hs
  | muli _ d a imm => exact KeepsOut.sound (show KeepsOut s (execMuli d a imm s) from keepsOut_immVec h ..) hs
  | faddF32 _ d a b => exact KeepsOut.sound (show KeepsOut s (execFaddF32 d a b s) from keepsOut_binFloat h ..) hs
  | faddH2 _ d a b => exact KeepsOut.sound (show KeepsOut s (execFaddH2 d a b s) from keepsOut_binFloat h ..) hs
  | faddB2 _ d a b => exact KeepsOut.sound (show KeepsOut s (execFaddB2 d a b s) from keepsOut_binFloat h ..) hs
  | fsubF32 _ d a b => exact KeepsOut.sound (show KeepsOut s (execFsubF32 d a b s) from keepsOut_binFloat h ..) hs
  | fsubH2 _ d a b => exact KeepsOut.sound (show KeepsOut s (execFsubH2 d a b s) from keepsOut_binFloat h ..) hs
  | fsubB2 _ d a b => exact KeepsOut.sound (show KeepsOut s (execFsubB2 d a b s) from keepsOut_binFloat h ..) hs
  | fmulF32 _ d a b => exact KeepsOut.sound (show KeepsOut s (execFmulF32 d a b s) from keepsOut_binFloat h ..) hs
  | fmulH2 _ d a b => exact KeepsOut.sound (show KeepsOut s (execFmulH2 d a b s) from keepsOut_binFloat h ..) hs
  | fmulB2 _ d a b => exact KeepsOut.sound (show KeepsOut s (execFmulB2 d a b s) from keepsOut_binFloat h ..) hs
  | fminF32 _ d a b => exact KeepsOut.sound (show KeepsOut s (execFminF32 d a b s) from keepsOut_binFloat h ..) hs
  | fminH2 _ d a b => exact KeepsOut.sound (show KeepsOut s (execFminH2 d a b s) from keepsOut_binFloat h ..) hs
  | fminB2 _ d a b => exact KeepsOut.sound (show KeepsOut s (execFminB2 d a b s) from keepsOut_binFloat h ..) hs
  | fmaxF32 _ d a b => exact KeepsOut.sound (show KeepsOut s (execFmaxF32 d a b s) from keepsOut_binFloat h ..) hs
  | fmaxH2 _ d a b => exact KeepsOut.sound (show KeepsOut s (execFmaxH2 d a b s) from keepsOut_binFloat h ..) hs
  | fmaxB2 _ d a b => exact KeepsOut.sound (show KeepsOut s (execFmaxB2 d a b s) from keepsOut_binFloat h ..) hs
  | ffmaF32 _ d a b => exact KeepsOut.sound (show KeepsOut s (execFfmaF32 d a b s) from keepsOut_fusedFloat h ..) hs
  | ffmaH2 _ d a b => exact KeepsOut.sound (show KeepsOut s (execFfmaH2 d a b s) from keepsOut_fusedFloat h ..) hs
  | ffmaB2 _ d a b => exact KeepsOut.sound (show KeepsOut s (execFfmaB2 d a b s) from keepsOut_fusedFloat h ..) hs
  | ffmsF32 _ d a b => exact KeepsOut.sound (show KeepsOut s (execFfmsF32 d a b s) from keepsOut_fusedFloat h ..) hs
  | ffmsH2 _ d a b => exact KeepsOut.sound (show KeepsOut s (execFfmsH2 d a b s) from keepsOut_fusedFloat h ..) hs
  | ffmsB2 _ d a b => exact KeepsOut.sound (show KeepsOut s (execFfmsB2 d a b s) from keepsOut_fusedFloat h ..) hs
  | fnmaF32 _ d a b => exact KeepsOut.sound (show KeepsOut s (execFnmaF32 d a b s) from keepsOut_fusedFloat h ..) hs
  | fnmaH2 _ d a b => exact KeepsOut.sound (show KeepsOut s (execFnmaH2 d a b s) from keepsOut_fusedFloat h ..) hs
  | fnmaB2 _ d a b => exact KeepsOut.sound (show KeepsOut s (execFnmaB2 d a b s) from keepsOut_fusedFloat h ..) hs
  | ffmawH _ d a b => exact KeepsOut.sound (show KeepsOut s (execFfmawH d a b s) from keepsOut_wideFloat h ..) hs
  | ffmawB _ d a b => exact KeepsOut.sound (show KeepsOut s (execFfmawB d a b s) from keepsOut_wideFloat h ..) hs
  | frcp _ d a t => exact KeepsOut.sound (show KeepsOut s (execFrcp d a t s) from keepsOut_unFloat h ..) hs
  | frsqrt _ d a t => exact KeepsOut.sound (show KeepsOut s (execFrsqrt d a t s) from keepsOut_unFloat h ..) hs
  | fsqrt _ d a t => exact KeepsOut.sound (show KeepsOut s (execFsqrt d a t s) from keepsOut_unFloat h ..) hs
  | fex2 _ d a t => exact KeepsOut.sound (show KeepsOut s (execFex2 d a t s) from keepsOut_unFloat h ..) hs
  | flg2 _ d a t => exact KeepsOut.sound (show KeepsOut s (execFlg2 d a t s) from keepsOut_unFloat h ..) hs
  | fsinp _ d a t => exact KeepsOut.sound (show KeepsOut s (execFsinp d a t s) from keepsOut_unFloat h ..) hs
  | fcosp _ d a t => exact KeepsOut.sound (show KeepsOut s (execFcosp d a t s) from keepsOut_unFloat h ..) hs
  | ftanh _ d a t => exact KeepsOut.sound (show KeepsOut s (execFtanh d a t s) from keepsOut_unFloat h ..) hs
  | ffrac _ d a t => exact KeepsOut.sound (show KeepsOut s (execFfrac d a t s) from keepsOut_unFloat h ..) hs
  | fclass _ d a t => exact KeepsOut.sound (show KeepsOut s (execFclass d a t s) from keepsOut_unFloat h ..) hs
  | cvt _ d a y z => exact KeepsOut.sound (show KeepsOut s (execCvt d a y z s) by unfold execCvt; exact keepsOut_laneWord h _ _ _) hs
  | cvtmfE _ d a b => exact KeepsOut.sound (show KeepsOut s (execCvtmfE d a b s) from keepsOut_mfWord h ..) hs
  | cvtmfD _ d a b => exact KeepsOut.sound (show KeepsOut s (execCvtmfD d a b s) from keepsOut_mfWord h ..) hs
  | pk2 _ d a b t => exact KeepsOut.sound (show KeepsOut s (execPk2 d a b t s) by unfold execPk2; exact keepsOut_laneWord h _ _ _) hs
  | upk _ d a y t => exact KeepsOut.sound (show KeepsOut s (execUpk d a y t s) by unfold execUpk; exact keepsOut_laneWord h _ _ _) hs
  | cmp _ p c a b t => exact KeepsOut.sound (show KeepsOut s (execCmp p c a b t s) by unfold execCmp; exact keepsOut_laneWord h _ _ _) hs
  | ftst _ p a b t => exact KeepsOut.sound (show KeepsOut s (execFtst p a b t s) by unfold execFtst; exact keepsOut_laneWord h _ _ _) hs
  | sel _ d a b p imm => exact KeepsOut.sound (show KeepsOut s (execSel d a b p imm s) by unfold execSel; exact keepsOut_laneWord h _ _ _) hs
  | plog _ d t a b => exact KeepsOut.sound (show KeepsOut s (execPlog d t a b s) by unfold execPlog; exact keepsOut_laneWord h _ _ _) hs
  | shflIdx _ d a b => exact KeepsOut.sound (show KeepsOut s (execShflIdx d a b s) from keepsOut_shuffle h ..) hs
  | shflUp _ d a b => exact KeepsOut.sound (show KeepsOut s (execShflUp d a b s) from keepsOut_shuffle h ..) hs
  | shflDn _ d a b => exact KeepsOut.sound (show KeepsOut s (execShflDn d a b s) from keepsOut_shuffle h ..) hs
  | shflXor _ d a b => exact KeepsOut.sound (show KeepsOut s (execShflXor d a b s) from keepsOut_shuffle h ..) hs
  | bcast _ d a b => exact KeepsOut.sound (show KeepsOut s (execBcast d a b s) from keepsOut_exchange h ..) hs
  | ballot _ d p => exact KeepsOut.sound (show KeepsOut s (execBallot d p s) from keepsOut_exchange h ..) hs
  | vrank _ d p => exact KeepsOut.sound (show KeepsOut s (execVrank d p s) from keepsOut_exchange h ..) hs
  | vcount _ d p => exact KeepsOut.sound (show KeepsOut s (execVcount d p s) from keepsOut_exchange h ..) hs
  | vany _ d p => exact KeepsOut.sound (show KeepsOut s (execVany d p s) from keepsOut_exchange h ..) hs
  | vall _ d p => exact KeepsOut.sound (show KeepsOut s (execVall d p s) from keepsOut_exchange h ..) hs
  | redadd _ d a t => exact KeepsOut.sound (show KeepsOut s (execRedadd d a t s) from keepsOut_foldWord h ..) hs
  | redmax _ d a t => exact KeepsOut.sound (show KeepsOut s (execRedmax d a t s) from keepsOut_foldWord h ..) hs
  | redmin _ d a t => exact KeepsOut.sound (show KeepsOut s (execRedmin d a t s) from keepsOut_foldWord h ..) hs
  | scanadd _ d a t => exact KeepsOut.sound (show KeepsOut s (execScanadd d a t s) from keepsOut_foldWord h ..) hs
  | mov _ d a => exact KeepsOut.sound (show KeepsOut s (execMov d a s) from keepsOut_unVec h ..) hs
  | movs _ d a => exact KeepsOut.sound (show KeepsOut s (execMovs d a s) from keepsOut_exchange h ..) hs
  | movi _ d imm => exact KeepsOut.sound (show KeepsOut s (execMovi d imm s) by unfold execMovi; exact keepsOut_laneWord h _ _ _) hs
  | rdlane _ d a b => exact KeepsOut.sound (show KeepsOut s (execRdlane d a b s) by
      unfold execRdlane; exact keepsOut_actWord h _ _ _ fun _ _ => keeps_modGroup h ..) hs
  | wrlane _ d a b => exact KeepsOut.sound (show KeepsOut s (execWrlane d a b s) from keepsOut_exchange h ..) hs
  | rdsp _ d => exact KeepsOut.sound (show KeepsOut s (execRdsp d s) from keepsOut_exchange h ..) hs
  | movp _ d p => exact KeepsOut.sound (show KeepsOut s (execMovp d p s) by unfold execMovp; exact keepsOut_laneWord h _ _ _) hs
  | setp _ d a => exact KeepsOut.sound (show KeepsOut s (execSetp d a s) by unfold execSetp; exact keepsOut_laneWord h _ _ _) hs
  | ld _ d k a t imm => exact KeepsOut.sound (show KeepsOut s (execLd d k a t imm s) by unfold execLd; exact keepsOut_laneAccess h ..) hs
  | st _ d k a t imm => exact KeepsOut.sound (show KeepsOut s (execSt d k a t imm s) by unfold execSt; exact keepsOut_laneAccess h ..) hs
  | atom _ d k a o c => exact KeepsOut.sound (show KeepsOut s (execAtom d k a o c s) from keepsOut_atomWord h ..) hs
  | atomx _ d k a o c => exact KeepsOut.sound (show KeepsOut s (execAtomx d k a o c s) from keepsOut_atomWord h ..) hs
  | atom64 _ d k a o c => exact KeepsOut.sound (show KeepsOut s (execAtom64 d k a o c s) from keepsOut_atomWord h ..) hs
  | atomx64 _ d k a o c => exact KeepsOut.sound (show KeepsOut s (execAtomx64 d k a o c s) from keepsOut_atomWord h ..) hs
  | fence => exact KeepsOut.sound (keepsOut_fence h ..) hs
  | barinit _ k a b => exact KeepsOut.sound (show KeepsOut s (execBarinit k a b s) by
      unfold execBarinit; exact keepsOut_actWord h _ _ _ fun _ _ => keeps_onceAccess h ..) hs
  | barr _ k a c n => exact KeepsOut.sound (show KeepsOut s (execBarr k a c n s) from keepsOut_arriveWord h ..) hs
  | barw _ k a b c => exact KeepsOut.sound (show KeepsOut s (execBarw k a b c s) from keepsOut_registerWord h ..) hs
  | bars _ k a c n => exact KeepsOut.sound (show KeepsOut s (execBars k a c n s) from keepsOut_arriveWord h ..) hs
  | waitw _ k a b => exact KeepsOut.sound (show KeepsOut s (execWaitw k a b s) from keepsOut_registerWord h ..) hs
  | kmov _ d k => exact KeepsOut.sound (show KeepsOut s (execKmov d k s) from keepsOut_capWord h ..) hs
  | kwin _ d k a b => exact KeepsOut.sound (show KeepsOut s (execKwin d k a b s) from keepsOut_capWord h ..) hs
  | krights _ d k a => exact KeepsOut.sound (show KeepsOut s (execKrights d k a s) from keepsOut_capWord h ..) hs
  | kld => exact KeepsOut.sound (keepsOut_kld h ..) hs
  | kst => exact KeepsOut.sound (keepsOut_kst h ..) hs
  | kget _ d k x => exact KeepsOut.sound (show KeepsOut s (execKget d k x s) from keepsOut_capWord h ..) hs
  | ktag _ d k => exact KeepsOut.sound (show KeepsOut s (execKtag d k s) from keepsOut_capWord h ..) hs
  | tcfg _ t a => exact KeepsOut.sound (show KeepsOut s (execTcfg t a s) by
      unfold execTcfg; exact keepsOut_matrixWord h _ fun _ _ => keeps_queueMatrix h ..) hs
  | acfg _ d a => exact KeepsOut.sound (show KeepsOut s (execAcfg d a s) by
      unfold execAcfg; exact keepsOut_matrixWord h _ fun _ _ => keeps_queueMatrix h ..) hs
  | tld _ t k a b p => exact KeepsOut.sound (show KeepsOut s (execTld t k a b p s) from keepsOut_tileMem h ..) hs
  | tst _ t k a b p => exact KeepsOut.sound (show KeepsOut s (execTst t k a b p s) from keepsOut_tileMem h ..) hs
  | mma => exact KeepsOut.sound (keepsOut_mma h ..) hs
  | mmb => exact KeepsOut.sound (keepsOut_mmb h ..) hs
  | azero _ d => exact KeepsOut.sound (show KeepsOut s (execAzero d s) by
      unfold execAzero; exact keepsOut_accWord h _ _ fun _ _ => keeps_queueMatrix h ..) hs
  | ard _ d v c => exact KeepsOut.sound (show KeepsOut s (execArd d v c s) by
      unfold execArd; exact keepsOut_accWord h _ _ fun _ _ => keeps_queueFlight h ..) hs
  | awr _ d v c => exact KeepsOut.sound (show KeepsOut s (execAwr d v c s) by
      unfold execAwr; exact keepsOut_accWord h _ _ fun _ _ => keeps_queueMatrix h ..) hs
  | acvt _ d c => exact KeepsOut.sound (show KeepsOut s (execAcvt d c s) by
      unfold execAcvt; exact keepsOut_accWord h _ _ fun _ _ => keeps_queueMatrix h ..) hs
  | cpyLin _ b => exact KeepsOut.sound (show KeepsOut s (execCpyLin b s) from keepsOut_copyWord h ..) hs
  | cpyTen _ b l => exact KeepsOut.sound (show KeepsOut s (execCpyTen b l s) from keepsOut_copyWord h ..) hs
  | cpyGat _ b => exact KeepsOut.sound (show KeepsOut s (execCpyGat b s) from keepsOut_copyWord h ..) hs
  | cpySct _ b => exact KeepsOut.sound (show KeepsOut s (execCpySct b s) from keepsOut_copyWord h ..) hs
  | cpyRed _ b r => exact KeepsOut.sound (show KeepsOut s (execCpyRed b r s) from keepsOut_copyWord h ..) hs
  | qfence => exact KeepsOut.sound (keepsOut_qfence h ..) hs
  | nop _ => exact KeepsOut.sound (show KeepsOut s (execNop s) by unfold execNop; exact keepsOut_actWord h _ _ _ fun _ _ => h) hs
  | setblk _ a b p => exact KeepsOut.sound (show KeepsOut s (execSetblk a b p s) by
      unfold execSetblk; exact keepsOut_actWord h _ _ _ fun _ _ => keeps_writeBlocks h ..) hs
  | setblkv => exact KeepsOut.sound (keepsOut_setblkv h ..) hs
  | vote _ => exact KeepsOut.sound (show KeepsOut s (execVote s) by
      unfold execVote; exact keepsOut_groupWord h _ _ _ fun g _ => keepsOut_next (keeps_vote h g)) hs
  | exit _ => exact KeepsOut.sound (show KeepsOut s (execExit s) by
      unfold execExit; exact keepsOut_actWord h _ _ _ fun _ _ => keeps_writeBlocks h ..) hs
  | fuse _ d site => exact KeepsOut.sound (show KeepsOut s (execFuse d site s) by
      unfold execFuse; exact keepsOut_actWord h _ _ _ fun _ _ => keeps_modGroup h ..) hs
  | trap _ c => exact KeepsOut.sound (show KeepsOut s (execTrap c s) by
      unfold execTrap; exact keepsOut_groupWord h _ _ _ fun _ _ => keepsOut_next (keeps_trapNow h ..)) hs
  | slot _ m => exact KeepsOut.sound (show KeepsOut s (execSlot m s) by
      unfold execSlot; exact keepsOut_groupWord h _ _ _ fun _ _ => keepsOut_next (keeps_modGroup h ..)) hs
  | grd _ p imm n => exact KeepsOut.sound (show KeepsOut s (execGrd p imm n s) by
      unfold execGrd; exact keepsOut_groupWord h _ _ _ fun _ _ => keepsOut_next (keeps_modGroup h ..)) hs
  | pfch => exact KeepsOut.sound (keepsOut_pfch h ..) hs
  | cach _ p => exact KeepsOut.sound (show KeepsOut s (execCach p s) by
      unfold execCach; exact keepsOut_groupWord h _ _ _ fun _ _ => keepsOut_next (keeps_modGroup h ..)) hs
  | hix _ p => exact KeepsOut.sound (show KeepsOut s (execHix p s) by
      unfold execHix; exact keepsOut_groupWord h _ _ _ fun _ _ => keepsOut_next (keeps_modGroup h ..)) hs
  | rdsr => exact KeepsOut.sound (keepsOut_rdsr h ..) hs
  | wrsr _ a e => exact KeepsOut.sound (show KeepsOut s (execWrsr a e s) by
      unfold execWrsr; exact keepsOut_actWord h _ _ _ fun _ _ => keeps_modCtx h ..) hs
  | setfmImm _ imm => exact KeepsOut.sound (show KeepsOut s (execSetfmImm imm s) by unfold execSetfmImm; exact keepsOut_laneWord h _ _ _) hs
  | setfmReg => exact KeepsOut.sound (keepsOut_setfmReg h ..) hs
  | brk => exact KeepsOut.sound (keepsOut_brk h ..) hs
  | sinv => exact KeepsOut.sound (keepsOut_sinv h ..) hs
  | launchFirstHalf => exact KeepsOut.sound (keepsOut_launchFirstHalf h ..) hs
  | launchSecondHalf => exact KeepsOut.sound (keepsOut_launchSecondHalf h ..) hs
  | launchSlotStatusWrite => exact KeepsOut.sound (keepsOut_launchSlotStatusWrite h ..) hs
  | mailboxStatusWrite => exact KeepsOut.sound (keepsOut_mailboxStatusWrite h ..) hs
  | registerWriteIgnored => exact KeepsOut.sound (keepsOut_registerWriteIgnored h ..) hs
  | ctxcreate => exact soundOut_ctxcreate hs
  | ctxdestroy => exact soundOut_ctxdestroy hs
  | recipeset => exact soundOut_recipeset hs
  | recipeImageWrite => exact KeepsOut.sound (keepsOut_recipeImageWrite h ..) hs
  | capmint => exact soundOut_capmint hs
  | otinv => exact soundOut_otinv hs
  | otinvComplete => exact KeepsOut.sound (keepsOut_otinvComplete h ..) hs
  | wdtset => exact soundOut_wdtset hs
  | codeload => exact soundOut_codeload hs
  | codeunload => exact soundOut_codeunload hs
  | codeUnmap => exact KeepsOut.sound (keepsOut_codeUnmap h ..) hs
  | codekey => exact soundOut_codekey hs
  | preempt => exact soundOut_preempt hs
  | preemptGated => exact KeepsOut.sound (keepsOut_preemptGated h ..) hs
  | rptake => exact soundOut_rptake hs
  | rpintset => exact soundOut_rpintset hs
  | recoveryPointTimer => exact KeepsOut.sound (keepsOut_recoveryPointTimer h ..) hs
  | wornthr => exact soundOut_wornthr hs
  | framepool => exact soundOut_framepool hs
  | evring => exact soundOut_evring hs
  | island => exact soundOut_island hs
  | railmap => exact soundOut_railmap hs
  | ident => exact soundOut_ident hs
  | attest => exact soundOut_attest hs
  | dbggrant => exact soundOut_dbggrant hs
  | dbgrevoke => exact soundOut_dbgrevoke hs
  | dbghalt => exact soundOut_dbghalt hs
  | dbgread => exact soundOut_dbgread hs
  | dbgwrite => exact soundOut_dbgwrite hs
  | dbgresume => exact soundOut_dbgresume hs
  | dbgstop => exact soundOut_dbgstop hs
  | preciseStop => exact KeepsOut.sound (keepsOut_preciseStop h ..) hs
  | dbgwatch => exact soundOut_dbgwatch hs
  | tracebuf => exact soundOut_tracebuf hs
  | profcfg => exact soundOut_profcfg hs
  | launchValidate => exact KeepsOut.sound (keepsOut_launchValidate h ..) hs
  | crewAdmit => exact KeepsOut.sound (keepsOut_crewAdmit h ..) hs
  | launchClassRise => exact KeepsOut.sound (keepsOut_launchClassRise h ..) hs
  | launchComplete => exact KeepsOut.sound (keepsOut_launchComplete h ..) hs
  | crewCommit => exact KeepsOut.sound (keepsOut_crewCommit h ..) hs
  | generalAgeSelect => exact KeepsOut.sound (keepsOut_generalAgeSelect h ..) hs
  | groupWake => exact KeepsOut.sound (keepsOut_groupWake h ..) hs
  | urgencyBit => exact KeepsOut.sound (keepsOut_urgencyBit h ..) hs
  | portAccess => exact KeepsOut.sound (keepsOut_execPortAccess h ..) hs
  | claimCheck => exact KeepsOut.sound (keepsOut_claimCheck h ..) hs
  | answerReturn => exact KeepsOut.sound (keepsOut_answerReturn h ..) hs
  | siblingStop => exact KeepsOut.sound (keepsOut_siblingStop h ..) hs
  | crewHaltEvent => exact KeepsOut.sound (keepsOut_crewHaltEvent h ..) hs
  | trapRecordWrite => exact KeepsOut.sound (keepsOut_trapRecordWrite h ..) hs
  | matrixEnginePerform => exact KeepsOut.sound (keepsOut_matrixEnginePerform h ..) hs
  | copyChunk => exact KeepsOut.sound (keepsOut_copyChunk h ..) hs
  | copyCompletion => exact KeepsOut.sound (keepsOut_copyCompletion h ..) hs
  | qfencePerform => exact KeepsOut.sound (keepsOut_qfencePerform h ..) hs
  | fenceComplete => exact KeepsOut.sound (keepsOut_fenceComplete h ..) hs
  | barrierArrival => exact KeepsOut.sound (keepsOut_barrierArrival h ..) hs
  | sinvComplete => exact KeepsOut.sound (keepsOut_sinvComplete h ..) hs
  | fuseResolve => exact KeepsOut.sound (keepsOut_fuseResolve h ..) hs
  | groupRetire => exact KeepsOut.sound (keepsOut_groupRetire h ..) hs
  | pageMigration => exact KeepsOut.sound (keepsOut_pageMigration h ..) hs
  | targetedReplay => exact KeepsOut.sound (keepsOut_targetedReplay h ..) hs
  | claimScrub => exact KeepsOut.sound (keepsOut_claimScrub h ..) hs
  | eventQueuePlaceFree => exact KeepsOut.sound (keepsOut_eventQueuePlaceFree h ..) hs
  | gwaitWake => exact KeepsOut.sound (keepsOut_gwaitWake h ..) hs
  | gwaitTimeout => exact KeepsOut.sound (keepsOut_gwaitTimeout h ..) hs
  | emitUnblock => exact KeepsOut.sound (keepsOut_emitUnblock h ..) hs
  | watchdogExpire => exact soundOut_watchdogExpire hs _
  | eventRingWrite => exact KeepsOut.sound (keepsOut_eventRingWrite h ..) hs
  | eventRingPoll => exact KeepsOut.sound (keepsOut_eventRingPoll h ..) hs
  | hostMemWrite => exact KeepsOut.sound (keepsOut_hostMemWrite h ..) hs
  | peerAccess => exact KeepsOut.sound (keepsOut_peerAccess h ..) hs
  | railPortDown => exact KeepsOut.sound (keepsOut_railPortDown h ..) hs
  | activationBackoff => exact KeepsOut.sound (keepsOut_activationBackoff h ..) hs
  | uncorrectableError => exact soundOut_uncorrectableError hs ..
  | correctedError => exact KeepsOut.sound (keepsOut_correctedError h ..) hs
  | thermalStep => exact soundOut_thermalStep hs ..
  | thermalCritical => exact soundOut_thermalCritical hs ..
  | thermalRecover => exact soundOut_thermalRecover hs ..
  | powerGood => exact KeepsOut.sound (keepsOut_powerGood h ..) hs
  | mailboxCommandWrite => exact soundOut_mailboxCommandWrite hs ..
  | recoveryPointCommit => exact soundOut_recoveryPointCommit hs
  | refreshHoldEnd => exact KeepsOut.sound (keepsOut_refreshHoldEnd h ..) hs
  | railPortUp => exact KeepsOut.sound (keepsOut_railPortUp h ..) hs

/-! ### A group issues, a thread fetches (R73, R268) -/

/-- A move of the device after which a sound state is sound. -/
def SoundAct (f : Act) : Prop := ∀ s : Machine.State, s.Sound = true → SoundOut (f s)

theorem KeepsOut.act {f : Act} (hf : ∀ s : Machine.State, KeepsOut s (f s)) : SoundAct f := fun s hs => (hf s).sound hs

section
variable (hs : s.Sound = true)
include hs

theorem soundOut_perform (g : Nat) (gr : Machine.Group) (w : Word) : SoundOut (s.perform g gr w) := by
  unfold State.perform
  split
  · exact soundOut_exec hs _
  · exact soundOut_next ((keeps_undef (keeps_countRefused (keeps_refl s) ..) ..).sound hs)

theorem soundOut_issue (g : Nat) : SoundOut (s.issue g) := by
  unfold State.issue
  split
  · exact soundOut_refused _
  · split
    · exact soundOut_next ((keeps_raiseNext (keeps_refl s) ..).sound hs)
    · split
      · exact soundOut_refused _
      next q gr1 _ =>
        refine soundOut_perform ?_ ..
        unfold State.begin
        dsimp only
        split <;> exact hs

theorem soundOut_performThread (t : Nat) (w : Word) : SoundOut (s.performThread t w) := by
  have h1 : (s.beginThread t w).Sound = true := hs
  unfold State.performThread
  dsimp only
  split
  · exact soundOut_exec h1 _
  · exact soundOut_next ((keeps_l2fault (keeps_refl _) ..).sound h1)

theorem soundOut_fetch (t : Nat) : SoundOut (s.fetch t) := by
  unfold State.fetch
  split
  · exact soundOut_refused _
  next th _ =>
    split
    · exact soundOut_refused _
    · split
      · exact soundOut_refused _
      next c _ =>
        split
        · exact soundOut_next (Keeps.sound (keeps_l2fault (keeps_refl (s.beginThread t 0)) ..) hs)
        · split
          · exact soundOut_next ((keeps_holdThread (keeps_refl s) ..).sound hs)
          · have h1 := keeps_portEntry (keeps_refl s) (portOf (threadCore t)) th.ctx c.arena 6 rX th.pc 4
            dsimp only
            split
            · split
              · exact soundOut_next ((keeps_holdThread h1 ..).sound hs)
              · split
                · exact soundOut_refused _
                · exact soundOut_performThread ((keeps_watchReport h1 ..).sound hs) ..
            · exact soundOut_next ((keeps_modThread (keeps_joinEntry h1 ..) ..).sound hs)
            · exact soundOut_fault _
            all_goals exact soundOut_next (Keeps.sound (keeps_l2fault (keeps_refl _) ..) (h1.sound hs))

end

/-! ### The moves that may be due -/

theorem soundAct_lampIssue (t : Nat) : SoundAct (lampIssue t) := by
  intro s hs
  unfold lampIssue
  split
  exacts [soundOut_fetch hs t, soundOut_refused _]

/-- What a step held by a refresh does when it goes on. -/
theorem soundAct_heldStep (i : HeldStep) : SoundAct i.act := by
  intro s hs
  cases i with
  | pageMigration n => exact (keepsOut_pageMigration (keeps_refl s) n).sound hs
  | launchValidate p n => exact (keepsOut_launchValidate (keeps_refl s) p n).sound hs
  | crewCommit n => exact (keepsOut_crewCommit (keeps_refl s) n).sound hs
  | capmint => exact soundOut_capmint hs
  | codeload => exact soundOut_codeload hs
  | codeUnmap c n => exact (keepsOut_codeUnmap (keeps_refl s) c n).sound hs
  | tracebuf => exact soundOut_tracebuf hs
  | dbgwatch => exact soundOut_dbgwatch hs

theorem soundAct_group {g : Nat} : ∀ f ∈ groupActs g, SoundAct f := by
  simp only [groupActs, List.forall_mem_cons, List.not_mem_nil, false_imp_iff, implies_true, and_true]
  exact ⟨fun s hs => (keepsOut_generalAgeSelect (keeps_refl s) g).sound hs, fun s hs => (keepsOut_trapRecordWrite (keeps_refl s) g).sound hs,
    fun s hs => (keepsOut_siblingStop (keeps_refl s) g).sound hs, fun s hs => (keepsOut_preciseStop (keeps_refl s) g).sound hs,
    fun s hs => (keepsOut_fenceComplete (keeps_refl s) g).sound hs, fun s hs => (keepsOut_sinvComplete (keeps_refl s) g).sound hs,
    fun s hs => (keepsOut_groupWake (keeps_refl s) g).sound hs, fun s hs => (keepsOut_groupRetire (keeps_refl s) g).sound hs⟩

theorem soundAct_fuse {gr : Machine.Group} : ∀ f ∈ fuseActs gr, SoundAct f := by
  intro f hf
  unfold fuseActs at hf
  split at hf
  · rw [List.mem_singleton.1 hf]
    exact fun s hs => (keepsOut_fuseResolve (keeps_refl s) ..).sound hs
  all_goals cases hf

theorem soundAct_access {n : Nat} : ∀ f ∈ accessActs n, SoundAct f := by
  simp only [accessActs, List.forall_mem_cons, List.not_mem_nil, false_imp_iff, implies_true, and_true]
  exact ⟨fun s hs => (keepsOut_execPortAccess (keeps_refl s) n).sound hs, fun s hs => (keepsOut_claimCheck (keeps_refl s) n).sound hs,
    fun s hs => (keepsOut_barrierArrival (keeps_refl s) n).sound hs, fun s hs => (keepsOut_answerReturn (keeps_refl s) n).sound hs,
    fun s hs => (keepsOut_urgencyBit (keeps_refl s) n).sound hs⟩

theorem soundAct_copy {n : Nat} : ∀ f ∈ copyActs n, SoundAct f := by
  simp only [copyActs, List.forall_mem_cons, List.not_mem_nil, false_imp_iff, implies_true, and_true]
  exact ⟨fun s hs => (keepsOut_copyChunk (keeps_refl s) n).sound hs, fun s hs => (keepsOut_copyCompletion (keeps_refl s) n).sound hs,
    fun s hs => (keepsOut_qfencePerform (keeps_refl s) n).sound hs⟩

theorem soundAct_thread {t : Nat} : ∀ f ∈ threadActs t, SoundAct f := by
  simp only [threadActs, List.forall_mem_cons, List.not_mem_nil, false_imp_iff, implies_true, and_true]
  exact ⟨soundAct_lampIssue t, fun s hs => (keepsOut_eventQueuePlaceFree (keeps_refl s) t).sound hs,
    fun s hs => (keepsOut_gwaitWake (keeps_refl s) t).sound hs, fun s hs => (keepsOut_gwaitTimeout (keeps_refl s) t).sound hs,
    fun s hs => (keepsOut_emitUnblock (keeps_refl s) t).sound hs, fun s hs => soundOut_watchdogExpire hs t,
    fun s hs => (keepsOut_launchValidate (keeps_refl s) false t).sound hs⟩

theorem soundAct_launch {n : Nat} : ∀ f ∈ launchActs n, SoundAct f := by
  simp only [launchActs, List.forall_mem_cons, List.not_mem_nil, false_imp_iff, implies_true, and_true]
  exact ⟨fun s hs => (keepsOut_crewAdmit (keeps_refl s) n).sound hs, fun s hs => (keepsOut_launchClassRise (keeps_refl s) n).sound hs,
    fun s hs => (keepsOut_launchComplete (keeps_refl s) n).sound hs, fun s hs => (keepsOut_crewCommit (keeps_refl s) n).sound hs⟩

theorem soundAct_ctx {n : Nat} {c : Machine.Context} : ∀ f ∈ ctxActs n c, SoundAct f := by
  intro f hf
  obtain rfl | hf := List.mem_cons.1 hf
  · exact fun s hs => (keepsOut_recipeImageWrite (keeps_refl s) n).sound hs
  · obtain ⟨x, -, rfl⟩ := List.mem_map.1 hf
    exact fun s hs => (keepsOut_codeUnmap (keeps_refl s) ..).sound hs

theorem soundAct_mail : ∀ f ∈ mailActs, SoundAct f := by
  simp only [mailActs, List.forall_mem_append, List.forall_mem_cons, List.not_mem_nil, false_imp_iff, implies_true, and_true]
  exact ⟨⟨⟨⟨fun _ => soundOut_ctxcreate, fun _ => soundOut_ctxdestroy, fun _ => soundOut_recipeset, fun _ => soundOut_capmint,
        fun _ => soundOut_otinv, fun s hs => (keepsOut_otinvComplete (keeps_refl s)).sound hs, fun _ => soundOut_wdtset, fun _ => soundOut_codeload⟩,
      fun _ => soundOut_codeunload, fun _ => soundOut_codekey, fun _ => soundOut_preempt, fun _ => soundOut_rptake, fun _ => soundOut_rpintset,
        fun _ => soundOut_wornthr, fun _ => soundOut_framepool, fun _ => soundOut_evring, fun _ => soundOut_island⟩,
    fun _ => soundOut_railmap, fun _ => soundOut_ident, fun _ => soundOut_attest, fun _ => soundOut_dbggrant, fun _ => soundOut_dbgrevoke,
      fun _ => soundOut_dbghalt, fun _ => soundOut_dbgread, fun _ => soundOut_dbgwrite, fun _ => soundOut_dbgresume⟩,
    fun _ => soundOut_dbgstop, fun _ => soundOut_dbgwatch, fun _ => soundOut_tracebuf, fun _ => soundOut_profcfg⟩

theorem soundAct_issue {r : Machine.State} : ∀ f ∈ r.issueActs, SoundAct f := by
  intro f hf
  obtain ⟨c, -, hf⟩ := List.mem_flatMap.1 hf
  obtain ⟨p, -, hf⟩ := List.mem_filterMap.1 hf
  obtain ⟨g, -, rfl⟩ := Option.map_eq_some_iff.1 hf
  exact fun s hs => soundOut_issue hs g

/-- What holds of every move made from an entry of a list holds of all those moves. -/
theorem forall_mem_map_of {α : Type} {l : List α} {f : α → Act} (hf : ∀ x, SoundAct (f x)) : ∀ y ∈ l.map f, SoundAct y := by
  intro y hy
  obtain ⟨x, -, rfl⟩ := List.mem_map.1 hy
  exact hf x

theorem forall_mem_flatMap_of {α : Type} {l : List α} {f : α → List Act} (hf : ∀ x, ∀ y ∈ f x, SoundAct y) : ∀ y ∈ l.flatMap f, SoundAct y := by
  intro y hy
  obtain ⟨x, -, hy⟩ := List.mem_flatMap.1 hy
  exact hf x y hy

theorem soundAct_acts {r : Machine.State} : ∀ f ∈ r.acts, SoundAct f := by
  simp only [State.acts, List.forall_mem_append]
  refine ⟨⟨⟨⟨⟨⟨⟨⟨⟨⟨⟨⟨⟨⟨⟨⟨⟨soundAct_issue, forall_mem_flatMap_of fun _ => soundAct_group⟩, forall_mem_flatMap_of fun _ => soundAct_access⟩,
    forall_mem_flatMap_of fun _ => soundAct_copy⟩, forall_mem_map_of fun c s hs => (keepsOut_matrixEnginePerform (keeps_refl s) c).sound hs⟩,
    forall_mem_map_of fun x s hs => (keepsOut_crewHaltEvent (keeps_refl s) x.1).sound hs⟩, forall_mem_flatMap_of fun x => ?_⟩,
    forall_mem_map_of fun x s hs => (keepsOut_performStore (keeps_refl s) x.1).sound hs⟩,
    forall_mem_map_of fun x s hs => (keepsOut_claimScrub (keeps_refl s) x.1).sound hs⟩, forall_mem_flatMap_of fun _ => soundAct_thread⟩,
    forall_mem_map_of fun x s hs => (keepsOut_launchValidate (keeps_refl s) true x.1).sound hs⟩, forall_mem_flatMap_of fun _ => soundAct_launch⟩,
    forall_mem_map_of fun x s hs => (keepsOut_preemptGated (keeps_refl s) x.1).sound hs⟩, forall_mem_flatMap_of fun _ => soundAct_ctx⟩, soundAct_mail⟩,
    ?_⟩, ?_⟩, forall_mem_map_of fun x s hs => (keepsOut_refreshHoldEnd (keeps_refl s) x.1 x.2).sound hs⟩
  · simp only [List.forall_mem_cons, List.not_mem_nil, false_imp_iff, implies_true, and_true]
    exact ⟨fun s hs => (keepsOut_pageMigration (keeps_refl s) x.1).sound hs, fun s hs => (keepsOut_targetedReplay (keeps_refl s) x.1).sound hs⟩
  · intro f hf
    split at hf
    · rw [List.mem_singleton.1 hf]
      exact fun _ => soundOut_badCommand
    · cases hf
  · simp only [List.forall_mem_cons, List.not_mem_nil, false_imp_iff, implies_true, and_true]
    exact ⟨fun s hs => (keepsOut_recoveryPointTimer (keeps_refl s)).sound hs, fun _ => soundOut_recoveryPointCommit,
      fun s hs => (keepsOut_eventRingWrite (keeps_refl s)).sound hs, fun s hs => (keepsOut_eventRingPoll (keeps_refl s)).sound hs⟩

theorem soundAct_due {r : Machine.State} : ∀ f ∈ r.due, SoundAct f := by
  intro f hf
  unfold State.due at hf
  split at hf
  · exact soundAct_acts f (List.mem_filter.1 hf).1
  · exact forall_mem_flatMap_of (fun x => soundAct_fuse) f (List.mem_filter.1 hf).1

/-! ### One move -/

section
variable (hs : s.Sound = true)
include hs

theorem soundOut_takeOne {fs : List Act} (hf : ∀ f ∈ fs, SoundAct f) : SoundOut (s.takeOne fs) := by
  unfold State.takeOne
  split
  · exact soundOut_next hs
  · exact hf _ List.mem_cons_self s hs
  next f r _ =>
    cases hi : (f :: r)[Config.choice s.tick % (r.length + 1)]? with
    | none => exact hf f List.mem_cons_self s hs
    | some x => exact hf x (List.mem_of_getElem? hi) s hs

theorem soundOut_takeFirst {fs : List Act} (hf : ∀ f ∈ fs, SoundAct f) : SoundOut (s.takeFirst fs) := by
  unfold State.takeFirst
  split
  · exact soundOut_next hs
  next f hx => exact hf f (List.mem_of_find?_eq_some hx) s hs

omit hs in
theorem soundOut_andThen {x : Out} {f : Act} (hx : SoundOut x) (hf : SoundAct f) : SoundOut (andThen x f) := by
  unfold andThen
  split
  · exact hf _ (hx.next _ rfl)
  · exact soundOut_fault _
  · exact soundOut_refused _

theorem soundOut_presentAccess (ref id : Nat) : SoundOut (s.presentAccess ref id) := by
  have h2 : ∀ f ∈ [execClaimCheck id, execBarrierArrival id], SoundAct f := fun f hf =>
    soundAct_access f (List.mem_cons_of_mem _ (List.mem_of_mem_take (i := 2) hf))
  have h3 : ∀ f ∈ [execPortAccess id, execClaimCheck id, execBarrierArrival id], SoundAct f := fun f hf =>
    soundAct_access f (List.mem_of_mem_take (i := 3) hf)
  have h1 := soundOut_takeFirst ((keeps_represent (keeps_refl s) ref (.access id)).sound hs) h3
  unfold State.presentAccess
  dsimp only
  split
  · exact soundOut_andThen h1 fun t ht => soundOut_takeFirst ht h2
  · exact h1

theorem soundOut_presentCopy (ref id : Nat) : SoundOut (s.presentCopy ref id) := by
  have h1 := (keeps_representCopy (keeps_refl s) ref id).sound hs
  unfold State.presentCopy
  dsimp only
  split
  · refine soundOut_andThen ((keepsOut_landElement (keeps_refl _) id).sound h1) fun t ht => soundOut_next ?_
    split
    · exact ht
    · split <;> exact ht
  · exact soundOut_takeFirst h1 fun f hf => soundAct_copy f (List.mem_of_mem_take (i := 2) hf)

theorem soundOut_presentThread (ref t : Nat) : SoundOut (s.presentThread ref t) := by
  have h1 := (keeps_represent (keeps_refl s) ref (.thread t)).sound hs
  unfold State.presentThread
  dsimp only
  split
  · exact soundOut_next h1
  · split
    · exact soundOut_andThen (soundOut_takeFirst h1 fun f hf => List.mem_singleton.1 hf ▸ fun _ hs => soundOut_fetch hs t) fun u hu => soundOut_next hu
    · exact soundOut_next h1

theorem soundOut_present (ref : Nat) (w : Waiter) : SoundOut (s.present ref w) := by
  cases w with
  | access id => exact soundOut_presentAccess hs ref id
  | command id => exact soundOut_presentCopy hs ref id
  | thread t => exact soundOut_presentThread hs ref t
  | station g => exact soundOut_next ((keeps_represent (keeps_refl s) ref _).sound hs)
  | outside x => exact (keepsOut_runAgain (keeps_refl s) x).sound hs
  | posted n => exact soundOut_takeFirst hs fun f hf => List.mem_singleton.1 hf ▸ fun s hs => (keepsOut_performStore (keeps_refl s) n).sound hs
  | step i => exact soundOut_takeFirst hs fun f hf => List.mem_singleton.1 hf ▸ soundAct_heldStep i

theorem soundOut_perform1 (m : Move) : SoundOut (s.perform1 m) := by
  cases m with
  | run i => exact soundOut_exec hs i
  | again x => exact (keepsOut_runAgain (keeps_refl s) x).sound hs
  | hostRead a n => exact (keepsOut_hostMemRead (keeps_refl s) a n).sound hs
  | present ref w => exact soundOut_present hs ref w
  | issue g => exact soundOut_issue hs g
  | fetch t => exact soundOut_fetch hs t
  | badCommand => exact soundOut_badCommand hs
  | idle => exact soundOut_next hs

theorem soundOut_runMove (m : Move) : SoundOut (s.runMove m) := by
  unfold State.runMove
  split
  · exact soundOut_next hs
  · split
    next t ht =>
      split
      · exact soundOut_next hs
      · exact soundOut_next ((soundOut_perform1 hs m).next t ht)
    · exact soundOut_fault _
    · exact soundOut_refused _

theorem soundOut_move : SoundOut s.move := by
  unfold State.move
  split
  · exact soundOut_fault _
  · split
    next m r _ =>
      refine soundOut_runMove ?_ m
      exact hs
    · split
      · exact soundOut_takeOne hs soundAct_due
      · exact (keepsOut_powerGood (keeps_refl s)).sound hs

theorem soundOut_step : SoundOut (step s) := by
  have h1 := soundOut_move hs
  refine ⟨fun t ht => ?_⟩
  unfold step after at ht
  split at ht
  next u hu =>
    cases ht
    exact h1.next u hu
  all_goals cases ht

end
end
end Sys2Proof.Claims.Kept

namespace Sys2Proof.Claims

/-- Settles O60: each instruction and each move of the device leaves memory, tags, islands, the mailbox and the recovery point as they were, or in
the form that the invariant asks. -/
theorem stepKeepsSound : Obligations.StepKeepsSound := by
  unfold Obligations.StepKeepsSound
  intro s t hs ht
  exact (Kept.soundOut_step hs).next t ht

end Sys2Proof.Claims

/-! What reaches the module from outside, and what the board does (R186, R431 to R445, R466): bring-up, host and peer writes, ports, the event
ring, refresh holds and temperature. -/
namespace Sys2Proof.Claims.Board
open Sys2Proof.Machine Sys2Proof.Claims.Kept
-- One proof at a time: the text is compiled as one file, whose memory parallel elaboration would exceed.
set_option Elab.async false

section
variable {s : Machine.State}

/-! ### Bring-up (R445) -/

/-- Cells below a bound taken out: nothing is found there, and above it what was found before. -/
theorem mget_from (lo a : Nat) (m : List Host.Cell) :
    mget (m.filter fun c => decide (lo ≤ c.1)) a = if lo ≤ a then mget m a else 0 := by
  induction m with
  | nil => exact (ite_self _).symm
  | cons c r ih =>
    obtain ⟨k, b⟩ := c
    rw [List.filter_cons]
    by_cases hk : lo ≤ k
    · rw [if_pos (decide_eq_true hk)]
      simp only [mget, ih]
      by_cases hka : k = a
      · rw [if_pos hka, if_pos hka, if_pos (hka ▸ hk)]
      · rw [if_neg hka, if_neg hka]
        by_cases ha : a < k
        · rw [if_pos ha, if_pos ha, ite_self]
        · rw [if_neg ha, if_neg ha]
    · rw [if_neg (by simpa using hk), ih]
      by_cases ha : lo ≤ a
      · rw [if_pos ha, if_pos ha, mget, if_neg (by omega), if_neg (by omega)]
      · rw [if_neg ha, if_neg ha]

theorem scrub_mem : (∀ a < hostBase, mget s.scrub.mem a = 0) ∧ ∀ a, hostBase ≤ a → mget s.scrub.mem a = mget s.mem a :=
  ⟨fun a ha => (mget_from hostBase a s.mem).trans (if_neg (Nat.not_le.2 ha)), fun a ha => (mget_from hostBase a s.mem).trans (if_pos ha)⟩

theorem failingStep_one : failingStep = 1 ↔ firmwareVerified = false := by
  unfold failingStep
  cases firmwareVerified with
  | false => simp
  | true =>
    simp only [Bool.not_true, Bool.false_eq_true, if_false, Bool.true_eq_false, iff_false]
    split <;> omega

/-- POWER_GOOD before READY, no step having failed before. -/
theorem powerGood_runs (hr : s.ready = false) (hf : s.bootFail = 0) : exec .powerGood s = .next (if failingStep = 0 then { s.scrub with ready := true }
    else { if 3 < failingStep then s.scrub else s with bootFail := BitVec.ofNat 8 failingStep }.raise 3) := by
  have he : exec .powerGood s = execPowerGood s := rfl
  rw [he, execPowerGood]
  simp only [hr, hf, bne_self_eq_false, Bool.or_self, Bool.false_eq_true, if_false]
  split <;> rfl

/-! ### Host writes (R186, R433) -/

theorem logHostWrite_toDev (a n : Nat) : (s.logHostWrite a n).toDev = s.toDev := by
  unfold State.logHostWrite
  dsimp only
  split
  · rfl
  · exact logOut_toDev ..

/-- A fold of steps that leave the device's contents leaves them. -/
theorem foldl_toDev {α : Type} {f : Machine.State → α → Machine.State} (hf : ∀ s x, (f s x).toDev = s.toDev) :
    ∀ (l : List α) (s : Machine.State), (l.foldl f s).toDev = s.toDev
  | [], _ => rfl
  | x :: l, s => (foldl_toDev hf l (f s x)).trans (hf s x)

theorem watchHost_toDev (a n : Nat) (w : Bool) : (s.watchHost a n w).toDev = s.toDev := by
  refine foldl_toDev (fun s x => ?_) _ _
  refine foldl_toDev (fun s y => ?_) _ _
  refine foldl_toDev (fun s z => ?_) _ _
  refine foldl_toDev (fun s o => ?_) _ _
  rfl

/-- A granule cleared among others holds no tag. -/
theorem tagAt_cleared {k : Nat} : ∀ (l : List Nat) {ts : List Nat}, k ∈ l ∨ tagAt ts k = false → tagAt (l.foldl tagClear ts) k = false
  | [], _, h => h.resolve_left List.not_mem_nil
  | g :: l, ts, h => by
    refine tagAt_cleared l ?_
    rw [List.mem_cons] at h
    obtain (rfl | h) | h := h
    · exact .inr (by rw [tagAt_tagClear, bne_self_eq_false, Bool.false_and])
    · exact .inl h
    · exact .inr (by rw [tagAt_tagClear, h, Bool.and_false])

theorem tagAt_memWrite {a k : Nat} {bs : List Byte} (hbs : bs ≠ []) (h1 : a / 16 ≤ k) (h2 : k ≤ (a + bs.length - 1) / 16) :
    tagAt (s.memWrite a bs).tags k = false := by
  refine tagAt_cleared (granules a bs.length) (.inl ?_)
  unfold granules
  rw [if_neg (fun h => hbs (List.eq_nil_of_length_eq_zero h)), Reduces.mem_upTo]
  omega

/-- A write of the host to the HDM range, no bank of which a refresh holds. -/
theorem hostMemWrite_runs {a : Nat} {bs : List Byte} (hbs : bs ≠ []) (ha : a + bs.length ≤ capBase)
    (hh : ∀ x, a ≤ x → x < a + bs.length → s.bankHeld x = false) :
    exec (.hostMemWrite a bs) s = .next (((s.memWrite a bs).logHostWrite a bs.length).watchHost a bs.length true) := by
  have hn : bs.length ≠ 0 := fun h => hbs (List.eq_nil_of_length_eq_zero h)
  have hb : (upTo a bs.length).findSome? s.heldBank = none := List.findSome?_eq_none_iff.2 fun x hx => by
    obtain ⟨h1, h2⟩ := Reduces.mem_upTo.1 hx
    exact Option.isNone_iff_eq_none.1 (by simpa [State.bankHeld] using hh x h1 h2)
  have hc : capBase ≤ hostBase := by decide
  have he : exec (.hostMemWrite a bs) s = execHostMemWrite a bs s := rfl
  rw [he, execHostMemWrite, if_neg hn, if_neg (by omega), if_neg (by omega), hb]

/-! ### Peers (R438, R439) -/

/-- The contexts are as they were once a peer's bytes are home. -/
theorem putBytes_ctxs (ctx : Nat) (fs : List (Nat × Byte)) : (s.putBytes ctx fs).ctxs = s.ctxs := by
  unfold State.putBytes
  induction movedRuns (fs.map fun (f, b) => ⟨some f, b, false⟩) generalizing s with
  | nil => rfl
  | cons x r ih =>
    obtain ⟨c, hc⟩ := Ports.runsWrite_toDev s ctx noCore [(x.at_, x.vals)]
    have h1 : (s.runsWrite ctx noCore [(x.at_, x.vals)]).ctxs = s.ctxs := (congrArg Dev.ctxs hc).trans rfl
    exact ih.trans h1

theorem peerAccess_unknown {v h o : Nat} {w : Bool} {bs : List Byte} (hbs : bs ≠ []) (hi : s.importOf v h = none) :
    exec (.peerAccess v h o w bs) s = .next s := by
  have he : exec (.peerAccess v h o w bs) s = execPeerAccess v h o w bs s := rfl
  rw [he, execPeerAccess]
  dsimp only
  rw [if_neg (fun h => hbs (List.eq_nil_of_length_eq_zero h)), hi]

theorem peerAccess_writes {v h o ctx k : Nat} {bs : List Byte} {c : Machine.Context} {e : Entry} {fs : List Nat} (hbs : bs ≠ [])
    (hi : s.importOf v h = some (ctx, k)) (hc : s.ctx? ctx = some c) (he : entryAt s.mem c k = some e)
    (hb : s.objectBank ctx k o bs.length = none) (hp : s.portEntry 0 ctx k e.kind 2 o bs.length = (s, some e))
    (hf : peerPlace s.mem e 2 o bs.length = .at_ fs) (hw : s.watchHits ctx k o bs.length true = []) :
    exec (.peerAccess v h o true bs) s = .next (s.putBytes ctx (fs.zip bs)) := by
  have hx : exec (.peerAccess v h o true bs) s = execPeerAccess v h o true bs s := rfl
  have hw' : (s.putBytes ctx (fs.zip bs)).watchHits ctx k o bs.length true = [] := by
    rw [← hw, State.watchHits, State.watchHits, State.ctx?, State.ctx?, putBytes_ctxs]
  have hr : (if true = true then rW else rR) = 2 := rfl
  rw [hx, execPeerAccess]
  dsimp only
  rw [if_neg (fun h => hbs (List.eq_nil_of_length_eq_zero h)), hi]
  dsimp only
  rw [hc]
  dsimp only
  rw [he]
  dsimp only
  rw [hb]
  dsimp only
  rw [hr, hp]
  dsimp only
  rw [hf]
  dsimp only
  rw [if_pos rfl, ThreadMem.watchReport_none hw']

/-! ### Rail ports (R439) -/

/-- Refusals of accesses keep memory and groups; an access that has its answer keeps it, and each of them has one. -/
theorem refuseAll_answers (l : List (Nat × Access)) : ∀ s : Machine.State,
    (l.foldl (fun s x => s.refuse x.1 x.2 9 1 9) s).mem = s.mem ∧ (l.foldl (fun s x => s.refuse x.1 x.2 9 1 9) s).groups = s.groups ∧
      ∀ n a, tget s.accs n = some a → (a.stage = .answered ∨ ∃ x ∈ l, x.1 = n) →
        ∃ y, tget (l.foldl (fun s x => s.refuse x.1 x.2 9 1 9) s).accs n = some y ∧ y.stage = .answered := by
  induction l with
  | nil => exact fun s => ⟨rfl, rfl, fun n a ha h => ⟨a, ha, h.resolve_right (by simp)⟩⟩
  | cons x l ih =>
    intro s
    obtain ⟨hm, hg, ha⟩ := ih (s.refuse x.1 x.2 9 1 9)
    refine ⟨hm, hg, fun n a hn h => ?_⟩
    have hx : tget (s.refuse x.1 x.2 9 1 9).accs n = if n = x.1 then _ else tget s.accs n := tget_tmod s.accs x.1 _ n
    by_cases hnx : n = x.1
    · subst hnx
      rw [if_pos rfl, hn] at hx
      exact ha x.1 _ hx (.inl rfl)
    · rw [if_neg hnx, hn] at hx
      refine ha n a hx (h.imp_right ?_)
      rintro ⟨y, hy, rfl⟩
      obtain rfl | hy := List.mem_cons.1 hy
      exacts [absurd rfl hnx, ⟨y, hy, rfl⟩]

/-- RAIL_PORT_DOWN of a port that is up. -/
theorem railPortDown_runs {p : Nat} (hp : p < 12) (hd : s.railDown.contains p = false) : exec (.railPortDown p) s = .next (
    let hit := s.accs.filter fun x => x.2.inFlight && x.2.kind == 5 && s.portTaken x.2 == some p
    let stores := s.posted.filter fun x => decide (peerBase ≤ x.2.flat) && s.railPort x.2.flat == some p
    let s1 := stores.foldl (fun s x => { s with posted := tdel s.posted x.1 }.refusePosted x.2) (hit.foldl (fun s x => s.refuse x.1 x.2 9 1 9) s)
    { s1 with railDown := insertNat s1.railDown p }) := by
  have he : exec (.railPortDown p) s = execRailPortDown p s := rfl
  rw [he, execRailPortDown]
  dsimp only
  rw [if_neg (by rw [hd]; simp; omega)]

/-! ### Refresh holds (R440) -/

/-- An entry put in a table is there; every other that was there under another key is; and no other. -/
theorem mem_tset {α : Type} {t : Tab α} {n k : Nat} {x y : α} : (k, y) ∈ tset t n x → (k, y) = (n, x) ∨ (k, y) ∈ t := by
  induction t with
  | nil => exact fun h => .inl (List.mem_singleton.1 h)
  | cons c r ih =>
    obtain ⟨j, z⟩ := c
    unfold tset
    split
    · exact fun h => List.mem_cons.1 h
    · split
      · exact fun h => (List.mem_cons.1 h).imp_right (List.mem_cons_of_mem _)
      · intro h
        obtain h | h := List.mem_cons.1 h
        · exact .inr (h ▸ List.mem_cons_self)
        · exact (ih h).imp_right (List.mem_cons_of_mem _)

theorem mem_tset_self {α : Type} (t : Tab α) (n : Nat) (x : α) : (n, x) ∈ tset t n x := by
  induction t with
  | nil => exact List.mem_singleton.2 rfl
  | cons c r ih =>
    obtain ⟨j, z⟩ := c
    unfold tset
    split
    · exact List.mem_cons_self
    · split
      · exact List.mem_cons_self
      · exact List.mem_cons_of_mem _ ih

theorem mem_tset_of_mem {α : Type} {t : Tab α} {n k : Nat} {x y : α} (h : (k, y) ∈ t) (hk : k ≠ n) : (k, y) ∈ tset t n x := by
  induction t with
  | nil => cases h
  | cons c r ih =>
    obtain ⟨j, z⟩ := c
    unfold tset
    split
    · exact List.mem_cons_of_mem _ h
    · split
      next hj =>
        obtain h | h := List.mem_cons.1 h
        · exact absurd ((Prod.mk.inj h).1.trans hj) hk
        · exact List.mem_cons_of_mem _ h
      next =>
        obtain h | h := List.mem_cons.1 h
        · exact h ▸ List.mem_cons_self
        · exact List.mem_cons_of_mem _ (ih h)

/-- Stores put one after another in a table that holds none of their numbers for anything else. -/
theorem mem_postedSets (l : List (Nat × Posted)) : ∀ {t : Tab Waiter}, (∀ x ∈ t, ∀ y ∈ l, x.1 = y.1 → x.2 = .posted y.1) → ∀ k w,
    ((k, w) ∈ l.foldl (fun t x => tset t x.1 (.posted x.1)) t ↔ (k, w) ∈ t ∨ (∃ x ∈ l, k = x.1) ∧ w = .posted k) := by
  induction l with
  | nil => exact fun _ k w => by simp
  | cons y l ih =>
    intro t ht k w
    have ht' : ∀ x ∈ tset t y.1 (.posted y.1), ∀ z ∈ l, x.1 = z.1 → x.2 = Waiter.posted z.1 := by
      intro x hx z hz hxz
      obtain h | h := mem_tset (k := x.1) (y := x.2) hx
      · rw [(Prod.mk.inj h).2, ← hxz, (Prod.mk.inj h).1]
      · exact ht x h z (List.mem_cons_of_mem _ hz) hxz
    rw [List.foldl_cons, ih ht' k w]
    constructor
    · rintro (h | ⟨⟨x, hx, rfl⟩, rfl⟩)
      · obtain h | h := mem_tset h
        · obtain ⟨rfl, rfl⟩ := Prod.mk.inj h
          exact .inr ⟨⟨y, List.mem_cons_self, rfl⟩, rfl⟩
        · exact .inl h
      · exact .inr ⟨⟨x, List.mem_cons_of_mem _ hx, rfl⟩, rfl⟩
    · rintro (h | ⟨⟨x, hx, rfl⟩, rfl⟩)
      · by_cases hk : k = y.1
        · have hw := ht (k, w) h y List.mem_cons_self hk
          left
          rw [show w = Waiter.posted y.1 from hw, hk]
          exact mem_tset_self ..
        · exact .inl (mem_tset_of_mem h hk)
      · obtain rfl | hx := List.mem_cons.1 hx
        · exact .inl (mem_tset_self ..)
        · exact .inr ⟨⟨x, hx, rfl⟩, rfl⟩

/-- What stood at a bank as its refresh began: the accesses at their homes there, and the stores admitted to it that do not wait behind it. -/
theorem mem_bankBefore (hs : ∀ x ∈ s.accs, ∀ y ∈ s.posted, x.1 ≠ y.1) (b : Nat × Nat) (x : Waiter) : (∃ k, (k, x) ∈ s.bankBefore b) ↔
    (∃ n a, (n, a) ∈ s.accs ∧ x = .access n ∧ s.holdsAt b a = true) ∨
      ∃ n q, (n, q) ∈ s.posted ∧ x = .posted n ∧ s.heldBank q.flat = some b ∧ s.inBank (.posted n) = false := by
  have hk (k : Nat) := mem_postedSets (s.posted.filter fun x => s.heldBank x.2.flat == some b && !s.inBank (.posted x.1))
    (t := (s.accs.filter fun x => s.holdsAt b x.2).map fun x => (x.1, .access x.1)) (by
      intro y hy z hz h
      obtain ⟨w, hw, rfl⟩ := List.mem_map.1 hy
      exact absurd h (hs w (List.mem_filter.1 hw).1 z (List.mem_filter.1 hz).1)) k x
  have hb : s.bankBefore b = (s.posted.filter fun x => s.heldBank x.2.flat == some b && !s.inBank (.posted x.1)).foldl
    (fun t x => tset t x.1 (.posted x.1)) ((s.accs.filter fun x => s.holdsAt b x.2).map fun x => (x.1, .access x.1)) := rfl
  rw [hb]
  constructor
  · rintro ⟨k, h⟩
    obtain h | ⟨⟨y, hy, rfl⟩, rfl⟩ := (hk k).1 h
    · obtain ⟨y, hy, h⟩ := List.mem_map.1 h
      obtain ⟨rfl, rfl⟩ := Prod.mk.inj h
      exact .inl ⟨y.1, y.2, (List.mem_filter.1 hy).1, rfl, (List.mem_filter.1 hy).2⟩
    · obtain ⟨hy, hq⟩ := List.mem_filter.1 hy
      rw [Bool.and_eq_true, beq_iff_eq, Bool.not_eq_true'] at hq
      exact .inr ⟨y.1, y.2, hy, rfl, hq⟩
  · rintro (⟨n, a, ha, rfl, hh⟩ | ⟨n, q, hq, rfl, h1, h2⟩)
    · exact ⟨n, (hk n).2 (.inl (List.mem_map.2 ⟨(n, a), List.mem_filter.2 ⟨ha, hh⟩, rfl⟩))⟩
    · exact ⟨n, (hk n).2 (.inr ⟨⟨(n, q), List.mem_filter.2 ⟨hq, by simp [h1, h2]⟩, rfl⟩, rfl⟩)⟩

/-! ### Temperature (R442) -/

/-- Islands lowered, each once: those of the list by one state, the others not. -/
theorem lowered_getElem (is : List Nat) : is.Nodup → ∀ (l : List Nat) (i : Nat),
    (is.foldl (fun l i => l.set i (lowerIsland ((l[i]?).getD 0))) l)[i]? = if i ∈ is then (l[i]?).map lowerIsland else l[i]? := by
  induction is with
  | nil => exact fun _ _ _ => (if_neg List.not_mem_nil).symm
  | cons j is ih =>
    intro hn l i
    obtain ⟨hj, hn⟩ := List.nodup_cons.1 hn
    rw [List.foldl_cons, ih hn, List.getElem?_set]
    by_cases hij : j = i
    · subst hij
      rw [if_neg hj, if_pos List.mem_cons_self, if_pos rfl]
      by_cases hl : j < l.length
      · rw [if_pos hl, List.getElem?_eq_getElem hl]
        rfl
      · rw [if_neg hl, List.getElem?_eq_none (Nat.not_lt.1 hl)]
        rfl
    · rw [if_neg hij]
      by_cases hi : i ∈ is
      · rw [if_pos hi, if_pos (List.mem_cons_of_mem _ hi)]
      · rw [if_neg hi, if_neg fun h => (List.mem_cons.1 h).elim (fun h => hij h.symm) hi]

theorem mem_islandsOf {d i : Nat} : i ∈ islandsOf d ↔ 6 * d ≤ i ∧ i < 6 * d + 6 := Reduces.mem_upTo

theorem nodup_islandsOf (d : Nat) : (islandsOf d).Nodup :=
  List.nodup_range.map fun _ _ h => Nat.add_right_cancel h

theorem thermalStep_lowers {d k : Nat} (hd : d < 4) (hk : 105 < k ∨ (s.hot.contains d = true ∧ 100 ≤ k)) : exec (.thermalStep d k) s =
    .next (({ s with hot := insertNat s.hot d }.lowerDie d).reportThermal d k false) := by
  have he : exec (.thermalStep d k) s = execThermalStep d k s := rfl
  rw [he, execThermalStep, if_neg (Nat.not_le.2 hd), if_pos hk]

theorem thermalStep_ends {d k : Nat} (hd : d < 4) (hh : s.hot.contains d = true) (hk : k < 100) : exec (.thermalStep d k) s =
    .next { s with hot := s.hot.filter fun x => x != d } := by
  have he : exec (.thermalStep d k) s = execThermalStep d k s := rfl
  rw [he, execThermalStep, if_neg (Nat.not_le.2 hd), if_neg (by omega), if_pos hh]

/-- A pre-emption raises no interrupt and reports nothing. -/
theorem preemptAll_reports (cores : List Nat) (hold : Bool) : (s.preemptAll cores hold).msix = s.msix ∧ (s.preemptAll cores hold).reports = s.reports := by
  unfold State.preemptAll
  induction s.ctxs.filter _ generalizing s with
  | nil => exact ⟨rfl, rfl⟩
  | cons x r ih =>
    obtain ⟨h1, h2⟩ := ih (s := s.orderPreempt x.1 cores hold [])
    have h3 : (s.orderPreempt x.1 cores hold []).msix = s.msix ∧ (s.orderPreempt x.1 cores hold []).reports = s.reports := by
      unfold State.orderPreempt
      dsimp only
      split <;> exact ⟨rfl, rfl⟩
    exact ⟨h1.trans h3.1, h2.trans h3.2⟩

theorem thermalCritical_runs {d k : Nat} (hd : d < 4) (hk : 115 < k) (hc : s.critical.contains d = false) : exec (.thermalCritical d k) s =
    .next ((({ s with critical := insertNat s.critical d, hot := insertNat s.hot d }.preemptAll allCores true).raise 3).reportThermal d k true) := by
  have he : exec (.thermalCritical d k) s = execThermalCritical d k s := rfl
  rw [he, execThermalCritical]
  dsimp only
  rw [if_neg (by rw [hc]; simp; omega)]

theorem thermalRecover_runs {d k : Nat} (hc : s.critical.contains d = true) (hk : k < 95) : exec (.thermalRecover d k) s =
    .next { s with critical := s.critical.filter (· != d), hot := s.hot.filter (· != d) }.resumeHeld := by
  have he : exec (.thermalRecover d k) s = execThermalRecover d k s := rfl
  rw [he, execThermalRecover, if_pos ⟨hc, hk⟩]

/-! ### The event ring (R466) -/

theorem eventRingWrite_runs {r : EvRing} {ws : List DWord} {q : List (List DWord)} (hr : s.ring = some r) (hq : s.reports = ws :: q)
    (hu : r.used < r.n) : exec .eventRingWrite s = .next (
      let s1 := s.memWrite (hostBase + r.rbase + 64 * (r.prod % r.n)) (bytesOf ws)
      let s2 := s1.memWrite (hostBase + r.cbase + 8) (leBytes ((r.prod + 1) % 2 ^ 32) 8)
      ({ s2 with ring := some { r with prod := (r.prod + 1) % 2 ^ 32 }, reports := q }.raise 2).takeHeld) := by
  have he : exec .eventRingWrite s = execEventRingWrite s := rfl
  rw [he, execEventRingWrite, hr, hq]
  exact if_pos hu

end
end Sys2Proof.Claims.Board

open Sys2Proof Sys2Proof.Claims Sys2Proof.Claims.Board

/-- Settles O53: bring-up, the host's and peers' accesses, ports, the event ring, refresh holds and temperature, each by what it leaves. -/
theorem boardSteps : Obligations.BoardSteps := by
  unfold Obligations.BoardSteps
  intro s
  refine ⟨fun hr hf => ⟨failingStep_one, fun h0 => ⟨_, (powerGood_runs hr hf).trans (congrArg Host.Outcome.next (if_pos h0)), scrub_mem, rfl⟩,
      fun h0 => ?_⟩, fun a bs hbs ha hh hw => ?_, fun v h x w bs hbs hi => peerAccess_unknown hbs hi,
    fun v h x bs ctx k c e fs hbs hi hc he hb hp hf _ hw => peerAccess_writes hbs hi hc he hb hp hf hw, fun p hp hd => ?_,
    fun p hp => if_pos hp, fun r ws q hr hq hl hu hw => ?_, fun r hr hq hu => ?_, fun c b hc => ?_, fun c b hc => ?_,
    fun hs b x => mem_bankBefore hs b x, fun d k hd hi hk => ?_, fun d k hd hh hk => thermalStep_ends hd hh hk, fun d k hd hk hc => ?_,
    fun d k hc hk => ⟨_, thermalRecover_runs hc hk, (Kept.keeps_resumeHeld (Kept.keeps_refl _)).critical⟩⟩
  · refine ⟨_, (powerGood_runs hr hf).trans (congrArg Host.Outcome.next (if_neg h0)), ?_⟩
    by_cases h3 : 3 < Machine.failingStep
    · rw [if_pos h3]
      exact ⟨hr, rfl, rfl, fun h => absurd h (Nat.not_le.2 h3), fun _ => ⟨scrub_mem, rfl, rfl⟩⟩
    · rw [if_neg h3]
      exact ⟨hr, rfl, rfl, fun _ => rfl, fun h => absurd h h3⟩
  · refine ⟨_, hostMemWrite_runs hbs ha hh, ?_⟩
    have hd := (watchHost_toDev (s := (s.memWrite a bs).logHostWrite a bs.length) a bs.length true).trans (logHostWrite_toDev ..)
    rw [congrArg Machine.Dev.mem hd, congrArg Machine.Dev.tags hd]
    exact ⟨Machine.mgets_memWrite s a bs hw, fun x hx => Machine.mget_memWrite_other s a bs hw hx, fun k h1 h2 => tagAt_memWrite hbs h1 h2⟩
  · refine ⟨_, railPortDown_runs hp hd, Recover.mem_insertNat_self .., fun hs => ?_⟩
    have hn : (s.posted.filter fun x => decide (Machine.peerBase ≤ x.2.flat) && s.railPort x.2.flat == some p) = [] :=
      List.filter_eq_nil_iff.2 fun x hx => by
        rw [Bool.and_eq_true, decide_eq_true_eq, beq_iff_eq]
        exact fun h => hs x hx h.1 h.2
    obtain ⟨hm, hg, ha⟩ := refuseAll_answers (s.accs.filter fun x => x.2.inFlight && x.2.kind == 5 && s.portTaken x.2 == some p) s
    rw [hn]
    refine ⟨hm, hg, fun n a hna hst hk hpt => ha n a hna (.inr ⟨(n, a), List.mem_filter.2 ⟨Waits.mem_of_tget hna, ?_⟩, rfl⟩)⟩
    have hin : a.inFlight = true := by
      unfold Machine.Access.inFlight
      obtain h | h := hst <;> rw [h]
    simp only [hin, hk, hpt, beq_self_eq_true, Bool.and_self]
  · refine ⟨_, eventRingWrite_runs hr hq hu, rfl, rfl, rfl, ?_⟩
    have h64 : (Machine.bytesOf ws).length = 64 := by rw [Mail.length_bytesOf, hl]
    have hw1 := Machine.memWf_mputs (Machine.bytesOf ws) (Machine.hostBase + r.rbase + 64 * (r.prod % r.n)) hw
    refine ⟨?_, fun hap => ?_, fun x h1 h2 => ?_⟩
    · exact (Machine.mnat_mputs _ _ 8 hw1).trans (Nat.mod_eq_of_lt (Nat.lt_of_lt_of_le (Nat.mod_lt _ (by decide)) (by decide)))
    · have h1 := Machine.mgets_mputs_same (Machine.bytesOf ws) (Machine.hostBase + r.rbase + 64 * (r.prod % r.n)) hw
      rw [h64] at h1
      exact (Machine.mgets_mputs_other _ _ hw1 64 _ (by rw [Machine.length_leBytes]; exact hap.symm)).trans h1
    · refine (Machine.mget_mputs_other _ _ hw1 ?_).trans (Machine.mget_mputs_other _ _ hw ?_)
      · rw [Machine.length_leBytes]; exact h2
      · rw [h64]; exact h1
  · have he : Machine.exec .eventRingPoll s = Machine.execEventRingPoll s := rfl
    have hd : s.ringPollDue = true := by
      unfold Machine.State.ringPollDue
      rw [hr]
      simp [hq, hu]
    rw [he, Machine.execEventRingPoll, hr]
    exact if_pos hd
  · have he : Machine.exec (.activationBackoff c b) s = Machine.execActivationBackoff c b s := rfl
    rw [he, Machine.execActivationBackoff, if_neg (show ¬ Machine.controllers ≤ c from Nat.not_le.2 hc)]
    simp only [Bool.not_eq_true']
    split <;> rfl
  · have he : Machine.exec (.refreshHoldEnd c b) s = Machine.execRefreshHoldEnd c b s := rfl
    rw [he, Machine.execRefreshHoldEnd]
    exact ⟨_, if_neg (by rw [hc]; exact Bool.false_ne_true), rfl, rfl, rfl, rfl, rfl⟩
  · refine ⟨_, thermalStep_lowers hd hk, rfl, List.length_append, Recover.mem_insertNat_self .., fun i h1 h2 x hx => ?_, fun i hi => ?_⟩
    · refine (lowered_getElem _ (nodup_islandsOf d) s.islands i).trans ?_
      rw [if_pos (mem_islandsOf.2 ⟨h1, h2⟩), hx]
      rfl
    · refine (lowered_getElem _ (nodup_islandsOf d) s.islands i).trans (if_neg fun h => ?_)
      have := mem_islandsOf.1 h
      omega
  · have hk1 := Kept.keeps_preemptAll (Kept.keeps_refl ({ s with critical := Machine.insertNat s.critical d, hot := Machine.insertNat s.hot d } : Machine.State))
      Machine.allCores true
    obtain ⟨hm, -, -⟩ := Setup.preemptAll_kept (s := { s with critical := Machine.insertNat s.critical d, hot := Machine.insertNat s.hot d })
      Machine.allCores true
    obtain ⟨hx, hr⟩ := preemptAll_reports (s := { s with critical := Machine.insertNat s.critical d, hot := Machine.insertNat s.hot d })
      Machine.allCores true
    refine ⟨_, thermalCritical_runs hd hk hc, hm, congrArg (3 :: ·) hx, List.length_append.trans (congrArg (·.length + 1) hr), ?_⟩
    have h1 : d ∈ Machine.insertNat s.critical d := Recover.mem_insertNat_self ..
    exact hk1.critical ▸ h1

/-! Commands on contexts and their code (R163, R166, R191, R193, R195, R221 to R224, R414, R419, R461, R469, R470). -/
namespace Sys2Proof.Claims.Contexts
open Sys2Proof.Machine Sys2Proof.Claims.Mail Sys2Proof.Claims.Setup Sys2Proof.Claims.Votes Sys2Proof.Claims.Ports Sys2Proof.Claims.Arrivals
  Sys2Proof.Claims.Fuses
-- One proof at a time: the text is compiled as one file, whose memory parallel elaboration would exceed.
set_option Elab.async false

variable {s : Machine.State} {ws : List DWord}

/-! ### Creation and destruction (R193, R469, R470) -/

/-- The context that CTXCREATE makes, with its arena's entry. -/
def created (s : Machine.State) (ws : List DWord) (e : Entry) : Machine.Context :=
  { newContext s.nextId (cmdWord ws 4) (cmdWord ws 5) (cmdWord ws 6) (capsOf (pay s ws) (cmdPlen ws / 16)) with fetchLen := e.olen }

theorem ctxcreate_runs {e : Entry} (h : Stands s 0x01 ws) (hc : s.ctx? (cmdCtx ws) = none) (h32 : cmdWord ws 4 % 32 = 0) (hlo : tableBase ≤ cmdWord ws 4)
    (hhi : cmdWord ws 4 + 32 * cmdWord ws 5 ≤ capBase) (h1 : 1 ≤ cmdWord ws 5) (h24 : cmdWord ws 5 ≤ 2 ^ 24) (h16 : cmdPlen ws % 16 = 0)
    (h256 : cmdPlen ws ≤ 256)
    (he : s.arenaOf (newContext s.nextId (cmdWord ws 4) (cmdWord ws 5) (cmdWord ws 6) (capsOf (pay s ws) (cmdPlen ws / 16))) = some e) :
    exec .ctxcreate s =
      .next ({ popped s with ctxs := tset s.ctxs (cmdCtx ws) (created s ws e), nextId := s.nextId + 1 }.answer ws 0 []) := by
  have hn : ((popped s).ctx? (cmdCtx ws)).isSome = false := Option.isSome_eq_false_iff.2 (Option.isNone_iff_eq_none.2 hc)
  have hok : ¬ (cmdWord ws 4 % 32 ≠ 0 ∨ cmdWord ws 4 < tableBase ∨ capBase < cmdWord ws 4 + 32 * cmdWord ws 5 ∨ cmdWord ws 5 < 1 ∨
      2 ^ 24 < cmdWord ws 5 ∨ cmdPlen ws % 16 ≠ 0 ∨ 256 < cmdPlen ws) := by omega
  have he' : (popped s).arenaOf (newContext (popped s).nextId (cmdWord ws 4) (cmdWord ws 5) (cmdWord ws 6)
      (capsOf ((popped s).payload ws) (cmdPlen ws / 16))) = some e := he
  refine (command_runs h).trans ?_
  simp only [hn, Bool.false_eq_true, if_false, if_neg hok, he']
  rfl

theorem ctxdestroy_runs (h : Stands s 0x02 ws) :
    exec .ctxdestroy s = .next (((popped s).killContext (cmdCtx ws)).waitMail ws [] []) := by
  have hd : s.destroyDue = none := waiting_none h.idle ..
  have he : exec .ctxdestroy s = execCtxdestroy s := rfl
  rw [execCtxdestroy, hd] at he
  exact he.trans (command_runs h)

theorem ctxdestroy_ends {q : PendCmd} (hq : s.destroyDue = some q) (hc : (s.ctx? (cmdCtx q.words)).isSome = true) :
    exec .ctxdestroy s = .next (((s.dropWait q).freeContext (cmdCtx q.words)).answer q.words 0 []) := by
  have hn : (s.ctx? (cmdCtx q.words)).isNone = false := by rw [← Option.not_isSome, hc]; rfl
  have he : exec .ctxdestroy s = execCtxdestroy s := rfl
  rw [execCtxdestroy, hq] at he
  simpa only [hn, Bool.false_eq_true, if_false] using he

/-! ### Images, capabilities and OTINV (R166, R191, R469) -/

theorem recipeset_runs (h : Stands s 0x03 ws) (hi : imageLegal (pay s ws) = true) :
    exec .recipeset s = .next { popped s with pending := s.pending ++ [⟨ws, pay s ws, []⟩] } :=
  (command_runs h).trans (congrArg Host.Outcome.next (if_pos hi))

theorem recipeImageWrite_runs {n : Nat} {q : PendCmd} (hq : s.recipeDue n = some q) : exec (.recipeImageWrite n) s =
    .next (((s.dropWait q).modCtx n fun c => { c with recipe := q.data }).answer q.words 0 []) := by
  show execRecipeImageWrite n s = _
  rw [execRecipeImageWrite, hq]

/-- CAPMINT in the state that it begins in, its own fields being right. -/
theorem capmint_command {e : Entry} (h : Stands s 0x04 ws) (h5 : cmdWord ws 5 % 16 = 0) (hn : cmdPlen ws % 16 = 0) (hlo : 16 ≤ cmdPlen ws)
    (hhi : cmdPlen ws ≤ 65536) (he : (popped s).mintEntry ws = some e) (hfit : cmdWord ws 5 + cmdPlen ws ≤ e.olen) :
    exec .capmint s = .next (if (List.range (cmdPlen ws / 16)).any fun i => match mintPlace s.mem e (cmdWord ws 5 + 16 * i) with
        | .denied _ | .noFrame _ | .window _ => true
        | .at_ _ | .elsewhere _ => false then (popped s).answer ws 1 [] else (popped s).mintFrom ws (pay s ws) 0) := by
  have hd : s.mintDue = none := waiting_none h.idle ..
  have hx : exec .capmint s = execCapmint s := rfl
  rw [execCapmint, hd] at hx
  have hok : ¬ (cmdWord ws 5 % 16 ≠ 0 ∨ cmdPlen ws % 16 ≠ 0 ∨ cmdPlen ws < 16 ∨ 65536 < cmdPlen ws) := by omega
  have hb := (hx.trans (bankCommand_goes h.idle h.head h.op .capmint (h.bank.1 (.inl rfl)) _)).trans (command_runs h)
  simp only [if_neg hok, he, if_neg (Nat.not_lt.2 hfit)] at hb
  exact hb

theorem capmint_runs {e : Entry} (h : Stands s 0x04 ws) (h5 : cmdWord ws 5 % 16 = 0) (hn : cmdPlen ws % 16 = 0) (hlo : 16 ≤ cmdPlen ws)
    (hhi : cmdPlen ws ≤ 65536) (he : (popped s).mintEntry ws = some e) (hfit : cmdWord ws 5 + cmdPlen ws ≤ e.olen)
    (hp : ∀ i < cmdPlen ws / 16, (∃ f, mintPlace s.mem e (cmdWord ws 5 + 16 * i) = .at_ f) ∨
      ∃ f, mintPlace s.mem e (cmdWord ws 5 + 16 * i) = .elsewhere f) :
    exec .capmint s = .next ((popped s).mintFrom ws (pay s ws) 0) := by
  refine (capmint_command h h5 hn hlo hhi he hfit).trans (congrArg Host.Outcome.next (if_neg ?_))
  rw [Bool.not_eq_true, List.any_eq_false]
  intro i hi
  rcases hp i (List.mem_range.1 hi) with ⟨f, hf⟩ | ⟨f, hf⟩ <;> rw [hf] <;> exact Bool.false_ne_true

/-- One granule that stands ready is written with its tag, and the result follows. -/
theorem mintFrom_one {e : Entry} {f : Nat} {bs : List Byte} (he : s.mintEntry ws = some e) (hn : cmdPlen ws = 16) (hl : bs.length = 16)
    (hp : mintPlace s.mem e (cmdWord ws 5) = .at_ f) (hb : s.mintBank e (cmdWord ws 5) = none) :
    s.mintFrom ws bs 0 = (s.memWriteTagged f bs true).answer ws 0 [] := by
  have ht : bs.take 16 = bs := List.take_of_length_le (Nat.le_of_eq hl)
  simp only [State.mintFrom, he, hn, Nat.reduceDiv, Nat.mul_zero, List.drop_zero, Nat.sub_zero, State.mint, Nat.add_zero, hb, hp, ht,
    Nat.zero_add, Nat.le_refl, if_true]

/-- OTINV names handles of a context. -/
def otinvHits (ws : List DWord) (x y : Nat) : Bool :=
  x == cmdCtx ws && decide (cmdWord ws 4 ≤ y ∧ y < cmdWord ws 4 + cmdWord ws 5)

theorem otinv_runs {c : Machine.Context} (h : Stands s 0x05 ws) (h1 : 1 ≤ cmdWord ws 5) (h24 : cmdWord ws 5 ≤ 2 ^ 24)
    (hc : s.ctx? (cmdCtx ws) = some c) (hn : cmdWord ws 4 + cmdWord ws 5 ≤ c.otn) : exec .otinv s =
      .next ({ popped s with otCache := s.otCache.filter fun x => !otinvHits ws x.ctx x.handle }.waitMail ws []
        ((popped s).admittedFor (otinvHits ws))) := by
  have hok : ¬ (cmdWord ws 5 < 1 ∨ 2 ^ 24 < cmdWord ws 5) := by omega
  have hc' : (popped s).ctx? (cmdCtx ws) = some c := hc
  refine (command_runs h).trans ?_
  simp only [if_neg hok, hc', if_neg (Nat.not_lt.2 hn)]
  rfl

theorem mem_otinv {x : OtCopy} : x ∈ (s.otCache.filter fun x => !otinvHits ws x.ctx x.handle) ↔
    x ∈ s.otCache ∧ ¬ (x.ctx = cmdCtx ws ∧ cmdWord ws 4 ≤ x.handle ∧ x.handle < cmdWord ws 4 + cmdWord ws 5) := by
  rw [List.mem_filter, otinvHits, Bool.not_eq_true', ← Bool.not_eq_true, Bool.and_eq_true, beq_iff_eq, decide_eq_true_eq]

theorem otinvComplete_runs {q : PendCmd} (hq : s.otinvDue = some q) : exec .otinvComplete s =
    .next (((s.dropWait q).dropContext (cmdCtx q.words)).answer q.words 0 []) := by
  show execOtinvComplete s = _
  rw [execOtinvComplete, hq]

/-! ### Code (R195, R414, R419, R461) -/

theorem loadDue_none (hi : Idle s) : s.loadDue = none := by rw [State.loadDue, waiting_none hi, Option.bind_none]

/-- CODELOAD at the head, with no command under way: carried out, or begun. -/
theorem codeload_command (hi : Idle s) (hh : s.mbox.head? = some ws) (ho : cmdOp ws = 0x10) : exec .codeload s = match (popped s).load ws with
    | .done t => .next t
    | .waits begun => .next ((begun.getD (popped s)).waitMail ws [] []) := by
  show execCodeload s = _
  rw [execCodeload, loadDue_none hi, ← ho, headIs_eq hi hh] <;> rfl

theorem codeload_done {t : Machine.State} (hi : Idle s) (hh : s.mbox.head? = some ws) (ho : cmdOp ws = 0x10) (hl : (popped s).load ws = .done t) :
    exec .codeload s = .next t := by rw [codeload_command hi hh ho, hl]

theorem codeunload_runs {c : Machine.Context} {o : CodeObj} (h : Stands s 0x11 ws) (hc : s.ctx? (cmdCtx ws) = some c)
    (ho : c.objs.find? (fun o => o.id == cmdWord ws 4 && o.unload.isNone) = some o) (hg : globalsUsed c o = false) : exec .codeunload s =
      .next ((popped s).modCtx (cmdCtx ws) fun c => { c with
        objs := c.objs.map fun x => if x.id = cmdWord ws 4 then { x with unload := some (cmdRaddr ws, cmdTag ws) } else x }) := by
  have hc' : (popped s).ctx? (cmdCtx ws) = some c := hc
  refine (command_runs h).trans ?_
  simp only [hc', ho, hg, Bool.false_eq_true, if_false]

theorem codeUnmap_runs {n id a t : Nat} (hd : s.unmapDue n id = some (a, t)) (hb : s.unmapBank n id = none) :
    exec (.codeUnmap n id) s = .next ((s.unload n id).mailResult a t 0 []) := by
  show execCodeUnmap n id s = _
  rw [execCodeUnmap, hd]
  simp only [hb]

theorem preempt_runs (h : Stands s 0x20 ws) : exec .preempt s =
    .next ((popped s).orderPreempt (cmdCtx ws) (coreMask (cmdWord ws 4) (cmdWord ws 5)) false [(cmdRaddr ws, cmdTag ws)]) := command_runs h

/-! ### Gating (R222 to R224) -/

/-- What a group holds that a pre-emption keeps. -/
def registers (gr : Machine.Group) := (gr.lanes, gr.s, gr.k, gr.rwcount)

/-- Every group is there with its registers. -/
def RegsKept (s t : Machine.State) : Prop := ∀ g, (t.group? g).map registers = (s.group? g).map registers

theorem RegsKept.trans {s t u : Machine.State} (h1 : RegsKept s t) (h2 : RegsKept t u) : RegsKept s u := fun g => (h2 g).trans (h1 g)

theorem RegsKept.group {t : Machine.State} (h : RegsKept s t) {g : Nat} {x : Machine.Group} (hx : s.group? g = some x) :
    ∃ y, t.group? g = some y ∧ y.lanes = x.lanes ∧ y.s = x.s ∧ y.k = x.k ∧ y.rwcount = x.rwcount := by
  have hg := h g
  rw [hx, Option.map_some, Option.map_eq_some_iff] at hg
  obtain ⟨y, hy, hr⟩ := hg
  simp only [registers, Prod.mk.injEq] at hr
  exact ⟨y, hy, hr⟩

/-- A change of groups that leaves registers alone. -/
theorem regsKept_tmap (s : Machine.State) (f : Nat → Machine.Group → Machine.Group) (hf : ∀ n gr, registers (f n gr) = registers gr) :
    RegsKept s { s with groups := tmap s.groups f } := fun g => by
  rw [State.group?, tget_tmap, Option.map_map, State.group?]
  exact congrArg (Option.map · _) (funext (hf g))

theorem registers_reeval (gr : Machine.Group) (m : List Host.Cell) (ws : List (Nat × List Byte)) : registers (gr.reeval m ws) = registers gr := by
  rw [reeval_met]; rfl

theorem regsKept_memPuts (s : Machine.State) (ws : List (Nat × List Byte)) : RegsKept s (s.memPuts ws) :=
  regsKept_tmap s _ fun _ gr => registers_reeval gr _ ws

theorem regsKept_release (s : Machine.State) (g : Nat) : RegsKept s (s.release g) := fun k => by
  rw [release_group]
  split
  next h =>
    subst h
    rw [Option.map_map]
    rfl
  next => rfl

/-- Stores of threads have been settled: what stays as it was, each group with its registers. -/
structure Drains (s t : Machine.State) : Prop where
  threads : t.threads = s.threads
  msix    : t.msix = s.msix
  down    : t.railDown = s.railDown
  routes  : t.routes = s.routes
  groups  : RegsKept s t

theorem Drains.trans {s t u : Machine.State} (h1 : Drains s t) (h2 : Drains t u) : Drains s u :=
  ⟨h2.threads.trans h1.threads, h2.msix.trans h1.msix, h2.down.trans h1.down, h2.routes.trans h1.routes, h1.groups.trans h2.groups⟩

theorem Drains.peerDown {t : Machine.State} (h : Drains s t) (f : Nat) : t.peerDown f = s.peerDown f := by
  simp only [State.peerDown, State.railPort, State.portsUp, h.routes, h.down]

theorem logOut_log (s : Machine.State) (c a n : Nat) : ∃ l o, s.logOut c a n = { s with outLog := l, outOver := o } := by
  unfold State.logOut
  dsimp only
  split
  · exact ⟨s.outLog, s.outOver, rfl⟩
  · split
    · exact ⟨_, s.outOver, rfl⟩
    · split
      · exact ⟨_, s.outOver, rfl⟩
      · exact ⟨s.outLog, true, rfl⟩

theorem logOuts_log (c : Nat) (ws : List (Nat × List Byte)) : ∀ s : Machine.State,
    ∃ l o, ws.foldl (fun s x => s.logOut c x.1 x.2.length) s = { s with outLog := l, outOver := o } := by
  induction ws with
  | nil => exact fun s => ⟨s.outLog, s.outOver, rfl⟩
  | cons w ws ih =>
    intro s
    obtain ⟨l, o, h⟩ := logOut_log s c w.1 w.2.length
    obtain ⟨l', o', h'⟩ := ih (s.logOut c w.1 w.2.length)
    exact ⟨l', o', h'.trans (by rw [h])⟩

/-- A write of runs settles nothing else, and admits no store. -/
theorem drains_runsWrite (s : Machine.State) (c k : Nat) (ws : List (Nat × List Byte)) :
    Drains s (s.runsWrite c k ws) ∧ (s.runsWrite c k ws).posted = s.posted := by
  obtain ⟨r, hr⟩ := dropRuns_eq k ws s
  obtain ⟨l, o, h⟩ := logOuts_log c ws ((s.dropRuns k ws).memPuts ws)
  rw [State.runsWrite, h, hr]
  exact ⟨⟨rfl, rfl, rfl, rfl, regsKept_memPuts { s with rcache := r } ws⟩, rfl⟩

theorem drains_settlePosted (p : Posted) (hp : s.peerDown p.flat = false) :
    Drains s (s.settlePosted p) ∧ (s.settlePosted p).posted = s.posted := by
  obtain ⟨hd, ho⟩ := drains_runsWrite s p.ctx p.core [(p.flat, leBytes p.value p.size)]
  unfold State.settlePosted
  rw [if_neg (by rw [hp]; exact Bool.false_ne_true)]
  dsimp only
  split
  · exact ⟨⟨hd.threads, hd.msix, hd.down, hd.routes, hd.groups⟩, ho⟩
  · exact ⟨hd, ho⟩

theorem drains_settles (l : List (Nat × Posted)) : ∀ {s : Machine.State}, (∀ x ∈ l, s.peerDown x.2.flat = false) →
    Drains s (l.foldl (fun s x => s.settlePosted x.2) s) ∧ (l.foldl (fun s x => s.settlePosted x.2) s).posted = s.posted := by
  induction l with
  | nil => exact fun _ => ⟨⟨rfl, rfl, rfl, rfl, fun _ => rfl⟩, rfl⟩
  | cons x l ih =>
    intro s h
    obtain ⟨hd, ho⟩ := drains_settlePosted x.2 (h x (List.mem_cons_self ..))
    obtain ⟨hd', ho'⟩ := ih (s := s.settlePosted x.2) fun y hy => (hd.peerDown _).trans (h y (List.mem_cons_of_mem _ hy))
    exact ⟨hd.trans hd', ho'.trans ho⟩

/-- The stores that a test picks are settled, and no other: none of them is left. -/
theorem drains_settleAll (f : Posted → Bool) (h : ∀ x ∈ s.posted, s.peerDown x.2.flat = false) :
    Drains s (s.settleAll f) ∧ (s.settleAll f).posted = s.posted.filter fun x => !f x.2 := by
  obtain ⟨hd, ho⟩ := drains_settles (s.posted.filter fun x => f x.2) (s := { s with posted := s.posted.filter fun x => !f x.2 })
    fun x hx => h x (List.mem_filter.1 hx).1
  exact ⟨⟨hd.threads, hd.msix, hd.down, hd.routes, hd.groups⟩, ho⟩

theorem drains_threads (ts : List Nat) : ∀ {s : Machine.State}, (∀ x ∈ s.posted, s.peerDown x.2.flat = false) →
    Drains s (s.drainThreads ts) ∧ (∀ x ∈ (s.drainThreads ts).posted, x ∈ s.posted) ∧
      ∀ k ∈ ts, ∀ th, s.thread? k = some th → ∀ x ∈ (s.drainThreads ts).posted, ¬ (x.2.core = threadCore k ∧ x.2.ctx = th.ctx) := by
  induction ts with
  | nil => exact fun _ => ⟨⟨rfl, rfl, rfl, rfl, fun _ => rfl⟩, fun _ hx => hx, fun _ hk => nomatch hk⟩
  | cons k ts ih =>
    intro s h
    have hstep : ∃ u : Machine.State, (s.drainThreads (k :: ts) = u.drainThreads ts) ∧ Drains s u ∧ (∀ x ∈ u.posted, x ∈ s.posted) ∧
        ∀ th, s.thread? k = some th → ∀ x ∈ u.posted, ¬ (x.2.core = threadCore k ∧ x.2.ctx = th.ctx) := by
      cases hk : s.thread? k with
      | none => exact ⟨s, by simp only [State.drainThreads, List.foldl_cons, hk], ⟨rfl, rfl, rfl, rfl, fun _ => rfl⟩, fun _ hx => hx, fun _ he => nomatch he⟩
      | some th =>
        obtain ⟨hd, ho⟩ := drains_settleAll (fun p => p.isOf (threadCore k) th.ctx) h
        refine ⟨s.drainPosted (threadCore k) th.ctx, by simp only [State.drainThreads, List.foldl_cons, hk], hd,
          fun x hx => (List.mem_filter.1 (ho ▸ hx)).1, fun th' he x hx hc => ?_⟩
        cases he
        have hf := (List.mem_filter.1 (ho ▸ hx)).2
        rw [Posted.isOf, hc.1, hc.2, beq_self_eq_true, beq_self_eq_true] at hf
        exact Bool.false_ne_true hf
    obtain ⟨u, he, hd, hsub, hout⟩ := hstep
    obtain ⟨hd', hsub', hout'⟩ := ih (s := u) fun x hx => (hd.peerDown _).trans (h x (hsub x hx))
    rw [he]
    refine ⟨hd.trans hd', fun x hx => hsub x (hsub' x hx), fun j hj th hth x hx => ?_⟩
    rcases List.mem_cons.1 hj with rfl | hj
    · exact hout th hth x (hsub' x hx)
    · exact hout' j hj th ((congrArg (tget · j) hd.threads).trans hth) x hx

/-- With no store admitted, threads have nothing to drain. -/
theorem drainThreads_none (hp : s.posted = []) (ts : List Nat) : s.drainThreads ts = s := by
  induction ts with
  | nil => rfl
  | cons k ts ih =>
    have h1 : ∀ c n, s.drainPosted c n = s := fun c n => ThreadMem.settleAll_alone fun x hx => absurd (hp ▸ hx) (List.not_mem_nil)
    cases hk : s.thread? k with
    | none => simpa only [State.drainThreads, List.foldl_cons, hk] using ih
    | some th => simpa only [State.drainThreads, List.foldl_cons, hk, h1] using ih

/-- Releases of groups keep every group's registers, memory, vectors and admitted stores. -/
theorem releases_kept (l : List Nat) : ∀ s : Machine.State, RegsKept s (l.foldl (fun s g => s.release g) s) ∧
    (l.foldl (fun s g => s.release g) s).mem = s.mem ∧ (l.foldl (fun s g => s.release g) s).msix = s.msix ∧
    (l.foldl (fun s g => s.release g) s).posted = s.posted := by
  induction l with
  | nil => exact fun _ => ⟨fun _ => rfl, rfl, rfl, rfl⟩
  | cons g l ih =>
    intro s
    obtain ⟨h1, h2, h3, h4⟩ := ih (s.release g)
    have hx : (s.release g).msix = s.msix ∧ (s.release g).posted = s.posted := by rw [State.release_eq]; exact ⟨rfl, rfl⟩
    exact ⟨(regsKept_release s g).trans h1, h2.trans (State.release_mem s g), h3.trans hx.1, h4.trans hx.2⟩

/-- The victims' clocks are gated: what stays of groups, memory, vectors and admitted stores once the threads' are drained. -/
theorem gateVictims_kept (p : Preempt) : RegsKept (s.drainThreads p.threads) (s.gateVictims p) ∧
    (s.gateVictims p).mem = (s.drainThreads p.threads).mem ∧ (s.gateVictims p).msix = (s.drainThreads p.threads).msix ∧
    (s.gateVictims p).posted = (s.drainThreads p.threads).posted := by
  unfold State.gateVictims
  extract_lets gs s0 s1
  obtain ⟨h1, h2, h3, h4⟩ := releases_kept gs s1
  exact ⟨RegsKept.trans (regsKept_tmap s0 (fun g gr => if gs.contains g then { gr with late := s0.arenaStores gr.ctx } else gr)
    fun _ _ => by split <;> rfl) h1, h2, h3, h4⟩

theorem RegsKept.raise {t : Machine.State} (h : RegsKept s t) (v : Nat) : RegsKept s (t.raise v) := h

theorem regsKept_mailResult (s : Machine.State) (a t st : Nat) (r : List DWord) : RegsKept s (s.mailResult a t st r) := by
  unfold State.mailResult
  generalize bytesOf _ = bs
  exact (regsKept_memPuts s [(hostBase + a, bs)]).raise 1

theorem mailResult_posted (s : Machine.State) (a t st : Nat) (r : List DWord) : (s.mailResult a t st r).posted = s.posted := by
  rw [State.mailResult, State.raise_posted, State.memWrite_posted]

/-- Results of commands leave every group's registers and admitted stores. -/
theorem mailResults_kept (rs : List (Nat × Nat)) : ∀ s : Machine.State, RegsKept s (rs.foldl (fun s x => s.mailResult x.1 x.2 0 []) s) ∧
    (rs.foldl (fun s x => s.mailResult x.1 x.2 0 []) s).posted = s.posted := by
  induction rs with
  | nil => exact fun _ => ⟨fun _ => rfl, rfl⟩
  | cons r rs ih =>
    intro s
    obtain ⟨h1, h2⟩ := ih (s.mailResult r.1 r.2 0 [])
    rw [List.foldl_cons]
    exact ⟨(regsKept_mailResult s r.1 r.2 0 []).trans h1, h2.trans (mailResult_posted ..)⟩

/-- The order that a gating leaves. -/
def gated (s : Machine.State) (k : Nat) (p : Preempt) : Machine.State :=
  { s.gateVictims p with preempts := if p.crews.isEmpty && !p.hold then tdel (s.gateVictims p).preempts k
                                     else tset (s.gateVictims p).preempts k { p with gated := true, results := [] } }

theorem preemptGated_runs {k : Nat} {p : Preempt} (hp : tget s.preempts k = some p) (hd : s.gatingDue p = true) :
    exec (.preemptGated k) s = .next (p.results.foldl (fun s x => s.mailResult x.1 x.2 0 []) (gated s k p)) := by
  show execPreemptGated k s = _
  simp only [execPreemptGated, hp, hd, if_true]
  rfl

theorem preemptGated_kept {k : Nat} {p : Preempt} (hx : ∀ x ∈ s.posted, s.peerDown x.2.flat = false) :
    let t := p.results.foldl (fun s x => s.mailResult x.1 x.2 0 []) (gated s k p)
    (∀ g x, s.group? g = some x → ∃ y, t.group? g = some y ∧ y.lanes = x.lanes ∧ y.s = x.s ∧ y.k = x.k ∧ y.rwcount = x.rwcount) ∧
    (p.results = [] → t.msix = s.msix ∧ (s.posted = [] → t.mem = s.mem)) ∧
    ∀ k ∈ p.threads, ∀ th, s.thread? k = some th → ∀ x ∈ t.posted, ¬ (x.2.core = threadCore k ∧ x.2.ctx = th.ctx) := by
  intro t
  obtain ⟨hd, -, hout⟩ := drains_threads p.threads hx
  obtain ⟨hg, hm, hv, ho⟩ := gateVictims_kept (s := s) p
  obtain ⟨hr, hro⟩ := mailResults_kept p.results (gated s k p)
  refine ⟨fun g x h => ((hd.groups.trans hg).trans hr).group h, fun he => ?_, fun j hj th hth x hxt => hout j hj th hth x ?_⟩
  · have ht : t = gated s k p := by rw [show t = p.results.foldl _ _ from rfl, he]; rfl
    rw [ht]
    exact ⟨hv.trans hd.msix, fun h => hm.trans (by rw [drainThreads_none h])⟩
  · rw [← ho]
    exact hro ▸ hxt

end Sys2Proof.Claims.Contexts

open Sys2Proof Sys2Proof.Claims Sys2Proof.Claims.Contexts

/-- Settles O50: a command passes its checks and is carried out or waits, and a step ends it once it is due; gating drains the
threads' stores, of which none finds its peer's port down, and leaves every group's registers. -/
theorem contextCommands : Obligations.ContextCommands := by
  intro s ws takes p w n pay ctx
  refine ⟨fun e h hc h32 hlo hhi h1 h24 h16 h256 he => ?_, fun h => ⟨_, ctxdestroy_runs h, rfl, rfl⟩, fun q => ctxdestroy_ends, recipeset_runs,
    fun q => recipeImageWrite_runs, fun e h h5 hn hlo hhi he hfit hp => ⟨capmint_runs h h5 hn hlo hhi he hfit hp, fun f h16 hf hb => ?_⟩,
    fun c h h1 h24 hc hn => ⟨_, otinv_runs h h1 h24 hc hn, rfl, List.length_append .., fun _ => mem_otinv⟩, fun q => otinvComplete_runs,
    fun t => codeload_done, fun c o => codeunload_runs, fun id a t => codeUnmap_runs, preempt_runs,
    fun k o hk hd => ⟨_, preemptGated_runs hk hd, preemptGated_kept⟩⟩
  · refine ⟨_, created s ws e, ctxcreate_runs h hc h32 hlo hhi h1 h24 h16 h256 he, ?_, rfl, rfl, rfl, rfl, rfl, rfl, rfl, rfl, rfl, rfl⟩
    exact Machine.tget_tset_same ..
  · refine (capmint_runs h h5 hn hlo hhi he hfit hp).trans (congrArg Host.Outcome.next ?_)
    exact mintFrom_one he h16 ((Machine.length_mgets ..).trans h16) hf hb

/-! Every step without an encoding completes once it is due (spec/95): a host's write, a command that the device can carry out, and each
step of the device. -/
namespace Sys2Proof.Claims.Completes
open Sys2Proof.Machine Sys2Proof.Claims.Mail Sys2Proof.Claims.Setup Sys2Proof.Claims.Debugs Sys2Proof.Claims.Contexts Sys2Proof.Claims.Kept
  Sys2Proof.Claims.Recover Sys2Proof.Claims.Board
-- One proof at a time: the text is compiled as one file, whose memory parallel elaboration would exceed.
set_option Elab.async false

variable {s : Machine.State} {ws : List DWord}

/-- The step goes on to a state. -/
abbrev Runs (s : Machine.State) (i : Instr) : Prop := ∃ t, exec i s = .next t

/-! ### The launch port, the mailbox and other registers (R63, R432, R434) -/

theorem slotHalves_run {slot : Nat} (hs : slot < 64) (hl : ws.length = 8) (hr : s.ready = true) :
    exec (.launchFirstHalf slot ws) s = .next { s with slots := tset s.slots slot ((s.slot slot).takeFirst ws) } ∧
    exec (.launchSecondHalf slot ws) s = .next { s with slots := tset s.slots slot ((s.slot slot).takeSecond ws) } := by
  have hok : halfOk slot ws = true := decide_eq_true ⟨hs, hl⟩
  constructor
  · show execLaunchFirstHalf slot ws s = _
    simp only [execLaunchFirstHalf, hok, hr, Bool.not_true, Bool.false_eq_true, if_false]
  · show execLaunchSecondHalf slot ws s = _
    simp only [execLaunchSecondHalf, hok, hr, Bool.not_true, Bool.false_eq_true, if_false]

theorem slotStatus_runs {slot : Nat} (hs : slot < 64) (v : DWord) (hr : s.ready = true) :
    exec (.launchSlotStatusWrite slot v) s = .next { s with slots := tset s.slots slot ((s.slot slot).clear v) } := by
  show execLaunchSlotStatusWrite slot v s = _
  simp only [execLaunchSlotStatusWrite, if_neg (Nat.not_le.2 hs), hr, Bool.not_true, Bool.false_eq_true, if_false]

/-- A status write of zero clears both bits, and any other neither. -/
theorem clear_bits (x : PortSlot) (v : DWord) : (x.clear v).noHalf = (decide (v ≠ 0) && (x.clear v).noHalf) ∧
    (x.clear v).drop = (decide (v ≠ 0) && (x.clear v).drop) := by
  unfold PortSlot.clear
  by_cases h : v = 0
  · rw [if_pos h, decide_eq_false (not_not.2 h)]
    exact ⟨rfl, rfl⟩
  · rw [if_neg h, decide_eq_true h]
    exact ⟨(Bool.true_and _).symm, (Bool.true_and _).symm⟩

theorem registerWriteIgnored_runs {off : Nat} {bs : List Byte} (hb : bs ≠ []) (hw : barWrite off bs.length = false) :
    exec (.registerWriteIgnored off bs) s = .next s := by
  have he : bs.isEmpty = false := by rw [Bool.eq_false_iff, ne_eq, List.isEmpty_iff]; exact hb
  show execRegisterWriteIgnored off bs s = _
  rw [execRegisterWriteIgnored, he, hw]
  rfl

/-! ### Commands with their result at once (R434 to R436, R469) -/

/-- The command's result stands, with status OK, once it has been carried out; the next command stands at the head. -/
abbrev Answered (s : Machine.State) (ws : List DWord) (i : Instr) : Prop :=
  ∃ t, exec i s = .next t ∧ t.mbox = s.mbox.tail ∧ Status t ws 0

theorem answered {u : Machine.State} {i : Instr} {r : List DWord} (hm : memWf s.mem = true) (hk : Keeps (popped s) u)
    (he : exec i s = .next (u.answer ws 0 r)) : Answered s ws i :=
  ⟨_, he, hk.mbox, (answer_result r (hk.mem hm) (by decide)).1⟩

/-- One that changes nothing which the mailbox, memory or a recovery point holds. -/
theorem answered_kept (hm : memWf s.mem = true) {u : Machine.State} {i : Instr} {r : List DWord} (he : exec i s = .next (u.answer ws 0 r))
    (hk : Keeps (popped s) (popped s) → Keeps (popped s) u) : Answered s ws i := answered hm (hk (keeps_refl _)) he

section
variable (hm : memWf s.mem = true)
include hm

theorem framepool_answers (h : Stands s 0x24 ws) (hn : cmdPlen ws % 8 = 0)
    (hf : ∀ f ∈ wordsOf (pay s ws) (cmdPlen ws / 8), f.toNat < if cmdWord ws 4 = 0 then fastFrames else capFrames) : Answered s ws .framepool := by
  have hf' : ∀ f ∈ frames s ws, f < if cmdWord ws 4 = 0 then fastFrames else capFrames := fun f hx => by
    obtain ⟨w, hw, rfl⟩ := List.mem_map.1 hx
    exact hf w hw
  by_cases h4 : cmdWord ws 4 = 0
  · rw [if_pos h4] at hf'
    exact answered_kept hm (framepool_fast h hn h4 hf') fun hk => keeps_foldl (fun _ f h => keeps_dropRange h (65536 * f) 65536) _ _ hk
  · rw [if_neg h4] at hf'
    exact answered_kept hm (framepool_capacity h hn h4 hf') id

theorem railmap_answers (h : Stands s 0x27 ws) (hr : (cmdWord ws 4 = 0 ∧ cmdPlen ws % 8 = 0 ∧
      ∀ x ∈ wordsOf (pay s ws) (cmdPlen ws / 8), routeOk x.toNat = true) ∨
    (cmdWord ws 4 = 1 ∧ cmdPlen ws % 16 = 0 ∧ importsOk (wordsOf (pay s ws) (cmdPlen ws / 8)) = true)) : Answered s ws .railmap := by
  rcases hr with ⟨h4, hn, hx⟩ | ⟨h4, hn, hx⟩
  · obtain ⟨t, he, ht⟩ := railmap_routes h h4 hn hx
    rw [ht] at he
    exact answered_kept hm he id
  · exact answered_kept hm (railmap_imports h h4 hn hx) id

/-! ### The debugger's commands (R427 to R430) -/

variable (hd : s.debugs (cmdCtx ws) = true)
include hd

omit hd in
/-- A command on the stopped group that it names. -/
theorem onStopped_answers {i : Instr} {f : Seen → Machine.State} {r : Seen → List DWord} (hh : Held s ws)
    (he : exec i s = .next ((popped s).onStopped ws fun x => (f x).answer ws 0 (r x)))
    (hf : ∀ x : Seen, (x.gr.stop = .trapped ∨ x.gr.stop = .halted) → Keeps (popped s) x.state → Keeps (popped s) (f x)) : Answered s ws i := by
  obtain ⟨-, x, hx, hs⟩ := hh
  rw [onStopped_runs hx hs] at he
  exact answered hm (hf x hs (keeps_findGroup (keeps_refl _) hx)) he

omit hd in
theorem dbgread_answers (h : Stands s 0x33 ws) (hh : Held s ws) : Answered s ws .dbgread :=
  onStopped_answers hm hh (f := fun _ => popped s) (debugging_runs h hh.1) fun _ _ _ => keeps_refl _

omit hd in
theorem dbgwrite_answers (h : Stands s 0x34 ws) (hh : Held s ws) : Answered s ws .dbgwrite :=
  onStopped_answers hm hh (r := fun _ => []) (debugging_runs h hh.1) fun x _ hk => keeps_put (keeps_writeSel hk ..) x

omit hd in
theorem dbgresume_answers (h : Stands s 0x35 ws) (hh : Held s ws) : Answered s ws .dbgresume := by
  obtain ⟨hd, x, hx, hs⟩ := hh
  have he := debugging_runs (body := fun ws s => s.onStopped ws fun x =>
    if x.gr.stopped then (x.put (x.state.resumeGroup x.group (cmdWord ws 6 == 1))).answer ws 0 [] else s.answer ws 1 []) h hd
  have hst : x.gr.stopped = true := by
    unfold Machine.Group.stopped
    rcases hs with h | h <;> rw [h]
  rw [onStopped_runs hx hs, if_pos hst] at he
  exact answered hm (keeps_put (keeps_resumeGroup (keeps_findGroup (keeps_refl _) hx) ..) x) he

theorem dbgstop_answers (h : Stands s 0x36 ws) (hf : (popped s).findGroup (cmdCtx ws) ws = none) : Answered s ws .dbgstop := by
  cases hr : (popped s).stopRetired ws with
  | false => exact answered_kept hm (dbgstop_arms hd h hf hr) id
  | true =>
    refine answered_kept (u := (popped s).report 12 (cmdCtx ws) [dw (cmdWord ws 4), dw (cmdWord ws 5), 38]) (r := []) hm ?_ id
    refine (debugging_runs h hd).trans ?_
    simp only [hf, hr, if_true]

theorem dbgwatch_answers (h : Stands s 0x37 ws) (hr : (cmdWord ws 4).testBit 8 = true ∨ (cmdWord ws 4).testBit 9 = true) (h1 : 1 ≤ cmdWord ws 7)
    (h2 : cmdWord ws 7 ≤ 2 ^ 40) (hw : (popped s).watchable (cmdCtx ws) (cmdWord ws 5) = true) : Answered s ws .dbgwatch := by
  have hlen : ¬ (cmdWord ws 7 < 1 ∨ 2 ^ 40 < cmdWord ws 7) := by omega
  have hb : (!(cmdWord ws 4).testBit 8 && !(cmdWord ws 4).testBit 9) = false := by rcases hr with hr | hr <;> simp [hr]
  have he := (dbgwatch_command h).trans (debugging_runs h hd)
  simp only [watch, fld_bit, hb, hlen, hw, Bool.not_true, Bool.false_eq_true, if_false] at he
  exact answered_kept hm he id

end

/-- Each prompt command has its result, OK. -/
theorem prompt_answers (hm : memWf s.mem = true) : ∀ x ∈ prompt s ws, Takes s x.2.1 (formOf x.2.1) ws → x.2.2 → Answered s ws x.1 := by
  simp only [prompt, List.forall_mem_cons]
  exact ⟨fun h _ => answered_kept hm (wdtset_runs h) id, fun h _ => answered_kept hm (rpintset_runs h) id,
    fun h hw => answered_kept hm (wornthr_runs h hw) fun hk => keeps_foldl (fun _ u h => keeps_markWorn h u) _ _ hk,
    fun h _ => answered_kept hm (ident_runs h) id, fun h _ => answered_kept hm (dbggrant_runs h) id,
    fun h _ => answered_kept hm (dbgrevoke_runs h) id, fun h hw => answered_kept hm (profcfg_runs h hw) id,
    fun h hn => answered_kept hm (attest_runs h hn) fun hk => keeps_memWrite hk ..,
    fun h ⟨hc, h32, hlo, hhi, h1, h24, h16, h256, he⟩ => by
      obtain ⟨e, he⟩ := Option.isSome_iff_exists.1 he
      exact answered_kept hm (ctxcreate_runs h hc h32 hlo hhi h1 h24 h16 h256 he) id,
    fun h ⟨hn, hl, hk⟩ => answered_kept hm (codekey_runs h hn hl hk) id, fun h ⟨hn, hf⟩ => framepool_answers hm h hn hf,
    fun h ⟨h4, h6, h5⟩ => answered_kept hm (evring_runs h h4 h6 h5) fun hk => keeps_memWrite hk ..,
    fun h ⟨h4, h5⟩ => ⟨_, island_sets h h4 h5, rfl, (answer_result [] hm (by decide)).1⟩,
    railmap_answers hm, dbgread_answers hm, dbgwrite_answers hm, dbgresume_answers hm, fun h ⟨hd, hf⟩ => dbgstop_answers hm hd h hf,
    fun h ⟨hd, hr, h1, h2, hw⟩ => dbgwatch_answers hm hd h hr h1 h2 hw, fun _ hx => nomatch hx⟩

/-! ### Commands whose result follows (R434, R469, R470) -/

/-- The command has been taken from the queue. -/
abbrev Taken (s : Machine.State) (i : Instr) : Prop := ∃ t, exec i s = .next t ∧ t.mbox = s.mbox.tail

theorem taken {u : Machine.State} {i : Instr} (he : exec i s = .next u) (hk : Keeps (popped s) u) : Taken s i := ⟨u, he, hk.mbox⟩

theorem rptake_taken (h : Stands s 0x21 ws) : Taken s .rptake := by
  have he : exec .rptake s = _ := command_runs h
  refine taken he ?_
  split
  · exact keeps_refl (popped s)
  · exact keeps_beginPoint (keeps_refl _) _

theorem capmint_taken {e : Entry} (h : Stands s 0x04 ws) (h5 : cmdWord ws 5 % 16 = 0) (hn : cmdPlen ws % 16 = 0) (hlo : 16 ≤ cmdPlen ws)
    (hhi : cmdPlen ws ≤ 65536) (he : (popped s).mintEntry ws = some e) (hfit : cmdWord ws 5 + cmdPlen ws ≤ e.olen) : Taken s .capmint := by
  refine taken (capmint_command h h5 hn hlo hhi he hfit) ?_
  split
  · exact keeps_answer (keeps_refl _) ..
  · exact keeps_mintFrom (keeps_refl _) ..

theorem island_taken (h : Stands s 0x26 ws) (h4 : cmdWord ws 4 < 24) (h5 : cmdWord ws 5 = 3) : Taken s .island :=
  ⟨_, (island_runs h h4).trans (congrArg Host.Outcome.next (if_pos h5)),
    (keeps_preemptAll (keeps_refl { popped s with islands := s.islands.set (cmdWord ws 4) (cmdWord ws 5) }) ..).mbox⟩

theorem dbghalt_taken (h : Stands s 0x32 ws) (hd : s.debugs (cmdCtx ws) = true) : Taken s .dbghalt := by
  refine taken ((dbghalt_command h.idle).trans (debugging_runs h hd)) ?_
  have hk := keeps_refl (popped s)
  split
  · exact keeps_answer hk ..
  · split
    · exact hk
    · exact keeps_waitMail (keeps_debugHaltCrew hk _) ..
  · exact hk

theorem tracebuf_taken {e : Entry} (h : Stands s 0x38 ws) (h1 : cmdWord ws 5 % 4096 = 0) (h2 : 4096 ≤ cmdWord ws 5) (h3 : cmdWord ws 5 ≤ 2 ^ 32)
    (he : (popped s).mintEntry ws = some e) : Taken s .tracebuf :=
  taken (tracebuf_begins h h1 h2 h3 he) (keeps_foldl (fun _ core hk => keeps_writeHeader hk _ (cmdCtx ws) e.olen core) _ _ (keeps_refl (popped s)))

/-- Each lasting command is begun. -/
theorem lasting_taken : ∀ x ∈ lasting s ws, Takes s x.2.1 (formOf x.2.1) ws → x.2.2 → Taken s x.1 := by
  simp only [lasting, List.forall_mem_cons]
  exact ⟨fun h _ => taken (ctxdestroy_runs h) (keeps_waitMail (keeps_killContext (keeps_refl _) _) ..), fun h hi => taken (recipeset_runs h hi) (keeps_refl (popped s)),
    fun h ⟨h5, hn, hlo, hhi, e, he, hfit⟩ => capmint_taken h h5 hn hlo hhi he hfit,
    fun h ⟨h1, h24, c, hc, hn⟩ => taken (otinv_runs h h1 h24 hc hn) (keeps_refl (popped s)),
    fun h ⟨c, o, hc, ho, hg⟩ => taken (codeunload_runs h hc ho hg) (keeps_refl (popped s)),
    fun h _ => taken (preempt_runs h) (keeps_orderPreempt (keeps_refl _) ..), fun h _ => rptake_taken h, fun h ⟨h4, h5⟩ => island_taken h h4 h5,
    fun h ⟨hd, _⟩ => dbghalt_taken h hd,
    fun h ⟨h1, h2, h3, he⟩ => by
      obtain ⟨e, he⟩ := Option.isSome_iff_exists.1 he
      exact tracebuf_taken h h1 h2 h3 he,
    fun _ hx => nomatch hx⟩

theorem codeload_due (h : s.loadDue.isSome = true) : Runs s .codeload := by
  obtain ⟨t, ht⟩ := Option.isSome_iff_exists.1 h
  refine ⟨t, ?_⟩
  show execCodeload s = _
  rw [execCodeload, ht]

theorem codeload_head (hi : Idle s) (hh : s.mbox.head? = some ws) (ho : cmdOp ws = 0x10) : Runs s .codeload := by
  rw [Runs, codeload_command hi hh ho]
  cases (popped s).load ws with
  | done t => exact ⟨t, rfl⟩
  | waits b => exact ⟨_, rfl⟩

/-! ### Launches (R64 to R69, R156) -/

section
variable {n : Nat} {l : Machine.Launch}

theorem crewAdmit_due (h : (s.admitted n).isSome = true) : Runs s (.crewAdmit n) := by
  obtain ⟨t, ht⟩ := Option.isSome_iff_exists.1 h
  refine ⟨t, ?_⟩
  show execCrewAdmit n s = _
  rw [execCrewAdmit, ht]

theorem launchClassRise_runs (hl : s.launch? n = some l) (h : s.riseDue l = true) : exec (.launchClassRise n) s =
    .next (s.modLaunch n fun x => { x with cls := x.cls + 1, since := s.clock }) := by
  show execLaunchClassRise n s = _
  simp only [execLaunchClassRise, hl, h, if_true]

theorem launchComplete_runs (hl : s.launch? n = some l) (h : l.over = true) : exec (.launchComplete n) s = .next (s.complete n l) := by
  show execLaunchComplete n s = _
  simp only [execLaunchComplete, hl, h, if_true]

/-- The crew to commit is there. -/
theorem commitDue_crew (h : s.commitDue n l = true) : ∃ k c, s.crewAt n l.head = some (k, c) := by
  simp only [State.commitDue, Bool.and_eq_true] at h
  obtain ⟨-, hc⟩ := h
  split at hc
  · cases hc
  next k c hk => exact ⟨k, c, hk⟩

/-- The state without the crew that commits. -/
def committed (s : Machine.State) (n k : Nat) : Machine.State :=
  ({ s with crews := tdel s.crews k }).modLaunch n fun x => { x with head := x.head + 1 }

/-- The serial phase of the crew that is head next, where there is one. -/
def nextSerial (s : Machine.State) (n : Nat) (l : Machine.Launch) : Machine.State :=
  match s.crewAt n (l.head + 1) with
  | none => s
  | some (k, c) => s.serialPhase k c { l with head := l.head + 1 } [] (entryRuns (serialOrder c.dbuf))

theorem crewCommit_runs {k : Nat} {c : Crew} (hl : s.launch? n = some l) (h : s.commitDue n l = true) (hk : s.crewAt n l.head = some (k, c))
    (hb : (s.nextBuffer n (l.head + 1)).findSome? (fun e => s.rangeBank e.addr e.size) = none) : exec (.crewCommit n) s =
      .next ((nextSerial (committed s n k) n l).freeHeld n (l.head + 1)) := by
  show execCrewCommit n s = _
  simp only [execCrewCommit, hl, h, if_true, hk, hb]
  rfl

theorem launchValidate_port {r : List DWord} (hr : (s.slot n).record = some r)
    (ha : s.recordAway (launchFrom r (fld ((r[0]?).getD 0).toNat 51 40) 0 s.clock) = [])
    (hb : s.capBank (launchFrom r (fld ((r[0]?).getD 0).toNat 51 40) 0 s.clock) = none) : exec (.launchValidate true n) s =
      .next ({ s with slots := tset s.slots n { s.slot n with record := none }, nextLaunch := s.nextLaunch + 1 }.takeRecord s.nextLaunch
        (launchFrom r (fld ((r[0]?).getD 0).toNat 51 40) 0 s.clock)) := by
  show execLaunchValidate true n s = _
  simp only [execLaunchValidate, if_true, hr, ha, hb]

theorem launchValidate_device {th : Thread} {r : DevRec} {q : List DevRec} (ht : s.thread? n = some th) (hq : th.dlq = r :: q)
    (ha : s.recordAway (launchFrom r.words th.ctx (n + 1) r.since) = []) (hb : s.capBank (launchFrom r.words th.ctx (n + 1) r.since) = none) :
    exec (.launchValidate false n) s =
      .next ((s.modThread n fun x => { x with dlq := q }).takeRecord r.num (launchFrom r.words th.ctx (n + 1) r.since)) := by
  show execLaunchValidate false n s = _
  simp only [execLaunchValidate, Bool.false_eq_true, if_false, ht, hq, ha, hb]

end

/-! ### Groups and crews -/

section
variable {g : Nat} {gr : Machine.Group} (hg : s.group? g = some gr)
include hg

theorem trapRecordWrite_due (h : s.recordDue g gr = true) : Runs s (.trapRecordWrite g) := by
  show ∃ t, execTrapRecordWrite g s = .next t
  simp only [execTrapRecordWrite, hg, h, if_true]
  split
  · exact ⟨_, rfl⟩
  · split
    · exact ⟨_, rfl⟩
    · split <;> exact ⟨_, rfl⟩

theorem siblingStop_due (h : s.siblingDue g gr = true) : Runs s (.siblingStop g) := by
  show ∃ t, execSiblingStop g s = .next t
  simp only [execSiblingStop, hg, h, if_true]
  exact ⟨_, rfl⟩

theorem fenceComplete_due (h : s.fenceDue gr = true) : Runs s (.fenceComplete g) := by
  have hw : ∃ a b c d, gr.wait = .fence a b c d := by
    unfold State.fenceDue at h
    cases hw : gr.wait with
    | fence a b c d => exact ⟨a, b, c, d, rfl⟩
    | _ => simp [hw] at h
  obtain ⟨a, b, c, d, hw⟩ := hw
  show ∃ t, execFenceComplete g s = .next t
  simp only [execFenceComplete, hg, h, hw]
  exact ⟨_, rfl⟩

theorem sinvComplete_due (h : s.sinvDue gr = true) (hc : (s.ctx? gr.ctx).isSome = true) : Runs s (.sinvComplete g) := by
  have hw : ∃ a b c d e, gr.wait = .sinv a b c d e := by
    unfold State.sinvDue at h
    cases hw : gr.wait with
    | sinv a b c d e => exact ⟨a, b, c, d, e, rfl⟩
    | _ => simp [hw] at h
  obtain ⟨a, b, c, d, e, hw⟩ := hw
  obtain ⟨x, hx⟩ := Option.isSome_iff_exists.1 hc
  show ∃ t, execSinvComplete g s = .next t
  simp only [execSinvComplete, hg, h, hw, hx]
  exact ⟨_, rfl⟩

theorem groupWake_due (h : s.refetchDue gr = true ∨ gr.metDue = true ∨ s.enterDue gr = true) : Runs s (.groupWake g) := by
  show ∃ t, execGroupWake g s = .next t
  simp only [execGroupWake, hg]
  split
  · exact ⟨_, rfl⟩
  next hr =>
    split
    · exact ⟨_, rfl⟩
    next hm =>
      have he : s.enterDue gr = true := (h.resolve_left hr).resolve_left hm
      have hw : ∃ x, gr.wait = .store x := by
        unfold State.enterDue at he
        cases hw : gr.wait with
        | store x => exact ⟨x, rfl⟩
        | _ => simp [hw] at he
      obtain ⟨x, hw⟩ := hw
      simp only [he, hw]
      exact ⟨_, rfl⟩

theorem preciseStop_due (h : s.preciseDue g gr = true) : Runs s (.preciseStop g) :=
  (Halts.preciseStop_stops hg h).imp fun _ h => h.1

end

theorem crewHaltEvent_due {k : Nat} (h : s.haltEventDue k = true) : Runs s (.crewHaltEvent k) := by
  have hd := h
  simp only [State.haltEventDue, Bool.and_eq_true] at hd
  obtain ⟨⟨hof, hroom⟩, -⟩ := hd
  obtain ⟨x, hx⟩ := Option.isSome_iff_exists.1 hof
  show ∃ t, execCrewHaltEvent k s = .next t
  cases hc : s.crew? k with
  | none =>
    rw [hc] at hroom
    cases hroom
  | some c =>
    simp only [execCrewHaltEvent, hx, hc, h, if_true]
    exact ⟨_, rfl⟩

/-! ### Memory and the engines -/

section
variable {n : Nat} {a : Access} (ha : tget s.accs n = some a)
include ha

theorem claimCheck_due (h : s.claimDue a = true) (hg : s.givesWay a = false) : Runs s (.claimCheck n) := by
  show ∃ t, execClaimCheck n s = .next t
  simp only [execClaimCheck, ha, h, hg, Bool.not_false, Bool.and_self, if_true]
  exact ⟨_, rfl⟩

theorem answerReturn_due (h : s.answerDue a = true) : Runs s (.answerReturn n) := by
  show ∃ t, execAnswerReturn n s = .next t
  simp only [execAnswerReturn, ha, h, if_true]
  split <;> exact ⟨_, rfl⟩

theorem urgencyBit_due (h : s.urgencyDue a = true) : Runs s (.urgencyBit n) := by
  show ∃ t, execUrgencyBit n s = .next t
  simp only [execUrgencyBit, ha, h, if_true]
  exact ⟨_, rfl⟩

theorem barrierArrival_due {c : Nat} {w : Bool} {k : Nat} (h : s.arrivalDue a = true) (hk : s.opKind a.op = .arrive c w k) :
    Runs s (.barrierArrival n) := by
  show ∃ t, execBarrierArrival n s = .next t
  simp only [execBarrierArrival, ha, h, hk]
  exact ⟨_, rfl⟩

end

theorem pageMigration_due {n : Nat} {e : WaitEntry} (he : tget s.waits n = some e) (hd : s.migrationDue e = true)
    (hb : s.migrationBank e = none) : Runs s (.pageMigration n) := by
  cases hf : s.fastFree with
  | nil => exact (Pages.pageMigration_asks he hd hb hf).imp fun _ h => h.1
  | cons f r => exact (Pages.pageMigration_moves he hd hb hf).imp fun _ h => h.1

theorem targetedReplay_due {n : Nat} {e : WaitEntry} (he : tget s.waits n = some e) (hd : e.migrated = true) : Runs s (.targetedReplay n) := by
  show ∃ t, execTargetedReplay n s = .next t
  simp only [execTargetedReplay, he, hd, if_true]
  exact ⟨_, rfl⟩

theorem claimScrub_due {n : Nat} {c : Claim} (hc : tget s.claims n = some c) (hd : s.scrubbed c ≠ c) : Runs s (.claimScrub n) := by
  show ∃ t, execClaimScrub n s = .next t
  simp only [execClaimScrub, hc, if_neg hd]
  exact ⟨_, rfl⟩

theorem qfencePerform_due {n : Nat} {c : Copy} (hc : tget s.cmds n = some c) (hd : s.qfenceDue n c = true) : Runs s (.qfencePerform n) := by
  show ∃ t, execQfencePerform n s = .next t
  simp only [execQfencePerform, hc, hd, if_true]
  exact ⟨_, rfl⟩

theorem copyCompletion_due {n : Nat} {c : Copy} (hc : tget s.cmds n = some c) (hd : s.completionDue n c = true) (h0 : c.cm = 0) :
    Runs s (.copyCompletion n) := by
  show ∃ t, execCopyCompletion n s = .next t
  simp only [execCopyCompletion, hc, hd, h0, Bool.not_true, Bool.false_eq_true, if_false, if_true]
  exact ⟨_, rfl⟩

/-! ### Threads -/

section
variable {n : Nat} {th : Thread} (ht : s.thread? n = some th)
include ht

theorem eventQueuePlaceFree_due (h : th.placeDue = true) : Runs s (.eventQueuePlaceFree n) := by
  cases hh : th.held with
  | nil => simp [Thread.placeDue, hh] at h
  | cons e r => exact ⟨_, Moves.eventQueuePlaceFree_takes ht h hh⟩

theorem gwaitWake_due (h : th.wakeDue = true) : Runs s (.gwaitWake n) := by
  have hd := h
  simp only [Thread.wakeDue, Bool.and_eq_true] at hd
  obtain ⟨⟨-, hs⟩, hq⟩ := hd
  obtain ⟨⟨d, l⟩, hs⟩ := Option.isSome_iff_exists.1 hs
  obtain ⟨⟨e, r⟩, hq⟩ := Option.isSome_iff_exists.1 hq
  exact ⟨_, Moves.gwaitWake_takes ht h hs hq⟩

theorem gwaitTimeout_due (h : th.timeoutDue s.clock = true) : Runs s (.gwaitTimeout n) := by
  cases hs : th.sleep with
  | none => simp [Thread.timeoutDue, hs] at h
  | some x => exact ⟨_, Moves.gwaitTimeout_answers ht h (d := x.1) (l := x.2) hs⟩

theorem emitUnblock_due (h : s.unblockDue th = true) : Runs s (.emitUnblock n) := by
  cases hb : th.blocked with
  | none => simp [State.unblockDue, hb] at h
  | some b =>
    have hk : (s.unblocks b).isSome = true := by
      have hd := h
      simp only [State.unblockDue, hb, Bool.and_eq_true] at hd
      exact hd.2
    obtain ⟨k, hk⟩ := Option.isSome_iff_exists.1 hk
    show ∃ t, execEmitUnblock n s = .next t
    simp only [execEmitUnblock, ht, h, hb, hk]
    exact ⟨_, rfl⟩

end

/-! ### Recovery, errors and the board -/

theorem recoveryPointCommit_due (h : s.commitPointDue = true) : Runs s .recoveryPointCommit := by
  have ht : s.taking.isSome = true := by
    have hd := h
    simp only [State.commitPointDue, Bool.and_eq_true] at hd
    exact hd.1.1
  obtain ⟨rs, ht⟩ := Option.isSome_iff_exists.1 ht
  show ∃ t, execRecoveryPointCommit s = .next t
  simp only [execRecoveryPointCommit, ht, h, Bool.not_true, Bool.false_eq_true, if_false]
  split <;> exact ⟨_, rfl⟩

theorem eventRingWrite_due (h : s.ringWriteDue = true) : Runs s .eventRingWrite := by
  simp only [State.ringWriteDue, Bool.and_eq_true] at h
  obtain ⟨hq, hu⟩ := h
  cases hr : s.ring with
  | none => simp [hr] at hu
  | some r =>
    cases hp : s.reports with
    | nil => simp [hp] at hq
    | cons ws q =>
      rw [hr] at hu
      exact ⟨_, eventRingWrite_runs hr hp (of_decide_eq_true hu)⟩

theorem eventRingPoll_due (h : s.ringPollDue = true) : Runs s .eventRingPoll := by
  cases hr : s.ring with
  | none => simp [State.ringPollDue, hr] at h
  | some r =>
    show ∃ t, execEventRingPoll s = .next t
    simp only [execEventRingPoll, hr, h, if_true]
    exact ⟨_, rfl⟩

theorem uncorrectableError_due {u : Nat} (h : storesState u = true) : Runs s (.uncorrectableError u) := by
  show ∃ t, execUncorrectableError u s = .next t
  simp only [execUncorrectableError, h, Bool.not_true, Bool.false_eq_true, if_false]
  split
  · exact ⟨_, rfl⟩
  · split <;> exact ⟨_, rfl⟩

theorem hostMemWrite_due {a : Nat} {bs : List Byte} (hb : bs ≠ []) (ha : a + bs.length ≤ capBase) : Runs s (.hostMemWrite a bs) := by
  have hn : bs.length ≠ 0 := fun h => hb (List.eq_nil_of_length_eq_zero h)
  have hc : capBase ≤ hostBase := by decide
  show ∃ t, execHostMemWrite a bs s = .next t
  rw [execHostMemWrite, if_neg hn, if_neg (by omega), if_neg (by omega)]
  split <;> exact ⟨_, rfl⟩

/-- An access of a peer is refused, waits or is performed: in any case the device goes on. -/
theorem peerAccess_due {v h o : Nat} {w : Bool} {bs : List Byte} (hb : bs ≠ []) : Runs s (.peerAccess v h o w bs) := by
  have hn : bs.length ≠ 0 := fun h => hb (List.eq_nil_of_length_eq_zero h)
  show ∃ t, execPeerAccess v h o w bs s = .next t
  unfold execPeerAccess
  dsimp only
  rw [if_neg hn]
  split
  · exact ⟨_, rfl⟩
  · split
    · exact ⟨_, rfl⟩
    · split
      · exact ⟨_, rfl⟩
      · split
        · exact ⟨_, rfl⟩
        · split
          · exact ⟨_, rfl⟩
          · split <;> exact ⟨_, rfl⟩

theorem activationBackoff_due {c b : Nat} (hc : c < 56) : Runs s (.activationBackoff c b) := by
  show ∃ t, execActivationBackoff c b s = .next t
  rw [execActivationBackoff, if_neg (show ¬ controllers ≤ c from Nat.not_le.2 hc)]
  split <;> exact ⟨_, rfl⟩

theorem refreshHoldEnd_due {c b : Nat} (h : s.refresh.contains (c, b) = true) : Runs s (.refreshHoldEnd c b) := by
  show ∃ t, execRefreshHoldEnd c b s = .next t
  simp only [execRefreshHoldEnd, h, Bool.not_true, Bool.false_eq_true, if_false]
  exact ⟨_, rfl⟩

theorem thermalStep_due {d k : Nat} (hd : d < 4) (h : 105 < k ∨ s.hot.contains d = true) : Runs s (.thermalStep d k) := by
  by_cases hk : 105 < k ∨ (s.hot.contains d = true ∧ 100 ≤ k)
  · exact ⟨_, thermalStep_lowers hd hk⟩
  · exact ⟨_, thermalStep_ends hd (h.resolve_left fun h => hk (.inl h)) (by
      by_contra hk'
      exact hk (.inr ⟨h.resolve_left fun h => hk (.inl h), Nat.not_lt.1 hk'⟩))⟩

end Sys2Proof.Claims.Completes

open Sys2Proof Sys2Proof.Claims Sys2Proof.Claims.Completes

/-- Settles O54: each step goes on to a state once its condition holds; a command at the head leaves the queue, and a prompt one has its
result in memory. -/
theorem everyStepCompletes : Obligations.EveryStepCompletes := by
  intro s runs
  refine ⟨fun slot ws v hs hl hr => ⟨_, _, _, (slotHalves_run hs hl hr).1, (slotHalves_run hs hl hr).2, slotStatus_runs hs v hr, clear_bits _ v⟩,
    fun off bs v h1 h2 => ⟨⟨_, Mail.mailboxCommandWrite_queues h1 h2⟩, ⟨_, Mail.mailboxStatusWrite_clears v⟩⟩,
    fun off bs => registerWriteIgnored_runs, fun ws hm => ⟨prompt_answers hm, lasting_taken⟩, codeload_due, fun ws => codeload_head,
    fun n m => ⟨fun h => ?_, fun h => ?_, fun h hb => ?_, fun o ho hd => ⟨_, Contexts.preemptGated_runs ho hd⟩⟩,
    fun n l hl => ⟨crewAdmit_due, fun h => ⟨_, launchClassRise_runs hl h⟩, fun h => ⟨_, launchComplete_runs hl h⟩, fun h hb => ?_⟩,
    fun n => ⟨fun r hr h => ⟨_, launchValidate_port hr h.1 h.2⟩, fun th r q ht hq h => ⟨_, launchValidate_device ht hq h.1 h.2⟩⟩,
    fun g gr hg => ⟨fun h => ⟨_, Waits.generalAgeSelect_selects hg h⟩, trapRecordWrite_due hg, siblingStop_due hg, preciseStop_due hg,
      fenceComplete_due hg, sinvComplete_due hg, groupWake_due hg, fun h => ⟨_, Waits.groupRetire_retires hg h⟩⟩,
    fun k site => ⟨fun h => ⟨_, Waits.fuseResolve_resolves h⟩, crewHaltEvent_due⟩,
    fun n a ha => ⟨claimCheck_due ha, answerReturn_due ha, urgencyBit_due ha, fun c w k => barrierArrival_due ha,
      fun e flat hd hg hl => ⟨_, (Ports.portAccess_performs hd hg ha hl.read).trans (Ports.portAccess_goes hl)⟩⟩,
    fun n e he => ⟨pageMigration_due he, targetedReplay_due he⟩, fun n c => claimScrub_due,
    fun n c hc => ⟨qfencePerform_due hc, copyCompletion_due hc⟩,
    fun core e he hc => ?_,
    fun n th ht => ⟨eventQueuePlaceFree_due ht, gwaitWake_due ht, gwaitTimeout_due ht, emitUnblock_due ht, fun h => ⟨_, Moves.watchdogExpire_faults ht h⟩⟩,
    fun h => ⟨_, if_pos h⟩, recoveryPointCommit_due, eventRingWrite_due, eventRingPoll_due,
    fun u => ⟨uncorrectableError_due, fun h => (Recover.correctedError_counts h).imp fun _ h => h.1⟩,
    fun hr hf => ⟨_, Board.powerGood_runs hr hf⟩, fun a bs => hostMemWrite_due, fun d h o w bs => peerAccess_due,
    fun p => ⟨fun hp hd => ⟨_, Board.railPortDown_runs hp hd⟩, fun h => ⟨_, if_pos h⟩⟩,
    fun c b => ⟨activationBackoff_due, refreshHoldEnd_due⟩,
    fun d k hd => ⟨thermalStep_due hd, fun h hc => ⟨_, Board.thermalCritical_runs hd h hc⟩, fun h hk => ⟨_, Board.thermalRecover_runs h hk⟩⟩⟩
  · obtain ⟨q, hq⟩ := Option.isSome_iff_exists.1 h
    exact ⟨_, Contexts.recipeImageWrite_runs hq⟩
  · obtain ⟨q, hq⟩ := Option.isSome_iff_exists.1 h
    exact ⟨_, Contexts.otinvComplete_runs hq⟩
  · obtain ⟨⟨a, t⟩, hd⟩ := Option.isSome_iff_exists.1 h
    exact ⟨_, Contexts.codeUnmap_runs hd hb⟩
  · obtain ⟨k, c, hk⟩ := commitDue_crew h
    exact ⟨_, crewCommit_runs hl h hk hb⟩
  · obtain ⟨c, hc⟩ := Option.isSome_iff_exists.1 hc
    exact ⟨_, Engine.matrixEnginePerform_performs he hc⟩

/-! Where placement finds room for a crew, and the core that it takes (R13, R14, R67, R68). -/
namespace Sys2Proof.Claims.Rooms
open Sys2Proof.Machine
-- One proof at a time: the text is compiled as one file, whose memory parallel elaboration would exceed.
set_option Elab.async false

variable {s : Machine.State}

/-! ### Runs of units (R67) -/

theorem mem_foldl_insertNat {y : Nat} : ∀ (l acc : List Nat), y ∈ l ∨ y ∈ acc → y ∈ l.foldl insertNat acc
  | [], _, h => h.resolve_left List.not_mem_nil
  | x :: l, acc, h => mem_foldl_insertNat l (insertNat acc x) (by
      rcases h with h | h
      · rcases List.mem_cons.1 h with rfl | h
        · exact .inr (Recover.mem_insertNat_self acc y)
        · exact .inl h
      · exact .inr (Recover.mem_insertNat_of_mem h))

theorem mem_sortNat_of_mem {l : List Nat} {y : Nat} (h : y ∈ l) : y ∈ sortNat l := mem_foldl_insertNat l [] (.inl h)

/-- Of the numbers of a list that a bound does not pass, with 0, there is a greatest. -/
theorem exists_greatest (b : Nat) : ∀ l : List Nat, ∃ c ∈ 0 :: l, c ≤ b ∧ ∀ e ∈ l, e ≤ b → e ≤ c
  | [] => ⟨0, List.mem_cons_self .., Nat.zero_le b, fun _ he => nomatch he⟩
  | x :: l => by
    obtain ⟨c, hc, hb, hmax⟩ := exists_greatest b l
    have hc' : c ∈ 0 :: x :: l := by
      rcases List.mem_cons.1 hc with rfl | hc
      · exact List.mem_cons_self ..
      · exact List.mem_cons_of_mem _ (List.mem_cons_of_mem _ hc)
    by_cases hx : x ≤ b ∧ c ≤ x
    · refine ⟨x, List.mem_cons_of_mem _ (List.mem_cons_self ..), hx.1, fun e he heb => ?_⟩
      rcases List.mem_cons.1 he with rfl | he
      · exact Nat.le_refl _
      · exact Nat.le_trans (hmax e he heb) hx.2
    · refine ⟨c, hc', hb, fun e he heb => ?_⟩
      rcases List.mem_cons.1 he with rfl | he
      · omega
      · exact hmax e he heb

/-- A run is free from c on beside the runs in use. -/
def FreeAt (used : List (Nat × Nat)) (total n c : Nat) : Prop := c + n ≤ total ∧ ∀ x ∈ used, x.2 = 0 ∨ c + n ≤ x.1 ∨ x.1 + x.2 ≤ c

/-- A free run may be moved down to the end of a run in use, or to 0. -/
theorem freeAt_lowered {used : List (Nat × Nat)} {total n b : Nat} (h : FreeAt used total n b) :
    ∃ c ∈ 0 :: used.map fun x => x.1 + x.2, FreeAt used total n c := by
  obtain ⟨c, hc, hb, hmax⟩ := exists_greatest b (used.map fun x => x.1 + x.2)
  refine ⟨c, hc, Nat.le_trans (Nat.add_le_add_right hb n) h.1, fun x hx => ?_⟩
  rcases h.2 x hx with h0 | h1 | h2
  · exact .inl h0
  · exact .inr (.inl (Nat.le_trans (Nat.add_le_add_right hb n) h1))
  · exact .inr (.inr (hmax _ (List.mem_map_of_mem hx) h2))

theorem lowestRun_isSome {used : List (Nat × Nat)} {total n : Nat} : (lowestRun used total n).isSome = true ↔ FreeRun used total n := by
  unfold lowestRun FreeRun
  by_cases h0 : n = 0
  · simp only [h0, if_true, Option.isSome_some, true_or]
  · simp only [h0, if_false, List.find?_isSome, false_or]
    have htest : ∀ c, (decide (c + n ≤ total) && used.all fun (a, k) => k == 0 || decide (c + n ≤ a ∨ a + k ≤ c)) = true ↔ FreeAt used total n c := by
      intro c
      simp only [Bool.and_eq_true, decide_eq_true_eq, List.all_eq_true, Bool.or_eq_true, beq_iff_eq]
      exact Iff.rfl
    constructor
    · rintro ⟨c, -, hc⟩
      exact ⟨c, (htest c).1 hc⟩
    · rintro ⟨b, hb⟩
      obtain ⟨c, hc, hfree⟩ := freeAt_lowered hb
      exact ⟨c, mem_sortNat_of_mem hc, (htest c).2 hfree⟩

/-! ### Room on a core -/

theorem lacks_regs (core : Nat) (x : Need) : s.lacks core x .regs = false ↔
    x.groups ≤ (s.freeSlots core).length ∧ s.lanesOn core + x.lanes ≤ 32768 ∧ s.bytesOn core + x.bytes ≤ 8388608 := by
  unfold State.lacks
  rw [decide_eq_false_iff_not]
  omega

theorem roomFor_isSome (core : Nat) (x : Need) : (s.roomFor core x).isSome = true ↔ x.groups ≤ (s.freeSlots core).length ∧
    s.lanesOn core + x.lanes ≤ 32768 ∧ s.bytesOn core + x.bytes ≤ 8388608 ∧ FreeRun (s.tileRuns core) 16 x.tiles ∧
    FreeRun (s.accRuns core) 8 x.accs ∧ FreeRun (s.padRuns core) sliceSize x.sram := by
  have hregs := lacks_regs (s := s) core x
  unfold State.roomFor
  rw [← lowestRun_isSome, ← lowestRun_isSome, ← lowestRun_isSome]
  cases hl : s.lacks core x .regs with
  | true =>
    have hn : ¬ (x.groups ≤ (s.freeSlots core).length ∧ s.lanesOn core + x.lanes ≤ 32768 ∧ s.bytesOn core + x.bytes ≤ 8388608) := fun h =>
      Bool.false_ne_true ((hregs.2 h).symm.trans hl)
    rw [if_pos rfl]
    exact ⟨fun h => (nomatch h), fun ⟨h1, h2, h3, _⟩ => (hn ⟨h1, h2, h3⟩).elim⟩
  | false =>
    obtain ⟨h1, h2, h3⟩ := hregs.1 hl
    rw [if_neg Bool.false_ne_true]
    cases lowestRun (s.tileRuns core) 16 x.tiles <;> cases lowestRun (s.accRuns core) 8 x.accs <;>
      cases lowestRun (s.padRuns core) sliceSize x.sram <;> simp [h1, h2, h3]

/-- The slots of a room are free ones of the core, as many as groups are needed. -/
theorem roomFor_slots {core : Nat} {x : Need} {r : Room} (h : s.roomFor core x = some r) :
    r.slots.length = x.groups ∧ r.slots.Nodup := by
  obtain ⟨hg, -⟩ := (roomFor_isSome core x).1 (by rw [h]; rfl)
  have hslots : r.slots = (s.freeSlots core).take x.groups := by
    unfold State.roomFor at h
    split at h
    · nomatch h
    · split at h
      · cases h
        rfl
      · nomatch h
  rw [hslots]
  exact ⟨List.length_take_of_le hg, (List.nodup_range.filter _).sublist (List.take_sublist ..)⟩

/-! ### The core that a crew takes (R67) -/

section
variable {f : Nat → Option Machine.State} {m : Nat → Nat}

theorem bestOf_none {l : List Nat} (h : ∀ c ∈ l, f c = none) : bestOf f m l = none := by
  induction l with
  | nil => rfl
  | cons x r ih => rw [bestOf, h x (List.mem_cons_self ..), ih fun c hc => h c (List.mem_cons_of_mem _ hc)]

theorem bestOf_mem {l : List Nat} {y : Nat} {t : Machine.State} (h : bestOf f m l = some (y, t)) : y ∈ l ∧ f y = some t := by
  induction l with
  | nil => nomatch h
  | cons x r ih =>
    unfold bestOf at h
    split at h
    · obtain ⟨hm, hf⟩ := ih h
      exact ⟨List.mem_cons_of_mem _ hm, hf⟩
    next hx _ =>
      cases h
      exact ⟨List.mem_cons_self .., hx⟩
    next hx hb =>
      split at h
      · cases h
        obtain ⟨hm, hf⟩ := ih hb
        exact ⟨List.mem_cons_of_mem _ hm, hf⟩
      · cases h
        exact ⟨List.mem_cons_self .., hx⟩

/-- In ascending order, the place of the greatest measure, and among equals the first, is taken. -/
theorem bestOf_greatest {l : List Nat} (hl : l.Pairwise (· < ·)) {c : Nat} {v : Machine.State} (hc : c ∈ l) (hv : f c = some v)
    (hmax : ∀ d ∈ l, (f d).isSome = true → m d < m c ∨ (m d = m c ∧ c ≤ d)) : bestOf f m l = some (c, v) := by
  induction l with
  | nil => nomatch hc
  | cons x r ih =>
    obtain ⟨hx, hr⟩ := List.pairwise_cons.1 hl
    rcases List.mem_cons.1 hc with rfl | hcr
    · rw [bestOf, hv]
      cases hb : bestOf f m r with
      | none => rfl
      | some b =>
        obtain ⟨y, t⟩ := b
        obtain ⟨hy, ht⟩ := bestOf_mem hb
        have hle := hmax y (List.mem_cons_of_mem _ hy) (ht ▸ rfl)
        exact if_neg (by omega)
    · have hb := ih hr hcr fun d hd => hmax d (List.mem_cons_of_mem _ hd)
      rw [bestOf, hb]
      cases hfx : f x with
      | none => rfl
      | some u =>
        have hle := hmax x (List.mem_cons_self ..) (hfx ▸ rfl)
        have hlt := hx c hcr
        exact if_pos (by omega)

end

/-! ### The decision for the first launch (R67, R68) -/

section
variable {n : Nat} {l : Machine.Launch}

theorem placeNext_fresh (avail : List Nat) (hg : l.gang = none) (hr : s.resumable n = []) (hn : s.hasNew n l = true) :
    s.placeNext avail n l = s.placeCrew avail n l (.fresh l.next) := by
  have hup : upTo l.next 1 = [l.next] := by simp [upTo]
  simp only [State.placeNext, hr, leastCrew, hn, if_true, hg, hup, State.placeGang, List.map_cons, List.map_nil, State.placeAll]
  cases s.placeCrew avail n l (.fresh l.next) <;> rfl

/-- Placement's decision on the launch that stands first. -/
theorem admitted_first (ho : s.placeOrder.head? = some n) (hl : s.launch? n = some l) (hc : s.critical = []) (ht : s.taking = none) :
    s.admitted n = match s.placeNext ((List.range 96).filter s.isOpen) n l with
      | some v => some (v.dropReserve n)
      | none => s.headWaits n l := by
  obtain ⟨r, hr⟩ := List.head?_eq_some_iff.1 ho
  have hin : s.placeOrder.contains n = true := by rw [hr]; simp
  have hahead : aheadOf s.placeOrder n = [] := by simp [aheadOf, hr]
  have havail : s.availFor [] = (List.range 96).filter s.isOpen :=
    List.filter_congr fun c _ => by rw [List.all_nil, Bool.and_true]
  have hplan : s.planOf s.placeOrder n = s.placeNext ((List.range 96).filter s.isOpen) n l := by
    simp only [State.planOf, hl, hahead, havail]
  unfold State.admitted
  simp only [hc, ht, hin, hahead, hplan, hl, List.isEmpty_nil, Bool.not_true, Option.isSome_none, Bool.or_self, Bool.false_eq_true, if_false,
    Bool.false_and, List.any_nil, if_true]
  cases s.placeNext ((List.range 96).filter s.isOpen) n l <;> rfl

variable (ho : s.placeOrder.head? = some n) (hl : s.launch? n = some l) (hc : s.critical = []) (ht : s.taking = none) (hg : l.gang = none)
  (hr : s.resumable n = []) (hn : s.hasNew n l = true)
include ho hl hc ht hg hr hn

theorem crewAdmit_places {c : Nat} {v : Machine.State} (hm : c ∈ (List.range 96).filter s.isOpen) (hv : s.placeItem c n l (.fresh l.next) = some v)
    (hmax : ∀ d ∈ (List.range 96).filter s.isOpen, (s.placeItem d n l (.fresh l.next)).isSome = true →
      s.freeLanes d l < s.freeLanes c l ∨ (s.freeLanes d l = s.freeLanes c l ∧ c ≤ d)) :
    exec (.crewAdmit n) s = .next (v.dropReserve n) := by
  have hb := bestOf_greatest (f := fun c => s.placeItem c n l (.fresh l.next)) (m := fun c => s.freeLanes c l)
    (List.pairwise_lt_range.filter _) hm hv hmax
  have ha : s.admitted n = some (v.dropReserve n) := by
    rw [admitted_first ho hl hc ht, placeNext_fresh _ hg hr hn, State.placeCrew, hb]; rfl
  show execCrewAdmit n s = _
  rw [execCrewAdmit, ha]

theorem crewAdmit_reserves (hnone : ∀ c ∈ (List.range 96).filter s.isOpen, s.placeItem c n l (.fresh l.next) = none) (hres : l.reserve = [])
    (hcore : s.reservation l ≠ []) : exec (.crewAdmit n) s = .next (s.modLaunch n fun x => { x with reserve := s.reservation l }) := by
  have hb : bestOf (fun c => s.placeItem c n l (.fresh l.next)) (fun c => s.freeLanes c l) ((List.range 96).filter s.isOpen) = none :=
    bestOf_none hnone
  have he : (s.reservation l).isEmpty = false := by rw [Bool.eq_false_iff, ne_eq, List.isEmpty_iff]; exact hcore
  have hw : s.headWaits n l = some (s.modLaunch n fun x => { x with reserve := s.reservation l }) := by
    simp only [State.headWaits, hres, List.isEmpty_nil, if_true, he, Bool.false_eq_true, if_false]
  have ha : s.admitted n = some (s.modLaunch n fun x => { x with reserve := s.reservation l }) := by
    rw [admitted_first ho hl hc ht, placeNext_fresh _ hg hr hn, State.placeCrew, hb]
    exact hw
  show execCrewAdmit n s = _
  rw [execCrewAdmit, ha]

end

/-- A decision is taken only below 115 degrees and while no recovery point is taken. -/
theorem admitted_calm {n : Nat} {t : Machine.State} (h : s.admitted n = some t) : exec (.crewAdmit n) s = .next t ∧ s.critical = [] ∧ s.taking = none := by
  refine ⟨by show execCrewAdmit n s = _; rw [execCrewAdmit, h], ?_⟩
  by_cases hb : (!s.critical.isEmpty || s.taking.isSome || !s.placeOrder.contains n) = true
  · rw [State.admitted, if_pos hb] at h
    nomatch h
  · simp only [Bool.not_eq_true, Bool.or_eq_false_iff, Bool.not_eq_false', List.isEmpty_iff, Option.isSome_eq_false_iff,
      Option.isNone_iff_eq_none] at hb
    exact hb.1

/-! ### A new crew on a core (R67) -/

/-- With a thread of the context on the core and nothing to claim there, only the room for the crew is looked for. -/
theorem placeItem_fresh {core n idx t : Nat} {l : Machine.Launch} {th : Thread} (ht : s.threadOf core l.ctx = some t) (hth : s.thread? t = some th)
    (hg : th.gated = false) (hc : s.gatedOn core = []) (hu : s.storeUsed core ≤ 262144) :
    s.placeItem core n l (.fresh idx) = (s.roomFor core l.need).map fun r => s.admitNew core n l idx r := by
  have hw : s.bufferWords core core l.ctx = 0 := by rw [State.bufferWords, ht]; rfl
  have hneed : s.itemNeed l core (.fresh idx) = l.need := by
    rw [State.itemNeed, hw]
    rfl
  have hroom : s.threadRoom core l.need.ctx = some s := by
    have ht' : s.threadOf core l.need.ctx = some t := ht
    simp only [State.threadRoom, ht', hth, hg, Bool.false_and, Bool.false_eq_true, if_false]
  have hmake : s.makeRoom core l.need.words s.store.length = some s := by
    have hu' : s.storeUsed core + l.need.words ≤ 262144 := hu
    cases s.store.length <;> exact if_pos hu'
  simp only [State.placeItem, hneed, hc, State.claimFor, hroom, hmake]
  cases s.roomFor core l.need <;> rfl

end Sys2Proof.Claims.Rooms

/-! A new crew on its core, and the commit of a DETERM launch's head crew (R32, R62, R67, R71, R72, R156, R160). -/
namespace Sys2Proof.Claims.Admits
open Sys2Proof.Machine Sys2Proof.Claims.Traces
-- One proof at a time: the text is compiled as one file, whose memory parallel elaboration would exceed.
set_option Elab.async false

/-! ### What the entry of a group and the trace leave alone -/

/-- What a group has from its crew's launch: names, role, registers and lanes. -/
def identity (gr : Machine.Group) := (gr.crew, gr.ctx, gr.gidx, gr.role, gr.regs, gr.lanes, gr.s)

/-- Launches and crews are those of o, and so is what each group has from its launch. -/
structure StaysIn (o : Machine.State) (launches : Tab Machine.Launch) (crews : Tab Crew) (nextCrew : Nat) (groups : Tab Machine.Group) : Prop where
  launches : launches = o.launches
  crews    : crews = o.crews
  next     : nextCrew = o.nextCrew
  groups   : ∀ g, (tget groups g).map identity = (o.group? g).map identity

def Stays (o s : Machine.State) : Prop := StaysIn o s.launches s.crews s.nextCrew s.groups

theorem stays_refl (o : Machine.State) : Stays o o := ⟨rfl, rfl, rfl, fun _ => rfl⟩

section
variable {o s : Machine.State}

theorem Stays.trans {t : Machine.State} (h : Stays o s) (h' : Stays s t) : Stays o t :=
  ⟨h'.launches.trans h.launches, h'.crews.trans h.crews, h'.next.trans h.next, fun g => (h'.groups g).trans (h.groups g)⟩

/-- What leaves all but traces as it was. -/
theorem Stays.of_traced {t : Machine.State} (h : Traced s t) : Stays s t := by
  obtain ⟨ho, hg, -⟩ := h
  refine ⟨congrArg (·.launches) ho, congrArg (·.crews) ho, congrArg (·.nextCrew) ho, fun g => ?_⟩
  have h2 := congrArg (Option.map identity) (hg g)
  rwa [Option.map_map, Option.map_map] at h2

theorem Stays.foldl {α : Type} {f : Machine.State → α → Machine.State} (hf : ∀ s x, Stays o s → Stays o (f s x)) :
    ∀ (l : List α) {s : Machine.State}, Stays o s → Stays o (l.foldl f s)
  | [], _, h => h
  | x :: l, s, h => Stays.foldl hf l (hf s x h)

variable (h : Stays o s)
include h

theorem stays_modGroup (g : Nat) {f : Machine.Group → Machine.Group} (hf : ∀ x, identity (f x) = identity x) : Stays o (s.modGroup g f) :=
  ⟨h.launches, h.crews, h.next, fun n => (group_map_modGroup s g hf n).trans (h.groups n)⟩

theorem stays_notifyBy (core ctx : Nat) (by_ : Option Nat) (ws : List DWord) : Stays o (s.notifyBy core ctx by_ ws) := by
  unfold State.notifyBy
  split <;> exact h

theorem stays_tracePkt (g type station pass w0 : Nat) (rest : List DWord) : Stays o (s.tracePkt g type station pass w0 rest) := by
  unfold State.tracePkt
  split
  · exact h
  · split
    · exact h.trans (.of_traced (traced_packet (traced_refl s) ..))
    · exact h

theorem stays_traceSync (g : Nat) : Stays o (s.traceSync g) := by
  unfold State.traceSync
  split
  · exact h
  · split
    · exact h
    · exact stays_tracePkt h ..

theorem stays_traceEntry (g : Nat) (first : Bool) : Stays o (s.traceEntry g first) := by
  unfold State.traceEntry
  split
  · exact h
  · split
    · exact stays_traceSync h g
    · split <;> exact stays_tracePkt h ..

theorem stays_codeFor {core ctx codeid kernel num : Nat} {r : Machine.State × Nat × List Word}
    (hr : s.codeFor core ctx codeid kernel num = some r) : Stays o r.1 := by
  unfold State.codeFor at hr
  dsimp only at hr
  split at hr
  · cases hr
    exact h
  · split at hr
    · cases hr
    · split at hr
      · cases hr
      next t hm =>
        cases hr
        have h1 : Stays o t := by
          rw [Waits.makeRoom_eq hm]
          exact h
        exact h1

theorem stays_askCode (g : Nat) (pmes : List Nat) : Stays o (s.askCode g pmes) := by
  unfold State.askCode
  split
  · exact h
  · refine Stays.foldl (fun s p h => ?_) pmes h
    unfold State.joinEntry
    split
    · exact h
    · dsimp only
      split <;> exact h

theorem stays_enter (g : Nat) (x : Sta) : Stays o (s.enter g x) := by
  unfold State.enter
  split
  · exact h
  · dsimp only
    split
    · refine stays_notifyBy (stays_traceEntry (stays_modGroup h g ?_) ..) ..
      exact fun _ => rfl
    · refine stays_traceEntry (stays_modGroup h g ?_) ..
      exact fun _ => rfl
    · have h0 := stays_modGroup h g (f := fun gr => { gr with copy := none }) fun _ => rfl
      split
      next hc =>
        refine stays_traceEntry (stays_modGroup (stays_codeFor h0 hc) g ?_) ..
        exact fun _ => rfl
      next =>
        refine stays_askCode (stays_modGroup h0 g ?_) ..
        exact fun _ => rfl

theorem stays_startGroup (entry : Nat) (traced : Bool) (g : Nat) : Stays o (s.startGroup entry traced g) := by
  unfold State.startGroup
  split
  · exact h
  · dsimp only
    refine stays_traceSync (stays_modGroup ?_ g ?_) g
    · split
      · exact h
      · exact stays_enter h ..
    · exact fun _ => rfl

/-- A thread of the context is on the core: it goes on where it was gated. -/
theorem stays_bringThread {core ctx t : Nat} (ht : s.threadOf core ctx = some t) (compose : Option Nat) :
    Stays o (s.bringThread core core ctx compose) := by
  simp only [State.bringThread, ht, State.freeLeft, decide_true, Bool.true_or, if_true, State.ungateThread]
  exact h

end

/-! ### Groups enter their slots (R62, R72, R111) -/

section
variable {s : Machine.State} {core crew : Nat} {l : Machine.Launch} {entry : Nat}

/-- What a group of a launch has at its start. -/
def fresh (l : Machine.Launch) (crew i entry : Nat) := identity (newGroup l 0 crew 0 i 0 entry)

theorem addGroups_rest (rs : List (Nat × Nat)) : ∀ s : Machine.State, (s.addGroups core crew l entry rs).launches = s.launches ∧
    (s.addGroups core crew l entry rs).crews = s.crews ∧ (s.addGroups core crew l entry rs).nextCrew = s.nextCrew := by
  induction rs with
  | nil => exact fun _ => ⟨rfl, rfl, rfl⟩
  | cons r rs ih => exact fun s => ih _

/-- A group that no slot of the list holds stays as it is. -/
theorem addGroups_other {g : Nat} (rs : List (Nat × Nat)) : (∀ x ∈ rs, groupRef core x.1 ≠ g) → ∀ s : Machine.State,
    (s.addGroups core crew l entry rs).group? g = s.group? g := by
  induction rs with
  | nil => exact fun _ _ => rfl
  | cons r rs ih =>
    intro h s
    refine (ih (fun x hx => h x (List.mem_cons_of_mem _ hx)) _).trans ?_
    exact (tget_tset ..).trans (if_neg fun he => h r (List.mem_cons_self ..) he.symm)

theorem groupRef_inj {a b : Nat} (h : groupRef core a = groupRef core b) : a = b := Nat.add_left_cancel h

/-- Each slot of the list holds its group. -/
theorem addGroups_new (rs : List (Nat × Nat)) : (rs.map Prod.fst).Nodup → ∀ (s : Machine.State), ∀ x ∈ rs,
    ((s.addGroups core crew l entry rs).group? (groupRef core x.1)).map identity = some (fresh l crew x.2 entry) := by
  induction rs with
  | nil => exact fun _ _ _ hx => nomatch hx
  | cons r rs ih =>
    intro hd s x hx
    rw [List.map_cons, List.nodup_cons] at hd
    rcases List.mem_cons.1 hx with rfl | hx
    · have hout : ∀ y ∈ rs, groupRef core y.1 ≠ groupRef core x.1 := fun y hy he =>
        hd.1 (groupRef_inj he ▸ List.mem_map_of_mem hy)
      have hrest := addGroups_other (crew := crew) (l := l) (entry := entry) rs hout
      refine (congrArg (Option.map identity) (hrest _)).trans ?_
      exact (congrArg (Option.map identity) (tget_tset_same ..)).trans rfl
    · exact ih hd.2 _ x hx

end

/-! ### Admission (R62, R67, R71) -/

section
variable {s : Machine.State} {core n idx t : Nat} {l : Machine.Launch} {r : Room} {k : Kernel} {c : Machine.Context}

/-- The crew as it is admitted. -/
def newCrew (s : Machine.State) (core n idx : Nat) (l : Machine.Launch) (r : Room) (c : Machine.Context) : Crew :=
  { launch := n, ctx := l.ctx, idx := idx, core := core, groups := r.slots.map (groupRef core), tile0 := r.tile0
    tiles := List.replicate l.tilesField Tile.zero, acc0 := r.acc0, accs := List.replicate l.accsField Accum.zero
    spad := r.spad, spadLen := l.spadLen, dbufLen := l.dbufLen, dbuf := [], halt := none, gated := false
    admitted := s.clock, trace := c.trace, out := Parts.none }

/-- The thread stands, the scratchpad is clear, and the crew is on its core. -/
def crewOn (s : Machine.State) (core n idx : Nat) (l : Machine.Launch) (r : Room) (k : Kernel) (c : Machine.Context) : Machine.State :=
  let s1 := (s.bringThread core core l.ctx k.compose).zeroRange (sramBase + r.spad) (l.spadLen + l.dbufLen)
  { s1 with crews := tset s1.crews s.nextCrew (newCrew s core n idx l r c), nextCrew := s.nextCrew + 1 }

/-- The launch has another crew placed. -/
def placed (l : Machine.Launch) (idx : Nat) : Machine.Launch := { l with next := idx + 1, phase := if idx + 1 < l.crews then .placing else .running }

/-- Its groups are in their slots, and the launch knows. -/
def groupsIn (s : Machine.State) (core n idx : Nat) (l : Machine.Launch) (r : Room) (k : Kernel) (c : Machine.Context) : Machine.State :=
  ((crewOn s core n idx l r k c).addGroups core s.nextCrew (s.readCaps l) k.entry r.slots.zipIdx).modLaunch n
    fun x => { x with next := idx + 1, phase := if idx + 1 < l.crews then .placing else .running }

theorem admitNew_stays (hk : s.kernelOf l.ctx l.codeid l.kernel = some k) (hc : s.ctx? l.ctx = some c) :
    Stays (groupsIn s core n idx l r k c) (s.admitNew core n l idx r) := by
  simp only [State.admitNew, hk, hc]
  refine stays_notifyBy ?_ core l.ctx none _
  exact Stays.foldl (f := fun s g => s.startGroup k.entry (l.traces && c.trace.isSome) g) (fun _ g h => stays_startGroup h ..) _
    (stays_refl (groupsIn s core n idx l r k c))

theorem groupsIn_rest (ht : s.threadOf core l.ctx = some t) (hl : s.launch? n = some l) :
    (groupsIn s core n idx l r k c).launch? n = some (placed l idx) ∧
    (groupsIn s core n idx l r k c).crew? s.nextCrew = some (newCrew s core n idx l r c) ∧
    (groupsIn s core n idx l r k c).nextCrew = s.nextCrew + 1 := by
  have hb := stays_bringThread (stays_refl s) ht k.compose
  obtain ⟨h1, h2, h3⟩ := addGroups_rest (core := core) (crew := s.nextCrew) (entry := k.entry) r.slots.zipIdx (crewOn s core n idx l r k c) (l := s.readCaps l)
  refine ⟨(tget_tmod_same ..).trans ?_, (congrArg (tget · s.nextCrew) h2).trans (tget_tset_same ..), h3⟩
  have hl' : tget (crewOn s core n idx l r k c).launches n = some l := (congrArg (tget · n) hb.launches).trans hl
  rw [h1, hl']
  rfl

theorem groupsIn_group (hd : r.slots.Nodup) {i slot : Nat} (hi : r.slots[i]? = some slot) :
    ((groupsIn s core n idx l r k c).group? (groupRef core slot)).map identity = some (fresh l s.nextCrew i k.entry) := by
  have hx : (slot, i) ∈ r.slots.zipIdx := List.mem_zipIdx_iff_getElem?.2 hi
  have hd' : (r.slots.zipIdx.map Prod.fst).Nodup := by rwa [List.zipIdx_map_fst]
  exact addGroups_new r.slots.zipIdx hd' (crewOn s core n idx l r k c) (slot, i) hx

/-- A new crew on its core. -/
theorem admitNew_admits (ht : s.threadOf core l.ctx = some t) (hl : s.launch? n = some l)
    (hk : s.kernelOf l.ctx l.codeid l.kernel = some k) (hc : s.ctx? l.ctx = some c) (hd : r.slots.Nodup) :
    let v := s.admitNew core n l idx r
    v.nextCrew = s.nextCrew + 1 ∧ v.launch? n = some (placed l idx) ∧ v.crew? s.nextCrew = some (newCrew s core n idx l r c) ∧
      ∀ i slot, r.slots[i]? = some slot → ∃ y, v.group? (groupRef core slot) = some y ∧ identity y = fresh l s.nextCrew i k.entry := by
  intro v
  have hv : Stays (groupsIn s core n idx l r k c) v := admitNew_stays hk hc
  obtain ⟨h1, h2, h3⟩ := groupsIn_rest (idx := idx) (r := r) (k := k) (c := c) ht hl
  refine ⟨hv.next.trans h3, (congrArg (tget · n) hv.launches).trans h1, (congrArg (tget · s.nextCrew) hv.crews).trans h2, fun i slot hi => ?_⟩
  exact Option.map_eq_some_iff.1 ((hv.groups (groupRef core slot)).trans (groupsIn_group hd hi))

end

/-! ### The serial phase (R156, R160) -/

section
variable {s : Machine.State}

theorem launches_keepOwner (n : Nat) (l : Machine.Launch) (idx line : Nat) (write shared outside : Bool) :
    (s.keepOwner n l idx line write shared outside).launches = s.launches := by
  have ha : (s.allocTag line).launches = s.launches := by
    unfold State.allocTag
    split
    · rfl
    · rfl
    · split
      · rfl
      · split
        · rfl
        next k c _ =>
          generalize s.claimants c ++ s.ownersOn k = ns
          generalize hu : ({ s with claims := tdel s.claims k, owners := s.owners.filter fun (x, _) => x / 2 ^ 64 != k } : Machine.State) = u
          have hl : u.launches = s.launches := hu ▸ rfl
          rw [← hl]
          clear hu hl
          induction ns generalizing u with
          | nil => rfl
          | cons m ns ih => exact (ih _).trans rfl
  unfold State.keepOwner
  dsimp only
  split
  · rfl
  · split
    · exact ha
    · exact ha

theorem launches_startHalt (k g : Nat) (t : Trap) (dbg : Bool) : (s.startHalt k g t dbg).launches = s.launches := by
  unfold State.startHalt
  split
  · rfl
  · split <;> rfl

theorem launches_refuseWord (k : Nat) (e : DEntry) (fs : List Fail) : (s.refuseWord k e fs).launches = s.launches := by
  unfold State.refuseWord
  dsimp only
  split
  · rfl
  · unfold State.takeTrap
    split
    · rfl
    · dsimp only
      split
      · exact launches_startHalt ..
      · rfl
  · unfold State.crewTrap
    split
    · rfl
    · split
      · unfold State.notify State.notifyBy
        split <;> rfl
      · exact launches_startHalt ..

theorem launches_performEntries (core : Nat) (es : List DEntry) : (s.performEntries core es).launches = s.launches := by
  have hw : ∀ c ws, (s.runsWrite c core ws).launches = s.launches := fun c ws => by
    obtain ⟨r, hr⟩ := Ports.runsWrite_toDev s c core ws
    exact (congrArg Dev.launches hr).trans rfl
  unfold State.performEntries
  split
  · rfl
  · dsimp only
    split
    · exact hw ..
    · split <;> exact hw ..

/-- A serial phase changes no launch. -/
theorem launches_serialPhase (k : Nat) (c : Crew) (l : Machine.Launch) (es : List (List DEntry)) :
    ∀ (bad : List (DEntry × Fail)) (s : Machine.State), (s.serialPhase k c l bad es).launches = s.launches := by
  induction es with
  | nil =>
    intro bad s
    unfold State.serialPhase
    generalize hu : (s.modCrew k fun x => { x with dbuf := [] }) = u
    have hl : u.launches = s.launches := hu ▸ rfl
    rw [← hl]
    clear hu hl
    induction byWord bad generalizing u with
    | nil => rfl
    | cons x r ih => exact (ih _).trans (launches_refuseWord ..)
  | cons e r ih =>
    intro bad s
    cases e with
    | nil => exact ih bad s
    | cons e es =>
      unfold State.serialPhase
      split
      · exact ih ..
      · refine (ih ..).trans ?_
        split
        · exact launches_performEntries ..
        · exact (launches_keepOwner ..).trans (launches_performEntries ..)

theorem launches_nextSerial (n : Nat) (l : Machine.Launch) : (Completes.nextSerial s n l).launches = s.launches := by
  unfold Completes.nextSerial
  split
  · rfl
  · exact launches_serialPhase ..

theorem clock_nextSerial (n : Nat) (l : Machine.Launch) : (Completes.nextSerial s n l).clock = s.clock := by
  unfold Completes.nextSerial
  split
  · rfl
  · exact (Kept.keeps_serialPhase _ _ _ _ _ (Kept.keeps_refl s)).clock

/-- The head crew commits: its launch counts it. -/
theorem crewCommit_counts {n k : Nat} {l : Machine.Launch} {c : Crew} (hl : s.launch? n = some l) (h : s.commitDue n l = true)
    (hk : s.crewAt n l.head = some (k, c)) (hb : (s.nextBuffer n (l.head + 1)).findSome? (fun e => s.rangeBank e.addr e.size) = none) :
    ∃ t, exec (.crewCommit n) s = .next t ∧ t.launch? n = some { l with head := l.head + 1 } ∧ t.clock = s.clock := by
  have hl' : (Completes.committed s n k).launch? n = some { l with head := l.head + 1 } :=
    (tget_tmod_same ..).trans (congrArg (Option.map _) hl)
  refine ⟨_, Completes.crewCommit_runs hl h hk hb, ?_, ?_⟩
  · exact (congrArg (tget · n) (launches_nextSerial ..)).trans hl'
  · exact clock_nextSerial (s := Completes.committed s n k) ..

end

/-! ### The launch port before READY, and the slots (R63, R445) -/

theorem slots_closed {s : Machine.State} {slot : Nat} {ws : List DWord} (v : DWord) (hs : slot < 64) (hw : ws.length = 8) (hr : s.ready = false) :
    exec (.launchFirstHalf slot ws) s = .next s ∧ exec (.launchSecondHalf slot ws) s = .next s ∧ exec (.launchSlotStatusWrite slot v) s = .next s := by
  have hok : halfOk slot ws = true := decide_eq_true ⟨hs, hw⟩
  refine ⟨?_, ?_, ?_⟩
  · show execLaunchFirstHalf slot ws s = _
    simp only [execLaunchFirstHalf, hok, hr, Bool.not_true, Bool.not_false, Bool.false_eq_true, if_false, if_true]
  · show execLaunchSecondHalf slot ws s = _
    simp only [execLaunchSecondHalf, hok, hr, Bool.not_true, Bool.not_false, Bool.false_eq_true, if_false, if_true]
  · show execLaunchSlotStatusWrite slot v s = _
    simp only [execLaunchSlotStatusWrite, if_neg (Nat.not_le.2 hs), hr, Bool.not_false, if_true]

theorem takeFirst_eq (x : PortSlot) (ws : List DWord) :
    x.takeFirst ws = if x.record ≠ none then { x with drop := true } else { x with first := some ws } := by
  unfold PortSlot.takeFirst PortSlot.busy
  cases x.record <;> rfl

theorem takeSecond_eq (x : PortSlot) (ws : List DWord) : x.takeSecond ws = if x.record ≠ none then { x with drop := true }
    else match x.first with
      | none => { x with noHalf := true }
      | some f => { x with first := none, record := some (f ++ ws) } := by
  unfold PortSlot.takeSecond PortSlot.busy
  cases x.record <;> rfl

end Sys2Proof.Claims.Admits

open Sys2Proof Sys2Proof.Claims Sys2Proof.Claims.Completes Sys2Proof.Claims.Rooms Sys2Proof.Claims.Admits

/-- Settles O47: the port's slots and records, placement's decision for the first launch, the room that a core has, a new crew with its
groups, and the commit of a head crew. -/
theorem launchSteps : Obligations.LaunchSteps := by
  intro s
  refine ⟨fun slot ws hs hw hr => ⟨?_, ?_, fun v => slotStatus_runs hs v hr⟩, fun slot ws v => slots_closed v, fun off bs => registerWriteIgnored_runs,
    ?_, fun n th r q => launchValidate_device, fun n t => admitted_calm,
    fun n l ho hl hc ht hg hr hn => ⟨fun c v => crewAdmit_places ho hl hc ht hg hr hn, crewAdmit_reserves ho hl hc ht hg hr hn⟩,
    roomFor_isSome, fun core n l idx t th ht hth hg hgo hu => ⟨fun hr => ?_, fun r k c hr hk hc hl => ?_⟩,
    fun n l hl => ⟨fun h0 h1 h2 h3 => launchClassRise_runs hl ?_, launchComplete_runs hl, fun k c => crewCommit_counts hl⟩⟩
  · exact (slotHalves_run hs hw hr).1.trans (by rw [takeFirst_eq]; rfl)
  · exact (slotHalves_run hs hw hr).2.trans (by rw [takeSecond_eq]; rfl)
  · intro n x r hx hr l ha hb
    have hslot : s.slot n = x := by rw [Machine.State.slot, hx]; rfl
    have h := launchValidate_port (s := s) (n := n) (hslot.symm ▸ hr) ha hb
    rw [hslot] at h
    exact h
  · rw [placeItem_fresh ht hth hg hgo hu, hr]
    rfl
  · obtain ⟨hlen, hnd⟩ := roomFor_slots hr
    obtain ⟨h1, h2, h3, h4⟩ := admitNew_admits (idx := idx) ht hl hk hc hnd
    refine ⟨_, (placeItem_fresh ht hth hg hgo hu).trans (by rw [hr]; rfl), h1, h2, h3, hlen, fun i slot hi => ?_⟩
    obtain ⟨y, hy, he⟩ := h4 i slot hi
    simp only [identity, fresh, Prod.mk.injEq] at he
    obtain ⟨e1, e2, e3, e4, e5, e6, e7⟩ := he
    exact ⟨y, hy, e1, e2, e3, e4, e5, e6, e7⟩
  · simp only [Machine.State.riseDue, h0, h1, beq_self_eq_true, Bool.and_self, Bool.true_and, decide_eq_true_eq]
    exact ⟨h2, h3⟩
